-- ==== Sys2Proof/Word.lean ====
section
/-! DEFINITION. The word types of the block: a register is 32 bits wide, memory is addressed by the byte. -/

namespace Sys2Proof

/-- A 32-bit register or operand word (00 R13; every register table). -/
abbrev Word := BitVec 32

/-- A byte of 8 bits (00 R9). -/
abbrev Byte := BitVec 8

/-- A 64-bit value: the time counter, table entries, keys (00 R7). -/
abbrev DWord := BitVec 64

end Sys2Proof
end

