-- ==== Sys2Proof/Syntax.lean ====
section
/-! DEFINITION. The commands the block takes: one constructor of `Instr` for each row of spec/opcode_table.json, with
the operands the chapters give the row. The table gives no bits (opcode_table.json, every "fields" is empty), so the
operands are values, and their widths are those of the chapters' own formats. -/

namespace Sys2Proof

/-- A counter C0 to C7 (06 R179). -/
abbrev Ctr := Fin 8
/-- A predicate P0 to P7; P0 is always true (06 R178). -/
abbrev PReg := Fin 8
/-- A vector register V0 to V31 (04 R107). -/
abbrev VReg := Fin 32
/-- A scoreboard sb0 to sb15 (08 R221). -/
abbrev Sb := Fin 16
/-- A send or receive stream of a core (06 R191). -/
abbrev Strm := Fin 64

/-- The five engines of a core, in the order of the queue registers (06 R175, R198). -/
inductive Engine where
  | me | ve | dm | lp | se
  deriving DecidableEq, Repr

/-- A predicate source: a predicate P0 to P7, or a comparator K0 to K3 (06 R178, R180). -/
inductive PSrc where
  | p (n : PReg)
  | k (n : Fin 4)
  deriving DecidableEq, Repr

/-- The predicate of a command: a source, taken or negated (06 R178). -/
structure Pred where
  src : PSrc
  neg : Bool
  deriving DecidableEq, Repr

/-- What every command of a stream carries (06 R169, R174, R178; 08 R221, R222, R228): its core, its predicate, its size
in narrow words, the scoreboard it marks, the scoreboard it waits for, `.ord`; and `now`, the model's own: whether its
engine issues it in the same step when its queue was empty and it may issue (log entry 6). -/
structure Hdr where
  core  : Nat
  pred  : Option Pred
  words : Nat
  mark  : Option Sb
  after : Option Sb
  ord   : Bool
  now   : Bool
  deriving DecidableEq, Repr

/-- A scalar operand: an immediate or a counter C0 to C7 (06 R174, R179). -/
inductive Opnd where
  | imm (w : Word)
  | ctr (n : Ctr)
  deriving DecidableEq, Repr

/-- The sources of `sq.rd` (06 R179). -/
inductive RdSrc where
  | bnoLo | bnoHi | coreX | coreY | coreIdx | part
  | lidx (l : Fin 4)
  deriving DecidableEq, Repr

/-- The comparison operators of `sq.cmp` and `sq.kset` (06 R180). -/
inductive CmpOp where
  | eq | ne | lt | le | gt | ge | ltu | leu | gtu | geu | snlt | sngt
  deriving DecidableEq, Repr

/-- The size of a narrow load or store: 1, 2 or 4 bytes (06 R186). -/
inductive Size where
  | b | h | w
  deriving DecidableEq, Repr

/-- A rounding mode (02 R46). -/
inductive Rnd where
  | rne | rtz | sr
  deriving DecidableEq, Repr

/-- The element formats of the matrix and vector engines (02 R36, R40; 03 R69). -/
inductive Fmt where
  | int4 | int8 | int16 | int32
  | fp4 | mxfp4 | e4m3 | e5m2 | mxe4m3 | mxe5m2
  | bf16 | fp16 | fp32 | cbf16
  deriving DecidableEq, Repr

/-- The operands of `mx.load.w` (03 R80): the buffer, the format, source address, stride, rows, columns, scales. -/
structure MxLoad where
  wbuf   : Fin 2
  fmt    : Fmt
  src    : Nat
  stride : Nat
  kb     : Nat
  nb     : Nat
  scl    : Option Nat
  deriving DecidableEq, Repr

/-- The operands of `mx.run.ws` (03 R80): the formats of A and B, the pass, `.gauss`, `.acc` or `.clr`, the half and its
first row, the buffer, A's address and stride, tokens, columns, A's scales. -/
structure MxWs where
  fa     : Fmt
  fb     : Fmt
  pass   : Option Nat
  gauss  : Bool
  acc    : Bool
  half   : Fin 2
  q      : Nat
  wbuf   : Fin 2
  src    : Nat
  stride : Nat
  m      : Opnd
  n      : Nat
  scl    : Option Nat
  deriving DecidableEq, Repr

/-- The operands of `mx.run.os` (03 R80). -/
structure MxOs where
  fa      : Fmt
  fb      : Fmt
  pass    : Option Nat
  acc     : Bool
  half    : Fin 2
  q       : Nat
  srca    : Nat
  stridea : Nat
  srcb    : Nat
  strideb : Nat
  k       : Nat
  m       : Nat
  n       : Nat
  scla    : Option Nat
  sclb    : Option Nat
  deriving DecidableEq, Repr

/-- A slice stream of the vector engine (04 R110): format, rounding and overflow modifiers where written (`sat` true for
`.sat`, false for `.ieee`), `.blk.col`, `.digN`, address, stride and scale address. -/
structure SlcStream where
  fmt    : Fmt
  rm     : Option Rnd
  sat    : Option Bool
  blkCol : Bool
  dig    : Option (Fin 8)
  addr   : Nat
  stride : Nat
  scl    : Option Nat
  deriving DecidableEq, Repr

/-- An operand of a vector-engine command (04 R110). `mods` of an ACB stream says that a format, rounding or overflow
modifier, `.digN` or `.blk.col` is written on it, which is VE_FORMAT (04 R139). -/
inductive VOp where
  | none
  | slc (t : SlcStream)
  | acb (half : Fin 2) (q : Nat) (c1 : Bool) (mods : Bool)
  | bc (n : VReg)
  | rs (n : VReg)
  | v (n : VReg)
  | scalar (o : Opnd)
  deriving DecidableEq, Repr

/-- The mask of a vector-engine command (04 R113). -/
inductive VMask where
  | none
  | len (o : Opnd)
  | lenRs (n : VReg)
  | bm (addr stride : Nat)
  | nz (n : VReg)
  deriving DecidableEq, Repr

/-- The operands of `vx.run` (04 R122). -/
structure VxRun where
  x    : Fin 8
  mz   : Bool
  prog : Fin 64
  rows : Opnd
  in0  : VOp
  in1  : VOp
  in2  : VOp
  in3  : VOp
  out0 : VOp
  out1 : VOp
  mask : VMask
  deriving DecidableEq, Repr

/-- The operations of a reduction (04 R128). -/
inductive RedOp where
  | sum | max | min | argmax | argmin | mean
  deriving DecidableEq, Repr

/-- The operands of `vx.red` (04 R128): `f32` is the type, `lane` the `.lane` form. -/
structure VxRed where
  op   : RedOp
  f32  : Bool
  lane : Bool
  acc  : Bool
  vd   : VReg
  src  : VOp
  rows : Opnd
  mask : VMask
  vf   : Option VReg
  vc   : Option VReg
  deriving DecidableEq, Repr

/-- The operations of a scan (04 R131). -/
inductive ScanOp where
  | sum | max | min
  deriving DecidableEq, Repr

/-- The operands of `vx.scan` (04 R131). -/
structure VxScan where
  op   : ScanOp
  f32  : Bool
  lane : Bool
  excl : Bool
  dst  : VOp
  src  : VOp
  rows : Opnd
  mask : VMask
  deriving DecidableEq, Repr

/-- The flag add of `lp.arm` (06 R191): the flag and n. -/
structure FlagAdd where
  f : Opnd
  n : Opnd
  deriving DecidableEq, Repr

/-- The queues a `se.fence.q` names (08 R241). -/
structure FenceMask where
  me : Bool
  ve : Bool
  dm : Bool
  lp : Bool
  sq : Bool
  deriving DecidableEq, Repr

/-- A direction of a lattice switch: four links and the local port (09 R252). -/
inductive Dir where
  | n | e | s | w | l
  deriving DecidableEq, Repr

/-- Bits of stored granules that the environment has flipped when an access reads them (05 R149): the granule's physical
local address, and whether the syndrome is correctable. -/
structure Upset where
  addr        : Nat
  correctable : Bool
  deriving DecidableEq, Repr

/-- A flit from a leg (09 R255, R262): the leg, and the granules of the flit in which bits have been flipped. -/
structure LegFlit where
  leg   : Fin 32
  upset : List Upset
  deriving DecidableEq, Repr

/-- One tc of a flag bank (08 R232, R234): the bank, and which of the operations in flight, by number, arrive there in it. -/
structure FlagTick where
  bank   : Fin 16
  arrive : List Nat
  deriving DecidableEq, Repr

/-- A requester of a bank port, in the order of 05 R163 and R165. -/
inductive BankUser where
  | lpDeposit | lpSend | me | ve | dm | sq | pg | rl0 | rl1 | host | scrub
  deriving DecidableEq, Repr

/-- Where a host access comes from, as the change log names it (16 R466): the interface, 1 or 2 for a PCT network, 3 for JTAG, the
PCT source address and UDP port, the session. -/
structure HostFrom where
  iface : Nat
  src   : List Byte
  port  : Nat
  sess  : Nat
  deriving DecidableEq, Repr

/-- Of an access that no host makes. -/
def HostFrom.none : HostFrom := ⟨0, [], 0, 0xFFFF⟩

/-- An access presented to a bank (05 R145, R148, R154, R156): who asks, a read or a write, the narrow form, the address of
the word (a program address but for `host`, whose is physical), the world that the I/O ring gives a host access, the granules
enabled, for a write the bytes, each with the nibbles of it that are not masked (bit 0 the low one), and of a host access where it
comes from. -/
structure BankReq where
  user   : BankUser
  wr     : Bool
  narrow : Bool
  addr   : Nat
  secure : Bool
  en     : List Bool
  data   : List (Byte × BitVec 2)
  host   : HostFrom
  deriving DecidableEq, Repr

/-- A bit error on the way of a drift packet (09 R272, R273): in the header or the payload, correctable or not. -/
structure DriftUpset where
  header      : Bool
  correctable : Bool
  input       : Fin 5
  deriving DecidableEq, Repr


/-! ### The tether (10) -/

/-- A cell of the tether: class, source, destination, ARG (header bits [55:24]), VALID, payload (10 R282, R283). -/
structure Cell where
  cls     : Nat
  src     : Nat
  dst     : Nat
  arg     : Word
  valid   : Nat
  payload : List Byte
  deriving DecidableEq, Repr

/-- A cell as a port receives it: the port, the arrival slot of the beat it belongs to, whether no codeword it lies in was
uncorrectable, how many codewords that end in the slot were corrected and how many were uncorrectable (10 R278), the cell, and
its HCHK field (R284). -/
structure CellIn where
  port : Fin 8
  slot : Nat
  fec  : Bool
  ce   : Nat
  ue   : Nat
  cell : Cell
  hchk : BitVec 6
  deriving DecidableEq, Repr

/-- The frame header of an alignment block (10 R277): the frame counter, the sending chip and port, the flight tag, the link
state. -/
structure AlignBlock where
  frame : BitVec 48
  chip : Nat
  port : Nat
  tag  : Nat
  link : BitVec 8
  deriving DecidableEq, Repr

/-- The payload of a READY (10 R301): the chip IDs of the sender's subtree, their count, the compatibility level,
BEAT_LEN. -/
structure ReadyMsg where
  chips   : List Nat
  count   : Nat
  level   : Nat
  beatLen : Nat
  deriving DecidableEq, Repr

/-! ### Ethernet (15) -/

/-- A received RoCEv2 packet (15 R425): its port, the VLAN of its tag where it has one (15 R422), the queue pair it names, its PSN, its data, whether its ICRC holds, whether CE is
set. -/
structure RocePkt where
  ep   : Fin 8
  vlan : Option Nat
  qp   : Nat
  psn  : Nat
  data : List Byte
  icrc : Bool
  ce   : Bool
  deriving DecidableEq, Repr

/-- The syndrome of an Acknowledge (15 R426). -/
inductive AckSyn where
  | ack | nakSeq | nakOther
  deriving DecidableEq, Repr

/-- An IPv6 neighbour solicitation or an IPv4 ARP request (15 R423): the port, the VLAN of its tag, the family, the address
asked for. -/
structure NeighbourQuery where
  ep     : Fin 8
  vlan   : Option Nat
  v6     : Bool
  target : List Byte
  deriving DecidableEq, Repr

/-- An ICMPv6 or ICMP echo request (15 R423): the port, the VLAN of its tag, the family, the source, the destination, the
data. -/
structure EchoQuery where
  ep   : Fin 8
  vlan : Option Nat
  v6   : Bool
  src  : List Byte
  dst  : List Byte
  data : List Byte
  deriving DecidableEq, Repr

/-- The header of a PCT message with its datagram (15 R428, R430, R433): the port it arrived on, the VLAN of its tag where it has one (15 R422), source
address and UDP port, destination UDP port, UDP length, and the header fields. -/
structure PctHdr where
  ep      : Fin 8
  vlan    : Option Nat
  src     : List Byte
  port    : Nat
  dport   : Nat
  udpLen  : Nat
  magic   : Nat
  ver     : Nat
  kind    : Nat
  syn     : Bool
  more    : Bool
  retry   : Bool
  len     : Nat
  session : Word
  seq     : Word
  ack     : Word
  deriving DecidableEq, Repr

/-- The kinds of message that a host sends (15 R429). -/
def hostKind (k : Nat) : Bool := decide (k = 1 ∨ k = 3 ∨ k = 5 ∨ k = 7 ∨ k = 8)

/-- The command header (15 R433) without its OP, which the row gives. A message that continues a command has none: its data alone
count. -/
structure CmdHdr where
  target : Nat
  tag    : Word
  entry  : Nat
  count  : Nat
  deriving DecidableEq, Repr

/-- The body of a SUBMIT (15 R433); `words` are the prefix page IDs, then the tokens. -/
structure SubmitBody where
  client    : Nat
  prio      : Nat
  keep      : Bool
  nowait    : Bool
  topkEn    : Bool
  bidir     : Bool
  noattend  : Bool
  maxNew    : Nat
  deadline  : DWord
  seed      : DWord
  key       : DWord
  temp      : BitVec 16
  topP      : BitVec 16
  topK      : BitVec 8
  spec      : Nat
  npages    : Nat
  prefixLen : Nat
  words     : List Word
  deriving DecidableEq, Repr

/-- A draft step: a token and its probability q as FP32 (13 R378). -/
structure DraftStep where
  tok : Word
  q   : Word
  deriving DecidableEq, Repr

/-- The body of PART_CREATE (15 R434). -/
structure CreateBody where
  x0        : Nat
  y0        : Nat
  w         : Nat
  h         : Nat
  nonSecure : Bool
  alloc     : Nat
  deriving DecidableEq, Repr

/-- A member record of a group plan: its chip, its partition, its window assignments (15 R434). -/
structure Member where
  chip : Nat
  part : Nat
  rwin : List Nat
  deriving DecidableEq, Repr

/-- The body of BIND, REBIND and TRANSIT (15 R434). -/
structure BindBody where
  handle  : Nat
  group   : Nat
  dkey    : DWord
  members : List Member
  deriving DecidableEq, Repr

/-- A port record of FLIGHT (15 R434). -/
structure PortRec where
  en       : Bool
  peerPort : Nat
  peer     : Nat
  dNom     : Nat
  deriving DecidableEq, Repr

/-- The body of FLIGHT (15 R434). -/
structure FlightBody where
  chip    : Nat
  tag     : Nat
  root    : Bool
  rounds  : Nat
  dMax    : Nat
  beatLen : Nat
  guard   : Nat
  ports   : List PortRec
  deriving DecidableEq, Repr

/-- The header of a BULK message (15 R440) without DIR, which the row gives. -/
structure BulkHdr where
  target : Nat
  handle : Nat
  addr   : Nat
  bytes  : Nat
  tag    : Word
  deriving DecidableEq, Repr

/-- How a register operation reaches the block (15 R439; 16 R444): as the first operation of a PCT REGISTER message, as a
further operation of the REGISTER message last accepted on a session context, or by the management firmware. -/
inductive Via where
  | pct (h : PctHdr)
  | more (sess : Fin 64)
  | firmware
  deriving DecidableEq, Repr

/-- A JTAG debug access (16 R475): a register, or a granule of a slice at a physical local address of a core. -/
inductive DbgAccess where
  | regRead (addr : Nat)
  | regWrite (addr : Nat) (v : Word)
  | memRead (core addr : Nat)
  | memWrite (core addr : Nat) (data : List Byte)
  deriving DecidableEq, Repr

/-- What the crossing calibration measures at start-up (11 R319): for each boundary, level and direction, in the order of
the fields of TB_XCAL0 to TB_XCAL23, the transits measured one after another, in 1/100 of a receiver cycle. -/
structure Calib where
  transits : List (List Nat)
  deriving DecidableEq, Repr

/-- A clock region (11 R317). -/
abbrev Region := Fin 16

/-- The commands: one constructor for each row of spec/opcode_table.json, in the table's order. -/
inductive Instr where
  /-- PWR_EN_RISE (R482). -/
  | pwrEnRise
  /-- PWR_EN_FALL (R482). -/
  | pwrEnFall
  /-- POWER_OFF_HOLD_END (R482). -/
  | powerOffHoldEnd
  /-- UNDERVOLTAGE_LOCKOUT (R480). -/
  | undervoltageLockout
  /-- OVERVOLTAGE_LOCKOUT (R480). -/
  | overvoltageLockout
  /-- OVERCURRENT_TRIP (R480). -/
  | overcurrentTrip
  /-- PWR_INPUT_LOW (R496). -/
  | pwrInputLow (vin : Nat)
  /-- PWR_INPUT_HIGH (R496). -/
  | pwrInputHigh (vin : Nat)
  /-- RAIL_FAULT (R481). -/
  | railFault (rail : Nat)
  /-- RAIL_OUT_OF_REGULATION (R481). -/
  | railOutOfRegulation (rail : Nat)
  /-- THERMAL_TRIP (R493). -/
  | thermalTrip
  /-- RESET_N_LOW (R487). -/
  | resetNLow (ns : Nat)
  /-- INTERNAL_RESET_RELEASE (R483). -/
  | internalResetRelease (cal : Calib)
  /-- PCT_READY (R484). -/
  | pctReady (late : Bool)
  /-- FIRMWARE_RESET (R461). -/
  | firmwareReset
  /-- TSYNC_LOAD (R314). -/
  | tsyncLoad
  /-- REF_LOST (R313). -/
  | refLost
  /-- REF_RELOCK (R313). -/
  | refRelock
  /-- TB_PHASE_CHECK (R315). -/
  | tbPhaseCheck (offset : Int)
  /-- BEAT_START_ANNOUNCE (R316). -/
  | beatStartAnnounce (region : Region)
  /-- BEAT_BOUNDARY (R329). -/
  | beatBoundary
  /-- GUARD_BAND_START (R171). -/
  | guardBandStart
  /-- STATUS_CUT (R294). -/
  | statusCut
  /-- STATUS_ROUND_SEND (R294). -/
  | statusRoundSend (r : Nat)
  /-- STATUS_CELL (R295). -/
  | statusCell (c : CellIn)
  /-- MONITOR_WARN (R320). -/
  | monitorWarn (region : Region) (margin : Nat)
  /-- FOLLOW_STRETCH (R321). -/
  | followStretch (region : Region)
  /-- CROSSING_LATE (R323). -/
  | crossingLate (boundary : Fin 24) (down : Bool) (sheetLink : Bool) (core : Nat) (inp : Dir)
  /-- LEVEL_CHANGE_REQUEST (R325). -/
  | levelChangeRequest (via : Via) (region : Region) (value : Word)
  /-- LEVEL_CHANGE_DONE (R326). -/
  | levelChangeDone (region : Region)
  /-- HEARTBEAT_SEND (R441). -/
  | heartbeatSend
  /-- POWER_WINDOW (R491). -/
  | powerWindow (avg : Nat)
  /-- THERMAL_SAMPLE (R492). -/
  | thermalSample (temps : List Int)
  /-- SCRUB_READ (R153). -/
  | scrubRead (core : Nat) (bank : Fin 48) (upset : List Upset)
  /-- BANK_GRANT (R165). -/
  | bankGrant (core : Nat) (bank : Fin 48) (reqs : List BankReq) (upset : List Upset)
  /-- CORRECTION_WRITEBACK (R149). -/
  | correctionWriteback (core : Nat) (bank : Fin 48)
  /-- POISON_WRITEBACK (R150). -/
  | poisonWriteback (core : Nat) (bank : Fin 48)
  /-- SQ_FETCH (R172). -/
  | sqFetch (core : Nat)
  /-- ENGINE_ISSUE (R175). -/
  | engineIssue (core : Nat) (eng : Engine)
  /-- COMMAND_COMPLETE (R218). -/
  | commandComplete (core : Nat) (eng : Engine) (id : Nat)
  /-- SQ_NOP (R186). -/
  | sqNop (h : Hdr)
  /-- SQ_MOVI (R186). -/
  | sqMovi (h : Hdr) (cd : Ctr) (imm : Word)
  /-- SQ_MOV (R186). -/
  | sqMov (h : Hdr) (cd : Ctr) (cs : Ctr)
  /-- SQ_RD (R179). -/
  | sqRd (h : Hdr) (cd : Ctr) (src : RdSrc)
  /-- SQ_ADD (R186). -/
  | sqAdd (h : Hdr) (cd : Ctr) (ca : Ctr) (b : Opnd)
  /-- SQ_SUB (R186). -/
  | sqSub (h : Hdr) (cd : Ctr) (ca : Ctr) (b : Opnd)
  /-- SQ_MUL (R186). -/
  | sqMul (h : Hdr) (cd : Ctr) (ca : Ctr) (b : Opnd)
  /-- SQ_AND (R186). -/
  | sqAnd (h : Hdr) (cd : Ctr) (ca : Ctr) (b : Opnd)
  /-- SQ_OR (R186). -/
  | sqOr (h : Hdr) (cd : Ctr) (ca : Ctr) (b : Opnd)
  /-- SQ_XOR (R186). -/
  | sqXor (h : Hdr) (cd : Ctr) (ca : Ctr) (b : Opnd)
  /-- SQ_SHL (R186). -/
  | sqShl (h : Hdr) (cd : Ctr) (ca : Ctr) (b : Opnd)
  /-- SQ_SHR (R186). -/
  | sqShr (h : Hdr) (cd : Ctr) (ca : Ctr) (b : Opnd)
  /-- SQ_LD (R186). -/
  | sqLd (h : Hdr) (size : Size) (cd : Ctr) (ca : Ctr) (imm : BitVec 16)
  /-- SQ_LD_VALUE (R173). -/
  | sqLdValue (core : Nat)
  /-- SQ_ST (R186). -/
  | sqSt (h : Hdr) (size : Size) (ca : Ctr) (imm : BitVec 16) (cs : Ctr)
  /-- SQ_CMP (R180). -/
  | sqCmp (h : Hdr) (op : CmpOp) (pd : PReg) (ca : Ctr) (b : Opnd)
  /-- SQ_KSET (R180). -/
  | sqKset (h : Hdr) (kn : Fin 4) (ca : Ctr) (op : CmpOp) (b : Opnd)
  /-- SQ_KOFF (R180). -/
  | sqKoff (h : Hdr) (kn : Fin 4)
  /-- SQ_PAND (R186). -/
  | sqPand (h : Hdr) (pd : PReg) (pa : PSrc) (pb : PSrc)
  /-- SQ_POR (R186). -/
  | sqPor (h : Hdr) (pd : PReg) (pa : PSrc) (pb : PSrc)
  /-- SQ_PXOR (R186). -/
  | sqPxor (h : Hdr) (pd : PReg) (pa : PSrc) (pb : PSrc)
  /-- SQ_PNOT (R186). -/
  | sqPnot (h : Hdr) (pd : PReg) (pa : PSrc)
  /-- SQ_PSET (R186). -/
  | sqPset (h : Hdr) (pd : PReg) (v : Bool)
  /-- SQ_LOOP (R181). -/
  | sqLoop (h : Hdr) (ln : Fin 4) (count : Opnd) (endPc : Nat)
  /-- SQ_JMP (R183). -/
  | sqJmp (h : Hdr) (label : Nat)
  /-- SQ_CALL (R183). -/
  | sqCall (h : Hdr) (label : Nat)
  /-- SQ_RET (R183). -/
  | sqRet (h : Hdr)
  /-- SQ_RCALL (R184). -/
  | sqRcall (h : Hdr) (id : Nat) (cn : Ctr)
  /-- SQ_RRET (R184). -/
  | sqRret (h : Hdr)
  /-- SQ_WAITQ (R177). -/
  | sqWaitq (h : Hdr) (eng : Engine) (n : Nat)
  /-- SQ_WAITQ_RELEASE (R177). -/
  | sqWaitqRelease (core : Nat)
  /-- SQ_DELAY (R186). -/
  | sqDelay (h : Hdr) (n : Opnd)
  /-- SQ_DELAY_EXPIRE (R186). -/
  | sqDelayExpire (core : Nat)
  /-- SQ_POST (R185). -/
  | sqPost (h : Hdr) (unit : Opnd) (kind : BitVec 8) (src : Opnd)
  /-- SQ_POST_ACCEPT (R185). -/
  | sqPostAccept (core : Nat)
  /-- SQ_PRES (R185). -/
  | sqPres (h : Hdr) (pd : PReg) (unit : Opnd)
  /-- SQ_END (R171). -/
  | sqEnd (h : Hdr)
  /-- MX_LOAD_W (R78). -/
  | mxLoadW (h : Hdr) (c : MxLoad)
  /-- MX_RUN_WS (R83). -/
  | mxRunWs (h : Hdr) (c : MxWs)
  /-- MX_RUN_OS (R86). -/
  | mxRunOs (h : Hdr) (c : MxOs)
  /-- MX_CLEAR (R80). -/
  | mxClear (h : Hdr) (half : Fin 2) (l512 : Bool)
  /-- MX_SHEET (R94). -/
  | mxSheet (h : Hdr) (sid : Fin 4)
  /-- MX_SHEET_OFF (R94). -/
  | mxSheetOff (h : Hdr)
  /-- ME_SHEET_STALL (R105). -/
  | meSheetStall (core : Nat)
  /-- VX_LD (R137). -/
  | vxLd (h : Hdr) (x : Fin 8) (vd : VReg) (src : VOp)
  /-- VX_ST (R137). -/
  | vxSt (h : Hdr) (x : Fin 8) (mz : Bool) (vs : VReg) (dst : VOp) (mask : VMask)
  /-- VX_BCAST (R137). -/
  | vxBcast (h : Hdr) (vd : VReg) (v : Opnd)
  /-- VX_IOTA (R137). -/
  | vxIota (h : Hdr) (vd : VReg)
  /-- VX_MOV (R137). -/
  | vxMov (h : Hdr) (vd : VReg) (vs : VReg)
  /-- VX_CTX (R115). -/
  | vxCtx (h : Hdr) (x : Fin 8) (lo : Opnd) (hi : Opnd) (erow : Opnd) (key : Opnd)
  /-- VX_RUN (R122). -/
  | vxRun (h : Hdr) (c : VxRun)
  /-- VX_RED (R128). -/
  | vxRed (h : Hdr) (c : VxRed)
  /-- VX_SCAN (R131). -/
  | vxScan (h : Hdr) (c : VxScan)
  /-- VX_SM_STAT (R132). -/
  | vxSmStat (h : Hdr) (vm : VReg) (vs : VReg) (src : VOp) (rows : Opnd) (mask : VMask)
  /-- VX_SM_MERGE (R133). -/
  | vxSmMerge (h : Hdr) (vm : VReg) (vs : VReg) (vm2 : VReg) (vs2 : VReg) (va1 : VReg) (va2 : VReg)
  /-- VX_SM_NORM (R134). -/
  | vxSmNorm (h : Hdr) (dst : VOp) (src : VOp) (vm : VReg) (vs : VReg) (rows : Opnd) (mask : VMask)
  /-- VX_SM_FINAL (R134). -/
  | vxSmFinal (h : Hdr) (dst : VOp) (src : VOp) (vs : VReg) (rows : Opnd)
  /-- VX_SM_LSE (R134). -/
  | vxSmLse (h : Hdr) (vd : VReg) (vm : VReg) (vs : VReg)
  /-- VX_DIG_POST (R136). -/
  | vxDigPost (h : Hdr) (n : Fin 8) (layer : BitVec 16) (tensor : BitVec 16)
  /-- DM_COPY (R188). -/
  | dmCopy (h : Hdr) (dst : Opnd) (src : Opnd) (bytes : Opnd)
  /-- DM_ZERO (R187). -/
  | dmZero (h : Hdr) (dst : Opnd) (bytes : Opnd)
  /-- DM_GATHER (R187). -/
  | dmGather (h : Hdr) (mz : Bool) (dst : Opnd) (base : Opnd) (list : Opnd) (count : Opnd) (bsize : Opnd)
  /-- DM_SCATTER (R187). -/
  | dmScatter (h : Hdr) (base : Opnd) (list : Opnd) (count : Opnd) (bsize : Opnd) (src : Opnd)
  /-- DM_RPUT (R189). -/
  | dmRput (h : Hdr) (chip : Opnd) (win : Opnd) (off : Opnd) (src : Opnd) (bytes : Opnd)
  /-- LP_SEND (R191). -/
  | lpSend (h : Hdr) (st : Strm) (src : Opnd) (bytes : Opnd)
  /-- LP_ARM (R191). -/
  | lpArm (h : Hdr) (st : Strm) (dst : Opnd) (bytes : Opnd) (flag : Option FlagAdd)
  /-- LP_DISARM (R191). -/
  | lpDisarm (h : Hdr) (st : Strm)
  /-- SWITCH_ENTRY_ADVANCE (R257). -/
  | switchEntryAdvance (core : Nat)
  /-- LATTICE_DEPARTURE (R192). -/
  | latticeDeparture (core : Nat)
  /-- LATTICE_ARRIVAL (R254). -/
  | latticeArrival (core : Nat) (port : Dir) (upset : List Upset)
  /-- LEG_ARRIVAL (R262). -/
  | legArrival (f : LegFlit)
  /-- SE_SET (R236). -/
  | seSet (h : Hdr) (f : Opnd) (v : Opnd)
  /-- SE_ADD (R236). -/
  | seAdd (h : Hdr) (f : Opnd) (n : Opnd)
  /-- SE_WAIT_OBS (R237). -/
  | seWaitObs (h : Hdr) (f : Opnd) (v : Opnd)
  /-- SE_WAIT_TAKE (R237). -/
  | seWaitTake (h : Hdr) (f : Opnd) (n : Opnd)
  /-- SE_RSIG (R242). -/
  | seRsig (h : Hdr) (chip : Opnd) (f : Opnd) (n : Opnd)
  /-- SE_FENCE_Q (R241). -/
  | seFenceQ (h : Hdr) (m : FenceMask)
  /-- SE_FENCE_ALL (R241). -/
  | seFenceAll (h : Hdr)
  /-- SE_FENCE_REMOTE (R241). -/
  | seFenceRemote (h : Hdr)
  /-- FENCE_RELEASE (R241). -/
  | fenceRelease (core : Nat)
  /-- FLAG_OP_APPLY (R238). -/
  | flagOpApply (t : FlagTick)
  /-- WAIT_RELEASE (R237). -/
  | waitRelease (core : Nat)
  /-- DRIFT_ROUTER_CYCLE (R268). -/
  | driftRouterCycle (px : Fin 16) (py : Fin 16) (upset : Option DriftUpset)
  /-- DRIFT_PACKET_EJECT (R269). -/
  | driftPacketEject (ep : Nat)
  /-- SU_JOB (R375). -/
  | suJob (n : Fin 4)
  /-- SU_RESULT (R377). -/
  | suResult (n : Fin 4)
  /-- DRAFT_PACKET (R378). -/
  | draftPacket
  /-- PG_SELECTION (R409). -/
  | pgSelection
  /-- DIGEST_POST (R351). -/
  | digestPost
  /-- PG_VIEW_WRITE (R392). -/
  | pgViewWrite (part : Fin 16)
  /-- TETHER_SLOT_DEPART (R286). -/
  | tetherSlotDepart (port : Fin 8) (slot : Nat)
  /-- DATA (R285). -/
  | data (c : CellIn)
  /-- DMA (R160). -/
  | dma (c : CellIn)
  /-- FLAG (R243). -/
  | flag (c : CellIn)
  /-- BATCH (R373). -/
  | batch (c : CellIn)
  /-- IDLE (R283). -/
  | idle (c : CellIn)
  /-- PORT_LOCKED (R279). -/
  | portLocked (port : Fin 8) (block : AlignBlock)
  /-- PORT_LOCK_LOST (R279). -/
  | portLockLost (port : Fin 8)
  /-- PORT_TRAIN_TIMEOUT (R279). -/
  | portTrainTimeout (port : Fin 8)
  /-- NEIGHBOUR_LOST (R305). -/
  | neighbourLost (port : Fin 8)
  /-- JOIN_START (R299). -/
  | joinStart (via : Via) (value : Word)
  /-- JOIN_READY_SET (R303). -/
  | joinReadySet (via : Via) (value : Word)
  /-- JOIN_PROBE_TICK (R300). -/
  | joinProbeTick
  /-- PROBE (R300). -/
  | probe (port : Fin 8) (probeTc : BitVec 64) (hold : Word)
  /-- ECHO (R300). -/
  | echo (port : Fin 8) (probeTc : BitVec 64) (hold : Word) (trip16 : Nat)
  /-- TIME (R302). -/
  | time (port : Fin 8) (tcDep : BitVec 64) (hops : Nat)
  /-- ADOPT (R303). -/
  | adopt (port : Fin 8)
  /-- PEER (R303). -/
  | peer (port : Fin 8)
  /-- READY (R303). -/
  | ready (port : Fin 8) (r : ReadyMsg)
  /-- START (R303). -/
  | start (port : Fin 8) (startTc : BitVec 64) (bno : BitVec 64)
  /-- JOIN_TIMEOUT (R299). -/
  | joinTimeout
  /-- START_TC_REACHED (R303). -/
  | startTcReached
  /-- REEL_ORDER_COMPLETE (R411). -/
  | reelOrderComplete (part : Fin 16)
  /-- RDMA_READ_RESPONSE (R425). -/
  | rdmaReadResponse (p : RocePkt)
  /-- ROCE_ACKNOWLEDGE (R426). -/
  | roceAcknowledge (p : RocePkt) (syn : AckSyn)
  /-- CNP (R427). -/
  | cnp (p : RocePkt)
  /-- ROCE_RETRY_TIMEOUT (R426). -/
  | roceRetryTimeout (qp : Fin 1024)
  /-- ROCE_RATE_INCREASE (R427). -/
  | roceRateIncrease (qp : Fin 1024)
  /-- RL_RETRY (R413). -/
  | rlRetry (via : Via) (part : Fin 16)
  /-- RL_ABANDON (R413). -/
  | rlAbandon (via : Via) (part : Fin 16)
  /-- PORT_UP (R424). -/
  | portUp (ep : Fin 8)
  /-- PORT_DOWN (R424). -/
  | portDown (ep : Fin 8)
  /-- FAILOVER_ANNOUNCE (R424). -/
  | failoverAnnounce (net : Fin 2)
  /-- NEIGHBOUR_DISCOVERY (R423). -/
  | neighbourDiscovery (q : NeighbourQuery)
  /-- ICMP_ECHO (R423). -/
  | icmpEcho (q : EchoQuery)
  /-- PAUSE_FRAME (R422). -/
  | pauseFrame (ep : Fin 8)
  /-- SESSION_SYN (R430). -/
  | sessionSyn (h : PctHdr)
  /-- ACK (R431). -/
  | ack (h : PctHdr)
  /-- PCT_RESEND_TIMEOUT (R431). -/
  | pctResendTimeout (sess : Fin 64)
  /-- HEARTBEAT (R441). -/
  | heartbeat (h : PctHdr)
  /-- HOST_HEARTBEAT_TIMEOUT (R432). -/
  | hostHeartbeatTimeout (sess : Fin 64)
  /-- SUBMIT (R359). -/
  | submit (h : PctHdr) (c : CmdHdr) (b : SubmitBody)
  /-- RESUME (R359). -/
  | resume (h : PctHdr) (c : CmdHdr) (maxNew : Nat) (deadline : BitVec 64) (tokens : List Word)
  /-- CANCEL (R360). -/
  | cancel (h : PctHdr) (c : CmdHdr)
  /-- DRAFT (R378). -/
  | draft (h : PctHdr) (c : CmdHdr) (pos : Nat) (steps : List DraftStep)
  /-- FETCH (R438). -/
  | fetch (h : PctHdr) (c : CmdHdr) (from_ : Nat) (release : Bool)
  /-- PART_CREATE (R210). -/
  | partCreate (h : PctHdr) (c : CmdHdr) (b : CreateBody)
  /-- PART_DESTROY (R214). -/
  | partDestroy (h : PctHdr) (c : CmdHdr)
  /-- LOAD_BEGIN (R434). -/
  | loadBegin (h : PctHdr) (c : CmdHdr) (bytes : Nat)
  /-- LOAD_END (R209). -/
  | loadEnd (h : PctHdr) (c : CmdHdr) (handle : Nat)
  /-- BIND (R211). -/
  | bind (h : PctHdr) (c : CmdHdr) (b : BindBody)
  /-- UNBIND (R214). -/
  | unbind (h : PctHdr) (c : CmdHdr) (keep : Word)
  /-- REBIND (R213). -/
  | rebind (h : PctHdr) (c : CmdHdr) (b : BindBody) (keep : Word)
  /-- TRANSIT (R290). -/
  | transit (h : PctHdr) (c : CmdHdr) (b : BindBody)
  /-- FLIGHT (R298). -/
  | flight (h : PctHdr) (c : CmdHdr) (b : FlightBody)
  /-- JOIN (R299). -/
  | join (h : PctHdr) (c : CmdHdr)
  /-- ATTEST (R462). -/
  | attest (h : PctHdr) (c : CmdHdr) (nonce : List Byte)
  /-- LOG_STREAM (R472). -/
  | logStream (h : PctHdr) (c : CmdHdr) (mask : BitVec 8) (fromEvt : Word) (fromLog : Word)
  /-- FW_BEGIN (R460). -/
  | fwBegin (h : PctHdr) (c : CmdHdr)
  /-- FW_COMMIT (R460). -/
  | fwCommit (h : PctHdr) (c : CmdHdr) (handle : Nat)
  /-- RESET (R461). -/
  | reset (h : PctHdr) (c : CmdHdr) (force : Bool)
  /-- SVN_RAISE (R459). -/
  | svnRaise (h : PctHdr) (c : CmdHdr) (kind : Nat) (revoke : BitVec 4) (svn : Nat)
  /-- CONFIG_COMMIT (R460). -/
  | configCommit (h : PctHdr) (c : CmdHdr) (copy : Nat)
  /-- UCAL_SAVE (R464). -/
  | ucalSave (h : PctHdr) (c : CmdHdr)
  /-- UCAL_LOAD (R459). -/
  | ucalLoad (h : PctHdr) (c : CmdHdr) (copy : Nat)
  /-- LC_OWN (R453). -/
  | lcOwn (h : PctHdr) (c : CmdHdr) (pubkey : List Byte)
  /-- LC_RETURN (R453). -/
  | lcReturn (h : PctHdr) (c : CmdHdr) (sig : List Byte)
  /-- REGISTER_READ (R439). -/
  | registerRead (via : Via) (addr : Nat)
  /-- REGISTER_WRITE (R439). -/
  | registerWrite (via : Via) (addr : Nat) (value : Word)
  /-- BULK_WRITE (R440). -/
  | bulkWrite (h : PctHdr) (b : BulkHdr) (data : List Byte)
  /-- BULK_READ (R440). -/
  | bulkRead (h : PctHdr) (b : BulkHdr)
  /-- TSYNC_ARM (R314). -/
  | tsyncArm (via : Via) (value : Word)
  /-- TB_TC_LO_READ (R336). -/
  | tbTcLoRead (via : Via)
  /-- SC_RAND_READ (R477). -/
  | scRandRead (via : Via)
  /-- RT_CREDIT (R364). -/
  | rtCredit (via : Via) (value : Word)
  /-- CLIENT_RECORD_WRITE (R364). -/
  | clientRecordWrite (via : Via) (client : Fin 4096) (word : Fin 16) (value : Word)
  /-- RT_GROUP_VALID_SET (R383). -/
  | rtGroupValidSet (via : Via) (n : Fin 16) (value : Word)
  /-- GROUP_RELEASE (R382). -/
  | groupRelease (via : Via) (n : Fin 16) (value : Word)
  /-- NOADMIT (R383). -/
  | noadmit (via : Via) (n : Fin 16) (value : Word)
  /-- FROZEN (R382). -/
  | frozen (via : Via) (n : Fin 16) (value : Word)
  /-- XB_CLAIM (R416). -/
  | xbClaim (via : Via) (expert : Bool) (slot : Fin 1024) (group : Nat)
  /-- XB_READY (R416). -/
  | xbReady (via : Via) (expert : Bool) (slot : Fin 1024) (group : Nat)
  /-- XB_RELEASE (R421). -/
  | xbRelease (via : Via) (expert : Bool) (slot : Fin 1024) (group : Nat)
  /-- XB_PENDING_WRITE (R416). -/
  | xbPendingWrite (via : Via) (expert : Bool) (k : Fin 1024) (value : Word)
  /-- DG_LOG_TAIL_WRITE (R353). -/
  | dgLogTailWrite (via : Via) (value : Word)
  /-- SC_LOG_TAIL_WRITE (R468). -/
  | scLogTailWrite (via : Via) (value : Word)
  /-- SC_EVT_TAIL_WRITE (R469). -/
  | scEvtTailWrite (via : Via) (value : Word)
  /-- UCAL_WRITE (R464). -/
  | ucalWrite (via : Via) (i : Fin 64) (value : Word)
  /-- SC_JTAG_LOCK (R477). -/
  | scJtagLock (via : Via) (value : Word)
  /-- BYPASS (R474). -/
  | bypass
  /-- IDCODE (R474). -/
  | idcode
  /-- SAMPLE_PRELOAD (R474). -/
  | samplePreload
  /-- EXTEST (R474). -/
  | extest
  /-- CLAMP (R474). -/
  | clamp
  /-- HIGHZ (R474). -/
  | highz
  /-- DBG_NS (R475). -/
  | dbgNs (a : DbgAccess)
  /-- DBG_S (R475). -/
  | dbgS (a : DbgAccess)
  /-- LC_SCRAP (R474). -/
  | lcScrap
  /-- PLDM_SENSOR_READ (R495). -/
  | pldmSensorRead (id : Nat)
  /-- MCTP_RECORD_READ (R473). -/
  | mctpRecordRead (idx : Nat)
  /-- RESERVED_OP (R459). -/
  | reservedOp (h : PctHdr) (c : CmdHdr) (op : Nat)
  /-- ROCE_UNSUPPORTED_PACKET (R425). -/
  | roceUnsupportedPacket (p : RocePkt)
  deriving DecidableEq, Repr

end Sys2Proof
end

