-- ==== Sys2Proof/Machine/Num.lean ====
section
/-! DEFINITION. Number formats and arithmetic (02): exact values, the one rounding function, conversions, FP32 addition
and multiplication, integer saturation. -/

namespace Sys2Proof.Machine

open Sys2Proof

/-- An exact value: a NaN, an infinity, or ±mag × 2^exp (mag 0 keeps its sign, 02 R38). -/
inductive FVal where
  | nan
  | inf (neg : Bool)
  | fin (neg : Bool) (mag : Nat) (exp : Int)
  deriving DecidableEq, Repr

/-- A floating-point layout of 02 R36: mantissa bits, bias, the exponent field and mantissa of the largest finite
value, whether there are infinities, and the code written for a NaN (02 R45). -/
structure FFmt where
  ebits : Nat
  mbits : Nat
  bias  : Nat
  emax  : Nat
  mmax  : Nat
  ieee  : Bool
  nan   : Nat
  deriving DecidableEq, Repr

/-- FP32 (02 R36, R45). -/
def ffp32 : FFmt := ⟨8, 23, 127, 254, 0x7FFFFF, true, 0x7FC00000⟩
/-- BF16 (02 R36, R45). -/
def fbf16 : FFmt := ⟨8, 7, 127, 254, 0x7F, true, 0x7FC0⟩
/-- FP16 (02 R36, R45). -/
def ffp16 : FFmt := ⟨5, 10, 15, 30, 0x3FF, true, 0x7E00⟩
/-- FP8 E5M2 (02 R36, R45). -/
def fe5m2 : FFmt := ⟨5, 2, 15, 30, 3, true, 0x7E⟩
/-- FP8 E4M3: the exponent field 15 is normal but for mantissa 7 (02 R36, R45). -/
def fe4m3 : FFmt := ⟨4, 3, 7, 15, 6, false, 0x7F⟩
/-- FP4 E2M1: no infinity, no NaN; a NaN is written +0.0 (02 R36, R45). -/
def fe2m1 : FFmt := ⟨2, 1, 1, 3, 1, false, 0⟩

/-- The value a code of a floating-point format stands for (02 R36). -/
def fdecode (f : FFmt) (bits : Nat) : FVal :=
  let m := bits % 2 ^ f.mbits
  let e := bits / 2 ^ f.mbits % 2 ^ f.ebits
  let neg := bits / 2 ^ (f.mbits + f.ebits) % 2 = 1
  if f.ieee ∧ e = f.emax + 1 then
    if m = 0 then .inf neg else .nan
  else if ¬ f.ieee ∧ e = f.emax ∧ m > f.mmax then .nan
  else if e = 0 then .fin neg m (1 - (f.bias : Int) - f.mbits)
  else .fin neg (2 ^ f.mbits + m) ((e : Int) - f.bias - f.mbits)

/-- The code of the largest finite value (02 R36). -/
def flargest (f : FFmt) (neg : Bool) : Nat :=
  (if neg then 2 ^ (f.mbits + f.ebits) else 0) + f.emax * 2 ^ f.mbits + f.mmax

/-- The code of an infinity, for the formats that have one (02 R36). -/
def finfinity (f : FFmt) (neg : Bool) : Nat :=
  (if neg then 2 ^ (f.mbits + f.ebits) else 0) + (f.emax + 1) * 2 ^ f.mbits

/-- Does the mode choose hi, given lo, the discarded bits and how many they are (02 R46, R47)? `r` is the 16-bit draw,
used by `.sr` alone. -/
def roundsUp (mode : Rnd) (r : Nat) (lo disc shift : Nat) : Bool :=
  match mode with
  | .rne => decide (2 * disc > 2 ^ shift) || (decide (2 * disc = 2 ^ shift) && decide (lo % 2 = 1))
  | .rtz => false
  | .sr  => decide (disc * 65536 / 2 ^ shift + r ≥ 65536)

/-- mag × 2^exp rounded to a multiple of 2^q: the multiple, and whether hi was chosen (02 R46). -/
def roundToGrid (mode : Rnd) (r : Nat) (mag : Nat) (exp q : Int) : Nat × Bool :=
  if q ≤ exp then (mag * 2 ^ (exp - q).toNat, false)
  else
    let shift := (q - exp).toNat
    let lo := mag / 2 ^ shift
    let disc := mag % 2 ^ shift
    let up := roundsUp mode r lo disc shift
    (if up then lo + 1 else lo, up)

/-- What a conversion answers: the code, and whether SATURATED or NAN_LOST is counted (02 R45, R49). -/
structure Conv where
  bits    : Nat
  sat     : Bool
  nanLost : Bool
  deriving DecidableEq, Repr

/-- An exact value rounded and written in a floating-point format (02 R45, R46, R49): `satMod` is the `.sat` modifier,
always in force where the format has no infinity. -/
def fencode (f : FFmt) (mode : Rnd) (satMod : Bool) (r : Nat) (x : FVal) : Conv :=
  match x with
  | .nan => ⟨f.nan, false, decide (f.nan = 0)⟩
  | .inf neg => if satMod || !f.ieee then ⟨flargest f neg, true, false⟩ else ⟨finfinity f neg, false, false⟩
  | .fin neg mag exp =>
    let sign := if neg then 2 ^ (f.mbits + f.ebits) else 0
    if mag = 0 then ⟨sign, false, false⟩
    else
      let qmin : Int := 1 - (f.bias : Int) - f.mbits
      let q : Int := max qmin (exp + (Nat.log2 mag : Int) - f.mbits)
      let rounded := roundToGrid mode r mag exp q
      let carry := decide (rounded.1 ≥ 2 ^ (f.mbits + 1))
      let m := if carry then rounded.1 / 2 else rounded.1
      let q' := if carry then q + 1 else q
      if m < 2 ^ f.mbits then ⟨sign + m, false, false⟩
      else
        let e := (q' + f.mbits + f.bias).toNat
        let frac := m - 2 ^ f.mbits
        if e > f.emax ∨ (e = f.emax ∧ frac > f.mmax) then
          if satMod || !f.ieee then ⟨flargest f neg, true, false⟩
          else match mode with
            | .rne => ⟨finfinity f neg, false, false⟩
            | .rtz => ⟨flargest f neg, false, false⟩
            | .sr  => if rounded.2 then ⟨finfinity f neg, false, false⟩ else ⟨flargest f neg, false, false⟩
        else ⟨sign + e * 2 ^ f.mbits + frac, false, false⟩

/-- An integer clamped to a two's complement range of `w` bits, and whether it was (02 R49). -/
def clampInt (w : Nat) (v : Int) : Int × Bool :=
  let hi : Int := 2 ^ (w - 1) - 1
  let lo : Int := -(2 ^ (w - 1))
  if v > hi then (hi, true) else if v < lo then (lo, true) else (v, false)

/-- The two's complement code of an integer in `w` bits. -/
def intCode (w : Nat) (v : Int) : Nat := (v % (2 ^ w : Int)).toNat

/-- The integer a two's complement code of `w` bits stands for (02 R36). -/
def intVal (w : Nat) (bits : Nat) : Int :=
  let b := bits % 2 ^ w
  if b ≥ 2 ^ (w - 1) then (b : Int) - 2 ^ w else b

/-- An exact value converted to an integer format of `w` bits (02 R45, R49, R50). -/
def iencode (w : Nat) (mode : Rnd) (r : Nat) (x : FVal) : Conv :=
  match x with
  | .nan => ⟨0, false, true⟩
  | .inf neg => ⟨intCode w (if neg then -(2 ^ (w - 1)) else 2 ^ (w - 1) - 1), true, false⟩
  | .fin neg mag exp =>
    let m := (roundToGrid mode r mag exp 0).1
    let c := clampInt w (if neg then -(m : Int) else m)
    ⟨intCode w c.1, c.2, false⟩

/-- The exact value of an integer. -/
def fOfInt (v : Int) : FVal := .fin (decide (v < 0)) v.natAbs 0

/-- The signed integer in units of 2^e of a finite value whose exponent is at least e. -/
def fScaled (neg : Bool) (mag : Nat) (exp e : Int) : Int :=
  let m : Int := (mag : Int) * 2 ^ (exp - e).toNat
  if neg then -m else m

/-- The exact sum (02 R38, R43): opposite infinities give NaN, an exact zero is +0.0 but for (−0) + (−0). -/
def fadd (x y : FVal) : FVal :=
  match x, y with
  | .nan, _ => .nan
  | _, .nan => .nan
  | .inf a, .inf b => if a = b then .inf a else .nan
  | .inf a, .fin _ _ _ => .inf a
  | .fin _ _ _, .inf b => .inf b
  | .fin na ma ea, .fin nb mb eb =>
    if ma = 0 ∧ mb = 0 then .fin (na && nb) 0 0
    else
      let e := min ea eb
      let v := fScaled na ma ea e + fScaled nb mb eb e
      .fin (decide (v < 0)) v.natAbs e

/-- The exact product (02 R43, R52). -/
def fmul (x y : FVal) : FVal :=
  match x, y with
  | .nan, _ => .nan
  | _, .nan => .nan
  | .inf a, .inf b => .inf (a != b)
  | .inf a, .fin n m _ => if m = 0 then .nan else .inf (a != n)
  | .fin n m _, .inf b => if m = 0 then .nan else .inf (n != b)
  | .fin na ma ea, .fin nb mb eb => .fin (na != nb) (ma * mb) (ea + eb)

/-- The value with its sign flipped; a NaN stays one. -/
def fneg (x : FVal) : FVal :=
  match x with
  | .nan => .nan
  | .inf n => .inf (!n)
  | .fin n m e => .fin (!n) m e

/-- Is the value finite? -/
def fIsFin (x : FVal) : Bool :=
  match x with
  | .fin _ _ _ => true
  | _ => false

/-- Is the value finite and not zero? -/
def fNonzero (x : FVal) : Bool :=
  match x with
  | .fin _ m _ => decide (m ≠ 0)
  | _ => false

/-- The exact value of an FP32 word. -/
def f32v (w : Word) : FVal := fdecode ffp32 w.toNat

/-- The FP32 word nearest an exact value, ties to even (02 R46, R49). -/
def rne32 (x : FVal) : Word := BitVec.ofNat 32 (fencode ffp32 .rne false 0 x).bits

/-- FP32 addition: one rounding of the exact sum (02 R38, R53). -/
def f32add (a b : Word) : Word := rne32 (fadd (f32v a) (f32v b))
/-- FP32 subtraction. -/
def f32sub (a b : Word) : Word := rne32 (fadd (f32v a) (fneg (f32v b)))
/-- FP32 multiplication. -/
def f32mul (a b : Word) : Word := rne32 (fmul (f32v a) (f32v b))
/-- FP32 fused multiply-add: one rounding of a × b + c. -/
def f32fma (a b c : Word) : Word := rne32 (fadd (fmul (f32v a) (f32v b)) (f32v c))

/-- The canonical NaN (02 R44). -/
def f32nan : Word := 0x7FC00000
/-- −infinity. -/
def f32ninf : Word := 0xFF800000
/-- +infinity. -/
def f32inf : Word := 0x7F800000

/-- Is the FP32 word a NaN (02 R36)? -/
def f32isNan (a : Word) : Bool := decide (f32v a = .nan)

/-- A total key for ordering FP32 words that are no NaN, −0.0 below +0.0 (02 R63). -/
def f32key (a : Word) : Int :=
  if a.toNat ≥ 2 ^ 31 then -((a.toNat - 2 ^ 31 : Nat) : Int) - 1 else a.toNat

/-- FP32 comparison a < b of values (IEEE 754-2019): false when either is a NaN, the zeros equal. -/
def f32lt (a b : Word) : Bool :=
  match f32v a, f32v b with
  | .nan, _ => false
  | _, .nan => false
  | .fin _ 0 _, .fin _ 0 _ => false
  | _, _ => decide (f32key a < f32key b)

/-- FP32 equality of values (IEEE 754-2019). -/
def f32eq (a b : Word) : Bool :=
  match f32v a, f32v b with
  | .nan, _ => false
  | _, .nan => false
  | .fin _ 0 _, .fin _ 0 _ => true
  | _, _ => decide (a = b)

/-- The larger of two FP32 words by the order of 02 R63; a NaN gives the canonical NaN. -/
def f32max (a b : Word) : Word :=
  if f32isNan a || f32isNan b then f32nan else if f32key a < f32key b then b else a

/-- The smaller of two FP32 words by the order of 02 R63; a NaN gives the canonical NaN. -/
def f32min (a b : Word) : Word :=
  if f32isNan a || f32isNan b then f32nan else if f32key b < f32key a then b else a

/-- The quotient of two finite values, the divisor not zero: 64 bits beyond the binary point of the significands and a
sticky bit, which round as the exact quotient does. -/
def fquot (x y : FVal) : FVal :=
  match x, y with
  | .fin p m e, .fin q n f =>
    .fin (p != q) (2 * (m * 2 ^ 64 / n) + (if m * 2 ^ 64 % n = 0 then 0 else 1)) (e - f - 65)
  | _, _ => .nan

/-- FP32 division, correctly rounded to nearest even (04 R120, R121). -/
def f32div (a b : Word) : Word :=
  match f32v a, f32v b with
  | .nan, _ => f32nan
  | _, .nan => f32nan
  | .inf _, .inf _ => f32nan
  | .inf x, .fin y _ _ => rne32 (.inf (x != y))
  | .fin x _ _, .inf y => rne32 (.fin (x != y) 0 0)
  | .fin x m e, .fin y n f =>
    if n = 0 then (if m = 0 then f32nan else rne32 (.inf (x != y)))
    else rne32 (fquot (.fin x m e) (.fin y n f))

/-- The integer square root: the largest s with s × s at most n, for n below 4^fuel. -/
def isqrt (fuel n : Nat) : Nat :=
  match fuel with
  | 0 => 0
  | k + 1 =>
    let s := isqrt k (n / 4) * 2
    if (s + 1) * (s + 1) ≤ n then s + 1 else s

/-- The square root of mag × 2^exp with a sticky bit, which rounds as the exact root does. -/
def fsqrtVal (mag : Nat) (exp : Int) : FVal :=
  let odd := decide (exp % 2 ≠ 0)
  let m' := (if odd then 2 * mag else mag) * 2 ^ 80
  let e' := (if odd then exp - 1 else exp) - 80
  let s := isqrt 60 m'
  .fin false (2 * s + (if s * s = m' then 0 else 1)) (e' / 2 - 1)

/-- The reciprocal square root of mag × 2^exp, mag not zero, with a sticky bit. -/
def frsqrtVal (mag : Nat) (exp : Int) : FVal :=
  let odd := decide (exp % 2 ≠ 0)
  let m' := if odd then 2 * mag else mag
  let e' := if odd then exp - 1 else exp
  let s := isqrt 62 (2 ^ 120 / m')
  .fin false (2 * s + (if s * s * m' = 2 ^ 120 then 0 else 1)) (-(e' / 2) - 61)

/-- FP32 square root, correctly rounded to nearest even; of a negative number, a NaN (02 R43; 04 R121). -/
def f32sqrt (a : Word) : Word :=
  match f32v a with
  | .nan => f32nan
  | .inf neg => if neg then f32nan else f32inf
  | .fin neg m e => if m = 0 then a else if neg then f32nan else rne32 (fsqrtVal m e)

/-- INT32 saturating addition, and whether it clamped (02 R55, R63). -/
def satAdd32 (a : Word) (v : Int) : Word × Bool :=
  let c := clampInt 32 (a.toInt + v)
  (BitVec.ofInt 32 c.1, c.2)

/-- The floating-point layout of a scalar format, if it is one. -/
def fmtFloat : Fmt → Option FFmt
  | .fp32 => some ffp32
  | .bf16 => some fbf16
  | .cbf16 => some fbf16
  | .fp16 => some ffp16
  | .e5m2 => some fe5m2
  | .mxe5m2 => some fe5m2
  | .e4m3 => some fe4m3
  | .mxe4m3 => some fe4m3
  | .fp4 => some fe2m1
  | .mxfp4 => some fe2m1
  | .int4 => none
  | .int8 => none
  | .int16 => none
  | .int32 => none

/-- How many bits an element of a format takes in memory (02 R36; a complex element is two BF16 parts, 03 R69). -/
def fmtBits : Fmt → Nat
  | .int4 => 4
  | .fp4 => 4
  | .mxfp4 => 4
  | .int8 => 8
  | .e4m3 => 8
  | .e5m2 => 8
  | .mxe4m3 => 8
  | .mxe5m2 => 8
  | .int16 => 16
  | .bf16 => 16
  | .fp16 => 16
  | .fp32 => 32
  | .int32 => 32
  | .cbf16 => 32

/-- Is the format an integer one (02 R36)? -/
def fmtIsInt (f : Fmt) : Bool := (fmtFloat f).isNone

/-- Is the format an MX block format (02 R40)? -/
def fmtIsMx : Fmt → Bool
  | .mxfp4 => true
  | .mxe4m3 => true
  | .mxe5m2 => true
  | _ => false

/-- The exact value of an element's code (02 R36). -/
def fmtVal (f : Fmt) (bits : Nat) : FVal :=
  match fmtFloat f with
  | some ff => fdecode ff bits
  | none => fOfInt (intVal (fmtBits f) bits)

/-- A conversion into an element format that is no MX block (02 R45, R46, R49, R50). -/
def fmtEncode (f : Fmt) (mode : Rnd) (satMod : Bool) (r : Nat) (x : FVal) : Conv :=
  match fmtFloat f with
  | some ff => fencode ff mode satMod r x
  | none => iencode (fmtBits f) mode r x

/-- A value times 2^k, exactly. -/
def fshift (x : FVal) (k : Int) : FVal :=
  match x with
  | .nan => .nan
  | .inf n => .inf n
  | .fin n m e => .fin n m (e + k)

/-- An element of an MX block under its scale: 0xFF makes it a NaN, else the factor is 2^(X−127) (02 R41). -/
def mxScaled (scale : Nat) (x : FVal) : FVal :=
  if scale = 0xFF then .nan else fshift x ((scale : Int) - 127)

/-- The e_max of an MX element format (02 R51). -/
def mxEmax : Fmt → Int
  | .mxfp4 => 2
  | .mxe4m3 => 8
  | _ => 15

/-- floor(log2 |x|) of a finite value that is not zero. -/
def fexp (x : FVal) : Int :=
  match x with
  | .fin _ m e => e + (Nat.log2 m : Int)
  | _ => 0

/-- An MX block written from its values (02 R51): the scale byte and the elements. `r` gives each element's draw. -/
def mxEncode (f : Fmt) (mode : Rnd) (draw : List Nat) (vs : List FVal) : Nat × List Conv :=
  if vs.any (fun v => !fIsFin v) then (0xFF, vs.map fun _ => ⟨0, false, false⟩)
  else if vs.all (fun v => !fNonzero v) then
    (0, vs.map fun v => match v with
      | .fin true _ _ => ⟨2 ^ (fmtBits f - 1), false, false⟩
      | _ => ⟨0, false, false⟩)
  else
    let top := (vs.filter fNonzero).foldl (fun a v => max a (fexp v)) (-1000)
    let se := max (-127) (min 127 (top - mxEmax f))
    ((se + 127).toNat, (vs.zip draw).map fun p => fmtEncode f mode true p.2 (fshift p.1 (-se)))

end Sys2Proof.Machine
end

