-- ==== Sys2Proof/Machine/Fn.lean ====
section
/-! DEFINITION. The elementary functions of the vector engine to far more digits than a result holds (04 R120): fixed-point numbers
with 320 bits after the point, and the choice of a result within so many units of its last place. -/

namespace Sys2Proof.Machine

open Sys2Proof

/-- 1 in fixed point. -/
def fx1 : Int := 2 ^ 320

/-- π/2 in fixed point. -/
def fxHalfPi : Int := 0x1921fb54442d18469898cc51701b839a252049c1114cf98e804177d4c76273644a29410f31c6809bb

/-- ln 2 in fixed point. -/
def fxLn2 : Int := 0xb17217f7d1cf79abc9e3b39803f2f6af40f343267298b62d8a0d175b8baafa2be7b876206debac98

/-- A product in fixed point. -/
def fxMul (a b : Int) : Int := a * b / fx1

/-- A finite FP32 value in fixed point: exact, since no FP32 value has a bit below 2^−149. -/
def fxOf (x : FVal) : Int :=
  match x with
  | .fin n m e => fScaled n m e (-320)
  | _ => 0

/-- A fixed-point number times 2^k as an exact value. -/
def fxVal (v k : Int) : FVal := .fin (decide (v < 0)) v.natAbs (k - 320)

/-- e^r for a small r, by its series. -/
def fxExp (r : Int) : Int := (List.range 80).foldr (fun (i : Nat) acc => fx1 + r * acc / (((i : Int) + 1) * fx1)) fx1

/-- sin r for a small r, by its series. -/
def fxSin (r : Int) : Int :=
  let q := fxMul r r
  fxMul r ((List.range 40).foldr (fun (i : Nat) acc => fx1 - q * acc / ((2 * (i : Int) + 2) * (2 * (i : Int) + 3) * fx1)) fx1)

/-- cos r for a small r, by its series. -/
def fxCos (r : Int) : Int :=
  let q := fxMul r r
  (List.range 40).foldr (fun (i : Nat) acc => fx1 - q * acc / ((2 * (i : Int) + 1) * (2 * (i : Int) + 2) * fx1)) fx1

/-- ln of a fixed-point number from 1 to 2: twice the inverse hyperbolic tangent of (y − 1)/(y + 1), by its series. -/
def fxLog (y : Int) : Int :=
  let z := (y - fx1) * fx1 / (y + fx1)
  let q := fxMul z z
  2 * fxMul z ((List.range 110).foldr (fun (i : Nat) acc => fx1 / (2 * (i : Int) + 1) + fxMul q acc) 0)

/-- The integer nearest a / b, b positive. -/
def nearDiv (a b : Int) : Int := (2 * a + b) / (2 * b)

/-- A fixed-point number confined to ±bound. -/
def fxClamp (bound v : Int) : Int := max (-bound) (min bound v)

/-- e^v as a fixed-point number of [1/√2, √2] and a power of two; beyond ±1,024 the result is out of every FP32 range. -/
def expParts (v : Int) : Int × Int :=
  let w := fxClamp (1024 * fx1) v
  let k := nearDiv w fxLn2
  (fxExp (w - k * fxLn2), k)

/-- e^x. -/
def fnExp (x : FVal) : FVal :=
  let p := expParts (fxOf x)
  fxVal p.1 p.2

/-- 2^x. -/
def fnExp2 (x : FVal) : FVal :=
  let w := fxClamp (1024 * fx1) (fxOf x)
  let k := nearDiv w fx1
  fxVal (fxExp (fxMul (w - k * fx1) fxLn2)) k

/-- ln x of a positive value, in fixed point. -/
def lnFixed (x : FVal) : Int :=
  match x with
  | .fin _ m e =>
    let l := Nat.log2 m
    fxLog ((m : Int) * 2 ^ (320 - l)) + (e + l) * fxLn2
  | _ => 0

/-- ln x of a positive value. -/
def fnLog (x : FVal) : FVal := fxVal (lnFixed x) 0

/-- log2 x of a positive value. -/
def fnLog2 (x : FVal) : FVal := fxVal (lnFixed x * fx1 / fxLn2) 0

/-- A value a part in 2^400 nearer to zero, for a function that lies that side of its argument by less than any digit computed. -/
def fShy (x : FVal) : FVal :=
  match x with
  | .fin n m e => .fin n (m * 2 ^ 400 - 1) (e - 400)
  | v => v

/-- tanh x: an odd function, a part in 2^400 below x in place of the far smaller part by which it lies below x where |x| is below
2^−100, and just below 1 above 220. -/
def fnTanh (x : FVal) : FVal :=
  let v := fxOf x
  let a := (v.natAbs : Int)
  if a * 2 ^ 100 < fx1 then fShy x
  else
    let t := if 220 * fx1 < a then fx1 - 1
      else
        let p := expParts (2 * a)
        let e := p.1 * 2 ^ p.2.toNat
        (e - fx1) * fx1 / (e + fx1)
    fxVal (if v < 0 then -t else t) 0

/-- 1/(1 + e^−x), below 1 for every x. -/
def fnSigmoid (x : FVal) : FVal :=
  let v := fxOf x
  if v < 0 then
    let p := expParts v
    fxVal (p.1 * fx1 / (fx1 + p.1 / 2 ^ (-p.2).toNat)) p.2
  else
    let p := expParts (-v)
    fxVal (min (fx1 - 1) (fx1 * fx1 / (fx1 + p.1 / 2 ^ (-p.2).toNat))) 0

/-- The quadrant of an angle and what is left of it, at most π/4 either way. -/
def quadrant (v : Int) : Int × Int :=
  let q := nearDiv v fxHalfPi
  (q % 4, v - q * fxHalfPi)

/-- sin of an angle that lies `turn` quadrants on. -/
def fnSinAt (turn : Int) (x : FVal) : FVal :=
  let p := quadrant (fxOf x)
  let q := (p.1 + turn) % 4
  fxVal (if q = 0 then fxSin p.2 else if q = 1 then fxCos p.2 else if q = 2 then -fxSin p.2 else -fxCos p.2) 0

/-- sin x: an odd function, below its argument by less than any digit computed where |x| is below 2^−100. -/
def fnSin (x : FVal) : FVal :=
  match x with
  | .fin n m e =>
    if fxOf (.fin false m e) * 2 ^ 100 < fx1 then fShy x
    else
      let r := fnSinAt 0 (.fin false m e)
      if n then fneg r else r
  | v => v
/-- cos x. -/
def fnCos (x : FVal) : FVal := fnSinAt 1 x

/-- Is |x| at most |y|, both finite? -/
def fLeAbs (x y : FVal) : Bool :=
  match x, y with
  | .fin _ m e, .fin _ n f => decide ((m : Int) * 2 ^ (e - min e f).toNat ≤ (n : Int) * 2 ^ (f - min e f).toNat)
  | _, _ => false

/-- `k` units of the last place of FP32 at an exact value (04 R120). -/
def ulps (k : Nat) (x : FVal) : FVal :=
  match x with
  | .fin _ m e => .fin false k (max (-149) (e + (Nat.log2 m : Int) - 23))
  | _ => .fin false 0 0

/-- The value of an FP32 word, an infinity as the 2^128 that lies next after the largest number. -/
def f32grid (w : Word) : FVal :=
  match f32v w with
  | .inf n => .fin n 1 128
  | v => v

/-- Is the FP32 word a subnormal number (02 R37)? -/
def f32subnormal (a : Word) : Bool := decide (1 ≤ a.toNat % 2 ^ 31 ∧ a.toNat % 2 ^ 31 < 2 ^ 23)

/-- A result within a bound of the exact value: the word offered where it lies there and, being zero, has the exact value's sign and
is no subnormal flushed (02 R37); else the nearest word (04 R120). -/
def nearWord (offer : Word) (exact bound : FVal) : Word :=
  let near := rne32 exact
  let neg := match exact with
    | .fin n _ _ => n
    | _ => false
  let zero := fIsFin (f32v offer) && !fNonzero (f32v offer)
  if !f32isNan offer && fLeAbs (fadd (f32grid offer) (fneg exact)) bound
      && !(zero && (decide (2 ^ 31 ≤ offer.toNat) != neg || f32subnormal near)) then offer
  else near

end Sys2Proof.Machine
end

