-- ==== Sys2Proof/Machine/State.lean ====
section
/-! DEFINITION. The state of the block: every register, buffer, table, counter, mode and pin the spec gives it, as plain
data; the outcomes that are no next state; the state after reset. -/

namespace Sys2Proof.Machine

open Sys2Proof

/-! ### The core (01 R20; 03 to 06, 08, 09) -/

/-- A hardware loop that is active (06 R181): its register, the offset of its body and the offset after its body, the
latched count, the iteration index. -/
structure Loop where
  reg   : Fin 4
  start : Nat
  stop  : Nat
  count : Nat
  idx   : Nat
  deriving DecidableEq, Repr

/-- An entry of the call stack (06 R183, R184): the argument that `sq.rcall` passed, where it made the entry, the return
offset, and how many loops were active at the call. -/
structure Frame where
  routine : Option Word
  ret     : Nat
  loops   : Nat
  deriving DecidableEq, Repr

/-- A live comparator K0 to K3 (06 R180). -/
structure Cmp where
  ctr : Ctr
  op  : CmpOp
  b   : Opnd
  deriving DecidableEq, Repr

/-- What holds the SQ (06 R177, R185, R186). -/
inductive Hold where
  | waitq (e : Engine) (n : Nat)
  | delay (n : Nat)
  | post
  deriving DecidableEq, Repr

/-- A narrow load granted and not yet delivered (06 R173, R196, R197): its dispatch number, its stream offset, its counter,
its value. -/
structure PendLoad where
  id     : Nat
  pc     : Nat
  ctr    : Ctr
  value  : Word
  poison : Bool
  deriving DecidableEq, Repr

/-- The wait of an `sq.ld` at the SQ on a scoreboard or on order, with the bytes that it loads (08 R222, R228). -/
structure LoadWait where
  after : Option Sb
  ord   : Bool
  addr  : Nat
  bytes : Nat
  deriving DecidableEq, Repr

/-- The command that stands at the SQ and could not dispatch (06 R198): its words, the counters it names, the wait of a load. -/
structure Stall where
  words : Nat
  ctrs  : List Ctr
  load  : Option LoadWait
  deriving DecidableEq, Repr

/-- The sequencer (06 R170 to R186). `entry` is the program address of the stream's first word; `avail` is how many
narrow words at `pc` are in the fetch or loop buffer; `seq` numbers the dispatches of the beat; `stall` is the command that
stands at the SQ and could not dispatch (R198). -/
structure Sq where
  entry  : Nat
  pc     : Nat
  avail  : Nat
  run    : Bool
  ended  : Bool
  poison : Bool
  hold   : Option Hold
  ctr    : Vector Word 8
  pred   : Vector Bool 8
  cmps   : Vector (Option Cmp) 4
  loops  : List Loop
  stack  : List Frame
  loads  : List PendLoad
  seq    : Nat
  stall  : Option Stall
  deriving DecidableEq, Repr

/-- An engine command as it stands in a queue, its counters copied at dispatch (06 R174). -/
inductive ECmd where
  | mxLoad (c : MxLoad)
  | mxWs (c : MxWs)
  | mxOs (c : MxOs)
  | mxClear (half : Fin 2) (l512 : Bool)
  | mxSheet (sid : Fin 4)
  | mxSheetOff
  | vxLd (x : Fin 8) (vd : VReg) (src : VOp)
  | vxSt (x : Fin 8) (mz : Bool) (vs : VReg) (dst : VOp) (mask : VMask)
  | vxBcast (vd : VReg) (v : Word)
  | vxIota (vd : VReg)
  | vxMov (vd vs : VReg)
  | vxCtx (x : Fin 8) (lo hi erow key : Word)
  | vxRun (c : VxRun)
  | vxRed (c : VxRed)
  | vxScan (c : VxScan)
  | vxSmStat (vm vs : VReg) (src : VOp) (rows : Word) (mask : VMask)
  | vxSmMerge (vm vs vm2 vs2 va1 va2 : VReg)
  | vxSmNorm (dst src : VOp) (vm vs : VReg) (rows : Word) (mask : VMask)
  | vxSmFinal (dst src : VOp) (vs : VReg) (rows : Word)
  | vxSmLse (vd vm vs : VReg)
  | vxDigPost (n : Fin 8) (layer tensor : BitVec 16)
  | dmCopy (dst src bytes : Word)
  | dmZero (dst bytes : Word)
  | dmGather (mz : Bool) (dst base list count bsize : Word)
  | dmScatter (base list count bsize src : Word)
  | dmRput (chip win off src bytes : Word)
  | lpSend (s : Strm) (src bytes : Word)
  | lpArm (s : Strm) (dst bytes : Word) (add : Option (Word × Word))
  | lpDisarm (s : Strm)
  | seSet (f v : Word)
  | seAdd (f n : Word)
  | seWaitObs (f v : Word)
  | seWaitTake (f n : Word)
  | seRsig (chip f n : Word)
  | seFenceQ (m : FenceMask)
  | seFenceAll
  | seFenceRemote
  deriving DecidableEq, Repr

/-- An entry of an engine queue (06 R175; 08 R222): the dispatch number, the stream offset, the command, its mark, and
for `.after.sbN` the number of marks it waits for. -/
structure QEntry where
  id    : Nat
  pc    : Nat
  cmd   : ECmd
  mark  : Option Sb
  after : Option (Sb × Nat)
  ord   : Bool
  deriving DecidableEq, Repr

/-- How an issued command completes (08 R218): by COMMAND_COMPLETE (`timed`), or by the event of its own (a departure, a
landing, a flag operation applied, a release, a fence's condition, a cell that leaves, the other cores of a sheet for a
copy of a command or for the exchange of descriptors). -/
inductive Finish where
  | timed | send | arm | flagOp | wait | fence | leave | sheet | join
  deriving DecidableEq, Repr

/-- How a command ended (06 R194). -/
inductive CmdEnd where
  | ok | fault | absent | abandoned
  deriving DecidableEq, Repr

/-- The check state of a granule of 8 bytes (05 R149 to R151). -/
inductive Ecc where
  | clean | single | uncorr | poison
  deriving DecidableEq, Repr

/-- What the writes of an outstanding command replaced, in the order in which it writes, each with what it wrote: bytes and
check states of the slices by global address, elements of the ACB keyed half × 65,536 + element; and the rows it added to
VE_ROW_COUNT. At a boundary that abandons the command the writes it has not made are taken back (03 R101; 04 R109; 06 R190). -/
structure Undo where
  mem  : List (Nat × Byte × Byte)
  ecc  : List (Nat × Ecc × Ecc)
  acb  : List (Nat × Word × Word)
  rows : Nat
  deriving DecidableEq, Repr

/-- A command issued and not complete (08 R218). -/
structure Issued where
  id     : Nat
  eng    : Engine
  pc     : Nat
  mark   : Option Sb
  finish : Finish
  cmd    : ECmd
  undo   : Option Undo
  deriving DecidableEq, Repr

/-- A byte range, from `lo` to before `hi`, of program addresses (space 0) or of ACB half 0 or 1 (spaces 1, 2): one hull
of 08 R227. -/
structure Hull where
  space : Nat
  lo    : Nat
  hi    : Nat
  deriving DecidableEq, Repr

/-- An entry of the tracking table (08 R227). -/
structure Track where
  id : Nat
  rd : List Hull
  wr : List Hull
  deriving DecidableEq, Repr

/-- A 32-bit element with its poison mark (03 R106; 04 R140). -/
structure Elt where
  bits   : Word
  poison : Bool
  deriving DecidableEq, Repr

/-- A stationary buffer w0 or w1 (03 R76, R77): elements keyed k × 512 + n, scale bytes keyed n × 16 + block. -/
structure WBuf where
  valid : Bool
  fmt   : Fmt
  kb    : Nat
  nb    : Nat
  elts  : List (Nat × Elt)
  scls  : List (Nat × Nat)
  deriving DecidableEq, Repr

/-- The record of a row group of the ACB (03 R71). -/
structure AcbRec where
  int32   : Bool
  written : Bool
  fmt     : Fmt
  pass    : Nat
  deriving DecidableEq, Repr

/-- A half of the ACB (03 R70, R71, R103): layout tag, type of the last clear, elements keyed by byte offset / 4, row
group records. -/
structure AcbHalf where
  l512     : Bool
  clearInt : Bool
  elts     : List (Nat × Word)
  recs     : List (Nat × AcbRec)
  deriving DecidableEq, Repr

/-- The matrix engine (03 R66 to R106). `offers` are the descriptors that neighbours have presented and this core has not yet
compared with its own, each with the neighbour; `seen` are the neighbours whose descriptor a core that waits in `mx.sheet` has
found equal (R94); `turn` numbers the commands that the core has issued on its sheet, and `copies` are those that have started, by
their numbers (R95). -/
structure Me where
  w      : Vector WBuf 2
  acb    : Vector AcbHalf 2
  sheet  : Option (Fin 4)
  offers : List (Nat × Word)
  seen   : List Nat
  turn   : Nat
  copies : List (Nat × ECmd)
  deriving DecidableEq, Repr

/-- A source of a micro-op (04 R116). -/
inductive USrc where
  | i (n : Fin 4)
  | t (n : Fin 8)
  | lane
  | row
  | imm (w : Word)
  deriving DecidableEq, Repr

/-- A destination of a micro-op (04 R116). -/
inductive UDst where
  | t (n : Fin 8)
  | o (n : Fin 2)
  deriving DecidableEq, Repr

/-- A comparison of `fcmp` and `icmp` (04 R119). -/
inductive UCmp where
  | eq | ne | lt | le | gt | ge
  deriving DecidableEq, Repr

/-- The micro-ops of 04 R119. -/
inductive UCode where
  | mov | fneg | fabs | fmin | fmax
  | fcmp (c : UCmp)
  | sel | and | or | xor | not | shl | shr | sar
  | iadd (sat : Bool) | isub (sat : Bool) | imin | imax
  | icmp (c : UCmp)
  | fadd | fsub | fmul | fma | imul
  | fround (m : Rnd) | ffloor
  | f2i (m : Rnd) | i2f
  | frcp | frsqrt | fexp2 | flog2 | fexp | flog | fsqrt | fdiv
  | ftanh | fsigmoid | fsin | fcos
  deriving DecidableEq, Repr

/-- One micro-op with its destination and sources (04 R116). -/
structure UOp where
  code : UCode
  dst  : UDst
  a    : USrc
  b    : USrc
  c    : USrc
  deriving DecidableEq, Repr

/-- An element program (04 R116). -/
structure EProg where
  ins  : Nat
  outs : Nat
  ops  : List UOp
  deriving DecidableEq, Repr

/-- A stream context (04 R115). -/
structure VCtx where
  base : DWord
  erow : Word
  key  : Word
  deriving DecidableEq, Repr

/-- The vector engine (04 R107): register lanes keyed register × 256 + lane, contexts, digest slots, the count of
VE_ROW_COUNT, the element-program store keyed by index. -/
structure Ve where
  v        : List (Nat × Elt)
  ctx      : Vector VCtx 8
  dig      : Vector DWord 8
  rowCount : BitVec 40
  progs    : List (Nat × Option EProg)
  deriving DecidableEq, Repr

/-- A send of the LP (06 R191, R192): the command's number, its stream, the source, the length, the bytes departed. -/
structure Send where
  id    : Nat
  strm  : Strm
  src   : Nat
  bytes : Nat
  sent  : Nat
  deriving DecidableEq, Repr

/-- A landing buffer armed (06 R191, R193): the command's number, its stream, destination, length, the bytes landed, and
whether anything has been written into it, and its flag add. -/
structure Arm where
  id      : Nat
  strm    : Strm
  dst     : Nat
  bytes   : Nat
  got     : Nat
  written : Bool
  add     : Option (Word × Word)
  deriving DecidableEq, Repr

/-- The lattice port engine (06 R191). -/
structure Lp where
  sends : List Send
  arms  : List Arm
  deriving DecidableEq, Repr

/-- The last wait of the SE (08 R249). -/
structure SeWait where
  flag   : Nat
  take   : Bool
  active : Bool
  arg    : Word
  deriving DecidableEq, Repr

/-! ### The networks of the die (09) -/

/-- A flit of the lattice (09 R255): void or valid, 128 bytes, a poison bit for each of its 16 granules; `gone` where its link
has discarded it, so that nothing moves in its cycle and the positions it should have filled stay unwritten (R256); `late` where a
late crossing has put a void flit in its place (11 R323). -/
structure Flit where
  void   : Bool
  gone   : Bool
  late   : Bool
  bytes  : List Byte
  poison : List Bool
  deriving DecidableEq, Repr

/-- The lattice switch of a core (09 R257, R258): its table, the entry in effect, the cycles left of it, whether it plays
a non-empty entry, and the flits on their way to its four link inputs. -/
structure Lat where
  table : List DWord
  idx   : Nat
  left  : Nat
  play  : Bool
  inN   : List Flit
  inE   : List Flit
  inS   : List Flit
  inW   : List Flit
  deriving DecidableEq, Repr

/-- A drift packet (09 R267). -/
structure Packet where
  dst     : Nat
  src     : Nat
  kind    : BitVec 8
  secure  : Bool
  poison  : Bool
  cplReq  : Bool
  seq     : BitVec 16
  injTime : BitVec 16
  tag     : BitVec 16
  len     : Nat
  part    : Nat
  hops    : Nat
  payload : List Byte
  deriving DecidableEq, Repr

/-- A drift router (09 R268): arrived packets on N, E, S, W, the output queues of two toward N, E, S, W, and the port injected
from last (R272). -/
structure Router where
  ins  : Vector (Option Packet) 4
  outs : Vector (List Packet) 4
  last : Nat
  deriving DecidableEq, Repr

/-- The drift network (09 R265 to R273): routers keyed py × 16 + px; packets waiting at a port and the packets of a port that are
outstanding, keyed by the port; ejected packets on their way into a mailbox, and mailboxes, keyed by endpoint; by SRC × 65,536 +
DST the next SEQ, the completion counts, the SEQ a receiver in order awaits and the packets it holds until then (R270); the
device fault DRIFT_HDR; what the drift cycle count is ahead of the one that TC gives (R265). -/
structure Drift where
  routers : List (Nat × Router)
  waiting : List (Nat × List Packet)
  arrived : List (Nat × List Packet)
  mail    : List (Nat × List Packet)
  seqs    : List (Nat × BitVec 16)
  counts  : List (Nat × Word)
  expect  : List (Nat × BitVec 16)
  early   : List (Nat × List Packet)
  outst   : List (Nat × Nat)
  hdrFault : Bool
  ahead   : BitVec 16
  deriving DecidableEq, Repr

/-! ### Slices, flags (05, 08) -/

/-- The port of one bank (05 R149, R150, R153, R165): requests waiting with the cycles they have waited, the class-2
pointer (0 PG, 1 RL0, 2 RL1), the next scrub row and whether a pass is complete since SCRUB_PASS was cleared, the
pending correction write-back with the cycles it has waited. -/
structure Bank where
  waiting  : List (BankReq × Nat)
  pointer  : Nat
  row      : Nat
  passed   : Bool
  corr     : Option (Nat × Nat)
  deriving DecidableEq, Repr

/-- What a flag operation does (08 R236). -/
inductive FlagKind where
  | set | add | obs | take
  deriving DecidableEq, Repr

/-- A flag operation on its way to its bank, or, as a watch, registered there (08 R234, R235, R237): the device flag, the
operation, its argument, the source key (source, queue), and the dispatch number of the issuing command. -/
structure FlagOp where
  flag  : Nat
  kind  : FlagKind
  arg   : Word
  src   : Nat
  queue : Nat
  id    : Nat
  deriving DecidableEq, Repr

/-- The flag pool (08 R232 to R246, R250): values, registered watches, operations in flight, at each of the 16 banks the
operations that have arrived and are not applied, in the order in which it applies them, releases in flight to cores, the
values recorded at the last boundary (MC_FLAG) and the values at the start of the beat. -/
structure Flags where
  value    : List (Nat × Word)
  watches  : List FlagOp
  ops      : List FlagOp
  banks    : Vector (List FlagOp) 16
  releases : List (Nat × Nat)
  recorded : List (Nat × Word)
  opening  : List (Nat × Word)
  deriving DecidableEq, Repr

/-- One core (01 R20). `ends` are the commands of the beat that have ended, by dispatch number, with their statuses; `lastEnds`
those of the beat before (06 R194). `counting` is the model's own: the block offsets of the cycle counters that may have counted
since they were last written (log entry 14). -/
structure Core where
  sq     : Sq
  qMe    : List QEntry
  qVe    : List QEntry
  qDm    : List QEntry
  qLp    : List QEntry
  qSe    : List QEntry
  issued : List Issued
  marked : Vector Nat 16
  done   : Vector Nat 16
  track  : List Track
  ordOvf : Bool
  ends   : List (Nat × CmdEnd)
  lastEnds : List (Nat × CmdEnd)
  me     : Me
  ve     : Ve
  lp     : Lp
  wait   : SeWait
  lat    : Lat
  counting : List Nat
  deriving DecidableEq, Repr

/-! ### Partitions and programs (07) -/

/-- The states of a partition (07 R210), in the order of MC_PART_STATEn.STATE. -/
inductive PState where
  | free | idle | starting | running | halted
  deriving DecidableEq, Repr

/-- A section of a program image (07 R204). -/
structure Section where
  kind : Nat
  core : Nat
  tier : Nat
  addr : Nat
  mem  : Nat
  data : List Byte
  deriving DecidableEq, Repr

/-- A program image as the loader reads it (07 R203). -/
structure Image where
  repro     : Bool
  secure    : Bool
  pageLog2  : Nat
  x0        : Nat
  y0        : Nat
  w         : Nat
  h         : Nat
  power     : Nat
  flags     : Nat
  near4k    : Nat
  t04k      : Nat
  t14k      : Nat
  groupSize : Nat
  member    : Nat
  digest    : List Byte
  sections  : List Section
  deriving DecidableEq, Repr

/-- What the loader's checks of a stream look at (07 R209): a command of an engine, an `sq.post` with an immediate, the commands
that move the stream (`ret` is `sq.ret`), `sq.end`, the others, `sq.rret` among them, which closes no call of the section (06 R183). Offsets are narrow words from the start of the section; the end of a loop is the
offset after the last command of its body. -/
inductive StreamOp where
  | engine (e : Engine)
  | post (unit : Nat)
  | loop (stop : Nat)
  | jmp (target : Nat)
  | call (target : Nat)
  | ret
  | fin
  | other
  deriving DecidableEq, Repr

/-- A command of an encoded stream, as the loader decodes it: its offset, its words, whether a predicate other than P0 is written
on it (06 R178), what it is. -/
structure StreamCmd where
  off   : Nat
  words : Nat
  pred  : Bool
  op    : StreamOp
  deriving DecidableEq, Repr

/-- A resident program (07 R209): its slot of the keep bitmap, the handle of its load, the image, where its ranges begin in each
tier, in 4 KiB units from the tier's start, and the program addresses at which its resident routines stand (06 R184). -/
structure Prog where
  slot   : Nat
  handle : Nat
  image  : Image
  base0  : Nat
  base1  : Nat
  base2  : Nat
  routines : List (Nat × Nat)
  deriving DecidableEq, Repr

/-- An operation on a partition or a transit claim (part 0xFFFF) until it is complete (07 R211 to R215; 10 R290): its OP, the
session and TAG of the command, whether it unbinds, with its keep bitmap, and what it binds; `tc` is the TC at which it arrived,
`passed` says that B1 has passed, `due` is the TC from which the bound program may start. -/
structure PartOp where
  part   : Nat
  op     : Nat
  sess   : Nat
  tag    : Word
  unbind : Bool
  keep   : Word
  bind   : Option BindBody
  tc     : DWord
  passed : Bool
  due    : DWord
  deriving DecidableEq, Repr

/-- A partition (07 R210, R211, R217). -/
structure Part where
  st       : PState
  secure   : Bool
  repro    : Bool
  pageLog2 : Nat
  x0       : Nat
  y0       : Nat
  w        : Nat
  h        : Nat
  group    : Nat
  fbase    : Nat
  fcount   : Nat
  alloc    : Nat
  decl     : Nat
  progs    : List Prog
  bound    : Option Nat
  members  : List Member
  dkey     : DWord
  deriving DecidableEq, Repr

/-- A transit claim (10 R290): the number under which it owns runs, 16 or more, its group, the slot of its program, its state. -/
structure Transit where
  owner : Nat
  group : Nat
  slot  : Nat
  st    : PState
  deriving DecidableEq, Repr

/-- An image load that is open (07 R209; 15 R434, R440): the handle, the session, the partition, the length announced, the bytes
received in order, and whether one came out of order. -/
structure Load where
  handle  : Nat
  session : Nat
  part    : Nat
  total   : Nat
  bytes   : List Byte
  bad     : Bool
  deriving DecidableEq, Repr

/-! ### The tether and the flight (10) -/

/-- A run table installed by a partition (owner 0 to 15) or a transit claim (owner 16 and up): the port, departure or
arrival, its entries (10 R286, R288). -/
structure Run where
  owner   : Nat
  port    : Nat
  dep     : Bool
  entries : List DWord
  deriving DecidableEq, Repr

/-- What a port has heard of its neighbour during a join (10 R303). -/
inductive Heard where
  | nothing | child | peer
  deriving DecidableEq, Repr

/-- A tether port (10 R279, R300, R303, R305, R309): its state as TETHER_PORTn_STATE.STATE shows it, lanes aligned, the
measured delay, the one-way delays of the echoes in 1/32 tc, probes sent, what it has heard, READY received, neighbour
lost; what its alignment block names, and whether 200 ms of training have passed without a lock; the frame counter and the
cells sent in the frame (R277); a TIME that came before the port was measured, with the TC of its arrival (R302); whether it is a port
of the flight joined (R294). -/
structure TPort where
  st     : Nat
  lanes  : Nat
  dMeas  : Nat
  delays : List Nat
  probes : Nat
  heard  : Heard
  ready  : Bool
  lost   : Bool
  block  : Option AlignBlock
  late   : Bool
  frame  : BitVec 48
  cells  : Nat
  time   : Option (DWord × Nat × DWord)
  joined : Bool
  deriving DecidableEq, Repr

/-- A DMA cell queued to leave (06 R189; 10 R292); `last` ends its command. -/
structure DmaOut where
  part   : Nat
  chip   : Nat
  win    : Nat
  off    : Nat
  bytes  : List Byte
  poison : Bool
  core   : Nat
  id     : Nat
  last   : Bool
  deriving DecidableEq, Repr

/-- An outgoing remote signal waiting for a slot (08 R242; 10 R291). -/
structure SigOut where
  part : Nat
  chip : Nat
  flag : Nat
  n    : Word
  core : Nat
  id   : Nat
  deriving DecidableEq, Repr

/-- An incoming signal held for its stamp (08 R243). -/
structure SigHeld where
  chip  : Nat
  part  : Nat
  flag  : Nat
  n     : Word
  stamp : Word
  deriving DecidableEq, Repr

/-- A cell to be forwarded (10 R287): out of which port, in which departure slot; none where its arrival failed. -/
structure FwdCell where
  port : Nat
  slot : Nat
  src  : Nat
  cell : Option Cell
  deriving DecidableEq, Repr

/-- The join (10 R299 to R303): step, failure code, parent, depth, the bitmap and count of the subtree, READY sent,
START_TC and first beat number once known. -/
structure Join where
  step    : Nat
  code    : Nat
  parent  : Option Nat
  isRoot  : Bool
  depth   : Nat
  bitmap  : List Nat
  count   : Nat
  sent    : Bool
  startTc : Option DWord
  first   : BitVec 48
  dMax    : Nat
  deriving DecidableEq, Repr

/-- The tether unit (08 R243; 09 R261; 10). -/
structure Tether where
  ports   : Vector TPort 8
  runs    : List Run
  legDep  : List (Nat × List Flit)
  legArr  : List (Nat × List Flit)
  dmaOut  : List DmaOut
  sigOut  : List SigOut
  held    : List SigHeld
  dmaSent : List (Nat × Word)
  dmaRcvd : List (Nat × Word)
  fwd     : List FwdCell
  rwin    : List (Nat × (Word × Word × Word))
  join    : Join
  deriving DecidableEq, Repr

/-! ### Time and beats (11; 10 R294 to R297, R304) -/

/-- The time base (11 R311 to R316, R321, R326; 10 R302): TC and its phase within a tc in 1/32 tc, locked, holdover, source lost, the captured high half, the phase
reference in 1/16 tc, calibration failed, and per region the stretch counts and the warning that waits. -/
structure TimeBase where
  tc       : DWord
  phase    : Int
  locked   : Bool
  holdover : Bool
  tcHi     : Word
  phaseRef : Option Int
  srcPort  : Bool
  calFail  : Bool
  stretch  : Vector Nat 16
  warnWait : Vector Bool 16
  deriving DecidableEq, Repr

/-- What a beat status carries (10 R295): FAIL, SKIP, FAULT, and the model groups of the bitmap. -/
structure Status where
  fail   : Bool
  skip   : Bool
  fault  : Bool
  groups : List Nat
  deriving DecidableEq, Repr

/-- The beat generator and the beat status (10 R294 to R297, R304; 11 R327 to R332). `kind` is TB_BEAT_STATE.KIND;
`acc` gathers the events since the last cut; `own` was formed at the cut; `seen` is the OR with the copies usable;
`cells` are the rounds and ports whose copy has decoded; `replayNext` is the decision in force; `cond` the flight-fault
condition first entered with its port; `skipRun` the periods in a row in which the device set SKIP. -/
structure Beat where
  joined     : Bool
  kind       : Nat
  bno        : BitVec 48
  period     : DWord
  replays    : Nat
  startTc    : DWord
  inGuard    : Bool
  cut        : Bool
  acc        : Status
  own        : Status
  seen       : Status
  cells      : List (Nat × Nat)
  replayNext : Bool
  cond       : Option (Nat × Nat)
  faulted    : Option (Nat × Nat)
  skipRun    : Nat
  skipSet    : Bool
  lastCommit : BitVec 48
  deriving DecidableEq, Repr

/-! ### Records (16 R465 to R469) -/

/-- A fault and event record (16 R469). -/
structure Evt where
  code  : Nat
  unit  : Nat
  eng   : Nat
  part  : Nat
  core  : Nat
  count : Nat
  bno   : BitVec 48
  arg   : Word
  tc    : DWord
  deriving DecidableEq, Repr

/-- Who caused a change: the interface of 16 R466, its world, the PCT source address, its UDP port, the session. -/
structure Origin where
  iface  : Nat
  secure : Bool
  src    : List Byte
  port   : Nat
  sess   : Nat
  deriving DecidableEq, Repr

/-- A change-log record but for its chain value (16 R465, R466). -/
structure LogRec where
  kind   : Nat
  origin : Nat
  secure : Bool
  part   : Nat
  tc     : DWord
  src    : List Byte
  addr   : Word
  old    : Word
  new    : Word
  arg    : Word
  deriving DecidableEq, Repr


/-! ### Requests (13) -/

/-- The states of a request entry, in the order of its STATE field (13 R357). -/
inductive EState where
  | free | queued | admitted | running | parked | reeling | done | failed
  deriving DecidableEq, Repr

/-- A request entry (13 R357) with what the block holds beside its 64 bytes: the session and tag of its turn (15 R437), the
words of the staging range that it holds (R435), its staged positions with the on-chip addresses of their tokens (14 R396), tokens
held with the entry (R396), whether its next token record carries GAP (15 R437), whether its first placement is still due (14 R390) and its slab is fresh (R397), its expert pin (14 R417), whether
its final record has been acknowledged and whether a FETCH with RELEASE has completed since it ended (15 R438), its
selection (14 R409), whether it has taken the pins of its turn (14 R417). -/
structure Ent where
  st       : EState
  prio     : Nat
  nowait   : Bool
  keep     : Bool
  topkEn   : Bool
  spec     : Nat
  reason   : Nat
  client   : Nat
  cancel   : Bool
  slot     : Option Nat
  qseq     : Nat
  tailgen  : Bool
  length   : Nat
  done     : Nat
  maxNew   : Nat
  gen      : Nat
  slab     : Option Nat
  deadline : DWord
  seed     : DWord
  key      : DWord
  adapter  : Nat
  expert   : Nat
  temp     : BitVec 16
  topP     : BitVec 16
  topK     : BitVec 8
  tokgap   : Bool
  bidir    : Bool
  noattend : Bool
  supplied : Nat
  sess     : Option Nat
  tag      : Word
  staging  : List Nat
  staged   : List (Nat × Nat)
  tail     : List (Nat × Word)
  fresh    : Bool
  slabNew  : Bool
  gap      : Bool
  acked    : Bool
  fetched  : Bool
  sel      : List Nat
  pinned   : Bool
  deriving DecidableEq, Repr

/-- A client record (13 R363). -/
structure Cli where
  balance  : DWord
  reserved : DWord
  spent    : DWord
  refilled : DWord
  burst    : DWord
  rate     : Word
  window   : Word
  next     : DWord
  prioCap  : Nat
  world    : Bool
  valid    : Bool
  experts  : Nat
  adapters : Nat
  deriving DecidableEq, Repr

/-- A slot of a batch table (13 R372): the slot record, its tokens, the positions c and drafts d chosen (R369), the
reservation, whether the slab is fresh (14 R397), and the entry as it stood before the placement (14 R391). -/
structure BSlot where
  ent     : Nat
  emit    : Bool
  tailgen : Bool
  mask    : Nat
  start   : Nat
  c       : Nat
  d       : Nat
  tokens  : List Word
  drafts  : List DraftStep
  head    : Nat
  pages   : Nat
  slab    : Option Nat
  adapter : Nat
  expert  : Nat
  resv    : Nat
  fresh   : Bool
  was     : Ent
  deriving DecidableEq, Repr

/-- A page append of a table (13 R372; 14 R390): the slot, or 0xFFFF, and the word. -/
structure Append where
  slot : Nat
  word : Word
  deriving DecidableEq, Repr

/-- A draft set (13 R378): the entry, the position of step 0, the steps present by number, the TC of its last arrival. -/
structure DraftSet where
  ent   : Nat
  pos   : Nat
  steps : List (Nat × DraftStep)
  tc    : DWord
  deriving DecidableEq, Repr

/-- An uncommitted result of a slot (13 R377): the tokens emitted, or none where sampling found no candidate. -/
structure SlotResult where
  group : Nat
  bno   : BitVec 48
  slot  : Nat
  acc   : Nat
  toks  : Option (List Word)
  deriving DecidableEq, Repr

/-- What a request command asks for (13 R359). -/
inductive ReqOp where
  | submit (b : SubmitBody)
  | resume (maxNew : Nat) (deadline : DWord) (tokens : List Word)
  | cancel
  | draft (pos : Nat) (steps : List DraftStep)
  | fetch (from_ : Nat) (release : Bool)
  deriving DecidableEq, Repr

/-- A command in an intake ring (15 R435): its session and world, its header, what it asks, the TC of its acceptance, the words
of the staging range that it takes, in the order of what it carries, and where the range began. -/
structure RingCmd where
  sess   : Nat
  secure : Bool
  c      : CmdHdr
  op     : ReqOp
  tc     : DWord
  slots  : List Nat
  base   : Nat
  deriving DecidableEq, Repr

/-- What a command that may take several messages asks for (15 R433, R434): a request op; BIND, REBIND or TRANSIT with its body and
keep bitmap; another management op by its number. -/
inductive OpenOp where
  | req (op : ReqOp)
  | bind (op : Nat) (b : BindBody) (keep : Word)
  | plain (op : Nat)
  deriving DecidableEq, Repr

/-- A command of which some messages have arrived (15 R433): its header, what it asks with the data so far, and whether its messages
have been interleaved with another kind. -/
structure OpenCmd where
  hdr : CmdHdr
  op  : OpenOp
  bad : Bool
  deriving DecidableEq, Repr

/-- A FETCH taken and not complete (15 R438). -/
structure FetchJob where
  slot    : Nat
  ent     : Nat
  from_   : Nat
  count   : Nat
  release : Bool
  sess    : Nat
  tag     : Word
  deriving DecidableEq, Repr

/-- A write held for the next work boundary (13 R364, R383): a word of a client record, a credit, a write of
RT_GROUPn_CTL that sets or clears VALID, NOADMIT or FROZEN. -/
inductive HeldWrite where
  | client (c word : Nat) (v : Word)
  | credit (c amount : Nat)
  | valid (n : Nat) (b : Bool)
  | noadmit (n : Nat) (b : Bool)
  | frozen (n : Nat) (b : Bool)
  deriving DecidableEq, Repr

/-- A job of a sampling unit (13 R375). -/
structure SuJob where
  first  : Nat
  count  : Nat
  shards : Nat
  k      : Nat
  cand   : Nat
  part   : Nat
  deriving DecidableEq, Repr

/-- A sampling unit (13 R375, R377): its jobs, the one that runs first. -/
structure Su where
  jobs : List SuJob
  deriving DecidableEq, Repr

/-! ### Sequence state (14) -/

/-- The residency of a page (14 R387). -/
inductive Resid where
  | resident | outgoing | stored | incoming | lost
  deriving DecidableEq, Repr

/-- A page that is not FREE (14 R387, R403, R405, R407, R410): QUIET or LIVE, residency, frame, DIRTY, references, pins of
the table, pin of a reel order, beat number of the last table that pinned it, boundaries since it became QUIET. -/
structure Page where
  quiet   : Bool
  res     : Resid
  frame   : Option Nat
  dirty   : Bool
  refs    : Nat
  pins    : Nat
  order   : Bool
  lastUse : Nat
  age     : Nat
  deriving DecidableEq, Repr

/-- Where a reel order stands on a device (14 R411, R413): committed and not started, its operations in progress, failed. -/
inductive OrderSt where
  | waiting | running | failed
  deriving DecidableEq, Repr

/-- A reel order (14 R411): its number, out or in, the page, the frame, whether the data moves, the RDMA operations still
open, where it stands. -/
structure Order where
  seq  : Nat
  out  : Bool
  page : Nat
  frame : Nat
  move : Bool
  openOps : Nat
  st   : OrderSt
  deriving DecidableEq, Repr

/-- The record of a member as the anchor has read it (14 R412). -/
structure AckRec where
  member  : Nat
  done    : Nat
  failSeq : Nat
  failCnt : Nat
  stopped : Bool
  deriving DecidableEq, Repr

/-- What the page engine and its reel engine hold for one partition (14 R385 to R413): pages by ID, page lists by entry,
committed-buffer bits by slab, selections posted in the period, group operations that wait for a table, orders that have
committed, the orders of the anchor not yet complete on all devices, the next order number, the abandoned orders, this
device's DONE, STOPPED, FAIL_SEQ and FAIL_COUNT, the records read, REEL_STOP, the beat number of the table applied, the
slot operations' state before it, the copy list, the entries whose slab is fresh, and the beat number of the view written; the model
group whose books they are, where the partition is its anchor (R396); the list blocks of each entry, in the order in which NEXT links
them, and how many have been taken (R389); the RETRY (false) and ABANDON (true) that wait for a boundary (R419, R420). -/
structure PgPart where
  pages    : List (Nat × Option Page)
  lists    : List (Nat × List Nat)
  kbits    : List (Nat × Bool)
  posts    : List (Nat × Bool × List Nat)
  groupOps : List (Nat × Nat)
  orders   : List Order
  watch    : List Order
  next     : Nat
  aband    : List Nat
  doneN    : Nat
  stopped  : Bool
  failSeq  : Nat
  failCnt  : Nat
  acks     : List AckRec
  stop     : Bool
  table    : Option (BitVec 48)
  before   : Option (List (Nat × Option Page) × List (Nat × List Nat))
  cows     : List (Nat × Nat)
  fresh    : List Nat
  view     : Option (BitVec 48)
  group    : Option Nat
  chains   : List (Nat × List Nat)
  picks    : Nat
  ctl      : List Bool
  deriving DecidableEq, Repr

/-- A batch table of a group (13 R372, R374): the group slot, the beat number, the boundary's TC, the slots, the page
appends, its cells, how many have been sent, the offset at which the table is ready, and whether it has been found late (R371). -/
structure BTable where
  n     : Nat
  group : Nat
  bno   : BitVec 48
  tc    : DWord
  slots : List BSlot
  apps  : List Append
  cells : Nat
  sent  : Nat
  ready : Nat
  late  : Bool
  deriving DecidableEq, Repr

/-- A batch table as its cells arrive at a member (13 R373; 14 R391): the group, the bytes, whether LAST has come. -/
structure BRecv where
  group : Nat
  anchor : Nat
  bytes : List (Nat × List Byte)
  last  : Bool
  deriving DecidableEq, Repr

/-- The request table unit (13). `snapEnts` and `snapClis` are the words as reads return them (R358); `busy` is the TC by which the
RT has served the groups at the boundary that opened the period (R371, R383). -/
structure Rt where
  ents     : List (Nat × Ent)
  clis     : List (Nat × Cli)
  snapEnts : List (Nat × List Word)
  snapClis : List (Nat × List Word)
  held     : List (Origin × HeldWrite)
  qseq     : Vector Nat 16
  tables   : List BTable
  recv     : List BRecv
  drafts   : List DraftSet
  results  : List SlotResult
  fetches  : List FetchJob
  busy     : DWord
  deriving DecidableEq, Repr

/-! ### Digests (12) -/

/-- An entry of the open table (12 R351). -/
structure DgOpen where
  period : Nat
  group  : Nat
  layer  : Nat
  tensor : Nat
  digest : DWord
  posts  : Nat
  deriving DecidableEq, Repr

/-- A digest record (12 R352). -/
structure DgRec where
  digest : DWord
  bno    : BitVec 48
  layer  : Nat
  tensor : Nat
  posts  : Nat
  flags  : Nat
  group  : Nat
  seq    : Word
  deriving DecidableEq, Repr

/-- The digest unit (12 R351 to R353): open entries, incomplete periods, what is known of the last two periods (index,
beat number, attempt), the ring, the next record number. -/
structure Dg where
  table : List DgOpen
  bad   : List Nat
  past  : List (Nat × BitVec 48 × Nat × Bool)
  log   : List (Nat × Option DgRec)
  seq   : Word
  deriving DecidableEq, Repr

/-! ### The host interface (15) -/

/-- A sequenced message the device holds until it is acknowledged (15 R431): its kind, its body, GAP, the entries whose
token records it carries, those of them with END. -/
structure OutMsg where
  seq   : Word
  kind  : Nat
  gap   : Bool
  body  : List Byte
  ents  : List Nat
  ends  : List Nat
  deriving DecidableEq, Repr

/-- A session context (15 R430 to R432, R435; 16 R472): a number of its own, address, port, identifier, world, network of
the last message, sequence numbers, messages unacknowledged and waiting, resends, missed heartbeats, the ring last used,
the stream mask and positions, and of the REGISTER message in progress the operations left and the reply so far (R439). -/
structure Sess where
  uid     : Nat
  src     : List Byte
  port    : Nat
  id      : Word
  secure  : Bool
  ep      : Fin 8
  rx      : Word
  tx      : Word
  unacked : List OutMsg
  waiting : List OutMsg
  resends : Nat
  missed  : Nat
  ring    : Option Nat
  mask    : Nat
  fromEvt : Word
  fromLog : Word
  left    : Nat
  reply   : List Byte
  cmd     : Option OpenCmd
  deriving DecidableEq, Repr

/-- What an RDMA packet of the device is (15 R425). -/
inductive RoceOp where
  | writeFirst | writeMiddle | writeLast | writeOnly | readReq | nak | cnp
  deriving DecidableEq, Repr

/-- A request of a queue pair not yet acknowledged (15 R426): its PSN, how many PSNs it takes, what it is, its data or
length, the partition and order it serves, the address in the store with its remote key, how many of its bytes have come or have
been acknowledged. -/
structure RoceReq where
  psn   : Nat
  span  : Nat
  op    : RoceOp
  data  : List Byte
  va    : DWord
  len   : Nat
  part  : Nat
  order : Nat
  off   : Nat
  rkey  : Word
  deriving DecidableEq, Repr

/-- A queue pair (15 R426, R427): requests unacknowledged, consecutive retries, the TC of the last rate cut and the last
CNP sent. -/
structure Qp where
  reqs  : List RoceReq
  tries : Nat
  cutTc : Option DWord
  cnpTc : Option DWord
  deriving DecidableEq, Repr

/-- What carries a datagram that the device sends (15 R422 to R425, R427, R428): the port, none where no port is up and the frame is
lost; the network whose address is its source, and the tag of that network as VID and PCP; the destination address, the UDP ports,
the ECN code point. -/
structure Egress where
  ep    : Option Nat
  net   : Fin 2
  tag   : Option (Nat × Nat)
  dst   : List Byte
  sport : Nat
  dport : Nat
  ecn   : Nat
  deriving DecidableEq, Repr

/-- What the block sends to the world outside: PCT messages, heartbeats, cells, RDMA packets, answers on Ethernet, JTAG
and MCTP data. The list `State.out` is the model's record of them, oldest first. -/
inductive Output where
  | pct (w : Egress) (session boot seq ack : Word) (kind flags : Nat) (occ ring : Nat) (body : List Byte)
  | heartbeat (w : Egress) (boot : Word) (entry : Nat) (body : List Byte)
  | cell (port : Fin 8) (c : Cell)
  | align (port : Fin 8) (b : AlignBlock) (markers : List (Nat × Nat))
  | roce (w : Egress) (qp dqpn psn : Nat) (op : RoceOp) (va : DWord) (rkey : Word) (len : Nat) (data : List Byte) (icrc : Word)
  | neighbour (ep : Fin 8) (tag : Option (Nat × Nat)) (v6 : Bool) (addr : List Byte)
  | solicit (ep : Nat) (tag : Option (Nat × Nat)) (net : Fin 2) (addr : List Byte)
  | announce (ep : Fin 8) (tag : Option (Nat × Nat)) (net : Fin 2) (v6 : Bool)
  | echo (ep : Fin 8) (tag : Option (Nat × Nat)) (v6 : Bool) (dst data : List Byte)
  | tdo (w : Word)
  | mem (bytes : List Byte) (poison : List Bool)
  | value (w : Word) (status : Nat)
  | sensor (smbus : Nat) (v : Int)
  | record (smbus : Nat) (bytes : List Byte)
  deriving DecidableEq, Repr

/-! ### Management and power (16, 17) -/

/-- A firmware image as MF has loaded it (16 R455, R476), with the digest of the key that signs it. -/
structure FwImg where
  absent  : Bool
  bank    : Nat
  version : Word
  svn     : Nat
  cls     : Nat
  digest  : List Byte
  key     : List Byte
  deriving DecidableEq, Repr

/-- An enrolled program-signing key (16 R456). -/
structure ProgKey where
  id        : List Byte
  pub       : List Byte
  secure    : Bool
  nonSecure : Bool
  deriving DecidableEq, Repr

/-- A routine of the RLIB catalogue (16 R445). -/
structure Routine where
  id     : Nat
  writes : Nat
  wcet   : Nat
  queues : Nat
  deriving DecidableEq, Repr

/-- An open firmware update (16 R460): its handle, its session, whether a forbidden write has failed it, the sectors
erased. -/
structure FwUpd where
  handle : Nat
  sess   : Nat
  failed : Bool
  deriving DecidableEq, Repr

/-- The management complex (16 R444 to R461): images in the order MF, RLIB, SQM, LNK, RTM, MATRIX; the configuration in
use with its sequence and digest; keys; routines; the open update; the next handle; BOOT_ID and heartbeats sent; whether a
RESET is pending. -/
structure Mc where
  images  : List FwImg
  cfgSeq  : Word
  cfgCopy : Option Nat
  cfgDig  : List Byte
  ucalSeq : Word
  ucalCopy : Option Nat
  keys    : List ProgKey
  matrixSeq : Word
  rlib    : List Routine
  upd     : Option FwUpd
  handle  : Nat
  bootId  : Word
  hbCount : Word
  resetPend : Bool
  deriving DecidableEq, Repr

/-- The security controller's records (16 R465 to R470): codes gathered in the period, event records, change log with
CHAIN, the chain value, the gathered power codes that are live (17 R496). -/
structure Sc where
  gathered : List Evt
  evts     : List (Nat × Option (Word × Evt))
  logs     : List (Nat × Option (Word × LogRec × List Byte))
  chain    : List Byte
  deriving DecidableEq, Repr

/-- The fuses and one-time-programmable storage (16 R451), and the base MAC address (15 R423). `units` has the bits of MC_FEAT_UNITS
below PARTS (07 R216). Of the factory calibration (R463): the replica-path threshold of each region, the gain and the offset of each
temperature sensor, the serdes presets of the tether lanes and the Ethernet ports, the trip, the bounds of R464. -/
structure Fuses where
  gen       : Nat
  stepping  : Nat
  units     : Nat
  grade     : Nat
  cols      : List Nat
  lifecycle : Nat
  fwkeys    : List (List Byte)
  revoke    : Nat
  minSvn    : List Nat
  owner     : List Byte
  idSecret  : List Byte
  idPub     : List Byte
  certSig   : List Byte
  certKey   : Nat
  replica   : List Nat
  sensors   : List (Nat × Int)
  presets   : List Nat
  trip      : Nat
  bounds    : List Nat
  mac       : Nat
  deriving DecidableEq, Repr

/-- A rail: lowered, in regulation, outside ± 3% of nominal (17 R481). -/
inductive Rail where
  | off | good | weak
  deriving DecidableEq, Repr

/-- A power or thermal code that has been raised (17 R496): when its condition was last seen present, and since when it has been seen
absent, where it has. -/
structure PowerCode where
  code  : Nat
  last  : DWord
  ended : Option DWord
  deriving DecidableEq, Repr

/-- Where the module stands (17 R482 to R485): off, rails rising or up and the reset held, starting up, PCT-ready, halted
by the boot ROM. -/
inductive Phase where
  | off | reset | starting | ready | halted
  deriving DecidableEq, Repr

/-- The sequencer and pins of J1 (17 R478 to R483, R493, R496): PWR_EN, RESET_N, PWR_GOOD, the hold after a power-off
(none, 100 ms, 10 s after a trip), a rise that waits, THERM_TRIP_N low, the phase, the power codes that have been raised, the
readings of the 32 sensors, the rails in their order, the straps ADDR0 and ADDR1, true where open. -/
structure Pwr where
  pwrEn   : Bool
  resetN  : Bool
  good    : Bool
  hold    : Nat
  rise    : Bool
  trip    : Bool
  phase   : Phase
  alertHeld : Bool
  live    : List PowerCode
  temps   : List Int
  rails   : Vector Rail 5
  addr0   : Bool
  addr1   : Bool
  deriving DecidableEq, Repr

/-- The instructions of the test access port (16 R474). -/
inductive JtagIr where
  | bypass | idcode | sample | extest | clamp | highz | dbgNs | dbgS
  deriving DecidableEq, Repr

/-! ### The whole block -/

/-- What an access that waits will do (15 R439, R440; 11 R326): a register read or write; a read or write of slice memory with a
global address, the TAG of a BULK read with it; a write of the PG or a reel engine for a partition, with the program addresses
of the granules stored poisoned; the start of a reel-out order, with the core it waits for. -/
inductive Access where
  | regRead (a : Nat)
  | regWrite (a : Nat) (v : Word)
  | memRead (g n : Nat) (tag : Word)
  | memWrite (g : Nat) (data : List Byte)
  | unitWrite (src part core addr : Nat) (data : List Byte) (poison : List Nat)
  | reelOut (part seq core : Nat)
  deriving DecidableEq, Repr

/-- An access that waits for a stopped region (11 R326): who made it, the number of its session where it has one, and
whether it is the last operation of its REGISTER message (15 R439). -/
structure Waiter where
  o    : Origin
  uid  : Option Nat
  acc  : Access
  last : Bool
  deriving DecidableEq, Repr

/-- The state of the block. `pending` is the queue of commands that wait, first in first out; `out` records what the block
has sent; `rnd` counts draws of the true random source and `free` the free values taken: both are the model's own. -/
structure State where
  pending  : List Instr
  fuses    : Fuses
  flash    : List (Nat × Byte)
  pwr      : Pwr
  regs     : List (Nat × Word)
  tb       : TimeBase
  beat     : Beat
  cores    : List (Nat × Core)
  mem      : List (Nat × Byte)
  ecc      : List (Nat × Ecc)
  poisonPending : List Nat
  banks    : List (Nat × Bank)
  flags    : Flags
  parts    : List (Nat × Part)
  partOps  : List PartOp
  transits : List Transit
  loads    : List Load
  tether   : Tether
  drift    : Drift
  rt       : Rt
  su       : Vector Su 4
  rings    : List (Nat × List RingCmd)
  pg       : List (Nat × PgPart)
  qps      : List (Nat × Qp)
  dg       : Dg
  sess     : List (Nat × Option Sess)
  neigh    : List (Nat × List Byte)
  stalled  : List Waiter
  mc       : Mc
  sc       : Sc
  ir       : JtagIr
  out      : List Output
  rnd      : Nat
  free     : Nat
  deriving DecidableEq, Repr

/-! ### Outcomes -/

/-- What stops the block. Nothing does: the spec names no event after which the block, as a whole, has no next state, and
every exception of a unit is recorded and answered inside the state. -/
inductive Fault where
  deriving DecidableEq, Repr

/-- Why a command has no answer. -/
inductive Refusal where
  /-- Raised by the dispatcher for a command whose meaning is not written. Safe: nothing is claimed of it. -/
  | notModelled (mnemonic : String)
  deriving DecidableEq, Repr

/-! ### After reset -/

/-- How many rows of virtual cores the grade has (00 R1; 01 R21). -/
def Fuses.gridRows (f : Fuses) : Nat := if f.grade = 2 then 12 else 15

/-- The enabled cores of a physical column, bit py (07 R216). -/
def Fuses.colmap (f : Fuses) (x : Nat) : Nat := f.cols.getD x 0

/-- A counter, stack and loops as a beat starts them (06 R170). -/
def Sq.reset : Sq :=
  { entry := 0, pc := 0, avail := 0, run := false, ended := false, poison := false, hold := none,
    ctr := Vector.replicate 8 0, pred := Vector.replicate 8 false, cmps := Vector.replicate 4 none,
    loops := [], stack := [], loads := [], seq := 0, stall := none }

/-- A stationary buffer with nothing in it (03 R77). -/
def WBuf.reset : WBuf := { valid := false, fmt := .int8, kb := 0, nb := 0, elts := [], scls := [] }

/-- A half of the ACB with nothing written (03 R71); elements the spec gives no reset value read 0 (log entry 3). -/
def AcbHalf.reset : AcbHalf := { l512 := false, clearInt := false, elts := [], recs := [] }

/-- The matrix engine after reset (03 R102, R103). -/
def Me.reset : Me :=
  { w := Vector.replicate 2 WBuf.reset, acb := Vector.replicate 2 AcbHalf.reset, sheet := none, offers := [], seen := [],
    turn := 0, copies := [] }

/-- A stream context as a beat starts it (04 R109). -/
def VCtx.reset : VCtx := { base := 0, erow := 0, key := 0 }

/-- The vector engine after reset (04 R109, R138). -/
def Ve.reset : Ve :=
  { v := [], ctx := Vector.replicate 8 VCtx.reset, dig := Vector.replicate 8 0, rowCount := 0, progs := [] }

/-- The lattice switch after reset (09 R257). -/
def Lat.reset : Lat := { table := [], idx := 0, left := 0, play := false, inN := [], inE := [], inS := [], inW := [] }

/-- A core after reset. -/
def Core.reset : Core :=
  { sq := Sq.reset, qMe := [], qVe := [], qDm := [], qLp := [], qSe := [], issued := [],
    marked := Vector.replicate 16 0, done := Vector.replicate 16 0, track := [], ordOvf := false, ends := [], lastEnds := [],
    me := Me.reset, ve := Ve.reset, lp := { sends := [], arms := [] },
    wait := { flag := 0, take := false, active := false, arg := 0 }, lat := Lat.reset,
    counting := [] }

/-- A drift router with nothing in it. -/
def Router.reset : Router := { ins := Vector.replicate 4 none, outs := Vector.replicate 4 [], last := 0 }

/-- A bank's port after reset (05 R165: the pointer of class 2 starts at PG). -/
def Bank.reset : Bank := { waiting := [], pointer := 0, row := 0, passed := false, corr := none }

/-- A FREE partition (07 R210, R217). -/
def Part.reset : Part :=
  { st := .free, secure := true, repro := false, pageLog2 := 0, x0 := 0, y0 := 0, w := 0, h := 0, group := 0,
    fbase := 0, fcount := 0, alloc := 0, decl := 0, progs := [], bound := none, members := [], dkey := 0 }

/-- A FREE request entry (13 R357). -/
def Ent.reset : Ent :=
  { st := .free, prio := 0, nowait := false, keep := false, topkEn := false, spec := 0, reason := 0, client := 0,
    cancel := false, slot := none, qseq := 0, tailgen := false, length := 0, done := 0, maxNew := 0, gen := 0,
    slab := none, deadline := 0, seed := 0, key := 0, adapter := 0xFFFF, expert := 0xFFFF, temp := 0, topP := 0,
    topK := 0, tokgap := false, bidir := false, noattend := false, supplied := 0, sess := none, tag := 0, staging := [],
    staged := [], tail := [], fresh := false, slabNew := false, gap := false, acked := false, fetched := false, sel := [],
    pinned := false }

/-- A client record that has never been opened (13 R363). -/
def Cli.reset : Cli :=
  { balance := 0, reserved := 0, spent := 0, refilled := 0, burst := 0, rate := 0, window := 0, next := 0,
    prioCap := 0, world := false, valid := false, experts := 0xFFFF, adapters := 0xFFFF }

/-- The request table with every entry FREE (13 R357, R363). -/
def Rt.reset : Rt :=
  { ents := [], clis := [], snapEnts := [], snapClis := [], held := [], qseq := Vector.replicate 16 0, tables := [],
    recv := [], drafts := [], results := [], fetches := [], busy := 0 }

/-- The page books of a partition with nothing allocated. -/
def PgPart.reset : PgPart :=
  { pages := [], lists := [], kbits := [], posts := [], groupOps := [], orders := [], watch := [], next := 0,
    aband := [], doneN := 0, stopped := false, failSeq := 0, failCnt := 0, acks := [], stop := false, table := none,
    before := none, cows := [], fresh := [], view := none, group := none, chains := [], picks := 0, ctl := [] }

/-- A queue pair with nothing in flight. -/
def Qp.reset : Qp := { reqs := [], tries := 0, cutTc := none, cnpTc := none }

/-- The time base before its loop has locked (11 R311, R336). -/
def TimeBase.reset : TimeBase :=
  { tc := 0, phase := 0, locked := false, holdover := false, tcHi := 0, phaseRef := none, srcPort := false, calFail := false,
    stretch := Vector.replicate 16 0, warnWait := Vector.replicate 16 false }

/-- A beat status with nothing seen. -/
def Status.reset : Status := { fail := false, skip := false, fault := false, groups := [] }

/-- The beat generator of a device that is not joined (11 R336). -/
def Beat.reset : Beat :=
  { joined := false, kind := 0, bno := 0, period := 0, replays := 0, startTc := 0, inGuard := false, cut := false,
    acc := Status.reset, own := Status.reset, seen := Status.reset, cells := [], replayNext := false, cond := none,
    faulted := none, skipRun := 0, skipSet := false, lastCommit := 0 }

/-- The flag pool, every flag 0 (08 R232). -/
def Flags.reset : Flags := { value := [], watches := [], ops := [], banks := Vector.replicate 16 [], releases := [], recorded := [], opening := [] }

/-- A port that is OFF (10 R309). -/
def TPort.reset : TPort :=
  { st := 0, lanes := 0, dMeas := 0, delays := [], probes := 0, heard := .nothing, ready := false, lost := false,
    block := none, late := false, frame := 0, cells := 0, time := none, joined := false }

/-- No join (10 R307). -/
def Join.reset : Join :=
  { step := 0, code := 0, parent := none, isRoot := false, depth := 0, bitmap := [], count := 0, sent := false,
    startTc := none, first := 0, dMax := 40 }

/-- The tether unit after reset. -/
def Tether.reset : Tether :=
  { ports := Vector.replicate 8 TPort.reset, runs := [], legDep := [], legArr := [], dmaOut := [], sigOut := [],
    held := [], dmaSent := [], dmaRcvd := [], fwd := [], rwin := [], join := Join.reset }

/-- The drift network with nothing in it. -/
def Drift.reset : Drift :=
  { routers := [], waiting := [], arrived := [], mail := [], seqs := [], counts := [], expect := [], early := [],
    outst := [], hdrFault := false, ahead := 0 }

/-- The digest unit after reset. -/
def Dg.reset : Dg := { table := [], bad := [], past := [], log := [], seq := 0 }

/-- An image that no bank has given (16 R476). -/
def FwImg.reset : FwImg := { absent := true, bank := 0, version := 0, svn := 0, cls := 0, digest := [], key := [] }

/-- The management complex before MF has run (16 R476). -/
def Mc.reset : Mc :=
  { images := List.replicate 6 FwImg.reset, cfgSeq := 0, cfgCopy := none, cfgDig := [], ucalSeq := 0, ucalCopy := none,
    keys := [], matrixSeq := 0, rlib := [], upd := none, handle := 0, bootId := 0, hbCount := 0, resetPend := false }

/-- The records of a start-up that has written none. -/
def Sc.reset : Sc := { gathered := [], evts := [], logs := [], chain := [] }

/-- The fuses of a module (log entry 4): an NX-TN9-240 whose columns each disable py 15, OWNED, no firmware key fused; an identity
secret of zeros, with the public key that belongs to it (16 R452). -/
def Fuses.reset : Fuses :=
  { gen := 9, stepping := 0xB1, units := 0x3FFFFF, grade := 1, cols := List.replicate 16 0x7FFF, lifecycle := 2, fwkeys := [],
    revoke := 0, minSvn := [0, 0, 0, 0, 0, 0], owner := [], idSecret := List.replicate 32 0,
    idPub := (List.range 64).map fun i => BitVec.ofNat 8 (0xbf3564e0f5d87489b3d6e87a5470062df5d9b353842ba15620e39bb268ddffbf97b4b6770f07d1d1aee1aeee952e24fd776e01cb9e8802d3e3e7df0e5758c13 / 256 ^ (63 - i)),
    certSig := List.replicate 64 0, certKey := 0, replica := List.replicate 16 0, sensors := List.replicate 32 (0, 0),
    presets := List.replicate 40 0, trip := 110, bounds := [32, 4, 3, 3, 64], mac := 0 }

/-- The sequencer with the rails down (17 R478, R482). -/
def Pwr.reset : Pwr :=
  { pwrEn := false, resetN := false, good := false, hold := 0, rise := false, trip := false, phase := .off,
    alertHeld := false, live := [], temps := [], rails := Vector.replicate 5 .off, addr0 := true, addr1 := true }

/-- The state after reset: nothing waits, nothing is sent, every field as its structure's reset (log entries 3 to 5). -/
def State.reset : State :=
  { pending := [], fuses := Fuses.reset, flash := [], pwr := Pwr.reset, regs := [], tb := TimeBase.reset,
    beat := Beat.reset, cores := [], mem := [], ecc := [], poisonPending := [], banks := [], flags := Flags.reset,
    parts := [], partOps := [], transits := [], loads := [], tether := Tether.reset, drift := Drift.reset, rt := Rt.reset,
    su := Vector.replicate 4 ⟨[]⟩, rings := [], pg := [], qps := [], dg := Dg.reset, sess := [], neigh := [], stalled := [], mc := Mc.reset,
    sc := Sc.reset, ir := .idcode, out := [], rnd := 0, free := 0 }

end Sys2Proof.Machine
end

