-- ==== Sys2Proof/Config.lean ====
section
/-! DEFINITION. What an implementation fixes and what the spec leaves open: constants without a body, so that no proof can
see what they are (log entries 7, 8, 10). -/

namespace Sys2Proof.Config

/-- The word `frcp` answers where 04 R120 leaves it open, taken where it lies within 1 ulp of 1/a. -/
opaque frcp : Word → Word
/-- The word `frsqrt` answers where 04 R120 leaves it open, taken where it lies within 1 ulp of 1/√a. -/
opaque frsqrt : Word → Word
/-- The word `fexp2` answers where 04 R120 leaves it open, taken where it lies within 1 ulp of 2^a. -/
opaque fexp2 : Word → Word
/-- The word `flog2` answers where 04 R120 leaves it open, taken where it lies within 1 ulp of log2 a. -/
opaque flog2 : Word → Word
/-- The word `fexp` answers where 04 R120 leaves it open, taken where it lies within 2 ulp of e^a. -/
opaque fexp : Word → Word
/-- The word `flog` answers where 04 R120 leaves it open, taken where it lies within 2 ulp of ln a. -/
opaque flog : Word → Word
/-- The word `ftanh` answers where 04 R120 leaves it open, taken where it lies within 2 ulp of tanh a. -/
opaque ftanh : Word → Word
/-- The word `fsigmoid` answers where 04 R120 leaves it open, taken where it lies within 2 ulp of 1/(1 + e^−a). -/
opaque fsigmoid : Word → Word
/-- The word `fsin` answers where 04 R120 leaves it open, taken where it lies within 2 ulp, or 2^−21 for large a, of sin a. -/
opaque fsin : Word → Word
/-- The word `fcos` answers where 04 R120 leaves it open, taken where it lies within 2 ulp, or 2^−21 for large a, of cos a. -/
opaque fcos : Word → Word
/-- The INT32 mean of a sum over a count, which 02 R63 does not state. -/
opaque meanI32 : Word → Nat → Word
/-- The n-th 32-bit draw of the true random source (16 R452, R477). -/
opaque random : Nat → BitVec 32
/-- Where `sq.rcall` goes for a routine that the image did not name (06 R184): a narrow-word offset of the stream. -/
opaque routineEntry : Nat → Nat
/-- The encoded words of a resident routine, whose encoding is private (06 R169, R184). -/
opaque routineWords : Nat → List Byte

/-- Which of the free list blocks a partition takes for its n-th block: the device's own choice (14 R389). -/
opaque blockPick : Nat → Nat
/-- The owner's public key, of which the fuses hold only the SM3 digest (16 R452, R456). -/
opaque ownerKey : List Byte → List Byte
/-- Whether a low pulse on RESET_N of 1 µs to 10 µs resets the device (17 R483 excludes such pulses). -/
opaque shortPulseResets : Nat → Bool
/-- Where the catalogue stands in an RLIB payload, and how many entries it has: 16 R445 gives the entry alone. -/
opaque rlibWhere : List Byte → Nat × Nat
/-- Has the condition of a power code that no sample follows been absent for 1 s, at the n-th question (17 R496)? -/
opaque absentFor : Nat → Bool
/-- The hash of a destination address and its UDP ports, source and destination, by which flows are spread over the ports of a
network (15 R424). -/
opaque flowHash : List Byte → Nat → Nat → Nat
/-- The ICRC of an RDMA packet that the device sends, of the packet's fields in order (15 R425 gives no polynomial). -/
opaque icrc : List Nat → Word
/-- The first beat number that a root's START carries (10 R301, R303 give no value). -/
opaque firstBeat : BitVec 48
/-- The commands of an encoded stream, in order: the encoding is private (06 R169), the loader's checks of them are not (07
R209). -/
opaque streamOf : List Byte → List Machine.StreamCmd
/-- The bytes of an encoded stream that hold an operand, of the command at a narrow-word offset (06 R169; 07 R206). -/
opaque operandBytes : List Byte → Nat → Nat → List Nat
/-- An encoded stream with the operand given, of the command at a narrow-word offset, replaced (06 R169; 07 R206). -/
opaque patchOperand : List Byte → Nat → Nat → Word → List Byte
/-- The element programs of an EPROG section with their indices; their form is the assembler's own (07 R205). -/
opaque eprogs : List Byte → List (Nat × Machine.EProg)
/-- The runs of a TETHER section: port, whether it departs, entries; 07 R205 gives the entries and not how the section orders them. -/
opaque tetherRuns : List Byte → List (Nat × Bool × List DWord)
/-- The loader's work for a bind, by load handle, in tc; R212 gives only its bound of 40,000 (07 R212, R213). -/
opaque bindWork : Nat → Nat

/-- A byte of a poisoned granule as a reader outside the schedule receives it (05 R150, R151: the mark is given, the bits are
not). -/
opaque poisonByte : Nat → BitVec 8
/-- The lowest margin that the samples of a region's monitors have had since the register was last read (11 R320, R337). -/
opaque leastMargin : Nat → Nat
/-- The link state that an alignment block carries for a port in a state (10 R277: its coding is not given). -/
opaque linkState : Nat → BitVec 8
/-- How many packets, beyond one, an access from outside takes to a core's endpoint and back (09 R266: the spec gives no packet
for an access). -/
opaque accessPackets : Nat → Nat
/-- The age of the packet that brings an access to a core's endpoint (09 R269: at most 600 cyc). -/
opaque accessAge : Nat → Nat
/-- How many wide words of its writes an abandoned DM command has been granted, in the order of 06 R188 (06 R190: those stay,
and how many they are is a matter of time). -/
opaque grantedWords : Nat → Nat
/-- Whether a wide word, or a row of the ACB, that an abandoned ME or VE command writes has been written by the boundary (03
R101; 04 R109). -/
opaque grantedWord : Nat → Bool
/-- Where in its staging range an intake ring looks for free words for a command (15 R435). -/
opaque stageFrom : Nat → Nat
/-- The chip IDs of the flight that a flight tag names: the flight description that reaches the device carries neither them nor
their count (06 R189; 10 R298, R303). -/
opaque flightChips : Nat → List Nat
/-- The stream offset in a record that stands for no command: an arrival refused, a departure with no send queued (06 R197; 16
R469). -/
opaque noOffset : Nat → Nat
/-- What the input voltage or current sensor measures at the n-th read of it (17 R495, R497). -/
opaque meter : Nat → BitVec 16
/-- Cycles of stopping, waiting or holding that a counter has gathered by the n-th read of one (03 R90; 08 R249): cycles are not
counted here (log entry 14). -/
opaque waitCycles : Nat → Nat
/-- Codewords of an Ethernet port that have been corrected, or found uncorrectable, since the last read, at the n-th read (15 R443). -/
opaque codewords : Nat → Nat

end Sys2Proof.Config
end

