-- ==== Sys2Proof/Machine/RegMap.lean ====
section
/-! DEFINITION. The register map: every register of the register tables, its address, its fields with type and reset
value, as 00 R13 to R16 and 16 R446 lay it out; the tables themselves stand in the chapters each row names. -/

namespace Sys2Proof.Machine

open Sys2Proof

/-- The base of a core's register block (16 R446). -/
def coreBase (c : Nat) : Nat := 0x10000000 + c * 0x100000


/-- MC_STATUS (R476). -/
def rMcStatus : Nat := 0x0

/-- MC_IMG_VER number i (R476). -/
def rMcImgVer (i : Nat) : Nat := 0x10 + i * 0x8

/-- MC_IMG_INFO number i (R476). -/
def rMcImgInfo (i : Nat) : Nat := 0x14 + i * 0x8

/-- MC_FEAT_ID (R216). -/
def rMcFeatId : Nat := 0x100

/-- MC_FEAT_GRID (R216). -/
def rMcFeatGrid : Nat := 0x104

/-- MC_FEAT_SLICE (R216). -/
def rMcFeatSlice : Nat := 0x108

/-- MC_FEAT_UNITS (R216). -/
def rMcFeatUnits : Nat := 0x10C

/-- MC_FEAT_CORE (R216). -/
def rMcFeatCore : Nat := 0x110

/-- MC_FEAT_ME (R216). -/
def rMcFeatMe : Nat := 0x114

/-- MC_FEAT_CHIP (R216). -/
def rMcFeatChip : Nat := 0x118

/-- MC_FEAT_SCHED (R216). -/
def rMcFeatSched : Nat := 0x11C

/-- MC_FEAT_SERVE (R216). -/
def rMcFeatServe : Nat := 0x120

/-- MC_FEAT_POWER (R216). -/
def rMcFeatPower : Nat := 0x124

/-- MC_COLMAP number i (R216). -/
def rMcColmap (i : Nat) : Nat := 0x140 + i * 0x4

/-- MC_PART_STATE number i (R217). -/
def rMcPartState (i : Nat) : Nat := 0x200 + i * 0x10

/-- MC_PART_FLAGS number i (R217). -/
def rMcPartFlags (i : Nat) : Nat := 0x204 + i * 0x10

/-- MC_PART_PU number i (R217). -/
def rMcPartPu (i : Nat) : Nat := 0x208 + i * 0x10

/-- MC_RLIB_ID number i (R476). -/
def rMcRlibId (i : Nat) : Nat := 0x800 + i * 0x8

/-- MC_RLIB_WCET number i (R476). -/
def rMcRlibWcet (i : Nat) : Nat := 0x804 + i * 0x8

/-- MC_RLIB_Q number i (R476). -/
def rMcRlibQ (i : Nat) : Nat := 0x1000 + i * 0x4

/-- MC_FLAG number i (R250). -/
def rMcFlag (i : Nat) : Nat := 0x10000 + i * 0x4

/-- SC_STATUS (R477). -/
def rScStatus : Nat := 0x1000000

/-- SC_DEVID number i (R477). -/
def rScDevid (i : Nat) : Nat := 0x1000004 + i * 0x4

/-- SC_RAND (R477). -/
def rScRand : Nat := 0x100000C

/-- SC_LOG_HEAD (R477). -/
def rScLogHead : Nat := 0x1000010

/-- SC_LOG_TAIL (R477). -/
def rScLogTail : Nat := 0x1000014

/-- SC_LOG_LOST (R477). -/
def rScLogLost : Nat := 0x1000018

/-- SC_LOG_DIGEST number i (R477). -/
def rScLogDigest (i : Nat) : Nat := 0x1000020 + i * 0x4

/-- SC_EVT_HEAD (R477). -/
def rScEvtHead : Nat := 0x1000040

/-- SC_EVT_TAIL (R477). -/
def rScEvtTail : Nat := 0x1000044

/-- SC_EVT_LOST (R477). -/
def rScEvtLost : Nat := 0x1000048

/-- SC_ALERT (R477). -/
def rScAlert : Nat := 0x1000050

/-- SC_JTAG (R477). -/
def rScJtag : Nat := 0x1000060

/-- SC_UCAL number i (R477). -/
def rScUcal (i : Nat) : Nat := 0x1000200 + i * 0x4

/-- SC_FCAL_BOUND number i (R477). -/
def rScFcalBound (i : Nat) : Nat := 0x1000404 + i * 0x4

/-- SC_REPORT number i (R477). -/
def rScReport (i : Nat) : Nat := 0x1001000 + i * 0x4

/-- SC_LOG number i (R477). -/
def rScLog (i : Nat) : Nat := 0x1100000 + i * 0x4

/-- SC_EVT number i (R477). -/
def rScEvt (i : Nat) : Nat := 0x1200000 + i * 0x4

/-- TB_CTL (R336). -/
def rTbCtl : Nat := 0x2000000

/-- TB_STATUS (R336). -/
def rTbStatus : Nat := 0x2000004

/-- TB_TC_LO (R336). -/
def rTbTcLo : Nat := 0x2000008

/-- TB_TC_HI (R336). -/
def rTbTcHi : Nat := 0x200000C

/-- TB_TSYNC_VAL_LO (R336). -/
def rTbTsyncValLo : Nat := 0x2000010

/-- TB_TSYNC_VAL_HI (R336). -/
def rTbTsyncValHi : Nat := 0x2000014

/-- TB_BEAT_LEN (R336). -/
def rTbBeatLen : Nat := 0x2000020

/-- TB_GUARD (R336). -/
def rTbGuard : Nat := 0x2000024

/-- TB_BEAT_LO (R336). -/
def rTbBeatLo : Nat := 0x2000028

/-- TB_BEAT_HI (R336). -/
def rTbBeatHi : Nat := 0x200002C

/-- TB_PERIOD_LO (R336). -/
def rTbPeriodLo : Nat := 0x2000030

/-- TB_PERIOD_HI (R336). -/
def rTbPeriodHi : Nat := 0x2000034

/-- TB_BEAT_STATE (R336). -/
def rTbBeatState : Nat := 0x2000038

/-- TB_PHASE (R336). -/
def rTbPhase : Nat := 0x2000040

/-- TB_SKIP_COUNT (R336). -/
def rTbSkipCount : Nat := 0x2000044

/-- TB_REPLAY_COUNT (R336). -/
def rTbReplayCount : Nat := 0x2000048

/-- TB_BUDGET (R336). -/
def rTbBudget : Nat := 0x2000050

/-- TB_XLATE (R336). -/
def rTbXlate : Nat := 0x2000060

/-- TB_XLATE_COUNT (R336). -/
def rTbXlateCount : Nat := 0x2000064

/-- TB_XCAL number i (R336). -/
def rTbXcal (i : Nat) : Nat := 0x2000100 + i * 0x4

/-- PM_STATUS (R497). -/
def rPmStatus : Nat := 0x3000000

/-- PM_LEDGER (R497). -/
def rPmLedger : Nat := 0x3000004

/-- PM_LEDGER_DECL (R497). -/
def rPmLedgerDecl : Nat := 0x3000008

/-- PM_VIN (R497). -/
def rPmVin : Nat := 0x3000010

/-- PM_IIN (R497). -/
def rPmIin : Nat := 0x3000014

/-- PM_PIN (R497). -/
def rPmPin : Nat := 0x3000018

/-- PM_TJ (R497). -/
def rPmTj : Nat := 0x300001C

/-- PM_COOL (R497). -/
def rPmCool : Nat := 0x3000020

/-- PM_THRESH (R497). -/
def rPmThresh : Nat := 0x3000024

/-- PM_EVT_OVER (R497). -/
def rPmEvtOver : Nat := 0x3000028

/-- PM_REGION_CLK number i (R337). -/
def rPmRegionClk (i : Nat) : Nat := 0x3001000 + i * 0x20

/-- PM_REGION_STRETCH number i (R337). -/
def rPmRegionStretch (i : Nat) : Nat := 0x3001004 + i * 0x20

/-- PM_REGION_MON number i (R337). -/
def rPmRegionMon (i : Nat) : Nat := 0x3001008 + i * 0x20

/-- PM_REGION_EXCESS number i (R337). -/
def rPmRegionExcess (i : Nat) : Nat := 0x300100C + i * 0x20

/-- RT_STATUS (R383). -/
def rRtStatus : Nat := 0x4000000

/-- RT_LATE_COUNT (R383). -/
def rRtLateCount : Nat := 0x4000004

/-- RT_DRAFT_DROPS (R383). -/
def rRtDraftDrops : Nat := 0x4000008

/-- RT_CREDIT (R383). -/
def rRtCredit : Nat := 0x4000010

/-- RT_GROUP_CTL number i (R383). -/
def rRtGroupCtl (i : Nat) : Nat := 0x4000100 + i * 0x40

/-- RT_GROUP_ENT number i (R383). -/
def rRtGroupEnt (i : Nat) : Nat := 0x4000104 + i * 0x40

/-- RT_GROUP_CLI number i (R383). -/
def rRtGroupCli (i : Nat) : Nat := 0x4000108 + i * 0x40

/-- RT_GROUP_BATCH number i (R383). -/
def rRtGroupBatch (i : Nat) : Nat := 0x400010C + i * 0x40

/-- RT_GROUP_CHUNK number i (R383). -/
def rRtGroupChunk (i : Nat) : Nat := 0x4000110 + i * 0x40

/-- RT_GROUP_PAGE_RESV number i (R383). -/
def rRtGroupPageResv (i : Nat) : Nat := 0x4000114 + i * 0x40

/-- RT_GROUP_SLACK number i (R383). -/
def rRtGroupSlack (i : Nat) : Nat := 0x4000118 + i * 0x40

/-- RT_GROUP_STOP0 number i (R383). -/
def rRtGroupStop0 (i : Nat) : Nat := 0x4000120 + i * 0x40

/-- RT_GROUP_STOP1 number i (R383). -/
def rRtGroupStop1 (i : Nat) : Nat := 0x4000124 + i * 0x40

/-- RT_GROUP_STOP2 number i (R383). -/
def rRtGroupStop2 (i : Nat) : Nat := 0x4000128 + i * 0x40

/-- RT_GROUP_STOP3 number i (R383). -/
def rRtGroupStop3 (i : Nat) : Nat := 0x400012C + i * 0x40

/-- RT_GROUP_LAST number i (R383). -/
def rRtGroupLast (i : Nat) : Nat := 0x4000130 + i * 0x40

/-- RT_GROUP_COUNTS number i (R383). -/
def rRtGroupCounts (i : Nat) : Nat := 0x4000134 + i * 0x40

/-- RT_PART_BT_CTL number i (R383). -/
def rRtPartBtCtl (i : Nat) : Nat := 0x4000800 + i * 0x10

/-- RT_PART_BT_ADDR number i (R383). -/
def rRtPartBtAddr (i : Nat) : Nat := 0x4000804 + i * 0x10

/-- RT_ENT number i (R357). -/
def rRtEnt (i : Nat) : Nat := 0x4100000 + i * 0x4

/-- RT_CLI number i (R363). -/
def rRtCli (i : Nat) : Nat := 0x4200000 + i * 0x4

/-- PG_STATUS (R419). -/
def rPgStatus : Nat := 0x5000000

/-- PG_PART_CTL number i (R419). -/
def rPgPartCtl (i : Nat) : Nat := 0x5000100 + i * 0x80

/-- PG_PART_POOL number i (R419). -/
def rPgPartPool (i : Nat) : Nat := 0x5000104 + i * 0x80

/-- PG_PART_FRAMES number i (R419). -/
def rPgPartFrames (i : Nat) : Nat := 0x5000108 + i * 0x80

/-- PG_PART_ARENA number i (R419). -/
def rPgPartArena (i : Nat) : Nat := 0x500010C + i * 0x80

/-- PG_PART_ARECT number i (R419). -/
def rPgPartArect (i : Nat) : Nat := 0x5000110 + i * 0x80

/-- PG_PART_SLAB number i (R419). -/
def rPgPartSlab (i : Nat) : Nat := 0x5000114 + i * 0x80

/-- PG_PART_SLAB_BASE number i (R419). -/
def rPgPartSlabBase (i : Nat) : Nat := 0x5000118 + i * 0x80

/-- PG_PART_VIEW number i (R419). -/
def rPgPartView (i : Nat) : Nat := 0x500011C + i * 0x80

/-- PG_PART_VIEW_ADDR number i (R419). -/
def rPgPartViewAddr (i : Nat) : Nat := 0x5000120 + i * 0x80

/-- PG_PART_VIEW_BYTES number i (R419). -/
def rPgPartViewBytes (i : Nat) : Nat := 0x5000124 + i * 0x80

/-- PG_PART_DEMAND number i (R419). -/
def rPgPartDemand (i : Nat) : Nat := 0x5000128 + i * 0x80

/-- PG_PART_WM_LOW number i (R419). -/
def rPgPartWmLow (i : Nat) : Nat := 0x500012C + i * 0x80

/-- PG_PART_WM_HIGH number i (R419). -/
def rPgPartWmHigh (i : Nat) : Nat := 0x5000130 + i * 0x80

/-- PG_PART_ORDERS_MAX number i (R419). -/
def rPgPartOrdersMax (i : Nat) : Nat := 0x5000134 + i * 0x80

/-- PG_PART_FREE_IDS number i (R419). -/
def rPgPartFreeIds (i : Nat) : Nat := 0x5000138 + i * 0x80

/-- PG_PART_FREE_FRAMES number i (R419). -/
def rPgPartFreeFrames (i : Nat) : Nat := 0x500013C + i * 0x80

/-- PG_PART_LB_BASE number i (R419). -/
def rPgPartLbBase (i : Nat) : Nat := 0x5000140 + i * 0x80

/-- PG_PART_LB_COUNT number i (R419). -/
def rPgPartLbCount (i : Nat) : Nat := 0x5000144 + i * 0x80

/-- RL_STATUS (R420). -/
def rRlStatus : Nat := 0x6000000

/-- RL_PART_VA_LO number i (R420). -/
def rRlPartVaLo (i : Nat) : Nat := 0x6000100 + i * 0x20

/-- RL_PART_VA_HI number i (R420). -/
def rRlPartVaHi (i : Nat) : Nat := 0x6000104 + i * 0x20

/-- RL_PART_RKEY number i (R420). -/
def rRlPartRkey (i : Nat) : Nat := 0x6000108 + i * 0x20

/-- RL_PART_QP number i (R420). -/
def rRlPartQp (i : Nat) : Nat := 0x600010C + i * 0x20

/-- RL_PART_DONE number i (R420). -/
def rRlPartDone (i : Nat) : Nat := 0x6000110 + i * 0x20

/-- RL_PART_CTL number i (R420). -/
def rRlPartCtl (i : Nat) : Nat := 0x6000114 + i * 0x20

/-- RL_PART_FAIL_SEQ number i (R420). -/
def rRlPartFailSeq (i : Nat) : Nat := 0x6000118 + i * 0x20

/-- SU_STATUS number i (R384). -/
def rSuStatus (i : Nat) : Nat := 0x7000000 + i * 0x1000

/-- SU_JOBS number i (R384). -/
def rSuJobs (i : Nat) : Nat := 0x7000004 + i * 0x1000

/-- SU_ACCEPTED number i (R384). -/
def rSuAccepted (i : Nat) : Nat := 0x7000008 + i * 0x1000

/-- SU_REJECTED number i (R384). -/
def rSuRejected (i : Nat) : Nat := 0x700000C + i * 0x1000

/-- SU_EMITTED number i (R384). -/
def rSuEmitted (i : Nat) : Nat := 0x7000010 + i * 0x1000

/-- XB_CMD (R421). -/
def rXbCmd : Nat := 0x8000000

/-- XB_STATUS (R421). -/
def rXbStatus : Nat := 0x8000004

/-- XB_ASET_SLOTS number i (R421). -/
def rXbAsetSlots (i : Nat) : Nat := 0x8001000 + i * 0x8

/-- XB_ASET_CFG number i (R421). -/
def rXbAsetCfg (i : Nat) : Nat := 0x8001004 + i * 0x8

/-- XB_ESET_SLOTS number i (R421). -/
def rXbEsetSlots (i : Nat) : Nat := 0x8003000 + i * 0x8

/-- XB_ESET_CFG number i (R421). -/
def rXbEsetCfg (i : Nat) : Nat := 0x8003004 + i * 0x8

/-- XB_ASLOT number i (R421). -/
def rXbAslot (i : Nat) : Nat := 0x8005000 + i * 0x4

/-- XB_ESLOT number i (R421). -/
def rXbEslot (i : Nat) : Nat := 0x8006000 + i * 0x4

/-- IO_STATUS (R443). -/
def rIoStatus : Nat := 0x9000000

/-- IO_CFG (R443). -/
def rIoCfg : Nat := 0x9000004

/-- IO_FAILOVER (R443). -/
def rIoFailover : Nat := 0x9000008

/-- IO_BAD (R443). -/
def rIoBad : Nat := 0x900000C

/-- IO_SESS_CLOSED (R443). -/
def rIoSessClosed : Nat := 0x9000010

/-- IO_EP_CFG number i (R443). -/
def rIoEpCfg (i : Nat) : Nat := 0x9000100 + i * 0x20

/-- IO_EP_STATE number i (R443). -/
def rIoEpState (i : Nat) : Nat := 0x9000104 + i * 0x20

/-- IO_EP_RX number i (R443). -/
def rIoEpRx (i : Nat) : Nat := 0x9000108 + i * 0x20

/-- IO_EP_TX number i (R443). -/
def rIoEpTx (i : Nat) : Nat := 0x900010C + i * 0x20

/-- IO_EP_FEC_CE number i (R443). -/
def rIoEpFecCe (i : Nat) : Nat := 0x9000110 + i * 0x20

/-- IO_EP_FEC_UE number i (R443). -/
def rIoEpFecUe (i : Nat) : Nat := 0x9000114 + i * 0x20

/-- IO_EP_PAUSE_RX number i (R443). -/
def rIoEpPauseRx (i : Nat) : Nat := 0x9000118 + i * 0x20

/-- IO_NET_IP6_0 number i (R443). -/
def rIoNetIp60 (i : Nat) : Nat := 0x9000400 + i * 0x40

/-- IO_NET_IP6_1 number i (R443). -/
def rIoNetIp61 (i : Nat) : Nat := 0x9000404 + i * 0x40

/-- IO_NET_IP6_2 number i (R443). -/
def rIoNetIp62 (i : Nat) : Nat := 0x9000408 + i * 0x40

/-- IO_NET_IP6_3 number i (R443). -/
def rIoNetIp63 (i : Nat) : Nat := 0x900040C + i * 0x40

/-- IO_NET_IP4 number i (R443). -/
def rIoNetIp4 (i : Nat) : Nat := 0x9000410 + i * 0x40

/-- IO_NET_VLAN number i (R443). -/
def rIoNetVlan (i : Nat) : Nat := 0x9000414 + i * 0x40

/-- IO_SRC_ADDR0 number i (R443). -/
def rIoSrcAddr0 (i : Nat) : Nat := 0x9000800 + i * 0x20

/-- IO_SRC_ADDR1 number i (R443). -/
def rIoSrcAddr1 (i : Nat) : Nat := 0x9000804 + i * 0x20

/-- IO_SRC_ADDR2 number i (R443). -/
def rIoSrcAddr2 (i : Nat) : Nat := 0x9000808 + i * 0x20

/-- IO_SRC_ADDR3 number i (R443). -/
def rIoSrcAddr3 (i : Nat) : Nat := 0x900080C + i * 0x20

/-- IO_SRC_CTL number i (R443). -/
def rIoSrcCtl (i : Nat) : Nat := 0x9000810 + i * 0x20

/-- IO_RING_CTL number i (R443). -/
def rIoRingCtl (i : Nat) : Nat := 0x9001000 + i * 0x10

/-- IO_RING_STAGE number i (R443). -/
def rIoRingStage (i : Nat) : Nat := 0x9001004 + i * 0x10

/-- IO_RING_WORDS number i (R443). -/
def rIoRingWords (i : Nat) : Nat := 0x9001008 + i * 0x10

/-- IO_QP_DIP0 number i (R443). -/
def rIoQpDip0 (i : Nat) : Nat := 0x9002000 + i * 0x20

/-- IO_QP_DIP1 number i (R443). -/
def rIoQpDip1 (i : Nat) : Nat := 0x9002004 + i * 0x20

/-- IO_QP_DIP2 number i (R443). -/
def rIoQpDip2 (i : Nat) : Nat := 0x9002008 + i * 0x20

/-- IO_QP_DIP3 number i (R443). -/
def rIoQpDip3 (i : Nat) : Nat := 0x900200C + i * 0x20

/-- IO_QP_DQPN number i (R443). -/
def rIoQpDqpn (i : Nat) : Nat := 0x9002010 + i * 0x20

/-- IO_QP_PSN number i (R443). -/
def rIoQpPsn (i : Nat) : Nat := 0x9002014 + i * 0x20

/-- IO_QP_CTL number i (R443). -/
def rIoQpCtl (i : Nat) : Nat := 0x9002018 + i * 0x20

/-- IO_QP_RATE number i (R443). -/
def rIoQpRate (i : Nat) : Nat := 0x900201C + i * 0x20

/-- TETHER_STATUS (R307). -/
def rTetherStatus : Nat := 0xA000000

/-- TETHER_CHIP (R307). -/
def rTetherChip : Nat := 0xA000004

/-- TETHER_JOIN_CTL (R307). -/
def rTetherJoinCtl : Nat := 0xA000008

/-- TETHER_JOIN_STATUS (R307). -/
def rTetherJoinStatus : Nat := 0xA00000C

/-- TETHER_FAULT (R307). -/
def rTetherFault : Nat := 0xA000010

/-- TETHER_LAST_COMMIT_LO (R307). -/
def rTetherLastCommitLo : Nat := 0xA000014

/-- TETHER_LAST_COMMIT_HI (R307). -/
def rTetherLastCommitHi : Nat := 0xA000018

/-- TETHER_REFUSE (R307). -/
def rTetherRefuse : Nat := 0xA000020

/-- TETHER_REFUSE_COUNT (R307). -/
def rTetherRefuseCount : Nat := 0xA000024

/-- TETHER_PORT_CFG number i (R309). -/
def rTetherPortCfg (i : Nat) : Nat := 0xA000100 + i * 0x20

/-- TETHER_PORT_STATE number i (R309). -/
def rTetherPortState (i : Nat) : Nat := 0xA000104 + i * 0x20

/-- TETHER_PORT_FEC_CE number i (R309). -/
def rTetherPortFecCe (i : Nat) : Nat := 0xA000108 + i * 0x20

/-- TETHER_PORT_FEC_UE number i (R309). -/
def rTetherPortFecUe (i : Nat) : Nat := 0xA00010C + i * 0x20

/-- TETHER_PORT_CELL_UE number i (R309). -/
def rTetherPortCellUe (i : Nat) : Nat := 0xA000110 + i * 0x20

/-- TETHER_RWIN_CTL number i (R167). -/
def rTetherRwinCtl (i : Nat) : Nat := 0xA002000 + i * 0x10

/-- TETHER_RWIN_BASE number i (R167). -/
def rTetherRwinBase (i : Nat) : Nat := 0xA002004 + i * 0x10

/-- TETHER_RWIN_SIZE number i (R167). -/
def rTetherRwinSize (i : Nat) : Nat := 0xA002008 + i * 0x10

/-- TETHER_DEP_TABLE number i (R307). -/
def rTetherDepTable (i : Nat) : Nat := 0xA100000 + i * 0x4

/-- DG_CTL (R354). -/
def rDgCtl : Nat := 0xB000000

/-- DG_STATUS (R354). -/
def rDgStatus : Nat := 0xB000004

/-- DG_LOG_HEAD (R354). -/
def rDgLogHead : Nat := 0xB000008

/-- DG_LOG_TAIL (R354). -/
def rDgLogTail : Nat := 0xB00000C

/-- DG_DROPPED (R354). -/
def rDgDropped : Nat := 0xB000010

/-- DG_LATE (R354). -/
def rDgLate : Nat := 0xB000014

/-- DG_PART_KEY_LO number i (R354). -/
def rDgPartKeyLo (i : Nat) : Nat := 0xB000100 + i * 0x8

/-- DG_PART_KEY_HI number i (R354). -/
def rDgPartKeyHi (i : Nat) : Nat := 0xB000104 + i * 0x8

/-- DG_LOG number i (R354). -/
def rDgLog (i : Nat) : Nat := 0xB100000 + i * 0x4

/-- SQ_STATUS (R198). -/
def rSqStatus (c : Nat) : Nat := coreBase c + 0x3000

/-- SQ_QDEPTH_A (R198). -/
def rSqQdepthA (c : Nat) : Nat := coreBase c + 0x3004

/-- SQ_QDEPTH_B (R198). -/
def rSqQdepthB (c : Nat) : Nat := coreBase c + 0x3008

/-- SQ_QHWM_A (R198). -/
def rSqQhwmA (c : Nat) : Nat := coreBase c + 0x300C

/-- SQ_QHWM_B (R198). -/
def rSqQhwmB (c : Nat) : Nat := coreBase c + 0x3010

/-- SQ_FAULT (R198). -/
def rSqFault (c : Nat) : Nat := coreBase c + 0x3014

/-- SQ_FAULT_PC (R198). -/
def rSqFaultPc (c : Nat) : Nat := coreBase c + 0x3018

/-- SQ_FAULT_BEAT (R198). -/
def rSqFaultBeat (c : Nat) : Nat := coreBase c + 0x301C

/-- SQ_FAULT_COUNT (R198). -/
def rSqFaultCount (c : Nat) : Nat := coreBase c + 0x3020

/-- SQ_MISS_COUNT (R198). -/
def rSqMissCount (c : Nat) : Nat := coreBase c + 0x3024

/-- SQ_PC (R198). -/
def rSqPc (c : Nat) : Nat := coreBase c + 0x3028

/-- ME_STATUS (R103). -/
def rMeStatus (c : Nat) : Nat := coreBase c + 0x4000

/-- ME_STALL_CYCLES (R103). -/
def rMeStallCycles (c : Nat) : Nat := coreBase c + 0x4004

/-- ME_SHEET number i (R103). -/
def rMeSheet (c i : Nat) : Nat := coreBase c + 0x4010 + i * 0x4

/-- VE_STATUS (R138). -/
def rVeStatus (c : Nat) : Nat := coreBase c + 0x5000

/-- VE_EVT_SATURATED (R138). -/
def rVeEvtSaturated (c : Nat) : Nat := coreBase c + 0x5004

/-- VE_EVT_NAN_LOST (R138). -/
def rVeEvtNanLost (c : Nat) : Nat := coreBase c + 0x5008

/-- VE_EVT_INVALID (R138). -/
def rVeEvtInvalid (c : Nat) : Nat := coreBase c + 0x500C

/-- VE_ROW_COUNT_LO (R138). -/
def rVeRowCountLo (c : Nat) : Nat := coreBase c + 0x5010

/-- VE_ROW_COUNT_HI (R138). -/
def rVeRowCountHi (c : Nat) : Nat := coreBase c + 0x5014

/-- VE_PROG_VALID number i (R138). -/
def rVeProgValid (c i : Nat) : Nat := coreBase c + 0x5018 + i * 0x4

/-- VE_DIG number i (R138). -/
def rVeDig (c i : Nat) : Nat := coreBase c + 0x5040 + i * 0x4

/-- SLC_STATUS (R167). -/
def rSlcStatus (c : Nat) : Nat := coreBase c + 0x6000

/-- SLC_CE_COUNT (R167). -/
def rSlcCeCount (c : Nat) : Nat := coreBase c + 0x6004

/-- SLC_UE_COUNT (R167). -/
def rSlcUeCount (c : Nat) : Nat := coreBase c + 0x6008

/-- SLC_POISON_READS (R167). -/
def rSlcPoisonReads (c : Nat) : Nat := coreBase c + 0x600C

/-- SLC_CONFLICTS (R167). -/
def rSlcConflicts (c : Nat) : Nat := coreBase c + 0x6010

/-- SLC_UE_ADDR (R167). -/
def rSlcUeAddr (c : Nat) : Nat := coreBase c + 0x6014

/-- SLC_SCRUB (R167). -/
def rSlcScrub (c : Nat) : Nat := coreBase c + 0x6018

/-- SLC_RELOC number i (R167). -/
def rSlcReloc (c i : Nat) : Nat := coreBase c + 0x6020 + i * 0x4

/-- SLC_REGION number i (R167). -/
def rSlcRegion (c i : Nat) : Nat := coreBase c + 0x6100 + i * 0x4

/-- DM_STATUS (R199). -/
def rDmStatus (c : Nat) : Nat := coreBase c + 0x7000

/-- LP_STATUS (R199). -/
def rLpStatus (c : Nat) : Nat := coreBase c + 0x7100

/-- LP_ARMED number i (R199). -/
def rLpArmed (c i : Nat) : Nat := coreBase c + 0x7104 + i * 0x4

/-- LP_REFUSE (R199). -/
def rLpRefuse (c : Nat) : Nat := coreBase c + 0x710C

/-- SE_STATUS (R249). -/
def rSeStatus (c : Nat) : Nat := coreBase c + 0x7200

/-- SE_WAIT (R249). -/
def rSeWait (c : Nat) : Nat := coreBase c + 0x7204

/-- SE_WAIT_ARG (R249). -/
def rSeWaitArg (c : Nat) : Nat := coreBase c + 0x7208

/-- SE_SB_BUSY (R249). -/
def rSeSbBusy (c : Nat) : Nat := coreBase c + 0x720C

/-- SE_WAIT_CYCLES (R249). -/
def rSeWaitCycles (c : Nat) : Nat := coreBase c + 0x7210

/-- SE_ORD_HOLDS (R249). -/
def rSeOrdHolds (c : Nat) : Nat := coreBase c + 0x7214

/-- SE_RSIG_SENT (R249). -/
def rSeRsigSent (c : Nat) : Nat := coreBase c + 0x7218

/-- LAT_STATUS (R274). -/
def rLatStatus (c : Nat) : Nat := coreBase c + 0x8000

/-- LAT_DISCARDS (R274). -/
def rLatDiscards (c : Nat) : Nat := coreBase c + 0x8004

/-- LAT_CE_COUNT (R274). -/
def rLatCeCount (c : Nat) : Nat := coreBase c + 0x8008

/-- DRIFT_STATUS (R275). -/
def rDriftStatus (c : Nat) : Nat := coreBase c + 0x8100

/-- DRIFT_TX_COUNT (R275). -/
def rDriftTxCount (c : Nat) : Nat := coreBase c + 0x8104

/-- DRIFT_RX_COUNT (R275). -/
def rDriftRxCount (c : Nat) : Nat := coreBase c + 0x8108

/-- DRIFT_CE_COUNT (R275). -/
def rDriftCeCount (c : Nat) : Nat := coreBase c + 0x810C

/-- DRIFT_MAX_LAT (R275). -/
def rDriftMaxLat (c : Nat) : Nat := coreBase c + 0x8110

/-- The type of a field (00 R13). -/
inductive FType where
  | ro | rw | rwl | w1c | w1s | wo
  deriving DecidableEq, Repr

/-- A field of a register: its lowest bit, its width, its type, its reset value (00 R11, R13, R15). -/
structure RField where
  lsb   : Nat
  len   : Nat
  type  : FType
  reset : Nat
  deriving DecidableEq, Repr

/-- A row of the register map: whether it lies in a core block, the offset (within the core block, or absolute), how many
registers, their stride, the fields. -/
structure RegRow where
  core   : Bool
  off    : Nat
  count  : Nat
  stride : Nat
  fields : List RField
  deriving DecidableEq, Repr

/-- The rows of unit MC. -/
def regRowsMc : List RegRow := [
  ⟨false, 0x0, 1, 0x4, [⟨0, 1, .ro, 0x0⟩, ⟨1, 2, .ro, 0x2⟩, ⟨3, 8, .ro, 0x0⟩, ⟨11, 1, .ro, 0x0⟩, ⟨12, 1, .ro, 0x0⟩, ⟨13, 1, .ro, 0x1⟩, ⟨14, 1, .ro, 0x0⟩]⟩,
  ⟨false, 0x10, 6, 0x8, [⟨0, 32, .ro, 0x0⟩]⟩,
  ⟨false, 0x14, 6, 0x8, [⟨0, 16, .ro, 0x0⟩, ⟨16, 7, .ro, 0x0⟩, ⟨23, 1, .ro, 0x0⟩, ⟨24, 1, .ro, 0x1⟩]⟩,
  ⟨false, 0x100, 1, 0x4, [⟨0, 8, .ro, 0x0⟩, ⟨8, 8, .ro, 0x0⟩, ⟨16, 8, .ro, 0x0⟩, ⟨24, 8, .ro, 0x3⟩]⟩,
  ⟨false, 0x104, 1, 0x4, [⟨0, 5, .ro, 0x0⟩, ⟨5, 5, .ro, 0x0⟩, ⟨10, 5, .ro, 0x0⟩, ⟨15, 5, .ro, 0x0⟩, ⟨20, 9, .ro, 0x0⟩]⟩,
  ⟨false, 0x108, 1, 0x4, [⟨0, 8, .ro, 0x0⟩, ⟨8, 8, .ro, 0x0⟩, ⟨16, 8, .ro, 0x0⟩, ⟨24, 4, .ro, 0x6⟩, ⟨28, 4, .ro, 0x9⟩]⟩,
  ⟨false, 0x10C, 1, 0x4, [⟨0, 4, .ro, 0x0⟩, ⟨4, 2, .ro, 0x0⟩, ⟨6, 8, .ro, 0x0⟩, ⟨14, 8, .ro, 0x0⟩, ⟨22, 5, .ro, 0x10⟩]⟩,
  ⟨false, 0x110, 1, 0x4, [⟨0, 5, .ro, 0x0⟩, ⟨5, 7, .ro, 0x40⟩, ⟨12, 7, .ro, 0x40⟩, ⟨19, 12, .ro, 0xC00⟩]⟩,
  ⟨false, 0x114, 1, 0x4, [⟨0, 10, .ro, 0x100⟩, ⟨10, 10, .ro, 0x200⟩, ⟨20, 4, .ro, 0xF⟩, ⟨24, 3, .ro, 0x4⟩]⟩,
  ⟨false, 0x118, 1, 0x4, [⟨0, 14, .ro, 0x2000⟩, ⟨14, 7, .ro, 0x40⟩]⟩,
  ⟨false, 0x11C, 1, 0x4, [⟨0, 13, .ro, 0x1000⟩, ⟨13, 12, .ro, 0x800⟩]⟩,
  ⟨false, 0x120, 1, 0x4, [⟨0, 16, .ro, 0x4000⟩, ⟨16, 13, .ro, 0x1000⟩]⟩,
  ⟨false, 0x124, 1, 0x4, [⟨0, 12, .ro, 0x960⟩, ⟨12, 12, .ro, 0x654⟩]⟩,
  ⟨false, 0x140, 16, 0x4, [⟨0, 16, .ro, 0x0⟩]⟩,
  ⟨false, 0x200, 16, 0x10, [⟨0, 3, .ro, 0x0⟩, ⟨3, 1, .ro, 0x0⟩, ⟨4, 1, .ro, 0x0⟩, ⟨5, 4, .ro, 0x0⟩, ⟨9, 4, .ro, 0x0⟩, ⟨13, 4, .ro, 0x0⟩, ⟨17, 4, .ro, 0x0⟩, ⟨21, 11, .ro, 0x0⟩]⟩,
  ⟨false, 0x204, 16, 0x10, [⟨0, 13, .ro, 0x0⟩, ⟨16, 14, .ro, 0x0⟩]⟩,
  ⟨false, 0x208, 16, 0x10, [⟨0, 12, .ro, 0x0⟩, ⟨12, 12, .ro, 0x0⟩]⟩,
  ⟨false, 0x800, 256, 0x8, [⟨0, 16, .ro, 0xFFFF⟩, ⟨16, 16, .ro, 0x0⟩]⟩,
  ⟨false, 0x804, 256, 0x8, [⟨0, 32, .ro, 0x0⟩]⟩,
  ⟨false, 0x1000, 256, 0x4, [⟨0, 15, .ro, 0x0⟩]⟩,
  ⟨false, 0x10000, 8192, 0x4, [⟨0, 32, .ro, 0x0⟩]⟩]

/-- The rows of unit SC. -/
def regRowsSc : List RegRow := [
  ⟨false, 0x1000000, 1, 0x4, [⟨0, 3, .ro, 0x0⟩, ⟨3, 1, .ro, 0x0⟩, ⟨4, 1, .w1c, 0x0⟩, ⟨5, 1, .w1c, 0x0⟩, ⟨6, 1, .w1c, 0x0⟩]⟩,
  ⟨false, 0x1000004, 2, 0x4, [⟨0, 32, .ro, 0x0⟩]⟩,
  ⟨false, 0x100000C, 1, 0x4, [⟨0, 32, .ro, 0x0⟩]⟩,
  ⟨false, 0x1000010, 1, 0x4, [⟨0, 32, .ro, 0x0⟩]⟩,
  ⟨false, 0x1000014, 1, 0x4, [⟨0, 32, .rw, 0x0⟩]⟩,
  ⟨false, 0x1000018, 1, 0x4, [⟨0, 32, .ro, 0x0⟩]⟩,
  ⟨false, 0x1000020, 8, 0x4, [⟨0, 32, .ro, 0x0⟩]⟩,
  ⟨false, 0x1000040, 1, 0x4, [⟨0, 32, .ro, 0x0⟩]⟩,
  ⟨false, 0x1000044, 1, 0x4, [⟨0, 32, .rw, 0x0⟩]⟩,
  ⟨false, 0x1000048, 1, 0x4, [⟨0, 32, .ro, 0x0⟩]⟩,
  ⟨false, 0x1000050, 1, 0x4, [⟨0, 16, .w1c, 0x0⟩]⟩,
  ⟨false, 0x1000060, 1, 0x4, [⟨0, 1, .rwl, 0x0⟩, ⟨1, 1, .w1s, 0x0⟩]⟩,
  ⟨false, 0x1000200, 64, 0x4, [⟨0, 16, .rw, 0x0⟩, ⟨16, 16, .rw, 0x0⟩]⟩,
  ⟨false, 0x1000404, 5, 0x4, [⟨0, 16, .ro, 0x0⟩]⟩,
  ⟨false, 0x1001000, 176, 0x4, [⟨0, 32, .ro, 0x0⟩]⟩,
  ⟨false, 0x1100000, 262144, 0x4, [⟨0, 32, .ro, 0x0⟩]⟩,
  ⟨false, 0x1200000, 32768, 0x4, [⟨0, 32, .ro, 0x0⟩]⟩]

/-- The rows of unit TB. -/
def regRowsTb : List RegRow := [
  ⟨false, 0x2000000, 1, 0x4, [⟨0, 1, .rw, 0x0⟩, ⟨1, 1, .w1s, 0x0⟩]⟩,
  ⟨false, 0x2000004, 1, 0x4, [⟨0, 1, .ro, 0x0⟩, ⟨1, 1, .ro, 0x0⟩, ⟨2, 1, .w1c, 0x0⟩, ⟨3, 1, .w1c, 0x0⟩, ⟨4, 1, .w1c, 0x0⟩, ⟨5, 1, .ro, 0x0⟩, ⟨6, 1, .ro, 0x0⟩]⟩,
  ⟨false, 0x2000008, 1, 0x4, [⟨0, 32, .ro, 0x0⟩]⟩,
  ⟨false, 0x200000C, 1, 0x4, [⟨0, 32, .ro, 0x0⟩]⟩,
  ⟨false, 0x2000010, 1, 0x4, [⟨0, 32, .rw, 0x0⟩]⟩,
  ⟨false, 0x2000014, 1, 0x4, [⟨0, 32, .rw, 0x0⟩]⟩,
  ⟨false, 0x2000020, 1, 0x4, [⟨0, 19, .rw, 0x1F40⟩]⟩,
  ⟨false, 0x2000024, 1, 0x4, [⟨0, 19, .rw, 0x40⟩]⟩,
  ⟨false, 0x2000028, 1, 0x4, [⟨0, 32, .ro, 0x0⟩]⟩,
  ⟨false, 0x200002C, 1, 0x4, [⟨0, 16, .ro, 0x0⟩]⟩,
  ⟨false, 0x2000030, 1, 0x4, [⟨0, 32, .ro, 0x0⟩]⟩,
  ⟨false, 0x2000034, 1, 0x4, [⟨0, 32, .ro, 0x0⟩]⟩,
  ⟨false, 0x2000038, 1, 0x4, [⟨0, 2, .ro, 0x0⟩, ⟨2, 2, .ro, 0x0⟩, ⟨4, 1, .w1c, 0x0⟩]⟩,
  ⟨false, 0x2000040, 1, 0x4, [⟨0, 16, .ro, 0x0⟩, ⟨16, 16, .rw, 0x0⟩]⟩,
  ⟨false, 0x2000044, 1, 0x4, [⟨0, 32, .rw, 0x0⟩]⟩,
  ⟨false, 0x2000048, 1, 0x4, [⟨0, 32, .rw, 0x0⟩]⟩,
  ⟨false, 0x2000050, 1, 0x4, [⟨0, 13, .ro, 0x78⟩]⟩,
  ⟨false, 0x2000060, 1, 0x4, [⟨0, 5, .ro, 0x0⟩, ⟨5, 1, .ro, 0x0⟩, ⟨6, 1, .w1c, 0x0⟩]⟩,
  ⟨false, 0x2000064, 1, 0x4, [⟨0, 32, .rw, 0x0⟩]⟩,
  ⟨false, 0x2000100, 24, 0x4, [⟨0, 4, .ro, 0x0⟩, ⟨4, 4, .ro, 0x0⟩, ⟨8, 4, .ro, 0x0⟩, ⟨12, 4, .ro, 0x0⟩, ⟨16, 4, .ro, 0x0⟩, ⟨20, 4, .ro, 0x0⟩]⟩]

/-- The rows of unit PM. -/
def regRowsPm : List RegRow := [
  ⟨false, 0x3000000, 1, 0x4, [⟨0, 1, .ro, 0x1⟩, ⟨1, 1, .w1c, 0x0⟩, ⟨2, 1, .w1c, 0x0⟩, ⟨3, 1, .w1c, 0x0⟩, ⟨4, 1, .w1c, 0x0⟩, ⟨5, 1, .w1c, 0x0⟩, ⟨6, 1, .w1c, 0x0⟩, ⟨7, 1, .w1c, 0x0⟩]⟩,
  ⟨false, 0x3000004, 1, 0x4, [⟨0, 12, .ro, 0x30C⟩, ⟨12, 12, .ro, 0x0⟩]⟩,
  ⟨false, 0x3000008, 1, 0x4, [⟨0, 12, .ro, 0x0⟩]⟩,
  ⟨false, 0x3000010, 1, 0x4, [⟨0, 16, .ro, 0x0⟩]⟩,
  ⟨false, 0x3000014, 1, 0x4, [⟨0, 16, .ro, 0x0⟩]⟩,
  ⟨false, 0x3000018, 1, 0x4, [⟨0, 16, .ro, 0x0⟩, ⟨16, 16, .rw, 0x0⟩]⟩,
  ⟨false, 0x300001C, 1, 0x4, [⟨0, 16, .ro, 0x0⟩, ⟨16, 5, .ro, 0x0⟩]⟩,
  ⟨false, 0x3000020, 1, 0x4, [⟨0, 16, .ro, 0x0⟩, ⟨16, 16, .ro, 0x0⟩]⟩,
  ⟨false, 0x3000024, 1, 0x4, [⟨0, 8, .rw, 0x5A⟩, ⟨8, 8, .rw, 0x64⟩, ⟨16, 8, .ro, 0x0⟩]⟩,
  ⟨false, 0x3000028, 1, 0x4, [⟨0, 32, .rw, 0x0⟩]⟩,
  ⟨false, 0x3001000, 16, 0x20, [⟨0, 2, .rw, 0x0⟩, ⟨2, 2, .ro, 0x0⟩, ⟨4, 1, .ro, 0x0⟩, ⟨5, 1, .w1c, 0x0⟩]⟩,
  ⟨false, 0x3001004, 16, 0x20, [⟨0, 16, .ro, 0x0⟩, ⟨16, 16, .ro, 0x0⟩]⟩,
  ⟨false, 0x3001008, 16, 0x20, [⟨0, 8, .rw, 0xFF⟩, ⟨8, 1, .w1c, 0x0⟩]⟩,
  ⟨false, 0x300100C, 16, 0x20, [⟨0, 32, .rw, 0x0⟩]⟩]

/-- The rows of unit RT. -/
def regRowsRt : List RegRow := [
  ⟨false, 0x4000000, 1, 0x4, [⟨0, 1, .ro, 0x0⟩, ⟨1, 1, .w1c, 0x0⟩, ⟨2, 1, .w1c, 0x0⟩, ⟨3, 1, .w1c, 0x0⟩, ⟨4, 1, .w1c, 0x0⟩]⟩,
  ⟨false, 0x4000004, 1, 0x4, [⟨0, 32, .rw, 0x0⟩]⟩,
  ⟨false, 0x4000008, 1, 0x4, [⟨0, 32, .rw, 0x0⟩]⟩,
  ⟨false, 0x4000010, 1, 0x4, [⟨0, 12, .wo, 0x0⟩, ⟨12, 20, .wo, 0x0⟩]⟩,
  ⟨false, 0x4000100, 16, 0x40, [⟨0, 1, .rw, 0x0⟩, ⟨1, 11, .rw, 0x0⟩, ⟨12, 1, .rw, 0x0⟩, ⟨13, 1, .rw, 0x0⟩, ⟨14, 4, .rw, 0x0⟩]⟩,
  ⟨false, 0x4000104, 16, 0x40, [⟨0, 14, .rw, 0x0⟩, ⟨14, 15, .rw, 0x0⟩]⟩,
  ⟨false, 0x4000108, 16, 0x40, [⟨0, 12, .rw, 0x0⟩, ⟨12, 13, .rw, 0x0⟩]⟩,
  ⟨false, 0x400010C, 16, 0x40, [⟨0, 11, .rw, 0x0⟩, ⟨11, 11, .rw, 0x0⟩]⟩,
  ⟨false, 0x4000110, 16, 0x40, [⟨0, 13, .rw, 0x0⟩, ⟨13, 13, .rw, 0x0⟩]⟩,
  ⟨false, 0x4000114, 16, 0x40, [⟨0, 20, .rw, 0x0⟩]⟩,
  ⟨false, 0x4000118, 16, 0x40, [⟨0, 32, .rw, 0x0⟩]⟩,
  ⟨false, 0x4000120, 16, 0x40, [⟨0, 32, .rw, 0xFFFFFFFF⟩]⟩,
  ⟨false, 0x4000124, 16, 0x40, [⟨0, 32, .rw, 0xFFFFFFFF⟩]⟩,
  ⟨false, 0x4000128, 16, 0x40, [⟨0, 32, .rw, 0xFFFFFFFF⟩]⟩,
  ⟨false, 0x400012C, 16, 0x40, [⟨0, 32, .rw, 0xFFFFFFFF⟩]⟩,
  ⟨false, 0x4000130, 16, 0x40, [⟨0, 11, .ro, 0x0⟩, ⟨11, 5, .ro, 0x0⟩, ⟨16, 16, .ro, 0x0⟩]⟩,
  ⟨false, 0x4000134, 16, 0x40, [⟨0, 15, .ro, 0x0⟩, ⟨15, 15, .ro, 0x0⟩]⟩,
  ⟨false, 0x4000800, 16, 0x10, [⟨0, 1, .rw, 0x0⟩, ⟨1, 8, .rw, 0x0⟩, ⟨9, 13, .rw, 0x0⟩]⟩,
  ⟨false, 0x4000804, 16, 0x10, [⟨8, 17, .rw, 0x0⟩]⟩,
  ⟨false, 0x4100000, 262144, 0x4, [⟨0, 32, .ro, 0x0⟩]⟩,
  ⟨false, 0x4200000, 65536, 0x4, [⟨0, 32, .rw, 0x0⟩]⟩]

/-- The rows of unit PG. -/
def regRowsPg : List RegRow := [
  ⟨false, 0x5000000, 1, 0x4, [⟨0, 1, .ro, 0x0⟩, ⟨1, 1, .w1c, 0x0⟩, ⟨2, 1, .ro, 0x0⟩, ⟨3, 1, .w1c, 0x0⟩, ⟨4, 1, .w1c, 0x0⟩, ⟨5, 1, .w1c, 0x0⟩]⟩,
  ⟨false, 0x5000100, 16, 0x80, [⟨0, 1, .rw, 0x0⟩, ⟨1, 1, .rw, 0x0⟩, ⟨2, 1, .rw, 0x0⟩, ⟨3, 10, .rw, 0x0⟩, ⟨13, 6, .rw, 0x0⟩]⟩,
  ⟨false, 0x5000104, 16, 0x80, [⟨0, 20, .rw, 0x0⟩]⟩,
  ⟨false, 0x5000108, 16, 0x80, [⟨0, 20, .rw, 0x0⟩]⟩,
  ⟨false, 0x500010C, 16, 0x80, [⟨0, 2, .rw, 0x0⟩, ⟨2, 13, .rw, 0x0⟩, ⟨15, 5, .rw, 0x0⟩]⟩,
  ⟨false, 0x5000110, 16, 0x80, [⟨0, 4, .rw, 0x0⟩, ⟨4, 4, .rw, 0x0⟩, ⟨8, 3, .rw, 0x0⟩, ⟨12, 3, .rw, 0x0⟩]⟩,
  ⟨false, 0x5000114, 16, 0x80, [⟨0, 1, .rw, 0x0⟩, ⟨1, 5, .rw, 0x0⟩]⟩,
  ⟨false, 0x5000118, 16, 0x80, [⟨0, 13, .rw, 0x0⟩]⟩,
  ⟨false, 0x500011C, 16, 0x80, [⟨0, 8, .rw, 0x0⟩, ⟨8, 13, .rw, 0x0⟩]⟩,
  ⟨false, 0x5000120, 16, 0x80, [⟨0, 17, .rw, 0x0⟩]⟩,
  ⟨false, 0x5000124, 16, 0x80, [⟨0, 17, .rw, 0x0⟩]⟩,
  ⟨false, 0x5000128, 16, 0x80, [⟨0, 16, .rw, 0x0⟩, ⟨16, 8, .rw, 0x0⟩]⟩,
  ⟨false, 0x500012C, 16, 0x80, [⟨0, 20, .rw, 0x0⟩]⟩,
  ⟨false, 0x5000130, 16, 0x80, [⟨0, 20, .rw, 0x0⟩]⟩,
  ⟨false, 0x5000134, 16, 0x80, [⟨0, 10, .rw, 0x0⟩]⟩,
  ⟨false, 0x5000138, 16, 0x80, [⟨0, 20, .ro, 0x0⟩]⟩,
  ⟨false, 0x500013C, 16, 0x80, [⟨0, 20, .ro, 0x0⟩]⟩,
  ⟨false, 0x5000140, 16, 0x80, [⟨0, 17, .rw, 0x0⟩]⟩,
  ⟨false, 0x5000144, 16, 0x80, [⟨0, 18, .rw, 0x0⟩]⟩]

/-- The rows of unit RL. -/
def regRowsRl : List RegRow := [
  ⟨false, 0x6000000, 1, 0x4, [⟨0, 1, .ro, 0x0⟩, ⟨1, 1, .w1c, 0x0⟩, ⟨2, 1, .w1c, 0x0⟩]⟩,
  ⟨false, 0x6000100, 16, 0x20, [⟨0, 32, .rw, 0x0⟩]⟩,
  ⟨false, 0x6000104, 16, 0x20, [⟨0, 32, .rw, 0x0⟩]⟩,
  ⟨false, 0x6000108, 16, 0x20, [⟨0, 32, .rw, 0x0⟩]⟩,
  ⟨false, 0x600010C, 16, 0x20, [⟨0, 9, .rw, 0x0⟩, ⟨9, 10, .rw, 0x0⟩]⟩,
  ⟨false, 0x6000110, 16, 0x20, [⟨0, 32, .ro, 0x0⟩]⟩,
  ⟨false, 0x6000114, 16, 0x20, [⟨0, 1, .wo, 0x0⟩, ⟨1, 1, .wo, 0x0⟩, ⟨2, 1, .ro, 0x0⟩]⟩,
  ⟨false, 0x6000118, 16, 0x20, [⟨0, 32, .ro, 0x0⟩]⟩]

/-- The rows of unit SU. -/
def regRowsSu : List RegRow := [
  ⟨false, 0x7000000, 4, 0x1000, [⟨0, 1, .ro, 0x0⟩, ⟨1, 4, .ro, 0x0⟩, ⟨5, 1, .w1c, 0x0⟩, ⟨6, 1, .w1c, 0x0⟩, ⟨7, 1, .w1c, 0x0⟩, ⟨8, 1, .w1c, 0x0⟩, ⟨9, 1, .w1c, 0x0⟩]⟩,
  ⟨false, 0x7000004, 4, 0x1000, [⟨0, 32, .rw, 0x0⟩]⟩,
  ⟨false, 0x7000008, 4, 0x1000, [⟨0, 32, .rw, 0x0⟩]⟩,
  ⟨false, 0x700000C, 4, 0x1000, [⟨0, 32, .rw, 0x0⟩]⟩,
  ⟨false, 0x7000010, 4, 0x1000, [⟨0, 32, .rw, 0x0⟩]⟩]

/-- The rows of unit XB. -/
def regRowsXb : List RegRow := [
  ⟨false, 0x8000000, 1, 0x4, [⟨0, 2, .wo, 0x0⟩, ⟨2, 1, .wo, 0x0⟩, ⟨3, 10, .wo, 0x0⟩, ⟨13, 11, .wo, 0x0⟩]⟩,
  ⟨false, 0x8000004, 1, 0x4, [⟨0, 1, .w1c, 0x0⟩]⟩,
  ⟨false, 0x8001000, 1024, 0x8, [⟨0, 16, .ro, 0xFFFF⟩, ⟨16, 16, .rw, 0xFFFF⟩]⟩,
  ⟨false, 0x8001004, 1024, 0x8, [⟨0, 11, .rw, 0x0⟩, ⟨11, 1, .rw, 0x0⟩, ⟨12, 1, .rw, 0x0⟩]⟩,
  ⟨false, 0x8003000, 1024, 0x8, [⟨0, 16, .ro, 0xFFFF⟩, ⟨16, 16, .rw, 0xFFFF⟩]⟩,
  ⟨false, 0x8003004, 1024, 0x8, [⟨0, 11, .rw, 0x0⟩, ⟨11, 1, .rw, 0x0⟩, ⟨12, 1, .rw, 0x0⟩]⟩,
  ⟨false, 0x8005000, 1024, 0x4, [⟨0, 3, .ro, 0x0⟩, ⟨3, 16, .ro, 0x0⟩, ⟨19, 11, .ro, 0x0⟩]⟩,
  ⟨false, 0x8006000, 1024, 0x4, [⟨0, 3, .ro, 0x0⟩, ⟨3, 16, .ro, 0x0⟩, ⟨19, 11, .ro, 0x0⟩]⟩]

/-- The rows of unit IO. -/
def regRowsIo : List RegRow := [
  ⟨false, 0x9000000, 1, 0x4, [⟨0, 1, .ro, 0x0⟩, ⟨1, 1, .ro, 0x0⟩, ⟨2, 1, .ro, 0x0⟩, ⟨3, 1, .w1c, 0x0⟩, ⟨4, 1, .w1c, 0x0⟩, ⟨5, 1, .w1c, 0x0⟩]⟩,
  ⟨false, 0x9000004, 1, 0x4, [⟨0, 16, .rw, 0x1F4⟩, ⟨16, 7, .rw, 0x1⟩]⟩,
  ⟨false, 0x9000008, 1, 0x4, [⟨0, 2, .rw, 0x1⟩]⟩,
  ⟨false, 0x900000C, 1, 0x4, [⟨0, 32, .rw, 0x0⟩]⟩,
  ⟨false, 0x9000010, 1, 0x4, [⟨0, 32, .rw, 0x0⟩]⟩,
  ⟨false, 0x9000100, 8, 0x20, [⟨0, 1, .rw, 0x1⟩, ⟨1, 1, .rw, 0x1⟩]⟩,
  ⟨false, 0x9000104, 8, 0x20, [⟨0, 1, .ro, 0x0⟩, ⟨1, 1, .ro, 0x0⟩, ⟨2, 1, .ro, 0x0⟩]⟩,
  ⟨false, 0x9000108, 8, 0x20, [⟨0, 32, .rw, 0x0⟩]⟩,
  ⟨false, 0x900010C, 8, 0x20, [⟨0, 32, .rw, 0x0⟩]⟩,
  ⟨false, 0x9000110, 8, 0x20, [⟨0, 32, .rw, 0x0⟩]⟩,
  ⟨false, 0x9000114, 8, 0x20, [⟨0, 32, .rw, 0x0⟩]⟩,
  ⟨false, 0x9000118, 8, 0x20, [⟨0, 32, .rw, 0x0⟩]⟩,
  ⟨false, 0x9000400, 2, 0x40, [⟨0, 32, .rw, 0x0⟩]⟩,
  ⟨false, 0x9000404, 2, 0x40, [⟨0, 32, .rw, 0x0⟩]⟩,
  ⟨false, 0x9000408, 2, 0x40, [⟨0, 32, .rw, 0x0⟩]⟩,
  ⟨false, 0x900040C, 2, 0x40, [⟨0, 32, .rw, 0x0⟩]⟩,
  ⟨false, 0x9000410, 2, 0x40, [⟨0, 32, .rw, 0x0⟩]⟩,
  ⟨false, 0x9000414, 2, 0x40, [⟨0, 12, .rw, 0x0⟩, ⟨12, 3, .rw, 0x0⟩, ⟨15, 1, .rw, 0x0⟩]⟩,
  ⟨false, 0x9000800, 64, 0x20, [⟨0, 32, .rw, 0x0⟩]⟩,
  ⟨false, 0x9000804, 64, 0x20, [⟨0, 32, .rw, 0x0⟩]⟩,
  ⟨false, 0x9000808, 64, 0x20, [⟨0, 32, .rw, 0x0⟩]⟩,
  ⟨false, 0x900080C, 64, 0x20, [⟨0, 32, .rw, 0x0⟩]⟩,
  ⟨false, 0x9000810, 64, 0x20, [⟨0, 8, .rw, 0x0⟩, ⟨8, 1, .rw, 0x0⟩, ⟨9, 1, .rw, 0x0⟩, ⟨10, 1, .rw, 0x0⟩]⟩,
  ⟨false, 0x9001000, 16, 0x10, [⟨0, 11, .rw, 0x0⟩, ⟨11, 11, .ro, 0x0⟩]⟩,
  ⟨false, 0x9001004, 16, 0x10, [⟨0, 8, .rw, 0x0⟩, ⟨8, 17, .rw, 0x0⟩]⟩,
  ⟨false, 0x9001008, 16, 0x10, [⟨0, 24, .rw, 0x0⟩]⟩,
  ⟨false, 0x9002000, 1024, 0x20, [⟨0, 32, .rw, 0x0⟩]⟩,
  ⟨false, 0x9002004, 1024, 0x20, [⟨0, 32, .rw, 0x0⟩]⟩,
  ⟨false, 0x9002008, 1024, 0x20, [⟨0, 32, .rw, 0x0⟩]⟩,
  ⟨false, 0x900200C, 1024, 0x20, [⟨0, 32, .rw, 0x0⟩]⟩,
  ⟨false, 0x9002010, 1024, 0x20, [⟨0, 24, .rw, 0x0⟩]⟩,
  ⟨false, 0x9002014, 1024, 0x20, [⟨0, 24, .rw, 0x0⟩]⟩,
  ⟨false, 0x9002018, 1024, 0x20, [⟨0, 2, .rw, 0x0⟩, ⟨2, 2, .rw, 0x0⟩, ⟨4, 5, .rw, 0x1⟩, ⟨9, 3, .rw, 0x7⟩, ⟨12, 5, .rw, 0xE⟩]⟩,
  ⟨false, 0x900201C, 1024, 0x20, [⟨0, 10, .ro, 0x3E8⟩]⟩]

/-- The rows of unit TETHER. -/
def regRowsTether : List RegRow := [
  ⟨false, 0xA000000, 1, 0x4, [⟨0, 1, .ro, 0x0⟩, ⟨1, 1, .ro, 0x0⟩, ⟨2, 1, .w1c, 0x0⟩, ⟨3, 1, .w1c, 0x0⟩, ⟨4, 1, .w1c, 0x0⟩, ⟨8, 8, .ro, 0x0⟩]⟩,
  ⟨false, 0xA000004, 1, 0x4, [⟨0, 10, .rw, 0x0⟩, ⟨10, 16, .rw, 0x0⟩]⟩,
  ⟨false, 0xA000008, 1, 0x4, [⟨0, 1, .wo, 0x0⟩, ⟨1, 1, .rw, 0x0⟩, ⟨2, 1, .w1s, 0x0⟩, ⟨3, 5, .rw, 0x1⟩, ⟨8, 8, .rw, 0x64⟩, ⟨16, 16, .rw, 0x64⟩]⟩,
  ⟨false, 0xA00000C, 1, 0x4, [⟨0, 4, .ro, 0x0⟩, ⟨4, 8, .ro, 0x0⟩, ⟨12, 3, .ro, 0x0⟩, ⟨15, 1, .ro, 0x0⟩, ⟨16, 5, .ro, 0x0⟩, ⟨21, 11, .ro, 0x0⟩]⟩,
  ⟨false, 0xA000010, 1, 0x4, [⟨0, 8, .ro, 0x0⟩, ⟨8, 3, .ro, 0x0⟩]⟩,
  ⟨false, 0xA000014, 1, 0x4, [⟨0, 32, .ro, 0x0⟩]⟩,
  ⟨false, 0xA000018, 1, 0x4, [⟨0, 16, .ro, 0x0⟩]⟩,
  ⟨false, 0xA000020, 1, 0x4, [⟨0, 3, .ro, 0x0⟩, ⟨3, 3, .ro, 0x0⟩, ⟨6, 10, .ro, 0x0⟩, ⟨16, 1, .w1c, 0x0⟩]⟩,
  ⟨false, 0xA000024, 1, 0x4, [⟨0, 32, .rw, 0x0⟩]⟩,
  ⟨false, 0xA000100, 8, 0x20, [⟨0, 1, .rw, 0x0⟩, ⟨1, 10, .rw, 0x0⟩, ⟨11, 3, .rw, 0x0⟩, ⟨14, 10, .rw, 0x28⟩]⟩,
  ⟨false, 0xA000104, 8, 0x20, [⟨0, 3, .ro, 0x0⟩, ⟨3, 10, .ro, 0x0⟩, ⟨13, 4, .ro, 0x0⟩]⟩,
  ⟨false, 0xA000108, 8, 0x20, [⟨0, 32, .rw, 0x0⟩]⟩,
  ⟨false, 0xA00010C, 8, 0x20, [⟨0, 32, .rw, 0x0⟩]⟩,
  ⟨false, 0xA000110, 8, 0x20, [⟨0, 32, .rw, 0x0⟩]⟩,
  ⟨false, 0xA002000, 64, 0x10, [⟨0, 1, .rw, 0x0⟩, ⟨1, 4, .rw, 0x0⟩, ⟨5, 8, .rw, 0x0⟩, ⟨13, 10, .rw, 0x0⟩, ⟨23, 1, .rw, 0x0⟩]⟩,
  ⟨false, 0xA002004, 64, 0x10, [⟨8, 17, .rw, 0x0⟩]⟩,
  ⟨false, 0xA002008, 64, 0x10, [⟨0, 16, .rw, 0x0⟩]⟩,
  ⟨false, 0xA100000, 131072, 0x4, [⟨0, 32, .ro, 0x0⟩]⟩]

/-- The rows of unit DG. -/
def regRowsDg : List RegRow := [
  ⟨false, 0xB000000, 1, 0x4, [⟨0, 1, .rw, 0x1⟩]⟩,
  ⟨false, 0xB000004, 1, 0x4, [⟨0, 1, .ro, 0x0⟩, ⟨1, 1, .w1c, 0x0⟩, ⟨2, 1, .w1c, 0x0⟩, ⟨3, 1, .w1c, 0x0⟩]⟩,
  ⟨false, 0xB000008, 1, 0x4, [⟨0, 17, .ro, 0x0⟩]⟩,
  ⟨false, 0xB00000C, 1, 0x4, [⟨0, 17, .rw, 0x0⟩]⟩,
  ⟨false, 0xB000010, 1, 0x4, [⟨0, 32, .rw, 0x0⟩]⟩,
  ⟨false, 0xB000014, 1, 0x4, [⟨0, 32, .rw, 0x0⟩]⟩,
  ⟨false, 0xB000100, 16, 0x8, [⟨0, 32, .ro, 0x0⟩]⟩,
  ⟨false, 0xB000104, 16, 0x8, [⟨0, 32, .ro, 0x0⟩]⟩,
  ⟨false, 0xB100000, 524288, 0x4, [⟨0, 32, .ro, 0x0⟩]⟩]

/-- The rows of unit CORE. -/
def regRowsCoreA : List RegRow := [
  ⟨true, 0x3000, 1, 0x4, [⟨0, 1, .ro, 0x0⟩, ⟨1, 1, .ro, 0x0⟩, ⟨2, 1, .ro, 0x0⟩, ⟨3, 1, .ro, 0x0⟩, ⟨4, 1, .w1c, 0x0⟩, ⟨5, 1, .w1c, 0x0⟩, ⟨6, 1, .w1c, 0x0⟩, ⟨7, 1, .w1c, 0x0⟩, ⟨8, 4, .ro, 0x0⟩, ⟨12, 4, .ro, 0x0⟩]⟩,
  ⟨true, 0x3004, 1, 0x4, [⟨0, 7, .ro, 0x0⟩, ⟨8, 7, .ro, 0x0⟩, ⟨16, 7, .ro, 0x0⟩, ⟨24, 7, .ro, 0x0⟩]⟩,
  ⟨true, 0x3008, 1, 0x4, [⟨0, 7, .ro, 0x0⟩]⟩,
  ⟨true, 0x300C, 1, 0x4, [⟨0, 7, .rw, 0x0⟩, ⟨8, 7, .rw, 0x0⟩, ⟨16, 7, .rw, 0x0⟩, ⟨24, 7, .rw, 0x0⟩]⟩,
  ⟨true, 0x3010, 1, 0x4, [⟨0, 7, .rw, 0x0⟩]⟩,
  ⟨true, 0x3014, 1, 0x4, [⟨0, 8, .ro, 0x0⟩, ⟨8, 3, .ro, 0x0⟩, ⟨11, 1, .w1c, 0x0⟩]⟩,
  ⟨true, 0x3018, 1, 0x4, [⟨0, 24, .ro, 0x0⟩]⟩,
  ⟨true, 0x301C, 1, 0x4, [⟨0, 32, .ro, 0x0⟩]⟩,
  ⟨true, 0x3020, 1, 0x4, [⟨0, 32, .rw, 0x0⟩]⟩,
  ⟨true, 0x3024, 1, 0x4, [⟨0, 32, .rw, 0x0⟩]⟩,
  ⟨true, 0x3028, 1, 0x4, [⟨0, 24, .ro, 0x0⟩]⟩,
  ⟨true, 0x4000, 1, 0x4, [⟨0, 1, .ro, 0x0⟩, ⟨1, 1, .ro, 0x0⟩, ⟨2, 1, .ro, 0x0⟩, ⟨3, 1, .w1c, 0x0⟩, ⟨4, 1, .w1c, 0x0⟩, ⟨5, 1, .ro, 0x0⟩, ⟨6, 1, .ro, 0x0⟩, ⟨7, 2, .ro, 0x0⟩, ⟨9, 1, .ro, 0x0⟩, ⟨10, 1, .ro, 0x0⟩, ⟨11, 1, .ro, 0x0⟩, ⟨12, 1, .ro, 0x0⟩]⟩,
  ⟨true, 0x4004, 1, 0x4, [⟨0, 32, .rw, 0x0⟩]⟩,
  ⟨true, 0x4010, 4, 0x4, [⟨0, 4, .rw, 0x0⟩, ⟨4, 4, .rw, 0x0⟩, ⟨8, 4, .rw, 0x0⟩, ⟨12, 4, .rw, 0x0⟩, ⟨16, 1, .rw, 0x0⟩]⟩,
  ⟨true, 0x5000, 1, 0x4, [⟨0, 1, .ro, 0x0⟩, ⟨1, 1, .w1c, 0x0⟩, ⟨2, 1, .ro, 0x0⟩]⟩,
  ⟨true, 0x5004, 1, 0x4, [⟨0, 32, .rw, 0x0⟩]⟩,
  ⟨true, 0x5008, 1, 0x4, [⟨0, 32, .rw, 0x0⟩]⟩,
  ⟨true, 0x500C, 1, 0x4, [⟨0, 32, .rw, 0x0⟩]⟩,
  ⟨true, 0x5010, 1, 0x4, [⟨0, 32, .ro, 0x0⟩]⟩,
  ⟨true, 0x5014, 1, 0x4, [⟨0, 8, .ro, 0x0⟩]⟩,
  ⟨true, 0x5018, 2, 0x4, [⟨0, 32, .ro, 0x0⟩]⟩,
  ⟨true, 0x5040, 16, 0x4, [⟨0, 32, .ro, 0x0⟩]⟩,
  ⟨true, 0x6000, 1, 0x4, [⟨0, 1, .w1c, 0x0⟩, ⟨1, 1, .w1c, 0x0⟩, ⟨2, 1, .w1c, 0x0⟩, ⟨3, 1, .w1c, 0x0⟩, ⟨4, 1, .w1c, 0x0⟩, ⟨5, 1, .w1c, 0x0⟩, ⟨6, 1, .ro, 0x0⟩, ⟨7, 1, .w1c, 0x0⟩]⟩,
  ⟨true, 0x6004, 1, 0x4, [⟨0, 32, .rw, 0x0⟩]⟩,
  ⟨true, 0x6008, 1, 0x4, [⟨0, 32, .rw, 0x0⟩]⟩,
  ⟨true, 0x600C, 1, 0x4, [⟨0, 32, .rw, 0x0⟩]⟩,
  ⟨true, 0x6010, 1, 0x4, [⟨0, 32, .rw, 0x0⟩]⟩,
  ⟨true, 0x6014, 1, 0x4, [⟨0, 25, .ro, 0x0⟩, ⟨25, 1, .w1c, 0x0⟩]⟩,
  ⟨true, 0x6018, 1, 0x4, [⟨0, 1, .rw, 0x1⟩, ⟨16, 16, .rw, 0x1000⟩]⟩,
  ⟨true, 0x6020, 3, 0x4, [⟨0, 12, .rw, 0x0⟩, ⟨16, 12, .rw, 0x0⟩]⟩,
  ⟨true, 0x6100, 32, 0x4, [⟨0, 13, .rw, 0x0⟩, ⟨13, 13, .rw, 0x0⟩, ⟨26, 1, .rw, 0x0⟩, ⟨27, 1, .rw, 0x0⟩]⟩,
  ⟨true, 0x7000, 1, 0x4, [⟨0, 1, .ro, 0x0⟩, ⟨1, 1, .w1c, 0x0⟩]⟩,
  ⟨true, 0x7100, 1, 0x4, [⟨0, 1, .ro, 0x0⟩, ⟨1, 1, .w1c, 0x0⟩, ⟨2, 1, .w1c, 0x0⟩, ⟨3, 1, .w1c, 0x0⟩]⟩,
  ⟨true, 0x7104, 2, 0x4, [⟨0, 32, .ro, 0x0⟩]⟩,
  ⟨true, 0x710C, 1, 0x4, [⟨0, 6, .ro, 0x0⟩, ⟨6, 1, .w1c, 0x0⟩]⟩,
  ⟨true, 0x7200, 1, 0x4, [⟨0, 1, .ro, 0x0⟩, ⟨1, 1, .ro, 0x0⟩, ⟨2, 1, .ro, 0x0⟩, ⟨3, 1, .ro, 0x0⟩]⟩,
  ⟨true, 0x7204, 1, 0x4, [⟨0, 13, .ro, 0x0⟩, ⟨13, 1, .ro, 0x0⟩, ⟨14, 1, .ro, 0x0⟩]⟩,
  ⟨true, 0x7208, 1, 0x4, [⟨0, 32, .ro, 0x0⟩]⟩,
  ⟨true, 0x720C, 1, 0x4, [⟨0, 16, .ro, 0x0⟩]⟩,
  ⟨true, 0x7210, 1, 0x4, [⟨0, 32, .rw, 0x0⟩]⟩]

/-- The rows of unit CORE. -/
def regRowsCoreB : List RegRow := [
  ⟨true, 0x7214, 1, 0x4, [⟨0, 32, .rw, 0x0⟩]⟩,
  ⟨true, 0x7218, 1, 0x4, [⟨0, 32, .rw, 0x0⟩]⟩,
  ⟨true, 0x8000, 1, 0x4, [⟨0, 1, .ro, 0x0⟩, ⟨1, 11, .ro, 0x0⟩, ⟨12, 1, .w1c, 0x0⟩, ⟨13, 1, .w1c, 0x0⟩, ⟨14, 1, .w1c, 0x0⟩]⟩,
  ⟨true, 0x8004, 1, 0x4, [⟨0, 32, .rw, 0x0⟩]⟩,
  ⟨true, 0x8008, 1, 0x4, [⟨0, 32, .rw, 0x0⟩]⟩,
  ⟨true, 0x8100, 1, 0x4, [⟨0, 4, .ro, 0x0⟩, ⟨4, 1, .ro, 0x0⟩, ⟨5, 1, .w1c, 0x0⟩, ⟨6, 1, .w1c, 0x0⟩]⟩,
  ⟨true, 0x8104, 1, 0x4, [⟨0, 32, .ro, 0x0⟩]⟩,
  ⟨true, 0x8108, 1, 0x4, [⟨0, 32, .ro, 0x0⟩]⟩,
  ⟨true, 0x810C, 1, 0x4, [⟨0, 32, .rw, 0x0⟩]⟩,
  ⟨true, 0x8110, 1, 0x4, [⟨0, 16, .rw, 0x0⟩]⟩]

/-- Every row of the register map. -/
def regRows : List RegRow :=
  regRowsMc ++ regRowsSc ++ regRowsTb ++ regRowsPm ++ regRowsRt ++ regRowsPg ++ regRowsRl ++ regRowsSu ++ regRowsXb ++ regRowsIo ++ regRowsTether ++ regRowsDg ++ regRowsCoreA ++ regRowsCoreB

/-- Does the row hold the register at this offset? -/
def RegRow.holds (r : RegRow) (core : Bool) (off : Nat) : Bool :=
  r.core == core && decide (r.off ≤ off) && decide (off < r.off + r.count * r.stride) && decide ((off - r.off) % r.stride = 0)

/-- Does the address lie in a core block (16 R446)? -/
def inCoreBlock (a : Nat) : Bool := decide (0x10000000 ≤ a)
/-- The virtual core index of a core block address. -/
def blockCore (a : Nat) : Nat := (a - 0x10000000) / 0x100000
/-- The offset of an address: within its core block, or the address itself. -/
def blockOff (a : Nat) : Nat := if inCoreBlock a then (a - 0x10000000) % 0x100000 else a

/-- The row of an address, if a table defines one there; from 0x2000_0000 on there is no block (16 R446). -/
def regFind (a : Nat) : Option RegRow :=
  if 0x20000000 ≤ a then none else regRows.find? (fun r => r.holds (inCoreBlock a) (blockOff a))

/-- The reset value of a row: its fields' reset values in their places (00 R15). -/
def RegRow.resetWord (r : RegRow) : Word :=
  BitVec.ofNat 32 (r.fields.foldl (fun a f => a + f.reset % 2 ^ f.len * 2 ^ f.lsb) 0)

/-- The reset value of the register at an address; 0 where no table defines one (00 R16). -/
def regReset (a : Nat) : Word :=
  match regFind a with
  | some r => r.resetWord
  | none => 0

/-- Which bits of a row have the given type. -/
def RegRow.mask (r : RegRow) (t : FType) : Nat :=
  r.fields.foldl (fun a f => if f.type = t then a + (2 ^ f.len - 1) * 2 ^ f.lsb else a) 0

end Sys2Proof.Machine
end

