-- ==== Sys2Proof/Machine/Sparse.lean ====
section
/-! DEFINITION. Sparse maps as plain data: a list of key and value, keys strictly rising, no entry equal to what an
unlisted key reads as. Memory, registers, flags, records and tables are held in this one form. -/

namespace Sys2Proof.Machine

/-- What key `k` holds: the listed value, or the default of the key. -/
def Sparse.get {α : Type} (d : Nat → α) (m : List (Nat × α)) (k : Nat) : α :=
  match m with
  | [] => d k
  | p :: r => if p.1 = k then p.2 else Sparse.get d r k

/-- The list without its entries of key `k`. -/
def Sparse.erase {α : Type} (m : List (Nat × α)) (k : Nat) : List (Nat × α) :=
  m.filter (fun p => decide (p.1 ≠ k))

/-- The entry put before the first larger key. -/
def Sparse.insert {α : Type} (m : List (Nat × α)) (k : Nat) (v : α) : List (Nat × α) :=
  match m with
  | [] => [(k, v)]
  | p :: r => if k < p.1 then (k, v) :: p :: r else p :: Sparse.insert r k v

/-- The map with `k` holding `v`: no entry where `v` is the default of `k`. -/
def Sparse.set {α : Type} [DecidableEq α] (d : Nat → α) (m : List (Nat × α)) (k : Nat) (v : α) : List (Nat × α) :=
  if v = d k then Sparse.erase m k else Sparse.insert (Sparse.erase m k) k v

/-- A key put in its place in a rising list, once. -/
def keyInto (k : Nat) : List Nat → List Nat
  | [] => [k]
  | x :: r => if k < x then k :: x :: r else if k = x then x :: r else x :: keyInto k r

/-- The keys, rising, that two maps hold differently, each with what the first and what the second holds. -/
def Sparse.diff {α : Type} [DecidableEq α] (d : Nat → α) (m n : List (Nat × α)) : List (Nat × α × α) :=
  ((m.map (·.1) ++ n.map (·.1)).foldr keyInto []).filterMap fun k =>
    if Sparse.get d m k = Sparse.get d n k then none else some (k, Sparse.get d m k, Sparse.get d n k)

/-- The canonical form: every key above `lo` and the keys strictly rising, no value the default of its key. -/
def Sparse.wfFrom {α : Type} [DecidableEq α] (d : Nat → α) (lo : Nat) (m : List (Nat × α)) : Bool :=
  match m with
  | [] => true
  | p :: r => decide (lo ≤ p.1) && decide (p.2 ≠ d p.1) && Sparse.wfFrom d (p.1 + 1) r

/-- The canonical form of a whole map. -/
def Sparse.wf {α : Type} [DecidableEq α] (d : Nat → α) (m : List (Nat × α)) : Bool := Sparse.wfFrom d 0 m

end Sys2Proof.Machine
end

