-- ==== Sys2Proof/Machine/Bits.lean ====
section
/-! DEFINITION. Bit fields, byte order, and the keyed generator (00 R11, R18; 12 R347). -/

namespace Sys2Proof.Machine

open Sys2Proof

/-- Bits [lsb + len − 1 : lsb] of a word, as a number (00 R11). -/
def fld (w : Word) (lsb len : Nat) : Nat := w.toNat / 2 ^ lsb % 2 ^ len

/-- A single bit of a word. -/
def bit (w : Word) (n : Nat) : Bool := decide (w.toNat / 2 ^ n % 2 = 1)

/-- The word with bits [lsb + len − 1 : lsb] replaced by `v` modulo 2^len (00 R11). -/
def setFld (w : Word) (lsb len v : Nat) : Word :=
  BitVec.ofNat 32 (w.toNat - fld w lsb len * 2 ^ lsb + v % 2 ^ len * 2 ^ lsb)

/-- Bits [lsb + len − 1 : lsb] of a 64-bit value. -/
def fld64 (w : DWord) (lsb len : Nat) : Nat := w.toNat / 2 ^ lsb % 2 ^ len

/-- A Boolean as a bit. -/
def bn (b : Bool) : Nat := if b then 1 else 0

/-- The low 32 bits of a 64-bit value. -/
def lo32 (w : DWord) : Word := BitVec.ofNat 32 w.toNat
/-- The high 32 bits of a 64-bit value. -/
def hi32 (w : DWord) : Word := BitVec.ofNat 32 (w.toNat / 2 ^ 32)
/-- The 64-bit value of two words. -/
def join64 (lo hi : Word) : DWord := BitVec.ofNat 64 (lo.toNat + hi.toNat * 2 ^ 32)

/-- `n` bytes of a number, little-endian (00 R11). -/
def leBytes (n v : Nat) : List Byte := (List.range n).map fun i => BitVec.ofNat 8 (v / 256 ^ i)

/-- The bytes of a number, the most significant first. -/
def beNat (n v : Nat) : List Byte := (leBytes n v).reverse

/-- The number whose little-endian bytes are given (00 R11). -/
def leNat (bs : List Byte) : Nat := bs.foldr (fun b acc => b.toNat + 256 * acc) 0

/-- `n` bytes from offset `o` as a little-endian number; bytes beyond the end count 0. -/
def leAt (bs : List Byte) (o n : Nat) : Nat := leNat ((bs.drop o).take n)

/-- The byte at an offset, 0 beyond the end. -/
def byteAt (bs : List Byte) (o : Nat) : Byte := bs.getD o 0

/-- A word plus one, saturating (11 R335). -/
def satInc (w : Word) : Word := if w = 0xFFFFFFFF then w else w + 1

/-- A word plus n, saturating. -/
def satAdd (w : Word) (n : Nat) : Word := BitVec.ofNat 32 (min (2 ^ 32 - 1) (w.toNat + n))

/-- ceil(a / b). -/
def ceilDiv (a b : Nat) : Nat := (a + b - 1) / b

/-- One round of the mixing function (12 R347). -/
def mix64 (z : DWord) : DWord :=
  let z1 := (z ^^^ (z >>> 30)) * 0x9A3C57E1D2B468F5
  let z2 := (z1 ^^^ (z1 >>> 27)) * 0xE7D14B298C63F0A7
  z2 ^^^ (z2 >>> 31)

/-- The keyed counter-based generator (12 R347). -/
def gen (k0 k1 ctr : DWord) : DWord :=
  let y0 := k0 ^^^ k1.rotateLeft 32 ^^^ 0x6C5A93E4B1F02D87
  let x1 := mix64 (ctr ^^^ y0)
  let y1 := y0.rotateLeft 23 + k1 + 1
  let x2 := mix64 (x1 ^^^ y1)
  let y2 := y1.rotateLeft 23 + k1 + 2
  let x3 := mix64 (x2 ^^^ y2)
  let y3 := y2.rotateLeft 23 + k1 + 3
  mix64 (x3 ^^^ y3)

/-- The 16-bit draw of stochastic rounding (12 R347, R348). -/
def keyedDraw (key : Word) (draw : DWord) : Nat :=
  (gen (BitVec.ofNat 64 key.toNat) 1 draw).toNat / 2 ^ 48

/-- The mix of a layer digest (12 R349). -/
def dmix (dkey eidx bits : DWord) : DWord := gen dkey bits eidx

end Sys2Proof.Machine
end

