-- ==== Sys2Proof/Machine/Sm3.lean ====
section
/-! DEFINITION. SM3 (GB/T 32905), the hash the security controller uses (16 R452, R467; 07 R203, R207). The manual names
the algorithm and does not restate it: PRESUMED from the standard, log entry 9. -/

namespace Sys2Proof.Machine

open Sys2Proof

/-- The permutation P0. -/
def sm3P0 (x : Word) : Word := x ^^^ x.rotateLeft 9 ^^^ x.rotateLeft 17
/-- The permutation P1. -/
def sm3P1 (x : Word) : Word := x ^^^ x.rotateLeft 15 ^^^ x.rotateLeft 23

/-- The Boolean function FF of round j. -/
def sm3FF (j : Nat) (x y z : Word) : Word :=
  if j < 16 then x ^^^ y ^^^ z else (x &&& y) ||| (x &&& z) ||| (y &&& z)
/-- The Boolean function GG of round j. -/
def sm3GG (j : Nat) (x y z : Word) : Word :=
  if j < 16 then x ^^^ y ^^^ z else (x &&& y) ||| (~~~x &&& z)

/-- The constant of round j. -/
def sm3T (j : Nat) : Word := if j < 16 then 0x79CC4519 else 0x7A879D8A

/-- The chaining value: eight words. -/
structure Sm3V where
  a : Word
  b : Word
  c : Word
  d : Word
  e : Word
  f : Word
  g : Word
  h : Word
  deriving DecidableEq, Repr

/-- The initial value. -/
def sm3Iv : Sm3V :=
  ⟨0x7380166F, 0x4914B2B9, 0x172442D7, 0xDA8A0600, 0xA96F30BC, 0x163138AA, 0xE38DEE4D, 0xB0FB0E4E⟩

/-- A big-endian word of four bytes. -/
def beWord (b0 b1 b2 b3 : Byte) : Word :=
  BitVec.ofNat 32 (b0.toNat * 2 ^ 24 + b1.toNat * 2 ^ 16 + b2.toNat * 2 ^ 8 + b3.toNat)

/-- The big-endian words of a list of bytes; a rest of fewer than four bytes is dropped. -/
def beWords : List Byte → List Word
  | b0 :: b1 :: b2 :: b3 :: r => beWord b0 b1 b2 b3 :: beWords r
  | _ => []

/-- One step of the message expansion: the words so far, newest first. -/
def sm3Next (w : List Word) : Word :=
  let at' (n : Nat) : Word := w.getD (n - 1) 0
  sm3P1 (at' 16 ^^^ at' 9 ^^^ (at' 3).rotateLeft 15) ^^^ (at' 13).rotateLeft 7 ^^^ at' 6

/-- The message expansion to 68 words, newest first. -/
def sm3Expand (n : Nat) (w : List Word) : List Word :=
  match n with
  | 0 => w
  | k + 1 => sm3Expand k (sm3Next w :: w)

/-- One round. -/
def sm3Round (v : Sm3V) (j : Nat) (wj wj4 : Word) : Sm3V :=
  let ss1 := (v.a.rotateLeft 12 + v.e + (sm3T j).rotateLeft (j % 32)).rotateLeft 7
  let ss2 := ss1 ^^^ v.a.rotateLeft 12
  let tt1 := sm3FF j v.a v.b v.c + v.d + ss2 + (wj ^^^ wj4)
  let tt2 := sm3GG j v.e v.f v.g + v.h + ss1 + wj
  ⟨tt1, v.a, v.b.rotateLeft 9, v.c, sm3P0 tt2, v.e, v.f.rotateLeft 19, v.g⟩

/-- The compression of one block of 64 bytes. -/
def sm3Block (v : Sm3V) (block : List Byte) : Sm3V :=
  let w := (sm3Expand 52 (beWords block).reverse).reverse
  let r := (List.range 64).foldl (fun x j => sm3Round x j (w.getD j 0) (w.getD (j + 4) 0)) v
  ⟨r.a ^^^ v.a, r.b ^^^ v.b, r.c ^^^ v.c, r.d ^^^ v.d, r.e ^^^ v.e, r.f ^^^ v.f, r.g ^^^ v.g, r.h ^^^ v.h⟩

/-- `n` big-endian bytes of a number. -/
def beBytes (n v : Nat) : List Byte := (List.range n).map fun i => BitVec.ofNat 8 (v / 256 ^ (n - 1 - i))

/-- The padded message. -/
def sm3Pad (m : List Byte) : List Byte :=
  let z := (119 - m.length % 64) % 64
  m ++ [0x80] ++ List.replicate z 0 ++ beBytes 8 (8 * m.length)

/-- The blocks of a padded message folded into the chaining value. -/
def sm3Blocks (n : Nat) (v : Sm3V) (m : List Byte) : Sm3V :=
  match n with
  | 0 => v
  | k + 1 => sm3Blocks k (sm3Block v (m.take 64)) (m.drop 64)

/-- The SM3 digest: 32 bytes. -/
def sm3 (m : List Byte) : List Byte :=
  let p := sm3Pad m
  let v := sm3Blocks (p.length / 64) sm3Iv p
  [v.a, v.b, v.c, v.d, v.e, v.f, v.g, v.h].flatMap fun w => beBytes 4 w.toNat

end Sys2Proof.Machine
end

