-- ==== Sys2Proof/Machine/Records.lean ====
section
/-! DEFINITION. Reading and writing registers from inside the block, the fault and event records, the change log
(16 R465 to R471). -/

namespace Sys2Proof.Machine

open Sys2Proof

/-- The word a register holds. -/
def State.rd (s : State) (a : Nat) : Word := Sparse.get regReset s.regs a

/-- The state with a register holding a word. -/
def State.wr (s : State) (a : Nat) (v : Word) : State := { s with regs := Sparse.set regReset s.regs a v }

/-- A field of a register set by the hardware. -/
def State.wrF (s : State) (a lsb len v : Nat) : State := s.wr a (setFld (s.rd a) lsb len v)

/-- A bit of a register set by the hardware. -/
def State.setBit (s : State) (a n : Nat) : State := s.wrF a n 1 1

/-- A bit of a register cleared by the hardware. -/
def State.clrBit (s : State) (a n : Nat) : State := s.wrF a n 1 0

/-- A counter register plus one, saturating (11 R335). -/
def State.bump (s : State) (a : Nat) : State := s.wr a (satInc (s.rd a))

/-- A counter register plus n, saturating. -/
def State.bumpN (s : State) (a n : Nat) : State := if n = 0 then s else s.wr a (satAdd (s.rd a) n)

/-- A core code gathered for the record of its period: occurrences of one (code, core, engine, partition) fold into one
(16 R469). -/
def foldEvt (e : Evt) : List Evt → List Evt
  | [] => [e]
  | g :: r =>
    if g.code = e.code ∧ g.core = e.core ∧ g.eng = e.eng ∧ g.part = e.part then
      { g with count := min 0xFFFF (g.count + 1) } :: r
    else g :: foldEvt e r

/-- A core code is gathered until the boundary that ends the period (16 R469). -/
def State.gather (s : State) (code unit eng part core : Nat) (arg : Word) : State :=
  let g := foldEvt ⟨code, unit, eng, part, core, 1, s.beat.bno, arg, s.tb.tc⟩ s.sc.gathered
  { s with sc := { s.sc with gathered := g } }

/-- A fault and event record written: into the ring at HEAD mod 4,096, the oldest overwritten when the ring is full
(16 R468, R469). -/
def State.putEvt (s : State) (e : Evt) : State :=
  let head := s.rd rScEvtHead
  let evts := Sparse.set (fun _ => none) s.sc.evts (head.toNat % 4096) (some (head, e))
  let s1 := { s with sc := { s.sc with evts := evts } }
  let s2 := s1.wr rScEvtHead (head + 1)
  if head - s.rd rScEvtTail = 4096 then
    ((s2.bump rScEvtLost).wr rScEvtTail (s.rd rScEvtTail + 1)).setBit rScStatus 5
  else s2

/-- An event of a unit, written when it occurs (16 R469, R470). -/
def State.event (s : State) (code unit eng part core : Nat) (arg : Word) : State :=
  s.putEvt ⟨code, unit, eng, part, core, 1, s.beat.bno, arg, s.tb.tc⟩

/-- A code of 06 R197 that a chip-level unit or a host access records: gathered until the boundary of the period like the codes of the
cores, written at once where no period runs (16 R469; log entry 82). -/
def State.coreCode (s : State) (code unit eng part core : Nat) (arg : Word) : State :=
  if s.beat.joined then s.gather code unit eng part core arg else s.event code unit eng part core arg

/-- A source of ALERT_N becomes pending (16 R471, R477). -/
def State.alert (s : State) (n : Nat) : State := s.setBit rScAlert n

/-- The 48 bytes of a change-log record that the chain covers (16 R466). -/
def logBytes (seq : Word) (r : LogRec) : List Byte :=
  leBytes 4 seq.toNat ++ leBytes 1 r.kind ++ leBytes 1 (r.origin + 8 * bn (!r.secure)) ++ leBytes 1 r.part ++ leBytes 1 0
    ++ leBytes 8 r.tc.toNat ++ (r.src ++ List.replicate (16 - r.src.length) 0).take 16
    ++ leBytes 4 r.addr.toNat ++ leBytes 4 r.old.toNat ++ leBytes 4 r.new.toNat ++ leBytes 4 r.arg.toNat

/-- A record entered in the change log: chained with SM3, written at HEAD mod 16,384, the oldest overwritten when the
ring is full (16 R465 to R468). -/
def State.putLog (s : State) (r : LogRec) : State :=
  let head := s.rd rScLogHead
  let h := sm3 (s.sc.chain ++ logBytes head r)
  let logs := Sparse.set (fun _ => none) s.sc.logs (head.toNat % 16384) (some (head, r, h.take 16))
  let s1 := { s with sc := { s.sc with chain := h, logs := logs } }
  let s2 := s1.wr rScLogHead (head + 1)
  if head - s.rd rScLogTail = 16384 then
    let s3 := ((s2.bump rScLogLost).wr rScLogTail (s.rd rScLogTail + 1)).setBit rScStatus 4
    (s3.event 0x8B 2 0xFF 0xFF 0xFFFF (s3.rd rScLogLost)).alert 3
  else s2

/-- The block itself, its firmware, or the loader, as origins (16 R466). -/
def originHw : Origin := ⟨5, true, [], 0, 0xFFFF⟩
/-- Firmware as an origin. -/
def originFw : Origin := ⟨0, true, [], 0, 0xFFFF⟩
/-- The loader as an origin. -/
def originLoader : Origin := ⟨4, true, [], 0, 0xFFFF⟩

/-- One change-log record (16 R465, R466). -/
def State.log (s : State) (o : Origin) (kind part : Nat) (addr old new : Word) : State :=
  s.putLog ⟨kind, o.iface, o.secure, part, s.tb.tc, o.src, addr, old, new,
    BitVec.ofNat 32 (o.port % 65536 + o.sess % 65536 * 65536)⟩

end Sys2Proof.Machine
end

