-- ==== Sys2Proof/Machine/Ops.lean ====
section
/-! DEFINITION. The named operations over the state: registers, cores, partitions, fault records, the beat status. Every
family reads and writes the state through them. -/

namespace Sys2Proof.Machine

open Sys2Proof

/-- What a command answers. -/
abbrev Res := Host.Outcome State Fault Refusal

/-! ### Cores and partitions -/

/-- How many rows of virtual cores the grade has (01 R21). -/
def State.rows (s : State) : Nat := s.fuses.gridRows

/-- Does the virtual core index name a core of the grid (05 R144)? -/
def State.coreExists (s : State) (c : Nat) : Bool := decide (c < 16 * s.rows)

/-- The core at a virtual core index. -/
def State.core (s : State) (c : Nat) : Core := Sparse.get (fun _ => Core.reset) s.cores c

/-- The state with a core replaced. -/
def State.setCore (s : State) (c : Nat) (k : Core) : State :=
  { s with cores := Sparse.set (fun _ => Core.reset) s.cores c k }

/-- The state with a core changed. -/
def State.updCore (s : State) (c : Nat) (f : Core → Core) : State := s.setCore c (f (s.core c))

/-- The partition of a number. -/
def State.part (s : State) (p : Nat) : Part := Sparse.get (fun _ => Part.reset) s.parts p

/-- The state with a partition replaced. -/
def State.setPart (s : State) (p : Nat) (q : Part) : State :=
  { s with parts := Sparse.set (fun _ => Part.reset) s.parts p q }

/-- Does the partition's rectangle hold the core (07 R208)? -/
def Part.holds (q : Part) (c : Nat) : Bool :=
  decide (q.st ≠ .free) && decide (q.x0 ≤ c % 16) && decide (c % 16 < q.x0 + q.w) && decide (q.y0 ≤ c / 16)
    && decide (c / 16 < q.y0 + q.h)

/-- The partition that holds a core, if one does (01 R23). -/
def State.partOf (s : State) (c : Nat) : Option Nat := (List.range 16).find? fun p => (s.part p).holds c

/-- Is the partition bound to a program (07 R210)? -/
def Part.isBound (q : Part) : Bool := q.bound.isSome

/-- The resident program that a partition is bound to. -/
def State.boundProg (s : State) (p : Nat) : Option Prog :=
  (s.part p).bound.bind fun h => (s.part p).progs.find? fun x => decide (x.handle = h)

/-- The core's partition where it has one, else an unassigned one. -/
def State.corePart (s : State) (c : Nat) : Part :=
  match s.partOf c with
  | some p => s.part p
  | none => Part.reset

/-- The partition number of a core for a record: 0xFF where none holds it (16 R469). -/
def State.partNo (s : State) (c : Nat) : Nat := (s.partOf c).getD 0xFF

/-- The cores of a partition's rectangle. -/
def Part.cores (q : Part) : List Nat :=
  (List.range q.h).flatMap fun j => (List.range q.w).map fun i => (q.y0 + j) * 16 + q.x0 + i

/-- The physical row of virtual core (x, y): the y-th enabled core of the column in ascending py (01 R21; 07 R208). -/
def State.physRow (s : State) (x y : Nat) : Nat :=
  ((List.range 16).filter fun py => decide (fld (s.fuses.colmap x) py 1 = 1)).getD y 0

/-- The clock region of a virtual core (01, region r covers 4 × 4 physical cores). -/
def State.regionOf (s : State) (c : Nat) : Nat := c % 16 / 4 + 4 * (s.physRow (c % 16) (c / 16) / 4)

/-- The frequency level in effect in a region: 0 to 3 (11 R337). -/
def State.level (s : State) (r : Nat) : Nat := fld (s.rd (rPmRegionClk r)) 2 2

/-! ### The beat -/

/-- Does scheduled work run: joined, in a work or replayed beat, before the guard band (11 R328, R332)? -/
def State.inWork (s : State) : Bool :=
  s.beat.joined && decide (s.beat.kind = 1 ∨ s.beat.kind = 2) && !s.beat.inGuard

/-- Is the period a work or replayed beat? -/
def State.workPeriod (s : State) : Bool := s.beat.joined && decide (s.beat.kind = 1 ∨ s.beat.kind = 2)

/-- Does the core run a program in this period (06 R170; 07 R210)? -/
def State.coreRuns (s : State) (c : Nat) : Bool :=
  s.coreExists c && s.inWork && decide ((s.corePart c).st = .running)

/-- The beat fails: FAIL is gathered for the status of the period (01 R28; 10 R294, R295). -/
def State.failBeat (s : State) : State := { s with beat := { s.beat with acc := { s.beat.acc with fail := true } } }

/-- A class G fault of a model group is gathered for the bitmap (06 R195). -/
def State.faultGroup (s : State) (g : Nat) : State :=
  { s with beat := { s.beat with acc := { s.beat.acc with
      groups := if s.beat.acc.groups.contains g then s.beat.acc.groups else s.beat.acc.groups ++ [g] } } }

/-- SKIP is set for the period, before the status cut (11 R331). -/
def State.setSkip (s : State) : State :=
  let s1 := { s with beat := { s.beat with acc := { s.beat.acc with skip := true }, skipSet := true } }
  s1.setBit rTbBeatState 4

/-! ### Records of cores (06 R195 to R197; 16 R469) -/

/-- SCHED_MISS recorded by an engine of a core (06 R197 to R199): MISS is set, for the LP in LP_STATUS too, SQ_MISS_COUNT
advances, the beat fails. -/
def State.coreMiss (s : State) (c eng : Nat) (pc : Nat) : State :=
  ((((if eng = 4 then s.setBit (rLpStatus c) 1 else s).setBit (rSqStatus c) 5).bump (rSqMissCount c)).gather 0x70 0 eng (s.partNo c) c (BitVec.ofNat 32 pc)).failBeat

/-- A class G fault of a core (06 R195, R198): captured when SQ_FAULT.VALID is clear, counted, logged, carried in the
beat status with the model group; after the status cut also a SCHED_MISS (R196). -/
def State.coreFault (s : State) (c code src : Nat) (pc : Nat) : State :=
  let s1 :=
    if bit (s.rd (rSqFault c)) 11 then s
    else ((s.wr (rSqFault c) (BitVec.ofNat 32 (code + src * 256 + 2048))).wr (rSqFaultPc c) (BitVec.ofNat 32 pc)).wr
      (rSqFaultBeat c) (BitVec.ofNat 32 s.beat.bno.toNat)
  let s2 := ((s1.setBit (rSqStatus c) 4).bump (rSqFaultCount c)).gather code 0 src (s.partNo c) c (BitVec.ofNat 32 pc)
  let s3 := if (s.partOf c).isSome then s2.faultGroup (s.corePart c).group else s2
  if s.beat.cut then s3.coreMiss c src pc else s3

/-- LANDING_REFUSED recorded by a chip-level unit (10 R308): captured in TETHER_REFUSE, counted, logged, the beat
fails. -/
def State.refuseLanding (s : State) (unit cause port chip part : Nat) : State :=
  let s1 :=
    if bit (s.rd rTetherRefuse) 16 then s
    else s.wr rTetherRefuse (BitVec.ofNat 32 (cause + port * 8 + chip * 64 + 65536))
  let s2 := if unit = 11 then s1.setBit rTetherStatus 3 else s1
  ((s2.bump rTetherRefuseCount).event 0x71 unit 0xFF part 0xFFFF
    (BitVec.ofNat 32 cause)).failBeat

/-- SCHED_MISS recorded by a chip-level unit in its own name (06 R197; 10 R262). -/
def State.unitMiss (s : State) (unit part : Nat) : State := (s.event 0x70 unit 0xFF part 0xFFFF 0).failBeat

/-- Is the sampling unit present (07 R216; 13 R384)? -/
def State.suExists (s : State) (i : Nat) : Bool := decide (i < 4) && decide (s.fuses.units / 2 ^ i % 2 = 1)

/-- Is the chip-level unit of a drift endpoint ID one `sq.post` may name, and present (06 R185; 13 R384)? -/
def State.unitPresent (s : State) (u : Nat) : Bool :=
  decide (u = 0x100 ∨ u = 0x101) || (decide (u = 0x102 ∨ u = 0x103) && decide (s.fuses.units / 2 ^ (u - 0x102 + 4) % 2 = 1))
    || (decide (0x104 ≤ u ∧ u ≤ 0x107) && s.suExists (u - 0x104))
    || decide (u = 0x108 ∨ u = 0x109)

/-! ### Tables that play (09 R257; 10 R286) -/

/-- RUN: how many cycles or slots an entry covers. -/
def runLen (e : DWord) : Nat := fld64 e 0 16

/-- The entries before the one that ends the table. -/
def runLive : List DWord → List DWord
  | [] => []
  | e :: r => if runLen e = 0 then [] else e :: runLive r

/-- The entries of a switch's table that play (09 R257). -/
def Lat.live (l : Lat) : List DWord := runLive (l.table.take 2048)

/-- Is the entry in effect one that selects an input for an output (09 R274)? -/
def Lat.selects (l : Lat) : Bool := l.play && match l.live[l.idx]? with
  | some e => decide (fld64 e 16 15 ≠ 0)
  | none => false

/-! ### The drift network's clock and its packets to cores -/

/-- The drift cycle count that a TC gives, 600 MHz beside 400 MHz (09 R265). -/
def driftCyc (tc : DWord) : BitVec 16 := BitVec.ofNat 16 (tc.toNat * 3 / 2)

/-- TC loaded with another value (10 R302; 11 R314): the drift cycle count goes on as it was (09 R265). -/
def State.loadTc (s : State) (t : DWord) : State :=
  { s with tb := { s.tb with tc := t }
           drift := { s.drift with ahead := s.drift.ahead + driftCyc s.tb.tc - driftCyc t } }

/-- Must the receiver apply packets in order: the exporter of the change log in the SC, the I/O ring (09 R270)? -/
def takesInOrder (ep : Nat) : Bool := decide (ep = 0x10D ∨ (0x110 ≤ ep ∧ ep ≤ 0x117))

/-- Packets of a pair that are sent and arrive within one step: numbered, counted where they arrive, and there next in order or behind
those of the pair that are under way (09 R267, R270; log entry 79). -/
def State.pairPackets (s : State) (src dst n : Nat) : State :=
  let key := src * 65536 + dst
  let seq := Sparse.get (fun _ => (0 : BitVec 16)) s.drift.seqs key
  let next := seq + BitVec.ofNat 16 n
  let got := Sparse.get (fun _ => (0 : Word)) s.drift.counts key
  let d := { s.drift with seqs := Sparse.set (fun _ => 0) s.drift.seqs key next
                          counts := Sparse.set (fun _ => 0) s.drift.counts key (got + BitVec.ofNat 32 n) }
  if !takesInOrder dst then { s with drift := d }
  else if Sparse.get (fun _ => (0 : BitVec 16)) d.expect key = seq then
    { s with drift := { d with expect := Sparse.set (fun _ => 0) d.expect key next } }
  else
    let ps : List Packet := (List.range n).map fun i =>
      ⟨dst, src, 0, true, false, false, seq + BitVec.ofNat 16 i, driftCyc s.tb.tc + d.ahead, 0, 0, 0xFF, 0, List.replicate 48 0⟩
    { s with drift := { d with early := Sparse.set (fun _ => []) d.early key (Sparse.get (fun _ => []) d.early key ++ ps) } }

/-- An access of class 2 or 3 from an endpoint reaches a core's endpoint in packets and is answered in as many: the core counts them,
and the pair's numbers advance both ways (09 R266, R270, R275; log entry 79). -/
def State.atEndpoint (s : State) (src c : Nat) : State :=
  if !s.coreExists c then s
  else
    let n := Config.accessPackets s.free + 1
    let k := BitVec.ofNat 32 n
    let age := Config.accessAge s.free % 601
    let s1 := (s.wr (rDriftRxCount c) (s.rd (rDriftRxCount c) + k)).wr (rDriftTxCount c) (s.rd (rDriftTxCount c) + k)
    let s2 := if fld (s1.rd (rDriftMaxLat c)) 0 16 < age then s1.wrF (rDriftMaxLat c) 0 16 age else s1
    let s3 := (s2.pairPackets src c n).pairPackets c src n
    { s3 with free := s3.free + 1 }

/-- Does the block run: its internal reset released (17 R483)? -/
def State.live (s : State) : Bool := decide (s.pwr.phase = .ready ∨ s.pwr.phase = .starting)

/-! ### Engines, queues -/

/-- A cycle counter of a core, by its block offset, may count from here on (log entry 14). -/
def Core.count (k : Core) (off : Nat) : Core := if k.counting.contains off then k else { k with counting := k.counting ++ [off] }

/-- The number of an engine as SQ_FAULT.SOURCE gives it (06 R198). -/
def engNo : Engine → Nat
  | .me => 1
  | .ve => 2
  | .dm => 3
  | .lp => 4
  | .se => 5

/-- The queue number of an engine in a flag key (08 R235). -/
def engKey : Engine → Nat
  | .me => 0
  | .ve => 1
  | .dm => 2
  | .lp => 3
  | .se => 4

/-- The queue of an engine (06 R175). -/
def Core.queue (k : Core) : Engine → List QEntry
  | .me => k.qMe
  | .ve => k.qVe
  | .dm => k.qDm
  | .lp => k.qLp
  | .se => k.qSe

/-- The core with an engine's queue replaced. -/
def Core.setQueue (k : Core) (e : Engine) (q : List QEntry) : Core :=
  match e with
  | .me => { k with qMe := q }
  | .ve => { k with qVe := q }
  | .dm => { k with qDm := q }
  | .lp => { k with qLp := q }
  | .se => { k with qSe := q }

/-- Is any of the counters still awaiting a load (06 R173)? -/
def Sq.waits (q : Sq) (cs : List Ctr) : Bool := q.loads.any fun l => cs.contains l.ctr

/-- A command of the core completes (08 R218, R222, R227): it leaves the issued commands and the tracking table, its mark
advances, overflow ends when the table is empty (R229), and its status is recorded (06 R194). -/
def Core.retire (k : Core) (id : Nat) (mark : Option Sb) (st : CmdEnd) : Core :=
  let track := k.track.filter fun t => decide (t.id ≠ id)
  let done := match mark with
    | some m => k.done.set m (k.done[m] + 1)
    | none => k.done
  { k with issued := k.issued.filter (fun i => decide (i.id ≠ id)), track := track, done := done,
           ordOvf := k.ordOvf && !track.isEmpty, ends := k.ends ++ [(id, st)] }

/-- The numbers of the commands dispatched and not complete, in queues or issued, and of the narrow loads not delivered (08
R218). -/
def Core.open (k : Core) : List Nat :=
  (k.qMe ++ k.qVe ++ k.qDm ++ k.qLp ++ k.qSe).map (·.id) ++ k.issued.map (·.id) ++ k.sq.loads.map (·.id)

end Sys2Proof.Machine
end

