-- ==== Sys2Proof/Machine/Memory.lean ====
section
/-! DEFINITION. Slice memory (05): the address map, translation, bound and world checks, granules with their check state,
reading and writing bytes for a core's partition and for units that use physical addresses. -/

namespace Sys2Proof.Machine

open Sys2Proof

/-- The key of a byte of slice memory: the on-chip global address (05 R144). -/
def gaddr (c p : Nat) : Nat := c * 0x2000000 + p

/-- What an unlisted byte of slice memory reads: 0, as start-up leaves every slice (05 R162). -/
def memDefault (_ : Nat) : Byte := 0

/-- A byte of slice memory by global address. -/
def State.memGet (s : State) (g : Nat) : Byte := Sparse.get memDefault s.mem g

/-- The canonical form of slice memory. -/
abbrev Memory.wf (m : List Host.Cell) : Bool := Sparse.wf memDefault m

/-- The tier of a local address: 0 near, 1 and 2 stacked, 3 unmapped (05 R141, R142). -/
def tierOf (a : Nat) : Nat :=
  if a < 0x400000 then 0 else if a < 0xE00000 then 1 else if a < 0x1800000 then 2 else 3

/-- The first local address of a tier; of tier 3, the end of the map (05 R141). -/
def tierStart (t : Nat) : Nat :=
  if t = 0 then 0 else if t = 1 then 0x400000 else if t = 2 then 0xE00000 else 0x1800000

/-- The first local address after a tier (05 R141). -/
def tierEnd (t : Nat) : Nat := if t < 3 then tierStart (t + 1) else 0x2000000

/-- The pipeline depth of a tier (05 R141). -/
def tierDepth (t : Nat) : Nat := if t = 0 then 6 else 9

/-- The bank of a physical local address, 16 to a tier (05 R143): 0 to 47. -/
def bankOf (p : Nat) : Nat := tierOf p * 16 + p / 256 % 16

/-- The world of a physical local address: secure unless the lowest valid descriptor that covers it says otherwise
(05 R155). -/
def State.addrSecure (s : State) (c p : Nat) : Bool :=
  let d := (List.range 32).map fun i => s.rd (rSlcRegion c i)
  match d.find? fun w => bit w 27 && decide (fld w 0 13 * 4096 ≤ p) && decide (p ≤ fld w 13 13 * 4096 + 4095) with
  | some w => !bit w 26
  | none => true

/-- A check that failed: its code, and for a check of the slice the program address at which the failing part begins
(05 R157, R168). -/
structure Bad where
  code : Nat
  addr : Nat
  deriving DecidableEq, Repr

/-- A part of a range, within one tier, of program addresses [lo, hi), translated whole (05 R154, R157): the physical
address of its first byte, or the code of the first failing check in the order unmapped, bound, world. -/
def State.xlatePart (s : State) (c : Nat) (lo hi : Nat) : Except Nat Nat :=
  let t := tierOf lo
  if t = 3 ∨ !s.coreExists c then .error 0x40
  else
    let w := s.rd (rSlcReloc c t)
    let o := lo - tierStart t
    let phys := tierStart t + fld w 0 12 * 4096 + o
    let q := s.corePart c
    if !q.isBound ∨ o + (hi - lo) > fld w 16 12 * 4096 ∨ phys + (hi - lo) > tierEnd t then .error 0x41
    else if !q.secure ∧ (List.range ((phys + (hi - lo) - 1) / 4096 - phys / 4096 + 1)).any
        (fun i => s.addrSecure c ((phys / 4096 + i) * 4096)) then .error 0x42
    else .ok phys

/-- The parts of a range of program addresses, split at the tier ends (05 R154). -/
def rangeParts (a n : Nat) : List (Nat × Nat) :=
  (List.range 4).filterMap fun t =>
    let lo := max a (tierStart t)
    let hi := min (a + n) (if t = 3 then a + n else tierEnd t)
    if lo < hi then some (lo, hi) else none

/-- The first failing part of a range checked whole, or none (05 R154, R157, R168). -/
def State.checkRange (s : State) (c a n : Nat) : Option Bad :=
  (rangeParts a n).findSome? fun p =>
    match s.xlatePart c p.1 p.2 with
    | .error e => some ⟨e, p.1⟩
    | .ok _ => none

/-- The physical address of one byte, or the failing check (05 R154, R157). -/
def State.xlate (s : State) (c a : Nat) : Except Nat Nat := s.xlatePart c a (a + 1)

/-- The global address of one byte of a program, where the access reaches it. -/
def State.xlateG (s : State) (c a : Nat) : Option Nat :=
  match s.xlate c a with
  | .ok p => some (gaddr c p)
  | .error _ => none

/-- A byte at a program address; zero where the access reaches no bank or another world (05 R154, R157, R168). -/
def State.readByte (s : State) (c a : Nat) : Byte :=
  match s.xlateG c a with
  | some g => s.memGet g
  | none => 0

/-- `n` bytes from a program address. -/
def State.readBytes (s : State) (c a n : Nat) : List Byte := (List.range n).map fun i => s.readByte c (a + i)

/-- `n` bytes from a program address as a little-endian number. -/
def State.readLe (s : State) (c a n : Nat) : Nat := leNat (s.readBytes c a n)

/-- The check state of a granule, keyed by global address / 8; a granule with a poison write-back pending reads as
poison (05 R150). -/
def State.granule (s : State) (g : Nat) : Ecc :=
  let e := Sparse.get (fun _ => Ecc.clean) s.ecc g
  if e ≠ .poison ∧ s.poisonPending.contains g then .poison else e

/-- Does a read of the granule deliver it poisoned (05 R150, R151)? -/
def State.granulePoisoned (s : State) (g : Nat) : Bool :=
  decide (s.granule g = .uncorr ∨ s.granule g = .poison)

/-- Is the byte at a program address in a poisoned granule? -/
def State.bytePoisoned (s : State) (c a : Nat) : Bool :=
  match s.xlateG c a with
  | some g => s.granulePoisoned (g / 8)
  | none => false

/-- The state with a granule's check state. -/
def State.setEcc (s : State) (g : Nat) (e : Ecc) : State :=
  { s with ecc := Sparse.set (fun _ => Ecc.clean) s.ecc g e }

/-- The key of a bank of a core. -/
def bankKey (c b : Nat) : Nat := c * 48 + b

/-- A bank's port. -/
def State.bank (s : State) (c b : Nat) : Bank := Sparse.get (fun _ => Bank.reset) s.banks (bankKey c b)

/-- The state with a bank's port replaced. -/
def State.setBank (s : State) (c b : Nat) (k : Bank) : State :=
  { s with banks := Sparse.set (fun _ => Bank.reset) s.banks (bankKey c b) k }

/-- A granule is read (05 R149 to R151): a single error is corrected, counted and its write-back left pending where the
bank holds none; a new uncorrectable error is counted, captured, logged, its poison write-back left pending and the beat
failed; poison is counted. `sched` says that a scheduled reader read it, whose beat then fails (05 R151). -/
def State.touch (s : State) (g : Nat) (sched : Bool) : State :=
  let c := g / 0x400000
  let p := g % 0x400000 * 8
  match s.granule g with
  | .clean => s
  | .single =>
    let s1 := (s.setBit (rSlcStatus c) 0).bump (rSlcCeCount c)
    let b := s1.bank c (bankOf p)
    if b.corr.isNone then s1.setBank c (bankOf p) { b with corr := some (g, 0) } else s1
  | .uncorr =>
    let s1 := (s.setBit (rSlcStatus c) 1).bump (rSlcUeCount c)
    let s2 := if bit (s1.rd (rSlcUeAddr c)) 25 then s1
      else s1.wr (rSlcUeAddr c) (BitVec.ofNat 32 (p + 0x2000000))
    let s3 := { s2 with poisonPending := s2.poisonPending ++ [g] }
    (s3.event 0x8C 0 6 (s.partNo c) c (BitVec.ofNat 32 p)).failBeat
  | .poison =>
    let s1 := (s.setBit (rSlcStatus c) 2).bump (rSlcPoisonReads c)
    if sched then s1.failBeat else s1

/-- Bytes read by global address: those of a poisoned granule are free values, since the spec gives a reader their mark and not
their bits (05 R150, R151; log entry 8). -/
def State.deliver (s : State) (g n : Nat) : List Byte × State :=
  let bs := (List.range n).map fun i => if s.granulePoisoned ((g + i) / 8) then Config.poisonByte (s.free + i) else s.memGet (g + i)
  (bs, { s with free := s.free + n })

/-- The granules with a check state of their own that lie in a list of global byte ranges [lo, hi). -/
def State.marked (s : State) (ranges : List (Nat × Nat)) : List Nat :=
  (s.ecc.map (·.1) ++ s.poisonPending.filter fun g => decide (Sparse.get (fun _ => Ecc.clean) s.ecc g = .clean)).filter
    fun g => ranges.any fun r => decide (r.1 / 8 ≤ g) && decide (g * 8 < r.2)

/-- The global byte ranges of a range of program addresses, where the access reaches them. -/
def State.globalRanges (s : State) (c a n : Nat) : List (Nat × Nat) :=
  (rangeParts a n).filterMap fun p =>
    match s.xlatePart c p.1 p.2 with
    | .ok g => some (gaddr c g, gaddr c g + (p.2 - p.1))
    | .error _ => none

/-- The rows of 256 bytes that global byte ranges lie in: the bank array activates them whole (05 R145). -/
def rowsOf (rs : List (Nat × Nat)) : List (Nat × Nat) := rs.map fun r => (r.1 / 256 * 256, ceilDiv r.2 256 * 256)

/-- A granule whose bits are checked because its row is active, and which nobody reads: an error is found, poison is left
(05 R145, R149; log entry 71). -/
def State.touchBeside (s : State) (g : Nat) : State := if s.granule g = .poison then s else s.touch g false

/-- A read of global byte ranges: every granule of their rows is checked, those in the ranges are read (05 R145, R149 to
R151). -/
def State.checkRows (s : State) (rs : List (Nat × Nat)) (sched : Bool) : State :=
  let inside := s.marked rs
  let beside := (s.marked (rowsOf rs)).filter fun g => !inside.contains g
  beside.foldl State.touchBeside (inside.foldl (fun t g => t.touch g sched) s)

/-- A scheduled read of ranges of program addresses. -/
def State.touchRanges (s : State) (c : Nat) (rs : List (Nat × Nat)) : State :=
  s.checkRows (rs.flatMap fun r => s.globalRanges c r.1 r.2) true

/-- Does a poisoned granule lie in the ranges? -/
def State.rangesPoisoned (s : State) (c : Nat) (rs : List (Nat × Nat)) : Bool :=
  (s.marked (rs.flatMap fun r => s.globalRanges c r.1 r.2)).any s.granulePoisoned

/-- A byte of slice memory written by global address. -/
def State.memSet (s : State) (g : Nat) (b : Byte) : State := { s with mem := Sparse.set memDefault s.mem g b }

/-- Bytes written by global address, one after the other. -/
def State.memPut (s : State) (ws : List (Nat × Byte)) : State := ws.foldl (fun t w => t.memSet w.1 w.2) s

/-- The granules a list of byte writes covers whole (05 R152). -/
def wholeGranules (ws : List (Nat × Byte)) : List Nat :=
  ((ws.filter fun w => decide (w.1 % 8 = 0)).map (·.1 / 8)).filter fun g =>
    (List.range 8).all fun i => ws.any fun w => decide (w.1 = g * 8 + i)

/-- A masked write merges into its granule: a single error is corrected on the way, an uncorrectable one is found, poison
stays (05 R148, R149, R152). -/
def State.mergeTouch (s : State) (g : Nat) : State :=
  let t := s.touch g false
  if s.granule g = .single then t.setEcc g .clean else t

/-- The pending corrections of the granules given are dropped, a write to them being granted first (05 R149). -/
def State.dropCorr (s : State) (hit : Nat → Bool) : State :=
  s.banks.foldl (fun t x =>
    match x.2.corr with
    | some r => if hit r.1 then
        { t with banks := Sparse.set (fun _ => Bank.reset) t.banks x.1 { x.2 with corr := none } } else t
    | none => t) s

/-- A granule written whole: its check bits are valid, its poison and a poison write-back that waits are gone (05 R152;
log entry 71). -/
def State.cleanGranule (s : State) (g : Nat) : State :=
  { s.setEcc g .clean with poisonPending := s.poisonPending.filter fun x => decide (x ≠ g) }

/-- Bytes written by global address with their check bits (05 R145, R148, R149, R152): a granule written whole is clean, one
written in part, or of a byte in `half` only a nibble, is merged, and the others of the row are checked. -/
def State.writeMasked (s : State) (ws : List (Nat × Byte)) (half : List Nat) : State :=
  let whole := (wholeGranules ws).filter fun g => !half.any fun a => decide (a / 8 = g)
  let rs := ws.map fun w => (w.1, w.1 + 1)
  let partly := (s.marked rs).filter fun g => !whole.contains g
  let beside := (s.marked (rowsOf rs)).filter fun g => !whole.contains g && !partly.contains g
  let s1 := beside.foldl State.touchBeside (partly.foldl State.mergeTouch s)
  let s2 := ((s.marked rs).filter fun g => whole.contains g).foldl State.cleanGranule s1
  (s2.dropCorr fun g => ws.any fun w => decide (w.1 / 8 = g)).memPut ws

/-- Bytes written whole by global address. -/
def State.writeG (s : State) (ws : List (Nat × Byte)) : State := s.writeMasked ws []

/-- Bytes written at program addresses for the core's partition, of those in `half` a nibble; those whose access fails a check
are dropped (05 R148, R154, R157, R168). -/
def State.writeHalf (s : State) (c : Nat) (ws : List (Nat × Byte)) (half : List Nat) : State :=
  s.writeMasked (ws.filterMap fun w => (s.xlateG c w.1).map fun g => (g, w.2)) (half.filterMap (s.xlateG c))

/-- Bytes written whole at program addresses for the core's partition. -/
def State.writeAt (s : State) (c : Nat) (ws : List (Nat × Byte)) : State := s.writeHalf c ws []

/-- Consecutive bytes as a list of writes. -/
def spread (a : Nat) (bs : List Byte) : List (Nat × Byte) := (List.range bs.length).zip bs |>.map fun p => (a + p.1, p.2)

/-- Granules of a range of program addresses stored poisoned (05 R151). -/
def State.poisonAt (s : State) (c : Nat) (as : List Nat) : State :=
  as.foldl (fun t a => match t.xlateG c a with
    | some g => t.setEcc (g / 8) .poison
    | none => t) s

/-- Zeroization of physical local addresses [p, p + n) of a core (05 R162): zero with valid check bits, poison cleared,
pending write-backs into it gone. -/
def State.zeroize (s : State) (c p n : Nat) : State :=
  let lo := gaddr c p
  let inR (g : Nat) : Bool := decide (lo ≤ g) && decide (g < lo + n)
  let t := s.dropCorr fun g => inR (g * 8)
  { t with
    mem := t.mem.filter (fun m => !inR m.1)
    ecc := t.ecc.filter (fun e => !inR (e.1 * 8))
    poisonPending := t.poisonPending.filter (fun g => !inR (g * 8)) }

/-- The first failing access among byte ranges of program addresses, or none (05 R157, R168). -/
def State.slcCheck (s : State) (c : Nat) (rs : List (Nat × Nat)) : Option Bad := rs.findSome? fun r => s.checkRange c r.1 r.2

/-- The bit of SLC_STATUS that a failed check sets (05 R167). -/
def slcBit (code : Nat) : Nat := if code = 0x42 then 3 else if code = 0x41 then 4 else 5

/-- A failed check of an access to a core's slice is recorded there (05 R144, R167), and SLC_WORLD is entered in the change log
with its origin (05 R157, R168; 16 R465). -/
def State.slcRecord (s : State) (o : Origin) (part c : Nat) (x : Bad) : State :=
  let s1 := if s.coreExists c then s.setBit (rSlcStatus c) (slcBit x.code) else s
  if x.code = 0x42 then s1.log o 4 part (BitVec.ofNat 32 (gaddr c x.addr)) 0 0 else s1

/-- A failed access of a core's engine: SLC_STATUS and the fault with its code, SQ_FAULT.SOURCE naming the slice check;
SLC_WORLD is also logged with its origin (05 R154, R157, R167, R168; 06 R198). -/
def State.sliceFault (s : State) (c : Nat) (x : Bad) (pc : Nat) : State :=
  (s.slcRecord originHw (s.partNo c) c x).coreFault c x.code 6 pc

/-! ### Accesses of chip-level units for a partition (05 R144, R154, R156, R157, R168) -/

/-- The first check that a unit's access for a partition fails: the relocation registers of a core serve the partition that
holds it, so on any other core the access is out of its bound (05 R154; log entry 72). -/
def State.unitCheck (s : State) (p c a n : Nat) : Option Bad :=
  match s.checkRange c a n with
  | some x => if x.code ≠ 0x40 ∧ s.partOf c ≠ some p then some ⟨0x41, a⟩ else some x
  | none => if s.partOf c = some p then none else some ⟨0x41, a⟩

/-- A code of an access that stands for no command of a stream: its offset is a free value (05 R168; 16 R469; log entry 22). -/
def State.accessCode (s : State) (code unit p c : Nat) : State :=
  State.coreCode { s with free := s.free + 1 } code unit 0xFF p c (BitVec.ofNat 32 (Config.noOffset s.free))

/-- A failed access of a unit: recorded at the slice and, with the unit's number, in the fault and event records (05 R167,
R168; 16 R469). -/
def State.unitRefused (s : State) (unit p c : Nat) (x : Bad) : State :=
  (s.slcRecord originHw p c x).accessCode x.code unit p c

/-- The unit through which an access from outside comes: the MC for firmware, the SC for JTAG, else the I/O ring (16 R469). -/
def Origin.unit (o : Origin) : Nat := if o.iface = 0 then 1 else if o.iface = 3 then 2 else 10

/-- A refused access of a slice from outside: its status bit, its code to the unit that asks, the change log with its origin (05
R157, R167, R168; 16 R465, R469). -/
def State.hostRefused (s : State) (o : Origin) (g code : Nat) : State :=
  let c := g / 0x2000000
  let s1 := if s.coreExists c then s.setBit (rSlcStatus c) (slcBit code) else s
  (s1.accessCode code o.unit (s.partNo c) c).log o 4 (s.partNo c) (BitVec.ofNat 32 g) 0 0

/-- Bytes written by a unit for a partition at program addresses from `a` on a core, of those granules in `poison` stored
poisoned: all, or none where a check fails. -/
def State.unitPut (s : State) (unit p c a : Nat) (bs : List Byte) (poison : List Nat) : State :=
  match s.unitCheck p c a bs.length with
  | some x => s.unitRefused unit p c x
  | none => (s.writeAt c (spread a bs)).poisonAt c poison

/-- Does the core stand in a region that is stopped, or whose clock is gated for a change of level (11 R326)? -/
def State.stopped (s : State) (c : Nat) : Bool :=
  s.coreExists c && (decide (s.level (s.regionOf c) = 3) || bit (s.rd (rPmRegionClk (s.regionOf c))) 4)

/-- The unit of an endpoint, as UNIT of a record names it (09 R266; 16 R469). -/
def epUnit (ep : Nat) : Nat :=
  if ep = 0x100 then 5 else if ep = 0x101 then 6 else if ep ≤ 0x103 then 7 else if ep ≤ 0x107 then 8 else 10

/-- A write of the unit at an endpoint: into a region that is stopped it waits at the core's endpoint (11 R326). -/
def State.unitWrite (s : State) (src p c a : Nat) (bs : List Byte) (poison : List Nat) : State :=
  if s.stopped c then { s with stalled := s.stalled ++ [⟨originHw, none, .unitWrite src p c a bs poison, true⟩] }
  else (s.atEndpoint src c).unitPut (epUnit src) p c a bs poison

/-- The bytes of program addresses as a reader gets them: free values where their granule is poisoned (05 R150, R151; log entry
8). -/
def State.readFree (s : State) (c a n : Nat) : List Byte :=
  (List.range n).map fun i => if s.bytePoisoned c (a + i) then Config.poisonByte (s.free + i) else s.readByte c (a + i)

/-- Bytes that a unit reads for a partition, the granules among them that are poisoned, and the state after it: zeros where a
check fails; poison fails no beat (05 R151). -/
def State.unitRead (s : State) (unit p c a n : Nat) : List Byte × List Nat × State :=
  match s.unitCheck p c a n with
  | some x => (List.replicate n 0, [], s.unitRefused unit p c x)
  | none =>
    (s.readFree c a n, ((List.range n).map (a + ·)).filter fun x => decide (x % 8 = 0 ∨ x = a) && s.bytePoisoned c x,
      { s.checkRows (s.globalRanges c a n) false with free := s.free + n })

end Sys2Proof.Machine
end

