-- ==== Sys2Proof/Machine/Issue.lean ====
section
/-! DEFINITION. How an issued engine command starts, ends and fails, and the hulls of the tracking table (06 R194, R195;
08 R218, R227). -/

namespace Sys2Proof.Machine

open Sys2Proof

/-- The command is issued and outstanding until it finishes in its way (08 R218). -/
def State.start (s : State) (c : Nat) (eng : Engine) (e : QEntry) (f : Finish) : State :=
  s.updCore c fun k => { k with issued := k.issued ++ [⟨e.id, eng, e.pc, e.mark, f, e.cmd, none⟩] }

/-- The command ends: it counts as complete at this moment (06 R194; 08 R218). -/
def State.finish (s : State) (c : Nat) (e : QEntry) : State := s.updCore c fun k => k.retire e.id e.mark .ok

/-- The command records a class G fault at issue, has no effect and ends FAULT (06 R194, R195). -/
def State.failCmd (s : State) (c : Nat) (eng : Engine) (e : QEntry) (x : Bad) : State :=
  let t := if x.code = 0x40 ∨ x.code = 0x41 ∨ x.code = 0x42 then s.sliceFault c x e.pc
    else s.coreFault c x.code (engNo eng) e.pc
  t.updCore c fun k => k.retire e.id e.mark .fault

/-- An issued command ends (06 R194; 08 R218). -/
def State.endIssued (s : State) (c : Nat) (i : Issued) (st : CmdEnd) : State := s.updCore c fun k => k.retire i.id i.mark st

/-- An issued command that ends by itself (08 R218). -/
def State.finishIssued (s : State) (c : Nat) (i : Issued) : State := s.endIssued c i .ok

/-- The bytes a stream of rows touches (08 R227). -/
def streamHull (addr rows stride : Nat) : Hull := ⟨0, addr, addr + rows * stride⟩

/-- The ACB bytes of rows of a half under a layout, a row taking 1,024 or 2,048 of them (03 R70; 08 R227). -/
def acbHull (half q rows : Nat) (l512 : Bool) : Hull :=
  let w := if l512 then 2048 else 1024
  ⟨1 + half, q * w, (q + rows) * w⟩

/-- The hulls of a vector operand (08 R227). An ACB operand that does not name a column half may meet either layout. -/
def vopHulls (rows : Nat) : VOp → List Hull
  | .slc t => streamHull t.addr rows t.stride ::
      (match t.scl with
       | some a => [⟨0, a, a + if t.blkCol then rows / 32 * 256 else rows * 8⟩]
       | none => [])
  | .acb half q c1 _ => acbHull half q rows true :: if c1 then [] else [acbHull half q rows false]
  | _ => []

/-- The hull of a bitmap mask. -/
def maskHulls (rows : Nat) : VMask → List Hull
  | .bm a st => [⟨0, a, a + rows * st⟩]
  | _ => []

/-- The hull of a scale tensor, where there is one. -/
def sclHulls (scl : Option Nat) (n : Nat) : List Hull :=
  match scl with
  | some a => [⟨0, a, a + n⟩]
  | none => []

/-- The whole local address space (08 R227). -/
def wholeHull : Hull := ⟨0, 0, 0x2000000⟩

/-- A byte range as a hull. -/
def memHull (a n : Word) : Hull := ⟨0, a.toNat, a.toNat + n.toNat⟩

/-- The value of an operand latched at dispatch; a counter left in it reads 0. -/
def Opnd.latched : Opnd → Word
  | .imm w => w
  | .ctr _ => 0

/-- The planes of 64 rows that a weight-stationary run may touch (03 R88, R89): one but for a complex product, whose clearing run
writes all four; an accumulating one adds into the plane of its pass, in the Gauss form, which a reproducible group does not take
(02 R61), into those of that form. -/
def planes (x : MxWs) : List Nat :=
  if x.fa ≠ .cbf16 then [0]
  else if !x.acc then [0, 1, 2, 3]
  else match x.pass.getD 0, x.gauss with
    | 1, g => if g then [0, 2] else [0]
    | 2, g => if g then [0, 3] else [0]
    | 3, g => if g then [0, 1, 2, 3] else [1]
    | _, _ => [1]

/-- The ACB rows that a weight-stationary run may touch (03 R70, R88). -/
def runHulls (x : MxWs) : List Hull :=
  (planes x).map fun p => acbHull x.half (x.q + 64 * p) (Opnd.latched x.m).toNat (decide (fmtBits x.fa = 4))

/-- Bytes of the scales of A for a row of the largest tile: 16 blocks in 4-bit formats, else 8 (03 R76). -/
def sclRowA (f : Fmt) : Nat := if fmtBits f = 4 then 16 else 8

/-- Bytes from the first scale of B to the last: a row of 256 bytes, or of 512, for each block, of the last the n columns (04 R127;
log entry 19). -/
def sclBytesB (k n : Nat) : Nat := if k = 0 then 0 else (ceilDiv k 32 - 1) * (256 * ceilDiv n 256) + n

/-- The byte ranges that a command may read and write, before hulls are made of them (08 R227). -/
def cmdRanges : ECmd → List Hull × List Hull
  | .mxLoad c => (streamHull c.src c.kb c.stride :: sclHulls c.scl (sclBytesB c.kb c.nb), [])
  | .mxWs c => (streamHull c.src (Opnd.latched c.m).toNat c.stride :: sclHulls c.scl ((Opnd.latched c.m).toNat * sclRowA c.fa),
      runHulls c)
  | .mxOs c => ([streamHull c.srca c.m c.stridea, streamHull c.srcb c.k c.strideb] ++ sclHulls c.scla (c.m * ceilDiv c.k 32)
      ++ sclHulls c.sclb (sclBytesB c.k c.n), [acbHull c.half c.q c.m false])
  | .mxClear half _ => ([], [acbHull half 0 256 false])
  | .mxSheet _ => ([], [])
  | .mxSheetOff => ([], [])
  | .vxLd _ _ src => (vopHulls 1 src, [])
  | .vxSt _ _ _ dst m => (maskHulls 1 m, vopHulls 1 dst)
  | .vxBcast _ _ => ([], [])
  | .vxIota _ => ([], [])
  | .vxMov _ _ => ([], [])
  | .vxCtx _ _ _ _ _ => ([], [])
  | .vxRun c => let r := (Opnd.latched c.rows).toNat
      ([c.in0, c.in1, c.in2, c.in3].flatMap (vopHulls r) ++ maskHulls r c.mask, [c.out0, c.out1].flatMap (vopHulls r))
  | .vxRed c => let r := (Opnd.latched c.rows).toNat
      (vopHulls r c.src ++ maskHulls r c.mask, [])
  | .vxScan c => let r := (Opnd.latched c.rows).toNat
      (vopHulls r c.src ++ maskHulls r c.mask, vopHulls r c.dst)
  | .vxSmStat _ _ src rows m => (vopHulls rows.toNat src ++ maskHulls rows.toNat m, [])
  | .vxSmMerge _ _ _ _ _ _ => ([], [])
  | .vxSmNorm dst src _ _ rows m => (vopHulls rows.toNat src ++ maskHulls rows.toNat m, vopHulls rows.toNat dst)
  | .vxSmFinal dst src _ rows => (vopHulls rows.toNat src, vopHulls rows.toNat dst)
  | .vxSmLse _ _ _ => ([], [])
  | .vxDigPost _ _ _ => ([], [])
  | .dmCopy dst src n => ([memHull src n], [memHull dst n])
  | .dmZero dst n => ([], [memHull dst n])
  | .dmGather _ dst _ list count bsize => ([wholeHull, memHull list (4 * count)], [memHull dst (count * bsize)])
  | .dmScatter _ list count bsize src => ([memHull src (count * bsize), memHull list (4 * count)], [wholeHull])
  | .dmRput _ _ _ src n => ([memHull src n], [])
  | .lpSend _ src n => ([memHull src n], [])
  | .lpArm _ dst n _ => ([], [memHull dst n])
  | .lpDisarm _ => ([], [])
  | .seSet _ _ => ([], [])
  | .seAdd _ _ => ([], [])
  | .seWaitObs _ _ => ([], [])
  | .seWaitTake _ _ => ([], [])
  | .seRsig _ _ _ => ([], [])
  | .seFenceQ _ => ([], [])
  | .seFenceAll => ([], [])
  | .seFenceRemote => ([], [])

/-- The smallest range of a space that holds every non-empty one of those given (08 R227). -/
def spaceHull (hs : List Hull) (space : Nat) : Option Hull :=
  match hs.filter fun h => decide (h.space = space) && decide (h.lo < h.hi) with
  | [] => none
  | h :: r => some (r.foldl (fun a b => ⟨space, min a.lo b.lo, max a.hi b.hi⟩) h)

/-- One hull for each of the three spaces that the ranges touch. -/
def hullOf (hs : List Hull) : List Hull := (List.range 3).filterMap (spaceHull hs)

/-- The read hull and the write hull of a command, one range in each space (08 R227). -/
def hulls (x : ECmd) : List Hull × List Hull := (hullOf (cmdRanges x).1, hullOf (cmdRanges x).2)

/-- Do two hulls overlap (08 R228)? -/
def Hull.meets (a b : Hull) : Bool := decide (a.space = b.space) && decide (a.lo < b.hi) && decide (b.lo < a.hi)

/-- Do two lists of hulls overlap? -/
def hullsMeet (xs ys : List Hull) : Bool := xs.any fun x => ys.any fun y => x.meets y

/-- Must an `.ord` command with these hulls wait on the entry (08 R228)? -/
def Track.blocks (t : Track) (rd wr : List Hull) : Bool :=
  hullsMeet t.wr (rd ++ wr) || hullsMeet t.rd wr

/-- Is an `.ord` command dispatched as number `id` free to go (08 R228, R229)? -/
def Core.ordFree (k : Core) (id : Nat) (rd wr : List Hull) : Bool :=
  if k.ordOvf then k.open.all fun j => decide (id ≤ j)
  else k.track.all fun t => decide (id ≤ t.id) || !t.blocks rd wr

/-- Is the wait of an `sq.ld` on marks and hulls over (08 R222, R228)? R227 gives a load the bytes accessed as both hulls. -/
def Core.loadFree (k : Core) (w : LoadWait) : Bool :=
  (match w.after with
   | some sb => decide (k.marked[sb] ≤ k.done[sb])
   | none => true)
  && (!w.ord || k.ordFree k.sq.seq [⟨0, w.addr, w.addr + w.bytes⟩] [⟨0, w.addr, w.addr + w.bytes⟩])

/-- Is the SQ held: by a hold of its own, by a fetch whose words have not arrived, by the interlock on a counter, or by the wait of
a load that stands there (06 R172, R173, R198)? -/
def Core.held (k : Core) : Bool :=
  k.sq.hold.isSome || decide (k.sq.avail = 0) ||
    (match k.sq.stall with
     | some x => decide (k.sq.avail < x.words) || k.sq.waits x.ctrs || (x.load.map fun w => !k.loadFree w).getD false
     | none => false)

/-- The counters of cycles that a core's engines have something to count in now (03 R90, R103; 08 R249): ME_STALL_CYCLES while a
load or a run is outstanding, SE_WAIT_CYCLES while the SE waits, SE_ORD_HOLDS while an `.ord` command is held, SLC_CONFLICTS (05 R166) while a
command of an engine, whose accesses come at its issue, is outstanding. -/
def Core.countsNow (k : Core) (off : Nat) : Bool :=
  if off = 0x4004 then k.issued.any fun i => match i.cmd with
    | .mxLoad _ => true
    | .mxWs _ => true
    | .mxOs _ => true
    | _ => false
  else if off = 0x6010 then k.issued.any fun i => decide (i.eng ≠ .se)
  else if off = 0x7210 then k.wait.active
  else if off = 0x7214 then ((k.qMe ++ k.qVe ++ k.qDm ++ k.qLp ++ k.qSe).any fun e =>
      e.ord && !k.ordFree e.id (hulls e.cmd).1 (hulls e.cmd).2)
    || ((k.sq.stall.bind Stall.load).map fun w => w.ord && !k.loadFree { w with after := none }).getD false
  else false

/-- The counters that count now are noted as such (log entry 14). -/
def Core.noteCounts (k : Core) : Core :=
  [0x4004, 0x6010, 0x7210, 0x7214].foldl (fun k off => if k.countsNow off then k.count off else k) k

end Sys2Proof.Machine
end

