-- ==== Sys2Proof/Machine/MeRun.lean ====
section
/-! DEFINITION. What the matrix engine's commands do when they issue (03): checks, stationary loads, weight- and
output-stationary runs, multi-pass and complex products, the accumulator buffer, sheets. -/

namespace Sys2Proof.Machine

open Sys2Proof

/-- What an unlisted element of a stationary buffer or of a vector register is. -/
def eltZero (_ : Nat) : Elt := ⟨0, false⟩

/-- What an unlisted row-group record is: FP32, not written, pass 0. -/
def recZero (_ : Nat) : AcbRec := ⟨false, false, .fp32, 0⟩

/-! ### Operands from the slice -/

/-- Element k of a row at a program address, with its poison mark (02 R39; 03 R106). -/
def State.elt (s : State) (c : Nat) (f : Fmt) (row k : Nat) : Elt :=
  if fmtBits f = 4 then
    let b := (s.readByte c (row + k / 2)).toNat
    ⟨BitVec.ofNat 32 (if k % 2 = 0 then b % 16 else b / 16), s.bytePoisoned c (row + k / 2)⟩
  else
    let w := fmtBits f / 8
    ⟨BitVec.ofNat 32 (s.readLe c (row + k * w) w), (List.range w).any fun i => s.bytePoisoned c (row + k * w + i)⟩

/-- Bytes of a row of `n` elements. -/
def rowBytes (f : Fmt) (n : Nat) : Nat := ceilDiv (n * fmtBits f) 8

/-- The address of the scale of column n, block b, of a B operand whose reduction runs down the rows (04 R111, R127): a row of
scale bytes for each block. DESIGN CHOICE (log entry 19): the rows of scales of a tile of 257 to 512 columns lie 512 bytes apart, each
block's bytes together, where R127 gives 256 for the rows of 256 lanes it speaks of. -/
def sclColAddr (scl nb b n : Nat) : Nat := scl + b * (256 * ceilDiv nb 256) + n

/-- A scale byte where there is a scale tensor; 0x7F, the factor 1, otherwise (02 R42). -/
def State.scale (s : State) (c : Nat) (scl : Option Nat) (a : Nat → Nat) : Nat × Bool :=
  match scl with
  | some t => ((s.readByte c (a t)).toNat, s.bytePoisoned c (a t))
  | none => (0x7F, false)

/-! ### Formats (03 R69, R87) -/

/-- The pass count of a format (03 R69). -/
def mePasses : Fmt → Nat
  | .fp16 => 2
  | .fp32 => 3
  | .int16 => 4
  | .cbf16 => 4
  | _ => 1

/-- Is the pair of operand formats permitted (03 R69)? -/
def mePair (a b : Fmt) : Bool :=
  match a, b with
  | .int32, _ => false
  | .e4m3, .e5m2 => true
  | .e5m2, .e4m3 => true
  | .mxe4m3, .mxe5m2 => true
  | .mxe5m2, .mxe4m3 => true
  | _, _ => decide (a = b)

/-- Is the pass modifier right for the format (03 R87)? -/
def mePassOk (f : Fmt) (pass : Option Nat) : Bool :=
  match pass with
  | none => decide (mePasses f = 1)
  | some p => decide (mePasses f ≠ 1) && decide (1 ≤ p) && decide (p ≤ mePasses f)

/-- Is it 4-bit work, a 512 × 512 logical sheet (03 R67)? -/
def fourBit (f : Fmt) : Bool := decide (fmtBits f = 4)

/-! ### Terms (02 R52 to R60) -/

/-- The BF16 value nearest an exact value. -/
def rneBf16 (x : FVal) : FVal := fdecode fbf16 (fencode fbf16 .rne false 0 x).bits

/-- An exact value truncated to 8 significant bits. -/
def truncBf16 (x : FVal) : FVal := fdecode fbf16 (fencode fbf16 .rtz false 0 x).bits

/-- The high part of an FP32 or FP16 operand (02 R58). -/
def hiPart (x : FVal) : FVal :=
  match x with
  | .fin n m e =>
    let l := Nat.log2 m
    if l < 8 then x else .fin n (m / 2 ^ (l - 7)) (e + (l - 7 : Nat))
  | _ => x

/-- The low part: the remainder, rounded to BF16 for FP32 (02 R58). -/
def loPart (f : Fmt) (x : FVal) : FVal :=
  let h := match f with
    | .fp32 => truncBf16 x
    | _ => hiPart x
  let d := fadd x (fneg h)
  match f with
  | .fp32 => rneBf16 d
  | _ => d

/-- The high part as the format's rule takes it (02 R58). -/
def highPart (f : Fmt) (x : FVal) : FVal :=
  match f with
  | .fp32 => truncBf16 x
  | _ => hiPart x

/-- +0.0. -/
def fzero : FVal := .fin false 0 0

/-- The term of one pair in one pass of a floating-point format of one real element (02 R58, R59). -/
def realTerm (f : Fmt) (pass : Nat) (a b : FVal) : FVal :=
  match f with
  | .fp32 | .fp16 =>
    if !fIsFin a || !fIsFin b then (if pass = 1 then fmul a b else fzero)
    else
      let ah := highPart f a
      let bh := highPart f b
      let al := loPart f a
      let bl := loPart f b
      if pass = 1 then fmul ah bh
      else if f = .fp16 then fadd (fadd (fmul ah bl) (fmul al bh)) (fmul al bl)
      else if pass = 2 then fmul ah bl
      else fmul al bh
  | _ => fmul a b

/-- The real and the imaginary part of a complex element (03 R69). -/
def cRe (w : Word) : FVal := fdecode fbf16 (w.toNat % 65536)
/-- The imaginary part. -/
def cIm (w : Word) : FVal := fdecode fbf16 (w.toNat / 65536)

/-- The term of a complex pair (a + ib)(c + id) in a pass of the four-pass or the Gauss form (02 R59, R60; 03 R88,
R89). -/
def complexTerm (gauss : Bool) (pass : Nat) (x y : Word) : FVal :=
  let a := cRe x
  let b := cIm x
  let c := cRe y
  let d := cIm y
  if gauss then
    if pass = 1 then fmul c (rneBf16 (fadd a b))
    else if pass = 2 then fmul a (rneBf16 (fadd d (fneg c)))
    else fmul b (rneBf16 (fadd c d))
  else if pass = 1 then fmul a c
  else if pass = 2 then fmul (fneg b) d
  else if pass = 3 then fmul a d
  else fmul b c

/-- The integer term of one pair in one pass (02 R55, R58, R59). -/
def intTerm (f : Fmt) (pass : Nat) (a b : Nat) : Int :=
  match f with
  | .int16 =>
    let x := intVal 16 a
    let y := intVal 16 b
    let ah := x / 256
    let al := x % 256
    let bh := y / 256
    let bl := y % 256
    if pass = 1 then ah * bh * 65536
    else if pass = 2 then ah * bl * 256
    else if pass = 3 then al * bh * 256
    else al * bl
  | _ => intVal (fmtBits f) a * intVal (fmtBits f) b

/-- An E2M1 element as a signed integer in units of 0.5 (02 R56). -/
def e2m1Units (bits : Nat) : Int :=
  match fdecode fe2m1 bits with
  | .fin n m e => fScaled n m e (-1)
  | _ => 0

/-- The value of one MXFP4 block, rounded once to FP32 (02 R56): pairs of codes and the two scales. -/
def mxBlock (ps : List (Nat × Nat)) (xa xb : Nat) : FVal :=
  if xa = 0xFF ∨ xb = 0xFF then .nan
  else
    let sum := ps.foldl (fun t p => t + e2m1Units p.1 * e2m1Units p.2) (0 : Int)
    f32v (rne32 (.fin (decide (sum < 0)) sum.natAbs ((xa : Int) + xb - 256)))

/-- One pair of operands of a chain: the two elements and the scales of their blocks. -/
structure Pair where
  a  : Elt
  b  : Elt
  xa : Nat
  xb : Nat
  deriving DecidableEq, Repr

/-- The pairs in groups of 32, one MX block each. -/
def blocksOf (fuel : Nat) (ps : List Pair) : List (List Pair) :=
  match fuel with
  | 0 => []
  | n + 1 => if ps.isEmpty then [] else ps.take 32 :: blocksOf n (ps.drop 32)

/-- What a chain of pairs adds, in order, in floating-point work (02 R53, R56, R57, R59, R60). -/
def floatTerms (fa fb : Fmt) (gauss : Bool) (pass : Nat) (ps : List Pair) : List FVal :=
  match fa with
  | .mxfp4 | .fp4 => (blocksOf ps.length ps).map fun blk =>
      mxBlock (blk.map fun p => (p.a.bits.toNat, p.b.bits.toNat)) ((blk.head?.map (·.xa)).getD 0x7F)
        ((blk.head?.map (·.xb)).getD 0x7F)
  | .mxe4m3 | .mxe5m2 => ps.map fun p =>
      fmul (mxScaled p.xa (fmtVal fa p.a.bits.toNat)) (mxScaled p.xb (fmtVal fb p.b.bits.toNat))
  | .cbf16 => ps.map fun p => complexTerm gauss pass p.a.bits p.b.bits
  | _ => ps.map fun p => realTerm fa pass (fmtVal fa p.a.bits.toNat) (fmtVal fb p.b.bits.toNat)

/-- A partial sum: its 32 bits, whether an INT32 addition saturated, whether it depends on poison. -/
structure PSum where
  bits   : Word
  sat    : Bool
  poison : Bool
  deriving DecidableEq, Repr

/-- A chain of pairs added onto a partial sum (02 R53, R55). -/
def chain (fa fb : Fmt) (gauss : Bool) (pass : Nat) (start : PSum) (ps : List Pair) : PSum :=
  let poison := start.poison || ps.any fun p => p.a.poison || p.b.poison
  if fmtIsInt fa then
    ps.foldl (fun t p =>
      let r := satAdd32 t.bits (intTerm fa pass p.a.bits.toNat p.b.bits.toNat)
      ⟨r.1, t.sat || r.2, poison⟩) { start with poison := poison }
  else
    ⟨(floatTerms fa fb gauss pass ps).foldl (fun t x => rne32 (fadd (f32v t) x)) start.bits, start.sat, poison⟩

/-- Two partial sums added once: FP32 or saturating INT32 (02 R54, R55). -/
def addOnce (isInt : Bool) (x y : PSum) : PSum :=
  if isInt then
    let r := satAdd32 x.bits y.bits.toInt
    ⟨r.1, x.sat || y.sat || r.2, x.poison || y.poison⟩
  else ⟨f32add x.bits y.bits, x.sat || y.sat, x.poison || y.poison⟩

/-! ### The accumulator buffer (03 R70 to R72) -/

/-- Columns of a half's layout (03 R70). -/
def acbCols (l512 : Bool) : Nat := if l512 then 512 else 256
/-- Rows of a half's layout (03 R70). -/
def acbRows (l512 : Bool) : Nat := if l512 then 128 else 256

/-- An element of a half under a layout. -/
def AcbHalf.get (h : AcbHalf) (l512 : Bool) (row col : Nat) : Word :=
  Sparse.get (fun _ => 0) h.elts (row * acbCols l512 + col)

/-- The half with an element written. -/
def AcbHalf.put (h : AcbHalf) (l512 : Bool) (row col : Nat) (w : Word) : AcbHalf :=
  { h with elts := Sparse.set (fun _ => (0 : Word)) h.elts (row * acbCols l512 + col) w }

/-- The record of a row group. -/
def AcbHalf.record (h : AcbHalf) (g : Nat) : AcbRec := Sparse.get recZero h.recs g

/-- The half with the record of a row group. -/
def AcbHalf.setRec (h : AcbHalf) (g : Nat) (r : AcbRec) : AcbHalf := { h with recs := Sparse.set recZero h.recs g r }

/-- The row groups that rows q to q + m − 1 touch; a complex command touches those of all four planes (03 R71, R88). -/
def rowGroups (f : Fmt) (q m : Nat) : List Nat :=
  if m = 0 then []
  else
    let one := (List.range ((q + m - 1) / 16 - q / 16 + 1)).map fun i => q / 16 + i
    if f = .cbf16 then (List.range 4).flatMap fun p => one.map (· + 4 * p) else one

/-- A clearing command on a half (03 R71): the groups it touches get the record; a change of layout makes every other
group not written. -/
def AcbHalf.clearRecs (h : AcbHalf) (l512 : Bool) (gs : List Nat) (r : AcbRec) : AcbHalf :=
  let h1 := if h.l512 = l512 then h
    else { h with l512 := l512, recs := h.recs.filterMap fun p =>
      let q := { p.2 with written := false, pass := 0 }
      if q = recZero p.1 then none else some (p.1, q) }
  gs.foldl (fun t g => t.setRec g r) { h1 with clearInt := r.int32 }

/-- The first failing check of an accumulating command (03 R72, R105): type or layout, then not written. -/
def AcbHalf.accCheck (h : AcbHalf) (isInt l512 : Bool) (gs : List Nat) : Option Nat :=
  if h.l512 ≠ l512 ∨ gs.any (fun g => decide ((h.record g).int32 ≠ isInt)) then some 0x22
  else if gs.any (fun g => !(h.record g).written) then some 0x23
  else none

/-- Is the pass order right (03 R87, R89)? -/
def AcbHalf.passOk (h : AcbHalf) (f : Fmt) (gauss acc : Bool) (pass : Nat) (gs : List Nat) : Bool :=
  if pass ≤ 1 then true
  else acc && gs.all fun g =>
    let r := h.record g
    decide (r.fmt = f) && (decide (r.pass = pass - 1) || (decide (r.pass = pass) && !(gauss && decide (pass = 3))))

/-! ### Sheets (03 R93 to R98) -/

/-- The rectangle of a sheet descriptor: x0, y0, w, h. -/
def sheetRect (d : Word) : Nat × Nat × Nat × Nat := (fld d 0 4, fld d 4 4, fld d 8 4 + 1, fld d 12 4 + 1)

/-- The cores of a sheet, row by row. -/
def sheetCores (d : Word) : List Nat :=
  let r := sheetRect d
  (List.range r.2.2.2).flatMap fun j => (List.range r.2.2.1).map fun i => (r.2.1 + j) * 16 + r.1 + i

/-- The descriptor a core has selected. -/
def State.sheetOf (s : State) (c : Nat) : Option Word := (s.core c).me.sheet.map fun i => s.rd (rMeSheet c i)

/-- The scale tensor of an operand: only an MX format has scales (02 R42; 03 R80). -/
def mxScl (f : Fmt) (scl : Option Nat) : Option Nat := if fmtIsMx f then scl else none

/-- Does a weight-stationary run take its Gauss form: a complex one, in fast mode (02 R61; 03 R89)? On another format `.gauss` has
no effect (log entry 19). -/
def State.gaussOn (s : State) (c : Nat) (x : MxWs) : Bool := x.gauss && decide (x.fa = .cbf16) && !(s.corePart c).repro

/-- Does a core drain a weight-stationary run: it is alone, or on the south edge of its sheet (03 R95)? -/
def State.meDrains (s : State) (c : Nat) : Bool :=
  match s.sheetOf c with
  | some d => decide (c / 16 + 1 = (sheetRect d).2.1 + (sheetRect d).2.2.2)
  | none => true

/-- Does a core feed A: it is alone, or on the west edge of its sheet (03 R95)? -/
def State.meFeedsA (s : State) (c : Nat) : Bool :=
  match s.sheetOf c with
  | some d => decide (c % 16 = (sheetRect d).1)
  | none => true

/-- Does a core feed B in output-stationary work: it is alone, or on the north edge of its sheet (03 R95)? -/
def State.meFeedsB (s : State) (c : Nat) : Bool :=
  match s.sheetOf c with
  | some d => decide (c / 16 = (sheetRect d).2.1)
  | none => true

/-- Do the regions of the cores of a sheet stand at another level than the region of a core (03 R98)? -/
def State.sheetClockBad (s : State) (c : Nat) (d : Word) : Bool :=
  (sheetCores d).any fun i => decide (s.level (s.regionOf i) ≠ s.level (s.regionOf c))

/-- Do the regions of the cores of a core's sheet stand at different levels (03 R98)? -/
def State.meClockBad (s : State) (c : Nat) : Bool :=
  match s.sheetOf c with
  | some d => s.sheetClockBad c d
  | none => false

/-- The first failing check of an accumulation, where the core's half takes part in it (03 R72, R95, R105). -/
def AcbHalf.accFails (h : AcbHalf) (used isInt l512 : Bool) (gs : List Nat) (code : Nat) : Bool :=
  used && decide (h.accCheck isInt l512 gs = some code)

/-! ### Issue checks of a run (03 R81, R82, R105) -/

/-- The first failing check at issue of a weight-stationary run. On a sheet a core holds the operands its role does not use to R81
alone (R95); the row and column counts of a buffer that is not valid are not looked at, so ME_WBUF_INVALID is found (R77). -/
def State.wsCheck (s : State) (c : Nat) (x : MxWs) : Option Nat :=
  let k := (s.core c).me
  let h := k.acb[x.half]
  let b := k.w[x.wbuf]
  let m := (Opnd.latched x.m).toNat
  let l512 := fourBit x.fa
  let isInt := fmtIsInt x.fa
  let gs := rowGroups x.fa x.q m
  let rows := if x.fa = .cbf16 then 64 else acbRows l512
  let drains := s.meDrains c
  if !mePair x.fa x.fb ∨ !mePassOk x.fa x.pass ∨ (s.meFeedsA c ∧ fmtIsMx x.fa ∧ x.scl.isNone) then some 0x20
  else if x.q + m > rows ∨ x.n > (if b.valid then b.nb else acbCols l512) ∨ x.n = 0 then some 0x21
  else if h.accFails (x.acc && drains) isInt l512 gs 0x22 then some 0x22
  else if h.accFails (x.acc && drains) isInt l512 gs 0x23 then some 0x23
  else if fmtIsMx x.fa ∧ b.valid ∧ b.kb % 32 ≠ 0 then some 0x24
  else if !b.valid ∨ b.fmt ≠ x.fb then some 0x25
  else if drains && !h.passOk x.fa (s.gaussOn c x) x.acc (x.pass.getD 0) gs then some 0x26
  else if s.meClockBad c then some 0x28
  else none

/-- The first failing check at issue of an output-stationary run. -/
def State.osCheck (s : State) (c : Nat) (x : MxOs) : Option Nat :=
  let h := (s.core c).me.acb[x.half]
  let isInt := fmtIsInt x.fa
  let gs := rowGroups x.fa x.q x.m
  if !mePair x.fa x.fb ∨ !mePassOk x.fa x.pass ∨ x.fa = .cbf16
      ∨ (fmtIsMx x.fa ∧ ((s.meFeedsA c ∧ x.scla.isNone) ∨ (s.meFeedsB c ∧ x.sclb.isNone))) then some 0x20
  else if x.q + x.m > 256 ∨ x.n > 256 ∨ x.n = 0 then some 0x21
  else if h.accFails x.acc isInt false gs 0x22 then some 0x22
  else if h.accFails x.acc isInt false gs 0x23 then some 0x23
  else if fmtIsMx x.fa ∧ x.k % 32 ≠ 0 then some 0x24
  else if !h.passOk x.fa false x.acc (x.pass.getD 0) gs then some 0x26
  else if s.meClockBad c then some 0x28
  else none

/-- The first failing check at issue of a stationary load (03 R69, R80, R82, R98). -/
def State.loadWCheck (s : State) (c : Nat) (x : MxLoad) : Option Nat :=
  if x.fmt = .int32 ∨ fmtIsMx x.fmt ≠ x.scl.isSome then some 0x20
  else if fmtIsMx x.fmt ∧ x.kb % 32 ≠ 0 then some 0x24
  else if s.meClockBad c then some 0x28
  else none

/-! ### Runs -/

/-- The pairs of token t and column j that one core's array forms: A, a row of as many elements as the west core's buffer has rows,
from the west core's slice under the west core's own copy of the command, B from the core's buffer (03 R78, R83, R95). -/
def State.wsPairs (s : State) (west : Nat) (x : MxWs) (core : Nat) (t j : Nat) : List Pair :=
  let b := (s.core core).me.w[x.wbuf]
  let kb := (s.core west).me.w[x.wbuf].kb
  (List.range kb).map fun k =>
    let e := s.elt west x.fa (x.src + t * x.stride) k
    let sa := s.scale west (mxScl x.fa x.scl) fun a => a + t * (kb / 32) + k / 32
    ⟨{ e with poison := e.poison || sa.2 }, Sparse.get eltZero b.elts (k * 512 + j), sa.1,
      Sparse.get (fun _ => 0x7F) b.scls (j * 16 + k / 32)⟩

/-- The column sum of token t, column j: from +0.0 at the north edge through the cores of a column, north to south, and the cores
whose cells saturated in it (02 R54, R55; 03 R83, R93, R106). -/
def State.wsColumn (s : State) (gauss : Bool) (chainCores : List (Nat × MxWs × Nat)) (t j : Nat) : PSum × List Nat :=
  chainCores.foldl (fun p w =>
    let q := chain w.2.1.fa w.2.1.fb gauss (w.2.1.pass.getD 0) { p.1 with sat := false } (s.wsPairs w.1 w.2.1 w.2.2 t j)
    (q, if q.sat then p.2 ++ [w.2.2] else p.2)) (⟨0, false, false⟩, [])

/-- What a written element holds: 0x7FC0_0000 where it depends on poison (03 R106). -/
def PSum.word (p : PSum) : Word := if p.poison then f32nan else p.bits

/-- A complex command's plane and whether its sum starts at +0.0 (03 R88, R89). -/
def cPlane (gauss : Bool) (pass : Nat) : Nat :=
  if gauss then (if pass = 1 then 2 else 3) else if pass ≤ 2 then 0 else 1

/-- One drained element of a weight-stationary run (02 R54, R60; 03 R88, R89). `restart` says that the sum T or U of the Gauss
form starts again at +0.0 in this row. -/
def drainWs (x : MxWs) (gauss restart : Bool) (h : AcbHalf) (t j : Nat) (col : PSum) : AcbHalf × Bool :=
  let l512 := fourBit x.fa
  let pass := x.pass.getD 0
  if x.fa = .cbf16 then
    if gauss ∧ pass = 3 then
      let tt := h.get false (x.q + t + 128) j
      let u := h.get false (x.q + t + 192) j
      let re := f32add (h.get false (x.q + t) j) (f32sub tt col.bits)
      let im := f32add (h.get false (x.q + t + 64) j) (f32add tt u)
      ((h.put false (x.q + t) j (PSum.word { col with bits := re })).put false (x.q + t + 64) j
        (PSum.word { col with bits := im }), false)
    else
      let row := x.q + t + 64 * cPlane gauss pass
      let h1 := if x.acc then h else [0, 64, 128, 192].foldl (fun a o => a.put false (x.q + t + o) j 0) h
      let r := addOnce false ⟨if restart then 0 else h1.get false row j, false, false⟩ col
      (h1.put false row j r.word, false)
  else
    let start : PSum := ⟨if x.acc then h.get l512 (x.q + t) j else 0, false, false⟩
    let r := addOnce (fmtIsInt x.fa) start { col with sat := false }
    (h.put l512 (x.q + t) j r.word, r.sat)

/-- Does the Gauss sum of a row group start again in a pass: T in the first pass-1 command, U in the first pass-2 command, of a
product (02 R60; 03 R89; log entry 19)? -/
def AcbRec.restarts (r : AcbRec) (gauss : Bool) (pass : Nat) : Bool :=
  gauss && ((decide (pass = 1) && !(decide (r.fmt = .cbf16) && decide (r.pass = 1))) || (decide (pass = 2) && decide (r.pass ≠ 2)))

/-- The records after a run (03 R71, R87): a clearing run sets them; an accumulating one records its pass. -/
def AcbHalf.afterRun (h : AcbHalf) (f : Fmt) (acc l512 : Bool) (pass : Nat) (gs : List Nat) : AcbHalf :=
  let r : AcbRec := ⟨fmtIsInt f, true, f, pass⟩
  if acc then gs.foldl (fun t g => t.setRec g r) h else h.clearRecs l512 gs r

/-- A core's half replaced. -/
def State.setAcb (s : State) (c : Nat) (half : Fin 2) (h : AcbHalf) : State :=
  s.updCore c fun k => { k with me := { k.me with acb := k.me.acb.set half h } }

/-- ACC_SAT and POISON of a core (03 R103, R106). -/
def State.meEvents (s : State) (c : Nat) (sat poison : Bool) : State :=
  let s1 := if sat then s.setBit (rMeStatus c) 3 else s
  if poison then s1.setBit (rMeStatus c) 4 else s1

/-- Is the command the fourth pass of a Gauss product, which does no arithmetic (03 R89)? -/
def State.gaussLast (s : State) (c : Nat) (x : MxWs) : Bool := s.gaussOn c x && decide (x.pass = some 4)

/-- A weight-stationary run drained into one core's ACB: `cores` are the cores of its column with their west cores and
the west cores' copies, north to south (03 R83, R89, R93, R95, R106). -/
def State.runWs (s : State) (c : Nat) (x : MxWs) (cores : List (Nat × MxWs × Nat)) : State :=
  let m := (Opnd.latched x.m).toNat
  let pass := x.pass.getD 0
  let gauss := s.gaussOn c x
  let gs := rowGroups x.fa x.q m
  let h0 := (s.core c).me.acb[x.half]
  let h1 := if x.acc then h0 else h0.clearRecs (fourBit x.fa) gs ⟨fmtIsInt x.fa, true, x.fa, pass⟩
  let cells := if s.gaussLast c x then [] else (List.range m).flatMap fun t => (List.range x.n).map fun j => (t, j)
  let out := cells.foldl (fun a p =>
    let col := s.wsColumn gauss cores p.1 p.2
    let r := drainWs x gauss ((h0.record ((x.q + p.1) / 16)).restarts gauss pass) a.1 p.1 p.2 col.1
    (r.1, a.2 ++ col.2 ++ (if r.2 then [c] else []))) (h1, [])
  out.2.foldl (fun t i => t.meEvents i true false)
    (s.setAcb c x.half (out.1.afterRun x.fa true (fourBit x.fa) pass gs))

/-- The element (i, j) of an output-stationary run: A from the west core, B from the north core (02 R54; 03 R86, R95). -/
def State.osElement (s : State) (west : Nat) (xa : MxOs) (north : Nat) (xb : MxOs) (start : PSum) (i j : Nat) : PSum :=
  let ps := (List.range xa.k).map fun k =>
    let a := s.elt west xa.fa (xa.srca + i * xa.stridea) k
    let sa := s.scale west (mxScl xa.fa xa.scla) fun t => t + i * (xa.k / 32) + k / 32
    let b := s.elt north xb.fb (xb.srcb + k * xb.strideb) j
    let sb := s.scale north (mxScl xb.fb xb.sclb) fun t => sclColAddr t 256 (k / 32) j
    (⟨{ a with poison := a.poison || sa.2 }, { b with poison := b.poison || sb.2 }, sa.1, sb.1⟩ : Pair)
  chain xa.fa xb.fb false (xa.pass.getD 0) start ps

/-- An output-stationary run drained into one core's ACB (03 R86, R95). -/
def State.runOs (s : State) (c : Nat) (x : MxOs) (west : Nat) (xa : MxOs) (north : Nat) (xb : MxOs) : State :=
  let gs := rowGroups x.fa x.q x.m
  let h0 := (s.core c).me.acb[x.half]
  let h1 := if x.acc then h0 else h0.clearRecs false gs ⟨fmtIsInt x.fa, true, x.fa, x.pass.getD 0⟩
  let cells := (List.range x.m).flatMap fun i => (List.range x.n).map fun j => (i, j)
  let out := cells.foldl (fun a p =>
    let start : PSum := ⟨if x.acc then h0.get false (x.q + p.1) p.2 else 0, false, false⟩
    let r := s.osElement west xa north xb start p.1 p.2
    (a.1.put false (x.q + p.1) p.2 r.word, a.2 || r.sat)) (h1, false)
  (s.setAcb c x.half (out.1.afterRun x.fa true false (x.pass.getD 0) gs)).meEvents c out.2 false

/-- The ranges of A that a weight-stationary run feeds from a core. -/
def wsRanges (x : MxWs) (kb : Nat) : List (Nat × Nat) :=
  let m := (Opnd.latched x.m).toNat
  (List.range m).map (fun t => (x.src + t * x.stride, rowBytes x.fa kb)) ++
    (match mxScl x.fa x.scl with
     | some a => [(a, m * (kb / 32))]
     | none => [])

/-- The ranges of A and B that an output-stationary run reads: of B's scales those of its n columns, as `mx.load.w` reads those of
its nb, which 03 R106 leaves open (log entry 19, DESIGN CHOICE). -/
def osRanges (x : MxOs) (a b : Bool) : List (Nat × Nat) :=
  (if a then (List.range x.m).map (fun i => (x.srca + i * x.stridea, rowBytes x.fa x.k)) ++
      (match mxScl x.fa x.scla with
       | some t => [(t, x.m * (x.k / 32))]
       | none => []) else []) ++
  (if b then (List.range x.k).map (fun k => (x.srcb + k * x.strideb, rowBytes x.fb x.n)) ++
      (match mxScl x.fb x.sclb with
       | some t => (List.range (x.k / 32)).map fun b => (sclColAddr t 256 b 0, x.n)
       | none => []) else [])

/-- Feeder reads of the ME: granules are checked, POISON is recorded (03 R106; 05 R149 to R151). -/
def State.feed (s : State) (c : Nat) (rs : List (Nat × Nat)) : State :=
  (s.meEvents c false (s.rangesPoisoned c rs)).touchRanges c rs

/-- Do two copies of a command agree on what the first wavefront carries: kind, format, pass, buffer, m, n, k and dst (03 R95)? -/
def sameRun : ECmd → ECmd → Bool
  | .mxWs x, .mxWs y => decide (x.fa = y.fa ∧ x.fb = y.fb ∧ x.pass = y.pass ∧ x.gauss = y.gauss ∧ x.acc = y.acc
      ∧ x.half = y.half ∧ x.q = y.q ∧ x.wbuf = y.wbuf ∧ Opnd.latched x.m = Opnd.latched y.m ∧ x.n = y.n)
  | .mxOs x, .mxOs y => decide (x.fa = y.fa ∧ x.fb = y.fb ∧ x.pass = y.pass ∧ x.acc = y.acc ∧ x.half = y.half
      ∧ x.q = y.q ∧ x.k = y.k ∧ x.m = y.m ∧ x.n = y.n)
  | .mxLoad x, .mxLoad y => decide (x.fmt = y.fmt ∧ x.wbuf = y.wbuf)
  | .mxClear h l, .mxClear h' l' => decide (h = h' ∧ l = l')
  | _, _ => false

/-- The copy of a command that a core has issued and that waits for its sheet. -/
def State.sheetCopy (s : State) (c : Nat) : Option Issued :=
  (s.core c).issued.find? fun i => decide (i.finish = .sheet)

/-- The weight-stationary copy a core waits with, or a default. -/
def State.wsCopy (s : State) (c : Nat) (d : MxWs) : MxWs :=
  match (s.sheetCopy c).map Issued.cmd with
  | some (.mxWs x) => x
  | _ => d

/-- The output-stationary copy a core waits with, or a default. -/
def State.osCopy (s : State) (c : Nat) (d : MxOs) : MxOs :=
  match (s.sheetCopy c).map Issued.cmd with
  | some (.mxOs x) => x
  | _ => d

/-- What a command reads of a core's own slice under its role: a load its tile and scales, a run the A operand where the core
feeds it, in output-stationary work the B operand as well (03 R80, R95). -/
def State.meReads (s : State) (c : Nat) : ECmd → List (Nat × Nat)
  | .mxLoad x => (List.range x.kb).map (fun k => (x.src + k * x.stride, rowBytes x.fmt x.nb)) ++
      (match x.scl with
       | some a => (List.range (ceilDiv x.kb 32)).map fun b => (sclColAddr a x.nb b 0, x.nb)
       | none => [])
  | .mxWs x => if s.meFeedsA c && !s.gaussLast c x then wsRanges x (s.core c).me.w[x.wbuf].kb else []
  | .mxOs x => osRanges x (s.meFeedsA c) (s.meFeedsB c)
  | _ => []

/-- The tile that a load takes from the slice (03 R76 to R78): elements and scales with their poison. -/
def State.tile (s : State) (c : Nat) (x : MxLoad) : WBuf :=
  let elts := (List.range x.kb).flatMap fun k => (List.range x.nb).filterMap fun n =>
    let v := s.elt c x.fmt (x.src + k * x.stride) n
    let sp := match x.scl with
      | some a => s.bytePoisoned c (sclColAddr a x.nb (k / 32) n)
      | none => false
    let v' := { v with poison := v.poison || sp }
    if v' = eltZero 0 then none else some (k * 512 + n, v')
  let sc := (List.range x.nb).flatMap fun n => (List.range (ceilDiv x.kb 32)).filterMap fun b =>
    let v := (s.scale c x.scl fun a => sclColAddr a x.nb b n).1
    if v = 0x7F then none else some (n * 16 + b, v)
  ⟨true, x.fmt, x.kb, x.nb, elts, sc⟩

/-- A clear of a half (03 R80): zero in every element, the tag, every row group FP32, written, pass 0. -/
def AcbHalf.cleared (h : AcbHalf) (l512 : Bool) : AcbHalf :=
  AcbHalf.clearRecs { h with elts := [] } l512 (List.range (acbRows l512 / 16)) ⟨false, true, .fp32, 0⟩

/-- The cores of a core's column with their west cores and the west cores' copies, north to south (03 R95). -/
def State.wsChain (s : State) (c : Nat) (x : MxWs) : List (Nat × MxWs × Nat) :=
  match s.sheetOf c with
  | some d => (List.range (sheetRect d).2.2.2).map fun j =>
      let west := ((sheetRect d).2.1 + j) * 16 + (sheetRect d).1
      (west, s.wsCopy west x, ((sheetRect d).2.1 + j) * 16 + c % 16)
  | none => [(c, x, c)]

/-- What a matrix-engine command does at one core under its role (03 R80, R83, R86, R95): its reads, then its tile, its drain or
its clear. -/
def State.meEffect (s : State) (c : Nat) (cmd : ECmd) : State :=
  let fed := s.feed c (s.meReads c cmd)
  match cmd with
  | .mxLoad x => fed.updCore c fun k => { k with me := { k.me with w := k.me.w.set x.wbuf (s.tile c x) } }
  | .mxWs x => if s.meDrains c then fed.runWs c x (s.wsChain c x) else fed
  | .mxOs x =>
    let west := match s.sheetOf c with
      | some d => c / 16 * 16 + (sheetRect d).1
      | none => c
    let north := match s.sheetOf c with
      | some d => (sheetRect d).2.1 * 16 + c % 16
      | none => c
    fed.runOs c x west (s.osCopy west x) north (s.osCopy north x)
  | .mxClear half l512 => fed.setAcb c half ((s.core c).me.acb[half].cleared l512)
  | _ => fed

/-- The copy that a sheet's north-west core has started under a number, whose first wavefront the other cores see (03 R95). -/
def State.leadCopy (s : State) (d : Word) (turn : Nat) : Option ECmd :=
  (sheetCores d).head?.bind fun c =>
    if s.sheetOf c = some d then ((s.core c).me.copies.find? fun p => decide (p.1 = turn)).map (·.2) else none

/-- Does a core of a sheet wait with a copy that differs from the one its north-west core has started at the same point (03 R95)? -/
def State.copyDiffers (s : State) (d : Word) (c : Nat) : Bool :=
  match s.sheetCopy c, s.leadCopy d (s.core c).me.turn with
  | some i, some o => decide (s.sheetOf c = some d) && !sameRun o i.cmd
  | _, _ => false

/-- A core whose copy differs records ME_SHEET_MISMATCH and abandons it (03 R95, R105). -/
def State.copyFails (s : State) (c : Nat) : State :=
  match s.sheetCopy c with
  | some i => (s.coreFault c 0x27 1 i.pc).endIssued c i .fault
  | none => s

/-- Do all cores of a sheet wait with their copies of one and the same command of it (03 R95)? -/
def State.sheetReady (s : State) (d : Word) : Bool :=
  let cores := sheetCores d
  cores.all fun c => (s.sheetCopy c).isSome && decide (s.sheetOf c = some d)
    && decide (some (s.core c).me.turn = cores.head?.map fun i => (s.core i).me.turn)

/-- The copies of a sheet's command (03 R95; log entry 21): a core whose copy differs from that of the north-west core records
ME_SHEET_MISMATCH and abandons it; once every core waits with a copy the command runs, and every copy's completion is timed. -/
def State.sheetRun (s : State) (d : Word) : State :=
  let cores := sheetCores d
  let s1 := (cores.filter (s.copyDiffers d)).foldl State.copyFails s
  if s1.sheetReady d then
    let ran := cores.foldl (fun t c => match s1.sheetCopy c with
      | some i => t.meEffect c i.cmd
      | none => t) s1
    cores.foldl (fun t c => t.updCore c fun k => { k with issued := k.issued.map fun i =>
      if i.finish = .sheet then { i with finish := .timed } else i }) ran
  else s1

/-- One more command of a core's sheet (03 R95). -/
def State.meTurn (s : State) (c : Nat) : State :=
  if (s.sheetOf c).isSome then s.updCore c fun k => { k with me := { k.me with turn := k.me.turn + 1 } } else s

/-- A matrix-engine command that has passed its own checks, issued: its reads are checked; alone it takes effect, on a sheet its copy
starts and waits for the others (03 R95, R105; 05 R157). -/
def State.issueMe (s : State) (c : Nat) (e : QEntry) : State :=
  match s.slcCheck c (s.meReads c e.cmd) with
  | some x => s.failCmd c .me e x
  | none =>
    match s.sheetOf c with
    | some d =>
      let s1 := s.updCore c fun k => { k with me := { k.me with copies := k.me.copies ++ [(k.me.turn, e.cmd)] } }
      (s1.start c .me e .sheet).sheetRun d
    | none => (s.meEffect c e.cmd).start c .me e .timed

/-- A matrix-engine command at issue: the first failing check, or its effect (03 R105). -/
def State.issueMx (s : State) (c : Nat) (e : QEntry) (bad : Option Nat) : State :=
  match bad with
  | some code => (s.meTurn c).failCmd c .me e ⟨code, 0⟩
  | none => (s.meTurn c).issueMe c e

/-- mx.load.w at issue (03 R77 to R80). -/
def State.issueMxLoad (s : State) (c : Nat) (e : QEntry) (x : MxLoad) : State := s.issueMx c e (s.loadWCheck c x)

/-- mx.run.ws at issue (03 R81, R83, R105). DESIGN CHOICE (log entry 19): a run of m = 0 completes before any check of R105, whose order
against R81 the spec does not give. -/
def State.issueMxWs (s : State) (c : Nat) (e : QEntry) (x : MxWs) : State :=
  if (Opnd.latched x.m).toNat = 0 then (s.meTurn c).start c .me e .timed else s.issueMx c e (s.wsCheck c x)

/-- mx.run.os at issue (03 R81, R86, R105). -/
def State.issueMxOs (s : State) (c : Nat) (e : QEntry) (x : MxOs) : State :=
  if x.m = 0 then (s.meTurn c).start c .me e .timed else s.issueMx c e (s.osCheck c x)

/-- mx.clear at issue (03 R80, R98). -/
def State.issueMxClear (s : State) (c : Nat) (e : QEntry) : State := s.issueMx c e (if s.meClockBad c then some 0x28 else none)

/-! ### Selecting a sheet (03 R94, R104) -/

/-- The descriptor that a core presents while it waits in `mx.sheet`. -/
def State.sheetJoining (s : State) (c : Nat) : Option Word :=
  (s.core c).issued.findSome? fun i => match i.cmd, i.finish with
    | .mxSheet sid, .join => some (s.rd (rMeSheet c sid))
    | _, _ => none

/-- Are two cores neighbours of the grid? -/
def besides (a b : Nat) : Bool :=
  decide (a / 16 = b / 16 ∧ (a % 16 + 1 = b % 16 ∨ b % 16 + 1 = a % 16)) || decide (a % 16 = b % 16 ∧ (a / 16 + 1 = b / 16 ∨ b / 16 + 1 = a / 16))

/-- The neighbours of a core inside a descriptor's rectangle. -/
def sheetNear (d : Word) (c : Nat) : List Nat := (sheetCores d).filter (besides c)

/-- The command by which a core waits in `mx.sheet` ends with ME_SHEET_MISMATCH; the core's selection stays (03 R94, R105). -/
def State.joinFails (s : State) (c : Nat) : State :=
  match (s.core c).issued.find? fun i => decide (i.finish = .join) with
  | some i => (s.coreFault c 0x27 1 i.pc).endIssued c i .fault
  | none => s

/-- A core that waits in `mx.sheet` has found the descriptor of every neighbour in its rectangle equal: it takes the selection
(03 R94). -/
def State.joinDone (s : State) (c : Nat) : State :=
  match s.sheetJoining c with
  | some d =>
    if (sheetNear d c).all ((s.core c).me.seen.contains ·) then
      s.updCore c fun k => { k with
        me := { k.me with
          sheet := k.issued.findSome? fun i => match i.cmd, i.finish with
            | .mxSheet sid, .join => some sid
            | _, _ => none
          seen := []
          turn := 0
          copies := [] }
        issued := k.issued.map fun i => if i.finish = .join then { i with finish := .timed } else i }
    else s
  | none => s

/-- The first descriptor that a neighbour has presented to a core and the core has not compared. -/
def Me.offerOf (m : Me) (j : Nat) : Option (Nat × Word) := m.offers.find? fun p => decide (p.1 = j)

/-- A core that waits in `mx.sheet` compares its descriptor with the next one of every neighbour in its rectangle that it has not
compared at this selection: a difference is ME_SHEET_MISMATCH; where it has found all equal it takes the selection (03 R94). -/
def State.compare (s : State) (c : Nat) : State :=
  match s.sheetJoining c with
  | none => s
  | some d =>
    let m := (s.core c).me
    let got := ((sheetNear d c).filter fun j => !m.seen.contains j).filterMap m.offerOf
    let s1 := s.updCore c fun k => { k with me := { k.me with
      offers := got.foldl List.erase k.me.offers
      seen := k.me.seen ++ (got.filter fun p => decide (p.2 = d)).map (·.1) } }
    if got.any fun p => decide (p.2 ≠ d) then s1.joinFails c else s1.joinDone c

/-- A core selects a descriptor (03 R94): it presents it to its neighbours in the rectangle, compares what they have presented with
its own, and they, where they wait, compare too. -/
def State.meet (s : State) (c : Nat) (d : Word) : State :=
  let near := sheetNear d c
  let s1 := near.foldl (fun t i => t.updCore i fun k => { k with me := { k.me with offers := k.me.offers ++ [(c, d)] } }) s
  (c :: near).foldl State.compare s1

/-- mx.sheet at issue (03 R94, R98, R104): an invalid descriptor is ME_SHEET_MISMATCH, and so is one whose rectangle does not hold the
core (DESIGN CHOICE, log entry 21); where the regions of the sheet it is in, or of the one it selects, differ in level it is
ME_SHEET_CLOCK; else the core exchanges the descriptor with its neighbours in the rectangle. -/
def State.issueMxSheet (s : State) (c : Nat) (e : QEntry) (sid : Fin 4) : State :=
  let d := s.rd (rMeSheet c sid)
  if !bit d 16 ∨ !(sheetCores d).contains c then s.failCmd c .me e ⟨0x27, 0⟩
  else if s.meClockBad c ∨ s.sheetClockBad c d then s.failCmd c .me e ⟨0x28, 0⟩
  else ((s.updCore c fun k => { k with me := { k.me with seen := [] } }).start c .me e .join).meet c d

/-- mx.sheet.off at issue (03 R80, R94, R98). -/
def State.issueMxSheetOff (s : State) (c : Nat) (e : QEntry) : State :=
  if s.meClockBad c then s.failCmd c .me e ⟨0x28, 0⟩
  else (s.updCore c fun k => { k with me := { k.me with sheet := none, turn := 0, copies := [] } }).start c .me e .timed

end Sys2Proof.Machine
end

