-- ==== Sys2Proof/Machine/VeRun.lean ====
section
/-! DEFINITION. What the vector engine's commands do when they issue (04): micro-ops, streams, masks, conversions,
reductions, scans, online softmax, digests. -/

namespace Sys2Proof.Machine

open Sys2Proof

/-! ### Events and micro-ops (04 R119 to R121) -/

/-- Arithmetic events counted by a command (04 R125, R138). -/
structure VEvt where
  sat     : Nat
  nanLost : Nat
  invalid : Nat
  deriving DecidableEq, Repr

/-- No event. -/
def evt0 : VEvt := ⟨0, 0, 0⟩
/-- Two counts together. -/
def VEvt.plus (a b : VEvt) : VEvt := ⟨a.sat + b.sat, a.nanLost + b.nanLost, a.invalid + b.invalid⟩
/-- The events of a conversion. -/
def convEvt (c : Conv) : VEvt := ⟨bn c.sat, bn c.nanLost, 0⟩

/-- A result with its events. -/
abbrev URes := Word × VEvt

/-- A result without an event. -/
def plain (w : Word) : URes := (w, evt0)
/-- An invalid operation (04 R121). -/
def invalidRes : URes := (f32nan, ⟨0, 0, 1⟩)

/-- An arithmetic result: a NaN that no operand was is invalid (04 R121). -/
def arith (operands : List Word) (r : Word) : URes :=
  if operands.any f32isNan then plain f32nan else if f32isNan r then invalidRes else plain r

/-- A truth value as a mask of ones. -/
def ones (b : Bool) : Word := if b then 0xFFFFFFFF else 0

/-- fcmp (04 R119). -/
def fcmpRes (c : UCmp) (a b : Word) : Bool :=
  match c with
  | .eq => f32eq a b
  | .ne => !f32eq a b
  | .lt => f32lt a b
  | .le => f32lt a b || f32eq a b
  | .gt => f32lt b a
  | .ge => f32lt b a || f32eq a b

/-- icmp, signed (04 R119). -/
def icmpRes (c : UCmp) (a b : Word) : Bool :=
  match c with
  | .eq => decide (a = b)
  | .ne => decide (a ≠ b)
  | .lt => decide (a.toInt < b.toInt)
  | .le => decide (a.toInt ≤ b.toInt)
  | .gt => decide (b.toInt < a.toInt)
  | .ge => decide (b.toInt ≤ a.toInt)

/-- Rounding to an integral FP32 value; `floor` rounds toward −infinity (04 R119). -/
def integral (m : Rnd) (floor : Bool) (a : Word) : Word :=
  match f32v a with
  | .fin n mag e =>
    if 0 ≤ e then a
    else
      let g := roundToGrid (if floor then .rtz else m) 0 mag e 0
      let down := floor && n && decide (mag % 2 ^ (-e).toNat ≠ 0)
      rne32 (.fin n (if down then g.1 + 1 else g.1) 0)
  | .inf _ => a
  | .nan => f32nan

/-- Is the FP32 word a zero? -/
def f32isZero (a : Word) : Bool := decide (a = 0 ∨ a = 0x80000000)
/-- Is the FP32 word below zero (not −0.0)? -/
def f32neg (a : Word) : Bool := decide (a.toNat > 2 ^ 31)

/-- A result within `k` units of the last place of the exact one: which, the implementation fixes (04 R120; log entry 7). -/
def within (k : Nat) (offer : Word) (exact : FVal) : Word := nearWord offer exact (ulps k exact)

/-- A result within 1 unit of the last place, exact wherever it is representable (04 R120). -/
def within1 (offer : Word) (exact : FVal) : Word :=
  let n := rne32 exact
  if fIsFin (f32v n) && !fNonzero (fadd exact (fneg (f32v n))) then n else within 1 offer exact

/-- frcp (04 R120, R121). -/
def uFrcp (a : Word) : Word :=
  match f32v a with
  | .nan => f32nan
  | .inf n => if n then 0x80000000 else 0
  | .fin n m e => if m = 0 then rne32 (.inf n) else within1 (Config.frcp a) (fquot (.fin false 1 0) (.fin n m e))

/-- frsqrt (04 R120, R121). -/
def uFrsqrt (a : Word) : URes :=
  match f32v a with
  | .nan => plain f32nan
  | .inf n => if n then invalidRes else plain 0
  | .fin n m e =>
    if m = 0 then plain (rne32 (.inf n)) else if n then invalidRes
    else plain (within1 (Config.frsqrt a) (frsqrtVal m e))

/-- fexp2: exact for integral arguments (04 R120, R121). -/
def uFexp2 (a : Word) : Word :=
  match f32v a with
  | .nan => f32nan
  | .inf n => if n then 0 else f32inf
  | .fin n m e =>
    if m = 0 then 0x3F800000
    else if 0 ≤ e ∨ m % 2 ^ (-e).toNat = 0 then
      let v := if 0 ≤ e then min 100000 (m * 2 ^ (min e 64).toNat) else m / 2 ^ (-e).toNat
      rne32 (.fin false 1 (if n then -(v : Int) else v))
    else within 1 (Config.fexp2 a) (fnExp2 (.fin n m e))

/-- flog2: exact for powers of two (04 R120, R121). -/
def uFlog2 (a : Word) : URes :=
  match f32v a with
  | .nan => plain f32nan
  | .inf n => if n then invalidRes else plain f32inf
  | .fin n m e =>
    if m = 0 then plain f32ninf else if n then invalidRes
    else if m = 2 ^ Nat.log2 m then plain (rne32 (fOfInt (e + Nat.log2 m)))
    else plain (within 1 (Config.flog2 a) (fnLog2 (.fin n m e)))

/-- fexp (04 R120, R121). -/
def uFexp (a : Word) : Word :=
  match f32v a with
  | .nan => f32nan
  | .inf n => if n then 0 else f32inf
  | .fin n m e => if m = 0 then 0x3F800000 else within 2 (Config.fexp a) (fnExp (.fin n m e))

/-- flog (04 R120, R121). -/
def uFlog (a : Word) : URes :=
  match f32v a with
  | .nan => plain f32nan
  | .inf n => if n then invalidRes else plain f32inf
  | .fin n m e =>
    if m = 0 then plain f32ninf else if n then invalidRes
    else if a = 0x3F800000 then plain 0 else plain (within 2 (Config.flog a) (fnLog (.fin n m e)))

/-- fsqrt (04 R120, R121). -/
def uFsqrt (a : Word) : URes := arith [a] (f32sqrt a)

/-- ftanh (04 R120, R121). -/
def uFtanh (a : Word) : Word :=
  match f32v a with
  | .nan => f32nan
  | .inf n => if n then 0xBF800000 else 0x3F800000
  | .fin n m e => if m = 0 then a else within 2 (Config.ftanh a) (fnTanh (.fin n m e))

/-- fsigmoid (04 R120, R121). -/
def uFsigmoid (a : Word) : Word :=
  match f32v a with
  | .nan => f32nan
  | .inf n => if n then 0 else 0x3F800000
  | .fin n m e => if m = 0 then 0x3F000000 else within 2 (Config.fsigmoid a) (fnSigmoid (.fin n m e))

/-- A sine or cosine: 2 units of the last place for |a| up to 2^17, 2^−21 beyond (04 R120). -/
def withinTrig (a offer : Word) (exact : FVal) : Word :=
  if fLeAbs (f32v a) (.fin false 1 17) then within 2 offer exact else nearWord offer exact (.fin false 1 (-21))

/-- fsin (04 R120, R121). -/
def uFsin (a : Word) : URes :=
  match f32v a with
  | .nan => plain f32nan
  | .inf _ => invalidRes
  | .fin n m e => if m = 0 then plain a else plain (withinTrig a (Config.fsin a) (fnSin (.fin n m e)))

/-- fcos (04 R120, R121). -/
def uFcos (a : Word) : URes :=
  match f32v a with
  | .nan => plain f32nan
  | .inf _ => invalidRes
  | .fin n m e => if m = 0 then plain 0x3F800000 else plain (withinTrig a (Config.fcos a) (fnCos (.fin n m e)))

/-- An INT32 sum or difference, wrapping or saturating (04 R119). -/
def intRes (sat : Bool) (v : Int) : URes :=
  if sat then
    let c := clampInt 32 v
    (BitVec.ofInt 32 c.1, ⟨bn c.2, 0, 0⟩)
  else plain (BitVec.ofInt 32 v)

/-- One micro-op (04 R119). -/
def uop (o : UCode) (a b c : Word) : URes :=
  match o with
  | .mov => plain a
  | .fneg => plain (if f32isNan a then f32nan else a ^^^ 0x80000000)
  | .fabs => plain (if f32isNan a then f32nan else a &&& 0x7FFFFFFF)
  | .fmin => plain (f32min a b)
  | .fmax => plain (f32max a b)
  | .fcmp k => plain (ones (fcmpRes k a b))
  | .sel => plain (if a ≠ 0 then b else c)
  | .and => plain (a &&& b)
  | .or => plain (a ||| b)
  | .xor => plain (a ^^^ b)
  | .not => plain (~~~a)
  | .shl => plain (a <<< (b.toNat % 32))
  | .shr => plain (a >>> (b.toNat % 32))
  | .sar => plain (a.sshiftRight (b.toNat % 32))
  | .iadd sat => intRes sat (a.toInt + b.toInt)
  | .isub sat => intRes sat (a.toInt - b.toInt)
  | .imin => plain (if a.toInt ≤ b.toInt then a else b)
  | .imax => plain (if a.toInt ≤ b.toInt then b else a)
  | .icmp k => plain (ones (icmpRes k a b))
  | .fadd => arith [a, b] (f32add a b)
  | .fsub => arith [a, b] (f32sub a b)
  | .fmul => arith [a, b] (f32mul a b)
  | .fma => arith [a, b, c] (f32fma a b c)
  | .imul => plain (a * b)
  | .fround m => plain (integral m false a)
  | .ffloor => plain (integral .rtz true a)
  | .f2i m => let r := iencode 32 m 0 (f32v a)
      (BitVec.ofNat 32 r.bits, convEvt r)
  | .i2f => plain (rne32 (fOfInt a.toInt))
  | .frcp => plain (uFrcp a)
  | .frsqrt => uFrsqrt a
  | .fexp2 => plain (uFexp2 a)
  | .flog2 => uFlog2 a
  | .fexp => plain (uFexp a)
  | .flog => uFlog a
  | .fsqrt => uFsqrt a
  | .fdiv => arith [a, b] (f32div a b)
  | .ftanh => plain (uFtanh a)
  | .fsigmoid => plain (uFsigmoid a)
  | .fsin => uFsin a
  | .fcos => uFcos a

/-- How many sources a micro-op has. -/
def uArity : UCode → Nat
  | .sel => 3
  | .fma => 3
  | .fmin | .fmax | .and | .or | .xor | .shl | .shr | .sar | .imin | .imax | .fadd | .fsub | .fmul | .imul | .fdiv => 2
  | .fcmp _ => 2
  | .icmp _ => 2
  | .iadd _ => 2
  | .isub _ => 2
  | _ => 1

/-- The values of one lane of one row while a program runs on it. -/
structure Lane where
  t : Vector Elt 8
  o : Vector Elt 2
  e : VEvt
  deriving DecidableEq, Repr

/-- The value of a source (04 R116). -/
def Lane.src (l : Lane) (ins : List Elt) (lane row : Nat) : USrc → Elt
  | .i n => ins.getD n ⟨0, false⟩
  | .t n => l.t[n]
  | .lane => ⟨BitVec.ofNat 32 lane, false⟩
  | .row => ⟨BitVec.ofNat 32 row, false⟩
  | .imm w => ⟨w, false⟩

/-- One micro-op of a lane: the mark of a poisoned operand spreads (04 R140). -/
def Lane.run1 (ins : List Elt) (lane row : Nat) (l : Lane) (u : UOp) : Lane :=
  let a := l.src ins lane row u.a
  let b := l.src ins lane row u.b
  let c := l.src ins lane row u.c
  let n := uArity u.code
  let r := uop u.code a.bits b.bits c.bits
  let v : Elt := ⟨r.1, a.poison || (decide (2 ≤ n) && b.poison) || (decide (3 ≤ n) && c.poison)⟩
  match u.dst with
  | .t i => { l with t := l.t.set i v, e := l.e.plus r.2 }
  | .o i => { l with o := l.o.set i v, e := l.e.plus r.2 }

/-- A program on one lane of one row (04 R116, R117). -/
def EProg.lane (p : EProg) (ins : List Elt) (lane row : Nat) : Lane :=
  p.ops.foldl (Lane.run1 ins lane row) ⟨Vector.replicate 8 ⟨0, false⟩, Vector.replicate 2 ⟨0, false⟩, evt0⟩

/-! ### Operand streams (04 R110 to R113) -/

/-- A lane of a vector register. -/
def Core.lane (k : Core) (r : VReg) (j : Nat) : Elt := Sparse.get eltZero k.ve.v (r.val * 256 + j)

/-- The core with a lane of a vector register written; a marked value is kept as 0x7FC0_0000 (04 R140). -/
def Core.setLane (k : Core) (r : VReg) (j : Nat) (e : Elt) : Core :=
  let e' : Elt := if e.poison then ⟨f32nan, true⟩ else e
  { k with ve := { k.ve with v := Sparse.set eltZero k.ve.v (r.val * 256 + j) e' } }

/-- The core with all 256 lanes of a register written. -/
def Core.setReg (k : Core) (r : VReg) (f : Nat → Elt) : Core :=
  (List.range 256).foldl (fun a j => a.setLane r j (f j)) k

/-- Byte size of a row of a slice stream: 256 elements (04 R110). -/
def vRowBytes (f : Fmt) : Nat := 32 * fmtBits f

/-- The scale address of row r, lane j of an MX stream (04 R127). -/
def mxSclAddr (t : SlcStream) (a r j : Nat) : Nat :=
  if t.blkCol then a + r / 32 * 256 + j else a + r * 8 + j / 32

/-- Element j of row r of a slice input, converted on entry (04 R111); poisoned elements enter as 0x7FC0_0000 (R140). -/
def State.slcIn (s : State) (c : Nat) (t : SlcStream) (r j : Nat) : Elt :=
  let e := s.elt c t.fmt (t.addr + r * t.stride) j
  let sc := match t.scl with
    | some a => ((s.readByte c (mxSclAddr t a r j)).toNat, s.bytePoisoned c (mxSclAddr t a r j))
    | none => (0x7F, false)
  if e.poison || sc.2 then ⟨f32nan, true⟩
  else if fmtIsInt t.fmt then ⟨BitVec.ofInt 32 (intVal (fmtBits t.fmt) e.bits.toNat), false⟩
  else
    let v := fmtVal t.fmt e.bits.toNat
    ⟨rne32 (if fmtIsMx t.fmt then mxScaled sc.1 v else v), false⟩

/-- An ACB element as a VE stream sees it: `.c1` selects columns 256 to 511 (04 R110). -/
def Core.acbIn (k : Core) (half : Fin 2) (q : Nat) (c1 : Bool) (r j : Nat) : Elt :=
  let h := k.me.acb[half]
  ⟨h.get h.l512 (q + r) (j + if c1 then 256 else 0), false⟩

/-- Lane j of row r of an input operand (04 R110). -/
def State.vIn (s : State) (c : Nat) (op : VOp) (r j : Nat) : Elt :=
  match op with
  | .none => ⟨0, false⟩
  | .slc t => s.slcIn c t r j
  | .acb half q c1 _ => (s.core c).acbIn half q c1 r j
  | .bc n => (s.core c).lane n j
  | .rs n => (s.core c).lane n r
  | .v n => (s.core c).lane n j
  | .scalar o => ⟨Opnd.latched o, false⟩

/-- Is lane j of row r active (04 R113)? -/
def State.vActive (s : State) (c : Nat) (m : VMask) (r j : Nat) : Bool :=
  match m with
  | .none => true
  | .len o => decide (j < (Opnd.latched o).toNat)
  | .lenRs n => decide (j < ((s.core c).lane n r).bits.toNat)
  | .bm a st => decide ((s.readByte c (a + r * st + j / 8)).toNat / 2 ^ (j % 8) % 2 = 1)
  | .nz n => decide (((s.core c).lane n j).bits ≠ 0)

/-- The slice ranges an input operand reads. -/
def vInRanges (rows : Nat) : VOp → List (Nat × Nat)
  | .slc t => (List.range rows).map (fun r => (t.addr + r * t.stride, vRowBytes t.fmt)) ++
      (match t.scl with
       | some a => [(a, if t.blkCol then rows / 32 * 256 else rows * 8)]
       | none => [])
  | _ => []

/-- The slice ranges a mask reads. -/
def vMaskRanges (rows : Nat) : VMask → List (Nat × Nat)
  | .bm a st => (List.range rows).map fun r => (a + r * st, 32)
  | _ => []

/-- The slice ranges an output operand writes. -/
def vOutRanges (rows : Nat) (o : VOp) : List (Nat × Nat) := vInRanges rows o

/-! ### Results (04 R112, R114, R125 to R127, R135, R140) -/

/-- A result of a lane: its value, and whether the lane is active. -/
structure VOut where
  e   : Elt
  act : Bool
  deriving DecidableEq, Repr

/-- The value a slice output converts: the 32 bits as FP32, or as INT32 for an integer format; a marked value is a NaN
(04 R125, R140). -/
def outVal (f : Fmt) (e : Elt) : FVal :=
  if e.poison then .nan else if fmtIsInt f then fOfInt e.bits.toInt else f32v e.bits

/-- The element index of lane j of row r (04 R115). -/
def eidx (x : VCtx) (r j : Nat) : DWord := x.base + BitVec.ofNat 64 (r * x.erow.toNat + j)

/-- The draw of a stochastic conversion (04 R126): by element index in reproducible mode, else by core, lane and
VE_ROW_COUNT. -/
def srDraw (repro : Bool) (x : VCtx) (c : Nat) (n : BitVec 40) (r j : Nat) : Nat :=
  keyedDraw x.key (if repro then eidx x r j else BitVec.ofNat 64 (c * 2 ^ 48 + j * 2 ^ 40 + n.toNat))

/-- What a slice output stores of one command: element codes by row and lane where written, scale bytes by address, the
events, the digest sum. -/
structure Stored where
  codes : List (Nat × Nat × Nat)
  scls  : List (Nat × Nat)
  ev    : VEvt
  dig   : DWord
  deriving DecidableEq, Repr

/-- Nothing stored. -/
def stored0 : Stored := ⟨[], [], evt0, 0⟩

/-- One element stored: row, lane, code, digest contribution (04 R135). -/
def Stored.elem (t : Stored) (dkey : DWord) (x : VCtx) (r j code : Nat) (ev : VEvt) : Stored :=
  { t with codes := t.codes ++ [(r, j, code)], ev := t.ev.plus ev,
           dig := t.dig + dmix dkey (eidx x r j) (BitVec.ofNat 64 code) }

/-- One scale byte stored, with its digest contribution (04 R135). -/
def Stored.scale (t : Stored) (dkey : DWord) (x : VCtx) (a r j v : Nat) : Stored :=
  { t with scls := t.scls ++ [(a, v)],
           dig := t.dig + dmix dkey (BitVec.ofNat 64 (2 ^ 63) ||| BitVec.ofNat 64 ((eidx x r j).toNat / 32))
             (BitVec.ofNat 64 v) }

/-- A plain (not MX) slice output of a row (04 R114, R125). -/
def storePlain (t : SlcStream) (dkey : DWord) (x : VCtx) (mz : Bool) (draw : Nat → Nat → Nat) (row : Nat → Nat → VOut)
    (acc : Stored) (r : Nat) : Stored :=
  (List.range 256).foldl (fun a j =>
    let v := row r j
    if v.act then
      let k := fmtEncode t.fmt (t.rm.getD .rne) (t.sat.getD false) (draw r j) (outVal t.fmt v.e)
      a.elem dkey x r j k.bits (convEvt k)
    else if mz then a.elem dkey x r j 0 evt0
    else a) acc

/-- One MX block stored: the positions of its 32 elements, first first (04 R114, R127). -/
def storeBlock (t : SlcStream) (dkey : DWord) (x : VCtx) (draw : Nat → Nat → Nat) (row : Nat → Nat → VOut)
    (pos : List (Nat × Nat)) (acc : Stored) : Stored :=
  let vs := pos.map fun p =>
    let v := row p.1 p.2
    if v.act then outVal t.fmt v.e else fzero
  let anyAct := pos.any fun p => (row p.1 p.2).act
  let b := mxEncode t.fmt (t.rm.getD .rne) (pos.map fun p => draw p.1 p.2) vs
  let first := pos.headD (0, 0)
  let acc1 := match t.scl with
    | some a => acc.scale dkey x (mxSclAddr t a first.1 first.2) first.1 first.2 (if anyAct then b.1 else 0)
    | none => acc
  (pos.zip b.2).foldl (fun a p =>
    a.elem dkey x p.1.1 p.1.2 (if anyAct then p.2.bits else 0)
      (if (row p.1.1 p.1.2).act then convEvt p.2 else evt0)) acc1

/-- Everything a slice output of `rows` rows stores (04 R125 to R127). -/
def storeAll (t : SlcStream) (dkey : DWord) (x : VCtx) (mz : Bool) (draw : Nat → Nat → Nat) (row : Nat → Nat → VOut)
    (rows : Nat) : Stored :=
  if fmtIsMx t.fmt then
    let blocks :=
      if t.blkCol then (List.range (rows / 32)).flatMap fun g => (List.range 256).map fun j =>
        (List.range 32).map fun i => (32 * g + i, j)
      else (List.range rows).flatMap fun r => (List.range 8).map fun b => (List.range 32).map fun i => (r, 32 * b + i)
    blocks.foldl (fun a p => storeBlock t dkey x draw row p a) stored0
  else (List.range rows).foldl (storePlain t dkey x mz draw row) stored0

/-- The codes of 4 bits that a byte receives, low and high: of several for one nibble the last stands (02 R39; 04 R114). -/
def nibblesOf (t : SlcStream) (codes : List (Nat × Nat × Nat)) (a : Nat) : Option Nat × Option Nat :=
  let last (hi : Nat) : Option Nat :=
    (codes.reverse.find? fun p => decide (t.addr + p.1 * t.stride + p.2.1 / 2 = a ∧ p.2.1 % 2 = hi)).map (·.2.2 % 16)
  (last 0, last 1)

/-- The byte writes of stored codes, with the bytes of which only a nibble is written (02 R39; 04 R114; 05 R148). -/
def State.codeWrites (s : State) (c : Nat) (t : SlcStream) (codes : List (Nat × Nat × Nat)) : List (Nat × Byte) × List Nat :=
  if fmtBits t.fmt = 4 then
    let bytes := (codes.map fun p => t.addr + p.1 * t.stride + p.2.1 / 2).eraseDups
    (bytes.map fun a =>
      let old := (s.readByte c a).toNat
      let n := nibblesOf t codes a
      (a, BitVec.ofNat 8 (n.1.getD (old % 16) + 16 * n.2.getD (old / 16))),
     bytes.filter fun a => (nibblesOf t codes a).1.isNone || (nibblesOf t codes a).2.isNone)
  else
    let w := fmtBits t.fmt / 8
    (codes.flatMap fun p => spread (t.addr + p.1 * t.stride + p.2.1 * w) (leBytes w p.2.2), [])

/-- Event counters and VE_STATUS of a core (04 R138, R140). -/
def State.veEvents (s : State) (c : Nat) (e : VEvt) : State :=
  ((s.bumpN (rVeEvtSaturated c) e.sat).bumpN (rVeEvtNanLost c) e.nanLost).bumpN (rVeEvtInvalid c) e.invalid

/-- Is the output a stochastic slice output (04 R126)? -/
def isSr : VOp → Bool
  | .slc t => decide (t.rm = some .sr)
  | _ => false

/-- The result rows of a command written through one output (04 R110, R112, R125). `count r` is VE_ROW_COUNT as row r is
converted. -/
def State.vOut (s : State) (c : Nat) (op : VOp) (x : VCtx) (mz : Bool) (count : Nat → BitVec 40)
    (row : Nat → Nat → VOut) (rows : Nat) : State :=
  let q := s.corePart c
  match op with
  | .slc t =>
    let r := storeAll t q.dkey x mz (fun r j => srDraw q.repro x c (count r) r j) row rows
    let w := s.codeWrites c t r.codes
    let s1 := (s.writeHalf c w.1 w.2).writeAt c (r.scls.map fun p => (p.1, BitVec.ofNat 8 p.2))
    let s2 := s1.veEvents c r.ev
    match t.dig with
    | some n => s2.updCore c fun k => { k with ve := { k.ve with dig := k.ve.dig.set n (k.ve.dig[n] + r.dig) } }
    | none => s2
  | .acb half q0 c1 _ =>
    let h := (s.core c).me.acb[half]
    let cells := (List.range rows).flatMap fun r => (List.range 256).map fun j => (r, j)
    let h1 := cells.foldl (fun (a : AcbHalf) p =>
      let v := row p.1 p.2
      let col := p.2 + if c1 then 256 else 0
      if v.act then a.put a.l512 (q0 + p.1) col (if v.e.poison then f32nan else v.e.bits)
      else if mz then a.put a.l512 (q0 + p.1) col 0 else a) h
    let wrote := (List.range rows).filter fun r => mz || (List.range 256).any fun j => (row r j).act
    let h2 := wrote.foldl (fun (a : AcbHalf) r =>
      a.setRec ((q0 + r) / 16) { a.record ((q0 + r) / 16) with written := true, pass := 0 }) h1
    s.setAcb c half h2
  | .v n =>
    if rows = 0 then s
    else s.updCore c fun k => k.setReg n fun j =>
      let v := row 0 j
      if v.act then v.e else if mz then ⟨0, false⟩ else k.lane n j
  | _ => s

/-- The result rows of a command with one output: where it is a stochastic slice output in fast mode, VE_ROW_COUNT advances by one
a row (04 R126). -/
def State.vOut1 (s : State) (c : Nat) (op : VOp) (x : VCtx) (mz : Bool) (row : Nat → Nat → VOut) (rows : Nat) : State :=
  let n0 := (s.core c).ve.rowCount
  let n := bn (isSr op && !(s.corePart c).repro)
  (s.vOut c op x mz (fun r => n0 + BitVec.ofNat 40 (r * n)) row rows).updCore c fun k =>
    { k with ve := { k.ve with rowCount := n0 + BitVec.ofNat 40 (rows * n) } }

/-! ### Issue checks (04 R139) -/

/-- The register, `rs:` and row-count conditions of an operand (VE_BIND). -/
def bindBad (rows : Nat) (outs : Bool) : VOp → Bool
  | .v _ => decide (rows > 1)
  | .rs _ => outs || decide (rows > 256)
  | .bc _ => outs
  | .scalar _ => outs
  | _ => false

/-- The `rs:` condition of a mask (VE_BIND). -/
def maskBad (rows : Nat) : VMask → Bool
  | .lenRs _ => decide (rows > 256)
  | _ => false

/-- Is an operand that a command declares unbound (VE_BIND)? -/
def unbound (o : VOp) : Bool := decide (o = .none)

/-- Is an operand no slice or ACB stream (VE_BIND)? -/
def notStream : VOp → Bool
  | .slc _ => false
  | .acb _ _ _ _ => false
  | _ => true

/-- The range condition of an operand (VE_RANGE): ACB rows beyond the layout, a stream's alignment. -/
def State.rangeBad (s : State) (c rows : Nat) : VOp → Bool
  | .acb half q _ _ => decide (q + rows > acbRows ((s.core c).me.acb[half]).l512)
  | .slc t => decide (t.addr % vRowBytes t.fmt ≠ 0 ∨ t.stride % vRowBytes t.fmt ≠ 0)
  | _ => false

/-- The format condition of an operand (VE_FORMAT); `out` says that it is an output. -/
def formatBad (out : Bool) : VOp → Bool
  | .acb _ _ _ mods => mods
  | .slc t => (!out && (t.rm.isSome || t.sat.isSome || t.dig.isSome)) ||
      (!fmtIsMx t.fmt && (t.scl.isSome || t.blkCol)) || (fmtIsMx t.fmt && t.scl.isNone)
  | _ => false

/-- The MX shape condition (VE_MX_SHAPE). -/
def shapeBad (rows : Nat) : VOp → Bool
  | .slc t => t.blkCol && decide (rows % 32 ≠ 0)
  | _ => false

/-- The ACB tag condition (VE_ACB_TAG). -/
def State.tagBad (s : State) (c : Nat) : VOp → Bool
  | .acb half _ c1 _ => c1 && !((s.core c).me.acb[half]).l512
  | _ => false

/-- The first failing check over the operands of a command, in the order of 04 R139, after the command's own absent
program and binding conditions. -/
def State.veCheck (s : State) (c rows : Nat) (absent bind format : Bool) (ins outs : List VOp) : Option Nat :=
  if absent then some 0x30
  else if bind || ins.any (bindBad rows false) || outs.any (bindBad rows true) then some 0x31
  else if (ins ++ outs).any (s.rangeBad c rows) || decide (rows > 65535) then some 0x32
  else if format || ins.any (formatBad false) || outs.any (formatBad true) then some 0x33
  else if (ins ++ outs).any (shapeBad rows) then some 0x34
  else if (ins ++ outs).any (s.tagBad c) then some 0x35
  else none

/-- Why a command fails at its issue and has no effect: the first failing check of 04 R139, else the first failing slice
access of its inputs, its mask and its outputs (05 R157, R168; 06 R195). -/
def State.veStop (s : State) (c rows : Nat) (absent bind format : Bool) (ins outs : List VOp) (m : VMask) : Option Bad :=
  match s.veCheck c rows absent (bind || maskBad rows m) format ins outs with
  | some code => some ⟨code, 0⟩
  | none => s.slcCheck c (ins.flatMap (vInRanges rows) ++ vMaskRanges rows m ++ outs.flatMap (vOutRanges rows))

/-- The input reads of a command: granules checked, POISON recorded (04 R140; 05 R149 to R151). -/
def State.veReads (s : State) (c : Nat) (rs : List (Nat × Nat)) : State :=
  (if s.rangesPoisoned c rs then s.setBit (rVeStatus c) 1 else s).touchRanges c rs

/-! ### vx.run (04 R122, R126) -/

/-- vx.run at issue. -/
def State.issueVxRun (s : State) (c : Nat) (e : QEntry) (x : VxRun) : State :=
  let k := s.core c
  let rows := (Opnd.latched x.rows).toNat
  let ins := [x.in0, x.in1, x.in2, x.in3]
  let outs := [x.out0, x.out1]
  let prog := Sparse.get (fun _ => (none : Option EProg)) k.ve.progs x.prog
  let bound (l : List VOp) (n : Nat) : Bool :=
    (List.range l.length).all fun i => decide ((l.getD i .none ≠ .none) = decide (i < n))
  let bindOk := match prog with
    | some p => bound ins p.ins && bound outs p.outs
    | none => true
  match s.veStop c rows prog.isNone (!bindOk) false ins outs x.mask with
  | some code => s.failCmd c .ve e code
  | none =>
    match prog with
    | none => s.failCmd c .ve e ⟨0x30, 0⟩
    | some p =>
      if rows = 0 then s.start c .ve e .timed
      else
        let ctx := k.ve.ctx[x.x]
        let lanes (r j : Nat) : Lane := p.lane (ins.map fun o => s.vIn c o r j) j r
        let act (r j : Nat) : Bool := s.vActive c x.mask r j
        let ev := (List.range rows).foldl (fun a r => (List.range 256).foldl (fun b j =>
          if act r j then b.plus (lanes r j).e else b) a) evt0
        let repro := (s.corePart c).repro
        let n0 := bn (isSr x.out0 && !repro)
        let n1 := bn (isSr x.out1 && !repro)
        let count (i r : Nat) : BitVec 40 := k.ve.rowCount + BitVec.ofNat 40 (r * (n0 + n1) + i)
        let s1 := s.veReads c (ins.flatMap (vInRanges rows) ++ vMaskRanges rows x.mask)
        let s3 := s1.vOut c x.out0 ctx x.mz (count 0) (fun r j => ⟨(lanes r j).o[0], act r j⟩) rows
        let s4 := s3.vOut c x.out1 ctx x.mz (count n0) (fun r j => ⟨(lanes r j).o[1], act r j⟩) rows
        let s5 := s4.updCore c fun k => { k with ve := { k.ve with
          rowCount := k.ve.rowCount + BitVec.ofNat 40 (rows * (n0 + n1)) } }
        (s5.veEvents c ev).start c .ve e .timed

/-! ### Loads, stores and moves (04 R137) -/

/-- vx.ld at issue. -/
def State.issueVxLd (s : State) (c : Nat) (e : QEntry) (vd : VReg) (src : VOp) : State :=
  match s.veStop c 1 false (notStream src) false [src] [] .none with
  | some code => s.failCmd c .ve e code
  | none =>
    ((s.veReads c (vInRanges 1 src)).updCore c fun k => k.setReg vd fun j => s.vIn c src 0 j).start c .ve e .timed

/-- vx.st at issue. -/
def State.issueVxSt (s : State) (c : Nat) (e : QEntry) (x : Fin 8) (mz : Bool) (vs : VReg) (dst : VOp) (m : VMask) :
    State :=
  let k := s.core c
  match s.veStop c 1 false (notStream dst) false [] [dst] m with
  | some code => s.failCmd c .ve e code
  | none =>
    ((s.veReads c (vMaskRanges 1 m)).vOut1 c dst k.ve.ctx[x] mz (fun r j => ⟨k.lane vs j, s.vActive c m r j⟩) 1).start c
      .ve e .timed

/-- A register written in every lane by a function of the lane: vx.bcast, vx.iota, vx.mov. -/
def State.issueVxFill (s : State) (c : Nat) (e : QEntry) (vd : VReg) (f : Core → Nat → Elt) : State :=
  (s.updCore c fun k => k.setReg vd (f k)).start c .ve e .timed

/-- vx.ctx at issue (04 R115). -/
def State.issueVxCtx (s : State) (c : Nat) (e : QEntry) (x : Fin 8) (lo hi erow key : Word) : State :=
  (s.updCore c fun k => { k with ve := { k.ve with ctx := k.ve.ctx.set x ⟨join64 lo hi, erow, key⟩ } }).start c .ve e .timed

/-! ### Reductions and scans (04 R128 to R131) -/

/-- A value that may be absent in the pairwise tree (04 R129). -/
abbrev Node := Option (Word × VEvt)

/-- One node over two children (04 R129). -/
def treeNode (f : Word → Word → URes) (a b : Node) : Node :=
  match a, b with
  | none, _ => b
  | _, none => a
  | some x, some y =>
    let r := f x.1 y.1
    some (r.1, (x.2.plus y.2).plus r.2)

/-- One level of the tree. -/
def treeLevel (f : Word → Word → URes) : List Node → List Node
  | a :: b :: r => treeNode f a b :: treeLevel f r
  | l => l

/-- The root over 256 lanes: eight levels (04 R129). -/
def treeRoot (f : Word → Word → URes) (l : List Node) : Node :=
  ((List.range 8).foldl (fun a _ => treeLevel f a) l).headD none

/-- The addition of a sum (02 R63; 04 R129). An INT32 sum counts SATURATED once at every addition that clamps: R63 says only that a
sum that saturates counts it (log entry 82, DESIGN CHOICE). -/
def redAdd (f32 : Bool) (a b : Word) : URes :=
  if f32 then arith [a, b] (f32add a b)
  else
    let r := satAdd32 a b.toInt
    (r.1, ⟨bn r.2, 0, 0⟩)

/-- The larger of two elements (02 R63). -/
def redMax (f32 : Bool) (a b : Word) : Word := if f32 then f32max a b else if a.toInt < b.toInt then b else a
/-- The smaller of two elements (02 R63). -/
def redMin (f32 : Bool) (a b : Word) : Word := if f32 then f32min a b else if b.toInt < a.toInt then b else a

/-- The position of the extreme value among (position, value), lowest position first; the first NaN where there is one
(02 R63). −0.0 lies below +0.0 here too, an order that R63 gives for the maximum and the minimum alone (log entry 82, DESIGN
CHOICE). -/
def argOf (f32 isMax : Bool) (l : List (Nat × Word)) : Word :=
  match (if f32 then l.find? fun p => f32isNan p.2 else none) with
  | some p => BitVec.ofNat 32 p.1
  | none =>
    let key (w : Word) : Int := if f32 then f32key w else w.toInt
    match l with
    | [] => 0xFFFFFFFF
    | p :: r => BitVec.ofNat 32 (r.foldl (fun a q =>
        if (if isMax then key a.2 < key q.2 else key q.2 < key a.2) then q else a) p).1

/-- What a reduction of one row or lane answers: result, flags of R62, count, events. -/
structure Red where
  w     : Word
  flags : Nat
  count : Nat
  ev    : VEvt
  poison : Bool
  deriving DecidableEq, Repr

/-- The empty result (02 R62). -/
def redEmpty (op : RedOp) (f32 : Bool) : Red :=
  match op with
  | .sum => ⟨0, 1, 0, evt0, false⟩
  | .max => ⟨if f32 then f32ninf else 0x80000000, 1, 0, evt0, false⟩
  | .min => ⟨if f32 then f32inf else 0x7FFFFFFF, 1, 0, evt0, false⟩
  | .argmax => ⟨0xFFFFFFFF, 3, 0, evt0, false⟩
  | .argmin => ⟨0xFFFFFFFF, 3, 0, evt0, false⟩
  | .mean => ⟨0, 1, 0, evt0, false⟩

/-- The sum of the active elements: a tree over lanes, or in ascending rows from +0.0 (04 R129). -/
def redSum (f32 lane : Bool) (l : List (Option Word)) : Word × VEvt :=
  if lane then
    match treeRoot (redAdd f32) (l.map fun o => o.map fun w => (w, evt0)) with
    | some r =>
      let z := redAdd f32 r.1 0
      (z.1, r.2.plus z.2)
    | none => (0, evt0)
  else l.foldl (fun a o => match o with
    | some w =>
      let r := redAdd f32 a.1 w
      (r.1, a.2.plus r.2)
    | none => a) (0, evt0)

/-- A reduction over the elements of one row or lane; none marks a masked one (02 R62, R63; 04 R128). -/
def reduce (op : RedOp) (f32 lane : Bool) (l : List (Option Word)) : Red :=
  let act := l.filterMap id
  let n := act.length
  if n = 0 then redEmpty op f32
  else
    let pos := ((List.range l.length).zip l).filterMap fun p => p.2.map fun w => (p.1, w)
    match op with
    | .sum => let r := redSum f32 lane l
        ⟨r.1, 0, n, r.2, false⟩
    | .max => ⟨act.foldl (redMax f32) (if f32 then f32ninf else 0x80000000), 0, n, evt0, false⟩
    | .min => ⟨act.foldl (redMin f32) (if f32 then f32inf else 0x7FFFFFFF), 0, n, evt0, false⟩
    | .argmax => ⟨argOf f32 true pos, 0, n, evt0, false⟩
    | .argmin => ⟨argOf f32 false pos, 0, n, evt0, false⟩
    | .mean => let r := redSum f32 lane l
        ⟨if f32 then f32div r.1 (rne32 (fOfInt n)) else Config.meanI32 r.1 n, 0, n, r.2, false⟩

/-- A reduction of elements with poison marks: the mark spreads (04 R140). -/
def reduceElts (op : RedOp) (f32 lane : Bool) (l : List (Option Elt)) : Red :=
  let r := reduce op f32 lane (l.map fun o => o.map (·.bits))
  { r with poison := l.any fun o => (o.map (·.poison)).getD false }

/-- `.acc` (04 R130): the lane combined with the new result. -/
def redAcc (op : RedOp) (f32 : Bool) (old : Elt) (r : Red) : Elt × VEvt :=
  let v := match op with
    | .max => plain (redMax f32 old.bits r.w)
    | .min => plain (redMin f32 old.bits r.w)
    | _ => redAdd f32 old.bits r.w
  (⟨v.1, old.poison || r.poison⟩, v.2)

/-- vx.red at issue (04 R128 to R130). -/
def State.issueVxRed (s : State) (c : Nat) (e : QEntry) (x : VxRed) : State :=
  let rows := (Opnd.latched x.rows).toNat
  let fmtBad := (x.acc && decide (x.op ≠ .sum ∧ x.op ≠ .max ∧ x.op ≠ .min)) || (decide (x.op = .mean) && x.vc.isNone)
  match s.veStop c rows false (notStream x.src || (x.lane && decide (rows > 256))) fmtBad [x.src] [] x.mask with
  | some code => s.failCmd c .ve e code
  | none =>
    let elt (r j : Nat) : Option Elt := if s.vActive c x.mask r j then some (s.vIn c x.src r j) else none
    let one (i : Nat) : Red :=
      if x.lane then reduceElts x.op x.f32 true ((List.range 256).map fun j => elt i j)
      else reduceElts x.op x.f32 false ((List.range rows).map fun r => elt r i)
    let targets := List.range (if x.lane then rows else 256)
    let put (a : Core × VEvt) (i : Nat) : Core × VEvt :=
      let r := one i
      let k := a.1
      let keep := x.acc && decide (r.count = 0)
      let v := if x.acc then redAcc x.op x.f32 (k.lane x.vd i) r else (⟨r.w, r.poison⟩, evt0)
      let k1 := if keep then k else k.setLane x.vd i v.1
      let k2 := match x.vf with
        | some f => if keep then k1
            else k1.setLane f i ⟨if x.acc then (k.lane f i).bits &&& 0xFFFFFFFE else BitVec.ofNat 32 r.flags, false⟩
        | none => k1
      let k3 := match x.vc with
        | some f => k2.setLane f i ⟨BitVec.ofNat 32 r.count, false⟩
        | none => k2
      (k3, (a.2.plus r.ev).plus (if keep then evt0 else v.2))
    let s1 := s.veReads c (vInRanges rows x.src ++ vMaskRanges rows x.mask)
    let r := targets.foldl put (s1.core c, evt0)
    ((s1.setCore c r.1).veEvents c r.2).start c .ve e .timed

/-- A running scan: the values written at each position, and the events (04 R131). -/
def scanRun (op : ScanOp) (f32 excl : Bool) (l : List (Option Elt)) : List Elt × VEvt :=
  let start : Elt := ⟨match op with
    | .sum => 0
    | .max => if f32 then f32ninf else 0x80000000
    | .min => if f32 then f32inf else 0x7FFFFFFF, false⟩
  let step (a : Elt × VEvt) (o : Option Elt) : Elt × VEvt :=
    match o with
    | none => a
    | some w =>
      let r := match op with
        | .sum => redAdd f32 a.1.bits w.bits
        | .max => plain (redMax f32 a.1.bits w.bits)
        | .min => plain (redMin f32 a.1.bits w.bits)
      (⟨r.1, a.1.poison || w.poison⟩, a.2.plus r.2)
  let r := l.foldl (fun (a : List Elt × (Elt × VEvt)) o =>
    let nx := step a.2 o
    (a.1 ++ [if excl then a.2.1 else nx.1], nx)) ([], (start, evt0))
  (r.1, r.2.2)

/-- vx.scan at issue (04 R131). -/
def State.issueVxScan (s : State) (c : Nat) (e : QEntry) (x : VxScan) : State :=
  let rows := (Opnd.latched x.rows).toNat
  match s.veStop c rows false (notStream x.src || notStream x.dst) false [x.src] [x.dst] x.mask with
  | some code => s.failCmd c .ve e code
  | none =>
    let elt (r j : Nat) : Option Elt := if s.vActive c x.mask r j then some (s.vIn c x.src r j) else none
    let runs := if x.lane then (List.range rows).map fun r => scanRun x.op x.f32 x.excl ((List.range 256).map (elt r))
      else (List.range 256).map fun j => scanRun x.op x.f32 x.excl ((List.range rows).map fun r => elt r j)
    let val (r j : Nat) : Elt :=
      if x.lane then ((runs.getD r ([], evt0)).1).getD j ⟨0, false⟩
      else ((runs.getD j ([], evt0)).1).getD r ⟨0, false⟩
    let ev := runs.foldl (fun a r => a.plus r.2) evt0
    let s1 := s.veReads c (vInRanges rows x.src ++ vMaskRanges rows x.mask)
    let s2 := s1.vOut1 c x.dst (s.core c).ve.ctx[(0 : Fin 8)] false (fun r j => ⟨val r j, true⟩) rows
    (s2.veEvents c ev).start c .ve e .timed

/-! ### Online softmax (02 R64, R65; 04 R132 to R134) -/

/-- The statistics of a row or part of one: maximum and sum. -/
structure Stat where
  m : Elt
  s : Elt
  deriving DecidableEq, Repr

/-- A binary operation of a softmax command, an invalid one counted (04 R121). -/
def smOp (f : Word → Word → Word) (a b : URes) : URes :=
  let r := arith [a.1, b.1] (f a.1 b.1)
  (r.1, (a.2.plus b.2).plus r.2)

/-- fexp of a result. -/
def smExp (a : URes) : URes := (uFexp a.1, a.2)

/-- The rescale factor fexp(rne32(mi − m)); +0.0 where mi is −infinity (04 R133). -/
def smFactor (mi m : Word) : URes := if mi = f32ninf then plain 0 else smExp (smOp f32sub (plain mi) (plain m))

/-- Two partial statistics merged, with the two rescale factors (02 R65; 04 R133) and the events. -/
def smMerge (a b : Stat) : Stat × (Word × Word) × VEvt :=
  let poison := a.m.poison || a.s.poison || b.m.poison || b.s.poison
  if a.m.bits = f32ninf ∧ b.m.bits = f32ninf then (⟨⟨f32ninf, poison⟩, ⟨0, poison⟩⟩, (0, 0), evt0)
  else
    let m := f32max a.m.bits b.m.bits
    let fa := smFactor a.m.bits m
    let fb := smFactor b.m.bits m
    if a.m.bits = f32ninf then (b, (fa.1, fb.1), fb.2)
    else if b.m.bits = f32ninf then (a, (fa.1, fb.1), fa.2)
    else
      let r := smOp f32add (smOp f32mul (plain a.s.bits) fa) (smOp f32mul (plain b.s.bits) fb)
      (⟨⟨m, poison⟩, ⟨r.1, poison⟩⟩, (fa.1, fb.1), r.2)

/-- The statistics of one row over its active lanes, with the invalid operations (04 R121, R132): those of a row that holds +infinity
are the canonical NaN, both. -/
def smRow (l : List (Option Elt)) : Stat × VEvt :=
  let r := reduceElts .max true true l
  if r.count = 0 ∨ r.w = f32ninf then (⟨⟨f32ninf, r.poison⟩, ⟨0, r.poison⟩⟩, evt0)
  else
    let terms := l.map fun o => o.map fun x => smExp (smOp f32sub (plain x.bits) (plain r.w))
    let sum := redSum true true (terms.map fun o => o.map (·.1))
    let ev := terms.foldl (fun a o => a.plus ((o.map (·.2)).getD evt0)) sum.2
    (⟨⟨if r.w = f32inf then f32nan else r.w, r.poison⟩, ⟨sum.1, r.poison⟩⟩, ev)

/-- Statistics merged into those of the rows before (02 R65; 04 R132): where either is empty the other is kept, and no operation takes
place. -/
def smStatMerge (a b : Stat) : Stat × VEvt :=
  let t := smMerge a b
  (t.1, if a.m.bits = f32ninf ∨ b.m.bits = f32ninf then evt0 else t.2.2)

/-- vx.sm.stat at issue (04 R132). -/
def State.issueVxSmStat (s : State) (c : Nat) (e : QEntry) (vm vs : VReg) (src : VOp) (rows : Word) (m : VMask) : State :=
  let n := rows.toNat
  match s.veStop c n false (unbound src || decide (n > 256)) false [src] [] m with
  | some code => s.failCmd c .ve e code
  | none =>
    let s1 := s.veReads c (vInRanges n src ++ vMaskRanges n m)
    let k := (List.range n).foldl (fun (k : Core × VEvt) r =>
      let new := smRow ((List.range 256).map fun j => if s.vActive c m r j then some (s.vIn c src r j) else none)
      let t := smStatMerge ⟨k.1.lane vm r, k.1.lane vs r⟩ new.1
      ((k.1.setLane vm r t.1.m).setLane vs r t.1.s, (k.2.plus new.2).plus t.2)) (s1.core c, evt0)
    ((s1.setCore c k.1).veEvents c k.2).start c .ve e .timed

/-- vx.sm.merge at issue (04 R133). -/
def State.issueVxSmMerge (s : State) (c : Nat) (e : QEntry) (vm vs vm2 vs2 va1 va2 : VReg) : State :=
  let k0 := s.core c
  let k := (List.range 256).foldl (fun (k : Core × VEvt) j =>
    let a : Stat := ⟨k0.lane vm j, k0.lane vs j⟩
    let b : Stat := ⟨k0.lane vm2 j, k0.lane vs2 j⟩
    let t := smMerge a b
    let p := a.m.poison || b.m.poison
    ((((k.1.setLane vm j t.1.m).setLane vs j t.1.s).setLane va1 j ⟨t.2.1.1, p⟩).setLane va2 j ⟨t.2.1.2, p⟩, k.2.plus t.2.2))
    (k0, evt0)
  ((s.setCore c k.1).veEvents c k.2).start c .ve e .timed

/-- The normalised probability of an element (04 R134). -/
def smNorm (act : Bool) (x m d : Elt) : Elt × VEvt :=
  let p := x.poison || m.poison || d.poison
  if !act ∨ m.bits = f32ninf ∨ x.bits = f32ninf then (⟨0, act && p⟩, evt0)
  else
    let r := smOp f32mul (smExp (smOp f32sub (plain x.bits) (plain m.bits))) (plain (uFrcp d.bits))
    (⟨r.1, p⟩, r.2)

/-- The final value of an element (04 R134). -/
def smFinal (x d : Elt) : Elt × VEvt :=
  if d.bits = 0 then (⟨0, d.poison⟩, evt0)
  else
    let r := smOp f32mul (plain x.bits) (plain (uFrcp d.bits))
    (⟨r.1, x.poison || d.poison⟩, r.2)

/-- The log-sum-exp of a row (04 R134). -/
def smLse (m d : Elt) : Elt × VEvt :=
  if m.bits = f32ninf then (⟨f32ninf, m.poison⟩, evt0)
  else
    let r := smOp f32add (plain m.bits) (uFlog d.bits)
    (⟨r.1, m.poison || d.poison⟩, r.2)

/-- The events of `rows` rows of 256 elements. -/
def rowEvents (rows : Nat) (ev : Nat → Nat → VEvt) : VEvt :=
  (List.range rows).foldl (fun a r => (List.range 256).foldl (fun b j => b.plus (ev r j)) a) evt0

/-- vx.sm.norm at issue: every lane of every row is written (04 R134). -/
def State.issueVxSmNorm (s : State) (c : Nat) (e : QEntry) (dst src : VOp) (vm vs : VReg) (rows : Word) (m : VMask) :
    State :=
  let n := rows.toNat
  match s.veStop c n false (unbound src || unbound dst || decide (n > 256)) false [src] [dst] m with
  | some code => s.failCmd c .ve e code
  | none =>
    let k := s.core c
    let val (r j : Nat) : Elt × VEvt := smNorm (s.vActive c m r j) (s.vIn c src r j) (k.lane vm r) (k.lane vs r)
    let s1 := s.veReads c (vInRanges n src ++ vMaskRanges n m)
    let s2 := s1.vOut1 c dst k.ve.ctx[(0 : Fin 8)] false (fun r j => ⟨(val r j).1, true⟩) n
    (s2.veEvents c (rowEvents n fun r j => (val r j).2)).start c .ve e .timed

/-- vx.sm.final at issue (04 R134). -/
def State.issueVxSmFinal (s : State) (c : Nat) (e : QEntry) (dst src : VOp) (vs : VReg) (rows : Word) : State :=
  let n := rows.toNat
  match s.veStop c n false (unbound src || unbound dst || decide (n > 256)) false [src] [dst] .none with
  | some code => s.failCmd c .ve e code
  | none =>
    let k := s.core c
    let val (r j : Nat) : Elt × VEvt := smFinal (s.vIn c src r j) (k.lane vs r)
    let s1 := (s.veReads c (vInRanges n src)).vOut1 c dst k.ve.ctx[(0 : Fin 8)] false (fun r j => ⟨(val r j).1, true⟩) n
    (s1.veEvents c (rowEvents n fun r j => (val r j).2)).start c .ve e .timed

/-- vx.sm.lse at issue (04 R134). -/
def State.issueVxSmLse (s : State) (c : Nat) (e : QEntry) (vd vm vs : VReg) : State :=
  let k := s.core c
  let val (j : Nat) : Elt × VEvt := smLse (k.lane vm j) (k.lane vs j)
  ((s.updCore c fun k => k.setReg vd fun j => (val j).1).veEvents c (rowEvents 1 fun _ j => (val j).2)).start c .ve e .timed

/-! ### Digest posts (04 R136; 12 R350) -/

/-- The ports of an endpoint (09 R266): the PG and the reel engines have four. Port n of an endpoint is keyed ID + 0x1000 × n. -/
def portsOf (ep : Nat) : List Nat := (List.range (if 0x101 ≤ ep ∧ ep ≤ 0x103 then 4 else 1)).map fun n => ep + 0x1000 * n

/-- The packets that wait at a port. -/
def State.waitingAt (s : State) (port : Nat) : List Packet := Sparse.get (fun _ => []) s.drift.waiting port

/-- The port of an endpoint at which the fewest packets wait, the first of them (log entry 25). -/
def State.portFor (s : State) (ep : Nat) : Nat :=
  (portsOf ep).foldl (fun m k => if (s.waitingAt k).length < (s.waitingAt m).length then k else m) ep

/-- A packet offered at a port of its endpoint, numbered for its pair (09 R267, R269, R270). -/
def State.offer (s : State) (p : Packet) : State :=
  let key := p.src * 65536 + p.dst
  let seq := Sparse.get (fun _ => (0 : BitVec 16)) s.drift.seqs key
  let port := s.portFor p.src
  { s with drift := { s.drift with
      seqs := Sparse.set (fun _ => 0) s.drift.seqs key (seq + 1)
      waiting := Sparse.set (fun _ => []) s.drift.waiting port (s.waitingAt port ++ [{ p with seq := seq }]) } }

/-- A payload padded to 48 bytes (09 R267). -/
def pad48 (bs : List Byte) : List Byte := (bs ++ List.replicate 48 0).take 48

/-- vx.dig.post at issue (04 R136; 12 R350): the slot is sent to the DG and set to zero. -/
def State.issueVxDigPost (s : State) (c : Nat) (e : QEntry) (n : Fin 8) (layer tensor : BitVec 16) : State :=
  let k := s.core c
  let body := leBytes 8 (k.ve.dig[n]).toNat ++ leBytes 6 s.beat.bno.toNat ++ leBytes 2 s.beat.period.toNat
    ++ leBytes 2 layer.toNat ++ leBytes 2 tensor.toNat
  let p : Packet := ⟨0x109, c, 0x01, (s.corePart c).secure, false, true, 0, 0, 0, 48, s.partNo c, 0, pad48 body⟩
  ((s.offer p).updCore c fun k => { k with ve := { k.ve with dig := k.ve.dig.set n 0 } }).start c .ve e .timed

end Sys2Proof.Machine
end

