-- ==== Sys2Proof/Machine/Drift.lean ====
section
/-! DEFINITION. The drift network: routers, endpoints, mailboxes (09 R265 to R275). -/

namespace Sys2Proof.Machine

open Sys2Proof

/-- The drift cycle count, as the 16 bits that packets carry (09 R265, R267): no load of TC changes it. -/
def State.driftNow (s : State) : BitVec 16 := driftCyc s.tb.tc + s.drift.ahead

/-- The router an endpoint attaches to (09 R266): a core's own position, or the outer corner of the unit's region. -/
def State.driftHome (s : State) (ep : Nat) : Nat × Nat :=
  if ep < 0x100 then (ep % 16, s.physRow (ep % 16) (ep / 16))
  else if ep = 0x100 ∨ (0x104 ≤ ep ∧ ep ≤ 0x109) then (15, 0)
  else if 0x101 ≤ ep ∧ ep ≤ 0x103 then (0, 15)
  else if 0x10A ≤ ep ∧ ep ≤ 0x10D then (0, 0)
  else (15, 15)

/-- A router. -/
def State.router (s : State) (px py : Nat) : Router := Sparse.get (fun _ => Router.reset) s.drift.routers (py * 16 + px)

/-- The state with a router replaced. -/
def State.setRouter (s : State) (px py : Nat) (r : Router) : State :=
  { s with drift := { s.drift with routers := Sparse.set (fun _ => Router.reset) s.drift.routers (py * 16 + px) r } }

/-- The packets of a port outstanding. -/
def State.outstAt (s : State) (port : Nat) : Nat := Sparse.get (fun _ => 0) s.drift.outst port
/-- An endpoint's mailbox. -/
def State.mailAt (s : State) (ep : Nat) : List Packet := Sparse.get (fun _ => []) s.drift.mail ep

/-- The state with a port's waiting packets replaced. -/
def State.setWaiting (s : State) (ep : Nat) (q : List Packet) : State :=
  { s with drift := { s.drift with waiting := Sparse.set (fun _ => []) s.drift.waiting ep q } }
/-- The state with a port's outstanding count replaced. -/
def State.setOutst (s : State) (ep n : Nat) : State :=
  { s with drift := { s.drift with outst := Sparse.set (fun _ => 0) s.drift.outst ep n } }
/-- The state with an endpoint's mailbox replaced. -/
def State.setMail (s : State) (ep : Nat) (q : List Packet) : State :=
  { s with drift := { s.drift with mail := Sparse.set (fun _ => []) s.drift.mail ep q } }

/-- The age of a packet (09 R268). -/
def Packet.age (p : Packet) (now : BitVec 16) : Nat := (now - p.injTime).toNat

/-- Is a packet visited before another (09 R268)? -/
def Packet.before (now : BitVec 16) (p q : Packet) : Bool :=
  if p.age now ≠ q.age now then decide (q.age now < p.age now)
  else if p.src ≠ q.src then decide (p.src < q.src) else decide (p.seq.toNat < q.seq.toNat)

/-- A packet put into its place in visiting order. -/
def insertPacket (now : BitVec 16) (p : Packet) : List Packet → List Packet
  | [] => [p]
  | x :: r => if p.before now x then p :: x :: r else x :: insertPacket now p r

/-- Does output 0 N, 1 E, 2 S or 3 W of a router lead to another router? -/
def driftEdge (px py out : Nat) : Bool :=
  if out = 0 then decide (0 < py) else if out = 1 then decide (px < 15) else if out = 2 then decide (py < 15)
  else decide (0 < px)

/-- Does an output shorten the path to a router? -/
def productive (px py dx dy out : Nat) : Bool :=
  if out = 0 then decide (dy < py) else if out = 1 then decide (px < dx) else if out = 2 then decide (py < dy)
  else decide (dx < px)

/-- The output a packet takes (09 R268): of the free productive ones the emptier, on a tie east or west; else of the free
others the emptiest, in the order N, E, S, W. -/
def chooseOut (r : Router) (px py dx dy : Nat) : Option Nat :=
  let len (o : Nat) : Nat := (r.outs.toList.getD o []).length
  let free := [0, 1, 2, 3].filter fun o => driftEdge px py o && decide (len o < 2)
  let least (l : List Nat) : Option Nat := l.foldl (fun m o => match m with
    | some b => if len o < len b then some o else m
    | none => some o) none
  (least ([1, 3, 0, 2].filter fun o => free.contains o && productive px py dx dy o)).orElse fun _ =>
    least (free.filter fun o => !productive px py dx dy o)

/-- An output queue of a router replaced. -/
def Router.setOut (r : Router) (o : Nat) (q : List Packet) : Router :=
  if h : o < 4 then { r with outs := r.outs.set o q } else r

/-- An input of a router replaced. -/
def Router.setIn (r : Router) (i : Nat) (p : Option Packet) : Router :=
  if h : i < 4 then { r with ins := r.ins.set i p } else r

/-- A packet ejected by its router: on its way into the endpoint's mailbox (09 R268). -/
def State.ejected (s : State) (p : Packet) : State :=
  let q := Sparse.get (fun _ => []) s.drift.arrived p.dst
  { s with drift := { s.drift with arrived := Sparse.set (fun _ => []) s.drift.arrived p.dst (q ++ [p]) } }

/-- A packet placed (09 R268), with the ejections left in this cycle; none where no entry is free. -/
def State.place (s : State) (px py : Nat) (p : Packet) (ejects : Nat) : Option (State × Nat) :=
  let d := s.driftHome p.dst
  if d = (px, py) ∧ 0 < ejects then some (s.ejected p, ejects - 1)
  else
    let r := s.router px py
    match chooseOut r px py d.1 d.2 with
    | some o => some (s.setRouter px py (r.setOut o (r.outs.toList.getD o [] ++ [{ p with hops := min 255 (p.hops + 1) }])), ejects)
    | none => none

/-- The arrived packets placed one after another; those without an entry stay on their inputs. -/
def State.placeAll (s : State) (px py : Nat) : List (Nat × Packet) → Nat → State × Nat
  | [], n => (s, n)
  | (i, p) :: r, n =>
    let t := s.setRouter px py ((s.router px py).setIn i none)
    match t.place px py p n with
    | some (u, m) => State.placeAll u px py r m
    | none => State.placeAll s px py r n

/-- The endpoints at a router, by ID (09 R266). -/
def State.endpointsAt (s : State) (px py : Nat) : List Nat :=
  ((List.range 0x100).filter (fun c => s.coreExists c) ++ (List.range 0x18).map (0x100 + ·)).filter
    fun ep => decide (s.driftHome ep = (px, py))

/-- The ports at a router, from the one after the port injected from last, round to it: none is starved (09 R272; log entry
25). -/
def State.portsAt (s : State) (px py : Nat) : List Nat :=
  let all := (s.endpointsAt px py).flatMap portsOf
  let last := (s.router px py).last
  (all.filter fun k => decide (last < k)) ++ all.filter fun k => decide (k ≤ last)

/-- May a port's oldest waiting packet be injected: at most 8 of its packets outstanding (09 R269)? -/
def State.mayInject (s : State) (port : Nat) : Bool :=
  match s.waitingAt port with
  | p :: _ => !p.cplReq || decide (s.outstAt port < 8)
  | [] => false

/-- One packet offered at a router is injected where an entry remains (09 R267 to R269). -/
def State.inject (s : State) (px py ejects : Nat) : State :=
  match (s.portsAt px py).find? fun port => s.mayInject port with
  | none => s
  | some port =>
    match s.waitingAt port with
    | [] => s
    | p :: r =>
      match s.place px py { p with injTime := s.driftNow } ejects with
      | none => s
      | some (t, _) =>
        let t1 := (t.setWaiting port r).setRouter px py { t.router px py with last := port }
        let t2 := if p.cplReq then t1.setOutst port (t1.outstAt port + 1) else t1
        if port < 0x100 then t2.wr (rDriftTxCount port) (t2.rd (rDriftTxCount port) + 1) else t2

/-- Each output sends its oldest packet to the neighbour's input, where that is empty (09 R265, R268). -/
def State.drain (s : State) (px py : Nat) : State :=
  [0, 1, 2, 3].foldl (fun t o =>
    let r := t.router px py
    let q := r.outs.toList.getD o []
    let nx := if o = 1 then px + 1 else if o = 3 then px - 1 else px
    let ny := if o = 0 then py - 1 else if o = 2 then py + 1 else py
    let i := (o + 2) % 4
    match q with
    | [] => t
    | p :: rest =>
      if (((t.router nx ny).ins.toList.getD i none).isNone) then
        let t1 := t.setRouter px py (r.setOut o rest)
        t1.setRouter nx ny ((t1.router nx ny).setIn i (some p))
      else t) s

/-- The virtual core at a physical position, where the position is enabled (01 R21). -/
def State.coreAt (s : State) (px py : Nat) : Option Nat :=
  (List.range s.rows).findSome? fun y => if s.physRow px y = py then some (y * 16 + px) else none

/-- A bit error found by a router on one of its inputs (09 R273): corrected and counted; in the payload the packet is marked
poisoned; in the header it is discarded and the device faults until a reset. -/
def State.driftUpset (s : State) (px py : Nat) (u : DriftUpset) : State :=
  let r := s.router px py
  match r.ins.toList.getD u.input.val none with
  | none => s
  | some p =>
    if u.correctable then
      match s.coreAt px py with
      | some c => (s.setBit (rDriftStatus c) 5).bump (rDriftCeCount c)
      | none => s
    else if u.header then
      let s1 := s.setRouter px py (r.setIn u.input.val none)
      let s2 := { s1 with drift := { s1.drift with hdrFault := true } }
      ((s2.event 0x80 13 0xFF 0xFF 0xFFFF (BitVec.ofNat 32 (py * 16 + px))).alert 6).failBeat
    else s.setRouter px py (r.setIn u.input.val (some { p with poison := true }))

/-- DRIFT_ROUTER_CYCLE: one cycle of a router (09 R268, R273). -/
def execDriftRouterCycle (px py : Fin 16) (upset : Option DriftUpset) (s : State) : Res :=
  let s1 := match upset with
    | some u => s.driftUpset px.val py.val u
    | none => s
  let now := s.driftNow
  let arrived := [0, 1, 2, 3].filterMap fun i => ((s1.router px.val py.val).ins.toList.getD i none).map fun p => (i, p)
  let order := arrived.foldl (fun (l : List Packet) x => insertPacket now x.2 l) []
  let sorted := order.filterMap fun p => arrived.find? fun x => decide (x.2 = p)
  let q := s1.placeAll px.val py.val sorted 2
  .next ((q.1.inject px.val py.val q.2).drain px.val py.val)

/-- The period in which a packet was injected, by its age: the current one, or the one before (09 R268; 12 R351). -/
def State.injPeriod (s : State) (p : Packet) : Nat :=
  let began := s.beat.startTc.toNat + s.beat.period.toNat * (s.rd rTbBeatLen).toNat
  if p.age s.driftNow ≤ (s.tb.tc.toNat - began) * 3 / 2 then s.beat.period.toNat else s.beat.period.toNat - 1

/-- A completion of a packet that has been taken; one with poison status where the packet was poisoned (09 R269, R273; log entry
25). -/
def State.answer (s : State) (p : Packet) : State :=
  if p.cplReq then
    s.offer ⟨p.src, p.dst, 0xFF, p.secure, p.poison, false, 0, 0, p.tag, 0, p.part, 0, List.replicate 48 0⟩
  else s

/-- The oldest packet of a unit's mailbox is taken, and completed where that was asked (09 R269). -/
def State.takeMail (s : State) (ep : Nat) : Option (Packet × State) :=
  match s.mailAt ep with
  | [] => none
  | p :: r => some (p, (s.setMail ep r).answer p)

/-- Has the unit commands of its own for its mail: RT, PG, SU, DG? -/
def hasMailbox (ep : Nat) : Bool := decide (ep = 0x100 ∨ ep = 0x101 ∨ (0x104 ≤ ep ∧ ep ≤ 0x107) ∨ ep = 0x109)

/-- A completion or response closes one of the requests of its endpoint (09 R269). -/
def State.closeRequest (s : State) (ep : Nat) : State :=
  match (portsOf ep).find? fun k => decide (0 < s.outstAt k) with
  | some k => s.setOutst k (s.outstAt k - 1)
  | none => s

/-- A packet that its receiver applies itself: a completion or response closes a request, any other is answered (09 R269). -/
def State.apply (s : State) (p : Packet) : State :=
  if p.kind = 0xFF ∨ p.kind = 0xFE then s.closeRequest p.dst else s.answer p

/-- The packets held for a pair that are next in sequence are taken, one after another (09 R270). -/
def State.takeEarly (s : State) (key : Nat) : Nat → State
  | 0 => s
  | fuel + 1 =>
    let q := Sparse.get (fun _ => ([] : List Packet)) s.drift.early key
    let want := Sparse.get (fun _ => (0 : BitVec 16)) s.drift.expect key
    match q.find? fun p => decide (p.seq = want) with
    | none => s
    | some p =>
      let s1 := { s with drift := { s.drift with
        early := Sparse.set (fun _ => []) s.drift.early key (q.filter fun x => decide (x.seq ≠ want))
        expect := Sparse.set (fun _ => 0) s.drift.expect key (want + 1) } }
      State.takeEarly (s1.apply p) key fuel

/-- A packet at a receiver that applies them in order: held until every earlier sequence number of its pair has arrived (09
R270). -/
def State.holdEarly (s : State) (p : Packet) : State :=
  let key := p.src * 65536 + p.dst
  let q := Sparse.get (fun _ => []) s.drift.early key ++ [p]
  State.takeEarly { s with drift := { s.drift with early := Sparse.set (fun _ => []) s.drift.early key q } } key q.length

/-- DRIFT_PACKET_EJECT: an ejected packet reaches its endpoint: it is counted, a completion or response closes the request it
answers, and any other enters the mailbox; a unit whose chapter defines no message takes it at once; a receiver that applies
packets in order takes every kind so (09 R269 to R271, R275). -/
def execDriftPacketEject (ep : Nat) (s : State) : Res :=
  match Sparse.get (fun _ => []) s.drift.arrived ep with
  | [] => .next s
  | p :: r =>
    let key := p.src * 65536 + p.dst
    let n := Sparse.get (fun _ => (0 : Word)) s.drift.counts key
    let s1 := { s with drift := { s.drift with
      arrived := Sparse.set (fun _ => []) s.drift.arrived ep r
      counts := Sparse.set (fun _ => 0) s.drift.counts key (n + 1) } }
    let age := p.age s.driftNow
    let s2 :=
      if ep < 0x100 then
        let t := s1.wr (rDriftRxCount ep) (s1.rd (rDriftRxCount ep) + 1)
        let u := if fld (t.rd (rDriftMaxLat ep)) 0 16 < age then t.wrF (rDriftMaxLat ep) 0 16 age else t
        if p.poison then u.setBit (rDriftStatus ep) 6 else u
      else s1
    if takesInOrder ep then .next (s2.holdEarly p)
    else if hasMailbox ep ∧ p.kind ≠ 0xFF ∧ p.kind ≠ 0xFE then .next (s2.setMail ep (s2.mailAt ep ++ [p]))
    else .next (s2.apply p)

end Sys2Proof.Machine
end

