-- ==== Sys2Proof/Machine/Regs.lean ====
section
/-! DEFINITION. What a read of a register returns, and the write of a register by its fields' types (00 R13 to R17;
16 R446 to R448). A fact that another part of the state holds is computed from there when the register is read. -/

namespace Sys2Proof.Machine

open Sys2Proof

/-! ### Records read as words -/

/-- The words of bytes, little-endian. -/
def wordsOf (bs : List Byte) (n : Nat) : List Word :=
  (List.range n).map fun i => BitVec.ofNat 32 (leAt bs (4 * i) 4)

/-- The code of an entry state (13 R357). -/
def EState.code : EState → Nat
  | .free => 0
  | .queued => 1
  | .admitted => 2
  | .running => 3
  | .parked => 4
  | .reeling => 5
  | .done => 6
  | .failed => 7

/-- The code of a partition state (07 R217). -/
def PState.code : PState → Nat
  | .free => 0
  | .idle => 1
  | .starting => 2
  | .running => 3
  | .halted => 4

/-- The sixteen words of a request entry (13 R357), with the length and the first block of the page list that the anchor
holds for it (14 R389). -/
def Ent.words (e : Ent) (pages head : Nat) : List Word :=
  let w (n : Nat) : Word := BitVec.ofNat 32 n
  let p := (if e.st = .free then 0 else head) + pages * 2 ^ 20 + (e.slab.getD 0xFFFFFF) * 2 ^ 40
  [w (e.st.code + e.prio * 8 + bn e.nowait * 64 + bn e.keep * 128 + bn e.topkEn * 256 + e.spec * 512 + e.reason * 2 ^ 14
      + e.client * 2 ^ 19 + bn e.cancel * 2 ^ 31),
    w (e.slot.getD 0x7FF + e.qseq % 2 ^ 20 * 2 ^ 11 + bn e.tailgen * 2 ^ 31), w e.length, w e.done, w e.maxNew, w e.gen,
    w p, w (p / 2 ^ 32), lo32 e.deadline, hi32 e.deadline, lo32 e.seed, hi32 e.seed, lo32 e.key, hi32 e.key,
    w (e.adapter + e.temp.toNat * 2 ^ 16),
    w (e.topP.toNat + e.topK.toNat * 2 ^ 16 + bn e.tokgap * 2 ^ 24 + bn e.bidir * 2 ^ 25 + bn e.noattend * 2 ^ 26)]

/-- The sixteen words of a client record (13 R363). -/
def Cli.words (c : Cli) : List Word :=
  let w (n : Nat) : Word := BitVec.ofNat 32 n
  [lo32 c.balance, hi32 c.balance, lo32 c.reserved, hi32 c.reserved, lo32 c.spent, hi32 c.spent, lo32 c.refilled,
    hi32 c.refilled, lo32 c.burst, hi32 c.burst, c.rate, c.window, lo32 c.next, hi32 c.next,
    w (c.prioCap + bn c.world * 8 + bn c.valid * 16), w (c.experts + c.adapters * 2 ^ 16)]

/-- The bytes of a fault and event record (16 R469). -/
def Evt.bytes (e : Evt) (seq : Word) : List Byte :=
  leBytes 4 seq.toNat ++ leBytes 1 e.code ++ leBytes 1 e.unit ++ leBytes 1 e.eng ++ leBytes 1 e.part ++ leBytes 2 e.core
    ++ leBytes 2 e.count ++ leBytes 6 e.bno.toNat ++ leBytes 2 0 ++ leBytes 4 e.arg.toNat ++ leBytes 8 e.tc.toNat

/-- The bytes of a digest record (12 R352). -/
def DgRec.bytes (r : DgRec) : List Byte :=
  leBytes 8 r.digest.toNat ++ leBytes 6 r.bno.toNat ++ leBytes 2 r.layer ++ leBytes 2 r.tensor ++ leBytes 2 r.posts
    ++ leBytes 1 0 ++ leBytes 1 r.flags ++ leBytes 2 r.group ++ leBytes 4 r.seq.toNat ++ leBytes 4 0

/-- The words of a fault and event record slot of the ring (16 R477). -/
def State.evtWords (s : State) (i : Nat) : List Word :=
  match Sparse.get (fun _ => none) s.sc.evts i with
  | some (seq, e) => wordsOf (e.bytes seq) 8
  | none => []

/-- The words of a change-log slot of the ring (16 R466, R477). -/
def State.logWords (s : State) (i : Nat) : List Word :=
  match Sparse.get (fun _ => none) s.sc.logs i with
  | some (seq, r, ch) => wordsOf (logBytes seq r ++ ch) 16
  | none => []

/-- The words of a digest record slot of the ring (12 R354). -/
def State.dgWords (s : State) (i : Nat) : List Word :=
  match Sparse.get (fun _ => none) s.dg.log i with
  | some r => wordsOf r.bytes 8
  | none => []

/-! ### Views -/

/-- DEVICE_ID: the first 8 bytes of SM3(ID_PUB) (16 R452). -/
def State.deviceId (s : State) : List Byte := (sm3 s.fuses.idPub).take 8

/-- The partitions of the device, by number. -/
def State.partList (s : State) : List (Nat × Part) := (List.range 16).map fun p => (p, s.part p)

/-- The sum of the partition allocations (17 R490). -/
def State.allocSum (s : State) : Nat := s.partList.foldl (fun a p => a + p.2.alloc) 0

/-- The sum of the declarations of bound programs (17 R490). -/
def State.declSum (s : State) : Nat := s.partList.foldl (fun a p => a + p.2.decl) 0

/-- An image of the management complex, by its place in MC_IMGk (16 R476). -/
def State.fwImg (s : State) (k : Nat) : FwImg := s.mc.images.getD k FwImg.reset

/-- Is network m in failover: none of its ports up, on a device that runs (15 R424, R443)? -/
def State.failover (s : State) (m : Nat) : Bool :=
  s.live && (List.range 4).all fun i => !bit (s.rd (rIoEpState (4 * m + i))) 1

/-- The entries of a table that are not idle, each with its first slot, where the table begins at a slot. -/
def runSegs (pos : Nat) : List DWord → List (Nat × DWord)
  | [] => []
  | e :: r => (if fld64 e 16 4 = 0 then [] else [(pos, e)]) ++ runSegs (pos + runLen e) r

/-- An entry put into its place by its first slot. -/
def insertSeg (x : Nat × DWord) : List (Nat × DWord) → List (Nat × DWord)
  | [] => [x]
  | y :: r => if x.1 < y.1 then x :: y :: r else y :: insertSeg x r

/-- Entries that leave so many slots idle. -/
def idleRuns (n : Nat) : List DWord := (List.range (ceilDiv n 65535)).map fun i => BitVec.ofNat 64 (min 65535 (n - 65535 * i))

/-- Entries in slot order as one table from a slot on, the slots between them idle. -/
def joinSegs : Nat → List (Nat × DWord) → List DWord
  | _, [] => []
  | pos, (a, e) :: r => idleRuns (a - pos) ++ e :: joinSegs (a + runLen e) r

/-- The one table of a port and direction that the runs of several owners make, in slot order (10 R286, R288). -/
def tableOf (ls : List (List DWord)) : List DWord :=
  joinSegs 0 ((ls.flatMap fun l => runSegs 0 (runLive l)).foldl (fun a x => insertSeg x a) [])

/-- The table of a port and direction as it is read (10 R286). -/
def State.tetherEntries (s : State) (port : Nat) (dep : Bool) : List DWord :=
  tableOf ((s.tether.runs.filter fun r => decide (r.port = port) && decide (r.dep = dep)).map (·.entries))

/-- The command stream is held by nothing and runs. -/
def Core.opened (k : Core) : Nat := k.issued.length

/-- Is the engine busy: a command of its queue issued and not complete? -/
def Core.busy (k : Core) (e : Engine) : Bool := k.issued.any fun i => decide (i.eng = e)

/-- A Boolean list as bits from bit 0. -/
def bitsOf (bs : List Bool) : Nat := bs.foldr (fun b a => bn b + 2 * a) 0

/-- The words of the MC block that other parts of the state hold (07 R216, R217; 08 R250; 16 R476). The spec leaves open what a field
whose reset is Fuse or Calib reads before PCT-ready (00 R15): DESIGN CHOICE, it reads the fuses in every phase (log entry 5). -/
def State.viewMc (s : State) (a : Nat) (w : Word) : Word :=
  let n (x : Nat) : Word := BitVec.ofNat 32 x
  if a = rMcStatus then n (setFld (setFld w 11 1 (bn s.mc.resetPend)) 14 1 (bn s.mc.upd.isSome)).toNat
  else if a < 0x40 then
    let i := s.fwImg ((a - 0x10) / 8)
    if a = rMcImgVer 5 then s.mc.matrixSeq else if a % 8 = 0 then i.version else n (i.cls + i.svn * 2 ^ 16 + i.bank * 2 ^ 23 + bn i.absent * 2 ^ 24)
  else if a = rMcFeatId then n (s.fuses.gen + s.fuses.stepping * 2 ^ 8 + s.fuses.grade * 2 ^ 16 + 3 * 2 ^ 24)
  else if a = rMcFeatGrid then n (16 + s.rows * 2 ^ 5 + 16 * 2 ^ 10 + 16 * 2 ^ 15 + 16 * s.rows * 2 ^ 20)
  else if a = rMcFeatSlice then n (64 + 160 * 2 ^ 8 + 160 * 2 ^ 16 + 6 * 2 ^ 24 + 9 * 2 ^ 28)
  else if a = rMcFeatUnits then
    n (s.fuses.units % 2 ^ 22 + 16 * 2 ^ 22)
  else if a = rMcFeatCore then n (0x1F + 64 * 2 ^ 5 + 64 * 2 ^ 12 + 3072 * 2 ^ 19)
  else if 0x140 ≤ a ∧ a < 0x180 then n (s.fuses.colmap ((a - 0x140) / 4))
  else if 0x200 ≤ a ∧ a < 0x300 then
    let p := s.part ((a - 0x200) / 16)
    if a % 16 = 0 then
      n (p.st.code + bn (!p.secure) * 8 + bn p.repro * 16 + p.x0 * 2 ^ 5 + p.y0 * 2 ^ 9 + (p.w - 1) * 2 ^ 13
        + (p.h - 1) * 2 ^ 17 + p.group * 2 ^ 21)
    else if a % 16 = 4 then n (p.fbase + p.fcount * 2 ^ 16)
    else if a % 16 = 8 then n (p.alloc + p.decl * 2 ^ 12)
    else w
  else if 0x800 ≤ a ∧ a < 0x1000 then
    match s.mc.rlib[(a - 0x800) / 8]? with
    | some r => if a % 8 = 0 then n (r.id + r.writes * 2 ^ 16) else n r.wcet
    | none => w
  else if 0x1000 ≤ a ∧ a < 0x1400 then
    match s.mc.rlib[(a - 0x1000) / 4]? with
    | some r => n r.queues
    | none => w
  else if 0x10000 ≤ a ∧ a < 0x18000 then Sparse.get (fun _ => 0) s.flags.recorded ((a - 0x10000) / 4)
  else w

/-- The words of the SC block that other parts of the state hold (16 R477). -/
def State.viewSc (s : State) (a : Nat) (w : Word) : Word :=
  let n (x : Nat) : Word := BitVec.ofNat 32 x
  let o := a - 0x1000000
  if o = 0 then n (setFld (setFld w 0 3 s.fuses.lifecycle) 3 1 (bn (decide (s.fuses.lifecycle < 3) && s.pwr.phase = .ready))).toNat
  else if o = 4 ∨ o = 8 then n (leAt s.deviceId (o - 4) 4)
  else if 0x20 ≤ o ∧ o < 0x40 then n (leAt s.sc.chain (o - 0x20) 4)
  else if 0x404 ≤ o ∧ o < 0x418 then n (s.fuses.bounds.getD ((o - 0x404) / 4) 0)
  else if 0x100000 ≤ o ∧ o < 0x200000 then (s.logWords ((o - 0x100000) / 64)).getD ((o - 0x100000) % 64 / 4) 0
  else if 0x200000 ≤ o ∧ o < 0x220000 then (s.evtWords ((o - 0x200000) / 32)).getD ((o - 0x200000) % 32 / 4) 0
  else w

/-- The words of the TB block that other parts of the state hold (11 R336). -/
def State.viewTb (s : State) (a : Nat) (w : Word) : Word :=
  let n (x : Nat) : Word := BitVec.ofNat 32 x
  if a = rTbStatus then
    n ((w.toNat / 4 % 8) * 4 + bn s.tb.locked + bn s.tb.holdover * 2 + bn s.tb.calFail * 32 + bn s.tb.srcPort * 64)
  else if a = rTbTcLo then lo32 s.tb.tc
  else if a = rTbTcHi then s.tb.tcHi
  else if a = rTbBeatLo then n s.beat.bno.toNat
  else if a = rTbBeatHi then n (s.beat.bno.toNat / 2 ^ 32)
  else if a = rTbPeriodLo then lo32 s.beat.period
  else if a = rTbPeriodHi then hi32 s.beat.period
  else if a = rTbBeatState then n (s.beat.kind + s.beat.replays * 4 + w.toNat / 16 % 2 * 16)
  else if a = rTbBudget then n (3 * (s.rd rTbBeatLen).toNat / 200)
  else w

/-- The words of the PM block that other parts of the state hold (11 R337; 17 R497). -/
def State.viewPm (s : State) (a : Nat) (w : Word) : Word :=
  let n (x : Nat) : Word := BitVec.ofNat 32 x
  if a = rPmStatus then setFld w 0 1 (bn s.pwr.good)
  else if a = rPmLedger then n (780 + s.allocSum * 2 ^ 12)
  else if a = rPmLedgerDecl then n s.declSum
  else if a = rPmThresh then setFld w 16 8 s.fuses.trip
  else if 0x3001000 ≤ a ∧ a % 0x20 = 4 then setFld w 0 16 (s.tb.stretch.toList.getD ((a - 0x3001000) / 0x20) 0)
  else w

/-- The bit of RT_GROUPn_CTL that a held write of group n sets or clears (13 R383). -/
def HeldWrite.ctlBit (n : Nat) : HeldWrite → Option (Nat × Bool)
  | .valid m b => if m = n then some (0, b) else none
  | .noadmit m b => if m = n then some (12, b) else none
  | .frozen m b => if m = n then some (13, b) else none
  | _ => none

/-- RT_GROUPn_CTL as last written: a write of VALID, NOADMIT or FROZEN that has not taken effect shows (00 R13; 13 R383). -/
def State.groupCtl (s : State) (n : Nat) : Word :=
  s.rt.held.foldl (fun w h => match HeldWrite.ctlBit n h.2 with
    | some (k, b) => setFld w k 1 (bn b)
    | none => w) (s.rd (rRtGroupCtl n))

/-- The words of the RT block that other parts of the state hold (13 R357, R358, R363, R383). -/
def State.viewRt (s : State) (a : Nat) (w : Word) : Word :=
  if 0x4200000 ≤ a then
    let o := a - 0x4200000
    (Sparse.get (fun _ => Cli.reset.words) s.rt.snapClis (o / 64)).getD (o % 64 / 4) 0
  else if 0x4100000 ≤ a then
    let o := a - 0x4100000
    (Sparse.get (fun _ => Ent.reset.words 0 0) s.rt.snapEnts (o / 64)).getD (o % 64 / 4) 0
  else if 0x4000100 ≤ a ∧ a < 0x4000500 ∧ a % 0x40 = 0 then s.groupCtl ((a - 0x4000100) / 0x40)
  else if a = rRtStatus then setFld w 0 1 (bn (s.beat.joined && decide (s.tb.tc.toNat < s.rt.busy.toNat)))
  else w

/-- A partition's page books. -/
def State.pgOf (s : State) (p : Nat) : PgPart := Sparse.get (fun _ => PgPart.reset) s.pg p

/-- The state with a partition's page books replaced. -/
def State.setPg (s : State) (p : Nat) (q : PgPart) : State :=
  { s with pg := Sparse.set (fun _ => PgPart.reset) s.pg p q }

/-- The words of the PG and RL blocks that other parts of the state hold (14 R419, R420). -/
def State.viewPg (s : State) (a : Nat) (w : Word) : Word :=
  let n (x : Nat) : Word := BitVec.ofNat 32 x
  if a = rPgStatus then setFld w 2 1 (bn ((List.range 16).any fun p => (s.pgOf p).stop))
  else if a = rRlStatus then setFld w 0 1 (bn ((List.range 16).any fun p => decide ((s.pgOf p).orders ≠ [])))
  else if 0x6000100 ≤ a then
    let q := s.pgOf ((a - 0x6000100) / 0x20)
    if a % 0x20 = 0x10 then n q.doneN
    else if a % 0x20 = 0x14 then n (bn q.stopped * 4)
    else if a % 0x20 = 0x18 then n q.failSeq
    else w
  else w

/-- A sampling unit. -/
def State.suOf (s : State) (i : Nat) : Su := s.su.toList.getD i ⟨[]⟩

/-- The words of the SU block (13 R384). -/
def State.viewSu (s : State) (a : Nat) (w : Word) : Word :=
  let i := (a - 0x7000000) / 0x1000
  if !s.suExists i then 0
  else if a % 0x1000 = 0 then setFld (setFld w 0 1 (bn (decide ((s.suOf i).jobs ≠ [])))) 1 4 ((s.suOf i).jobs.length - 1)
  else w

/-- A ring of intake commands (15 R435). -/
def State.ring (s : State) (n : Nat) : List RingCmd := Sparse.get (fun _ => []) s.rings n

/-- The state with a ring replaced. -/
def State.setRing (s : State) (n : Nat) (r : List RingCmd) : State :=
  { s with rings := Sparse.set (fun _ => []) s.rings n r }

/-- Does port EPn carry the other network's flows (15 R424)? -/
def State.borrowed (s : State) (ep : Nat) : Bool :=
  bit (s.rd (rIoEpState ep)) 1 && s.failover (1 - ep / 4)

/-- The words of the I/O ring block that other parts of the state hold (15 R443). -/
def State.viewIo (s : State) (a : Nat) (w : Word) : Word :=
  if a = rIoStatus then
    setFld (setFld (setFld w 0 1 (bn (s.pwr.phase = .ready))) 1 1 (bn (s.failover 0))) 2 1 (bn (s.failover 1))
  else if 0x9000100 ≤ a ∧ a < 0x9000200 ∧ a % 0x20 = 4 then setFld w 2 1 (bn (s.borrowed ((a - 0x9000100) / 0x20)))
  else if 0x9001000 ≤ a ∧ a < 0x9001100 ∧ a % 16 = 0 then setFld w 11 11 (s.ring ((a - 0x9001000) / 16)).length
  else w

/-- The words of the tether block that other parts of the state hold (10 R307, R309). -/
def State.viewTether (s : State) (a : Nat) (w : Word) : Word :=
  let n (x : Nat) : Word := BitVec.ofNat 32 x
  let ps := s.tether.ports.toList
  if a = rTetherStatus then
    n ((w.toNat / 4 % 8) * 4 + bn s.beat.joined + bn s.beat.faulted.isSome * 2 + bitsOf (ps.map (·.lost)) * 256)
  else if a = rTetherJoinStatus then
    let j := s.tether.join
    n (j.step + j.code * 16 + j.parent.getD 0 * 2 ^ 12 + bn j.isRoot * 2 ^ 15 + j.depth * 2 ^ 16
      + (if j.isRoot then j.count * 2 ^ 21 else 0))
  else if a = rTetherFault then
    match s.beat.faulted with
    | some (c, p) => n (c + p * 256)
    | none => 0
  else if a = rTetherLastCommitLo then n s.beat.lastCommit.toNat
  else if a = rTetherLastCommitHi then n (s.beat.lastCommit.toNat / 2 ^ 32)
  else if 0xA000100 ≤ a ∧ a < 0xA000200 ∧ a % 0x20 = 4 then
    let p := ps.getD ((a - 0xA000100) / 0x20) TPort.reset
    n (p.st + p.dMeas * 8 + p.lanes * 2 ^ 13)
  else if 0xA100000 ≤ a ∧ a < 0xA180000 then
    let o := a - 0xA100000
    let e := (s.tetherEntries (o / 0x10000) (decide (o % 0x10000 < 0x8000))).getD (o % 0x8000 / 8) 0
    if o % 8 = 0 then lo32 e else hi32 e
  else w

/-- The words of the DG block that other parts of the state hold (12 R354). -/
def State.viewDg (s : State) (a : Nat) (w : Word) : Word :=
  let o := a - 0xB000000
  if o = 4 then setFld w 0 1 (bn (decide (((s.rd rDgLogHead).toNat + 2 ^ 17 - (s.rd rDgLogTail).toNat) % 2 ^ 17 = 65536)))
  else if 0x100 ≤ o ∧ o < 0x180 then
    let k := (s.part ((o - 0x100) / 8)).dkey
    if o % 8 = 0 then lo32 k else hi32 k
  else if 0x100000 ≤ o then (s.dgWords ((o - 0x100000) / 32)).getD ((o - 0x100000) % 32 / 4) 0
  else w

/-- The number of a sheet descriptor as SHEET_SEL gives it. -/
def selNo (x : Option (Fin 4)) : Nat :=
  match x with
  | some i => i.val
  | none => 0

/-- The words of a core block that other parts of the state hold (03 R103; 04 R138; 06 R198, R199; 08 R249; 09 R274,
R275). `o` is the offset within the block. -/
def State.viewCore (s : State) (c o : Nat) (w : Word) : Word :=
  let k := s.core c
  let n (x : Nat) : Word := BitVec.ofNat 32 x
  if o = 0x3000 then
    let runs := s.coreRuns c && k.sq.run && !k.sq.ended && !k.sq.poison
    n ((w.toNat / 16 % 16) * 16 + bn runs + bn (runs && k.held) * 2 + bn k.sq.ended * 4
      + bn ((s.corePart c).st = .halted) * 8
      + bitsOf ((List.range 4).map fun i => k.sq.loops.any fun l => decide (l.reg.val = i)) * 2 ^ 8 + k.sq.stack.length * 2 ^ 12)
  else if o = 0x3004 then n (k.qMe.length + k.qVe.length * 2 ^ 8 + k.qDm.length * 2 ^ 16 + k.qLp.length * 2 ^ 24)
  else if o = 0x3008 then n k.qSe.length
  else if o = 0x3028 then n k.sq.pc
  else if o = 0x4000 then
    n ((w.toNat / 8 % 4) * 8 + bn (k.busy .me) + bn k.me.w[0].valid * 2 + bn k.me.w[1].valid * 4
      + bn (k.issued.any fun i => decide (i.finish = .sheet)) * 32 + bn k.me.sheet.isSome * 64 + selNo k.me.sheet * 128
      + bn k.me.acb[0].clearInt * 512 + bn k.me.acb[0].l512 * 1024 + bn k.me.acb[1].clearInt * 2048
      + bn k.me.acb[1].l512 * 4096)
  else if o = 0x5000 then
    n ((w.toNat / 2 % 2) * 2 + bn (k.busy .ve)
      + bn (decide (s.rd (rVeEvtSaturated c) ≠ 0 ∨ s.rd (rVeEvtNanLost c) ≠ 0 ∨ s.rd (rVeEvtInvalid c) ≠ 0)) * 4)
  else if o = 0x5010 then n k.ve.rowCount.toNat
  else if o = 0x5014 then n (k.ve.rowCount.toNat / 2 ^ 32)
  else if o = 0x5018 ∨ o = 0x501C then
    n (bitsOf ((List.range 32).map fun i => (Sparse.get (fun _ => none) k.ve.progs ((o - 0x5018) * 8 + i)).isSome))
  else if 0x5040 ≤ o ∧ o < 0x5080 then
    let d := k.ve.dig.toList.getD ((o - 0x5040) / 8) 0
    if o % 8 = 0 then lo32 d else hi32 d
  else if o = 0x7000 then setFld w 0 1 (bn (k.busy .dm))
  else if o = 0x7100 then setFld w 0 1 (bn (k.busy .lp))
  else if o = 0x7104 ∨ o = 0x7108 then
    n (bitsOf ((List.range 32).map fun i => k.lp.arms.any fun x => decide (x.strm.val = (o - 0x7104) * 8 + i)))
  else if o = 0x7200 then
    n (bn (k.busy .se) + bn (s.flags.watches.any fun x => decide (x.src = c ∧ x.queue = 4)) * 2 + bn (k.issued.any fun i => decide (i.finish = .fence)) * 4
      + bn k.ordOvf * 8)
  else if o = 0x7204 then n (k.wait.flag + bn k.wait.take * 2 ^ 13 + bn k.wait.active * 2 ^ 14)
  else if o = 0x7208 then k.wait.arg
  else if o = 0x720C then
    n (bitsOf ((k.marked.toList.zip k.done.toList).map fun p => decide (p.2 < p.1)))
  else if o = 0x8000 then n (w.toNat / 2 ^ 12 % 8 * 2 ^ 12 + bn (k.lat.selects && !s.beat.inGuard) + min 2047 k.lat.idx * 2)
  else if o = 0x8100 then
    let out := Sparse.get (fun _ => 0) s.drift.outst c
    n (w.toNat / 32 % 4 * 32 + out + bn (k.sq.hold = some .post || !(Sparse.get (fun _ => []) s.drift.waiting c).isEmpty) * 16)
  else w

/-- What a read of a register by the secure world returns (00 R13): WO fields and undefined bits read zero. -/
def State.regView (s : State) (a : Nat) : Word :=
  match regFind a with
  | none => 0
  | some _ =>
    let w := s.rd a
    if inCoreBlock a then s.viewCore (blockCore a) (blockOff a) w
    else if a < 0x1000000 then s.viewMc a w
    else if a < 0x2000000 then s.viewSc a w
    else if a < 0x3000000 then s.viewTb a w
    else if a < 0x4000000 then s.viewPm a w
    else if a < 0x5000000 then s.viewRt a w
    else if a < 0x7000000 then s.viewPg a w
    else if a < 0x8000000 then s.viewSu a w
    else if a < 0x9000000 then w
    else if a < 0xA000000 then s.viewIo a w
    else if a < 0xB000000 then s.viewTether a w
    else s.viewDg a w

/-! ### Writes by type -/

/-- The mask of the fields of a row that the given write may change and that hold a value. -/
def RegRow.after (r : RegRow) (locked : Bool) (old v : Word) : Word :=
  let rw := BitVec.ofNat 32 (r.mask .rw + if locked then 0 else r.mask .rwl)
  let w1c := BitVec.ofNat 32 (r.mask .w1c)
  let w1s := BitVec.ofNat 32 (r.mask .w1s)
  (((old &&& ~~~ rw) ||| (v &&& rw)) &&& ~~~ (v &&& w1c)) ||| (v &&& w1s)

/-- Is every field of the row read-only? -/
def RegRow.readOnly (r : RegRow) : Bool := r.fields.all fun f => decide (f.type = .ro)

/-- Has the row a field other than RO and W1C? -/
def RegRow.stores (r : RegRow) : Bool := r.fields.any fun f => decide (f.type ≠ .ro) && decide (f.type ≠ .w1c)

/-- Does the register hold only a count, a peak, a margin, a latency or a high-water mark (16 R465)? -/
def isCounter (a : Nat) : Bool :=
  if inCoreBlock a then
    [0x300C, 0x3010, 0x3020, 0x3024, 0x4004, 0x5004, 0x5008, 0x500C, 0x6004, 0x6008, 0x600C, 0x6010, 0x7210, 0x7214,
      0x7218, 0x8004, 0x8008, 0x810C, 0x8110].contains (blockOff a)
  else
    [rTbPhase, rTbSkipCount, rTbReplayCount, rTbXlateCount, rPmPin, rPmEvtOver, rRtLateCount, rRtDraftDrops, rIoBad,
      rIoSessClosed, rTetherRefuseCount, rDgDropped, rDgLate].contains a
    || (decide (0x3001000 ≤ a ∧ a < 0x3001200) && decide (a % 0x20 = 8 ∨ a % 0x20 = 0xC))
    || (decide (0x7000000 ≤ a ∧ a < 0x7004000) && decide (a % 0x1000 ≠ 0))
    || (decide (0x9000100 ≤ a ∧ a < 0x9000200) && decide (8 ≤ a % 0x20))
    || (decide (0xA000100 ≤ a ∧ a < 0xA000200) && decide (8 ≤ a % 0x20))

/-- Is the core's block of the non-secure world: its partition is bound and non-secure (16 R446)? -/
def State.nsBlock (s : State) (c : Nat) : Bool :=
  match s.partOf c with
  | some p => (s.part p).isBound && !(s.part p).secure
  | none => false

/-- Is the block of the address of the secure world (16 R446)? A core block has the world of its core's partition, the
secure world while it is unbound. -/
def State.blockSecure (s : State) (a : Nat) : Bool := !(inCoreBlock a && s.nsBlock (blockCore a))

/-- The partition a register address concerns, for a record. -/
def State.addrPart (s : State) (a : Nat) : Nat := if inCoreBlock a then s.partNo (blockCore a) else 0xFF

/-- A write dropped by type, lock, world or binding state is entered as REG_REFUSED (16 R465). -/
def State.refuseWrite (s : State) (o : Origin) (a : Nat) (v : Word) : State :=
  s.log o 3 (s.addrPart a) (BitVec.ofNat 32 a) (s.regView a) v

/-- An accepted write of a register of the secure world is entered as REG_WRITE, but for the registers 16 R465 leaves
out. -/
def State.logWrite (s : State) (o : Origin) (a : Nat) (old new : Word) : State :=
  if s.blockSecure a ∧ !isCounter a then s.log o 2 (s.addrPart a) (BitVec.ofNat 32 a) old new else s

/-- The write of a register by its fields' types (00 R13). -/
def State.writeTyped (s : State) (o : Origin) (a : Nat) (v : Word) : State :=
  match regFind a with
  | none => s
  | some r =>
    if r.readOnly then s.refuseWrite o a v
    else
      let old := s.rd a
      let new := r.after (decide (a = rScJtag) && bit old 1) old v
      let s1 := s.wr a new
      if r.stores then s1.logWrite o a old new else s1

end Sys2Proof.Machine
end

