-- ==== Sys2Proof/Machine/Dg.lean ====
section
/-! DEFINITION. The digest unit: posts, the open table, records (12 R349 to R353). -/

namespace Sys2Proof.Machine

open Sys2Proof

/-- The records of a period are marked INCOMPLETE, with DG_STATUS.OVF (12 R351). -/
def State.dgBad (s : State) (period : Nat) : State :=
  let s1 := s.setBit rDgStatus 3
  { s1 with dg := { s1.dg with bad := period :: s1.dg.bad.filter fun x => decide (x ≠ period) } }

/-- Is an open entry the one of a key? -/
def DgOpen.keyed (e : DgOpen) (period group layer tensor : Nat) : Bool :=
  decide (e.period = period ∧ e.group = group ∧ e.layer = layer ∧ e.tensor = tensor)

/-- An open entry with a post added: the sum and the count of posts, which saturates. -/
def DgOpen.plus (e : DgOpen) (digest : DWord) : DgOpen := { e with digest := e.digest + digest, posts := min 0xFFFF (e.posts + 1) }

/-- A post added to its entry of the open table (12 R351). -/
def State.dgPost (s : State) (period group layer tensor : Nat) (digest : DWord) : State :=
  let here := fun (e : DgOpen) => e.keyed period group layer tensor
  if s.dg.table.any here then
    { s with dg := { s.dg with table := s.dg.table.map (fun e => if here e then e.plus digest else e) } }
  else if s.dg.table.length < 2048 then
    { s with dg := { s.dg with table := s.dg.table ++ [⟨period, group, layer, tensor, digest, 1⟩] } }
  else s.dgBad period

/-- DIGEST_POST: the DG takes the oldest packet of its mailbox (12 R350, R351). -/
def execDigestPost (s : State) : Res :=
  match s.takeMail 0x109 with
  | none => .next s
  | some (p, s1) =>
    let cur := s.beat.period.toNat
    if !bit (s.rd rDgCtl) 0 ∨ p.kind ≠ 1 then .next s1
    else if p.poison then .next (s1.dgBad (s1.injPeriod p))
    else
      let lo := leAt p.payload 14 2
      let period := if lo = cur % 65536 then some cur
        else if 1 ≤ cur ∧ lo = (cur - 1) % 65536 then some (cur - 1) else none
      match period with
      | none => .next ((s1.bump rDgLate).setBit rDgStatus 2)
      | some k =>
        .next (s1.dgPost k (s.part p.part).group (leAt p.payload 16 2) (leAt p.payload 18 2)
          (BitVec.ofNat 64 (leAt p.payload 0 8)))

/-- A record entered in the ring, or dropped where it is full (12 R352, R353). -/
def State.dgRecord (s : State) (r : DgRec) : State :=
  let head := (s.rd rDgLogHead).toNat
  if (head + 2 ^ 17 - (s.rd rDgLogTail).toNat) % 2 ^ 17 = 65536 then (s.bump rDgDropped).setBit rDgStatus 1
  else
    let s1 := { s with dg := { s.dg with
      log := Sparse.set (fun _ => none) s.dg.log (head % 65536) (some { r with seq := s.dg.seq }), seq := s.dg.seq + 1 } }
    s1.wr rDgLogHead (BitVec.ofNat 32 ((head + 1) % 2 ^ 17))

/-- The order of records of a period: group, layer, tensor (12 R351). -/
def DgOpen.before (a b : DgOpen) : Bool :=
  decide (a.group * 2 ^ 32 + a.layer * 65536 + a.tensor < b.group * 2 ^ 32 + b.layer * 65536 + b.tensor)

/-- An entry put into its place. -/
def insertOpen (e : DgOpen) : List DgOpen → List DgOpen
  | [] => [e]
  | x :: r => if e.before x then e :: x :: r else x :: insertOpen e r

/-- The DG at a boundary (12 R351): the entries of the period before the one that ends are closed, and what the one that ends
was is noted: its beat number, its attempt, whether the boundary decided a replay or a fault. -/
def State.dgBoundary (s : State) (failed : Bool) : State :=
  let cur := s.beat.period.toNat
  let old := s.dg.table.filter fun e => decide (e.period < cur)
  let sorted := old.foldl (fun l e => insertOpen e l) []
  let info (k : Nat) : BitVec 48 × Nat × Bool :=
    match s.dg.past.find? fun p => decide (p.1 = k) with
    | some p => p.2
    | none => (0, 0, false)
  let recs := sorted.map fun e =>
    let i := info e.period
    (⟨e.digest, i.1, e.layer, e.tensor, e.posts, bn i.2.2 + i.2.1 * 2 + bn (s.dg.bad.contains e.period) * 8, e.group, 0⟩ : DgRec)
  let s1 := if bit (s.rd rDgCtl) 0 then recs.foldl State.dgRecord s else s
  { s1 with dg := { s1.dg with
      table := s1.dg.table.filter (fun e => decide (cur ≤ e.period)), bad := s1.dg.bad.filter (fun k => decide (cur ≤ k)),
      past := (cur, s.beat.bno, s.beat.replays, failed) :: s1.dg.past.take 1 } }

end Sys2Proof.Machine
end

