-- ==== Sys2Proof/Machine/Sess.lean ====
section
/-! DEFINITION. Sessions of the host interface: accepting messages, sending them, completions, closing (15 R428 to R438). -/

namespace Sys2Proof.Machine

open Sys2Proof

/-! ### Request entries and client records -/

/-- A request entry. -/
def State.ent (s : State) (i : Nat) : Ent := Sparse.get (fun _ => Ent.reset) s.rt.ents i

/-- The state with a request entry replaced. -/
def State.setEnt (s : State) (i : Nat) (e : Ent) : State :=
  { s with rt := { s.rt with ents := Sparse.set (fun _ => Ent.reset) s.rt.ents i e } }

/-- The state with a request entry changed. -/
def State.updEnt (s : State) (i : Nat) (f : Ent → Ent) : State := s.setEnt i (f (s.ent i))

/-- A client record. -/
def State.cli (s : State) (i : Nat) : Cli := Sparse.get (fun _ => Cli.reset) s.rt.clis i

/-- The state with a client record replaced. -/
def State.setCli (s : State) (i : Nat) (c : Cli) : State :=
  { s with rt := { s.rt with clis := Sparse.set (fun _ => Cli.reset) s.rt.clis i c } }

/-! ### Contexts -/

/-- A session context. -/
def State.sessAt (s : State) (i : Nat) : Option Sess := Sparse.get (fun _ => none) s.sess i

/-- The state with a session context replaced. -/
def State.setSess (s : State) (i : Nat) (x : Option Sess) : State :=
  { s with sess := Sparse.set (fun _ => none) s.sess i x }

/-- The context whose session satisfies a test, lowest first. -/
def State.findSess (s : State) (p : Sess → Bool) : Option Nat :=
  (List.range 64).find? fun i =>
    match s.sessAt i with
    | some x => p x
    | none => false

/-- The context of a session by its own number. -/
def State.sessOf (s : State) (uid : Nat) : Option Nat := s.findSess fun x => decide (x.uid = uid)

/-- The number of an address, its first byte the most significant (15 R428). -/
def addrNat (bs : List Byte) : Nat := bs.foldl (fun a b => a * 256 + b.toNat) 0

/-- The address a source entry holds (15 R443). -/
def State.srcAddr (s : State) (k : Nat) : Nat :=
  (s.rd (rIoSrcAddr0 k)).toNat + (s.rd (rIoSrcAddr1 k)).toNat * 2 ^ 32 + (s.rd (rIoSrcAddr2 k)).toNat * 2 ^ 64
    + (s.rd (rIoSrcAddr3 k)).toNat * 2 ^ 96

/-- Does the source entry cover the address (15 R430)? -/
def State.covers (s : State) (k : Nat) (a : List Byte) : Bool :=
  let c := s.rd (rIoSrcCtl k)
  let sh := 128 - fld c 0 8
  bit c 9 && decide (s.srcAddr k / 2 ^ sh = addrNat a / 2 ^ sh)

/-- The lowest-numbered enabled source entry that covers the address (15 R430). -/
def State.source (s : State) (a : List Byte) : Option Nat := (List.range 64).find? fun k => s.covers k a

/-- The network of a port: A for EP0 to EP3, B for EP4 to EP7 (15 R423). -/
def netOf (ep : Fin 8) : Fin 2 := if ep.val < 4 then 0 else 1

/-- The network of the port by which a session's last message came. -/
def Sess.net (x : Sess) : Fin 2 := netOf x.ep

/-- Who sends on a session (16 R466). -/
def Sess.origin (x : Sess) (i : Nat) : Origin := ⟨1 + x.net.val, x.secure, x.src, x.port, i⟩

/-! ### Sending -/

/-- Does a TOKEN message wait among these: bytes of them (15 R437)? -/
def tokenBytes (ms : List OutMsg) : Nat := ms.foldl (fun a m => if m.kind = 6 then a + m.body.length else a) 0

/-- The RING_OCC and RING_ID a message of the session carries (15 R428, R435). -/
def State.ringInfo (s : State) (x : Sess) : Nat × Nat :=
  match x.ring with
  | some n => ((s.ring n).length, n)
  | none => (0, 0xFF)

/-- The ports of a network that are up. -/
def State.upPorts (s : State) (net : Fin 2) : List Nat :=
  ((List.range 4).map fun i => 4 * net.val + i).filter fun ep => bit (s.rd (rIoEpState ep)) 1

/-- The port that carries a flow of a network: the one that a hash of its destination and its UDP ports gives, one of the other
network's where none of its own is up (15 R424). -/
def State.carrier (s : State) (net : Fin 2) (dst : List Byte) (sport dport : Nat) : Option Nat :=
  let own := s.upPorts net
  let l := if own = [] then s.upPorts (1 - net) else own
  l[Config.flowHash dst sport dport % l.length]?

/-- The tag that the frames of a network have: VID and PCP (15 R422, R443). -/
def State.vlanTag (s : State) (net : Fin 2) : Option (Nat × Nat) :=
  let w := s.rd (rIoNetVlan net)
  if bit w 15 then some (fld w 0 12, fld w 12 3) else none

/-- What carries a datagram to an address. -/
def State.wire (s : State) (net : Fin 2) (dst : List Byte) (sport dport ecn : Nat) : Egress :=
  ⟨s.carrier net dst sport dport, net, s.vlanTag net, dst, sport, dport, ecn⟩

/-- A frame leaves by the port that carries it, and is counted (15 R443). The first to an address of its network follows the
solicitation or ARP request by which the device resolves it (15 R423; log entry 83). -/
def State.carry (s : State) (w : Egress) : State :=
  match w.ep with
  | none => s
  | some ep =>
    let s1 := if s.neigh.contains (w.net.val, w.dst) then s
      else { (s.bump (rIoEpTx ep)) with neigh := s.neigh ++ [(w.net.val, w.dst)], out := s.out ++ [.solicit ep w.tag w.net w.dst] }
    s1.bump (rIoEpTx ep)

/-- What carries a PCT message to a session: read data of BULK on the network its request came by, all else on network A (15 R423,
R428). -/
def State.wireTo (s : State) (x : Sess) (kind : Nat) : Egress := s.wire (if kind = 5 then x.net else 0) x.src 39620 x.port 0

/-- A message put on the wire. -/
def State.emitMsg (s0 : State) (x : Sess) (m : OutMsg) (retry : Bool) : State :=
  let w := s0.wireTo x m.kind
  let s := s0.carry w
  let r := s.ringInfo x
  { s with out := s.out ++ [.pct w x.id s.mc.bootId m.seq x.rx m.kind (bn m.gap * 4 + bn retry * 8) r.1 r.2 m.body] }

/-- An ACK (15 R431). -/
def State.emitAck (s0 : State) (x : Sess) : State :=
  let w := s0.wireTo x 8
  let s := s0.carry w
  let r := s.ringInfo x
  { s with out := s.out ++ [.pct w x.id s.mc.bootId 0 x.rx 8 0 r.1 r.2 []] }

/-- The waiting messages that the window has room for are sent (15 R431). -/
def State.pump (s : State) (i : Nat) : List OutMsg → State
  | [] => s
  | m :: r =>
    match s.sessAt i with
    | some x =>
      if x.unacked.length < 1024 then
        let m1 := { m with seq := x.tx + 1 }
        let x1 := { x with tx := x.tx + 1, unacked := x.unacked ++ [m1], waiting := r }
        State.pump ((s.setSess i (some x1)).emitMsg x1 m1 false) i r
      else s
    | none => s

/-- A sequenced message sent to a session, or kept until its window has room (15 R431). -/
def State.sendTo (s : State) (i : Nat) (m : OutMsg) : State :=
  match s.sessAt i with
  | some x => (s.setSess i (some { x with waiting := x.waiting ++ [m] })).pump i (x.waiting ++ [m])
  | none => s

/-- A sequenced message for the session of a number; nothing where it has closed. -/
def State.send (s : State) (uid kind : Nat) (body : List Byte) : State :=
  match s.sessOf uid with
  | some i => s.sendTo i ⟨0, kind, false, body, [], []⟩
  | none => s

/-- A COMPLETION (15 R436). -/
def State.complete (s : State) (uid : Nat) (tag : Word) (op status code entry arg : Nat) : State :=
  s.send uid 2 (leBytes 4 tag.toNat ++ leBytes 1 op ++ leBytes 1 status ++ leBytes 1 code ++ leBytes 1 0 ++ leBytes 4 entry
    ++ leBytes 4 arg)

/-- A token record that is dropped or discarded: TOKGAP of its entry, GAP on its next record, TOKEN_GAP where asked
(15 R437, R438). -/
def State.dropRecord (s : State) (e : Nat) : State :=
  (s.updEnt e fun x => { x with tokgap := true, gap := true }).setBit rIoStatus 5

/-- The bytes of a token record (15 R437). -/
def tokenRec (ent : Nat) (tag : Word) (bno : BitVec 48) (pos flags reason length gen : Nat) (toks : List Word) : List Byte :=
  leBytes 4 ent ++ leBytes 4 tag.toNat ++ leBytes 6 bno.toNat ++ leBytes 2 toks.length ++ leBytes 4 pos ++ leBytes 1 flags
    ++ leBytes 1 reason ++ leBytes 2 0 ++ leBytes 4 length ++ leBytes 4 gen ++ toks.flatMap (fun t => leBytes 4 t.toNat)

/-- A token record sent to the session of the turn, as a TOKEN message of its own; dropped where the session has closed or
holds 256 KiB of records (15 R437). -/
def State.sendToken (s : State) (uid ent : Nat) (tag : Word) (bno : BitVec 48) (pos : Nat) (fin fetched : Bool) (reason : Nat)
    (toks : List Word) : State :=
  let e := s.ent ent
  let body := tokenRec ent tag bno pos (bn fin + bn (e.gap && !fetched) * 2 + bn fetched * 4) (if fin then reason else 0)
    e.length e.gen toks
  match s.sessOf uid with
  | none => s.dropRecord ent
  | some i =>
    match s.sessAt i with
    | none => s.dropRecord ent
    | some x =>
      if x.unacked.length ≥ 1024 ∧ tokenBytes x.waiting + body.length > 262144 then s.dropRecord ent
      else
        let m : OutMsg := ⟨0, 6, e.gap && !fetched, body, [ent], if fin then [ent] else []⟩
        let s1 := if fetched then s else s.updEnt ent fun y => { y with gap := false }
        s1.sendTo i m

/-! ### Accepting -/

/-- Is `a` at or after `b` in serial-number arithmetic over 2^31 (15 R431)? -/
def serialGe (a b : Word) : Bool := decide ((a - b).toNat < 2 ^ 31)

/-- The ACK field of a message from the host: messages it covers are let go, the window moves (15 R431, R438). -/
def State.takeAck (s : State) (i : Nat) (ack : Word) : State :=
  match s.sessAt i with
  | none => s
  | some x =>
    let gone := x.unacked.filter fun m => serialGe ack m.seq
    if gone = [] then s
    else
      let keep := x.unacked.filter fun m => !serialGe ack m.seq
      let s1 := s.setSess i (some { x with unacked := keep, resends := 0 })
      let s2 := (gone.flatMap (·.ends)).foldl (fun t e => t.updEnt e fun y => { y with acked := true }) s1
      s2.pump i x.waiting

/-- Is the datagram well formed, and of a kind that a host sends (15 R428, R429)? -/
def goodHdr (h : PctHdr) : Bool :=
  decide (h.magic = 0x5443 ∧ h.ver = 1 ∧ h.len ≤ 4160 ∧ h.udpLen = 32 + h.len) && hostKind h.kind

/-- The context of the session a message names (15 R430). -/
def State.sessFor (s : State) (h : PctHdr) : Option Nat :=
  s.findSess fun x => decide (x.src = h.src ∧ x.port = h.port ∧ x.id = h.session)

/-- What the device still holds for a session of a number is discarded: token records, and accesses that wait for a region (15 R430,
R432). -/
def State.discardHeld (s : State) (x : Sess) : State :=
  let s1 := ((x.unacked ++ x.waiting).flatMap (·.ents)).foldl State.dropRecord s
  { s1 with stalled := s1.stalled.filter fun w => decide (w.uid ≠ some x.uid) }

/-- A SYN (15 R430): it resets the session where it exists, or opens one in the lowest free context with the world of its
source. -/
def State.openSess (s : State) (h : PctHdr) (k : Nat) : State :=
  match s.sessFor h with
  | some i =>
    match s.sessAt i with
    | some x =>
      let x1 := { x with rx := h.seq, tx := 0, unacked := [], waiting := [], resends := 0, missed := 0, ep := h.ep, left := 0, reply := [],
                         cmd := none }
      ((s.discardHeld x).setSess i (some x1)).emitAck x1
    | none => s
  | none =>
    match (List.range 64).find? (fun i => (s.sessAt i).isNone) with
    | none => s.setBit rIoStatus 4
    | some i =>
      let x : Sess := { uid := s.mc.handle + 1, src := h.src, port := h.port, id := h.session, secure := !bit (s.rd (rIoSrcCtl k)) 8,
                        ep := h.ep, rx := h.seq, tx := 0, unacked := [], waiting := [], resends := 0, missed := 0,
                        ring := none, mask := 0, fromEvt := 0, fromLog := 0, left := 0, reply := [], cmd := none }
      (({ s with mc := { s.mc with handle := s.mc.handle + 1 } }).setSess i (some x)).emitAck x

/-- Has a frame of a port the tag that its network requires, or the network whose flows the port carries (15 R422, R424, R443)? -/
def State.tagOk (s : State) (ep : Fin 8) (vlan : Option Nat) : Bool :=
  (netOf ep :: if s.borrowed ep.val then [1 - netOf ep] else []).any fun n =>
    let w := s.rd (rIoNetVlan n)
    match vlan with
    | none => !bit w 15
    | some v => bit w 15 && decide (fld w 0 12 = v)

/-- A frame arrives on a port: nothing where the port is not enabled or the device not running; else it is counted, and taken where its tag is right (15
R422, R443). -/
def State.frameIn (s : State) (ep : Fin 8) (vlan : Option Nat) : State × Bool :=
  if s.live && bit (s.rd (rIoEpCfg ep)) 1 then (s.bump (rIoEpRx ep), s.tagOk ep vlan) else (s, false)

/-- A datagram arrives: PCT messages are taken at UDP port 39,620 (15 R428; log entry 12), once the device is PCT-ready. -/
def State.pctIn (s : State) (h : PctHdr) : State × Bool :=
  let f := s.frameIn h.ep h.vlan
  (f.1, f.2 && decide (f.1.pwr.phase = .ready ∧ h.dport = 39620))

/-- The answer to a message of no session: an ACK that repeats 0, to where it came from (15 R431, R442). -/
def State.strangerAck (s : State) (h : PctHdr) : State :=
  let w := s.wire 0 h.src 39620 h.port 0
  let s1 := s.carry w
  { s1 with out := s1.out ++ [.pct w h.session s1.mc.bootId 0 0 8 0 0 0xFF []] }

/-- A datagram taken in as far as its session (15 R428, R430): the context, where the message belongs to one. -/
def State.admitPct (s0 : State) (h : PctHdr) : State × Option Nat :=
  let f := s0.pctIn h
  let s := f.1
  if !f.2 then (s, none)
  else if !goodHdr h then (s.bump rIoBad, none)
  else
    match s.source h.src with
    | none => (s.setBit rIoStatus 3, none)
    | some k =>
      if h.syn then (s.openSess h k, none)
      else
        match s.sessFor h with
        | none => (s.strangerAck h, none)
        | some i => (s.takeAck i h.ack, some i)

/-- A sequenced message taken in (15 R431): only the next number in order is accepted, and acknowledged; any other is
answered with the present ACK. One of another kind between the messages of a command spoils that command (15 R433). -/
def State.accept (s : State) (h : PctHdr) : State × Option (Nat × Sess) :=
  match s.admitPct h with
  | (s1, none) => (s1, none)
  | (s1, some i) =>
    match s1.sessAt i with
    | none => (s1, none)
    | some x =>
      if h.seq ≠ x.rx + 1 then (s1.emitAck x, none)
      else
        let x1 := { x with rx := x.rx + 1, ep := h.ep,
                           cmd := if h.kind = 1 then x.cmd else x.cmd.map fun k => { k with bad := true } }
        ((s1.setSess i (some x1)).emitAck x1, some (i, x1))

/-- A session closes (15 R432): its messages are discarded, an open load and an open update of it are abandoned, the closure
is counted. -/
def State.closeSess (s : State) (i : Nat) : State :=
  match s.sessAt i with
  | none => s
  | some x =>
    let s1 := s.discardHeld x
    let s2 := (s1.setSess i none).bump rIoSessClosed
    let upd := s2.mc.upd.filter fun u => decide (u.sess ≠ x.uid)
    { s2 with loads := s2.loads.filter (fun l => decide (l.session ≠ x.uid)), mc := { s2.mc with upd := upd } }

/-! ### Commands (15 R433, R434) -/

/-- The OP of a request command (15 R433). -/
def ReqOp.code : ReqOp → Nat
  | .submit _ => 1
  | .resume _ _ _ => 2
  | .cancel => 3
  | .draft _ _ => 4
  | .fetch _ _ => 5

/-- The OP of a command. -/
def OpenOp.code : OpenOp → Nat
  | .req op => op.code
  | .bind op _ _ => op
  | .plain op => op

/-- A command with the data of a further message of it; none where the message's data are none of that command (15 R433). -/
def OpenOp.join : OpenOp → OpenOp → Option OpenOp
  | .req (.submit b), .req (.submit d) => some (.req (.submit { b with words := b.words ++ d.words }))
  | .req (.resume n t ws), .req (.resume _ _ xs) => some (.req (.resume n t (ws ++ xs)))
  | .req (.draft p l), .req (.draft _ m) => some (.req (.draft p (l ++ m)))
  | .bind op b _, .bind oq d k =>
    if op = oq then some (.bind op { b with members := b.members ++ d.members } k) else none
  | _, _ => none

/-- An open command with a further message. -/
def OpenCmd.take (k : OpenCmd) (o : OpenOp) : OpenCmd :=
  match k.op.join o with
  | some q => { k with op := q }
  | none => { k with bad := true }

/-- A COMMAND message taken in (15 R433): the first of its command, or, where the session has one open, more data of that one. The
answer is the command that is whole with it: with MORE it is not. -/
def State.command (s : State) (h : PctHdr) (c : CmdHdr) (o : OpenOp) : State × Option (Nat × Sess × OpenCmd) :=
  match s.accept h with
  | (s1, none) => (s1, none)
  | (s1, some (i, x)) =>
    let k : OpenCmd := match x.cmd with
      | none => ⟨c, o, false⟩
      | some k => k.take o
    let x1 := { x with cmd := if h.more then some k else none }
    (s1.setSess i (some x1), if h.more then none else some (i, x1, k))

/-- A management command taken in (15 R433, R434): from a secure-world session it has the effect given, which is told the
session's number, its origin and the command; from any other it completes with WORLD and is logged; where its messages were
interleaved with another kind it completes with BAD_MSG. -/
def State.manageCmd (s : State) (h : PctHdr) (c : CmdHdr) (o : OpenOp) (f : State → Nat → Origin → OpenCmd → State) : State :=
  match s.command h c o with
  | (s1, none) => s1
  | (s1, some (i, x, k)) =>
    if k.bad then s1.complete x.uid k.hdr.tag k.op.code 4 0 k.hdr.entry 0
    else if !x.secure then
      (s1.log (x.origin i) 4 0xFF (BitVec.ofNat 32 k.op.code) 0 0).complete x.uid k.hdr.tag k.op.code 3 0 0 0
    else f s1 x.uid (x.origin i) k

/-- A management command of one message. -/
def State.manage (s : State) (h : PctHdr) (c : CmdHdr) (op : Nat) (f : State → Nat → Origin → State) : State :=
  s.manageCmd h c (.plain op) fun t uid o _ => f t uid o

/-- A management command with a group plan, whose records may take several messages. -/
def State.managePlan (s : State) (h : PctHdr) (c : CmdHdr) (op : Nat) (b : BindBody) (keep : Word)
    (f : State → Nat → CmdHdr → BindBody → Word → State) : State :=
  s.manageCmd h c (.bind op b keep) fun t uid _ k =>
    match k.op with
    | .bind _ d w => f t uid k.hdr d w
    | _ => t

end Sys2Proof.Machine
end

