-- ==== Sys2Proof/Machine/Sm2.lean ====
section
/-! DEFINITION. SM2 signatures with SM3 over the recommended curve and the default distinguishing identifier (07 R207; 16 R450,
R452). The scheme and its constants are those of GB/T 32918, which the manual names and does not print (PRESUMED, log entry 9). -/

namespace Sys2Proof.Machine

open Sys2Proof

/-- The prime of the field. -/
def sm2P : Nat := 0xFFFFFFFEFFFFFFFFFFFFFFFFFFFFFFFFFFFFFFFF00000000FFFFFFFFFFFFFFFF
/-- The coefficient a of the curve y² = x³ + ax + b. -/
def sm2A : Nat := sm2P - 3
/-- The coefficient b. -/
def sm2B : Nat := 0x28E9FA9E9D9F5E344D5A9E4BCF6509A7F39789F515AB8F92DDBCBD414D940E93
/-- The order of the base point. -/
def sm2N : Nat := 0xFFFFFFFEFFFFFFFFFFFFFFFFFFFFFFFF7203DF6B21C6052B53BBF40939D54123
/-- The base point. -/
def sm2G : Nat × Nat :=
  (0x32C4AE2C1F1981195F9904466A39C9948FE30BBFF2660BE1715A4589334C74C7,
   0xBC3736A2F4F6779C59BDCEE36B692153D0A9877CC62A474002DF32E52139F0A0)

/-- b to the e modulo m, for an exponent of at most `fuel` bits. -/
def powMod (m : Nat) : Nat → Nat → Nat → Nat
  | _, _, 0 => 1 % m
  | b, e, fuel + 1 =>
    let h := powMod m (b * b % m) (e / 2) fuel
    if e % 2 = 1 then b * h % m else h

/-- The inverse modulo a prime of at most 256 bits. -/
def invMod (m x : Nat) : Nat := powMod m x (m - 2) 256

/-- A point of the curve in Jacobian coordinates: X/Z² and Y/Z³; the point at infinity where Z is 0. -/
structure JacPt where
  x : Nat
  y : Nat
  z : Nat
  deriving DecidableEq, Repr

/-- The difference of two residues modulo the prime. -/
def subMod (a b : Nat) : Nat := (a + sm2P - b) % sm2P

/-- The double of a point. -/
def ptDouble (p : JacPt) : JacPt :=
  let yy := p.y * p.y % sm2P
  let s := 4 * p.x * yy % sm2P
  let zz := p.z * p.z % sm2P
  let m := (3 * p.x * p.x + sm2A * zz * zz) % sm2P
  let x := subMod (m * m % sm2P) (2 * s % sm2P)
  ⟨x, subMod (m * subMod s x % sm2P) (8 * yy * yy % sm2P), 2 * p.y * p.z % sm2P⟩

/-- The sum of two points. -/
def ptAdd (p q : JacPt) : JacPt :=
  if p.z = 0 then q
  else if q.z = 0 then p
  else
    let u := p.x * q.z * q.z % sm2P
    let w := p.y * q.z * q.z * q.z % sm2P
    let h := subMod (q.x * p.z * p.z % sm2P) u
    let r := subMod (q.y * p.z * p.z * p.z % sm2P) w
    if h = 0 then (if r = 0 then ptDouble p else ⟨1, 1, 0⟩)
    else
      let hh := h * h % sm2P
      let v := u * hh % sm2P
      let x := subMod (r * r % sm2P) ((hh * h + 2 * v) % sm2P)
      ⟨x, subMod (r * subMod v x % sm2P) (w * hh * h % sm2P), h * p.z * q.z % sm2P⟩

/-- A multiple of a point, for a factor of at most `fuel` bits. -/
def ptMul : Nat → JacPt → Nat → JacPt
  | _, _, 0 => ⟨1, 1, 0⟩
  | k, p, fuel + 1 =>
    let h := ptMul (k / 2) (ptDouble p) fuel
    if k % 2 = 1 then ptAdd p h else h

/-- The affine coordinates of a point, but of the point at infinity. -/
def JacPt.affine (p : JacPt) : Option (Nat × Nat) :=
  if p.z = 0 then none
  else
    let i := invMod sm2P p.z
    some (p.x * i * i % sm2P, p.y * i * i * i % sm2P)

/-- A multiple of the base point. -/
def baseMul (k : Nat) : JacPt := ptMul k ⟨sm2G.1, sm2G.2, 1⟩ 256

/-- Does a point lie on the curve? -/
def onCurve (x y : Nat) : Bool :=
  decide (x < sm2P) && decide (y < sm2P) && decide (y * y % sm2P = (x * x * x + sm2A * x + sm2B) % sm2P)

/-- Big-endian bytes as a number. -/
def numOf (bs : List Byte) : Nat := bs.foldl (fun a b => a * 256 + b.toNat) 0

/-- The default distinguishing identifier of GB/T 32918: the characters 1 to 8 twice. -/
def sm2Id : List Byte := (List.range 16).map fun i => BitVec.ofNat 8 (0x31 + i % 8)

/-- The hash of a message under a public key: SM3 of the signer's Z, then the message. -/
def sm2Hash (pub msg : List Byte) : Nat :=
  let z := sm3 (beBytes 2 128 ++ sm2Id ++ beBytes 32 sm2A ++ beBytes 32 sm2B ++ beBytes 32 sm2G.1 ++ beBytes 32 sm2G.2 ++ pub)
  numOf (sm3 (z ++ msg))

/-- Does a signature, r then s of 32 bytes each, verify for a message under a public key, x then y (07 R207; 16 R450)? -/
def sm2Verify (pub msg sig : List Byte) : Bool :=
  let x := numOf (pub.take 32)
  let y := numOf (pub.drop 32)
  let r := numOf (sig.take 32)
  let q := numOf (sig.drop 32)
  let t := (r + q) % sm2N
  decide (pub.length = 64 ∧ sig.length = 64) && onCurve x y && decide (1 ≤ r ∧ r < sm2N ∧ 1 ≤ q ∧ q < sm2N ∧ t ≠ 0)
    && match (ptAdd (baseMul q) (ptMul t ⟨x, y, 1⟩ 256)).affine with
       | some p => decide ((sm2Hash pub msg + p.1) % sm2N = r)
       | none => false

/-- The public key of a private key. -/
def sm2Pub (d : Nat) : List Byte :=
  match (baseMul d).affine with
  | some p => beBytes 32 p.1 ++ beBytes 32 p.2
  | none => List.replicate 64 0

/-- The signature of a message with a private key and a random number (16 R452, R462). -/
def sm2Sign (d k : Nat) (pub msg : List Byte) : List Byte :=
  match (baseMul k).affine with
  | some p =>
    let r := (sm2Hash pub msg + p.1) % sm2N
    let q := invMod sm2N (1 + d) * ((k + sm2N * sm2N - r * d) % sm2N) % sm2N
    beBytes 32 r ++ beBytes 32 q
  | none => List.replicate 64 0

/-- The private identity key: SM3 of the secret and a counter, modulo n − 1, plus 1, for the first counter from 0 that gives less
than n − 1 (16 R452). A value modulo n − 1 plus 1 is below n − 1 but for one in 2^256, so that sixteen counters are looked at. -/
def identityKey (secret : List Byte) : Nat :=
  let d (i : Nat) : Nat := numOf (sm3 (secret ++ leBytes 4 i)) % (sm2N - 1) + 1
  (((List.range 16).map d).find? fun x => decide (x < sm2N - 1)).getD (d 0)

end Sys2Proof.Machine
end

