-- ==== Sys2Proof/Machine/Boot.lean ====
section
/-! DEFINITION. Start-up: the flash, the verification of images, the boot chain, the configuration record, the compatibility
matrix, the crossing calibration (11 R319; 16 R449 to R458, R464, R467; 17 R483 to R488). -/

namespace Sys2Proof.Machine

open Sys2Proof

/-! ### Flash -/

/-- A byte of flash; an address that nothing has written, and the reserved range, read 0xFF (16 R449; log entry 4). -/
def State.flashByte (s : State) (a : Nat) : Byte :=
  if 0x3040000 ≤ a then 0xFF else Sparse.get (fun _ => 0xFF) s.flash a

/-- Bytes of flash. -/
def State.flashBytes (s : State) (a n : Nat) : List Byte := (List.range n).map fun i => s.flashByte (a + i)

/-- The flash with bytes written. -/
def flashPut : List (Nat × Byte) → Nat → List Byte → List (Nat × Byte)
  | f, _, [] => f
  | f, a, b :: r => flashPut (Sparse.set (fun _ => 0xFF) f a b) (a + 1) r

/-- The flash with a range erased to 0xFF. -/
def flashErase (f : List (Nat × Byte)) (a n : Nat) : List (Nat × Byte) :=
  f.filter fun p => decide (p.1 < a ∨ a + n ≤ p.1)

/-! ### Firmware images (16 R449, R450) -/

/-- Where a bank begins: 0 A, 1 B. -/
def bankBase (b : Nat) : Nat := b * 0x1800000

/-- Is the bank valid (16 R449)? -/
def State.bankValid (s : State) (b : Nat) : Bool := decide (leNat (s.flashBytes (bankBase b) 4) = 0x4B4E4250)

/-- BANK_SEQ of a bank. -/
def State.bankSeq (s : State) (b : Nat) : Word := BitVec.ofNat 32 (leNat (s.flashBytes (bankBase b + 4) 4))

/-- The valid banks, the later one first (16 R449, R454). -/
def State.validBanks (s : State) : List Nat :=
  let l := [0, 1].filter fun b => s.bankValid b
  if l.length = 2 ∧ s.bankSeq 1 ≠ s.bankSeq 0 ∧ serialGe (s.bankSeq 1) (s.bankSeq 0) then [1, 0] else l

/-- The flash address of the image of a kind in a bank, where its descriptor has an entry for it. -/
def State.imageAt (s : State) (b kind : Nat) : Option Nat :=
  ((List.range 7).find? fun i => decide (leNat (s.flashBytes (bankBase b + 8 + 12 * i) 1) = kind)).map fun i =>
    bankBase b + leNat (s.flashBytes (bankBase b + 12 + 12 * i) 4)

/-- The digests of the unrevoked firmware keys (16 R451). -/
def Fuses.keysInUse (f : Fuses) : List (List Byte) :=
  (List.range 4).filterMap fun i => if f.revoke / 2 ^ i % 2 = 1 then none else f.fwkeys[i]?

/-- An image that verifies (16 R450): its record and its payload. -/
def State.imageOk (s : State) (b kind : Nat) : Option (FwImg × List Byte) :=
  match s.imageAt b kind with
  | none => none
  | some a =>
    let h := s.flashBytes a 128
    let n := leAt h 16 4
    let payload := s.flashBytes (a + 128) n
    let svn := leAt h 12 2
    if leAt h 0 4 = 0x46574C50 ∧ leAt h 4 1 = kind ∧ leAt h 5 1 = 9 ∧ leAt h 6 1 = 0xB1 ∧ leAt h 7 1 = 0
        ∧ leAt h 20 12 = 0 ∧ sm3 payload = (h.drop 32).take 32 ∧ s.fuses.keysInUse.contains (sm3 (h.drop 64))
        ∧ sm2Verify (h.drop 64) (h ++ payload) (s.flashBytes (a + 128 + n) 64) = true
        ∧ s.fuses.minSvn.getD (kind - 1) 0 ≤ svn then
      some (⟨false, b, BitVec.ofNat 32 (leAt h 8 4), svn, leAt h 14 2, (h.drop 32).take 32, sm3 (h.drop 64)⟩, payload)
    else none

/-- The image of a kind, from a bank or else from the other, which gives one while it is valid (16 R449, R455; log entry 62). -/
def State.loadImage (s : State) (own kind : Nat) : Option (FwImg × List Byte) :=
  match s.imageOk own kind with
  | some x => some x
  | none => if s.bankValid (1 - own) then s.imageOk (1 - own) kind else none

/-! ### The compatibility matrix (16 R457, R458) -/

/-- The entries of a matrix payload: STEPPING, OUTCOME, LEVEL, the five classes. -/
def matrixRows (p : List Byte) : List (Nat × Nat × Nat × List Nat) :=
  (List.range (leAt p 4 2)).map fun i =>
    let o := 16 + 16 * i
    (leAt p o 1, leAt p (o + 1) 1, leAt p (o + 2) 1, (List.range 5).map fun k => leAt p (o + 4 + 2 * k) 2)

/-- Is one list of numbers before another, the first number the most significant? -/
def lexLt : List Nat → List Nat → Bool
  | [], [] => false
  | [], _ :: _ => true
  | _ :: _, [] => false
  | a :: r, b :: q => decide (a < b) || (decide (a = b) && lexLt r q)

/-- Are the entries in ascending order, none equal to the next? -/
def ascending : List (List Nat) → Bool
  | [] => true
  | a :: r =>
    match r with
    | [] => true
    | b :: _ => lexLt a b && ascending r

/-- Does MF accept the matrix (16 R457)? -/
def matrixOk (p : List Byte) : Bool :=
  let rows := matrixRows p
  ascending (rows.map fun r => r.1 :: r.2.2.2)
    && rows.all fun r => rows.all fun q => decide (r.2.2.1 = q.2.2.1 → r.2.1 = q.2.1)

/-- The matrix selected of those in the banks given: the later MATRIX_SEQ first, the other where it is rejected (16 R457). -/
def State.matrix (s : State) (banks : List Nat) : Option (FwImg × List Byte) :=
  let l := banks.filterMap fun b => s.imageOk b 6
  let later (x y : FwImg × List Byte) : Bool :=
    serialGe (BitVec.ofNat 32 (leAt x.2 0 4)) (BitVec.ofNat 32 (leAt y.2 0 4))
  let sorted :=
    match l with
    | [x, y] => if later x y then [x, y] else [y, x]
    | o => o
  sorted.find? fun x => matrixOk x.2

/-- OUTCOME and LEVEL of the fused STEPPING with a set of classes, under a matrix: 2 REFUSED (16 R455, R458). -/
def classify (stepping : Nat) (m : Option (List Byte)) (imgs : List (Option FwImg)) : Nat × Nat :=
  match m with
  | none => (2, 0)
  | some p =>
    if imgs.any (·.isNone) then (2, 0)
    else
      let cs := imgs.map fun i => (i.map FwImg.cls).getD 0
      match (matrixRows p).find? fun r => decide (r.1 = stepping ∧ r.2.2.2 = cs) with
      | some r => (r.2.1, r.2.2.1)
      | none => (2, 0)

/-! ### The configuration record (16 R456) -/

/-- Where a configuration copy begins. -/
def cfgBase (k : Nat) : Nat := 0x3000000 + k * 0x10000

/-- Where a user-calibration copy begins. -/
def ucalBase (k : Nat) : Nat := 0x3020000 + k * 0x10000

/-- The bytes of a configuration copy before its signature; SOURCES beyond 64 and KEYS beyond 16 have no room in it (log entry 65). -/
def State.cfgBytes (s : State) (k : Nat) : List Byte :=
  let b := cfgBase k
  s.flashBytes b (96 + 20 * min 64 (leNat (s.flashBytes (b + 8) 2)) + 96 * min 16 (leNat (s.flashBytes (b + 10) 2)))

/-- Does the owner's signature of a message verify, under the key whose digest OWNER holds (16 R452, R456)? -/
def State.ownerSigned (s : State) (msg sig : List Byte) : Bool :=
  decide (sm3 (Config.ownerKey s.fuses.owner) = s.fuses.owner) && sm2Verify (Config.ownerKey s.fuses.owner) msg sig

/-- Does the owner's signature of a configuration copy verify? -/
def State.cfgSigned (s : State) (k : Nat) : Bool :=
  let m := s.cfgBytes k
  s.ownerSigned m (s.flashBytes (cfgBase k + m.length) 64)

/-- Is the copy acceptable in the present lifecycle state (16 R453, R456): by its MAGIC in TEST and RETURNED, by its signature in
OWNED? -/
def State.cfgAccept (s : State) (k : Nat) : Bool :=
  if s.fuses.lifecycle = 0 ∨ s.fuses.lifecycle = 3 then decide (leNat (s.flashBytes (cfgBase k) 4) = 0x47464350)
  else decide (s.fuses.lifecycle = 2) && s.cfgSigned k

/-- CONFIG_SEQ of a copy. -/
def State.cfgSeqOf (s : State) (k : Nat) : Word := BitVec.ofNat 32 (leNat (s.flashBytes (cfgBase k + 4) 4))

/-- The copy MF takes (16 R456). -/
def State.cfgPick (s : State) : Option Nat :=
  match [0, 1].filter fun k => s.cfgAccept k with
  | [0, 1] => if s.cfgSeqOf 1 ≠ s.cfgSeqOf 0 ∧ serialGe (s.cfgSeqOf 1) (s.cfgSeqOf 0) then some 1 else some 0
  | l => l.head?

/-- A register given a word by firmware: the fields that hold a value take it (00 R13, R16). -/
def State.wrFields (s : State) (a : Nat) (w : Word) : State :=
  match regFind a with
  | some r => s.wr a (r.after false (s.rd a) w)
  | none => s

/-- Words written to consecutive registers. -/
def State.wrWords (s : State) (a : Nat) : List Word → State
  | [] => s
  | w :: r => State.wrWords (s.wrFields a w) (a + 4) r

/-- The keys of a configuration record whose KEY_ID matches (16 R456). -/
def cfgKeys (m : List Byte) : List ProgKey :=
  let o := 96 + 20 * min 64 (leAt m 8 2)
  (List.range (min 16 (leAt m 10 2))).filterMap fun i =>
    let k := (m.drop (o + 96 * i)).take 96
    if k.take 16 = (sm3 ((k.drop 16).take 64)).take 16 then
      some ⟨k.take 16, (k.drop 16).take 64, decide (leAt k 80 1 % 2 = 1), decide (leAt k 80 1 / 2 % 2 = 1)⟩
    else none

/-- The configuration applied (16 R456): a record's networks, sources and keys, or the default. -/
def State.applyConfig (s : State) : State :=
  match s.cfgPick with
  | some k =>
    let m := s.cfgBytes k
    let s1 := [0, 1].foldl (fun t n => t.wrWords (rIoNetIp60 n) (wordsOf (m.drop (32 + 32 * n)) 6)) s
    let s2 := (List.range (min 64 (leAt m 8 2))).foldl
      (fun t i => t.wrWords (rIoSrcAddr0 i) (wordsOf (m.drop (96 + 20 * i)) 5)) s1
    let sig := s.flashBytes (cfgBase k + m.length) 64
    let s3 := { s2 with mc := { s2.mc with cfgSeq := s.cfgSeqOf k, cfgCopy := some k, cfgDig := sm3 (m ++ sig),
                                           keys := cfgKeys m } }
    (s3.wrF rMcStatus 12 1 k).wrF rMcStatus 13 1 0
  | none => ((s.wr (rIoSrcAddr3 0) 0xFE800000).wr (rIoSrcCtl 0) (BitVec.ofNat 32 (10 + 512 + 1024))).wrF rMcStatus 13 1 1

/-- A user-calibration copy before its trailer: the sequence, the 64 words (16 R464; log entry 66). -/
def ucalBytes (seq : Word) (ws : List Word) : List Byte := leBytes 4 seq.toNat ++ ws.flatMap fun w => leBytes 4 w.toNat

/-- The sequence and the words of a user-calibration copy whose SM3 trailer matches (16 R464). -/
def State.ucalCopy (s : State) (k : Nat) : Option (Nat × List Word) :=
  let b := s.flashBytes (ucalBase k) 260
  if s.flashBytes (ucalBase k + 260) 32 = sm3 b then some (leAt b 0 4, wordsOf (b.drop 4) 64) else none

/-- The user-calibration copy with the later sequence (16 R464). -/
def State.ucalPick (s : State) : Option (Nat × Nat × List Word) :=
  match s.ucalCopy 0, s.ucalCopy 1 with
  | some x, some y =>
    if x.1 ≠ y.1 ∧ serialGe (BitVec.ofNat 32 y.1) (BitVec.ofNat 32 x.1) then some (1, y) else some (0, x)
  | some x, none => some (0, x)
  | none, some y => some (1, y)
  | none, none => none

/-- The user calibration loaded at start-up (16 R464). -/
def State.applyUcal (s : State) : State :=
  match s.ucalPick with
  | some (k, q, ws) =>
    let s1 := s.wrWords (rScUcal 0) (ws.take 64)
    { s1 with mc := { s1.mc with ucalSeq := BitVec.ofNat 32 q, ucalCopy := some k } }
  | none => s

/-! ### Calibration (11 R319) -/

/-- X of one boundary, direction and level from the transits measured, in 1/100 cyc: the first measurement, or one of three
more, that gives 4 to 8. -/
def calX (ts : List Nat) : Option Nat :=
  ((ts.take 4).map fun t => ceilDiv (t + 200) 100).find? fun x => decide (4 ≤ x ∧ x ≤ 8)

/-- The crossing calibration: TB_XCAL0 to TB_XCAL23, or CAL_FAIL, its alert and its record (11 R319; 16 R470, R471). -/
def State.calibrate (s : State) (cal : Calib) : State :=
  let xs := (List.range 144).map fun i => calX (cal.transits.getD i [])
  let word (k : Nat) : Word :=
    BitVec.ofNat 32 ((List.range 6).foldl (fun a j => a + (xs.getD (6 * k + j) none).getD 0 * 16 ^ j) 0)
  let s1 := (List.range 24).foldl (fun t k => t.wr (rTbXcal k) (word k)) s
  match (List.range 144).find? fun i => (xs.getD i none).isNone with
  | none => s1
  | some i =>
    (({ s1 with tb := { s1.tb with calFail := true } }).event 0x84 3 0xFF 0xFF 0xFFFF (BitVec.ofNat 32 (i / 6))).alert 4

/-! ### The start-up (17 R484) -/

/-- The n-th draw of the true random source (16 R452, R477). -/
def State.draw (s : State) : Word × State := (Config.random s.rnd, { s with rnd := s.rnd + 1 })

/-- Everything but fuses, flash, pins and what is the model's own is lost (17 R487). -/
def State.wipe (s : State) : State :=
  { State.reset with pending := s.pending, fuses := s.fuses, flash := s.flash, pwr := s.pwr, out := s.out, rnd := s.rnd, free := s.free }

/-- An entry of the RLIB catalogue (16 R445). -/
def routineOf (b : List Byte) : Routine := ⟨leAt b 0 2, leAt b 2 2, leAt b 4 4, leAt b 8 2⟩

/-- The catalogue of resident routines that an RLIB payload carries (16 R445). -/
def rlibRoutines (payload : List Byte) : List Routine :=
  let w := Config.rlibWhere payload
  (List.range w.2).map fun i => routineOf (payload.drop (w.1 + 16 * i))

/-- MF's start-up from the bank it booted from (16 R455; 17 R484): the log, the images, the outcome, calibration,
configuration. -/
def State.startMf (s : State) (own : Nat) (mf : FwImg) (cal : Calib) : State :=
  let d := s.draw
  let boot : Word := if d.1 = 0 then 1 else d.1
  let imgs := [2, 3, 4, 5].map fun k => s.loadImage own k
  let mx := s.matrix ([0, 1].filter fun b => s.bankValid b)
  let oc := classify s.fuses.stepping (mx.map (·.2)) (some mf :: imgs.map fun i => i.map (·.1))
  let mximg : FwImg := (mx.map (·.1)).getD FwImg.reset
  let mseq : Word := BitVec.ofNat 32 (leAt ((mx.map (·.2)).getD []) 0 4)
  let cat : List Routine :=
    match s.loadImage own 2 with
    | some x => rlibRoutines x.2
    | none => []
  let all := mf :: (imgs.map fun i => (i.map (·.1)).getD FwImg.reset) ++ [mximg]
  let s1 := { d.2 with mc := { d.2.mc with images := all, bootId := boot, matrixSeq := mseq, rlib := cat.take 256 },
                       sc := { d.2.sc with chain := sm3 (s.deviceId ++ leBytes 4 boot.toNat ++ List.replicate 20 0) },
                       pwr := { d.2.pwr with phase := .starting } }
  let s2 := s1.wr rMcStatus (BitVec.ofNat 32 (own + oc.1 * 2 + oc.2 * 8 + 2 ^ 13))
  let s3 := s2.log originFw 1 0xFF (BitVec.ofNat 32 own) 0 (BitVec.ofNat 32 (oc.1 * 256 + oc.2))
  let s4 :=
    if oc.1 = 1 then s3.event 0x88 1 0xFF 0xFF 0xFFFF (BitVec.ofNat 32 oc.2)
    else if oc.1 = 2 then (s3.event 0x89 1 0xFF 0xFF 0xFFFF 0).alert 5
    else s3
  ((s4.calibrate cal).applyConfig).applyUcal

/-- The internal reset is released and the device starts up (16 R454; 17 R483 to R485). -/
def State.startUp (s : State) (cal : Calib) : State :=
  let s0 := { s.wipe with pwr := { s.pwr with resetN := true } }
  let s1 := { s0 with tb := { s0.tb with locked := true } }
  if s1.fuses.lifecycle = 4 then { s1 with pwr := { s1.pwr with phase := .halted } }
  else
    match s1.validBanks.findSome? fun b => (s1.imageOk b 1).map fun x => (b, x.1) with
    | none => { s1 with pwr := { s1.pwr with phase := .halted, alertHeld := true } }
    | some (b, mf) => s1.startMf b mf cal

end Sys2Proof.Machine
end

