-- ==== Sys2Proof/Machine/Clock.lean ====
section
/-! DEFINITION. Operations over the time base, the regions and the ports that several families use: bringing TC forward,
losing the source, stretching, levels, losing a neighbour (10 R304, R305; 11 R311 to R326). -/

namespace Sys2Proof.Machine

open Sys2Proof

/-- TC brought forward to a value the spec fixes an event to; never back (log entry 2). -/
def State.toTc (s : State) (t : DWord) : State :=
  if s.tb.tc.toNat < t.toNat then { s with tb := { s.tb with tc := t } } else s

/-- The TC of the boundary that opens the next period (11 R327). -/
def State.nextBoundary (s : State) : DWord := s.beat.startTc + (s.beat.period + 1) * BitVec.ofNat 64 (s.rd rTbBeatLen).toNat

/-- The offset G at which the guard band begins (11 R327). -/
def State.guardAt (s : State) : Nat := (s.rd rTbBeatLen).toNat - (s.rd rTbGuard).toNat

/-- The TC at which the period in progress began (11 R327). -/
def State.beatStart (s : State) : DWord := s.beat.startTc + s.beat.period * BitVec.ofNat 64 (s.rd rTbBeatLen).toNat

/-- The TB loses its source: holdover, REF_LOST, a record (11 R313). -/
def State.loseSource (s : State) : State :=
  let s1 := { s with tb := { s.tb with locked := false, holdover := true } }
  (s1.setBit rTbStatus 2).event 0x82 3 0xFF 0xFF 0xFFFF (BitVec.ofNat 32 (bn s.tb.srcPort))

/-- A flight-fault condition is entered; the first one stands (10 R304). -/
def State.enterCond (s : State) (cause port : Nat) : State :=
  { s with beat := { s.beat with cond := some (s.beat.cond.getD (cause, port)),
                                 acc := { s.beat.acc with fault := true } } }

/-- A port of the tether. -/
def State.port (s : State) (p : Fin 8) : TPort := s.tether.ports[p]

/-- The state with a port replaced. -/
def State.setPort (s : State) (p : Fin 8) (x : TPort) : State :=
  { s with tether := { s.tether with ports := s.tether.ports.set p x } }

/-- A port's neighbour is declared lost; a joined device enters the flight-fault condition NEIGHBOUR_LOST (10 R304, R305). -/
def State.loseNeighbour (s : State) (p : Fin 8) : State :=
  let s1 := s.setPort p { s.port p with lost := true }
  if s.beat.joined then s1.enterCond 1 p.val else s1

/-- A port loses lock: it returns to TRAIN, its neighbour is lost, and a TB locked to it loses its source (10 R279, R305;
11 R313). -/
def State.loseLock (s : State) (p : Fin 8) : State :=
  let s1 := (s.setPort p { s.port p with st := 1, lanes := 0 }).loseNeighbour p
  if s.tb.srcPort ∧ s.tether.join.parent = some p.val ∧ s.tb.locked then s1.loseSource else s1

/-! ### Regions -/

/-- The region of a physical core position. -/
def regionAt (px py : Nat) : Nat := px / 4 + 4 * (py / 4)

/-- Do the partition's cores and the routes between them use the region (11 R325)? The routes are taken to stay within the
physical rows that the partition's cores span (log entry 11). -/
def State.partUses (s : State) (q : Part) (r : Nat) : Bool :=
  let xs := (List.range q.w).map fun i => q.x0 + i
  let lo := xs.foldl (fun a x => min a (s.physRow x q.y0)) 15
  let hi := xs.foldl (fun a x => max a (s.physRow x (q.y0 + q.h - 1))) 0
  xs.any fun x => (List.range 16).any fun py =>
    decide (lo ≤ py) && decide (py ≤ hi) && decide (regionAt x py = r)

/-- Must the region run at 600 MHz (11 R325)? -/
def State.regionHeld (s : State) (r : Nat) : Bool :=
  s.partList.any fun p => decide (p.2.st = .running ∨ p.2.st = .starting) && s.partUses p.2 r

/-- A request for a level (11 R325, R326): refused for a region that running work uses, else the change starts; a request for the level
in effect, such as the write that clears REFUSED may hold, changes nothing and stops nothing. -/
def State.levelRequest (s : State) (o : Origin) (r : Fin 16) (v : Word) : State :=
  let a := rPmRegionClk r.val
  let s1 := if bit v 5 then s.clrBit a 5 else s
  let req := fld v 0 2
  if s.regionHeld r.val ∧ req ≠ s.level r.val then (s1.refuseWrite o a v).setBit a 5
  else
    let s2 := s1.wrF a 0 2 req
    let s3 := if req = s.level r.val ∧ !bit (s.rd a) 4 then s2 else s2.setBit a 4
    s3.logWrite o a (s.rd a) (s3.rd a)

/-- The change completes: CUR takes the level requested, BUSY ends (11 R326). -/
def State.levelDone (s : State) (r : Fin 16) : State :=
  let a := rPmRegionClk r.val
  if bit (s.rd a) 4 then (s.wrF a 2 2 (fld (s.rd a) 0 2)).clrBit a 4 else s

/-- The grid neighbours of a region. -/
def regionNeighbours (r : Nat) : List Nat :=
  (if r % 4 = 0 then [] else [r - 1]) ++ (if r % 4 = 3 then [] else [r + 1]) ++ (if r < 4 then [] else [r - 4])
    ++ (if r < 12 then [r + 4] else [])

/-- The stretch count of a region in this beat (11 R321). -/
def State.stretchOf (s : State) (r : Nat) : Nat := s.tb.stretch.toList.getD r 0

/-- The stretch budget of a region's level in a beat (11 R322). -/
def State.budget (s : State) (r : Nat) : Nat :=
  let l := (s.rd rTbBeatLen).toNat
  let n := if s.level r = 0 then 3 * l / 2 else if s.level r = 1 then 9 * l / 8 else 3 * l / 4
  n / 100

/-- The region stretches one cycle; a count over budget sets SKIP, after the status cut for the next status (11 R320, R322, R331,
R334). -/
def State.stretch (s : State) (r : Fin 16) : State :=
  let n := min 0xFFFF (s.stretchOf r.val + 1)
  let s1 := { s with tb := { s.tb with stretch := s.tb.stretch.set r n } }
  if s.budget r.val < n ∧ s.beat.joined then s1.setSkip else s1

/-- May the region stretch on its own monitors: not ahead of any neighbour, or over its budget (11 R321, R322)? -/
def State.mayStretch (s : State) (r : Nat) : Bool :=
  decide (s.budget r < s.stretchOf r) || (regionNeighbours r).all fun b => decide (s.stretchOf r ≤ s.stretchOf b)

/-- Does a warning of the region wait (11 R321)? -/
def State.warnWaits (s : State) (r : Nat) : Bool := s.tb.warnWait.toList.getD r false

/-- The region's waiting warning set or cleared. -/
def State.setWarn (s : State) (r : Fin 16) (b : Bool) : State :=
  { s with tb := { s.tb with warnWait := s.tb.warnWait.set r b } }

/-- The warnings that waited for neighbours to follow take their stretch (11 R321). -/
def State.drainWarns (s : State) : State :=
  (List.finRange 16).foldl
    (fun t r => if t.warnWaits r.val && t.mayStretch r.val then (t.setWarn r false).stretch r else t) s

end Sys2Proof.Machine
end

