-- ==== Sys2Proof/Machine/JoinRun.lean ====
section
/-! DEFINITION. The ports' training and the join of a flight, step by step (10 R279, R298 to R303; 11 R312, R327). -/

namespace Sys2Proof.Machine

open Sys2Proof

/-! ### Ports -/

/-- Is the port enabled (10 R309)? Without an LNK image every port is OFF (16 R455). -/
def State.portEn (s : State) (p : Fin 8) : Bool := bit (s.rd (rTetherPortCfg p)) 0 && !(s.fwImg 3).absent

/-- The enabled ports. -/
def State.portsEn (s : State) : List (Fin 8) := (List.finRange 8).filter fun p => s.portEn p

/-- The ports of the flight that the device has joined (10 R294, R296). -/
def State.portsJoined (s : State) : List (Fin 8) := (List.finRange 8).filter fun p => (s.port p).joined

/-- PEER of a port's configuration. -/
def State.peerOf (s : State) (p : Fin 8) : Nat := fld (s.rd (rTetherPortCfg p)) 1 10

/-- D_NOM of a port. -/
def State.dNom (s : State) (p : Nat) : Nat := fld (s.rd (rTetherPortCfg p)) 14 10

/-- The device's chip ID. -/
def State.chipId (s : State) : Nat := fld (s.rd rTetherChip) 0 10

/-- The flight tag. -/
def State.flightTag (s : State) : Nat := fld (s.rd rTetherChip) 10 16

/-- ROUNDS. -/
def State.rounds (s : State) : Nat := fld (s.rd rTetherJoinCtl) 3 5

/-- S, the distance of two status rounds (10 R294). -/
def State.roundGap (s : State) : Nat := s.tether.join.dMax + 10

/-- Does an alignment block name what the port's configuration expects (10 R299, R304)? -/
def State.blockOk (s : State) (p : Fin 8) (b : AlignBlock) : Bool :=
  decide (b.chip = s.peerOf p) && decide (b.port = fld (s.rd (rTetherPortCfg p)) 11 3) && decide (b.tag = s.flightTag)

/-- The state with a port changed. -/
def State.updPort (s : State) (p : Fin 8) (f : TPort → TPort) : State := s.setPort p (f (s.port p))

/-- EN of a port has been written (10 R279, R309): set, the port begins to train; cleared, it is off, and a joined device has lost
the neighbour. -/
def State.portEnable (s : State) (p : Fin 8) (on : Bool) : State :=
  if on then s.updPort p fun _ => { TPort.reset with st := if (s.fwImg 3).absent then 0 else 1, joined := (s.port p).joined }
  else
    let s1 := if s.beat.joined then s.loseLock p else s
    s1.updPort p fun x => { TPort.reset with lost := x.lost, joined := x.joined }

/-! ### The join (10 R299 to R303) -/

/-- The state with the join changed. -/
def State.updJoin (s : State) (f : Join → Join) : State := { s with tether := { s.tether with join := f s.tether.join } }

/-- What the four lane markers of an alignment block carry: the lane number and the sender's port (10 R277). -/
def laneMarkers (p : Fin 8) : List (Nat × Nat) := (List.range 4).map fun n => (n, p.val)

/-- A cell sent on a port, with the alignment block that begins every frame of 544 cells before it (10 R277; log entry 12); the frame
counter wraps (11 R335). -/
def State.sendOn (s : State) (p : Fin 8) (c : Cell) : State :=
  let x := s.port p
  let b : AlignBlock := ⟨x.frame, s.chipId, p.val, s.flightTag, Config.linkState x.st⟩
  let y := if x.cells = 543 then { x with cells := 0, frame := x.frame + 1 } else { x with cells := x.cells + 1 }
  { s.setPort p y with out := s.out ++ (if x.cells = 0 then [.align p b (laneMarkers p)] else []) ++ [.cell p c] }

/-- A JOIN cell sent on a port (10 R282, R301). -/
def State.sendJoin (s : State) (p : Fin 8) (op : Nat) (body : List Byte) : State :=
  let c : Cell := { cls := 6, src := s.chipId, dst := s.peerOf p, arg := BitVec.ofNat 32 op, valid := 0,
                    payload := body ++ List.replicate (256 - body.length) 0 }
  s.sendOn p c

/-- The join is in progress. -/
def State.joining (s : State) : Bool := decide (1 ≤ s.tether.join.step ∧ s.tether.join.step ≤ 5)

/-- A join fails: the code, and the record (10 R299, R310; 16 R465). -/
def State.joinFail (s : State) (code : Nat) : State :=
  if s.joining then
    (s.updJoin fun j => { j with step := 7, code := code }).log originHw 11 0xFF 0 0 (BitVec.ofNat 32 code)
  else s

/-- Are BEAT_LEN and GUARD within their limits (10 R286, R294; 11 R327)? -/
def State.beatOk (s : State) : Bool :=
  let l := (s.rd rTbBeatLen).toNat
  let g := (s.rd rTbGuard).toNat
  decide (l % 2 = 0 ∧ 1600 ≤ l ∧ l ≤ 400000 ∧ 64 ≤ g ∧ 8 + s.rounds * s.roundGap ≤ g ∧ g + 256 ≤ l)

/-- The compatibility level (16 R476). -/
def State.compatLevel (s : State) : Nat := fld (s.rd rMcStatus) 3 8

/-- The ports whose neighbour is a child. -/
def State.children (s : State) : List (Fin 8) := s.portsEn.filter fun p => decide ((s.port p).heard = .child)

/-- Has the device heard from every port: ADOPT or PEER on each, its parent's excepted (10 R303; log entry 52)? -/
def State.heardAll (s : State) : Bool :=
  s.portsEn.all fun p => decide ((s.port p).heard ≠ .nothing) || decide (s.tether.join.parent = some p.val)

/-- The 128 bytes of a bitmap of chip IDs. -/
def chipBitmap (cs : List Nat) : List Byte :=
  (List.range 128).map fun i => BitVec.ofNat 8 (bitsOf ((List.range 8).map fun b => cs.contains (8 * i + b)))

/-- START_TC of a root: its TC and START_LEAD, rounded up to even (10 R303). -/
def State.startTcOf (s : State) : DWord :=
  let t := s.tb.tc.toNat + max 1 (fld (s.rd rTetherJoinCtl) 16 16) * 400
  BitVec.ofNat 64 (t + t % 2)

/-- START is known: it goes down the tree, and the device waits for START_TC (10 R301, R303). -/
def State.takeStart (s : State) (t : DWord) (first : BitVec 48) : State :=
  let s1 := s.updJoin fun j => { j with step := 5, startTc := some t, first := first }
  s1.children.foldl (fun u p => u.sendJoin p 7 (leBytes 8 t.toNat ++ leBytes 8 first.toNat)) s1

/-- The device count of the flight description (10 R303; log entry 53). -/
def State.flightCount (s : State) : Nat := (Config.flightChips s.flightTag).length

/-- Step 4: the ready report (10 R303): to the parent, or at the root the start, once every device of the flight is counted; a
BEAT_LEN or guard band out of its limits fails the join (R286, R294, R299). -/
def State.joinReport (s : State) : State :=
  let j := s.tether.join
  if j.step = 4 ∧ !s.beatOk then s.joinFail 8
  else if j.step = 4 ∧ !j.sent ∧ s.heardAll ∧ bit (s.rd rTetherJoinCtl) 2 ∧ s.children.all fun p => (s.port p).ready then
    if j.isRoot then
      if j.count = s.flightCount then (s.updJoin fun x => { x with sent := true }).takeStart s.startTcOf Config.firstBeat else s
    else
      match (List.finRange 8).find? fun p => decide (j.parent = some p.val) with
      | some p => (s.updJoin fun x => { x with sent := true }).sendJoin p 6
          (chipBitmap j.bitmap ++ leBytes 2 j.count ++ leBytes 1 s.compatLevel ++ leBytes 4 (s.rd rTbBeatLen).toNat)
      | none => s
  else s

/-- TIME sent on ports (10 R302). -/
def State.sendTime (s : State) (ps : List (Fin 8)) (hops : Nat) : State :=
  ps.foldl (fun t p => t.sendJoin p 3 (leBytes 8 s.tb.tc.toNat ++ leBytes 1 hops)) s

/-- Step 3 at the root: it sends TIME on every port and goes on to step 4. -/
def State.joinAlign (s : State) : State :=
  let j := s.tether.join
  if j.step = 3 ∧ j.isRoot then ((s.sendTime s.portsEn 0).updJoin fun x => { x with step := 4 }).joinReport
  else if j.step = 3 ∧ j.parent.isSome then (s.updJoin fun x => { x with step := 4 }).joinReport
  else s.joinReport

/-- Step 2 done once every enabled port is MEASURED (10 R299, R300). -/
def State.joinMeasure (s : State) : State :=
  if s.tether.join.step = 2 ∧ s.portsEn.all fun p => decide (3 ≤ (s.port p).st) then
    (s.updJoin fun j => { j with step := 3 }).joinAlign
  else s

/-- Step 1 done once every enabled port is LOCKED to the neighbour expected (10 R299); a port that failed to train fails the
join. -/
def State.joinTrain (s : State) : State :=
  if s.tether.join.step ≠ 1 then s
  else if s.portsEn.any fun p => (s.port p).late && decide ((s.port p).st = 1) then s.joinFail 1
  else if s.portsEn.all fun p => decide (2 ≤ (s.port p).st) then
    if s.portsEn.all fun p => match (s.port p).block with
      | some b => s.blockOk p b
      | none => false then (s.updJoin fun j => { j with step := 2 }).joinMeasure
    else s.joinFail 3
  else s

/-- START is written (10 R299, R303, R307): the fault of the last flight and READY are cleared, every port starts afresh from its
lock. -/
def State.joinStart (s : State) : State :=
  let root := bit (s.rd rTetherJoinCtl) 1
  let me := s.chipId
  let s1 := (List.finRange 8).foldl (fun t p => t.updPort p fun x =>
    { x with st := min x.st 2, dMeas := 0, delays := [], probes := 0, heard := .nothing, ready := false, time := none, joined := false,
             lost := x.lost && decide (x.st < 2) }) (s.clrBit rTetherJoinCtl 2)
  let s2 := { s1 with beat := { s1.beat with faulted := none, cond := none }, tb := { s1.tb with phaseRef := none, srcPort := false } }
  let s3 := s2.updJoin fun j =>
    { Join.reset with step := 1, isRoot := root, bitmap := [me], count := 1, dMax := j.dMax }
  (s3.log originHw 11 0xFF 0 0 0).joinTrain

/-- A TIME that names a better parent (10 R302): fewer hops, or as many on a lower port (log entry 53). The device takes the
carried TC plus the measured delay, with the fraction of a tc as its phase and the time since the TIME arrived added, and takes its
phase reference on the new parent port (11 R315); it tells its neighbours, and passes TIME on. -/
def State.takeTime (s : State) (p : Fin 8) (tcDep : DWord) (hops : Nat) (since : DWord) : State :=
  let j := s.tether.join
  let better : Bool := match j.parent with
    | none => true
    | some q => decide (hops + 1 < j.depth) || (decide (hops + 1 = j.depth) && decide (p.val < q))
  if !better then s
  else if 16 < hops + 1 ∨ s.rounds < hops + 1 then s.joinFail 6
  else
    let d := (s.port p).delays.foldl max 0
    let t := tcDep + BitVec.ofNat 64 (d / 32) + (s.tb.tc - since)
    let s0 := s.loadTc t
    let s1 := { s0 with tb := { s0.tb with phase := (d % 32 : Nat), srcPort := bit (s.rd rTbCtl) 0, phaseRef := none } }
    let s2 := (s1.log originHw 7 0xFF 0 (lo32 s.tb.tc) (lo32 t)).log originHw 7 0xFF 0 (hi32 s.tb.tc) (hi32 t)
    let s3 := s2.updJoin fun x => { x with parent := some p.val, depth := hops + 1 }
    let others := s3.portsEn.filter fun q => decide (q ≠ p)
    let s4 := others.foldl (fun u q => u.sendJoin q 5 []) (s3.sendJoin p 4 [])
    (s4.sendTime others (hops + 1)).joinAlign

/-- A measured exchange (10 R300): the one-way delay in 1/32 tc; with the 64th, the port is MEASURED or the join fails. A TIME that
came before is taken then (R302). -/
def State.takeEcho (s : State) (p : Fin 8) (delay : Nat) : State :=
  let x := s.port p
  let ds := x.delays ++ [delay]
  let s1 := s.setPort p { x with delays := ds }
  if ds.length < 64 then s1
  else
    let hi := ds.foldl max 0
    let lo := ds.foldl min hi
    let d := 2 * ceilDiv hi 64
    if 8 < hi - lo ∨ s.dNom p < d then s1.joinFail 2
    else
      let s2 := s1.setPort p { x with delays := ds, dMeas := d, st := 3, time := none }
      (match x.time with
        | some y => s2.takeTime p y.1 y.2.1 y.2.2
        | none => s2).joinMeasure

/-- A child's READY (10 R303). -/
def State.takeReady (s : State) (p : Fin 8) (r : ReadyMsg) : State :=
  let j := s.tether.join
  if r.chips.any fun c => j.bitmap.contains c then s.joinFail 4
  else if r.level ≠ s.compatLevel then s.joinFail 5
  else if r.beatLen ≠ (s.rd rTbBeatLen).toNat then s.joinFail 8
  else
    ((s.updPort p fun x => { x with ready := true }).updJoin fun x =>
      { x with bitmap := x.bitmap ++ r.chips, count := x.count + r.count }).joinReport

end Sys2Proof.Machine
end

