-- ==== Sys2Proof/Machine/Slots.lean ====
section
/-! DEFINITION. The run tables of the tether as they play: entries, slots, owners (10 R286 to R292). -/

namespace Sys2Proof.Machine

open Sys2Proof

/-- The class of a run entry. -/
def runClass (e : DWord) : Nat := fld64 e 16 4
/-- The model group of a run entry. -/
def runGroup (e : DWord) : Nat := fld64 e 20 11
/-- The leg of a DATA run entry. -/
def runLeg (e : DWord) : Nat := fld64 e 32 5
/-- FWD of a departure entry, CONSUME of an arrival entry. -/
def runBit (e : DWord) : Bool := decide (fld64 e 37 1 = 1)
/-- FROM of a departure entry. -/
def runFrom (e : DWord) : Nat := fld64 e 38 3
/-- FWD_MASK of an arrival entry. -/
def runMask (e : DWord) : Nat := fld64 e 41 5 + fld64 e 48 3 * 32
/-- PEER of a run entry. -/
def runPeer (e : DWord) : Nat := fld64 e 51 10


/-- The entry in effect in slot k of a table (10 R286). -/
def runAt : List DWord → Nat → Option DWord
  | [], _ => none
  | e :: r, k => if runLen e = 0 then none else if k < runLen e then some e else runAt r (k - runLen e)

/-- The owner of slot k of a port and direction, with its entry; none where the slot is idle (10 R288). -/
def State.slot (s : State) (port : Nat) (dep : Bool) (k : Nat) : Option (Nat × DWord) :=
  s.tether.runs.findSome? fun r =>
    if r.port = port ∧ r.dep = dep then
      match runAt r.entries k with
      | some e => if runClass e = 0 then none else some (r.owner, e)
      | none => none
    else none

/-- Has the owner a departure slot of a class toward a chip in the current beat (06 R189; 08 R244)? -/
def State.ownsSlot (s : State) (owner cls chip : Nat) : Bool :=
  s.tether.runs.any fun r => decide (r.owner = owner) && r.dep &&
    (runLive r.entries).any fun e => decide (runClass e = cls) && !runBit e && decide (runPeer e = chip)

end Sys2Proof.Machine
end

