-- ==== Sys2Proof/Machine/LpRun.lean ====
section
/-! DEFINITION. The lattice port engine and the lattice switches: what LP commands do at issue, how a flit departs, passes a
switch and lands (06 R191 to R193; 09 R252 to R264). -/

namespace Sys2Proof.Machine

open Sys2Proof

/-! ### The switch table (09 R257, R258) -/

/-- The source code of an output of an entry: 0 N, 1 E, 2 S, 3 W, 4 L. -/
def latSrc (e : DWord) (out : Nat) : Nat := fld64 e (16 + 3 * out) 3
/-- The send stream of an entry. -/
def latSend (e : DWord) : Nat := fld64 e 32 6
/-- The receive stream of an entry. -/
def latRecv (e : DWord) : Nat := fld64 e 40 6
/-- Does an entry's local port depart? -/
def latDeparts (e : DWord) : Bool := (List.range 5).any fun o => decide (latSrc e o = 5)


/-- Does the table name a send stream, or a receive stream (06 R191)? -/
def Lat.names (l : Lat) (send : Bool) (s : Nat) : Bool :=
  l.live.any fun e => if send then latDeparts e && decide (latSend e = s)
    else decide (latSrc e 4 ≠ 0) && decide (latRecv e = s)

/-- The switch at an entry of its table: in effect for RUN cycles, or the empty set where the table has ended. -/
def Lat.at (l : Lat) (i : Nat) : Lat :=
  match l.live[i]? with
  | some e => { l with idx := i, left := runLen e, play := true }
  | none => { l with idx := i, left := 0, play := false }

/-- The entry in effect at a core's switch; none from the guard band on (09 R257). -/
def State.latEntry (s : State) (c : Nat) : Option DWord :=
  let l := (s.core c).lat
  if s.inWork && l.play then l.live[l.idx]? else none

/-! ### LP commands -/

/-- Do address and length break the limits of 06 R191? -/
def lpLimits (a n : Nat) : Bool := decide (a % 128 ≠ 0 ∨ n % 128 ≠ 0 ∨ n = 0 ∨ 16777088 < n)

/-- lp.send at issue (06 R191). -/
def State.issueLpSend (s : State) (c : Nat) (e : QEntry) (st : Strm) (src n : Nat) : State :=
  let k := s.core c
  if !k.lat.names true st.val then s.failCmd c .lp e ⟨0x58, 0⟩
  else if lpLimits src n then s.failCmd c .lp e ⟨0x59, 0⟩
  else if 2 ≤ (k.lp.sends.filter fun x => decide (x.strm = st)).length then s.failCmd c .lp e ⟨0x5A, 0⟩
  else
    match s.checkRange c src n with
    | some x => s.failCmd c .lp e x
    | none =>
      (s.updCore c fun k => { k with lp := { k.lp with sends := k.lp.sends ++ [⟨e.id, st, src, n, 0⟩] } }).start c .lp e .send

/-- lp.arm at issue (06 R191; 08 R248, R251). -/
def State.issueLpArm (s : State) (c : Nat) (e : QEntry) (st : Strm) (dst n : Nat) (add : Option (Word × Word)) : State :=
  let k := s.core c
  let addBad := match add with
    | some p => decide (p.2.toNat = 0 ∨ 65535 < p.2.toNat)
    | none => false
  let flagBad := match add with
    | some p => decide ((s.corePart c).fcount ≤ p.1.toNat)
    | none => false
  if !k.lat.names false st.val then s.failCmd c .lp e ⟨0x58, 0⟩
  else if lpLimits dst n || addBad then s.failCmd c .lp e ⟨0x59, 0⟩
  else if 2 ≤ (k.lp.arms.filter fun x => decide (x.strm = st)).length then s.failCmd c .lp e ⟨0x5A, 0⟩
  else
    match s.checkRange c dst n with
    | some x => s.failCmd c .lp e x
    | none =>
      if flagBad then s.failCmd c .lp e ⟨0x60, 0⟩
      else
        (s.updCore c fun k => { k with lp := { k.lp with arms := k.lp.arms ++ [⟨e.id, st, dst, n, 0, false, add⟩] } }).start c
          .lp e .arm

/-- lp.disarm at issue (06 R191; 08 R218): the untouched buffers of the stream are dropped and their commands complete; a
buffer partly written is LP_ARM. -/
def State.issueLpDisarm (s : State) (c : Nat) (e : QEntry) (st : Strm) : State :=
  let k := s.core c
  let mine := k.lp.arms.filter fun x => decide (x.strm = st)
  if !k.lat.names false st.val then s.failCmd c .lp e ⟨0x58, 0⟩
  else if mine.any (·.written) then s.failCmd c .lp e ⟨0x5A, 0⟩
  else
    let s1 := s.updCore c fun k => { k with lp := { k.lp with arms := k.lp.arms.filter fun x => decide (x.strm ≠ st) } }
    let ids := mine.map (·.id)
    (((s.core c).issued.filter fun i => ids.contains i.id && decide (i.finish = .arm)).foldl
      (fun t i => t.finishIssued c i) s1).finish c e

/-! ### Flits -/

/-- A void flit (09 R255). -/
def voidFlit : Flit := ⟨true, false, false, List.replicate 128 0, List.replicate 16 false⟩

/-- Which way an output leads: a neighbour with the input it enters, or a leg (09 R252, R261). -/
inductive Link where
  | core (c : Nat) (d : Dir)
  | leg (n : Nat)
  | nowhere
  deriving DecidableEq, Repr

/-- Where output 0 N, 1 E, 2 S or 3 W of a core's switch leads. -/
def State.linkOf (s : State) (c out : Nat) : Link :=
  let x := c % 16
  let y := c / 16
  if out = 0 then (if y = 0 then .leg x else .core (c - 16) .s)
  else if out = 1 then (if x = 15 then .nowhere else .core (c + 1) .w)
  else if out = 2 then (if y + 1 = s.rows then .leg (16 + x) else .core (c + 16) .n)
  else (if x = 0 then .nowhere else .core (c - 1) .e)

/-- The flits on their way to an input. -/
def Lat.input (l : Lat) : Dir → List Flit
  | .n => l.inN
  | .e => l.inE
  | .s => l.inS
  | .w => l.inW
  | .l => []

/-- The switch with the flits on their way to an input replaced. -/
def Lat.setInput (l : Lat) (d : Dir) (q : List Flit) : Lat :=
  match d with
  | .n => { l with inN := q }
  | .e => { l with inE := q }
  | .s => { l with inS := q }
  | .w => { l with inW := q }
  | .l => l

/-- The code of an input in a switch entry (09 R258). -/
def dirCode : Dir → Nat
  | .n => 1
  | .e => 2
  | .s => 3
  | .w => 4
  | .l => 5

/-- A leg's departure buffer. -/
def State.legOut (s : State) (n : Nat) : List Flit := Sparse.get (fun _ => []) s.tether.legDep n
/-- A leg's arrival buffer. -/
def State.legIn (s : State) (n : Nat) : List Flit := Sparse.get (fun _ => []) s.tether.legArr n

/-- The state with a leg's departure buffer replaced. -/
def State.setLegOut (s : State) (n : Nat) (q : List Flit) : State :=
  { s with tether := { s.tether with legDep := Sparse.set (fun _ => []) s.tether.legDep n q } }
/-- The state with a leg's arrival buffer replaced. -/
def State.setLegIn (s : State) (n : Nat) (q : List Flit) : State :=
  { s with tether := { s.tether with legArr := Sparse.set (fun _ => []) s.tether.legArr n q } }

/-- SCHED_MISS recorded by a core's LP, with the stream offset of the command it is about; where there is none the record's
offset is a free value (06 R192, R197, R199; log entry 22). -/
def State.lpMiss (s : State) (c : Nat) (pc : Option Nat) : State :=
  match pc with
  | some n => s.coreMiss c 4 n
  | none => State.coreMiss { s with free := s.free + 1 } c 4 (Config.noOffset s.free)

/-- The stream offset of an issued command, by its number. -/
def Core.pcOf (k : Core) (id : Nat) : Option Nat := (k.issued.find? fun i => decide (i.id = id)).map (·.pc)

/-- A flit leaves an output (09 R253, R256, R261): toward a neighbour of the same level, into a leg's departure buffer of 64,
or nowhere. At another level it is discarded at the receiver, which finds nothing in its cycle, and the sender records the
miss for the departure, with the offset of its send where it is its own. A flit already gone moves nothing. -/
def State.leaveBy (s : State) (c out : Nat) (f : Flit) (pc : Option Nat) : State :=
  match s.linkOf c out with
  | .core d i =>
    let put (u : State) (g : Flit) : State := u.updCore d fun k => { k with lat := k.lat.setInput i (k.lat.input i ++ [g]) }
    if f.gone then put s f
    else if s.level (s.regionOf c) = s.level (s.regionOf d) then put s f
    else (put (s.setBit (rLatStatus d) 14) { f with gone := true }).lpMiss c pc
  | .leg n =>
    let s1 := if f.late then s.lpMiss c none else s
    if f.gone then s1 else if (s1.legOut n).length < 64 then s1.setLegOut n (s1.legOut n ++ [{ f with late := false }]) else s1
  | .nowhere => s

/-- A flag operation leaves a source for its bank (08 R234). -/
def State.postFlag (s : State) (o : FlagOp) : State := { s with flags := { s.flags with ops := s.flags.ops ++ [o] } }

/-- LANDING_REFUSED recorded by a core (06 R193, R197, R199): no command stands behind the arrival, so the record's offset is a
free value (log entry 22). -/
def State.lpRefuse (s : State) (c st : Nat) : State :=
  let s0 := { s with free := s.free + 1 }
  let s1 := s0.setBit (rLpStatus c) 2
  let s2 := if bit (s.rd (rLpRefuse c)) 6 then s1 else s1.wr (rLpRefuse c) (BitVec.ofNat 32 (st + 64))
  (s2.gather 0x71 0 4 (s.partNo c) c (BitVec.ofNat 32 (Config.noOffset s.free))).failBeat

/-- A flit is deposited at the next position of the oldest armed buffer of a stream (06 R193; 08 R218, R246): a void flit
writes nothing, and neither does one that its link has discarded, whose position stays unwritten (09 R256; log entry 22); one put in for a late
crossing is the miss of the LP that it should have reached (11 R323); a full buffer is disarmed, its command completes and its flag add leaves. -/
def State.deposit (s : State) (c st : Nat) (f : Flit) : State :=
  let s := if f.late then s.lpMiss c none else s
  match (s.core c).lp.arms.find? fun a => decide (a.strm.val = st) with
  | none => if f.gone then s else s.lpRefuse c st
  | some a =>
    let at_ := a.dst + a.got
    let bad := ((List.range 16).filter fun g => f.poison.getD g false).map fun g => at_ + 8 * g
    let s1 :=
      if f.void || f.gone then s
      else
        let t := (s.writeAt c (spread at_ (f.bytes.take 128))).poisonAt c bad
        if bad.isEmpty then t else t.setBit (rLpStatus c) 3
    let a1 := { a with got := a.got + 128, written := a.written || !(f.void || f.gone) }
    if a1.got < a.bytes then
      s1.updCore c fun k => { k with lp := { k.lp with arms := k.lp.arms.map fun x => if x.id = a.id then a1 else x } }
    else
      let s2 := s1.updCore c fun k => { k with lp := { k.lp with arms := k.lp.arms.filter fun x => decide (x.id ≠ a.id) } }
      let s3 := ((s.core c).issued.filter fun i => decide (i.id = a.id)).foldl (fun t i => t.finishIssued c i) s2
      match a.add with
      | some p => s3.postFlag ⟨(s.corePart c).fbase + p.1.toNat, .add, p.2, c, 3, a.id⟩
      | none => s3

/-- A flit presented at a source of a switch goes to every output whose set selects it; one that no output selects is lost,
and counted where it is valid (09 R254, R259). -/
def State.pass (s : State) (c code : Nat) (f : Flit) (pc : Option Nat) : State :=
  let outs := match s.latEntry c with
    | some e => (List.range 5).filter fun o => decide (latSrc e o = code)
    | none => []
  let st := match s.latEntry c with
    | some e => latRecv e
    | none => 0
  if outs.isEmpty then (if f.void || f.gone then s else s.bump (rLatDiscards c))
  else outs.foldl (fun t o => if o = 4 then t.deposit c st f else t.leaveBy c o f pc) s

/-- The check of a flit's granules at the receiving switch (09 R255): single errors corrected and counted, others delivered
poisoned with LAT_STATUS.UE and a failed beat. -/
def State.checkFlit (s : State) (c : Nat) (f : Flit) (up : List Upset) : State × Flit :=
  let ce := (up.filter fun u => u.correctable && !f.poison.getD u.addr false).length
  let ue := (up.filter fun u => !u.correctable && !f.poison.getD u.addr false).map (·.addr)
  let s1 := if ce = 0 then s else (s.setBit (rLatStatus c) 12).bumpN (rLatCeCount c) ce
  let s2 := if ue.isEmpty then s1 else (s1.setBit (rLatStatus c) 13).failBeat
  (s2, { f with poison := (List.range 16).map fun g => f.poison.getD g false || ue.contains g })

end Sys2Proof.Machine
end

