-- ==== Sys2Proof/Machine/Pct.lean ====
section
/-! DEFINITION. The commands of sessions, and what intake commands carry (15 R428 to R433, R441). -/

namespace Sys2Proof.Machine

open Sys2Proof

/-- SESSION_SYN: opens or resets a session (15 R430). -/
def execSessionSyn (h : PctHdr) (s : State) : Res := .next (s.admitPct { h with syn := true }).1

/-- ACK: the host's acknowledgement moves the send window (15 R431). -/
def execAck (h : PctHdr) (s : State) : Res := .next (s.admitPct h).1

/-- PCT_RESEND_TIMEOUT: RTO has passed without progress: every unacknowledged message again, in order, with RETRY; after 16
resends without progress the session closes (15 R431). -/
def execPctResendTimeout (sess : Fin 64) (s : State) : Res :=
  match s.sessAt sess.val with
  | none => .next s
  | some x =>
    if x.unacked = [] then .next s
    else if 16 ≤ x.resends then .next (s.closeSess sess.val)
    else
      let x1 := { x with resends := x.resends + 1 }
      .next (x.unacked.foldl (fun t m => t.emitMsg x1 m true) (s.setSess sess.val (some x1)))

/-- HEARTBEAT: a host's heartbeat on its session (15 R432, R441). -/
def execHeartbeat (h : PctHdr) (s : State) : Res :=
  match s.admitPct h with
  | (s1, none) => .next s1
  | (s1, some i) =>
    match s1.sessAt i with
    | some x => .next (s1.setSess i (some { x with missed := 0, ep := h.ep }))
    | none => .next s1

/-- HOST_HEARTBEAT_TIMEOUT: three host heartbeats in a row have failed to arrive: the session closes (15 R432). -/
def execHostHeartbeatTimeout (sess : Fin 64) (s : State) : Res := .next (s.closeSess sess.val)

/-- The STATE of a heartbeat (15 R441). -/
def State.hbState (s : State) : Nat :=
  if s.mc.resetPend then 4 else if s.beat.joined then 2 else if s.beat.faulted.isSome then 3 else 1

/-- Is the ALERT_N condition present (16 R471)? -/
def State.alerting (s : State) : Bool := decide (s.rd rScAlert ≠ 0) || s.pwr.alertHeld

/-- The body of a heartbeat (15 R441). -/
def State.hbBody (s : State) : List Byte :=
  leBytes 8 s.tb.tc.toNat ++ leBytes 6 s.beat.lastCommit.toNat ++ leBytes 1 s.hbState
    ++ leBytes 1 (bn s.alerting + bn (s.failover 0) * 2) ++ leBytes 4 s.mc.hbCount.toNat ++ leBytes 4 s.mc.bootId.toNat
    ++ leBytes 8 0

/-- A heartbeat to a source entry; COUNT counts it (15 R441; log entry 13). -/
def State.sendHeartbeat (s : State) (k : Nat) : State :=
  let w := s.wire 0 (beNat 16 (s.srcAddr k)) 39620 39620 0
  let s1 : State := { s.carry w with mc := { s.mc with hbCount := s.mc.hbCount + 1 } }
  { s1 with out := s1.out ++ [.heartbeat w s1.mc.bootId k s1.hbBody] }

/-- The enabled source entries with HB (15 R441, R443). -/
def State.hbDests (s : State) : List Nat :=
  (List.range 64).filter fun k => bit (s.rd (rIoSrcCtl k)) 9 && bit (s.rd (rIoSrcCtl k)) 10

/-- HEARTBEAT_SEND: after a TC multiple of 400,000, a heartbeat to every enabled source entry with HB (15 R441). -/
def execHeartbeatSend (s : State) : Res :=
  if s.pwr.phase = .ready then
    .next (s.hbDests.foldl State.sendHeartbeat (s.toTc (BitVec.ofNat 64 (ceilDiv s.tb.tc.toNat 400000 * 400000))))
  else .next s

/-! ### Intake (15 R433, R435) -/

/-- The group slot that anchors a model group (13 R355, R383). -/
def State.groupSlot (s : State) (g : Nat) : Option Nat :=
  (List.range 16).find? fun n => bit (s.rd (rRtGroupCtl n)) 0 && decide (fld (s.rd (rRtGroupCtl n)) 1 11 = g)

/-- The words of staging a command takes (15 R435). -/
def ReqOp.words : ReqOp → Nat
  | .submit b => b.words.length
  | .resume _ _ t => t.length
  | .cancel => 0
  | .draft _ st => 2 * st.length
  | .fetch _ _ => 0

/-- The entries of a group: its range in RT_GROUPn_ENT (13 R355, R383). -/
def State.groupEnts (s : State) (n : Nat) : List Nat :=
  let w := s.rd (rRtGroupEnt n)
  (List.range (fld w 14 15)).map fun i => fld w 0 14 + i

end Sys2Proof.Machine
end

