-- ==== Sys2Proof/Machine/Books.lean ====
section
/-! DEFINITION. The page books of a partition: pages, frames, lists, blocks, the token store, what a placement draws and
appends (14 R385 to R407). -/

namespace Sys2Proof.Machine

open Sys2Proof

/-! ### Configuration of a partition (14 R419) -/

/-- IDs of the pool. -/
def State.pgPool (s : State) (p : Nat) : Nat := fld (s.rd (rPgPartPool p)) 0 20
/-- Frames of the device. -/
def State.pgFrames (s : State) (p : Nat) : Nat := fld (s.rd (rPgPartFrames p)) 0 20
/-- The list blocks that firmware gives the partition, of the 131,072 of the store (14 R389). -/
def State.pgBlocks (s : State) (p : Nat) : List Nat :=
  ((List.range (fld (s.rd (rPgPartLbCount p)) 0 18)).map (fld (s.rd (rPgPartLbBase p)) 0 17 + ·)).filter fun b => decide (b < 131072)
/-- Does the partition serve a paged group? -/
def State.pgOn (s : State) (p : Nat) : Bool := (s.part p).isBound && bit (s.rd (rPgPartCtl p)) 0

/-- The local partitions of a model group. -/
def State.groupParts (s : State) (g : Nat) : List Nat :=
  (List.range 16).filter fun p => (s.part p).isBound && decide ((s.part p).group = g)

/-- Is the partition bound with EN and ANCHOR (13 R383)? -/
def State.anchors (s : State) (p : Nat) : Bool := s.pgOn p && bit (s.rd (rPgPartCtl p)) 1

/-- The partition whose token store and page books are the group's (14 R396): the one that was bound as its anchor, while it is
bound and after it (13 R382; log entry 58). -/
def State.booksPart (s : State) (g : Nat) : Option Nat :=
  (List.range 16).find? fun p => decide ((s.pgOf p).group = some g)

/-- That partition, while it is bound (13 R383; 14 R396). -/
def State.anchorPart (s : State) (g : Nat) : Option Nat :=
  (s.booksPart g).filter fun p => s.anchors p && decide ((s.part p).group = g)

/-- Is some partition of the group bound with EN and ANCHOR (13 R383)? -/
def State.hasAnchor (s : State) (g : Nat) : Bool := (s.groupParts g).any s.anchors

/-- A partition that is bound as an anchor takes the books of its group, where no other bound one has them; an unbound one that had
them has none any more (log entry 58). -/
def State.takeBooks (s : State) (p : Nat) : State :=
  let g := (s.part p).group
  let has (x : Nat) : Bool := decide ((s.pgOf x).group = some g)
  if !s.anchors p || (List.range 16).any fun x => has x && s.anchors x && decide ((s.part x).group = g) then s
  else
    let s1 := (List.range 16).foldl (fun t x => if has x && decide (x ≠ p) then t.setPg x PgPart.reset else t) s
    s1.setPg p { s1.pgOf p with group := some g }

/-! ### Pages, frames, lists -/

/-- A page of the books; none where it is FREE. -/
def PgPart.page (q : PgPart) (id : Nat) : Option Page := Sparse.get (fun _ => none) q.pages id
/-- The books with a page replaced. -/
def PgPart.setPage (q : PgPart) (id : Nat) (x : Option Page) : PgPart :=
  { q with pages := Sparse.set (fun _ => none) q.pages id x }
/-- The books with a page changed, where it is not FREE. -/
def PgPart.updPage (q : PgPart) (id : Nat) (f : Page → Page) : PgPart :=
  match q.page id with
  | some x => q.setPage id (some (f x))
  | none => q
/-- The page list of an entry. -/
def PgPart.list (q : PgPart) (e : Nat) : List Nat := Sparse.get (fun _ => []) q.lists e
/-- The books with an entry's list replaced. -/
def PgPart.setList (q : PgPart) (e : Nat) (l : List Nat) : PgPart :=
  { q with lists := Sparse.set (fun _ => []) q.lists e l }

/-- The frames held. -/
def PgPart.held (q : PgPart) : List Nat := q.pages.filterMap fun p => p.2.bind (·.frame)

/-- The lowest number below a limit that is not in a list. -/
def lowestNot (limit : Nat) (used : List Nat) : Option Nat := (List.range limit).find? fun n => !used.contains n

/-- Free IDs of the pool (14 R388). -/
def State.freeIds (s : State) (p : Nat) : Nat := s.pgPool p - (s.pgOf p).pages.length
/-- Free frames of the device (14 R388). -/
def State.freeFrames (s : State) (p : Nat) : Nat := s.pgFrames p - (s.pgOf p).held.length
/-- free_pages of 13 R368 (14 R388). -/
def State.freePages (s : State) (p : Nat) : Nat := min (s.freeIds p) (s.freeFrames p)

/-! ### List blocks (14 R389) -/

/-- The blocks of a list of k pages. -/
def blocksFor (k : Nat) : Nat := ceilDiv k 15
/-- The blocks of an entry's list, as NEXT links them. -/
def PgPart.chain (q : PgPart) (e : Nat) : List Nat := Sparse.get (fun _ => []) q.chains e
/-- PAGE_HEAD of an entry: its first block, or 0xF_FFFF. -/
def PgPart.head (q : PgPart) (e : Nat) : Nat := (q.chain e).head?.getD 0xFFFFF
/-- The list blocks in use. -/
def PgPart.usedBlocks (q : PgPart) : List Nat := q.chains.flatMap (·.2)

/-- The sixteen words of block k of an entry's list: NEXT, and 15 page IDs; words beyond the list are 0 (R389 gives them no value). -/
def PgPart.blockWords (q : PgPart) (e k : Nat) : List Word :=
  BitVec.ofNat 32 (((q.chain e)[k + 1]?).getD 0xFFFFF)
    :: (List.range 15).map fun i => BitVec.ofNat 32 (((q.list e)[15 * k + i]?).getD 0)

/-- So many blocks of the free ones, from the n-th that is taken on (log entry 10). -/
def pickBlocks : Nat → Nat → List Nat → List Nat
  | 0, _, _ => []
  | k + 1, n, free =>
    match free[Config.blockPick n % free.length]? with
    | none => []
    | some b => b :: pickBlocks k (n + 1) (free.filter fun x => decide (x ≠ b))

/-- An entry's list given the blocks it needs: those beyond are free again, those that lack are taken as far as there are free
ones (log entry 10). -/
def PgPart.fitOne (blocks : List Nat) (q : PgPart) (e : Nat) : PgPart :=
  let need := blocksFor (q.list e).length
  let c := (q.chain e).take need
  let more := pickBlocks (need - c.length) q.picks (blocks.filter fun b => !q.usedBlocks.contains b)
  { q with chains := Sparse.set (fun _ => []) q.chains e (c ++ more), picks := q.picks + more.length }

/-- Every list given the blocks it needs. -/
def PgPart.fit (blocks : List Nat) (q : PgPart) : PgPart :=
  (q.chains.map (·.1) ++ q.lists.map (·.1)).foldl (PgPart.fitOne blocks) q

/-- The state with a partition's page books replaced, its lists having changed. -/
def State.setLists (s : State) (p : Nat) (q : PgPart) : State := s.setPg p (q.fit (s.pgBlocks p))

/-- The free list blocks of a partition. -/
def State.freeBlocks (s : State) (p : Nat) : Nat :=
  ((s.pgBlocks p).filter fun b => !(s.pgOf p).usedBlocks.contains b).length

/-! ### Frames, allocation -/

/-- The lowest free frame given to an ID that holds none (14 R390). -/
def PgPart.giveFrame (q : PgPart) (frames id : Nat) : PgPart :=
  match q.page id with
  | some x => if x.frame.isSome then q else q.setPage id (some { x with frame := lowestNot frames q.held })
  | none => q

/-- A page as an allocation leaves it (14 R387, R401). -/
def Page.fresh (frame : Option Nat) (bno : Nat) : Page :=
  { quiet := false, res := .resident, frame := frame, dirty := false, refs := 1, pins := 0, order := false, lastUse := bno,
    age := 0 }

/-- One page allocated: the lowest free ID and the lowest free frame (14 R401). -/
def PgPart.alloc (q : PgPart) (pool frames bno : Nat) : Option (Nat × PgPart) :=
  match lowestNot pool (q.pages.map (·.1)), lowestNot frames q.held with
  | some id, some f => some (id, q.setPage id (some (Page.fresh (some f) bno)))
  | _, _ => none

/-- A page with no reference and no pin becomes QUIET (14 R405). -/
def PgPart.settle (q : PgPart) (id : Nat) : PgPart :=
  q.updPage id fun x => if x.refs = 0 ∧ x.pins = 0 ∧ !x.order ∧ !x.quiet then { x with quiet := true, age := 0 } else x

/-- The references of a list dropped (14 R405). -/
def PgPart.dropRefs (q : PgPart) (l : List Nat) : PgPart :=
  l.foldl (fun b id => (b.updPage id fun x => { x with refs := x.refs - 1 }).settle id) q

/-! ### The token store (14 R396) -/

/-- The program address of the word that holds a position of the page in a frame, on VIEW_CORE. -/
def State.tokenAddr (s : State) (p frame pos : Nat) : Nat :=
  (fld (s.rd (rPgPartViewAddr p)) 0 17 + fld (s.rd (rPgPartViewBytes p)) 0 17) * 256 + 128 * frame + 4 * (pos % 32)

/-- VIEW_CORE. -/
def State.viewCore8 (s : State) (p : Nat) : Nat := fld (s.rd (rPgPartView p)) 0 8

/-- The frame of the page that covers a position of an entry. -/
def PgPart.frameAt (q : PgPart) (e pos : Nat) : Option Nat := ((q.list e)[pos / 32]?).bind fun id => (q.page id).bind (·.frame)

/-- A token written into its block by the RT. -/
def State.putToken (s : State) (p frame pos : Nat) (w : Word) : State :=
  s.unitWrite 0x100 p (s.viewCore8 p) (s.tokenAddr p frame pos) (leBytes 4 w.toNat) []

/-- Bytes that the PG reads or moves for a partition: PG_STATUS.POISON where a granule is poisoned (05 R151; 14 R419). -/
def State.pgRead (s : State) (p c a n : Nat) : List Byte × List Nat × State :=
  let r := (s.atEndpoint 0x101 c).unitRead 6 p c a n
  (r.1, r.2.1, if r.2.1.isEmpty then r.2.2 else r.2.2.setBit rPgStatus 1)

/-- The on-chip address at which a group slot's staging range begins (15 R443). -/
def State.stageBase (s : State) (n : Nat) : Nat :=
  fld (s.rd (rIoRingStage n)) 0 8 * 0x2000000 + fld (s.rd (rIoRingStage n)) 8 17 * 256

/-- The staged words at on-chip addresses of a partition, as they are read for the RT (15 R435; log entry 43). -/
def State.stagedWords (s : State) (p : Nat) (as : List Nat) : List Word × State :=
  as.foldl (fun (a : List Word × State) x =>
    let r := a.2.pgRead p (x / 0x2000000) (x % 0x2000000) 4
    (a.1 ++ [BitVec.ofNat 32 (leAt r.1 0 4)], r.2.2)) ([], s)

/-- Can the RT read an entry's tokens: none of those staged, nor the token store, lies in a region that is stopped (11 R326; log entry
43)? -/
def State.tokensRun (s : State) (p e : Nat) : Bool :=
  !s.stopped (s.viewCore8 p) && (s.ent e).staged.all fun t => !s.stopped (t.2 / 0x2000000)

/-- The tokens that an entry still has staged, read from the staging range, and those held with it (14 R396; 15 R435, R438). -/
def State.heldTokens (s : State) (p : Nat) (x : Ent) (want : Nat → Bool) : List (Nat × Word) × State :=
  let mine := x.staged.filter fun t => want t.1
  let r := s.stagedWords p (mine.map (·.2))
  ((mine.map (·.1)).zip r.1 ++ x.tail.filter fun t => want t.1, r.2)

/-- The tokens of positions lo to lo + k - 1, of one page: those staged or held with the entry, the others from the page's block; 0
where it holds no frame (14 R396; log entry 42). A block is read once, poison as the PG reads it (log entry 77). -/
def State.pageTokens (s : State) (p e lo k : Nat) : List Word × State :=
  let h := s.heldTokens p (s.ent e) fun i => decide (lo ≤ i) && decide (i < lo + k)
  let held (i : Nat) : Option Word := (h.1.find? fun t => decide (t.1 = lo + i)).map (·.2)
  let tok (b : List Byte) : List Word := (List.range k).map fun i => (held i).getD (BitVec.ofNat 32 (leAt b (4 * i) 4))
  match (s.pgOf p).frameAt e lo with
  | some f =>
    if (List.range k).all fun i => (held i).isSome then (tok [], h.2)
    else
      let r := h.2.pgRead p (s.viewCore8 p) (s.tokenAddr p f lo) (4 * k)
      (tok r.1, r.2.2)
  | none => (tok [], h.2)

/-- The tokens of positions start to start + n - 1 of an entry, page by page (14 R396). -/
def State.readTokens (s : State) (p e start n : Nat) : List Word × State :=
  if n = 0 then ([], s)
  else
    (List.range ((start + n - 1) / 32 + 1 - start / 32)).foldl (fun (a : List Word × State) i =>
      let j := start / 32 + i
      let lo := max start (32 * j)
      let r := a.2.pageTokens p e lo (min (start + n) (32 * j + 32) - lo)
      (a.1 ++ r.1, r.2)) ([], s)

/-- Is the word that holds a position of an entry poisoned, where it is read from a slice (05 R151)? -/
def State.tokenPoisoned (s : State) (p e pos : Nat) : Bool :=
  match (s.ent e).staged.find? fun t => decide (t.1 = pos) with
  | some t => s.bytePoisoned (t.2 / 0x2000000) (t.2 % 0x2000000)
  | none =>
    match (s.pgOf p).frameAt e pos with
    | some f => !((s.ent e).tail.any fun t => decide (t.1 = pos)) && s.bytePoisoned (s.viewCore8 p) (s.tokenAddr p f pos)
    | none => false

/-- The tokens staged or held for an entry go into the blocks of the pages its list now has; the rest is held with the entry (14
R396); its staging is freed (15 R435). The answer carries them. -/
def State.storeTokens (s : State) (p e : Nat) : List (Nat × Word) × State :=
  let q := s.pgOf p
  let h := s.heldTokens p (s.ent e) fun _ => true
  let s1 := h.1.foldl (fun t w => match q.frameAt e w.1 with
    | some f => t.putToken p f w.1 w.2
    | none => t) h.2
  (h.1, s1.updEnt e fun y => { y with staged := [], tail := h.1.filter (fun w => (q.frameAt e w.1).isNone), staging := [] })

/-- The token block of a frame copied to another by the PG; a poisoned granule is stored poisoned (14 R396, R404; log entry 77). -/
def State.copyBlock (s : State) (p src dst : Nat) : State :=
  let c := s.viewCore8 p
  let a := s.tokenAddr p src 0
  let b := s.tokenAddr p dst 0
  let r := s.pgRead p c a 128
  r.2.2.unitWrite 0x101 p c b r.1 (r.2.1.map fun x => b + (x - a))

/-! ### Demand (14 R408) -/

/-- The demand list of an entry, as page IDs (14 R408). -/
def State.demand (s : State) (p e : Nat) : List Nat :=
  let l := (s.pgOf p).list e
  let w := s.rd (rPgPartDemand p)
  let win := fld w 0 16
  let sink := fld w 16 8
  let n := ceilDiv (s.ent e).length 32
  let idx := (List.range l.length).filter fun j =>
    decide (j < sink) || decide (win = 0) || (decide (n ≤ j + win) && decide (j < n)) || (s.ent e).sel.contains j
  idx.filterMap fun j => l[j]?

/-- Is every page of a list resident? -/
def PgPart.resident (q : PgPart) (ids : List Nat) : Bool :=
  ids.all fun id => match q.page id with
    | some x => decide (x.res = .resident)
    | none => false

/-! ### What a placement draws (13 R368; 14 R401, R404) -/

/-- The list indexes that copy-on-write replaces where the positions from `start` on are written (14 R404). -/
def PgPart.cowAt (q : PgPart) (e start n : Nat) : List Nat :=
  let l := q.list e
  ((List.range ((start + n - 1) / 32 + 1 - start / 32)).map (start / 32 + ·)).filter fun j =>
    match (l[j]?).bind q.page with
    | some x => decide (1 < x.refs)
    | none => false

/-- The pages appended so that the list covers `upto` positions. -/
def PgPart.newPages (q : PgPart) (e upto : Nat) : Nat := ceilDiv upto 32 - (q.list e).length

/-- Elements without repetition, the first kept. -/
def distinct : List Nat → List Nat
  | [] => []
  | x :: r => x :: (distinct r).filter fun y => decide (y ≠ x)

/-- The pages of an entry's list that hold no frame, where the list is appended with the placement, which gives them one (14 R390). -/
def State.frameless (s : State) (p e : Nat) : Nat :=
  let q := s.pgOf p
  if (s.ent e).fresh then
    ((distinct (q.list e)).filter fun id => ((q.page id).bind (·.frame)).isNone).length
  else 0

/-- Are there IDs, frames and list blocks for a placement (13 R368; 14 R389, R404), and can its tokens be read (log entry 43)? -/
def State.pgRoom (s : State) (p e fresh cows margin : Nat) : Bool :=
  let q := s.pgOf p
  decide (fresh + cows + margin ≤ s.freePages p) && decide (fresh + cows + s.frameless p e ≤ s.freeFrames p)
    && decide (blocksFor ((q.list e).length + fresh) ≤ (q.chain e).length + s.freeBlocks p) && s.tokensRun p e

/-- The word of a page append (14 R390). -/
def opWord (op v : Nat) : Word := BitVec.ofNat 32 (op * 2 ^ 20 + v)

/-- One copy-on-write (14 R404): the entry's list takes the copy, the counts move, the pair is recorded, the token block is
copied. -/
def State.cowOne (s : State) (p e slot : Nat) (apps : List Append) (j : Nat) : State × List Append :=
  let q := s.pgOf p
  match (q.list e)[j]?, q.alloc (s.pgPool p) (s.pgFrames p) s.beat.bno.toNat with
  | some old, some (id, q1) =>
    let src := ((q.page old).bind (·.frame)).getD 0
    let dst := ((q1.page id).bind (·.frame)).getD 0
    let q2 := (q1.updPage old fun x => { x with refs := x.refs - 1 }).setList e ((q.list e).set j id)
    ((s.setPg p { q2 with cows := q2.cows ++ [(src, dst)] }).copyBlock p src dst, apps ++ [⟨slot, opWord 1 id⟩])
  | _, _ => (s, apps)

/-- One new page appended (14 R401). -/
def State.appendOne (s : State) (p e slot : Nat) (apps : List Append) : State × List Append :=
  let q := s.pgOf p
  match q.alloc (s.pgPool p) (s.pgFrames p) s.beat.bno.toNat with
  | some (id, q1) => (s.setLists p (q1.setList e (q.list e ++ [id])), apps ++ [⟨slot, opWord 0 id⟩])
  | none => (s, apps)

/-- The slot operations of a placement, in the order of the appends: NEW and the list where it is the entry's first, copies,
new pages (13 R368; 14 R390, R404). NEW discards what a device holds for the entry, so a DROP of it that still waits is not sent
behind it (log entry 48). -/
def State.pgPlace (s : State) (p e slot start n fresh : Nat) : State × List Append :=
  let q := s.pgOf p
  let head := if (s.ent e).fresh then Append.mk slot (opWord 2 0) :: (q.list e).map (fun id => ⟨slot, opWord 0 id⟩) else []
  let s1 := if (s.ent e).fresh then
      let q1 := (q.list e).foldl (fun b id => b.giveFrame (s.pgFrames p) id) q
      s.setPg p { q1 with groupOps := q1.groupOps.filter fun x => decide (x ≠ (12, e)) }
    else s
  let r := (q.cowAt e start n).foldl (fun a j => a.1.cowOne p e slot a.2 j) (s1, head)
  (List.range fresh).foldl (fun a _ => a.1.appendOne p e slot a.2) r

/-! ### Table pins (14 R403) -/

/-- The pages that a table pins: those its page table names, which are the resident ones of its slots' lists, and the sources of
its copies (log entry 78). -/
def PgPart.pinned (q : PgPart) (ents : List Nat) : List Nat :=
  q.pages.filterMap fun x =>
    let named := q.resident [x.1] && ents.any fun e => (q.list e).contains x.1
    let src := match x.2.bind (·.frame) with
      | some f => q.cows.any fun c => decide (c.1 = f)
      | none => false
    if named || src then some x.1 else none

/-- The pins of a table taken, with its beat number as last use. -/
def PgPart.pin (q : PgPart) (ids : List Nat) (bno : Nat) : PgPart :=
  ids.foldl (fun b id => b.updPage id fun x => { x with pins := x.pins + 1, lastUse := bno }) q

/-- The pins of a table released. -/
def PgPart.unpin (q : PgPart) (ids : List Nat) : PgPart :=
  ids.foldl (fun b id => (b.updPage id fun x => { x with pins := x.pins - 1 }).settle id) q

/-! ### Commit and discard (14 R387, R391, R397) -/

/-- The pages written by positions [start, start + n) of an entry are DIRTY. -/
def PgPart.dirtied (q : PgPart) (e start n : Nat) : PgPart :=
  if n = 0 then q
  else
    ((List.range ((start + n - 1) / 32 + 1 - start / 32)).map (start / 32 + ·)).foldl
      (fun b j => match (q.list e)[j]? with
        | some id => b.updPage id fun x => { x with dirty := true }
        | none => b) q

/-- The committed-buffer bit of a slab flips. -/
def PgPart.flip (q : PgPart) (slab : Nat) : PgPart :=
  { q with kbits := Sparse.set (fun _ => false) q.kbits slab (!Sparse.get (fun _ => false) q.kbits slab) }

/-- The pages in progress of a partition that is bound again, without an order any more (14 R411). -/
def Page.settled (x : Page) : Page :=
  if !x.order then x
  else if x.res = .incoming then { x with res := .stored, frame := none, order := false }
  else { x with res := .resident, order := false }

/-- The books of a partition that is bound again to the same group: its orders are numbered from 0 (14 R411), and none is in progress
(log entry 58). -/
def PgPart.rebind (q : PgPart) : PgPart :=
  let pages := q.pages.map fun x => (x.1, x.2.map Page.settled)
  (pages.map (·.1)).foldl PgPart.settle
    { q with pages := pages, groupOps := q.groupOps.filter (fun x => decide (x.1 ≠ 8 ∧ x.1 ≠ 9)), orders := [], watch := [], next := 0,
             aband := [], doneN := 0, stopped := false, failSeq := 0, failCnt := 0, acks := [], stop := false, ctl := [] }

/-- The slot operations of a discarded table undone (14 R391): lists, references and pins as before it; what orders have done
to a page since stands. -/
def PgPart.undo (q : PgPart) : PgPart :=
  match q.before with
  | none => q
  | some b =>
    let pages := b.1.map fun x =>
      match x.2, q.page x.1 with
      | some old, some now => (x.1, some { old with res := now.res, dirty := now.dirty, order := now.order })
      | _, _ => x
    { q with pages := pages, lists := b.2, before := none, cows := [], table := none }

/-- Every boundary ages the QUIET pages (14 R405). -/
def PgPart.ageQuiet (q : PgPart) : PgPart :=
  { q with pages := q.pages.map fun x => (x.1, x.2.map fun y => if y.quiet then { y with age := y.age + 1 } else y) }

end Sys2Proof.Machine
end

