-- ==== Sys2Proof/Machine/XbRun.lean ====
section
/-! DEFINITION. The expert and adapter binder: sets, slots, pins, flips, commands (14 R415 to R418, R421). -/

namespace Sys2Proof.Machine

open Sys2Proof

/-- The slot register of a kind: adapter or expert. -/
def rXbSlot (expert : Bool) (k : Nat) : Nat := if expert then rXbEslot k else rXbAslot k
/-- The CUR and PENDING word of a set of a kind. -/
def rXbSet (expert : Bool) (k : Nat) : Nat := if expert then rXbEsetSlots k else rXbAsetSlots k
/-- The GROUP, WORLD and VALID word of a set of a kind. -/
def rXbCfg (expert : Bool) (k : Nat) : Nat := if expert then rXbEsetCfg k else rXbAsetCfg k

/-- The state of a slot: 0 FREE, 1 LOADING, 2 READY, 3 CURRENT, 4 RETIRED. -/
def State.xbState (s : State) (expert : Bool) (k : Nat) : Nat := fld (s.rd (rXbSlot expert k)) 0 3
/-- The group of a slot's claim. -/
def State.xbGroup (s : State) (expert : Bool) (k : Nat) : Nat := fld (s.rd (rXbSlot expert k)) 19 11
/-- A slot put into a state. -/
def State.xbTo (s : State) (expert : Bool) (k st : Nat) : State := s.wrF (rXbSlot expert k) 0 3 st

/-- The pin count of a slot: the live entries that pin its version (14 R418). -/
def State.xbPins (s : State) (expert : Bool) (k : Nat) : Nat :=
  (s.rt.ents.filter fun e => decide ((if expert then e.2.expert else e.2.adapter) = k)).length

/-- The slots of a kind that are not FREE. -/
def State.xbUsed (s : State) (expert : Bool) : List Nat :=
  s.regs.filterMap fun r =>
    let b := rXbSlot expert 0
    if b ≤ r.1 ∧ r.1 < b + 4096 ∧ r.1 % 4 = 0 then some ((r.1 - b) / 4) else none

/-- RETIRED slots whose last pin has gone become FREE (14 R417). -/
def State.xbSettle (s : State) : State :=
  [false, true].foldl (fun t x => (t.xbUsed x).foldl
    (fun u k => if u.xbState x k = 4 ∧ u.xbPins x k = 0 then u.wr (rXbSlot x k) 0 else u) t) s

/-- PINS as the last boundary left them (14 R421). -/
def State.xbCount (s : State) : State :=
  [false, true].foldl (fun t x => (t.xbUsed x).foldl
    (fun u k => u.wrF (rXbSlot x k) 3 16 (u.xbPins x k)) t) s

/-- The sets of a kind with a PENDING slot. -/
def State.xbPendings (s : State) (expert : Bool) : List Nat :=
  s.regs.filterMap fun r =>
    let b := rXbSet expert 0
    if b ≤ r.1 ∧ r.1 < b + 8192 ∧ (r.1 - b) % 8 = 0 ∧ fld r.2 16 16 ≠ 0xFFFF then some ((r.1 - b) / 8) else none

/-- One set's flip (14 R416): CUR takes PENDING, the new slot is CURRENT, the old one RETIRED, or FREE without a pin; a slot
that is no longer READY is not taken (log entry 44). -/
def State.xbFlipOne (s : State) (expert : Bool) (k : Nat) : State :=
  let w := s.rd (rXbSet expert k)
  let new := fld w 16 16
  let old := fld w 0 16
  if s.xbState expert new ≠ 2 then s.wrF (rXbSet expert k) 16 16 0xFFFF
  else
    let s1 := (s.wr (rXbSet expert k) (BitVec.ofNat 32 (new + 0xFFFF0000))).xbTo expert new 3
    if old = 0xFFFF then s1
    else if s1.xbPins expert old = 0 then s1.wr (rXbSlot expert old) 0
    else s1.xbTo expert old 4

/-- Every pending version becomes current (14 R416). -/
def State.xbFlip (s : State) : State :=
  [false, true].foldl (fun t x => (t.xbPendings x).foldl (fun u k => u.xbFlipOne x k) t) s

/-- The version a client's set gives a request that is admitted (14 R415, R417, R421): CUR of the set, where it is valid, of the
group, and of a world the client may name. A set of the other world reads as 0xFFFF, and the access is logged. -/
def State.xbPin (s : State) (expert : Bool) (set group : Nat) (nonSecure : Bool) : Nat × State :=
  if 1024 ≤ set then (0xFFFF, s)
  else
    let c := s.rd (rXbCfg expert set)
    if !bit c 12 ∨ fld c 0 11 ≠ group then (0xFFFF, s)
    else if nonSecure ∧ !bit c 11 then
      (0xFFFF, s.event 0x81 9 0xFF 0xFF 0xFFFF (BitVec.ofNat 32 (rXbSet expert set)))
    else (fld (s.rd (rXbSet expert set)) 0 16, s)

/-- A command of XB_CMD (14 R416, R421): 1 CLAIM, 2 READY, 3 RELEASE; a refusal sets XB_STATUS.REFUSED. -/
def State.xbCmd (s : State) (op : Nat) (expert : Bool) (k group : Nat) : State :=
  let st := s.xbState expert k
  if op = 1 ∧ st = 0 then s.wr (rXbSlot expert k) (BitVec.ofNat 32 (1 + group % 2048 * 2 ^ 19))
  else if op = 2 ∧ st = 1 then s.xbTo expert k 2
  else if op = 3 ∧ (st = 1 ∨ st = 2) then s.wr (rXbSlot expert k) 0
  else s.setBit rXbStatus 0

/-- May a set's PENDING take the value (14 R416): 0xFFFF, or a READY slot of the set's group? -/
def State.xbMay (s : State) (expert : Bool) (k v : Nat) : Bool :=
  decide (v = 0xFFFF) || (decide (v < 1024) && decide (s.xbState expert v = 2)
    && decide (s.xbGroup expert v = fld (s.rd (rXbCfg expert k)) 0 11))

/-- A write of a set's PENDING (14 R416); one that may not be is refused. -/
def State.xbPending (s : State) (expert : Bool) (k v : Nat) : State :=
  if s.xbMay expert k v then s.wrF (rXbSet expert k) 16 16 v else s.setBit rXbStatus 0

end Sys2Proof.Machine
end

