-- ==== Sys2Proof/Machine/RtRun.lean ====
section
/-! DEFINITION. The request table: intake, client records, key order, admission and placement, the batch table, commit and
discard (13 R355 to R382; 15 R435 to R438). -/

namespace Sys2Proof.Machine

open Sys2Proof

/-! ### A group's configuration (13 R383) -/

/-- Does the group slot anchor a group? -/
def State.gValid (s : State) (n : Nat) : Bool := bit (s.rd (rRtGroupCtl n)) 0
/-- The model group of a slot. -/
def State.gId (s : State) (n : Nat) : Nat := fld (s.rd (rRtGroupCtl n)) 1 11
/-- NOADMIT. -/
def State.gNoadmit (s : State) (n : Nat) : Bool := bit (s.rd (rRtGroupCtl n)) 12
/-- FROZEN. -/
def State.gFrozen (s : State) (n : Nat) : Bool := bit (s.rd (rRtGroupCtl n)) 13
/-- SLOTS. -/
def State.gSlots (s : State) (n : Nat) : Nat := fld (s.rd (rRtGroupBatch n)) 0 11
/-- CELLS. -/
def State.gCells (s : State) (n : Nat) : Nat := fld (s.rd (rRtGroupBatch n)) 11 11
/-- CHUNK. -/
def State.gChunk (s : State) (n : Nat) : Nat := fld (s.rd (rRtGroupChunk n)) 0 13
/-- SCAN_MAX. -/
def State.gScan (s : State) (n : Nat) : Nat := fld (s.rd (rRtGroupChunk n)) 13 13
/-- PAGE_RESV. -/
def State.gResv (s : State) (n : Nat) : Nat := fld (s.rd (rRtGroupPageResv n)) 0 20
/-- The stop tokens. -/
def State.gStops (s : State) (n : Nat) : List Word :=
  [s.rd (rRtGroupStop0 n), s.rd (rRtGroupStop1 n), s.rd (rRtGroupStop2 n), s.rd (rRtGroupStop3 n)].filter
    fun w => decide (w ≠ 0xFFFFFFFF)

/-- Is the entry in the group's range? -/
def State.gHas (s : State) (n e : Nat) : Bool :=
  let w := s.rd (rRtGroupEnt n)
  decide (fld w 0 14 ≤ e) && decide (e < fld w 0 14 + fld w 14 15)

/-- The entries of a group that are not FREE. -/
def State.gLive (s : State) (n : Nat) : List Nat := (s.rt.ents.map (·.1)).filter fun e => s.gHas n e

/-- Is the client record in the group's range? -/
def State.gCli (s : State) (n c : Nat) : Bool :=
  let w := s.rd (rRtGroupCli n)
  decide (fld w 0 12 ≤ c) && decide (c < fld w 0 12 + fld w 12 13)

/-- Are all the group's partitions on the device RUNNING, those that its plans name among them (13 R382)? -/
def State.gRunning (s : State) (n : Nat) : Bool :=
  let ps := s.groupParts (s.gId n)
  let own := fld (s.rd rTetherChip) 0 10
  let plan := ps.flatMap fun p => ((s.part p).members.filter fun m => decide (m.chip = own)).map (·.part)
  !ps.isEmpty && ps.all (fun p => decide ((s.part p).st = .running)) && plan.all fun p => ps.contains p

/-- The table a group holds. -/
def State.gTable (s : State) (n : Nat) : Option BTable := s.rt.tables.find? fun t => decide (t.n = n)

/-- The largest LENGTH (13 R361). -/
def lengthCap : Nat := 16777215

/-! ### Ends of requests -/

/-- Messages no longer stand for an entry's final record (13 R362; 15 R438): of another turn, or of another request. -/
def State.forgetEnd (s : State) (e : Nat) (all : Bool) : State :=
  let f (m : OutMsg) : OutMsg :=
    { m with ends := m.ends.filter (fun x => decide (x ≠ e)),
             ents := if all then m.ents.filter (fun x => decide (x ≠ e)) else m.ents }
  { s with sess := s.sess.map fun x => (x.1, x.2.map fun y =>
      { y with unacked := y.unacked.map f, waiting := y.waiting.map f }) }

/-- A turn or request ends (13 R362, R370, R381): state and reason, the pins released; a FAILED request sends its final
record (15 R437), and the staging of one that was never admitted is freed (R435). -/
def State.endEnt (s : State) (e : Nat) (st : EState) (reason : Nat) : State :=
  let s1 := s.updEnt e fun x =>
    { x with st := st, reason := reason, slot := none, adapter := 0xFFFF, expert := 0xFFFF, acked := false, fetched := false,
             staging := [], staged := [], pinned := false }
  let s2 := s1.forgetEnd e false
  if st = .failed then
    let x := s2.ent e
    match x.sess with
    | some u => s2.sendToken u e x.tag s2.beat.lastCommit x.length true false reason []
    | none => s2
  else s2

/-- An entry becomes FREE (13 R362; 14 R405): its references drop, DROP waits for the next table. A FETCH of it that is not
complete is refused with the code given (log entry 46). -/
def State.freeEnt (s : State) (n e code : Nat) : State :=
  let jobs := s.rt.fetches.filter fun f => decide (f.ent = e)
  let s0 := jobs.foldl (fun t f => t.complete f.sess f.tag 5 1 code e 0) s
  let s1 := (s0.setEnt e Ent.reset).forgetEnd e true
  let s2 := { s1 with rt := { s1.rt with drafts := s1.rt.drafts.filter (fun d => decide (d.ent ≠ e))
                                         fetches := s1.rt.fetches.filter (fun f => decide (f.ent ≠ e)) } }
  match s2.booksPart (s2.gId n) with
  | none => s2
  | some p =>
    let q := s2.pgOf p
    let q1 := (q.dropRefs (q.list e)).setList e []
    s2.setLists p { q1 with groupOps := q1.groupOps ++ [(12, e)] }

/-- May a DONE or FAILED entry become FREE (15 R438)? -/
def Ent.mayFree (x : Ent) : Bool :=
  decide (x.st = .done ∨ x.st = .failed) && ((x.acked && !x.tokgap) || x.fetched)

/-- The entries of a group that may become FREE do so, lowest first. -/
def State.freeEnded (s : State) (n : Nat) : State :=
  ((s.gLive n).filter fun e => (s.ent e).mayFree).foldl (fun t e => t.freeEnt n e 3) s

/-! ### Draft sets (13 R378) -/

/-- The draft set of an entry. -/
def State.draftOf (s : State) (e : Nat) : Option DraftSet := s.rt.drafts.find? fun d => decide (d.ent = e)

/-- A draft set dropped whole. -/
def State.dropDraft (s : State) : State := (s.setBit rRtStatus 4).bump rRtDraftDrops

/-- Steps of a draft set stored: they replace a set with another POS, or `whole`, and else join it; dropped where the store
holds 4,096 sets of other entries. -/
def State.storeDraft (s : State) (e pos : Nat) (steps : List (Nat × DraftStep)) (tc : DWord) (whole : Bool) : State :=
  let others := s.rt.drafts.filter fun d => decide (d.ent ≠ e)
  match s.draftOf e with
  | none =>
    if 4096 ≤ s.rt.drafts.length then s.dropDraft
    else { s with rt := { s.rt with drafts := s.rt.drafts ++ [DraftSet.mk e pos steps tc] } }
  | some d =>
    let old := if whole ∨ d.pos ≠ pos then [] else d.steps.filter fun x => !steps.any fun y => decide (y.1 = x.1)
    { s with rt := { s.rt with drafts := others ++ [DraftSet.mk e pos (old ++ steps) tc] } }

/-! ### Intake (13 R359 to R361) -/

/-- Is the source non-secure and the client secure? -/
def State.wrongWorld (s : State) (secure : Bool) (c : Nat) : Bool := !secure && !(s.cli c).world

/-- The first failing check of a command (13 R361); 0 where none fails. -/
def State.reqCheck (s : State) (n : Nat) (r : RingCmd) : Nat :=
  let e := r.c.entry
  let x := s.ent e
  let named := decide (x.st ≠ .free) && s.wrongWorld r.secure x.client
  let gone : Bool := decide (x.st = .free ∨ x.st = .done ∨ x.st = .failed)
  if s.gFrozen n || s.gNoadmit n then 6
  else
    match r.op with
    | .submit b =>
      let ids := b.words.take b.npages
      let q := match s.booksPart (s.gId n) with
        | some p => s.pgOf p
        | none => PgPart.reset
      let badId (i : Word) : Bool := match q.page (fld i 0 20) with
        | some y => y.quiet || decide (65535 < y.refs + (ids.filter fun j => decide (fld j 0 20 = fld i 0 20)).length)
        | none => true
      if s.wrongWorld r.secure b.client then 7
      else if !s.gCli n b.client || !(s.cli b.client).valid then 2
      else if b.maxNew % 2 ^ 24 = 0 ∨ 16 < b.spec ∨ b.words.length ≤ b.npages ∨ b.npages ≠ ceilDiv b.prefixLen 32
          ∨ ids.any badId then 5
      else if lengthCap ≤ b.prefixLen + (b.words.length - b.npages) then 4
      else if (s.groupEnts n).all (fun i => decide ((s.ent i).st ≠ .free)) then 1
      else 0
    | .resume maxNew _ toks =>
      if named then 7
      else if !s.gHas n e then 5
      else if x.st ≠ .parked then 3
      else if maxNew % 2 ^ 24 = 0 then 5
      else if lengthCap ≤ x.length + toks.length then 4
      else 0
    | .cancel => if named then 7 else if !s.gHas n e then 5 else if gone then 3 else 0
    | .draft _ steps =>
      if named then 7 else if !s.gHas n e then 5 else if gone then 3
      else if steps.length = 0 ∨ 16 < steps.length then 5 else 0
    | .fetch from_ _ =>
      if named then 7 else if !s.gHas n e then 5 else if x.st = .free then 3
      else if r.c.count = 0 ∨ x.length ≤ from_ then 5 else 0

/-- QUEUED, or REELING_IN where a page of the demand list is not resident (13 R359). -/
def State.queueOrReel (s : State) (n e : Nat) : State :=
  let ok := match s.booksPart (s.gId n) with
    | some p => (s.pgOf p).resident (s.demand p e)
    | none => true
  s.updEnt e fun x => { x with st := if ok then .queued else .reeling }

/-- The on-chip addresses of the words a command has staged. -/
def RingCmd.addrs (r : RingCmd) : List Nat := r.slots.map fun w => r.base + 4 * w

/-- A command with what the RT reads of it from its staging when it takes it: the page IDs of a SUBMIT, the steps of a DRAFT (15
R435; 14 R396). -/
def State.unstage (s : State) (n : Nat) (r : RingCmd) : RingCmd × State :=
  match s.booksPart (s.gId n) with
  | none => (r, s)
  | some p =>
    match r.op with
    | .submit b =>
      let x := s.stagedWords p (r.addrs.take b.npages)
      ({ r with op := .submit { b with words := x.1 ++ b.words.drop b.npages } }, x.2)
    | .draft pos st =>
      let x := s.stagedWords p r.addrs
      ({ r with op := .draft pos ((List.range st.length).map fun i => ⟨x.1.getD (2 * i) 0, x.1.getD (2 * i + 1) 0⟩) }, x.2)
    | _ => (r, s)

/-- The next QSEQ of a group given out. -/
def State.nextQseq (s : State) (n : Nat) : Nat × State :=
  if h : n < 16 then
    let q := s.rt.qseq[n]
    (q, { s with rt := { s.rt with qseq := s.rt.qseq.set n ((q + 1) % 2 ^ 20) } })
  else (0, s)

/-- Consecutive positions from a start, with their tokens, or where those are staged. -/
def positions {α : Type} (start : Nat) (toks : List α) : List (Nat × α) :=
  ((List.range toks.length).zip toks).map fun x => (start + x.1, x.2)

/-- A SUBMIT taken (13 R359; 14 R397, R402). A prefix list that finds no free block waits for one, and is not placed before (14 R389;
log entry 36). -/
def State.takeSubmit (s : State) (n : Nat) (r : RingCmd) (b : SubmitBody) : State :=
  let e := ((s.groupEnts n).find? fun i => decide ((s.ent i).st = .free)).getD 0
  let ids := (b.words.take b.npages).map fun i => fld i 0 20
  let toks := b.words.drop b.npages
  let qs := s.nextQseq n
  let slab := match s.booksPart (s.gId n) with
    | some p => if bit (s.rd (rPgPartSlab p)) 0 then some (e - fld (s.rd (rRtGroupEnt n)) 0 14) else none
    | none => none
  let x : Ent := { Ent.reset with
    prio := b.prio % 8, nowait := b.nowait, keep := b.keep, topkEn := b.topkEn, spec := b.spec, client := b.client,
    qseq := qs.1, length := b.prefixLen + toks.length, done := b.prefixLen, maxNew := b.maxNew % 2 ^ 24, slab := slab,
    deadline := b.deadline, seed := b.seed, key := b.key, temp := b.temp, topP := b.topP, topK := b.topK, bidir := b.bidir,
    noattend := b.noattend, supplied := b.prefixLen + toks.length, sess := some r.sess, tag := r.c.tag,
    staging := r.slots, staged := positions b.prefixLen (r.addrs.drop b.npages), fresh := true, slabNew := slab.isSome }
  let s1 := qs.2.setEnt e x
  let s2 := match s1.booksPart (s1.gId n) with
    | some p =>
      let q := ids.foldl (fun (u : PgPart) id => u.updPage id fun y => { y with refs := y.refs + 1 }) (s1.pgOf p)
      s1.setLists p (q.setList e ids)
    | none => s1
  (s2.queueOrReel n e).complete r.sess r.c.tag 1 0 0 e qs.1

/-- A RESUME taken (13 R359). -/
def State.takeResume (s : State) (n : Nat) (r : RingCmd) (maxNew : Nat) (deadline : DWord) (toks : List Word) : State :=
  let e := r.c.entry
  let qs := s.nextQseq n
  let s1 := qs.2.updEnt e fun x =>
    { x with maxNew := maxNew % 2 ^ 24, deadline := deadline, gen := 0, length := x.length + toks.length,
             supplied := x.length + toks.length, qseq := qs.1, sess := some r.sess, tag := r.c.tag, staging := r.slots,
             staged := positions x.length r.addrs, fresh := true }
  (s1.queueOrReel n e).complete r.sess r.c.tag 2 0 0 e qs.1

/-- A command taken from the ring (13 R359 to R361; 15 R435, R438). -/
def State.takeCmd (s0 : State) (n : Nat) (r0 : RingCmd) : State :=
  let u := s0.unstage n r0
  let r := u.1
  let s := u.2
  let code := s.reqCheck n r
  if code ≠ 0 then s.complete r.sess r.c.tag r.op.code 1 code r.c.entry 0
  else
    match r.op with
    | .submit b => s.takeSubmit n r b
    | .resume m d t => s.takeResume n r m d t
    | .cancel =>
      let s1 := s.updEnt r.c.entry fun x => { x with cancel := true }
      (s1.endEnt r.c.entry .failed 9).complete r.sess r.c.tag 3 0 0 r.c.entry 0
    | .draft pos steps =>
      (s.storeDraft r.c.entry pos ((List.range steps.length).zip steps) r.tc true).complete r.sess r.c.tag 4 0 0 r.c.entry 0
    | .fetch from_ release =>
      let j : FetchJob := ⟨n, r.c.entry, from_, r.c.count, release, r.sess, r.c.tag⟩
      { s with rt := { s.rt with fetches := s.rt.fetches ++ [j] } }

/-- Can the RT read what it takes a command with from its staging: not while that lies in a region that is stopped (11 R326)? -/
def State.stageRuns (s : State) (r : RingCmd) : Bool :=
  match r.op with
  | .submit b => decide (b.npages = 0) || !s.stopped (r.base / 0x2000000)
  | .draft _ _ => !s.stopped (r.base / 0x2000000)
  | _ => true

/-- The commands a group takes at a boundary: oldest first, at most 256, those accepted strictly before it (13 R360), as far as their
staging can be read. -/
def State.takable (s : State) (ring : List RingCmd) : List RingCmd :=
  (ring.take 256).takeWhile fun r => decide (r.tc.toNat < s.tb.tc.toNat) && s.stageRuns r

/-- Every session that held commands in a ring is sent an ACK with its occupancy (15 R435). -/
def State.ackRing (s : State) (uids : List Nat) : State :=
  (List.range 64).foldl (fun t i => match t.sessAt i with
    | some x => if uids.contains x.uid then t.emitAck x else t
    | none => t) s

/-- Intake of a group (13 R360). -/
def State.takeAll (s : State) (n : Nat) : State :=
  let ring := s.ring n
  let taken := s.takable ring
  if taken.isEmpty then s
  else
    let s1 := s.setRing n (ring.drop taken.length)
    (taken.foldl (fun t r => t.takeCmd n r) s1).ackRing (ring.map (·.sess))

/-! ### Client records (13 R364, R366) -/

/-- A held write of a client record takes effect (13 R364). -/
def State.writeClient (s0 : State) (o : Origin) (c word : Nat) (v : Word) : State :=
  let x := s0.cli c
  let s := s0.log o 2 0xFF (BitVec.ofNat 32 (rRtCli (16 * c + word))) (x.words.getD word 0) v
  if word = 8 then s.setCli c { x with burst := join64 v (hi32 x.burst) }
  else if word = 9 then s.setCli c { x with burst := join64 (lo32 x.burst) v }
  else if word = 10 then s.setCli c { x with rate := v }
  else if word = 11 then s.setCli c { x with window := v }
  else if word = 14 then
    let y := { x with prioCap := fld v 0 3, world := bit v 3 }
    let used := s.rt.ents.any fun e => decide (e.2.client = c) && decide (e.2.st ≠ .free)
    if bit v 4 = x.valid then s.setCli c y
    else if bit v 4 then s.setCli c { y with valid := true }
    else if used then (s.setCli c y).refuseWrite o (rRtCli (16 * c + 14)) v
    else s.setCli c { y with valid := false }
  else if word = 15 then s.setCli c { x with experts := fld v 0 16, adapters := fld v 16 16 }
  else s

/-- A record that has just opened takes its opening values (13 R364). -/
def State.openClient (s : State) (c : Nat) : State :=
  let x := s.cli c
  s.setCli c { x with balance := x.burst, reserved := 0, spent := 0, refilled := x.burst
                      next := s.tb.tc + BitVec.ofNat 64 (x.window.toNat * 400) }

/-- A credit enters (13 R364): BALANCE saturates at 2^63. -/
def State.creditClient (s : State) (c amount : Nat) : State :=
  let x := s.cli c
  let a := min amount (2 ^ 63 - x.balance.toNat)
  s.setCli c { x with balance := x.balance + BitVec.ofNat 64 a, refilled := x.refilled + BitVec.ofNat 64 a }

/-- Does the held write concern a client for which the test holds? -/
def HeldWrite.forClient (f : Nat → Bool) : HeldWrite → Bool
  | .client c _ _ => f c
  | .credit c _ => f c
  | _ => false

/-- The held writes and credits of the clients that satisfy a test take effect together (13 R364). -/
def State.clientWrites (s : State) (f : Nat → Bool) : State :=
  let mine := s.rt.held.filter fun h => HeldWrite.forClient f h.2
  let s1 := { s with rt := { s.rt with held := s.rt.held.filter fun h => !HeldWrite.forClient f h.2 } }
  let s2 := mine.foldl (fun t h => match h.2 with
    | .client c w v => t.writeClient h.1 c w v
    | _ => t) s1
  let opened := (s2.rt.clis.filter fun x => x.2.valid && !(s1.cli x.1).valid && f x.1).map (·.1)
  let s3 := opened.foldl (fun t c => t.openClient c) s2
  mine.foldl (fun t h => match h.2 with
    | .credit c a => (t.log h.1 2 0xFF (BitVec.ofNat 32 rRtCredit) 0 (BitVec.ofNat 32 (c + a * 4096))).creditClient c a
    | _ => t) s3

/-- The refill of a client at a boundary (13 R366). -/
def Cli.refill (x : Cli) (t : Nat) : Cli :=
  let w := x.window.toNat * 400
  if x.window = 0 ∨ t < x.next.toNat then x
  else
    let n := (t - x.next.toNat) / w + 1
    let a := if x.burst.toNat ≤ x.balance.toNat then 0 else min (n * x.rate.toNat) (x.burst.toNat - x.balance.toNat)
    { x with balance := x.balance + BitVec.ofNat 64 a, refilled := x.refilled + BitVec.ofNat 64 a
             next := x.next + BitVec.ofNat 64 (n * w) }

/-- The refills of a group's clients. -/
def State.refills (s : State) (n : Nat) : State :=
  ((s.rt.clis.filter fun x => x.2.valid && s.gCli n x.1).map (·.1)).foldl
    (fun t c => t.setCli c ((t.cli c).refill s.tb.tc.toNat)) s

/-! ### Key order (13 R368) -/

/-- The effective priority of an entry. -/
def State.effPrio (s : State) (e : Nat) : Nat := min (s.ent e).prio (s.cli (s.ent e).client).prioCap

/-- Is entry a before entry b in key order? -/
def State.keyLt (s : State) (a b : Nat) : Bool :=
  let x := s.ent a
  let y := s.ent b
  if s.effPrio a ≠ s.effPrio b then decide (s.effPrio b < s.effPrio a)
  else if x.deadline ≠ y.deadline then decide (x.deadline.toNat < y.deadline.toNat)
  else if x.qseq ≠ y.qseq then decide ((y.qseq + 2 ^ 20 - x.qseq) % 2 ^ 20 < 2 ^ 19)
  else decide (a < b)

/-- An entry put into its place. -/
def State.insertKey (s : State) (e : Nat) : List Nat → List Nat
  | [] => [e]
  | x :: r => if s.keyLt e x then e :: x :: r else x :: s.insertKey e r

/-- Entries in key order. -/
def State.byKey (s : State) (l : List Nat) : List Nat := l.foldl (fun a e => s.insertKey e a) []

/-! ### Placement (13 R365, R368, R369) -/

/-- What place chooses for a request: positions, drafts, whether the slot emits, whether a valid draft set is held. -/
structure Plan where
  c     : Nat
  steps : List DraftStep
  emit  : Bool
  valid : Bool
  deriving DecidableEq, Repr

/-- The steps held from step i on without a gap, at most `fuel`. -/
def stepsFrom (l : List (Nat × DraftStep)) : Nat → Nat → List DraftStep
  | 0, _ => []
  | fuel + 1, i =>
    match l.find? fun x => decide (x.1 = i) with
    | some x => x.2 :: stepsFrom l fuel (i + 1)
    | none => []

/-- The plan of a placement (13 R365, R369, R378). -/
def State.plan (s : State) (n e : Nat) : Plan :=
  let x := s.ent e
  let left := x.length - x.done
  let c := min (s.gChunk n) left
  let emit := decide (c = left)
  match s.draftOf e with
  | none => ⟨c, [], emit, false⟩
  | some d =>
    let valid := decide (d.pos = x.length ∧ d.tc.toNat < s.tb.tc.toNat)
    let cap := min (min x.spec (x.maxNew - x.gen - 1)) (lengthCap - 1 - x.length)
    let steps := if valid ∧ c = 1 ∧ emit then (stepsFrom d.steps 16 0).take cap else []
    ⟨c, steps, emit, valid⟩

/-- The positions a plan processes, drafts included. -/
def Plan.total (p : Plan) : Nat := p.c + p.steps.length

/-- The reservation E (13 R365). -/
def Plan.resv (p : Plan) (tailgen : Bool) : Nat := p.c - bn tailgen + if p.emit then 1 + p.steps.length else 0

/-- Pages a placement appends, and pages it copies (13 R368): a request that is admitted (`new`) takes need(r), one that continues
the pages of the positions it processes. -/
def State.draws (s : State) (p e : Nat) (pl : Plan) (new : Bool) : Nat × Nat :=
  let q := s.pgOf p
  let x := s.ent e
  (q.newPages e (max (if new then x.length else 0) (x.done + pl.total)), (q.cowAt e x.done pl.total).length)

/-- The bytes a placement adds to the table (13 R368, R372). -/
def State.slotBytes (s : State) (p e : Nat) (pl : Plan) (new : Bool) : Nat :=
  let d := s.draws p e pl new
  32 + 4 * pl.total + 8 * (d.1 + d.2 + if (s.ent e).fresh then 1 + ((s.pgOf p).list e).length else 0)

/-- Is the deadline out of reach (13 R368, `late`)? -/
def State.isLate (s : State) (n e : Nat) : Bool :=
  let x := s.ent e
  let k := ceilDiv (x.length - x.done) (s.gChunk n) + x.maxNew - x.gen - 1
  decide (x.deadline.toNat < min (2 ^ 64 - 1)
    (s.tb.tc.toNat + k * (s.rd rTbBeatLen).toNat + (s.rd (rRtGroupSlack n)).toNat * 400))

/-- The table in the making: its slots, its appends, its bytes, the last refusal and how many there were. -/
structure Build where
  s       : State
  slots   : List BSlot
  apps    : List Append
  bytes   : Nat
  reason  : Nat
  refused : Nat

/-- MASK of a slot (14 R394): a chunk that holds a supplied token of a request that asked for bidirectional prefill is 2
(log entry 45). -/
def Ent.mask (x : Ent) (c : Nat) : Nat := if x.noattend then 1 else if x.bidir ∧ 0 < c - bn x.tailgen then 2 else 0

/-- place (13 R369): the next slot, its pages, its tokens, its reservation. -/
def Build.place (b : Build) (p e : Nat) (pl : Plan) (new : Bool) : Build :=
  let s := b.s
  let x := s.ent e
  let k := b.slots.length
  let d := s.draws p e pl new
  let bytes := b.bytes + s.slotBytes p e pl new
  let r := s.pgPlace p e k x.done pl.total d.1
  let st := r.1.storeTokens p e
  let rd := st.2.readTokens p e x.done pl.c
  let s1 := rd.2
  let toks := rd.1 ++ pl.steps.map (·.tok)
  let resv := pl.resv x.tailgen
  let slot : BSlot :=
    { ent := e, emit := pl.emit, tailgen := x.tailgen, mask := x.mask pl.c, start := x.done, c := pl.c, d := pl.steps.length,
      tokens := toks, drafts := pl.steps, head := (s1.pgOf p).head e, pages := ((s1.pgOf p).list e).length,
      slab := x.slab, adapter := x.adapter, expert := x.expert, resv := resv, fresh := x.slabNew, was := { x with staging := [], staged := [], tail := st.1 } }
  let s2 := s1.updEnt e fun y => { y with st := .running, slot := some k, fresh := false, slabNew := false }
  let cl := s2.cli x.client
  let s3 := s2.setCli x.client { cl with balance := cl.balance - BitVec.ofNat 64 resv
                                         reserved := cl.reserved + BitVec.ofNat 64 resv }
  let s4 := if pl.valid then { s3 with rt := { s3.rt with drafts := s3.rt.drafts.filter fun y => decide (y.ent ≠ e) } } else s3
  { b with s := s4, slots := b.slots ++ [slot], apps := b.apps ++ r.2, bytes := bytes }

/-- A refusal noted (13 R370, R383). -/
def Build.note (b : Build) (e why : Nat) : Build :=
  { b with s := b.s.updEnt e fun x => { x with reason := why }, reason := why, refused := b.refused + 1 }

/-- One continuing request (13 R368). -/
def Build.cont (n p : Nat) (b : Build) (e : Nat) : Build :=
  let s := b.s
  let pl := s.plan n e
  let d := s.draws p e pl false
  let x := s.ent e
  let hold (why : Nat) : Build :=
    Build.note { b with s := s.updEnt e fun y => { y with st := .admitted, slot := none } } e why
  if !(s.pgOf p).resident (s.demand p e) then
    Build.note { b with s := s.updEnt e fun y => { y with st := .reeling, slot := none } } e 5
  else if b.slots.length = s.gSlots n then hold 3
  else if s.gCells n * 256 < b.bytes + s.slotBytes p e pl false then hold 3
  else if (s.cli x.client).balance.toNat < pl.resv x.tailgen then hold 1
  else if !s.pgRoom p e d.1 d.2 0 then hold 2
  else b.place p e pl false

/-- The adapter and expert pins of an admission, kept for the rest of its turn (13 R362; 14 R417). -/
def State.pinFor (s : State) (n e : Nat) : State :=
  if (s.ent e).pinned then s
  else
    let c := s.cli (s.ent e).client
    let a := s.xbPin false c.adapters (s.gId n) c.world
    let x := a.2.xbPin true c.experts (s.gId n) c.world
    x.2.updEnt e fun y => { y with adapter := a.1, expert := x.1, pinned := true }

/-- The QUEUED requests, in key order, until one ends admission (13 R368, R370). One that passes every test and whose demand is not
resident is not admitted (01 R31): it is counted as NOT_RESIDENT and stays QUEUED, whatever NOWAIT holds (13 R357; log entry 36). -/
def Build.queued (n p : Nat) : Build → List Nat → Build
  | b, [] => b
  | b, e :: r =>
    let s := b.s
    let pl := s.plan n e
    let d := s.draws p e pl true
    let x := s.ent e
    let why :=
      if s.isLate n e then 4
      else if b.slots.length = s.gSlots n then 3
      else if s.gCells n * 256 < b.bytes + s.slotBytes p e pl true then 3
      else if (s.cli x.client).balance.toNat < pl.resv x.tailgen then 1
      else if !s.pgRoom p e d.1 d.2 (s.gResv n) then 2
      else if !(s.pgOf p).resident (s.demand p e) then 5
      else 0
    if why = 0 then Build.queued n p (Build.place { b with s := s.pinFor n e } p e pl true) r
    else
      let b1 := b.note e why
      let b2 := if why = 4 ∨ (x.nowait ∧ why ≠ 5) then { b1 with s := b1.s.endEnt e .failed why } else b1
      if why = 2 ∨ why = 3 then b2 else Build.queued n p b2 r

end Sys2Proof.Machine
end

