-- ==== Sys2Proof/Machine/RtTable.lean ====
section
/-! DEFINITION. Batch tables: what the anchor decides after placement, the bytes of a table, what a member reads from them,
commit, discard, and step 7 of a boundary (13 R366 to R382; 14 R390, R391, R405 to R413). -/

namespace Sys2Proof.Machine

open Sys2Proof

/-! ### The bytes of a table (13 R372) -/

/-- The header of a table. -/
def BTable.header (t : BTable) : List Byte :=
  let toks := (t.slots.map fun b => b.tokens.length).sum
  let tokOff := 64 + 32 * t.slots.length
  leBytes 6 t.bno.toNat ++ leBytes 2 t.group ++ leBytes 2 t.slots.length ++ leBytes 2 t.cells ++ leBytes 4 tokOff
    ++ leBytes 4 toks ++ leBytes 4 (tokOff + 4 * toks) ++ leBytes 4 t.apps.length
    ++ leBytes 4 ((t.slots.map fun b => b.c + b.d).sum) ++ leBytes 8 t.tc.toNat ++ List.replicate 24 0

/-- A slot record, with the index of its first token. -/
def BSlot.bytes (b : BSlot) (idx : Nat) : List Byte :=
  leBytes 2 b.ent ++ leBytes 2 (bn b.emit + bn b.tailgen * 2 + b.mask * 4) ++ leBytes 4 b.start ++ leBytes 2 (b.c + b.d)
    ++ leBytes 1 b.d ++ [0] ++ leBytes 4 idx ++ leBytes 4 b.head ++ leBytes 4 b.pages
    ++ leBytes 4 (b.slab.getD 0xFFFFFF) ++ leBytes 2 b.adapter ++ leBytes 2 b.expert

/-- The slot records from a token index on. -/
def slotRecords : Nat → List BSlot → List Byte
  | _, [] => []
  | i, b :: r => b.bytes i ++ slotRecords (i + b.tokens.length) r

/-- A page append. -/
def Append.bytes (a : Append) : List Byte := leBytes 2 a.slot ++ [0, 0] ++ leBytes 4 a.word.toNat

/-- A table, padded to whole cells. -/
def BTable.bytes (t : BTable) : List Byte :=
  let b := t.header ++ slotRecords 0 t.slots ++ (t.slots.flatMap (·.tokens)).flatMap (fun w => leBytes 4 w.toNat)
    ++ t.apps.flatMap Append.bytes
  b ++ List.replicate (t.cells * 256 - b.length) 0

/-- Cell i of a table. -/
def BTable.cell (t : BTable) (i : Nat) : List Byte := (t.bytes.drop (256 * i)).take 256

/-- A slot record as a member reads it. -/
structure WSlot where
  ent    : Nat
  flags  : Nat
  start  : Nat
  n      : Nat
  drafts : Nat
  pages  : Nat
  slab   : Nat
  deriving DecidableEq, Repr

/-- A table as a member reads it from its cells. -/
structure Wire where
  bno   : BitVec 48
  slots : List WSlot
  apps  : List Append
  deriving DecidableEq, Repr

/-- A table read from its bytes (13 R372). -/
def wireOf (b : List Byte) : Wire :=
  { bno := BitVec.ofNat 48 (leAt b 0 6)
    slots := (List.range (min 1024 (leAt b 8 2))).map fun i =>
      let o := 64 + 32 * i
      ⟨leAt b o 2, leAt b (o + 2) 2, leAt b (o + 4) 4, leAt b (o + 8) 2, leAt b (o + 10) 1, leAt b (o + 20) 4, leAt b (o + 24) 4⟩
    apps := (List.range (min 32768 (leAt b 24 4))).map fun i =>
      let o := leAt b 20 4 + 8 * i
      ⟨leAt b o 2, BitVec.ofNat 32 (leAt b (o + 4) 4)⟩ }

/-- The bytes received of a group's table, in cell order. -/
def BRecv.all (r : BRecv) : List Byte :=
  let n := (r.bytes.map (·.1)).foldl max 0
  (List.range (n + 1)).flatMap fun i => match r.bytes.find? fun x => decide (x.1 = i) with
    | some x => x.2
    | none => List.replicate 256 0

/-! ### Page operations on a device (14 R390, R391, R411) -/

/-- The slot operations of a table on a member's books (14 R390). The first placement after a SUBMIT, whose slab is FRESH (R397), is
the one with NEW and TAILGEN 0: a RESUME follows a turn that ended with a kept token, which TAILGEN marks (13 R381). -/
def PgPart.slotOp (frames : Nat) (w : Wire) (q : PgPart) (a : Append) : PgPart :=
  let op := a.word.toNat / 2 ^ 20
  let id := fld a.word 0 20
  match w.slots[a.slot]? with
  | none => q
  | some b =>
    let known := if (q.page id).isSome then q else q.setPage id (some (Page.fresh none w.bno.toNat))
    if op = 0 then (known.giveFrame frames id).setList b.ent (q.list b.ent ++ [id])
    else if op = 1 then
      let q1 := known.giveFrame frames id
      let j := b.start / 32
      let src := (((q.list b.ent)[j]?).bind fun o => (q.page o).bind (·.frame)).getD 0
      let dst := ((q1.page id).bind (·.frame)).getD 0
      { q1.setList b.ent ((q.list b.ent).set j id) with cows := q1.cows ++ [(src, dst)] }
    else if op = 2 then { q.setList b.ent [] with fresh := q.fresh ++ if b.flags / 2 % 2 = 0 then [b.ent] else [] }
    else q

/-- The slot operations of a table applied once, when its LAST cell has arrived (14 R391). -/
def PgPart.applySlots (q : PgPart) (frames : Nat) (w : Wire) : PgPart :=
  if q.table = some w.bno then q
  else (w.apps.filter fun a => decide (a.slot < 1024)).foldl (fun b a => b.slotOp frames w a)
    { q with table := some w.bno, before := some (q.pages, q.lists), cows := [], fresh := [] }

/-- Is the OP of an append one of R390, of its kind? -/
def Append.known (a : Append) : Bool :=
  let op := a.word.toNat / 2 ^ 20
  if a.slot = 0xFFFF then decide (8 ≤ op ∧ op ≤ 12) else decide (op ≤ 2)

/-- A reel order entered at the commit of its table (14 R411); on the anchor it is watched until every device has completed
it. A reel-out of a clean page moves nothing and completes at once. -/
def PgPart.order (q : PgPart) (anchor out : Bool) (id frame : Nat) (dirty : Bool) (ops : Nat) : PgPart :=
  let o : Order := ⟨q.next, out, id, frame, !out || dirty, if !out || dirty then ops else 0, .waiting⟩
  { q with next := q.next + 1, orders := q.orders ++ [o], watch := if anchor then q.watch ++ [o] else q.watch }

/-- A group operation at the commit of its table (14 R390, R391). `ops` is how many RDMA operations an order that moves data
takes. On the anchor the list of a DROP went when its entry became FREE (R405). -/
def PgPart.groupOp (q : PgPart) (frames : Nat) (anchor : Bool) (ops : Nat) (word : Word) : PgPart :=
  let op := word.toNat / 2 ^ 20
  let id := fld word 0 20
  match q.page id with
  | none => if op = 12 ∧ !anchor then q.setList id [] else q
  | some x =>
    if op = 8 then
      (q.setPage id (some { x with res := .outgoing, order := true })).order anchor true id (x.frame.getD 0) x.dirty ops
    else if op = 9 then
      let q1 := q.giveFrame frames id
      let f := ((q1.page id).bind (·.frame)).getD 0
      (q1.updPage id fun y => { y with res := .incoming, order := true }).order anchor false id f false ops
    else if op = 10 then q.setPage id (some { x with frame := none, res := .stored })
    else if op = 11 then q.setPage id none
    else if op = 12 ∧ !anchor then q.setList id []
    else q

/-- How many RDMA operations an order of a partition takes: one for every queue pair message of at most 256 KiB, which is one
(14 R411, R385). -/
def orderOps : Nat := 1

/-- A partition's books at the commit of a table (14 R387, R391, R397): pages written are DIRTY, slabs flip, group operations
take effect in order. -/
def State.pgCommit (s : State) (p : Nat) (anchor : Bool) (w : Wire) : State :=
  let q := s.pgOf p
  if q.table ≠ some w.bno then s
  else
    let q1 := w.slots.foldl (fun b x => b.dirtied x.ent x.start x.n) q
    let q2 := if bit (s.rd (rPgPartSlab p)) 0 then
        (w.slots.filter fun x => decide (x.n ≠ 0 ∧ x.slab ≠ 0xFFFFFF)).foldl (fun b x => b.flip x.slab) q1
      else q1
    let q3 := if anchor then q2.unpin ((q2.pages.filter fun x => match x.2 with
      | some y => decide (0 < y.pins)
      | none => false).map (·.1)) else q2
    let q4 := (w.apps.filter fun a => decide (a.slot = 0xFFFF)).foldl
      (fun b a => b.groupOp (s.pgFrames p) anchor orderOps a.word) q3
    s.setLists p { q4 with before := none, cows := [], table := none }

/-- The local partitions of a group that keep page state of their own beside the anchor's books. -/
def State.pgMembers (s : State) (g : Nat) : List Nat :=
  (s.groupParts g).filter fun p => s.pgOn p && decide (s.anchorPart g ≠ some p)

/-! ### Reel decisions of the anchor (14 R405, R408, R410) -/

/-- The list pages of an entry that hold the positions a FETCH asks for (15 R438). -/
def State.fetchPages (s : State) (p : Nat) (f : FetchJob) : List Nat :=
  let l := (s.pgOf p).list f.ent
  let hi := min (f.from_ + f.count) (s.ent f.ent).length
  ((List.range l.length).filter fun j => decide (f.from_ < 32 * j + 32) && decide (32 * j < hi)).filterMap fun j => l[j]?

/-- The entries whose demand lists count, in key order (14 R408). -/
def State.demanders (s : State) (n : Nat) : List Nat :=
  s.byKey ((s.gLive n).filter fun e =>
    decide ((s.ent e).st = .queued ∨ (s.ent e).st = .admitted ∨ (s.ent e).st = .running ∨ (s.ent e).st = .reeling))

/-- The demanded pages of a group, in key order, those of FETCHes after them. -/
def State.demanded (s : State) (n p : Nat) : List Nat :=
  (s.demanders n).flatMap (fun e => s.demand p e)
    ++ (s.rt.fetches.filter fun f => decide (f.slot = n)).flatMap (fun f => s.fetchPages p f)

/-- The group operations that wait, of one kind. -/
def PgPart.waiting (q : PgPart) (op : Nat) : List Nat := (q.groupOps.filter fun x => decide (x.1 = op)).map (·.2)

/-- Is page a taken as a victim before page b (14 R410)? -/
def victimLt (a b : Nat × Page) : Bool :=
  let d := (b.2.lastUse + 2 ^ 32 - a.2.lastUse % 2 ^ 32) % 2 ^ 32
  if d = 0 then decide (a.1 < b.1) else decide (d < 2 ^ 31)

/-- A victim put into its place. -/
def insertVictim (x : Nat × Page) : List (Nat × Page) → List (Nat × Page)
  | [] => [x]
  | y :: r => if victimLt x y then x :: y :: r else y :: insertVictim x r

/-- The reel-out victims in order (14 R410): RESIDENT pages without a pin that nothing demands, but for those that a table is already
to order out or to reclaim, first those that PARKED entries alone reference, each class by last use, then ID. -/
def State.victims (s : State) (n p : Nat) : List Nat :=
  let q := s.pgOf p
  let dem := s.demanded n p
  let ok := q.pages.filterMap fun x => match x.2 with
    | some y =>
      if y.res = .resident ∧ y.pins = 0 ∧ !y.order ∧ !dem.contains x.1 ∧ !(q.waiting 8).contains x.1 ∧ !(q.waiting 11).contains x.1
      then some (x.1, y) else none
    | none => none
  let parked (id : Nat) : Bool := q.lists.all fun l => !l.2.contains id || decide ((s.ent l.1).st = .parked)
  let order (l : List (Nat × Page)) : List Nat := (l.foldl (fun a x => insertVictim x a) []).map (·.1)
  order (ok.filter fun x => parked x.1) ++ order (ok.filter fun x => !parked x.1)

/-- May a reel order that waits for a table still go out (14 R403, R410, R413): reeling is on and not stopped, and a page to be reeled
out is neither pinned nor demanded by now? -/
def State.opStands (s : State) (n p : Nat) (o : Nat × Nat) : Bool :=
  let q := s.pgOf p
  if o.1 = 8 ∨ o.1 = 9 then
    bit (s.rd (rPgPartCtl p)) 2 && !q.stop
      && (decide (o.1 = 9) || match q.page o.2 with
        | some y => decide (y.pins = 0) && !(s.demanded n p).contains o.2
        | none => false)
  else true

/-- The group operations decided at a work boundary after placement (14 R405, R410, R413): reclaims due, then reel-outs, then
reel-ins; of the reel orders that wait for a table, those that may no longer go out are not given. -/
def State.reelDecide (s0 : State) (n p : Nat) : State :=
  let q0 := s0.pgOf p
  let s := s0.setPg p { q0 with groupOps := q0.groupOps.filter (s0.opStands n p) }
  let q := s.pgOf p
  let reclaim := q.pages.filterMap fun x => match x.2 with
    | some y =>
      if y.quiet ∧ 2 ≤ y.age ∧ y.pins = 0 ∧ !y.order ∧ !(q.waiting 11).contains x.1 ∧ !(q.waiting 8).contains x.1
          ∧ !(q.waiting 9).contains x.1 then some (11, x.1) else none
    | none => none
  let q1 := { q with groupOps := q.groupOps ++ reclaim }
  if !bit (s.rd (rPgPartCtl p)) 2 || q.stop then s.setPg p q1
  else
    let free := s.freeFrames p
    let coming := (q.pages.filter fun x => match x.2 with
      | some y => decide (y.res = .outgoing)
      | none => false).length + (q.waiting 10).length + (q.waiting 8).length
    let room := fld (s.rd (rPgPartOrdersMax p)) 0 10 - ((q.waiting 8).length + (q.waiting 9).length)
    let low := fld (s.rd (rPgPartWmLow p)) 0 20
    let high := fld (s.rd (rPgPartWmHigh p)) 0 20
    let want := if free + coming < low then high - (free + coming) else 0
    let outs := (s.victims n p).take (min want room)
    let need := (distinct (s.demanded n p)).filter fun id => match q.page id with
      | some y => decide (y.res = .stored) && !(q.waiting 9).contains id
      | none => false
    let ins := need.take (min (room - outs.length) (free - (q.waiting 9).length))
    s.setPg p { q1 with groupOps := q1.groupOps ++ outs.map (fun id => (8, id)) ++ ins.map fun id => (9, id) }

/-! ### Building the table (13 R368, R371, R372) -/

/-- LAST of a group (13 R383): SLOTS_USED moves with a table, the last refusal and the count with every boundary. -/
def State.noteLast (s : State) (n : Nat) (slots : Option Nat) (reason refused : Nat) : State :=
  let used := slots.getD (fld (s.rd (rRtGroupLast n)) 0 11)
  s.wr (rRtGroupLast n) (BitVec.ofNat 32 (used + reason * 2 ^ 11 + min 0xFFFF refused * 2 ^ 16))

/-- The RUNNING entries of a group become ADMITTED, without a slot (13 R382). -/
def State.unplace (s : State) (n : Nat) : State :=
  ((s.gLive n).filter fun e => decide ((s.ent e).st = .running)).foldl
    (fun t e => t.updEnt e fun x => { x with st := .admitted, slot := none }) s

/-- Admission, placement and the table of a group (13 R368, R372; 14 R391, R403); `ready` is T_n. -/
def State.admitGroup (s : State) (n ready : Nat) : State :=
  let rest : State := s.unplace n
  match s.anchorPart (s.gId n) with
  | none => rest.noteLast n none 0 0
  | some p =>
    if !s.gRunning n then rest.noteLast n none 0 0
    else
      let q := s.pgOf p
      let s1 := s.setPg p { q with before := some (q.pages, q.lists), cows := [], table := some s.beat.bno }
      let live := s1.gLive n
      let cont := s1.byKey (live.filter fun e => decide ((s1.ent e).st = .running ∨ (s1.ent e).st = .admitted))
      let b1 := cont.foldl (fun b e => b.cont n p e) (⟨s1, [], [], 64, 0, 0⟩ : Build)
      let waiting := b1.s.byKey (live.filter fun e => decide ((b1.s.ent e).st = .queued))
      let b2 := if s.gNoadmit n then b1 else b1.queued n p (waiting.take (s.gScan n))
      let q2 := b2.s.pgOf p
      let s2 := (b2.s.setPg p (q2.pin (q2.pinned (b2.slots.map (·.ent))) s.beat.bno.toNat)).reelDecide n p
      let q3 := s2.pgOf p
      let ops := q3.groupOps.take ((s.gCells n * 256 - b2.bytes) / 8)
      let apps := b2.apps ++ ops.map fun o => ⟨0xFFFF, opWord o.1 o.2⟩
      let s3 := s2.setPg p { q3 with groupOps := q3.groupOps.drop ops.length, fresh := (b2.slots.filter (·.fresh)).map (·.ent) }
      let t : BTable :=
        { n := n, group := s.gId n, bno := s.beat.bno, tc := s.tb.tc, slots := b2.slots, apps := apps,
          cells := ceilDiv (b2.bytes + 8 * ops.length) 256, sent := 0, ready := ready, late := false }
      State.noteLast { s3 with rt := { s3.rt with tables := s3.rt.tables.filter (fun x => decide (x.n ≠ n)) ++ [t] } } n
        (some b2.slots.length) b2.reason b2.refused

/-! ### Acknowledgements, selections, FETCH (14 R409, R412, R413; 15 R438) -/

/-- An order complete on every device (14 R406, R412, R413). -/
def State.orderDone (s : State) (n p : Nat) (o : Order) : State :=
  let q := s.pgOf p
  let lost := q.aband.contains o.seq
  let kept := match q.page o.page with
    | some y => decide (0 < y.pins) || (s.demanded n p).contains o.page
    | none => true
  let q1 :=
    if o.out then
      if lost then q.updPage o.page fun y => { y with res := .resident, dirty := true, order := false }
      else if kept then q.updPage o.page fun y => { y with res := .resident, dirty := false, order := false }
      else
        let r := q.updPage o.page fun y => { y with res := .stored, dirty := false, order := false }
        { r with groupOps := r.groupOps ++ [(10, o.page)] }
    else q.updPage o.page fun y => { y with res := if lost then .lost else .resident, order := false }
  let s1 := s.setPg p (q1.settle o.page)
  if lost && !o.out then (s1.setBit rPgStatus 3).event 0x8D 6 0xFF p 0xFFFF (BitVec.ofNat 32 o.page) else s1

/-- The least DONE of the group: the anchor's own and those of the records read (14 R412). -/
def State.leastDone (s : State) (p : Nat) : Nat :=
  let q := s.pgOf p
  let others := (List.range (s.part p).members.length).filter fun i => match (s.part p).members[i]? with
    | some m => !(decide (m.chip = fld (s.rd rTetherChip) 0 10) && decide (m.part = p))
    | none => false
  others.foldl (fun a i => min a (match q.acks.find? fun r => decide (r.member = i) with
    | some r => r.done
    | none => 0)) q.doneN

/-- The orders complete on all devices, at a work boundary (14 R412). -/
def State.ordersDone (s : State) (n p : Nat) : State :=
  let q := s.pgOf p
  let least := s.leastDone p
  let s1 := s.setPg p { q with watch := q.watch.filter fun o => decide (least ≤ o.seq) }
  (q.watch.filter fun o => decide (o.seq < least)).foldl (fun t o => t.orderDone n p o) s1

/-- The selections posted in the period just ended (14 R409). -/
def State.selections (s : State) (n p : Nat) : State :=
  let posts := (s.pgOf p).posts
  let s1 := (s.gLive n).foldl (fun t e =>
    let mine := posts.filter fun x => decide (x.1 = e)
    if mine.isEmpty then t
    else
      let old := if mine.any (·.2.1) then [] else (t.ent e).sel
      let k := ((t.pgOf p).list e).length
      t.updEnt e fun x => { x with sel := distinct (old ++ (mine.flatMap (·.2.2)).filter fun j => decide (j < k)) }) s
  s1.setPg p { s1.pgOf p with posts := [] }

/-- The positions sent in answer to a FETCH, 1,024 to a record (15 R438). -/
def State.sendFetched (s : State) (p : Nat) (f : FetchJob) (lo hi : Nat) : State :=
  let x := s.ent f.ent
  (List.range (ceilDiv (hi - lo) 1024)).foldl (fun t k =>
    let a := lo + 1024 * k
    let r := t.readTokens p f.ent a (min 1024 (hi - a))
    r.2.sendToken f.sess f.ent x.tag r.2.beat.bno a false true 0 r.1) s

/-- A FETCH at a work boundary (15 R438): it waits until the pages are RESIDENT, or ends at a page that is LOST, or at a poisoned
granule, with status POISON (05 R151; 15 R436; log entry 36); it waits, too, while its tokens lie in a region that is stopped (11
R326). With RELEASE, TOKGAP goes when every position has been sent. -/
def State.serveFetch (s : State) (p : Nat) (f : FetchJob) : State :=
  let q := s.pgOf p
  let l := q.list f.ent
  let hi := min (f.from_ + f.count) (s.ent f.ent).length
  let res (pos : Nat) : Resid := match (l[pos / 32]?).bind q.page with
    | some y => y.res
    | none => .resident
  let stop := ((List.range (hi - f.from_)).map (f.from_ + ·)).find? fun pos => decide (res pos = .lost) || s.tokenPoisoned p f.ent pos
  let top := stop.getD hi
  if s.tokensRun p f.ent ∧ ((List.range (top - f.from_)).map (f.from_ + ·)).all fun pos => decide (res pos = .resident) then
    let s0 := { s with rt := { s.rt with fetches := s.rt.fetches.filter fun g => decide (g ≠ f) } }
    let s1 := if f.release ∧ stop.isNone then s0.updEnt f.ent fun x => { x with tokgap := false } else s0
    let s2 := s1.sendFetched p f f.from_ top
    let s3 := if f.release ∧ ((s2.ent f.ent).st = .done ∨ (s2.ent f.ent).st = .failed) then
        s2.updEnt f.ent fun x => { x with fetched := true } else s2
    match stop with
    | none => s3.complete f.sess f.tag 5 0 0 f.ent (top - f.from_)
    | some pos =>
      if res pos = .lost then s3.complete f.sess f.tag 5 1 8 f.ent (top - f.from_)
      else (s3.readTokens p f.ent pos 1).2.complete f.sess f.tag 5 5 0 f.ent (top - f.from_)
  else s

/-- REELING_IN entries whose demand lists are resident become QUEUED (13 R368). -/
def State.reeled (s : State) (n p : Nat) : State :=
  ((s.gLive n).filter fun e => decide ((s.ent e).st = .reeling) && (s.pgOf p).resident (s.demand p e)).foldl
    (fun t e => t.updEnt e fun x => { x with st := .queued }) s

/-! ### Step 7 of a boundary that opens a work period (13 R364, R368, R382, R383) -/

/-- The group is released (13 R382; 15 R435). -/
def State.releaseGroup (s : State) (n : Nat) : State :=
  let live := s.gLive n
  let alive (e : Nat) : Bool := decide ((s.ent e).st ≠ .done ∧ (s.ent e).st ≠ .failed)
  let s1 := (live.filter alive).foldl (fun t e => t.endEnt e .failed 12) s
  let s2 := live.foldl (fun t e => t.freeEnt n e 9) s1
  let s3 := ((s2.rt.clis.filter fun x => s2.gCli n x.1).map (·.1)).foldl
    (fun t c => t.setCli c { t.cli c with valid := false }) s2
  let ring := s3.ring n
  let s4 := ring.foldl (fun t r => t.complete r.sess r.c.tag r.op.code 1 9 r.c.entry 0) (s3.setRing n [])
  let s5 := s4.ackRing (ring.map (·.sess))
  State.clrBit { s5 with rt := { s5.rt with tables := s5.rt.tables.filter fun t => decide (t.n ≠ n) } } (rRtGroupCtl n) 0

/-- A held write of RT_GROUPn_CTL takes effect (13 R383). -/
def State.heldGroup (s : State) (h : Origin × HeldWrite) : State :=
  match h.2 with
  | .valid n b =>
    if b = s.gValid n then s
    else if !b then s.releaseGroup n
    else if s.hasAnchor (s.gId n) then s.setBit (rRtGroupCtl n) 0
    else s.refuseWrite h.1 (rRtGroupCtl n) 1
  | .noadmit n b => s.wrF (rRtGroupCtl n) 12 1 (bn b)
  | .frozen n b => s.wrF (rRtGroupCtl n) 13 1 (bn b)
  | _ => s

/-- Is a held write one of RT_GROUPn_CTL? -/
def HeldWrite.isGroup : HeldWrite → Bool
  | .valid _ _ => true
  | .noadmit _ _ => true
  | .frozen _ _ => true
  | _ => false

/-- Step 7 for one group (13 R368): intake, client writes, refills, what has been reeled, admission, the table. The answer
carries T_n. -/
def State.groupStep (n : Nat) (a : State × Nat) : State × Nat :=
  let s := a.1
  if !s.gValid n then a
  else
    let i := (s.takable (s.ring n)).length
    let t := a.2 + 96 + i + s.gScan n + 2 * s.gSlots n + s.gCells n
    let s1 := ((s.takeAll n).clientWrites fun c => s.gCli n c).refills n
    let s2 := match s1.anchorPart (s1.gId n) with
      | some p =>
        let u := (s1.selections n p).ordersDone n p
        ((u.rt.fetches.filter fun (f : FetchJob) => decide (f.slot = n)).foldl (fun (v : State) f => v.serveFetch p f) u).reeled n p
      | none => s1
    ((s2.freeEnded n).admitGroup n t, t)

/-- Step 7 of a boundary that opens a work period: held writes of groups, version flips, the groups in order, the held writes
of clients of no group (13 R364, R368, R383; 14 R416). -/
def State.workStep (s : State) : State :=
  let mine := s.rt.held.filter fun h => HeldWrite.isGroup h.2
  let s1 := { s with rt := { s.rt with held := s.rt.held.filter fun h => !HeldWrite.isGroup h.2 } }
  let s2 := (mine.foldl State.heldGroup s1).xbFlip
  let r := (List.range 16).foldl (fun a n => State.groupStep n a) (s2, 0)
  State.clientWrites { r.1 with rt := { r.1.rt with busy := s.tb.tc + BitVec.ofNat 64 r.2 } } fun _ => true

/-! ### Commit and discard (13 R366, R381, R382) -/

/-- Tokens up to and including the first stop token. -/
def keptOf (stops : List Word) : List Word → List Word
  | [] => []
  | t :: r => if stops.contains t then [t] else t :: keptOf stops r

/-- A client is charged at a commit (13 R365, R366). -/
def State.charge (s : State) (c resv used : Nat) : State :=
  let x := s.cli c
  s.setCli c { x with reserved := x.reserved - BitVec.ofNat 64 resv, spent := x.spent + BitVec.ofNat 64 used
                      balance := x.balance + (BitVec.ofNat 64 resv - BitVec.ofNat 64 used) }

/-- Kept tokens written to the token store, or held with the entry where no page covers them (13 R381; 14 R396). -/
def State.keepTokens (s : State) (p e start : Nat) (toks : List Word) : State :=
  (positions start toks).foldl (fun t w => match (t.pgOf p).frameAt e w.1 with
    | some f => t.putToken p f w.1 w.2
    | none => t.updEnt e fun x => { x with tail := x.tail ++ [w] }) s

/-- One slot at a commit (13 R381). -/
def State.commitSlot (s : State) (n p : Nat) (bno : BitVec 48) (b : BSlot) (res : Option SlotResult) : State :=
  let x := s.ent b.ent
  let base := b.c - bn b.tailgen
  if !b.emit then
    (s.charge x.client b.resv base).updEnt b.ent fun y => { y with done := y.done + b.c, tailgen := false }
  else
    match res.bind (·.toks) with
    | none => (s.charge x.client b.resv base).endEnt b.ent .failed 11
    | some toks =>
      let stops := s.gStops n
      let kept := keptOf stops toks
      let s1 := (s.charge x.client b.resv (base + kept.length)).keepTokens p b.ent x.length kept
      let s2 := s1.updEnt b.ent fun y =>
        { y with done := y.done + b.c + kept.length - 1, length := y.length + kept.length, gen := y.gen + kept.length,
                 tailgen := true }
      let y := s2.ent b.ent
      let reason :=
        if y.length = lengthCap then 6 else if kept.any (fun t => stops.contains t) then 7 else if y.gen = y.maxNew then 8
        else 0
      let st : EState := if reason = 6 then .done else if y.keep then .parked else .done
      let s3 := if reason = 0 then s2 else s2.endEnt b.ent st reason
      match y.sess with
      | some u => s3.sendToken u b.ent y.tag bno x.length (decide (reason ≠ 0)) false reason kept
      | none => s3

/-- The result of a slot. -/
def State.resultOf (s : State) (group slot : Nat) : Option SlotResult :=
  s.rt.results.find? fun r => decide (r.group = group ∧ r.slot = slot)

/-- The RT no longer holds a group's table and its results. -/
def State.forgetTable (s : State) (t : BTable) : State :=
  { s with rt := { s.rt with tables := s.rt.tables.filter (fun x => decide (x.n ≠ t.n))
                             results := s.rt.results.filter (fun r => decide (r.group ≠ t.group)) } }

/-- A table commits on its anchor (13 R381; 14 R391, R403). -/
def State.commitTable (s : State) (t : BTable) : State :=
  match s.booksPart t.group with
  | none => s.forgetTable t
  | some p =>
    let s1 := ((List.range t.slots.length).zip t.slots).foldl
      (fun u x => u.commitSlot t.n p t.bno x.2 (s.resultOf t.group x.1)) s
    (s1.pgCommit p true (wireOf t.bytes)).forgetTable t

/-- A slot of a discarded table (13 R366, R382; 14 R391). -/
def State.dropSlot (s : State) (fault : Bool) (b : BSlot) : State :=
  let x := s.ent b.ent
  let s1 := (s.charge x.client b.resv 0).updEnt b.ent fun y =>
    { y with st := if y.st = .running then .admitted else y.st, slot := none, tail := b.was.tail,
             fresh := b.was.fresh, slabNew := b.was.slabNew }
  if fault then s1.endEnt b.ent .failed 10 else s1

/-- A table is discarded (13 R382; 14 R391): reservations return, slot operations are undone, RELEASE and DROP wait again;
under a group fault its requests become FAILED. -/
def State.discardTable (s : State) (fault : Bool) (t : BTable) : State :=
  let s1 := t.slots.foldl (fun u b => u.dropSlot fault b) s
  let s2 := match s1.booksPart t.group with
    | none => s1
    | some p =>
      let q := (s1.pgOf p).undo
      let again := (t.apps.filter fun (a : Append) => decide (a.slot = 0xFFFF)).filterMap fun (a : Append) =>
        let op := a.word.toNat / 2 ^ 20
        if op = 10 ∨ op = 12 then some (op, fld a.word 0 20) else none
      s1.setLists p { q with groupOps := again ++ q.groupOps }
  s2.forgetTable t

/-- The tables received of committed beats take effect on the partitions that follow an anchor (14 R391). -/
def State.commitMembers (s : State) (groups : Nat → Bool) : State :=
  (s.rt.recv.filter fun r => r.last && groups r.group).foldl
    (fun t r => (t.pgMembers r.group).foldl (fun u p => u.pgCommit p false (wireOf r.all)) t) s

/-- The tables received of discarded beats are undone there (14 R391). -/
def State.discardMembers (s : State) (groups : Nat → Bool) : State :=
  (List.range 16).foldl (fun t p =>
    if groups (t.part p).group ∧ (t.pgOf p).before.isSome then t.setLists p (t.pgOf p).undo else t) s

/-- A partition of a group leaves at a boundary (13 R382; 14 R391): a table of the group that is to be replayed is discarded with
its pins and reservations, and every RUNNING entry becomes ADMITTED (log entry 58). -/
def State.dropUncommitted (s : State) (g : Nat) : State :=
  let s1 := ((s.rt.tables.filter fun t => decide (t.group = g)).foldl (fun u t => u.discardTable false t) s).discardMembers
    fun x => decide (x = g)
  match (List.range 16).find? fun n => s1.gValid n && decide (s1.gId n = g) with
  | none => s1
  | some n => s1.unplace n

/-! ### What reads return (13 R358, R383; 14 R419) -/

/-- The sixteen words of an entry, with the length and head of the page list that the anchor holds for it (13 R357; 14 R389). -/
def State.entWords (s : State) (e : Nat) (x : Ent) : List Word :=
  match ((List.range 16).find? fun n => s.gValid n && s.gHas n e).bind fun n => s.booksPart (s.gId n) with
  | some p => x.words ((s.pgOf p).list e).length ((s.pgOf p).head e)
  | none => x.words 0 0xFFFFF

/-- The words of entries and client records, the counts of groups, partitions and slots, as they stand at the end of step 7 of a
boundary (13 R358, R383; 14 R418, R419). -/
def State.snapshot (s : State) : State :=
  let ents := (s.rt.ents.map fun x => (x.1, s.entWords x.1 x.2)).filter fun x => decide (x.2 ≠ Ent.reset.words 0 0)
  let clis := (s.rt.clis.map fun x => (x.1, x.2.words)).filter fun x => decide (x.2 ≠ Cli.reset.words)
  let s1 := { s with rt := { s.rt with snapEnts := ents, snapClis := clis } }
  let s2 := (List.range 16).foldl (fun t n =>
    let live := if t.gValid n then t.gLive n else []
    t.wr (rRtGroupCounts n) (BitVec.ofNat 32
      ((live.filter fun e => decide ((t.ent e).st = .queued)).length + live.length * 2 ^ 15))) s1
  let s3 := ((List.range 16).filter fun p => s2.pgOn p).foldl (fun t p =>
    (t.wr (rPgPartFreeIds p) (BitVec.ofNat 32 (t.freeIds p))).wr (rPgPartFreeFrames p) (BitVec.ofNat 32 (t.freeFrames p))) s2
  s3.xbCount

end Sys2Proof.Machine
end

