-- ==== Sys2Proof/Machine/Rt.lean ====
section
/-! DEFINITION. The RT's drift packets, and a batch table's cells as a device receives them (13 R373, R378; 14 R391). -/

namespace Sys2Proof.Machine

open Sys2Proof

/-- The group slot whose range holds an entry of a group anchored here. -/
def State.slotOfEnt (s : State) (e : Nat) : Option Nat :=
  (List.range 16).find? fun n => s.gValid n && s.gHas n e

/-- DRAFT_PACKET: the RT takes the oldest packet of its mailbox; one of kind 0x10 carries draft steps (13 R378). A poisoned one is
dropped (log entry 47), and so is one of a non-secure partition for a request of a secure client (09 R267); one of another kind is
ignored. -/
def execDraftPacket (s : State) : Res :=
  match s.takeMail 0x100 with
  | none => .next s
  | some (p, s1) =>
    if p.kind ≠ 0x10 then .next s1
    else
      let e := leAt p.payload 0 2
      let count := leAt p.payload 2 1
      let first := leAt p.payload 3 1
      let st := (s1.ent e).st
      let dead : Bool := (s1.slotOfEnt e).isNone || decide (st = .free ∨ st = .done ∨ st = .failed)
      if dead || s1.wrongWorld p.secure (s1.ent e).client || decide (count = 0 ∨ 5 < count ∨ 16 < first + count) || p.poison then .next s1.dropDraft
      else
        let steps := (List.range count).map fun i =>
          (first + i, DraftStep.mk (BitVec.ofNat 32 (leAt p.payload (8 + 8 * i) 4)) (BitVec.ofNat 32 (leAt p.payload (12 + 8 * i) 4)))
        .next (s1.storeDraft e (leAt p.payload 4 4) steps s1.tb.tc false)

/-! ### Cells of a table at a device (13 R373) -/

/-- The table a device has received of a group. -/
def State.recvOf (s : State) (g : Nat) : BRecv := (s.rt.recv.find? fun r => decide (r.group = g)).getD ⟨g, 0, [], false⟩

/-- The state with a group's received table replaced. -/
def State.setRecv (s : State) (r : BRecv) : State :=
  { s with rt := { s.rt with recv := s.rt.recv.filter (fun x => decide (x.group ≠ r.group)) ++ [r] } }

/-- A refusal recorded by a unit outside the tether (10 R308). -/
def State.refuseUnit (s : State) (unit cause chip part : Nat) : State := s.refuseLanding unit cause 0 chip part

/-- The local partitions of a group that receive its tables. -/
def State.btParts (s : State) (g : Nat) : List Nat := (s.groupParts g).filter fun p => bit (s.rd (rRtPartBtCtl p)) 0

/-- One cell deposited for one partition (13 R373). -/
def State.btDeposit (s : State) (anchor i : Nat) (bytes : List Byte) (p : Nat) : State :=
  let core := fld (s.rd (rRtPartBtCtl p)) 1 8
  let a := fld (s.rd (rRtPartBtAddr p)) 8 17 * 256 + 256 * i
  let s1 := s.unitPut 5 p core a (bytes.take 256) []
  if (s.unitCheck p core a (bytes.take 256).length).isNone then s1 else (s1.setBit rRtStatus 2).refuseUnit 5 5 anchor p

/-- A unit's flag of a partition set to the low word of the beat number (13 R373; 14 R392); from the guard band on the set is not
made and the unit records SCHED_MISS (08 R246). -/
def State.unitFlag (s : State) (p flag key unit : Nat) : State :=
  if s.beat.inGuard then s.unitMiss unit p
  else s.postFlag ⟨(s.part p).fbase + flag, .set, BitVec.ofNat 32 s.beat.bno.toNat, key, 0, 0⟩

/-- The slot operations of a table whose LAST cell has arrived take effect on the partitions that follow an anchor (14 R390,
R391); a reserved OP is LANDING_REFUSED with cause APPEND. -/
def State.tableArrived (s : State) (g : Nat) : State :=
  let w := wireOf (s.recvOf g).all
  let s1 := if w.apps.all Append.known then s else s.refuseUnit 6 6 (fld (s.rd rTetherChip) 0 10) 0xFF
  (s1.pgMembers g).foldl (fun t p => t.setLists p ((t.pgOf p).applySlots (t.pgFrames p) w)) s1

/-- Cell i of a group's table taken by the RT (13 R373). -/
def State.batchCell (s : State) (g anchor i : Nat) (last : Bool) (bytes : List Byte) : State :=
  let r := s.recvOf g
  let s1 := s.setRecv ⟨g, anchor, r.bytes.filter (fun x => decide (x.1 ≠ i)) ++ [(i, bytes)], r.last || last⟩
  let s2 := (s1.btParts g).foldl (fun t p => t.btDeposit anchor i bytes p) s1
  if last then
    (s2.btParts g).foldl (fun t p => t.unitFlag p (fld (t.rd (rRtPartBtCtl p)) 9 13) 257 5) (s2.tableArrived g)
  else s2

end Sys2Proof.Machine
end

