-- ==== Sys2Proof/Machine/RlRun.lean ====
section
/-! DEFINITION. The reel engines and their queue pairs: orders, RDMA requests, retransmission, the members' records (14 R411 to
R413; 15 R425 to R427). -/

namespace Sys2Proof.Machine

open Sys2Proof

/-! ### Queue pairs (15 R425 to R427) -/

/-- A queue pair. -/
def State.qp (s : State) (k : Nat) : Qp := Sparse.get (fun _ => Qp.reset) s.qps k
/-- The state with a queue pair replaced. -/
def State.setQp (s : State) (k : Nat) (x : Qp) : State := { s with qps := Sparse.set (fun _ => Qp.reset) s.qps k x }
/-- STATE of a queue pair: 0 RESET, 1 RTS, 2 ERROR. -/
def State.qpState (s : State) (k : Nat) : Nat := fld (s.rd (rIoQpCtl k)) 0 2

/-- The PSN of the oldest packet of a request that is not acknowledged, or whose answer has not come (15 R426). -/
def RoceReq.oldest (r : RoceReq) : Nat := (r.psn + r.off / 4096) % 2 ^ 24

/-- The packets of a request: PSN, kind, offset, length (15 R425: path MTU 4,096). -/
def RoceReq.packets (r : RoceReq) : List (Nat × RoceOp × Nat × Nat) :=
  match r.op with
  | .readReq => [(r.oldest, .readReq, r.off, r.len - r.off)]
  | _ =>
    let n := ceilDiv r.len 4096
    (List.range n).map fun i =>
      ((r.psn + i) % 2 ^ 24,
        if n = 1 then .writeOnly else if i = 0 then .writeFirst else if i + 1 = n then .writeLast else .writeMiddle,
        4096 * i, min 4096 (r.len - 4096 * i))

/-- The destination address of a queue pair (15 R443). -/
def State.qpDip (s : State) (k : Nat) : List Byte :=
  beNat 16 ((s.rd (rIoQpDip0 k)).toNat + (s.rd (rIoQpDip1 k)).toNat * 2 ^ 32 + (s.rd (rIoQpDip2 k)).toNat * 2 ^ 64
    + (s.rd (rIoQpDip3 k)).toNat * 2 ^ 96)

/-- What carries the packets of a queue pair: its preferred port, or while that is down another one; marked ECT(0), code point 2 (15
R424, R425, R427). -/
def State.qpWire (s : State) (k : Nat) : Egress :=
  let home := 4 + fld (s.rd (rIoQpCtl k)) 2 2
  let w := s.wire 1 (s.qpDip k) (0xC000 + k % 0x4000) 4791 2
  if bit (s.rd (rIoEpState home)) 1 then { w with ep := some home } else w

/-- What an RDMA packet is, as a number. -/
def RoceOp.num : RoceOp → Nat
  | .writeFirst => 0
  | .writeMiddle => 1
  | .writeLast => 2
  | .writeOnly => 3
  | .readReq => 4
  | .nak => 5
  | .cnp => 6

/-- One packet sent from a queue pair to its peer, with its ICRC (15 R425). -/
def State.sendRoce (s0 : State) (k psn : Nat) (op : RoceOp) (va : DWord) (rkey : Word) (len : Nat) (data : List Byte) : State :=
  let w := s0.qpWire k
  let s := s0.carry w
  let dqpn := fld (s0.rd (rIoQpDqpn k)) 0 24
  let crc := Config.icrc ([w.sport, dqpn, psn, op.num, va.toNat, rkey.toNat, len] ++ (w.dst ++ data).map (·.toNat))
  { s with out := s.out ++ [.roce w k dqpn psn op va rkey len data crc] }

/-- The packets of a request from a PSN distance on sent. -/
def State.sendReq (s : State) (k : Nat) (r : RoceReq) (skip : Nat) : State :=
  (r.packets.drop (if r.op = .readReq then 0 else skip)).foldl
    (fun t x => t.sendRoce k x.1 x.2.1 (r.va + BitVec.ofNat 64 x.2.2.1) r.rkey x.2.2.2 ((r.data.drop x.2.2.1).take x.2.2.2)) s

/-- How many requests of a queue are on the wire: the longest start of it with at most ORD reads (15 R425). -/
def onWire (ord : Nat) : List RoceReq → Nat
  | [] => 0
  | r :: q =>
    if r.op = .readReq then (if ord = 0 then 0 else 1 + onWire (ord - 1) q) else 1 + onWire ord q

/-- The reads that a queue pair may have outstanding: ORD, within 1 to 16 (15 R425, R443). -/
def State.ordOf (s : State) (k : Nat) : Nat := min 16 (max 1 (fld (s.rd (rIoQpCtl k)) 4 5))

/-- A request joins a queue pair's queue, takes its PSNs, and is sent when ORD allows. -/
def State.postReq (s : State) (k : Nat) (r : RoceReq) : State :=
  let q := s.qp k
  let psn := fld (s.rd (rIoQpPsn k)) 0 24
  let r1 := { r with psn := psn }
  let reqs := q.reqs ++ [r1]
  let s1 := (s.setQp k { q with reqs := reqs }).wrF (rIoQpPsn k) 0 24 ((psn + r.span) % 2 ^ 24)
  if onWire (s.ordOf k) reqs = reqs.length then s1.sendReq k r1 0 else s1

/-- The distance from one PSN to another, forward. -/
def psnFrom (a b : Nat) : Nat := (b + 2 ^ 24 - a) % 2 ^ 24

/-- Everything on the wire from a PSN on is sent again (15 R426). -/
def State.resendFrom (s : State) (k psn : Nat) : State :=
  let q := s.qp k
  (q.reqs.take (onWire (s.ordOf k) q.reqs)).foldl (fun t r =>
    let d := psnFrom r.psn psn
    if d < r.span then t.sendReq k r d else if psnFrom psn r.psn < 2 ^ 23 then t.sendReq k r 0 else t) s

/-! ### Orders (14 R411, R413) -/

/-- The queue pair of a page of a partition (14 R411; 15 R425). -/
def State.orderQp (s : State) (p id : Nat) : Nat :=
  let w := s.rd (rRlPartQp p)
  id % 2 * 512 + (fld w 0 9 + id % max 1 (fld w 9 10)) % 512

/-- STORE_VA. -/
def State.storeVa (s : State) (p : Nat) : DWord := join64 (s.rd (rRlPartVaLo p)) (s.rd (rRlPartVaHi p))

/-- The bytes of a page on a device. -/
def State.pageSize (s : State) (p : Nat) : Nat := 2 ^ (s.part p).pageLog2

/-- Where the bytes of a frame lie: core and program address of each arena core's share, in arena order (14 R386). -/
def State.frameParts (s : State) (p frame : Nat) : List (Nat × Nat) :=
  let a := s.rd (rPgPartArena p)
  let r := s.rd (rPgPartArect p)
  let aw := 2 ^ fld r 8 3
  let share := 2 ^ fld a 15 5
  (List.range (aw * 2 ^ fld r 12 3)).map fun i =>
    ((fld r 4 4 + i / aw) * 16 + fld r 0 4 + i % aw, fld a 2 13 * 4096 + frame * share)

/-- The share of an arena core. -/
def State.share (s : State) (p : Nat) : Nat := 2 ^ fld (s.rd (rPgPartArena p)) 15 5

/-- The endpoint of the reel engine that a queue pair belongs to (09 R266; 15 R425). -/
def rlEp (k : Nat) : Nat := 0x102 + k / 512

/-- Bytes of a frame written by a reel engine from an offset on. -/
def State.putFrame (s : State) (rl p frame off : Nat) (bs : List Byte) : State :=
  let sh := s.share p
  let parts := s.frameParts p frame
  (List.range parts.length).foldl (fun t i =>
    match parts[i]? with
    | some x =>
      let lo := max off (i * sh)
      let hi := min (off + bs.length) (i * sh + sh)
      if lo < hi then t.unitWrite rl p x.1 (x.2 + lo - i * sh) ((bs.drop (lo - off)).take (hi - lo)) [] else t
    | none => t) s

/-- Parts of slices read by a reel engine in order, whether poison was among them, and the state after it (14 R411). -/
def State.readParts (s : State) (rl p : Nat) (parts : List (Nat × Nat × Nat)) : List Byte × Bool × State :=
  parts.foldl (fun (a : List Byte × Bool × State) x =>
    let r := (a.2.2.atEndpoint rl x.1).unitRead 7 p x.1 x.2.1 x.2.2
    (a.1 ++ r.1, a.2.1 || !r.2.1.isEmpty, r.2.2)) ([], false, s)

/-- Does the device hold the group's token store in the partition? -/
def State.isAnchor (s : State) (p : Nat) : Bool := decide (s.booksPart (s.part p).group = some p)

/-- Which member of the group plan a local partition is. -/
def State.memberNo (s : State) (p : Nat) : Nat :=
  ((List.range (s.part p).members.length).find? fun i => match (s.part p).members[i]? with
    | some m => decide (m.chip = fld (s.rd rTetherChip) 0 10 ∧ m.part = p)
    | none => false).getD 0

/-- The acknowledgement record of a member (14 R412). -/
def PgPart.record (q : PgPart) : List Byte :=
  leBytes 4 q.doneN ++ leBytes 4 q.failSeq ++ leBytes 4 q.failCnt ++ leBytes 1 (bn q.stopped) ++ List.replicate 19 0

/-- The record is sent to the anchor, behind the cells queued before it; the anchor keeps its own (14 R412). -/
def State.sendRecord (s : State) (p : Nat) : State :=
  if s.isAnchor p then s
  else
    let c := s.rd (rPgPartCtl p)
    let d : DmaOut :=
      { part := p, chip := fld c 3 10, win := fld c 13 6, off := 256 * s.memberNo p, bytes := (s.pgOf p).record, poison := false,
        core := 0xFFFF, id := 0, last := true }
    { s with tether := { s.tether with dmaOut := s.tether.dmaOut ++ [d] } }

/-- DONE after a change of the open orders, with the record where it moved. -/
def State.settleDone (s : State) (p : Nat) : State :=
  let q := s.pgOf p
  let d := (q.orders.map (·.seq)).foldl min q.next
  if d = q.doneN then s else (s.setPg p { q with doneN := d }).sendRecord p

/-- An order whose operations have completed leaves the open orders (14 R411, R412). A partition that follows an anchor takes its
page as resident from here on; the anchor's books wait for every device (log entry 48). -/
def State.finishOrder (s : State) (p : Nat) (o : Order) : State :=
  let q := s.pgOf p
  let q1 := { q with orders := q.orders.filter fun x => decide (x.seq ≠ o.seq) }
  let q2 := if s.isAnchor p then q1 else q1.updPage o.page fun y => { y with res := .resident, dirty := false, order := false }
  (s.setPg p q2).settleDone p

/-- An order of a partition. -/
def PgPart.orderOf (q : PgPart) (seq : Nat) : Option Order := q.orders.find? fun o => decide (o.seq = seq)

/-- The books with an order changed. -/
def PgPart.updOrder (q : PgPart) (seq : Nat) (f : Order → Order) : PgPart :=
  { q with orders := q.orders.map fun x => if x.seq = seq then f x else x }

/-- The member stops at its first failed order, where it has one and does not stand stopped (14 R413; log entry 39). -/
def PgPart.stopAt (q : PgPart) : PgPart :=
  match q.orders.find? fun o => decide (o.st = .failed) with
  | some o => if q.stopped then q else { q with stopped := true, failSeq := o.seq }
  | none => q

/-- A partition's order fails, and the member stops (14 R413). An order of the partition's books before they were bound again is none
of its orders. -/
def State.failOrder (s : State) (p seq : Nat) (poison : Bool) : State :=
  let q := s.pgOf p
  if (q.orderOf seq).isNone then s
  else
    let q1 := (q.updOrder seq fun o => { o with st := .failed }).stopAt
    let s1 := (s.setBit rRlStatus (if poison then 1 else 2)).setPg p q1
    if q.stopped then s1 else s1.sendRecord p

/-- An order starts (14 R411, R396): a reel-out reads every share and writes it to the store, waiting while one lies in a region
that is stopped (11 R326); a reel-in reads the store. On the anchor the page's token block goes with it. A member that has stopped
starts none that moves data (R413). -/
def State.startOrder (s : State) (p : Nat) (o : Order) : State :=
  if !o.move then s.finishOrder p o
  else if (s.pgOf p).stopped then s.setPg p ((s.pgOf p).updOrder o.seq fun x => { x with st := .waiting })
  else
    let k := s.orderQp p o.page
    let n := s.pageSize p
    let key := s.rd (rRlPartRkey p)
    let va := s.storeVa p + BitVec.ofNat 64 (o.page * n)
    let tva := s.storeVa p + BitVec.ofNat 64 (s.pgPool p * n + o.page * 128)
    let block := if s.isAnchor p then [(s.viewCore8 p, s.tokenAddr p o.frame 0, 128)] else []
    let s1 := s.setPg p ((s.pgOf p).updOrder o.seq fun x => { x with openOps := 1 + block.length, st := .running })
    if s.qpState k ≠ 1 then s1.failOrder p o.seq false
    else if o.out then
      let parts := (s.frameParts p o.frame).map fun x => (x.1, x.2, s.share p)
      match (parts ++ block).find? fun x => s.stopped x.1 with
      | some x => { s1 with stalled := s1.stalled ++ [⟨originHw, none, .reelOut p o.seq x.1, true⟩] }
      | none =>
        let r := s1.readParts (rlEp k) p parts
        let b := r.2.2.readParts (rlEp k) p block
        if r.2.1 || b.2.1 then b.2.2.failOrder p o.seq true
        else
          let s3 := b.2.2.postReq k ⟨0, ceilDiv n 4096, .writeFirst, r.1, va, n, p, o.seq, 0, key⟩
          if block.isEmpty then s3 else s3.postReq k ⟨0, 1, .writeFirst, b.1, tva, 128, p, o.seq, 0, key⟩
    else
      let s3 := s1.postReq k ⟨0, ceilDiv n 4096, .readReq, [], va, n, p, o.seq, 0, key⟩
      if block.isEmpty then s3 else s3.postReq k ⟨0, 1, .readReq, [], tva, 128, p, o.seq, 0, key⟩

/-- The start of a reel-out order that has waited for a region (11 R326). -/
def State.reelAgain (s : State) (p seq : Nat) : State :=
  match (s.pgOf p).orderOf seq with
  | some o => if o.st = .running then s.startOrder p o else s
  | none => s

/-- The orders of a partition that wait start, in order (14 R411). -/
def State.startOrders (s : State) (p : Nat) : State :=
  ((s.pgOf p).orders.filter fun o => decide (o.st = .waiting)).foldl (fun t o => t.startOrder p o) s

/-- One RDMA operation of an order has completed. -/
def State.closeOp (s : State) (p seq : Nat) : State :=
  s.setPg p ((s.pgOf p).updOrder seq fun x => { x with openOps := x.openOps - 1 })

/-- A queue pair enters ERROR: its requests are gone, every order using it fails (15 R426). -/
def State.qpError (s : State) (k : Nat) : State :=
  let reqs := (s.qp k).reqs
  let s1 := (s.setQp k { s.qp k with reqs := [], tries := 0 }).wrF (rIoQpCtl k) 0 2 2
  reqs.foldl (fun t r => t.failOrder r.part r.order false) s1

/-- A resend from a PSN, or ERROR after RETRY resends without progress (15 R426). -/
def State.retryFrom (s : State) (k psn : Nat) : State :=
  let q := s.qp k
  if fld (s.rd (rIoQpCtl k)) 9 3 ≤ q.tries then s.qpError k
  else (s.setQp k { q with tries := q.tries + 1 }).resendFrom k psn

/-- Requests now on the wire that were not before are sent. -/
def State.sendMore (s : State) (k before : Nat) : State :=
  let q := s.qp k
  ((q.reqs.take (onWire (s.ordOf k) q.reqs)).drop before).foldl (fun t r => t.sendReq k r 0) s

/-- A write of which packets up to a PSN have been acknowledged; none where that is nothing new (15 R426). -/
def RoceReq.advanced (r : RoceReq) (psn : Nat) : Option RoceReq :=
  let n := psnFrom r.psn psn + 1
  if r.op ≠ .readReq ∧ n < r.span ∧ r.off < 4096 * n then some { r with off := 4096 * n } else none

/-- The writes at the head of a queue pair up to a PSN are acknowledged, the last of them perhaps in part (15 R426). -/
def State.ackReqs (s : State) (k psn : Nat) : State :=
  let q := s.qp k
  let gone := q.reqs.takeWhile fun r => decide (r.op ≠ .readReq) && decide (psnFrom (r.psn + r.span - 1) psn < 2 ^ 23)
  let wire := onWire (s.ordOf k) q.reqs
  let rest := q.reqs.drop gone.length
  match rest.head?.bind fun r => r.advanced psn with
  | some r => (gone.foldl (fun t r => t.closeOp r.part r.order) (s.setQp k { q with reqs := r :: rest.drop 1, tries := 0 })).sendMore k
      (wire - gone.length)
  | none =>
    if gone.isEmpty then s
    else
      (gone.foldl (fun t r => t.closeOp r.part r.order) (s.setQp k { q with reqs := rest, tries := 0 })).sendMore k (wire - gone.length)

/-- A received packet as far as its queue pair (15 R422, R425, R427): counted; discarded and counted where its ICRC fails; a CNP is
sent where CE is set, at most once in 50 µs; a queue pair that is not in RTS takes nothing. -/
def State.roceIn (s : State) (p : RocePkt) : State × Bool :=
  let f := s.frameIn p.ep p.vlan
  let s1 := f.1
  if !f.2 then (s1, false)
  else if !p.icrc then (s1.bump rIoBad, false)
  else if 1024 ≤ p.qp ∨ s1.qpState p.qp ≠ 1 then (s1, false)
  else
    let q := s1.qp p.qp
    let due : Bool := match q.cnpTc with
      | some t => decide (20000 ≤ (s1.tb.tc - t).toNat)
      | none => true
    if p.ce ∧ due then ((s1.setQp p.qp { q with cnpTc := some s1.tb.tc }).sendRoce p.qp 0 .cnp 0 0 0 [], true) else (s1, true)

/-- A member whose stopped order has been dealt with stops at the next one that has failed, or starts the orders that wait; its
record moves (14 R412, R413; log entry 39). -/
def State.goOn (s : State) (p : Nat) : State := ((s.setPg p (s.pgOf p).stopAt).startOrders p).sendRecord p

/-- RETRY (14 R413, R420): the order that stopped the member starts again. -/
def State.rlRetry (s : State) (p : Nat) : State :=
  let q := s.pgOf p
  match q.orderOf q.failSeq with
  | some o =>
    if q.stopped then
      let q1 := q.updOrder o.seq fun x => { x with st := .waiting }
      ((s.setPg p { q1 with stopped := false }).startOrder p o).goOn p
    else s
  | none => s

/-- ABANDON (14 R413, R420): DONE and FAIL_COUNT advance past the order that stopped the member. -/
def State.rlAbandon (s : State) (p : Nat) : State :=
  let q := s.pgOf p
  match q.orderOf q.failSeq with
  | some o =>
    if q.stopped then
      let q1 := { q with stopped := false, failCnt := q.failCnt + 1, orders := q.orders.filter (fun x => decide (x.seq ≠ o.seq))
                         aband := if s.isAnchor p then q.aband ++ [o.seq] else q.aband }
      let q2 := if s.isAnchor p then q1 else q1.updPage o.page fun y =>
        if o.out then { y with res := .resident, dirty := true, order := false } else { y with res := .lost, order := false }
      let q3 := { q2 with doneN := (q2.orders.map (·.seq)).foldl min q2.next }
      (s.setPg p q3).goOn p
    else s
  | none => s

/-- RETRY and ABANDON take effect at a boundary, in the order in which they were written (14 R419, R420). -/
def State.rlControls (s : State) : State :=
  (List.range 16).foldl (fun t p =>
    let w := (t.pgOf p).ctl
    w.foldl (fun u a => if a then u.rlAbandon p else u.rlRetry p) (t.setPg p { t.pgOf p with ctl := [] })) s

/-- The members' records as the anchor reads them at the status cut (14 R412, R413): from its window of records, a poisoned or
malformed one ignored. A record whose FAIL_COUNT has advanced names an abandoned order (log entry 49). -/
def State.readRecords (s : State) (p : Nat) : State :=
  let c := s.rd (rPgPartCtl p)
  let w := Sparse.get (fun _ => ((0 : Word), (0 : Word), (0 : Word))) s.tether.rwin (fld c 13 6)
  let core := fld w.1 5 8
  let base := fld w.2.1 8 17 * 256
  let me := s.memberNo p
  let s1 := (List.range (s.part p).members.length).foldl (fun t i =>
    if i = me then t
    else
      let q := t.pgOf p
      let a := base + 256 * i
      let r := t.pgRead p core a 32
      let bs := r.1
      let poisoned := !r.2.1.isEmpty
      let u := r.2.2
      if t.stopped core then t
      else if poisoned || (bs.drop 13).any (fun b => decide (b ≠ 0)) || decide (1 < leAt bs 12 1) || decide (q.next < leAt bs 0 4) then
        u.setBit rPgStatus 5
      else
        let old := (q.acks.find? fun r => decide (r.member = i)).getD ⟨i, 0, 0, 0, false⟩
        let new : AckRec := ⟨i, leAt bs 0 4, leAt bs 4 4, leAt bs 8 4, decide (leAt bs 12 1 = 1)⟩
        u.setPg p { q with acks := q.acks.filter (fun r => decide (r.member ≠ i)) ++ [new]
                           aband := if old.failCnt < new.failCnt then q.aband ++ [new.failSeq] else q.aband }) s
  let q := s1.pgOf p
  let stop := q.stopped || q.acks.any (·.stopped)
  let seq := if q.stopped then q.failSeq else match q.acks.find? fun r => r.stopped with
    | some r => r.failSeq
    | none => 0
  let s2 := if stop && !q.stop then s1.event 0x8E 6 0xFF p 0xFFFF (BitVec.ofNat 32 seq) else s1
  s2.setPg p { q with stop := stop }

end Sys2Proof.Machine
end

