-- ==== Sys2Proof/Machine/Stream.lean ====
section
/-! DEFINITION. The loader's checks of a stream, over its decoded commands: engines and units present, nesting of loops, labels,
and that it cannot run off its section's end (06 R182, R183, R185; 07 R209). -/

namespace Sys2Proof.Machine

open Sys2Proof

/-- The bodies of a stream's loops: the offset of the `sq.loop`, of the first command of the body, and after the last. -/
def loopBodies (cs : List StreamCmd) : List (Nat × Nat × Nat) :=
  cs.filterMap fun c =>
    match c.op with
    | .loop stop => some (c.off, c.off + c.words, stop)
    | _ => none

/-- Is a number the offset of a command of the stream? -/
def isLabel (cs : List StreamCmd) (n : Nat) : Bool := cs.any fun c => decide (c.off = n)

/-- Lies an offset in a body? -/
def inBody (b : Nat × Nat × Nat) (n : Nat) : Bool := decide (b.2.1 ≤ n) && decide (n < b.2.2)

/-- Does a command break a rule of 06 R182 or R183: a loop whose end is no command's end after its `sq.loop`, or lies beyond that of
a loop around it; a jump that enters or leaves a body; a label outside the stream? -/
def badCmd (cs : List StreamCmd) (c : StreamCmd) : Bool :=
  match c.op with
  | .loop stop => !(cs.any fun d => decide (d.off + d.words = stop ∧ c.off + c.words ≤ d.off)) ||
      (loopBodies cs).any fun b => inBody b c.off && decide (b.2.2 < stop)
  | .jmp t => !isLabel cs t || (loopBodies cs).any fun b => inBody b c.off ≠ inBody b t
  | .call t => !isLabel cs t
  | _ => false

/-- A place of the stream as the loader follows it: an offset, and of the calls that are open the return offset and the offset called,
the last first. -/
structure StreamAt where
  off   : Nat
  stack : List (Nat × Nat)
  deriving DecidableEq, Repr

/-- Is a return at an offset, of a call of another, inside a loop that was opened after the call (06 R182)? A body that does not hold
what was called is entered at its `sq.loop`. -/
def loopOpened (cs : List StreamCmd) (ret called : Nat) : Bool :=
  (loopBodies cs).any fun b => inBody b ret && !inBody b called

/-- Where the stream may go after a command (06 R171, R178, R181 to R183): a loop may be skipped; a call with 8 entries in use, a return
with none and one with a loop opened after its call transfer nothing, and the stream goes on. -/
def nextPlaces (cs : List StreamCmd) (c : StreamCmd) (st : List (Nat × Nat)) : List StreamAt :=
  let next := c.off + c.words
  let on : StreamAt := ⟨next, st⟩
  let go := match c.op with
    | .loop stop => [on, ⟨stop, st⟩]
    | .jmp t => [⟨t, st⟩]
    | .call t => if 8 ≤ st.length then [on] else [⟨t, (next, t) :: st⟩]
    | .ret => match st with
      | [] => [on]
      | f :: r => if loopOpened cs c.off f.2 then [on] else [⟨f.1, r⟩]
    | .fin => []
    | _ => [on]
  if c.pred then on :: go else go

/-- The places that the stream may reach from those given, in at most `fuel` commands. -/
def reachPlaces (cs : List StreamCmd) : Nat → List StreamAt → List StreamAt
  | 0, seen => seen
  | fuel + 1, seen =>
    let new := (seen.flatMap fun a => (cs.filter fun c => decide (c.off = a.off)).flatMap fun c => nextPlaces cs c a.stack).filter
      fun a => !seen.contains a
    if new.isEmpty then seen else reachPlaces cs fuel (seen ++ new.eraseDups)

/-- Can the stream run off its section's end without reaching `sq.end` (06 R182)? With at most 8 calls open a stream of n commands has
fewer than (n + 2)^20 places. -/
def runsOff (cs : List StreamCmd) : Bool :=
  (reachPlaces cs ((cs.length + 2) ^ 20) [⟨0, []⟩]).any fun a => !isLabel cs a.off

/-- IMG_STREAM (07 R209). -/
def badStream (cs : List StreamCmd) : Bool := cs.any (badCmd cs) || runsOff cs

/-- IMG_UNIT (07 R209): a command for an engine that MC_FEAT_CORE.ENGINES does not show, or an `sq.post` whose immediate names no unit
that is present (06 R185). -/
def State.absentUnit (s : State) (cs : List StreamCmd) : Bool :=
  cs.any fun c =>
    match c.op with
    | .engine e => decide (0x1F / 2 ^ engKey e % 2 = 0)
    | .post u => !s.unitPresent u
    | _ => false

end Sys2Proof.Machine
end

