-- ==== Sys2Proof/Machine/LoaderRun.lean ====
section
/-! DEFINITION. The loader: program images and their checks, what a bind assigns and takes back, operations on partitions at
boundaries (07 R202 to R217; 09 R260; 10 R286 to R290; 14 R386). -/

namespace Sys2Proof.Machine

open Sys2Proof

/-! ### Reading an image (07 R202 to R205) -/

/-- A section as the section table gives it. -/
def sectionAt (b : List Byte) (o : Nat) : Section :=
  { kind := leAt b o 2, core := leAt b (o + 2) 2, tier := leAt b (o + 4) 1, addr := leAt b (o + 8) 4, mem := leAt b (o + 12) 4,
    data := (b.drop (leAt b (o + 16) 8)).take (leAt b (o + 24) 4) }

/-- The offsets of the entries of the section table. -/
def sectionOffsets (b : List Byte) : List Nat := (List.range (leAt b 18 2)).map fun i => leAt b 36 4 + 32 * i

/-- An image read from its bytes. -/
def imageOf (b : List Byte) : Image :=
  { repro := decide (leAt b 11 1 = 1), secure := decide (leAt b 12 1 = 0), pageLog2 := leAt b 13 1, x0 := leAt b 14 1,
    y0 := leAt b 15 1, w := leAt b 16 1, h := leAt b 17 1, power := leAt b 20 2, flags := leAt b 22 2, near4k := leAt b 24 2,
    t04k := leAt b 26 2, t14k := leAt b 28 2, groupSize := leAt b 30 2, member := leAt b 32 2, digest := (b.drop 48).take 32,
    sections := (sectionOffsets b).map (sectionAt b) }

/-- The cores of an image's rectangle. -/
def Image.cores (m : Image) : List Nat :=
  (List.range m.h).flatMap fun j => (List.range m.w).map fun i => (m.y0 + j) * 16 + m.x0 + i

/-- The range of an image in a tier, in 4 KiB units (07 R203). -/
def Image.units (m : Image) (t : Nat) : Nat := if t = 0 then m.near4k else if t = 1 then m.t04k else m.t14k

/-- Does the image carry no core: a transit image (10 R290)? -/
def Image.transit (m : Image) : Bool := decide (m.w = 0 ∧ m.h = 0)

/-- The sections of a kind. -/
def Image.ofKind (m : Image) (k : Nat) : List Section := m.sections.filter fun x => decide (x.kind = k)

/-- The sections of a kind that are a core's. -/
def Image.ofCore (m : Image) (k c : Nat) : List Section :=
  (m.ofKind k).filter fun x => decide (x.core = c ∨ x.core = 0xFFFF)

/-- Is the section placed in slices: kinds 1 to 6 (07 R205)? -/
def Section.placed (x : Section) : Bool := decide (1 ≤ x.kind ∧ x.kind ≤ 6)

/-- A section table entry that is in form (07 R204, R205): in an image of `b` its contents lie after the section table and before
the signature (R202). -/
def sectionForm (b : List Byte) (m : Image) (o : Nat) : Bool :=
  let x := sectionAt b o
  let n := leAt b (o + 24) 4
  let off := leAt b (o + 16) 8
  let lo := tierStart x.tier
  decide (1 ≤ x.kind ∧ x.kind ≤ 9) && decide (leAt b (o + 5) 3 = 0 ∧ leAt b (o + 28) 4 = 0)
    && decide (off % 8 = 0 ∧ leAt b 36 4 + 32 * leAt b 18 2 ≤ off ∧ off + n + 64 ≤ b.length)
    && decide (x.addr % 256 = 0 ∧ n ≤ x.mem)
    && (decide (x.core = 0xFFFF) || m.cores.contains x.core)
    && (if x.placed then
          decide (x.tier < 3 ∧ lo ≤ x.addr ∧ x.addr + x.mem ≤ lo + m.units x.tier * 4096)
        else decide (x.tier = 0xFF))
    && (decide (x.kind ≠ 1) || decide (x.core ≠ 0xFFFF)) && (decide (x.kind ≠ 3) || decide (n = 0))
    && (decide (x.kind ≠ 5) || decide (n = 16)) && (decide (x.kind ≠ 6) || decide (n % 8 = 0))
    && (decide (x.kind ≠ 8) || decide (n % 16 = 0)) && (decide (x.kind ≠ 9) || decide (n % 2 = 0))

/-- Do two sections lie apart on every core? -/
def Section.apart (x y : Section) : Bool :=
  !(x.placed && y.placed) || decide (x.core ≠ y.core ∧ x.core ≠ 0xFFFF ∧ y.core ≠ 0xFFFF)
    || decide (x.addr + x.mem ≤ y.addr ∨ y.addr + y.mem ≤ x.addr)

/-- Are the sections of a list pairwise apart? -/
def allApart : List Section → Bool
  | [] => true
  | x :: r => r.all (fun y => x.apart y) && allApart r

/-- The entries of a PATCH section, 16 bytes each (07 R206). -/
def Image.patches (m : Image) : List (List Byte) :=
  (m.ofKind 8).flatMap fun x => (List.range (x.data.length / 16)).map fun i => (x.data.drop (16 * i)).take 16

/-- What a transit image has in place of the limits of R203 and R205 (10 R290): no resources, one TETHER section, no CONSUME. -/
def transitForm (m : Image) : Bool :=
  decide (m.power = 0 ∧ m.flags = 0 ∧ m.near4k = 0 ∧ m.t04k = 0 ∧ m.t14k = 0)
    && decide (m.sections.length = 1) && decide ((m.ofKind 7).length = 1)

/-- The limits of R203 and the counts of R205 for an image of a partition. -/
def partForm (m : Image) : Bool :=
  decide (12 ≤ m.pageLog2 ∧ m.pageLog2 ≤ 18 ∧ m.flags ≤ 8192 ∧ 1 ≤ m.groupSize ∧ m.groupSize ≤ 1024 ∧ m.member < m.groupSize)
    && decide (1 ≤ m.power) && m.cores.all (fun c => decide ((m.ofCore 1 c).length = 1))
    && m.cores.all (fun c => decide ((m.ofCore 5 c).length ≤ 1 ∧ (m.ofCore 6 c).length ≤ 1))
    && decide ((m.ofKind 7).length ≤ 1 ∧ (m.ofKind 8).length ≤ 1 ∧ (m.ofKind 9).length ≤ 1)

/-- Is the image in form: IMG_FORMAT otherwise (07 R202 to R206, R209; 10 R290)? Its parts stand in the order of R202; fields whose
values R203 bounds are in form only within the bounds (log entry 54). -/
def imageForm (b : List Byte) : Bool :=
  let m := imageOf b
  decide (192 ≤ b.length ∧ leAt b 0 4 = 0x4D494C50 ∧ leAt b 4 2 = 1 ∧ leAt b 6 2 = 128 ∧ leAt b 34 2 = 0)
    && decide (leNat ((b.drop 96).take 32) = 0) && decide (leAt b 40 8 + 64 = b.length)
    && decide (leAt b 11 1 ≤ 1 ∧ leAt b 12 1 ≤ 1)
    && decide (1 ≤ leAt b 18 2 ∧ leAt b 18 2 ≤ 1024 ∧ leAt b 36 4 % 8 = 0 ∧ 128 ≤ leAt b 36 4
        ∧ leAt b 36 4 + 32 * leAt b 18 2 + 64 ≤ b.length)
    && (sectionOffsets b).all (fun o => sectionForm b m o) && allApart m.sections
    && m.patches.all (fun p => decide (leAt p 9 3 = 0))
    && if m.transit then transitForm m else partForm m

/-! ### Load-time checks (07 R209) -/

/-- Is the image signed by a key enrolled for its world (07 R207; 16 R456)? -/
def State.imageSigned (s : State) (b : List Byte) : Bool :=
  let n := b.length - 64
  let m := imageOf b
  let blank := (b.take 48 ++ List.replicate 32 0 ++ (b.drop 80)).take n
  decide (sm3 blank = m.digest) && s.mc.keys.any fun k =>
    decide (k.id = (b.drop 80).take 16) && (if m.secure then k.secure else k.nonSecure)
      && sm2Verify k.pub (b.take n) (b.drop n)

/-- OUTCOME of the compatibility matrix: 0 TESTED, 1 TOLERATED, 2 REFUSED (16 R458, R476). -/
def State.compat (s : State) : Nat := fld (s.rd rMcStatus) 1 2

/-- The units of 4 KiB of a tier (05 R141). -/
def tierUnits (t : Nat) : Nat := (tierEnd t - tierStart t) / 4096

/-- Where a program's range begins in a tier. -/
def Prog.base (p : Prog) (t : Nat) : Nat := if t = 0 then p.base0 else if t = 1 then p.base1 else p.base2

/-- The lowest start of so many free units of a tier beside the resident programs: 0, or the end of one of them. -/
def freeBase (ps : List Prog) (t n : Nat) : Option Nat :=
  let ok (b : Nat) : Bool := decide (b + n ≤ tierUnits t) &&
    ps.all fun p => decide (p.image.units t = 0) || decide (n = 0) || decide (b + n ≤ p.base t ∨ p.base t + p.image.units t ≤ b)
  let cands := (0 :: ps.map fun p => p.base t + p.image.units t).filter ok
  match cands with
  | [] => none
  | x :: r => some (r.foldl min x)

/-- The bases a program takes in the three tiers. -/
def freeBases (ps : List Prog) (m : Image) : Option (Nat × Nat × Nat) :=
  match freeBase ps 0 m.near4k, freeBase ps 1 m.t04k, freeBase ps 2 m.t14k with
  | some a, some b, some c => some (a, b, c)
  | _, _, _ => none

/-- The slot of the keep bitmap a program takes: the lowest free of 32, of a transit image the lowest free of all (log entry 55). -/
def freeSlot (ps : List Prog) (transit : Bool) : Option Nat :=
  (List.range (if transit then ps.length + 1 else 32)).find? fun i => ps.all fun p => decide (p.slot ≠ i)

/-- Does a keep bitmap keep a program? One in a slot beyond its 32 bits cannot be named as kept, and is released (log entry 55). -/
def keeps (keep : Word) (slot : Nat) : Bool := decide (slot < 32) && bit keep slot

/-! ### Resident routines (06 R184) -/

/-- The identifiers of the RLIB sections. -/
def Image.routineIds (m : Image) : List Nat :=
  (m.ofKind 9).flatMap fun x => (List.range (x.data.length / 2)).map fun i => leAt x.data (2 * i) 2

/-- The lowest program address, a multiple of 256, of the image's ranges where so many bytes lie apart from those taken. -/
def Image.room (m : Image) (taken : List (Nat × Nat)) (n : Nat) : Option Nat :=
  [0, 1, 2].findSome? fun t =>
    let ok (a : Nat) : Bool := decide (tierStart t ≤ a) && decide (a + n ≤ tierStart t + m.units t * 4096)
      && taken.all fun r => decide (a + n ≤ r.1 ∨ r.2 ≤ a)
    match (tierStart t :: taken.map fun r => ceilDiv r.2 256 * 256).filter ok with
    | [] => none
    | x :: r => some (r.foldl min x)

/-- Where the loader places the routines that an image of the secure world names, apart from every section (06 R184; log entry
75). -/
def Image.placeRoutines (m : Image) : Option (List (Nat × Nat)) :=
  let taken := (m.sections.filter Section.placed).map fun x => (x.addr, x.addr + x.mem)
  m.routineIds.foldl (fun acc id =>
    match acc with
    | none => none
    | some l =>
      let n := (Config.routineWords id).length
      (m.room (taken ++ l.map fun r => (r.2, r.2 + (Config.routineWords r.1).length)) n).map fun a => l ++ [(id, a)]) (some [])

/-- The routines of an image: none in the other world, whose SQs may not call them. -/
def Image.routines (m : Image) : Option (List (Nat × Nat)) := if m.secure then m.placeRoutines else some []

/-- A sheet descriptor that the loader refuses (07 R209; 03 R103, R104). -/
def badSheet (m : Image) (rows : Nat) (w : Word) : Bool :=
  bit w 16 && (decide (fld w 0 4 < m.x0 ∨ m.x0 + m.w < fld w 0 4 + fld w 8 4 + 1)
    || decide (fld w 4 4 < m.y0 ∨ m.y0 + m.h < fld w 4 4 + fld w 12 4 + 1) || decide (15 < fld w 8 4 ∨ rows ≤ fld w 12 4))

/-- A patch entry that the loader refuses (07 R206, R209). -/
def badPatch (m : Image) (p : List Byte) : Bool :=
  match m.sections[leAt p 0 2]? with
  | none => true
  | some x =>
    let off := leAt p 4 4
    decide (3 < leAt p 3 1) ||
      (if leAt p 2 1 = 0 then decide (x.kind ≠ 1) || decide (x.data.length < 8 * off + 8)
       else if leAt p 2 1 = 1 then decide (x.kind ≠ 2) || decide (x.mem < off + 4)
       else if leAt p 2 1 = 2 then decide (x.kind ≠ 2) || decide (x.mem < off + 2)
       else true)

/-- The element programs of a core of an image. -/
def Image.eprogs (m : Image) (c : Nat) : List (Nat × EProg) := (m.ofCore 4 c).flatMap fun x => Config.eprogs x.data

/-- The sources that a micro-op reads (04 R116, R119). -/
def UOp.srcs (u : UOp) : List USrc :=
  match u.code with
  | .sel | .fma => [u.a, u.b, u.c]
  | .mov | .fneg | .fabs | .not | .fround _ | .ffloor | .f2i _ | .i2f | .frcp | .frsqrt | .fexp2 | .flog2 | .fexp | .flog
  | .fsqrt | .ftanh | .fsigmoid | .fsin | .fcos => [u.a]
  | _ => [u.a, u.b]

/-- A micro-op that no program of the store holds: it reads an undeclared input, writes an output beyond the count, or has two
immediates (04 R116). -/
def UOp.bad (p : EProg) (u : UOp) : Bool :=
  (u.srcs.any fun x => match x with
    | .i n => decide (p.ins ≤ n.val)
    | _ => false)
  || (match u.dst with
      | .o n => decide (p.outs ≤ n.val)
      | _ => false)
  || (match (u.srcs.filterMap fun x => match x with
        | .imm w => some w
        | _ => none) with
      | w :: r => r.any fun v => decide (v ≠ w)
      | [] => false)

/-- A program that can never reach the store: more than 48 micro-ops, counts out of range, a bad micro-op, an output declared and
not written (04 R116). -/
def EProg.bad (p : EProg) : Bool :=
  decide (48 < p.ops.length ∨ 4 < p.ins ∨ p.outs = 0 ∨ 2 < p.outs) || p.ops.any (UOp.bad p)
    || (List.finRange 2).any fun n => decide (n.val < p.outs) && !(p.ops.any fun u => decide (u.dst = .o n))

/-- Do the element programs of a core exceed the limits of 07 R205, or has one of them a fault of 04 R116? DEDUCED (log entry 54): a
program with such a fault, which R116 never lets into the store, refuses the load with IMG_EPROG, for which R209 names the limits
alone. -/
def badEprogs (ps : List (Nat × EProg)) : Bool :=
  decide (64 < ps.length) || decide (3072 < (ps.map fun p => p.2.ops.length).sum)
    || ps.any (fun p => decide (63 < p.1) || EProg.bad p.2)

/-- Do the values of a model group differ from an image's: mode, page size, group size (01 R24; 07 R202)? DEDUCED (log entry 54): a
group size that differs, for which R209 names no code, is IMG_MODE too. -/
def State.mixes (s : State) (m : Image) (ps : List Nat) : Bool :=
  ps.any fun x => decide ((s.part x).repro ≠ m.repro ∨ (s.part x).pageLog2 ≠ m.pageLog2)
    || match s.boundProg x with
       | some pr => decide (pr.image.groupSize ≠ m.groupSize)
       | none => false

/-- The code of the first failing load-time check of an image for a partition, 0xFFFF the transit images; 0 where it passes
(07 R209). -/
def State.loadCheck (s : State) (part : Nat) (l : Load) : Nat :=
  let b := l.bytes
  let m := imageOf b
  let q := s.part part
  let streams := (m.ofKind 1).map fun x => Config.streamOf x.data
  if l.bad ∨ b.length ≠ l.total ∨ !imageForm b then 0x01
  else if !s.imageSigned b then 0x02
  else if leAt b 8 1 ≠ s.fuses.gen ∨ leAt b 9 1 ≠ s.fuses.stepping ∨ leAt b 10 1 ≠ 3 then 0x03
  else if s.compat = 2 ∨ (s.compat = 1 ∧ m.repro) then 0x04
  else if part = 0xFFFF ∧ !m.transit then 0x05
  else if part ≠ 0xFFFF ∧ (q.st = .free ∨ m.x0 ≠ q.x0 ∨ m.y0 ≠ q.y0 ∨ m.w ≠ q.w ∨ m.h ≠ q.h) then 0x05
  else if (freeBases q.progs m).isNone ∨ (freeSlot q.progs m.transit).isNone ∨ m.routines.isNone then 0x06
  else if streams.any s.absentUnit then 0x07
  else if streams.any badStream then 0x08
  else if m.routineIds.any (fun i => s.mc.rlib.all fun r => decide (r.id ≠ i)) then 0x09
  else if m.cores.any (fun c => badEprogs (m.eprogs c)) then 0x0A
  else if (m.ofKind 5).any (fun x => (wordsOf x.data 4).any (badSheet m s.rows)) then 0x0B
  else if part ≠ 0xFFFF ∧ q.alloc < m.power then 0x0C
  else if part ≠ 0xFFFF ∧ q.isBound ∧ s.mixes m (s.groupParts q.group) then 0x0D
  else if m.patches.any (badPatch m) then 0x0E
  else 0

/-! ### Placing (05 R161, R162; 07 R209) -/

/-- The physical local address of a program address of a resident program. -/
def Prog.phys (p : Prog) (a : Nat) : Nat := a + p.base (tierOf a) * 4096

/-- Bytes written by the loader at a program address of a resident program on a core. -/
def State.loaderPut (s : State) (p : Prog) (c a : Nat) (bs : List Byte) : State := s.writeG (spread (gaddr c (p.phys a)) bs)

/-- The cores a section is placed on. -/
def Image.coresOf (m : Image) (x : Section) : List Nat := if x.core = 0xFFFF then m.cores else [x.core]

/-- A section's contents, padded with zeros to its bytes in the slice. -/
def Section.fill (x : Section) : List Byte := x.data ++ List.replicate (x.mem - x.data.length) 0

/-- The sections of a resident program, and the routines it names, placed in its ranges (06 R184; 07 R209). -/
def State.placeSections (s : State) (p : Prog) : State :=
  let s1 := (p.image.sections.filter Section.placed).foldl
    (fun t x => (p.image.coresOf x).foldl (fun u c => u.loaderPut p c x.addr x.fill) t) s
  p.routines.foldl (fun t r => p.image.cores.foldl (fun u c => u.loaderPut p c r.2 (Config.routineWords r.1)) t) s1

/-- The global address of the staged copy of a section on a core, and its length. -/
def Prog.stagedAt (p : Prog) (c : Nat) (x : Section) : Nat × Nat := (gaddr c (p.phys x.addr), x.data.length)

/-- What the loader copies from the staged section of a core at a bind: the bytes of the slice as they now stand, those of a
poisoned granule free values (05 R150; 07 R205, R211). -/
def State.staged (s : State) (p : Prog) (c : Nat) (x : Section) : List Byte :=
  (s.deliver (p.stagedAt c x).1 (p.stagedAt c x).2).1

/-- The staged sections of a kind of a core, one after another. -/
def State.stagedKind (s : State) (p : Prog) (k c : Nat) : List Byte := (p.image.ofCore k c).flatMap (s.staged p c)

/-- The ranges of a resident program zeroed on every core; from here to the next boundary the loader may be at it, and ZERO_BUSY
reads free (05 R162, R167; 07 R214; log entry 14). -/
def State.zeroProg (s : State) (p : Prog) : State :=
  p.image.cores.foldl (fun t c => ([0, 1, 2].foldl
    (fun u k => u.zeroize c (tierStart k + p.base k * 4096) (p.image.units k * 4096)) t).setBit (rSlcStatus c) 6) s

/-- Is the register SLC_STATUS of a core, with its ZERO_BUSY bit stored (05 R167)? -/
def zeroBusyAt (e : Nat × Word) : Bool := inCoreBlock e.1 && decide (blockOff e.1 = 0x6000) && bit e.2 6

/-- Zeroization of the period that ends is complete (05 R162; log entry 14). -/
def State.zeroDone (s : State) : State := (s.regs.filter zeroBusyAt).foldl (fun t e => t.wrF e.1 6 1 0) s

/-- A partition whose fields change. -/
def State.updPart (s : State) (p : Nat) (f : Part → Part) : State := s.setPart p (f (s.part p))

/-- A change of a partition's state, entered in the change log (07 R210; 16 R465). -/
def State.partTo (s : State) (p : Nat) (st : PState) : State :=
  let old := (s.part p).st
  if old = st then s
  else (s.updPart p fun q => { q with st := st }).log originLoader 5 p (BitVec.ofNat 32 p) (BitVec.ofNat 32 old.code)
    (BitVec.ofNat 32 st.code)

/-- A refusal under R209 or R211, entered in the change log (16 R465). -/
def State.loadRefused (s : State) (p code : Nat) : State :=
  s.log originLoader 6 (if p = 0xFFFF then 0xFF else p) (BitVec.ofNat 32 p) 0 (BitVec.ofNat 32 code)

/-! ### What a bind assigns (07 R211) -/

/-- The lowest start, a multiple of 32, of so many free flags (07 R211). -/
def State.freeFlags (s : State) (n : Nat) : Option Nat :=
  ((List.range 256).map (32 * ·)).find? fun b => decide (b + n ≤ 8192) &&
    s.partList.all fun p => !p.2.isBound || decide (p.2.fcount = 0) || decide (n = 0)
      || decide (b + n ≤ p.2.fbase ∨ p.2.fbase + p.2.fcount ≤ b)

/-- The value a patch entry resolves to: a member's chip or partition, window slot ARG of the plan, twelve to a member, or the first
flag (07 R206; log entry 56). DEDUCED: an RWIN byte of 64 or more, which numbers no window, marks a slot that is not assigned (log
entry 56). -/
def resolve (plan : List Member) (fbase : Nat) (sym arg : Nat) : Option Nat :=
  if sym = 0 then (plan[arg]?).map (·.chip)
  else if sym = 1 then (plan[arg]?).map (·.part)
  else if sym = 2 then
    match (plan[arg / 12]?).bind fun m => m.rwin[arg % 12]? with
    | some w => if w < 64 then some w else none
    | none => none
  else some fbase

/-- One patch written into the placed sections (07 R206). An operand of a stream is merged into the granules that hold it, and so these
are checked (05 R148, R149, R152). -/
def State.patchOne (s : State) (p : Prog) (e : List Byte) (v : Nat) : State :=
  match p.image.sections[leAt e 0 2]? with
  | none => s
  | some x =>
    let off := leAt e 4 4
    (p.image.coresOf x).foldl (fun t c =>
      if leAt e 2 1 = 0 then
        let old := (List.range x.data.length).map fun i => t.memGet (gaddr c (p.phys x.addr) + i)
        let new := Config.patchOperand old off (leAt e 8 1) (BitVec.ofNat 32 v)
        let ws := ((Config.operandBytes x.data off (leAt e 8 1)).filter fun i => decide (i < x.data.length)).map fun i =>
          (gaddr c (p.phys x.addr) + i, new.getD i 0)
        t.writeMasked ws (ws.map (·.1))
      else t.loaderPut p c (x.addr + off) (leBytes (if leAt e 2 1 = 1 then 4 else 2) v)) s

/-- The entries of a lattice section: 8 bytes each (07 R205; 09 R258). -/
def latticeEntries (bs : List Byte) : List DWord := (List.range (bs.length / 8)).map fun i => BitVec.ofNat 64 (leAt bs (8 * i) 8)

/-- The lattice entries staged for a core (07 R205, R211). -/
def State.lattice (s : State) (p : Prog) (c : Nat) : List DWord := latticeEntries (s.stagedKind p 6 c)

/-- The tether runs of an image. -/
def Image.runs (m : Image) : List (Nat × Bool × List DWord) := (m.ofKind 7).flatMap fun x => Config.tetherRuns x.data

/-- Has a table a non-zero RUN after an entry whose RUN is 0? -/
def runAfterEnd (l : List DWord) : Bool := (l.drop (runLive l).length).any fun e => decide (runLen e ≠ 0)

/-- A lattice table that is not in form (09 R260). -/
def badLattice (l : List DWord) : Bool :=
  decide (2048 < l.length) || runAfterEnd l || l.any fun e =>
    (List.range 5).any (fun o => decide (5 < latSrc e o)) || decide (latSrc e 4 = 5)
      || decide (fld64 e 31 1 ≠ 0 ∨ fld64 e 38 2 ≠ 0 ∨ fld64 e 46 18 ≠ 0)

/-- Does an entry of a lattice table use a link port: as an output, or as a source (09 R258, R260)? `d`: 0 N, 1 E, 2 S, 3 W. -/
def usesPort (l : List DWord) (d : Nat) : Bool :=
  l.any fun e => decide (latSrc e d ≠ 0) || (List.range 5).any fun o => decide (latSrc e o = d + 1)

/-- A tether table that is not in form (10 R286, R289; for a transit image R290). -/
def badRuns (transit : Bool) (r : Nat × Bool × List DWord) : Bool :=
  decide (7 < r.1) || decide (4096 < r.2.2.length) || runAfterEnd r.2.2 || r.2.2.any fun e =>
    decide (4 < runClass e) || decide (fld64 e 31 1 ≠ 0 ∨ fld64 e 46 2 ≠ 0 ∨ fld64 e 61 3 ≠ 0)
      || (if r.2.1 then decide (fld64 e 41 5 ≠ 0 ∨ fld64 e 48 3 ≠ 0) || (runBit e && decide (runFrom e = r.1))
          else decide (fld64 e 38 3 ≠ 0))
      || (transit && decide (runClass e ≠ 0) &&
          (if r.2.1 then !runBit e else runBit e || decide (runMask e = 0)))

/-- Slots of a table with the entry in effect, idle ones left out, from slot `k` on (10 R286). -/
def slotsFrom : Nat → List DWord → List (Nat × DWord)
  | _, [] => []
  | k, e :: r =>
    if runLen e = 0 then []
    else (if runClass e = 0 then [] else (List.range (runLen e)).map fun i => (k + i, e)) ++ slotsFrom (k + runLen e) r

/-- The slots of the status rounds (10 R294). -/
def State.statusSlots (s : State) : List Nat :=
  (List.range s.rounds).flatMap fun r =>
    let k := (s.guardAt + 8 + r * s.roundGap) / 2
    [k, k + 1]

/-- Does a list of runs hold, in a slot of a port and direction, an entry that passes a test? -/
def runHas (rs : List (Nat × Bool × List DWord)) (port : Nat) (dep : Bool) (k : Nat) (f : DWord → Bool) : Bool :=
  rs.any fun r => decide (r.1 = port) && decide (r.2.1 = dep) &&
    match runAt r.2.2 k with
    | some e => decide (runClass e ≠ 0) && f e
    | none => false

/-- A slot of a run that the bind refuses with BIND_TETHER (10 R287 to R289): owned, a status slot, in the guard band, without its
other half of a forward, toward or from a device outside the group. -/
def State.badSlot (s : State) (rs : List (Nat × Bool × List DWord)) (plan : List Member) (r : Nat × Bool × List DWord)
    (x : Nat × DWord) : Bool :=
  let k := x.1
  let e := x.2
  let inGroup := plan.any fun m => decide (m.chip = runPeer e)
  (s.slot r.1 r.2.1 k).isSome || s.statusSlots.contains k
    || (if r.2.1 then
          decide (s.guardAt ≤ 2 * k)
            || (runBit e && !(decide (s.dNom (runFrom e) / 2 + 8 ≤ k) &&
                runHas rs (runFrom e) false (k - (s.dNom (runFrom e) / 2 + 8))
                  fun a => decide (runClass a = runClass e) && decide (runMask a / 2 ^ r.1 % 2 = 1)))
            || (!runBit e && decide (runClass e ≠ 4) && !inGroup)
        else
          !inGroup || (List.range 8).any fun q => decide (runMask e / 2 ^ q % 2 = 1) &&
            !runHas rs q true (k + s.dNom r.1 / 2 + 8)
              fun a => runBit a && decide (runFrom a = r.1) && decide (runClass a = runClass e))

/-- Would a port's table, with the runs of an image, have more than its 4,096 entries (10 R286; log entry 80)? -/
def State.overfull (s : State) (rs : List (Nat × Bool × List DWord)) : Bool :=
  rs.any fun r => decide (4096 < (tableOf (((s.tether.runs.filter fun x => decide (x.port = r.1) && decide (x.dep = r.2.1)).map
    (·.entries)) ++ (rs.filter fun x => decide (x.1 = r.1) && decide (x.2.1 = r.2.1)).map (·.2.2))).length)

/-- Do the tables of a program name a leg: 0 to 15 the N ports of row 0, 16 to 31 the S ports of the last row (09 R261)? -/
def State.namesLeg (s : State) (p : Prog) (leg : Nat) : Bool :=
  if leg < 16 then p.image.cores.contains leg && usesPort (s.lattice p leg) 0
  else
    let c := (s.rows - 1) * 16 + (leg - 16)
    p.image.cores.contains c && usesPort (s.lattice p c) 2

/-- Does a DATA run of the image claim a leg? -/
def Image.claimsLeg (m : Image) (leg : Nat) : Bool :=
  m.runs.any fun r => (runLive r.2.2).any fun e =>
    decide (runClass e = 1) && decide (runLeg e = leg) && (if r.2.1 then !runBit e else runBit e)

/-- Does the table of a core use a port toward no core of the rectangle (09 R260)? -/
def State.badPorts (s : State) (p : Prog) (c : Nat) : Bool :=
  let m := p.image
  let l := s.lattice p c
  let out (d : Nat) (leg : Nat) (edge : Bool) (n : Nat) : Bool :=
    usesPort l d && (if edge then !m.claimsLeg leg else !m.cores.contains n)
  out 0 (c % 16) (decide (c < 16)) (c - 16) || out 2 (16 + c % 16) (decide (c / 16 + 1 = s.rows)) (c + 16)
    || (usesPort l 1 && (decide (c % 16 = 15) || !m.cores.contains (c + 1)))
    || (usesPort l 3 && (decide (c % 16 = 0) || !m.cores.contains (c - 1)))

/-- Are the page arena and the frames of a partition that serves a paged group within its program's range (14 R386)? -/
def State.badArena (s : State) (p : Nat) (m : Image) : Bool :=
  let a := s.rd (rPgPartArena p)
  let r := s.rd (rPgPartArect p)
  let t := fld a 0 2
  let aw := fld r 8 3
  let ah := fld r 12 3
  let sh := fld a 15 5
  let base := fld a 2 13 * 4096
  bit (s.rd (rPgPartCtl p)) 0 &&
    (decide (fld r 0 4 < m.x0 ∨ m.x0 + m.w < fld r 0 4 + 2 ^ aw ∨ fld r 4 4 < m.y0 ∨ m.y0 + m.h < fld r 4 4 + 2 ^ ah)
      || decide (sh + aw + ah ≠ m.pageLog2 ∨ sh < 8) || decide (t = 3)
      || decide (base < tierStart t ∨ tierStart t + m.units t * 4096 ≤ base
          ∨ tierStart t + m.units t * 4096 < base + s.pgFrames p * 2 ^ sh))

/-- Do the flags that the batch table and the view name lie outside the image's flags (07 R211)? DEDUCED (log entry 54): of a batch
table whose BT_CTL.EN is 0, and of a partition whose PG EN is 0, no flag is set, and none is looked at. -/
def State.badUnitFlags (s : State) (p : Nat) (m : Image) : Bool :=
  (bit (s.rd (rRtPartBtCtl p)) 0 && decide (m.flags ≤ fld (s.rd (rRtPartBtCtl p)) 9 13))
    || (bit (s.rd (rPgPartCtl p)) 0 && decide (m.flags ≤ fld (s.rd (rPgPartView p)) 8 13))

/-- The code of the first row of R211 at which a bind fails; 0 where none does (07 R206, R211; 09 R260; 10 R289; 14 R386). -/
def State.bindCheck (s : State) (p : Nat) (pr : Prog) (b : BindBody) : Nat :=
  let m := pr.image
  let mates := (s.groupParts b.group).filter fun x => decide (x ≠ p)
  let fb := s.freeFlags m.flags
  if s.mixes m mates then 0x0D
  else if s.badArena p m then 0x06
  else if fb.isNone ∨ s.badUnitFlags p m then 0x10
  else if m.patches.any fun e => (resolve b.members (fb.getD 0) (leAt e 3 1) (leAt e 12 4)).isNone then 0x14
  else if m.cores.any fun c => badLattice (s.lattice pr c) then 0x01
  else if m.cores.any (s.badPorts pr) then 0x11
  else if m.runs.any (badRuns false) then 0x01
  else if s.overfull m.runs ∨ m.runs.any fun r => (slotsFrom 0 r.2.2).any fun x => s.badSlot m.runs b.members r x
      || (decide (runClass x.2 = 1) && (if r.2.1 then !runBit x.2 else runBit x.2) && !s.namesLeg pr (runLeg x.2)) then 0x12
  else if (s.part p).alloc < m.power then 0x0C
  else 0

/-- The runs of an image installed for an owner (07 R211; 10 R288). -/
def State.installRuns (s : State) (owner : Nat) (m : Image) : State :=
  { s with tether := { s.tether with runs := s.tether.runs ++ m.runs.map fun r => ⟨owner, r.1, r.2.1, r.2.2⟩ } }

/-- The runs of an owner removed. -/
def State.removeRuns (s : State) (owner : Nat) : State :=
  { s with tether := { s.tether with runs := s.tether.runs.filter fun r => decide (r.owner ≠ owner) } }

/-- The address registers of a core for a bound program: relocation, region descriptors 0 to 2, the others cleared (05 R154, R155;
07 R211; log entry 57). -/
def State.bindSlice (s : State) (pr : Prog) (secure : Bool) (c : Nat) : State :=
  let reloc := [0, 1, 2].foldl (fun (t : State) k =>
    t.wr (rSlcReloc c k) (BitVec.ofNat 32 (pr.base k + pr.image.units k * 65536))) s
  (List.range 32).foldl (fun (t : State) k =>
    let n := pr.image.units k
    let lo := tierStart k / 4096 + pr.base k
    t.wr (rSlcRegion c k) (if k < 3 ∧ n ≠ 0 then
      BitVec.ofNat 32 (lo + (lo + n - 1) * 2 ^ 13 + bn (!secure) * 2 ^ 26 + 2 ^ 27) else 0)) reloc

/-- A core of a bound program (04 R116, R138; 07 R211): its stream's entry; its element programs, its switch table and its sheet
descriptors, copied from their staged sections, where a program with a fault of 04 R116 never reaches the store; VE_ROW_COUNT is
zero. -/
def State.bindCore (s : State) (p : Prog) (c : Nat) : State :=
  let m := p.image
  let entry := match m.ofCore 1 c with
    | x :: _ => x.addr
    | [] => 0
  let read := (m.ofCore 4 c ++ m.ofCore 5 c ++ m.ofCore 6 c).map (p.stagedAt c)
  let progs := ((m.ofCore 4 c).flatMap fun x => Config.eprogs (s.staged p c x)).filter fun e => decide (e.1 < 64) && !EProg.bad e.2
  let words := match m.ofCore 5 c with
    | x :: _ => wordsOf (s.staged p c x) 4
    | [] => [0, 0, 0, 0]
  let table := (s.lattice p c).take 2048
  let s1 := (s.checkRows (read.map fun r => (r.1, r.1 + r.2)) false).updCore c fun k =>
    { k with sq := { k.sq with entry := entry },
             ve := { k.ve with progs := progs.foldl (fun l e => Sparse.set (fun _ => none) l e.1 (some e.2)) [], rowCount := 0 },
             lat := { Lat.reset with table := table } }
  ((List.range 4).zip words).foldl (fun (t : State) (w : Nat × Word) => t.wr (rMeSheet c w.1) (w.2 &&& 0x1FFFF))
    { s1 with free := s1.free + (read.map (·.2)).sum }

/-- The level that the loader gives the regions of a partition, those where `at_` holds of the present one (07 R212; 11 R325). -/
def State.setRegions (s : State) (p level : Nat) (at_ : Nat → Bool) : State :=
  (List.range 16).foldl (fun t r => if t.partUses (t.part p) r && at_ (t.level r) then
    ((t.wrF (rPmRegionClk r) 0 2 level).wrF (rPmRegionClk r) 2 2 level).clrBit (rPmRegionClk r) 4 else t) s

/-- The stopped regions of a partition raised to 300 MHz for the loader's work (07 R212). -/
def State.wakeRegions (s : State) (p : Nat) : State := s.setRegions p 2 fun l => decide (l = 3)

/-- The regions of a partition brought to 600 MHz before its program starts (11 R325). -/
def State.raiseRegions (s : State) (p : Nat) : State := s.setRegions p 0 fun _ => true

/-- The flags of a range set to a value of 0 (07 R211). -/
def State.clearFlags (s : State) (base n : Nat) : State :=
  { s with flags := { s.flags with value := s.flags.value.filter fun f => decide (f.1 < base ∨ base + n ≤ f.1) } }

/-- The requests of a partition's reel orders belong to none of its orders any more: their queue pairs go on with them. -/
def State.orphanReqs (s : State) (p : Nat) : State :=
  s.qps.foldl (fun t x => t.setQp x.1 { x.2 with reqs := x.2.reqs.map fun r => if r.part = p then { r with part := 16 } else r }) s

/-- A bind that has passed every row (07 R211): the partition is STARTING. The page books of a group that stays are kept, its reel orders
numbered anew (14 R411), and an anchor takes the books of its group (log entry 58). -/
def State.bindTo (s : State) (p : Nat) (pr : Prog) (b : BindBody) : State :=
  let m := pr.image
  let fb := (s.freeFlags m.flags).getD 0
  let old := s.part p
  let s1 := s.orphanReqs p
  let s1' := (s1.setPg p (if old.group = b.group then (s1.pgOf p).rebind else PgPart.reset)).updPart p fun q =>
    { q with repro := m.repro, pageLog2 := m.pageLog2, group := b.group, fbase := fb, fcount := m.flags, decl := m.power,
             bound := some pr.handle, members := b.members, dkey := b.dkey }
  let s2 := (List.range 16).foldl State.takeBooks
    (if s1'.anchors p then s1' else s1'.setPg p { s1'.pgOf p with group := none })
  let s3 := (s2.clearFlags fb m.flags).wakeRegions p
  let s4 := m.cores.foldl (fun t c => (t.bindSlice pr old.secure c).bindCore pr c) s3
  let s5 := m.patches.foldl (fun t e =>
    t.patchOne pr e ((resolve b.members fb (leAt e 3 1) (leAt e 12 4)).getD 0)) s4
  (s5.installRuns p m).partTo p .starting

/-! ### Unbinding and releasing (07 R213, R214) -/

/-- The resident programs of a partition that a keep bitmap does not keep are released: their ranges are zeroed. -/
def State.releaseProgs (s : State) (p : Nat) (keep : Word) : State :=
  let q := s.part p
  let gone := q.progs.filter fun x => !keeps keep x.slot
  (gone.foldl State.zeroProg s).updPart p fun y => { y with progs := y.progs.filter fun x => keeps keep x.slot }

/-- A core of an unbound partition: its switch table is cleared and its sequencer stays stopped. -/
def State.unbindCore (s : State) (c : Nat) : State :=
  s.updCore c fun k => { k with lat := Lat.reset, sq := { k.sq with run := false } }

/-- The unbind half of an operation (07 R213, R214): runs leave, flags return, the declaration stops counting, released programs are
zeroed. What state the partition goes to is the operation's. -/
def State.unbindPart (s : State) (p : Nat) (keep : Word) : State :=
  let q := s.part p
  let s1 := (q.cores.foldl State.unbindCore (if q.isBound then s.dropUncommitted q.group else s)).removeRuns p
  let s2 := s1.clearFlags q.fbase q.fcount
  let s3 := s2.updPart p fun y => { y with fbase := 0, fcount := 0, decl := 0, bound := none, members := [] }
  s3.releaseProgs p keep

/-! ### Operations at boundaries (07 R213 to R215; 10 R290) -/

/-- A transit claim's change of state, entered in the change log (10 R290; 16 R465). -/
def State.logTransit (s : State) (old new : PState) : State :=
  s.log originLoader 5 0xFF 0xFFFF (BitVec.ofNat 32 old.code) (BitVec.ofNat 32 new.code)

/-- The code at which the installation of a transit claim fails; 0 where it does not (10 R289, R290). -/
def State.transitCheck (s : State) (pr : Prog) (b : BindBody) : Nat :=
  let m := pr.image
  if 64 ≤ s.transits.length then 0x13
  else if m.runs.any (badRuns true) then 0x01
  else if s.overfull m.runs ∨ m.runs.any fun r => (slotsFrom 0 r.2.2).any fun x => s.badSlot m.runs b.members r x then 0x12
  else 0

/-- The lowest owner number, 16 or more, that no transit claim has. -/
def State.freeOwner (s : State) : Nat :=
  ((List.range 64).map (16 + ·)).find? (fun n => s.transits.all fun t => decide (t.owner ≠ n)) |>.getD 80

/-- The transit claims end, and of their images those not named as kept are released, as at the unbind of a partition (07 R213, R214; 10
R290; log entry 60). -/
def State.unbindTransits (s : State) (keep : Word) : State :=
  let s1 := s.transits.foldl (fun u t => (u.removeRuns t.owner).logTransit t.st .idle) s
  State.releaseProgs { s1 with transits := [] } 0xFFFF keep

/-- The program of a handle of a partition. -/
def State.progOf (s : State) (p handle : Nat) : Option Prog := (s.part p).progs.find? fun x => decide (x.handle = handle)

/-- What becomes of an operation at a boundary: kept, or complete with a status and a code. -/
inductive OpEnd where
  | wait (o : PartOp)
  | done (status code : Nat)
  deriving DecidableEq, Repr

/-- The bind half of an operation at B1: STARTING, or refused with every assignment undone (07 R211, R213). -/
def State.bindHalf (s : State) (o : PartOp) (b : BindBody) : State × OpEnd :=
  let due := s.tb.tc + 1 + BitVec.ofNat 64 (Config.bindWork b.handle % 40000)
  match s.progOf o.part b.handle with
  | none => (s.loadRefused o.part 0x13, .done 1 0x13)
  | some pr =>
    if o.part = 0xFFFF then
      let code := s.transitCheck pr b
      if code ≠ 0 then (s.loadRefused o.part code, .done 1 code)
      else
        let n := s.freeOwner
        let s1 := (s.installRuns n pr.image).logTransit .idle .starting
        ({ s1 with transits := s1.transits ++ [Transit.mk n b.group pr.slot .starting] }, .wait { o with passed := true, due := due })
    else
      let code := s.bindCheck o.part pr b
      if code ≠ 0 then (s.loadRefused o.part code, .done 1 code)
      else (s.bindTo o.part pr b, .wait { o with passed := true, due := due })

/-- B1 of an operation (07 R213): its unbind half, then its bind half. The partition is IDLE where nothing is bound after it; a
re-bind goes to STARTING at once. -/
def State.opFirst (s : State) (o : PartOp) : State × OpEnd :=
  let s1 := if o.unbind then (if o.part = 0xFFFF then s.unbindTransits o.keep else s.unbindPart o.part o.keep) else s
  let idle (t : State) : State := if o.unbind && decide (o.part ≠ 0xFFFF) then t.partTo o.part .idle else t
  match o.bind with
  | none => (idle s1, .done 0 0)
  | some b =>
    match s1.bindHalf o b with
    | (s2, .done st code) => (idle s2, .done st code)
    | (s2, .wait o1) => (s2, .wait o1)

/-- An operation at a boundary (07 R213): B1, then B2. A request that arrived at the TC of this boundary belongs to the beat that
starts here, and a partition that has halted meanwhile does not start. -/
def State.opStep (s : State) (o : PartOp) : State × OpEnd :=
  if !o.passed then (if o.tc = s.tb.tc then (s, .wait o) else s.opFirst o)
  else if s.tb.tc.toNat < o.due.toNat then (s, .wait o)
  else if o.part = 0xFFFF then
    let slot := (o.bind.bind fun b => (s.progOf 0xFFFF b.handle).map (·.slot)).getD 32
    let ts := s.transits.map fun t => if t.slot = slot ∧ t.st = .starting then { t with st := .running } else t
    (State.logTransit { s with transits := ts } .starting .running, .done 0 0)
  else if (s.part o.part).st = .starting then ((s.raiseRegions o.part).partTo o.part .running, .done 0 0)
  else (s, .done 1 0x13)

/-- The operations on partitions that are due at a boundary, in the order in which they arrived (07 R213, R215). -/
def State.partSteps (s : State) : List PartOp → State
  | [] => s
  | o :: r =>
    match s.opStep o with
    | (s1, .wait o1) => State.partSteps { s1 with partOps := s1.partOps ++ [o1] } r
    | (s1, .done st code) => (s1.complete o.sess o.tag o.op st code 0 0).partSteps r

/-- Step 6 of a boundary (11 R329). -/
def State.partBoundary (s : State) : State := State.partSteps { s.zeroDone with partOps := [] } s.partOps

/-! ### Halting (06 R195; 10 R304) -/

/-- A partition halts: its program stays bound and does not run. -/
def State.haltPart (s : State) (p : Nat) : State :=
  let st := (s.part p).st
  if st = .running ∨ st = .starting then s.partTo p .halted else s

/-- Every transit claim halts (10 R304). -/
def State.haltTransits (s : State) : State :=
  let s1 := s.transits.foldl (fun t x => if x.st = .halted then t else t.logTransit x.st .halted) s
  { s1 with transits := s1.transits.map fun t => { t with st := .halted } }

end Sys2Proof.Machine
end

