-- ==== Sys2Proof/Machine/RegRun.lean ====
section
/-! DEFINITION. Register access from outside: the worlds, the writes with an effect of their own, the ways an access arrives, and
bulk access to slices, images and flash (11 R325, R326, R336; 13 R364, R383; 14 R413, R416, R419 to R421; 15 R439, R440, R443;
16 R446 to R448, R460, R464, R468; 17 R497). -/

namespace Sys2Proof.Machine

open Sys2Proof

/-! ### Worlds (16 R448) -/

/-- Is the client of the non-secure world, as the last boundary left its record (13 R358)? -/
def State.cliNs (s : State) (c : Nat) : Bool := bit ((Sparse.get (fun _ => Cli.reset.words) s.rt.snapClis c).getD 14 0) 3

/-- Is the flag, by its device number, one of a bound non-secure partition (08 R250)? -/
def State.flagNs (s : State) (f : Nat) : Bool :=
  s.partList.any fun p => p.2.isBound && !p.2.secure && decide (p.2.fbase ≤ f ∧ f < p.2.fbase + p.2.fcount)

/-- Is the register one word of a set of the binder whose WORLD is 1 (14 R421)? -/
def State.setNs (s : State) (a : Nat) : Bool := decide (0x8001000 ≤ a ∧ a < 0x8005000) && bit (s.rd (a - a % 8 + 4)) 11

/-- May a non-secure access read the address (16 R448)? -/
def State.nsReadable (s : State) (a : Nat) : Bool :=
  if inCoreBlock a then s.nsBlock (blockCore a)
  else if a < 0x1000000 then
    decide (0x100 ≤ a ∧ a < 0x180) || decide (0x200 ≤ a ∧ a < 0x300) || decide (0x800 ≤ a ∧ a < 0x1400)
      || (decide (0x10000 ≤ a ∧ a < 0x18000) && s.flagNs ((a - 0x10000) / 4))
  else if a < 0x2000000 then decide (a = rScStatus ∨ a = rScDevid 0 ∨ a = rScDevid 1)
  else if a < 0x3000000 then true
  else if a < 0x4000000 then decide (a = rPmStatus ∨ a = rPmVin ∨ a = rPmIin ∨ a = rPmPin ∨ a = rPmTj ∨ a = rPmCool)
  else if a < 0x5000000 then
    if 0x4100000 ≤ a ∧ a < 0x4200000 then s.cliNs (fld (s.viewRt (a - a % 64) 0) 19 12)
    else decide (0x4200000 ≤ a ∧ a < 0x4240000) && s.cliNs ((a - 0x4200000) / 64)
  else if a < 0x8000000 then false
  else if a < 0x9000000 then s.setNs a
  else if a < 0xA000000 then decide (a = rIoStatus) || decide (0x9000100 ≤ a ∧ a < 0x9000200)
  else if a < 0xB000000 then decide (a = rTetherStatus ∨ a = rTetherFault ∨ a = rTetherLastCommitLo ∨ a = rTetherLastCommitHi)
  else decide (a < 0xC000000)

/-- The unit of an address, as UNIT of a record names it (16 R469). -/
def addrUnit (a : Nat) : Nat := if inCoreBlock a then 0 else a / 0x1000000 + 1

/-- The core an address concerns, for a record. -/
def addrCore (a : Nat) : Nat := if inCoreBlock a then blockCore a else 0xFFFF

/-- A refused access records REG_WORLD and is entered in the change log: kind 4 for a read, 3 for a write (16 R448, R465). -/
def State.regWorld (s : State) (o : Origin) (kind a : Nat) (v : Word) : State :=
  (s.event 0x81 (addrUnit a) 0xFF (s.addrPart a) (addrCore a) (BitVec.ofNat 32 a)).log o kind (s.addrPart a) (BitVec.ofNat 32 a)
    (if kind = 3 then s.regView a else 0) v

/-! ### Reads -/

/-- Is the register a counter of cycles: ME_STALL_CYCLES, SLC_CONFLICTS, SE_WAIT_CYCLES or SE_ORD_HOLDS (03 R90; 05 R166; 08
R249)? -/
def countsCycles (a : Nat) : Bool :=
  inCoreBlock a && decide (blockCore a < 256) && decide (blockOff a = 0x4004 ∨ blockOff a = 0x6010 ∨ blockOff a = 0x7210 ∨ blockOff a = 0x7214)

/-- Is the register ME_STATUS of a core whose ME works, so that a band of it may be stopped (03 R90, R103)? -/
def State.mayStall (s : State) (a : Nat) : Bool :=
  inCoreBlock a && decide (blockCore a < 256) && decide (blockOff a = 0x4000) && (s.core (blockCore a)).busy .me

/-- Has the counter of cycles had anything to count since it was last written (log entry 14)? -/
def State.mayCount (s : State) (a : Nat) : Bool := countsCycles a && (s.core (blockCore a)).counting.contains (blockOff a)

/-- A read of PM_REGIONn_MON of a clocked region: MIN_MARGIN has fallen to the lowest margin that the monitors have sampled, which is
free (11 R320, R337; log entry 14). -/
def State.sampleMon (s : State) (a : Nat) : State :=
  if s.live ∧ (List.range 16).any fun r => decide (a = rPmRegionMon r) && decide (s.level r ≠ 3) then
    { s.wrF a 0 8 (min (fld (s.rd a) 0 8) (Config.leastMargin s.free)) with free := s.free + 1 }
  else s

/-- A read of PM_VIN or PM_IIN: while the device runs the register holds what its sensor measures, which is free (17 R495, R497;
log entry 14). -/
def State.measure (s : State) (a : Nat) : State :=
  if s.live ∧ (a = rPmVin ∨ a = rPmIin) then { s.wrF a 0 16 (Config.meter s.free).toNat with free := s.free + 1 } else s

/-- A read of FEC_CE or FEC_UE of a port with a link: it has advanced by a free number of codewords, saturating, since no command tells
of them (15 R443; log entry 14). -/
def State.codewords (s : State) (a : Nat) : State :=
  if s.live ∧ (List.range 8).any fun ep => decide (a = rIoEpFecCe ep ∨ a = rIoEpFecUe ep) && bit (s.rd (rIoEpState ep)) 0 then
    { s.wr a (satAdd (s.rd a) (Config.codewords s.free)) with free := s.free + 1 }
  else s

/-- Is the register SLC_STATUS of a core on which loader zeroization may be running: from a release of a program to the next
boundary, and during start-up (05 R162, R167; log entry 14)? -/
def State.mayZero (s : State) (a : Nat) : Bool :=
  inCoreBlock a && decide (blockCore a < 256) && decide (blockOff a = 0x6000)
    && (bit (s.rd a) 6 || decide (s.pwr.phase = .starting))

/-- A counter of cycles has been written or read: where the core's engines have nothing to count it stands at that value (log entry
14). -/
def State.counterSet (s : State) (a : Nat) : State :=
  if countsCycles a && !(s.core (blockCore a)).countsNow (blockOff a) then
    s.updCore (blockCore a) fun k => { k with counting := k.counting.filter fun x => decide (x ≠ blockOff a) }
  else s

/-- A counter of cycles advanced to what it reads now: what it held plus a free number, saturating, where it has had something to
count since it was last written or read (log entry 14). -/
def State.countUp (s : State) (a : Nat) : State :=
  if s.mayCount a then
    { (s.wr a (satAdd (s.regView a) (Config.waitCycles s.free))).counterSet a with free := s.free + 1 }
  else s

/-- A read whose value depends on cycles, which are not counted here (log entry 14): STALLED of a working ME is free, and so is ZERO_BUSY where
zeroization may be running. -/
def State.timedRead (s : State) (a : Nat) : Option Word :=
  if s.mayStall a then some (setFld (s.regView a) 5 1 (Config.waitCycles s.free % 2))
  else if s.mayZero a then some (setFld (s.regView a) 6 1 (Config.waitCycles s.free % 2))
  else none

/-- A read of a register (15 R439; 16 R446, R448): the value, the status, the state after it. A read of TB_TC_LO captures the
high half (11 R336), one of SC_RAND draws (16 R477). -/
def State.regRead (s : State) (o : Origin) (a : Nat) : Word × Nat × State :=
  if inCoreBlock a ∧ blockCore a < 256 ∧ !s.coreExists (blockCore a) then (0, 2, s)
  else if !o.secure ∧ !s.nsReadable a then
    ((if 0x8001000 ≤ a ∧ a < 0x8005000 ∧ a % 8 = 0 then 0xFFFF else 0), 1, s.regWorld o 4 a 0)
  else if a = rTbTcLo then (lo32 s.tb.tc, 0, { s with tb := { s.tb with tcHi := hi32 s.tb.tc } })
  else if a = rScRand then (s.draw.1, 0, s.draw.2)
  else
    let t := (((s.sampleMon a).measure a).codewords a).countUp a
    match t.timedRead a with
    | some v => (v, 0, { t with free := t.free + 1 })
    | none => (t.regView a, 0, t)

/-! ### Writes with an effect of their own -/

/-- Writes of the SC (16 R464, R468, R474, R477). -/
def State.writeSc (s : State) (o : Origin) (a : Nat) (v : Word) : State :=
  if a = rScLogTail then
    if (s.rd rScLogHead - v).toNat ≤ 16384 then s.wr a v else s
  else if a = rScEvtTail then
    if (s.rd rScEvtHead - v).toNat ≤ 4096 then s.wr a v else s
  else if a = rScJtag ∧ bit (s.rd a) 1 then s.refuseWrite o a v
  else if rScUcal 0 ≤ a ∧ a < rScUcal 64 ∧ a % 4 = 0 then
    let p := fld v 0 16
    let off := (v.extractLsb' 16 16).toInt
    let known := decide (p = 0 ∨ (0x100 ≤ p ∧ p < 0x120) ∨ (0x200 ≤ p ∧ p < 0x210) ∨ (0x300 ≤ p ∧ p < 0x320)
      ∨ (0x400 ≤ p ∧ p < 0x408) ∨ p = 0x500)
    let fits := decide (p = 0) || decide (off.natAbs ≤ s.fuses.bounds.getD (p / 256 - 1) 0)
    let old := (s.rd a) >>> 16
    let s1 := if known && fits then s.wr a v else s.setBit rScStatus 6
    s1.log o 8 0xFF (BitVec.ofNat 32 p) old (v >>> 16)
  else s.writeTyped o a v

/-- The source that the loop locks to: the parent port, where SRC says so and a join has given the device one, else REFCLK (11 R312). -/
def State.chooseSource (s : State) : State :=
  let j := s.tether.join
  { s with tb := { s.tb with srcPort := bit (s.rd rTbCtl) 0 && !j.isRoot && j.parent.isSome } }

/-- Writes of the TB: five registers stand still while the device is joined (11 R336); TB_CTL chooses the source (R312). -/
def State.writeTb (s : State) (o : Origin) (a : Nat) (v : Word) : State :=
  if s.beat.joined ∧ (a = rTbCtl ∨ a = rTbTsyncValLo ∨ a = rTbTsyncValHi ∨ a = rTbBeatLen ∨ a = rTbGuard) then s.refuseWrite o a v
  else if a = rTbCtl then (s.writeTyped o a v).chooseSource
  else s.writeTyped o a v

/-- Writes of the PM (11 R325; 17 R497). -/
def State.writePm (s : State) (o : Origin) (a : Nat) (v : Word) : State :=
  if a = rPmThresh then
    let h := fld v 0 8
    let c := fld v 8 8
    if 70 ≤ h ∧ h ≤ 95 ∧ 80 ≤ c ∧ c ≤ 105 ∧ h < c then s.writeTyped o a v else s.refuseWrite o a v
  else if 0x3001000 ≤ a ∧ a < 0x3001200 ∧ a % 0x20 = 0 then s.levelRequest o (Fin.ofNat 16 ((a - 0x3001000) / 0x20)) v
  else s.writeTyped o a v

/-- A write held until the next boundary that opens a work period (13 R364, R383). -/
def State.hold (s : State) (o : Origin) (h : HeldWrite) : State := { s with rt := { s.rt with held := s.rt.held ++ [(o, h)] } }

/-- A write of RT_GROUPn_CTL (13 R383): GROUP and SU_MASK at once while VALID is 0, VALID, NOADMIT and FROZEN held where they
differ from what was last written. -/
def State.writeGroupCtl (s : State) (o : Origin) (n : Nat) (v : Word) : State :=
  let a := rRtGroupCtl n
  let old := s.groupCtl n
  let s1 := if bit (s.rd a) 0 then s else (s.wrF a 1 11 (fld v 1 11)).wrF a 14 4 (fld v 14 4)
  let s2 := if bit v 0 = bit old 0 then s1 else s1.hold o (.valid n (bit v 0))
  let s3 := if bit v 12 = bit old 12 then s2 else s2.hold o (.noadmit n (bit v 12))
  let s4 := if bit v 13 = bit old 13 then s3 else s3.hold o (.frozen n (bit v 13))
  s4.logWrite o a old (s4.groupCtl n)

/-- Writes of the RT (13 R364, R383). -/
def State.writeRt (s : State) (o : Origin) (a : Nat) (v : Word) : State :=
  if a = rRtCredit then (if fld v 12 20 = 0 then s else s.hold o (.credit (fld v 0 12) (fld v 12 20)))
  else if 0x4000100 ≤ a ∧ a < 0x4000500 then
    let n := (a - 0x4000100) / 0x40
    let off := (a - 0x4000100) % 0x40
    if off = 0 then s.writeGroupCtl o n v
    else if bit (s.rd (rRtGroupCtl n)) 0 ∧ (regFind a).isSome then s.refuseWrite o a v
    else s.writeTyped o a v
  else if 0x4000800 ≤ a ∧ a < 0x4000900 then
    if (s.part ((a - 0x4000800) / 16)).isBound ∧ (regFind a).isSome then s.refuseWrite o a v else s.writeTyped o a v
  else if 0x4200000 ≤ a ∧ a < 0x4240000 ∧ a % 4 = 0 then
    let w := (a - 0x4200000) % 64 / 4
    if w = 8 ∨ w = 9 ∨ w = 10 ∨ w = 11 ∨ w = 14 ∨ w = 15 then s.hold o (.client ((a - 0x4200000) / 64) w v)
    else s.refuseWrite o a v
  else s.writeTyped o a v

/-- Writes of the PG and the RL: what is written at bind stands still while the partition is bound; RETRY and ABANDON wait for the next
boundary, and of the two in one write RETRY is meant (14 R413, R419, R420; log entry 39). -/
def State.writePg (s : State) (o : Origin) (a : Nat) (v : Word) : State :=
  if 0x5000100 ≤ a ∧ a < 0x5000900 then
    let n := (a - 0x5000100) / 0x80
    let off := (a - 0x5000100) % 0x80
    if !(s.part n).isBound ∨ off = 0x28 ∨ off = 0x2C ∨ off = 0x30 ∨ off = 0x34 ∨ (regFind a).isNone then s.writeTyped o a v
    else if off = 0 then s.writeTyped o a (setFld (s.rd a) 2 1 (fld v 2 1))
    else s.refuseWrite o a v
  else if 0x6000100 ≤ a ∧ a < 0x6000300 then
    let n := (a - 0x6000100) / 0x20
    let off := (a - 0x6000100) % 0x20
    if off = 0x14 then
      let s1 := s.logWrite o a 0 v
      if bit v 0 ∨ bit v 1 then s1.setPg n { s1.pgOf n with ctl := (s1.pgOf n).ctl ++ [!bit v 0] } else s1
    else if off < 0x10 ∧ (s.part n).isBound ∧ (regFind a).isSome then s.refuseWrite o a v
    else s.writeTyped o a v
  else s.writeTyped o a v

/-- Writes of the XB (14 R416, R421). -/
def State.writeXb (s : State) (o : Origin) (a : Nat) (v : Word) : State :=
  if a = rXbCmd then (s.logWrite o a 0 v).xbCmd (fld v 0 2) (bit v 2) (fld v 3 10) (fld v 13 11)
  else if 0x8001000 ≤ a ∧ a < 0x8005000 ∧ a % 8 = 0 then
    let expert := decide (0x8003000 ≤ a)
    let k := (a - (if 0x8003000 ≤ a then 0x8003000 else 0x8001000)) / 8
    let s1 := s.xbPending expert k (fld v 16 16)
    if s.xbMay expert k (fld v 16 16) then s1.logWrite o a (s.rd a) (s1.rd a) else s1
  else s.writeTyped o a v

/-- A queue pair is reset: nothing of it is in flight, its orders fail, its rate is full (15 R426, R427). -/
def State.qpReset (s : State) (k : Nat) : State :=
  let reqs := (s.qp k).reqs
  let s1 := (s.setQp k Qp.reset).wr (rIoQpRate k) 1000
  reqs.foldl (fun t r => t.failOrder r.part r.order false) s1

/-- Writes of the I/O ring (15 R443). -/
def State.writeIo (s : State) (o : Origin) (a : Nat) (v : Word) : State :=
  if 0x9002000 ≤ a ∧ a < 0x900A000 then
    let k := (a - 0x9002000) / 0x20
    let off := (a - 0x9002000) % 0x20
    if off = 0x14 ∧ s.qpState k ≠ 0 then s.refuseWrite o a v
    else if off = 0x18 then
      if s.qpState k = 2 ∧ fld v 0 2 ≠ 0 then s.refuseWrite o a v
      else
        let s1 := s.writeTyped o a v
        if fld v 0 2 = 0 ∧ s.qpState k ≠ 0 then s1.qpReset k else if fld v 0 2 = 2 ∧ s.qpState k ≠ 2 then s1.qpError k else s1
    else s.writeTyped o a v
  else s.writeTyped o a v

/-- Writes of the tether unit (10 R299, R303, R307, R309). -/
def State.writeTether (s : State) (o : Origin) (a : Nat) (v : Word) : State :=
  if a = rTetherChip ∧ s.beat.joined then s.refuseWrite o a v
  else if a = rTetherJoinCtl then
    let s1 := s.writeTyped o a v
    if bit v 0 then (if s.beat.joined then s1.refuseWrite o a v else s1.joinStart)
    else if bit v 2 then s1.joinReport
    else s1
  else if 0xA000100 ≤ a ∧ a < 0xA000200 ∧ a % 0x20 = 0 then
    let p : Fin 8 := Fin.ofNat 8 ((a - 0xA000100) / 0x20)
    let s1 := s.writeTyped o a (if s.beat.joined then setFld v 14 10 (fld (s.rd a) 14 10) else v)
    if bit v 0 = bit (s.rd a) 0 then s1 else s1.portEnable p (bit v 0)
  else s.writeTyped o a v

/-- Writes of the DG (12 R354). -/
def State.writeDg (s : State) (o : Origin) (a : Nat) (v : Word) : State :=
  if a = rDgLogTail then
    if ((s.rd rDgLogHead).toNat + 2 ^ 17 - v.toNat % 2 ^ 17) % 2 ^ 17 ≤ 65536 then s.wr a (BitVec.ofNat 32 (fld v 0 17)) else s
  else s.writeTyped o a v

/-- Registers of a core block that firmware and loader set up before a bind (03 R94; 05 R154, R155; log entry 63). -/
def setupReg (off : Nat) : Bool := decide (0x4010 ≤ off ∧ off < 0x4020) || decide (0x6018 ≤ off ∧ off < 0x6180)

/-- Writes of a core block by the secure world. -/
def State.writeCoreReg (s : State) (o : Origin) (a : Nat) (v : Word) : State :=
  if setupReg (blockOff a) ∧ (s.corePart (blockCore a)).isBound ∧ (regFind a).isSome then s.refuseWrite o a v
  else (s.writeTyped o a v).counterSet a

/-- A write of a register by the secure world. -/
def State.writeReg (s : State) (o : Origin) (a : Nat) (v : Word) : State :=
  if inCoreBlock a then s.writeCoreReg o a v
  else if a < 0x1000000 then s.writeTyped o a v
  else if a < 0x2000000 then s.writeSc o a v
  else if a < 0x3000000 then s.writeTb o a v
  else if a < 0x4000000 then s.writePm o a v
  else if a < 0x5000000 then s.writeRt o a v
  else if a < 0x7000000 then s.writePg o a v
  else if a < 0x8000000 then s.writeTyped o a v
  else if a < 0x9000000 then s.writeXb o a v
  else if a < 0xA000000 then s.writeIo o a v
  else if a < 0xB000000 then s.writeTether o a v
  else s.writeDg o a v

/-- The word a non-secure write leaves: only RW fields take it (16 R448). -/
def RegRow.afterNs (r : RegRow) (old v : Word) : Word :=
  let rw := BitVec.ofNat 32 (r.mask .rw)
  (old &&& ~~~ rw) ||| (v &&& rw)

/-- A write of a register (15 R439; 16 R446, R448): the status and the state after it. -/
def State.regWrite (s : State) (o : Origin) (a : Nat) (v : Word) : Nat × State :=
  if inCoreBlock a ∧ blockCore a < 256 ∧ !s.coreExists (blockCore a) then (2, s)
  else if o.secure then (0, s.writeReg o a v)
  else
    match regFind a with
    | some r =>
      if inCoreBlock a ∧ s.nsBlock (blockCore a) ∧ r.mask .rw ≠ 0 ∧ !setupReg (blockOff a) then (0, (s.wr a (r.afterNs (s.rd a) v)).counterSet a)
      else (1, s.regWorld o 3 a v)
    | none => (1, s.regWorld o 3 a v)

/-! ### Slices from outside (05 R144, R151, R156, R157; 15 R440) -/

/-- The first check an access from outside fails: 0x40 unmapped, 0x42 world (05 R157); none where it passes. -/
def State.hostCheck (s : State) (o : Origin) (g n : Nat) : Option Nat :=
  let c := g / 0x2000000
  let p := g % 0x2000000
  if !s.coreExists c ∨ 0x1800000 < p + n then some 0x40
  else if !o.secure ∧ (List.range ((p + n - 1) / 4096 - p / 4096 + 1)).any (fun i => s.addrSecure c ((p / 4096 + i) * 4096)) then some 0x42
  else none

/-- The status of a refused access (15 R439). -/
def hostStatus (code : Nat) : Nat := if code = 0x42 then 1 else 2

/-- A read of a slice from outside: the bytes, the status, the state after it; a read of poison has status 3 and fails no beat
(05 R151). -/
def State.hostRead (s : State) (o : Origin) (g n : Nat) : List Byte × Nat × State :=
  match s.hostCheck o g n with
  | some e => (List.replicate n 0, hostStatus e, s.hostRefused o g e)
  | none =>
    let d := s.deliver g n
    (d.1, if (s.marked [(g, g + n)]).any s.granulePoisoned then 3 else 0, d.2.checkRows [(g, g + n)] false)

/-- A write of a slice from outside. -/
def State.hostWrite (s : State) (o : Origin) (g : Nat) (data : List Byte) : State :=
  match s.hostCheck o g data.length with
  | some e => s.hostRefused o g e
  | none => s.writeG (spread g data)

/-! ### How an access arrives and is answered (11 R326; 15 R439, R440; 16 R475) -/

/-- The 16 bytes of an operation in a REGISTER_REPLY (15 R439). -/
def replyOp (op status a : Nat) (v : Word) : List Byte :=
  leBytes 1 op ++ leBytes 1 status ++ leBytes 2 0 ++ leBytes 4 a ++ leBytes 4 v.toNat ++ leBytes 4 0

/-- An operation is answered: in the reply of its message, which leaves with the last of them; as JTAG data; not at all for
firmware. -/
def State.answerReg (s : State) (w : Waiter) (op a status : Nat) (v : Word) : State :=
  match w.uid with
  | some uid =>
    match s.sessOf uid with
    | none => s
    | some i =>
      match s.sessAt i with
      | none => s
      | some x =>
        let body := x.reply ++ replyOp op status a v
        if w.last then (s.setSess i (some { x with reply := [] })).send uid 4 body
        else s.setSess i (some { x with reply := body })
  | none => if w.o.iface = 3 then { s with out := s.out ++ [.value v status] } else s

/-- The body of a BULK message of read data (15 R440). -/
def bulkData (target status handle g : Nat) (tag : Word) (data : List Byte) : List Byte :=
  leBytes 1 target ++ leBytes 1 2 ++ leBytes 1 status ++ leBytes 1 0 ++ leBytes 4 handle ++ leBytes 8 g ++ leBytes 4 data.length
    ++ leBytes 4 tag.toNat ++ data

/-- A JTAG write is entered in the change log with interface 3 (16 R475): where the write itself has not been. -/
def State.jtagLog (s : State) (w : Waiter) (a : Nat) (old new : Word) : State :=
  if w.o.iface = 3 then s.log w.o 2 0xFF (BitVec.ofNat 32 a) old new else s

/-- A JTAG write of a slice is entered word by word, the lowest first (16 R465, R475). -/
def State.jtagLogMem (t s : State) (w : Waiter) (g : Nat) (data : List Byte) : State :=
  (List.range (ceilDiv data.length 4)).foldl (fun u i =>
    u.jtagLog w (g + 4 * i) (BitVec.ofNat 32 (leNat ((List.range 4).map fun j => s.memGet (g + 4 * i + j))))
      (BitVec.ofNat 32 (leNat ((data.drop (4 * i)).take 4)))) t

/-- An access takes place. -/
def State.doAccess (s : State) (w : Waiter) : State :=
  match w.acc with
  | .regRead a =>
    let r := s.regRead w.o a
    r.2.2.answerReg w 1 a r.2.1 r.1
  | .regWrite a v =>
    let r := s.regWrite w.o a v
    let s1 := if r.2.rd rScLogHead = s.rd rScLogHead then r.2.jtagLog w a (s.regView a) v else r.2
    s1.answerReg w 2 a r.1 v
  | .memRead g n tag =>
    let r := s.hostRead w.o g n
    match w.uid with
    | some uid => r.2.2.send uid 5 (bulkData 0 r.2.1 0 g tag r.1)
    | none => { r.2.2 with out := r.2.2.out ++ [.mem r.1 (List.replicate (ceilDiv n 8) (decide (r.2.1 = 3)))] }
  | .memWrite g data =>
    let s1 := s.hostWrite w.o g data
    if s1.rd rScLogHead = s.rd rScLogHead then s1.jtagLogMem s w g data else s1
  | .unitWrite src p c a data poison => s.unitPut (epUnit src) p c a data poison
  | .reelOut p seq _ => s.reelAgain p seq

/-- The core an access concerns, if one does. -/
def Access.core : Access → Option Nat
  | .regRead a => if inCoreBlock a then some (blockCore a) else none
  | .regWrite a _ => if inCoreBlock a then some (blockCore a) else none
  | .memRead g _ _ => some (g / 0x2000000)
  | .memWrite g _ => some (g / 0x2000000)
  | .unitWrite _ _ c _ _ _ => some c
  | .reelOut _ _ c => some c

/-- Must the access wait: for a stopped region, or behind an access of its session that waits (11 R326; 15 R439)? -/
def State.mustWait (s : State) (w : Waiter) : Bool :=
  (match w.acc.core with
    | some c => s.stopped c
    | none => false)
  || (w.uid.isSome && s.stalled.any fun x => decide (x.uid = w.uid))

/-- The endpoint that an access comes from (09 R266; 16 R444, R475): the unit's own; the I/O ring's for the port of the session's
last message; the MC's for firmware and JTAG. -/
def State.srcEp (s : State) (w : Waiter) : Nat :=
  match w.acc, w.uid with
  | .unitWrite src _ _ _ _ _, _ => src
  | _, some uid => 0x110 + (match (s.sessOf uid).bind s.sessAt with
    | some x => x.ep.val
    | none => 0)
  | _, none => 0x10C

/-- An access to a core reaches it through the drift network (09 R266); the start of a reel-out order does so as it reads. -/
def State.byDrift (s : State) (w : Waiter) : State :=
  match w.acc, w.acc.core with
  | .reelOut _ _ _, _ => s
  | _, some c => s.atEndpoint (s.srcEp w) c
  | _, none => s

/-- An access arrives. -/
def State.access (s : State) (w : Waiter) : State :=
  if s.mustWait w then { s with stalled := s.stalled ++ [w] } else (s.byDrift w).doAccess w

/-- The accesses that wait are tried again, in order (11 R326). -/
def State.drainStalled (s : State) : State := s.stalled.foldl State.access { s with stalled := [] }

/-- Is the body of a REGISTER message well formed (15 R439)? -/
def goodRegs (h : PctHdr) : Bool := decide (h.len % 16 = 0 ∧ 16 ≤ h.len ∧ h.len ≤ 1024)

/-- A datagram whose body is not well formed: discarded before it is accepted, and counted (15 R429). -/
def State.badBody (s : State) (h : PctHdr) : State :=
  let f := s.pctIn h
  if f.2 then f.1.bump rIoBad else f.1

/-- What firmware writes: it never sets TETHER_JOIN_CTL.READY where the outcome is REFUSED (16 R458) or calibration has failed (11
R319). -/
def State.fwAccess (s : State) : Access → Access
  | .regWrite a v => .regWrite a (if a = rTetherJoinCtl ∧ (fld (s.rd rMcStatus) 1 2 = 2 ∨ s.tb.calFail) then setFld v 2 1 0 else v)
  | x => x

/-- A register operation arrives in one of its ways (15 R439; 16 R444). -/
def State.viaRun (s : State) (v : Via) (acc : Access) : State :=
  match v with
  | .firmware => if s.live then s.access ⟨originFw, none, s.fwAccess acc, true⟩ else s
  | .more i =>
    match s.sessAt i.val with
    | some x =>
      if x.left = 0 then s
      else (s.setSess i.val (some { x with left := x.left - 1 })).access ⟨x.origin i.val, some x.uid, acc, decide (x.left = 1)⟩
    | none => s
  | .pct h =>
    if !goodRegs h then s.badBody h
    else
      match s.accept h with
      | (s1, none) => s1
      | (s1, some (i, x)) =>
        let n := h.len / 16
        let reply := if x.left = 0 then x.reply else []
        (s1.setSess i (some { x with left := n - 1, reply := reply })).access ⟨x.origin i, some x.uid, acc, decide (n = 1)⟩

/-! ### Bulk messages (15 R440; 16 R460) -/

/-- Is the header of a BULK message well formed, for a body that carries so much data (15 R440)? -/
def goodBulk (h : PctHdr) (b : BulkHdr) (data : Nat) : Bool :=
  decide (b.target ≤ 2 ∧ b.addr % 8 = 0 ∧ 8 ≤ b.bytes ∧ b.bytes ≤ 4096 ∧ b.bytes % 8 = 0 ∧ h.len = 24 + data)

/-- Bytes for an image load (15 R440). -/
def State.bulkImage (s : State) (uid : Nat) (b : BulkHdr) (data : List Byte) : State :=
  { s with loads := s.loads.map fun l =>
      if l.handle = b.handle ∧ l.session = uid then
        if b.addr = l.bytes.length ∧ b.addr + data.length ≤ l.total then { l with bytes := l.bytes ++ data } else { l with bad := true }
      else l }

/-- A read of the image of an open load of the session: the bytes that have come, zero after them; zeros with status 2 where the
session has no such load (15 R440; log entry 64). -/
def State.bulkImageAsk (s : State) (uid : Nat) (b : BulkHdr) : State :=
  let l := s.loads.find? fun l => decide (l.handle = b.handle ∧ l.session = uid)
  let got := match l with
    | some l => (l.bytes.drop b.addr).take b.bytes
    | none => []
  s.send uid 5 (bulkData 1 (if l.isSome then 0 else 2) b.handle b.addr b.tag (got ++ List.replicate (b.bytes - got.length) 0))

/-- The bank that does not run (16 R460). -/
def State.otherBank (s : State) : Nat := 1 - fld (s.rd rMcStatus) 0 1

/-- May an open update of the session write these flash addresses (16 R460)? -/
def State.flashMay (s : State) (uid a n : Nat) : Bool :=
  let within (lo len : Nat) : Bool := decide (lo ≤ a) && decide (a + n ≤ lo + len)
  (match s.mc.upd with
    | some u => decide (u.sess = uid)
    | none => false)
  && (within (bankBase s.otherBank) 0x1800000
      || [0, 1].any (fun k => (decide (s.mc.cfgCopy ≠ some k) && within (cfgBase k) 0x10000)
          || (decide (s.mc.ucalCopy ≠ some k) && within (ucalBase k) 0x10000)))

/-- Flash with bytes written at an address: a sector whose first byte is written is erased first (16 R460). -/
def flashWrite (f : List (Nat × Byte)) (a : Nat) (data : List Byte) : List (Nat × Byte) :=
  let heads := (List.range data.length).filterMap fun i => if (a + i) % 0x10000 = 0 then some (a + i) else none
  flashPut (heads.foldl (fun g x => flashErase g x 0x10000) f) a data

/-- Bytes for flash (16 R460). The first 8 bytes of the descriptor, MAGIC and BANK_SEQ, stay erased until the update is committed
(log entry 62). A forbidden write is dropped and logged, and fails the open update. -/
def State.bulkFlash (s : State) (uid : Nat) (o : Origin) (a : Nat) (data : List Byte) : State :=
  if s.flashMay uid a data.length then
    let f := flashWrite s.flash a data
    { s with flash := flashErase f (bankBase s.otherBank) 8 }
  else
    let upd := s.mc.upd.map fun u => { u with failed := true }
    State.log { s with mc := { s.mc with upd := upd } } o 3 0xFF (BitVec.ofNat 32 a) 0 0

/-- A BULK message that writes (15 R440). -/
def State.bulkIn (s : State) (h : PctHdr) (b : BulkHdr) (data : List Byte) : State :=
  if !goodBulk h b b.bytes ∨ data.length ≠ b.bytes then s.badBody h
  else
    match s.accept h with
    | (s1, none) => s1
    | (s1, some (i, x)) =>
      if b.target = 0 then s1.access ⟨x.origin i, some x.uid, .memWrite b.addr data, false⟩
      else if b.target = 1 then s1.bulkImage x.uid b data
      else if x.secure then s1.bulkFlash x.uid (x.origin i) b.addr data
      else s1.log (x.origin i) 3 0xFF (BitVec.ofNat 32 b.addr) 0 0

/-- A BULK message that asks to read (15 R440; 16 R460). -/
def State.bulkAsk (s : State) (h : PctHdr) (b : BulkHdr) : State :=
  if !goodBulk h b 0 then s.badBody h
  else
    match s.accept h with
    | (s1, none) => s1
    | (s1, some (i, x)) =>
      if b.target = 0 then s1.access ⟨x.origin i, some x.uid, .memRead b.addr b.bytes b.tag, false⟩
      else if b.target = 1 then s1.bulkImageAsk x.uid b
      else if x.secure then s1.send x.uid 5 (bulkData 2 0 0 b.addr b.tag (s1.flashBytes b.addr b.bytes))
      else
        (s1.log (x.origin i) 4 0xFF (BitVec.ofNat 32 b.addr) 0 0).send x.uid 5
          (bulkData 2 1 0 b.addr b.tag (List.replicate b.bytes 0))

end Sys2Proof.Machine
end

