-- ==== Sys2Proof/Machine/SeRun.lean ====
section
/-! DEFINITION. The sync engine and the flag banks: what SE commands do at issue, how a bank applies an operation, when a
fence's condition holds (08 R232 to R248). -/

namespace Sys2Proof.Machine

open Sys2Proof

/-- A device flag's value. -/
def State.flagVal (s : State) (f : Nat) : Word := Sparse.get (fun _ => 0) s.flags.value f

/-- The state with a device flag's value. -/
def State.setFlag (s : State) (f : Nat) (v : Word) : State :=
  { s with flags := { s.flags with value := Sparse.set (fun _ => 0) s.flags.value f v } }

/-- Is a wait satisfied by a value (08 R236)? -/
def waitMet (k : FlagKind) (arg v : Word) : Bool :=
  match k with
  | .obs => decide ((v - arg).toNat < 2 ^ 31)
  | .take => decide (arg.toNat ≤ v.toNat) && decide (v.toNat < 2 ^ 31)
  | _ => true

/-- The key order of sources (08 R235). -/
def FlagOp.before (a b : FlagOp) : Bool :=
  decide (a.src < b.src) || (decide (a.src = b.src) && decide (a.queue < b.queue))

/-- A watch put into its place in key order. -/
def insertWatch (w : FlagOp) : List FlagOp → List FlagOp
  | [] => [w]
  | x :: r => if w.before x then w :: x :: r else x :: insertWatch w r

/-- The visit of a flag's watches in key order (08 R238): the value left, the watches released, the watches that stay. -/
def visit (f : Nat) : List FlagOp → Word → Word × List FlagOp × List FlagOp
  | [], v => (v, [], [])
  | w :: r, v =>
    if w.flag = f ∧ waitMet w.kind w.arg v then
      let v1 := if w.kind = .take then v - w.arg else v
      let q := visit f r v1
      (q.1, w :: q.2.1, q.2.2)
    else
      let q := visit f r v
      (q.1, q.2.1, w :: q.2.2)

/-- A changed flag's watches are visited; releases leave for their cores (08 R237, R238). -/
def State.visitFlag (s : State) (f : Nat) : State :=
  let q := visit f s.flags.watches (s.flagVal f)
  let s1 := s.setFlag f q.1
  { s1 with flags := { s1.flags with watches := q.2.2, releases := s1.flags.releases ++ q.2.1.map fun w => (w.src, w.id) } }

/-- An operation applied at its bank (08 R236 to R239). -/
def State.applyFlag (s : State) (o : FlagOp) : State :=
  match o.kind with
  | .set => (s.setFlag o.flag o.arg).visitFlag o.flag
  | .add => (s.setFlag o.flag (s.flagVal o.flag + o.arg)).visitFlag o.flag
  | _ =>
    if waitMet o.kind o.arg (s.flagVal o.flag) then
      let s1 := { s with flags := { s.flags with releases := s.flags.releases ++ [(o.src, o.id)] } }
      if o.kind = .take then (s1.setFlag o.flag (s.flagVal o.flag - o.arg)).visitFlag o.flag else s1
    else { s with flags := { s.flags with watches := insertWatch o s.flags.watches } }

/-- The bank of a flag, which lies in the clock region of its number (08 R232). -/
def flagBank (f : Nat) : Fin 16 := ⟨f / 32 % 16, Nat.mod_lt _ (by decide)⟩

/-- An operation put behind those of its tc that go before it by their keys, the earlier one first among equals (08 R234). -/
def insertOp (o : FlagOp) : List FlagOp → List FlagOp
  | [] => [o]
  | x :: r => if o.before x then o :: x :: r else x :: insertOp o r

/-- The operations of one tc in the order in which their bank applies them (08 R234). -/
def inKeyOrder (os : List FlagOp) : List FlagOp := os.foldl (fun l o => insertOp o l) []

/-- A command of a core completes by its number, where it is outstanding. -/
def State.finishId (s : State) (c id : Nat) : State :=
  match (s.core c).issued.find? fun i => decide (i.id = id) with
  | some i => s.finishIssued c i
  | none => s

/-- An operation applied, and the set or add of an SE that it was complete (08 R218, R236). -/
def State.applyOp (s : State) (o : FlagOp) : State :=
  let t := s.applyFlag o
  if o.queue = 4 ∧ o.src < 256 ∧ (o.kind = .set ∨ o.kind = .add) then t.finishId o.src o.id else t

/-- May the operation numbered `i` among those in flight arrive at the bank in a tc together with those named: it is the bank's,
and no earlier one of its source on its flag stays behind (08 R219, R232)? -/
def State.mayArrive (s : State) (bank : Fin 16) (named : List Nat) (i : Nat) : Bool :=
  match s.flags.ops[i]? with
  | none => false
  | some o => decide (flagBank o.flag = bank) && named.contains i && (List.range i).all fun j =>
      match s.flags.ops[j]? with
      | none => true
      | some p => named.contains j || !decide (p.src = o.src ∧ p.queue = o.queue ∧ p.flag = o.flag)

/-! ### SE commands -/

/-- A local flag operation at issue (08 R233, R236, R248, R251). -/
def State.issueFlag (s : State) (c : Nat) (e : QEntry) (kind : FlagKind) (f v : Word) : State :=
  let q := s.corePart c
  let wait : Bool := decide (kind = .obs ∨ kind = .take)
  if q.fcount ≤ f.toNat then s.failCmd c .se e ⟨0x60, 0⟩
  else if kind = .take ∧ (v.toNat = 0 ∨ 65535 < v.toNat) then s.failCmd c .se e ⟨0x62, 0⟩
  else
    let s1 := s.postFlag ⟨q.fbase + f.toNat, kind, v, c, 4, e.id⟩
    if wait then
      (s1.updCore c fun k =>
        { k with wait := { flag := f.toNat, take := decide (kind = .take), active := true, arg := v } }).start c .se e .wait
    else s1.start c .se e .flagOp

/-- se.rsig at issue (08 R242, R244). -/
def State.issueSeRsig (s : State) (c : Nat) (e : QEntry) (chip f n : Word) : State :=
  let q := s.corePart c
  if !q.members.any (fun m => decide (m.chip = chip.toNat)) ∨ !s.ownsSlot (s.partNo c) 3 chip.toNat then
    s.failCmd c .se e ⟨0x61, 0⟩
  else
    let r : SigOut := ⟨s.partNo c, chip.toNat, f.toNat, n, c, e.id⟩
    State.start { s with tether := { s.tether with sigOut := s.tether.sigOut ++ [r] } } c .se e .leave

/-- The commands of a core that are not complete, with their engine and number. -/
def Core.pendingCmds (k : Core) : List (Engine × Nat × ECmd) :=
  (k.qMe.map fun e => (Engine.me, e.id, e.cmd)) ++ (k.qVe.map fun e => (Engine.ve, e.id, e.cmd))
    ++ (k.qDm.map fun e => (Engine.dm, e.id, e.cmd)) ++ (k.qLp.map fun e => (Engine.lp, e.id, e.cmd))
    ++ (k.qSe.map fun e => (Engine.se, e.id, e.cmd)) ++ k.issued.map fun i => (i.eng, i.id, i.cmd)

/-- Does a fence name the engine? -/
def FenceMask.names (m : FenceMask) : Engine → Bool
  | .me => m.me
  | .ve => m.ve
  | .dm => m.dm
  | .lp => m.lp
  | .se => false

/-- Does a command leave the device: dm.rput, se.rsig? -/
def ECmd.remote : ECmd → Bool
  | .dmRput _ _ _ _ _ => true
  | .seRsig _ _ _ => true
  | _ => false

/-- Does the condition of a fence hold (08 R241)? -/
def Core.fenceHolds (k : Core) (id : Nat) (cmd : ECmd) : Bool :=
  let before := k.pendingCmds.filter fun p => decide (p.2.1 < id)
  let loads := k.sq.loads.any fun l => decide (l.id < id)
  match cmd with
  | .seFenceQ m => !(before.any fun p => FenceMask.names m p.1) && !(m.sq && loads)
  | .seFenceAll => before.isEmpty && !loads
  | .seFenceRemote => !(before.any fun p => p.2.2.remote)
  | _ => true

end Sys2Proof.Machine
end

