-- ==== Sys2Proof/Machine/TetherRun.lean ====
section
/-! DEFINITION. The tether as its tables play: what an arriving cell does, what a departure slot sends (05 R160; 08 R242 to R244;
09 R261, R262; 10 R278 to R292; 13 R371, R373). -/

namespace Sys2Proof.Machine

open Sys2Proof

/-! ### Cells (10 R282 to R284) -/

/-- Bits [57:0] of a cell's header (10 R282). -/
def cellHeader (c : Cell) : Nat :=
  c.cls % 16 + c.src % 1024 * 2 ^ 4 + c.dst % 1024 * 2 ^ 14 + c.arg.toNat * 2 ^ 24 + c.valid % 4 * 2 ^ 56

/-- The header check (10 R284). -/
def hchk (h : Nat) : Nat := (List.range 10).foldl (fun a i => a ^^^ (h % 2 ^ 58 / 2 ^ (6 * i) % 64)) 0

/-- Did the cell decode: no uncorrectable codeword in it, HCHK as its header gives, a CLASS that is not reserved (10 R278,
R284)? -/
def cellDecodes (c : CellIn) : Bool := c.fec && decide (c.hchk.toNat = hchk (cellHeader c.cell)) && decide (c.cell.cls < 7)

/-- A payload filled up to 256 bytes. -/
def payload256 (bs : List Byte) : List Byte := bs.take 256 ++ List.replicate (256 - bs.length) 0

/-- ARG of an IDLE cell (10 R283). -/
def State.idleArg (s : State) (p : Fin 8) : Word :=
  BitVec.ofNat 32 (s.flightTag + p.val * 2 ^ 16 + bn s.beat.joined * 2 ^ 19 + s.beat.bno.toNat % 4096 * 2 ^ 20)

/-- The IDLE cell of a port (10 R282, R283). -/
def State.idleOf (s : State) (p : Fin 8) : Cell :=
  { cls := 0, src := s.chipId, dst := s.peerOf p, arg := s.idleArg p, valid := 0, payload := payload256 [] }

/-- A cell leaves a port; one that is off or not locked sends nothing the neighbour could decode. -/
def State.sendCell (s : State) (p : Fin 8) (c : Cell) : State :=
  if s.portEn p ∧ 2 ≤ (s.port p).st then s.sendOn p c else s

/-! ### Which runs play (07 R210; 10 R286, R304; 11 R332) -/

/-- Does an owner's program run: a RUNNING partition, or a transit claim that runs? -/
def State.ownerPlays (s : State) (o : Nat) : Bool :=
  if o < 16 then decide ((s.part o).st = .running) else s.transits.any fun t => decide (t.owner = o) && decide (t.st = .running)

/-- The entry that plays in slot k of a port and direction, with its owner; none where the slot is idle. -/
def State.playSlot (s : State) (port : Nat) (dep : Bool) (k : Nat) : Option (Nat × DWord) :=
  if s.workPeriod then
    match s.slot port dep k with
    | some x => if s.ownerPlays x.1 then some x else none
    | none => none
  else none

/-- The partition number of an owner for a record: 0xFF for a transit claim. -/
def ownerPart (o : Nat) : Nat := if o < 16 then o else 0xFF

/-! ### Remote signals (08 R242 to R244) -/

/-- A remote signal's add leaves for its bank, with key (256, 0). -/
def State.applySig (s : State) (r : SigHeld) : State :=
  s.postFlag ⟨(s.part r.part).fbase + r.flag, .add, r.n, 256, 0, 0⟩

/-- The DMA cells received of a sender in this beat. -/
def State.dmaRcvd (s : State) (chip : Nat) : Word := Sparse.get (fun _ => 0) s.tether.dmaRcvd chip

/-- The DMA cells sent toward a chip in this beat. -/
def State.dmaSent (s : State) (chip : Nat) : Word := Sparse.get (fun _ => 0) s.tether.dmaSent chip

/-- Has the sender's count reached the stamp (08 R243)? -/
def State.sigDue (s : State) (r : SigHeld) : Bool := decide (r.stamp.toNat ≤ (s.dmaRcvd r.chip).toNat)

/-- The held signals whose stamp has been reached are applied, in the order in which they came. -/
def State.releaseSigs (s : State) : State :=
  let due := s.tether.held.filter fun r => s.sigDue r
  due.foldl State.applySig { s with tether := { s.tether with held := s.tether.held.filter fun r => !s.sigDue r } }

/-- One signal record arrives (08 R243, R244): outside its partition's range it is dropped, its stamp reached it is applied, else it
is held where fewer than 64 are. -/
def State.takeSig (port : Nat) (s : State) (r : SigHeld) : State :=
  if 16 ≤ r.part ∨ (s.part r.part).fcount ≤ r.flag then s.refuseLanding 11 2 port r.chip r.part
  else if s.sigDue r then s.applySig r
  else if 64 ≤ s.tether.held.length then s.refuseLanding 11 2 port r.chip r.part
  else { s with tether := { s.tether with held := s.tether.held ++ [r] } }

/-- A signal record of a FLAG payload (10 R291). -/
def sigAt (chip : Nat) (b : List Byte) (i : Nat) : SigHeld :=
  ⟨chip, leAt b (16 * i) 1, leAt b (16 * i + 2) 2, BitVec.ofNat 32 (leAt b (16 * i + 4) 4), BitVec.ofNat 32 (leAt b (16 * i + 8) 4)⟩

/-- The records of a FLAG cell (10 R283, R291). -/
def cellSigs (c : Cell) : List SigHeld := (List.range (min 16 (fld c.arg 0 5))).map fun i => sigAt c.src c.payload i

/-! ### The sinks (10 R286) -/

/-- A DATA cell delivered to its leg: two flits, where the arrival buffer has room for them (09 R261, R262). -/
def State.sinkData (s : State) (port owner leg : Nat) (c : Cell) : State :=
  let q := s.legIn leg
  if 64 < q.length + 2 then s.refuseLanding 11 3 port c.src (ownerPart owner)
  else
    let flit (i : Nat) : Flit :=
      ⟨decide (c.valid / 2 ^ i % 2 = 0), false, false, (c.payload.drop (128 * i)).take 128, (List.range 16).map fun g => bit c.arg (16 * i + g)⟩
    s.setLegIn leg (q ++ [flit 0, flit 1])

/-- A DMA payload deposited through a remote window, where the window accepts it (05 R159, R160); poisoned, every granule is stored
poisoned (10 R283). -/
def State.sinkDma (s : State) (port : Nat) (c : Cell) : State :=
  let w := Sparse.get (fun _ => ((0 : Word), (0 : Word), (0 : Word))) s.tether.rwin (fld c.arg 0 6)
  let part := fld w.1 1 4
  let core := fld w.1 5 8
  let off := fld c.arg 6 16 * 256
  let len := (fld c.arg 22 3 + 1) * 32
  let a := fld w.2.1 8 17 * 256 + off
  let ok : Bool := bit w.1 0 && (s.part part).isBound && (bit w.1 23 || decide (fld w.1 13 10 = c.src))
    && decide (off + len ≤ fld w.2.2 0 16 * 256)
  let t := if ok then s.unitPut 11 part core a (c.payload.take len)
      (if bit c.arg 25 then (List.range (len / 8)).map (a + 8 * ·) else []) else s
  let s1 := if ok && (s.unitCheck part core a len).isNone then t else t.refuseLanding 11 1 port c.src part
  let s2 := { s1 with tether := { s1.tether with
    dmaRcvd := Sparse.set (fun _ => 0) s1.tether.dmaRcvd c.src (s1.dmaRcvd c.src + 1) } }
  s2.releaseSigs

/-- A cell delivered to the sink of its class. -/
def State.sink (s : State) (port owner : Nat) (e : DWord) (c : Cell) : State :=
  if c.cls = 1 then s.sinkData port owner (runLeg e) c
  else if c.cls = 2 then s.sinkDma port c
  else if c.cls = 3 then (cellSigs c).foldl (State.takeSig port) s
  else s.batchCell (fld c.arg 0 11) c.src (fld c.arg 11 10) (bit c.arg 21) c.payload

/-! ### Arrival (10 R278, R285, R287) -/

/-- A cell goes on to the ports of FWD_MASK, in the slot 16 tc after its release; an IDLE cell stands in for one that was lost
(10 R287). -/
def State.forward (s : State) (p : Fin 8) (k : Nat) (e : DWord) (c : Option Cell) : State :=
  let qs := (List.range 8).filter fun q => decide (runMask e / 2 ^ q % 2 = 1)
  { s with tether := { s.tether with
      fwd := s.tether.fwd ++ qs.map fun q => ⟨q, k + s.dNom p.val / 2 + 8, p.val, c⟩ } }

/-- An IDLE cell that decoded is checked against the port's configuration on a joined device (10 R304). -/
def State.checkIdle (s : State) (p : Fin 8) (c : Cell) : State :=
  let ok : Bool := decide (fld c.arg 0 16 = s.flightTag) && decide (fld c.arg 16 3 = fld (s.rd (rTetherPortCfg p.val)) 11 3)
    && decide (c.src = s.peerOf p)
  if s.beat.joined ∧ !ok then s.enterCond 2 p.val else s

/-- A cell lost in a scheduled slot (10 R278). -/
def State.cellLost (s : State) (p : Fin 8) : State :=
  ((s.setBit rTetherStatus 2).bump (rTetherPortCellUe p.val)).failBeat

/-- A cell in a slot that a run names (10 R278, R285 to R287). -/
def State.arriveRun (s : State) (x : CellIn) (owner : Nat) (e : DWord) : State :=
  let c := x.cell
  if !cellDecodes x ∨ (c.cls = 0 ∧ runClass e = 1) then (s.cellLost x.port).forward x.port x.slot e none
  else if c.cls = 0 then (s.checkIdle x.port c).forward x.port x.slot e none
  else if c.cls ≠ runClass e ∨ c.src ≠ runPeer e ∨ (runBit e = true ∧ c.cls ≤ 3 ∧ c.dst ≠ s.chipId) then
    (s.refuseLanding 11 4 x.port.val c.src (ownerPart owner)).forward x.port x.slot e none
  else
    (if runBit e then s.sink x.port.val owner e c else s).forward x.port x.slot e (some c)

/-- Codewords counted (10 R278). -/
def State.countFec (s : State) (x : CellIn) : State :=
  (s.bumpN (rTetherPortFecCe x.port.val) x.ce).bumpN (rTetherPortFecUe x.port.val) x.ue

/-- TC at the release of the cell of arrival slot k of a port: beat start + 2k + D_NOM, where that lies in the beat (10 R280). -/
def State.toRelease (s : State) (p k : Nat) : State :=
  let t := s.beatStart + BitVec.ofNat 64 (2 * k + s.dNom p)
  if s.beat.joined ∧ t.toNat < s.nextBoundary.toNat then s.toTc t else s

/-- A cell arrives at a port that holds lock. In an idle slot an uncorrectable one is counted only (10 R278). -/
def State.arrive (s : State) (x : CellIn) : State :=
  if !s.portEn x.port ∨ (s.port x.port).st < 2 then s
  else
    let s1 := (s.toRelease x.port.val x.slot).countFec x
    match s1.playSlot x.port.val false x.slot with
    | some q => s1.arriveRun x q.1 q.2
    | none => if cellDecodes x ∧ x.cell.cls = 0 then s1.checkIdle x.port x.cell else s1

/-! ### Departure (10 R286, R287, R291, R292) -/

/-- DATA: the next two flits of the leg; void ones stand in for those missing, and the device records SCHED_MISS (09 R262). -/
def State.departData (s : State) (p : Fin 8) (owner : Nat) (e : DWord) : State :=
  let leg := runLeg e
  let q := s.legOut leg
  let f0 := q.getD 0 voidFlit
  let f1 := q.getD 1 voidFlit
  let body (f : Flit) : List Byte := if f.void then List.replicate 128 0 else f.bytes.take 128
  let marks (f : Flit) : List Bool := (List.range 16).map fun g => !f.void && f.poison.getD g false
  let c : Cell :=
    { cls := 1, src := s.chipId, dst := runPeer e, arg := BitVec.ofNat 32 (bitsOf (marks f0 ++ marks f1)),
      valid := bn (!f0.void) + 2 * bn (!f1.void), payload := payload256 (body f0 ++ body f1) }
  let s1 := (s.setLegOut leg (q.drop 2)).sendCell p c
  if q.length < 2 then s1.unitMiss 11 (ownerPart owner) else s1

/-- DMA: the oldest cell the owner has queued for the chip (06 R189; 10 R292); counted for the stamps, the last one of a command
completes it. -/
def State.departDma (s : State) (p : Fin 8) (owner : Nat) (e : DWord) : State :=
  match s.tether.dmaOut.find? fun d => decide (d.part = owner ∧ d.chip = runPeer e) with
  | none => s.sendCell p (s.idleOf p)
  | some d =>
    let c : Cell :=
      { cls := 2, src := s.chipId, dst := d.chip,
        arg := BitVec.ofNat 32 (d.win % 64 + d.off / 256 % 65536 * 2 ^ 6 + (d.bytes.length / 32 - 1) * 2 ^ 22 + bn d.poison * 2 ^ 25),
        valid := 0, payload := payload256 d.bytes }
    let s1 := { s with tether := { s.tether with
      dmaOut := s.tether.dmaOut.erase d, dmaSent := Sparse.set (fun _ => 0) s.tether.dmaSent d.chip (s.dmaSent d.chip + 1) } }
    let s2 := s1.sendCell p c
    if d.last ∧ d.core ≠ 0xFFFF then s2.finishId d.core d.id else s2

/-- The partition of a member on a chip, as a signal record names it (08 R242; 10 R291). -/
def State.memberPart (s : State) (p chip : Nat) : Nat :=
  match (s.part p).members.find? fun m => decide (m.chip = chip) with
  | some m => m.part
  | none => 0

/-- A signal record (10 R291). DESIGN CHOICE (log entry 84): of a flag that a counter gives as 65,536 or more the record carries the
number modulo 65,536, the 16 bits of FLAG. -/
def State.sigBytes (s : State) (r : SigOut) : List Byte :=
  leBytes 1 (s.memberPart r.part r.chip) ++ [0] ++ leBytes 2 r.flag ++ leBytes 4 r.n.toNat ++ leBytes 4 (s.dmaSent r.chip).toNat
    ++ leBytes 2 r.core ++ [0, 0]

/-- FLAG: up to 16 records the owner has queued for the chip, oldest first (10 R291); each completes its command. -/
def State.departFlag (s : State) (p : Fin 8) (owner : Nat) (e : DWord) : State :=
  let rs := (s.tether.sigOut.filter fun r => decide (r.part = owner ∧ r.chip = runPeer e)).take 16
  if rs.isEmpty then s.sendCell p (s.idleOf p)
  else
    let c : Cell :=
      { cls := 3, src := s.chipId, dst := runPeer e, arg := BitVec.ofNat 32 rs.length, valid := 0,
        payload := payload256 (rs.flatMap s.sigBytes) }
    let s1 := { s with tether := { s.tether with sigOut := rs.foldl (fun l r => l.erase r) s.tether.sigOut } }
    rs.foldl (fun t r => (t.finishId r.core r.id).bump (rSeRsigSent r.core)) (s1.sendCell p c)

/-- The BATCH departure slots of a group in a table before slot k. -/
def batchBefore (g : Nat) : List DWord → Nat → Nat
  | [], _ => 0
  | e :: r, k =>
    if runLen e = 0 ∨ k = 0 then 0
    else
      let n := min k (runLen e)
      (if runClass e = 4 ∧ runBit e = false ∧ runGroup e = g then n else 0) + batchBefore g r (k - n)

/-- Which BATCH departure slot of a group slot k of a port is, from 0 (13 R373). -/
def State.batchIndex (s : State) (port g k : Nat) : Nat :=
  ((s.tether.runs.filter fun r => decide (r.port = port) && r.dep && s.ownerPlays r.owner).map fun r => batchBefore g r.entries k).sum

/-- The state with a group's table replaced. -/
def State.putTable (s : State) (t : BTable) : State :=
  { s with rt := { s.rt with tables := s.rt.tables.map fun x => if x.n = t.n then t else x } }

/-- A table found not ready in its slot: RT_STATUS.LATE and the miss, counted once for the table (13 R371). -/
def State.lateTable (s : State) (t : BTable) (owner : Nat) : State :=
  let s1 := s.setBit rRtStatus 1
  if t.late then s1
  else (State.unitMiss (s1.bump rRtLateCount) 5 (ownerPart owner)).putTable { t with late := true }

/-- BATCH: the next cell of the group's table, which the anchor's own RT takes as it leaves (13 R371, R373). -/
def State.departBatch (s : State) (p : Fin 8) (owner : Nat) (e : DWord) (k : Nat) : State :=
  let g := runGroup e
  let i := s.batchIndex p.val g k
  match s.rt.tables.find? fun t => decide (t.group = g) with
  | none => s.sendCell p (s.idleOf p)
  | some t =>
    if t.cells ≤ i then s.sendCell p (s.idleOf p)
    else if 2 * k < t.ready then (s.lateTable t owner).sendCell p (s.idleOf p)
    else
      let last : Bool := decide (i + 1 = t.cells)
      let bytes := t.cell i
      let c : Cell :=
        { cls := 4, src := s.chipId, dst := s.chipId, arg := BitVec.ofNat 32 (g + i * 2 ^ 11 + bn last * 2 ^ 21), valid := 0,
          payload := payload256 bytes }
      let s1 := s.sendCell p c
      if t.sent ≤ i then (s1.putTable { t with sent := i + 1 }).batchCell g s.chipId i last bytes else s1

/-- A forwarded cell leaves; an IDLE cell where none came (10 R287). -/
def State.departFwd (s : State) (p : Fin 8) (e : DWord) (k : Nat) : State :=
  let mine (f : FwdCell) : Bool := decide (f.port = p.val ∧ f.slot = k ∧ f.src = runFrom e)
  let c := match s.tether.fwd.find? mine with
    | some f => match f.cell with
      | some c => if c.cls = runClass e then c else s.idleOf p
      | none => s.idleOf p
    | none => s.idleOf p
  State.sendCell { s with tether := { s.tether with fwd := s.tether.fwd.filter fun f => !mine f } } p c

/-- The slots in which a joined device's status rounds leave (10 R294). -/
def State.isStatusSlot (s : State) (k : Nat) : Bool :=
  s.beat.joined && (List.range s.rounds).any fun r =>
    let a := (s.guardAt + 8 + r * s.roundGap) / 2
    decide (k = a ∨ k = a + 1)

/-- Departure slot k of a port (10 R286): what the entry in effect names, an IDLE cell in an idle slot; the status slots are the
status rounds' own (R294). -/
def State.depart (s : State) (p : Fin 8) (k : Nat) : State :=
  let s1 := if s.beat.joined then s.toTc (s.beatStart + BitVec.ofNat 64 (2 * k)) else s
  if s1.isStatusSlot k then s1
  else
    match (if s1.beat.inGuard then none else s1.playSlot p.val true k) with
    | none => s1.sendCell p (s1.idleOf p)
    | some (o, e) =>
      if runBit e then s1.departFwd p e k
      else if runClass e = 1 then s1.departData p o e
      else if runClass e = 2 then s1.departDma p o e
      else if runClass e = 3 then s1.departFlag p o e
      else s1.departBatch p o e k

end Sys2Proof.Machine
end

