-- ==== Sys2Proof/Machine/BeatRun.lean ====
section
/-! DEFINITION. The beat: its guard band, its status, the decision at a boundary, and the nine things a boundary does in order
(01 R28, R35; 06 R170, R171, R195; 08 R246; 10 R294 to R297, R304; 11 R327 to R332). -/

namespace Sys2Proof.Machine

open Sys2Proof

/-! ### The guard band (06 R171) -/

/-- The cores of the RUNNING partitions. -/
def State.runningCores (s : State) : List Nat :=
  (List.range 16).flatMap fun p => if (s.part p).st = .running then (s.part p).cores else []

/-- What a core records when the guard band begins (03 R101; 04 R109; 06 R171, R190, R192; 08 R239, R244): a stream that has not
ended, commands queued, commands outstanding; a landing buffer still short, whose missing positions, and whose flag add that is
not made, are its LP's misses (08 R246; 09 R264). A flag operation on its way is none: its bank applies it before the boundary
(08 R246). -/
def State.guardCore (s : State) (c : Nat) : State :=
  let k := s.core c
  let s1 := if k.sq.ended then s else s.coreMiss c 0 k.sq.pc
  let s2 := [Engine.me, .ve, .dm, .lp, .se].foldl
    (fun t g => (k.queue g).foldl (fun u e => u.coreMiss c (engNo g) e.pc) t) s1
  (k.issued.filter fun i => decide (i.finish ≠ .flagOp)).foldl (fun t i => t.coreMiss c (engNo i.eng) i.pc) s2

/-- Is a result missing of a table: an EMIT slot without one (13 R377)? -/
def State.suMissing (s : State) (t : BTable) : Bool :=
  ((List.range t.slots.length).zip t.slots).any fun x => x.2.emit && (s.resultOf t.group x.1).isNone

/-- A table without all its results: RT_STATUS.SU_LATE and the miss (13 R377). -/
def State.suLate (s : State) (t : BTable) : State :=
  if s.suMissing t then State.unitMiss ((s.setBit rRtStatus 3).bump rRtLateCount) 5 ((s.anchorPart t.group).getD 0xFF) else s

/-- The guard band begins (06 R171; 08 R244; 09 R257; 11 R328; 13 R377). -/
def State.guardStart (s : State) : State :=
  let s1 := s.toTc (s.beatStart + BitVec.ofNat 64 s.guardAt)
  let s2 := if s1.workPeriod then
      let t := s1.runningCores.foldl State.guardCore s1
      t.rt.tables.foldl State.suLate t
    else s1
  { s2 with beat := { s2.beat with inGuard := true }, tether := { s2.tether with sigOut := [] } }

/-! ### The status (10 R294 to R296) -/

/-- Two statuses together. -/
def Status.or (a b : Status) : Status :=
  { fail := a.fail || b.fail, skip := a.skip || b.skip, fault := a.fault || b.fault,
    groups := a.groups ++ b.groups.filter fun g => !a.groups.contains g }

/-- The device's own status at the cut (10 R294, R295): in a skip beat, FAIL and class G faults wait for the next period that is none
(11 R332; 06 R196). -/
def State.ownStatus (s : State) : Status :=
  let a := s.beat.acc
  { fail := s.workPeriod && (a.fail || s.drift.hdrFault), skip := a.skip, fault := a.fault || s.beat.cond.isSome,
    groups := if s.workPeriod then a.groups else [] }

/-- The cut (10 R294; 14 R412): the status is formed, and the anchors read the records of their members. -/
def State.cutStatus (s : State) : State :=
  let s1 := s.toTc (s.beatStart + BitVec.ofNat 64 (s.guardAt + 8))
  let acc := s1.beat.acc
  let kept : Status := if s1.workPeriod then Status.reset else { Status.reset with fail := acc.fail, groups := acc.groups }
  let s2 := { s1 with beat := { s1.beat with cut := true, own := s1.ownStatus, acc := kept } }
  ((List.range 16).filter fun p => s2.pgOn p && s2.isAnchor p).foldl State.readRecords s2

/-- The guard band and the cut, where they have not come yet. -/
def State.toCut (s : State) : State :=
  let s1 := if s.beat.inGuard then s else s.guardStart
  if s1.beat.cut then s1 else s1.cutStatus

/-- The 256 bytes of a bitmap of model groups (10 R283). -/
def groupBitmap (gs : List Nat) : List Byte :=
  (List.range 256).map fun i => BitVec.ofNat 8 (bitsOf ((List.range 8).map fun b => gs.contains (8 * i + b)))

/-- The groups of a bitmap. -/
def groupsOf (bs : List Byte) : List Nat :=
  (List.range 2048).filter fun g => decide ((byteAt bs (g / 8)).toNat / 2 ^ (g % 8) % 2 = 1)

/-- A status cell of a round (10 R282, R283). -/
def State.statusCell (s : State) (p : Fin 8) (v : Status) (r copy : Nat) : Cell :=
  { cls := 5, src := s.chipId, dst := s.peerOf p,
    arg := BitVec.ofNat 32 (bn v.fail + bn v.skip * 2 + bn v.fault * 4 + bn (!v.groups.isEmpty) * 8 + r % 32 * 2 ^ 4 + copy * 2 ^ 9
      + s.beat.bno.toNat % 4096 * 2 ^ 10),
    valid := 0, payload := groupBitmap v.groups }

/-- What the device knows of the beat: its own status and every copy that has become usable (10 R295). -/
def State.view (s : State) : Status := s.beat.own.or s.beat.seen

/-- Round r leaves on every joined port (10 R294). -/
def State.sendRound (s : State) (r : Nat) : State :=
  let s1 := s.toTc (s.beatStart + BitVec.ofNat 64 (s.guardAt + 8 + (r - 1) * s.roundGap))
  let v := s1.view
  s1.portsJoined.foldl (fun t p => (t.sendCell p (t.statusCell p v r 0)).sendCell p (t.statusCell p v r 1)) s1

/-- The status that a cell carries. -/
def statusOf (c : Cell) : Status :=
  { fail := bit c.arg 0, skip := bit c.arg 1, fault := bit c.arg 2, groups := if bit c.arg 3 then groupsOf c.payload else [] }

/-- A round is lost (10 R296): STATUS_LOST, and the flight-fault condition. -/
def State.roundLost (s : State) (p : Nat) : State := (s.setBit rTetherStatus 4).enterCond 3 p

/-- A status cell becomes usable (10 R295, R296). One that does not decode, or that fails a check, is a copy lost. -/
def State.takeStatus (s : State) (x : CellIn) : State :=
  let c := x.cell
  let s1 := s.countFec x
  if !cellDecodes x ∨ c.cls ≠ 5 ∨ c.src ≠ s1.peerOf x.port ∨ c.dst ≠ s1.chipId then s1
  else if fld c.arg 10 12 ≠ s1.beat.bno.toNat % 4096 then s1.roundLost x.port.val
  else
    { s1 with beat := { s1.beat with seen := s1.beat.seen.or (statusOf c), cells := s1.beat.cells ++ [(fld c.arg 4 5, x.port.val)] } }

/-- The rounds of which no copy has decoded by the boundary are lost, on the joined ports (10 R296). -/
def State.lostRounds (s : State) : State :=
  s.portsJoined.foldl (fun t p =>
    if (List.range t.rounds).all fun r => t.beat.cells.contains (r + 1, p.val) then t else t.roundLost p.val) s

/-! ### The decision (10 R297) -/

/-- What a boundary decides. -/
inductive Verdict where
  | keep
  | commit
  | replay
  | fault (cause port : Nat)
  deriving DecidableEq, Repr

/-- The decision of 10 R297 for the period just ended; the cause of a flight fault under R304. -/
def State.verdict (s : State) : Verdict :=
  match s.beat.cond with
  | some (c, p) => .fault c (if c ≤ 2 then p else 0)
  | none =>
    let v := s.view
    if v.fault then .fault 5 0
    else if s.beat.kind = 3 then .keep
    else if v.fail then (if s.beat.replays = 3 then .fault 4 0 else .replay)
    else .commit

/-! ### Applying it (01 R28, R35; 06 R195; 08 R246; 10 R304) -/

/-- Flags of a part of the pool returned to their values at the start of the beat (08 R246; 01 R35). -/
def State.restoreFlags (s : State) (p : Nat → Bool) : State :=
  { s with flags := { s.flags with
      value := (s.flags.opening.filter fun x => p x.1).foldl (fun m x => Sparse.set (fun _ => 0) m x.1 x.2)
        (s.flags.value.filter fun x => !p x.1) } }

/-- Every partition's page books changed. -/
def State.mapPg (s : State) (f : PgPart → PgPart) : State := s.pg.foldl (fun t x => t.setPg x.1 (f (t.pgOf x.1))) s

/-- A class G fault of groups at a boundary (06 R195; 13 R382): their tables are discarded, their books return, their requests of the
tables fail, their partitions halt. -/
def State.dropGroups (s : State) (gs : List Nat) : State :=
  let s1 := (s.rt.tables.filter fun t => gs.contains t.group).foldl (fun u t => u.discardTable true t) s
  let s2 := s1.discardMembers fun g => gs.contains g
  (List.range 16).foldl (fun t p =>
    let q := t.part p
    if q.isBound && gs.contains q.group then
      (t.restoreFlags fun f => decide (q.fbase ≤ f) && decide (f < q.fbase + q.fcount)).haltPart p
    else t) s2

/-- The beat commits (01 R28, R30; 13 R381; 14 R391, R411); RETIRED versions whose last pin has gone are FREE (R417). -/
def State.commitBeat (s : State) (gs : List Nat) : State :=
  let s0 := { s with beat := { s.beat with lastCommit := s.beat.bno } }
  let s1 := (s0.rt.tables.filter fun t => !gs.contains t.group).foldl State.commitTable s0
  let s2 := ((s1.commitMembers fun g => !gs.contains g).dropGroups gs).xbSettle
  let s3 := (List.range 16).foldl State.startOrders s2
  { s3 with beat := { s3.beat with bno := s3.beat.bno + 1, replays := 0, replayNext := false }
            rt := { s3.rt with results := [] } }

/-- The beat is to be replayed (01 R28, R29, R35; 08 R246; 13 R374): flags return, results and the selections of the failed attempt
go, and so do the tables of groups with a class G fault. -/
def State.replayBeat (s : State) (gs : List Nat) : State :=
  let s1 := (s.dropGroups gs).restoreFlags fun _ => true
  let s2 := s1.mapPg fun q => { q with posts := [] }
  let s3 := { s2 with beat := { s2.beat with replays := s2.beat.replays + 1, replayNext := true }
                      rt := { s2.rt with results := [] } }
  s3.event 0x87 3 0xFF 0xFF 0xFFFF (BitVec.ofNat 32 s3.beat.replays)

/-- The flight faults (10 R304; 13 R382): the beat is discarded, every partition and transit claim halts, the cause is recorded and
logged. -/
def State.flightFault (s : State) (cause port : Nat) : State :=
  let s1 := s.rt.tables.foldl (fun u t => u.discardTable false t) s
  let s2 := (s1.discardMembers fun _ => true).restoreFlags fun _ => true
  let s3 := (s2.rt.ents.filter fun x => decide (x.2.st = .running)).foldl
    (fun t x => t.updEnt x.1 fun e => { e with st := .admitted, slot := none }) s2
  let s4 := ((List.range 16).filter fun n => s3.gValid n).foldl (fun t n => t.setBit (rRtGroupCtl n) 13) s3
  let s5 := ((List.range 16).foldl State.haltPart s4).haltTransits
  let s6 := (List.finRange 8).foldl (fun t p => t.updPort p fun x => { x with st := if x.st = 4 then 3 else x.st, joined := false }) s5
  let s7 := { s6 with beat := { s6.beat with joined := false, kind := 0, replays := 0, replayNext := false, cond := none,
                                             faulted := some (cause, port) }
                      rt := { s6.rt with results := [] } }
  ((s7.event 0x86 11 0xFF 0xFF 0xFFFF (BitVec.ofNat 32 cause)).alert 0).log originHw 11 0xFF 0 0 (BitVec.ofNat 32 cause)

/-- Step 2 of a boundary (11 R329). -/
def State.applyVerdict (s : State) (v : Verdict) : State :=
  let gs := s.view.groups
  match v with
  | .keep => s
  | .commit => s.commitBeat gs
  | .replay => s.replayBeat gs
  | .fault c p => s.flightFault c p

/-! ### What a boundary records and clears -/

/-- The core codes gathered in the period are written (16 R469). -/
def State.flushGathered (s : State) : State :=
  s.sc.gathered.foldl State.putEvt { s with sc := { s.sc with gathered := [] } }

/-- The stretch counts of the period are kept as LAST, beats over budget counted, and the counts return to zero (11 R322, R337). -/
def State.closeStretch (s : State) : State :=
  let s1 := (List.range 16).foldl (fun (t : State) r =>
    let u := t.wrF (rPmRegionStretch r) 16 16 (t.stretchOf r)
    if u.budget r < u.stretchOf r then u.bump (rPmRegionExcess r) else u) s
  { s1 with tb := { s1.tb with stretch := Vector.replicate 16 0 } }

/-- The local flag operations on their way reach their banks before the boundary (08 R246). -/
def State.landFlags (s : State) : State :=
  (s.flags.banks.toList.flatten ++ s.flags.ops).foldl State.applyOp
    { s with flags := { s.flags with ops := [], banks := Vector.replicate 16 [] } }

/-- SKIP in eight periods in a row (11 R332). -/
def State.skipStorm (s : State) : State :=
  let n := if s.beat.own.skip then s.beat.skipRun + 1 else 0
  let s1 := { s with beat := { s.beat with skipRun := n } }
  if n = 8 then (s1.event 0x85 3 0xFF 0xFF 0xFFFF 0).alert 1 else s1

/-- What belonged to the period that has ended is cleared (06 R189, R190; 08 R243, R246; 09 R261): watches, flag operations, held
signals, counts, legs, queued cells but for the page engine's records, tables received, jobs of the sampling units (11 R332; log
entry 40). -/
def State.clearPeriod (s : State) : State :=
  { s with
    beat := { s.beat with inGuard := false, cut := false, own := Status.reset, seen := Status.reset, cells := [] }
    flags := { s.flags with watches := [], ops := [], banks := Vector.replicate 16 [], releases := [] }
    tether := { s.tether with legDep := [], legArr := [], held := [], dmaSent := [], dmaRcvd := [], fwd := [], sigOut := [],
                              dmaOut := s.tether.dmaOut.filter fun d => decide (d.core = 0xFFFF) }
    rt := { s.rt with recv := [], busy := 0 }
    su := Vector.replicate 4 ⟨[]⟩ }

/-! ### The new period (03 R102; 04 R109; 06 R170; 08 R223; 09 R257) -/

/-- The matrix engine at a boundary (03 R102). -/
def Me.boundary (m : Me) : Me :=
  let fresh (h : AcbHalf) : AcbHalf :=
    let rs := h.recs.map fun r => (r.1, { r.2 with written := false, pass := 0 })
    { h with recs := rs.filter fun r => decide (r.2 ≠ recZero r.1) }
  { m with w := m.w.map (fun b => { b with valid := false }), acb := m.acb.map fresh, sheet := none, offers := [],
           seen := [], turn := 0, copies := [] }

/-- The numbers of the commands that are queued or outstanding. -/
def Core.unended (k : Core) : List Nat :=
  (k.qMe ++ k.qVe ++ k.qDm ++ k.qLp ++ k.qSe).map (·.id) ++ k.issued.map (·.id)

/-- A core at a boundary: what has not ended ends ABANDONED (06 R170, R194). `mine` says that it belongs to a RUNNING partition,
`work` that scheduled work runs in the new period. -/
def Core.boundary (k : Core) (mine work : Bool) : Core :=
  let sq := if mine then { Sq.reset with entry := k.sq.entry, run := work } else { k.sq with run := false, ended := false, hold := none, loads := [] }
  let lat := { k.lat with inN := [], inE := [], inS := [], inW := [], idx := 0, left := 0, play := false }
  { k with sq := sq, qMe := [], qVe := [], qDm := [], qLp := [], qSe := [], issued := [],
           lastEnds := k.ends ++ k.unended.map fun i => (i, .abandoned), ends := [],
           marked := Vector.replicate 16 0, done := Vector.replicate 16 0, track := [], ordOvf := false,
           me := k.me.boundary, ve := { k.ve with v := [], ctx := Vector.replicate 8 VCtx.reset, dig := Vector.replicate 8 0 },
           lp := ⟨[], []⟩, wait := { k.wait with active := false }, lat := if mine && work then lat.at 0 else lat }

/-- The places of a list, first ones first, without repeats. -/
def firstPlaces (xs : List Nat) : List Nat := xs.foldl (fun l x => if l.contains x then l else l ++ [x]) []

/-- The wide words, and the rows of the ACB, whose writes an abandoned command has made (03 R101; 04 R109; 06 R190): of a DM
command, as many as a free value says in the order of R188; of the others, those that free values name (log entry 15). -/
def keptWords (dm : Bool) (free : Nat) (ws : List Nat) : List Nat :=
  if dm then ws.take (Config.grantedWords free)
  else (((List.range ws.length).zip ws).filter fun x => Config.grantedWord (free + x.1)).map (·.2)

/-- An entry returned to what it was, where it still holds what the abandoned command wrote. -/
def takeBack {α : Type} [DecidableEq α] (d : Nat → α) (m : List (Nat × α)) (x : Nat × α × α) : List (Nat × α) :=
  if Sparse.get d m x.1 = x.2.2 then Sparse.set d m x.1 x.2.1 else m

/-- An accumulator element, keyed half × 65,536 + element, returned to what it was. -/
def Me.takeBack (m : Me) (x : Nat × Word × Word) : Me :=
  let half : Fin 2 := if x.1 < 65536 then 0 else 1
  let h := m.acb[half]
  { m with acb := m.acb.set half { h with elts := Machine.takeBack (fun _ => 0) h.elts (x.1 % 65536, x.2) } }

/-- A command still outstanding at a boundary is abandoned: the writes it has not made are dropped (03 R101; 04 R109; 06 R190). -/
def State.abandon (s : State) (c : Nat) (i : Issued) : State :=
  match i.undo with
  | none => s
  | some u =>
    let dm := decide (i.eng = .dm)
    let ws := firstPlaces (u.mem.map (·.1 / 256) ++ u.ecc.map (·.1 / 32))
    let rs := firstPlaces (u.acb.map (·.1 / 256))
    let kw := keptWords dm s.free ws
    let kr := keptWords false (s.free + ws.length) rs
    let rows := min u.rows (Config.grantedWords (s.free + ws.length + rs.length))
    let s1 := { s with
      mem := (u.mem.filter fun (x : Nat × Byte × Byte) => !kw.contains (x.1 / 256)).foldl (takeBack memDefault) s.mem
      ecc := (u.ecc.filter fun (x : Nat × Ecc × Ecc) => !kw.contains (x.1 / 32)).foldl (takeBack fun _ => Ecc.clean) s.ecc
      free := s.free + ws.length + rs.length + 1 }
    s1.updCore c fun k =>
      { k with me := (u.acb.filter fun (x : Nat × Word × Word) => !kr.contains (x.1 / 256)).foldl Me.takeBack k.me,
               ve := { k.ve with rowCount := k.ve.rowCount - BitVec.ofNat 40 (u.rows - rows) } }

/-- The commands still outstanding are abandoned, the one issued last first. -/
def State.abandonAll (s : State) : State :=
  s.cores.foldl (fun t x => x.2.issued.reverse.foldl (fun u i => u.abandon x.1 i) t) s

/-- The cores start the new period. -/
def State.startCores (s : State) : State :=
  let run := s.runningCores
  (run ++ (s.cores.map (·.1)).filter fun c => !run.contains c).foldl
    (fun t c => t.updCore c fun k => k.boundary (run.contains c) (decide (s.beat.kind = 1 ∨ s.beat.kind = 2))) s

/-- The remote windows in effect for the new beat are those last written (05 R159). -/
def State.loadWindows (s : State) : State :=
  let ws := ((List.range 64).map fun n => (n, (s.rd (rTetherRwinCtl n), s.rd (rTetherRwinBase n), s.rd (rTetherRwinSize n)))).filter
    fun x => decide (x.2 ≠ ((0 : Word), (0 : Word), (0 : Word)))
  { s with tether := { s.tether with rwin := ws } }

/-- The tables of the beat that is replayed are there from its boundary on (13 R371, R374). -/
def State.resendTables (s : State) : State :=
  { s with rt := { s.rt with tables := s.rt.tables.map fun t => { t with sent := 0, ready := 0, late := false } } }

/-- Steps 5 to 7 of a boundary for the period that opens, and what reads return from it on (11 R329; 13 R358; 11 R321, R326); RETRY
and ABANDON of reel orders take effect (14 R419, R420). -/
def State.openPeriod (s : State) : State :=
  let s1 := (s.partBoundary.loadWindows.startCores.rlControls).mapPg fun q => { q with view := none }
  let s2 := if s1.beat.kind = 1 then s1.workStep else if s1.beat.kind = 2 then s1.resendTables else s1
  let s3 := { s2 with flags := { s2.flags with opening := s2.flags.value } }
  s3.snapshot.drainWarns.drainStalled

/-- Step 4 of a boundary: the kind of the coming period (11 R330). -/
def State.fixKind (s : State) (skip : Bool) : State :=
  if !s.beat.joined then s
  else
    let kind := if skip then 3 else if s.beat.replayNext then 2 else 1
    let s1 := { s with beat := { s.beat with kind := kind, period := s.beat.period + 1 } }
    if kind = 3 then s1.bump rTbSkipCount else if kind = 2 then s1.bump rTbReplayCount else s1

/-- A boundary of a joined device (11 R329). -/
def State.boundary (s : State) : State :=
  let s1 := s.toCut.landFlags.abandonAll.lostRounds
  let s2 := s1.toTc s1.nextBoundary
  let v := s2.verdict
  let skip := s2.view.skip
  let s3 := s2.flushGathered.dgBoundary (match v with
    | .replay => true
    | .fault _ _ => true
    | _ => false)
  let s4 := (s3.applyVerdict v).mapPg PgPart.ageQuiet
  let s5 := { s4 with flags := { s4.flags with recorded := s4.flags.value } }
  ((s5.skipStorm.closeStretch.fixKind skip).clearPeriod).openPeriod

/-- START_TC (10 R299, R303; 11 R327, R330): the tables begin to play, the first beat starts with the number START carries. Events
from before the flight are not part of its status, and digest periods of an earlier flight are closed; a port that has lost its
neighbour since it was aligned puts the device into the flight-fault condition (10 R304). -/
def State.startFlight (s : State) (t : DWord) : State :=
  let s1 := s.toTc t
  let s2 := State.dgBoundary { s1 with beat := { s1.beat with period := BitVec.ofNat 64 (2 ^ 64 - 1) } } true
  let s3 := { s2 with
    dg := { s2.dg with past := [] }
    tb := { s2.tb with stretch := Vector.replicate 16 0 }
    beat := { Beat.reset with joined := true, kind := 1, bno := s2.tether.join.first, startTc := t,
                              lastCommit := s2.beat.lastCommit, skipSet := s2.beat.skipSet } }
  let s4 := s3.portsEn.foldl (fun u p =>
      let v := u.updPort p fun x => { x with st := if x.st = 3 then 4 else x.st, joined := true }
      if (u.port p).lost then v.enterCond 1 p.val else v)
    (s3.updJoin fun j => { j with step := 6 })
  let s5 := { s4 with flags := { s4.flags with recorded := s4.flags.value } }
  s5.clearPeriod.openPeriod

end Sys2Proof.Machine
end

