-- ==== Sys2Proof/Machine/Beat.lean ====
section
/-! DEFINITION. The events of the beat and its status (06 R171; 10 R294 to R297, R303; 11 R327 to R332). They are events of a joined
device; on one that is not joined they do not occur. -/

namespace Sys2Proof.Machine

open Sys2Proof

/-- START_TC_REACHED: at START_TC the first beat starts (10 R299, R303). -/
def execStartTcReached (s : State) : Res :=
  match s.tether.join.startTc with
  | some t => .next (if s.tether.join.step = 5 then s.startFlight t else s)
  | none => .next s

/-- GUARD_BAND_START: G of the period in progress (06 R171; 11 R328). -/
def execGuardBandStart (s : State) : Res := .next (if s.beat.joined ∧ !s.beat.inGuard then s.guardStart else s)

/-- STATUS_CUT: G + 8 tc (10 R294; 14 R412). -/
def execStatusCut (s : State) : Res := .next (if s.beat.joined ∧ !s.beat.cut then s.toCut else s)

/-- STATUS_ROUND_SEND: round r leaves (10 R294, R295). -/
def execStatusRoundSend (r : Nat) (s : State) : Res :=
  .next (if s.beat.joined ∧ 1 ≤ r ∧ r ≤ s.rounds then s.toCut.sendRound r else s)

/-- STATUS_CELL: a copy of a round becomes usable (10 R295, R296). -/
def execStatusCell (c : CellIn) (s : State) : Res :=
  .next (if s.beat.joined ∧ (s.port c.port).joined ∧ s.portEn c.port ∧ 2 ≤ (s.port c.port).st then s.takeStatus c else s)

/-- BEAT_BOUNDARY: the boundary that ends the period in progress and opens the next (11 R329). -/
def execBeatBoundary (s : State) : Res := .next (if s.beat.joined then s.boundary else s)

end Sys2Proof.Machine
end

