-- ==== Sys2Proof/Machine/DmRun.lean ====
section
/-! DEFINITION. What the data mover's commands do when they issue (06 R187 to R190). -/

namespace Sys2Proof.Machine

open Sys2Proof

/-- The DM carried a poisoned granule: DM_STATUS.POISON (06 R199). -/
def State.dmPoison (s : State) (c : Nat) (b : Bool) : State := if b then s.setBit (rDmStatus c) 1 else s

/-- Bytes moved within a slice (05 R151; 06 R188): the granules read are checked, poisoned ones are stored poisoned. -/
def State.moveBytes (s : State) (c dst src n : Nat) : State :=
  let bad := ((List.range (ceilDiv n 8)).filter fun i => s.bytePoisoned c (src + 8 * i)).map fun i => dst + 8 * i
  let s1 := (s.touchRanges c [(src, n)]).dmPoison c (!bad.isEmpty)
  (s1.writeAt c (spread dst (s.readBytes c src n))).poisonAt c bad

/-- Zero written with valid check bits (05 R162). -/
def State.zeroBytes (s : State) (c dst n : Nat) : State := s.writeAt c (spread dst (List.replicate n 0))

/-- dm.copy at issue (06 R187, R188): limits, source, destination, overlap. -/
def State.issueDmCopy (s : State) (c : Nat) (e : QEntry) (dst src n : Nat) : State :=
  if dst % 32 ≠ 0 ∨ src % 32 ≠ 0 ∨ n % 32 ≠ 0 ∨ n = 0 ∨ 16777184 < n then s.failCmd c .dm e ⟨0x50, 0⟩
  else
    match s.checkRange c src n with
    | some x => s.failCmd c .dm e x
    | none =>
      match s.checkRange c dst n with
      | some x => s.failCmd c .dm e x
      | none =>
        if src < dst + n ∧ dst < src + n then s.failCmd c .dm e ⟨0x51, 0⟩
        else (s.moveBytes c dst src n).start c .dm e .timed

/-- dm.zero at issue (06 R187, R188; 05 R162). -/
def State.issueDmZero (s : State) (c : Nat) (e : QEntry) (dst n : Nat) : State :=
  if dst % 256 ≠ 0 ∨ n % 256 ≠ 0 ∨ n = 0 then s.failCmd c .dm e ⟨0x50, 0⟩
  else
    match s.checkRange c dst n with
    | some x => s.failCmd c .dm e x
    | none => (s.zeroBytes c dst n).start c .dm e .timed

/-- Is a block size one of the powers of two from 256 bytes to 256 KiB (06 R187)? -/
def blockSize (b : Nat) : Bool := (List.range 11).any fun i => decide (b = 2 ^ (i + 8))

/-- The index list of a gather or scatter. -/
def State.indexList (s : State) (c list count : Nat) : List Nat :=
  (List.range count).map fun i => s.readLe c (list + 4 * i) 4

/-- Do the operands of a gather or scatter break a limit of 06 R187? -/
def blockLimits (base list count b other : Nat) : Bool :=
  !blockSize b || decide (count = 0 ∨ 4096 < count) || decide (base % b ≠ 0 ∨ other % b ≠ 0 ∨ list % 4 ≠ 0)

/-- The ranges of the blocks a list names. -/
def namedBlocks (base b : Nat) (idx : List Nat) : List (Nat × Nat) :=
  (idx.filter fun i => decide (i ≠ 0xFFFFFFFF)).map fun i => (base + i * b, b)

/-- dm.gather at issue (06 R187, R188): the list, the blocks it names, the destination; blocks in ascending i. -/
def State.issueDmGather (s : State) (c : Nat) (e : QEntry) (mz : Bool) (dst base list count b : Nat) : State :=
  if blockLimits base list count b dst then s.failCmd c .dm e ⟨0x50, 0⟩
  else
    let idx := s.indexList c list count
    match s.slcCheck c ((list, 4 * count) :: namedBlocks base b idx ++ [(dst, count * b)]) with
    | some x => s.failCmd c .dm e x
    | none =>
      let s1 := s.touchRanges c [(list, 4 * count)]
      let ran := ((List.range count).zip idx).foldl (fun t p =>
        if p.2 = 0xFFFFFFFF then (if mz then t.zeroBytes c (dst + p.1 * b) b else t)
        else t.moveBytes c (dst + p.1 * b) (base + p.2 * b) b) s1
      ran.start c .dm e .timed

/-- dm.scatter at issue (06 R187, R188): the list, the source, the blocks it names; a later block of one index stands. -/
def State.issueDmScatter (s : State) (c : Nat) (e : QEntry) (base list count b src : Nat) : State :=
  if blockLimits base list count b src then s.failCmd c .dm e ⟨0x50, 0⟩
  else
    let idx := s.indexList c list count
    match s.slcCheck c ((list, 4 * count) :: (src, count * b) :: namedBlocks base b idx) with
    | some x => s.failCmd c .dm e x
    | none =>
      let s1 := s.touchRanges c [(list, 4 * count)]
      let ran := ((List.range count).zip idx).foldl (fun t p =>
        if p.2 = 0xFFFFFFFF then t else t.moveBytes c (base + p.2 * b) (src + p.1 * b) b) s1
      ran.start c .dm e .timed

/-- The devices of the flight (06 R189; 10 R298): those of the flight whose tag the port registers hold. -/
def State.flightDevs (s : State) : List Nat := Config.flightChips (fld (s.rd rTetherChip) 10 16)

/-- dm.rput at issue (06 R187 to R189; 10 R292): the cells are queued in order toward the chip. -/
def State.issueDmRput (s : State) (c : Nat) (e : QEntry) (chip win off src n : Nat) : State :=
  if 1023 < chip ∨ 63 < win ∨ off % 256 ≠ 0 ∨ src % 256 ≠ 0 ∨ n % 32 ≠ 0 ∨ n = 0 ∨ 16777184 < n then
    s.failCmd c .dm e ⟨0x50, 0⟩
  else
    match s.checkRange c src n with
    | some x => s.failCmd c .dm e x
    | none =>
      let p := s.partNo c
      if !s.ownsSlot p 2 chip || !(s.flightDevs.contains chip) then s.failCmd c .dm e ⟨0x52, 0⟩
      else
        let cells := (List.range (ceilDiv n 256)).map fun j =>
          let len := min 256 (n - 256 * j)
          let bad := (List.range (len / 8)).any fun i => s.bytePoisoned c (src + 256 * j + 8 * i)
          (⟨p, chip, win, off + 256 * j, s.readBytes c (src + 256 * j) len, bad, c, e.id,
            decide (256 * (j + 1) ≥ n)⟩ : DmaOut)
        let s1 := (s.touchRanges c [(src, n)]).dmPoison c (cells.any (·.poison))
        { s1 with tether := { s1.tether with dmaOut := s1.tether.dmaOut ++ cells } }.start c .dm e .leave

end Sys2Proof.Machine
end

