-- ==== Sys2Proof/Machine/Seq.lean ====
section
/-! DEFINITION. The sequencer's own operations: predicates, counters, loops, when a command may dispatch, how the stream
position moves (06 R169 to R186). -/

namespace Sys2Proof.Machine

open Sys2Proof

/-- A comparison of `sq.cmp` and `sq.kset` (06 R180). -/
def cmpVal (op : CmpOp) (a b : Word) : Bool :=
  match op with
  | .eq => decide (a = b)
  | .ne => decide (a ≠ b)
  | .lt => decide (a.toInt < b.toInt)
  | .le => decide (a.toInt ≤ b.toInt)
  | .gt => decide (b.toInt < a.toInt)
  | .ge => decide (b.toInt ≤ a.toInt)
  | .ltu => decide (a.toNat < b.toNat)
  | .leu => decide (a.toNat ≤ b.toNat)
  | .gtu => decide (b.toNat < a.toNat)
  | .geu => decide (b.toNat ≤ a.toNat)
  | .snlt => decide (1 ≤ (b - a).toNat ∧ (b - a).toNat < 2 ^ 31)
  | .sngt => decide (1 ≤ (a - b).toNat ∧ (a - b).toNat < 2 ^ 31)

/-- The value of an operand now (06 R174). -/
def Sq.opnd (q : Sq) : Opnd → Word
  | .imm w => w
  | .ctr n => q.ctr[n]

/-- The value of a predicate source at dispatch: P0 is true, an inactive comparator false (06 R178, R180). -/
def Sq.src (q : Sq) : PSrc → Bool
  | .p n => decide (n.val = 0) || q.pred[n]
  | .k n =>
    match q.cmps[n] with
    | some c => cmpVal c.op q.ctr[c.ctr] (q.opnd c.b)
    | none => false

/-- Does a command's predicate let it run (06 R178)? -/
def Sq.passes (q : Sq) (p : Option Pred) : Bool :=
  match p with
  | some x => if x.neg then !q.src x.src else q.src x.src
  | none => true

/-- The counters an operand names. -/
def Opnd.ctrs : Opnd → List Ctr
  | .imm _ => []
  | .ctr n => [n]

/-- The counters a predicate source reads: those of a live comparator (06 R180). -/
def Sq.srcCtrs (q : Sq) : PSrc → List Ctr
  | .p _ => []
  | .k n =>
    match q.cmps[n] with
    | some c => c.ctr :: Opnd.ctrs c.b
    | none => []

/-- The counters a predicate reads. -/
def Sq.predCtrs (q : Sq) (p : Option Pred) : List Ctr :=
  match p with
  | some x => q.srcCtrs x.src
  | none => []

/-- May a command of the stream dispatch now (06 R170 to R173): the core runs, the stream has not ended and is not held, the
command's words have arrived, and the counters it or its predicate names are loaded? -/
def State.canDispatch (s : State) (h : Hdr) (cs : List Ctr) : Bool :=
  let q := (s.core h.core).sq
  s.coreRuns h.core && q.run && !q.ended && !q.poison && q.hold.isNone && decide (h.words ≤ q.avail)
    && !q.waits (q.predCtrs h.pred) && (!q.passes h.pred || !q.waits cs)

/-- The stream with the command that stands at the SQ and may not dispatch yet noted, where only its words or counters are
awaited (06 R173, R198). -/
def State.noteStall (s : State) (h : Hdr) (cs : List Ctr) : State :=
  let q := (s.core h.core).sq
  if s.coreRuns h.core && q.run && !q.ended && !q.poison && q.hold.isNone then
    s.updCore h.core fun k => { k with sq := { k.sq with stall := some ⟨h.words, q.predCtrs h.pred ++ if q.passes h.pred then cs else [], none⟩ } }
  else s

/-- The stream after a command's words, at the back edges that end there (06 R181, R182): the innermost loop first, of those
opened in the present call. -/
def Sq.edge (q : Sq) (pc avail : Nat) : List Loop → Sq
  | [] => { q with pc := pc, avail := avail, loops := [] }
  | l :: r =>
    let floor := match q.stack with
      | f :: _ => f.loops
      | [] => 0
    if l.stop = pc ∧ floor < r.length + 1 then
      if l.idx + 1 < l.count then
        let body := l.stop - l.start
        { q with pc := l.start, avail := if body ≤ 128 then body + avail else 0,
                 loops := { l with idx := l.idx + 1 } :: r }
      else Sq.edge q pc avail r
    else { q with pc := pc, avail := avail, loops := l :: r }

/-- The stream moves past a command of so many words. -/
def Sq.past (q : Sq) (words : Nat) : Sq := { q with stall := none }.edge (q.pc + words) (q.avail - words) q.loops

/-- The stream moves to a target (06 R183); the loop buffer and fetch buffer hold nothing of it yet. -/
def Sq.jumpTo (q : Sq) (pc : Nat) : Sq := { q with pc := pc, avail := 0, stall := none }

/-- The stream continues after the end of a loop's body that is skipped (06 R178, R181). -/
def Sq.skipTo (q : Sq) (stop : Nat) : Sq := { q with stall := none }.edge stop 0 q.loops

/-- The state with a core's sequencer changed. -/
def State.updSq (s : State) (c : Nat) (f : Sq → Sq) : State := s.updCore c fun k => { k with sq := f k.sq }

/-- The stream of a core moves past a command. -/
def State.pastCmd (s : State) (h : Hdr) : State := s.updSq h.core fun q => q.past h.words

/-- The iteration index of a loop; 0 when it is inactive (06 R179). -/
def Sq.lidx (q : Sq) (l : Fin 4) : Nat :=
  match q.loops.find? fun x => decide (x.reg = l) with
  | some x => x.idx
  | none => 0

end Sys2Proof.Machine
end

