-- ==== Sys2Proof/Machine/Queue.lean ====
section
/-! DEFINITION. Dispatch into the engine queues and issue from them (06 R173 to R176; 08 R218 to R229), and the commands
SQ_FETCH, ENGINE_ISSUE and COMMAND_COMPLETE. -/

namespace Sys2Proof.Machine

open Sys2Proof

/-! ### Issue -/

/-- Is the entry's scoreboard wait over (08 R222)? -/
def Core.afterMet (k : Core) (e : QEntry) : Bool :=
  match e.after with
  | some (sb, n) => decide (n ≤ k.done[sb])
  | none => true

/-- Is the entry's `.ord` wait over (08 R228, R229)? -/
def Core.ordMet (k : Core) (e : QEntry) : Bool := !e.ord || k.ordFree e.id (hulls e.cmd).1 (hulls e.cmd).2

/-- Does a command of the matrix engine write a half of the accumulator buffer (03 R73)? -/
def ECmd.writesHalf (half : Fin 2) : ECmd → Bool
  | .mxWs x => decide (x.half = half)
  | .mxOs x => decide (x.half = half)
  | .mxClear h _ => decide (h = half)
  | _ => false

/-- Does the engine itself let the command issue (03 R73, R94, R95; 08 R219, R239, R241; 10 R291)? -/
def State.engineFree (s : State) (c : Nat) (eng : Engine) (e : QEntry) : Bool :=
  let k := s.core c
  match eng with
  | .me => !(k.issued.any fun i => decide (i.finish = .sheet ∨ i.finish = .join)) &&
      (match e.cmd with
       | .mxSheet _ => !k.busy .me
       | .mxSheetOff => !k.busy .me
       | .mxClear half _ => !(k.issued.any fun i => i.cmd.writesHalf half)
       | _ => true)
  | .ve => true
  | .dm => !k.busy .dm
  | .lp => true
  | .se => !(k.issued.any fun i => decide (i.finish = .wait ∨ i.finish = .fence)) &&
      (match e.cmd with
       | .seRsig _ _ _ => decide (s.tether.sigOut.length < 256)
       | _ => true)

/-- May the engine issue the entry now (06 R171, R175; 08 R222, R228)? -/
def State.mayIssue (s : State) (c : Nat) (eng : Engine) (e : QEntry) : Bool :=
  s.coreRuns c && (s.core c).afterMet e && (s.core c).ordMet e && s.engineFree c eng e

/-- The effect of a command as its engine issues it. -/
def State.runCmd (s : State) (c : Nat) (e : QEntry) : State :=
  match e.cmd with
  | .mxLoad x => s.issueMxLoad c e x
  | .mxWs x => s.issueMxWs c e x
  | .mxOs x => s.issueMxOs c e x
  | .mxClear _ _ => s.issueMxClear c e
  | .mxSheet sid => s.issueMxSheet c e sid
  | .mxSheetOff => s.issueMxSheetOff c e
  | .vxLd _ vd src => s.issueVxLd c e vd src
  | .vxSt x mz vs dst m => s.issueVxSt c e x mz vs dst m
  | .vxBcast vd v => s.issueVxFill c e vd fun _ _ => ⟨v, false⟩
  | .vxIota vd => s.issueVxFill c e vd fun _ j => ⟨BitVec.ofNat 32 j, false⟩
  | .vxMov vd vs => s.issueVxFill c e vd fun k j => k.lane vs j
  | .vxCtx x lo hi erow key => s.issueVxCtx c e x lo hi erow key
  | .vxRun x => s.issueVxRun c e x
  | .vxRed x => s.issueVxRed c e x
  | .vxScan x => s.issueVxScan c e x
  | .vxSmStat vm vs src rows m => s.issueVxSmStat c e vm vs src rows m
  | .vxSmMerge vm vs vm2 vs2 va1 va2 => s.issueVxSmMerge c e vm vs vm2 vs2 va1 va2
  | .vxSmNorm dst src vm vs rows m => s.issueVxSmNorm c e dst src vm vs rows m
  | .vxSmFinal dst src vs rows => s.issueVxSmFinal c e dst src vs rows
  | .vxSmLse vd vm vs => s.issueVxSmLse c e vd vm vs
  | .vxDigPost n layer tensor => s.issueVxDigPost c e n layer tensor
  | .dmCopy dst src n => s.issueDmCopy c e dst.toNat src.toNat n.toNat
  | .dmZero dst n => s.issueDmZero c e dst.toNat n.toNat
  | .dmGather mz dst base list count b => s.issueDmGather c e mz dst.toNat base.toNat list.toNat count.toNat b.toNat
  | .dmScatter base list count b src => s.issueDmScatter c e base.toNat list.toNat count.toNat b.toNat src.toNat
  | .dmRput chip win off src n => s.issueDmRput c e chip.toNat win.toNat off.toNat src.toNat n.toNat
  | .lpSend st src n => s.issueLpSend c e st src.toNat n.toNat
  | .lpArm st dst n add => s.issueLpArm c e st dst.toNat n.toNat add
  | .lpDisarm st => s.issueLpDisarm c e st
  | .seSet f v => s.issueFlag c e .set f v
  | .seAdd f n => s.issueFlag c e .add f n
  | .seWaitObs f v => s.issueFlag c e .obs f v
  | .seWaitTake f n => s.issueFlag c e .take f n
  | .seRsig chip f n => s.issueSeRsig c e chip f n
  | .seFenceQ _ => s.start c .se e .fence
  | .seFenceAll => s.start c .se e .fence
  | .seFenceRemote => s.start c .se e .fence

/-- The global ranges that a command writes one after another, where that is not the order of addresses: the blocks of a scatter
(06 R188). -/
def State.writeOrder (s : State) (c : Nat) : ECmd → List (Nat × Nat)
  | .dmScatter base list count b _ =>
    (namedBlocks base.toNat b.toNat (s.indexList c list.toNat count.toNat)).flatMap fun r => s.globalRanges c r.1 r.2
  | _ => []

/-- Keyed entries in the order of the ranges that hold their keys, the others after them. -/
def inOrder {α : Type} (rs : List (Nat × Nat)) (xs : List (Nat × α)) : List (Nat × α) :=
  let inR (x : Nat × α) (r : Nat × Nat) : Bool := decide (r.1 ≤ x.1) && decide (x.1 < r.2)
  rs.flatMap (fun r => xs.filter (inR · r)) ++ xs.filter fun x => !rs.any (inR x)

/-- What an accumulator buffer held before and holds after, by half × 65,536 + element. -/
def Me.acbDiff (m n : Me) : List (Nat × Word × Word) :=
  Sparse.diff (fun _ => (0 : Word)) m.acb[0].elts n.acb[0].elts
    ++ (Sparse.diff (fun _ => (0 : Word)) m.acb[1].elts n.acb[1].elts).map fun x => (65536 + x.1, x.2)

/-- Was the command set running, as one whose completion is a matter of time alone, since the core was as `k`? -/
def Core.newRun (k : Core) (i : Issued) : Bool := decide (i.finish = .timed ∧ i.undo = none) && !k.issued.contains i

/-- The commands that an issue has set running remember what their writes replaced (03 R101; 04 R109; 06 R190): `s` is the state
before, core `c` issued the command. -/
def State.remember (s t : State) (c : Nat) (order : List (Nat × Nat)) : State :=
  let mem := inOrder order (Sparse.diff memDefault s.mem t.mem)
  let ecc := Sparse.diff (fun _ => Ecc.clean) s.ecc t.ecc
  t.cores.foldl (fun u x =>
    if x.2.issued.any (s.core x.1).newRun then
      let own := decide (x.1 = c)
      let un : Undo := ⟨if own then mem else [], if own then ecc else [], (s.core x.1).me.acbDiff x.2.me,
        x.2.ve.rowCount.toNat - (s.core x.1).ve.rowCount.toNat⟩
      u.setCore x.1 { x.2 with issued := x.2.issued.map fun i => if (s.core x.1).newRun i then { i with undo := some un } else i }
    else u) t

/-- The head of an engine's queue issues, where it may. -/
def State.issueHead (s : State) (c : Nat) (eng : Engine) : State :=
  match (s.core c).queue eng with
  | [] => s
  | e :: r =>
    if s.mayIssue c eng e then
      (s.remember ((s.updCore c fun k => k.setQueue eng r).runCmd c e) c (s.writeOrder c e.cmd)).updCore c Core.noteCounts
    else s

/-! ### Dispatch -/

/-- A high-water mark field raised to a value (06 R175, R198). -/
def State.hwm (s : State) (c : Nat) (eng : Engine) (n : Nat) : State :=
  let a := if eng = .se then rSqQhwmB c else rSqQhwmA c
  let l := match eng with
    | .me => 0
    | .ve => 8
    | .dm => 16
    | .lp => 24
    | .se => 0
  if fld (s.rd a) l 7 < n then s.wrF a l 7 n else s

/-- The command enters the tracking table, which overflows when it is full (08 R227, R229); SE commands do not enter. -/
def Core.trackCmd (k : Core) (id : Nat) (rd wr : List Hull) : Core :=
  if k.track.length < 64 then { k with track := k.track ++ [⟨id, rd, wr⟩] } else { k with ordOvf := true }

/-- A command is placed in its engine's queue with its operands fixed (06 R174 to R176; 08 R222, R227); into a full queue it
does not enter, which is QUEUE_OVERRUN; its status is FAULT and its mark counts as complete (R194). -/
def State.enqueue (s : State) (h : Hdr) (eng : Engine) (cmd : ECmd) : State :=
  let c := h.core
  let k := s.core c
  let q := k.queue eng
  let after := h.after.map fun sb => (sb, k.marked[sb])
  let mark (k : Core) : Core := match h.mark with
    | some m => { k with marked := k.marked.set m (k.marked[m] + 1) }
    | none => k
  let done (k : Core) : Core := match h.mark with
    | some m => { k with done := k.done.set m (k.done[m] + 1) }
    | none => k
  if 64 ≤ q.length then
    (s.coreFault c 0x10 0 k.sq.pc).updCore c fun k =>
      let k1 := done (mark k)
      { k1 with sq := { k1.sq with seq := k1.sq.seq + 1 }, ends := k1.ends ++ [(k1.sq.seq, .fault)] }
  else
    let e : QEntry := ⟨k.sq.seq, k.sq.pc, cmd, h.mark, after, h.ord⟩
    let s1 := s.updCore c fun k =>
      let k1 := (mark k).setQueue eng (q ++ [e])
      let k2 : Core := { k1 with sq := { k1.sq with seq := k1.sq.seq + 1 } }
      (if eng = .se then k2 else k2.trackCmd e.id (hulls cmd).1 (hulls cmd).2).noteCounts
    s1.hwm c eng (q.length + 1)

/-- A command of an engine at the SQ (06 R173, R178): one that may not dispatch yet stands there; one whose predicate is
false is skipped whole; else it enters its queue, and where it is alone there and `now` is set its engine issues it. -/
def State.dispatch (s : State) (h : Hdr) (eng : Engine) (ops : List Opnd) (mk : (Opnd → Word) → ECmd) : State :=
  let q := (s.core h.core).sq
  if !s.canDispatch h (ops.flatMap Opnd.ctrs) then s.noteStall h (ops.flatMap Opnd.ctrs)
  else if !q.passes h.pred then s.pastCmd h
  else
    let s1 := (s.enqueue h eng (mk q.opnd)).pastCmd h
    if h.now && ((s.core h.core).queue eng).isEmpty then s1.issueHead h.core eng else s1

/-! ### Commands -/

/-- SQ_FETCH: the next narrow word of the stream arrives (06 R172, R196): checked, translated; poison stops the SQ for the
beat. -/
def execSqFetch (core : Nat) (s : State) : Res :=
  let q := (s.core core).sq
  if s.coreRuns core && q.run && !q.ended && !q.poison && decide (q.avail < 16) then
    let a := (q.entry + (q.pc + q.avail) * 8) % 2 ^ 32
    let bad := s.bytePoisoned core a
    let s1 := s.touchRanges core [(a, 8)]
    if bad then
      let s2 := (s1.setBit (rSqStatus core) 7).gather 0x14 0 0 (s.partNo core) core (BitVec.ofNat 32 q.pc)
      .next (s2.failBeat.updSq core fun q => { q with poison := true })
    else
      let s2 := match s.checkRange core a 8 with
        | some x => s1.sliceFault core x q.pc
        | none => s1
      .next (s2.updSq core fun q => { q with avail := q.avail + 1 })
  else .next s

/-- ENGINE_ISSUE: an engine issues the command at the head of its queue once it may (06 R175; 08 R220, R222, R228). -/
def execEngineIssue (core : Nat) (eng : Engine) (s : State) : Res := .next (s.issueHead core eng)

/-- COMMAND_COMPLETE: an issued command whose completion is a matter of time alone is complete: it marks, and leaves the
tracking table (08 R218, R222, R227). -/
def execCommandComplete (core : Nat) (eng : Engine) (id : Nat) (s : State) : Res :=
  match (s.core core).issued.find? fun i => decide (i.id = id) && decide (i.eng = eng) && decide (i.finish = .timed) with
  | some i => .next (s.finishIssued core i)
  | none => .next s

end Sys2Proof.Machine
end

