-- ==== Sys2Proof/Machine/Dm.lean ====
section
/-! DEFINITION. The commands of the data mover, as the stream gives them (06 R187). -/

namespace Sys2Proof.Machine

open Sys2Proof

/-- DM_COPY (06 R187, R188). -/
def execDmCopy (h : Hdr) (dst src bytes : Opnd) (s : State) : Res :=
  .next (s.dispatch h .dm [dst, src, bytes] fun v => .dmCopy (v dst) (v src) (v bytes))

/-- DM_ZERO (06 R187; 05 R162). -/
def execDmZero (h : Hdr) (dst bytes : Opnd) (s : State) : Res :=
  .next (s.dispatch h .dm [dst, bytes] fun v => .dmZero (v dst) (v bytes))

/-- DM_GATHER (06 R187). -/
def execDmGather (h : Hdr) (mz : Bool) (dst base list count bsize : Opnd) (s : State) : Res :=
  .next (s.dispatch h .dm [dst, base, list, count, bsize]
    fun v => .dmGather mz (v dst) (v base) (v list) (v count) (v bsize))

/-- DM_SCATTER (06 R187). -/
def execDmScatter (h : Hdr) (base list count bsize src : Opnd) (s : State) : Res :=
  .next (s.dispatch h .dm [base, list, count, bsize, src]
    fun v => .dmScatter (v base) (v list) (v count) (v bsize) (v src))

/-- DM_RPUT (06 R189). -/
def execDmRput (h : Hdr) (chip win off src bytes : Opnd) (s : State) : Res :=
  .next (s.dispatch h .dm [chip, win, off, src, bytes] fun v => .dmRput (v chip) (v win) (v off) (v src) (v bytes))

end Sys2Proof.Machine
end

