-- ==== Sys2Proof/Machine/Eth.lean ====
section
/-! DEFINITION. The commands of the Ethernet ports (15 R422 to R424). -/

namespace Sys2Proof.Machine

open Sys2Proof

/-- The link-local address of a network, from the MAC address of its first port (15 R423; the form is RFC 4291's, log
entry 12). -/
def State.linkLocal (s : State) (net : Fin 2) : List Byte :=
  let m := beNat 6 (s.fuses.mac + 4 * net.val)
  let first : Byte := byteAt m 0 ^^^ 2
  [0xFE, 0x80, 0, 0, 0, 0, 0, 0] ++ [first] ++ (m.drop 1).take 2 ++ [0xFF, 0xFE] ++ m.drop 3

/-- The IPv6 address of a network: its register, or the link-local address where that is 0 (15 R423, R443). -/
def State.ip6 (s : State) (net : Fin 2) : List Byte :=
  let w := (s.rd (rIoNetIp60 net)).toNat + (s.rd (rIoNetIp61 net)).toNat * 2 ^ 32 + (s.rd (rIoNetIp62 net)).toNat * 2 ^ 64
    + (s.rd (rIoNetIp63 net)).toNat * 2 ^ 96
  if w = 0 then s.linkLocal net else beNat 16 w

/-- The IPv4 address of a network, where it has one. -/
def State.ip4 (s : State) (net : Fin 2) : Option (List Byte) :=
  let w := (s.rd (rIoNetIp4 net)).toNat
  if w = 0 then none else some (beNat 4 w)

/-- The network with the address: that of a port, or the one whose flows the port carries (15 R423, R424). -/
def State.answers (s : State) (ep : Fin 8) (v6 : Bool) (a : List Byte) : Option (Fin 2) :=
  let nets := netOf ep :: (if s.borrowed ep.val then [1 - netOf ep] else [])
  nets.find? fun n => if v6 then decide (s.ip6 n = a) else decide (s.ip4 n = some a)

/-- A frame sent by a port of its own choice, and counted (15 R443). -/
def State.sendBy (s : State) (ep : Nat) (o : Output) : State := { (s.bump (rIoEpTx ep)) with out := s.out ++ [o] }

/-- The frames by which the addresses of a network are announced on a port: the neighbour advertisement, and the gratuitous ARP where
it has an IPv4 address (15 R424). -/
def State.announceOn (net : Fin 2) (s : State) (ep : Nat) : State :=
  let s1 := s.sendBy ep (.announce (Fin.ofNat 8 ep) (s.vlanTag net) net true)
  if (s.ip4 net).isSome then s1.sendBy ep (.announce (Fin.ofNat 8 ep) (s.vlanTag net) net false) else s1

/-- The advertisements of a network in failover, on each port that carries it (15 R424). -/
def State.announce (s : State) (net : Fin 2) : State := (s.upPorts (1 - net)).foldl (State.announceOn net) s

/-- PORT_UP: an enabled port has had its link for 100 ms (15 R424). -/
def execPortUp (ep : Fin 8) (s : State) : Res :=
  .next (if s.live ∧ bit (s.rd (rIoEpCfg ep)) 1 then (s.setBit (rIoEpState ep) 0).setBit (rIoEpState ep) 1 else s)

/-- PORT_DOWN: a port has had no link for 1 ms; its flows move, and where it was the last of its network the network is in
failover and its addresses are announced (15 R424). -/
def execPortDown (ep : Fin 8) (s : State) : Res :=
  let s1 := (s.clrBit (rIoEpState ep) 0).clrBit (rIoEpState ep) 1
  let n := netOf ep
  .next (if s1.failover n ∧ !s.failover n then s1.announce n else s1)

/-- FAILOVER_ANNOUNCE: the advertisements again, every second of a failover (15 R424). -/
def execFailoverAnnounce (net : Fin 2) (s : State) : Res := .next (if s.failover net then s.announce net else s)

/-- NEIGHBOUR_DISCOVERY: a solicitation or ARP request for an address of the device is answered (15 R423). -/
def execNeighbourDiscovery (q : NeighbourQuery) (s : State) : Res :=
  let f := s.frameIn q.ep q.vlan
  match f.2, f.1.answers q.ep q.v6 q.target with
  | true, some n => .next (f.1.sendBy q.ep (.neighbour q.ep (f.1.vlanTag n) q.v6 q.target))
  | _, _ => .next f.1

/-- The bytes of the frame of an echo request or reply: Ethernet header and check sequence, the tag, IP and ICMP headers, the data
(log entry 12). -/
def echoFrame (tagged v6 : Bool) (data : Nat) : Nat := 18 + 4 * bn tagged + (if v6 then 40 else 20) + 8 + data

/-- ICMP_ECHO: an echo request to an address of the device is answered (15 R423), unless the request is longer than the frames that
the device receives, or the reply than those it sends (15 R422). -/
def execIcmpEcho (q : EchoQuery) (s : State) : Res :=
  if 9216 < echoFrame q.vlan.isSome q.v6 q.data.length then .next s
  else
    let f := s.frameIn q.ep q.vlan
    match f.2, f.1.answers q.ep q.v6 q.dst with
    | true, some n =>
      if echoFrame (f.1.vlanTag n).isSome q.v6 q.data.length ≤ 4352 then
        .next (f.1.sendBy q.ep (.echo q.ep (f.1.vlanTag n) q.v6 q.src q.data))
      else .next f.1
    | _, _ => .next f.1

/-- PAUSE_FRAME: discarded and counted (15 R422, R443). -/
def execPauseFrame (ep : Fin 8) (s : State) : Res :=
  .next (if s.live && bit (s.rd (rIoEpCfg ep)) 1 then (s.bump (rIoEpRx ep)).bump (rIoEpPauseRx ep) else s)

end Sys2Proof.Machine
end

