-- ==== Sys2Proof/Machine/FwRun.lean ====
section
/-! DEFINITION. Attestation, log streams, firmware updates (16 R459 to R462, R464, R472). -/

namespace Sys2Proof.Machine

open Sys2Proof

/-- Exactly n bytes: cut, or filled with zeros. -/
def fit (n : Nat) (bs : List Byte) : List Byte := (bs ++ List.replicate (n - bs.length) 0).take n

/-- An image record of the report (16 R462). -/
def imageRec (kind bank : Nat) (version : Word) (svn cls : Nat) (digest : List Byte) : List Byte :=
  leBytes 1 kind ++ leBytes 1 bank ++ leBytes 2 0 ++ leBytes 4 version.toNat ++ leBytes 2 svn ++ leBytes 2 cls ++ leBytes 4 0
    ++ fit 32 digest

/-- The seven image records; the seventh is the configuration record (16 R462; log entry 65). -/
def State.imageRecs (s : State) : List Byte :=
  ((List.range 6).flatMap fun k =>
    let i := s.fwImg k
    imageRec (k + 1) (if i.absent then 0xFF else i.bank) i.version i.svn i.cls i.digest)
  ++ imageRec 7 (match s.mc.cfgCopy with
      | some k => 2 + k
      | none => 0xFF) s.mc.cfgSeq 0 0 s.mc.cfgDig

/-- Bytes [0, 640) of an attestation report (16 R462). -/
def State.reportBody (s : State) (nonce : List Byte) : List Byte :=
  leBytes 4 0x31525441 ++ leBytes 2 1 ++ leBytes 2 704 ++ fit 32 nonce ++ fit 8 s.deviceId ++ leBytes 1 s.fuses.lifecycle
    ++ leBytes 1 (fld (s.rd rMcStatus) 1 2) ++ leBytes 1 s.compatLevel ++ leBytes 1 0 ++ leBytes 4 s.mc.bootId.toNat
    ++ leBytes 8 s.tb.tc.toNat
    ++ leBytes 4 (s.regView rMcFeatId).toNat ++ leBytes 4 (s.regView rMcFeatUnits).toNat
    ++ ((List.range 16).flatMap fun x => leBytes 2 (s.fuses.colmap x))
    ++ ((List.range 6).flatMap fun k => leBytes 1 (s.fuses.minSvn.getD k 0)) ++ leBytes 1 s.fuses.revoke ++ leBytes 17 0
    ++ s.imageRecs ++ leBytes 4 (s.rd rScLogHead).toNat ++ leBytes 4 (s.rd rScLogLost).toNat ++ fit 32 s.sc.chain ++ leBytes 8 0
    ++ fit 64 s.fuses.idPub ++ fit 64 s.fuses.certSig

/-- A random number of a signature, from 1 to n − 1, of eight draws (16 R452; log entry 9). -/
def signNonce (rnd : Nat) : Nat :=
  ((List.range 8).foldl (fun a i => a * 2 ^ 32 + (Config.random (rnd + i)).toNat) 0) % (sm2N - 1) + 1

/-- A report stands in SC_REPORT, signed with the identity key (16 R452, R462, R477). -/
def State.report (s : State) (nonce : List Byte) : State :=
  let b := s.reportBody nonce
  let sig := sm2Sign (identityKey s.fuses.idSecret) (signNonce s.rnd) (fit 64 s.fuses.idPub) b
  let ws := wordsOf (b ++ sig) 176
  ((List.range 176).zip ws).foldl (fun t p => t.wr (rScReport p.1) p.2) { s with rnd := s.rnd + 8 }

/-! ### Streams of records (16 R472) -/

/-- Consecutive records from a number on, at most `fuel`: those the ring holds. -/
def gatherRecs (at_ : Word → Option (List Byte)) : Nat → Word → List Byte × Nat
  | 0, _ => ([], 0)
  | fuel + 1, n =>
    match at_ n with
    | none => ([], 0)
    | some b =>
      let r := gatherRecs at_ fuel (n + 1)
      (b ++ r.1, r.2 + 1)

/-- The bytes of a fault and event record by its number, while the ring holds it. -/
def State.evtAt (s : State) (n : Word) : Option (List Byte) :=
  match Sparse.get (fun _ => none) s.sc.evts (n.toNat % 4096) with
  | some (seq, e) => if seq = n then some (e.bytes seq) else none
  | none => none

/-- The bytes of a change-log record by its number, while the ring holds it. -/
def State.logAt (s : State) (n : Word) : Option (List Byte) :=
  match Sparse.get (fun _ => none) s.sc.logs (n.toNat % 16384) with
  | some (seq, r, ch) => if seq = n then some (logBytes seq r ++ ch) else none
  | none => none

/-- One EVENT message of a stream, where records wait for it: 1 events, 2 change log. Records overwritten are skipped; a message
carries as many as 4,160 bytes hold. -/
def State.streamOne (s : State) (i stream : Nat) : State :=
  match s.sessAt i with
  | none => s
  | some x =>
    let head := if stream = 1 then s.rd rScEvtHead else s.rd rScLogHead
    let cap := if stream = 1 then 4096 else 16384
    let from_ := if stream = 1 then x.fromEvt else x.fromLog
    let wait := (head - from_).toNat
    if !(decide (x.mask / stream % 2 = 1)) ∨ wait = 0 ∨ 2 ^ 31 ≤ wait then s
    else
      let first := if cap < wait then head - BitVec.ofNat 32 cap else from_
      let r := gatherRecs (if stream = 1 then s.evtAt else s.logAt) (if stream = 1 then 129 else 64) first
      let next := first + BitVec.ofNat 32 (max 1 r.2)
      let s1 := s.setSess i (some (if stream = 1 then { x with fromEvt := next } else { x with fromLog := next }))
      if r.2 = 0 then s1
      else s1.sendTo i ⟨0, 9, false, leBytes 1 stream ++ leBytes 1 r.2 ++ leBytes 2 0 ++ leBytes 4 first.toNat ++ r.1, [], []⟩

/-- Every stream of every session sends what waits, one message each. -/
def State.streams (s : State) : State :=
  (List.range 64).foldl (fun t i => (t.streamOne i 1).streamOne i 2) s

/-! ### Updates (16 R460) -/

/-- An operation of R459 completes OK and is entered in the change log (16 R459, R465). -/
def State.fwDone (s : State) (o : Origin) (uid : Nat) (tag : Word) (op arg : Nat) : State :=
  (s.log o 9 0xFF (BitVec.ofNat 32 op) 0 0).complete uid tag op 0 0 0 arg

/-- An operation of R459 is refused with a code. -/
def State.fwRefuse (s : State) (uid : Nat) (tag : Word) (op code : Nat) : State := s.complete uid tag op 1 code 0 0

/-- The kinds the descriptor of a bank lists. -/
def State.bankKinds (s : State) (b : Nat) : List Nat :=
  ((List.range 7).map fun i => leNat (s.flashBytes (bankBase b + 8 + 12 * i) 1)).filter fun k => decide (1 ≤ k ∧ k ≤ 6)

/-- The code with which FW_COMMIT is refused; 0 where it is not (16 R459, R460). -/
def State.commitCheck (s : State) (uid handle : Nat) : Nat :=
  match s.mc.upd with
  | none => 0x33
  | some u =>
    if u.handle ≠ handle ∨ u.sess ≠ uid ∨ u.failed then 0x33
    else
      let b := s.otherBank
      if !(s.bankKinds b).all fun k => (s.imageOk b k).isSome then 0x30
      else
        let imgs := (s.imageOk b 1).map (·.1) :: [2, 3, 4, 5].map fun k => (s.loadImage b k).map (·.1)
        if (classify s.fuses.stepping ((s.matrix [0, 1]).map (·.2)) imgs).1 = 2 then 0x32 else 0

/-- FW_COMMIT writes the descriptor's MAGIC and BANK_SEQ, the last write of the update (16 R460). -/
def State.commitBank (s : State) : State :=
  let b := s.otherBank
  let f := flashPut s.flash (bankBase b) (leBytes 4 0x4B4E4250 ++ leBytes 4 (s.bankSeq (1 - b) + 1).toNat)
  { s with flash := f, mc := { s.mc with upd := none } }

/-- The code with which SVN_RAISE is refused; 0 where it is not (16 R459; log entry 66): an image that runs would be disabled, or
SVN is below the minimum or above 64. -/
def State.svnCheck (s : State) (kind revoke svn : Nat) : Nat :=
  let after : Fuses := { s.fuses with revoke := s.fuses.revoke ||| revoke }
  let i := s.fwImg (kind - 1)
  if kind = 0 ∨ 6 < kind ∨ 64 < svn ∨ svn < s.fuses.minSvn.getD (kind - 1) 0 ∨ (!i.absent ∧ i.svn < svn)
      ∨ s.mc.images.any (fun x => !x.absent && !after.keysInUse.contains x.key) then 0x31
  else 0

/-- The fuses of SVN_RAISE are blown. -/
def State.svnBlow (s : State) (kind revoke svn : Nat) : State :=
  { s with fuses := { s.fuses with revoke := s.fuses.revoke ||| revoke, minSvn := s.fuses.minSvn.set (kind - 1) svn } }

/-- The code with which CONFIG_COMMIT is refused; 0 where it is not (16 R456, R459). -/
def State.configCheck (s : State) (k : Nat) : Nat :=
  if 1 < k ∨ !s.cfgAccept k then 0x30
  else
    let q := s.cfgSeqOf k
    if s.mc.cfgCopy.isSome ∧ (q = s.mc.cfgSeq ∨ !serialGe q s.mc.cfgSeq) then 0x36 else 0

/-- The user calibration written to the copy that is not current (16 R464). -/
def State.ucalStore (s : State) : State :=
  let k := match s.mc.ucalCopy with
    | some c => 1 - c
    | none => 0
  let q := s.mc.ucalSeq + 1
  let bs := ucalBytes q ((List.range 64).map fun i => s.rd (rScUcal i))
  { s with flash := flashPut (flashErase s.flash (ucalBase k) 0x10000) (ucalBase k) (bs ++ sm3 bs),
           mc := { s.mc with ucalSeq := q, ucalCopy := some k } }

/-- The lifecycle state advances, and is entered in the change log (16 R453, R465). -/
def State.lifecycleTo (s : State) (o : Origin) (n : Nat) : State :=
  let s1 := s.log o 10 0xFF 0 (BitVec.ofNat 32 s.fuses.lifecycle) (BitVec.ofNat 32 n)
  { s1 with fuses := { s1.fuses with lifecycle := n } }

end Sys2Proof.Machine
end

