-- ==== Sys2Proof/Machine/Fw.lean ====
section
/-! DEFINITION. The operations 0x40 to 0x5F: attestation, log streams, firmware updates, fuses, calibration, lifecycle (16 R459 to
R464, R472). -/

namespace Sys2Proof.Machine

open Sys2Proof

/-- ATTEST: a report stands in SC_REPORT; refused in RETURNED (16 R459, R462). -/
def execAttest (h : PctHdr) (c : CmdHdr) (nonce : List Byte) (s : State) : Res :=
  .next (s.manage h c 0x40 fun t uid o =>
    if t.fuses.lifecycle = 3 then t.fwRefuse uid c.tag 0x40 0x35
    else (t.report nonce).fwDone o uid c.tag 0x40 704)

/-- LOG_STREAM: starts or ends a stream on its session (16 R459, R472). -/
def execLogStream (h : PctHdr) (c : CmdHdr) (mask : BitVec 8) (fromEvt fromLog : Word) (s : State) : Res :=
  .next (s.manage h c 0x41 fun t uid o =>
    let t1 := t.fwDone o uid c.tag 0x41 0
    match t1.sessOf uid with
    | none => t1
    | some i =>
      match t1.sessAt i with
      | none => t1
      | some x =>
        ((t1.setSess i (some { x with mask := mask.toNat % 4, fromEvt := fromEvt, fromLog := fromLog })).streamOne i 1).streamOne i 2)

/-- FW_BEGIN: opens the one update, and erases the inactive bank's descriptor sector (16 R459, R460). -/
def execFwBegin (h : PctHdr) (c : CmdHdr) (s : State) : Res :=
  .next (s.manage h c 0x42 fun t uid o =>
    if t.mc.upd.isSome then t.fwRefuse uid c.tag 0x42 0x33
    else
      let n := t.mc.handle + 1
      let u : FwUpd := ⟨n, uid, false⟩
      let t1 := { t with mc := { t.mc with handle := n, upd := some u }, flash := flashErase t.flash (bankBase t.otherBank) 0x10000 }
      State.fwDone t1 o uid c.tag 0x42 n)

/-- FW_COMMIT: the checks, then the descriptor (16 R459, R460). -/
def execFwCommit (h : PctHdr) (c : CmdHdr) (handle : Nat) (s : State) : Res :=
  .next (s.manage h c 0x43 fun t uid o =>
    let code := t.commitCheck uid handle
    if code ≠ 0 then t.fwRefuse uid c.tag 0x43 code else t.commitBank.fwDone o uid c.tag 0x43 0)

/-- RESET: completes, then the reset is pending; refused while joined without FORCE (16 R459, R461). -/
def execReset (h : PctHdr) (c : CmdHdr) (force : Bool) (s : State) : Res :=
  .next (s.manage h c 0x44 fun t uid o =>
    if t.beat.joined ∧ !force then t.fwRefuse uid c.tag 0x44 0x34
    else
      let t1 := t.fwDone o uid c.tag 0x44 0
      { t1 with mc := { t1.mc with resetPend := true } })

/-- SVN_RAISE: fuses of a minimum and of revocations are blown (16 R451, R459). -/
def execSvnRaise (h : PctHdr) (c : CmdHdr) (kind : Nat) (revoke : BitVec 4) (svn : Nat) (s : State) : Res :=
  .next (s.manage h c 0x45 fun t uid o =>
    let code := t.svnCheck kind revoke.toNat svn
    if code ≠ 0 then t.fwRefuse uid c.tag 0x45 code
    else (t.svnBlow kind revoke.toNat svn).fwDone o uid c.tag 0x45 0)

/-- CONFIG_COMMIT: a configuration copy is verified, for the next start-up (16 R456, R459, R460). -/
def execConfigCommit (h : PctHdr) (c : CmdHdr) (copy : Nat) (s : State) : Res :=
  .next (s.manage h c 0x46 fun t uid o =>
    let code := t.configCheck copy
    if code ≠ 0 then t.fwRefuse uid c.tag 0x46 code else t.fwDone o uid c.tag 0x46 0)

/-- UCAL_SAVE: the user-calibration table to flash (16 R459, R464). -/
def execUcalSave (h : PctHdr) (c : CmdHdr) (s : State) : Res :=
  .next (s.manage h c 0x47 fun t uid o => t.ucalStore.fwDone o uid c.tag 0x47 0)

/-- UCAL_LOAD: a copy into SC_UCALi; refused with FW_SIG where its trailer does not match (16 R459, R464; log entry 66). -/
def execUcalLoad (h : PctHdr) (c : CmdHdr) (copy : Nat) (s : State) : Res :=
  .next (s.manage h c 0x4A fun t uid o =>
    match (if copy < 2 then t.ucalCopy copy else none) with
    | none => t.fwRefuse uid c.tag 0x4A 0x30
    | some x =>
      let t1 := t.wrWords (rScUcal 0) (x.2.take 64)
      State.fwDone { t1 with mc := { t1.mc with ucalSeq := BitVec.ofNat 32 x.1, ucalCopy := some copy } } o uid c.tag 0x4A 0)

/-- LC_OWN: SHIPPED to OWNED, with the digest of the owner's key (16 R453, R459). -/
def execLcOwn (h : PctHdr) (c : CmdHdr) (pubkey : List Byte) (s : State) : Res :=
  .next (s.manage h c 0x48 fun t uid o =>
    if t.fuses.lifecycle ≠ 1 then t.fwRefuse uid c.tag 0x48 0x35
    else
      let t1 := t.lifecycleTo o 2
      State.fwDone { t1 with fuses := { t1.fuses with owner := sm3 pubkey } } o uid c.tag 0x48 0)

/-- LC_RETURN: OWNED to RETURNED under the owner's signature; the identity is destroyed, a reset follows (16 R453, R459). -/
def execLcReturn (h : PctHdr) (c : CmdHdr) (sig : List Byte) (s : State) : Res :=
  .next (s.manage h c 0x49 fun t uid o =>
    if t.fuses.lifecycle ≠ 2 then t.fwRefuse uid c.tag 0x49 0x35
    else if !t.ownerSigned (t.deviceId ++ leBytes 4 t.mc.bootId.toNat ++ [0x52]) sig then
      t.fwRefuse uid c.tag 0x49 0x30
    else
      let t1 := t.lifecycleTo o 3
      let t2 := { t1 with fuses := { t1.fuses with idSecret := List.replicate 32 0xFF } }
      let t3 := State.fwDone t2 o uid c.tag 0x49 0
      { t3 with mc := { t3.mc with resetPend := true } })

/-- RESERVED_OP: a code from 0x4B to 0x5F completes REFUSED with FW_STATE (16 R459). -/
def execReservedOp (h : PctHdr) (c : CmdHdr) (op : Nat) (s : State) : Res :=
  .next (s.manage h c op fun t uid _ => t.fwRefuse uid c.tag op 0x33)

end Sys2Proof.Machine
end

