-- ==== Sys2Proof/Machine/Intake.lean ====
section
/-! DEFINITION. Intake: the rings of request commands and their staging ranges (15 R433, R435). -/

namespace Sys2Proof.Machine

open Sys2Proof

/-- The staging words of a group slot in use: of the commands in the ring and of the entries whose tokens wait for admission (15
R435). -/
def State.stagingUsed (s : State) (n : Nat) : List Nat :=
  (s.ring n).flatMap (·.slots) ++ (s.groupEnts n).flatMap fun i => (s.ent i).staging

/-- Free words of a staging range for a command that carries k words. Which of the free ones it takes is left open: they are looked
for from a free value on, round the range (log entry 43). -/
def State.stageSlots (s : State) (n k : Nat) : List Nat :=
  let cap := fld (s.rd (rIoRingWords n)) 0 24
  let used := s.stagingUsed n
  (((List.range (k + used.length)).map fun i => (Config.stageFrom s.free + i) % cap).filter fun w => !used.contains w).take k

/-- The words a command carries, in the order in which they stand in its messages (15 R433). -/
def ReqOp.carried : ReqOp → List Word
  | .submit b => b.words
  | .resume _ _ t => t
  | .cancel => []
  | .draft _ st => st.flatMap fun x => [x.tok, x.q]
  | .fetch _ _ => []

/-- The words of a command written into its staging by the I/O ring, in class 3, from the endpoint of the port it came by (15 R435). -/
def State.stage (s : State) (ep : Fin 8) (n base : Nat) (slots : List Nat) (ws : List Word) : State :=
  match s.anchorPart (fld (s.rd (rRtGroupCtl n)) 1 11) with
  | none => s
  | some p => (slots.zip ws).foldl
      (fun t x => t.unitWrite (0x110 + ep.val) p (base / 0x2000000) (base % 0x2000000 + 4 * x.1) (leBytes 4 x.2.toNat) []) s

/-- A request command that is whole (15 R435): it takes a ring entry and its staging, or completes RING_FULL at once; a device that
does not anchor the group has no ring for it. -/
def State.enterRing (s1 : State) (i : Nat) (x : Sess) (c : CmdHdr) (op : ReqOp) : State :=
  match s1.groupSlot c.target with
  | none => s1.complete x.uid c.tag op.code 2 0 c.entry 0
  | some n =>
    let s2 := s1.setSess i (some { x with ring := some n })
    if (s2.ring n).length < fld (s2.rd (rIoRingCtl n)) 0 11
        ∧ (s2.stagingUsed n).length + op.words ≤ fld (s2.rd (rIoRingWords n)) 0 24 then
      let slots := s2.stageSlots n op.words
      let base := s2.stageBase n
      let s3 : State := { s2 with free := s2.free + 1 }
      (s3.setRing n (s3.ring n ++ [⟨x.uid, x.secure, c, op, s3.tb.tc, slots, base⟩])).stage x.ep n base slots op.carried
    else s2.complete x.uid c.tag op.code 2 0 c.entry 0

/-- A message of a request command (15 R433): with its last one the command enters its ring, or completes with BAD_MSG where its
messages were interleaved with another kind. -/
def State.intake (s : State) (h : PctHdr) (c : CmdHdr) (op : ReqOp) : State :=
  match s.command h c (.req op) with
  | (s1, none) => s1
  | (s1, some (i, x, k)) =>
    match k.bad, k.op with
    | false, .req q => s1.enterRing i x k.hdr q
    | _, o => s1.complete x.uid k.hdr.tag o.code 4 0 k.hdr.entry 0

/-- SUBMIT (13 R359; 15 R433, R435). -/
def execSubmit (h : PctHdr) (c : CmdHdr) (b : SubmitBody) (s : State) : Res := .next (s.intake h c (.submit b))

/-- RESUME (13 R359; 15 R433, R435). -/
def execResume (h : PctHdr) (c : CmdHdr) (maxNew : Nat) (deadline : DWord) (tokens : List Word) (s : State) : Res :=
  .next (s.intake h c (.resume maxNew deadline tokens))

/-- CANCEL (13 R359, R360; 15 R433, R435). -/
def execCancel (h : PctHdr) (c : CmdHdr) (s : State) : Res := .next (s.intake h c .cancel)

/-- DRAFT (13 R378; 15 R433, R435). -/
def execDraft (h : PctHdr) (c : CmdHdr) (pos : Nat) (steps : List DraftStep) (s : State) : Res :=
  .next (s.intake h c (.draft pos steps))

/-- FETCH (15 R433, R435, R438). -/
def execFetch (h : PctHdr) (c : CmdHdr) (from_ : Nat) (release : Bool) (s : State) : Res :=
  .next (s.intake h c (.fetch from_ release))

end Sys2Proof.Machine
end

