-- ==== Sys2Proof/Machine/Join.lean ====
section
/-! DEFINITION. The events of the ports and of a join (10 R279, R299 to R305). -/

namespace Sys2Proof.Machine

open Sys2Proof

/-- PORT_LOCKED: the four lanes of an enabled port hold frame alignment, and its alignment block names the neighbour (10 R277, R279,
R299). A joined device to which it names another is in a flight-fault condition (R304). -/
def execPortLocked (port : Fin 8) (block : AlignBlock) (s : State) : Res :=
  if !s.portEn port then .next s
  else
    let s1 := s.updPort port fun x =>
      { x with st := if x.st ≤ 1 then 2 else x.st, lanes := 15, block := some block, late := false,
               lost := x.lost && (s.beat.joined || (s.joining && decide (2 ≤ s.tether.join.step))) }
    if s.beat.joined then .next (if s.blockOk port block then s1 else s1.enterCond 2 port.val) else .next s1.joinTrain

/-- PORT_LOCK_LOST: a lane has lost alignment for four blocks; the port returns to TRAIN (10 R279, R305). -/
def execPortLockLost (port : Fin 8) (s : State) : Res :=
  .next (if s.portEn port ∧ 2 ≤ (s.port port).st then s.loseLock port else s)

/-- PORT_TRAIN_TIMEOUT: 200 ms after it began to train the port is still in TRAIN; a join in progress, which needs every enabled port,
fails at that moment, in whichever step it is (10 R279, R299). -/
def execPortTrainTimeout (port : Fin 8) (s : State) : Res :=
  if s.portEn port ∧ (s.port port).st = 1 then .next ((s.updPort port fun x => { x with late := true }).joinFail 1) else .next s

/-- NEIGHBOUR_LOST: 400 slots without a cell that decodes: the neighbour is lost (10 R304, R305). -/
def execNeighbourLost (port : Fin 8) (s : State) : Res :=
  if s.portEn port ∧ 2 ≤ (s.port port).st then .next ((s.updPort port fun x => { x with st := 5 }).loseNeighbour port)
  else .next s

/-- A PROBE sent on a port that is to be measured (10 R300, R301). -/
def State.sendProbe (s : State) (p : Fin 8) : State :=
  if (s.port p).st = 2 ∧ (s.port p).probes < 64 then
    (s.updPort p fun x => { x with probes := x.probes + 1 }).sendJoin p 1 (leBytes 8 s.tb.tc.toNat)
  else s

/-- JOIN_PROBE_TICK: the 256 slots between two probes have passed (10 R300). -/
def execJoinProbeTick (s : State) : Res :=
  .next (if s.tether.join.step = 2 then s.portsEn.foldl State.sendProbe s else s)

/-- Can the port carry JOIN cells: enabled, locked, and the tables not playing (10 R299)? -/
def State.joinCells (s : State) (p : Fin 8) : Bool := s.portEn p && decide (2 ≤ (s.port p).st ∧ (s.port p).st ≤ 3) && !s.beat.joined

/-- PROBE: answered with an ECHO that carries its TC and the time it was held (10 R300, R301). -/
def execProbe (port : Fin 8) (probeTc : BitVec 64) (hold : Word) (s : State) : Res :=
  .next (if s.joinCells port then s.sendJoin port 2 (leBytes 8 probeTc.toNat ++ leBytes 4 hold.toNat) else s)

/-- ECHO: one exchange of a port is measured: half of what remains of the round trip after the hold (10 R300). -/
def execEcho (port : Fin 8) (_probeTc : BitVec 64) (hold : Word) (trip16 : Nat) (s : State) : Res :=
  .next (if s.joinCells port ∧ s.tether.join.step = 2 ∧ (s.port port).st = 2 then s.takeEcho port (trip16 - hold.toNat) else s)

/-- TIME: a device that is not the root takes its parent and its time from it; on a port not yet measured it waits until it is
(10 R302). -/
def execTime (port : Fin 8) (tcDep : BitVec 64) (hops : Nat) (s : State) : Res :=
  let j := s.tether.join
  .next (if s.joinCells port ∧ 1 ≤ j.step ∧ j.step ≤ 4 ∧ !j.isRoot ∧ !j.sent then
    (if (s.port port).st = 3 then s.takeTime port tcDep hops s.tb.tc
     else s.updPort port fun x => { x with time := some (tcDep, hops, s.tb.tc) }) else s)

/-- ADOPT: the neighbour is a child (10 R301, R303). -/
def execAdopt (port : Fin 8) (s : State) : Res :=
  .next (if s.joinCells port ∧ s.joining then (s.updPort port fun x => { x with heard := .child }).joinReport else s)

/-- PEER: the neighbour is not a child (10 R301, R303). -/
def execPeer (port : Fin 8) (s : State) : Res :=
  .next (if s.joinCells port ∧ s.joining then (s.updPort port fun x => { x with heard := .peer }).joinReport else s)

/-- READY: a child's report (10 R303). -/
def execReady (port : Fin 8) (r : ReadyMsg) (s : State) : Res :=
  .next (if s.joinCells port ∧ s.joining ∧ (s.port port).heard = .child ∧ !(s.port port).ready then s.takeReady port r else s)

/-- START: the parent gives START_TC and the first beat number; one that comes after START_TC is too late (10 R303). -/
def execStart (port : Fin 8) (startTc bno : BitVec 64) (s : State) : Res :=
  .next (if s.joinCells port ∧ s.tether.join.step = 4 ∧ s.tether.join.parent = some port.val then
    (if startTc.toNat < s.tb.tc.toNat then s.joinFail 7 else s.takeStart startTc (BitVec.ofNat 48 bno.toNat)) else s)

/-- JOIN_TIMEOUT: TIMEOUT has passed since the write of START (10 R299). -/
def execJoinTimeout (s : State) : Res := .next (s.joinFail 1)

end Sys2Proof.Machine
end

