-- ==== Sys2Proof/Machine/Jtag.lean ====
section
/-! DEFINITION. The test access port and the MCTP endpoint (16 R473 to R475; 17 R495). -/

namespace Sys2Proof.Machine

open Sys2Proof

/-- Is any partition bound? -/
def State.anyBound (s : State) : Bool := s.partList.any fun p => p.2.isBound

/-- May the instruction be used (16 R474)? The number is its place in the table of R474. -/
def State.jtagMay (s : State) (n : Nat) : Bool :=
  let l := s.fuses.lifecycle
  let full := decide (l = 0 ∨ l = 3)
  if n ≤ 1 then true
  else if n = 2 then decide (l ≠ 4)
  else if n ≤ 5 then full || (decide (l = 1 ∨ l = 2) && !s.beat.joined && !s.anyBound)
  else if n = 6 then full || (decide (l = 2) && bit (s.rd rScJtag) 0)
  else if n = 7 then full
  else decide (l = 3)

/-- What a refused instruction does: it acts as BYPASS, and JTAG_ACCESS is recorded (16 R470, R475; log entry 67). -/
def State.jtagRefused (s : State) (n : Nat) : State :=
  ({ s with ir := .bypass }).event 0x8A 2 0xFF 0xFF 0xFFFF (BitVec.ofNat 32 n)

/-- An instruction is taken where the port has power and the lifecycle state allows it. -/
def State.jtag (s : State) (n : Nat) (f : State → State) : State :=
  if s.pwr.phase = .off then s else if s.jtagMay n then f s else s.jtagRefused n

/-- BYPASS (16 R474): the single bit of the bypass register, which IEEE 1149.1 captures as 0. -/
def execBypass (s : State) : Res := .next (s.jtag 0 fun t => { t with ir := .bypass, out := t.out ++ [.tdo 0] })

/-- IDCODE (16 R474). -/
def execIdcode (s : State) : Res := .next (s.jtag 1 fun t => { t with ir := .idcode, out := t.out ++ [.tdo 0x17E09BA7] })

/-- SAMPLE/PRELOAD (16 R474): the boundary scan chain is selected; the spec does not give the chain. -/
def execSamplePreload (s : State) : Res := .next (s.jtag 2 fun t => { t with ir := .sample })

/-- EXTEST (16 R474). -/
def execExtest (s : State) : Res := .next (s.jtag 3 fun t => { t with ir := .extest })

/-- CLAMP (16 R474). -/
def execClamp (s : State) : Res := .next (s.jtag 4 fun t => { t with ir := .clamp })

/-- HIGHZ (16 R474). -/
def execHighz (s : State) : Res := .next (s.jtag 5 fun t => { t with ir := .highz })

/-- Does a non-secure debug access name a core block or a slice of a non-secure partition (16 R474)? -/
def State.dbgNsMay (s : State) : DbgAccess → Bool
  | .regRead a => inCoreBlock a && s.nsBlock (blockCore a)
  | .regWrite a _ => inCoreBlock a && s.nsBlock (blockCore a)
  | .memRead c _ => s.nsBlock c
  | .memWrite c _ _ => s.nsBlock c

/-- A debug access as an access of the world the instruction names (16 R475); none while the device is held in reset. -/
def State.debug (s : State) (secure : Bool) (a : DbgAccess) : State :=
  let o : Origin := ⟨3, secure, [], 0, 0xFFFF⟩
  if s.pwr.phase = .reset then s
  else
  match a with
  | .regRead a => s.access ⟨o, none, .regRead a, true⟩
  | .regWrite a v => s.access ⟨o, none, .regWrite a v, true⟩
  | .memRead c p => s.access ⟨o, none, .memRead (c * 0x2000000 + p % 0x2000000 / 8 * 8) 8 0, true⟩
  | .memWrite c p d => s.access ⟨o, none, .memWrite (c * 0x2000000 + p % 0x2000000 / 8 * 8) (d.take 8), true⟩

/-- A non-secure debug access outside its reach: a read gives zero, a write is dropped, and either is recorded and entered in the
change log with its origin (05 R157; 16 R448; log entry 67). -/
def State.debugDenied (s : State) (a : DbgAccess) : State :=
  let o : Origin := ⟨3, false, [], 0, 0xFFFF⟩
  if s.pwr.phase = .reset then s
  else
  match a with
  | .regRead a => let t := s.regWorld o 4 a 0; { t with out := t.out ++ [.value 0 1] }
  | .regWrite a v => let t := s.regWorld o 3 a v; { t with out := t.out ++ [.value v 1] }
  | .memRead c p =>
    let t := s.hostRefused o (c * 0x2000000 + p % 0x2000000 / 8 * 8) 0x42
    { t with out := t.out ++ [.mem (List.replicate 8 0) [false]] }
  | .memWrite c p _ => s.hostRefused o (c * 0x2000000 + p % 0x2000000 / 8 * 8) 0x42

/-- DBG_NS: a debug access of the non-secure world to core blocks and slices of non-secure partitions (16 R474, R475). One that
names anything else is refused as a non-secure access is (R448). -/
def execDbgNs (a : DbgAccess) (s : State) : Res :=
  .next (s.jtag 6 fun t =>
    let t1 := { t with ir := .dbgNs }
    if t.dbgNsMay a then t1.debug false a else t1.debugDenied a)

/-- DBG_S: a debug access of the secure world to any register or slice (16 R474, R475). -/
def execDbgS (a : DbgAccess) (s : State) : Res := .next (s.jtag 7 fun t => ({ t with ir := .dbgS }).debug true a)

/-- LC_SCRAP: RETURNED to SCRAPPED (16 R453, R474). -/
def execLcScrap (s : State) : Res :=
  .next (s.jtag 8 fun t =>
    let t1 := t.log ⟨3, true, [], 0, 0xFFFF⟩ 10 0xFF 0 3 4
    { t1 with fuses := { t1.fuses with lifecycle := 4 } })

/-- The state that state sensor 64 reports (17 R495). -/
def State.pldmState (s : State) : Nat :=
  match s.pwr.phase with
  | .off => 0
  | .reset => 1
  | .starting => 1
  | .halted => 5
  | .ready => if s.mc.resetPend then 4 else if s.beat.joined then 3 else 2

/-- A PLDM sensor's reading (17 R495). -/
def State.sensor (s : State) (id : Nat) : Option Int :=
  if id = 1 then some (fld (s.rd rPmVin) 0 16)
  else if id = 2 then some (fld (s.rd rPmIin) 0 16)
  else if id = 3 then some (fld (s.rd rPmPin) 0 16)
  else if id = 4 then some ((s.rd rPmTj).extractLsb' 0 16).toInt
  else if 5 ≤ id ∧ id ≤ 36 then some (s.pwr.temps.getD (id - 5) 0)
  else if id = 64 then some s.pldmState
  else none

/-- The measurement that a read of sensor 1 or 2 makes (17 R495). -/
def State.measureFor (s : State) (id : Nat) : State :=
  if id = 1 then s.measure rPmVin else if id = 2 then s.measure rPmIin else s

/-- The SMBus address of the module's endpoint, from its straps (17 R478). -/
def State.smbusAddr (s : State) : Nat := 0x60 + bn s.pwr.addr1 * 2 + bn s.pwr.addr0

/-- PLDM_SENSOR_READ: the endpoint answers with the sensor's reading (16 R473; 17 R495); after a failed start-up it never answers
(17 R485; log entry 68). -/
def execPldmSensorRead (id : Nat) (s : State) : Res :=
  if s.pwr.phase = .halted then .next s
  else
    let t := s.measureFor id
    match t.sensor id with
    | some v => .next { t with out := t.out ++ [.sensor t.smbusAddr v] }
    | none => .next t

/-- MCTP_RECORD_READ: the endpoint answers with a fault and event record of the ring (16 R469, R473); one never written reads as
zeros. -/
def execMctpRecordRead (idx : Nat) (s : State) : Res :=
  if s.live ∧ idx < 4096 then
    let b := match Sparse.get (fun _ => none) s.sc.evts idx with
      | some (seq, e) => Evt.bytes e seq
      | none => List.replicate 32 0
    .next { s with out := s.out ++ [.record s.smbusAddr b] }
  else .next s

end Sys2Proof.Machine
end

