-- ==== Sys2Proof/Machine/Loader.lean ====
section
/-! DEFINITION. The commands of partitions and images (07 R209 to R215; 10 R290; 15 R434). -/

namespace Sys2Proof.Machine

open Sys2Proof

/-- Has the partition an operation pending (07 R215)? -/
def State.partBusy (s : State) (p : Nat) : Bool := s.partOps.any fun o => decide (o.part = p)

/-- The code with which a PART_CREATE is refused; 0 where it is not (07 R210; 16 R458). DEDUCED (log
entry 59): the codes, of which R210 gives none, a rectangle off the grid or with a core that is held being IMG_GRID, an allocation
beyond the sum of R32 IMG_POWER. -/
def State.createCheck (s : State) (p : Nat) (b : CreateBody) : Nat :=
  let new : Part := { Part.reset with st := .idle, x0 := b.x0, y0 := b.y0, w := b.w, h := b.h }
  if s.compat = 2 ∨ s.tb.calFail then 0x04
  else if 16 ≤ p ∨ (s.part p).st ≠ .free then 0x13
  else if b.w = 0 ∨ b.h = 0 ∨ 16 < b.x0 + b.w ∨ s.rows < b.y0 + b.h ∨ new.cores.any (fun c => (s.partOf c).isSome) then 0x05
  else if 1620 < s.allocSum + b.alloc then 0x0C
  else 0

/-- PART_CREATE: FREE to IDLE, with a rectangle, a world and an allocation (07 R210; 15 R434). -/
def execPartCreate (h : PctHdr) (c : CmdHdr) (b : CreateBody) (s : State) : Res :=
  .next (s.manage h c 0x20 fun t uid _ =>
    let code := t.createCheck c.target b
    if code ≠ 0 then t.complete uid c.tag 0x20 1 code 0 0
    else
      let t1 := t.updPart c.target fun q =>
        { q with secure := !b.nonSecure, x0 := b.x0, y0 := b.y0, w := b.w, h := b.h, alloc := b.alloc }
      (t1.partTo c.target .idle).complete uid c.tag 0x20 0 0 0 0)

/-- PART_DESTROY: IDLE to FREE; programs are released, the partition's whole ranges zeroed, its cores freed (07 R214; 15 R434). -/
def execPartDestroy (h : PctHdr) (c : CmdHdr) (s : State) : Res :=
  .next (s.manage h c 0x21 fun t uid _ =>
    let q := t.part c.target
    if 16 ≤ c.target ∨ q.st ≠ .idle ∨ t.partBusy c.target then t.complete uid c.tag 0x21 1 0x13 0 0
    else
      let t1 := q.cores.foldl (fun u x => u.zeroize x 0 0x1800000) t
      let t2 := (t1.partTo c.target .free).setPg c.target PgPart.reset
      (t2.setPart c.target Part.reset).complete uid c.tag 0x21 0 0 0 0)

/-- LOAD_BEGIN: an image load is open under a new handle, unless the partition has an operation pending (07 R209, R215; 15 R434,
R440). -/
def execLoadBegin (h : PctHdr) (c : CmdHdr) (bytes : Nat) (s : State) : Res :=
  .next (s.manage h c 0x22 fun t uid _ =>
    let n := t.mc.handle + 1
    let l : Load := ⟨n, uid, c.target, bytes, [], false⟩
    if c.target ≠ 0xFFFF ∧ t.partBusy c.target then t.complete uid c.tag 0x22 1 0x13 0 0
    else State.complete { t with mc := { t.mc with handle := n }, loads := t.loads ++ [l] } uid c.tag 0x22 0 0 0 n)

/-- A load that has passed every check: the program is resident (07 R209). -/
def State.loadDone (s : State) (l : Load) : State :=
  let q := s.part l.part
  let m := imageOf l.bytes
  match freeBases q.progs m, freeSlot q.progs m.transit with
  | some b, some k =>
    let pr : Prog := { slot := k, handle := l.handle, image := m, base0 := b.1, base1 := b.2.1, base2 := b.2.2,
                       routines := m.routines.getD [] }
    (s.placeSections pr).updPart l.part fun y => { y with progs := y.progs ++ [pr] }
  | _, _ => s

/-- LOAD_END: the checks of an image; it is resident, or refused and nothing of it remains; while the partition has an operation
pending the load stays open (07 R209, R215; 15 R434, R440). -/
def execLoadEnd (h : PctHdr) (c : CmdHdr) (handle : Nat) (s : State) : Res :=
  .next (s.manage h c 0x23 fun t uid _ =>
    match t.loads.find? fun l => decide (l.handle = handle ∧ l.session = uid) with
    | none => (t.loadRefused c.target 0x01).complete uid c.tag 0x23 1 0x01 0 0
    | some l =>
      if l.part ≠ 0xFFFF ∧ t.partBusy l.part then t.complete uid c.tag 0x23 1 0x13 0 0
      else
      let t1 := { t with loads := t.loads.filter fun x => decide (x.handle ≠ handle) }
      let code := t1.loadCheck l.part l
      if code ≠ 0 then (t1.loadRefused l.part code).complete uid c.tag 0x23 1 code 0 0
      else (t1.loadDone l).complete uid c.tag 0x23 0 0 0 0)

/-- An operation on a partition taken in with the TC of its arrival, to act at the next boundaries, or refused with BIND_BUSY (07
R213, R215; log entry 59). A model group has 11 bits (07 R217; 12 R352; log entry 76). -/
def State.takePartOp (s : State) (ok : Bool) (o : PartOp) : State :=
  if !ok ∨ (o.part ≠ 0xFFFF ∧ s.partBusy o.part) then s.complete o.sess o.tag o.op 1 0x13 0 0
  else
    let bind := o.bind.map fun b => { b with group := b.group % 2048 }
    { s with partOps := s.partOps ++ [{ o with bind := bind, tc := s.tb.tc }] }

/-- BIND of a resident program to an IDLE partition (07 R211, R213; 15 R434). -/
def execBind (h : PctHdr) (c : CmdHdr) (b : BindBody) (s : State) : Res :=
  .next (s.managePlan h c 0x24 b 0 fun t uid c b _ =>
    t.takePartOp (decide (c.target < 16 ∧ (t.part c.target).st = .idle) && (t.progOf c.target b.handle).isSome)
      ⟨c.target, 0x24, uid, c.tag, false, 0, some b, 0, false, 0⟩)

/-- UNBIND of a bound partition, or of transit claims (07 R213, R214; 10 R290; 15 R434; log entry 60). -/
def execUnbind (h : PctHdr) (c : CmdHdr) (keep : Word) (s : State) : Res :=
  .next (s.manage h c 0x25 fun t uid _ =>
    t.takePartOp (decide (c.target = 0xFFFF) || (decide (c.target < 16) && (t.part c.target).isBound))
      ⟨c.target, 0x25, uid, c.tag, true, keep, none, 0, false, 0⟩)

/-- REBIND of a bound partition to another of its programs (07 R213, R215; 15 R434). -/
def execRebind (h : PctHdr) (c : CmdHdr) (b : BindBody) (keep : Word) (s : State) : Res :=
  .next (s.managePlan h c 0x26 b keep fun t uid c b keep =>
    t.takePartOp (decide (c.target < 16) && (t.part c.target).isBound && (t.progOf c.target b.handle).isSome)
      ⟨c.target, 0x26, uid, c.tag, true, keep, some b, 0, false, 0⟩)

/-- TRANSIT: a transit claim from a resident transit image (10 R290; 15 R434). -/
def execTransit (h : PctHdr) (c : CmdHdr) (b : BindBody) (s : State) : Res :=
  .next (s.managePlan h c 0x27 b 0 fun t uid c b _ =>
    t.takePartOp (t.progOf 0xFFFF b.handle).isSome ⟨0xFFFF, 0x27, uid, c.tag, false, 0, some b, 0, false, 0⟩)

end Sys2Proof.Machine
end

