-- ==== Sys2Proof/Machine/Lp.lean ====
section
/-! DEFINITION. The commands of the lattice port engine, and the events of the switches and legs (06 R191 to R193; 09 R252 to
R264). -/

namespace Sys2Proof.Machine

open Sys2Proof

/-- LP_SEND (06 R191). -/
def execLpSend (h : Hdr) (st : Strm) (src bytes : Opnd) (s : State) : Res :=
  .next (s.dispatch h .lp [src, bytes] fun v => .lpSend st (v src) (v bytes))

/-- LP_ARM (06 R191). -/
def execLpArm (h : Hdr) (st : Strm) (dst bytes : Opnd) (flag : Option FlagAdd) (s : State) : Res :=
  let ops := match flag with
    | some a => [a.f, a.n]
    | none => []
  .next (s.dispatch h .lp (dst :: bytes :: ops)
    fun v => .lpArm st (v dst) (v bytes) (flag.map fun a => (v a.f, v a.n)))

/-- LP_DISARM (06 R191). -/
def execLpDisarm (h : Hdr) (st : Strm) (s : State) : Res := .next (s.dispatch h .lp [] fun _ => .lpDisarm st)

/-- SWITCH_ENTRY_ADVANCE: the RUN of the entry in effect expires and the next takes over, or the table ends (09 R257). -/
def execSwitchEntryAdvance (core : Nat) (s : State) : Res :=
  if s.inWork ∧ (s.core core).lat.play then .next (s.updCore core fun k => { k with lat := k.lat.at (k.lat.idx + 1) })
  else .next s

/-- LATTICE_DEPARTURE: the entry in effect names the local port: the next 128 bytes of the oldest unfinished send of its
stream, or a void flit and a schedule miss, to every output that names it (06 R192; 09 R259). -/
def execLatticeDeparture (core : Nat) (s : State) : Res :=
  match s.latEntry core with
  | none => .next s
  | some e =>
    if !latDeparts e then .next s
    else
      match (s.core core).lp.sends.find? fun x => decide (x.strm.val = latSend e) with
      | none => .next ((s.lpMiss core none).pass core 5 voidFlit none)
      | some x =>
        let a := x.src + x.sent
        let poison := (List.range 16).map fun g => s.bytePoisoned core (a + 8 * g)
        let f : Flit := ⟨false, false, false, s.readBytes core a 128, poison⟩
        let s1 := s.touchRanges core [(a, 128)]
        let s2 := if poison.any id then s1.setBit (rLpStatus core) 3 else s1
        let s3 :=
          if x.sent + 128 < x.bytes then
            s2.updCore core fun k => { k with lp := { k.lp with
              sends := k.lp.sends.map fun y => if y.id = x.id then { y with sent := y.sent + 128 } else y } }
          else
            let t := s2.updCore core fun k => { k with lp := { k.lp with
              sends := k.lp.sends.filter fun y => decide (y.id ≠ x.id) } }
            t.finishId core x.id
        .next (s3.pass core 5 f ((s.core core).pcOf x.id))

/-- LATTICE_ARRIVAL: the flit at the front of a link input is checked, forwarded and deposited as the entry in effect says
(06 R193; 09 R254, R255, R259, R263). -/
def execLatticeArrival (core : Nat) (port : Dir) (upset : List Upset) (s : State) : Res :=
  match (s.core core).lat.input port with
  | [] => .next s
  | f :: r =>
    let s1 := s.updCore core fun k => { k with lat := k.lat.setInput port r }
    let p := s1.checkFlit core f upset
    .next (p.1.pass core (dirCode port) p.2 none)

/-- LEG_ARRIVAL: an edge switch selects a leg input: the oldest flit of the arrival buffer, checked as it is received, or a void
flit and the core's schedule miss (09 R255, R261, R262). -/
def execLegArrival (x : LegFlit) (s : State) : Res :=
  let core := if x.leg.val < 16 then x.leg.val else (s.rows - 1) * 16 + (x.leg.val - 16)
  let code := if x.leg.val < 16 then 1 else 3
  match s.latEntry core with
  | none => .next s
  | some e =>
    if !(List.range 5).any (fun o => decide (latSrc e o = code)) then .next s
    else
      match s.legIn x.leg.val with
      | [] => .next ((s.lpMiss core none).pass core code voidFlit none)
      | f :: r =>
        let p := (s.setLegIn x.leg.val r).checkFlit core f x.upset
        .next (p.1.pass core code p.2 none)

end Sys2Proof.Machine
end

