-- ==== Sys2Proof/Machine/Me.lean ====
section
/-! DEFINITION. The commands of the matrix engine, as the stream gives them (03 R80, R94, R105). -/

namespace Sys2Proof.Machine

open Sys2Proof

/-- MX_LOAD_W: a stationary load enters the ME queue (03 R78, R80). -/
def execMxLoadW (h : Hdr) (c : MxLoad) (s : State) : Res := .next (s.dispatch h .me [] fun _ => .mxLoad c)

/-- MX_RUN_WS: a weight-stationary run enters the ME queue, its row count copied (03 R80, R83; 06 R174). -/
def execMxRunWs (h : Hdr) (c : MxWs) (s : State) : Res :=
  .next (s.dispatch h .me [c.m] fun v => .mxWs { c with m := .imm (v c.m) })

/-- MX_RUN_OS: an output-stationary run enters the ME queue (03 R80, R86). -/
def execMxRunOs (h : Hdr) (c : MxOs) (s : State) : Res := .next (s.dispatch h .me [] fun _ => .mxOs c)

/-- MX_CLEAR: a clear of a half of the ACB enters the ME queue (03 R80). -/
def execMxClear (h : Hdr) (half : Fin 2) (l512 : Bool) (s : State) : Res :=
  .next (s.dispatch h .me [] fun _ => .mxClear half l512)

/-- MX_SHEET: the selection of a sheet enters the ME queue (03 R94). -/
def execMxSheet (h : Hdr) (sid : Fin 4) (s : State) : Res := .next (s.dispatch h .me [] fun _ => .mxSheet sid)

/-- MX_SHEET_OFF: the end of a selection enters the ME queue (03 R94). -/
def execMxSheetOff (h : Hdr) (s : State) : Res := .next (s.dispatch h .me [] fun _ => .mxSheetOff)

/-- ME_SHEET_STALL: a core of a sheet has waited more than 4,096 cyc for its neighbours, with a copy of a command or with its
descriptor: the command is abandoned, with the fault and a schedule miss (03 R92, R94, R105). -/
def execMeSheetStall (core : Nat) (s : State) : Res :=
  match (s.core core).issued.find? fun i => decide (i.finish = .sheet ∨ i.finish = .join) with
  | some i => .next (((s.coreFault core 0x29 1 i.pc).coreMiss core 1 i.pc).endIssued core i .fault)
  | none => .next s

end Sys2Proof.Machine
end

