-- ==== Sys2Proof/Machine/Pg.lean ====
section
/-! DEFINITION. The page engine's commands: selections and the beat view (14 R392 to R397, R409). -/

namespace Sys2Proof.Machine

open Sys2Proof

/-- PG_SELECTION: the PG takes the oldest packet of its mailbox; one of kind 0x20 posts a selection for an entry of the poster's
group on its anchor (14 R409). Any other packet, one with COUNT above 10 or poisoned, and one of a non-secure partition for a
request of a secure client (09 R267), has no effect; poison is marked. -/
def execPgSelection (s : State) : Res :=
  match s.takeMail 0x101 with
  | none => .next s
  | some (p, s1) =>
    let e := leAt p.payload 0 2
    let count := leAt p.payload 2 1
    if p.poison then .next (s1.setBit rPgStatus 1)
    else if p.kind ≠ 0x20 ∨ 10 < count ∨ s1.wrongWorld p.secure (s1.ent e).client then .next s1
    else
      match s1.anchorPart (s1.part p.part).group, s1.slotOfEnt e with
      | some a, some n =>
        if s1.gId n = (s1.part p.part).group then
          let q := s1.pgOf a
          let idx := (List.range count).map fun i => leAt p.payload (4 + 4 * i) 4
          .next (s1.setPg a { q with posts := q.posts ++ [(e, decide (leAt p.payload 3 1 % 2 = 1), idx)] })
        else .next s1
      | _, _ => .next s1

/-! ### The view (14 R393, R394, R397) -/

/-- The key segments of a slot: the first and how many. -/
def WSlot.segs (w : WSlot) : Nat × Nat :=
  let g0 := w.start / 256
  (g0, (w.start + w.n - 1) / 256 + 1 - g0)

/-- MASK of a slot record. -/
def WSlot.mask (w : WSlot) : Nat := w.flags / 4 % 4

/-- KV_END. -/
def WSlot.kvEnd (w : WSlot) : Nat := if w.mask = 1 then 0 else w.start + w.n

/-- Is key y visible to query x (14 R394)? -/
def WSlot.sees (w : WSlot) (x y : Nat) : Bool :=
  let c := w.n - w.drafts
  decide (y < w.kvEnd) &&
    (if w.mask = 1 then false
     else if w.mask = 2 ∧ x < w.start + c then decide (y < w.start + c)
     else decide (y ≤ x))

/-- The bitmap of a slot, its rows by query, its segments within a row. -/
def WSlot.bitmap (w : WSlot) : List Byte :=
  let g := w.segs
  (List.range w.n).flatMap fun i => (List.range g.2).flatMap fun k => (List.range 32).map fun b =>
    BitVec.ofNat 8 (bitsOf ((List.range 8).map fun j => w.sees (w.start + i) ((g.1 + k) * 256 + 8 * b + j)))

/-- Page-table words of an entry. -/
def PgPart.pageWords (q : PgPart) (e : Nat) : List Nat :=
  (q.list e).map fun id => match q.page id with
    | some y => if y.res = .resident then y.frame.getD 0xFFFFFFFF else 0xFFFFFFFF
    | none => 0xFFFFFFFF

/-- The addresses of a slot's slab buffers, to read and to write (14 R397). -/
def State.slabAddrs (s : State) (p : Nat) (w : WSlot) : Nat × Nat :=
  let c := s.rd (rPgPartSlab p)
  if !bit c 0 ∨ w.slab = 0xFFFFFF then (0xFFFFFFFF, 0xFFFFFFFF)
  else
    let q := s.pgOf p
    let k := bn (Sparse.get (fun _ => false) q.kbits w.slab)
    let base := fld (s.rd (rPgPartSlabBase p)) 0 13 * 4096
    let at_ (b : Nat) : Nat := base + (2 * w.slab + b) * 2 ^ fld c 1 5
    (if q.fresh.contains w.ent then 0xFFFFFFFF else at_ k, at_ (1 - k))

/-- The length records, with the running offsets of bitmaps and page-table words. -/
def State.lengthRecords (s : State) (p : Nat) : Nat → Nat → List WSlot → List Byte
  | _, _, [] => []
  | mb, pt, w :: r =>
    let q := s.pgOf p
    let pages := (q.list w.ent).length
    let a := s.slabAddrs p w
    let fresh := bit (s.rd (rPgPartSlab p)) 0 && decide (w.slab ≠ 0xFFFFFF) && q.fresh.contains w.ent
    leBytes 4 w.start ++ leBytes 2 w.n ++ leBytes 1 w.drafts
      ++ leBytes 1 (w.flags % 2 + w.mask * 2 + bn fresh * 8) ++ leBytes 4 w.kvEnd ++ leBytes 4 mb
      ++ leBytes 4 pt ++ leBytes 4 pages ++ leBytes 4 a.1 ++ leBytes 4 a.2
      ++ s.lengthRecords p (mb + w.n * w.segs.2 * 32) (pt + pages) r

/-- The bytes of a view (14 R393). -/
def State.viewBytes (s : State) (p : Nat) (w : Wire) : List Byte :=
  let q := s.pgOf p
  let pt := w.slots.flatMap fun x => q.pageWords x.ent
  let mb := w.slots.flatMap WSlot.bitmap
  let ptOff := 64 + 32 * w.slots.length
  let cowOff := ptOff + 4 * pt.length
  let mbOff := cowOff + 8 * q.cows.length
  leBytes 6 w.bno.toNat ++ leBytes 2 w.slots.length ++ leBytes 4 ptOff ++ leBytes 4 pt.length ++ leBytes 4 cowOff
    ++ leBytes 4 q.cows.length ++ leBytes 4 mbOff ++ leBytes 4 mb.length ++ List.replicate 32 0
    ++ s.lengthRecords p 0 0 w.slots ++ pt.flatMap (fun x => leBytes 4 x)
    ++ q.cows.flatMap (fun c => leBytes 4 c.1 ++ leBytes 4 c.2) ++ mb

/-- One wide word of a view written; where it fails a check it is dropped, recorded, and LANDING_REFUSED with cause VIEW is
recorded (05 R168; 14 R392). -/
def State.putView (s : State) (p a : Nat) (bs : List Byte) : State :=
  let c := s.viewCore8 p
  let s1 := (s.atEndpoint 0x101 c).unitPut 6 p c a bs []
  if (s.unitCheck p c a bs.length).isNone then s1 else s1.refuseUnit 6 7 (fld (s.rd rTetherChip) 0 10) p

/-- PG_VIEW_WRITE: the PG writes the view of the beat's table for a partition, word by word, and sets VIEW_FLAG (14 R392, R395);
once in a period, when the LAST cell has been deposited, and not while the core's region is stopped (11 R326). -/
def execPgViewWrite (part : Fin 16) (s : State) : Res :=
  let p := part.val
  let r := s.recvOf (s.part p).group
  let q := s.pgOf p
  if s.workPeriod ∧ s.pgOn p ∧ r.last ∧ q.table = some s.beat.bno ∧ q.view ≠ some s.beat.bno ∧ !s.stopped (s.viewCore8 p) then
    let bs := s.viewBytes p (wireOf r.all)
    let s1 := s.setPg p { q with view := some s.beat.bno }
    if fld (s.rd (rPgPartViewBytes p)) 0 17 * 256 < bs.length then
      .next ((s1.setBit rPgStatus 4).refuseUnit 6 7 (fld (s.rd rTetherChip) 0 10) p)
    else
      let a := fld (s.rd (rPgPartViewAddr p)) 0 17 * 256
      let s2 := (List.range (ceilDiv bs.length 256)).foldl
        (fun t i => t.putView p (a + 256 * i) ((bs.drop (256 * i)).take 256)) s1
      .next (s2.unitFlag p (fld (s2.rd (rPgPartView p)) 8 13) 258 6)
  else .next s

end Sys2Proof.Machine
end

