-- ==== Sys2Proof/Machine/Power.lean ====
section
/-! DEFINITION. The commands of the module's power, reset and thermal hardware (17). -/

namespace Sys2Proof.Machine

open Sys2Proof

/-- Are the rails up? -/
def State.railsUp (s : State) : Bool := decide (s.pwr.phase ≠ .off)

/-- A rail brought to a state; PWR_GOOD is released while every rail is in regulation (17 R478, R481). -/
def Pwr.setRail (w : Pwr) (r : Rail) (i : Fin 5) : Pwr :=
  let rails := w.rails.set i r
  { w with rails := rails, good := rails.toList.all fun x => decide (x = .good) }

/-- The rails rise in order, bus, VAUX, VCORE, VSRAM, VSER, and PWR_GOOD is released; the internal reset is held (17 R481, R482). -/
def State.railsRise (s : State) : State :=
  { s with pwr := { ([0, 1, 2, 3, 4].foldl (fun w i => Pwr.setRail w .good i) s.pwr) with phase := .reset, rise := false, alertHeld := false } }

/-- A power-off (17 R481, R482, R487): the rails fall, VSER first and the bus last, PWR_GOOD is low, all but fuses and flash is lost; the rails stay down for the
hold given (1: 100 ms, 2: 10 s). -/
def State.powerOff (s : State) (hold : Nat) (trip : Bool) : State :=
  let w := s.wipe
  let p := [4, 3, 2, 1, 0].foldl (fun w i => Pwr.setRail w .off i) s.pwr
  { w with pwr := { p with phase := .off, hold := max hold s.pwr.hold, rise := false, trip := s.pwr.trip || trip,
                           alertHeld := false, live := [], temps := [] } }

/-- A reset that keeps the rails (17 R487). -/
def State.resetKeep (s : State) : State :=
  let w := s.wipe
  { w with pwr := { s.pwr with phase := .reset, alertHeld := false, live := [], temps := [] } }

/-- PWR_EN_RISE (17 R482): the rails rise, or the rise waits for the end of a hold. -/
def execPwrEnRise (s : State) : Res :=
  if s.pwr.pwrEn then .next s
  else
    let s1 := { s with pwr := { s.pwr with pwrEn := true } }
    if s.pwr.hold ≠ 0 then .next { s1 with pwr := { s1.pwr with rise := true } }
    else if s.railsUp then .next s1
    else .next s1.railsRise

/-- PWR_EN_FALL (17 R482, R487, R493): the rails fall, PWR_GOOD goes low at once, THERM_TRIP_N is released. -/
def execPwrEnFall (s : State) : Res :=
  let s1 := if s.railsUp then s.powerOff 1 false else s
  .next { s1 with pwr := { s1.pwr with pwrEn := false, rise := false, trip := false } }

/-- POWER_OFF_HOLD_END (17 R482): the hold ends, and a rise that waited is acted on. -/
def execPowerOffHoldEnd (s : State) : Res :=
  if s.pwr.hold = 0 then .next s
  else
    let s1 := { s with pwr := { s.pwr with hold := 0 } }
    .next (if s.pwr.rise ∧ s.pwr.pwrEn then s1.railsRise else s1)

/-- UNDERVOLTAGE_LOCKOUT (17 R480, R487). -/
def execUndervoltageLockout (s : State) : Res := .next (if s.railsUp then s.powerOff 1 false else s)

/-- OVERVOLTAGE_LOCKOUT (17 R480, R487). -/
def execOvervoltageLockout (s : State) : Res := .next (if s.railsUp then s.powerOff 1 false else s)

/-- OVERCURRENT_TRIP (17 R480, R487). -/
def execOvercurrentTrip (s : State) : Res := .next (if s.railsUp then s.powerOff 1 false else s)

/-- A power or thermal code that has been raised. -/
def State.raised (s : State) (code : Nat) : Option PowerCode := s.pwr.live.find? fun p => decide (p.code = code)

/-- Has so long passed, 1 s, since a TC (17 R496)? -/
def State.second (s : State) (t : DWord) : Bool := decide (400000000 ≤ (s.tb.tc - t).toNat)

/-- Is a code written where its condition is present: the first time, and again only after the condition has been absent for 1 s (17
R496)? Samples show when that of 0x92 to 0x95 ends; of the others nothing does, and whether it has been absent within a second or more
between two events is left free (log entry 14). -/
def State.freshCode (s : State) (code : Nat) : Bool :=
  match s.raised code with
  | none => true
  | some p =>
    match p.ended with
    | some t => s.second t
    | none => !decide (0x92 ≤ code ∧ code ≤ 0x95) && s.second p.last && Config.absentFor s.free

/-- A power or thermal code whose condition is present (17 R496): its PM_STATUS bit, and where it is written its record and its
alert. -/
def State.powerCode (s : State) (code stBit alertBit : Nat) (arg : Word) : State :=
  let s1 := s.setBit rPmStatus stBit
  let live := ⟨code, s.tb.tc, none⟩ :: s.pwr.live.filter fun p => decide (p.code ≠ code)
  let s2 := { s1 with pwr := { s1.pwr with live := live }, free := s1.free + 1 }
  if s.freshCode code then (s2.event code 4 0xFF 0xFF 0xFFFF arg).alert alertBit else s2

/-- A sample finds the condition of a code absent (17 R496). -/
def State.powerClear (s : State) (code : Nat) : State :=
  { s with pwr := { s.pwr with live := s.pwr.live.map fun p =>
      if p.code = code ∧ p.ended.isNone then { p with ended := some s.tb.tc } else p } }

/-- PWR_INPUT_LOW (17 R496): VIN, in 10 mV, below 44 V for 1 ms. -/
def execPwrInputLow (vin : Nat) (s : State) : Res :=
  .next (if s.live then (s.wrF rPmVin 0 16 vin).powerCode 0x90 1 8 (BitVec.ofNat 32 vin) else s)

/-- PWR_INPUT_HIGH (17 R496): VIN, in 10 mV, above 60 V for 1 ms. -/
def execPwrInputHigh (vin : Nat) (s : State) : Res :=
  .next (if s.live then (s.wrF rPmVin 0 16 vin).powerCode 0x91 2 9 (BitVec.ofNat 32 vin) else s)

/-- RAIL_FAULT (17 R481, R496): the rail, by its order number, outside ± 3%: PWR_GOOD goes low (R478). -/
def execRailFault (rail : Nat) (s : State) : Res :=
  if s.live then
    let s1 := s.powerCode 0x96 7 14 (BitVec.ofNat 32 rail)
    .next (if rail = 0 ∨ 5 < rail then s1 else { s1 with pwr := s1.pwr.setRail .weak (Fin.ofNat 5 (rail - 1)) })
  else .next s

/-- RAIL_OUT_OF_REGULATION (17 R481, R487): a rail outside ± 5% powers the module off. -/
def execRailOutOfRegulation (_rail : Nat) (s : State) : Res := .next (if s.railsUp then s.powerOff 1 false else s)

/-- THERMAL_TRIP (17 R482, R493): THERM_TRIP_N goes low and the module powers off, whatever it is doing while VAUX is up. -/
def execThermalTrip (s : State) : Res := .next (if s.railsUp then s.powerOff 2 true else s)

/-- RESET_N_LOW (17 R483, R487, R489): a low pulse of 10 µs or longer resets; one shorter than 1 µs is ignored. -/
def execResetNLow (ns : Nat) (s : State) : Res :=
  if ns < 1000 then .next s
  else if ns < 10000 ∧ Config.shortPulseResets ns = false then .next s
  else
    let s1 := if s.railsUp then s.resetKeep else s
    .next { s1 with pwr := { s1.pwr with resetN := false } }

/-- INTERNAL_RESET_RELEASE (17 R483, R484): RESET_N is high and PWR_GOOD has been released for 1 ms; start-up runs. -/
def execInternalResetRelease (cal : Calib) (s : State) : Res :=
  .next (if s.pwr.phase = .reset ∧ s.pwr.good then s.startUp cal else s)

/-- PCT_READY (17 R484): start-up is complete and a port of network A is up, or 2,500 ms have passed (`late`). -/
def execPctReady (late : Bool) (s : State) : Res :=
  .next (if s.pwr.phase = .starting ∧ (late ∨ !s.failover 0) then { s with pwr := { s.pwr with phase := .ready } } else s)

/-- FIRMWARE_RESET (16 R461; 17 R487): the 5 ms after a RESET or an LC_RETURN have passed. -/
def execFirmwareReset (s : State) : Res := .next (if s.mc.resetPend then s.resetKeep else s)

/-- The user-calibration offset of a parameter: the sum of the table's offsets for it (16 R464). -/
def State.ucalOffset (s : State) (param : Nat) : Int :=
  (List.range 64).foldl
    (fun a i => let w := s.rd (rScUcal i); if fld w 0 16 = param ∧ param ≠ 0 then a + (w.extractLsb' 16 16).toInt else a) 0

/-- A power with the gain of user calibration parameter 0x0500, in units of 1/4,096 (16 R464; 17 R491; log entry 14). -/
def State.metered (s : State) (pu : Nat) : Nat := ((pu : Int) * (4096 + s.ucalOffset 0x500) / 4096).toNat

/-- POWER_WINDOW (17 R491): the average input power, in PU, of the window of 1 ms that ends at the next TC multiple of 400,000, before
user calibration. -/
def execPowerWindow (raw : Nat) (s : State) : Res :=
  if s.live then
    let avg := s.metered raw
    let s0 := s.toTc (BitVec.ofNat 64 (ceilDiv s.tb.tc.toNat 400000 * 400000))
    let s1 := s0.wrF rPmPin 0 16 (min 0xFFFF avg)
    let s2 := if fld (s.rd rPmPin) 16 16 < avg then s1.wrF rPmPin 16 16 (min 0xFFFF avg) else s1
    if 2400 < avg then .next ((s2.bump rPmEvtOver).powerCode 0x92 3 10 (BitVec.ofNat 32 avg)) else .next (s2.powerClear 0x92)
  else .next s

/-- The sensor that reads highest of the 24 die sensors, lowest index first, and its reading (17 R492). -/
def hottest (ts : List Int) : Nat × Int :=
  (List.range 24).foldl (fun m i => if m.2 < ts.getD i (-32768) then (i, ts.getD i (-32768)) else m) (0, ts.getD 0 (-32768))

/-- PM stops every region that running work does not hold at 600 MHz (17 R492). -/
def State.stopFree (s : State) : State :=
  (List.finRange 16).foldl
    (fun t r => if t.regionHeld r.val ∨ t.level r.val = 3 then t else t.wrF (rPmRegionClk r.val) 2 2 3) s

/-- THERMAL_SAMPLE: the readings of sensors 0 to 31, in 1/16 °C, before user calibration, against the thresholds and the
coolant limits (17 R492, R495, R496). -/
def execThermalSample (temps : List Int) (s : State) : Res :=
  if s.live then
    let ts := (List.range 32).map fun i => temps.getD i 0 + s.ucalOffset (0x100 + i)
    let h := hottest ts
    let s0 := { s with pwr := { s.pwr with temps := ts } }
    let s1 := s0.wr rPmTj (BitVec.ofNat 32 ((h.2 % 65536).toNat + h.1 * 2 ^ 16))
    let s2 := s1.wr rPmCool (BitVec.ofNat 32 ((ts.getD 28 0 % 65536).toNat + (ts.getD 29 0 % 65536).toNat * 2 ^ 16))
    let th := s.rd rPmThresh
    let s3 := if (fld th 0 8 * 16 : Nat) ≤ h.2 then s2.powerCode 0x93 4 11 (BitVec.ofNat 32 h.1) else s2.powerClear 0x93
    let s4 := if (fld th 8 8 * 16 : Nat) ≤ h.2 then (s3.powerCode 0x94 5 12 (BitVec.ofNat 32 h.1)).stopFree else s3.powerClear 0x94
    let warm := decide (640 < ts.getD 28 0)
    let rose := decide (224 < ts.getD 29 0 - ts.getD 28 0)
    let s5 := if warm then s4.powerCode 0x95 6 13 0 else s4
    if rose then .next (s5.powerCode 0x95 6 13 1) else if warm then .next s5 else .next (s5.powerClear 0x95)
  else .next s

end Sys2Proof.Machine
end

