-- ==== Sys2Proof/Machine/Reel.lean ====
section
/-! DEFINITION. The commands of the reel engines and of the RoCEv2 engine (14 R411 to R413; 15 R425 to R427). -/

namespace Sys2Proof.Machine

open Sys2Proof

/-- REEL_ORDER_COMPLETE: the oldest order of the partition whose RDMA operations have all completed is complete on the device, and
the record moves with it (14 R411, R412). -/
def execReelOrderComplete (part : Fin 16) (s : State) : Res :=
  match (s.pgOf part.val).orders.find? fun o => o.move && decide (o.openOps = 0 ∧ o.st = .running) with
  | some o => .next (s.finishOrder part.val o)
  | none => .next s

/-- What a read delivers through the reel engine of its queue pair: bytes of a page into the order's frame, or a page's token block
(14 R396, R411). -/
def State.readLands (s : State) (rl : Nat) (r : RoceReq) (bs : List Byte) : State :=
  match (s.pgOf r.part).orderOf r.order with
  | none => s
  | some o =>
    if r.len = 128 then s.unitWrite rl r.part (s.viewCore8 r.part) (s.tokenAddr r.part o.frame 0 + r.off) bs []
    else s.putFrame rl r.part o.frame r.off bs

/-- The first reads of a queue pair: the writes before the oldest read, and that read. -/
def firstRead : List RoceReq → List RoceReq × Option RoceReq
  | [] => ([], none)
  | r :: q =>
    if r.op = .readReq then ([], some r)
    else
      let x := firstRead q
      (r :: x.1, x.2)

/-- A read response in order (15 R425): the writes posted before the read are acknowledged with it, its bytes land, and the read
ends with its last packet. -/
def State.readArrives (s : State) (k : Nat) (r : RoceReq) (before : List RoceReq) (bs : List Byte) : State :=
  let q := s.qp k
  let wire := onWire (s.ordOf k) q.reqs
  let s1 := (before.foldl (fun t x => t.closeOp x.part x.order) s).readLands (rlEp k) r bs
  let rest := q.reqs.drop before.length
  if r.len ≤ r.off + bs.length then
    let s2 := s1.setQp k { q with reqs := rest.drop 1, tries := 0 }
    (s2.closeOp r.part r.order).sendMore k (wire - before.length - 1)
  else
    let s2 := s1.setQp k { q with reqs := { r with off := r.off + bs.length } :: rest.drop 1, tries := 0 }
    s2.sendMore k (wire - before.length)

/-- RDMA_READ_RESPONSE: data of the oldest read of a queue pair (14 R411; 15 R425). A packet ahead of the expected number, or of a
length that is not its own, is answered with a NAK; one behind it is a repetition and is dropped (log entry 50). -/
def execRdmaReadResponse (p : RocePkt) (s : State) : Res :=
  match s.roceIn p with
  | (s1, false) => .next s1
  | (s1, true) =>
    match firstRead (s1.qp p.qp).reqs with
    | (_, none) => .next s1
    | (before, some r) =>
      let want := r.oldest
      if p.psn = want ∧ p.data.length = min 4096 (r.len - r.off) then .next (s1.readArrives p.qp r before p.data)
      else if p.psn ≠ want ∧ 2 ^ 23 ≤ psnFrom want p.psn then .next s1
      else .next (s1.sendRoce p.qp want .nak 0 0 0 [])

/-- ROCE_ACKNOWLEDGE: an acknowledgement, or a NAK (15 R426). -/
def execRoceAcknowledge (p : RocePkt) (syn : AckSyn) (s : State) : Res :=
  match s.roceIn p with
  | (s1, false) => .next s1
  | (s1, true) =>
    match syn with
    | .ack => .next (s1.ackReqs p.qp p.psn)
    | .nakSeq => .next ((s1.ackReqs p.qp ((p.psn + 2 ^ 24 - 1) % 2 ^ 24)).retryFrom p.qp p.psn)
    | .nakOther => .next (s1.qpError p.qp)

/-- Has a time of so many tc passed since a noted one? -/
def State.since (s : State) (t : Option DWord) (n : Nat) : Bool :=
  match t with
  | some x => decide (n ≤ (s.tb.tc - x).toNat)
  | none => true

/-- RATE of a queue pair, in 100 Mb/s. -/
def State.qpRate (s : State) (k : Nat) : Nat := fld (s.rd (rIoQpRate k)) 0 10

/-- CNP: the rate of the queue pair halves, to no less than 1 Gb/s, at most once in 50 µs (15 R427). -/
def execCnp (p : RocePkt) (s : State) : Res :=
  match s.roceIn p with
  | (s1, false) => .next s1
  | (s1, true) =>
    let q := s1.qp p.qp
    if s1.since q.cutTc 20000 then
      .next ((s1.setQp p.qp { q with cutTc := some s1.tb.tc }).wrF (rIoQpRate p.qp) 0 10 (max (s1.qpRate p.qp / 2) 10))
    else .next s1

/-- ROCE_RETRY_TIMEOUT: the oldest unacknowledged packet has waited its time: a resend from it, or ERROR (15 R426). -/
def execRoceRetryTimeout (qp : Fin 1024) (s : State) : Res :=
  match (s.qp qp.val).reqs with
  | [] => .next s
  | r :: _ => .next (if s.qpState qp.val = 1 then s.retryFrom qp.val r.oldest else s)

/-- ROCE_RATE_INCREASE: 100 µs have passed without a CNP: 5 Gb/s more, to no more than the line rate (15 R427). -/
def execRoceRateIncrease (qp : Fin 1024) (s : State) : Res :=
  .next (s.wrF (rIoQpRate qp.val) 0 10 (min (s.qpRate qp.val + 50) 1000))

/-- ROCE_UNSUPPORTED_PACKET: discarded and counted (15 R425, R443). -/
def execRoceUnsupportedPacket (p : RocePkt) (s : State) : Res := 
  let f := s.frameIn p.ep p.vlan
  .next (if f.2 then f.1.bump rIoBad else f.1)

end Sys2Proof.Machine
end

