-- ==== Sys2Proof/Machine/RegAccess.lean ====
section
/-! DEFINITION. The commands that read and write registers, slices, images and flash (15 R434, R439, R440, and the rules of each
register). A row named for one register is the access of that register. -/

namespace Sys2Proof.Machine

open Sys2Proof

/-- REGISTER_READ: a read of a register (15 R439). -/
def execRegisterRead (via : Via) (addr : Nat) (s : State) : Res := .next (s.viaRun via (.regRead addr))

/-- REGISTER_WRITE: a write of a register (15 R439). -/
def execRegisterWrite (via : Via) (addr : Nat) (v : Word) (s : State) : Res := .next (s.viaRun via (.regWrite addr v))

/-- BULK_WRITE: bytes for a slice, an image load or flash (15 R440; 16 R460). -/
def execBulkWrite (h : PctHdr) (b : BulkHdr) (data : List Byte) (s : State) : Res := .next (s.bulkIn h b data)

/-- BULK_READ: bytes of a slice or of flash (15 R440; 16 R460). -/
def execBulkRead (h : PctHdr) (b : BulkHdr) (s : State) : Res := .next (s.bulkAsk h b)

/-- TSYNC_ARM: a write of TB_CTL (11 R314, R336). -/
def execTsyncArm (via : Via) (value : Word) (s : State) : Res := .next (s.viaRun via (.regWrite rTbCtl value))

/-- TB_TC_LO_READ: a read of TB_TC_LO, which captures the high half (11 R336). -/
def execTbTcLoRead (via : Via) (s : State) : Res := .next (s.viaRun via (.regRead rTbTcLo))

/-- SC_RAND_READ: a read of SC_RAND (16 R477). -/
def execScRandRead (via : Via) (s : State) : Res := .next (s.viaRun via (.regRead rScRand))

/-- RT_CREDIT: a write of RT_CREDIT (13 R364, R383). -/
def execRtCredit (via : Via) (value : Word) (s : State) : Res := .next (s.viaRun via (.regWrite rRtCredit value))

/-- CLIENT_RECORD_WRITE: a write of a word of a client record (13 R363, R364). -/
def execClientRecordWrite (via : Via) (client : Fin 4096) (word : Fin 16) (value : Word) (s : State) : Res :=
  .next (s.viaRun via (.regWrite (rRtCli (16 * client.val + word.val)) value))

/-- RT_GROUP_VALID_SET: a write of RT_GROUPn_CTL that sets VALID (13 R383). -/
def execRtGroupValidSet (via : Via) (n : Fin 16) (value : Word) (s : State) : Res :=
  .next (s.viaRun via (.regWrite (rRtGroupCtl n.val) value))

/-- GROUP_RELEASE: a write of RT_GROUPn_CTL that clears VALID (13 R382, R383). -/
def execGroupRelease (via : Via) (n : Fin 16) (value : Word) (s : State) : Res :=
  .next (s.viaRun via (.regWrite (rRtGroupCtl n.val) value))

/-- NOADMIT: a write of RT_GROUPn_CTL (13 R383). -/
def execNoadmit (via : Via) (n : Fin 16) (value : Word) (s : State) : Res :=
  .next (s.viaRun via (.regWrite (rRtGroupCtl n.val) value))

/-- FROZEN: a write of RT_GROUPn_CTL (13 R382, R383). -/
def execFrozen (via : Via) (n : Fin 16) (value : Word) (s : State) : Res :=
  .next (s.viaRun via (.regWrite (rRtGroupCtl n.val) value))

/-- The word of XB_CMD for a command (14 R421). -/
def xbWord (op : Nat) (expert : Bool) (slot group : Nat) : Word :=
  BitVec.ofNat 32 (op + bn expert * 4 + slot % 1024 * 8 + group % 2048 * 8192)

/-- XB_CLAIM: FREE to LOADING (14 R416, R421). -/
def execXbClaim (via : Via) (expert : Bool) (slot : Fin 1024) (group : Nat) (s : State) : Res :=
  .next (s.viaRun via (.regWrite rXbCmd (xbWord 1 expert slot.val group)))

/-- XB_READY: LOADING to READY (14 R416, R421). -/
def execXbReady (via : Via) (expert : Bool) (slot : Fin 1024) (group : Nat) (s : State) : Res :=
  .next (s.viaRun via (.regWrite rXbCmd (xbWord 2 expert slot.val group)))

/-- XB_RELEASE: LOADING or READY to FREE (14 R421). -/
def execXbRelease (via : Via) (expert : Bool) (slot : Fin 1024) (group : Nat) (s : State) : Res :=
  .next (s.viaRun via (.regWrite rXbCmd (xbWord 3 expert slot.val group)))

/-- XB_PENDING_WRITE: a write of a set's PENDING (14 R416, R421). -/
def execXbPendingWrite (via : Via) (expert : Bool) (k : Fin 1024) (value : Word) (s : State) : Res :=
  .next (s.viaRun via (.regWrite (rXbSet expert k.val) value))

/-- DG_LOG_TAIL_WRITE (12 R354). -/
def execDgLogTailWrite (via : Via) (value : Word) (s : State) : Res := .next (s.viaRun via (.regWrite rDgLogTail value))

/-- SC_LOG_TAIL_WRITE (16 R468). -/
def execScLogTailWrite (via : Via) (value : Word) (s : State) : Res := .next (s.viaRun via (.regWrite rScLogTail value))

/-- SC_EVT_TAIL_WRITE (16 R469). -/
def execScEvtTailWrite (via : Via) (value : Word) (s : State) : Res := .next (s.viaRun via (.regWrite rScEvtTail value))

/-- UCAL_WRITE: a write of SC_UCALi (16 R464). -/
def execUcalWrite (via : Via) (i : Fin 64) (value : Word) (s : State) : Res := .next (s.viaRun via (.regWrite (rScUcal i.val) value))

/-- SC_JTAG_LOCK: a write of SC_JTAG (16 R474, R477). -/
def execScJtagLock (via : Via) (value : Word) (s : State) : Res := .next (s.viaRun via (.regWrite rScJtag value))

/-- LEVEL_CHANGE_REQUEST: a write of PM_REGIONn_CLK (11 R325, R326). -/
def execLevelChangeRequest (via : Via) (region : Region) (value : Word) (s : State) : Res :=
  .next (s.viaRun via (.regWrite (rPmRegionClk region.val) value))

/-- LEVEL_CHANGE_DONE: the region restarts at its new level, or stays stopped; accesses that waited go on (11 R326). -/
def execLevelChangeDone (region : Region) (s : State) : Res := .next (s.levelDone region).drainStalled

/-- JOIN_START: a write of TETHER_JOIN_CTL with START (10 R299, R307). -/
def execJoinStart (via : Via) (value : Word) (s : State) : Res := .next (s.viaRun via (.regWrite rTetherJoinCtl value))

/-- JOIN_READY_SET: a write of TETHER_JOIN_CTL with READY (10 R303, R307). -/
def execJoinReadySet (via : Via) (value : Word) (s : State) : Res := .next (s.viaRun via (.regWrite rTetherJoinCtl value))

/-- RL_RETRY: a write of RL_PARTn_CTL.RETRY (14 R413, R420). -/
def execRlRetry (via : Via) (part : Fin 16) (s : State) : Res := .next (s.viaRun via (.regWrite (rRlPartCtl part.val) 1))

/-- RL_ABANDON: a write of RL_PARTn_CTL.ABANDON (14 R413, R420). -/
def execRlAbandon (via : Via) (part : Fin 16) (s : State) : Res := .next (s.viaRun via (.regWrite (rRlPartCtl part.val) 2))

/-! ### The flight operations (10 R299, R303, R309; 15 R434) -/

/-- A register written by firmware. -/
def State.fwWrite (s : State) (a : Nat) (v : Word) : State := s.writeReg originFw a v

/-- The registers a FLIGHT command sets (15 R434). -/
def State.setFlight (s : State) (b : FlightBody) : State :=
  let s1 := s.fwWrite rTetherChip (BitVec.ofNat 32 (b.chip % 1024 + b.tag % 65536 * 1024))
  let w := s1.rd rTetherJoinCtl
  let s2 := s1.fwWrite rTetherJoinCtl (setFld (setFld (setFld (setFld w 0 1 0) 2 1 0) 1 1 (bn b.root)) 3 5 b.rounds)
  let s3 := (s2.fwWrite rTbBeatLen (BitVec.ofNat 32 b.beatLen)).fwWrite rTbGuard (BitVec.ofNat 32 b.guard)
  let s4 := s3.updJoin fun j => { j with dMax := b.dMax }
  (List.finRange 8).foldl (fun (t : State) (p : Fin 8) =>
    let r := b.ports.getD p.val ⟨false, 0, 0, 0⟩
    t.fwWrite (rTetherPortCfg p)
      (BitVec.ofNat 32 (bn r.en + r.peer % 1024 * 2 + r.peerPort % 8 * 2 ^ 11 + r.dNom % 1024 * 2 ^ 14))) s4

/-- FLIGHT: firmware sets the flight's registers; refused while joined (15 R434; 16 R459). -/
def execFlight (h : PctHdr) (c : CmdHdr) (b : FlightBody) (s : State) : Res :=
  .next (s.manage h c 0x28 fun t uid _ =>
    if t.beat.joined then t.complete uid c.tag 0x28 1 0x34 0 0 else (t.setFlight b).complete uid c.tag 0x28 0 0 0 0)

/-- JOIN: firmware starts a join and is ready for it; refused while joined, or with the code of a failure at once (10 R299; 15
R434; 16 R458, R459). -/
def execJoin (h : PctHdr) (c : CmdHdr) (s : State) : Res :=
  .next (s.manage h c 0x29 fun t uid _ =>
    if t.beat.joined then t.complete uid c.tag 0x29 1 0x34 0 0
    else
      let w := t.rd rTetherJoinCtl
      let t1 := t.fwWrite rTetherJoinCtl (setFld w 0 1 1)
      if t1.tether.join.step = 7 then t1.complete uid c.tag 0x29 1 t1.tether.join.code 0 0
      else t1.complete uid c.tag 0x29 0 0 0 0)

end Sys2Proof.Machine
end

