-- ==== Sys2Proof/Machine/Se.lean ====
section
/-! DEFINITION. The commands of the sync engine and the events of the flag banks (08 R232 to R248). -/

namespace Sys2Proof.Machine

open Sys2Proof

/-- SE_SET (08 R236, R248). -/
def execSeSet (h : Hdr) (f v : Opnd) (s : State) : Res := .next (s.dispatch h .se [f, v] fun x => .seSet (x f) (x v))

/-- SE_ADD (08 R236, R248). -/
def execSeAdd (h : Hdr) (f n : Opnd) (s : State) : Res := .next (s.dispatch h .se [f, n] fun x => .seAdd (x f) (x n))

/-- SE_WAIT_OBS (08 R237, R248). -/
def execSeWaitObs (h : Hdr) (f v : Opnd) (s : State) : Res :=
  .next (s.dispatch h .se [f, v] fun x => .seWaitObs (x f) (x v))

/-- SE_WAIT_TAKE (08 R237, R248). -/
def execSeWaitTake (h : Hdr) (f n : Opnd) (s : State) : Res :=
  .next (s.dispatch h .se [f, n] fun x => .seWaitTake (x f) (x n))

/-- SE_RSIG (08 R242, R248). -/
def execSeRsig (h : Hdr) (chip f n : Opnd) (s : State) : Res :=
  .next (s.dispatch h .se [chip, f, n] fun x => .seRsig (x chip) (x f) (x n))

/-- SE_FENCE_Q (08 R241). -/
def execSeFenceQ (h : Hdr) (m : FenceMask) (s : State) : Res := .next (s.dispatch h .se [] fun _ => .seFenceQ m)

/-- SE_FENCE_ALL (08 R241). -/
def execSeFenceAll (h : Hdr) (s : State) : Res := .next (s.dispatch h .se [] fun _ => .seFenceAll)

/-- SE_FENCE_REMOTE (08 R241). -/
def execSeFenceRemote (h : Hdr) (s : State) : Res := .next (s.dispatch h .se [] fun _ => .seFenceRemote)

/-- FENCE_RELEASE: the condition of the fence that holds the SE has come to hold: it is complete (08 R218, R241). -/
def execFenceRelease (core : Nat) (s : State) : Res :=
  match (s.core core).issued.find? fun i => decide (i.finish = .fence) with
  | some i => if (s.core core).fenceHolds i.id i.cmd then .next (s.finishIssued core i) else .next s
  | none => .next s

/-- FLAG_OP_APPLY: one tc of a bank: of the operations under way those named arrive, in the order of their keys behind all that
came before, and the bank applies the one in front (08 R232, R234 to R239; log entry 74). -/
def execFlagOpApply (t : FlagTick) (s : State) : Res :=
  let came := (List.range s.flags.ops.length).filter (s.mayArrive t.bank t.arrive)
  let rest := ((List.range s.flags.ops.length).filter fun i => !came.contains i).filterMap (s.flags.ops[·]?)
  let f := { s.flags with ops := rest }
  match f.banks[t.bank] ++ inKeyOrder (came.filterMap (s.flags.ops[·]?)) with
  | [] => .next s
  | o :: r => .next (State.applyOp { s with flags := { f with banks := f.banks.set t.bank r } } o)

/-- WAIT_RELEASE: a release reaches its core: the wait is complete and the SE wakes (08 R218, R237). -/
def execWaitRelease (core : Nat) (s : State) : Res :=
  match s.flags.releases.find? fun r => decide (r.1 = core) with
  | none => .next s
  | some r =>
    let s1 := { s with flags := { s.flags with releases := s.flags.releases.erase r } }
    .next ((s1.finishId core r.2).updCore core fun k => { k with wait := { k.wait with active := false } })

end Sys2Proof.Machine
end

