-- ==== Sys2Proof/Machine/Slice.lean ====
section
/-! DEFINITION. The port of one bank of a slice and its scrub (05 R145, R149 to R153, R163 to R168). -/

namespace Sys2Proof.Machine

open Sys2Proof

/-- The environment's upsets of stored granules (05 R149): a second error of a granule is uncorrectable, poison stays. -/
def State.upset (s : State) (c : Nat) (us : List Upset) : State :=
  us.foldl (fun t u =>
    let g := gaddr c u.addr / 8
    match Sparse.get (fun _ => Ecc.clean) t.ecc g with
    | .clean => t.setEcc g (if u.correctable then .single else .uncorr)
    | .single => t.setEcc g .uncorr
    | _ => t) s

/-- The class of a requester (05 R163). -/
def BankUser.cls : BankUser → Nat
  | .lpDeposit => 1
  | .lpSend => 1
  | .me => 1
  | .ve => 1
  | .dm => 1
  | .sq => 1
  | .pg => 2
  | .rl0 => 2
  | .rl1 => 2
  | .host => 3
  | .scrub => 4

/-- The order of the class-1 requesters (05 R165). -/
def class1 : List BankUser := [.lpDeposit, .lpSend, .me, .ve, .dm, .sq]

/-- The class-2 requesters from the pointer on (05 R165). -/
def ringFrom (p : Nat) : List BankUser := if p = 0 then [.pg, .rl0, .rl1] else if p = 1 then [.rl0, .rl1, .pg] else [.rl1, .pg, .rl0]

/-- The pointer after a grant to a class-2 requester. -/
def ringAfter (u : BankUser) (p : Nat) : Nat :=
  match u with
  | .pg => 1
  | .rl0 => 2
  | .rl1 => 0
  | _ => p

/-- The unit that a requester's records name (16 R469). -/
def userUnit : BankUser → Nat
  | .pg => 6
  | .rl0 => 7
  | .rl1 => 7
  | .host => 10
  | _ => 0

/-- The first waiting request of the users given, in their order; within a user the oldest. -/
def firstOf (us : List BankUser) (w : List (BankReq × Nat)) : Option (BankReq × Nat) :=
  us.findSome? fun u => w.find? fun r => decide (r.1.user = u)

/-- The poison write-backs that wait in a bank of a core. -/
def State.poisonIn (s : State) (c b : Nat) : List Nat :=
  s.poisonPending.filter fun g => decide (g / 0x400000 = c) && decide (bankOf (g % 0x400000 * 8) = b)

/-- What a bank's port grants in a cycle: a request, a poison write-back, a correction write-back. -/
inductive Grant where
  | req (r : BankReq × Nat)
  | poison (g : Nat)
  | corr (g : Nat)
  deriving DecidableEq, Repr

/-- The class-4 request, of at least the age given (05 R163, R165); a correction before a scrub read (log entry 73). -/
def Bank.class4 (b : Bank) (age : Nat) : Option Grant :=
  match b.corr.filter fun r => decide (age ≤ r.2) with
  | some r => some (.corr r.1)
  | none => (firstOf [.scrub] (b.waiting.filter fun r => decide (age ≤ r.2))).map .req

/-- What a bank grants, in the order of 05 R165: class 1, a poison write-back, an aged class-3 and then an aged class-4
request, class 2 around the ring, class 3, class 4. -/
def State.choose (s : State) (c b : Nat) : Option Grant :=
  let k := s.bank c b
  let aged := k.waiting.filter fun r => decide (256 ≤ r.2)
  (((((((firstOf class1 k.waiting).map Grant.req).orElse fun _ => (s.poisonIn c b).head?.map .poison).orElse fun _ =>
    (firstOf [.host] aged).map .req).orElse fun _ => k.class4 1024).orElse fun _ =>
    (firstOf (ringFrom k.pointer) k.waiting).map .req).orElse fun _ => (firstOf [.host] k.waiting).map .req).orElse fun _ =>
    k.class4 0

/-- A poison write-back (05 R150). -/
def State.poisonBack (s : State) (g : Nat) : State :=
  { s.setEcc g .poison with poisonPending := s.poisonPending.filter fun x => decide (x ≠ g) }

/-- A correction write-back (05 R149). -/
def State.corrBack (s : State) (c b g : Nat) : State :=
  let s1 := s.setBank c b { s.bank c b with corr := none }
  if s.granule g = .single then s1.setEcc g .clean else s1

/-- How many bytes a request's word has (05 R145). -/
def reqBytes (r : BankReq) : Nat := if r.narrow then 8 else 256

/-- Has the request a shape the port knows (05 R145): a 256-byte wide word, or a narrow word of the sequencer; scrub reads
come by SCRUB_READ? -/
def reqOk (r : BankReq) : Bool :=
  decide (r.addr % reqBytes r = 0) && decide (r.en.length = reqBytes r / 8) && decide (r.data.length = if r.wr then reqBytes r else 0)
    && (!r.narrow || decide (r.user = .sq)) && decide (r.user ≠ .scrub)

/-- Where an access goes: the physical local address of its word, or the first failing check (05 R142, R144, R154, R156,
R157): a host access is physical and carries its own world, every other acts for the core's partition. -/
def State.portAddr (s : State) (c : Nat) (r : BankReq) : Except Nat Nat :=
  if r.user = .host then
    if !s.coreExists c ∨ tierOf r.addr = 3 then .error 0x40
    else if !r.secure && s.addrSecure c r.addr then .error 0x42
    else .ok r.addr
  else s.xlatePart c r.addr (r.addr + reqBytes r)

/-- The origin of a host access at a bank (05 R156; 16 R466). -/
def hostOrigin (r : BankReq) : Origin := ⟨r.host.iface, r.secure, r.host.src, r.host.port, r.host.sess⟩

/-- A failed check of an access, recorded to its requester (05 R157, R167, R168); one of a scheduled engine names no command here, and
its offset is a free value (log entry 22). -/
def State.portFault (s : State) (c : Nat) (r : BankReq) (code : Nat) : State :=
  if BankUser.cls r.user = 1 then State.sliceFault { s with free := s.free + 1 } c ⟨code, r.addr⟩ (Config.noOffset s.free)
  else if r.user = .host then s.hostRefused (hostOrigin r) (gaddr c r.addr) code
  else s.unitRefused (userUnit r.user) (s.partNo c) c ⟨code, r.addr⟩

/-- The byte that a masked write leaves (05 R148): of each nibble the new one where it is not masked. -/
def nibbled (old new : Byte) (m : BitVec 2) : Byte :=
  let o := old.toNat
  let n := new.toNat
  BitVec.ofNat 8 ((if m.toNat % 2 = 1 then n % 16 else o % 16) + 16 * (if m.toNat / 2 = 1 then n / 16 else o / 16))

/-- A granted write (05 R145, R148): the bytes of the enabled granules that are not masked whole. -/
def State.portWrite (s : State) (g : Nat) (r : BankReq) : State :=
  let ws := ((List.range (reqBytes r)).zip r.data).filter fun p => r.en.getD (p.1 / 8) false && decide (p.2.2.toNat ≠ 0)
  s.writeMasked (ws.map fun p => (g + p.1, nibbled (s.memGet (g + p.1)) p.2.1 p.2.2))
    ((ws.filter fun p => decide (p.2.2.toNat ≠ 3)).map fun p => g + p.1)

/-- A granted read (05 R145, R149 to R151): every granule of the row is checked, those enabled are delivered with their
poison marks. -/
def State.portRead (s : State) (g : Nat) (r : BankReq) : State :=
  let gs := (List.range (reqBytes r / 8)).filter fun i => r.en.getD i false
  let d := s.deliver g (reqBytes r)
  let bytes := (List.range (reqBytes r)).map fun i => if r.en.getD (i / 8) false then d.1.getD i 0 else 0
  let poison := (List.range (reqBytes r / 8)).map fun i => gs.contains i && s.granulePoisoned (g / 8 + i)
  let s1 := d.2.checkRows (gs.map fun i => (g + 8 * i, g + 8 * i + 8)) (decide (BankUser.cls r.user = 1))
  { s1 with out := s1.out ++ [.mem bytes poison] }

/-- A granted access (05 R145, R148 to R151). -/
def State.portAccess (s : State) (c : Nat) (r : BankReq) : State :=
  match s.portAddr c r with
  | .error e => s.portFault c r e
  | .ok a => if r.wr then s.portWrite (gaddr c a) r else s.portRead (gaddr c a) r

/-- A request presented to a bank: one that fails a check reaches no bank, reads zero or is dropped, and is recorded (05 R157,
R168); one for another bank, or of a requester of class 2 or 3 that already waits here, is not taken (R163; log entry 73). -/
def State.present (s : State) (c b : Nat) (r : BankReq) : State :=
  if !reqOk r then s
  else
    match s.portAddr c r with
    | .error e =>
      let s1 := s.portFault c r e
      if r.wr then s1 else { s1 with out := s1.out ++ [.mem (List.replicate (reqBytes r) 0) (List.replicate (reqBytes r / 8) false)] }
    | .ok a =>
      let k := s.bank c b
      if bankOf a ≠ b ∨ (BankUser.cls r.user ≠ 1 ∧ k.waiting.any fun w => decide (w.1.user = r.user)) then s
      else s.setBank c b { k with waiting := k.waiting ++ [(r, 0)] }

/-- The rows of a bank (05 R141). -/
def bankRows (b : Nat) : Nat := if b < 16 then 1024 else 2560

/-- The physical local address of a row of a bank (05 R143). -/
def rowAddr (b row : Nat) : Nat := tierStart (b / 16) + row * 4096 + b % 16 * 256

/-- SCRUB_PASS, where every bank has completed a pass since it was cleared (05 R167). -/
def State.scrubPass (s : State) (c : Nat) : State :=
  if (List.range 48).all fun b => (s.bank c b).passed then
    (List.range 48).foldl (fun t b => t.setBank c b { t.bank c b with passed := false }) (s.setBit (rSlcStatus c) 7)
  else s

/-- A scrub read of the bank's next row (05 R149, R151, R153). -/
def State.scrubRow (s : State) (c b : Nat) : State :=
  let k := s.bank c b
  let g := gaddr c (rowAddr b k.row)
  let s1 := s.checkRows [(g, g + 256)] false
  let wrap := decide (k.row + 1 = bankRows b)
  let k1 := s1.bank c b
  let k2 := { k1 with row := if wrap then 0 else k1.row + 1,
                      passed := k1.passed || (wrap && !bit (s.rd (rSlcStatus c)) 7) }
  (s1.setBank c b k2).scrubPass c

/-- Does a bank of the core grant anything: the core exists and its region runs (11 R326)? -/
def State.bankRuns (s : State) (c : Nat) : Bool := s.coreExists c && !s.stopped c

/-- The bank after a grant: the others wait a cycle more, and the pointer of class 2 moves (05 R165). -/
def Bank.after (b : Bank) (g : Option Grant) : Bank :=
  let corr := b.corr.map fun r => (r.1, r.2 + 1)
  match g with
  | some (.req r) => { b with waiting := (b.waiting.erase r).map (fun x => (x.1, x.2 + 1)), corr := corr, pointer := ringAfter r.1.user b.pointer }
  | _ => { b with waiting := b.waiting.map (fun x => (x.1, x.2 + 1)), corr := corr }

/-- One cycle of a bank's port: what 05 R165 chooses is granted, and every class-1 request left waits a cycle that counts as a
conflict (R166). -/
def State.bankCycle (s : State) (c b : Nat) : State :=
  let g := s.choose c b
  let k := (s.bank c b).after g
  let s1 := (s.setBank c b k).bumpN (rSlcConflicts c) (k.waiting.filter fun r => decide (BankUser.cls r.1.user = 1)).length
  match g with
  | some (.req r) => if r.1.user = .scrub then s1.scrubRow c b else s1.portAccess c r.1
  | some (.poison x) => s1.poisonBack x
  | some (.corr x) => s1.corrBack c b x
  | none => s1

/-- SCRUB_READ: a bank presents the scrub read of its next row, where scrub is enabled and its region runs (05 R153, R163). -/
def execScrubRead (core : Nat) (bank : Fin 48) (upset : List Upset) (s : State) : Res :=
  let s1 := s.upset core upset
  let b := s1.bank core bank.val
  if s1.bankRuns core && bit (s.rd (rSlcScrub core)) 0 && !(b.waiting.any fun r => decide (r.1.user = .scrub)) then
    let r : BankReq := ⟨.scrub, false, false, rowAddr bank.val b.row, true, List.replicate 32 true, [], HostFrom.none⟩
    .next (s1.setBank core bank.val { b with waiting := b.waiting ++ [(r, 0)] })
  else .next s1

/-- BANK_GRANT: one cycle of a bank's port: the requests presented join those waiting, and one is granted by class, where the
region runs (05 R145, R165, R166; 11 R326). -/
def execBankGrant (core : Nat) (bank : Fin 48) (reqs : List BankReq) (upset : List Upset) (s : State) : Res :=
  let s1 := reqs.foldl (fun t r => t.present core bank.val r) (s.upset core upset)
  .next (if s1.bankRuns core then s1.bankCycle core bank.val else s1)

/-- CORRECTION_WRITEBACK: a cycle of the port that the order of 05 R165 gives to the pending correction, a request of the scrub
class (05 R149, R163); in any other cycle it goes on waiting. -/
def execCorrectionWriteback (core : Nat) (bank : Fin 48) (s : State) : Res :=
  match s.choose core bank.val with
  | some (.corr _) => .next (if s.bankRuns core then s.bankCycle core bank.val else s)
  | _ => .next s

/-- POISON_WRITEBACK: a cycle of the port not granted to class 1 writes the oldest uncorrectable granule of the bank back as
poison (05 R150, R165). -/
def execPoisonWriteback (core : Nat) (bank : Fin 48) (s : State) : Res :=
  match s.choose core bank.val with
  | some (.poison _) => .next (if s.bankRuns core then s.bankCycle core bank.val else s)
  | _ => .next s

end Sys2Proof.Machine
end

