-- ==== Sys2Proof/Machine/Sq.lean ====
section
/-! DEFINITION. The commands of the sequencer (06 R170 to R186). -/

namespace Sys2Proof.Machine

open Sys2Proof

/-- A command of the SQ (06 R173, R178): one that may not dispatch yet stands there; one whose predicate is false is
skipped whole; else it has the effect given, which also moves the stream. `ops` and `cs` are the operands and counters it
names. -/
def State.sq (s : State) (h : Hdr) (ops : List Opnd) (cs : List Ctr) (f : State → State) : State :=
  let q := (s.core h.core).sq
  if !s.canDispatch h (ops.flatMap Opnd.ctrs ++ cs) then s.noteStall h (ops.flatMap Opnd.ctrs ++ cs)
  else if !q.passes h.pred then s.pastCmd h
  else f s

/-- The stream's sequencer changed and moved past the command. -/
def State.sqDo (s : State) (h : Hdr) (f : Sq → Sq) : State := (s.updSq h.core f).pastCmd h

/-- A command of the SQ that writes a counter from its operands (06 R179, R186). -/
def State.sqAlu (s : State) (h : Hdr) (cd ca : Ctr) (b : Opnd) (f : Word → Word → Word) : State :=
  s.sq h [b] [cd, ca] fun t => t.sqDo h fun q => { q with ctr := q.ctr.set cd (f q.ctr[ca] (q.opnd b)) }

/-- A predicate written; a write of P0 is ignored (06 R178). -/
def Sq.setPred (q : Sq) (p : PReg) (b : Bool) : Sq := if p.val = 0 then q else { q with pred := q.pred.set p b }

/-- A class G fault of the SQ at its present command (06 R195). -/
def State.sqFault (s : State) (h : Hdr) (code : Nat) : State := s.coreFault h.core code 0 (s.core h.core).sq.pc

/-- The number of bytes of a size (06 R186). -/
def Size.bytes : Size → Nat
  | .b => 1
  | .h => 2
  | .w => 4

/-- The address of a narrow load or store: Ca + imm16, signed, modulo 2^32 (06 R186). -/
def narrowAddr (a : Word) (imm : BitVec 16) : Nat := (a + imm.signExtend 32).toNat

/-- SQ_NOP (06 R186). -/
def execSqNop (h : Hdr) (s : State) : Res := .next (s.sq h [] [] fun t => t.pastCmd h)

/-- SQ_MOVI (06 R186). -/
def execSqMovi (h : Hdr) (cd : Ctr) (imm : Word) (s : State) : Res :=
  .next (s.sq h [] [cd] fun t => t.sqDo h fun q => { q with ctr := q.ctr.set cd imm })

/-- SQ_MOV (06 R186). -/
def execSqMov (h : Hdr) (cd cs : Ctr) (s : State) : Res :=
  .next (s.sq h [] [cd, cs] fun t => t.sqDo h fun q => { q with ctr := q.ctr.set cd q.ctr[cs] })

/-- The value of a source of `sq.rd` (06 R179). -/
def State.rdSrc (s : State) (c : Nat) : RdSrc → Word
  | .bnoLo => BitVec.ofNat 32 s.beat.bno.toNat
  | .bnoHi => BitVec.ofNat 32 (s.beat.bno.toNat / 2 ^ 32)
  | .coreX => BitVec.ofNat 32 (c % 16)
  | .coreY => BitVec.ofNat 32 (c / 16)
  | .coreIdx => BitVec.ofNat 32 c
  | .part => BitVec.ofNat 32 (s.partNo c)
  | .lidx l => BitVec.ofNat 32 ((s.core c).sq.lidx l)

/-- SQ_RD (06 R179). -/
def execSqRd (h : Hdr) (cd : Ctr) (src : RdSrc) (s : State) : Res :=
  .next (s.sq h [] [cd] fun t => t.sqDo h fun q => { q with ctr := q.ctr.set cd (s.rdSrc h.core src) })

/-- SQ_ADD (06 R179, R186). -/
def execSqAdd (h : Hdr) (cd ca : Ctr) (b : Opnd) (s : State) : Res := .next (s.sqAlu h cd ca b fun x y => x + y)

/-- SQ_SUB (06 R179, R186). -/
def execSqSub (h : Hdr) (cd ca : Ctr) (b : Opnd) (s : State) : Res := .next (s.sqAlu h cd ca b fun x y => x - y)

/-- SQ_MUL (06 R179, R186). -/
def execSqMul (h : Hdr) (cd ca : Ctr) (b : Opnd) (s : State) : Res := .next (s.sqAlu h cd ca b fun x y => x * y)

/-- SQ_AND (06 R186). -/
def execSqAnd (h : Hdr) (cd ca : Ctr) (b : Opnd) (s : State) : Res := .next (s.sqAlu h cd ca b fun x y => x &&& y)

/-- SQ_OR (06 R186). -/
def execSqOr (h : Hdr) (cd ca : Ctr) (b : Opnd) (s : State) : Res := .next (s.sqAlu h cd ca b fun x y => x ||| y)

/-- SQ_XOR (06 R186). -/
def execSqXor (h : Hdr) (cd ca : Ctr) (b : Opnd) (s : State) : Res := .next (s.sqAlu h cd ca b fun x y => x ^^^ y)

/-- SQ_SHL: the amount modulo 32 (06 R179, R186). -/
def execSqShl (h : Hdr) (cd ca : Ctr) (b : Opnd) (s : State) : Res :=
  .next (s.sqAlu h cd ca b fun x y => x <<< (y.toNat % 32))

/-- SQ_SHR: logical, the amount modulo 32 (06 R179, R186). -/
def execSqShr (h : Hdr) (cd ca : Ctr) (b : Opnd) (s : State) : Res :=
  .next (s.sqAlu h cd ca b fun x y => x >>> (y.toNat % 32))

/-- SQ_LD: a narrow load, zero-extended; its value is delivered by SQ_LD_VALUE (06 R173, R186, R196; 08 R222, R228). -/
def execSqLd (h : Hdr) (size : Size) (cd ca : Ctr) (imm : BitVec 16) (s : State) : Res :=
  .next (s.sq h [] [cd, ca] fun t =>
    let k := t.core h.core
    let n := Size.bytes size
    let a := narrowAddr k.sq.ctr[ca] imm
    let w : LoadWait := ⟨h.after, h.ord, a, n⟩
    if !k.loadFree w then t.updCore h.core fun k =>
      Core.noteCounts { k with sq := { k.sq with stall := some ⟨h.words, k.sq.predCtrs h.pred ++ [cd, ca], some w⟩ } }
    else if a % n ≠ 0 then (t.sqFault h 0x13).pastCmd h
    else
      match t.checkRange h.core a n with
      | some x => (t.sliceFault h.core x k.sq.pc).pastCmd h
      | none =>
        let l : PendLoad := ⟨k.sq.seq, k.sq.pc, cd, BitVec.ofNat 32 (t.readLe h.core a n), t.bytePoisoned h.core a⟩
        (t.touchRanges h.core [(a, n)]).sqDo h fun q => { q with loads := q.loads ++ [l], seq := q.seq + 1 })

/-- SQ_LD_VALUE: the value of the oldest narrow load arrives at its counter; a poisoned one stops the SQ for the beat and is
not written (06 R173, R196). -/
def execSqLdValue (core : Nat) (s : State) : Res :=
  match (s.core core).sq.loads with
  | [] => .next s
  | l :: r =>
    let s1 := s.updSq core fun q => { q with loads := r }
    if l.poison then
      let s2 := (s1.setBit (rSqStatus core) 7).gather 0x14 0 0 (s.partNo core) core (BitVec.ofNat 32 l.pc)
      .next (s2.failBeat.updSq core fun q => { q with poison := true })
    else .next (s1.updSq core fun q => { q with ctr := q.ctr.set l.ctr l.value })

/-- SQ_ST: a narrow store of the low bytes of Cs, granted in order (05 R148; 06 R186; 08 R219, R220, R229). -/
def execSqSt (h : Hdr) (size : Size) (ca : Ctr) (imm : BitVec 16) (cs : Ctr) (s : State) : Res :=
  .next (s.sq h [] [ca, cs] fun t =>
    let k := t.core h.core
    let n := Size.bytes size
    let a := narrowAddr k.sq.ctr[ca] imm
    if a % n ≠ 0 then (t.sqFault h 0x13).pastCmd h
    else
      match t.checkRange h.core a n with
      | some x => (t.sliceFault h.core x k.sq.pc).pastCmd h
      | none =>
        let t1 := t.updCore h.core fun k => { k with ordOvf := k.ordOvf || decide (64 ≤ k.track.length) }
        (t1.writeAt h.core (spread a (leBytes n k.sq.ctr[cs].toNat))).pastCmd h)

/-- SQ_CMP (06 R180). -/
def execSqCmp (h : Hdr) (op : CmpOp) (pd : PReg) (ca : Ctr) (b : Opnd) (s : State) : Res :=
  .next (s.sq h [b] [ca] fun t => t.sqDo h fun q => q.setPred pd (cmpVal op q.ctr[ca] (q.opnd b)))

/-- SQ_KSET (06 R180). -/
def execSqKset (h : Hdr) (kn : Fin 4) (ca : Ctr) (op : CmpOp) (b : Opnd) (s : State) : Res :=
  .next (s.sq h [] [] fun t => t.sqDo h fun q => { q with cmps := q.cmps.set kn (some ⟨ca, op, b⟩) })

/-- SQ_KOFF (06 R180). -/
def execSqKoff (h : Hdr) (kn : Fin 4) (s : State) : Res :=
  .next (s.sq h [] [] fun t => t.sqDo h fun q => { q with cmps := q.cmps.set kn none })

/-- Predicate logic of two sources (06 R186). -/
def State.sqLogic (s : State) (h : Hdr) (pd : PReg) (pa pb : PSrc) (f : Bool → Bool → Bool) : State :=
  let q := (s.core h.core).sq
  s.sq h [] (q.srcCtrs pa ++ q.srcCtrs pb) fun t => t.sqDo h fun q => q.setPred pd (f (q.src pa) (q.src pb))

/-- SQ_PAND (06 R186). -/
def execSqPand (h : Hdr) (pd : PReg) (pa pb : PSrc) (s : State) : Res := .next (s.sqLogic h pd pa pb fun x y => x && y)

/-- SQ_POR (06 R186). -/
def execSqPor (h : Hdr) (pd : PReg) (pa pb : PSrc) (s : State) : Res := .next (s.sqLogic h pd pa pb fun x y => x || y)

/-- SQ_PXOR (06 R186). -/
def execSqPxor (h : Hdr) (pd : PReg) (pa pb : PSrc) (s : State) : Res := .next (s.sqLogic h pd pa pb fun x y => x ^^ y)

/-- SQ_PNOT (06 R186). -/
def execSqPnot (h : Hdr) (pd : PReg) (pa : PSrc) (s : State) : Res := .next (s.sqLogic h pd pa pa fun x _ => !x)

/-- SQ_PSET (06 R186). -/
def execSqPset (h : Hdr) (pd : PReg) (v : Bool) (s : State) : Res :=
  .next (s.sq h [] [] fun t => t.sqDo h fun q => q.setPred pd v)

/-- SQ_LOOP: the count is latched; a count of 0, or a false predicate, skips the body; an active register is SQ_LOOP (06 R178,
R181, R182), by a call or not, which R182 says only of one that dispatches through a call (log entry 23, DEDUCED). -/
def execSqLoop (h : Hdr) (ln : Fin 4) (count : Opnd) (endPc : Nat) (s : State) : Res :=
  let q := (s.core h.core).sq
  if !s.canDispatch h (Opnd.ctrs count) then .next (s.noteStall h (Opnd.ctrs count))
  else if !q.passes h.pred then .next (s.updSq h.core fun q => q.skipTo endPc)
  else if q.loops.any fun l => decide (l.reg = ln) then .next ((s.sqFault h 0x15).pastCmd h)
  else
    let n := (q.opnd count).toNat
    if n = 0 then .next (s.updSq h.core fun q => q.skipTo endPc)
    else
      .next (s.updSq h.core fun q =>
        { q with stall := none, pc := q.pc + h.words, avail := q.avail - h.words, loops := ⟨ln, q.pc + h.words, endPc, n, 0⟩ :: q.loops })

/-- SQ_JMP (06 R183). -/
def execSqJmp (h : Hdr) (label : Nat) (s : State) : Res :=
  .next (s.sq h [] [] fun t => t.updSq h.core fun q => q.jumpTo label)

/-- A call pushes the return offset and, for a resident routine, its argument (06 R183, R184); with 8 entries in use it is SQ_STACK and transfers nothing (06 R183). -/
def State.sqCallTo (s : State) (h : Hdr) (routine : Option Word) (target : Nat) : State :=
  if 8 ≤ (s.core h.core).sq.stack.length then (s.sqFault h 0x12).pastCmd h
  else
    s.updSq h.core fun q =>
      { q.jumpTo target with stack := ⟨routine, q.pc + h.words, q.loops.length⟩ :: q.stack }

/-- A return to the offset of the top entry: of the other kind, or with none, it is SQ_STACK; with a loop opened after the
call still active, SQ_LOOP (06 R182, R183). -/
def State.sqReturn (s : State) (h : Hdr) (routine : Bool) : State :=
  let q := (s.core h.core).sq
  match q.stack with
  | [] => (s.sqFault h 0x12).pastCmd h
  | f :: r =>
    if f.routine.isSome ≠ routine then (s.sqFault h 0x12).pastCmd h
    else if f.loops < q.loops.length then (s.sqFault h 0x15).pastCmd h
    else s.updSq h.core fun q => { q with stack := r, stall := none }.edge f.ret 0 q.loops

/-- SQ_CALL (06 R183). -/
def execSqCall (h : Hdr) (label : Nat) (s : State) : Res := .next (s.sq h [] [] fun t => t.sqCallTo h none label)

/-- SQ_RET (06 R182, R183). -/
def execSqRet (h : Hdr) (s : State) : Res := .next (s.sq h [] [] fun t => t.sqReturn h false)

/-- Where a resident routine begins for a core: at the address at which the loader has placed it, as an offset of the stream (06
R184; log entry 75). -/
def State.routineOffset (s : State) (c id : Nat) : Nat :=
  match (s.partOf c).bind fun p => (s.boundProg p).bind fun pr => pr.routines.find? fun r => decide (r.1 = id) with
  | some r => (r.2 + 2 ^ 32 - (s.core c).sq.entry) % 2 ^ 32 / 8
  | none => Config.routineEntry id

/-- SQ_RCALL: a resident routine with the value of Cn as its argument, for a secure-world partition; PRIV otherwise (06 R183,
R184). -/
def execSqRcall (h : Hdr) (id : Nat) (cn : Ctr) (s : State) : Res :=
  .next (s.sq h [] [cn] fun t =>
    if (t.corePart h.core).secure then t.sqCallTo h (some (t.core h.core).sq.ctr[cn]) (t.routineOffset h.core id) else (t.sqFault h 0x11).pastCmd h)

/-- SQ_RRET (06 R182 to R184). -/
def execSqRret (h : Hdr) (s : State) : Res := .next (s.sq h [] [] fun t => t.sqReturn h true)

/-- SQ_WAITQ: the SQ is held until the queue holds at most n (06 R177). -/
def execSqWaitq (h : Hdr) (eng : Engine) (n : Nat) (s : State) : Res :=
  .next (s.sq h [] [] fun t =>
    if ((t.core h.core).queue eng).length ≤ n then t.pastCmd h
    else t.sqDo h fun q => { q with hold := some (.waitq eng n) })

/-- SQ_WAITQ_RELEASE: the queue has fallen to n (06 R177). -/
def execSqWaitqRelease (core : Nat) (s : State) : Res :=
  match (s.core core).sq.hold with
  | some (.waitq eng n) =>
    if ((s.core core).queue eng).length ≤ n then .next (s.updSq core fun q => { q with hold := none }) else .next s
  | _ => .next s

/-- SQ_DELAY: the SQ is held n cycles; a counter of 0 acts as 1 (06 R186). -/
def execSqDelay (h : Hdr) (n : Opnd) (s : State) : Res :=
  .next (s.sq h [n] [] fun t => t.sqDo h fun q => { q with hold := some (.delay (max 1 (q.opnd n).toNat)) })

/-- SQ_DELAY_EXPIRE: the delay is over (06 R186). -/
def execSqDelayExpire (core : Nat) (s : State) : Res :=
  match (s.core core).sq.hold with
  | some (.delay _) => .next (s.updSq core fun q => { q with hold := none })
  | _ => .next s

/-- SQ_POST: a packet of 48 bytes to a unit's mailbox; with an absent unit its status is ABSENT (06 R185, R194; 09 R267). -/
def execSqPost (h : Hdr) (unit : Opnd) (kind : BitVec 8) (src : Opnd) (s : State) : Res :=
  .next (s.sq h [unit, src] [] fun t =>
    let c := h.core
    let q := (t.core c).sq
    let u := (q.opnd unit).toNat
    let a := (q.opnd src).toNat
    if !t.unitPresent u then
      (((t.setBit (rSqStatus c) 6).gather 0x78 0 0 (t.partNo c) c (BitVec.ofNat 32 q.pc)).updCore c fun k =>
        { k with sq := { k.sq with seq := k.sq.seq + 1 }, ends := k.ends ++ [(k.sq.seq, .absent)] }).pastCmd h
    else if a % 8 ≠ 0 then (t.sqFault h 0x13).pastCmd h
    else
      match (List.range 6).findSome? fun i => t.checkRange c (a + 8 * i) 8 with
      | some x => (t.sliceFault c x q.pc).pastCmd h
      | none =>
        let bad := (List.range 6).any fun i => t.bytePoisoned c (a + 8 * i)
        let p : Packet := ⟨u, c, kind, (t.corePart c).secure, bad, true, 0, 0, 0, 48, t.partNo c, 0, t.readBytes c a 48⟩
        ((t.touchRanges c [(a, 48)]).offer p).sqDo h fun q => { q with hold := some .post })

/-- SQ_POST_ACCEPT: the core's drift endpoint accepts the packet and the SQ goes on, with at most 8 packets outstanding (06
R185; 09 R269). -/
def execSqPostAccept (core : Nat) (s : State) : Res :=
  let waiting := (s.waitingAt core).length
  if (s.core core).sq.hold = some .post ∧ Sparse.get (fun _ => 0) s.drift.outst core + waiting ≤ 8 then
    .next (s.updSq core fun q => { q with hold := none })
  else .next s

/-- SQ_PRES (06 R185). -/
def execSqPres (h : Hdr) (pd : PReg) (unit : Opnd) (s : State) : Res :=
  .next (s.sq h [unit] [] fun t => t.sqDo h fun q => q.setPred pd (t.unitPresent (q.opnd unit).toNat))

/-- SQ_END: the beat ends for the SQ (06 R171). -/
def execSqEnd (h : Hdr) (s : State) : Res :=
  .next (s.sq h [] [] fun t => t.sqDo h fun q => { q with ended := true, run := false })

end Sys2Proof.Machine
end

