-- ==== Sys2Proof/Machine/Su.lean ====
section
/-! DEFINITION. The sampling units: jobs, the distribution of a position, verification of drafts, results (13 R375 to R380). -/

namespace Sys2Proof.Machine

open Sys2Proof

/-- A sampling unit replaced. -/
def State.setSu (s : State) (n : Fin 4) (u : Su) : State := { s with su := s.su.set n u }

/-- The job a post carries (13 R375). -/
def suJobOf (p : Packet) : SuJob :=
  { first := leAt p.payload 0 2, count := leAt p.payload 2 2, shards := leAt p.payload 4 1, k := leAt p.payload 6 2,
    cand := leAt p.payload 8 8 % 2 ^ 33, part := p.part }

/-- Does the unit take a job: the post is a job, its fields are in range, and the unit serves the poster's group (13 R375)? -/
def State.suTakes (s : State) (n : Nat) (p : Packet) : Bool :=
  let j := suJobOf p
  decide (p.kind = 1 ∧ 1 ≤ j.count ∧ j.count ≤ 1024 ∧ 1 ≤ j.shards ∧ j.shards ≤ 64 ∧ 1 ≤ j.k ∧ j.k ≤ 256 ∧ j.cand % 8 = 0) &&
    match s.groupSlot (s.part p.part).group with
    | some g => bit (s.rd (rRtGroupCtl g)) (14 + n)
    | none => false

/-- SU_JOB: the unit takes the oldest post of its mailbox, while fewer than 8 jobs wait behind the one that runs (13 R375, R377). A
post of an earlier period has no effect, and no job is taken in a skip beat (11 R332; log entry 40). -/
def execSuJob (n : Fin 4) (s : State) : Res :=
  if !s.suExists n.val ∨ 9 ≤ (s.suOf n.val).jobs.length then .next s
  else
    match s.takeMail (0x104 + n.val) with
    | none => .next s
    | some (p, s1) =>
      if !s.workPeriod ∨ s.injPeriod p ≠ s.beat.period.toNat then .next s1
      else if p.poison then .next (s1.setBit (rSuStatus n.val) 8)
      else if s1.suTakes n.val p then .next (s1.setSu n ⟨(s1.suOf n.val).jobs ++ [suJobOf p]⟩)
      else .next (s1.setBit (rSuStatus n.val) 9)

/-! ### A position (13 R375, R376) -/

/-- The candidates of a position, a token and a logit each: empty entries left out; a token that appears twice is kept in its
lowest shard; then NaN logits dropped (log entry 40). The flag says that one appeared twice. -/
def keepOnce : List (Word × Word) → List Word → List (Word × Word) × Bool
  | [], _ => ([], false)
  | c :: r, seen =>
    if seen.contains c.1 then ((keepOnce r seen).1, true)
    else
      let q := keepOnce r (c.1 :: seen)
      (if f32isNan c.2 then q.1 else c :: q.1, q.2)

/-- A candidate put into its place: logit descending, then token ascending (13 R376). -/
def insertCand (c : Word × Word) : List (Word × Word) → List (Word × Word)
  | [] => [c]
  | x :: r =>
    if f32lt x.2 c.2 ∨ (f32eq x.2 c.2 ∧ c.1.toNat < x.1.toNat) then c :: x :: r else x :: insertCand c r

/-- What is kept of a position: whether it is greedy, its tokens, and where it is not greedy the weights' sums and the
probabilities of the candidates kept (13 R376). -/
structure Dist where
  greedy : Bool
  toks   : List Word
  cum    : List Word
  pn     : List Word
  deriving DecidableEq, Repr

/-- The running sums of weights from a start. -/
def sumsFrom : Word → List Word → List Word
  | _, [] => []
  | z, w :: r => let z1 := f32add z w; z1 :: sumsFrom z1 r

/-- How many candidates top-p keeps: the first sum that is not below the limit ends them (13 R376). -/
def keepTo (lim : Word) : List Word → Nat
  | [] => 0
  | c :: r =>
    match r with
    | [] => 1
    | _ :: _ => if f32lt c lim then 1 + keepTo lim r else 1

/-- 2^−16 and 2^−24 as FP32. -/
def two16 : Word := 0x37800000
/-- 2^−24 as FP32. -/
def two24 : Word := 0x33800000

/-- A natural number as FP32. -/
def f32nat (n : Nat) : Word := rne32 (fOfInt n)

/-- The distribution of a position from its sorted candidates (13 R376, `prepare`). -/
def prepare (cs : List (Word × Word)) (temp : Word) (topp : Nat) : Dist :=
  let l0 := (cs.map (·.2)).getD 0 0
  let rt := uFrcp temp
  let ws := cs.map fun c => uFexp (f32mul (f32sub c.2 l0) rt)
  let cum := sumsFrom 0 ws
  let z := cum.getD (cum.length - 1) 0
  let nk := if topp = 0 then cs.length else keepTo (f32mul (f32mul (f32nat topp) two16) z) cum
  let rz := uFrcp (cum.getD (nk - 1) 0)
  ⟨false, cs.map (·.1), cum.take nk, (ws.take nk).map fun w => f32mul w rz⟩

/-- The index drawn from running sums (13 R376, `pick`). -/
def pick (cum : List Word) (seed key ctr : DWord) : Nat :=
  let u := (gen seed key ctr).toNat / 2 ^ 40
  let target := f32mul (f32mul (f32nat u) two24) (cum.getD (cum.length - 1) 0)
  ((List.range (cum.length - 1)).find? fun i => f32lt target (cum.getD i 0)).getD (cum.length - 1)

/-- The counter of a draw at a token position (13 R376). -/
def drawCtr (x idx : Nat) : DWord := BitVec.ofNat 64 (x * 65536 + idx)

/-- The token sampled at a position (13 R379, `sampled`). -/
def Dist.sample (d : Dist) (x : Nat) (seed key : DWord) : Word :=
  if d.greedy then d.toks.getD 0 0 else d.toks.getD (pick d.cum seed key (drawCtr x 1)) 0

/-- The probability of a token among those kept (13 R379, `prob`). -/
def Dist.prob (d : Dist) (tok : Word) : Word :=
  match (d.toks.zip d.pn).find? fun p => decide (p.1 = tok) with
  | some p => p.2
  | none => 0

/-- The token drawn where a draft is rejected (13 R379, `adjusted`). -/
def Dist.adjusted (d : Dist) (x : DraftStep) (pos : Nat) (seed key : DWord) : Word :=
  if d.greedy then d.toks.getD 0 0
  else
    let rs := (d.toks.zip d.pn).map fun p => if p.1 = x.tok then f32max 0 (f32sub p.2 x.q) else p.2
    let rc := sumsFrom 0 rs
    let use := if f32lt 0 (rc.getD (rc.length - 1) 0) then rc else sumsFrom 0 d.pn
    d.toks.getD (pick use seed key (drawCtr pos 1)) 0

/-- Is a draft accepted (13 R379)? -/
def Dist.accepts (d : Dist) (x : DraftStep) (pos : Nat) (seed key : DWord) : Bool :=
  if d.greedy then decide (d.toks.getD 0 0 = x.tok)
  else
    let p := d.prob x.tok
    if f32lt 0 p then
      if f32lt x.q p || f32eq x.q p then true
      else
        let u := (gen seed key (drawCtr pos 0)).toNat / 2 ^ 40
        f32lt (f32mul (f32mul (f32nat u) two24) x.q) p
    else false

/-- Verification from offset `i` on: the tokens emitted and how many drafts are accepted (13 R379, `verify`). -/
def verifyFrom (l : Nat) (seed key : DWord) : Nat → List Dist → List DraftStep → List Word × Nat
  | _, [], _ => ([], 0)
  | i, d :: _, [] => ([d.sample (l + i) seed key], 0)
  | i, d :: ds, x :: xs =>
    if d.accepts x (l + i) seed key then
      let q := verifyFrom l seed key (i + 1) ds xs
      (x.tok :: q.1, q.2 + 1)
    else ([d.adjusted x (l + i) seed key], 0)

/-! ### A slot (13 R375 to R379) -/

/-- The candidates read at an address, n entries of 8 bytes. -/
def candsOf (bs : List Byte) (n : Nat) : List (Word × Word) :=
  ((List.range n).map fun i => ((BitVec.ofNat 32 (leAt bs (8 * i) 4) : Word), (BitVec.ofNat 32 (leAt bs (8 * i + 4) 4) : Word))).filter
    fun c => decide (c.1 ≠ 0xFFFFFFFF)

/-- The distribution of a position for an entry; none where no candidate is left or the best is −infinity. -/
def Ent.dist (e : Ent) (raw : List (Word × Word)) : Option Dist :=
  let sorted := raw.foldl (fun l c => insertCand c l) []
  let cs := sorted.take (if e.topkEn then e.topK.toNat + 1 else 256)
  let temp : Word := BitVec.ofNat 32 (e.temp.toNat * 65536)
  match cs with
  | [] => none
  | c :: _ =>
    if c.2 = f32ninf then none
    else if !f32lt 0 temp ∨ c.2 = f32inf then some ⟨true, cs.map (·.1), [], []⟩
    else some (prepare cs temp e.topP.toNat)

/-- All of a list, where every one is there. -/
def allSome {α : Type} : List (Option α) → Option (List α)
  | [] => some []
  | none :: _ => none
  | some x :: r => (allSome r).map (x :: ·)

/-- A result held as uncommitted by the RT (13 R377). -/
def State.addResult (s : State) (r : SlotResult) : State := { s with rt := { s.rt with results := s.rt.results ++ [r] } }

/-- One slot of a job sampled (13 R375 to R379). -/
def State.sampleSlot (s : State) (n : Nat) (t : BTable) (j : SuJob) (i : Nat) : State :=
  match t.slots[j.first + i]? with
  | none => s.setBit (rSuStatus n) 9
  | some b =>
    if !b.emit then s
    else if s.rt.results.any (fun r => decide (r.group = t.group ∧ r.slot = j.first + i)) then s.setBit (rSuStatus n) 6
    else
      let per := j.shards * j.k
      let at_ := j.cand + 17 * i * per * 8
      let c := at_ / 0x2000000
      let a := at_ % 0x2000000
      let len := (b.d + 1) * per * 8
      let (bs, bad, s1) := (s.atEndpoint (0x104 + n) c).unitRead 8 j.part c a len
      if !bad.isEmpty then s1.setBit (rSuStatus n) 8
      else
        let raw := (List.range (b.d + 1)).map fun o => keepOnce (candsOf ((bs.drop (o * per * 8)).take (per * 8)) per) []
        let s2 := if raw.any (·.2) then s1.setBit (rSuStatus n) 6 else s1
        let e := s.ent b.ent
        match allSome (raw.map fun r => e.dist r.1) with
        | none =>
          let s3 := if raw.any (fun r => r.1.isEmpty) then s2.setBit (rSuStatus n) 7 else s2
          s3.addResult ⟨t.group, t.bno, j.first + i, 0, none⟩
        | some ds =>
          let q := verifyFrom e.length e.seed e.key 0 ds b.drafts
          let s3 := s2.addResult ⟨t.group, t.bno, j.first + i, q.2, some q.1⟩
          ((s3.bumpN (rSuAccepted n) q.2).bumpN (rSuRejected n) (bn (decide (q.2 < b.drafts.length)))).bumpN (rSuEmitted n)
            q.1.length

/-- Does a job read a slice whose region is stopped (11 R326)? -/
def State.suWaits (s : State) (j : SuJob) : Bool :=
  (List.range j.count).any fun i => s.stopped ((j.cand + 17 * i * (j.shards * j.k) * 8) / 0x2000000)

/-- SU_RESULT: the unit's oldest job completes; its results stand at the RT, uncommitted (13 R375 to R379, R384). While a region
that it reads is stopped it waits. -/
def execSuResult (n : Fin 4) (s : State) : Res :=
  match (s.suOf n.val).jobs with
  | [] => .next s
  | j :: r =>
    if !s.workPeriod ∨ s.suWaits j then .next s
    else
    let s1 := s.setSu n ⟨r⟩
    let s2 :=
      match s1.groupSlot (s1.part j.part).group with
      | none => s1.setBit (rSuStatus n.val) 9
      | some g =>
        match s1.rt.tables.find? fun (t : BTable) => decide (t.n = g) with
        | none => s1.setBit (rSuStatus n.val) 9
        | some t => (List.range j.count).foldl (fun u i => u.sampleSlot n.val t j i) s1
    let s3 := s2.bump (rSuJobs n.val)
    .next (if s3.beat.inGuard then s3.setBit (rSuStatus n.val) 5 else s3)

end Sys2Proof.Machine
end

