-- ==== Sys2Proof/Machine/Tether.lean ====
section
/-! DEFINITION. The slots of the tether and the cells that arrive (10 R278 to R292). The header of an arriving cell says what it
is; each row is the arrival in the slot of a cell of its class. -/

namespace Sys2Proof.Machine

open Sys2Proof

/-- TETHER_SLOT_DEPART: a departure slot of a port begins (10 R286). -/
def execTetherSlotDepart (port : Fin 8) (slot : Nat) (s : State) : Res := .next (if s.live then s.depart port slot else s)

/-- DATA: a DATA cell arrives (10 R285, R286; 09 R261). -/
def execData (c : CellIn) (s : State) : Res := .next (s.arrive c)

/-- DMA: a DMA cell arrives (05 R160; 10 R292). -/
def execDma (c : CellIn) (s : State) : Res := .next (s.arrive c)

/-- FLAG: a FLAG cell arrives (08 R243, R244; 10 R291). -/
def execFlag (c : CellIn) (s : State) : Res := .next (s.arrive c)

/-- BATCH: a BATCH cell arrives (13 R373). -/
def execBatch (c : CellIn) (s : State) : Res := .next (s.arrive c)

/-- IDLE: an IDLE cell arrives (10 R283, R285, R304). -/
def execIdle (c : CellIn) (s : State) : Res := .next (s.arrive c)

end Sys2Proof.Machine
end

