-- ==== Sys2Proof/Machine/TimeBase.lean ====
section
/-! DEFINITION. The commands of the time base and the clock regions (11). -/

namespace Sys2Proof.Machine

open Sys2Proof

/-- A change of TC other than counting is logged: its old and new words, the lower first (11 R311; 16 R465). -/
def State.logTc (s : State) (old new : DWord) : State :=
  (s.log originHw 7 0xFF 0 (lo32 old) (lo32 new)).log originHw 7 0xFF 0 (hi32 old) (hi32 new)

/-- TSYNC_LOAD: an armed TSYNC edge loads TC with TB_TSYNC_VAL advanced by 12 (11 R314). A device that is not armed, or is
joined, ignores the pin. -/
def execTsyncLoad (s : State) : Res :=
  if s.live ∧ bit (s.rd rTbCtl) 1 ∧ !s.beat.joined then
    let t := join64 (s.rd rTbTsyncValLo) (s.rd rTbTsyncValHi) + 12
    let s1 := s.loadTc t
    .next (((s1.clrBit rTbCtl 1).setBit rTbStatus 4).logTc s.tb.tc t)
  else .next s

/-- REF_LOST: the active source is lost (11 R313). -/
def execRefLost (s : State) : Res := .next (if s.tb.locked then s.loseSource else s)

/-- REF_RELOCK: the source has been within limits for 10 ms (11 R313). -/
def execRefRelock (s : State) : Res :=
  .next (if s.tb.holdover then { s with tb := { s.tb with locked := true, holdover := false } } else s)

/-- The TB slews the TC phase toward the reference by 1/16 tc, which is 2/32 (11 R315; log entry 53). -/
def State.slew (s : State) (err : Int) : State := { s with tb := { s.tb with phase := s.tb.phase + if 0 < err then 2 else -2 } }

/-- TB_PHASE_CHECK: the offset of an alignment block of the parent port, in 1/16 tc: the first one after step 3 of a join is the
phase reference of a device that is not the root; the later ones are compared with it; from 4 tc on every port that holds lock loses it (11 R315). -/
def execTbPhaseCheck (offset : Int) (s : State) : Res :=
  match s.tb.phaseRef with
  | none =>
    let j := s.tether.join
    let after : Bool := decide (4 ≤ j.step ∧ j.step ≤ 6) && !j.isRoot && j.parent.isSome
    .next (if after then { s with tb := { s.tb with phaseRef := some offset } } else s)
  | some r =>
    let err := offset - r
    let m := err.natAbs
    let s1 := s.wrF rTbPhase 0 16 (err % 65536).toNat
    let s2 := if fld (s.rd rTbPhase) 16 16 < m then s1.wrF rTbPhase 16 16 (min 0xFFFF m) else s1
    let s3 := if 8 ≤ m ∧ m < 64 then s2.slew err else s2
    if m < 32 then .next s3
    else
      let s4 := ((s3.setBit rTbStatus 3).event 0x83 3 0xFF 0xFF 0xFFFF (BitVec.ofInt 32 err)).alert 2
      if m < 64 then .next s4
      else .next (((List.finRange 8).filter fun p => decide (2 ≤ (s.port p).st)).foldl State.loseLock s4)

/-- BEAT_START_ANNOUNCE: 8 tc before a beat start the region taps announce it (11 R316, R328). -/
def execBeatStartAnnounce (_region : Region) (s : State) : Res :=
  .next (if s.beat.joined then s.toTc (s.nextBoundary - 8) else s)

/-- MONITOR_WARN: a replica-path monitor of a clocked region warns with a margin in 1/64 period; the region stretches, or the
warning waits for the neighbours to follow (11 R320, R321, R337). -/
def execMonitorWarn (region : Region) (margin : Nat) (s : State) : Res :=
  if s.live ∧ s.level region.val ≠ 3 then
    let a := rPmRegionMon region.val
    let s1 := s.setBit a 8
    let s2 := if margin < fld (s.rd a) 0 8 then s1.wrF a 0 8 margin else s1
    if s2.mayStretch region.val then .next (s2.stretch region).drainWarns else .next (s2.setWarn region true)
  else .next s

/-- FOLLOW_STRETCH: a region behind a neighbour's count stretches (11 R321). -/
def execFollowStretch (region : Region) (s : State) : Res :=
  if (regionNeighbours region.val).any (fun b => decide (s.stretchOf region.val < s.stretchOf b))
      ∧ s.level region.val ≠ 3 then
    .next (s.stretch region).drainWarns
  else .next s

/-- The flit at the front of an input of a core's switch is replaced by a void one that its landing misses (11 R323). -/
def Lat.voidFront (l : Lat) (d : Dir) : Lat :=
  let v : Flit := ⟨true, false, true, List.replicate 128 0, List.replicate 16 false⟩
  match d with
  | .n => { l with inN := v :: l.inN.drop 1 }
  | .e => { l with inE := v :: l.inE.drop 1 }
  | .s => { l with inS := v :: l.inS.drop 1 }
  | .w => { l with inW := v :: l.inW.drop 1 }
  | .l => l

/-- CROSSING_LATE: a release cycle finds its entry unwritten (11 R323, R331): a void flit on a lattice crossing, the capture,
SKIP, and the SCHED_MISS of the core at which the flit should have landed; on a sheet link the elastic buffers absorb the
delay. A crossing that is late after the cut sets SKIP for the next status (R334). -/
def execCrossingLate (boundary : Fin 24) (down sheetLink : Bool) (core : Nat) (inp : Dir) (s : State) : Res :=
  let s1 :=
    if bit (s.rd rTbXlate) 6 then s else s.wr rTbXlate (BitVec.ofNat 32 (boundary.val + bn down * 32 + 64))
  let s2 := s1.bump rTbXlateCount
  let s3 := if s.beat.joined then s2.setSkip else s2
  .next (if sheetLink then s3 else s3.updCore core fun k => { k with lat := k.lat.voidFront inp })

end Sys2Proof.Machine
end

