-- ==== Sys2Proof/Machine/Ve.lean ====
section
/-! DEFINITION. The commands of the vector engine, as the stream gives them (04). -/

namespace Sys2Proof.Machine

open Sys2Proof

/-- The counters a vector operand names. -/
def VOp.opnds : VOp → List Opnd
  | .scalar o => [o]
  | _ => []

/-- A vector operand with its scalar fixed at dispatch (06 R174). -/
def VOp.fixed (v : Opnd → Word) : VOp → VOp
  | .scalar o => .scalar (.imm (v o))
  | x => x

/-- The counters a mask names. -/
def VMask.opnds : VMask → List Opnd
  | .len o => [o]
  | _ => []

/-- A mask with its length fixed at dispatch. -/
def VMask.fixed (v : Opnd → Word) : VMask → VMask
  | .len o => .len (.imm (v o))
  | x => x

/-- VX_LD (04 R137). -/
def execVxLd (h : Hdr) (x : Fin 8) (vd : VReg) (src : VOp) (s : State) : Res :=
  .next (s.dispatch h .ve (VOp.opnds src) fun v => .vxLd x vd (VOp.fixed v src))

/-- VX_ST (04 R137). -/
def execVxSt (h : Hdr) (x : Fin 8) (mz : Bool) (vs : VReg) (dst : VOp) (mask : VMask) (s : State) : Res :=
  .next (s.dispatch h .ve (VOp.opnds dst ++ VMask.opnds mask) fun v =>
    .vxSt x mz vs (VOp.fixed v dst) (VMask.fixed v mask))

/-- VX_BCAST (04 R137). -/
def execVxBcast (h : Hdr) (vd : VReg) (v : Opnd) (s : State) : Res :=
  .next (s.dispatch h .ve [v] fun f => .vxBcast vd (f v))

/-- VX_IOTA (04 R137). -/
def execVxIota (h : Hdr) (vd : VReg) (s : State) : Res := .next (s.dispatch h .ve [] fun _ => .vxIota vd)

/-- VX_MOV (04 R137). -/
def execVxMov (h : Hdr) (vd vs : VReg) (s : State) : Res := .next (s.dispatch h .ve [] fun _ => .vxMov vd vs)

/-- VX_CTX (04 R115). -/
def execVxCtx (h : Hdr) (x : Fin 8) (lo hi erow key : Opnd) (s : State) : Res :=
  .next (s.dispatch h .ve [lo, hi, erow, key] fun v => .vxCtx x (v lo) (v hi) (v erow) (v key))

/-- VX_RUN (04 R122). -/
def execVxRun (h : Hdr) (c : VxRun) (s : State) : Res :=
  .next (s.dispatch h .ve (c.rows :: [c.in0, c.in1, c.in2, c.in3, c.out0, c.out1].flatMap VOp.opnds ++ VMask.opnds c.mask)
    fun v => .vxRun { c with rows := .imm (v c.rows), in0 := VOp.fixed v c.in0, in1 := VOp.fixed v c.in1,
                             in2 := VOp.fixed v c.in2, in3 := VOp.fixed v c.in3, out0 := VOp.fixed v c.out0,
                             out1 := VOp.fixed v c.out1, mask := VMask.fixed v c.mask })

/-- VX_RED (04 R128). -/
def execVxRed (h : Hdr) (c : VxRed) (s : State) : Res :=
  .next (s.dispatch h .ve (c.rows :: VOp.opnds c.src ++ VMask.opnds c.mask)
    fun v => .vxRed { c with rows := .imm (v c.rows), src := VOp.fixed v c.src, mask := VMask.fixed v c.mask })

/-- VX_SCAN (04 R131). -/
def execVxScan (h : Hdr) (c : VxScan) (s : State) : Res :=
  .next (s.dispatch h .ve (c.rows :: [c.dst, c.src].flatMap VOp.opnds ++ VMask.opnds c.mask)
    fun v => .vxScan { c with rows := .imm (v c.rows), dst := VOp.fixed v c.dst, src := VOp.fixed v c.src,
                              mask := VMask.fixed v c.mask })

/-- VX_SM_STAT (04 R132). -/
def execVxSmStat (h : Hdr) (vm vs : VReg) (src : VOp) (rows : Opnd) (mask : VMask) (s : State) : Res :=
  .next (s.dispatch h .ve (rows :: VOp.opnds src ++ VMask.opnds mask)
    fun v => .vxSmStat vm vs (VOp.fixed v src) (v rows) (VMask.fixed v mask))

/-- VX_SM_MERGE (04 R133). -/
def execVxSmMerge (h : Hdr) (vm vs vm2 vs2 va1 va2 : VReg) (s : State) : Res :=
  .next (s.dispatch h .ve [] fun _ => .vxSmMerge vm vs vm2 vs2 va1 va2)

/-- VX_SM_NORM (04 R134). -/
def execVxSmNorm (h : Hdr) (dst src : VOp) (vm vs : VReg) (rows : Opnd) (mask : VMask) (s : State) : Res :=
  .next (s.dispatch h .ve (rows :: [dst, src].flatMap VOp.opnds ++ VMask.opnds mask)
    fun v => .vxSmNorm (VOp.fixed v dst) (VOp.fixed v src) vm vs (v rows) (VMask.fixed v mask))

/-- VX_SM_FINAL (04 R134). -/
def execVxSmFinal (h : Hdr) (dst src : VOp) (vs : VReg) (rows : Opnd) (s : State) : Res :=
  .next (s.dispatch h .ve (rows :: [dst, src].flatMap VOp.opnds)
    fun v => .vxSmFinal (VOp.fixed v dst) (VOp.fixed v src) vs (v rows))

/-- VX_SM_LSE (04 R134). -/
def execVxSmLse (h : Hdr) (vd vm vs : VReg) (s : State) : Res := .next (s.dispatch h .ve [] fun _ => .vxSmLse vd vm vs)

/-- VX_DIG_POST (04 R136). -/
def execVxDigPost (h : Hdr) (n : Fin 8) (layer tensor : BitVec 16) (s : State) : Res :=
  .next (s.dispatch h .ve [] fun _ => .vxDigPost n layer tensor)

end Sys2Proof.Machine
end

