-- ==== Sys2Proof/Machine/Dispatch.lean ====
section
/-! DEFINITION. The dispatcher: one arm for each command, one direct call of its meaning. -/

namespace Sys2Proof.Machine

open Sys2Proof

/-- The effect of a command on everything but the queue. -/
def exec (i : Instr) (s : State) : Host.Outcome State Fault Refusal :=
  match i with
  | .pwrEnRise => Sys2Proof.Machine.execPwrEnRise s
  | .pwrEnFall => Sys2Proof.Machine.execPwrEnFall s
  | .powerOffHoldEnd => Sys2Proof.Machine.execPowerOffHoldEnd s
  | .undervoltageLockout => Sys2Proof.Machine.execUndervoltageLockout s
  | .overvoltageLockout => Sys2Proof.Machine.execOvervoltageLockout s
  | .overcurrentTrip => Sys2Proof.Machine.execOvercurrentTrip s
  | .pwrInputLow vin => Sys2Proof.Machine.execPwrInputLow vin s
  | .pwrInputHigh vin => Sys2Proof.Machine.execPwrInputHigh vin s
  | .railFault rail => Sys2Proof.Machine.execRailFault rail s
  | .railOutOfRegulation rail => Sys2Proof.Machine.execRailOutOfRegulation rail s
  | .thermalTrip => Sys2Proof.Machine.execThermalTrip s
  | .resetNLow ns => Sys2Proof.Machine.execResetNLow ns s
  | .internalResetRelease cal => Sys2Proof.Machine.execInternalResetRelease cal s
  | .pctReady late => Sys2Proof.Machine.execPctReady late s
  | .firmwareReset => Sys2Proof.Machine.execFirmwareReset s
  | .tsyncLoad => Sys2Proof.Machine.execTsyncLoad s
  | .refLost => Sys2Proof.Machine.execRefLost s
  | .refRelock => Sys2Proof.Machine.execRefRelock s
  | .tbPhaseCheck offset => Sys2Proof.Machine.execTbPhaseCheck offset s
  | .beatStartAnnounce region => Sys2Proof.Machine.execBeatStartAnnounce region s
  | .beatBoundary => Sys2Proof.Machine.execBeatBoundary s
  | .guardBandStart => Sys2Proof.Machine.execGuardBandStart s
  | .statusCut => Sys2Proof.Machine.execStatusCut s
  | .statusRoundSend r => Sys2Proof.Machine.execStatusRoundSend r s
  | .statusCell c => Sys2Proof.Machine.execStatusCell c s
  | .monitorWarn region margin => Sys2Proof.Machine.execMonitorWarn region margin s
  | .followStretch region => Sys2Proof.Machine.execFollowStretch region s
  | .crossingLate boundary down sheetLink core inp => Sys2Proof.Machine.execCrossingLate boundary down sheetLink core inp s
  | .levelChangeRequest via region value => Sys2Proof.Machine.execLevelChangeRequest via region value s
  | .levelChangeDone region => Sys2Proof.Machine.execLevelChangeDone region s
  | .heartbeatSend => Sys2Proof.Machine.execHeartbeatSend s
  | .powerWindow avg => Sys2Proof.Machine.execPowerWindow avg s
  | .thermalSample temps => Sys2Proof.Machine.execThermalSample temps s
  | .scrubRead core bank upset => Sys2Proof.Machine.execScrubRead core bank upset s
  | .bankGrant core bank reqs upset => Sys2Proof.Machine.execBankGrant core bank reqs upset s
  | .correctionWriteback core bank => Sys2Proof.Machine.execCorrectionWriteback core bank s
  | .poisonWriteback core bank => Sys2Proof.Machine.execPoisonWriteback core bank s
  | .sqFetch core => Sys2Proof.Machine.execSqFetch core s
  | .engineIssue core eng => Sys2Proof.Machine.execEngineIssue core eng s
  | .commandComplete core eng id => Sys2Proof.Machine.execCommandComplete core eng id s
  | .sqNop h => Sys2Proof.Machine.execSqNop h s
  | .sqMovi h cd imm => Sys2Proof.Machine.execSqMovi h cd imm s
  | .sqMov h cd cs => Sys2Proof.Machine.execSqMov h cd cs s
  | .sqRd h cd src => Sys2Proof.Machine.execSqRd h cd src s
  | .sqAdd h cd ca b => Sys2Proof.Machine.execSqAdd h cd ca b s
  | .sqSub h cd ca b => Sys2Proof.Machine.execSqSub h cd ca b s
  | .sqMul h cd ca b => Sys2Proof.Machine.execSqMul h cd ca b s
  | .sqAnd h cd ca b => Sys2Proof.Machine.execSqAnd h cd ca b s
  | .sqOr h cd ca b => Sys2Proof.Machine.execSqOr h cd ca b s
  | .sqXor h cd ca b => Sys2Proof.Machine.execSqXor h cd ca b s
  | .sqShl h cd ca b => Sys2Proof.Machine.execSqShl h cd ca b s
  | .sqShr h cd ca b => Sys2Proof.Machine.execSqShr h cd ca b s
  | .sqLd h size cd ca imm => Sys2Proof.Machine.execSqLd h size cd ca imm s
  | .sqLdValue core => Sys2Proof.Machine.execSqLdValue core s
  | .sqSt h size ca imm cs => Sys2Proof.Machine.execSqSt h size ca imm cs s
  | .sqCmp h op pd ca b => Sys2Proof.Machine.execSqCmp h op pd ca b s
  | .sqKset h kn ca op b => Sys2Proof.Machine.execSqKset h kn ca op b s
  | .sqKoff h kn => Sys2Proof.Machine.execSqKoff h kn s
  | .sqPand h pd pa pb => Sys2Proof.Machine.execSqPand h pd pa pb s
  | .sqPor h pd pa pb => Sys2Proof.Machine.execSqPor h pd pa pb s
  | .sqPxor h pd pa pb => Sys2Proof.Machine.execSqPxor h pd pa pb s
  | .sqPnot h pd pa => Sys2Proof.Machine.execSqPnot h pd pa s
  | .sqPset h pd v => Sys2Proof.Machine.execSqPset h pd v s
  | .sqLoop h ln count endPc => Sys2Proof.Machine.execSqLoop h ln count endPc s
  | .sqJmp h label => Sys2Proof.Machine.execSqJmp h label s
  | .sqCall h label => Sys2Proof.Machine.execSqCall h label s
  | .sqRet h => Sys2Proof.Machine.execSqRet h s
  | .sqRcall h id cn => Sys2Proof.Machine.execSqRcall h id cn s
  | .sqRret h => Sys2Proof.Machine.execSqRret h s
  | .sqWaitq h eng n => Sys2Proof.Machine.execSqWaitq h eng n s
  | .sqWaitqRelease core => Sys2Proof.Machine.execSqWaitqRelease core s
  | .sqDelay h n => Sys2Proof.Machine.execSqDelay h n s
  | .sqDelayExpire core => Sys2Proof.Machine.execSqDelayExpire core s
  | .sqPost h unit kind src => Sys2Proof.Machine.execSqPost h unit kind src s
  | .sqPostAccept core => Sys2Proof.Machine.execSqPostAccept core s
  | .sqPres h pd unit => Sys2Proof.Machine.execSqPres h pd unit s
  | .sqEnd h => Sys2Proof.Machine.execSqEnd h s
  | .mxLoadW h c => Sys2Proof.Machine.execMxLoadW h c s
  | .mxRunWs h c => Sys2Proof.Machine.execMxRunWs h c s
  | .mxRunOs h c => Sys2Proof.Machine.execMxRunOs h c s
  | .mxClear h half l512 => Sys2Proof.Machine.execMxClear h half l512 s
  | .mxSheet h sid => Sys2Proof.Machine.execMxSheet h sid s
  | .mxSheetOff h => Sys2Proof.Machine.execMxSheetOff h s
  | .meSheetStall core => Sys2Proof.Machine.execMeSheetStall core s
  | .vxLd h x vd src => Sys2Proof.Machine.execVxLd h x vd src s
  | .vxSt h x mz vs dst mask => Sys2Proof.Machine.execVxSt h x mz vs dst mask s
  | .vxBcast h vd v => Sys2Proof.Machine.execVxBcast h vd v s
  | .vxIota h vd => Sys2Proof.Machine.execVxIota h vd s
  | .vxMov h vd vs => Sys2Proof.Machine.execVxMov h vd vs s
  | .vxCtx h x lo hi erow key => Sys2Proof.Machine.execVxCtx h x lo hi erow key s
  | .vxRun h c => Sys2Proof.Machine.execVxRun h c s
  | .vxRed h c => Sys2Proof.Machine.execVxRed h c s
  | .vxScan h c => Sys2Proof.Machine.execVxScan h c s
  | .vxSmStat h vm vs src rows mask => Sys2Proof.Machine.execVxSmStat h vm vs src rows mask s
  | .vxSmMerge h vm vs vm2 vs2 va1 va2 => Sys2Proof.Machine.execVxSmMerge h vm vs vm2 vs2 va1 va2 s
  | .vxSmNorm h dst src vm vs rows mask => Sys2Proof.Machine.execVxSmNorm h dst src vm vs rows mask s
  | .vxSmFinal h dst src vs rows => Sys2Proof.Machine.execVxSmFinal h dst src vs rows s
  | .vxSmLse h vd vm vs => Sys2Proof.Machine.execVxSmLse h vd vm vs s
  | .vxDigPost h n layer tensor => Sys2Proof.Machine.execVxDigPost h n layer tensor s
  | .dmCopy h dst src bytes => Sys2Proof.Machine.execDmCopy h dst src bytes s
  | .dmZero h dst bytes => Sys2Proof.Machine.execDmZero h dst bytes s
  | .dmGather h mz dst base list count bsize => Sys2Proof.Machine.execDmGather h mz dst base list count bsize s
  | .dmScatter h base list count bsize src => Sys2Proof.Machine.execDmScatter h base list count bsize src s
  | .dmRput h chip win off src bytes => Sys2Proof.Machine.execDmRput h chip win off src bytes s
  | .lpSend h st src bytes => Sys2Proof.Machine.execLpSend h st src bytes s
  | .lpArm h st dst bytes flag => Sys2Proof.Machine.execLpArm h st dst bytes flag s
  | .lpDisarm h st => Sys2Proof.Machine.execLpDisarm h st s
  | .switchEntryAdvance core => Sys2Proof.Machine.execSwitchEntryAdvance core s
  | .latticeDeparture core => Sys2Proof.Machine.execLatticeDeparture core s
  | .latticeArrival core port upset => Sys2Proof.Machine.execLatticeArrival core port upset s
  | .legArrival f => Sys2Proof.Machine.execLegArrival f s
  | .seSet h f v => Sys2Proof.Machine.execSeSet h f v s
  | .seAdd h f n => Sys2Proof.Machine.execSeAdd h f n s
  | .seWaitObs h f v => Sys2Proof.Machine.execSeWaitObs h f v s
  | .seWaitTake h f n => Sys2Proof.Machine.execSeWaitTake h f n s
  | .seRsig h chip f n => Sys2Proof.Machine.execSeRsig h chip f n s
  | .seFenceQ h m => Sys2Proof.Machine.execSeFenceQ h m s
  | .seFenceAll h => Sys2Proof.Machine.execSeFenceAll h s
  | .seFenceRemote h => Sys2Proof.Machine.execSeFenceRemote h s
  | .fenceRelease core => Sys2Proof.Machine.execFenceRelease core s
  | .flagOpApply t => Sys2Proof.Machine.execFlagOpApply t s
  | .waitRelease core => Sys2Proof.Machine.execWaitRelease core s
  | .driftRouterCycle px py upset => Sys2Proof.Machine.execDriftRouterCycle px py upset s
  | .driftPacketEject ep => Sys2Proof.Machine.execDriftPacketEject ep s
  | .suJob n => Sys2Proof.Machine.execSuJob n s
  | .suResult n => Sys2Proof.Machine.execSuResult n s
  | .draftPacket => Sys2Proof.Machine.execDraftPacket s
  | .pgSelection => Sys2Proof.Machine.execPgSelection s
  | .digestPost => Sys2Proof.Machine.execDigestPost s
  | .pgViewWrite part => Sys2Proof.Machine.execPgViewWrite part s
  | .tetherSlotDepart port slot => Sys2Proof.Machine.execTetherSlotDepart port slot s
  | .data c => Sys2Proof.Machine.execData c s
  | .dma c => Sys2Proof.Machine.execDma c s
  | .flag c => Sys2Proof.Machine.execFlag c s
  | .batch c => Sys2Proof.Machine.execBatch c s
  | .idle c => Sys2Proof.Machine.execIdle c s
  | .portLocked port block => Sys2Proof.Machine.execPortLocked port block s
  | .portLockLost port => Sys2Proof.Machine.execPortLockLost port s
  | .portTrainTimeout port => Sys2Proof.Machine.execPortTrainTimeout port s
  | .neighbourLost port => Sys2Proof.Machine.execNeighbourLost port s
  | .joinStart via value => Sys2Proof.Machine.execJoinStart via value s
  | .joinReadySet via value => Sys2Proof.Machine.execJoinReadySet via value s
  | .joinProbeTick => Sys2Proof.Machine.execJoinProbeTick s
  | .probe port probeTc hold => Sys2Proof.Machine.execProbe port probeTc hold s
  | .echo port probeTc hold trip16 => Sys2Proof.Machine.execEcho port probeTc hold trip16 s
  | .time port tcDep hops => Sys2Proof.Machine.execTime port tcDep hops s
  | .adopt port => Sys2Proof.Machine.execAdopt port s
  | .peer port => Sys2Proof.Machine.execPeer port s
  | .ready port r => Sys2Proof.Machine.execReady port r s
  | .start port startTc bno => Sys2Proof.Machine.execStart port startTc bno s
  | .joinTimeout => Sys2Proof.Machine.execJoinTimeout s
  | .startTcReached => Sys2Proof.Machine.execStartTcReached s
  | .reelOrderComplete part => Sys2Proof.Machine.execReelOrderComplete part s
  | .rdmaReadResponse p => Sys2Proof.Machine.execRdmaReadResponse p s
  | .roceAcknowledge p syn => Sys2Proof.Machine.execRoceAcknowledge p syn s
  | .cnp p => Sys2Proof.Machine.execCnp p s
  | .roceRetryTimeout qp => Sys2Proof.Machine.execRoceRetryTimeout qp s
  | .roceRateIncrease qp => Sys2Proof.Machine.execRoceRateIncrease qp s
  | .rlRetry via part => Sys2Proof.Machine.execRlRetry via part s
  | .rlAbandon via part => Sys2Proof.Machine.execRlAbandon via part s
  | .portUp ep => Sys2Proof.Machine.execPortUp ep s
  | .portDown ep => Sys2Proof.Machine.execPortDown ep s
  | .failoverAnnounce net => Sys2Proof.Machine.execFailoverAnnounce net s
  | .neighbourDiscovery q => Sys2Proof.Machine.execNeighbourDiscovery q s
  | .icmpEcho q => Sys2Proof.Machine.execIcmpEcho q s
  | .pauseFrame ep => Sys2Proof.Machine.execPauseFrame ep s
  | .sessionSyn h => Sys2Proof.Machine.execSessionSyn h s
  | .ack h => Sys2Proof.Machine.execAck h s
  | .pctResendTimeout sess => Sys2Proof.Machine.execPctResendTimeout sess s
  | .heartbeat h => Sys2Proof.Machine.execHeartbeat h s
  | .hostHeartbeatTimeout sess => Sys2Proof.Machine.execHostHeartbeatTimeout sess s
  | .submit h c b => Sys2Proof.Machine.execSubmit h c b s
  | .resume h c maxNew deadline tokens => Sys2Proof.Machine.execResume h c maxNew deadline tokens s
  | .cancel h c => Sys2Proof.Machine.execCancel h c s
  | .draft h c pos steps => Sys2Proof.Machine.execDraft h c pos steps s
  | .fetch h c from_ release => Sys2Proof.Machine.execFetch h c from_ release s
  | .partCreate h c b => Sys2Proof.Machine.execPartCreate h c b s
  | .partDestroy h c => Sys2Proof.Machine.execPartDestroy h c s
  | .loadBegin h c bytes => Sys2Proof.Machine.execLoadBegin h c bytes s
  | .loadEnd h c handle => Sys2Proof.Machine.execLoadEnd h c handle s
  | .bind h c b => Sys2Proof.Machine.execBind h c b s
  | .unbind h c keep => Sys2Proof.Machine.execUnbind h c keep s
  | .rebind h c b keep => Sys2Proof.Machine.execRebind h c b keep s
  | .transit h c b => Sys2Proof.Machine.execTransit h c b s
  | .flight h c b => Sys2Proof.Machine.execFlight h c b s
  | .join h c => Sys2Proof.Machine.execJoin h c s
  | .attest h c nonce => Sys2Proof.Machine.execAttest h c nonce s
  | .logStream h c mask fromEvt fromLog => Sys2Proof.Machine.execLogStream h c mask fromEvt fromLog s
  | .fwBegin h c => Sys2Proof.Machine.execFwBegin h c s
  | .fwCommit h c handle => Sys2Proof.Machine.execFwCommit h c handle s
  | .reset h c force => Sys2Proof.Machine.execReset h c force s
  | .svnRaise h c kind revoke svn => Sys2Proof.Machine.execSvnRaise h c kind revoke svn s
  | .configCommit h c copy => Sys2Proof.Machine.execConfigCommit h c copy s
  | .ucalSave h c => Sys2Proof.Machine.execUcalSave h c s
  | .ucalLoad h c copy => Sys2Proof.Machine.execUcalLoad h c copy s
  | .lcOwn h c pubkey => Sys2Proof.Machine.execLcOwn h c pubkey s
  | .lcReturn h c sig => Sys2Proof.Machine.execLcReturn h c sig s
  | .registerRead via addr => Sys2Proof.Machine.execRegisterRead via addr s
  | .registerWrite via addr value => Sys2Proof.Machine.execRegisterWrite via addr value s
  | .bulkWrite h b data => Sys2Proof.Machine.execBulkWrite h b data s
  | .bulkRead h b => Sys2Proof.Machine.execBulkRead h b s
  | .tsyncArm via value => Sys2Proof.Machine.execTsyncArm via value s
  | .tbTcLoRead via => Sys2Proof.Machine.execTbTcLoRead via s
  | .scRandRead via => Sys2Proof.Machine.execScRandRead via s
  | .rtCredit via value => Sys2Proof.Machine.execRtCredit via value s
  | .clientRecordWrite via client word value => Sys2Proof.Machine.execClientRecordWrite via client word value s
  | .rtGroupValidSet via n value => Sys2Proof.Machine.execRtGroupValidSet via n value s
  | .groupRelease via n value => Sys2Proof.Machine.execGroupRelease via n value s
  | .noadmit via n value => Sys2Proof.Machine.execNoadmit via n value s
  | .frozen via n value => Sys2Proof.Machine.execFrozen via n value s
  | .xbClaim via expert slot group => Sys2Proof.Machine.execXbClaim via expert slot group s
  | .xbReady via expert slot group => Sys2Proof.Machine.execXbReady via expert slot group s
  | .xbRelease via expert slot group => Sys2Proof.Machine.execXbRelease via expert slot group s
  | .xbPendingWrite via expert k value => Sys2Proof.Machine.execXbPendingWrite via expert k value s
  | .dgLogTailWrite via value => Sys2Proof.Machine.execDgLogTailWrite via value s
  | .scLogTailWrite via value => Sys2Proof.Machine.execScLogTailWrite via value s
  | .scEvtTailWrite via value => Sys2Proof.Machine.execScEvtTailWrite via value s
  | .ucalWrite via n value => Sys2Proof.Machine.execUcalWrite via n value s
  | .scJtagLock via value => Sys2Proof.Machine.execScJtagLock via value s
  | .bypass => Sys2Proof.Machine.execBypass s
  | .idcode => Sys2Proof.Machine.execIdcode s
  | .samplePreload => Sys2Proof.Machine.execSamplePreload s
  | .extest => Sys2Proof.Machine.execExtest s
  | .clamp => Sys2Proof.Machine.execClamp s
  | .highz => Sys2Proof.Machine.execHighz s
  | .dbgNs a => Sys2Proof.Machine.execDbgNs a s
  | .dbgS a => Sys2Proof.Machine.execDbgS a s
  | .lcScrap => Sys2Proof.Machine.execLcScrap s
  | .pldmSensorRead id => Sys2Proof.Machine.execPldmSensorRead id s
  | .mctpRecordRead idx => Sys2Proof.Machine.execMctpRecordRead idx s
  | .reservedOp h c op => Sys2Proof.Machine.execReservedOp h c op s
  | .roceUnsupportedPacket p => Sys2Proof.Machine.execRoceUnsupportedPacket p s

end Sys2Proof.Machine
end

