-- ==== Sys2Proof/Machine/Tick.lean ====
section
/-! DEFINITION. What passes when nothing is commanded: one tc. -/

namespace Sys2Proof.Machine

/-- The state one tc later: TC advances by one once the loop has locked, and in holdover (11 R311, R313; log entry 2); streams
send the records that have come (16 R472). -/
def State.tick (s : State) : State :=
  let t := if s.tb.locked || s.tb.holdover then { s with tb := { s.tb with tc := s.tb.tc + 1 } } else s
  t.streams

end Sys2Proof.Machine
end

