-- ==== Sys2Proof/Safety.lean ====
section
/-! DEFINITION. What a safe run is, in the terms the statements use: every sparse map in canonical form, the queue taken from its
front only, the die as its fuses give it. -/

namespace Sys2Proof.Machine

open Sys2Proof

/-- For each sparse map of the state, whether it is in canonical form: keys strictly rising, no entry equal to what an unlisted key
reads as. -/
def State.maps (s : State) : List Bool :=
  [ Memory.wf s.mem, Sparse.wf (fun _ => Ecc.clean) s.ecc, Sparse.wf regReset s.regs, Sparse.wf (fun _ => Core.reset) s.cores,
    Sparse.wf (fun _ => Bank.reset) s.banks, Sparse.wf (fun _ => Part.reset) s.parts, Sparse.wf (fun _ => PgPart.reset) s.pg,
    Sparse.wf (fun _ => Qp.reset) s.qps, Sparse.wf (fun _ => (0 : Word)) s.flags.value, Sparse.wf (fun _ => Ent.reset) s.rt.ents,
    Sparse.wf (fun _ => Cli.reset) s.rt.clis ]

/-- The sparse maps of the state are in canonical form. -/
def State.canonical (s : State) : Bool := s.maps.all id

/-- What every operation of the block keeps: the queue of commands, the grade and the disabled cores that the fuses give, and the
canonical form of the maps. -/
def Keeps (s t : State) : Prop :=
  t.pending = s.pending ∧ t.fuses.grade = s.fuses.grade ∧ t.fuses.cols = s.fuses.cols
    ∧ (s.canonical = true → t.canonical = true)

/-- The groups of state a frame speaks of: one per field of State. -/
inductive Grp where
  | pending | fuses | flash | pwr | regs | tb | beat | cores | mem | ecc | poisonPending | banks | flags | parts | partOps | transits | loads
  | tether | drift | rt | su | rings | pg | qps | dg | sess | neigh | stalled | mc | sc | ir | out | rnd | free
  deriving DecidableEq, Repr

/-- A group of state stands in `t` as it stood in `s`: every register, every core, every byte of memory, every partition of the
group, or the field. -/
def Same (s t : State) (g : Grp) : Prop :=
  match g with
  | .pending => t.pending = s.pending
  | .fuses => t.fuses = s.fuses
  | .flash => t.flash = s.flash
  | .pwr => t.pwr = s.pwr
  | .regs => ∀ a, t.rd a = s.rd a
  | .tb => t.tb = s.tb
  | .beat => t.beat = s.beat
  | .ecc => t.ecc = s.ecc
  | .poisonPending => t.poisonPending = s.poisonPending
  | .banks => t.banks = s.banks
  | .flags => t.flags = s.flags
  | .cores => ∀ c, t.core c = s.core c
  | .partOps => t.partOps = s.partOps
  | .transits => t.transits = s.transits
  | .loads => t.loads = s.loads
  | .tether => t.tether = s.tether
  | .drift => t.drift = s.drift
  | .rt => t.rt = s.rt
  | .mem => ∀ g, t.memGet g = s.memGet g
  | .su => t.su = s.su
  | .rings => t.rings = s.rings
  | .pg => t.pg = s.pg
  | .qps => t.qps = s.qps
  | .dg => t.dg = s.dg
  | .sess => t.sess = s.sess
  | .neigh => t.neigh = s.neigh
  | .parts => ∀ p, t.part p = s.part p
  | .stalled => t.stalled = s.stalled
  | .mc => t.mc = s.mc
  | .sc => t.sc = s.sc
  | .ir => t.ir = s.ir
  | .out => t.out = s.out
  | .rnd => t.rnd = s.rnd
  | .free => t.free = s.free

/-- Nothing changed but the groups named. -/
def Only (ch : List Grp) (s t : State) : Prop := ∀ g, g ∉ ch → Same s t g

/-- The token-budget book of a client balances (13 R367), modulo 2^64. -/
def Cli.Book (x : Cli) : Prop := x.balance + x.reserved + x.spent = x.refilled

/-- The budgets of all clients balance. -/
def State.Budgets (s : State) : Prop := ∀ c, (s.cli c).Book

/-- The command completes: it answers a next state, of which `P` holds. -/
def Runs (c : Instr) (s : State) (P : State → Prop) : Prop := ∃ t, exec c s = .next t ∧ P t

end Sys2Proof.Machine
end

