-- ==== Sys2Proof/Certificates/Slice0/Obligations.lean ====
section
/-! DEFINITION. The statements: what the commands and the block do, from the numbered rules of the spec. A command's statement
says that it completes (`Runs`), what it leaves, and by `Only` which groups of state it may have changed. -/

section

open Sys2Proof Sys2Proof.Machine

/-! ### The sequencer (06 R170 to R186) -/

/-- The command may dispatch now and its predicate lets it run. -/
def Sys2Proof.SqReady (s : State) (h : Hdr) (cs : List Ctr) : Prop :=
  s.canDispatch h cs = true ∧ (s.core h.core).sq.passes h.pred = true

/-- The stream moved past the command and `f` was done to the sequencer; nothing else changed. -/
def Sys2Proof.SqEffect (h : Hdr) (f : Sq → Sq) (s t : State) : Prop :=
  t.core h.core = { s.core h.core with sq := f ((s.core h.core).sq.past h.words) }
    ∧ (∀ c, c ≠ h.core → t.core c = s.core c) ∧ Only [.cores] s t

/-- A counter of the sequencer written. -/
def Sys2Proof.setCtr (c : Ctr) (v : Word) (q : Sq) : Sq := { q with ctr := q.ctr.set c v }

/-- `sq.movi`, `sq.mov`, `sq.rd` and the eight arithmetic commands write their counter, wrapping, shifts modulo 32
(06 R179, R186), move the stream past their words, and change nothing else: no other core, no register, no byte of
memory. -/
def Obligations.SqWritesCounter : Prop :=
  ∀ (s : State) (h : Hdr) (cd ca : Ctr) (b : Opnd) (imm : Word) (src : RdSrc),
    let q := (s.core h.core).sq
    (SqReady s h [cd] → Runs (.sqMovi h cd imm) s (SqEffect h (setCtr cd imm) s))
      ∧ (SqReady s h [cd, ca] → Runs (.sqMov h cd ca) s (SqEffect h (setCtr cd q.ctr[ca]) s))
      ∧ (SqReady s h [cd] → Runs (.sqRd h cd src) s (SqEffect h (setCtr cd (s.rdSrc h.core src)) s))
      ∧ (SqReady s h (Opnd.ctrs b ++ [cd, ca]) →
          Runs (.sqAdd h cd ca b) s (SqEffect h (setCtr cd (q.ctr[ca] + q.opnd b)) s)
          ∧ Runs (.sqSub h cd ca b) s (SqEffect h (setCtr cd (q.ctr[ca] - q.opnd b)) s)
          ∧ Runs (.sqMul h cd ca b) s (SqEffect h (setCtr cd (q.ctr[ca] * q.opnd b)) s)
          ∧ Runs (.sqAnd h cd ca b) s (SqEffect h (setCtr cd (q.ctr[ca] &&& q.opnd b)) s)
          ∧ Runs (.sqOr h cd ca b) s (SqEffect h (setCtr cd (q.ctr[ca] ||| q.opnd b)) s)
          ∧ Runs (.sqXor h cd ca b) s (SqEffect h (setCtr cd (q.ctr[ca] ^^^ q.opnd b)) s)
          ∧ Runs (.sqShl h cd ca b) s (SqEffect h (setCtr cd (q.ctr[ca] <<< ((q.opnd b).toNat % 32))) s)
          ∧ Runs (.sqShr h cd ca b) s (SqEffect h (setCtr cd (q.ctr[ca] >>> ((q.opnd b).toNat % 32))) s))

/-- `sq.cmp`, `sq.pand`, `sq.por`, `sq.pxor`, `sq.pnot`, `sq.pset` and `sq.pres` write their predicate, `sq.kset` and
`sq.koff` their comparator, `sq.end` ends the stream, `sq.nop` does nothing (06 R171, R180, R185, R186); nothing else
changes. -/
def Obligations.SqWritesPredicate : Prop :=
  ∀ (s : State) (h : Hdr) (pd : PReg) (ca : Ctr) (b unit : Opnd) (op : CmpOp) (pa pb : PSrc) (v : Bool) (kn : Fin 4),
    let q := (s.core h.core).sq
    (SqReady s h (Opnd.ctrs b ++ [ca]) →
        Runs (.sqCmp h op pd ca b) s (SqEffect h (fun r => r.setPred pd (cmpVal op q.ctr[ca] (q.opnd b))) s))
      ∧ (SqReady s h (q.srcCtrs pa ++ q.srcCtrs pb) →
          Runs (.sqPand h pd pa pb) s (SqEffect h (fun r => r.setPred pd (q.src pa && q.src pb)) s)
          ∧ Runs (.sqPor h pd pa pb) s (SqEffect h (fun r => r.setPred pd (q.src pa || q.src pb)) s)
          ∧ Runs (.sqPxor h pd pa pb) s (SqEffect h (fun r => r.setPred pd (q.src pa != q.src pb)) s))
      ∧ (SqReady s h (q.srcCtrs pa ++ q.srcCtrs pa) →
          Runs (.sqPnot h pd pa) s (SqEffect h (fun r => r.setPred pd (!q.src pa)) s))
      ∧ (SqReady s h (Opnd.ctrs unit) →
          Runs (.sqPres h pd unit) s (SqEffect h (fun r => r.setPred pd (s.unitPresent (q.opnd unit).toNat)) s))
      ∧ (SqReady s h [] →
          Runs (.sqPset h pd v) s (SqEffect h (fun r => r.setPred pd v) s)
          ∧ Runs (.sqKset h kn ca op b) s (SqEffect h (fun r => { r with cmps := r.cmps.set kn (some ⟨ca, op, b⟩) }) s)
          ∧ Runs (.sqKoff h kn) s (SqEffect h (fun r => { r with cmps := r.cmps.set kn none }) s)
          ∧ Runs (.sqNop h) s (SqEffect h id s)
          ∧ Runs (.sqEnd h) s (SqEffect h (fun r => { r with ended := true, run := false }) s))

/-- A write of P0 is ignored and P0 reads true (06 R178); a comparator switched off reads false (06 R180). -/
def Obligations.PredicateZeroIsTrue : Prop :=
  ∀ (s t : State) (h : Hdr) (op : CmpOp) (ca : Ctr) (b : Opnd) (kn : Fin 4),
    (exec (.sqCmp h op 0 ca b) s = .next t → (t.core h.core).sq.src (.p 0) = true
        ∧ (t.core h.core).sq.pred = (s.core h.core).sq.pred)
      ∧ (SqReady s h [] → Runs (.sqKoff h kn) s fun u => (u.core h.core).sq.src (.k kn) = false)

/-- The sequencer of the command's core is now `q`; nothing else changed. -/
def Sys2Proof.SqIs (h : Hdr) (q : Sq) (s t : State) : Prop :=
  t.core h.core = { s.core h.core with sq := q } ∧ (∀ c, c ≠ h.core → t.core c = s.core c) ∧ Only [.cores] s t

/-- A jump and a call move the stream to their label, `sq.rcall` from a secure partition to the routine named,
keeping the value of its counter as the argument; a return takes the stream back past its call; the call stack of 8
entries grows and shrinks (06 R183, R184); a loop latches its count and a count of 0 skips the body (06 R181).
Nothing else changes. Where the words of a routine lie is the model's choice (log entry 75). -/
def Obligations.SqMovesStream : Prop :=
  ∀ (s : State) (h : Hdr) (label id : Nat) (cn : Ctr) (ln : Fin 4) (count : Opnd) (f : Frame) (r : List Frame),
    let q := (s.core h.core).sq
    (SqReady s h [] → Runs (.sqJmp h label) s (SqIs h { q with pc := label, avail := 0, stall := none } s))
      ∧ (SqReady s h [] → q.stack.length < 8 →
          Runs (.sqCall h label) s
            (SqIs h { q with pc := label, avail := 0, stall := none,
                             stack := ⟨none, q.pc + h.words, q.loops.length⟩ :: q.stack } s))
      ∧ (SqReady s h [cn] → (s.corePart h.core).secure = true → q.stack.length < 8 →
          Runs (.sqRcall h id cn) s
            (SqIs h { q with pc := s.routineOffset h.core id, avail := 0, stall := none,
                             stack := ⟨some q.ctr[cn], q.pc + h.words, q.loops.length⟩ :: q.stack } s))
      ∧ (SqReady s h [] → q.stack = f :: r → q.loops.length ≤ f.loops →
          (f.routine = none → Runs (.sqRet h) s (SqIs h ({ q with stack := r, stall := none }.edge f.ret 0 q.loops) s))
          ∧ (f.routine.isSome = true → Runs (.sqRret h) s (SqIs h ({ q with stack := r, stall := none }.edge f.ret 0 q.loops) s)))
      ∧ (SqReady s h (Opnd.ctrs count) → (∀ l ∈ q.loops, l.reg ≠ ln) →
          Runs (.sqLoop h ln count label) s
            (SqIs h (if (q.opnd count).toNat = 0 then q.skipTo label else
              { q with pc := q.pc + h.words, avail := q.avail - h.words, stall := none,
                       loops := ⟨ln, q.pc + h.words, label, (q.opnd count).toNat, 0⟩ :: q.loops }) s))

/-- `sq.waitq` holds the SQ until the occupancy of the queue is at most n (06 R177), `sq.delay` for its cycles with a
counter of 0 acting as 1 (06 R186), `sq.post` until its endpoint accepts (06 R185; 09 R269); the three events that
end the holds clear them and change nothing else. When they come is the sender's to say: cycle counts are outside the
model (log entry 1). -/
def Obligations.SqHolds : Prop :=
  ∀ (s : State) (h : Hdr) (eng : Engine) (n : Nat) (b : Opnd) (c : Nat),
    let q := (s.core h.core).sq
    (SqReady s h [] → Runs (.sqWaitq h eng n) s
        (SqEffect h (fun r => if ((s.core h.core).queue eng).length ≤ n then r else { r with hold := some (.waitq eng n) }) s))
      ∧ (SqReady s h (Opnd.ctrs b) →
          Runs (.sqDelay h b) s (SqEffect h (fun r => { r with hold := some (.delay (max 1 (q.opnd b).toNat)) }) s))
      ∧ ((s.core c).sq.hold = some (.waitq eng n) → ((s.core c).queue eng).length ≤ n →
          Runs (.sqWaitqRelease c) s fun t =>
            t.core c = { s.core c with sq := { (s.core c).sq with hold := none } } ∧ (∀ d, d ≠ c → t.core d = s.core d)
              ∧ Only [.cores] s t)
      ∧ ((s.core c).sq.hold = some (.delay n) →
          Runs (.sqDelayExpire c) s fun t =>
            t.core c = { s.core c with sq := { (s.core c).sq with hold := none } } ∧ (∀ d, d ≠ c → t.core d = s.core d)
              ∧ Only [.cores] s t)
      ∧ ((s.core c).sq.hold = some .post →
          Sparse.get (fun _ => 0) s.drift.outst c + (Sparse.get (fun _ => []) s.drift.waiting c).length ≤ 8 →
          Runs (.sqPostAccept c) s fun t =>
            t.core c = { s.core c with sq := { (s.core c).sq with hold := none } } ∧ (∀ d, d ≠ c → t.core d = s.core d)
              ∧ Only [.cores] s t)

/-- A narrow load that passes its checks is waiting with its value, zero-extended, its counter, its place in the
stream and whether a granule it read is poisoned; an unpoisoned value is put at the counter when it arrives (06 R173,
R186); a narrow store writes its low bytes, little-endian, at the translated addresses (05 R148, R154) and no other
byte. -/
def Obligations.SqReadsAndWritesMemory : Prop :=
  ∀ (s : State) (h : Hdr) (size : Size) (cd ca cs : Ctr) (imm : BitVec 16),
    let q := (s.core h.core).sq
    let a := narrowAddr q.ctr[ca] imm
    let n := Size.bytes size
    (SqReady s h [cd, ca] → (s.core h.core).loadFree ⟨h.after, h.ord, a, n⟩ = true → a % n = 0 → s.checkRange h.core a n = none →
        Runs (.sqLd h size cd ca imm) s fun t =>
          (t.core h.core).sq = { q.past h.words with
              loads := q.loads ++ [⟨q.seq, q.pc, cd, BitVec.ofNat 32 (s.readLe h.core a n), s.bytePoisoned h.core a⟩]
              seq := q.seq + 1 }
            ∧ (∀ g, t.memGet g = s.memGet g) ∧ (∀ c, c ≠ h.core → t.core c = s.core c))
      ∧ (∀ (c : Nat) (l : PendLoad) (r : List PendLoad), (s.core c).sq.loads = l :: r → l.poison = false →
          Runs (.sqLdValue c) s fun t =>
            t.core c = { s.core c with sq := { (s.core c).sq with loads := r, ctr := (s.core c).sq.ctr.set l.ctr l.value } }
              ∧ (∀ d, d ≠ c → t.core d = s.core d) ∧ Only [.cores] s t)
      ∧ (SqReady s h [ca, cs] → a % n = 0 → s.checkRange h.core a n = none →
          Runs (.sqSt h size ca imm cs) s fun t =>
            (t.core h.core).sq = q.past h.words
              ∧ (∀ i g, i < n → s.xlateG h.core (a + i) = some g →
                  (∀ j, i < j → j < n → s.xlateG h.core (a + j) ≠ some g) →
                  t.memGet g = BitVec.ofNat 8 (q.ctr[cs].toNat / 256 ^ i))
              ∧ (∀ g, (∀ i, i < n → s.xlateG h.core (a + i) ≠ some g) → t.memGet g = s.memGet g)
              ∧ (∀ c, c ≠ h.core → t.core c = s.core c))

/-- `sq.post` to a present unit offers its 48 bytes to the drift network in one packet from the core to the unit and
is held until it is accepted (06 R185; 09 R267); memory and the other cores stand. -/
def Obligations.SqPosts : Prop :=
  ∀ (s : State) (h : Hdr) (unit src : Opnd) (kind : BitVec 8),
    let q := (s.core h.core).sq
    let u := (q.opnd unit).toNat
    let a := (q.opnd src).toNat
    SqReady s h (Opnd.ctrs unit ++ Opnd.ctrs src) → s.unitPresent u = true → a % 8 = 0 →
      (∀ i, i < 6 → s.checkRange h.core (a + 8 * i) 8 = none) →
      Runs (.sqPost h unit kind src) s fun t =>
        (t.core h.core).sq = { q.past h.words with hold := some .post }
          ∧ (∃ p : Packet, Sparse.get (fun _ => []) t.drift.waiting h.core
                = Sparse.get (fun _ => []) s.drift.waiting h.core ++ [p]
              ∧ p.dst = u ∧ p.src = h.core ∧ p.kind = kind ∧ p.payload = s.readBytes h.core a 48)
          ∧ (∀ g, t.memGet g = s.memGet g) ∧ (∀ c, c ≠ h.core → t.core c = s.core c)

/-- A command whose predicate is false at dispatch moves the stream past its words and does nothing else (06 R178),
here for one command of each kind: arithmetic, load, store, jump, end, an SE and an ME command. -/
def Obligations.SqSkipsWhenFalse : Prop :=
  ∀ (s : State) (h : Hdr) (cd ca : Ctr) (b : Opnd) (size : Size) (imm : BitVec 16) (label : Nat),
    (s.core h.core).sq.passes h.pred = false →
    (s.canDispatch h (Opnd.ctrs b ++ [cd, ca]) = true → Runs (.sqAdd h cd ca b) s (SqEffect h id s))
      ∧ (s.canDispatch h [cd, ca] = true → Runs (.sqLd h size cd ca imm) s (SqEffect h id s)
          ∧ Runs (.sqSt h size cd imm ca) s (SqEffect h id s))
      ∧ (s.canDispatch h [] = true → Runs (.sqJmp h label) s (SqEffect h id s) ∧ Runs (.sqEnd h) s (SqEffect h id s))
      ∧ (s.canDispatch h [] = true → Runs (.seFenceAll h) s (SqEffect h id s) ∧ Runs (.mxSheetOff h) s (SqEffect h id s))

/-! ### Dispatch into the engine queues, issue from them (06 R173 to R176; 07; 08; 03; 04; 05) -/

/-- The command entered the queue of its engine as `cmd`, its operands fixed; the stream moved past it. -/
def Sys2Proof.Enqueued (h : Hdr) (eng : Engine) (cmd : ECmd) (s t : State) : Prop :=
  let k := s.core h.core
  (t.core h.core).queue eng
      = k.queue eng ++ [⟨k.sq.seq, k.sq.pc, cmd, h.mark, h.after.map fun sb => (sb, k.marked[sb]), h.ord⟩]
    ∧ (∀ e, e ≠ eng → (t.core h.core).queue e = k.queue e)
    ∧ (t.core h.core).sq = { k.sq.past h.words with seq := k.sq.seq + 1 }
    ∧ (t.core h.core).me = k.me ∧ (t.core h.core).ve = k.ve ∧ (t.core h.core).lp = k.lp ∧ (t.core h.core).lat = k.lat
    ∧ (t.core h.core).issued = k.issued
    ∧ (∀ c, c ≠ h.core → t.core c = s.core c)
    ∧ (∀ a, a ≠ rSqQhwmA h.core → a ≠ rSqQhwmB h.core → t.rd a = s.rd a)
    ∧ Only [.cores, .regs] s t

/-- The command dispatches: it enters the queue and, where it is marked to issue at once and the queue was empty, issues. -/
def Sys2Proof.Dispatches (i : Instr) (h : Hdr) (eng : Engine) (cmd : ECmd) (s : State) : Prop :=
  ∃ u, Enqueued h eng cmd s u
    ∧ exec i s = .next (if h.now && ((s.core h.core).queue eng).isEmpty then u.issueHead h.core eng else u)

/-- The command may dispatch, its predicate lets it run, its engine's queue has room. -/
def Sys2Proof.QueueReady (s : State) (h : Hdr) (eng : Engine) (ops : List Opnd) : Prop :=
  SqReady s h (ops.flatMap Opnd.ctrs) ∧ ((s.core h.core).queue eng).length < 64

/-- Each command of the DM, the LP and the SE that may dispatch enters the queue of its engine with its operands
copied (06 R173, R174, R175), its marks and its latch (08 R221, R222); nothing else changes but the highest
occupancy. The mark by which a command that meets an empty queue issues in the step that dispatches it is the model's
choice (log entry 6). -/
def Obligations.DmLpSeDispatch : Prop :=
  ∀ (s : State) (h : Hdr) (st : Strm) (flag : Option FlagAdd) (m : FenceMask) (mz : Bool) (a b c d e : Opnd),
    let v := (s.core h.core).sq.opnd
    (QueueReady s h .dm [a, b, c] → Dispatches (.dmCopy h a b c) h .dm (.dmCopy (v a) (v b) (v c)) s)
      ∧ (QueueReady s h .dm [a, b] → Dispatches (.dmZero h a b) h .dm (.dmZero (v a) (v b)) s)
      ∧ (QueueReady s h .dm [a, b, c, d, e] →
          Dispatches (.dmGather h mz a b c d e) h .dm (.dmGather mz (v a) (v b) (v c) (v d) (v e)) s
          ∧ Dispatches (.dmScatter h a b c d e) h .dm (.dmScatter (v a) (v b) (v c) (v d) (v e)) s
          ∧ Dispatches (.dmRput h a b c d e) h .dm (.dmRput (v a) (v b) (v c) (v d) (v e)) s)
      ∧ (QueueReady s h .lp [a, b] → Dispatches (.lpSend h st a b) h .lp (.lpSend st (v a) (v b)) s)
      ∧ (QueueReady s h .lp (a :: b :: (match flag with | some x => [x.f, x.n] | none => [])) →
          Dispatches (.lpArm h st a b flag) h .lp (.lpArm st (v a) (v b) (flag.map fun x => (v x.f, v x.n))) s)
      ∧ (QueueReady s h .lp [] → Dispatches (.lpDisarm h st) h .lp (.lpDisarm st) s)
      ∧ (QueueReady s h .se [a, b] →
          Dispatches (.seSet h a b) h .se (.seSet (v a) (v b)) s
          ∧ Dispatches (.seAdd h a b) h .se (.seAdd (v a) (v b)) s
          ∧ Dispatches (.seWaitObs h a b) h .se (.seWaitObs (v a) (v b)) s
          ∧ Dispatches (.seWaitTake h a b) h .se (.seWaitTake (v a) (v b)) s)
      ∧ (QueueReady s h .se [a, b, c] → Dispatches (.seRsig h a b c) h .se (.seRsig (v a) (v b) (v c)) s)
      ∧ (QueueReady s h .se [] →
          Dispatches (.seFenceQ h m) h .se (.seFenceQ m) s
          ∧ Dispatches (.seFenceAll h) h .se .seFenceAll s
          ∧ Dispatches (.seFenceRemote h) h .se .seFenceRemote s)

/-- Each command of the ME and the VE that may dispatch enters the queue of its engine with its counters copied (06
R173, R174, R175). The mark by which a command that meets an empty queue issues in the step that dispatches it is the
model's choice (log entry 6). -/
def Obligations.MeVeDispatch : Prop :=
  ∀ (s : State) (h : Hdr) (lw : MxLoad) (ws : MxWs) (os : MxOs) (half : Fin 2) (l512 mz : Bool) (sid : Fin 4) (x n : Fin 8)
    (v1 v2 v3 v4 v5 v6 : VReg) (o1 o2 : VOp) (mk : VMask) (a b c d : Opnd) (run : VxRun) (red : VxRed) (scan : VxScan)
    (layer tensor : BitVec 16),
    let v := (s.core h.core).sq.opnd
    (QueueReady s h .me [] →
        Dispatches (.mxLoadW h lw) h .me (.mxLoad lw) s
        ∧ Dispatches (.mxRunOs h os) h .me (.mxOs os) s
        ∧ Dispatches (.mxClear h half l512) h .me (.mxClear half l512) s
        ∧ Dispatches (.mxSheet h sid) h .me (.mxSheet sid) s
        ∧ Dispatches (.mxSheetOff h) h .me .mxSheetOff s)
      ∧ (QueueReady s h .me [ws.m] → Dispatches (.mxRunWs h ws) h .me (.mxWs { ws with m := .imm (v ws.m) }) s)
      ∧ (QueueReady s h .ve [] →
          Dispatches (.vxIota h v1) h .ve (.vxIota v1) s
          ∧ Dispatches (.vxMov h v1 v2) h .ve (.vxMov v1 v2) s
          ∧ Dispatches (.vxSmMerge h v1 v2 v3 v4 v5 v6) h .ve (.vxSmMerge v1 v2 v3 v4 v5 v6) s
          ∧ Dispatches (.vxSmLse h v1 v2 v3) h .ve (.vxSmLse v1 v2 v3) s
          ∧ Dispatches (.vxDigPost h n layer tensor) h .ve (.vxDigPost n layer tensor) s)
      ∧ (QueueReady s h .ve [a] → Dispatches (.vxBcast h v1 a) h .ve (.vxBcast v1 (v a)) s)
      ∧ (QueueReady s h .ve [a, b, c, d] → Dispatches (.vxCtx h x a b c d) h .ve (.vxCtx x (v a) (v b) (v c) (v d)) s)
      ∧ (QueueReady s h .ve (VOp.opnds o1) → Dispatches (.vxLd h x v1 o1) h .ve (.vxLd x v1 (VOp.fixed v o1)) s)
      ∧ (QueueReady s h .ve (VOp.opnds o1 ++ VMask.opnds mk) →
          Dispatches (.vxSt h x mz v1 o1 mk) h .ve (.vxSt x mz v1 (VOp.fixed v o1) (VMask.fixed v mk)) s)
      ∧ (QueueReady s h .ve (run.rows :: [run.in0, run.in1, run.in2, run.in3, run.out0, run.out1].flatMap VOp.opnds
            ++ VMask.opnds run.mask) →
          Dispatches (.vxRun h run) h .ve
            (.vxRun { run with rows := .imm (v run.rows), in0 := VOp.fixed v run.in0, in1 := VOp.fixed v run.in1,
                               in2 := VOp.fixed v run.in2, in3 := VOp.fixed v run.in3, out0 := VOp.fixed v run.out0,
                               out1 := VOp.fixed v run.out1, mask := VMask.fixed v run.mask }) s)
      ∧ (QueueReady s h .ve (red.rows :: VOp.opnds red.src ++ VMask.opnds red.mask) →
          Dispatches (.vxRed h red) h .ve
            (.vxRed { red with rows := .imm (v red.rows), src := VOp.fixed v red.src, mask := VMask.fixed v red.mask }) s)
      ∧ (QueueReady s h .ve (scan.rows :: [scan.dst, scan.src].flatMap VOp.opnds ++ VMask.opnds scan.mask) →
          Dispatches (.vxScan h scan) h .ve
            (.vxScan { scan with rows := .imm (v scan.rows), dst := VOp.fixed v scan.dst, src := VOp.fixed v scan.src,
                                 mask := VMask.fixed v scan.mask }) s)
      ∧ (QueueReady s h .ve (a :: VOp.opnds o1 ++ VMask.opnds mk) →
          Dispatches (.vxSmStat h v1 v2 o1 a mk) h .ve (.vxSmStat v1 v2 (VOp.fixed v o1) (v a) (VMask.fixed v mk)) s)
      ∧ (QueueReady s h .ve (a :: [o1, o2].flatMap VOp.opnds ++ VMask.opnds mk) →
          Dispatches (.vxSmNorm h o1 o2 v1 v2 a mk) h .ve
            (.vxSmNorm (VOp.fixed v o1) (VOp.fixed v o2) v1 v2 (v a) (VMask.fixed v mk)) s)
      ∧ (QueueReady s h .ve (a :: [o1, o2].flatMap VOp.opnds) →
          Dispatches (.vxSmFinal h o1 o2 v1 a) h .ve (.vxSmFinal (VOp.fixed v o1) (VOp.fixed v o2) v1 (v a)) s)

/-- The command meets a full queue: no queue takes it, the stream goes on, QUEUE_OVERRUN is recorded, the first one captured. -/
def Sys2Proof.Overruns (i : Instr) (h : Hdr) (s : State) : Prop :=
  let k := s.core h.core
  Runs i s fun t =>
    (∀ e, (t.core h.core).queue e = k.queue e) ∧ (t.core h.core).sq = { k.sq.past h.words with seq := k.sq.seq + 1 }
      ∧ (t.core h.core).ends = k.ends ++ [(k.sq.seq, .fault)]
      ∧ t.rd (rSqFaultCount h.core) = satInc (s.rd (rSqFaultCount h.core))
      ∧ (bit (s.rd (rSqFault h.core)) 11 = false →
          t.rd (rSqFault h.core) = BitVec.ofNat 32 (0x10 + 2048) ∧ t.rd (rSqFaultPc h.core) = BitVec.ofNat 32 k.sq.pc)
      ∧ (∀ g, t.memGet g = s.memGet g)

/-- A command that meets a queue of 64 entries, here one of each of the five engines, does not enter it or any other
queue, ends with FAULT, records QUEUE_OVERRUN and lets the stream go on (06 R176, R194, R195); SQ_FAULT and
SQ_FAULT_PC capture the first. -/
def Obligations.FullQueueOverruns : Prop :=
  ∀ (s : State) (h : Hdr) (a b : Opnd) (st : Strm) (v : VReg),
    let full (eng : Engine) : Prop := 64 ≤ ((s.core h.core).queue eng).length
    (SqReady s h ([a, b].flatMap Opnd.ctrs) → full .dm → Overruns (.dmZero h a b) h s)
      ∧ (SqReady s h [] → (full .lp → Overruns (.lpDisarm h st) h s) ∧ (full .se → Overruns (.seFenceAll h) h s)
          ∧ (full .me → Overruns (.mxSheetOff h) h s) ∧ (full .ve → Overruns (.vxIota h v) h s))

/-- The command at the head of the engine's queue may issue. -/
def Sys2Proof.IssueReady (s : State) (c : Nat) (eng : Engine) (e : QEntry) (r : List QEntry) : Prop :=
  (s.core c).queue eng = e :: r ∧ s.mayIssue c eng e = true

/-- The entry left the queue, and the command is outstanding until `f`; what it may have to give back at an abandonment is kept
with it. -/
def Sys2Proof.Issued1 (c : Nat) (eng : Engine) (e : QEntry) (r : List QEntry) (f : Finish) (s t : State) : Prop :=
  (t.core c).queue eng = r ∧ (∃ un, (t.core c).issued = (s.core c).issued ++ [⟨e.id, eng, e.pc, e.mark, f, e.cmd, un⟩])
    ∧ ∀ d, d ≠ c → t.core d = s.core d

/-- The groups of state that a command of an engine may change by reading memory, whose errors are found (05 R149 to R151). -/
def Sys2Proof.readGroups : List Grp := [.cores, .regs, .beat, .banks, .poisonPending, .sc]
/-- Those it may change by writing memory too. -/
def Sys2Proof.storeGroups : List Grp := [.cores, .regs, .beat, .banks, .poisonPending, .sc, .mem, .ecc]

/-- At issue, with its checks passed, `dm.zero` writes zero to its range, `dm.copy` the bytes of its source,
`dm.gather` the blocks its list names to consecutive blocks, zero or nothing where the list names none, `dm.scatter`
consecutive blocks to the blocks its list names, the last of one name standing; no byte outside the translated
destination changes; `dm.rput` queues its cells toward the chip in order, each of up to 256 bytes (06 R187 to R189;
05 R162; 10 R292). That the bytes move at the issue is the model's choice (log entry 15). -/
def Obligations.DmIssueMovesBytes : Prop :=
  ∀ (s : State) (c : Nat) (e : QEntry) (r : List QEntry) (wd ws wn wl wc wb : Word) (mz : Bool),
    let dst := wd.toNat
    let src := ws.toNat
    let n := wn.toNat
    let list := wl.toNat
    let count := wc.toNat
    let b := wb.toNat
    let idx (i : Nat) : Nat := s.readLe c (list + 4 * i) 4
    let named (i : Nat) : Prop := i < count ∧ idx i ≠ 0xFFFFFFFF
    let blocks (base other : Nat) : Prop :=
      (∃ p, p ≤ 10 ∧ b = 2 ^ (p + 8)) ∧ count ≠ 0 ∧ count ≤ 4096 ∧ base % b = 0 ∧ other % b = 0 ∧ list % 4 = 0
        ∧ s.checkRange c list (4 * count) = none ∧ s.checkRange c other (count * b) = none
        ∧ ∀ i, named i → s.checkRange c (base + idx i * b) b = none
            ∧ (base + idx i * b + b ≤ other ∨ other + count * b ≤ base + idx i * b)
    IssueReady s c .dm e r →
      (e.cmd = .dmZero wd wn → dst % 256 = 0 → n % 256 = 0 → n ≠ 0 → s.checkRange c dst n = none →
        Runs (.engineIssue c .dm) s fun t =>
          Issued1 c .dm e r .timed s t ∧ Only storeGroups s t
            ∧ (∀ i g, i < n → s.xlateG c (dst + i) = some g → t.memGet g = 0)
            ∧ (∀ g, (∀ i, i < n → s.xlateG c (dst + i) ≠ some g) → t.memGet g = s.memGet g))
      ∧ (e.cmd = .dmCopy wd ws wn → dst % 32 = 0 → src % 32 = 0 → n % 32 = 0 → n ≠ 0 → n ≤ 16777184 →
          s.checkRange c src n = none → s.checkRange c dst n = none → ¬(src < dst + n ∧ dst < src + n) →
        Runs (.engineIssue c .dm) s fun t =>
          Issued1 c .dm e r .timed s t ∧ Only storeGroups s t
            ∧ (∀ i g, i < n → s.xlateG c (dst + i) = some g →
                (∀ j, i < j → j < n → s.xlateG c (dst + j) ≠ some g) → t.memGet g = s.readByte c (src + i))
            ∧ (∀ g, (∀ i, i < n → s.xlateG c (dst + i) ≠ some g) → t.memGet g = s.memGet g))
      ∧ (e.cmd = .dmGather mz wd ws wl wc wb → blocks src dst →
        Runs (.engineIssue c .dm) s fun t =>
          Issued1 c .dm e r .timed s t ∧ Only storeGroups s t
            ∧ (∀ i j g, i < count → j < b → s.xlateG c (dst + i * b + j) = some g →
                t.memGet g = if idx i ≠ 0xFFFFFFFF then s.readByte c (src + idx i * b + j) else if mz then 0 else s.memGet g)
            ∧ (∀ g, (∀ k, k < count * b → s.xlateG c (dst + k) ≠ some g) → t.memGet g = s.memGet g))
      ∧ (e.cmd = .dmScatter ws wl wc wb wd → blocks src dst →
        Runs (.engineIssue c .dm) s fun t =>
          Issued1 c .dm e r .timed s t ∧ Only storeGroups s t
            ∧ (∀ i j g, named i → (∀ k, i < k → k < count → idx k ≠ idx i) → j < b →
                s.xlateG c (src + idx i * b + j) = some g → t.memGet g = s.readByte c (dst + i * b + j))
            ∧ (∀ g, (∀ i j, named i → j < b → s.xlateG c (src + idx i * b + j) ≠ some g) → t.memGet g = s.memGet g))
      ∧ (e.cmd = .dmRput wc wl wb ws wn → count ≤ 1023 → list ≤ 63 → b % 256 = 0 → src % 256 = 0 → n % 32 = 0 → n ≠ 0 →
          n ≤ 16777184 → s.checkRange c src n = none → s.ownsSlot (s.partNo c) 2 count = true → count ∈ s.flightDevs →
        Runs (.engineIssue c .dm) s fun t =>
          Issued1 c .dm e r .leave s t ∧ Only (.tether :: readGroups) s t
            ∧ ∃ cells, t.tether = { s.tether with dmaOut := s.tether.dmaOut ++ cells } ∧ cells.length = (n + 255) / 256
              ∧ ∀ j d, cells[j]? = some d → d.part = s.partNo c ∧ d.chip = count ∧ d.win = list ∧ d.off = b + 256 * j
                ∧ d.bytes = s.readBytes c (src + 256 * j) (min 256 (n - 256 * j)) ∧ d.core = c ∧ d.id = e.id
                ∧ (d.last = true ↔ j + 1 = cells.length))

/-- What a lane of a register, or an element of the accumulator buffer, holds of a value: one marked poisoned the canonical NaN
(04 R140). -/
def Sys2Proof.kept (v : Elt) : Elt := if v.poison then ⟨0x7FC00000, true⟩ else v

/-- The vector registers but those named, the stationary buffers and the accumulator buffer stand. -/
def Sys2Proof.RegsBut (c : Nat) (vs : List VReg) (s t : State) : Prop :=
  (∀ w j, w ∉ vs → j < 256 → (t.core c).lane w j = (s.core c).lane w j) ∧ (t.core c).me = (s.core c).me

/-- The result rows of a command written through an output: an active lane receives its value, an inactive one of a zeroing command
zero, the others stand, and so does everything else that a program can read (04 R112, R114, R125). A slice stream of a plain format
of whole bytes, converted without a draw, receives the codes of the values. -/
def Sys2Proof.OutHolds (c : Nat) (op : VOp) (mz : Bool) (rows : Nat) (row : Nat → Nat → VOut) (s t : State) : Prop :=
  match op with
  | .v n =>
    Only readGroups s t ∧ RegsBut c [n] s t
      ∧ ∀ j, j < 256 → (t.core c).lane n j =
          if (row 0 j).act then kept (row 0 j).e else if mz then ⟨0, false⟩ else kept ((s.core c).lane n j)
  | .acb half q c1 _ =>
    let h (u : State) : AcbHalf := (u.core c).me.acb[half]
    let w := acbCols (h s).l512
    let col (j : Nat) : Nat := j + if c1 then 256 else 0
    Only readGroups s t ∧ (t.core c).ve.v = (s.core c).ve.v ∧ (∀ i, i ≠ half → (t.core c).me.acb[i] = (s.core c).me.acb[i])
      ∧ (h t).l512 = (h s).l512
      ∧ (∀ r j, r < rows → j < 256 → (h t).get (h s).l512 (q + r) (col j) =
          if (row r j).act then (kept (row r j).e).bits else if mz then 0 else (h s).get (h s).l512 (q + r) (col j))
      ∧ (∀ i k, k < w → (∀ r j, r < rows → j < 256 → i ≠ q + r ∨ k ≠ col j) →
          (h t).get (h s).l512 i k = (h s).get (h s).l512 i k)
  | .slc st =>
    let w := fmtBits st.fmt / 8
    fmtIsMx st.fmt = false → fmtBits st.fmt ≠ 4 → st.rm ≠ some .sr → (rows ≤ 1 ∨ st.stride ≠ 0) →
      Only storeGroups s t ∧ RegsBut c [] s t
        ∧ (∀ r j b g, r < rows → j < 256 → b < w → s.xlateG c (st.addr + r * st.stride + j * w + b) = some g →
            t.memGet g =
              if (row r j).act then
                BitVec.ofNat 8 ((fmtEncode st.fmt (st.rm.getD .rne) (st.sat.getD false) 0 (outVal st.fmt (row r j).e)).bits / 256 ^ b)
              else if mz then 0 else s.memGet g)
        ∧ (∀ g, (∀ r k, r < rows → k < 256 * w → s.xlateG c (st.addr + r * st.stride + k) ≠ some g) → t.memGet g = s.memGet g)
  | _ => True

/-- The checks of a command of the VE at its issue find nothing (04 R139; 05 R157): its streams are bound, in range and of formats
and shapes that it takes. -/
def Sys2Proof.VePasses (s : State) (c rows : Nat) (ins outs : List VOp) (m : VMask) : Prop :=
  s.veStop c rows false false false ins outs m = none

/-- The last micro-op of a program gives its destination the value of its operation (04 R116 to R119). -/
def Sys2Proof.LastOpWrites : Prop :=
  ∀ (p : EProg) (ops : List UOp) (u : UOp) (ins : List Elt) (j r : Nat) (o : Fin 2),
    p.ops = ops ++ [u] → u.dst = .o o →
      let l := ({ p with ops := ops } : EProg).lane ins j r
      ((p.lane ins j r).o[o]).bits =
          (uop u.code (l.src ins j r u.a).bits (l.src ins j r u.b).bits (l.src ins j r u.c).bits).1
        ∧ ∀ i : Fin 2, i ≠ o → (p.lane ins j r).o[i] = l.o[i]

/-- The elements that the active lanes of a row take part with, none for a masked lane. -/
def Sys2Proof.activeLanes (s : State) (c : Nat) (src : VOp) (m : VMask) (r : Nat) : List (Option Elt) :=
  (List.range 256).map fun j => if s.vActive c m r j then some (s.vIn c src r j) else none

/-- At issue, with its checks passed: `vx.bcast`, `vx.iota`, `vx.mov` and `vx.ld` fill a register, `vx.st` stores one
(04 R137); `vx.run` puts the outputs of its element program, whose last micro-op gives its destination its
operation's value, where they are bound, in the active lanes (04 R112, R116, R122); `vx.red` and `vx.scan` reduce and
accumulate the active elements in their order, with counts and flags (02 R62, R63; 04 R128 to R131); the softmax
commands keep and merge statistics and scale by them (02 R64, R65; 04 R132 to R134); `vx.dig.post` offers its slot to
the DG and clears it (04 R136). What is marked poisoned is the canonical NaN (04 R140), and no other lane, element or
byte changes. That the whole effect comes at the issue is the model's choice (log entry 15). -/
def Obligations.VeIssueFillsRegister : Prop :=
  LastOpWrites ∧
  ∀ (s : State) (c : Nat) (e : QEntry) (r : List QEntry) (vd vs vm va vb v1 v2 : VReg) (v n : Word) (x : Fin 8) (src dst : VOp)
    (mk : VMask) (mz : Bool) (run : VxRun) (p : EProg) (red : VxRed) (scan : VxScan) (slot : Fin 8) (layer tensor : BitVec 16),
    let lane (w : VReg) (j : Nat) : Elt := (s.core c).lane w j
    let stream (o : VOp) : Prop := notStream o = false
    IssueReady s c .ve e r →
      (e.cmd = .vxBcast vd v → Runs (.engineIssue c .ve) s fun t => Issued1 c .ve e r .timed s t ∧ Only [.cores] s t
        ∧ RegsBut c [vd] s t ∧ (∀ j, j < 256 → (t.core c).lane vd j = ⟨v, false⟩))
      ∧ (e.cmd = .vxIota vd → Runs (.engineIssue c .ve) s fun t => Issued1 c .ve e r .timed s t ∧ Only [.cores] s t
        ∧ RegsBut c [vd] s t ∧ (∀ j, j < 256 → (t.core c).lane vd j = ⟨BitVec.ofNat 32 j, false⟩))
      ∧ (e.cmd = .vxMov vd vs → Runs (.engineIssue c .ve) s fun t => Issued1 c .ve e r .timed s t ∧ Only [.cores] s t
        ∧ RegsBut c [vd] s t ∧ (∀ j, j < 256 → (t.core c).lane vd j = kept (lane vs j)))
      ∧ (e.cmd = .vxLd x vd src → stream src → VePasses s c 1 [src] [] .none →
        Runs (.engineIssue c .ve) s fun t => Issued1 c .ve e r .timed s t ∧ Only readGroups s t ∧ RegsBut c [vd] s t
          ∧ (∀ j, j < 256 → (t.core c).lane vd j = s.vIn c src 0 j)
          ∧ (∀ st, src = .slc st → st.fmt = .int32 → (∀ i, i < 1024 → s.bytePoisoned c (st.addr + i) = false) →
              ∀ j, j < 256 → ((t.core c).lane vd j).bits = BitVec.ofNat 32 (s.readLe c (st.addr + j * 4) 4)))
      ∧ (e.cmd = .vxSt x mz vs dst mk → stream dst → maskBad 1 mk = false → VePasses s c 1 [] [dst] mk →
        Runs (.engineIssue c .ve) s fun t => Issued1 c .ve e r .timed s t
          ∧ OutHolds c dst mz 1 (fun i j => ⟨lane vs j, s.vActive c mk i j⟩) s t)
      ∧ (e.cmd = .vxRun run →
          let rows := (Opnd.latched run.rows).toNat
          let ins := [run.in0, run.in1, run.in2, run.in3]
          let out (o : Fin 2) (i j : Nat) : VOut :=
            ⟨(p.lane (ins.map fun q => s.vIn c q i j) j i).o[o], s.vActive c run.mask i j⟩
          Sparse.get (fun _ => none) (s.core c).ve.progs run.prog = some p →
          (∀ i, i < 4 → (ins.getD i .none ≠ .none ↔ i < p.ins)) → (run.out0 ≠ .none ↔ 0 < p.outs) → (run.out1 ≠ .none ↔ 1 < p.outs) →
          maskBad rows run.mask = false → VePasses s c rows ins [run.out0, run.out1] run.mask → rows ≠ 0 →
        Runs (.engineIssue c .ve) s fun t => Issued1 c .ve e r .timed s t
          ∧ (run.out1 = .none → OutHolds c run.out0 run.mz rows (out 0) s t)
          ∧ (∀ d0 d1, d0 ≠ d1 → run.out0 = .v d0 → run.out1 = .v d1 → run.mz = true →
              ∀ j, j < 256 → (t.core c).lane d0 j = (if (out 0 0 j).act then kept (out 0 0 j).e else ⟨0, false⟩)
                ∧ (t.core c).lane d1 j = (if (out 1 0 j).act then kept (out 1 0 j).e else ⟨0, false⟩)))
      ∧ (e.cmd = .vxRed red → red.acc = false → stream red.src → (red.op = .mean → red.vc ≠ none) →
          let rows := (Opnd.latched red.rows).toNat
          let elt (i j : Nat) : Option Elt := if s.vActive c red.mask i j then some (s.vIn c red.src i j) else none
          let all (k : Nat) : List (Option Elt) :=
            if red.lane then (List.range 256).map (elt k) else (List.range rows).map fun i => elt i k
          let act (k : Nat) : List Elt := (all k).filterMap id
          let top : Word := if red.f32 then 0x7F800000 else 0x7FFFFFFF
          let bottom : Word := if red.f32 then 0xFF800000 else 0x80000000
          let sum (k : Nat) : Word :=
            if red.lane then
              match treeRoot (redAdd red.f32) ((all k).map fun o => o.map fun w => (w.bits, evt0)) with
              | some y => (redAdd red.f32 y.1 0).1
              | none => 0
            else (act k).foldl (fun a w => (redAdd red.f32 a w.bits).1) 0
          (red.lane = true → rows ≤ 256) → maskBad rows red.mask = false → VePasses s c rows [red.src] [] red.mask →
          red.vf ≠ some red.vd → red.vc ≠ some red.vd → (red.vf = none ∨ red.vf ≠ red.vc) →
        Runs (.engineIssue c .ve) s fun t => Issued1 c .ve e r .timed s t ∧ Only readGroups s t
          ∧ RegsBut c (red.vd :: red.vf.toList ++ red.vc.toList) s t
          ∧ ∀ k, k < (if red.lane then rows else 256) →
              (act k = [] → (t.core c).lane red.vd k = ⟨match red.op with
                | .sum => 0
                | .max => bottom
                | .min => top
                | .argmax => 0xFFFFFFFF
                | .argmin => 0xFFFFFFFF
                | .mean => 0, false⟩)
              ∧ (act k ≠ [] → ∀ w : Word,
                  (match red.op with
                  | .sum => w = sum k
                  | .max => w = (act k).foldl (fun a y => redMax red.f32 a y.bits) bottom
                  | .min => w = (act k).foldl (fun a y => redMin red.f32 a y.bits) top
                  | .mean => red.f32 = true ∧ w = f32div (sum k) (rne32 (fOfInt ((act k).length : Int)))
                  | _ => False) →
                  (t.core c).lane red.vd k = kept ⟨w, (act k).any (·.poison)⟩)
              ∧ (∀ f, red.vc = some f → (t.core c).lane f k = ⟨BitVec.ofNat 32 (act k).length, false⟩)
              ∧ (∀ f, red.vf = some f → (t.core c).lane f k =
                  ⟨if act k ≠ [] then 0 else if red.op = .argmax ∨ red.op = .argmin then 3 else 1, false⟩))
      ∧ (e.cmd = .vxScan scan → stream scan.src → stream scan.dst →
          let rows := (Opnd.latched scan.rows).toNat
          let elt (i j : Nat) : Option Elt := if s.vActive c scan.mask i j then some (s.vIn c scan.src i j) else none
          let before (i j : Nat) : List Elt :=
            (List.range ((if scan.lane then j else i) + if scan.excl then 0 else 1)).filterMap fun k =>
              if scan.lane then elt i k else elt k j
          let val (i j : Nat) : Word := (before i j).foldl (fun a w => match scan.op with
            | .sum => (redAdd scan.f32 a w.bits).1
            | .max => redMax scan.f32 a w.bits
            | .min => redMin scan.f32 a w.bits) (match scan.op with
            | .sum => 0
            | .max => if scan.f32 then 0xFF800000 else 0x80000000
            | .min => if scan.f32 then 0x7F800000 else 0x7FFFFFFF)
          maskBad rows scan.mask = false → VePasses s c rows [scan.src] [scan.dst] scan.mask →
        Runs (.engineIssue c .ve) s fun t => Issued1 c .ve e r .timed s t
          ∧ OutHolds c scan.dst false rows (fun i j => ⟨⟨val i j, (before i j).any (·.poison)⟩, true⟩) s t)
      ∧ (e.cmd = .vxSmStat vm vs src n mk → vm ≠ vs → src ≠ .none → n.toNat ≤ 256 → maskBad n.toNat mk = false →
          VePasses s c n.toNat [src] [] mk →
        Runs (.engineIssue c .ve) s fun t => Issued1 c .ve e r .timed s t ∧ Only readGroups s t ∧ RegsBut c [vm, vs] s t
          ∧ ∀ i, i < n.toNat →
              let all := activeLanes s c src mk i
              let top := (all.filterMap id).foldl (fun a y => f32max a y.bits) 0xFF800000
              (all.filterMap id = [] → (lane vm i).bits ≠ 0xFF800000 → (lane vm i).poison = false → (lane vs i).poison = false →
                  (t.core c).lane vm i = lane vm i ∧ (t.core c).lane vs i = lane vs i)
              ∧ (all.filterMap id ≠ [] → (∀ y ∈ all.filterMap id, y.poison = false) → top ≠ 0xFF800000 → top ≠ 0x7F800000 →
                  (lane vm i).bits = 0xFF800000 → (t.core c).lane vm i = ⟨top, false⟩
                    ∧ ((t.core c).lane vs i).bits =
                        (redSum true true (all.map (Option.map fun y => uFexp (f32sub y.bits top)))).1))
      ∧ (e.cmd = .vxSmMerge vm vs v1 v2 va vb → [vm, vs, va, vb].Nodup →
        Runs (.engineIssue c .ve) s fun t => Issued1 c .ve e r .timed s t ∧ Only [.cores, .regs] s t ∧ RegsBut c [vm, vs, va, vb] s t
          ∧ ∀ j, j < 256 → (∀ w ∈ [vm, vs, v1, v2], (lane w j).poison = false) → (lane vm j).bits ≠ 0xFF800000 →
              (lane v1 j).bits ≠ 0xFF800000 →
              let top := f32max (lane vm j).bits (lane v1 j).bits
              let fa := uFexp (f32sub (lane vm j).bits top)
              let fb := uFexp (f32sub (lane v1 j).bits top)
              (t.core c).lane vm j = ⟨top, false⟩ ∧ (t.core c).lane va j = ⟨fa, false⟩ ∧ (t.core c).lane vb j = ⟨fb, false⟩
                ∧ (t.core c).lane vs j = ⟨f32add (f32mul (lane vs j).bits fa) (f32mul (lane v2 j).bits fb), false⟩)
      ∧ (e.cmd = .vxSmNorm dst src vm vs n mk → src ≠ .none → dst ≠ .none → n.toNat ≤ 256 → maskBad n.toNat mk = false →
          VePasses s c n.toNat [src] [dst] mk → n.toNat ≠ 0 →
          let val (i j : Nat) : Elt :=
            let y := s.vIn c src i j
            let on := s.vActive c mk i j
            let marked := on && (y.poison || (lane vm i).poison || (lane vs i).poison)
            if on = false ∨ (lane vm i).bits = 0xFF800000 ∨ y.bits = 0xFF800000 then ⟨0, marked⟩
            else ⟨f32mul (uFexp (f32sub y.bits (lane vm i).bits)) (uFrcp (lane vs i).bits), marked⟩
        Runs (.engineIssue c .ve) s fun t => Issued1 c .ve e r .timed s t
          ∧ OutHolds c dst false n.toNat (fun i j => ⟨val i j, true⟩) s t)
      ∧ (e.cmd = .vxSmFinal dst src vs n → src ≠ .none → dst ≠ .none → n.toNat ≤ 256 → VePasses s c n.toNat [src] [dst] .none →
          n.toNat ≠ 0 →
          let val (i j : Nat) : Elt :=
            if (lane vs i).bits = 0 then ⟨0, (lane vs i).poison⟩
            else ⟨f32mul (s.vIn c src i j).bits (uFrcp (lane vs i).bits), (s.vIn c src i j).poison || (lane vs i).poison⟩
        Runs (.engineIssue c .ve) s fun t => Issued1 c .ve e r .timed s t
          ∧ OutHolds c dst false n.toNat (fun i j => ⟨val i j, true⟩) s t)
      ∧ (e.cmd = .vxSmLse vd vm vs →
        Runs (.engineIssue c .ve) s fun t => Issued1 c .ve e r .timed s t ∧ Only [.cores, .regs] s t ∧ RegsBut c [vd] s t
          ∧ ∀ j, j < 256 → (lane vm j).poison = false → (lane vs j).poison = false →
              (t.core c).lane vd j =
                ⟨if (lane vm j).bits = 0xFF800000 then 0xFF800000 else f32add (lane vm j).bits (uFlog (lane vs j).bits).1, false⟩)
      ∧ (e.cmd = .vxDigPost slot layer tensor →
          let port := s.portFor c
          let body := leBytes 8 ((s.core c).ve.dig[slot]).toNat ++ leBytes 6 s.beat.bno.toNat ++ leBytes 2 s.beat.period.toNat
            ++ leBytes 2 layer.toNat ++ leBytes 2 tensor.toNat
        Runs (.engineIssue c .ve) s fun t => Issued1 c .ve e r .timed s t ∧ Only [.cores, .drift] s t
          ∧ (t.core c).ve = { (s.core c).ve with dig := (s.core c).ve.dig.set slot 0 }
          ∧ ∃ q : Packet, t.waitingAt port = s.waitingAt port ++ [q] ∧ (∀ k, k ≠ port → t.waitingAt k = s.waitingAt k)
            ∧ q.dst = 0x109 ∧ q.src = c ∧ q.kind = 0x01 ∧ q.part = s.partNo c ∧ q.payload.take 20 = body
            ∧ q.seq = Sparse.get (fun _ => 0) s.drift.seqs (c * 65536 + 0x109))

/-- A core is in no sheet, so that a command of its ME takes effect alone (03 R93). -/
def Sys2Proof.Alone (s : State) (c : Nat) : Prop := s.sheetOf c = none

/-- The commands of the SE, the LP and the ME, and `vx.ctx`, at the head of their queue and free to issue, leave it
and start what they do: a flag operation goes to its bank under its key (08 R233, R235, R248), a remote signal joins
those queued for the chip (08 R242), a send waits for its departures, a landing buffer is armed, or the untouched
ones of a stream dropped (06 R191, R192), the stream context is set (04 R115). Of a core in no sheet, `mx.load.w`
puts a tile into its buffer (03 R76 to R80), a run drains each column sum into the accumulator half of its rows,
added to what stands there or from zero, and sets its records (02 R54; 03 R71, R83, R86, R87), `mx.clear` zeroes a
half; `mx.sheet` presents its descriptor to the neighbours in the rectangle, or where it is alone takes it, and
`mx.sheet off` clears the selection (03 R94), where the regions stand at one level (03 R98). That effects come at the
issue is the model's choice (log entry 15), and how descriptors are exchanged is its choice too (log entry 21). -/
def Obligations.EngineIssueStarts : Prop :=
  ∀ (s : State) (c : Nat) (e : QEntry) (r : List QEntry) (m : FenceMask) (f v : Word) (sid : Fin 4) (st : Strm) (a n chip : Word)
    (x : Fin 8) (lo hi erow key : Word) (lw : MxLoad) (ws : MxWs) (os : MxOs) (half : Fin 2) (l512 : Bool)
    (add : Option (Word × Word)),
    let me := (s.core c).me
    let level (d : Word) : Prop := ∀ i ∈ sheetCores d, s.level (s.regionOf i) = s.level (s.regionOf c)
    (IssueReady s c .se e r →
        (e.cmd = .seFenceQ m ∨ e.cmd = .seFenceAll ∨ e.cmd = .seFenceRemote →
          Runs (.engineIssue c .se) s fun t => Issued1 c .se e r .fence s t ∧ Only [.cores] s t)
        ∧ (e.cmd = .seSet f v → f.toNat < (s.corePart c).fcount →
          Runs (.engineIssue c .se) s fun t => Issued1 c .se e r .flagOp s t ∧ Only [.cores, .flags] s t
            ∧ t.flags.ops = s.flags.ops ++ [⟨(s.corePart c).fbase + f.toNat, .set, v, c, 4, e.id⟩])
        ∧ (e.cmd = .seAdd f v → f.toNat < (s.corePart c).fcount →
          Runs (.engineIssue c .se) s fun t => Issued1 c .se e r .flagOp s t ∧ Only [.cores, .flags] s t
            ∧ t.flags.ops = s.flags.ops ++ [⟨(s.corePart c).fbase + f.toNat, .add, v, c, 4, e.id⟩])
        ∧ (e.cmd = .seWaitObs f v → f.toNat < (s.corePart c).fcount →
          Runs (.engineIssue c .se) s fun t => Issued1 c .se e r .wait s t ∧ Only [.cores, .flags] s t
            ∧ t.flags.ops = s.flags.ops ++ [⟨(s.corePart c).fbase + f.toNat, .obs, v, c, 4, e.id⟩])
        ∧ (e.cmd = .seWaitTake f v → f.toNat < (s.corePart c).fcount → v.toNat ≠ 0 → v.toNat ≤ 65535 →
          Runs (.engineIssue c .se) s fun t => Issued1 c .se e r .wait s t ∧ Only [.cores, .flags] s t
            ∧ t.flags.ops = s.flags.ops ++ [⟨(s.corePart c).fbase + f.toNat, .take, v, c, 4, e.id⟩])
        ∧ (e.cmd = .seRsig chip f v → (∃ q ∈ (s.corePart c).members, q.chip = chip.toNat) →
            s.ownsSlot (s.partNo c) 3 chip.toNat = true →
          Runs (.engineIssue c .se) s fun t => Issued1 c .se e r .leave s t ∧ Only [.cores, .tether] s t
            ∧ t.tether = { s.tether with
                sigOut := s.tether.sigOut ++ [⟨s.partNo c, chip.toNat, f.toNat, v, c, e.id⟩] }))
      ∧ (IssueReady s c .lp e r →
        (e.cmd = .lpSend st a n → (s.core c).lat.names true st.val = true →
          lpLimits a.toNat n.toNat = false → ((s.core c).lp.sends.filter fun y => decide (y.strm = st)).length < 2 →
          s.checkRange c a.toNat n.toNat = none →
          Runs (.engineIssue c .lp) s fun t => Issued1 c .lp e r .send s t ∧ Only [.cores] s t
            ∧ (t.core c).lp = { (s.core c).lp with sends := (s.core c).lp.sends ++ [⟨e.id, st, a.toNat, n.toNat, 0⟩] })
        ∧ (e.cmd = .lpArm st a n add → (s.core c).lat.names false st.val = true →
          lpLimits a.toNat n.toNat = false → ((s.core c).lp.arms.filter fun y => decide (y.strm = st)).length < 2 →
          s.checkRange c a.toNat n.toNat = none →
          (∀ p, add = some p → p.1.toNat < (s.corePart c).fcount ∧ p.2.toNat ≠ 0 ∧ p.2.toNat ≤ 65535) →
          Runs (.engineIssue c .lp) s fun t => Issued1 c .lp e r .arm s t ∧ Only [.cores] s t
            ∧ (t.core c).lp = { (s.core c).lp with
                arms := (s.core c).lp.arms ++ [⟨e.id, st, a.toNat, n.toNat, 0, false, add⟩] })
        ∧ (e.cmd = .lpDisarm st → (s.core c).lat.names false st.val = true →
          (∀ y ∈ (s.core c).lp.arms, y.strm = st → y.written = false) →
          let dropped (i : Issued) : Prop := i.finish = .arm ∧ ∃ y ∈ (s.core c).lp.arms, y.strm = st ∧ y.id = i.id
          Runs (.engineIssue c .lp) s fun t => Only [.cores] s t ∧ (t.core c).queue .lp = r ∧ (∀ d, d ≠ c → t.core d = s.core d)
            ∧ (t.core c).lp = { (s.core c).lp with arms := (s.core c).lp.arms.filter fun y => decide (y.strm ≠ st) }
            ∧ (∀ i ∈ (t.core c).issued, i ∈ (s.core c).issued ∧ ¬dropped i)
            ∧ (∀ i ∈ (s.core c).issued, i.id ≠ e.id → (∀ j ∈ (s.core c).issued, dropped j → j.id ≠ i.id) → i ∈ (t.core c).issued)))
      ∧ (IssueReady s c .me e r →
        (e.cmd = .mxLoad lw → Alone s c → lw.fmt ≠ .int32 → (fmtIsMx lw.fmt = lw.scl.isSome) →
          (fmtIsMx lw.fmt = true → lw.kb % 32 = 0) → lw.kb ≤ 512 → lw.nb ≤ 512 → s.slcCheck c (s.meReads c e.cmd) = none →
          Runs (.engineIssue c .me) s fun t => Issued1 c .me e r .timed s t ∧ Only readGroups s t
            ∧ (t.core c).ve = (s.core c).ve ∧ (t.core c).me.acb = me.acb
            ∧ (∀ i, i ≠ lw.wbuf → (t.core c).me.w[i] = me.w[i])
            ∧ ∃ b, (t.core c).me.w[lw.wbuf] = b ∧ b.valid = true ∧ b.fmt = lw.fmt ∧ b.kb = lw.kb ∧ b.nb = lw.nb
              ∧ (∀ i j, i < lw.kb → j < lw.nb → (Sparse.get eltZero b.elts (i * 512 + j)).bits =
                  (s.elt c lw.fmt (lw.src + i * lw.stride) j).bits)
              ∧ (∀ i j q, i < lw.kb → j < lw.nb → lw.scl = some q → Sparse.get (fun _ => 0x7F) b.scls (j * 16 + i / 32) =
                  (s.readByte c (sclColAddr q lw.nb (i / 32) j)).toNat))
        ∧ (e.cmd = .mxWs ws → Alone s c → ws.fa ≠ .cbf16 → (Opnd.latched ws.m).toNat ≠ 0 → s.wsCheck c ws = none →
          ws.n ≤ acbCols (fourBit ws.fa) → s.slcCheck c (s.meReads c e.cmd) = none →
          let w := fourBit ws.fa
          let old := me.acb[ws.half]
          Runs (.engineIssue c .me) s fun t => Issued1 c .me e r .timed s t ∧ Only readGroups s t
            ∧ (t.core c).ve = (s.core c).ve ∧ (t.core c).me.w = me.w
            ∧ (∀ i, i ≠ ws.half → (t.core c).me.acb[i] = me.acb[i])
            ∧ ∃ h, (t.core c).me.acb[ws.half] = h ∧ h.l512 = w
              ∧ (∀ i j, i < (Opnd.latched ws.m).toNat → j < ws.n → h.get w (ws.q + i) j =
                  (addOnce (fmtIsInt ws.fa) ⟨if ws.acc then old.get w (ws.q + i) j else 0, false, false⟩
                    (chain ws.fa ws.fb false (ws.pass.getD 0) ⟨0, false, false⟩ (s.wsPairs c ws c i j))).word)
              ∧ (∀ i j, j < acbCols w → (i < ws.q ∨ ws.q + (Opnd.latched ws.m).toNat ≤ i ∨ ws.n ≤ j) →
                  h.get w i j = old.get w i j)
              ∧ ∀ g ∈ rowGroups ws.fa ws.q (Opnd.latched ws.m).toNat,
                  h.record g = ⟨fmtIsInt ws.fa, true, ws.fa, ws.pass.getD 0⟩)
        ∧ (e.cmd = .mxOs os → Alone s c → os.m ≠ 0 → s.osCheck c os = none → s.slcCheck c (s.meReads c e.cmd) = none →
          let old := me.acb[os.half]
          Runs (.engineIssue c .me) s fun t => Issued1 c .me e r .timed s t ∧ Only readGroups s t
            ∧ (t.core c).ve = (s.core c).ve ∧ (t.core c).me.w = me.w
            ∧ (∀ i, i ≠ os.half → (t.core c).me.acb[i] = me.acb[i])
            ∧ ∃ h, (t.core c).me.acb[os.half] = h ∧ h.l512 = false
              ∧ (∀ i j, i < os.m → j < os.n → h.get false (os.q + i) j =
                  (s.osElement c os c os ⟨if os.acc then old.get false (os.q + i) j else 0, false, false⟩ i j).word)
              ∧ (∀ i j, j < 256 → (i < os.q ∨ os.q + os.m ≤ i ∨ os.n ≤ j) → h.get false i j = old.get false i j)
              ∧ ∀ g ∈ rowGroups os.fa os.q os.m, h.record g = ⟨fmtIsInt os.fa, true, os.fa, os.pass.getD 0⟩)
        ∧ (e.cmd = .mxClear half l512 → Alone s c →
          Runs (.engineIssue c .me) s fun t => Issued1 c .me e r .timed s t ∧ Only [.cores] s t
            ∧ (t.core c).ve = (s.core c).ve ∧ (t.core c).me.w = me.w
            ∧ (∀ i, i ≠ half → (t.core c).me.acb[i] = me.acb[i])
            ∧ ∃ h, (t.core c).me.acb[half] = h ∧ h.l512 = l512 ∧ (∀ i j, h.get l512 i j = 0)
              ∧ ∀ g, g < acbRows l512 / 16 → h.record g = ⟨false, true, .fp32, 0⟩)
        ∧ (e.cmd = .mxSheet sid →
          let d := s.rd (rMeSheet c sid)
          bit d 16 = true → c ∈ sheetCores d → level d → (∀ o, s.sheetOf c = some o → level o) →
          (sheetNear d c = [] →
            Runs (.engineIssue c .me) s fun t => Issued1 c .me e r .timed s t ∧ Only [.cores] s t
              ∧ (t.core c).me.sheet = some sid ∧ (t.core c).me.acb = me.acb ∧ (t.core c).me.w = me.w)
          ∧ (sheetNear d c ≠ [] → (sheetNear d c).Nodup → (∀ j ∈ sheetNear d c, s.sheetJoining j = none ∧ me.offerOf j = none) →
            Runs (.engineIssue c .me) s fun t => Only [.cores] s t ∧ (t.core c).queue .me = r
              ∧ (t.core c).issued = (s.core c).issued ++ [⟨e.id, .me, e.pc, e.mark, .join, e.cmd, none⟩]
              ∧ (t.core c).me.sheet = me.sheet
              ∧ (∀ j ∈ sheetNear d c, (t.core j).me = { (s.core j).me with offers := (s.core j).me.offers ++ [(c, d)] })
              ∧ ∀ j, j ≠ c → j ∉ sheetNear d c → t.core j = s.core j))
        ∧ (e.cmd = .mxSheetOff → (∀ o, s.sheetOf c = some o → level o) →
          Runs (.engineIssue c .me) s fun t => Issued1 c .me e r .timed s t ∧ Only [.cores] s t
            ∧ (t.core c).me = { me with sheet := none, turn := 0, copies := [] }))
      ∧ (IssueReady s c .ve e r → e.cmd = .vxCtx x lo hi erow key →
          Runs (.engineIssue c .ve) s fun t => Issued1 c .ve e r .timed s t ∧ Only [.cores] s t
            ∧ (t.core c).ve = { (s.core c).ve with ctx := (s.core c).ve.ctx.set x ⟨join64 lo hi, erow, key⟩ })

/-- A command whose writes are done, a fence whose earlier commands are complete (08 R218, R219), a wait that the
flag bank released (08 R239) end, the first two with status OK (06 R194), and are marked done; a sheet copy that
stalls fails the beat and ends (03 R95). Nothing else changes. -/
def Obligations.CommandsComplete : Prop :=
  ∀ (s : State) (c : Nat) (eng : Engine) (id : Nat) (i : Issued) (rel : Nat × Nat),
    ((s.core c).issued.find? (fun i => decide (i.id = id) && decide (i.eng = eng) && decide (i.finish = .timed)) = some i →
        Runs (.commandComplete c eng id) s fun t =>
          t.core c = (s.core c).retire i.id i.mark .ok ∧ (∀ d, d ≠ c → t.core d = s.core d) ∧ Only [.cores] s t)
      ∧ ((s.core c).issued.find? (fun i => decide (i.finish = .fence)) = some i → (s.core c).fenceHolds i.id i.cmd = true →
        Runs (.fenceRelease c) s fun t =>
          t.core c = (s.core c).retire i.id i.mark .ok ∧ (∀ d, d ≠ c → t.core d = s.core d) ∧ Only [.cores] s t)
      ∧ (s.flags.releases.find? (fun r => decide (r.1 = c)) = some rel →
        Runs (.waitRelease c) s fun t =>
          t.flags.releases = s.flags.releases.erase rel ∧ (t.core c).wait.active = false
            ∧ (t.core c).issued = (s.core c).issued.filter (fun i => decide (i.id ≠ rel.2))
            ∧ (∀ d, d ≠ c → t.core d = s.core d) ∧ Only [.cores, .flags] s t)
      ∧ ((s.core c).issued.find? (fun i => decide (i.finish = .sheet ∨ i.finish = .join)) = some i →
        Runs (.meSheetStall c) s fun t =>
          (t.core c).issued = (s.core c).issued.filter (fun j => decide (j.id ≠ i.id)) ∧ (∀ g, t.memGet g = s.memGet g)
            ∧ (∀ d, d ≠ c → t.core d = s.core d) ∧ t.beat.acc.fail = true)

/-- An operation that arrives at the bank of its flag, (F >> 5) mod 16, waits behind those there, and the front one
takes effect (08 R232, R234): set, add, observe-wait in serial-number arithmetic and take-wait below 2^31 (08 R236);
a wait satisfied on arrival is released at once, one that is not becomes a watch (08 R237, R239). One row is one tc
of a bank; which operations arrive in it is the sender's to say (log entry 74). What a set, add or take does to a
flag that is watched is not stated here. -/
def Obligations.FlagOperationsApply : Prop :=
  ∀ (s : State) (b : Fin 16) (o p : FlagOp) (r : List FlagOp),
    let v := s.flagVal o.flag
    let front (t : State) : Prop := t.flags.banks = s.flags.banks.set b r ∧ t.flags.ops = s.flags.ops
    (flagBank o.flag = b → s.flags.ops = o :: r → s.flags.banks[b] = [p] →
        Runs (.flagOpApply ⟨b, [0]⟩) s fun t => t.flags.ops = r ∧ t.flags.banks = s.flags.banks.set b [o]
          ∧ ∃ u, Only [.flags] s u ∧ t = u.applyOp p)
    ∧ (s.flags.banks[b] = o :: r →
      (o.kind = .set → (∀ w ∈ s.flags.watches, w.flag ≠ o.flag) →
        Runs (.flagOpApply ⟨b, []⟩) s fun t => t.flagVal o.flag = o.arg ∧ front t ∧ t.flags.releases = s.flags.releases
          ∧ (∀ f, f ≠ o.flag → t.flagVal f = s.flagVal f) ∧ Only [.flags, .cores] s t)
      ∧ (o.kind = .add → (∀ w ∈ s.flags.watches, w.flag ≠ o.flag) →
        Runs (.flagOpApply ⟨b, []⟩) s fun t => t.flagVal o.flag = v + o.arg ∧ front t ∧ t.flags.releases = s.flags.releases
          ∧ (∀ f, f ≠ o.flag → t.flagVal f = s.flagVal f) ∧ Only [.flags, .cores] s t)
      ∧ (o.kind = .obs → (v - o.arg).toNat < 2 ^ 31 →
        Runs (.flagOpApply ⟨b, []⟩) s fun t => front t ∧ t.flags.releases = s.flags.releases ++ [(o.src, o.id)]
          ∧ (∀ f, t.flagVal f = s.flagVal f) ∧ Only [.flags] s t)
      ∧ (o.kind = .take → o.arg.toNat ≤ v.toNat → v.toNat < 2 ^ 31 → (∀ w ∈ s.flags.watches, w.flag ≠ o.flag) →
        Runs (.flagOpApply ⟨b, []⟩) s fun t => t.flagVal o.flag = v - o.arg ∧ front t
          ∧ t.flags.releases = s.flags.releases ++ [(o.src, o.id)]
          ∧ (∀ f, f ≠ o.flag → t.flagVal f = s.flagVal f) ∧ Only [.flags] s t)
      ∧ (o.kind = .obs → 2 ^ 31 ≤ (v - o.arg).toNat →
        Runs (.flagOpApply ⟨b, []⟩) s fun t => front t ∧ t.flags.releases = s.flags.releases ∧ o ∈ t.flags.watches
          ∧ (∀ f, t.flagVal f = s.flagVal f) ∧ Only [.flags] s t))

/-! ### Power and reset, time base, networks and management pins (11; 15; 16; 17) -/

/-- Every group of state but fuses, flash, power, and what is the model's own (the queue, the outputs, the free values) is as reset
leaves it; fuses, flash, queue and outputs stand. -/
def Sys2Proof.Wiped (s t : State) : Prop :=
  Only [.pending, .fuses, .flash, .pwr, .out, .rnd, .free] State.reset t ∧ t.fuses = s.fuses ∧ t.flash = s.flash
    ∧ t.pending = s.pending ∧ t.out = s.out

/-- The module is powered off: the rails are down for the hold given, PWR_GOOD is low, everything but fuses and flash is lost. -/
def Sys2Proof.PoweredOff (hold : Nat) (trip : Bool) (s t : State) : Prop :=
  t.pwr.phase = .off ∧ t.pwr.good = false ∧ t.pwr.rails = Vector.replicate 5 .off ∧ t.pwr.temps = []
    ∧ t.pwr.hold = max hold s.pwr.hold ∧ t.pwr.trip = (s.pwr.trip || trip)
    ∧ t.pwr.pwrEn = s.pwr.pwrEn ∧ Wiped s t

/-- What trips the sequencer powers the module off with its hold, and nothing but fuses and flash is left (17 R480,
R481, R487, R493); PWR_EN falls and rises, a rise during a hold acts when the hold ends (17 R482); RESET_N low for 10
µs or more resets and one shorter than 1 µs is ignored (17 R483, R489); the release of the internal reset starts the
device up, or halts it where it is scrapped or no bank holds a good image (16 R453, R458; 17 R483, R484); it is PCT-
ready when a port of network A is up or the time has passed (17 R484); the RESET operation resets it (16 R461; 17
R487). -/
def Obligations.PowerSequence : Prop :=
  ∀ (s : State) (rail ns : Nat) (cal : Calib) (late : Bool) (b : Nat) (mf : FwImg),
    (s.railsUp = true →
        Runs .undervoltageLockout s (PoweredOff 1 false s) ∧ Runs .overvoltageLockout s (PoweredOff 1 false s)
          ∧ Runs .overcurrentTrip s (PoweredOff 1 false s) ∧ Runs (.railOutOfRegulation rail) s (PoweredOff 1 false s)
          ∧ Runs .thermalTrip s (PoweredOff 2 true s)
          ∧ Runs .pwrEnFall s (fun t => t.pwr.pwrEn = false ∧ t.pwr.phase = .off ∧ t.pwr.good = false ∧ t.pwr.trip = false
              ∧ t.pwr.hold = max 1 s.pwr.hold ∧ Wiped s t)
          ∧ (10000 ≤ ns → Runs (.resetNLow ns) s fun t => t.pwr.phase = .reset ∧ t.pwr.resetN = false
              ∧ t.pwr.good = s.pwr.good ∧ Wiped s t))
      ∧ (ns < 1000 → Runs (.resetNLow ns) s (· = s))
      ∧ (s.pwr.pwrEn = false → s.pwr.hold ≠ 0 →
          Runs .pwrEnRise s fun t => t.pwr = { s.pwr with pwrEn := true, rise := true } ∧ Only [.pwr] s t)
      ∧ (s.pwr.pwrEn = false → s.pwr.hold = 0 → s.pwr.phase = .off →
          Runs .pwrEnRise s fun t => t.pwr.pwrEn = true ∧ t.pwr.good = true ∧ t.pwr.phase = .reset
            ∧ t.pwr.rails = Vector.replicate 5 .good ∧ Only [.pwr] s t)
      ∧ (s.pwr.hold ≠ 0 → Runs .powerOffHoldEnd s fun t => t.pwr.hold = 0 ∧ Only [.pwr] s t
          ∧ (s.pwr.rise = true → s.pwr.pwrEn = true → t.pwr.good = true ∧ t.pwr.phase = .reset)
          ∧ (s.pwr.rise = false → t.pwr = { s.pwr with hold := 0 }))
      ∧ (s.pwr.phase = .reset → s.pwr.good = true →
          Runs (.internalResetRelease cal) s fun t => t.pwr.resetN = true ∧ t.tb.locked = true ∧ t.fuses = s.fuses
            ∧ t.flash = s.flash ∧ t.mem = [] ∧ t.cores = []
            ∧ (s.fuses.lifecycle = 4 → t.pwr.phase = .halted)
            ∧ (s.fuses.lifecycle ≠ 4 → (∀ k ∈ s.validBanks, s.imageOk k 1 = none) →
                t.pwr.phase = .halted ∧ t.pwr.alertHeld = true)
            ∧ (s.fuses.lifecycle ≠ 4 → s.validBanks.findSome? (fun k => (s.imageOk k 1).map fun x => (k, x.1)) = some (b, mf) →
                t.pwr.phase = .starting ∧ t.mc.images.head? = some mf ∧ t.mc.bootId ≠ 0))
      ∧ (s.pwr.phase = .starting → late = true ∨ s.failover 0 = false → Runs (.pctReady late) s fun t =>
          t.pwr = { s.pwr with phase := .ready } ∧ Only [.pwr] s t)
      ∧ (s.mc.resetPend = true → Runs .firmwareReset s fun t => t.pwr.phase = .reset ∧ t.pwr.good = s.pwr.good ∧ Wiped s t)

/-- A power code is written where its condition is present: for the first time, or after an absence of 1 s or more. -/
def Sys2Proof.PowerFresh (s : State) (code : Nat) : Prop :=
  s.raised code = none ∨ ∃ p t, s.raised code = some p ∧ p.ended = some t ∧ 400000000 ≤ (s.tb.tc - t).toNat

/-- A power code is not written: its condition goes on, or has been absent for less than 1 s. -/
def Sys2Proof.PowerLasts (s : State) (code : Nat) : Prop :=
  ∃ p, s.raised code = some p ∧ match p.ended with
    | some t => (s.tb.tc - t).toNat < 400000000
    | none => (0x92 ≤ code ∧ code ≤ 0x95) ∨ (s.tb.tc - p.last).toNat < 400000000

/-- A power code's status bit and, where it is written, its alert and its record, among the first `n` that follow `s`. -/
def Sys2Proof.PowerCode (code stBit alertBit : Nat) (arg : Word) (n : Nat) (s t : State) : Prop :=
  bit (t.rd rPmStatus) stBit = true
    ∧ (PowerFresh s code → bit (t.rd rScAlert) alertBit = true
        ∧ ∃ k, k < n ∧ Sparse.get (fun _ => none) t.sc.evts ((s.rd rScEvtHead + BitVec.ofNat 32 k).toNat % 4096)
            = some (s.rd rScEvtHead + BitVec.ofNat 32 k, ⟨code, 4, 0xFF, 0xFF, 0xFFFF, 1, s.beat.bno, arg, s.tb.tc⟩))

/-- Nothing was recorded and no alert became pending. -/
def Sys2Proof.NoRecord (s t : State) : Prop := t.sc = s.sc ∧ t.rd rScAlert = s.rd rScAlert

/-- A code that stands alone in its event: as `PowerCode`, and neither record nor alert while the condition goes on. -/
def Sys2Proof.PowerEvent (code stBit alertBit : Nat) (arg : Word) (s t : State) : Prop :=
  PowerCode code stBit alertBit arg 1 s t ∧ (PowerLasts s code → NoRecord s t)

/-- An input voltage out of range, a rail outside its limits, the power of a window and the readings of the sensors
are put into their registers; a code whose condition begins, or comes again after 1 s of absence, sets its status
bit, its alert and one record, and none while it goes on; at the coolant limits code 0x95 says which, and at
THERM_CRIT every region that running work does not hold is stopped (17 R478, R481, R491, R492, R495, R496). That the
readings are taken before user calibration is the model's choice, and whether a code without samples has been absent
is left free (log entry 14). -/
def Obligations.PowerMonitors : Prop :=
  ∀ (s : State) (vin rail raw : Nat) (temps : List Int),
    let avg := s.metered raw
    let u := s.toTc (BitVec.ofNat 64 (ceilDiv s.tb.tc.toNat 400000 * 400000))
    let ts := (List.range 32).map fun i => temps.getD i 0 + s.ucalOffset (0x100 + i)
    let warm : Prop := ((fld (s.rd rPmThresh) 0 8 * 16 : Nat) : Int) ≤ (hottest ts).2
    let crit : Prop := ((fld (s.rd rPmThresh) 8 8 * 16 : Nat) : Int) ≤ (hottest ts).2
    s.live = true →
      Runs (.pwrInputLow vin) s (fun t => fld (t.rd rPmVin) 0 16 = vin % 65536 ∧ PowerEvent 0x90 1 8 (BitVec.ofNat 32 vin) s t)
        ∧ Runs (.pwrInputHigh vin) s (fun t => fld (t.rd rPmVin) 0 16 = vin % 65536 ∧ PowerEvent 0x91 2 9 (BitVec.ofNat 32 vin) s t)
        ∧ Runs (.railFault rail) s (fun t => PowerEvent 0x96 7 14 (BitVec.ofNat 32 rail) s t
            ∧ (1 ≤ rail → rail ≤ 5 → t.pwr.good = false ∧ t.pwr.rails = s.pwr.rails.set (Fin.ofNat 5 (rail - 1)) .weak))
        ∧ Runs (.powerWindow raw) s (fun t => fld (t.rd rPmPin) 0 16 = min 0xFFFF avg
            ∧ fld (t.rd rPmPin) 16 16 = (if fld (s.rd rPmPin) 16 16 < avg then min 0xFFFF avg else fld (s.rd rPmPin) 16 16)
            ∧ (2400 < avg → t.rd rPmEvtOver = satInc (s.rd rPmEvtOver) ∧ PowerEvent 0x92 3 10 (BitVec.ofNat 32 avg) u t)
            ∧ (avg ≤ 2400 → NoRecord s t ∧ t.rd rPmStatus = s.rd rPmStatus ∧ t.rd rPmEvtOver = s.rd rPmEvtOver
                ∧ ∀ p, t.raised 0x92 = some p → p.ended.isSome = true))
        ∧ Runs (.thermalSample temps) s (fun t => t.pwr.temps = ts
            ∧ t.rd rPmTj = BitVec.ofNat 32 (((hottest ts).2 % 65536).toNat + (hottest ts).1 * 2 ^ 16)
            ∧ t.rd rPmCool = BitVec.ofNat 32 ((ts.getD 28 0 % 65536).toNat + (ts.getD 29 0 % 65536).toNat * 2 ^ 16)
            ∧ (warm → PowerCode 0x93 4 11 (BitVec.ofNat 32 (hottest ts).1) 1 s t)
            ∧ (crit → PowerCode 0x94 5 12 (BitVec.ofNat 32 (hottest ts).1) 2 s t
                ∧ (∀ r : Fin 16, s.regionHeld r.val = false → t.level r.val = 3)
                ∧ (∀ r : Fin 16, s.regionHeld r.val = true → t.level r.val = s.level r.val))
            ∧ (640 < ts.getD 28 0 → PowerCode 0x95 6 13 0 3 s t)
            ∧ (ts.getD 28 0 ≤ 640 → 224 < ts.getD 29 0 - ts.getD 28 0 → PowerCode 0x95 6 13 1 3 s t)
            ∧ (¬warm → ¬crit → ts.getD 28 0 ≤ 640 → ts.getD 29 0 - ts.getD 28 0 ≤ 224 →
                NoRecord s t ∧ t.rd rPmStatus = s.rd rPmStatus ∧ ∀ r, t.level r = s.level r))

/-- TSYNC loads TC (11 R314), a lost reference leaves holdover and a relock ends it (11 R313), the first phase offset
of a device that is not the root is its reference, a slip of half a tc is slewed, one of 2 tc raises TIME_SLIP and
one of 4 tc takes every port that holds lock back to TRAIN (11 R315), a late crossing sets SKIP and, on a lattice,
puts a void flit at the switch (11 R323, R331), a warning is recorded and waits where the region may not stretch (11
R320, R321), a region behind its neighbour stretches (11 R321). That a row whose time is known brings TC forward to
it is the model's choice (log entry 2). -/
def Obligations.TimeBaseEvents : Prop :=
  ∀ (s : State) (offset r : Int) (region : Region) (margin : Nat) (b : Fin 24) (down sheet : Bool) (core : Nat) (inp : Dir),
    (s.live = true → bit (s.rd rTbCtl) 1 = true → s.beat.joined = false →
        Runs .tsyncLoad s fun t => t.tb.tc = join64 (s.rd rTbTsyncValLo) (s.rd rTbTsyncValHi) + 12
          ∧ bit (t.rd rTbCtl) 1 = false ∧ bit (t.rd rTbStatus) 4 = true ∧ (∀ g, t.memGet g = s.memGet g))
      ∧ (s.tb.locked = true → Runs .refLost s fun t => t.tb = { s.tb with locked := false, holdover := true }
          ∧ bit (t.rd rTbStatus) 2 = true)
      ∧ (s.tb.holdover = true → Runs .refRelock s fun t => t.tb = { s.tb with locked := true, holdover := false }
          ∧ Only [.tb] s t)
      ∧ (s.tb.phaseRef = none → 4 ≤ s.tether.join.step → s.tether.join.step ≤ 6 → s.tether.join.isRoot = false →
          s.tether.join.parent.isSome = true → Runs (.tbPhaseCheck offset) s fun t =>
            t.tb = { s.tb with phaseRef := some offset } ∧ Only [.tb] s t)
      ∧ (s.tb.phaseRef = some r → Runs (.tbPhaseCheck offset) s fun t =>
          fld (t.rd rTbPhase) 0 16 = ((offset - r) % 65536).toNat
            ∧ (fld (s.rd rTbPhase) 16 16 < (offset - r).natAbs → fld (t.rd rTbPhase) 16 16 = min 0xFFFF (offset - r).natAbs)
            ∧ ((offset - r).natAbs < 32 → Only [.regs, .tb] s t)
            ∧ ((offset - r).natAbs < 8 → t.tb = s.tb)
            ∧ (8 ≤ (offset - r).natAbs → (offset - r).natAbs < 64 →
                t.tb = { s.tb with phase := s.tb.phase + if 0 < offset - r then 2 else -2 })
            ∧ (32 ≤ (offset - r).natAbs → bit (t.rd rTbStatus) 3 = true ∧ bit (t.rd rScAlert) 2 = true)
            ∧ (64 ≤ (offset - r).natAbs → ∀ p, (t.port p).st = if 2 ≤ (s.port p).st then 1 else (s.port p).st))
      ∧ (s.beat.joined = true → Runs (.beatStartAnnounce region) s fun t => Only [.tb] s t
          ∧ t.tb = { s.tb with tc := if s.tb.tc.toNat < (s.nextBoundary - 8).toNat then s.nextBoundary - 8 else s.tb.tc })
      ∧ (s.live = true → s.level region.val ≠ 3 → Runs (.monitorWarn region margin) s fun t =>
          bit (t.rd (rPmRegionMon region.val)) 8 = true
            ∧ (margin < fld (s.rd (rPmRegionMon region.val)) 0 8 → fld (t.rd (rPmRegionMon region.val)) 0 8 = margin % 256)
            ∧ (s.mayStretch region.val = false → t.tb = { s.tb with warnWait := s.tb.warnWait.set region true }))
      ∧ ((regionNeighbours region.val).any (fun n => decide (s.stretchOf region.val < s.stretchOf n)) = true →
          s.level region.val ≠ 3 → s.tb.warnWait = Vector.replicate 16 false →
          Runs (.followStretch region) s fun t =>
            t.tb = { s.tb with stretch := s.tb.stretch.set region (min 0xFFFF (s.stretchOf region.val + 1)) }
              ∧ Only [.tb, .beat, .regs] s t)
      ∧ (Runs (.crossingLate b down sheet core inp) s fun t =>
          t.rd rTbXlateCount = satInc (s.rd rTbXlateCount)
            ∧ (bit (s.rd rTbXlate) 6 = false → t.rd rTbXlate = BitVec.ofNat 32 (b.val + bn down * 32 + 64))
            ∧ (s.beat.joined = true → t.beat.acc.skip = true)
            ∧ (sheet = true → Only [.regs, .beat] s t)
            ∧ (sheet = false → Only [.regs, .beat, .cores] s t ∧ (∀ c, c ≠ core → t.core c = s.core c)
                ∧ t.core core = { s.core core with lat := (s.core core).lat.voidFront inp }))

/-- The frames by which a port announces the addresses of a network: an advertisement, and an ARP where it has an IPv4 address. -/
def Sys2Proof.announcements (s : State) (net : Fin 2) (p : Nat) : List Output :=
  .announce (Fin.ofNat 8 p) (s.vlanTag net) net true
    :: if (s.ip4 net).isSome then [.announce (Fin.ofNat 8 p) (s.vlanTag net) net false] else []

/-- A frame came in on a port and was answered with one frame. -/
def Sys2Proof.Answered (ep : Fin 8) (o : Output) (s t : State) : Prop :=
  t.out = s.out ++ [o] ∧ t.rd (rIoEpRx ep) = satInc (s.rd (rIoEpRx ep)) ∧ t.rd (rIoEpTx ep) = satInc (s.rd (rIoEpTx ep))
    ∧ (∀ a, a ≠ rIoEpRx ep → a ≠ rIoEpTx ep → t.rd a = s.rd a) ∧ Only [.regs, .out] s t

/-- A frame came in on a port and was counted, and nothing else. -/
def Sys2Proof.CountedIn (ep : Fin 8) (s t : State) : Prop :=
  t.rd (rIoEpRx ep) = satInc (s.rd (rIoEpRx ep)) ∧ (∀ a, a ≠ rIoEpRx ep → t.rd a = s.rd a) ∧ Only [.regs] s t

/-- An enabled port goes up and down (15 R424), its network's addresses are announced from the other network when it
has none up, neighbour queries and echoes for the device's own addresses, with the tag of their network, are answered
on their port with that network's tag and no others (15 R420 to R423), a PAUSE frame is counted; a frame longer than
9,216 bytes is not taken and an answer longer than 4,352 not sent (15 R422); a port that is not enabled takes
nothing. What is counted as the bytes of a frame is the model's choice (log entry 12). -/
def Obligations.PortsOfTheNetworks : Prop :=
  ∀ (s : State) (ep : Fin 8) (net n : Fin 2) (q : NeighbourQuery) (e : EchoQuery),
    (s.live = true → bit (s.rd (rIoEpCfg ep)) 1 = true → Runs (.portUp ep) s fun t =>
        bit (t.rd (rIoEpState ep)) 0 = true ∧ bit (t.rd (rIoEpState ep)) 1 = true
          ∧ (∀ a, a ≠ rIoEpState ep → t.rd a = s.rd a) ∧ Only [.regs] s t)
      ∧ (Runs (.portDown ep) s fun t => bit (t.rd (rIoEpState ep)) 0 = false ∧ bit (t.rd (rIoEpState ep)) 1 = false
          ∧ Only [.regs, .out] s t)
      ∧ (s.failover net = true → Runs (.failoverAnnounce net) s fun t =>
          t.out = s.out ++ (s.upPorts (1 - net)).flatMap (announcements s net) ∧ Only [.regs, .out] s t)
      ∧ (s.live = true → bit (s.rd (rIoEpCfg q.ep)) 1 = true →
          (s.tagOk q.ep q.vlan = true → s.answers q.ep q.v6 q.target = some n → Runs (.neighbourDiscovery q) s
              (Answered q.ep (.neighbour q.ep (s.vlanTag n) q.v6 q.target) s))
          ∧ (s.tagOk q.ep q.vlan = false ∨ s.answers q.ep q.v6 q.target = none →
              Runs (.neighbourDiscovery q) s (CountedIn q.ep s)))
      ∧ (s.live = true → bit (s.rd (rIoEpCfg e.ep)) 1 = true →
          let bytes (tagged : Bool) : Nat := 18 + 4 * bn tagged + (if e.v6 then 40 else 20) + 8 + e.data.length
          (s.tagOk e.ep e.vlan = true → s.answers e.ep e.v6 e.dst = some n → bytes e.vlan.isSome ≤ 9216 →
              bytes (s.vlanTag n).isSome ≤ 4352 → Runs (.icmpEcho e) s
                (Answered e.ep (.echo e.ep (s.vlanTag n) e.v6 e.src e.data) s))
          ∧ (bytes e.vlan.isSome ≤ 9216 → s.tagOk e.ep e.vlan = false ∨ s.answers e.ep e.v6 e.dst = none
                ∨ (s.answers e.ep e.v6 e.dst = some n ∧ 4352 < bytes (s.vlanTag n).isSome) →
              Runs (.icmpEcho e) s (CountedIn e.ep s))
          ∧ (9216 < bytes e.vlan.isSome → Runs (.icmpEcho e) s (· = s)))
      ∧ (s.live = true → bit (s.rd (rIoEpCfg ep)) 1 = true → Runs (.pauseFrame ep) s fun t =>
          t.rd (rIoEpRx ep) = satInc (s.rd (rIoEpRx ep)) ∧ t.rd (rIoEpPauseRx ep) = satInc (s.rd (rIoEpPauseRx ep))
          ∧ (∀ a, a ≠ rIoEpRx ep → a ≠ rIoEpPauseRx ep → t.rd a = s.rd a) ∧ Only [.regs] s t)
      ∧ (s.live = false ∨ bit (s.rd (rIoEpCfg ep)) 1 = false → Runs (.portUp ep) s (· = s) ∧ Runs (.pauseFrame ep) s (· = s))

/-- Each JTAG instruction the lifecycle allows has its effect, IDCODE shifting out 0x17E0_9BA7 (16 R474, R475); the
two debug instructions are the register operations of their world and, while the device is held in reset, only stand
in the instruction register; a PLDM sensor is read, in every phase but after a failed start-up, and a record while
the block runs (16 R473; 17 R485, R495). That a record the ring does not hold reads 32 zero bytes, and when the bus
answers, is read from the spec by inference (log entry 68). -/
def Obligations.ManagementPins : Prop :=
  ∀ (s : State) (a : DbgAccess) (id idx r : Nat) (v : Int),
    (s.pwr.phase ≠ .off →
        Runs .bypass s (fun t => t.ir = .bypass ∧ t.out = s.out ++ [.tdo 0] ∧ Only [.ir, .out] s t)
          ∧ Runs .idcode s (fun t => t.ir = .idcode ∧ t.out = s.out ++ [.tdo 0x17E09BA7] ∧ Only [.ir, .out] s t)
          ∧ (s.jtagMay 2 = true → Runs .samplePreload s fun t => t.ir = .sample ∧ Only [.ir] s t)
          ∧ (s.jtagMay 3 = true → Runs .extest s (fun t => t.ir = .extest ∧ Only [.ir] s t)
              ∧ Runs .clamp s (fun t => t.ir = .clamp ∧ Only [.ir] s t)
              ∧ Runs .highz s (fun t => t.ir = .highz ∧ Only [.ir] s t))
          ∧ (s.fuses.lifecycle = 3 → Runs .lcScrap s fun t => t.fuses = { s.fuses with lifecycle := 4 }
              ∧ t.rd rScLogHead = s.rd rScLogHead + 1 ∧ (∀ g, t.memGet g = s.memGet g)))
      ∧ (s.pwr.phase ≠ .off → s.jtagMay 7 = true →
          Runs (.dbgS a) s (· = ({ s with ir := .dbgS }).debug true a)
          ∧ (s.pwr.phase = .reset → Runs (.dbgS a) s fun t => t.ir = .dbgS ∧ Only [.ir] s t)
          ∧ (s.pwr.phase ≠ .reset → inCoreBlock r = false →
              r < 0x3000000 ∨ (0x4000000 ≤ r ∧ r < 0x9000000) ∨ 0xA000000 ≤ r → r ≠ rTbTcLo → r ≠ rScRand →
              Runs (.dbgS (.regRead r)) s fun t => t.ir = .dbgS ∧ t.out = s.out ++ [.value (s.regView r) 0] ∧ Only [.ir, .out] s t))
      ∧ (s.pwr.phase ≠ .off → s.jtagMay 6 = true → s.dbgNsMay a = true →
          Runs (.dbgNs a) s (· = ({ s with ir := .dbgNs }).debug false a)
          ∧ (s.pwr.phase = .reset → Runs (.dbgNs a) s fun t => t.ir = .dbgNs ∧ Only [.ir] s t))
      ∧ (let u := ({ s with ir := .dbgNs }).atEndpoint 0x10C (blockCore r)
         s.pwr.phase = .ready → s.jtagMay 6 = true → s.dbgNsMay (.regRead r) = true → s.coreExists (blockCore r) = true →
          s.stopped (blockCore r) = false → u.mayCount r = false → u.timedRead r = none →
          Runs (.dbgNs (.regRead r)) s fun t => t.ir = .dbgNs
            ∧ t.out = s.out ++ [.value (u.regView r) 0] ∧ Only [.ir, .out, .regs, .drift, .free] s t)
      ∧ (s.pwr.phase ≠ .halted → (s.measureFor id).sensor id = some v → Runs (.pldmSensorRead id) s fun t =>
          t.out = s.out ++ [.sensor s.smbusAddr v] ∧ Only [.out, .regs, .free] s t ∧ (∀ a, a ≠ rPmVin → a ≠ rPmIin → t.rd a = s.rd a)
            ∧ (id ≠ 1 → id ≠ 2 → Only [.out] s t))
      ∧ (s.live = true → idx < 4096 → Runs (.mctpRecordRead idx) s fun t => Only [.out] s t
          ∧ (∀ seq e, Sparse.get (fun _ => none) s.sc.evts idx = some (seq, e) → t.out = s.out ++ [.record s.smbusAddr (Evt.bytes e seq)])
          ∧ (Sparse.get (fun _ => none) s.sc.evts idx = none → t.out = s.out ++ [.record s.smbusAddr (List.replicate 32 0)]))

/-- The instruction with the number in the table of 16 R474 was refused: it acts as BYPASS, and one record names it. -/
def Sys2Proof.JtagRefused (n : Nat) (s t : State) : Prop :=
  t.ir = .bypass ∧ t.rd rScEvtHead = s.rd rScEvtHead + 1
    ∧ Sparse.get (fun _ => none) t.sc.evts ((s.rd rScEvtHead).toNat % 4096)
        = some (s.rd rScEvtHead, ⟨0x8A, 2, 0xFF, 0xFF, 0xFFFF, 1, s.beat.bno, BitVec.ofNat 32 n, s.tb.tc⟩)
    ∧ Only [.ir, .regs, .sc] s t

/-- A non-secure debug access outside its reach: one record and one entry of the change log, nothing read or written. -/
def Sys2Proof.DebugDenied (o : List Output) (s t : State) : Prop :=
  t.ir = .dbgNs ∧ t.out = s.out ++ o ∧ t.rd rScLogHead = s.rd rScLogHead + 1 ∧ Only [.ir, .out, .regs, .sc, .free] s t

/-- SAMPLE, EXTEST, CLAMP, HIGHZ, DBG_NS, DBG_S and LC_SCRAP, where the lifecycle, SC_JTAG or a bound partition does
not allow them, act as BYPASS and leave one record; which lifecycles allow which is the table of 16 R474. A non-
secure debug access outside its reach reads zero or writes nothing and is entered in the change log (16 R446, R448,
R475; log entry 67): no fuse, no byte of memory. -/
def Obligations.JtagRefusals : Prop :=
  ∀ (s : State) (a : DbgAccess) (c p r : Nat) (v : Word) (d : List Byte), s.pwr.phase ≠ .off →
    (s.jtagMay 2 = false → Runs .samplePreload s (JtagRefused 2 s))
      ∧ (s.jtagMay 3 = false → Runs .extest s (JtagRefused 3 s) ∧ Runs .clamp s (JtagRefused 4 s) ∧ Runs .highz s (JtagRefused 5 s))
      ∧ (s.jtagMay 6 = false → Runs (.dbgNs a) s (JtagRefused 6 s))
      ∧ (s.jtagMay 7 = false → Runs (.dbgS a) s (JtagRefused 7 s))
      ∧ (s.fuses.lifecycle ≠ 3 → Runs .lcScrap s (JtagRefused 8 s))
      ∧ (s.jtagMay 6 = true → s.pwr.phase ≠ .reset →
          (s.dbgNsMay (.regRead r) = false → Runs (.dbgNs (.regRead r)) s (DebugDenied [.value 0 1] s))
          ∧ (s.dbgNsMay (.regWrite r v) = false → Runs (.dbgNs (.regWrite r v)) s (DebugDenied [.value v 1] s))
          ∧ (s.beat.joined = false →
              (s.dbgNsMay (.memRead c p) = false →
                Runs (.dbgNs (.memRead c p)) s (DebugDenied [.mem (List.replicate 8 0) [false]] s))
              ∧ (s.dbgNsMay (.memWrite c p d) = false → Runs (.dbgNs (.memWrite c p d)) s (DebugDenied [] s))))
      ∧ (s.jtagMay 2 = !decide (s.fuses.lifecycle = 4))
      ∧ (s.jtagMay 7 = decide (s.fuses.lifecycle = 0 ∨ s.fuses.lifecycle = 3))
      ∧ (s.jtagMay 6 = (s.jtagMay 7 || (decide (s.fuses.lifecycle = 2) && bit (s.rd rScJtag) 0)))
      ∧ (∀ n, 3 ≤ n → n ≤ 5 → s.jtagMay n
          = (s.jtagMay 7 || (decide (s.fuses.lifecycle = 1 ∨ s.fuses.lifecycle = 2) && !s.beat.joined && !s.anyBound)))

/-! ### Sessions, requests, partition and firmware operations (15; 13; 16) -/

/-- A datagram reaches the PCT engine: a frame of a port that is enabled, with the tag of its network, to the port of PCT, once the
device is PCT-ready. -/
def Sys2Proof.Reaches (s : State) (h : PctHdr) : Prop :=
  s.pwr.phase = .ready ∧ bit (s.rd (rIoEpCfg h.ep)) 1 = true ∧ s.tagOk h.ep h.vlan = true ∧ h.dport = 39620

/-- Only a well-formed sequenced datagram of a known source, that reached an enabled port with the tag of its
network, for a session that is open, next in order, is accepted, and only once the device is PCT-ready (15 R421, R428
to R431); accepting it moves the session to it and changes no byte of memory. -/
def Obligations.DatagramAccepted : Prop :=
  ∀ (s s1 : State) (h : PctHdr) (i : Nat) (x : Sess),
    s.accept h = (s1, some (i, x)) →
      Reaches s h ∧ h.magic = 0x5443 ∧ h.ver = 1 ∧ h.len ≤ 4160 ∧ h.udpLen = 32 + h.len
        ∧ (h.kind = 1 ∨ h.kind = 3 ∨ h.kind = 5 ∨ h.kind = 7 ∨ h.kind = 8)
        ∧ (s.bump (rIoEpRx h.ep.val)).source h.src ≠ none ∧ h.syn = false
        ∧ s1.sessAt i = some x ∧ x.rx = h.seq ∧ x.ep = h.ep
        ∧ (∃ w, ∃ r : Nat × Nat, s1.out.getLast? = some (.pct w x.id s.mc.bootId 0 h.seq 8 0 r.1 r.2 []))
        ∧ (∀ g, s1.memGet g = s.memGet g) ∧ s1.pending = s.pending

/-- The neighbour of an address is known on both networks. -/
def Sys2Proof.Resolved (s : State) (dst : List Byte) : Prop := ∀ n, n < 2 → s.neigh.contains (n, dst) = true

/-- A SYN opens a session in the lowest free context with the world of its source (15 R430, R448); an ACK releases
what it covers (15 R431); a heartbeat keeps the session; three missed, or sixteen resends, close it and drop what it
had open (15 R432); heartbeats go to every source that takes them, COUNT counting those sent (15 R441; log entry 13).
The handle a session is known by inside is the model's (log entry 3). -/
def Obligations.SessionsOpenAndEnd : Prop :=
  ∀ (s s1 : State) (h : PctHdr) (i : Nat) (j : Fin 64) (k : Nat) (x : Sess),
    let r := s.bump (rIoEpRx h.ep)
    (Reaches s h → goodHdr h = true → r.source h.src = some k → r.sessFor h = none →
        (List.range 64).find? (fun n => (r.sessAt n).isNone) = some i →
        Runs (.sessionSyn h) s fun t => t.mc.handle = s.mc.handle + 1
          ∧ (∃ y, t.sessAt i = some y ∧ y.uid = s.mc.handle + 1 ∧ y.src = h.src ∧ y.port = h.port ∧ y.id = h.session
              ∧ y.secure = !bit (r.rd (rIoSrcCtl k)) 8 ∧ y.rx = h.seq ∧ y.tx = 0)
          ∧ (∀ n, n ≠ i → t.sessAt n = s.sessAt n))
      ∧ (Reaches s h → goodHdr h = true → r.source h.src = some k → h.syn = false → r.sessFor h = some i →
          Runs (.ack h) s (· = r.takeAck i h.ack)
          ∧ (s.sessAt i = some x → x.waiting = [] → Runs (.ack h) s fun t =>
              (∃ n, t.sessAt i = some { x with unacked := x.unacked.filter (fun m => !serialGe h.ack m.seq), resends := n }
                ∧ (n = 0 ∨ n = x.resends))
              ∧ (∀ n, n ≠ i → t.sessAt n = s.sessAt n) ∧ (∀ g, t.memGet g = s.memGet g)))
      ∧ (s.admitPct h = (s1, some i) → s1.sessAt i = some x → Runs (.heartbeat h) s fun t =>
          t.sessAt i = some { x with missed := 0, ep := h.ep } ∧ Only [.sess] s1 t)
      ∧ (s.sessAt j.val = some x → Runs (.hostHeartbeatTimeout j) s fun t =>
          t.sessAt j.val = none ∧ t.rd rIoSessClosed = satInc (s.rd rIoSessClosed)
            ∧ (∀ l ∈ t.loads, l.session ≠ x.uid) ∧ (∀ u, t.mc.upd = some u → u.sess ≠ x.uid)
            ∧ (∀ w ∈ t.stalled, w.uid ≠ some x.uid) ∧ (∀ g, t.memGet g = s.memGet g))
      ∧ (s.sessAt j.val = some x → x.unacked ≠ [] → 16 ≤ x.resends → Runs (.pctResendTimeout j) s fun t =>
          t.sessAt j.val = none ∧ t.rd rIoSessClosed = satInc (s.rd rIoSessClosed))
      ∧ (s.sessAt j.val = some x → x.unacked ≠ [] → x.resends < 16 → Runs (.pctResendTimeout j) s fun t =>
          t.sessAt j.val = some { x with resends := x.resends + 1 } ∧ Only [.sess, .out, .regs, .neigh] s t
            ∧ (Resolved s x.src → ∃ r : Nat × Nat, t.out = s.out ++ x.unacked.map fun m =>
                .pct (s.wireTo x m.kind) x.id s.mc.bootId m.seq x.rx m.kind (bn m.gap * 4 + 8) r.1 r.2 m.body))
      ∧ (s.pwr.phase = .ready → Runs .heartbeatSend s fun t =>
          t.mc.hbCount = s.mc.hbCount + BitVec.ofNat 32 s.hbDests.length ∧ Only [.mc, .out, .regs, .neigh, .tb] s t
            ∧ ((∀ k ∈ s.hbDests, Resolved s (beNat 16 (s.srcAddr k))) → t.out.length = s.out.length + s.hbDests.length))

/-- A request command waits in the ring of its group: behind those that wait, with the staging words it took, where its own words were
written. -/
def Sys2Proof.RingTakes (s1 : State) (i n : Nat) (x : Sess) (c : CmdHdr) (op : ReqOp) (t : State) : Prop :=
  let slots := s1.stageSlots n op.words
  let core := s1.stageBase n / 0x2000000
  let at_ (k : Nat) : Nat := s1.stageBase n % 0x2000000 + 4 * slots.getD k 0
  t.ring n = s1.ring n ++ [⟨x.uid, x.secure, c, op, s1.tb.tc, slots, s1.stageBase n⟩]
    ∧ (∀ m, m ≠ n → t.ring m = s1.ring m) ∧ t.sessAt i = some { x with ring := some n }
    ∧ (∀ m, m ≠ i → t.sessAt m = s1.sessAt m)
    ∧ Only [.rings, .sess, .free, .mem, .ecc, .poisonPending, .banks, .regs, .sc, .drift, .stalled] s1 t
    ∧ (op.words = 0 → Only [.rings, .sess, .free] s1 t)
    ∧ (∀ p, s1.anchorPart (fld (s1.rd (rRtGroupCtl n)) 1 11) = some p → s1.stopped core = false →
        (∀ k, k < op.words → s1.unitCheck p core (at_ k) 4 = none) →
        ∀ k b g, k < op.words → b < 4 → s1.xlateG core (at_ k + b) = some g →
          (∀ l d, l < op.words → d < 4 → s1.xlateG core (at_ l + d) = some g → l = k ∧ d = b) →
          t.memGet g = BitVec.ofNat 8 ((op.carried.getD k 0).toNat / 256 ^ b))

/-- A request command that found its ring or its staging full is answered RING_FULL and waits nowhere. -/
def Sys2Proof.RingFull (s1 : State) (i n : Nat) (x : Sess) (c : CmdHdr) (op : ReqOp) (t : State) : Prop :=
  t = (s1.setSess i (some { x with ring := some n })).complete x.uid c.tag op.code 2 0 c.entry 0 ∧ t.rings = s1.rings

/-- The message of a command of one message is accepted: its session, and the state in which the command has its effect. -/
def Sys2Proof.Whole (s s1 : State) (h : PctHdr) (i : Nat) (x : Sess) : Prop :=
  ∃ s0, s.accept h = (s0, some (i, x)) ∧ x.cmd = none ∧ h.more = false ∧ s1 = s0.setSess i (some x)

/-- SUBMIT, RESUME, CANCEL, DRAFT and FETCH of an accepted message enter the ring of their group behind those that
wait, with the staging words they take, into which their tokens are written; where entries or words are short they
complete with RING_FULL and no ring changes; a command of more messages waits for its last one, and one that was
interleaved with another kind completes with BAD_MSG (13 R359, R360; 15 R433, R435, R436). Which staging words an
entry takes is the model's choice (log entry 43), and so is how continuations are spelled (log entry 85). -/
def Obligations.RequestsEnterTheRing : Prop :=
  ∀ (s s0 s1 : State) (h : PctHdr) (c : CmdHdr) (i n m : Nat) (x : Sess) (b b0 : SubmitBody) (d : DWord) (l : List Word) (p : Nat)
    (st : List DraftStep) (f : Nat) (rel : Bool) (k : OpenCmd),
    let room (op : ReqOp) : Prop := (s1.ring n).length < fld (s1.rd (rIoRingCtl n)) 0 11
        ∧ (s1.stagingUsed n).length + op.words ≤ fld (s1.rd (rIoRingWords n)) 0 24
    (Whole s s1 h i x → s1.groupSlot c.target = some n →
        (room (.submit b) → Runs (.submit h c b) s (RingTakes s1 i n x c (.submit b)))
        ∧ (room (.resume m d l) → Runs (.resume h c m d l) s (RingTakes s1 i n x c (.resume m d l)))
        ∧ (room .cancel → Runs (.cancel h c) s (RingTakes s1 i n x c .cancel))
        ∧ (room (.draft p st) → Runs (.draft h c p st) s (RingTakes s1 i n x c (.draft p st)))
        ∧ (room (.fetch f rel) → Runs (.fetch h c f rel) s (RingTakes s1 i n x c (.fetch f rel)))
        ∧ (¬room (.submit b) → Runs (.submit h c b) s (RingFull s1 i n x c (.submit b)))
        ∧ (¬room (.resume m d l) → Runs (.resume h c m d l) s (RingFull s1 i n x c (.resume m d l)))
        ∧ (¬room .cancel → Runs (.cancel h c) s (RingFull s1 i n x c .cancel))
        ∧ (¬room (.draft p st) → Runs (.draft h c p st) s (RingFull s1 i n x c (.draft p st)))
        ∧ (¬room (.fetch f rel) → Runs (.fetch h c f rel) s (RingFull s1 i n x c (.fetch f rel))))
      ∧ (Whole s s1 h i x → s1.groupSlot c.target = none →
          Runs (.submit h c b) s (· = s1.complete x.uid c.tag 1 2 0 c.entry 0))
      ∧ (s.accept h = (s0, some (i, x)) → x.cmd = none → h.more = true →
          Runs (.submit h c b) s (· = s0.setSess i (some { x with cmd := some ⟨c, .req (.submit b), false⟩ })))
      ∧ (s.accept h = (s0, some (i, x)) → x.cmd = some k → s1 = s0.setSess i (some { x with cmd := none }) →
          (k.op = .req (.submit b0) → k.bad = false → h.more = false → s1.groupSlot k.hdr.target = some n →
            room (.submit { b0 with words := b0.words ++ b.words }) →
            Runs (.submit h c b) s
              (RingTakes s1 i n { x with cmd := none } k.hdr (.submit { b0 with words := b0.words ++ b.words })))
          ∧ (k.bad = true → h.more = false → Runs (.cancel h c) s
              (· = s1.complete x.uid k.hdr.tag k.op.code 4 0 k.hdr.entry 0)))

/-- A management command of one message is accepted from a secure session. -/
def Sys2Proof.Managed (s s1 : State) (h : PctHdr) (x : Sess) : Prop := (∃ i, Whole s s1 h i x) ∧ x.secure = true

/-- PART_CREATE of a secure session makes a FREE partition IDLE with its rectangle, world and allocation;
PART_DESTROY frees it and zeroes every byte of its cores and no other (05 R162; 07 R208, R210); what the checks
refuse completes with their code (15 R434). That PART_DESTROY of a partition that is not IDLE, or not below 16, is
BIND_BUSY, and the codes of the checks of PART_CREATE, are the model's reading (log entry 59). -/
def Obligations.PartitionsComeAndGo : Prop :=
  ∀ (s s1 : State) (h : PctHdr) (c : CmdHdr) (b : CreateBody) (x : Sess),
    Managed s s1 h x →
      (s1.createCheck c.target b = 0 → ∃ u : State, exec (.partCreate h c b) s = .next (u.complete x.uid c.tag 0x20 0 0 0 0)
          ∧ u.part c.target = { s1.part c.target with st := .idle, secure := !b.nonSecure, x0 := b.x0, y0 := b.y0, w := b.w,
                                                      h := b.h, alloc := b.alloc }
          ∧ (∀ p, p ≠ c.target → u.part p = s1.part p) ∧ (∀ g, u.memGet g = s1.memGet g) ∧ (∀ k, u.core k = s1.core k))
        ∧ (s1.createCheck c.target b ≠ 0 →
            Runs (.partCreate h c b) s (· = s1.complete x.uid c.tag 0x20 1 (s1.createCheck c.target b) 0 0))
        ∧ (c.target < 16 → (s1.part c.target).st = .idle → s1.partBusy c.target = false →
            ∃ u : State, exec (.partDestroy h c) s = .next (u.complete x.uid c.tag 0x21 0 0 0 0)
              ∧ u.part c.target = Part.reset ∧ (∀ p, p ≠ c.target → u.part p = s1.part p)
              ∧ (∀ k a, k ∈ (s1.part c.target).cores → a < 0x1800000 → u.memGet (gaddr k a) = 0)
              ∧ (∀ g, (∀ k a, k ∈ (s1.part c.target).cores → a < 0x1800000 → gaddr k a ≠ g) → u.memGet g = s1.memGet g))
        ∧ (16 ≤ c.target ∨ (s1.part c.target).st ≠ .idle ∨ s1.partBusy c.target = true →
            Runs (.partDestroy h c) s (· = s1.complete x.uid c.tag 0x21 1 0x13 0 0))

/-- LOAD_BEGIN opens a load where no operation on its partition waits, LOAD_END checks it and places it or refuses it
with its code (07 R209, R215), BIND, UNBIND, REBIND and TRANSIT wait, with the TC at which they came, for the
boundary at which they take effect (07 R213, R215), FLIGHT and JOIN act on a device that is not joined, JOIN
answering with the code of a join that failed at once, and are refused on one that is (10 R299; 15 R434). The model's
choices: the handles of loads (log entries 3 and 28), UNBIND of target 0xFFFF, which ends the transit claims (log
entry 60), a group number taken modulo 2,048 (log entry 76). -/
def Obligations.LoaderOperations : Prop :=
  ∀ (s s1 : State) (h : PctHdr) (c : CmdHdr) (b : BindBody) (keep : Word) (bytes handle : Nat) (l : Load) (fb : FlightBody)
    (x : Sess),
    let op (code : Nat) (all : Bool) (k : Word) (y : Option BindBody) (p : Nat) : PartOp :=
      ⟨p, code, x.uid, c.tag, all, k, y, s1.tb.tc, false, 0⟩
    let body : BindBody := { b with group := b.group % 2048 }
    Managed s s1 h x →
      (c.target = 0xFFFF ∨ s1.partBusy c.target = false → Runs (.loadBegin h c bytes) s fun t =>
          ∃ u : State, t = u.complete x.uid c.tag 0x22 0 0 0 (s1.mc.handle + 1)
          ∧ u.loads = s1.loads ++ [⟨s1.mc.handle + 1, x.uid, c.target, bytes, [], false⟩]
          ∧ u.mc = { s1.mc with handle := s1.mc.handle + 1 } ∧ Only [.loads, .mc] s1 u)
        ∧ (s1.loads.find? (fun l => decide (l.handle = handle ∧ l.session = x.uid)) = some l →
            l.part = 0xFFFF ∨ s1.partBusy l.part = false →
            let s2 := { s1 with loads := s1.loads.filter fun y => decide (y.handle ≠ handle) }
            let code := s2.loadCheck l.part l
            Runs (.loadEnd h c handle) s fun t =>
              t.loads = s2.loads
                ∧ (code = 0 → t = (s2.loadDone l).complete x.uid c.tag 0x23 0 0 0 0
                    ∧ ∃ pr : Prog, (t.part l.part).progs = (s1.part l.part).progs ++ [pr] ∧ pr.handle = handle
                        ∧ pr.image = imageOf l.bytes)
                ∧ (code ≠ 0 → t = (s2.loadRefused l.part code).complete x.uid c.tag 0x23 1 code 0 0))
        ∧ (c.target < 16 → s1.partBusy c.target = false →
            ((s1.part c.target).st = .idle → (s1.progOf c.target b.handle).isSome = true → Runs (.bind h c b) s fun t =>
                t.partOps = s1.partOps ++ [op 0x24 false 0 (some body) c.target] ∧ Only [.partOps] s1 t)
            ∧ ((s1.part c.target).isBound = true → Runs (.unbind h c keep) s fun t =>
                t.partOps = s1.partOps ++ [op 0x25 true keep none c.target] ∧ Only [.partOps] s1 t)
            ∧ ((s1.part c.target).isBound = true → (s1.progOf c.target b.handle).isSome = true →
                Runs (.rebind h c b keep) s fun t =>
                  t.partOps = s1.partOps ++ [op 0x26 true keep (some body) c.target] ∧ Only [.partOps] s1 t))
        ∧ (c.target = 0xFFFF → Runs (.unbind h c keep) s fun t =>
            t.partOps = s1.partOps ++ [op 0x25 true keep none 0xFFFF] ∧ Only [.partOps] s1 t)
        ∧ ((s1.progOf 0xFFFF b.handle).isSome = true → Runs (.transit h c b) s fun t =>
            t.partOps = s1.partOps ++ [op 0x27 false 0 (some body) 0xFFFF] ∧ Only [.partOps] s1 t)
        ∧ (c.target < 16 → s1.partBusy c.target = true →
            Runs (.bind h c b) s (· = s1.complete x.uid c.tag 0x24 1 0x13 0 0)
            ∧ Runs (.unbind h c keep) s (· = s1.complete x.uid c.tag 0x25 1 0x13 0 0)
            ∧ Runs (.rebind h c b keep) s (· = s1.complete x.uid c.tag 0x26 1 0x13 0 0))
        ∧ (s1.beat.joined = false → Runs (.flight h c fb) s fun t =>
            t = (s1.setFlight fb).complete x.uid c.tag 0x28 0 0 0 0
              ∧ fld (t.rd rTetherChip) 0 10 = fb.chip % 1024 ∧ t.beat = s1.beat)
        ∧ (s1.beat.joined = false →
            let u := s1.fwWrite rTetherJoinCtl (setFld (s1.rd rTetherJoinCtl) 0 1 1)
            (u.tether.join.step ≠ 7 → Runs (.join h c) s (· = u.complete x.uid c.tag 0x29 0 0 0 0))
              ∧ (u.tether.join.step = 7 → Runs (.join h c) s (· = u.complete x.uid c.tag 0x29 1 u.tether.join.code 0 0)))
        ∧ (s1.beat.joined = true → Runs (.flight h c fb) s (· = s1.complete x.uid c.tag 0x28 1 0x34 0 0)
            ∧ Runs (.join h c) s (· = s1.complete x.uid c.tag 0x29 1 0x34 0 0))

/-- ATTEST, FW_BEGIN, FW_COMMIT, RESET, SVN_RAISE, CONFIG_COMMIT, UCAL_SAVE, UCAL_LOAD, LC_OWN, LC_RETURN and
LOG_STREAM of a secure session have the effects of 16 R451 to R472, or are refused with the code of the check that
failed, each carried out being entered in the change log; a reserved operation is refused. That UCAL_LOAD of a copy
that does not stand is refused with 0x30, and that the copy it loads becomes the current one, is read from the spec
by inference (log entry 66). -/
def Obligations.FirmwareOperations : Prop :=
  ∀ (s s1 : State) (h : PctHdr) (c : CmdHdr) (i handle kind svn copy op : Nat) (revoke : BitVec 4) (mask : BitVec 8)
    (ev lg : Word) (force : Bool) (nonce pubkey sig : List Byte) (x : Sess),
    let o := x.origin i
    let done (u : State) (code arg : Nat) : State := u.fwDone o x.uid c.tag code arg
    Whole s s1 h i x → x.secure = true →
      (s1.fuses.lifecycle ≠ 3 → Runs (.attest h c nonce) s fun t =>
          t = done (s1.report nonce) 0x40 704 ∧ t.rd rScLogHead = s1.rd rScLogHead + 1 ∧ t.fuses = s1.fuses
            ∧ (∀ g, t.memGet g = s1.memGet g))
        ∧ (s1.mc.upd = none → Runs (.fwBegin h c) s fun t => ∃ u : State, t = done u 0x42 (s1.mc.handle + 1)
            ∧ u.mc = { s1.mc with handle := s1.mc.handle + 1, upd := some ⟨s1.mc.handle + 1, x.uid, false⟩ }
            ∧ u.flash = flashErase s1.flash (bankBase s1.otherBank) 0x10000 ∧ Only [.mc, .flash] s1 u)
        ∧ Runs (.fwCommit h c handle) s (· = if s1.commitCheck x.uid handle = 0 then done s1.commitBank 0x43 0
            else s1.fwRefuse x.uid c.tag 0x43 (s1.commitCheck x.uid handle))
        ∧ (s1.commitBank.mc = { s1.mc with upd := none } ∧ leNat (s1.commitBank.flashBytes (bankBase s1.otherBank) 4) = 0x4B4E4250
            ∧ Only [.mc, .flash] s1 s1.commitBank)
        ∧ (s1.beat.joined = false ∨ force = true → Runs (.reset h c force) s fun t =>
            t.mc = { (done s1 0x44 0).mc with resetPend := true } ∧ Only [.mc] (done s1 0x44 0) t)
        ∧ (s1.svnCheck kind revoke.toNat svn = 0 → Runs (.svnRaise h c kind revoke svn) s
            fun t => t.fuses = { s1.fuses with revoke := s1.fuses.revoke ||| revoke.toNat,
                                               minSvn := s1.fuses.minSvn.set (kind - 1) svn }
              ∧ t = done (s1.svnBlow kind revoke.toNat svn) 0x45 0)
        ∧ (Runs (.configCommit h c copy) s fun t => (∀ g, t.memGet g = s1.memGet g) ∧ t.flash = s1.flash
            ∧ t = if s1.configCheck copy = 0 then done s1 0x46 0 else s1.fwRefuse x.uid c.tag 0x46 (s1.configCheck copy))
        ∧ (Runs (.ucalSave h c) s fun t => t = done s1.ucalStore 0x47 0 ∧ t.mc.ucalSeq = s1.mc.ucalSeq + 1
            ∧ t.mc.ucalCopy = some (match s1.mc.ucalCopy with | some k => 1 - k | none => 0)
            ∧ t.rd rScLogHead = s1.rd rScLogHead + 1)
        ∧ (copy < 2 → Runs (.ucalLoad h c copy) s fun t =>
            match s1.ucalCopy copy with
            | none => t = s1.fwRefuse x.uid c.tag 0x4A 0x30
            | some v => ∃ u : State, t = done u 0x4A 0 ∧ Only [.regs, .mc] s1 u
                ∧ u.mc = { s1.mc with ucalSeq := BitVec.ofNat 32 v.1, ucalCopy := some copy }
                ∧ ∀ i, i < min 64 v.2.length → u.rd (rScUcal i) = v.2.getD i 0)
        ∧ (s1.fuses.lifecycle = 1 → Runs (.lcOwn h c pubkey) s fun t => ∃ u : State, t = done u 0x48 0
            ∧ u.fuses = { s1.fuses with lifecycle := 2, owner := sm3 pubkey })
        ∧ (s1.fuses.lifecycle = 2 → Runs (.lcReturn h c sig) s fun t =>
            let signed := s1.ownerSigned (s1.deviceId ++ leBytes 4 s1.mc.bootId.toNat ++ [0x52]) sig
            if signed = true then
              t.mc.resetPend = true ∧ t.fuses = { s1.fuses with lifecycle := 3, idSecret := List.replicate 32 0xFF }
            else t = s1.fwRefuse x.uid c.tag 0x49 0x30)
        ∧ (Runs (.reservedOp h c op) s fun t => t = s1.fwRefuse x.uid c.tag op 0x33 ∧ Only [.regs, .out, .sess, .neigh] s1 t)
        ∧ ((done s1 0x41 0).sessOf x.uid = none → Runs (.logStream h c mask ev lg) s (· = done s1 0x41 0))
        ∧ (∀ k y, (done s1 0x41 0).sessOf x.uid = some k → (done s1 0x41 0).sessAt k = some y →
            Runs (.logStream h c mask ev lg) s fun t =>
              ∃ u : State, t = (u.streamOne k 1).streamOne k 2
                ∧ u.sessAt k = some { y with mask := mask.toNat % 4, fromEvt := ev, fromLog := lg }
                ∧ Only [.sess] (done s1 0x41 0) u)

/-- A management command of a session of the non-secure world: logged and answered WORLD. -/
def Sys2Proof.WorldRefused (s1 : State) (i : Nat) (x : Sess) (c : CmdHdr) (op : Nat) (t : State) : Prop :=
  t = (s1.log (x.origin i) 4 0xFF (BitVec.ofNat 32 op) 0 0).complete x.uid c.tag op 3 0 0 0

/-- ATTEST, FW_BEGIN, RESET, SVN_RAISE, LC_OWN and LC_RETURN out of their lifecycle state or order are refused with
their code (16 R453, R459 to R461), and every management command of a session of the non-secure world, partitions,
loads, bindings, FLIGHT and JOIN among them, is logged, answered WORLD, and does nothing (15 R434; 16 R448). -/
def Obligations.FirmwareRefusals : Prop :=
  ∀ (s s1 : State) (h : PctHdr) (c : CmdHdr) (i kind svn bytes handle copy op : Nat) (revoke : BitVec 4) (mask : BitVec 8)
    (ev lg keep : Word) (force : Bool) (nonce pubkey sig : List Byte) (cb : CreateBody) (b : BindBody) (fb : FlightBody) (x : Sess),
    let no (op : Nat) : State → Prop := WorldRefused s1 i x c op
    Whole s s1 h i x →
      (x.secure = true →
        (s1.fuses.lifecycle = 3 → Runs (.attest h c nonce) s (· = s1.fwRefuse x.uid c.tag 0x40 0x35))
        ∧ (s1.mc.upd ≠ none → Runs (.fwBegin h c) s (· = s1.fwRefuse x.uid c.tag 0x42 0x33))
        ∧ (s1.beat.joined = true → Runs (.reset h c false) s (· = s1.fwRefuse x.uid c.tag 0x44 0x34))
        ∧ (s1.svnCheck kind revoke.toNat svn ≠ 0 →
            Runs (.svnRaise h c kind revoke svn) s (· = s1.fwRefuse x.uid c.tag 0x45 (s1.svnCheck kind revoke.toNat svn)))
        ∧ (s1.fuses.lifecycle ≠ 1 → Runs (.lcOwn h c pubkey) s (· = s1.fwRefuse x.uid c.tag 0x48 0x35))
        ∧ (s1.fuses.lifecycle ≠ 2 → Runs (.lcReturn h c sig) s (· = s1.fwRefuse x.uid c.tag 0x49 0x35)))
      ∧ (x.secure = false →
        Runs (.partCreate h c cb) s (no 0x20) ∧ Runs (.partDestroy h c) s (no 0x21) ∧ Runs (.loadBegin h c bytes) s (no 0x22)
        ∧ Runs (.loadEnd h c handle) s (no 0x23) ∧ Runs (.bind h c b) s (no 0x24) ∧ Runs (.unbind h c keep) s (no 0x25)
        ∧ Runs (.rebind h c b keep) s (no 0x26) ∧ Runs (.transit h c b) s (no 0x27) ∧ Runs (.flight h c fb) s (no 0x28)
        ∧ Runs (.join h c) s (no 0x29) ∧ Runs (.attest h c nonce) s (no 0x40) ∧ Runs (.logStream h c mask ev lg) s (no 0x41)
        ∧ Runs (.fwBegin h c) s (no 0x42) ∧ Runs (.fwCommit h c handle) s (no 0x43) ∧ Runs (.reset h c force) s (no 0x44)
        ∧ Runs (.svnRaise h c kind revoke svn) s (no 0x45) ∧ Runs (.configCommit h c copy) s (no 0x46)
        ∧ Runs (.ucalSave h c) s (no 0x47) ∧ Runs (.lcOwn h c pubkey) s (no 0x48) ∧ Runs (.lcReturn h c sig) s (no 0x49)
        ∧ Runs (.ucalLoad h c copy) s (no 0x4A) ∧ Runs (.reservedOp h c op) s (no op))

/-! ### Register operations and bulk messages (11 R326; 13; 14; 15 R439, R440; 16) -/

/-- A register operation arrives in one of its three ways: the state in which it takes place, and who waits for its answer. -/
def Sys2Proof.Lands (s : State) (via : Via) (acc : Access) (u : State) (w : Waiter) : Prop :=
  match via with
  | .firmware => s.live = true ∧ u = s ∧ w = ⟨originFw, none, s.fwAccess acc, true⟩
  | .more i => ∃ x, s.sessAt i.val = some x ∧ x.left ≠ 0 ∧ u = s.setSess i.val (some { x with left := x.left - 1 })
      ∧ w = ⟨x.origin i.val, some x.uid, acc, decide (x.left = 1)⟩
  | .pct h => goodRegs h = true ∧ ∃ s1 i x, s.accept h = (s1, some (i, x))
      ∧ u = s1.setSess i (some { x with left := h.len / 16 - 1, reply := if x.left = 0 then x.reply else [] })
      ∧ w = ⟨x.origin i, some x.uid, acc, decide (h.len / 16 = 1)⟩

/-- The access lands and takes place at once; one to a core has passed its endpoint. -/
def Sys2Proof.LandsNow (s : State) (via : Via) (acc : Access) (u : State) (w : Waiter) : Prop :=
  ∃ u0, Lands s via acc u0 w ∧ u0.mustWait w = false ∧ u = u0.byDrift w

/-- A write of the secure world took place and was answered with status 0; `P` holds of the state just before the answer. -/
def Sys2Proof.Wrote (w : Waiter) (a : Nat) (v : Word) (P : State → Prop) (t : State) : Prop :=
  ∃ u1 : State, t = u1.answerReg w 2 a 0 v ∧ P u1

/-- A read answers the register as its type gives it, TB_TC_LO latching the high word (11 R336), SC_RAND a new draw;
a counter of waits of an engine at work what was counted plus a free number, STALLED of a working ME and ZERO_BUSY
while a zeroing may last a free bit (log entry 14); a core that does not exist and a register the world may not read
answer their status (15 R439; 16 R446, R448). -/
def Obligations.RegisterReads : Prop :=
  ∀ (s u : State) (via : Via) (w : Waiter) (a : Nat),
    (LandsNow s via (.regRead a) u w → ¬(inCoreBlock a = true ∧ blockCore a < 256 ∧ u.coreExists (blockCore a) = false) →
        (w.o.secure = true ∨ u.nsReadable a = true) → a ≠ rTbTcLo → a ≠ rScRand →
        let v := (((u.sampleMon a).measure a).codewords a).countUp a
        (v.timedRead a = none → Runs (.registerRead via a) s fun t => t = v.answerReg w 1 a 0 (v.regView a)
            ∧ Only [.regs, .free, .cores] u v ∧ (u.mayCount a = false → Only [.regs, .free] u v)
            ∧ (u.mayCount a = false → a < 0x3000000 ∨ (0x4000000 ≤ a ∧ a < 0x9000000) ∨ 0xA000000 ≤ a → v = u))
          ∧ (u.mayCount a = true → Runs (.registerRead via a) s fun t => t = (u.countUp a).answerReg w 1 a 0 ((u.countUp a).regView a)
              ∧ (u.countUp a).rd a = satAdd (u.regView a) (Config.waitCycles u.free))
          ∧ (u.mayStall a = true → Runs (.registerRead via a) s fun t => ∃ x : Word,
              t = ({ u with free := u.free + 1 }).answerReg w 1 a 0 x ∧ ∀ n, n ≠ 5 → bit x n = bit (u.regView a) n)
          ∧ (u.mayZero a = true → Runs (.registerRead via a) s fun t => ∃ x : Word,
              t = ({ u with free := u.free + 1 }).answerReg w 1 a 0 x ∧ ∀ n, n ≠ 6 → bit x n = bit (u.regView a) n))
      ∧ (LandsNow s via (.regRead a) u w → inCoreBlock a = true → blockCore a < 256 → u.coreExists (blockCore a) = false →
          Runs (.registerRead via a) s (· = u.answerReg w 1 a 2 0))
      ∧ (LandsNow s via (.regRead a) u w → ¬(inCoreBlock a = true ∧ blockCore a < 256 ∧ u.coreExists (blockCore a) = false) →
          w.o.secure = false → u.nsReadable a = false → ¬(0x8001000 ≤ a ∧ a < 0x8005000) →
          Runs (.registerRead via a) s (· = (u.regWorld w.o 4 a 0).answerReg w 1 a 1 0))
      ∧ (LandsNow s via (.regRead rTbTcLo) u w → Runs (.tbTcLoRead via) s
          (· = ({ u with tb := { u.tb with tcHi := hi32 u.tb.tc } }).answerReg w 1 rTbTcLo 0 (lo32 u.tb.tc)))
      ∧ (LandsNow s via (.regRead rScRand) u w → w.o.secure = true → Runs (.scRandRead via) s
          (· = ({ u with rnd := u.rnd + 1 }).answerReg w 1 rScRand 0 (Config.random u.rnd)))

/-- An access to a region that is stopped waits behind those that wait, and when the level change is done all take
place in order (11 R326). -/
def Obligations.AccessesWait : Prop :=
  ∀ (s u : State) (via : Via) (w : Waiter) (a : Nat) (v : Word) (region : Region),
    (Lands s via (.regRead a) u w → u.mustWait w = true → Runs (.registerRead via a) s fun t =>
        t.stalled = u.stalled ++ [w] ∧ Only [.stalled] u t)
      ∧ (Lands s via (.regWrite a v) u w → u.mustWait w = true → Runs (.registerWrite via a v) s fun t =>
        t.stalled = u.stalled ++ [w] ∧ Only [.stalled] u t)
      ∧ (s.stalled = [] → bit (s.rd (rPmRegionClk region.val)) 4 = true → Runs (.levelChangeDone region) s fun t =>
        fld (t.rd (rPmRegionClk region.val)) 2 2 = fld (s.rd (rPmRegionClk region.val)) 0 2
          ∧ bit (t.rd (rPmRegionClk region.val)) 4 = false
          ∧ (∀ b, b ≠ rPmRegionClk region.val → t.rd b = s.rd b) ∧ Only [.regs] s t)
      ∧ Runs (.levelChangeDone region) s fun t => t = (s.stalled.foldl State.access { s.levelDone region with stalled := [] })

/-- A register that a write of the secure world reaches by the types of its fields alone. -/
def Sys2Proof.PlainReg (s : State) (a : Nat) : Prop :=
  (inCoreBlock a = true ∧ s.coreExists (blockCore a) = true ∧ setupReg (blockOff a) = false)
    ∨ a < 0x1000000 ∨ (0x2000000 ≤ a ∧ a < 0x3000000 ∧ a ≠ rTbCtl ∧ s.beat.joined = false)
    ∨ (0x3000000 ≤ a ∧ a < 0x3001000 ∧ a ≠ rPmThresh) ∨ (0x7000000 ≤ a ∧ a < 0x8000000) ∨ (0x9000000 ≤ a ∧ a < 0x9002000)

/-- A write of the secure world to a register without an effect of its own leaves in it what the types of its fields
give (00 R13, R16, R17) and changes no other group of state, but for the counting of the core whose counter of cycles
is written; a read-only register keeps its value and the write is logged (16 R465); the other world writes nothing
and is logged (16 R448). Which registers log is the spec's; that a read-only one logs is read from it (log entry 20).
-/
def Obligations.RegisterWrites : Prop :=
  ∀ (s u : State) (via : Via) (w : Waiter) (a : Nat) (v : Word) (r : RegRow),
    (LandsNow s via (.regWrite a v) u w → w.o.secure = true → PlainReg u a → regFind a = some r →
        (r.readOnly = false → Runs (.registerWrite via a v) s (Wrote w a v fun u1 =>
            u1.rd a = r.after false (u.rd a) v ∧ (∀ g, u1.memGet g = u.memGet g)
              ∧ Only [.regs, .sc, .cores] u u1 ∧ (countsCycles a = false → Only [.regs, .sc] u u1)))
        ∧ (r.readOnly = true → Runs (.registerWrite via a v) s (Wrote w a v fun u1 =>
            u1.rd a = u.rd a ∧ u1.rd rScLogHead = u.rd rScLogHead + 1)))
      ∧ (LandsNow s via (.regWrite a v) u w → w.o.secure = false → inCoreBlock a = false →
          ∃ u1 : State, exec (.registerWrite via a v) s = .next (u1.answerReg w 2 a 1 v) ∧ u1 = u.regWorld w.o 3 a v)

/-- Group bits, credits and client words written between boundaries are held in order until the boundary that opens a
work period (13 R364, R383), whichever row brings them; the words of a client record that only the RT writes are
refused and logged. -/
def Obligations.HeldWrites : Prop :=
  ∀ (s u : State) (via : Via) (w : Waiter) (n : Fin 16) (client : Fin 4096) (word : Fin 16) (v : Word),
    let a := rRtGroupCtl n.val
    let old := u.groupCtl n.val
    let held := (if bit v 0 = bit old 0 then [] else [(w.o, HeldWrite.valid n.val (bit v 0))])
      ++ (if bit v 12 = bit old 12 then [] else [(w.o, HeldWrite.noadmit n.val (bit v 12))])
      ++ (if bit v 13 = bit old 13 then [] else [(w.o, HeldWrite.frozen n.val (bit v 13))])
    w.o.secure = true →
      (LandsNow s via (.regWrite a v) u w →
          let waits (u1 : State) : Prop := u1.rt = { u.rt with held := u.rt.held ++ held } ∧ bit (u1.rd a) 0 = bit (u.rd a) 0
            ∧ (∀ g, u1.memGet g = u.memGet g)
          Runs (.rtGroupValidSet via n v) s (Wrote w a v waits) ∧ Runs (.groupRelease via n v) s (Wrote w a v waits)
            ∧ Runs (.noadmit via n v) s (Wrote w a v waits) ∧ Runs (.frozen via n v) s (Wrote w a v waits))
      ∧ (LandsNow s via (.regWrite rRtCredit v) u w → fld v 12 20 ≠ 0 → Runs (.rtCredit via v) s (Wrote w rRtCredit v fun u1 =>
          u1.rt = { u.rt with held := u.rt.held ++ [(w.o, .credit (fld v 0 12) (fld v 12 20))] } ∧ Only [.rt] u u1))
      ∧ (LandsNow s via (.regWrite (rRtCli (16 * client.val + word.val)) v) u w →
          (8 ≤ word.val ∧ word.val ≤ 11 ∨ 14 ≤ word.val → Runs (.clientRecordWrite via client word v) s (Wrote w
              (rRtCli (16 * client.val + word.val)) v fun u1 =>
            u1.rt = { u.rt with held := u.rt.held ++ [(w.o, .client client.val word.val v)] } ∧ Only [.rt] u u1))
          ∧ (¬(8 ≤ word.val ∧ word.val ≤ 11 ∨ 14 ≤ word.val) → Runs (.clientRecordWrite via client word v) s (Wrote w
              (rRtCli (16 * client.val + word.val)) v fun u1 => u1.rt = u.rt ∧ u1.rd rScLogHead = u.rd rScLogHead + 1)))

/-- XB_CMD claims a FREE slot, makes a claimed one READY, releases one that is not in use, and refuses the rest; a
READY slot of the group may be named PENDING (14 R415, R416, R421). -/
def Obligations.SlotsAreBound : Prop :=
  ∀ (s u : State) (via : Via) (w : Waiter) (e : Bool) (k : Fin 1024) (g : Nat) (v : Word),
    w.o.secure = true →
      (LandsNow s via (.regWrite rXbCmd (xbWord 1 e k.val g)) u w → u.xbState e k.val = 0 →
        Runs (.xbClaim via e k g) s (Wrote w rXbCmd (xbWord 1 e k.val g) fun u1 =>
          u1.xbState e k.val = 1 ∧ u1.xbGroup e k.val = g % 2048 ∧ (∀ x, u1.memGet x = u.memGet x) ∧ Only [.regs, .sc] u u1))
      ∧ (LandsNow s via (.regWrite rXbCmd (xbWord 2 e k.val g)) u w → u.xbState e k.val = 1 →
        Runs (.xbReady via e k g) s (Wrote w rXbCmd (xbWord 2 e k.val g) fun u1 =>
          u1.xbState e k.val = 2 ∧ u1.xbGroup e k.val = u.xbGroup e k.val ∧ Only [.regs, .sc] u u1))
      ∧ (LandsNow s via (.regWrite rXbCmd (xbWord 3 e k.val g)) u w → u.xbState e k.val = 1 ∨ u.xbState e k.val = 2 →
        Runs (.xbRelease via e k g) s (Wrote w rXbCmd (xbWord 3 e k.val g) fun u1 =>
          u1.rd (rXbSlot e k.val) = 0 ∧ Only [.regs, .sc] u u1))
      ∧ (LandsNow s via (.regWrite rXbCmd (xbWord 1 e k.val g)) u w → u.xbState e k.val ≠ 0 →
        Runs (.xbClaim via e k g) s (Wrote w rXbCmd (xbWord 1 e k.val g) fun u1 =>
          bit (u1.rd rXbStatus) 0 = true ∧ u1.rd (rXbSlot e k.val) = u.rd (rXbSlot e k.val)))
      ∧ (LandsNow s via (.regWrite (rXbSet e k.val) v) u w →
        Runs (.xbPendingWrite via e k v) s (Wrote w (rXbSet e k.val) v fun u1 => Only [.regs, .sc] u u1
          ∧ (u.xbMay e k.val (fld v 16 16) = true → fld (u1.rd (rXbSet e k.val)) 16 16 = fld v 16 16)
          ∧ (u.xbMay e k.val (fld v 16 16) = false → bit (u1.rd rXbStatus) 0 = true
            ∧ u1.rd (rXbSet e k.val) = u.rd (rXbSet e k.val))))

/-- A tail moves no further back than its ring holds (12 R354; 16 R468, R469), a calibration word is taken only
within the bounds of factory calibration (16 R464), and a locked SC_JTAG keeps its bits and logs the attempt (00 R14;
16 R475). What a tail outside the ring does is the model's choice (log entry 24). -/
def Obligations.LogTailsAndLocks : Prop :=
  ∀ (s u : State) (via : Via) (w : Waiter) (i : Fin 64) (v : Word),
    let a := rScUcal i.val
    let p := fld v 0 16
    let known := decide (p = 0 ∨ (0x100 ≤ p ∧ p < 0x120) ∨ (0x200 ≤ p ∧ p < 0x210) ∨ (0x300 ≤ p ∧ p < 0x320)
      ∨ (0x400 ≤ p ∧ p < 0x408) ∨ p = 0x500)
    let fits := decide (p = 0) || decide ((v.extractLsb' 16 16).toInt.natAbs ≤ u.fuses.bounds.getD (p / 256 - 1) 0)
    w.o.secure = true →
      (LandsNow s via (.regWrite rScLogTail v) u w → Runs (.scLogTailWrite via v) s (Wrote w rScLogTail v
          (· = if (u.rd rScLogHead - v).toNat ≤ 16384 then u.wr rScLogTail v else u)))
      ∧ (LandsNow s via (.regWrite rScEvtTail v) u w → Runs (.scEvtTailWrite via v) s (Wrote w rScEvtTail v
          (· = if (u.rd rScEvtHead - v).toNat ≤ 4096 then u.wr rScEvtTail v else u)))
      ∧ (LandsNow s via (.regWrite rDgLogTail v) u w → Runs (.dgLogTailWrite via v) s (Wrote w rDgLogTail v
          (· = if ((u.rd rDgLogHead).toNat + 2 ^ 17 - v.toNat % 2 ^ 17) % 2 ^ 17 ≤ 65536
            then u.wr rDgLogTail (BitVec.ofNat 32 (fld v 0 17)) else u)))
      ∧ (LandsNow s via (.regWrite a v) u w → Runs (.ucalWrite via i v) s (Wrote w a v fun u1 =>
          u1.rd rScLogHead = u.rd rScLogHead + 1
            ∧ ((known && fits) = true → u1.rd a = v)
            ∧ ((known && fits) = false → u1.rd a = u.rd a ∧ bit (u1.rd rScStatus) 6 = true)))
      ∧ (LandsNow s via (.regWrite rScJtag v) u w → bit (u.rd rScJtag) 1 = true →
          Runs (.scJtagLock via v) s (Wrote w rScJtag v fun u1 =>
          u1.rd rScJtag = u.rd rScJtag ∧ u1.rd rScLogHead = u.rd rScLogHead + 1))
      ∧ (LandsNow s via (.regWrite rScJtag v) u w → bit (u.rd rScJtag) 1 = false →
          Runs (.scJtagLock via v) s (Wrote w rScJtag v (· = u.writeTyped w.o rScJtag v)))

/-- A level request is taken or refused as the region is held (11 R325, R326); a write of TB_CTL off a flight sets
the source and arms TSYNC, and on one is ignored and logged (11 R312, R314); START puts a device that is not joined
into the first step of a join with READY and the last fault cleared, and does nothing on one that is (10 R299, R307);
READY is kept, and with BEAT_LEN or GUARD out of limits fails the join (10 R303); RETRY and ABANDON of RL_PARTn_CTL
wait for the boundary, where the stopped order starts again or is passed over (14 R413, R419, R420; log entry 39). -/
def Obligations.RegistersThatAct : Prop :=
  ∀ (s u : State) (via : Via) (w : Waiter) (region : Region) (part : Fin 16) (v v1 : Word),
    w.o.secure = true →
      (LandsNow s via (.regWrite (rPmRegionClk region.val) v) u w →
          let clk (x : State) : Word := x.rd (rPmRegionClk region.val)
          (u.regionHeld region.val = false ∨ fld v 0 2 = u.level region.val → Runs (.levelChangeRequest via region v) s (Wrote w
              (rPmRegionClk region.val) v fun u1 => bit (clk u1) 4 = (bit (clk u) 4 || decide (fld v 0 2 ≠ u.level region.val))
                ∧ fld (clk u1) 0 2 = fld v 0 2 ∧ u1.level region.val = u.level region.val
                ∧ (bit v 5 = true → bit (clk u1) 5 = false)))
          ∧ (u.regionHeld region.val = true → fld v 0 2 ≠ u.level region.val → Runs (.levelChangeRequest via region v) s (Wrote w
              (rPmRegionClk region.val) v fun u1 => bit (clk u1) 5 = true ∧ bit (clk u1) 4 = bit (clk u) 4
                ∧ u1.rd rScLogHead = u.rd rScLogHead + 1 ∧ u1.level region.val = u.level region.val)))
      ∧ (LandsNow s via (.regWrite rTbCtl v) u w → u.beat.joined = false →
          Runs (.tsyncArm via v) s (Wrote w rTbCtl v fun u1 => bit (u1.rd rTbCtl) 0 = bit v 0
            ∧ bit (u1.rd rTbCtl) 1 = (bit (u.rd rTbCtl) 1 || bit v 1) ∧ u1.rd rScLogHead = u.rd rScLogHead + 1
            ∧ u1.tb = { u.tb with srcPort := bit v 0 && !u.tether.join.isRoot && u.tether.join.parent.isSome }
            ∧ Only [.regs, .sc, .tb] u u1))
      ∧ (LandsNow s via (.regWrite rTbCtl v) u w → u.beat.joined = true →
          Runs (.tsyncArm via v) s (Wrote w rTbCtl v fun u1 => u1.rd rTbCtl = u.rd rTbCtl ∧ u1.rd rScLogHead = u.rd rScLogHead + 1))
      ∧ (LandsNow s via (.regWrite rTetherJoinCtl v) u w → w.acc = .regWrite rTetherJoinCtl v1 →
          (bit v1 0 = true → u.beat.joined = false → (∀ p, u.portEn p = true → (u.port p).st ≤ 1 ∧ (u.port p).late = false) →
            (∃ p, u.portEn p = true) → Runs (.joinStart via v) s (Wrote w rTetherJoinCtl v1 fun u1 =>
              u1.tether.join = { Join.reset with step := 1, isRoot := bit v1 1, bitmap := [u.chipId], count := 1,
                                                 dMax := u.tether.join.dMax }
                ∧ bit (u1.rd rTetherJoinCtl) 2 = false ∧ u1.beat = { u.beat with faulted := none, cond := none }
                ∧ (∀ p, (u1.port p).heard = .nothing ∧ (u1.port p).ready = false ∧ (u1.port p).delays = []
                    ∧ (u1.port p).joined = false)))
          ∧ (bit v1 0 = true → u.beat.joined = true → Runs (.joinStart via v) s (Wrote w rTetherJoinCtl v1 fun u1 =>
              u1.tether = u.tether ∧ u1.beat = u.beat))
          ∧ (bit v1 0 = false → bit v1 2 = true → u.tether.join.step ≠ 4 → Runs (.joinReadySet via v) s (Wrote w rTetherJoinCtl v1
              fun u1 => bit (u1.rd rTetherJoinCtl) 2 = true ∧ u1.tether = u.tether))
          ∧ (bit v1 0 = false → bit v1 2 = true → u.tether.join.step = 4 → u.beatOk = false →
              Runs (.joinReadySet via v) s (Wrote w rTetherJoinCtl v1 fun u1 =>
                u1.tether.join = { u.tether.join with step := 7, code := 8 })))
      ∧ (LandsNow s via (.regWrite (rRlPartCtl part.val) 1) u w →
          Runs (.rlRetry via part) s (Wrote w (rRlPartCtl part.val) 1 fun u1 => Only [.pg, .regs, .sc] u u1
            ∧ u1.pgOf part.val = { u.pgOf part.val with ctl := (u.pgOf part.val).ctl ++ [false] }))
      ∧ (LandsNow s via (.regWrite (rRlPartCtl part.val) 2) u w →
          Runs (.rlAbandon via part) s (Wrote w (rRlPartCtl part.val) 2 fun u1 => Only [.pg, .regs, .sc] u u1
            ∧ u1.pgOf part.val = { u.pgOf part.val with ctl := (u.pgOf part.val).ctl ++ [true] }))
      ∧ (∀ (p : Nat) (o : Order), let q := s.pgOf p
          q.stopped = true → q.orders = [o] → o.seq = q.failSeq → o.move = true → o.out = false →
            s.qpState (s.orderQp p o.page) = 1 →
            (((s.rlRetry p).pgOf p).stopped = false ∧ ∃ k, ((s.rlRetry p).pgOf p).orders = [{ o with openOps := k, st := .running }])
              ∧ ((s.rlAbandon p).pgOf p).stopped = false ∧ ((s.rlAbandon p).pgOf p).failCnt = q.failCnt + 1
              ∧ ((s.rlAbandon p).pgOf p).orders = [])

/-- A bulk message reads and writes a slice as one access, adds to the image of a load in order, writes the inactive
flash bank while an update is open and is refused elsewhere (15 R440; 16 R460). That the first 8 bytes of the bank's
descriptor stay erased until FW_COMMIT is read from the spec by inference (log entry 62); a read of the image answers
what has come (log entry 64). -/
def Obligations.BulkMessages : Prop :=
  ∀ (s s1 : State) (h : PctHdr) (b : BulkHdr) (data : List Byte) (i : Nat) (x : Sess),
    s.accept h = (s1, some (i, x)) →
      (goodBulk h b b.bytes = true → data.length = b.bytes →
        (b.target = 0 → Runs (.bulkWrite h b data) s (· = s1.access ⟨x.origin i, some x.uid, .memWrite b.addr data, false⟩))
        ∧ (b.target = 1 → Runs (.bulkWrite h b data) s fun t => Only [.loads] s1 t
            ∧ t.loads = s1.loads.map fun l => if l.handle = b.handle ∧ l.session = x.uid then
                (if b.addr = l.bytes.length ∧ b.addr + data.length ≤ l.total then { l with bytes := l.bytes ++ data }
                 else { l with bad := true }) else l)
        ∧ (b.target = 2 → x.secure = true → s1.flashMay x.uid b.addr data.length = true →
            Runs (.bulkWrite h b data) s fun t => Only [.flash] s1 t
              ∧ t.flash = flashErase (flashWrite s1.flash b.addr data) (bankBase s1.otherBank) 8)
        ∧ (b.target = 2 → x.secure = true → s1.flashMay x.uid b.addr data.length = false →
            Runs (.bulkWrite h b data) s fun t => t.flash = s1.flash ∧ t.rd rScLogHead = s1.rd rScLogHead + 1
              ∧ t.mc.upd = s1.mc.upd.map fun y => { y with failed := true })
        ∧ (b.target = 2 → x.secure = false → Runs (.bulkWrite h b data) s fun t => t.flash = s1.flash
            ∧ t.rd rScLogHead = s1.rd rScLogHead + 1 ∧ Only [.regs, .sc] s1 t))
      ∧ (goodBulk h b 0 = true →
        (b.target = 0 → Runs (.bulkRead h b) s (· = s1.access ⟨x.origin i, some x.uid, .memRead b.addr b.bytes b.tag, false⟩))
        ∧ (b.target = 2 → x.secure = true →
            Runs (.bulkRead h b) s (· = s1.send x.uid 5 (bulkData 2 0 0 b.addr b.tag (s1.flashBytes b.addr b.bytes))))
        ∧ (∀ l, b.target = 1 → s1.loads.find? (fun l => decide (l.handle = b.handle ∧ l.session = x.uid)) = some l →
            b.addr + b.bytes ≤ l.bytes.length → Runs (.bulkRead h b) s
              (· = s1.send x.uid 5 (bulkData 1 0 b.handle b.addr b.tag ((l.bytes.drop b.addr).take b.bytes)))))

/-- A bulk write to a slice that the checks pass writes its bytes at their addresses and no other byte of memory, and
no core changes; a bulk read of bytes that no poison covers answers them with status 0 and changes no byte (05 R144,
R151, R157; 15 R440). -/
def Obligations.HostWritesMemory : Prop :=
  ∀ (s s1 : State) (h : PctHdr) (b : BulkHdr) (data : List Byte) (i : Nat) (x : Sess),
    s.accept h = (s1, some (i, x)) → b.target = 0 → s1.hostCheck (x.origin i) b.addr b.bytes = none →
      (goodBulk h b b.bytes = true → data.length = b.bytes →
        s1.mustWait ⟨x.origin i, some x.uid, .memWrite b.addr data, false⟩ = false →
        Runs (.bulkWrite h b data) s fun t =>
          (∀ k, k < b.bytes → t.memGet (b.addr + k) = data.getD k 0)
            ∧ (∀ g, (g < b.addr ∨ b.addr + b.bytes ≤ g) → t.memGet g = s1.memGet g)
            ∧ (∀ c, t.core c = s1.core c))
      ∧ (goodBulk h b 0 = true → s1.mustWait ⟨x.origin i, some x.uid, .memRead b.addr b.bytes b.tag, false⟩ = false →
        (∀ k, k < b.bytes → s1.granulePoisoned ((b.addr + k) / 8) = false) →
        Runs (.bulkRead h b) s fun t => (∀ g, t.memGet g = s1.memGet g) ∧ ∃ u : State,
          t = u.send x.uid 5 (bulkData 0 0 0 b.addr b.tag ((List.range b.bytes).map fun k => s1.memGet (b.addr + k))))

/-! ### The tether: joining, cells, beats (01; 10) -/

/-- A port that locks with the right alignment block is locked with four lanes (10 R277, R279), another block is a
flight fault once joined, a port that loses lock or its neighbour is lost and, joined, faults the flight (10 R304,
R305); one that is still in TRAIN after 200 ms fails a join in whichever step it is (10 R279, R299, R310). -/
def Obligations.PortsTrain : Prop :=
  ∀ (s : State) (p : Fin 8) (b : AlignBlock),
    s.portEn p = true →
      (s.beat.joined = true → s.blockOk p b = true → Runs (.portLocked p b) s fun t => Only [.tether] s t
          ∧ t.port p = { s.port p with st := (if (s.port p).st ≤ 1 then 2 else (s.port p).st), lanes := 15, block := some b,
                                       late := false }
          ∧ (∀ q, q ≠ p → t.port q = s.port q))
      ∧ (s.beat.joined = true → s.blockOk p b = false → Runs (.portLocked p b) s fun t =>
          t.beat.cond = some (s.beat.cond.getD (2, p.val)) ∧ t.beat.acc.fault = true)
      ∧ (s.beat.joined = false → Runs (.portLocked p b) s fun t => ∃ u : State, t = u.joinTrain ∧ Only [.tether] s u
          ∧ 2 ≤ (u.port p).st ∧ (u.port p).block = some b ∧ (u.port p).lanes = 15
          ∧ (u.port p).lost = ((s.port p).lost && s.joining && decide (2 ≤ s.tether.join.step))
          ∧ (s.tether.join.step ≠ 1 → t = u))
      ∧ (2 ≤ (s.port p).st → Runs (.portLockLost p) s fun t => (t.port p).st = 1 ∧ (t.port p).lanes = 0 ∧ (t.port p).lost = true
          ∧ (∀ q, q ≠ p → t.port q = s.port q)
          ∧ (s.beat.joined = true → t.beat.cond = some (s.beat.cond.getD (1, p.val)) ∧ t.beat.acc.fault = true))
      ∧ ((s.port p).st = 1 → Runs (.portTrainTimeout p) s fun t => (t.port p).late = true ∧ (t.port p).st = 1
          ∧ (∀ q, q ≠ p → t.port q = s.port q)
          ∧ (s.joining = true → t.tether.join = { s.tether.join with step := 7, code := 1 } ∧ t.rd rScLogHead = s.rd rScLogHead + 1)
          ∧ (s.joining = false → Only [.tether] s t ∧ t.tether.join = s.tether.join))
      ∧ (2 ≤ (s.port p).st → Runs (.neighbourLost p) s fun t => (t.port p).st = 5 ∧ (t.port p).lost = true
          ∧ (∀ q, q ≠ p → t.port q = s.port q)
          ∧ (s.beat.joined = true → t.beat.cond = some (s.beat.cond.getD (1, p.val)) ∧ t.beat.acc.fault = true))

/-- A cell left on a port, behind the alignment block where it is the first of its frame; the frame counter advances with the last
cell of a frame. -/
def Sys2Proof.CellSent (p : Fin 8) (c : Cell) (s t : State) : Prop :=
  let x := s.port p
  t.out = s.out ++ (if x.cells = 0 then [.align p ⟨x.frame, s.chipId, p.val, s.flightTag, Config.linkState x.st⟩ ((List.range 4).map fun n => (n, p.val))] else [])
      ++ [.cell p c]
    ∧ t.port p = (if x.cells = 543 then { x with cells := 0, frame := x.frame + 1 } else { x with cells := x.cells + 1 })
    ∧ (∀ q, q ≠ p → t.port q = s.port q) ∧ t.tether.join = s.tether.join ∧ Only [.out, .tether] s t

/-- PROBE is answered, ECHO measures the delay (10 R300), TIME aligns a device under its parent, with the fraction of
a tc as its phase and a phase reference to come, and is kept by a port not yet measured (10 R302), ADOPT, PEER and
READY are gathered; READY of another level, beat length or with a device seen before ends the join (10 R299, R303),
START sets the first beat or comes too late; the timeout ends the join (10 R310). That a TIME is kept is the model's
choice (log entry 53). -/
def Obligations.JoinCells : Prop :=
  ∀ (s : State) (p : Fin 8) (tc tc2 : BitVec 64) (hold : Word) (trip hops : Nat) (r : ReadyMsg),
    let j := s.tether.join
    let d := (s.port p).delays.foldl max 0
    let seen := r.chips.any fun c => j.bitmap.contains c
    (s.joinCells p = true →
        Runs (.probe p tc hold) s (CellSent p
            { cls := 6, src := s.chipId, dst := s.peerOf p, arg := 2, valid := 0,
              payload := leBytes 8 tc.toNat ++ leBytes 4 hold.toNat ++ List.replicate 244 0 } s)
        ∧ (j.step = 2 → (s.port p).st = 2 → (s.port p).delays.length < 63 → Runs (.echo p tc hold trip) s fun t =>
            t.port p = { s.port p with delays := (s.port p).delays ++ [trip - hold.toNat] } ∧ Only [.tether] s t)
        ∧ (2 ≤ j.step → j.step ≤ 4 → j.isRoot = false → j.sent = false →
            ((s.port p).st = 3 → j.parent = none → hops < 16 → hops < s.rounds → Runs (.time p tc hops) s fun t =>
              t.tb.tc = tc + BitVec.ofNat 64 (d / 32) ∧ t.tb.phase = (d % 32 : Nat) ∧ t.tb.phaseRef = none
                ∧ ∃ u : State, t = u.joinAlign ∧ u.tether.join = { j with parent := some p.val, depth := hops + 1 })
            ∧ ((s.port p).st = 2 → Runs (.time p tc hops) s fun t =>
              t.port p = { s.port p with time := some (tc, hops, s.tb.tc) } ∧ Only [.tether] s t))
        ∧ (s.joining = true →
            Runs (.adopt p) s (fun t => ∃ u : State, t = u.joinReport ∧ u.port p = { s.port p with heard := .child }
                ∧ Only [.tether] s u ∧ (j.step ≠ 4 → t = u))
            ∧ Runs (.peer p) s (fun t => ∃ u : State, t = u.joinReport ∧ u.port p = { s.port p with heard := .peer }
                ∧ Only [.tether] s u ∧ (j.step ≠ 4 → t = u)))
        ∧ (s.joining = true → (s.port p).heard = .child → (s.port p).ready = false →
            (seen = false → r.level = s.compatLevel → r.beatLen = (s.rd rTbBeatLen).toNat →
              Runs (.ready p r) s fun t => ∃ u : State, t = u.joinReport ∧ (u.port p).ready = true
                ∧ u.tether.join = { j with bitmap := j.bitmap ++ r.chips, count := j.count + r.count } ∧ (j.step ≠ 4 → t = u))
            ∧ (seen = true → Runs (.ready p r) s fun t => t.tether.join = { j with step := 7, code := 4 })
            ∧ (seen = false → r.level ≠ s.compatLevel → Runs (.ready p r) s fun t =>
                t.tether.join = { j with step := 7, code := 5 })
            ∧ (seen = false → r.level = s.compatLevel → r.beatLen ≠ (s.rd rTbBeatLen).toNat → Runs (.ready p r) s fun t =>
                t.tether.join = { j with step := 7, code := 8 }))
        ∧ (j.step = 4 → j.parent = some p.val →
            (s.tb.tc.toNat ≤ tc.toNat → Runs (.start p tc tc2) s fun t =>
                t.tether.join = { j with step := 5, startTc := some tc, first := BitVec.ofNat 48 tc2.toNat })
            ∧ (tc.toNat < s.tb.tc.toNat → Runs (.start p tc tc2) s fun t => t.tether.join = { j with step := 7, code := 7 })))
      ∧ (j.step = 2 → Runs .joinProbeTick s fun t => t = s.portsEn.foldl State.sendProbe s ∧ t.tether.join = j
          ∧ ∀ q ∈ s.portsEn, (s.port q).st = 2 → (s.port q).probes < 64 → (t.port q).probes = (s.port q).probes + 1)
      ∧ (s.joining = true → Runs .joinTimeout s fun t => t.tether.join = { j with step := 7, code := 1 }
          ∧ t.rd rScLogHead = s.rd rScLogHead + 1)

/-- A cell arrives on a port in a slot of a run that is played here, decodes and is of the run, whose class is `k`. -/
def Sys2Proof.CellTaken (k : Nat) (s : State) (x : CellIn) (owner : Nat) (e : DWord) : Prop :=
  s.portEn x.port = true ∧ 2 ≤ (s.port x.port).st ∧ s.playSlot x.port.val false x.slot = some (owner, e)
    ∧ cellDecodes x = true ∧ runBit e = true ∧ x.cell.cls = k ∧ runClass e = k ∧ x.cell.src = runPeer e
    ∧ (x.cell.cls ≤ 3 → x.cell.dst = s.chipId)

/-- What a cell does that arrives but is not taken: on a port that is off, nothing; in a slot without a run, off a flight, the
counters of the port; lost in a slot of a run, a failed beat. -/
def Sys2Proof.NotTaken (i : Instr) (s : State) (x : CellIn) : Prop :=
  (s.portEn x.port = false → Runs i s (· = s))
    ∧ (s.portEn x.port = true → 2 ≤ (s.port x.port).st → s.playSlot x.port.val false x.slot = none → s.beat.joined = false →
        Runs i s fun t => Only [.regs] s t
          ∧ (∀ a, a ≠ rTetherPortFecCe x.port.val → a ≠ rTetherPortFecUe x.port.val → t.rd a = s.rd a))
    ∧ (∀ o e, s.portEn x.port = true → 2 ≤ (s.port x.port).st → s.playSlot x.port.val false x.slot = some (o, e) →
        cellDecodes x = false → Runs i s fun t =>
          bit (t.rd rTetherStatus) 2 = true ∧ t.beat.acc.fail = true ∧ (∀ a, t.memGet a = s.memGet a)
            ∧ (∀ k, t.core k = s.core k))

/-- A DATA cell of a run reaches its leg as two flits (09 R261; 10 R283), a DMA cell writes its bytes to its window
and no other byte (05 R159, R160), a FLAG cell adds to its flag or is held until it is due (08 R242, R243), a BATCH
cell is gathered for its group (13 R373), an IDLE cell of another flight or neighbour is a flight-fault condition and
another changes counters only; a cell on a port that is off does nothing, and one that does not decode in a slot of a
run fails the beat (10 R278, R285). The row that brings a cell does not matter: its header does (log entry 30). -/
def Obligations.CellsArrive : Prop :=
  ∀ (s : State) (x : CellIn) (owner : Nat) (e : DWord) (g : SigHeld),
    let c := x.cell
    (CellTaken 1 s x owner e → (s.legIn (runLeg e)).length ≤ 62 → Runs (.data x) s fun t =>
        t.legIn (runLeg e) = s.legIn (runLeg e) ++
            [⟨decide (c.valid % 2 = 0), false, false, c.payload.take 128, (List.range 16).map fun n => bit c.arg n⟩,
             ⟨decide (c.valid / 2 % 2 = 0), false, false, (c.payload.drop 128).take 128,
              (List.range 16).map fun n => bit c.arg (16 + n)⟩]
          ∧ (∀ a, t.memGet a = s.memGet a) ∧ (∀ k, t.core k = s.core k))
      ∧ (CellTaken 2 s x owner e →
          let w := Sparse.get (fun _ => ((0 : Word), (0 : Word), (0 : Word))) s.tether.rwin (fld c.arg 0 6)
          let core := fld w.1 5 8
          let a := fld w.2.1 8 17 * 256 + fld c.arg 6 16 * 256
          let len := (fld c.arg 22 3 + 1) * 32
          bit w.1 0 = true → (s.part (fld w.1 1 4)).isBound = true → (bit w.1 23 = true ∨ fld w.1 13 10 = c.src) →
            fld c.arg 6 16 * 256 + len ≤ fld w.2.2 0 16 * 256 → s.unitCheck (fld w.1 1 4) core a len = none →
            c.payload.length = 256 → Runs (.dma x) s fun t =>
              (∀ i b, i < len → s.xlateG core (a + i) = some b → (∀ j, i < j → j < len → s.xlateG core (a + j) ≠ some b) →
                t.memGet b = c.payload.getD i 0)
              ∧ (∀ b, (∀ i, i < len → s.xlateG core (a + i) ≠ some b) → t.memGet b = s.memGet b)
              ∧ t.dmaRcvd c.src = s.dmaRcvd c.src + 1)
      ∧ (CellTaken 3 s x owner e →
          Runs (.flag x) s (· = (((cellSigs c).foldl (State.takeSig x.port.val) ((s.toRelease x.port.val x.slot).countFec x)).forward
            x.port x.slot e (some c)))
          ∧ (cellSigs c = [g] → g.part < 16 → g.flag < (s.part g.part).fcount → s.sigDue g = true → Runs (.flag x) s fun t =>
              t.flags.ops = s.flags.ops ++ [⟨(s.part g.part).fbase + g.flag, .add, g.n, 256, 0, 0⟩]
                ∧ t.tether.held = s.tether.held ∧ (∀ a, t.memGet a = s.memGet a))
          ∧ (cellSigs c = [g] → g.part < 16 → g.flag < (s.part g.part).fcount → s.sigDue g = false → s.tether.held.length < 64 →
              Runs (.flag x) s fun t => t.tether.held = s.tether.held ++ [g] ∧ t.flags = s.flags
                ∧ (∀ a, t.memGet a = s.memGet a)))
      ∧ (CellTaken 4 s x owner e → bit c.arg 21 = false → Runs (.batch x) s fun t =>
          let r := s.recvOf (fld c.arg 0 11)
          t.recvOf (fld c.arg 0 11) = ⟨fld c.arg 0 11, c.src,
            r.bytes.filter (fun y => decide (y.1 ≠ fld c.arg 11 10)) ++ [(fld c.arg 11 10, c.payload)], r.last⟩)
      ∧ (s.portEn x.port = true → 2 ≤ (s.port x.port).st → s.playSlot x.port.val false x.slot = none → cellDecodes x = true →
          c.cls = 0 → s.beat.joined = true →
          (fld c.arg 0 16 = s.flightTag ∧ fld c.arg 16 3 = fld (s.rd (rTetherPortCfg x.port)) 11 3 ∧ c.src = s.peerOf x.port →
            Runs (.idle x) s fun t => Only [.regs, .tb] s t)
          ∧ (fld c.arg 0 16 ≠ s.flightTag ∨ c.src ≠ s.peerOf x.port → Runs (.idle x) s fun t =>
            t.beat.cond = some (s.beat.cond.getD (2, x.port.val)) ∧ t.beat.acc.fault = true))
      ∧ NotTaken (.data x) s x ∧ NotTaken (.dma x) s x ∧ NotTaken (.flag x) s x ∧ NotTaken (.batch x) s x ∧ NotTaken (.idle x) s x

/-- The 128 bytes of a flit on a link: a void one is zero (10 R283). -/
def Sys2Proof.flitBytes (f : Flit) : List Byte := if f.void then List.replicate 128 0 else f.bytes

/-- What departs in a slot of a DATA run (09 R262; 10 R283): the next two flits of the leg, void ones where they lack, which is a miss. -/
def Sys2Proof.DataLeaves (u t : State) (p : Fin 8) (e : DWord) : Prop :=
  let q := u.legOut (runLeg e)
  let f0 := q.getD 0 voidFlit
  let f1 := q.getD 1 voidFlit
  f0.bytes.length = 128 → f1.bytes.length = 128 → ∃ (c : Cell) (w : State), CellSent p c u w ∧ w.legOut (runLeg e) = q.drop 2
    ∧ c.cls = 1 ∧ c.src = u.chipId ∧ c.dst = runPeer e ∧ c.payload = flitBytes f0 ++ flitBytes f1
    ∧ c.valid = (if f0.void then 0 else 1) + (if f1.void then 0 else 2)
    ∧ (∀ g, g < 16 → bit c.arg g = (!f0.void && f0.poison.getD g false) ∧ bit c.arg (16 + g) = (!f1.void && f1.poison.getD g false))
    ∧ (2 ≤ q.length → t = w)
    ∧ (q.length < 2 → t.out = w.out ∧ t.tether = w.tether ∧ t.beat.acc.fail = true ∧ t.rd rScEvtHead = u.rd rScEvtHead + 1)

/-- What departs in a slot of a DMA run (06 R189; 08 R243; 10 R283, R292): the oldest cell that its partition has queued for the chip,
counted; an IDLE cell where there is none. -/
def Sys2Proof.DmaLeaves (u t : State) (p : Fin 8) (o : Nat) (e : DWord) : Prop :=
  let oldest := u.tether.dmaOut.find? fun d => decide (d.part = o ∧ d.chip = runPeer e)
  (oldest = none → CellSent p (u.idleOf p) u t)
    ∧ ∀ d, oldest = some d → d.bytes.length ≤ 256 → 32 ≤ d.bytes.length → ∃ (c : Cell) (w : State), CellSent p c u w
        ∧ c.cls = 2 ∧ c.src = u.chipId ∧ c.dst = runPeer e ∧ c.valid = 0
        ∧ c.payload = d.bytes ++ List.replicate (256 - d.bytes.length) 0
        ∧ fld c.arg 0 6 = d.win % 64 ∧ fld c.arg 6 16 = d.off / 256 % 65536 ∧ fld c.arg 22 3 = d.bytes.length / 32 - 1
        ∧ bit c.arg 25 = d.poison ∧ w.tether.dmaOut = u.tether.dmaOut.erase d ∧ w.dmaSent d.chip = u.dmaSent d.chip + 1
        ∧ t = if d.last = true ∧ d.core ≠ 0xFFFF then w.finishId d.core d.id else w

/-- What departs in a slot of a FLAG run (08 R242 to R244; 10 R283, R291): up to 16 records that its partition has queued for the chip,
oldest first, each with the count of DMA cells sent there, as the receiver reads them; an IDLE cell where there is none. -/
def Sys2Proof.FlagLeaves (u t : State) (p : Fin 8) (o : Nat) (e : DWord) : Prop :=
  let rs := (u.tether.sigOut.filter fun r => decide (r.part = o ∧ r.chip = runPeer e)).take 16
  (rs = [] → CellSent p (u.idleOf p) u t)
    ∧ (rs ≠ [] → ∃ (c : Cell) (w : State), CellSent p c u w ∧ c.cls = 3 ∧ c.src = u.chipId ∧ c.dst = runPeer e ∧ c.valid = 0
        ∧ c.payload.length = 256 ∧ fld c.arg 0 5 = rs.length
        ∧ cellSigs c = rs.map (fun r => ⟨u.chipId, u.memberPart o (runPeer e) % 256, r.flag % 65536, r.n, u.dmaSent (runPeer e)⟩)
        ∧ (∀ r ∈ u.tether.sigOut, r.part ≠ o ∨ r.chip ≠ runPeer e → r ∈ w.tether.sigOut)
        ∧ w.tether.sigOut.length + rs.length = u.tether.sigOut.length
        ∧ t = rs.foldl (fun v r => (v.finishId r.core r.id).bump (rSeRsigSent r.core)) w)

/-- What departs in a slot of a BATCH run (10 R283; 13 R371, R373): the next cell of the group's table; an IDLE cell where there is none
left, and where the table is not ready, which is LATE. -/
def Sys2Proof.BatchLeaves (u t : State) (p : Fin 8) (e : DWord) (k : Nat) : Prop :=
  let i := u.batchIndex p.val (runGroup e) k
  let table := u.rt.tables.find? fun b => decide (b.group = runGroup e)
  (table = none → CellSent p (u.idleOf p) u t)
    ∧ ∀ b, table = some b → (b.cells ≤ i → CellSent p (u.idleOf p) u t)
        ∧ (i < b.cells → 2 * k < b.ready → bit (t.rd rRtStatus) 1 = true ∧ Output.cell p (u.idleOf p) ∈ t.out)
        ∧ (i < b.cells → b.ready ≤ 2 * k → i < 1024 → ∃ (c : Cell) (w : State), CellSent p c u w
            ∧ c.cls = 4 ∧ c.src = u.chipId ∧ c.dst = u.chipId ∧ c.valid = 0
            ∧ fld c.arg 0 11 = runGroup e ∧ fld c.arg 11 10 = i ∧ bit c.arg 21 = decide (i + 1 = b.cells)
            ∧ c.payload = b.cell i ++ List.replicate (256 - (b.cell i).length) 0
            ∧ t = if b.sent ≤ i then (w.putTable { b with sent := i + 1 }).batchCell (runGroup e) u.chipId i (decide (i + 1 = b.cells)) (b.cell i)
                  else w)

/-- What departs in a slot that forwards (10 R287): the cell that came in the slot's source, an IDLE cell where none came. -/
def Sys2Proof.FwdLeaves (u t : State) (p : Fin 8) (e : DWord) (k : Nat) : Prop :=
  let came := u.tether.fwd.find? fun f => decide (f.port = p.val ∧ f.slot = k ∧ f.src = runFrom e)
  (∀ f c, came = some f → f.cell = some c → c.cls = runClass e → CellSent p c u t)
    ∧ ((∀ f c, came = some f → f.cell = some c → c.cls ≠ runClass e) → CellSent p (u.idleOf p) u t)

/-- A device that is not joined, and a slot without a run or within the guard band, sends an IDLE cell, behind its
alignment block where it is the first of its frame (10 R277). A slot of a run sends from its one source a cell with
its class, source, destination, ARG, VALID and payload (10 R283, R286): DATA the next two flits of its leg, void ones
and a miss where they lack (09 R262), DMA and FLAG the oldest that the partition has queued for the chip (06 R189; 08
R242 to R244; 10 R291, R292), BATCH the next cell of the table, or LATE (13 R371, R373), a forwarding slot the cell
that came (10 R287); status slots are the rounds' (BeatEvents). That a row brings TC forward to its slot is the
model's choice (log entry 2). -/
def Obligations.SlotsDepart : Prop :=
  ∀ (s : State) (p : Fin 8) (k : Nat),
    let u := s.toTc (s.beatStart + BitVec.ofNat 64 (2 * k))
    s.live = true →
      (s.beat.joined = false → s.portEn p = true → 2 ≤ (s.port p).st → Runs (.tetherSlotDepart p k) s (CellSent p (s.idleOf p) s))
      ∧ (s.beat.joined = true → u.isStatusSlot k = false → u.beat.inGuard = true ∨ u.playSlot p.val true k = none →
          s.portEn p = true → 2 ≤ (s.port p).st → Runs (.tetherSlotDepart p k) s (CellSent p (u.idleOf p) u))
      ∧ (s.beat.joined = true → u.isStatusSlot k = true → Runs (.tetherSlotDepart p k) s (· = u))
      ∧ (∀ o e, s.beat.joined = true → u.isStatusSlot k = false → u.beat.inGuard = false →
          u.playSlot p.val true k = some (o, e) → s.portEn p = true → 2 ≤ (s.port p).st →
          Runs (.tetherSlotDepart p k) s fun t =>
            (runBit e = true → FwdLeaves u t p e k)
              ∧ (runBit e = false → runClass e = 1 → DataLeaves u t p e)
              ∧ (runBit e = false → runClass e = 2 → DmaLeaves u t p o e)
              ∧ (runBit e = false → runClass e = 3 → FlagLeaves u t p o e)
              ∧ (runBit e = false → runClass e = 4 → BatchLeaves u t p e k))

/-- START_TC opens the first beat with its counts of stretches at zero, the guard band and the status cut follow,
each round is sent twice on every joined port and gathered (10 R294 to R296), a status cell of another beat is a
flight-fault condition (10 R304), the boundary is the one operation whose effect BoundaryVerdicts states (01 R27; 11
R327 to R329). That START_TC opens a period as a boundary does, and that the cut brings the guard band where it has
not come, is the model's choice (log entry 29), TC brought forward by a row too (log entry 2). -/
def Obligations.BeatEvents : Prop :=
  ∀ (s : State) (t0 : BitVec 64) (r : Nat) (x : CellIn),
    (s.tether.join.startTc = some t0 → s.tether.join.step = 5 → Runs .startTcReached s fun t =>
        ∃ u : State, t = u.clearPeriod.openPeriod ∧ u.beat.joined = true ∧ u.beat.kind = 1 ∧ u.beat.bno = s.tether.join.first
          ∧ u.beat.startTc = t0 ∧ u.beat.period = 0 ∧ u.beat.replays = 0 ∧ u.tether.join = { s.tether.join with step := 6 }
          ∧ u.tb.stretch = Vector.replicate 16 0)
      ∧ (s.beat.joined = true → s.beat.inGuard = false → Runs .guardBandStart s fun t => t.beat.inGuard = true ∧ t.tether.sigOut = [])
      ∧ (s.beat.joined = true → s.beat.cut = false → Runs .statusCut s fun t => t = s.toCut ∧ t.beat.cut = true
          ∧ t.beat.inGuard = true)
      ∧ (s.beat.joined = true → s.beat.cut = true → s.beat.inGuard = true → 1 ≤ r → r ≤ s.rounds →
          (∀ p ∈ s.portsJoined, s.portEn p = true ∧ 2 ≤ (s.port p).st) → Runs (.statusRoundSend r) s fun t =>
            s.out.length + 2 * s.portsJoined.length ≤ t.out.length ∧ Only [.out, .tb, .tether] s t
              ∧ ((∀ p ∈ s.portsJoined, 1 ≤ (s.port p).cells ∧ (s.port p).cells ≤ 542) →
                  t.out = s.out ++ s.portsJoined.flatMap fun p =>
                    [.cell p (s.statusCell p s.view r 0), .cell p (s.statusCell p s.view r 1)]))
      ∧ (s.beat.joined = true → (s.port x.port).joined = true → s.portEn x.port = true → 2 ≤ (s.port x.port).st →
          cellDecodes x = true → x.cell.cls = 5 →
          x.cell.src = s.peerOf x.port → x.cell.dst = s.chipId →
          (fld x.cell.arg 10 12 = s.beat.bno.toNat % 4096 → Runs (.statusCell x) s fun t =>
              t.beat = { s.beat with seen := s.beat.seen.or (statusOf x.cell),
                                     cells := s.beat.cells ++ [(fld x.cell.arg 4 5, x.port.val)] } ∧ Only [.beat, .regs] s t)
          ∧ (fld x.cell.arg 10 12 ≠ s.beat.bno.toNat % 4096 → Runs (.statusCell x) s fun t =>
              t.beat.cond = some (s.beat.cond.getD (3, x.port.val)) ∧ bit (t.rd rTetherStatus) 4 = true))
      ∧ (s.beat.joined = true → Runs .beatBoundary s (· = s.boundary))

/-- Of each round of the beat that ends, a copy has come on every joined port (10 R295, R296). -/
def Sys2Proof.RoundsCame (s : State) : Prop :=
  ∀ p ∈ s.portsJoined, ∀ r, r < s.rounds → s.beat.cells.contains (r + 1, p.val) = true

/-- The boundary ends the flight with a cause and a port (10 R304). -/
def Sys2Proof.FlightEnds (s : State) (cause port : Nat) : Prop :=
  Runs .beatBoundary s fun t => t.beat.joined = false ∧ t.beat.kind = 0 ∧ t.beat.bno = s.beat.bno
    ∧ ∃ u : State, t = u.clearPeriod.openPeriod ∧ u.beat.faulted = some (cause, port)

/-- What the operations of a boundary on requests and pages move in their books (01 R34; 13 R356; 14 R388, R407). -/
def Sys2Proof.BooksMove (s : State) (g : Fin 16) (e code p : Nat) (r : RingCmd) (b : SubmitBody) (slot j old : Nat) (apps : List Append)
    (ids : List Nat) : Prop :=
  let n := g.val
  let q := s.pgOf p
  let named := (b.words.take b.npages).map fun i => fld i 0 20
  (∀ x, x ≠ e → (s.freeEnt n e code).ent x = s.ent x) ∧ (s.freeEnt n e code).ent e = Ent.reset
    ∧ (s.booksPart (s.gId n) = some p →
        let u := (s.freeEnt n e code).pgOf p
        u.list e = [] ∧ (∀ x, x ≠ e → u.list x = q.list x)
          ∧ ∀ id y, q.page id = some y → ∃ z, u.page id = some z ∧ z.refs = y.refs - (q.list e).count id)
    ∧ ((s.groupEnts n).find? (fun i => decide ((s.ent i).st = .free)) = some e →
        let t := s.takeSubmit n r b
        (∀ x, x ≠ e → t.ent x = s.ent x) ∧ ((t.ent e).st = .queued ∨ (t.ent e).st = .reeling)
          ∧ (t.ent e).length = b.prefixLen + (b.words.length - b.npages) ∧ (t.ent e).done = b.prefixLen
          ∧ (s.booksPart (s.gId n) = some p →
              (t.pgOf p).list e = named ∧ (∀ x, x ≠ e → (t.pgOf p).list x = q.list x)
                ∧ ∀ id y, q.page id = some y → ∃ z, (t.pgOf p).page id = some z ∧ z.refs = y.refs + named.count id))
    ∧ (∀ pool frames bno id q1, q.alloc pool frames bno = some (id, q1) →
        id < pool ∧ q.page id = none ∧ q1.pages.length = q.pages.length + 1 ∧ (∀ x, x ≠ id → q1.page x = q.page x)
          ∧ ∃ f, f < frames ∧ f ∉ q.held ∧ q1.page id = some (Page.fresh (some f) bno))
    ∧ (∀ id q1 y, (q.list e)[j]? = some old → q.page old = some y →
        q.alloc (s.pgPool p) (s.pgFrames p) s.beat.bno.toNat = some (id, q1) →
        let t := s.cowOne p e slot apps j
        t.2 = apps ++ [⟨slot, BitVec.ofNat 32 (2 ^ 20 + id)⟩] ∧ (t.1.pgOf p).list e = (q.list e).set j id
          ∧ (∀ x, x ≠ e → (t.1.pgOf p).list x = q.list x)
          ∧ ((t.1.pgOf p).page id).map (·.refs) = some 1 ∧ ((t.1.pgOf p).page old).map (·.refs) = some (y.refs - 1)
          ∧ ∀ x, x ≠ id → x ≠ old → (t.1.pgOf p).page x = q.page x)
    ∧ (∀ bno id y, q.page id = some y → ∃ z, (q.pin ids bno).page id = some z ∧ z.pins = y.pins + ids.count id ∧ z.refs = y.refs
        ∧ ∃ w, ((q.pin ids bno).unpin ids).page id = some w ∧ w.pins = y.pins ∧ w.refs = y.refs)

/-- At BEAT_BOUNDARY, after the cut: with no fault and every round come, a beat without FAIL commits and the number
advances, one with FAIL is replayed under the same number, the fourth failure in a row ends the flight with cause 4,
a skip beat decides nothing (01 R28, R35; 10 R297; 11 R329, R330); a fault seen, a condition or a lost round ends it
with its cause (10 R304). A replay restores the flags of the beat's opening and no memory. The books: every client's
budget balances across any boundary (13 R367), and releasing, taking a submission, allocating a page, copying on
write and pinning move the lists, references and pins of 01 R34, 13 R356 and 14 R388, R407. -/
def Obligations.BoundaryVerdicts : Prop :=
  (∀ s : State, s.beat.joined = true → s.beat.inGuard = true → s.beat.cut = true →
      let b := s.beat
      let v := s.view
      let kind (again : Bool) : Nat := if v.skip then 3 else if again then 2 else 1
      (b.cond = none → RoundsCame s → v.fault = false →
          (b.kind ≠ 3 → v.fail = false → Runs .beatBoundary s fun t => t.beat.joined = true ∧ t.beat.bno = b.bno + 1
              ∧ t.beat.lastCommit = b.bno ∧ t.beat.replays = 0 ∧ t.beat.kind = kind false ∧ t.beat.period = b.period + 1)
          ∧ (b.kind ≠ 3 → v.fail = true → b.replays ≠ 3 → Runs .beatBoundary s fun t => t.beat.joined = true ∧ t.beat.bno = b.bno
              ∧ t.beat.lastCommit = b.lastCommit ∧ t.beat.replays = b.replays + 1 ∧ t.beat.kind = kind true
              ∧ t.beat.period = b.period + 1)
          ∧ (b.kind ≠ 3 → v.fail = true → b.replays = 3 → FlightEnds s 4 0)
          ∧ (b.kind = 3 → Runs .beatBoundary s fun t => t.beat.joined = true ∧ t.beat.bno = b.bno
              ∧ t.beat.lastCommit = b.lastCommit ∧ t.beat.replays = b.replays ∧ t.beat.kind = kind b.replayNext
              ∧ t.beat.period = b.period + 1))
        ∧ (b.cond = none → RoundsCame s → v.fault = true → FlightEnds s 5 0)
        ∧ (∀ c p, b.cond = some (c, p) → FlightEnds s c (if c ≤ 2 then p else 0))
        ∧ (b.cond = none → ¬RoundsCame s → FlightEnds s 3 0))
    ∧ (∀ s : State, s.Budgets → Runs .beatBoundary s fun t => t.Budgets)
    ∧ (∀ (s : State) (gs : List Nat), (∀ a, (s.replayBeat gs).memGet a = s.memGet a)
        ∧ (Sparse.wf (fun _ => (0 : Word)) s.flags.opening = true →
            ∀ f, (s.replayBeat gs).flagVal f = Sparse.get (fun _ => 0) s.flags.opening f))
    ∧ ∀ s g e code p r b slot j old apps ids, BooksMove s g e code p r b slot j old apps ids

/-! ### The on-die network, the lattice, the banks (05; 09) -/

/-- A router with nothing to inject, its inputs and its output queues as named (09 R268). -/
def Sys2Proof.RouterAt (s : State) (px py : Fin 16) (ins : Vector (Option Packet) 4) (outs : Vector (List Packet) 4) : Prop :=
  (s.router px.val py.val).ins = ins ∧ (s.router px.val py.val).outs = outs
    ∧ ∀ k ∈ s.portsAt px.val py.val, s.mayInject k = false

/-- A packet one hop on. -/
def Sys2Proof.hopped (p : Packet) : Packet := { p with hops := min 255 (p.hops + 1) }

/-- How a router places packets (09 R268): what is at home is ejected, oldest first; a packet on its way takes the output that
shortens its path, east or west before north or south where their queues are as long, and goes on to the neighbour; the older of two
takes the last entry of an output, and one that finds no productive entry is deflected. -/
def Sys2Proof.RouterPlaces (s : State) (px py : Fin 16) (i j : Fin 4) (p q a b : Packet) : Prop :=
  let none4 : Vector (Option Packet) 4 := Vector.replicate 4 none
  let nil4 : Vector (List Packet) 4 := Vector.replicate 4 []
  let run := Runs (.driftRouterCycle px py none) s
  let here (t : State) : Router := t.router px.val py.val
  (RouterAt s px py none4 nil4 → run (· = s))
    ∧ (RouterAt s px py (none4.set i (some p)) nil4 → s.driftHome p.dst = (px.val, py.val) → run fun t => Only [.drift] s t
        ∧ Sparse.get (fun _ => []) t.drift.arrived p.dst = Sparse.get (fun _ => []) s.drift.arrived p.dst ++ [p]
        ∧ (here t).ins = none4)
    ∧ (i ≠ j → RouterAt s px py ((none4.set i (some p)).set j (some q)) nil4 → p.before s.driftNow q = true → p.dst = q.dst →
        s.driftHome p.dst = (px.val, py.val) → run fun t => (here t).ins = none4
          ∧ Sparse.get (fun _ => []) t.drift.arrived p.dst = Sparse.get (fun _ => []) s.drift.arrived p.dst ++ [p, q])
    ∧ (RouterAt s px py (none4.set i (some p)) nil4 →
        let d := s.driftHome p.dst
        (px.val < d.1 → d.1 < 16 → (s.router (px.val + 1) py.val).ins[3] = none → run fun t => (here t).ins = none4
          ∧ (here t).outs = nil4 ∧ (t.router (px.val + 1) py.val).ins[3] = some (hopped p) ∧ Only [.drift] s t)
        ∧ (d.1 < px.val → (s.router (px.val - 1) py.val).ins[1] = none → run fun t => (here t).ins = none4
          ∧ (here t).outs = nil4 ∧ (t.router (px.val - 1) py.val).ins[1] = some (hopped p) ∧ Only [.drift] s t)
        ∧ (d.1 = px.val → d.2 < py.val → (s.router px.val (py.val - 1)).ins[2] = none → run fun t => (here t).ins = none4
          ∧ (here t).outs = nil4 ∧ (t.router px.val (py.val - 1)).ins[2] = some (hopped p) ∧ Only [.drift] s t)
        ∧ (d.1 = px.val → py.val < d.2 → d.2 < 16 → (s.router px.val (py.val + 1)).ins[0] = none → run fun t => (here t).ins = none4
          ∧ (here t).outs = nil4 ∧ (t.router px.val (py.val + 1)).ins[0] = some (hopped p) ∧ Only [.drift] s t))
    ∧ (RouterAt s px py (none4.set i (some p)) (nil4.set 0 [a, b]) → (s.driftHome p.dst).1 = px.val →
        (s.driftHome p.dst).2 < py.val → px.val < 15 → (s.router (px.val + 1) py.val).ins[3] = none → run fun t =>
          (here t).ins = none4 ∧ (t.router (px.val + 1) py.val).ins[3] = some (hopped p))
    ∧ (i ≠ j → RouterAt s px py ((none4.set i (some p)).set j (some q)) (nil4.set 0 [a]) → p.before s.driftNow q = true →
        (s.driftHome p.dst).1 = px.val → (s.driftHome p.dst).2 < py.val → (s.driftHome q.dst).1 = px.val →
        (s.driftHome q.dst).2 < py.val → px.val < 15 → (s.router px.val (py.val - 1)).ins[2] = none →
        (s.router (px.val + 1) py.val).ins[3] = none → run fun t => (here t).ins = none4 ∧ (here t).outs = nil4.set 0 [hopped p]
          ∧ (t.router px.val (py.val - 1)).ins[2] = some a ∧ (t.router (px.val + 1) py.val).ins[3] = some (hopped q))

/-- A packet at its endpoint leaves in order of arrival: an acknowledgement is counted and frees a place of the port
that waits for it (09 R269), a message reaches the mailbox, a poisoned one is noted (09 R266, R267, R273), an
endpoint that takes its packets in order holds one that is early and takes it when the missing one comes (09 R270). A
router ejects packets at home, oldest first, sends one on its way by an output that shortens its path, to the
neighbour with one hop more, gives the last free entry to the older of two, and deflects the one that finds no
productive entry (09 R268). What the order of R268 leaves open is the model's choice (log entry 25). -/
def Obligations.DriftDelivers : Prop :=
  ∀ (s : State) (ep : Nat) (p : Packet) (r : List Packet) (px py : Fin 16) (up : Option DriftUpset) (i j : Fin 4) (q a b : Packet),
    (Sparse.get (fun _ => []) s.drift.arrived ep = p :: r →
        let key := p.src * 65536 + p.dst
        let n := Sparse.get (fun _ => (0 : Word)) s.drift.counts key
        let want := Sparse.get (fun _ => (0 : BitVec 16)) s.drift.expect key
        (p.kind = 0xFF ∨ p.kind = 0xFE → takesInOrder ep = false → Runs (.driftPacketEject ep) s fun t =>
            Sparse.get (fun _ => []) t.drift.arrived ep = r
              ∧ Sparse.get (fun _ => (0 : Word)) t.drift.counts key = n + 1
              ∧ (∀ k, (portsOf p.dst).find? (fun k => decide (0 < s.outstAt k)) = some k →
                  t.outstAt k = s.outstAt k - 1 ∧ ∀ j, j ≠ k → t.outstAt j = s.outstAt j)
              ∧ ((∀ k ∈ portsOf p.dst, s.outstAt k = 0) → ∀ j, t.outstAt j = s.outstAt j)
              ∧ (∀ e, t.mailAt e = s.mailAt e) ∧ Only [.drift, .regs] s t)
        ∧ (p.kind ≠ 0xFF → p.kind ≠ 0xFE → hasMailbox ep = true → Runs (.driftPacketEject ep) s fun t =>
            t.mailAt ep = s.mailAt ep ++ [p] ∧ (∀ e, e ≠ ep → t.mailAt e = s.mailAt e)
              ∧ Sparse.get (fun _ => []) t.drift.arrived ep = r ∧ Only [.drift] s t)
        ∧ (takesInOrder ep = true → Sparse.get (fun _ => []) s.drift.early key = [] →
            Runs (.driftPacketEject ep) s fun t =>
              (p.seq ≠ want → Sparse.get (fun _ => []) t.drift.early key = [p]
                ∧ Sparse.get (fun _ => (0 : BitVec 16)) t.drift.expect key = want)
              ∧ (p.seq = want → Sparse.get (fun _ => []) t.drift.early key = []
                ∧ Sparse.get (fun _ => (0 : BitVec 16)) t.drift.expect key = want + 1))
        ∧ (takesInOrder ep = true → Sparse.get (fun _ => []) s.drift.early key = [q] → q.seq = want + 1 → p.seq = want →
            Runs (.driftPacketEject ep) s fun t => Sparse.get (fun _ => []) t.drift.early key = []
              ∧ Sparse.get (fun _ => (0 : BitVec 16)) t.drift.expect key = want + 2)
        ∧ (ep < 0x100 → p.poison = true → Runs (.driftPacketEject ep) s fun t =>
            bit (t.rd (rDriftStatus ep)) 6 = true))
      ∧ (Runs (.driftRouterCycle px py up) s fun t => Only [.drift, .regs, .beat, .sc] s t)
      ∧ RouterPlaces s px py i j p q a b

/-- The DG takes a digest of the current period or marks the period of a poisoned one bad (12 R350, R351), an SU
takes a job of the period while it has room (13 R375), the RT stores or drops a draft set (13 R378), the PG notes a
selection (14 R409), each of the world that may send it (09 R267). The period of a poisoned post (log entry 18), an
SU's answer to a poisoned job and its room for nine (log entry 47), and a poisoned draft set counted as dropped (log
entry 40) are the model's choices. -/
def Obligations.UnitsTakePackets : Prop :=
  ∀ (s u : State) (p : Packet) (n : Fin 4) (a k : Nat),
    (s.takeMail 0x109 = some (p, u) → bit (s.rd rDgCtl) 0 = true → p.kind = 1 →
        (p.poison = true → Runs .digestPost s fun t => u.injPeriod p ∈ t.dg.bad ∧ bit (t.rd rDgStatus) 3 = true
            ∧ t.dg.table = s.dg.table)
        ∧ (p.poison = false → leAt p.payload 14 2 = s.beat.period.toNat % 65536 →
            Runs .digestPost s (· = u.dgPost s.beat.period.toNat (s.part p.part).group (leAt p.payload 16 2) (leAt p.payload 18 2)
              (BitVec.ofNat 64 (leAt p.payload 0 8)))
            ∧ (s.dg.table = [] → Runs .digestPost s fun t => t.dg.table = [⟨s.beat.period.toNat, (s.part p.part).group,
                leAt p.payload 16 2, leAt p.payload 18 2, BitVec.ofNat 64 (leAt p.payload 0 8), 1⟩])))
      ∧ (s.suExists n.val = true → (s.suOf n.val).jobs.length < 9 → s.takeMail (0x104 + n.val) = some (p, u) →
          s.workPeriod = true → s.injPeriod p = s.beat.period.toNat →
          (p.poison = false → u.suTakes n.val p = true → Runs (.suJob n) s fun t =>
              (t.suOf n.val).jobs = (s.suOf n.val).jobs ++ [suJobOf p] ∧ (∀ m, m ≠ n → t.suOf m.val = s.suOf m.val))
          ∧ (p.poison = false → u.suTakes n.val p = false → Runs (.suJob n) s fun t =>
              t.su = s.su ∧ bit (t.rd (rSuStatus n.val)) 9 = true)
          ∧ (p.poison = true → Runs (.suJob n) s fun t => t.su = s.su ∧ bit (t.rd (rSuStatus n.val)) 8 = true))
      ∧ (s.takeMail 0x100 = some (p, u) → p.kind = 0x10 →
          let e := leAt p.payload 0 2
          let count := leAt p.payload 2 1
          let first := leAt p.payload 3 1
          let st := (u.ent e).st
          (p.poison = true ∨ count = 0 ∨ 5 < count ∨ 16 < first + count ∨ u.wrongWorld p.secure (u.ent e).client = true →
              Runs .draftPacket s fun t => t.rt = s.rt ∧ bit (t.rd rRtStatus) 4 = true
                ∧ t.rd rRtDraftDrops = satInc (s.rd rRtDraftDrops))
          ∧ (p.poison = false → u.wrongWorld p.secure (u.ent e).client = false → (u.slotOfEnt e).isSome = true →
              st ≠ .free → st ≠ .done → st ≠ .failed → 1 ≤ count →
              count ≤ 5 → first + count ≤ 16 →
              let steps := (List.range count).map fun i => (first + i,
                DraftStep.mk (BitVec.ofNat 32 (leAt p.payload (8 + 8 * i) 4)) (BitVec.ofNat 32 (leAt p.payload (12 + 8 * i) 4)))
              Runs .draftPacket s (· = u.storeDraft e (leAt p.payload 4 4) steps u.tb.tc false)
              ∧ (s.draftOf e = none → s.rt.drafts.length < 4096 → Runs .draftPacket s fun t =>
                  t.rt = { s.rt with drafts := s.rt.drafts ++ [⟨e, leAt p.payload 4 4, steps, s.tb.tc⟩] })))
      ∧ (s.takeMail 0x101 = some (p, u) →
          (p.poison = true → Runs .pgSelection s fun t => bit (t.rd rPgStatus) 1 = true ∧ t.pg = s.pg)
          ∧ (p.poison = false → p.kind = 0x20 → u.wrongWorld p.secure (u.ent (leAt p.payload 0 2)).client = false →
              leAt p.payload 2 1 ≤ 10 → u.anchorPart (u.part p.part).group = some a →
              u.slotOfEnt (leAt p.payload 0 2) = some k → u.gId k = (u.part p.part).group → Runs .pgSelection s fun t =>
                t.pgOf a = { s.pgOf a with posts := (s.pgOf a).posts ++ [(leAt p.payload 0 2, decide (leAt p.payload 3 1 % 2 = 1),
                    (List.range (leAt p.payload 2 1)).map fun i => leAt p.payload (4 + 4 * i) 4)] }
                  ∧ (∀ q, q ≠ a → t.pgOf q = s.pgOf q)))

/-- A flit that passes a switch whose entry in effect is `e`, from the source of a code (06 R193; 09 R254, R259, R261, R263): it goes
to every output that selects the source, to a neighbour of the same level and into a leg that has room; it is deposited at the next
position of the oldest armed buffer of the receive stream, or refused; and where no output selects it, it is lost and counted. -/
def Sys2Proof.Forwarded (u t : State) (c code : Nat) (f : Flit) (e : DWord) : Prop :=
  let mine := (u.core c).lp.arms.find? fun a => decide (a.strm.val = latRecv e)
  let sent (o : Nat) (l : Link) : Prop := o < 4 ∧ latSrc e o = code ∧ u.linkOf c o = l
  (∀ o d i, sent o (.core d i) → f.gone = true ∨ u.level (u.regionOf c) = u.level (u.regionOf d) →
      (t.core d).lat.input i = (u.core d).lat.input i ++ [f])
    ∧ (∀ o n, sent o (.leg n) → f.gone = false → (u.legOut n).length < 64 → t.legOut n = u.legOut n ++ [{ f with late := false }])
    ∧ (latSrc e 4 = code → mine = none → f.gone = false → bit (t.rd (rLpStatus c)) 2 = true ∧ t.beat.acc.fail = true
        ∧ (bit (u.rd (rLpRefuse c)) 6 = false → t.rd (rLpRefuse c) = BitVec.ofNat 32 (latRecv e + 64))
        ∧ (∀ m, t.memGet m = u.memGet m))
    ∧ (∀ a, latSrc e 4 = code → mine = some a →
        (f.void = false → f.gone = false → f.bytes.length = 128 → u.checkRange c (a.dst + a.got) 128 = none →
            ∀ i, i < 128 → t.readByte c (a.dst + a.got + i) = f.bytes.getD i 0)
        ∧ (f.void = true ∨ f.gone = true → ∀ m, t.memGet m = u.memGet m)
        ∧ (a.got + 128 < a.bytes → t.flags.ops = u.flags.ops ∧ (t.core c).lp.arms = (u.core c).lp.arms.map fun x =>
            if x.id = a.id then { a with got := a.got + 128, written := a.written || !(f.void || f.gone) } else x)
        ∧ (a.bytes ≤ a.got + 128 → (t.core c).lp.arms = (u.core c).lp.arms.filter (fun x => decide (x.id ≠ a.id))
            ∧ t.flags.ops = u.flags.ops ++ (match a.add with
              | some p => [⟨(u.corePart c).fbase + p.1.toNat, .add, p.2, c, 3, a.id⟩]
              | none => [])))
    ∧ ((∀ o, o < 5 → latSrc e o ≠ code) → (∀ m, t.memGet m = u.memGet m)
        ∧ t.rd (rLatDiscards c) = if f.void || f.gone then u.rd (rLatDiscards c) else satInc (u.rd (rLatDiscards c)))

/-- A switch goes to its next entry; an arriving flit, from a link or a leg, is checked and goes to every output that
selects its source, to the neighbour's input or into the leg, is deposited at the next position of the oldest armed
buffer of its stream, whose last flit completes it and posts its flag add, or is refused with LANDING_REFUSED where
none is armed, and is discarded and counted where no output selects it; a departure carries the next 128 bytes of the
oldest send of its stream or a void flit with a recorded miss (06 R192, R193; 09 R253 to R263). -/
def Obligations.LatticeMoves : Prop :=
  ∀ (s : State) (c : Nat) (d : Dir) (up : List Upset) (leg : Fin 32) (f : Flit) (r : List Flit) (e : DWord) (x : Send),
    (s.inWork = true → (s.core c).lat.play = true → Runs (.switchEntryAdvance c) s fun t =>
        t.core c = { s.core c with lat := (s.core c).lat.at ((s.core c).lat.idx + 1) } ∧ (∀ k, k ≠ c → t.core k = s.core k)
          ∧ Only [.cores] s t)
      ∧ ((s.core c).lat.input d = f :: r →
          let v := (s.updCore c fun k => { k with lat := k.lat.setInput d r }).checkFlit c f up
          Runs (.latticeArrival c d up) s (fun t => t = v.1.pass c (dirCode d) v.2 none
            ∧ (s.latEntry c = some e → Forwarded v.1 t c (dirCode d) v.2 e))
          ∧ (up = [] → v.1 = s.updCore c (fun k => { k with lat := k.lat.setInput d r })
              ∧ v.2 = { f with poison := (List.range 16).map fun g => f.poison.getD g false })
          ∧ (s.latEntry c = none → up = [] → Runs (.latticeArrival c d up) s fun t => (t.core c).lat.input d = r
              ∧ t.rd (rLatDiscards c) = (if f.void || f.gone then s.rd (rLatDiscards c) else satInc (s.rd (rLatDiscards c)))
              ∧ (∀ k, k ≠ c → t.core k = s.core k) ∧ Only [.cores, .regs] s t))
      ∧ (s.latEntry c = some e → latDeparts e = true →
          (s.core c).lp.sends.find? (fun y => decide (y.strm.val = latSend e)) = none →
          Runs (.latticeDeparture c) s fun t => t = (s.lpMiss c none).pass c 5 voidFlit none
            ∧ Forwarded (s.lpMiss c none) t c 5 voidFlit e)
      ∧ (s.latEntry c = some e → latDeparts e = true →
          (s.core c).lp.sends.find? (fun y => decide (y.strm.val = latSend e)) = some x → x.sent + 128 < x.bytes →
          (∀ g, g < 16 → s.bytePoisoned c (x.src + x.sent + 8 * g) = false) →
          let out : Flit := ⟨false, false, false, s.readBytes c (x.src + x.sent) 128, List.replicate 16 false⟩
          Runs (.latticeDeparture c) s fun t => ∃ u : State, t = u.pass c 5 out ((s.core c).pcOf x.id)
              ∧ (u.core c).lp.sends = (s.core c).lp.sends.map (fun y => if y.id = x.id then { y with sent := y.sent + 128 } else y)
              ∧ (∀ k, k ≠ c → u.core k = s.core k) ∧ (∀ g, u.memGet g = s.memGet g) ∧ Forwarded u t c 5 out e)
      ∧ (let core := if leg.val < 16 then leg.val else (s.rows - 1) * 16 + (leg.val - 16)
         let code := if leg.val < 16 then 1 else 3
         let v := (s.setLegIn leg.val r).checkFlit core f up
         s.latEntry core = some e → (List.range 5).any (fun o => decide (latSrc e o = code)) = true →
          (s.legIn leg.val = f :: r → Runs (.legArrival ⟨leg, up⟩) s fun t => t = v.1.pass core code v.2 none
              ∧ t.legIn leg.val = r ∧ (∀ n, n ≠ leg.val → t.legIn n = s.legIn n) ∧ Forwarded v.1 t core code v.2 e)
          ∧ (s.legIn leg.val = [] → Runs (.legArrival ⟨leg, up⟩) s fun t => t = (s.lpMiss core none).pass core code voidFlit none
              ∧ Forwarded (s.lpMiss core none) t core code voidFlit e))

/-- A correction is written back and a poisoned granule marked when they come first in the order of the port,
scrubbing presents a read of the next row, and the port grants a scheduled request that comes to an idle bank: a read
delivers the bytes enabled and marks the poisoned granules, a write changes the bits enabled and no other (05 R145 to
R153, R163, R165); no byte of memory changes by the others. -/
def Obligations.BankPorts : Prop :=
  ∀ (s : State) (c g a : Nat) (b : Fin 48) (q : BankReq),
    s.bankRuns c = true →
      (s.choose c b.val = some (.corr g) →
        Runs (.correctionWriteback c b) s fun t => (t.bank c b.val).corr = none
          ∧ (s.granule g = .single → t.granule g = .clean) ∧ (∀ a, t.memGet a = s.memGet a) ∧ Only [.banks, .ecc, .regs] s t)
      ∧ (s.choose c b.val = some (.poison g) →
        Runs (.poisonWriteback c b) s fun t => t.granule g = .poison ∧ g ∉ t.poisonPending ∧ (∀ a, t.memGet a = s.memGet a)
          ∧ Only [.ecc, .poisonPending, .banks, .regs] s t)
      ∧ (bit (s.rd (rSlcScrub c)) 0 = true → ((s.bank c b.val).waiting.any fun q => decide (q.1.user = .scrub)) = false →
        Runs (.scrubRead c b []) s fun t => (t.bank c b.val).waiting = (s.bank c b.val).waiting
            ++ [(⟨.scrub, false, false, rowAddr b.val (s.bank c b.val).row, true, List.replicate 32 true, [], HostFrom.none⟩, 0)]
          ∧ Only [.banks] s t)
      ∧ (s.choose c b.val = none → Runs (.bankGrant c b [] []) s fun t => Only [.banks, .regs] s t)
      ∧ (reqOk q = true → s.portAddr c q = .ok a → bankOf a = b.val → BankUser.cls q.user = 1 → (s.bank c b.val).waiting = [] →
          let n := reqBytes q
          let lo := gaddr c a
          (q.wr = false → (∀ i, i < n → s.granulePoisoned ((lo + i) / 8) = false) → Runs (.bankGrant c b [q] []) s fun t =>
            t.out = s.out ++ [.mem ((List.range n).map fun i => if q.en.getD (i / 8) false then s.memGet (lo + i) else 0)
                (List.replicate (n / 8) false)]
              ∧ (∀ x, t.memGet x = s.memGet x) ∧ (∀ k, t.core k = s.core k))
          ∧ (q.wr = true → Runs (.bankGrant c b [q] []) s fun t =>
            (∀ i, i < n → t.memGet (lo + i) = if q.en.getD (i / 8) false then
                nibbled (s.memGet (lo + i)) (q.data.getD i (0, 0)).1 (q.data.getD i (0, 0)).2 else s.memGet (lo + i))
              ∧ (∀ x, x < lo ∨ lo + n ≤ x → t.memGet x = s.memGet x) ∧ (∀ k, t.core k = s.core k)))

/-- A fetch adds one narrow word to the buffer of 16 (06 R172); a poisoned one stops the SQ and fails the beat (05
R151; 06 R196). -/
def Obligations.SqFetches : Prop :=
  ∀ (s : State) (c : Nat),
    let q := (s.core c).sq
    let a := (q.entry + (q.pc + q.avail) * 8) % 2 ^ 32
    s.coreRuns c = true → q.run = true → q.ended = false → q.poison = false → q.avail < 16 →
      (s.bytePoisoned c a = false → s.checkRange c a 8 = none → Runs (.sqFetch c) s fun t =>
        (t.core c).sq = { q with avail := q.avail + 1 } ∧ (∀ k, k ≠ c → t.core k = s.core k) ∧ (∀ g, t.memGet g = s.memGet g))
      ∧ (s.bytePoisoned c a = true → Runs (.sqFetch c) s fun t => (t.core c).sq = { q with poison := true }
        ∧ bit (t.rd (rSqStatus c)) 7 = true ∧ t.beat.acc.fail = true ∧ (∀ g, t.memGet g = s.memGet g))

/-- The candidates of position o of the i-th slot of a job are read from here on: a core and a program address (13 R375). -/
def Sys2Proof.candAt (j : SuJob) (i o : Nat) : Nat × Nat :=
  let a := j.cand + 17 * i * (j.shards * j.k) * 8
  (a / 0x2000000, a % 0x2000000 + o * (j.shards * j.k) * 8)

/-- A candidate in memory: its token and its logit. -/
def Sys2Proof.candidate (s : State) (c a : Nat) : Word × Word := (BitVec.ofNat 32 (s.readLe c a 4), BitVec.ofNat 32 (s.readLe c (a + 4) 4))

/-- The answer of a sampling unit for the i-th slot of a job, from the candidates in memory: the drafts accepted, the tokens (13 R376,
R379). -/
def Sys2Proof.SlotAnswer (s : State) (t : BTable) (j : SuJob) (i : Nat) (b : BSlot) : SlotResult :=
  let e := s.ent b.ent
  let per := j.shards * j.k
  let cands (o : Nat) : List (Word × Word) :=
    ((List.range per).map fun m => candidate s (candAt j i o).1 ((candAt j i o).2 + 8 * m)).filter fun c => decide (c.1 ≠ 0xFFFFFFFF)
  match allSome ((List.range (b.d + 1)).map fun o => e.dist (keepOnce (cands o) []).1) with
  | none => ⟨t.group, t.bno, j.first + i, 0, none⟩
  | some ds =>
    let v := verifyFrom e.length e.seed e.key 0 ds b.drafts
    ⟨t.group, t.bno, j.first + i, v.2, some v.1⟩

/-- The i-th slot of a job can be answered: it asks for a result and has none, its candidates can be read and none is poisoned. -/
def Sys2Proof.SlotReady (s : State) (t : BTable) (j : SuJob) (i : Nat) (b : BSlot) : Prop :=
  let len := (b.d + 1) * (j.shards * j.k) * 8
  t.slots[j.first + i]? = some b ∧ b.emit = true ∧ (∀ r ∈ s.rt.results, r.group = t.group → r.slot ≠ j.first + i)
    ∧ s.unitCheck j.part (candAt j i 0).1 (candAt j i 0).2 len = none
    ∧ ∀ x, x < len → s.bytePoisoned (candAt j i 0).1 ((candAt j i 0).2 + x) = false

/-- The oldest job of a sampling unit answers each slot with the tokens its candidates and drafts give, the greedy
choice being the larger logit, the smaller token of two equal ones (13 R375 to R379), late in the guard band being
recorded; a partition's view of the table is written once: its bytes at VIEW_ADDR, beat number and slot count in its
header, and its flag set to the beat number (14 R392, R393), and one longer than VIEW_BYTES fails the beat and writes
nothing (14 R395). -/
def Obligations.UnitsAnswer : Prop :=
  ∀ (s : State) (n : Fin 4) (j : SuJob) (r : List SuJob) (part : Fin 16) (g : Nat) (t : BTable) (slots : Nat → BSlot) (b : BSlot),
    ((s.suOf n.val).jobs = j :: r → s.workPeriod = true → s.suWaits j = false → Runs (.suResult n) s fun u =>
        (u.suOf n.val).jobs = r ∧ (∀ m, m ≠ n → u.suOf m.val = s.suOf m.val) ∧ (∀ a, u.memGet a = s.memGet a)
        ∧ (s.beat.inGuard = true → bit (u.rd (rSuStatus n.val)) 5 = true)
        ∧ (s.groupSlot (s.part j.part).group = none → u.rt = s.rt ∧ bit (u.rd (rSuStatus n.val)) 9 = true)
        ∧ (s.groupSlot (s.part j.part).group = some g → s.rt.tables.find? (fun t => decide (t.n = g)) = some t →
            (∀ i, i < j.count → SlotReady s t j i (slots i)) →
            u.rt.results = s.rt.results ++ (List.range j.count).map fun i => SlotAnswer s t j i (slots i)))
      ∧ (b.d = 0 → b.drafts = [] → j.shards = 1 →
          let c0 := candidate s (candAt j g 0).1 (candAt j g 0).2
          let c1 := candidate s (candAt j g 0).1 ((candAt j g 0).2 + 8)
          let win := if f32lt c0.2 c1.2 = true ∨ (f32eq c0.2 c1.2 = true ∧ c1.1.toNat < c0.1.toNat) then c1 else c0
          (j.k = 1 → c0.1 ≠ 0xFFFFFFFF → f32isNan c0.2 = false → c0.2 ≠ f32ninf →
              SlotAnswer s t j g b = ⟨t.group, t.bno, j.first + g, 0, some [c0.1]⟩)
          ∧ (j.k = 2 → (s.ent b.ent).temp = 0 → c0.1 ≠ 0xFFFFFFFF → c1.1 ≠ 0xFFFFFFFF → c0.1 ≠ c1.1 → f32isNan c0.2 = false →
              f32isNan c1.2 = false → win.2 ≠ f32ninf →
              SlotAnswer s t j g b = ⟨t.group, t.bno, j.first + g, 0, some [win.1]⟩))
      ∧ (s.workPeriod = true → s.pgOn part.val = true → (s.recvOf (s.part part.val).group).last = true →
          (s.pgOf part.val).table = some s.beat.bno → (s.pgOf part.val).view ≠ some s.beat.bno →
          s.stopped (s.viewCore8 part.val) = false →
          let w := wireOf (s.recvOf (s.part part.val).group).all
          let bs := s.viewBytes part.val w
          let c := s.viewCore8 part.val
          let a := fld (s.rd (rPgPartViewAddr part.val)) 0 17 * 256
          Runs (.pgViewWrite part) s fun t => (t.pgOf part.val).view = some s.beat.bno
            ∧ (∀ q, q ≠ part.val → t.pgOf q = s.pgOf q)
            ∧ (fld (s.rd (rPgPartViewBytes part.val)) 0 17 * 256 < bs.length →
                bit (t.rd rPgStatus) 4 = true ∧ t.beat.acc.fail = true ∧ (∀ g, t.memGet g = s.memGet g))
            ∧ (bs.length ≤ fld (s.rd (rPgPartViewBytes part.val)) 0 17 * 256 → s.beat.inGuard = false →
                (∀ i, i < ceilDiv bs.length 256 → s.unitCheck part.val c (a + 256 * i) (min 256 (bs.length - 256 * i)) = none) →
                (∀ i, i < bs.length → t.readByte c (a + i) = bs.getD i 0)
                  ∧ t.readLe c a 6 = w.bno.toNat ∧ t.readLe c (a + 6) 2 = w.slots.length
                  ∧ t.readLe c (a + 8) 4 = 64 + 32 * w.slots.length
                  ∧ (∀ m, (∀ i, i < bs.length → s.xlateG c (a + i) ≠ some m) → t.memGet m = s.memGet m)
                  ∧ t.flags.ops = s.flags.ops ++ [⟨(s.part part.val).fbase + fld (s.rd (rPgPartView part.val)) 8 13, .set,
                      BitVec.ofNat 32 s.beat.bno.toNat, 258, 0, 0⟩]))

/-- Rate increases and cuts (15 R427), acknowledgements whole or in part, read responses and timeouts of a queue pair
(15 R425, R426), a packet the engine does not take, and the end of a reel order (14 R412). A response out of order is
answered as log entry 50 says. -/
def Obligations.QueuePairs : Prop :=
  ∀ (s s1 : State) (p : RocePkt) (qp : Fin 1024) (r : RoceReq) (rs before : List RoceReq) (part : Fin 16) (o : Order),
    (Runs (.roceRateIncrease qp) s fun t => s.qpRate qp.val ≤ 1000 →
        t.qpRate qp.val = min (s.qpRate qp.val + 50) 1000 ∧ (∀ a, a ≠ rIoQpRate qp.val → t.rd a = s.rd a) ∧ Only [.regs] s t)
      ∧ (s.live = true → bit (s.rd (rIoEpCfg p.ep)) 1 = true → Runs (.roceUnsupportedPacket p) s fun t =>
          t.rd (rIoEpRx p.ep) = satInc (s.rd (rIoEpRx p.ep)) ∧ Only [.regs] s t
            ∧ t.rd rIoBad = (if s.tagOk p.ep p.vlan then satInc (s.rd rIoBad) else s.rd rIoBad))
      ∧ (s.roceIn p = (s1, true) → s1.since (s1.qp p.qp).cutTc 20000 = true → Runs (.cnp p) s fun t =>
          t.qpRate p.qp = max (s1.qpRate p.qp / 2) 10 % 1024 ∧ t.qp p.qp = { s1.qp p.qp with cutTc := some s1.tb.tc }
            ∧ (∀ k, k ≠ p.qp → t.qp k = s1.qp k) ∧ Only [.qps, .regs] s1 t)
      ∧ (s.roceIn p = (s1, true) →
          Runs (.roceAcknowledge p .ack) s (fun t => t = s1.ackReqs p.qp p.psn
            ∧ let rest := (s1.qp p.qp).reqs.dropWhile
                (fun r => decide (r.op ≠ .readReq) && decide (psnFrom (r.psn + r.span - 1) p.psn < 2 ^ 23))
              (rest = [] → (t.qp p.qp).reqs = [])
              ∧ ∀ r rs, rest = r :: rs →
                let n := psnFrom r.psn p.psn + 1
                (r.op ≠ .readReq ∧ n < r.span ∧ r.off < 4096 * n →
                    (t.qp p.qp).reqs = { r with off := 4096 * n } :: rs ∧ (t.qp p.qp).tries = 0)
                ∧ (¬(r.op ≠ .readReq ∧ n < r.span ∧ r.off < 4096 * n) → (t.qp p.qp).reqs = r :: rs))
          ∧ Runs (.roceAcknowledge p .nakSeq) s
              (· = (s1.ackReqs p.qp ((p.psn + 2 ^ 24 - 1) % 2 ^ 24)).retryFrom p.qp p.psn)
          ∧ Runs (.roceAcknowledge p .nakOther) s (fun t => t = s1.qpError p.qp ∧ (t.qp p.qp).reqs = [] ∧ t.qpState p.qp = 2))
      ∧ (s.roceIn p = (s1, true) → firstRead (s1.qp p.qp).reqs = (before, some r) →
          p.psn = (r.psn + r.off / 4096) % 2 ^ 24 →
          let w := s1.qpWire p.qp
          (p.data.length = min 4096 (r.len - r.off) → Runs (.rdmaReadResponse p) s fun t =>
              t = s1.readArrives p.qp r before p.data
                ∧ (r.len ≤ r.off + p.data.length → (t.qp p.qp).reqs = (s1.qp p.qp).reqs.drop (before.length + 1)))
          ∧ (p.data.length ≠ min 4096 (r.len - r.off) → Runs (.rdmaReadResponse p) s fun t =>
              t = s1.sendRoce p.qp p.psn .nak 0 0 0 [] ∧ w.dst = s1.qpDip p.qp ∧ w.sport = 0xC000 + p.qp % 0x4000 ∧ w.dport = 4791
                ∧ w.ecn = 2
                ∧ (s1.neigh.contains (1, s1.qpDip p.qp) = true →
                    ∃ crc, t.out = s1.out ++ [.roce w p.qp (fld (s1.rd (rIoQpDqpn p.qp)) 0 24) p.psn .nak 0 0 0 [] crc])))
      ∧ ((s.qp qp.val).reqs = r :: rs → s.qpState qp.val = 1 → Runs (.roceRetryTimeout qp) s fun t =>
          t = s.retryFrom qp.val r.oldest
            ∧ ((s.qp qp.val).tries < fld (s.rd (rIoQpCtl qp.val)) 9 3 →
                t.qp qp.val = { s.qp qp.val with tries := (s.qp qp.val).tries + 1 })
            ∧ (fld (s.rd (rIoQpCtl qp.val)) 9 3 ≤ (s.qp qp.val).tries → t.qpState qp.val = 2 ∧ (t.qp qp.val).reqs = []))
      ∧ ((s.pgOf part.val).orders.find? (fun o => o.move && decide (o.openOps = 0 ∧ o.st = .running)) = some o →
          Runs (.reelOrderComplete part) s fun t => (∀ x ∈ (t.pgOf part.val).orders, x.seq ≠ o.seq)
            ∧ (∀ g, t.memGet g = s.memGet g))

/-! ### The whole block -/

/-- A step with a command at the front of the queue is that command's effect on the state with the rest of the queue.
With nothing waiting, TC advances by one where the loop has locked or is in holdover (11 R311, R313), and memory,
cores and the beat stand: what an empty queue does is the model's choice (log entry 2). -/
def Obligations.StepRunsFront : Prop :=
  (∀ (s : State) (c : Instr) (r : List Instr), s.pending = c :: r → step s = exec c { s with pending := r })
    ∧ (∀ s : State, s.pending = [] → ∃ t, step s = .next t ∧ t.pending = []
        ∧ t.tb = (if s.tb.locked || s.tb.holdover then { s.tb with tc := s.tb.tc + 1 } else s.tb)
        ∧ (∀ g, t.memGet g = s.memGet g) ∧ (∀ k, t.core k = s.core k) ∧ t.beat = s.beat)

/-- The state after reset: the maps in canonical form, no command waiting, BEAT_LEN 8,000 (11 R336), PM_THRESH 90 and
100 °C (17 R492), QP rates at 1,000, scrubbing on (05 R167), every flag 0, every partition and request entry FREE,
counters and predicates 0 (06 R170), no flight, ports OFF (00 R15, R16). That a core nobody has started holds those
values is the model's choice (log entry 3). -/
def Obligations.ResetValues : Prop :=
  State.reset.canonical = true ∧ State.reset.pending = []
    ∧ State.reset.rd rTbBeatLen = 8000 ∧ fld (State.reset.rd rPmThresh) 0 8 = 90 ∧ fld (State.reset.rd rPmThresh) 8 8 = 100
    ∧ (∀ q : Fin 1024, State.reset.qpRate q.val = 1000)
    ∧ (∀ c, c < 256 → fld (State.reset.rd (rSlcScrub c)) 0 1 = 1)
    ∧ (∀ f, State.reset.flagVal f = 0) ∧ (∀ p, (State.reset.part p).st = .free) ∧ (∀ e, (State.reset.ent e).st = .free)
    ∧ (∀ c, (State.reset.core c).sq.ctr = Vector.replicate 8 0 ∧ (State.reset.core c).sq.pred = Vector.replicate 8 false)
    ∧ State.reset.beat.joined = false ∧ (∀ p : Fin 8, (State.reset.port p).st = 0)

/-- From every state, every command answers a next state, takes nothing from the queue behind it and puts nothing
there, and changes neither the grade nor the disabled cores, which are fuses (00 R2): no behaviour of the manual
stops the block as a whole. A command whose precondition does not hold changes nothing, which is the model's choice
(log entry 1). -/
def Obligations.EveryCommandCompletes : Prop :=
  ∀ (c : Instr) (s : State), ∃ t, exec c s = .next t ∧ t.pending = s.pending ∧ t.fuses.grade = s.fuses.grade
    ∧ t.fuses.cols = s.fuses.cols

/-- From every state whose memory, registers, cores, granules, banks, partitions, page books, queue pairs, flags,
request entries and client records are in canonical form, every step leaves them so, and takes exactly the front
command from the queue. -/
def Obligations.StepKeepsCanonical : Prop :=
  ∀ s t : State, s.canonical = true → step s = .next t → t.canonical = true ∧ t.pending = s.pending.tail

/-- The twelve operators of 06 R180 compare as its table says, `snlt` and `sngt` both false when the difference is
2^31; `sq.cmp` sets its predicate once; `sq.kset` makes a comparator that is evaluated with the counters of the
moment that names it; one that is off reads false and its negation true. -/
def Obligations.ComparisonsOfCounters : Prop :=
  (∀ a b : Word,
    (cmpVal .eq a b = true ↔ a = b) ∧ (cmpVal .ne a b = true ↔ a ≠ b)
      ∧ (cmpVal .lt a b = true ↔ a.toInt < b.toInt) ∧ (cmpVal .le a b = true ↔ a.toInt ≤ b.toInt)
      ∧ (cmpVal .gt a b = true ↔ a.toInt > b.toInt) ∧ (cmpVal .ge a b = true ↔ a.toInt ≥ b.toInt)
      ∧ (cmpVal .ltu a b = true ↔ a.toNat < b.toNat) ∧ (cmpVal .leu a b = true ↔ a.toNat ≤ b.toNat)
      ∧ (cmpVal .gtu a b = true ↔ a.toNat > b.toNat) ∧ (cmpVal .geu a b = true ↔ a.toNat ≥ b.toNat)
      ∧ (cmpVal .snlt a b = true ↔ 1 ≤ (b - a).toNat ∧ (b - a).toNat ≤ 2 ^ 31 - 1)
      ∧ (cmpVal .sngt a b = true ↔ 1 ≤ (a - b).toNat ∧ (a - b).toNat ≤ 2 ^ 31 - 1)
      ∧ ((a - b).toNat = 2 ^ 31 → cmpVal .snlt a b = false ∧ cmpVal .sngt a b = false))
    ∧ ∀ (s : State) (h : Hdr) (op : CmpOp) (pd : PReg) (ca : Ctr) (b : Opnd) (kn : Fin 4),
        let q := (s.core h.core).sq
        (pd.val ≠ 0 → SqReady s h (Opnd.ctrs b ++ [ca]) → Runs (.sqCmp h op pd ca b) s fun t =>
            (t.core h.core).sq.src (.p pd) = cmpVal op q.ctr[ca] (q.opnd b))
          ∧ (SqReady s h [] → Runs (.sqKset h kn ca op b) s fun t =>
              ∀ r : Sq, r.cmps = (t.core h.core).sq.cmps → r.src (.k kn) = cmpVal op r.ctr[ca] (r.opnd b))
          ∧ (SqReady s h [] → Runs (.sqKoff h kn) s fun t =>
              ∀ r : Sq, r.cmps = (t.core h.core).sq.cmps → r.src (.k kn) = false
                ∧ r.passes (some ⟨.k kn, true⟩) = true)

/-- HCHK is the exclusive OR of the ten 6-bit groups of header bits [57:0] (10 R284); a cell whose HCHK does not
match or whose CLASS is reserved does not decode, which is what an uncorrectable cell is here (CellsArrive says what
follows); a header with any one of its bits changed has another HCHK; and the worked example of the file gives 0x16.
-/
def Obligations.HeaderCheck : Prop :=
  (∀ h : Nat, hchk h = (List.range 10).foldl (fun c i => c ^^^ ((h &&& 0x03FFFFFFFFFFFFFF) >>> (6 * i) &&& 0x3F)) 0)
    ∧ (∀ x : CellIn, (x.hchk.toNat ≠ hchk (cellHeader x.cell) ∨ 7 ≤ x.cell.cls) → cellDecodes x = false)
    ∧ (∀ h i : Nat, i < 58 → hchk (h ^^^ 2 ^ i) ≠ hchk h)
    ∧ hchk 0x00001F1411004025 = 0x16

/-- A conversion of −0.0 gives −0.0 in every floating-point format and 0 in every integer format, in every mode; (+0)
+ (−0) = +0 and (−0) + (−0) = −0; the sum of a finite number and its negation is +0 (02 R38). -/
def Obligations.SignedZerosAreKept : Prop :=
  (∀ (f : Fmt) (ff : FFmt) (mode : Rnd) (sat : Bool) (r : Nat) (e : Int), fmtFloat f = some ff →
      (fmtEncode f mode sat r (.fin true 0 e)).bits = 2 ^ (ff.mbits + ff.ebits)
        ∧ (fmtEncode f mode sat r (.fin false 0 e)).bits = 0)
    ∧ (∀ (f : Fmt) (mode : Rnd) (sat : Bool) (r : Nat) (e : Int), fmtFloat f = none → r < 65536 →
      (fmtEncode f mode sat r (.fin true 0 e)).bits = 0)
    ∧ f32add 0x00000000 0x80000000 = 0x00000000 ∧ f32add 0x80000000 0x00000000 = 0x00000000
    ∧ f32add 0x80000000 0x80000000 = 0x80000000
    ∧ (∀ a : Word, f32isNan a = false → fIsFin (f32v a) = true → fNonzero (f32v a) = true →
        f32add a (a ^^^ 0x80000000) = 0x00000000)

/-- A sum or product in FP32 that is a NaN is 0x7FC0_0000, and a NaN operand makes it one (02 R43, R44); opposite
infinities and infinity times zero give it; an INT32 sum that leaves its range is clamped and says so (02 R55). -/
def Obligations.NaNsAndSaturation : Prop :=
  (∀ a b : Word, (f32isNan (f32add a b) = true → f32add a b = 0x7FC00000)
      ∧ (f32isNan (f32mul a b) = true → f32mul a b = 0x7FC00000)
      ∧ (f32isNan a = true ∨ f32isNan b = true → f32add a b = 0x7FC00000 ∧ f32mul a b = 0x7FC00000))
    ∧ f32add 0x7F800000 0xFF800000 = 0x7FC00000 ∧ f32mul 0x7F800000 0x80000000 = 0x7FC00000
    ∧ (∀ (a : Word) (v : Int), (satAdd32 a v).1.toInt = max (-2 ^ 31) (min (2 ^ 31 - 1) (a.toInt + v))
        ∧ ((satAdd32 a v).2 = true ↔ (satAdd32 a v).1.toInt ≠ a.toInt + v))

/-- Every code of every floating-point format that is no NaN, subnormals and infinities among them, converts to its
own format unchanged in each of the three rounding modes: nothing is flushed and an exact value is not moved (02 R36,
R37, R46). -/
def Obligations.FormatsRoundTrip : Prop :=
  ∀ (f : Fmt) (ff : FFmt) (code r : Nat) (mode : Rnd), fmtFloat f = some ff → code < 2 ^ (ff.mbits + ff.ebits + 1) →
    r < 65536 → fdecode ff code ≠ .nan → (fmtEncode f mode false r (fdecode ff code)).bits = code

end
end

