-- ==== Sys2Proof/Laws/Sparse.lean ====
section
/-! SUPPORT. What reading and writing a sparse map answer: read after write, and that every write keeps the canonical
form. -/

namespace Sys2Proof.Laws

open Sys2Proof.Machine

variable {α : Type}

theorem get_erase_same (d : Nat → α) (m : List (Nat × α)) (k : Nat) :
    Sparse.get d (Sparse.erase m k) k = d k := by
  induction m with
  | nil => rfl
  | cons p r ih =>
    by_cases h : p.1 = k
    · simpa [Sparse.erase, h] using ih
    · simpa [Sparse.erase, Sparse.get, h] using ih

theorem get_erase_other (d : Nat → α) (m : List (Nat × α)) (k j : Nat) (hj : j ≠ k) :
    Sparse.get d (Sparse.erase m k) j = Sparse.get d m j := by
  induction m with
  | nil => rfl
  | cons p r ih =>
    by_cases h : p.1 = k
    · have hpj : p.1 ≠ j := by omega
      simpa [Sparse.erase, Sparse.get, h, hpj, Ne.symm hj] using ih
    · by_cases hpj : p.1 = j
      · simp [Sparse.erase, Sparse.get, hpj, hj]
      · simpa [Sparse.erase, Sparse.get, h, hpj] using ih

theorem get_insert_other (d : Nat → α) (m : List (Nat × α)) (k j : Nat) (v : α) (hj : j ≠ k) :
    Sparse.get d (Sparse.insert m k v) j = Sparse.get d m j := by
  induction m with
  | nil => simp [Sparse.insert, Sparse.get, Ne.symm hj]
  | cons p r ih =>
    unfold Sparse.insert
    split
    · simp [Sparse.get, Ne.symm hj]
    · simp [Sparse.get, ih]

/-- Inserting at a key that is not listed makes it read the new value. -/
theorem get_insert_same (d : Nat → α) (m : List (Nat × α)) (k : Nat) (v : α) (hk : ∀ p ∈ m, p.1 ≠ k) :
    Sparse.get d (Sparse.insert m k v) k = v := by
  induction m with
  | nil => simp [Sparse.insert, Sparse.get]
  | cons p r ih =>
    have hp : p.1 ≠ k := hk p (by simp)
    unfold Sparse.insert
    split
    · simp [Sparse.get]
    · simpa [Sparse.get, hp] using ih (fun q hq => hk q (by simp [hq]))

theorem erase_not_listed (m : List (Nat × α)) (k : Nat) : ∀ p ∈ Sparse.erase m k, p.1 ≠ k := by
  intro p hp
  simpa using (List.mem_filter.mp hp).2

variable [DecidableEq α]

/-- Read after write at the same key. -/
@[simp] theorem get_set_same (d : Nat → α) (m : List (Nat × α)) (k : Nat) (v : α) :
    Sparse.get d (Sparse.set d m k v) k = v := by
  unfold Sparse.set
  split
  · rename_i h; rw [get_erase_same, h]
  · exact get_insert_same d _ k v (erase_not_listed m k)

/-- A write leaves every other key as it was. -/
theorem get_set_other (d : Nat → α) (m : List (Nat × α)) (k j : Nat) (v : α) (hj : j ≠ k) :
    Sparse.get d (Sparse.set d m k v) j = Sparse.get d m j := by
  unfold Sparse.set
  split
  · exact get_erase_other d m k j hj
  · rw [get_insert_other d _ k j v hj, get_erase_other d m k j hj]

/-- Read after write, at any key. -/
theorem get_set (d : Nat → α) (m : List (Nat × α)) (k j : Nat) (v : α) :
    Sparse.get d (Sparse.set d m k v) j = if j = k then v else Sparse.get d m j := by
  by_cases h : j = k
  · subst h; simp
  · simp [h, get_set_other d m k j v h]

theorem wfFrom_mono (d : Nat → α) (m : List (Nat × α)) (a b : Nat) (hab : a ≤ b)
    (h : Sparse.wfFrom d b m = true) : Sparse.wfFrom d a m = true := by
  cases m with
  | nil => rfl
  | cons p r =>
    simp only [Sparse.wfFrom, Bool.and_eq_true, decide_eq_true_eq] at h ⊢
    exact ⟨⟨by omega, h.1.2⟩, h.2⟩

theorem wfFrom_erase (d : Nat → α) (m : List (Nat × α)) (k lo : Nat)
    (h : Sparse.wfFrom d lo m = true) : Sparse.wfFrom d lo (Sparse.erase m k) = true := by
  induction m generalizing lo with
  | nil => rfl
  | cons p r ih =>
    simp only [Sparse.wfFrom, Bool.and_eq_true, decide_eq_true_eq] at h
    by_cases hk : p.1 = k
    · have := ih (p.1 + 1) h.2
      have := wfFrom_mono d _ lo (p.1 + 1) (by omega) this
      simpa [Sparse.erase, hk] using this
    · have := ih (p.1 + 1) h.2
      simpa [Sparse.erase, hk, Sparse.wfFrom, h.1.1, h.1.2] using this

theorem wfFrom_insert (d : Nat → α) (m : List (Nat × α)) (k lo : Nat) (v : α) (hlo : lo ≤ k) (hv : v ≠ d k)
    (hk : ∀ p ∈ m, p.1 ≠ k) (h : Sparse.wfFrom d lo m = true) :
    Sparse.wfFrom d lo (Sparse.insert m k v) = true := by
  induction m generalizing lo with
  | nil => simp [Sparse.insert, Sparse.wfFrom, hlo, hv]
  | cons p r ih =>
    simp only [Sparse.wfFrom, Bool.and_eq_true, decide_eq_true_eq] at h
    have hp : p.1 ≠ k := hk p (by simp)
    unfold Sparse.insert
    split
    · rename_i hlt
      simp only [Sparse.wfFrom, Bool.and_eq_true, decide_eq_true_eq]
      exact ⟨⟨hlo, hv⟩, ⟨by omega, h.1.2⟩, h.2⟩
    · simp only [Sparse.wfFrom, Bool.and_eq_true, decide_eq_true_eq]
      exact ⟨h.1, ih (p.1 + 1) (by omega) (fun q hq => hk q (by simp [hq])) h.2⟩

/-- Every write keeps the canonical form. -/
theorem wf_set (d : Nat → α) (m : List (Nat × α)) (k : Nat) (v : α) (h : Sparse.wf d m = true) :
    Sparse.wf d (Sparse.set d m k v) = true := by
  unfold Sparse.wf Sparse.set at *
  split
  · exact wfFrom_erase d m k 0 h
  · exact wfFrom_insert d _ k 0 v (by omega) (by assumption) (erase_not_listed m k) (wfFrom_erase d m k 0 h)

/-- Entries may be left out. -/
theorem wfFrom_filter (d : Nat → α) (m : List (Nat × α)) (f : Nat × α → Bool) (lo : Nat)
    (h : Sparse.wfFrom d lo m = true) : Sparse.wfFrom d lo (m.filter f) = true := by
  induction m generalizing lo with
  | nil => rfl
  | cons p r ih =>
    simp only [Sparse.wfFrom, Bool.and_eq_true, decide_eq_true_eq] at h
    rw [List.filter_cons]
    split
    · simp only [Sparse.wfFrom, Bool.and_eq_true, decide_eq_true_eq]
      exact ⟨h.1, ih (p.1 + 1) h.2⟩
    · exact wfFrom_mono d _ lo (p.1 + 1) (by omega) (ih (p.1 + 1) h.2)

theorem wf_filter (d : Nat → α) (m : List (Nat × α)) (f : Nat × α → Bool) (h : Sparse.wf d m = true) :
    Sparse.wf d (m.filter f) = true := wfFrom_filter d m f 0 h

/-- A list of writes keeps the canonical form. -/
theorem wf_foldl_set (d : Nat → α) (l : List (Nat × α)) (m : List (Nat × α)) (h : Sparse.wf d m = true) :
    Sparse.wf d (l.foldl (fun a x => Sparse.set d a x.1 x.2) m) = true := by
  induction l generalizing m with
  | nil => exact h
  | cons x l ih => exact ih _ (wf_set d m x.1 x.2 h)

end Sys2Proof.Laws
end

