-- ==== Sys2Proof/Laws/Keeps.lean ====
section
/-! SUPPORT. How `Keeps` is composed: reflexivity, chains, folds, records that leave the maps alone. -/

namespace Sys2Proof.Machine

open Sys2Proof Sys2Proof.Laws

theorem Keeps.refl (s : State) : Keeps s s := ⟨rfl, rfl, rfl, id⟩

theorem Keeps.trans {r s t : State} (h : Keeps r s) (k : Keeps s t) : Keeps r t :=
  ⟨k.1.trans h.1, k.2.1.trans h.2.1, k.2.2.1.trans h.2.2.1, fun x => k.2.2.2 (h.2.2.2 x)⟩

/-- A value bound by a let, kept once. -/
theorem Keeps.cut {r x t : State} (h : Keeps r x) (k : Keeps r x → Keeps r t) : Keeps r t := k h

/-- A fold of operations that keep. -/
theorem Keeps.foldl {β : Type} {r : State} {f : State → β → State} (l : List β) {s : State}
    (hf : ∀ t b, Keeps r t → Keeps r (f t b)) (h : Keeps r s) : Keeps r (l.foldl f s) := by
  induction l generalizing s with
  | nil => exact h
  | cons b l ih => exact ih (hf s b h)

/-- A fold over a state and something beside it. -/
theorem Keeps.foldl_fst {β γ : Type} {r : State} {f : State × γ → β → State × γ} (l : List β) {a : State × γ}
    (hf : ∀ t b, Keeps r t.1 → Keeps r (f t b).1) (h : Keeps r a.1) : Keeps r (l.foldl f a).1 := by
  induction l generalizing a with
  | nil => exact h
  | cons b l ih => exact ih (hf a b h)

/-- A fold over something and a state after it. -/
theorem Keeps.foldl_snd {β γ : Type} {r : State} {f : γ × State → β → γ × State} (l : List β) {a : γ × State}
    (hf : ∀ t b, Keeps r t.2 → Keeps r (f t b).2) (h : Keeps r a.2) : Keeps r (l.foldl f a).2 := by
  induction l generalizing a with
  | nil => exact h
  | cons b l ih => exact ih (hf a b h)

/-- A fold over two things and a state after them. -/
theorem Keeps.foldl_trd {β γ δ : Type} {r : State} {f : γ × δ × State → β → γ × δ × State} (l : List β) {a : γ × δ × State}
    (hf : ∀ t b, Keeps r t.2.2 → Keeps r (f t b).2.2) (h : Keeps r a.2.2) : Keeps r (l.foldl f a).2.2 := by
  induction l generalizing a with
  | nil => exact h
  | cons b l ih => exact ih (hf a b h)

/-- A list of truths with one of them replaced by a truth. -/
theorem all_set (l : List Bool) (i : Nat) (b : Bool) (h : l.all id = true) (hb : l.getD i true = true → b = true) :
    (l.set i b).all id = true := by
  rw [List.all_eq_true] at h ⊢
  intro x hx
  obtain ⟨k, hk, rfl⟩ := List.mem_iff_getElem.mp hx
  rw [List.length_set] at hk
  rw [List.getElem_set]
  split
  · subst i
    refine hb ?_
    have hl := ‹k < l.length›
    rw [List.getD_eq_getElem?_getD, List.getElem?_eq_getElem hl]
    exact h _ (List.getElem_mem hl)
  · exact h _ (List.getElem_mem hk)

/-- A state that differs from `s` in one map, the n-th, which keeps its form, and where `Keeps` says nothing. -/
theorem Keeps.map {r s t : State} (n : Nat) {b : Bool} (hp : t.pending = s.pending) (hg : t.fuses.grade = s.fuses.grade)
    (hc : t.fuses.cols = s.fuses.cols) (hm : t.maps = s.maps.set n b) (hb : s.maps.getD n true = true → b = true)
    (h : Keeps r s) : Keeps r t := by
  refine h.trans ⟨hp, hg, hc, fun k => ?_⟩
  unfold State.canonical at k ⊢
  rw [hm]
  exact all_set _ _ _ k hb

/-- A record that differs from `s` only where `Keeps` says nothing. -/
theorem Keeps.mk {r s : State} {fuses' : Fuses} {flash' : List (Nat × Byte)} {pwr' : Pwr} {tb' : TimeBase} {beat' : Beat} {poisonPending' : List Nat} {flags' : Flags} {partOps' : List PartOp} {transits' : List Transit} {loads' : List Load} {tether' : Tether} {drift' : Drift} {rt' : Rt} {su' : Vector Su 4} {rings' : List (Nat × List RingCmd)} {dg' : Dg} {sess' : List (Nat × Option Sess)} {neigh' : List (Nat × List Byte)} {stalled' : List Waiter} {mc' : Mc} {sc' : Sc} {ir' : JtagIr} {out' : List Output} {rnd' : Nat} {free' : Nat}
    (h : Keeps r s) (hg : fuses'.grade = s.fuses.grade) (hc : fuses'.cols = s.fuses.cols) (hf : flags'.value = s.flags.value)
    (he : rt'.ents = s.rt.ents) (hl : rt'.clis = s.rt.clis) :
    Keeps r (State.mk s.pending fuses' flash' pwr' s.regs tb' beat' s.cores s.mem s.ecc poisonPending' s.banks flags' s.parts partOps' transits' loads' tether' drift' rt' su' rings' s.pg s.qps dg' sess' neigh' stalled' mc' sc' ir' out' rnd' free') := by
  refine h.trans ⟨rfl, hg, hc, fun k => ?_⟩
  simpa only [State.canonical, State.maps, hf, he, hl] using k

theorem Keeps.letS {r v : State} {P : State → Prop} (h : Keeps r v) (k : ∀ x, Keeps r x → P x) : let x := v; P x := k v h
theorem Keeps.let1 {r : State} {α : Type} {v : State × α} {P : State × α → Prop} (h : Keeps r v.1) (k : ∀ x, Keeps r x.1 → P x) : let x := v; P x := k v h
theorem Keeps.let2 {r : State} {α : Type} {v : α × State} {P : α × State → Prop} (h : Keeps r v.2) (k : ∀ x, Keeps r x.2 → P x) : let x := v; P x := k v h
theorem Keeps.let3 {r : State} {α β : Type} {v : α × β × State} {P : α × β × State → Prop} (h : Keeps r v.2.2) (k : ∀ x, Keeps r x.2.2 → P x) : let x := v; P x := k v h
theorem Keeps.letB {r : State} {v : Build} {P : Build → Prop} (h : Keeps r v.s) (k : ∀ x, Keeps r x.s → P x) : let x := v; P x := k v h
theorem Keeps.letf {r : State} {v : State → State} {P : (State → State) → Prop} (h : ∀ t, Keeps r t → Keeps r (v t)) (k : ∀ x, (∀ t, Keeps r t → Keeps r (x t)) → P x) : let x := v; P x := k v h
theorem Keeps.letf1 {r : State} {α : Type} {v : State → α → State} {P : (State → α → State) → Prop} (h : ∀ t a, Keeps r t → Keeps r (v t a)) (k : ∀ x, (∀ t a, Keeps r t → Keeps r (x t a)) → P x) : let x := v; P x := k v h
theorem Keeps.letv {α : Sort _} {v : α} {P : α → Prop} (k : ∀ x, P x) : let x := v; P x := k v

/-- The command answers a next state that keeps what every operation keeps. -/
def NextKeeps (s : State) (r : Res) : Prop := ∃ t, r = .next t ∧ Keeps s t

theorem NextKeeps.mk {r s : State} (h : Keeps r s) : NextKeeps r (.next s) := ⟨s, rfl, h⟩

theorem State.wr_keeps {σ : State} (s : State) (a : Nat) (v : Word) (h : Keeps σ s) : Keeps σ (s.wr a v) :=
  Keeps.map (s := s) 2 rfl rfl rfl rfl (fun k => wf_set _ _ _ _ k) h

theorem State.setCore_keeps {σ : State} (s : State) (a : Nat) (v : Core) (h : Keeps σ s) : Keeps σ (s.setCore a v) :=
  Keeps.map (s := s) 3 rfl rfl rfl rfl (fun k => wf_set _ _ _ _ k) h

theorem State.setPart_keeps {σ : State} (s : State) (a : Nat) (v : Part) (h : Keeps σ s) : Keeps σ (s.setPart a v) :=
  Keeps.map (s := s) 5 rfl rfl rfl rfl (fun k => wf_set _ _ _ _ k) h

theorem State.setEcc_keeps {σ : State} (s : State) (a : Nat) (v : Ecc) (h : Keeps σ s) : Keeps σ (s.setEcc a v) :=
  Keeps.map (s := s) 1 rfl rfl rfl rfl (fun k => wf_set _ _ _ _ k) h

theorem State.setBank_keeps {σ : State} (s : State) (c b : Nat) (x : Bank) (h : Keeps σ s) : Keeps σ (s.setBank c b x) :=
  Keeps.map (s := s) 4 rfl rfl rfl rfl (fun k => wf_set _ _ _ _ k) h

theorem State.memSet_keeps {σ : State} (s : State) (a : Nat) (v : Byte) (h : Keeps σ s) : Keeps σ (s.memSet a v) :=
  Keeps.map (s := s) 0 rfl rfl rfl rfl (fun k => wf_set _ _ _ _ k) h

theorem State.setPg_keeps {σ : State} (s : State) (p : Nat) (q : PgPart) (h : Keeps σ s) : Keeps σ (s.setPg p q) :=
  Keeps.map (s := s) 6 rfl rfl rfl rfl (fun k => wf_set _ _ _ _ k) h

theorem State.setQp_keeps {σ : State} (s : State) (p : Nat) (q : Qp) (h : Keeps σ s) : Keeps σ (s.setQp p q) :=
  Keeps.map (s := s) 7 rfl rfl rfl rfl (fun k => wf_set _ _ _ _ k) h

theorem State.setFlag_keeps {σ : State} (s : State) (p : Nat) (q : Word) (h : Keeps σ s) : Keeps σ (s.setFlag p q) :=
  Keeps.map (s := s) 8 rfl rfl rfl rfl (fun k => wf_set _ _ _ _ k) h

theorem State.setEnt_keeps {σ : State} (s : State) (p : Nat) (q : Ent) (h : Keeps σ s) : Keeps σ (s.setEnt p q) :=
  Keeps.map (s := s) 9 rfl rfl rfl rfl (fun k => wf_set _ _ _ _ k) h

theorem State.setCli_keeps {σ : State} (s : State) (p : Nat) (q : Cli) (h : Keeps σ s) : Keeps σ (s.setCli p q) :=
  Keeps.map (s := s) 10 rfl rfl rfl rfl (fun k => wf_set _ _ _ _ k) h

theorem State.clearFlags_keeps {σ : State} (s : State) (base n : Nat) (h : Keeps σ s) : Keeps σ (s.clearFlags base n) :=
  Keeps.map (s := s) 8 rfl rfl rfl rfl (fun k => wf_filter _ _ _ k) h

theorem State.wipe_keeps {σ : State} (s : State) (h : Keeps σ s) : Keeps σ s.wipe :=
  h.trans ⟨rfl, rfl, rfl, fun _ => rfl⟩

theorem State.restoreFlags_keeps {σ : State} (s : State) (p : Nat → Bool) (h : Keeps σ s) : Keeps σ (s.restoreFlags p) :=
  Keeps.map (s := s) 8 rfl rfl rfl rfl (fun k => wf_foldl_set _ _ _ (wf_filter _ _ _ k)) h

theorem State.dropCorr_keeps {σ : State} (s : State) (hit : Nat → Bool) (h : Keeps σ s) : Keeps σ (s.dropCorr hit) := by
  refine Keeps.foldl _ (fun t x ht => ?_) h
  dsimp only
  split
  · split
    · exact Keeps.map (s := t) 4 rfl rfl rfl rfl (fun k => wf_set _ _ _ _ k) ht
    · exact ht
  · exact ht

theorem State.zeroize_keeps {σ : State} (s : State) (c p n : Nat) (h : Keeps σ s) : Keeps σ (s.zeroize c p n) := by
  refine Keeps.cut (State.dropCorr_keeps s (fun g => decide (gaddr c p ≤ g * 8) && decide (g * 8 < gaddr c p + n)) h) fun h1 => ?_
  generalize he : s.dropCorr _ = t at h1
  have hz : s.zeroize c p n = { t with
      mem := (s.zeroize c p n).mem, ecc := (s.zeroize c p n).ecc, poisonPending := (s.zeroize c p n).poisonPending } := by
    subst he; rfl
  have hm : Keeps σ { t with mem := (s.zeroize c p n).mem } :=
    Keeps.map (s := t) 0 (b := Memory.wf (s.zeroize c p n).mem) rfl rfl rfl rfl
      (fun k => by subst he; exact wf_filter _ _ _ k) h1
  rw [hz]
  exact Keeps.map (s := { t with mem := (s.zeroize c p n).mem }) 1 (b := Sparse.wf (fun _ => Ecc.clean) (s.zeroize c p n).ecc)
    rfl rfl rfl rfl (fun k => by subst he; exact wf_filter _ _ _ k) hm

end Sys2Proof.Machine
end

