-- ==== Sys2Proof/Laws/KeepsCore.lean ====
section
/-! SUPPORT. Each operation of Machine/Records.lean, Ops.lean, Memory.lean, Issue.lean, MeRun.lean, VeRun.lean,
Drift.lean, Regs.lean, Dg.lean, Sess.lean keeps what `Keeps` says: one lemma per operation that answers a state. -/

namespace Sys2Proof.Machine

open Sys2Proof Sys2Proof.Laws

theorem State.wrF_keeps {σ : State} (s : State) (a lsb len v : Nat) (hk : Keeps σ s) :
    Keeps σ (State.wrF s a lsb len v) := by
  unfold State.wrF
  repeat' first
    | with_reducible assumption
    | (with_reducible apply State.wr_keeps)

theorem State.setBit_keeps {σ : State} (s : State) (a n : Nat) (hk : Keeps σ s) :
    Keeps σ (State.setBit s a n) := by
  unfold State.setBit
  repeat' first
    | with_reducible assumption
    | (with_reducible apply State.wrF_keeps)

theorem State.clrBit_keeps {σ : State} (s : State) (a n : Nat) (hk : Keeps σ s) :
    Keeps σ (State.clrBit s a n) := by
  unfold State.clrBit
  repeat' first
    | with_reducible assumption
    | (with_reducible apply State.wrF_keeps)

theorem State.bump_keeps {σ : State} (s : State) (a : Nat) (hk : Keeps σ s) :
    Keeps σ (State.bump s a) := by
  unfold State.bump
  repeat' first
    | with_reducible assumption
    | (with_reducible apply State.wr_keeps)

theorem State.bumpN_keeps {σ : State} (s : State) (a n : Nat) (hk : Keeps σ s) :
    Keeps σ (State.bumpN s a n) := by
  unfold State.bumpN
  repeat' first
    | with_reducible assumption
    | (with_reducible apply State.wr_keeps)
    | split

theorem State.gather_keeps {σ : State} (s : State) (code unit eng part core : Nat) (arg : Word) (hk : Keeps σ s) :
    Keeps σ (State.gather s code unit eng part core arg) := by
  unfold State.gather
  repeat' first
    | with_reducible assumption
    | ((try lift_lets); intro x; revert x; refine Keeps.letS (r := σ) ?_ (fun x hx => ?_))
    | (fail_if_no_progress ((with_reducible refine Keeps.mk ?_ ?_ ?_ ?_ ?_ ?_) <;> [skip; rfl; rfl; rfl; rfl; rfl]))

theorem State.putEvt_keeps {σ : State} (s : State) (e : Evt) (hk : Keeps σ s) :
    Keeps σ (State.putEvt s e) := by
  unfold State.putEvt
  repeat' first
    | with_reducible assumption
    | (with_reducible apply State.wr_keeps)
    | (with_reducible apply State.setBit_keeps)
    | (with_reducible apply State.bump_keeps)
    | split
    | ((try lift_lets); intro x; revert x; refine Keeps.letS (r := σ) ?_ (fun x hx => ?_))
    | (fail_if_no_progress ((with_reducible refine Keeps.mk ?_ ?_ ?_ ?_ ?_ ?_) <;> [skip; rfl; rfl; rfl; rfl; rfl]))

theorem State.event_keeps {σ : State} (s : State) (code unit eng part core : Nat) (arg : Word) (hk : Keeps σ s) :
    Keeps σ (State.event s code unit eng part core arg) := by
  unfold State.event
  repeat' first
    | with_reducible assumption
    | (with_reducible apply State.putEvt_keeps)

theorem State.coreCode_keeps {σ : State} (s : State) (code unit eng part core : Nat) (arg : Word) (hk : Keeps σ s) :
    Keeps σ (State.coreCode s code unit eng part core arg) := by
  unfold State.coreCode
  repeat' first
    | with_reducible assumption
    | (with_reducible apply State.gather_keeps)
    | (with_reducible apply State.event_keeps)
    | split

theorem State.alert_keeps {σ : State} (s : State) (n : Nat) (hk : Keeps σ s) :
    Keeps σ (State.alert s n) := by
  unfold State.alert
  repeat' first
    | with_reducible assumption
    | (with_reducible apply State.setBit_keeps)

theorem State.putLog_keeps {σ : State} (s : State) (r : LogRec) (hk : Keeps σ s) :
    Keeps σ (State.putLog s r) := by
  unfold State.putLog
  repeat' first
    | with_reducible assumption
    | (with_reducible apply State.wr_keeps)
    | (with_reducible apply State.setBit_keeps)
    | (with_reducible apply State.bump_keeps)
    | (with_reducible apply State.event_keeps)
    | (with_reducible apply State.alert_keeps)
    | split
    | ((try lift_lets); intro x; revert x; refine Keeps.letS (r := σ) ?_ (fun x hx => ?_))
    | (fail_if_no_progress ((with_reducible refine Keeps.mk ?_ ?_ ?_ ?_ ?_ ?_) <;> [skip; rfl; rfl; rfl; rfl; rfl]))

theorem State.log_keeps {σ : State} (s : State) (o : Origin) (kind part : Nat) (addr old new : Word) (hk : Keeps σ s) :
    Keeps σ (State.log s o kind part addr old new) := by
  unfold State.log
  repeat' first
    | with_reducible assumption
    | (with_reducible apply State.putLog_keeps)

theorem State.updCore_keeps {σ : State} (s : State) (c : Nat) (f : Core → Core) (hk : Keeps σ s) :
    Keeps σ (State.updCore s c f) := by
  unfold State.updCore
  repeat' first
    | with_reducible assumption
    | (with_reducible apply State.setCore_keeps)

theorem State.failBeat_keeps {σ : State} (s : State) (hk : Keeps σ s) :
    Keeps σ (State.failBeat s) := by
  unfold State.failBeat
  repeat' first
    | with_reducible assumption
    | ((try lift_lets); intro x; revert x; refine Keeps.letS (r := σ) ?_ (fun x hx => ?_))
    | (fail_if_no_progress ((with_reducible refine Keeps.mk ?_ ?_ ?_ ?_ ?_ ?_) <;> [skip; rfl; rfl; rfl; rfl; rfl]))

theorem State.faultGroup_keeps {σ : State} (s : State) (g : Nat) (hk : Keeps σ s) :
    Keeps σ (State.faultGroup s g) := by
  unfold State.faultGroup
  repeat' first
    | with_reducible assumption
    | split
    | ((try lift_lets); intro x; revert x; refine Keeps.letS (r := σ) ?_ (fun x hx => ?_))
    | (fail_if_no_progress ((with_reducible refine Keeps.mk ?_ ?_ ?_ ?_ ?_ ?_) <;> [skip; rfl; rfl; rfl; rfl; rfl]))

theorem State.setSkip_keeps {σ : State} (s : State) (hk : Keeps σ s) :
    Keeps σ (State.setSkip s) := by
  unfold State.setSkip
  repeat' first
    | with_reducible assumption
    | (with_reducible apply State.setBit_keeps)
    | ((try lift_lets); intro x; revert x; refine Keeps.letS (r := σ) ?_ (fun x hx => ?_))
    | (fail_if_no_progress ((with_reducible refine Keeps.mk ?_ ?_ ?_ ?_ ?_ ?_) <;> [skip; rfl; rfl; rfl; rfl; rfl]))

theorem State.coreMiss_keeps {σ : State} (s : State) (c eng : Nat) (pc : Nat) (hk : Keeps σ s) :
    Keeps σ (State.coreMiss s c eng pc) := by
  unfold State.coreMiss
  repeat' first
    | with_reducible assumption
    | (with_reducible apply State.setBit_keeps)
    | (with_reducible apply State.bump_keeps)
    | (with_reducible apply State.gather_keeps)
    | (with_reducible apply State.failBeat_keeps)
    | split

theorem State.coreFault_keeps {σ : State} (s : State) (c code src : Nat) (pc : Nat) (hk : Keeps σ s) :
    Keeps σ (State.coreFault s c code src pc) := by
  unfold State.coreFault
  repeat' first
    | with_reducible assumption
    | (with_reducible apply State.wr_keeps)
    | (with_reducible apply State.setBit_keeps)
    | (with_reducible apply State.bump_keeps)
    | (with_reducible apply State.gather_keeps)
    | (with_reducible apply State.faultGroup_keeps)
    | (with_reducible apply State.coreMiss_keeps)
    | split

theorem State.refuseLanding_keeps {σ : State} (s : State) (unit cause port chip part : Nat) (hk : Keeps σ s) :
    Keeps σ (State.refuseLanding s unit cause port chip part) := by
  unfold State.refuseLanding
  repeat' first
    | with_reducible assumption
    | (with_reducible apply State.wr_keeps)
    | (with_reducible apply State.setBit_keeps)
    | (with_reducible apply State.bump_keeps)
    | (with_reducible apply State.event_keeps)
    | (with_reducible apply State.failBeat_keeps)
    | split

theorem State.unitMiss_keeps {σ : State} (s : State) (unit part : Nat) (hk : Keeps σ s) :
    Keeps σ (State.unitMiss s unit part) := by
  unfold State.unitMiss
  repeat' first
    | with_reducible assumption
    | (with_reducible apply State.event_keeps)
    | (with_reducible apply State.failBeat_keeps)

theorem State.loadTc_keeps {σ : State} (s : State) (t : DWord) (hk : Keeps σ s) :
    Keeps σ (State.loadTc s t) := by
  unfold State.loadTc
  repeat' first
    | with_reducible assumption
    | ((try lift_lets); intro x; revert x; refine Keeps.letS (r := σ) ?_ (fun x hx => ?_))
    | (fail_if_no_progress ((with_reducible refine Keeps.mk ?_ ?_ ?_ ?_ ?_ ?_) <;> [skip; rfl; rfl; rfl; rfl; rfl]))

theorem State.pairPackets_keeps {σ : State} (s : State) (src dst n : Nat) (hk : Keeps σ s) :
    Keeps σ (State.pairPackets s src dst n) := by
  unfold State.pairPackets
  repeat' first
    | with_reducible assumption
    | split
    | ((try lift_lets); intro x; revert x; refine Keeps.letS (r := σ) ?_ (fun x hx => ?_))
    | (fail_if_no_progress ((with_reducible refine Keeps.mk ?_ ?_ ?_ ?_ ?_ ?_) <;> [skip; rfl; rfl; rfl; rfl; rfl]))

theorem State.atEndpoint_keeps {σ : State} (s : State) (src c : Nat) (hk : Keeps σ s) :
    Keeps σ (State.atEndpoint s src c) := by
  unfold State.atEndpoint
  repeat' first
    | with_reducible assumption
    | (with_reducible apply State.wr_keeps)
    | (with_reducible apply State.wrF_keeps)
    | (with_reducible apply State.pairPackets_keeps)
    | split
    | ((try lift_lets); intro x; revert x; refine Keeps.letS (r := σ) ?_ (fun x hx => ?_))
    | (fail_if_no_progress ((with_reducible refine Keeps.mk ?_ ?_ ?_ ?_ ?_ ?_) <;> [skip; rfl; rfl; rfl; rfl; rfl]))

theorem State.touch_keeps {σ : State} (s : State) (g : Nat) (sched : Bool) (hk : Keeps σ s) :
    Keeps σ (State.touch s g sched) := by
  unfold State.touch
  repeat' first
    | with_reducible assumption
    | (with_reducible apply State.wr_keeps)
    | (with_reducible apply State.setBit_keeps)
    | (with_reducible apply State.bump_keeps)
    | (with_reducible apply State.event_keeps)
    | (with_reducible apply State.failBeat_keeps)
    | (with_reducible apply State.setBank_keeps)
    | split
    | ((try lift_lets); intro x; revert x; refine Keeps.letS (r := σ) ?_ (fun x hx => ?_))
    | (fail_if_no_progress ((with_reducible refine Keeps.mk ?_ ?_ ?_ ?_ ?_ ?_) <;> [skip; rfl; rfl; rfl; rfl; rfl]))

theorem State.deliver_keeps {σ : State} (s : State) (g n : Nat) (hk : Keeps σ s) :
    Keeps σ (State.deliver s g n).2 := by
  unfold State.deliver
  repeat' first
    | with_reducible assumption
    | ((try lift_lets); intro x; revert x; refine Keeps.letS (r := σ) ?_ (fun x hx => ?_))
    | (fail_if_no_progress ((with_reducible refine Keeps.mk ?_ ?_ ?_ ?_ ?_ ?_) <;> [skip; rfl; rfl; rfl; rfl; rfl]))

theorem State.deliver_keeps_eq {σ : State} {s : State} {g : Nat} {n : Nat} {t : State} {r : List Byte} (hk : Keeps σ s) (he : State.deliver s g n = (r, t)) :
    Keeps σ t := by
  have := State.deliver_keeps s g n hk; rw [he] at this; exact this

theorem State.touchBeside_keeps {σ : State} (s : State) (g : Nat) (hk : Keeps σ s) :
    Keeps σ (State.touchBeside s g) := by
  unfold State.touchBeside
  repeat' first
    | with_reducible assumption
    | (with_reducible apply State.touch_keeps)
    | split

theorem State.checkRows_keeps {σ : State} (s : State) (rs : List (Nat × Nat)) (sched : Bool) (hk : Keeps σ s) :
    Keeps σ (State.checkRows s rs sched) := by
  unfold State.checkRows
  repeat' first
    | with_reducible assumption
    | (with_reducible apply State.touch_keeps)
    | (with_reducible apply State.touchBeside_keeps)
    | (with_reducible refine Keeps.foldl _ (fun t a ht => ?_) ?_)

theorem State.touchRanges_keeps {σ : State} (s : State) (c : Nat) (rs : List (Nat × Nat)) (hk : Keeps σ s) :
    Keeps σ (State.touchRanges s c rs) := by
  unfold State.touchRanges
  repeat' first
    | with_reducible assumption
    | (with_reducible apply State.checkRows_keeps)

theorem State.memPut_keeps {σ : State} (s : State) (ws : List (Nat × Byte)) (hk : Keeps σ s) :
    Keeps σ (State.memPut s ws) := by
  unfold State.memPut
  repeat' first
    | with_reducible assumption
    | (with_reducible apply State.memSet_keeps)
    | (with_reducible refine Keeps.foldl _ (fun t a ht => ?_) ?_)

theorem State.mergeTouch_keeps {σ : State} (s : State) (g : Nat) (hk : Keeps σ s) :
    Keeps σ (State.mergeTouch s g) := by
  unfold State.mergeTouch
  repeat' first
    | with_reducible assumption
    | (with_reducible apply State.setEcc_keeps)
    | (with_reducible apply State.touch_keeps)
    | split

theorem State.cleanGranule_keeps {σ : State} (s : State) (g : Nat) (hk : Keeps σ s) :
    Keeps σ (State.cleanGranule s g) := by
  unfold State.cleanGranule
  repeat' first
    | with_reducible assumption
    | (with_reducible apply State.setEcc_keeps)
    | ((try lift_lets); intro x; revert x; refine Keeps.letS (r := σ) ?_ (fun x hx => ?_))
    | (fail_if_no_progress ((with_reducible refine Keeps.mk ?_ ?_ ?_ ?_ ?_ ?_) <;> [skip; rfl; rfl; rfl; rfl; rfl]))

theorem State.writeMasked_keeps {σ : State} (s : State) (ws : List (Nat × Byte)) (half : List Nat) (hk : Keeps σ s) :
    Keeps σ (State.writeMasked s ws half) := by
  unfold State.writeMasked
  repeat' first
    | with_reducible assumption
    | (with_reducible apply State.touchBeside_keeps)
    | (with_reducible apply State.memPut_keeps)
    | (with_reducible apply State.mergeTouch_keeps)
    | (with_reducible apply State.dropCorr_keeps)
    | (with_reducible apply State.cleanGranule_keeps)
    | (with_reducible refine Keeps.foldl _ (fun t a ht => ?_) ?_)

theorem State.writeG_keeps {σ : State} (s : State) (ws : List (Nat × Byte)) (hk : Keeps σ s) :
    Keeps σ (State.writeG s ws) := by
  unfold State.writeG
  repeat' first
    | with_reducible assumption
    | (with_reducible apply State.writeMasked_keeps)

theorem State.writeHalf_keeps {σ : State} (s : State) (c : Nat) (ws : List (Nat × Byte)) (half : List Nat) (hk : Keeps σ s) :
    Keeps σ (State.writeHalf s c ws half) := by
  unfold State.writeHalf
  repeat' first
    | with_reducible assumption
    | (with_reducible apply State.writeMasked_keeps)

theorem State.writeAt_keeps {σ : State} (s : State) (c : Nat) (ws : List (Nat × Byte)) (hk : Keeps σ s) :
    Keeps σ (State.writeAt s c ws) := by
  unfold State.writeAt
  repeat' first
    | with_reducible assumption
    | (with_reducible apply State.writeHalf_keeps)

theorem State.poisonAt_keeps {σ : State} (s : State) (c : Nat) (as : List Nat) (hk : Keeps σ s) :
    Keeps σ (State.poisonAt s c as) := by
  unfold State.poisonAt
  repeat' first
    | with_reducible assumption
    | (with_reducible apply State.setEcc_keeps)
    | (with_reducible refine Keeps.foldl _ (fun t a ht => ?_) ?_)
    | split

theorem State.slcRecord_keeps {σ : State} (s : State) (o : Origin) (part c : Nat) (x : Bad) (hk : Keeps σ s) :
    Keeps σ (State.slcRecord s o part c x) := by
  unfold State.slcRecord
  repeat' first
    | with_reducible assumption
    | (with_reducible apply State.setBit_keeps)
    | (with_reducible apply State.log_keeps)
    | split

theorem State.sliceFault_keeps {σ : State} (s : State) (c : Nat) (x : Bad) (pc : Nat) (hk : Keeps σ s) :
    Keeps σ (State.sliceFault s c x pc) := by
  unfold State.sliceFault
  repeat' first
    | with_reducible assumption
    | (with_reducible apply State.coreFault_keeps)
    | (with_reducible apply State.slcRecord_keeps)

theorem State.accessCode_keeps {σ : State} (s : State) (code unit p c : Nat) (hk : Keeps σ s) :
    Keeps σ (State.accessCode s code unit p c) := by
  unfold State.accessCode
  repeat' first
    | with_reducible assumption
    | (with_reducible apply State.coreCode_keeps)
    | (fail_if_no_progress ((with_reducible refine Keeps.mk ?_ ?_ ?_ ?_ ?_ ?_) <;> [skip; rfl; rfl; rfl; rfl; rfl]))

theorem State.unitRefused_keeps {σ : State} (s : State) (unit p c : Nat) (x : Bad) (hk : Keeps σ s) :
    Keeps σ (State.unitRefused s unit p c x) := by
  unfold State.unitRefused
  repeat' first
    | with_reducible assumption
    | (with_reducible apply State.slcRecord_keeps)
    | (with_reducible apply State.accessCode_keeps)

theorem State.hostRefused_keeps {σ : State} (s : State) (o : Origin) (g code : Nat) (hk : Keeps σ s) :
    Keeps σ (State.hostRefused s o g code) := by
  unfold State.hostRefused
  repeat' first
    | with_reducible assumption
    | (with_reducible apply State.setBit_keeps)
    | (with_reducible apply State.log_keeps)
    | (with_reducible apply State.accessCode_keeps)
    | split

theorem State.unitPut_keeps {σ : State} (s : State) (unit p c a : Nat) (bs : List Byte) (poison : List Nat) (hk : Keeps σ s) :
    Keeps σ (State.unitPut s unit p c a bs poison) := by
  unfold State.unitPut
  repeat' first
    | with_reducible assumption
    | (with_reducible apply State.writeAt_keeps)
    | (with_reducible apply State.poisonAt_keeps)
    | (with_reducible apply State.unitRefused_keeps)
    | split

theorem State.unitWrite_keeps {σ : State} (s : State) (src p c a : Nat) (bs : List Byte) (poison : List Nat) (hk : Keeps σ s) :
    Keeps σ (State.unitWrite s src p c a bs poison) := by
  unfold State.unitWrite
  repeat' first
    | with_reducible assumption
    | (with_reducible apply State.atEndpoint_keeps)
    | (with_reducible apply State.unitPut_keeps)
    | split
    | (fail_if_no_progress ((with_reducible refine Keeps.mk ?_ ?_ ?_ ?_ ?_ ?_) <;> [skip; rfl; rfl; rfl; rfl; rfl]))

theorem State.unitRead_keeps {σ : State} (s : State) (unit p c a n : Nat) (hk : Keeps σ s) :
    Keeps σ (State.unitRead s unit p c a n).2.2 := by
  unfold State.unitRead
  repeat' first
    | with_reducible assumption
    | (with_reducible apply State.checkRows_keeps)
    | (with_reducible apply State.unitRefused_keeps)
    | split
    | ((try lift_lets); intro x; revert x; refine Keeps.letS (r := σ) ?_ (fun x hx => ?_))
    | (fail_if_no_progress ((with_reducible refine Keeps.mk ?_ ?_ ?_ ?_ ?_ ?_) <;> [skip; rfl; rfl; rfl; rfl; rfl]))

theorem State.unitRead_keeps_eq {σ : State} {s : State} {unit : Nat} {p : Nat} {c : Nat} {a : Nat} {n : Nat} {t : State} {r : List Byte} {r2 : List Nat} (hk : Keeps σ s) (he : State.unitRead s unit p c a n = (r, r2, t)) :
    Keeps σ t := by
  have := State.unitRead_keeps s unit p c a n hk; rw [he] at this; exact this

theorem State.start_keeps {σ : State} (s : State) (c : Nat) (eng : Engine) (e : QEntry) (f : Finish) (hk : Keeps σ s) :
    Keeps σ (State.start s c eng e f) := by
  unfold State.start
  repeat' first
    | with_reducible assumption
    | (with_reducible apply State.updCore_keeps)

theorem State.finish_keeps {σ : State} (s : State) (c : Nat) (e : QEntry) (hk : Keeps σ s) :
    Keeps σ (State.finish s c e) := by
  unfold State.finish
  repeat' first
    | with_reducible assumption
    | (with_reducible apply State.updCore_keeps)

theorem State.failCmd_keeps {σ : State} (s : State) (c : Nat) (eng : Engine) (e : QEntry) (x : Bad) (hk : Keeps σ s) :
    Keeps σ (State.failCmd s c eng e x) := by
  unfold State.failCmd
  repeat' first
    | with_reducible assumption
    | (with_reducible apply State.updCore_keeps)
    | (with_reducible apply State.coreFault_keeps)
    | (with_reducible apply State.sliceFault_keeps)
    | split

theorem State.endIssued_keeps {σ : State} (s : State) (c : Nat) (i : Issued) (st : CmdEnd) (hk : Keeps σ s) :
    Keeps σ (State.endIssued s c i st) := by
  unfold State.endIssued
  repeat' first
    | with_reducible assumption
    | (with_reducible apply State.updCore_keeps)

theorem State.finishIssued_keeps {σ : State} (s : State) (c : Nat) (i : Issued) (hk : Keeps σ s) :
    Keeps σ (State.finishIssued s c i) := by
  unfold State.finishIssued
  repeat' first
    | with_reducible assumption
    | (with_reducible apply State.endIssued_keeps)

theorem State.setAcb_keeps {σ : State} (s : State) (c : Nat) (half : Fin 2) (h : AcbHalf) (hk : Keeps σ s) :
    Keeps σ (State.setAcb s c half h) := by
  unfold State.setAcb
  repeat' first
    | with_reducible assumption
    | (with_reducible apply State.updCore_keeps)

theorem State.meEvents_keeps {σ : State} (s : State) (c : Nat) (sat poison : Bool) (hk : Keeps σ s) :
    Keeps σ (State.meEvents s c sat poison) := by
  unfold State.meEvents
  repeat' first
    | with_reducible assumption
    | (with_reducible apply State.setBit_keeps)
    | split

theorem State.runWs_keeps {σ : State} (s : State) (c : Nat) (x : MxWs) (cores : List (Nat × MxWs × Nat)) (hk : Keeps σ s) :
    Keeps σ (State.runWs s c x cores) := by
  unfold State.runWs
  repeat' first
    | with_reducible assumption
    | (with_reducible apply State.setAcb_keeps)
    | (with_reducible apply State.meEvents_keeps)
    | (with_reducible refine Keeps.foldl _ (fun t a ht => ?_) ?_)

theorem State.runOs_keeps {σ : State} (s : State) (c : Nat) (x : MxOs) (west : Nat) (xa : MxOs) (north : Nat) (xb : MxOs) (hk : Keeps σ s) :
    Keeps σ (State.runOs s c x west xa north xb) := by
  unfold State.runOs
  repeat' first
    | with_reducible assumption
    | (with_reducible apply State.setAcb_keeps)
    | (with_reducible apply State.meEvents_keeps)

theorem State.feed_keeps {σ : State} (s : State) (c : Nat) (rs : List (Nat × Nat)) (hk : Keeps σ s) :
    Keeps σ (State.feed s c rs) := by
  unfold State.feed
  repeat' first
    | with_reducible assumption
    | (with_reducible apply State.touchRanges_keeps)
    | (with_reducible apply State.meEvents_keeps)

theorem State.meEffect_keeps {σ : State} (s : State) (c : Nat) (cmd : ECmd) (hk : Keeps σ s) :
    Keeps σ (State.meEffect s c cmd) := by
  unfold State.meEffect
  repeat' first
    | with_reducible assumption
    | (with_reducible apply State.updCore_keeps)
    | (with_reducible apply State.setAcb_keeps)
    | (with_reducible apply State.runWs_keeps)
    | (with_reducible apply State.runOs_keeps)
    | (with_reducible apply State.feed_keeps)
    | split

theorem State.copyFails_keeps {σ : State} (s : State) (c : Nat) (hk : Keeps σ s) :
    Keeps σ (State.copyFails s c) := by
  unfold State.copyFails
  repeat' first
    | with_reducible assumption
    | (with_reducible apply State.coreFault_keeps)
    | (with_reducible apply State.endIssued_keeps)
    | split

theorem State.sheetRun_keeps {σ : State} (s : State) (d : Word) (hk : Keeps σ s) :
    Keeps σ (State.sheetRun s d) := by
  unfold State.sheetRun
  repeat' first
    | with_reducible assumption
    | (with_reducible apply State.updCore_keeps)
    | (with_reducible apply State.meEffect_keeps)
    | (with_reducible apply State.copyFails_keeps)
    | (with_reducible refine Keeps.foldl _ (fun t a ht => ?_) ?_)
    | split
    | ((try lift_lets); intro x; revert x; refine Keeps.letS (r := σ) ?_ (fun x hx => ?_))

theorem State.meTurn_keeps {σ : State} (s : State) (c : Nat) (hk : Keeps σ s) :
    Keeps σ (State.meTurn s c) := by
  unfold State.meTurn
  repeat' first
    | with_reducible assumption
    | (with_reducible apply State.updCore_keeps)
    | split

theorem State.issueMe_keeps {σ : State} (s : State) (c : Nat) (e : QEntry) (hk : Keeps σ s) :
    Keeps σ (State.issueMe s c e) := by
  unfold State.issueMe
  repeat' first
    | with_reducible assumption
    | (with_reducible apply State.updCore_keeps)
    | (with_reducible apply State.start_keeps)
    | (with_reducible apply State.failCmd_keeps)
    | (with_reducible apply State.meEffect_keeps)
    | (with_reducible apply State.sheetRun_keeps)
    | split

theorem State.issueMx_keeps {σ : State} (s : State) (c : Nat) (e : QEntry) (bad : Option Nat) (hk : Keeps σ s) :
    Keeps σ (State.issueMx s c e bad) := by
  unfold State.issueMx
  repeat' first
    | with_reducible assumption
    | (with_reducible apply State.failCmd_keeps)
    | (with_reducible apply State.meTurn_keeps)
    | (with_reducible apply State.issueMe_keeps)
    | split

theorem State.issueMxLoad_keeps {σ : State} (s : State) (c : Nat) (e : QEntry) (x : MxLoad) (hk : Keeps σ s) :
    Keeps σ (State.issueMxLoad s c e x) := by
  unfold State.issueMxLoad
  repeat' first
    | with_reducible assumption
    | (with_reducible apply State.issueMx_keeps)

theorem State.issueMxWs_keeps {σ : State} (s : State) (c : Nat) (e : QEntry) (x : MxWs) (hk : Keeps σ s) :
    Keeps σ (State.issueMxWs s c e x) := by
  unfold State.issueMxWs
  repeat' first
    | with_reducible assumption
    | (with_reducible apply State.start_keeps)
    | (with_reducible apply State.meTurn_keeps)
    | (with_reducible apply State.issueMx_keeps)
    | split

theorem State.issueMxOs_keeps {σ : State} (s : State) (c : Nat) (e : QEntry) (x : MxOs) (hk : Keeps σ s) :
    Keeps σ (State.issueMxOs s c e x) := by
  unfold State.issueMxOs
  repeat' first
    | with_reducible assumption
    | (with_reducible apply State.start_keeps)
    | (with_reducible apply State.meTurn_keeps)
    | (with_reducible apply State.issueMx_keeps)
    | split

theorem State.issueMxClear_keeps {σ : State} (s : State) (c : Nat) (e : QEntry) (hk : Keeps σ s) :
    Keeps σ (State.issueMxClear s c e) := by
  unfold State.issueMxClear
  repeat' first
    | with_reducible assumption
    | (with_reducible apply State.issueMx_keeps)

theorem State.joinFails_keeps {σ : State} (s : State) (c : Nat) (hk : Keeps σ s) :
    Keeps σ (State.joinFails s c) := by
  unfold State.joinFails
  repeat' first
    | with_reducible assumption
    | (with_reducible apply State.coreFault_keeps)
    | (with_reducible apply State.endIssued_keeps)
    | split

theorem State.joinDone_keeps {σ : State} (s : State) (c : Nat) (hk : Keeps σ s) :
    Keeps σ (State.joinDone s c) := by
  unfold State.joinDone
  repeat' first
    | with_reducible assumption
    | (with_reducible apply State.updCore_keeps)
    | split

theorem State.compare_keeps {σ : State} (s : State) (c : Nat) (hk : Keeps σ s) :
    Keeps σ (State.compare s c) := by
  unfold State.compare
  repeat' first
    | with_reducible assumption
    | (with_reducible apply State.updCore_keeps)
    | (with_reducible apply State.joinFails_keeps)
    | (with_reducible apply State.joinDone_keeps)
    | split
    | ((try lift_lets); intro x; revert x; refine Keeps.letS (r := σ) ?_ (fun x hx => ?_))

theorem State.meet_keeps {σ : State} (s : State) (c : Nat) (d : Word) (hk : Keeps σ s) :
    Keeps σ (State.meet s c d) := by
  unfold State.meet
  repeat' first
    | with_reducible assumption
    | (with_reducible apply State.updCore_keeps)
    | (with_reducible apply State.compare_keeps)
    | (with_reducible refine Keeps.foldl _ (fun t a ht => ?_) ?_)

theorem State.issueMxSheet_keeps {σ : State} (s : State) (c : Nat) (e : QEntry) (sid : Fin 4) (hk : Keeps σ s) :
    Keeps σ (State.issueMxSheet s c e sid) := by
  unfold State.issueMxSheet
  repeat' first
    | with_reducible assumption
    | (with_reducible apply State.updCore_keeps)
    | (with_reducible apply State.start_keeps)
    | (with_reducible apply State.failCmd_keeps)
    | (with_reducible apply State.meet_keeps)
    | split
    | ((try lift_lets); intro x; revert x; refine Keeps.letS (r := σ) ?_ (fun x hx => ?_))

theorem State.issueMxSheetOff_keeps {σ : State} (s : State) (c : Nat) (e : QEntry) (hk : Keeps σ s) :
    Keeps σ (State.issueMxSheetOff s c e) := by
  unfold State.issueMxSheetOff
  repeat' first
    | with_reducible assumption
    | (with_reducible apply State.updCore_keeps)
    | (with_reducible apply State.start_keeps)
    | (with_reducible apply State.failCmd_keeps)
    | split

theorem State.veEvents_keeps {σ : State} (s : State) (c : Nat) (e : VEvt) (hk : Keeps σ s) :
    Keeps σ (State.veEvents s c e) := by
  unfold State.veEvents
  repeat' first
    | with_reducible assumption
    | (with_reducible apply State.bumpN_keeps)

theorem State.vOut_keeps {σ : State} (s : State) (c : Nat) (op : VOp) (x : VCtx) (mz : Bool) (count : Nat → BitVec 40) (row : Nat → Nat → VOut) (rows : Nat) (hk : Keeps σ s) :
    Keeps σ (State.vOut s c op x mz count row rows) := by
  unfold State.vOut
  repeat' first
    | with_reducible assumption
    | (with_reducible apply State.updCore_keeps)
    | (with_reducible apply State.writeHalf_keeps)
    | (with_reducible apply State.writeAt_keeps)
    | (with_reducible apply State.setAcb_keeps)
    | (with_reducible apply State.veEvents_keeps)
    | split

theorem State.vOut1_keeps {σ : State} (s : State) (c : Nat) (op : VOp) (x : VCtx) (mz : Bool) (row : Nat → Nat → VOut) (rows : Nat) (hk : Keeps σ s) :
    Keeps σ (State.vOut1 s c op x mz row rows) := by
  unfold State.vOut1
  repeat' first
    | with_reducible assumption
    | (with_reducible apply State.updCore_keeps)
    | (with_reducible apply State.vOut_keeps)

theorem State.veReads_keeps {σ : State} (s : State) (c : Nat) (rs : List (Nat × Nat)) (hk : Keeps σ s) :
    Keeps σ (State.veReads s c rs) := by
  unfold State.veReads
  repeat' first
    | with_reducible assumption
    | (with_reducible apply State.setBit_keeps)
    | (with_reducible apply State.touchRanges_keeps)
    | split

theorem State.issueVxRun_keeps {σ : State} (s : State) (c : Nat) (e : QEntry) (x : VxRun) (hk : Keeps σ s) :
    Keeps σ (State.issueVxRun s c e x) := by
  unfold State.issueVxRun
  repeat' first
    | with_reducible assumption
    | (with_reducible apply State.updCore_keeps)
    | (with_reducible apply State.start_keeps)
    | (with_reducible apply State.failCmd_keeps)
    | (with_reducible apply State.veEvents_keeps)
    | (with_reducible apply State.vOut_keeps)
    | (with_reducible apply State.veReads_keeps)
    | split
    | ((try lift_lets); intro x; revert x; refine Keeps.letS (r := σ) ?_ (fun x hx => ?_))

theorem State.issueVxLd_keeps {σ : State} (s : State) (c : Nat) (e : QEntry) (vd : VReg) (src : VOp) (hk : Keeps σ s) :
    Keeps σ (State.issueVxLd s c e vd src) := by
  unfold State.issueVxLd
  repeat' first
    | with_reducible assumption
    | (with_reducible apply State.updCore_keeps)
    | (with_reducible apply State.start_keeps)
    | (with_reducible apply State.failCmd_keeps)
    | (with_reducible apply State.veReads_keeps)
    | split

theorem State.issueVxSt_keeps {σ : State} (s : State) (c : Nat) (e : QEntry) (x : Fin 8) (mz : Bool) (vs : VReg) (dst : VOp) (m : VMask) (hk : Keeps σ s) :
    Keeps σ (State.issueVxSt s c e x mz vs dst m) := by
  unfold State.issueVxSt
  repeat' first
    | with_reducible assumption
    | (with_reducible apply State.start_keeps)
    | (with_reducible apply State.failCmd_keeps)
    | (with_reducible apply State.vOut1_keeps)
    | (with_reducible apply State.veReads_keeps)
    | split

theorem State.issueVxFill_keeps {σ : State} (s : State) (c : Nat) (e : QEntry) (vd : VReg) (f : Core → Nat → Elt) (hk : Keeps σ s) :
    Keeps σ (State.issueVxFill s c e vd f) := by
  unfold State.issueVxFill
  repeat' first
    | with_reducible assumption
    | (with_reducible apply State.updCore_keeps)
    | (with_reducible apply State.start_keeps)

theorem State.issueVxCtx_keeps {σ : State} (s : State) (c : Nat) (e : QEntry) (x : Fin 8) (lo hi erow key : Word) (hk : Keeps σ s) :
    Keeps σ (State.issueVxCtx s c e x lo hi erow key) := by
  unfold State.issueVxCtx
  repeat' first
    | with_reducible assumption
    | (with_reducible apply State.updCore_keeps)
    | (with_reducible apply State.start_keeps)

theorem State.issueVxRed_keeps {σ : State} (s : State) (c : Nat) (e : QEntry) (x : VxRed) (hk : Keeps σ s) :
    Keeps σ (State.issueVxRed s c e x) := by
  unfold State.issueVxRed
  repeat' first
    | with_reducible assumption
    | (with_reducible apply State.setCore_keeps)
    | (with_reducible apply State.start_keeps)
    | (with_reducible apply State.failCmd_keeps)
    | (with_reducible apply State.veEvents_keeps)
    | (with_reducible apply State.veReads_keeps)
    | split
    | ((try lift_lets); intro x; revert x; refine Keeps.letS (r := σ) ?_ (fun x hx => ?_))

theorem State.issueVxScan_keeps {σ : State} (s : State) (c : Nat) (e : QEntry) (x : VxScan) (hk : Keeps σ s) :
    Keeps σ (State.issueVxScan s c e x) := by
  unfold State.issueVxScan
  repeat' first
    | with_reducible assumption
    | (with_reducible apply State.start_keeps)
    | (with_reducible apply State.failCmd_keeps)
    | (with_reducible apply State.veEvents_keeps)
    | (with_reducible apply State.vOut1_keeps)
    | (with_reducible apply State.veReads_keeps)
    | split
    | ((try lift_lets); intro x; revert x; refine Keeps.letS (r := σ) ?_ (fun x hx => ?_))

theorem State.issueVxSmStat_keeps {σ : State} (s : State) (c : Nat) (e : QEntry) (vm vs : VReg) (src : VOp) (rows : Word) (m : VMask) (hk : Keeps σ s) :
    Keeps σ (State.issueVxSmStat s c e vm vs src rows m) := by
  unfold State.issueVxSmStat
  repeat' first
    | with_reducible assumption
    | (with_reducible apply State.setCore_keeps)
    | (with_reducible apply State.start_keeps)
    | (with_reducible apply State.failCmd_keeps)
    | (with_reducible apply State.veEvents_keeps)
    | (with_reducible apply State.veReads_keeps)
    | split
    | ((try lift_lets); intro x; revert x; refine Keeps.letS (r := σ) ?_ (fun x hx => ?_))

theorem State.issueVxSmMerge_keeps {σ : State} (s : State) (c : Nat) (e : QEntry) (vm vs vm2 vs2 va1 va2 : VReg) (hk : Keeps σ s) :
    Keeps σ (State.issueVxSmMerge s c e vm vs vm2 vs2 va1 va2) := by
  unfold State.issueVxSmMerge
  repeat' first
    | with_reducible assumption
    | (with_reducible apply State.setCore_keeps)
    | (with_reducible apply State.start_keeps)
    | (with_reducible apply State.veEvents_keeps)

theorem State.issueVxSmNorm_keeps {σ : State} (s : State) (c : Nat) (e : QEntry) (dst src : VOp) (vm vs : VReg) (rows : Word) (m : VMask) (hk : Keeps σ s) :
    Keeps σ (State.issueVxSmNorm s c e dst src vm vs rows m) := by
  unfold State.issueVxSmNorm
  repeat' first
    | with_reducible assumption
    | (with_reducible apply State.start_keeps)
    | (with_reducible apply State.failCmd_keeps)
    | (with_reducible apply State.veEvents_keeps)
    | (with_reducible apply State.vOut1_keeps)
    | (with_reducible apply State.veReads_keeps)
    | split
    | ((try lift_lets); intro x; revert x; refine Keeps.letS (r := σ) ?_ (fun x hx => ?_))

theorem State.issueVxSmFinal_keeps {σ : State} (s : State) (c : Nat) (e : QEntry) (dst src : VOp) (vs : VReg) (rows : Word) (hk : Keeps σ s) :
    Keeps σ (State.issueVxSmFinal s c e dst src vs rows) := by
  unfold State.issueVxSmFinal
  repeat' first
    | with_reducible assumption
    | (with_reducible apply State.start_keeps)
    | (with_reducible apply State.failCmd_keeps)
    | (with_reducible apply State.veEvents_keeps)
    | (with_reducible apply State.vOut1_keeps)
    | (with_reducible apply State.veReads_keeps)
    | split
    | ((try lift_lets); intro x; revert x; refine Keeps.letS (r := σ) ?_ (fun x hx => ?_))

theorem State.issueVxSmLse_keeps {σ : State} (s : State) (c : Nat) (e : QEntry) (vd vm vs : VReg) (hk : Keeps σ s) :
    Keeps σ (State.issueVxSmLse s c e vd vm vs) := by
  unfold State.issueVxSmLse
  repeat' first
    | with_reducible assumption
    | (with_reducible apply State.updCore_keeps)
    | (with_reducible apply State.start_keeps)
    | (with_reducible apply State.veEvents_keeps)

theorem State.offer_keeps {σ : State} (s : State) (p : Packet) (hk : Keeps σ s) :
    Keeps σ (State.offer s p) := by
  unfold State.offer
  repeat' first
    | with_reducible assumption
    | ((try lift_lets); intro x; revert x; refine Keeps.letS (r := σ) ?_ (fun x hx => ?_))
    | (fail_if_no_progress ((with_reducible refine Keeps.mk ?_ ?_ ?_ ?_ ?_ ?_) <;> [skip; rfl; rfl; rfl; rfl; rfl]))

theorem State.issueVxDigPost_keeps {σ : State} (s : State) (c : Nat) (e : QEntry) (n : Fin 8) (layer tensor : BitVec 16) (hk : Keeps σ s) :
    Keeps σ (State.issueVxDigPost s c e n layer tensor) := by
  unfold State.issueVxDigPost
  repeat' first
    | with_reducible assumption
    | (with_reducible apply State.updCore_keeps)
    | (with_reducible apply State.start_keeps)
    | (with_reducible apply State.offer_keeps)

theorem State.setRouter_keeps {σ : State} (s : State) (px py : Nat) (r : Router) (hk : Keeps σ s) :
    Keeps σ (State.setRouter s px py r) := by
  unfold State.setRouter
  repeat' first
    | with_reducible assumption
    | ((try lift_lets); intro x; revert x; refine Keeps.letS (r := σ) ?_ (fun x hx => ?_))
    | (fail_if_no_progress ((with_reducible refine Keeps.mk ?_ ?_ ?_ ?_ ?_ ?_) <;> [skip; rfl; rfl; rfl; rfl; rfl]))

theorem State.setWaiting_keeps {σ : State} (s : State) (ep : Nat) (q : List Packet) (hk : Keeps σ s) :
    Keeps σ (State.setWaiting s ep q) := by
  unfold State.setWaiting
  repeat' first
    | with_reducible assumption
    | ((try lift_lets); intro x; revert x; refine Keeps.letS (r := σ) ?_ (fun x hx => ?_))
    | (fail_if_no_progress ((with_reducible refine Keeps.mk ?_ ?_ ?_ ?_ ?_ ?_) <;> [skip; rfl; rfl; rfl; rfl; rfl]))

theorem State.setOutst_keeps {σ : State} (s : State) (ep n : Nat) (hk : Keeps σ s) :
    Keeps σ (State.setOutst s ep n) := by
  unfold State.setOutst
  repeat' first
    | with_reducible assumption
    | ((try lift_lets); intro x; revert x; refine Keeps.letS (r := σ) ?_ (fun x hx => ?_))
    | (fail_if_no_progress ((with_reducible refine Keeps.mk ?_ ?_ ?_ ?_ ?_ ?_) <;> [skip; rfl; rfl; rfl; rfl; rfl]))

theorem State.setMail_keeps {σ : State} (s : State) (ep : Nat) (q : List Packet) (hk : Keeps σ s) :
    Keeps σ (State.setMail s ep q) := by
  unfold State.setMail
  repeat' first
    | with_reducible assumption
    | ((try lift_lets); intro x; revert x; refine Keeps.letS (r := σ) ?_ (fun x hx => ?_))
    | (fail_if_no_progress ((with_reducible refine Keeps.mk ?_ ?_ ?_ ?_ ?_ ?_) <;> [skip; rfl; rfl; rfl; rfl; rfl]))

theorem State.ejected_keeps {σ : State} (s : State) (p : Packet) (hk : Keeps σ s) :
    Keeps σ (State.ejected s p) := by
  unfold State.ejected
  repeat' first
    | with_reducible assumption
    | ((try lift_lets); intro x; revert x; refine Keeps.letS (r := σ) ?_ (fun x hx => ?_))
    | (fail_if_no_progress ((with_reducible refine Keeps.mk ?_ ?_ ?_ ?_ ?_ ?_) <;> [skip; rfl; rfl; rfl; rfl; rfl]))

theorem State.place_keeps {σ : State} {s : State} {px py : Nat} {p : Packet} {ejects : Nat} {u : State} {m : Nat} (h : Keeps σ s)
    (e : s.place px py p ejects = some (u, m)) : Keeps σ u := by
  unfold State.place at e
  dsimp only at e
  split at e
  · cases e; exact State.ejected_keeps _ _ h
  · split at e
    · cases e; exact State.setRouter_keeps _ _ _ _ h
    · cases e

theorem State.placeAll_keeps {σ : State} (s : State) (px py : Nat) (l : List (Nat × Packet)) (n : Nat) (h : Keeps σ s) :
    Keeps σ (s.placeAll px py l n).1 := by
  induction l generalizing s n with
  | nil => exact h
  | cons x r ih =>
    unfold State.placeAll
    dsimp only
    split
    · exact ih _ _ (State.place_keeps (State.setRouter_keeps _ _ _ _ h) (by assumption))
    · exact ih _ _ h

theorem State.inject_keeps {σ : State} (s : State) (px py ejects : Nat) (hk : Keeps σ s) :
    Keeps σ (State.inject s px py ejects) := by
  unfold State.inject
  repeat' first
    | with_reducible assumption
    | (with_reducible apply State.wr_keeps)
    | (with_reducible apply State.setRouter_keeps)
    | (with_reducible apply State.setWaiting_keeps)
    | (with_reducible apply State.setOutst_keeps)
    | (refine State.place_keeps (e := by assumption) ?_)
    | split

theorem State.drain_keeps {σ : State} (s : State) (px py : Nat) (hk : Keeps σ s) :
    Keeps σ (State.drain s px py) := by
  unfold State.drain
  repeat' first
    | with_reducible assumption
    | (with_reducible apply State.setRouter_keeps)
    | (with_reducible refine Keeps.foldl _ (fun t a ht => ?_) ?_)
    | split
    | ((try lift_lets); intro x; revert x; refine Keeps.letS (r := σ) ?_ (fun x hx => ?_))

theorem State.driftUpset_keeps {σ : State} (s : State) (px py : Nat) (u : DriftUpset) (hk : Keeps σ s) :
    Keeps σ (State.driftUpset s px py u) := by
  unfold State.driftUpset
  repeat' first
    | with_reducible assumption
    | (with_reducible apply State.setBit_keeps)
    | (with_reducible apply State.bump_keeps)
    | (with_reducible apply State.event_keeps)
    | (with_reducible apply State.alert_keeps)
    | (with_reducible apply State.failBeat_keeps)
    | (with_reducible apply State.setRouter_keeps)
    | split
    | ((try lift_lets); intro x; revert x; refine Keeps.letS (r := σ) ?_ (fun x hx => ?_))
    | (fail_if_no_progress ((with_reducible refine Keeps.mk ?_ ?_ ?_ ?_ ?_ ?_) <;> [skip; rfl; rfl; rfl; rfl; rfl]))

theorem State.answer_keeps {σ : State} (s : State) (p : Packet) (hk : Keeps σ s) :
    Keeps σ (State.answer s p) := by
  unfold State.answer
  repeat' first
    | with_reducible assumption
    | (with_reducible apply State.offer_keeps)
    | split

theorem State.closeRequest_keeps {σ : State} (s : State) (ep : Nat) (hk : Keeps σ s) :
    Keeps σ (State.closeRequest s ep) := by
  unfold State.closeRequest
  repeat' first
    | with_reducible assumption
    | (with_reducible apply State.setOutst_keeps)
    | split

theorem State.apply_keeps {σ : State} (s : State) (p : Packet) (hk : Keeps σ s) :
    Keeps σ (State.apply s p) := by
  unfold State.apply
  repeat' first
    | with_reducible assumption
    | (with_reducible apply State.answer_keeps)
    | (with_reducible apply State.closeRequest_keeps)
    | split

theorem State.takeMail_keeps {σ : State} {s : State} {ep : Nat} {p : Packet} {t : State} (h : Keeps σ s) (e : s.takeMail ep = some (p, t)) :
    Keeps σ t := by
  unfold State.takeMail at e
  split at e
  · cases e
  · cases e; exact State.answer_keeps _ _ (State.setMail_keeps _ _ _ h)

theorem State.takeEarly_keeps {σ : State} (s : State) (key n : Nat) (h : Keeps σ s) : Keeps σ (s.takeEarly key n) := by
  induction n generalizing s with
  | zero => exact h
  | succ n ih =>
    unfold State.takeEarly
    dsimp only
    split
    · exact h
    · exact ih _ (State.apply_keeps _ _ (Keeps.mk h rfl rfl rfl rfl rfl))

theorem State.holdEarly_keeps {σ : State} (s : State) (p : Packet) (hk : Keeps σ s) :
    Keeps σ (State.holdEarly s p) := by
  unfold State.holdEarly
  repeat' first
    | with_reducible assumption
    | (with_reducible apply State.takeEarly_keeps)
    | ((try lift_lets); intro x; revert x; refine Keeps.letS (r := σ) ?_ (fun x hx => ?_))
    | (fail_if_no_progress ((with_reducible refine Keeps.mk ?_ ?_ ?_ ?_ ?_ ?_) <;> [skip; rfl; rfl; rfl; rfl; rfl]))

theorem State.setRing_keeps {σ : State} (s : State) (n : Nat) (r : List RingCmd) (hk : Keeps σ s) :
    Keeps σ (State.setRing s n r) := by
  unfold State.setRing
  repeat' first
    | with_reducible assumption
    | (fail_if_no_progress ((with_reducible refine Keeps.mk ?_ ?_ ?_ ?_ ?_ ?_) <;> [skip; rfl; rfl; rfl; rfl; rfl]))

theorem State.refuseWrite_keeps {σ : State} (s : State) (o : Origin) (a : Nat) (v : Word) (hk : Keeps σ s) :
    Keeps σ (State.refuseWrite s o a v) := by
  unfold State.refuseWrite
  repeat' first
    | with_reducible assumption
    | (with_reducible apply State.log_keeps)

theorem State.logWrite_keeps {σ : State} (s : State) (o : Origin) (a : Nat) (old new : Word) (hk : Keeps σ s) :
    Keeps σ (State.logWrite s o a old new) := by
  unfold State.logWrite
  repeat' first
    | with_reducible assumption
    | (with_reducible apply State.log_keeps)
    | split

theorem State.writeTyped_keeps {σ : State} (s : State) (o : Origin) (a : Nat) (v : Word) (hk : Keeps σ s) :
    Keeps σ (State.writeTyped s o a v) := by
  unfold State.writeTyped
  repeat' first
    | with_reducible assumption
    | (with_reducible apply State.wr_keeps)
    | (with_reducible apply State.refuseWrite_keeps)
    | (with_reducible apply State.logWrite_keeps)
    | split

theorem State.dgBad_keeps {σ : State} (s : State) (period : Nat) (hk : Keeps σ s) :
    Keeps σ (State.dgBad s period) := by
  unfold State.dgBad
  repeat' first
    | with_reducible assumption
    | (with_reducible apply State.setBit_keeps)
    | ((try lift_lets); intro x; revert x; refine Keeps.letS (r := σ) ?_ (fun x hx => ?_))
    | (fail_if_no_progress ((with_reducible refine Keeps.mk ?_ ?_ ?_ ?_ ?_ ?_) <;> [skip; rfl; rfl; rfl; rfl; rfl]))

theorem State.dgPost_keeps {σ : State} (s : State) (period group layer tensor : Nat) (digest : DWord) (hk : Keeps σ s) :
    Keeps σ (State.dgPost s period group layer tensor digest) := by
  unfold State.dgPost
  repeat' first
    | with_reducible assumption
    | (with_reducible apply State.dgBad_keeps)
    | split
    | ((try lift_lets); intro x; revert x; refine Keeps.letS (r := σ) ?_ (fun x hx => ?_))
    | (fail_if_no_progress ((with_reducible refine Keeps.mk ?_ ?_ ?_ ?_ ?_ ?_) <;> [skip; rfl; rfl; rfl; rfl; rfl]))

theorem State.dgRecord_keeps {σ : State} (s : State) (r : DgRec) (hk : Keeps σ s) :
    Keeps σ (State.dgRecord s r) := by
  unfold State.dgRecord
  repeat' first
    | with_reducible assumption
    | (with_reducible apply State.wr_keeps)
    | (with_reducible apply State.setBit_keeps)
    | (with_reducible apply State.bump_keeps)
    | split
    | ((try lift_lets); intro x; revert x; refine Keeps.letS (r := σ) ?_ (fun x hx => ?_))
    | (fail_if_no_progress ((with_reducible refine Keeps.mk ?_ ?_ ?_ ?_ ?_ ?_) <;> [skip; rfl; rfl; rfl; rfl; rfl]))

theorem State.dgBoundary_keeps {σ : State} (s : State) (failed : Bool) (hk : Keeps σ s) :
    Keeps σ (State.dgBoundary s failed) := by
  unfold State.dgBoundary
  repeat' first
    | with_reducible assumption
    | (with_reducible apply State.dgRecord_keeps)
    | (with_reducible refine Keeps.foldl _ (fun t a ht => ?_) ?_)
    | split
    | ((try lift_lets); intro x; revert x; refine Keeps.letS (r := σ) ?_ (fun x hx => ?_))
    | (fail_if_no_progress ((with_reducible refine Keeps.mk ?_ ?_ ?_ ?_ ?_ ?_) <;> [skip; rfl; rfl; rfl; rfl; rfl]))

theorem State.updEnt_keeps {σ : State} (s : State) (i : Nat) (f : Ent → Ent) (hk : Keeps σ s) :
    Keeps σ (State.updEnt s i f) := by
  unfold State.updEnt
  repeat' first
    | with_reducible assumption
    | (with_reducible apply State.setEnt_keeps)

theorem State.setSess_keeps {σ : State} (s : State) (i : Nat) (x : Option Sess) (hk : Keeps σ s) :
    Keeps σ (State.setSess s i x) := by
  unfold State.setSess
  repeat' first
    | with_reducible assumption
    | (fail_if_no_progress ((with_reducible refine Keeps.mk ?_ ?_ ?_ ?_ ?_ ?_) <;> [skip; rfl; rfl; rfl; rfl; rfl]))

theorem State.carry_keeps {σ : State} (s : State) (w : Egress) (hk : Keeps σ s) :
    Keeps σ (State.carry s w) := by
  unfold State.carry
  repeat' first
    | with_reducible assumption
    | (with_reducible apply State.bump_keeps)
    | split
    | ((try lift_lets); intro x; revert x; refine Keeps.letS (r := σ) ?_ (fun x hx => ?_))
    | (fail_if_no_progress ((with_reducible refine Keeps.mk ?_ ?_ ?_ ?_ ?_ ?_) <;> [skip; rfl; rfl; rfl; rfl; rfl]))

theorem State.emitMsg_keeps {σ : State} (s0 : State) (x : Sess) (m : OutMsg) (retry : Bool) (hk : Keeps σ s0) :
    Keeps σ (State.emitMsg s0 x m retry) := by
  unfold State.emitMsg
  repeat' first
    | with_reducible assumption
    | (with_reducible apply State.carry_keeps)
    | ((try lift_lets); intro x; revert x; refine Keeps.letS (r := σ) ?_ (fun x hx => ?_))
    | (fail_if_no_progress ((with_reducible refine Keeps.mk ?_ ?_ ?_ ?_ ?_ ?_) <;> [skip; rfl; rfl; rfl; rfl; rfl]))

theorem State.emitAck_keeps {σ : State} (s0 : State) (x : Sess) (hk : Keeps σ s0) :
    Keeps σ (State.emitAck s0 x) := by
  unfold State.emitAck
  repeat' first
    | with_reducible assumption
    | (with_reducible apply State.carry_keeps)
    | ((try lift_lets); intro x; revert x; refine Keeps.letS (r := σ) ?_ (fun x hx => ?_))
    | (fail_if_no_progress ((with_reducible refine Keeps.mk ?_ ?_ ?_ ?_ ?_ ?_) <;> [skip; rfl; rfl; rfl; rfl; rfl]))

theorem State.pump_keeps {σ : State} (s : State) (i : Nat) (l : List OutMsg) (h : Keeps σ s) : Keeps σ (s.pump i l) := by
  induction l generalizing s with
  | nil => exact h
  | cons m r ih =>
    unfold State.pump
    split
    · split
      · exact ih _ (State.emitMsg_keeps _ _ _ _ (State.setSess_keeps _ _ _ h))
      · exact h
    · exact h

theorem State.sendTo_keeps {σ : State} (s : State) (i : Nat) (m : OutMsg) (hk : Keeps σ s) :
    Keeps σ (State.sendTo s i m) := by
  unfold State.sendTo
  repeat' first
    | with_reducible assumption
    | (with_reducible apply State.setSess_keeps)
    | (with_reducible apply State.pump_keeps)
    | split

theorem State.send_keeps {σ : State} (s : State) (uid kind : Nat) (body : List Byte) (hk : Keeps σ s) :
    Keeps σ (State.send s uid kind body) := by
  unfold State.send
  repeat' first
    | with_reducible assumption
    | (with_reducible apply State.sendTo_keeps)
    | split

theorem State.complete_keeps {σ : State} (s : State) (uid : Nat) (tag : Word) (op status code entry arg : Nat) (hk : Keeps σ s) :
    Keeps σ (State.complete s uid tag op status code entry arg) := by
  unfold State.complete
  repeat' first
    | with_reducible assumption
    | (with_reducible apply State.send_keeps)

theorem State.dropRecord_keeps {σ : State} (s : State) (e : Nat) (hk : Keeps σ s) :
    Keeps σ (State.dropRecord s e) := by
  unfold State.dropRecord
  repeat' first
    | with_reducible assumption
    | (with_reducible apply State.setBit_keeps)
    | (with_reducible apply State.updEnt_keeps)

theorem State.sendToken_keeps {σ : State} (s : State) (uid ent : Nat) (tag : Word) (bno : BitVec 48) (pos : Nat) (fin fetched : Bool) (reason : Nat) (toks : List Word) (hk : Keeps σ s) :
    Keeps σ (State.sendToken s uid ent tag bno pos fin fetched reason toks) := by
  unfold State.sendToken
  repeat' first
    | with_reducible assumption
    | (with_reducible apply State.updEnt_keeps)
    | (with_reducible apply State.sendTo_keeps)
    | (with_reducible apply State.dropRecord_keeps)
    | split
    | ((try lift_lets); intro x; revert x; refine Keeps.letS (r := σ) ?_ (fun x hx => ?_))

theorem State.takeAck_keeps {σ : State} (s : State) (i : Nat) (ack : Word) (hk : Keeps σ s) :
    Keeps σ (State.takeAck s i ack) := by
  unfold State.takeAck
  repeat' first
    | with_reducible assumption
    | (with_reducible apply State.updEnt_keeps)
    | (with_reducible apply State.setSess_keeps)
    | (with_reducible apply State.pump_keeps)
    | (with_reducible refine Keeps.foldl _ (fun t a ht => ?_) ?_)
    | split
    | ((try lift_lets); intro x; revert x; refine Keeps.letS (r := σ) ?_ (fun x hx => ?_))

theorem State.discardHeld_keeps {σ : State} (s : State) (x : Sess) (hk : Keeps σ s) :
    Keeps σ (State.discardHeld s x) := by
  unfold State.discardHeld
  repeat' first
    | with_reducible assumption
    | (with_reducible apply State.dropRecord_keeps)
    | (with_reducible refine Keeps.foldl _ (fun t a ht => ?_) ?_)
    | ((try lift_lets); intro x; revert x; refine Keeps.letS (r := σ) ?_ (fun x hx => ?_))
    | (fail_if_no_progress ((with_reducible refine Keeps.mk ?_ ?_ ?_ ?_ ?_ ?_) <;> [skip; rfl; rfl; rfl; rfl; rfl]))

theorem State.openSess_keeps {σ : State} (s : State) (h : PctHdr) (k : Nat) (hk : Keeps σ s) :
    Keeps σ (State.openSess s h k) := by
  unfold State.openSess
  repeat' first
    | with_reducible assumption
    | (with_reducible apply State.setBit_keeps)
    | (with_reducible apply State.setSess_keeps)
    | (with_reducible apply State.emitAck_keeps)
    | (with_reducible apply State.discardHeld_keeps)
    | split
    | ((try lift_lets); intro x; revert x; refine Keeps.letS (r := σ) ?_ (fun x hx => ?_))
    | (fail_if_no_progress ((with_reducible refine Keeps.mk ?_ ?_ ?_ ?_ ?_ ?_) <;> [skip; rfl; rfl; rfl; rfl; rfl]))

theorem State.frameIn_keeps {σ : State} (s : State) (ep : Fin 8) (vlan : Option Nat) (hk : Keeps σ s) :
    Keeps σ (State.frameIn s ep vlan).1 := by
  unfold State.frameIn
  repeat' first
    | with_reducible assumption
    | (with_reducible apply State.bump_keeps)
    | split

theorem State.frameIn_keeps_eq {σ : State} {s : State} {ep : Fin 8} {vlan : Option Nat} {t : State} {r : Bool} (hk : Keeps σ s) (he : State.frameIn s ep vlan = (t, r)) :
    Keeps σ t := by
  have := State.frameIn_keeps s ep vlan hk; rw [he] at this; exact this

theorem State.pctIn_keeps {σ : State} (s : State) (h : PctHdr) (hk : Keeps σ s) :
    Keeps σ (State.pctIn s h).1 := by
  unfold State.pctIn
  repeat' first
    | with_reducible assumption
    | (with_reducible apply State.frameIn_keeps)

theorem State.pctIn_keeps_eq {σ : State} {s : State} {h : PctHdr} {t : State} {r : Bool} (hk : Keeps σ s) (he : State.pctIn s h = (t, r)) :
    Keeps σ t := by
  have := State.pctIn_keeps s h hk; rw [he] at this; exact this

theorem State.strangerAck_keeps {σ : State} (s : State) (h : PctHdr) (hk : Keeps σ s) :
    Keeps σ (State.strangerAck s h) := by
  unfold State.strangerAck
  repeat' first
    | with_reducible assumption
    | (with_reducible apply State.carry_keeps)
    | ((try lift_lets); intro x; revert x; refine Keeps.letS (r := σ) ?_ (fun x hx => ?_))
    | (fail_if_no_progress ((with_reducible refine Keeps.mk ?_ ?_ ?_ ?_ ?_ ?_) <;> [skip; rfl; rfl; rfl; rfl; rfl]))

theorem State.admitPct_keeps {σ : State} (s0 : State) (h : PctHdr) (hk : Keeps σ s0) :
    Keeps σ (State.admitPct s0 h).1 := by
  unfold State.admitPct
  repeat' first
    | with_reducible assumption
    | (with_reducible apply State.setBit_keeps)
    | (with_reducible apply State.bump_keeps)
    | (with_reducible apply State.takeAck_keeps)
    | (with_reducible apply State.openSess_keeps)
    | (with_reducible apply State.strangerAck_keeps)
    | (with_reducible apply State.pctIn_keeps)
    | split
    | ((try lift_lets); intro x; revert x; refine Keeps.letS (r := σ) ?_ (fun x hx => ?_))

theorem State.admitPct_keeps_eq {σ : State} {s0 : State} {h : PctHdr} {t : State} {r : Option Nat} (hk : Keeps σ s0) (he : State.admitPct s0 h = (t, r)) :
    Keeps σ t := by
  have := State.admitPct_keeps s0 h hk; rw [he] at this; exact this

theorem State.accept_keeps {σ : State} (s : State) (h : PctHdr) (hk : Keeps σ s) :
    Keeps σ (State.accept s h).1 := by
  unfold State.accept
  repeat' first
    | with_reducible assumption
    | (with_reducible apply State.setSess_keeps)
    | (with_reducible apply State.emitAck_keeps)
    | (refine State.admitPct_keeps_eq (he := by assumption) ?_)
    | split

theorem State.accept_keeps_eq {σ : State} {s : State} {h : PctHdr} {t : State} {r : Option (Nat × Sess)} (hk : Keeps σ s) (he : State.accept s h = (t, r)) :
    Keeps σ t := by
  have := State.accept_keeps s h hk; rw [he] at this; exact this

theorem State.closeSess_keeps {σ : State} (s : State) (i : Nat) (hk : Keeps σ s) :
    Keeps σ (State.closeSess s i) := by
  unfold State.closeSess
  repeat' first
    | with_reducible assumption
    | (with_reducible apply State.bump_keeps)
    | (with_reducible apply State.setSess_keeps)
    | (with_reducible apply State.discardHeld_keeps)
    | split
    | ((try lift_lets); intro x; revert x; refine Keeps.letS (r := σ) ?_ (fun x hx => ?_))
    | (fail_if_no_progress ((with_reducible refine Keeps.mk ?_ ?_ ?_ ?_ ?_ ?_) <;> [skip; rfl; rfl; rfl; rfl; rfl]))

theorem State.command_keeps {σ : State} (s : State) (h : PctHdr) (c : CmdHdr) (o : OpenOp) (hk : Keeps σ s) :
    Keeps σ (State.command s h c o).1 := by
  unfold State.command
  split
  · exact State.accept_keeps_eq hk (by assumption)
  · exact State.setSess_keeps _ _ _ (State.accept_keeps_eq hk (by assumption))

theorem State.command_keeps_eq {σ : State} {s : State} {h : PctHdr} {c : CmdHdr} {o : OpenOp} {t : State} {r : Option (Nat × Sess × OpenCmd)} (hk : Keeps σ s) (he : State.command s h c o = (t, r)) :
    Keeps σ t := by
  have := State.command_keeps s h c o hk; rw [he] at this; exact this

theorem State.manageCmd_keeps {σ : State} (s : State) (h : PctHdr) (c : CmdHdr) (o : OpenOp) (f : State → Nat → Origin → OpenCmd → State)
    (hf : ∀ t a b k, Keeps σ t → Keeps σ (f t a b k)) (hk : Keeps σ s) :
    Keeps σ (State.manageCmd s h c o f) := by
  unfold State.manageCmd
  split
  · exact State.command_keeps_eq hk (by assumption)
  · have k1 := State.command_keeps_eq hk (by assumption)
    split
    · exact State.complete_keeps _ _ _ _ _ _ _ _ k1
    · split
      · exact State.complete_keeps _ _ _ _ _ _ _ _ (State.log_keeps _ _ _ _ _ _ _ k1)
      · exact hf _ _ _ _ k1

theorem State.manage_keeps {σ : State} (s : State) (h : PctHdr) (c : CmdHdr) (op : Nat) (f : State → Nat → Origin → State) (hf : ∀ t a b, Keeps σ t → Keeps σ (f t a b)) (hk : Keeps σ s) :
    Keeps σ (State.manage s h c op f) :=
  State.manageCmd_keeps _ _ _ _ _ (fun t a b _ ht => hf t a b ht) hk

theorem State.managePlan_keeps {σ : State} (s : State) (h : PctHdr) (c : CmdHdr) (op : Nat) (b : BindBody) (keep : Word) (f : State → Nat → CmdHdr → BindBody → Word → State)
    (hf : ∀ t a c d w, Keeps σ t → Keeps σ (f t a c d w)) (hk : Keeps σ s) :
    Keeps σ (State.managePlan s h c op b keep f) := by
  refine State.manageCmd_keeps _ _ _ _ _ (fun t a _ k ht => ?_) hk
  split
  · exact hf _ _ _ _ _ ht
  · exact ht

end Sys2Proof.Machine
end

