-- ==== Sys2Proof/Laws/KeepsServe.lean ====
section
/-! SUPPORT. Each operation of Machine/Boot.lean, Clock.lean, JoinRun.lean, LpRun.lean, Pct.lean, Books.lean,
XbRun.lean, RtRun.lean, RtTable.lean keeps what `Keeps` says: one lemma per operation that answers a state. -/

namespace Sys2Proof.Machine

open Sys2Proof Sys2Proof.Laws

theorem State.wrFields_keeps {σ : State} (s : State) (a : Nat) (w : Word) (hk : Keeps σ s) :
    Keeps σ (State.wrFields s a w) := by
  unfold State.wrFields
  repeat' first
    | with_reducible assumption
    | (with_reducible apply State.wr_keeps)
    | split

theorem State.wrWords_keeps {σ : State} (s : State) (a : Nat) (ws : List Word) (h : Keeps σ s) : Keeps σ (s.wrWords a ws) := by
  induction ws generalizing s a with
  | nil => exact h
  | cons w r ih => exact ih _ _ (State.wrFields_keeps s a w h)

theorem State.applyConfig_keeps {σ : State} (s : State) (hk : Keeps σ s) :
    Keeps σ (State.applyConfig s) := by
  unfold State.applyConfig
  repeat' first
    | with_reducible assumption
    | (with_reducible apply State.wr_keeps)
    | (with_reducible apply State.wrF_keeps)
    | (with_reducible apply State.wrWords_keeps)
    | (with_reducible refine Keeps.foldl _ (fun t a ht => ?_) ?_)
    | split
    | ((try lift_lets); intro x; revert x; refine Keeps.letS (r := σ) ?_ (fun x hx => ?_))
    | (fail_if_no_progress ((with_reducible refine Keeps.mk ?_ ?_ ?_ ?_ ?_ ?_) <;> [skip; rfl; rfl; rfl; rfl; rfl]))

theorem State.applyUcal_keeps {σ : State} (s : State) (hk : Keeps σ s) :
    Keeps σ (State.applyUcal s) := by
  unfold State.applyUcal
  repeat' first
    | with_reducible assumption
    | (with_reducible apply State.wrWords_keeps)
    | split
    | ((try lift_lets); intro x; revert x; refine Keeps.letS (r := σ) ?_ (fun x hx => ?_))
    | (fail_if_no_progress ((with_reducible refine Keeps.mk ?_ ?_ ?_ ?_ ?_ ?_) <;> [skip; rfl; rfl; rfl; rfl; rfl]))

theorem State.calibrate_keeps {σ : State} (s : State) (cal : Calib) (hk : Keeps σ s) :
    Keeps σ (State.calibrate s cal) := by
  unfold State.calibrate
  repeat' first
    | with_reducible assumption
    | (with_reducible apply State.wr_keeps)
    | (with_reducible apply State.event_keeps)
    | (with_reducible apply State.alert_keeps)
    | (with_reducible refine Keeps.foldl _ (fun t a ht => ?_) ?_)
    | split
    | ((try lift_lets); intro x; revert x; refine Keeps.letS (r := σ) ?_ (fun x hx => ?_))
    | (fail_if_no_progress ((with_reducible refine Keeps.mk ?_ ?_ ?_ ?_ ?_ ?_) <;> [skip; rfl; rfl; rfl; rfl; rfl]))

theorem State.draw_keeps {σ : State} (s : State) (hk : Keeps σ s) :
    Keeps σ (State.draw s).2 := by
  unfold State.draw
  repeat' first
    | with_reducible assumption
    | (fail_if_no_progress ((with_reducible refine Keeps.mk ?_ ?_ ?_ ?_ ?_ ?_) <;> [skip; rfl; rfl; rfl; rfl; rfl]))

theorem State.draw_keeps_eq {σ : State} {s : State} {t : State} {r : Word} (hk : Keeps σ s) (he : State.draw s = (r, t)) :
    Keeps σ t := by
  have := State.draw_keeps s hk; rw [he] at this; exact this

theorem State.startMf_keeps {σ : State} (s : State) (own : Nat) (mf : FwImg) (cal : Calib) (hk : Keeps σ s) :
    Keeps σ (s.startMf own mf cal) := by
  unfold State.startMf
  extract_lets d boot imgs mx oc mximg mseq cat all a0 b0 c0 d0 s1 s2 s3 s4
  have kd : Keeps σ d.2 := State.draw_keeps _ hk
  clear_value d oc all cat boot mseq
  have k3 : Keeps σ s3 := State.log_keeps _ _ _ _ _ _ _ (State.wr_keeps _ _ _ (Keeps.mk kd rfl rfl rfl rfl rfl))
  have k4 : Keeps σ s4 := by
    unfold s4
    clear_value s3
    split
    · exact State.event_keeps _ _ _ _ _ _ _ k3
    · split
      · exact State.alert_keeps _ _ (State.event_keeps _ _ _ _ _ _ _ k3)
      · exact k3
  exact State.applyUcal_keeps _ (State.applyConfig_keeps _ (State.calibrate_keeps _ _ k4))

theorem State.startUp_keeps {σ : State} (s : State) (cal : Calib) (hk : Keeps σ s) :
    Keeps σ (State.startUp s cal) := by
  unfold State.startUp
  repeat' first
    | with_reducible assumption
    | (with_reducible apply State.wipe_keeps)
    | (with_reducible apply State.startMf_keeps)
    | split
    | ((try lift_lets); intro x; revert x; refine Keeps.letS (r := σ) ?_ (fun x hx => ?_))
    | (fail_if_no_progress ((with_reducible refine Keeps.mk ?_ ?_ ?_ ?_ ?_ ?_) <;> [skip; rfl; rfl; rfl; rfl; rfl]))

theorem State.toTc_keeps {σ : State} (s : State) (t : DWord) (hk : Keeps σ s) :
    Keeps σ (State.toTc s t) := by
  unfold State.toTc
  repeat' first
    | with_reducible assumption
    | split
    | ((try lift_lets); intro x; revert x; refine Keeps.letS (r := σ) ?_ (fun x hx => ?_))
    | (fail_if_no_progress ((with_reducible refine Keeps.mk ?_ ?_ ?_ ?_ ?_ ?_) <;> [skip; rfl; rfl; rfl; rfl; rfl]))

theorem State.loseSource_keeps {σ : State} (s : State) (hk : Keeps σ s) :
    Keeps σ (State.loseSource s) := by
  unfold State.loseSource
  repeat' first
    | with_reducible assumption
    | (with_reducible apply State.setBit_keeps)
    | (with_reducible apply State.event_keeps)
    | ((try lift_lets); intro x; revert x; refine Keeps.letS (r := σ) ?_ (fun x hx => ?_))
    | (fail_if_no_progress ((with_reducible refine Keeps.mk ?_ ?_ ?_ ?_ ?_ ?_) <;> [skip; rfl; rfl; rfl; rfl; rfl]))

theorem State.enterCond_keeps {σ : State} (s : State) (cause port : Nat) (hk : Keeps σ s) :
    Keeps σ (State.enterCond s cause port) := by
  unfold State.enterCond
  repeat' first
    | with_reducible assumption
    | ((try lift_lets); intro x; revert x; refine Keeps.letS (r := σ) ?_ (fun x hx => ?_))
    | (fail_if_no_progress ((with_reducible refine Keeps.mk ?_ ?_ ?_ ?_ ?_ ?_) <;> [skip; rfl; rfl; rfl; rfl; rfl]))

theorem State.setPort_keeps {σ : State} (s : State) (p : Fin 8) (x : TPort) (hk : Keeps σ s) :
    Keeps σ (State.setPort s p x) := by
  unfold State.setPort
  repeat' first
    | with_reducible assumption
    | ((try lift_lets); intro x; revert x; refine Keeps.letS (r := σ) ?_ (fun x hx => ?_))
    | (fail_if_no_progress ((with_reducible refine Keeps.mk ?_ ?_ ?_ ?_ ?_ ?_) <;> [skip; rfl; rfl; rfl; rfl; rfl]))

theorem State.loseNeighbour_keeps {σ : State} (s : State) (p : Fin 8) (hk : Keeps σ s) :
    Keeps σ (State.loseNeighbour s p) := by
  unfold State.loseNeighbour
  repeat' first
    | with_reducible assumption
    | (with_reducible apply State.enterCond_keeps)
    | (with_reducible apply State.setPort_keeps)
    | split

theorem State.loseLock_keeps {σ : State} (s : State) (p : Fin 8) (hk : Keeps σ s) :
    Keeps σ (State.loseLock s p) := by
  unfold State.loseLock
  repeat' first
    | with_reducible assumption
    | (with_reducible apply State.loseSource_keeps)
    | (with_reducible apply State.setPort_keeps)
    | (with_reducible apply State.loseNeighbour_keeps)
    | split

theorem State.levelRequest_keeps {σ : State} (s : State) (o : Origin) (r : Fin 16) (v : Word) (hk : Keeps σ s) :
    Keeps σ (State.levelRequest s o r v) := by
  unfold State.levelRequest
  repeat' first
    | with_reducible assumption
    | (with_reducible apply State.wrF_keeps)
    | (with_reducible apply State.setBit_keeps)
    | (with_reducible apply State.clrBit_keeps)
    | (with_reducible apply State.refuseWrite_keeps)
    | (with_reducible apply State.logWrite_keeps)
    | split
    | ((try lift_lets); intro x; revert x; refine Keeps.letS (r := σ) ?_ (fun x hx => ?_))

theorem State.levelDone_keeps {σ : State} (s : State) (r : Fin 16) (hk : Keeps σ s) :
    Keeps σ (State.levelDone s r) := by
  unfold State.levelDone
  repeat' first
    | with_reducible assumption
    | (with_reducible apply State.wrF_keeps)
    | (with_reducible apply State.clrBit_keeps)
    | split
    | ((try lift_lets); intro x; revert x; refine Keeps.letS (r := σ) ?_ (fun x hx => ?_))

theorem State.stretch_keeps {σ : State} (s : State) (r : Fin 16) (hk : Keeps σ s) :
    Keeps σ (State.stretch s r) := by
  unfold State.stretch
  repeat' first
    | with_reducible assumption
    | (with_reducible apply State.setSkip_keeps)
    | split
    | ((try lift_lets); intro x; revert x; refine Keeps.letS (r := σ) ?_ (fun x hx => ?_))
    | (fail_if_no_progress ((with_reducible refine Keeps.mk ?_ ?_ ?_ ?_ ?_ ?_) <;> [skip; rfl; rfl; rfl; rfl; rfl]))

theorem State.setWarn_keeps {σ : State} (s : State) (r : Fin 16) (b : Bool) (hk : Keeps σ s) :
    Keeps σ (State.setWarn s r b) := by
  unfold State.setWarn
  repeat' first
    | with_reducible assumption
    | ((try lift_lets); intro x; revert x; refine Keeps.letS (r := σ) ?_ (fun x hx => ?_))
    | (fail_if_no_progress ((with_reducible refine Keeps.mk ?_ ?_ ?_ ?_ ?_ ?_) <;> [skip; rfl; rfl; rfl; rfl; rfl]))

theorem State.drainWarns_keeps {σ : State} (s : State) (hk : Keeps σ s) :
    Keeps σ (State.drainWarns s) := by
  unfold State.drainWarns
  repeat' first
    | with_reducible assumption
    | (with_reducible apply State.stretch_keeps)
    | (with_reducible apply State.setWarn_keeps)
    | (with_reducible refine Keeps.foldl _ (fun t a ht => ?_) ?_)
    | split

theorem State.updPort_keeps {σ : State} (s : State) (p : Fin 8) (f : TPort → TPort) (hk : Keeps σ s) :
    Keeps σ (State.updPort s p f) := by
  unfold State.updPort
  repeat' first
    | with_reducible assumption
    | (with_reducible apply State.setPort_keeps)

theorem State.portEnable_keeps {σ : State} (s : State) (p : Fin 8) (on : Bool) (hk : Keeps σ s) :
    Keeps σ (State.portEnable s p on) := by
  unfold State.portEnable
  repeat' first
    | with_reducible assumption
    | (with_reducible apply State.loseLock_keeps)
    | (with_reducible apply State.updPort_keeps)
    | split

theorem State.updJoin_keeps {σ : State} (s : State) (f : Join → Join) (hk : Keeps σ s) :
    Keeps σ (State.updJoin s f) := by
  unfold State.updJoin
  repeat' first
    | with_reducible assumption
    | ((try lift_lets); intro x; revert x; refine Keeps.letS (r := σ) ?_ (fun x hx => ?_))
    | (fail_if_no_progress ((with_reducible refine Keeps.mk ?_ ?_ ?_ ?_ ?_ ?_) <;> [skip; rfl; rfl; rfl; rfl; rfl]))

theorem State.sendOn_keeps {σ : State} (s : State) (p : Fin 8) (c : Cell) (hk : Keeps σ s) :
    Keeps σ (State.sendOn s p c) := by
  unfold State.sendOn
  repeat' first
    | with_reducible assumption
    | (with_reducible apply State.setPort_keeps)
    | split
    | ((try lift_lets); intro x; revert x; refine Keeps.letS (r := σ) ?_ (fun x hx => ?_))
    | (fail_if_no_progress ((with_reducible refine Keeps.mk ?_ ?_ ?_ ?_ ?_ ?_) <;> [skip; rfl; rfl; rfl; rfl; rfl]))

theorem State.sendJoin_keeps {σ : State} (s : State) (p : Fin 8) (op : Nat) (body : List Byte) (hk : Keeps σ s) :
    Keeps σ (State.sendJoin s p op body) := by
  unfold State.sendJoin
  repeat' first
    | with_reducible assumption
    | (with_reducible apply State.sendOn_keeps)

theorem State.joinFail_keeps {σ : State} (s : State) (code : Nat) (hk : Keeps σ s) :
    Keeps σ (State.joinFail s code) := by
  unfold State.joinFail
  repeat' first
    | with_reducible assumption
    | (with_reducible apply State.log_keeps)
    | (with_reducible apply State.updJoin_keeps)
    | split

theorem State.takeStart_keeps {σ : State} (s : State) (t : DWord) (first : BitVec 48) (hk : Keeps σ s) :
    Keeps σ (State.takeStart s t first) := by
  unfold State.takeStart
  repeat' first
    | with_reducible assumption
    | (with_reducible apply State.updJoin_keeps)
    | (with_reducible apply State.sendJoin_keeps)
    | (with_reducible refine Keeps.foldl _ (fun t a ht => ?_) ?_)

theorem State.joinReport_keeps {σ : State} (s : State) (hk : Keeps σ s) :
    Keeps σ (State.joinReport s) := by
  unfold State.joinReport
  repeat' first
    | with_reducible assumption
    | (with_reducible apply State.updJoin_keeps)
    | (with_reducible apply State.sendJoin_keeps)
    | (with_reducible apply State.joinFail_keeps)
    | (with_reducible apply State.takeStart_keeps)
    | split
    | ((try lift_lets); intro x; revert x; refine Keeps.letS (r := σ) ?_ (fun x hx => ?_))

theorem State.sendTime_keeps {σ : State} (s : State) (ps : List (Fin 8)) (hops : Nat) (hk : Keeps σ s) :
    Keeps σ (State.sendTime s ps hops) := by
  unfold State.sendTime
  repeat' first
    | with_reducible assumption
    | (with_reducible apply State.sendJoin_keeps)
    | (with_reducible refine Keeps.foldl _ (fun t a ht => ?_) ?_)

theorem State.joinAlign_keeps {σ : State} (s : State) (hk : Keeps σ s) :
    Keeps σ (State.joinAlign s) := by
  unfold State.joinAlign
  repeat' first
    | with_reducible assumption
    | (with_reducible apply State.updJoin_keeps)
    | (with_reducible apply State.joinReport_keeps)
    | (with_reducible apply State.sendTime_keeps)
    | split
    | ((try lift_lets); intro x; revert x; refine Keeps.letS (r := σ) ?_ (fun x hx => ?_))

theorem State.joinMeasure_keeps {σ : State} (s : State) (hk : Keeps σ s) :
    Keeps σ (State.joinMeasure s) := by
  unfold State.joinMeasure
  repeat' first
    | with_reducible assumption
    | (with_reducible apply State.updJoin_keeps)
    | (with_reducible apply State.joinAlign_keeps)
    | split

theorem State.joinTrain_keeps {σ : State} (s : State) (hk : Keeps σ s) :
    Keeps σ (State.joinTrain s) := by
  unfold State.joinTrain
  repeat' first
    | with_reducible assumption
    | (with_reducible apply State.updJoin_keeps)
    | (with_reducible apply State.joinFail_keeps)
    | (with_reducible apply State.joinMeasure_keeps)
    | split

theorem State.joinStart_keeps {σ : State} (s : State) (hk : Keeps σ s) :
    Keeps σ (State.joinStart s) := by
  unfold State.joinStart
  repeat' first
    | with_reducible assumption
    | (with_reducible apply State.clrBit_keeps)
    | (with_reducible apply State.log_keeps)
    | (with_reducible apply State.updPort_keeps)
    | (with_reducible apply State.updJoin_keeps)
    | (with_reducible apply State.joinTrain_keeps)
    | (with_reducible refine Keeps.foldl _ (fun t a ht => ?_) ?_)
    | ((try lift_lets); intro x; revert x; refine Keeps.letS (r := σ) ?_ (fun x hx => ?_))
    | (fail_if_no_progress ((with_reducible refine Keeps.mk ?_ ?_ ?_ ?_ ?_ ?_) <;> [skip; rfl; rfl; rfl; rfl; rfl]))

theorem State.takeTime_keeps {σ : State} (s : State) (p : Fin 8) (tcDep : DWord) (hops : Nat) (since : DWord) (hk : Keeps σ s) :
    Keeps σ (State.takeTime s p tcDep hops since) := by
  unfold State.takeTime
  repeat' first
    | first
      | with_reducible assumption
      | (with_reducible apply State.log_keeps)
      | (with_reducible apply State.loadTc_keeps)
      | (with_reducible apply State.updJoin_keeps)
      | (with_reducible apply State.sendJoin_keeps)
      | (with_reducible apply State.joinFail_keeps)
      | (with_reducible apply State.sendTime_keeps)
      | (with_reducible apply State.joinAlign_keeps)
      | (with_reducible refine Keeps.foldl _ (fun t a ht => ?_) ?_)
    | first
      | split
      | ((try lift_lets); intro x; revert x; refine Keeps.letS (r := σ) ?_ (fun x hx => ?_))
      | (fail_if_no_progress ((with_reducible refine Keeps.mk ?_ ?_ ?_ ?_ ?_ ?_) <;> [skip; rfl; rfl; rfl; rfl; rfl]))

theorem State.takeEcho_keeps {σ : State} (s : State) (p : Fin 8) (delay : Nat) (hk : Keeps σ s) :
    Keeps σ (State.takeEcho s p delay) := by
  unfold State.takeEcho
  repeat' first
    | with_reducible assumption
    | (with_reducible apply State.setPort_keeps)
    | (with_reducible apply State.joinFail_keeps)
    | (with_reducible apply State.joinMeasure_keeps)
    | (with_reducible apply State.takeTime_keeps)
    | split
    | ((try lift_lets); intro x; revert x; refine Keeps.letS (r := σ) ?_ (fun x hx => ?_))

theorem State.takeReady_keeps {σ : State} (s : State) (p : Fin 8) (r : ReadyMsg) (hk : Keeps σ s) :
    Keeps σ (State.takeReady s p r) := by
  unfold State.takeReady
  repeat' first
    | with_reducible assumption
    | (with_reducible apply State.updPort_keeps)
    | (with_reducible apply State.updJoin_keeps)
    | (with_reducible apply State.joinFail_keeps)
    | (with_reducible apply State.joinReport_keeps)
    | split
    | ((try lift_lets); intro x; revert x; refine Keeps.letS (r := σ) ?_ (fun x hx => ?_))

theorem State.issueLpSend_keeps {σ : State} (s : State) (c : Nat) (e : QEntry) (st : Strm) (src n : Nat) (hk : Keeps σ s) :
    Keeps σ (State.issueLpSend s c e st src n) := by
  unfold State.issueLpSend
  repeat' first
    | with_reducible assumption
    | (with_reducible apply State.updCore_keeps)
    | (with_reducible apply State.start_keeps)
    | (with_reducible apply State.failCmd_keeps)
    | split
    | ((try lift_lets); intro x; revert x; refine Keeps.letS (r := σ) ?_ (fun x hx => ?_))

theorem State.issueLpArm_keeps {σ : State} (s : State) (c : Nat) (e : QEntry) (st : Strm) (dst n : Nat) (add : Option (Word × Word)) (hk : Keeps σ s) :
    Keeps σ (State.issueLpArm s c e st dst n add) := by
  unfold State.issueLpArm
  repeat' first
    | with_reducible assumption
    | (with_reducible apply State.updCore_keeps)
    | (with_reducible apply State.start_keeps)
    | (with_reducible apply State.failCmd_keeps)
    | split
    | ((try lift_lets); intro x; revert x; refine Keeps.letS (r := σ) ?_ (fun x hx => ?_))

theorem State.issueLpDisarm_keeps {σ : State} (s : State) (c : Nat) (e : QEntry) (st : Strm) (hk : Keeps σ s) :
    Keeps σ (State.issueLpDisarm s c e st) := by
  unfold State.issueLpDisarm
  repeat' first
    | with_reducible assumption
    | (with_reducible apply State.updCore_keeps)
    | (with_reducible apply State.finish_keeps)
    | (with_reducible apply State.failCmd_keeps)
    | (with_reducible apply State.finishIssued_keeps)
    | (with_reducible refine Keeps.foldl _ (fun t a ht => ?_) ?_)
    | split
    | ((try lift_lets); intro x; revert x; refine Keeps.letS (r := σ) ?_ (fun x hx => ?_))

theorem State.setLegOut_keeps {σ : State} (s : State) (n : Nat) (q : List Flit) (hk : Keeps σ s) :
    Keeps σ (State.setLegOut s n q) := by
  unfold State.setLegOut
  repeat' first
    | with_reducible assumption
    | ((try lift_lets); intro x; revert x; refine Keeps.letS (r := σ) ?_ (fun x hx => ?_))
    | (fail_if_no_progress ((with_reducible refine Keeps.mk ?_ ?_ ?_ ?_ ?_ ?_) <;> [skip; rfl; rfl; rfl; rfl; rfl]))

theorem State.setLegIn_keeps {σ : State} (s : State) (n : Nat) (q : List Flit) (hk : Keeps σ s) :
    Keeps σ (State.setLegIn s n q) := by
  unfold State.setLegIn
  repeat' first
    | with_reducible assumption
    | ((try lift_lets); intro x; revert x; refine Keeps.letS (r := σ) ?_ (fun x hx => ?_))
    | (fail_if_no_progress ((with_reducible refine Keeps.mk ?_ ?_ ?_ ?_ ?_ ?_) <;> [skip; rfl; rfl; rfl; rfl; rfl]))

theorem State.lpMiss_keeps {σ : State} (s : State) (c : Nat) (pc : Option Nat) (hk : Keeps σ s) :
    Keeps σ (State.lpMiss s c pc) := by
  unfold State.lpMiss
  repeat' first
    | with_reducible assumption
    | (with_reducible apply State.coreMiss_keeps)
    | split
    | (fail_if_no_progress ((with_reducible refine Keeps.mk ?_ ?_ ?_ ?_ ?_ ?_) <;> [skip; rfl; rfl; rfl; rfl; rfl]))

theorem State.leaveBy_keeps {σ : State} (s : State) (c out : Nat) (f : Flit) (pc : Option Nat) (hk : Keeps σ s) :
    Keeps σ (State.leaveBy s c out f pc) := by
  unfold State.leaveBy
  repeat' first
    | with_reducible assumption
    | (with_reducible apply State.setBit_keeps)
    | (with_reducible apply State.updCore_keeps)
    | (with_reducible apply State.setLegOut_keeps)
    | (with_reducible apply State.lpMiss_keeps)
    | split
    | ((try lift_lets); intro x; revert x; refine Keeps.letS (r := σ) ?_ (fun x hx => ?_))

theorem State.postFlag_keeps {σ : State} (s : State) (o : FlagOp) (hk : Keeps σ s) :
    Keeps σ (State.postFlag s o) := by
  unfold State.postFlag
  repeat' first
    | with_reducible assumption
    | ((try lift_lets); intro x; revert x; refine Keeps.letS (r := σ) ?_ (fun x hx => ?_))
    | (fail_if_no_progress ((with_reducible refine Keeps.mk ?_ ?_ ?_ ?_ ?_ ?_) <;> [skip; rfl; rfl; rfl; rfl; rfl]))

theorem State.lpRefuse_keeps {σ : State} (s : State) (c st : Nat) (hk : Keeps σ s) :
    Keeps σ (State.lpRefuse s c st) := by
  unfold State.lpRefuse
  repeat' first
    | with_reducible assumption
    | (with_reducible apply State.wr_keeps)
    | (with_reducible apply State.setBit_keeps)
    | (with_reducible apply State.gather_keeps)
    | (with_reducible apply State.failBeat_keeps)
    | split
    | (fail_if_no_progress ((with_reducible refine Keeps.mk ?_ ?_ ?_ ?_ ?_ ?_) <;> [skip; rfl; rfl; rfl; rfl; rfl]))

theorem State.deposit_keeps {σ : State} (s : State) (c st : Nat) (f : Flit) (hk : Keeps σ s) :
    Keeps σ (State.deposit s c st f) := by
  unfold State.deposit
  repeat' first
    | first
      | with_reducible assumption
      | (with_reducible apply State.setBit_keeps)
      | (with_reducible apply State.updCore_keeps)
      | (with_reducible apply State.writeAt_keeps)
      | (with_reducible apply State.poisonAt_keeps)
      | (with_reducible apply State.finishIssued_keeps)
      | (with_reducible apply State.lpMiss_keeps)
      | (with_reducible apply State.postFlag_keeps)
      | (with_reducible apply State.lpRefuse_keeps)
    | first
      | (with_reducible refine Keeps.foldl _ (fun t a ht => ?_) ?_)
      | split
      | ((try lift_lets); intro x; revert x; refine Keeps.letS (r := σ) ?_ (fun x hx => ?_))

theorem State.pass_keeps {σ : State} (s : State) (c code : Nat) (f : Flit) (pc : Option Nat) (hk : Keeps σ s) :
    Keeps σ (State.pass s c code f pc) := by
  unfold State.pass
  repeat' first
    | with_reducible assumption
    | (with_reducible apply State.bump_keeps)
    | (with_reducible apply State.leaveBy_keeps)
    | (with_reducible apply State.deposit_keeps)
    | (with_reducible refine Keeps.foldl _ (fun t a ht => ?_) ?_)
    | split
    | ((try lift_lets); intro x; revert x; refine Keeps.letS (r := σ) ?_ (fun x hx => ?_))

theorem State.checkFlit_keeps {σ : State} (s : State) (c : Nat) (f : Flit) (up : List Upset) (hk : Keeps σ s) :
    Keeps σ (State.checkFlit s c f up).1 := by
  unfold State.checkFlit
  repeat' first
    | with_reducible assumption
    | (with_reducible apply State.setBit_keeps)
    | (with_reducible apply State.bumpN_keeps)
    | (with_reducible apply State.failBeat_keeps)
    | split
    | ((try lift_lets); intro x; revert x; refine Keeps.letS (r := σ) ?_ (fun x hx => ?_))

theorem State.checkFlit_keeps_eq {σ : State} {s : State} {c : Nat} {f : Flit} {up : List Upset} {t : State} {r : Flit} (hk : Keeps σ s) (he : State.checkFlit s c f up = (t, r)) :
    Keeps σ t := by
  have := State.checkFlit_keeps s c f up hk; rw [he] at this; exact this

theorem State.sendHeartbeat_keeps {σ : State} (s : State) (k : Nat) (hk : Keeps σ s) :
    Keeps σ (State.sendHeartbeat s k) := by
  unfold State.sendHeartbeat
  repeat' first
    | with_reducible assumption
    | (with_reducible apply State.carry_keeps)
    | ((try lift_lets); intro x; revert x; refine Keeps.letS (r := σ) ?_ (fun x hx => ?_))
    | (fail_if_no_progress ((with_reducible refine Keeps.mk ?_ ?_ ?_ ?_ ?_ ?_) <;> [skip; rfl; rfl; rfl; rfl; rfl]))

theorem State.takeBooks_keeps {σ : State} (s : State) (p : Nat) (hk : Keeps σ s) :
    Keeps σ (State.takeBooks s p) := by
  unfold State.takeBooks
  repeat' first
    | with_reducible assumption
    | (with_reducible apply State.setPg_keeps)
    | (with_reducible refine Keeps.foldl _ (fun t a ht => ?_) ?_)
    | split
    | ((try lift_lets); intro x; revert x; refine Keeps.letS (r := σ) ?_ (fun x hx => ?_))

theorem State.setLists_keeps {σ : State} (s : State) (p : Nat) (q : PgPart) (hk : Keeps σ s) :
    Keeps σ (State.setLists s p q) := by
  unfold State.setLists
  repeat' first
    | with_reducible assumption
    | (with_reducible apply State.setPg_keeps)

theorem State.putToken_keeps {σ : State} (s : State) (p frame pos : Nat) (w : Word) (hk : Keeps σ s) :
    Keeps σ (State.putToken s p frame pos w) := by
  unfold State.putToken
  repeat' first
    | with_reducible assumption
    | (with_reducible apply State.unitWrite_keeps)

theorem State.pgRead_keeps {σ : State} (s : State) (p c a n : Nat) (hk : Keeps σ s) :
    Keeps σ (State.pgRead s p c a n).2.2 := by
  unfold State.pgRead
  repeat' first
    | with_reducible assumption
    | (with_reducible apply State.setBit_keeps)
    | (with_reducible apply State.atEndpoint_keeps)
    | (with_reducible apply State.unitRead_keeps)
    | split
    | ((try lift_lets); intro x; revert x; refine Keeps.letS (r := σ) ?_ (fun x hx => ?_))

theorem State.pgRead_keeps_eq {σ : State} {s : State} {p : Nat} {c : Nat} {a : Nat} {n : Nat} {t : State} {r : List Byte} {r2 : List Nat} (hk : Keeps σ s) (he : State.pgRead s p c a n = (r, r2, t)) :
    Keeps σ t := by
  have := State.pgRead_keeps s p c a n hk; rw [he] at this; exact this

theorem State.stagedWords_keeps {σ : State} (s : State) (p : Nat) (as : List Nat) (hk : Keeps σ s) :
    Keeps σ (State.stagedWords s p as).2 := by
  unfold State.stagedWords
  repeat' first
    | with_reducible assumption
    | (with_reducible apply State.pgRead_keeps)
    | (with_reducible refine Keeps.foldl_snd _ (fun t a ht => ?_) ?_)

theorem State.stagedWords_keeps_eq {σ : State} {s : State} {p : Nat} {as : List Nat} {t : State} {r : List Word} (hk : Keeps σ s) (he : State.stagedWords s p as = (r, t)) :
    Keeps σ t := by
  have := State.stagedWords_keeps s p as hk; rw [he] at this; exact this

theorem State.heldTokens_keeps {σ : State} (s : State) (p : Nat) (x : Ent) (want : Nat → Bool) (hk : Keeps σ s) :
    Keeps σ (State.heldTokens s p x want).2 := by
  unfold State.heldTokens
  repeat' first
    | with_reducible assumption
    | (with_reducible apply State.stagedWords_keeps)

theorem State.heldTokens_keeps_eq {σ : State} {s : State} {p : Nat} {x : Ent} {want : Nat → Bool} {t : State} {r : List (Nat × Word)} (hk : Keeps σ s) (he : State.heldTokens s p x want = (r, t)) :
    Keeps σ t := by
  have := State.heldTokens_keeps s p x want hk; rw [he] at this; exact this

theorem State.pageTokens_keeps {σ : State} (s : State) (p e lo k : Nat) (hk : Keeps σ s) :
    Keeps σ (State.pageTokens s p e lo k).2 := by
  unfold State.pageTokens
  repeat' first
    | with_reducible assumption
    | (with_reducible apply State.pgRead_keeps)
    | (with_reducible apply State.heldTokens_keeps)
    | split
    | ((try lift_lets); intro x; revert x; refine Keeps.letS (r := σ) ?_ (fun x hx => ?_))

theorem State.pageTokens_keeps_eq {σ : State} {s : State} {p : Nat} {e : Nat} {lo : Nat} {k : Nat} {t : State} {r : List Word} (hk : Keeps σ s) (he : State.pageTokens s p e lo k = (r, t)) :
    Keeps σ t := by
  have := State.pageTokens_keeps s p e lo k hk; rw [he] at this; exact this

theorem State.readTokens_keeps {σ : State} (s : State) (p e start n : Nat) (hk : Keeps σ s) :
    Keeps σ (State.readTokens s p e start n).2 := by
  unfold State.readTokens
  repeat' first
    | with_reducible assumption
    | (with_reducible apply State.pageTokens_keeps)
    | (with_reducible refine Keeps.foldl_snd _ (fun t a ht => ?_) ?_)
    | split

theorem State.readTokens_keeps_eq {σ : State} {s : State} {p : Nat} {e : Nat} {start : Nat} {n : Nat} {t : State} {r : List Word} (hk : Keeps σ s) (he : State.readTokens s p e start n = (r, t)) :
    Keeps σ t := by
  have := State.readTokens_keeps s p e start n hk; rw [he] at this; exact this

theorem State.storeTokens_keeps {σ : State} (s : State) (p e : Nat) (hk : Keeps σ s) :
    Keeps σ (State.storeTokens s p e).2 := by
  unfold State.storeTokens
  repeat' first
    | with_reducible assumption
    | (with_reducible apply State.updEnt_keeps)
    | (with_reducible apply State.putToken_keeps)
    | (with_reducible apply State.heldTokens_keeps)
    | (with_reducible refine Keeps.foldl _ (fun t a ht => ?_) ?_)
    | split

theorem State.storeTokens_keeps_eq {σ : State} {s : State} {p : Nat} {e : Nat} {t : State} {r : List (Nat × Word)} (hk : Keeps σ s) (he : State.storeTokens s p e = (r, t)) :
    Keeps σ t := by
  have := State.storeTokens_keeps s p e hk; rw [he] at this; exact this

theorem State.copyBlock_keeps {σ : State} (s : State) (p src dst : Nat) (hk : Keeps σ s) :
    Keeps σ (State.copyBlock s p src dst) := by
  unfold State.copyBlock
  repeat' first
    | with_reducible assumption
    | (with_reducible apply State.unitWrite_keeps)
    | (with_reducible apply State.pgRead_keeps)

theorem State.cowOne_keeps {σ : State} (s : State) (p e slot : Nat) (apps : List Append) (j : Nat) (hk : Keeps σ s) :
    Keeps σ (s.cowOne p e slot apps j).1 := by
  unfold State.cowOne
  extract_lets q
  split
  · dsimp only
    exact State.copyBlock_keeps _ _ _ _ (State.setPg_keeps _ _ _ hk)
  · exact hk

theorem State.cowOne_keeps_eq {σ : State} {s : State} {p : Nat} {e : Nat} {slot : Nat} {apps : List Append} {j : Nat} {t : State} {r : List Append} (hk : Keeps σ s) (he : State.cowOne s p e slot apps j = (t, r)) :
    Keeps σ t := by
  have := State.cowOne_keeps s p e slot apps j hk; rw [he] at this; exact this

theorem State.appendOne_keeps {σ : State} (s : State) (p e slot : Nat) (apps : List Append) (hk : Keeps σ s) :
    Keeps σ (State.appendOne s p e slot apps).1 := by
  unfold State.appendOne
  repeat' first
    | with_reducible assumption
    | (with_reducible apply State.setLists_keeps)
    | split
    | ((try lift_lets); intro x; revert x; refine Keeps.letS (r := σ) ?_ (fun x hx => ?_))

theorem State.appendOne_keeps_eq {σ : State} {s : State} {p : Nat} {e : Nat} {slot : Nat} {apps : List Append} {t : State} {r : List Append} (hk : Keeps σ s) (he : State.appendOne s p e slot apps = (t, r)) :
    Keeps σ t := by
  have := State.appendOne_keeps s p e slot apps hk; rw [he] at this; exact this

theorem State.pgPlace_keeps {σ : State} (s : State) (p e slot start n fresh : Nat) (hk : Keeps σ s) :
    Keeps σ (State.pgPlace s p e slot start n fresh).1 := by
  unfold State.pgPlace
  repeat' first
    | with_reducible assumption
    | (with_reducible apply State.setPg_keeps)
    | (with_reducible apply State.cowOne_keeps)
    | (with_reducible apply State.appendOne_keeps)
    | (with_reducible refine Keeps.foldl_fst _ (fun t a ht => ?_) ?_)
    | split

theorem State.pgPlace_keeps_eq {σ : State} {s : State} {p : Nat} {e : Nat} {slot : Nat} {start : Nat} {n : Nat} {fresh : Nat} {t : State} {r : List Append} (hk : Keeps σ s) (he : State.pgPlace s p e slot start n fresh = (t, r)) :
    Keeps σ t := by
  have := State.pgPlace_keeps s p e slot start n fresh hk; rw [he] at this; exact this

theorem State.xbTo_keeps {σ : State} (s : State) (expert : Bool) (k st : Nat) (hk : Keeps σ s) :
    Keeps σ (State.xbTo s expert k st) := by
  unfold State.xbTo
  repeat' first
    | with_reducible assumption
    | (with_reducible apply State.wrF_keeps)

theorem State.xbSettle_keeps {σ : State} (s : State) (hk : Keeps σ s) :
    Keeps σ (State.xbSettle s) := by
  unfold State.xbSettle
  repeat' first
    | with_reducible assumption
    | (with_reducible apply State.wr_keeps)
    | (with_reducible refine Keeps.foldl _ (fun t a ht => ?_) ?_)
    | split

theorem State.xbCount_keeps {σ : State} (s : State) (hk : Keeps σ s) :
    Keeps σ (State.xbCount s) := by
  unfold State.xbCount
  repeat' first
    | with_reducible assumption
    | (with_reducible apply State.wrF_keeps)
    | (with_reducible refine Keeps.foldl _ (fun t a ht => ?_) ?_)

theorem State.xbFlipOne_keeps {σ : State} (s : State) (expert : Bool) (k : Nat) (hk : Keeps σ s) :
    Keeps σ (State.xbFlipOne s expert k) := by
  unfold State.xbFlipOne
  repeat' first
    | with_reducible assumption
    | (with_reducible apply State.wr_keeps)
    | (with_reducible apply State.wrF_keeps)
    | (with_reducible apply State.xbTo_keeps)
    | split
    | ((try lift_lets); intro x; revert x; refine Keeps.letS (r := σ) ?_ (fun x hx => ?_))

theorem State.xbFlip_keeps {σ : State} (s : State) (hk : Keeps σ s) :
    Keeps σ (State.xbFlip s) := by
  unfold State.xbFlip
  repeat' first
    | with_reducible assumption
    | (with_reducible apply State.xbFlipOne_keeps)
    | (with_reducible refine Keeps.foldl _ (fun t a ht => ?_) ?_)

theorem State.xbPin_keeps {σ : State} (s : State) (expert : Bool) (set group : Nat) (nonSecure : Bool) (hk : Keeps σ s) :
    Keeps σ (State.xbPin s expert set group nonSecure).2 := by
  unfold State.xbPin
  repeat' first
    | with_reducible assumption
    | (with_reducible apply State.event_keeps)
    | split
    | ((try lift_lets); intro x; revert x; refine Keeps.letS (r := σ) ?_ (fun x hx => ?_))

theorem State.xbPin_keeps_eq {σ : State} {s : State} {expert : Bool} {set : Nat} {group : Nat} {nonSecure : Bool} {t : State} {r : Nat} (hk : Keeps σ s) (he : State.xbPin s expert set group nonSecure = (r, t)) :
    Keeps σ t := by
  have := State.xbPin_keeps s expert set group nonSecure hk; rw [he] at this; exact this

theorem State.xbCmd_keeps {σ : State} (s : State) (op : Nat) (expert : Bool) (k group : Nat) (hk : Keeps σ s) :
    Keeps σ (State.xbCmd s op expert k group) := by
  unfold State.xbCmd
  repeat' first
    | with_reducible assumption
    | (with_reducible apply State.wr_keeps)
    | (with_reducible apply State.setBit_keeps)
    | (with_reducible apply State.xbTo_keeps)
    | split
    | ((try lift_lets); intro x; revert x; refine Keeps.letS (r := σ) ?_ (fun x hx => ?_))

theorem State.xbPending_keeps {σ : State} (s : State) (expert : Bool) (k v : Nat) (hk : Keeps σ s) :
    Keeps σ (State.xbPending s expert k v) := by
  unfold State.xbPending
  repeat' first
    | with_reducible assumption
    | (with_reducible apply State.wrF_keeps)
    | (with_reducible apply State.setBit_keeps)
    | split

theorem State.forgetEnd_keeps {σ : State} (s : State) (e : Nat) (all : Bool) (hk : Keeps σ s) :
    Keeps σ (State.forgetEnd s e all) := by
  unfold State.forgetEnd
  repeat' first
    | with_reducible assumption
    | split
    | ((try lift_lets); intro x; revert x; refine Keeps.letS (r := σ) ?_ (fun x hx => ?_))
    | (fail_if_no_progress ((with_reducible refine Keeps.mk ?_ ?_ ?_ ?_ ?_ ?_) <;> [skip; rfl; rfl; rfl; rfl; rfl]))

theorem State.endEnt_keeps {σ : State} (s : State) (e : Nat) (st : EState) (reason : Nat) (hk : Keeps σ s) :
    Keeps σ (State.endEnt s e st reason) := by
  unfold State.endEnt
  repeat' first
    | with_reducible assumption
    | (with_reducible apply State.updEnt_keeps)
    | (with_reducible apply State.sendToken_keeps)
    | (with_reducible apply State.forgetEnd_keeps)
    | split
    | ((try lift_lets); intro x; revert x; refine Keeps.letS (r := σ) ?_ (fun x hx => ?_))

theorem State.freeEnt_keeps {σ : State} (s : State) (n e code : Nat) (hk : Keeps σ s) :
    Keeps σ (State.freeEnt s n e code) := by
  unfold State.freeEnt
  repeat' first
    | with_reducible assumption
    | (with_reducible apply State.setEnt_keeps)
    | (with_reducible apply State.complete_keeps)
    | (with_reducible apply State.setLists_keeps)
    | (with_reducible apply State.forgetEnd_keeps)
    | (with_reducible refine Keeps.foldl _ (fun t a ht => ?_) ?_)
    | split
    | ((try lift_lets); intro x; revert x; refine Keeps.letS (r := σ) ?_ (fun x hx => ?_))
    | (fail_if_no_progress ((with_reducible refine Keeps.mk ?_ ?_ ?_ ?_ ?_ ?_) <;> [skip; rfl; rfl; rfl; rfl; rfl]))

theorem State.freeEnded_keeps {σ : State} (s : State) (n : Nat) (hk : Keeps σ s) :
    Keeps σ (State.freeEnded s n) := by
  unfold State.freeEnded
  repeat' first
    | with_reducible assumption
    | (with_reducible apply State.freeEnt_keeps)
    | (with_reducible refine Keeps.foldl _ (fun t a ht => ?_) ?_)

theorem State.dropDraft_keeps {σ : State} (s : State) (hk : Keeps σ s) :
    Keeps σ (State.dropDraft s) := by
  unfold State.dropDraft
  repeat' first
    | with_reducible assumption
    | (with_reducible apply State.setBit_keeps)
    | (with_reducible apply State.bump_keeps)

theorem State.storeDraft_keeps {σ : State} (s : State) (e pos : Nat) (steps : List (Nat × DraftStep)) (tc : DWord) (whole : Bool) (hk : Keeps σ s) :
    Keeps σ (State.storeDraft s e pos steps tc whole) := by
  unfold State.storeDraft
  repeat' first
    | with_reducible assumption
    | (with_reducible apply State.dropDraft_keeps)
    | split
    | ((try lift_lets); intro x; revert x; refine Keeps.letS (r := σ) ?_ (fun x hx => ?_))
    | (fail_if_no_progress ((with_reducible refine Keeps.mk ?_ ?_ ?_ ?_ ?_ ?_) <;> [skip; rfl; rfl; rfl; rfl; rfl]))

theorem State.queueOrReel_keeps {σ : State} (s : State) (n e : Nat) (hk : Keeps σ s) :
    Keeps σ (State.queueOrReel s n e) := by
  unfold State.queueOrReel
  repeat' first
    | with_reducible assumption
    | (with_reducible apply State.updEnt_keeps)

theorem State.unstage_keeps {σ : State} (s : State) (n : Nat) (r : RingCmd) (hk : Keeps σ s) :
    Keeps σ (State.unstage s n r).2 := by
  unfold State.unstage
  repeat' first
    | with_reducible assumption
    | (with_reducible apply State.stagedWords_keeps)
    | split

theorem State.unstage_keeps_eq {σ : State} {s : State} {n : Nat} {r : RingCmd} {t : State} {r : RingCmd} (hk : Keeps σ s) (he : State.unstage s n r = (r, t)) :
    Keeps σ t := by
  have := State.unstage_keeps s n r hk; rw [he] at this; exact this

theorem State.nextQseq_keeps {σ : State} (s : State) (n : Nat) (hk : Keeps σ s) :
    Keeps σ (State.nextQseq s n).2 := by
  unfold State.nextQseq
  repeat' first
    | with_reducible assumption
    | split
    | ((try lift_lets); intro x; revert x; refine Keeps.letS (r := σ) ?_ (fun x hx => ?_))
    | (fail_if_no_progress ((with_reducible refine Keeps.mk ?_ ?_ ?_ ?_ ?_ ?_) <;> [skip; rfl; rfl; rfl; rfl; rfl]))

theorem State.nextQseq_keeps_eq {σ : State} {s : State} {n : Nat} {t : State} {r : Nat} (hk : Keeps σ s) (he : State.nextQseq s n = (r, t)) :
    Keeps σ t := by
  have := State.nextQseq_keeps s n hk; rw [he] at this; exact this

theorem State.takeSubmit_keeps {σ : State} (s : State) (n : Nat) (r : RingCmd) (b : SubmitBody) (hk : Keeps σ s) :
    Keeps σ (State.takeSubmit s n r b) := by
  unfold State.takeSubmit
  repeat' first
    | with_reducible assumption
    | (with_reducible apply State.setEnt_keeps)
    | (with_reducible apply State.complete_keeps)
    | (with_reducible apply State.setLists_keeps)
    | (with_reducible apply State.queueOrReel_keeps)
    | (with_reducible apply State.nextQseq_keeps)
    | split

theorem State.takeResume_keeps {σ : State} (s : State) (n : Nat) (r : RingCmd) (maxNew : Nat) (deadline : DWord) (toks : List Word) (hk : Keeps σ s) :
    Keeps σ (State.takeResume s n r maxNew deadline toks) := by
  unfold State.takeResume
  repeat' first
    | with_reducible assumption
    | (with_reducible apply State.updEnt_keeps)
    | (with_reducible apply State.complete_keeps)
    | (with_reducible apply State.queueOrReel_keeps)
    | (with_reducible apply State.nextQseq_keeps)

theorem State.takeCmd_keeps {σ : State} (s0 : State) (n : Nat) (r0 : RingCmd) (hk : Keeps σ s0) :
    Keeps σ (State.takeCmd s0 n r0) := by
  unfold State.takeCmd
  repeat' first
    | first
      | with_reducible assumption
      | (with_reducible apply State.updEnt_keeps)
      | (with_reducible apply State.complete_keeps)
      | (with_reducible apply State.endEnt_keeps)
      | (with_reducible apply State.storeDraft_keeps)
      | (with_reducible apply State.takeSubmit_keeps)
      | (with_reducible apply State.takeResume_keeps)
      | (with_reducible apply State.unstage_keeps)
      | split
    | first
      | ((try lift_lets); intro x; revert x; refine Keeps.letS (r := σ) ?_ (fun x hx => ?_))
      | (fail_if_no_progress ((with_reducible refine Keeps.mk ?_ ?_ ?_ ?_ ?_ ?_) <;> [skip; rfl; rfl; rfl; rfl; rfl]))

theorem State.ackRing_keeps {σ : State} (s : State) (uids : List Nat) (hk : Keeps σ s) :
    Keeps σ (State.ackRing s uids) := by
  unfold State.ackRing
  repeat' first
    | with_reducible assumption
    | (with_reducible apply State.emitAck_keeps)
    | (with_reducible refine Keeps.foldl _ (fun t a ht => ?_) ?_)
    | split

theorem State.takeAll_keeps {σ : State} (s : State) (n : Nat) (hk : Keeps σ s) :
    Keeps σ (State.takeAll s n) := by
  unfold State.takeAll
  repeat' first
    | with_reducible assumption
    | (with_reducible apply State.setRing_keeps)
    | (with_reducible apply State.takeCmd_keeps)
    | (with_reducible apply State.ackRing_keeps)
    | (with_reducible refine Keeps.foldl _ (fun t a ht => ?_) ?_)
    | split
    | ((try lift_lets); intro x; revert x; refine Keeps.letS (r := σ) ?_ (fun x hx => ?_))

theorem State.writeClient_keeps {σ : State} (s0 : State) (o : Origin) (c word : Nat) (v : Word) (hk : Keeps σ s0) :
    Keeps σ (State.writeClient s0 o c word v) := by
  unfold State.writeClient
  repeat' first
    | with_reducible assumption
    | (with_reducible apply State.log_keeps)
    | (with_reducible apply State.refuseWrite_keeps)
    | (with_reducible apply State.setCli_keeps)
    | split
    | ((try lift_lets); intro x; revert x; refine Keeps.letS (r := σ) ?_ (fun x hx => ?_))

theorem State.openClient_keeps {σ : State} (s : State) (c : Nat) (hk : Keeps σ s) :
    Keeps σ (State.openClient s c) := by
  unfold State.openClient
  repeat' first
    | with_reducible assumption
    | (with_reducible apply State.setCli_keeps)

theorem State.creditClient_keeps {σ : State} (s : State) (c amount : Nat) (hk : Keeps σ s) :
    Keeps σ (State.creditClient s c amount) := by
  unfold State.creditClient
  repeat' first
    | with_reducible assumption
    | (with_reducible apply State.setCli_keeps)

theorem State.clientWrites_keeps {σ : State} (s : State) (f : Nat → Bool) (hk : Keeps σ s) :
    Keeps σ (State.clientWrites s f) := by
  unfold State.clientWrites
  repeat' first
    | with_reducible assumption
    | (with_reducible apply State.log_keeps)
    | (with_reducible apply State.writeClient_keeps)
    | (with_reducible apply State.openClient_keeps)
    | (with_reducible apply State.creditClient_keeps)
    | (with_reducible refine Keeps.foldl _ (fun t a ht => ?_) ?_)
    | split
    | ((try lift_lets); intro x; revert x; refine Keeps.letS (r := σ) ?_ (fun x hx => ?_))
    | (fail_if_no_progress ((with_reducible refine Keeps.mk ?_ ?_ ?_ ?_ ?_ ?_) <;> [skip; rfl; rfl; rfl; rfl; rfl]))

theorem State.refills_keeps {σ : State} (s : State) (n : Nat) (hk : Keeps σ s) :
    Keeps σ (State.refills s n) := by
  unfold State.refills
  repeat' first
    | with_reducible assumption
    | (with_reducible apply State.setCli_keeps)
    | (with_reducible refine Keeps.foldl _ (fun t a ht => ?_) ?_)

theorem Build.place_keeps {σ : State} (b : Build) (p e : Nat) (pl : Plan) (new : Bool) (h : Keeps σ b.s) : Keeps σ (Build.place b p e pl new).s := by
  unfold Build.place
  extract_lets s x k d bytes r st rd s1 toks resv slot s2 cl s3 sr s4
  have kr : Keeps σ r.1 := State.pgPlace_keeps _ _ _ _ _ _ _ h
  clear_value r
  have k1 : Keeps σ s1 := State.readTokens_keeps _ _ _ _ _ (State.storeTokens_keeps _ _ _ kr)
  clear_value s1
  have k3 : Keeps σ s3 := State.setCli_keeps _ _ _ (State.updEnt_keeps _ _ _ k1)
  show Keeps σ s4
  unfold s4
  clear_value s3
  split
  · exact Keeps.mk k3 rfl rfl rfl rfl rfl
  · exact k3

theorem Build.note_keeps {σ : State} (b : Build) (e why : Nat) (h : Keeps σ b.s) : Keeps σ (Build.note b e why).s :=
  State.updEnt_keeps _ _ _ h

theorem Build.cont_keeps {σ : State} (n p : Nat) (b : Build) (e : Nat) (h : Keeps σ b.s) : Keeps σ (Build.cont n p b e).s := by
  have noted (f : Ent → Ent) (why : Nat) : Keeps σ (Build.note { b with s := b.s.updEnt e f } e why).s :=
    Build.note_keeps _ _ _ (State.updEnt_keeps _ _ _ h)
  unfold Build.cont
  dsimp only
  split
  · exact noted _ _
  · split
    · exact noted _ _
    · split
      · exact noted _ _
      · split
        · exact noted _ _
        · split
          · exact noted _ _
          · exact Build.place_keeps _ _ _ _ _ h

theorem State.pinFor_keeps {σ : State} (s : State) (n e : Nat) (hk : Keeps σ s) :
    Keeps σ (State.pinFor s n e) := by
  unfold State.pinFor
  repeat' first
    | with_reducible assumption
    | (with_reducible apply State.updEnt_keeps)
    | (with_reducible apply State.xbPin_keeps)
    | split

theorem Build.queued_keeps {σ : State} (n p : Nat) (b : Build) (l : List Nat) (h : Keeps σ b.s) : Keeps σ (Build.queued n p b l).s := by
  induction l generalizing b with
  | nil => exact h
  | cons e r ih =>
    unfold Build.queued
    extract_lets s pl d x why b1 b2
    have k1 : Keeps σ b1.s := Build.note_keeps _ _ _ h
    have k2 : Keeps σ b2.s := by
      unfold b2
      split
      · exact State.endEnt_keeps _ _ _ _ k1
      · exact k1
    split
    · exact ih _ (Build.place_keeps _ _ _ _ _ (State.pinFor_keeps _ _ _ h))
    · split
      · exact k2
      · exact ih _ k2

theorem State.pgCommit_keeps {σ : State} (s : State) (p : Nat) (anchor : Bool) (w : Wire) (hk : Keeps σ s) :
    Keeps σ (State.pgCommit s p anchor w) := by
  unfold State.pgCommit
  repeat' first
    | with_reducible assumption
    | (with_reducible apply State.setLists_keeps)
    | split
    | ((try lift_lets); intro x; revert x; refine Keeps.letS (r := σ) ?_ (fun x hx => ?_))

theorem State.reelDecide_keeps {σ : State} (s0 : State) (n p : Nat) (hk : Keeps σ s0) :
    Keeps σ (State.reelDecide s0 n p) := by
  unfold State.reelDecide
  repeat' first
    | with_reducible assumption
    | (with_reducible apply State.setPg_keeps)
    | split
    | ((try lift_lets); intro x; revert x; refine Keeps.letS (r := σ) ?_ (fun x hx => ?_))

theorem State.noteLast_keeps {σ : State} (s : State) (n : Nat) (slots : Option Nat) (reason refused : Nat) (hk : Keeps σ s) :
    Keeps σ (State.noteLast s n slots reason refused) := by
  unfold State.noteLast
  repeat' first
    | with_reducible assumption
    | (with_reducible apply State.wr_keeps)

theorem State.unplace_keeps {σ : State} (s : State) (n : Nat) (hk : Keeps σ s) :
    Keeps σ (State.unplace s n) := by
  unfold State.unplace
  repeat' first
    | with_reducible assumption
    | (with_reducible apply State.updEnt_keeps)
    | (with_reducible refine Keeps.foldl _ (fun t a ht => ?_) ?_)

theorem Build.conts_keeps {σ : State} (n p : Nat) (l : List Nat) (b : Build) (h : Keeps σ b.s) :
    Keeps σ (l.foldl (fun b e => b.cont n p e) b).s := by
  induction l generalizing b with
  | nil => exact h
  | cons e r ih => exact ih _ (Build.cont_keeps _ _ _ _ h)

theorem State.admitGroup_keeps {σ : State} (s : State) (n ready : Nat) (hk : Keeps σ s) : Keeps σ (s.admitGroup n ready) := by
  unfold State.admitGroup
  extract_lets rest
  have kr : Keeps σ rest := State.unplace_keeps _ _ hk
  clear_value rest
  split
  · exact State.noteLast_keeps _ _ _ _ _ kr
  · split
    · exact State.noteLast_keeps _ _ _ _ _ kr
    · extract_lets q s1 live cont b1 waiting b2 q2 s2 q3 ops apps s3 t
      have k1 : Keeps σ b1.s := Build.conts_keeps _ _ _ _ (State.setPg_keeps _ _ _ hk)
      have k2 : Keeps σ b2.s := by
        unfold b2
        clear_value b1
        split
        · exact k1
        · exact Build.queued_keeps _ _ _ _ k1
      have k3 : Keeps σ s3 := State.setPg_keeps _ _ _ (State.reelDecide_keeps _ _ _ (State.setPg_keeps _ _ _ k2))
      clear_value s3
      exact State.noteLast_keeps _ _ _ _ _ (Keeps.mk k3 rfl rfl rfl rfl rfl)

theorem State.orderDone_keeps {σ : State} (s : State) (n p : Nat) (o : Order) (hk : Keeps σ s) :
    Keeps σ (State.orderDone s n p o) := by
  unfold State.orderDone
  repeat' first
    | with_reducible assumption
    | (with_reducible apply State.setBit_keeps)
    | (with_reducible apply State.event_keeps)
    | (with_reducible apply State.setPg_keeps)
    | split
    | ((try lift_lets); intro x; revert x; refine Keeps.letS (r := σ) ?_ (fun x hx => ?_))

theorem State.ordersDone_keeps {σ : State} (s : State) (n p : Nat) (hk : Keeps σ s) :
    Keeps σ (State.ordersDone s n p) := by
  unfold State.ordersDone
  repeat' first
    | with_reducible assumption
    | (with_reducible apply State.setPg_keeps)
    | (with_reducible apply State.orderDone_keeps)
    | (with_reducible refine Keeps.foldl _ (fun t a ht => ?_) ?_)

theorem State.selections_keeps {σ : State} (s : State) (n p : Nat) (hk : Keeps σ s) :
    Keeps σ (State.selections s n p) := by
  unfold State.selections
  repeat' first
    | with_reducible assumption
    | (with_reducible apply State.setPg_keeps)
    | (with_reducible apply State.updEnt_keeps)
    | (with_reducible refine Keeps.foldl _ (fun t a ht => ?_) ?_)
    | split
    | ((try lift_lets); intro x; revert x; refine Keeps.letS (r := σ) ?_ (fun x hx => ?_))

theorem State.sendFetched_keeps {σ : State} (s : State) (p : Nat) (f : FetchJob) (lo hi : Nat) (hk : Keeps σ s) :
    Keeps σ (State.sendFetched s p f lo hi) := by
  unfold State.sendFetched
  repeat' first
    | with_reducible assumption
    | (with_reducible apply State.sendToken_keeps)
    | (with_reducible apply State.readTokens_keeps)
    | (with_reducible refine Keeps.foldl _ (fun t a ht => ?_) ?_)

theorem State.serveFetch_keeps {σ : State} (s : State) (p : Nat) (f : FetchJob) (hk : Keeps σ s) :
    Keeps σ (State.serveFetch s p f) := by
  unfold State.serveFetch
  repeat' first
    | with_reducible assumption
    | (with_reducible apply State.updEnt_keeps)
    | (with_reducible apply State.complete_keeps)
    | (with_reducible apply State.sendFetched_keeps)
    | (with_reducible apply State.readTokens_keeps)
    | split
    | ((try lift_lets); intro x; revert x; refine Keeps.letS (r := σ) ?_ (fun x hx => ?_))
    | (fail_if_no_progress ((with_reducible refine Keeps.mk ?_ ?_ ?_ ?_ ?_ ?_) <;> [skip; rfl; rfl; rfl; rfl; rfl]))

theorem State.reeled_keeps {σ : State} (s : State) (n p : Nat) (hk : Keeps σ s) :
    Keeps σ (State.reeled s n p) := by
  unfold State.reeled
  repeat' first
    | with_reducible assumption
    | (with_reducible apply State.updEnt_keeps)
    | (with_reducible refine Keeps.foldl _ (fun t a ht => ?_) ?_)

theorem State.releaseGroup_keeps {σ : State} (s : State) (n : Nat) (hk : Keeps σ s) : Keeps σ (s.releaseGroup n) := by
  unfold State.releaseGroup
  extract_lets live alive s1 s2 s3 ring s4 s5
  have k1 : Keeps σ s1 := Keeps.foldl _ (fun _ _ ht => State.endEnt_keeps _ _ _ _ ht) hk
  have k2 : Keeps σ s2 := Keeps.foldl _ (fun _ _ ht => State.freeEnt_keeps _ _ _ _ ht) k1
  have k3 : Keeps σ s3 := Keeps.foldl _ (fun _ _ ht => State.setCli_keeps _ _ _ ht) k2
  have k4 : Keeps σ s4 := Keeps.foldl _ (fun _ _ ht => State.complete_keeps _ _ _ _ _ _ _ _ ht) (State.setRing_keeps _ _ _ k3)
  have k5 : Keeps σ s5 := State.ackRing_keeps _ _ k4
  clear_value s5
  exact State.clrBit_keeps _ _ _ (Keeps.mk k5 rfl rfl rfl rfl rfl)

theorem State.heldGroup_keeps {σ : State} (s : State) (h : Origin × HeldWrite) (hk : Keeps σ s) :
    Keeps σ (State.heldGroup s h) := by
  unfold State.heldGroup
  repeat' first
    | with_reducible assumption
    | (with_reducible apply State.wrF_keeps)
    | (with_reducible apply State.setBit_keeps)
    | (with_reducible apply State.refuseWrite_keeps)
    | (with_reducible apply State.releaseGroup_keeps)
    | split

theorem State.groupStep_keeps {σ : State} (n : Nat) (a : State × Nat) (h : Keeps σ a.1) : Keeps σ (State.groupStep n a).1 := by
  unfold State.groupStep
  repeat' first
    | first
      | with_reducible assumption
      | (with_reducible apply State.freeEnded_keeps)
      | (with_reducible apply State.takeAll_keeps)
      | (with_reducible apply State.clientWrites_keeps)
      | (with_reducible apply State.refills_keeps)
      | (with_reducible apply State.admitGroup_keeps)
      | (with_reducible apply State.ordersDone_keeps)
      | (with_reducible apply State.selections_keeps)
      | (with_reducible apply State.serveFetch_keeps)
    | first
      | (with_reducible apply State.reeled_keeps)
      | (with_reducible refine Keeps.foldl _ (fun t a ht => ?_) ?_)
      | split
      | ((try lift_lets); intro x; revert x; refine Keeps.letS (r := σ) ?_ (fun x hx => ?_))

theorem State.groupStep_keeps_eq {σ : State} {n : Nat} {a : State × Nat} {t : State} {r : Nat} (h : Keeps σ a.1) (e : State.groupStep n a = (t, r)) : Keeps σ t := by
  have := State.groupStep_keeps n a h; rw [e] at this; exact this

theorem State.workStep_keeps {σ : State} (s : State) (hk : Keeps σ s) :
    Keeps σ (State.workStep s) := by
  unfold State.workStep
  repeat' first
    | with_reducible assumption
    | (with_reducible apply State.xbFlip_keeps)
    | (with_reducible apply State.clientWrites_keeps)
    | (with_reducible apply State.heldGroup_keeps)
    | (with_reducible apply State.groupStep_keeps)
    | (with_reducible refine Keeps.foldl _ (fun t a ht => ?_) ?_)
    | (with_reducible refine Keeps.foldl_fst _ (fun t a ht => ?_) ?_)
    | ((try lift_lets); intro x; revert x; refine Keeps.letS (r := σ) ?_ (fun x hx => ?_))
    | (fail_if_no_progress ((with_reducible refine Keeps.mk ?_ ?_ ?_ ?_ ?_ ?_) <;> [skip; rfl; rfl; rfl; rfl; rfl]))

theorem State.charge_keeps {σ : State} (s : State) (c resv used : Nat) (hk : Keeps σ s) :
    Keeps σ (State.charge s c resv used) := by
  unfold State.charge
  repeat' first
    | with_reducible assumption
    | (with_reducible apply State.setCli_keeps)

theorem State.keepTokens_keeps {σ : State} (s : State) (p e start : Nat) (toks : List Word) (hk : Keeps σ s) :
    Keeps σ (State.keepTokens s p e start toks) := by
  unfold State.keepTokens
  repeat' first
    | with_reducible assumption
    | (with_reducible apply State.updEnt_keeps)
    | (with_reducible apply State.putToken_keeps)
    | (with_reducible refine Keeps.foldl _ (fun t a ht => ?_) ?_)
    | split

theorem State.commitSlot_keeps {σ : State} (s : State) (n p : Nat) (bno : BitVec 48) (b : BSlot) (res : Option SlotResult) (hk : Keeps σ s) :
    Keeps σ (State.commitSlot s n p bno b res) := by
  unfold State.commitSlot
  repeat' first
    | with_reducible assumption
    | (with_reducible apply State.updEnt_keeps)
    | (with_reducible apply State.sendToken_keeps)
    | (with_reducible apply State.endEnt_keeps)
    | (with_reducible apply State.charge_keeps)
    | (with_reducible apply State.keepTokens_keeps)
    | split
    | ((try lift_lets); intro x; revert x; refine Keeps.letS (r := σ) ?_ (fun x hx => ?_))

theorem State.forgetTable_keeps {σ : State} (s : State) (t : BTable) (hk : Keeps σ s) :
    Keeps σ (State.forgetTable s t) := by
  unfold State.forgetTable
  repeat' first
    | with_reducible assumption
    | ((try lift_lets); intro x; revert x; refine Keeps.letS (r := σ) ?_ (fun x hx => ?_))
    | (fail_if_no_progress ((with_reducible refine Keeps.mk ?_ ?_ ?_ ?_ ?_ ?_) <;> [skip; rfl; rfl; rfl; rfl; rfl]))

theorem State.commitTable_keeps {σ : State} (s : State) (t : BTable) (hk : Keeps σ s) :
    Keeps σ (State.commitTable s t) := by
  unfold State.commitTable
  repeat' first
    | with_reducible assumption
    | (with_reducible apply State.xbSettle_keeps)
    | (with_reducible apply State.pgCommit_keeps)
    | (with_reducible apply State.commitSlot_keeps)
    | (with_reducible apply State.forgetTable_keeps)
    | (with_reducible refine Keeps.foldl _ (fun t a ht => ?_) ?_)
    | split

theorem State.dropSlot_keeps {σ : State} (s : State) (fault : Bool) (b : BSlot) (hk : Keeps σ s) :
    Keeps σ (State.dropSlot s fault b) := by
  unfold State.dropSlot
  repeat' first
    | with_reducible assumption
    | (with_reducible apply State.updEnt_keeps)
    | (with_reducible apply State.endEnt_keeps)
    | (with_reducible apply State.charge_keeps)
    | split

theorem State.discardTable_keeps {σ : State} (s : State) (fault : Bool) (t : BTable) (hk : Keeps σ s) :
    Keeps σ (State.discardTable s fault t) := by
  unfold State.discardTable
  repeat' first
    | with_reducible assumption
    | (with_reducible apply State.setLists_keeps)
    | (with_reducible apply State.forgetTable_keeps)
    | (with_reducible apply State.dropSlot_keeps)
    | (with_reducible refine Keeps.foldl _ (fun t a ht => ?_) ?_)
    | split

theorem State.commitMembers_keeps {σ : State} (s : State) (groups : Nat → Bool) (hk : Keeps σ s) :
    Keeps σ (State.commitMembers s groups) := by
  unfold State.commitMembers
  repeat' first
    | with_reducible assumption
    | (with_reducible apply State.pgCommit_keeps)
    | (with_reducible refine Keeps.foldl _ (fun t a ht => ?_) ?_)

theorem State.discardMembers_keeps {σ : State} (s : State) (groups : Nat → Bool) (hk : Keeps σ s) :
    Keeps σ (State.discardMembers s groups) := by
  unfold State.discardMembers
  repeat' first
    | with_reducible assumption
    | (with_reducible apply State.setLists_keeps)
    | (with_reducible refine Keeps.foldl _ (fun t a ht => ?_) ?_)
    | split

theorem State.dropUncommitted_keeps {σ : State} (s : State) (g : Nat) (hk : Keeps σ s) :
    Keeps σ (State.dropUncommitted s g) := by
  unfold State.dropUncommitted
  repeat' first
    | with_reducible assumption
    | (with_reducible apply State.unplace_keeps)
    | (with_reducible apply State.discardTable_keeps)
    | (with_reducible apply State.discardMembers_keeps)
    | (with_reducible refine Keeps.foldl _ (fun t a ht => ?_) ?_)
    | split
    | ((try lift_lets); intro x; revert x; refine Keeps.letS (r := σ) ?_ (fun x hx => ?_))

theorem State.snapshot_keeps {σ : State} (s : State) (hk : Keeps σ s) :
    Keeps σ (State.snapshot s) := by
  unfold State.snapshot
  repeat' first
    | with_reducible assumption
    | (with_reducible apply State.wr_keeps)
    | (with_reducible apply State.xbCount_keeps)
    | (with_reducible refine Keeps.foldl _ (fun t a ht => ?_) ?_)
    | ((try lift_lets); intro x; revert x; refine Keeps.letS (r := σ) ?_ (fun x hx => ?_))
    | (fail_if_no_progress ((with_reducible refine Keeps.mk ?_ ?_ ?_ ?_ ?_ ?_) <;> [skip; rfl; rfl; rfl; rfl; rfl]))

end Sys2Proof.Machine
end

