-- ==== Sys2Proof/Laws/KeepsAccess.lean ====
section
/-! SUPPORT. Each operation of Machine/Rt.lean, RlRun.lean, LoaderRun.lean, RegRun.lean, SeRun.lean, TetherRun.lean
keeps what `Keeps` says: one lemma per operation that answers a state. -/

namespace Sys2Proof.Machine

open Sys2Proof Sys2Proof.Laws

theorem State.setRecv_keeps {σ : State} (s : State) (r : BRecv) (hk : Keeps σ s) :
    Keeps σ (State.setRecv s r) := by
  unfold State.setRecv
  repeat' first
    | with_reducible assumption
    | ((try lift_lets); intro x; revert x; refine Keeps.letS (r := σ) ?_ (fun x hx => ?_))
    | (fail_if_no_progress ((with_reducible refine Keeps.mk ?_ ?_ ?_ ?_ ?_ ?_) <;> [skip; rfl; rfl; rfl; rfl; rfl]))

theorem State.refuseUnit_keeps {σ : State} (s : State) (unit cause chip part : Nat) (hk : Keeps σ s) :
    Keeps σ (State.refuseUnit s unit cause chip part) := by
  unfold State.refuseUnit
  repeat' first
    | with_reducible assumption
    | (with_reducible apply State.refuseLanding_keeps)

theorem State.btDeposit_keeps {σ : State} (s : State) (anchor i : Nat) (bytes : List Byte) (p : Nat) (hk : Keeps σ s) :
    Keeps σ (State.btDeposit s anchor i bytes p) := by
  unfold State.btDeposit
  repeat' first
    | with_reducible assumption
    | (with_reducible apply State.setBit_keeps)
    | (with_reducible apply State.unitPut_keeps)
    | (with_reducible apply State.refuseUnit_keeps)
    | split
    | ((try lift_lets); intro x; revert x; refine Keeps.letS (r := σ) ?_ (fun x hx => ?_))

theorem State.unitFlag_keeps {σ : State} (s : State) (p flag key unit : Nat) (hk : Keeps σ s) :
    Keeps σ (State.unitFlag s p flag key unit) := by
  unfold State.unitFlag
  repeat' first
    | with_reducible assumption
    | (with_reducible apply State.unitMiss_keeps)
    | (with_reducible apply State.postFlag_keeps)
    | split

theorem State.tableArrived_keeps {σ : State} (s : State) (g : Nat) (hk : Keeps σ s) :
    Keeps σ (State.tableArrived s g) := by
  unfold State.tableArrived
  repeat' first
    | with_reducible assumption
    | (with_reducible apply State.setLists_keeps)
    | (with_reducible apply State.refuseUnit_keeps)
    | (with_reducible refine Keeps.foldl _ (fun t a ht => ?_) ?_)
    | split

theorem State.batchCell_keeps {σ : State} (s : State) (g anchor i : Nat) (last : Bool) (bytes : List Byte) (hk : Keeps σ s) :
    Keeps σ (State.batchCell s g anchor i last bytes) := by
  unfold State.batchCell
  repeat' first
    | with_reducible assumption
    | (with_reducible apply State.setRecv_keeps)
    | (with_reducible apply State.btDeposit_keeps)
    | (with_reducible apply State.unitFlag_keeps)
    | (with_reducible apply State.tableArrived_keeps)
    | (with_reducible refine Keeps.foldl _ (fun t a ht => ?_) ?_)
    | split

theorem State.sendRoce_keeps {σ : State} (s0 : State) (k psn : Nat) (op : RoceOp) (va : DWord) (rkey : Word) (len : Nat) (data : List Byte) (hk : Keeps σ s0) :
    Keeps σ (State.sendRoce s0 k psn op va rkey len data) := by
  unfold State.sendRoce
  repeat' first
    | with_reducible assumption
    | (with_reducible apply State.carry_keeps)
    | ((try lift_lets); intro x; revert x; refine Keeps.letS (r := σ) ?_ (fun x hx => ?_))
    | (fail_if_no_progress ((with_reducible refine Keeps.mk ?_ ?_ ?_ ?_ ?_ ?_) <;> [skip; rfl; rfl; rfl; rfl; rfl]))

theorem State.sendReq_keeps {σ : State} (s : State) (k : Nat) (r : RoceReq) (skip : Nat) (hk : Keeps σ s) :
    Keeps σ (State.sendReq s k r skip) := by
  unfold State.sendReq
  repeat' first
    | with_reducible assumption
    | (with_reducible apply State.sendRoce_keeps)
    | (with_reducible refine Keeps.foldl _ (fun t a ht => ?_) ?_)

theorem State.postReq_keeps {σ : State} (s : State) (k : Nat) (r : RoceReq) (hk : Keeps σ s) :
    Keeps σ (State.postReq s k r) := by
  unfold State.postReq
  repeat' first
    | with_reducible assumption
    | (with_reducible apply State.wrF_keeps)
    | (with_reducible apply State.setQp_keeps)
    | (with_reducible apply State.sendReq_keeps)
    | split
    | ((try lift_lets); intro x; revert x; refine Keeps.letS (r := σ) ?_ (fun x hx => ?_))

theorem State.resendFrom_keeps {σ : State} (s : State) (k psn : Nat) (hk : Keeps σ s) :
    Keeps σ (State.resendFrom s k psn) := by
  unfold State.resendFrom
  repeat' first
    | with_reducible assumption
    | (with_reducible apply State.sendReq_keeps)
    | (with_reducible refine Keeps.foldl _ (fun t a ht => ?_) ?_)
    | split
    | ((try lift_lets); intro x; revert x; refine Keeps.letS (r := σ) ?_ (fun x hx => ?_))

theorem State.putFrame_keeps {σ : State} (s : State) (rl p frame off : Nat) (bs : List Byte) (hk : Keeps σ s) :
    Keeps σ (State.putFrame s rl p frame off bs) := by
  unfold State.putFrame
  repeat' first
    | with_reducible assumption
    | (with_reducible apply State.unitWrite_keeps)
    | (with_reducible refine Keeps.foldl _ (fun t a ht => ?_) ?_)
    | split
    | ((try lift_lets); intro x; revert x; refine Keeps.letS (r := σ) ?_ (fun x hx => ?_))

theorem State.readParts_keeps {σ : State} (s : State) (rl p : Nat) (parts : List (Nat × Nat × Nat)) (hk : Keeps σ s) :
    Keeps σ (State.readParts s rl p parts).2.2 := by
  unfold State.readParts
  repeat' first
    | with_reducible assumption
    | (with_reducible apply State.atEndpoint_keeps)
    | (with_reducible apply State.unitRead_keeps)
    | (with_reducible refine Keeps.foldl_trd _ (fun t a ht => ?_) ?_)

theorem State.readParts_keeps_eq {σ : State} {s : State} {rl : Nat} {p : Nat} {parts : List (Nat × Nat × Nat)} {t : State} {r : List Byte} {r2 : Bool} (hk : Keeps σ s) (he : State.readParts s rl p parts = (r, r2, t)) :
    Keeps σ t := by
  have := State.readParts_keeps s rl p parts hk; rw [he] at this; exact this

theorem State.sendRecord_keeps {σ : State} (s : State) (p : Nat) (hk : Keeps σ s) :
    Keeps σ (State.sendRecord s p) := by
  unfold State.sendRecord
  repeat' first
    | with_reducible assumption
    | split
    | ((try lift_lets); intro x; revert x; refine Keeps.letS (r := σ) ?_ (fun x hx => ?_))
    | (fail_if_no_progress ((with_reducible refine Keeps.mk ?_ ?_ ?_ ?_ ?_ ?_) <;> [skip; rfl; rfl; rfl; rfl; rfl]))

theorem State.settleDone_keeps {σ : State} (s : State) (p : Nat) (hk : Keeps σ s) :
    Keeps σ (State.settleDone s p) := by
  unfold State.settleDone
  repeat' first
    | with_reducible assumption
    | (with_reducible apply State.setPg_keeps)
    | (with_reducible apply State.sendRecord_keeps)
    | split
    | ((try lift_lets); intro x; revert x; refine Keeps.letS (r := σ) ?_ (fun x hx => ?_))

theorem State.finishOrder_keeps {σ : State} (s : State) (p : Nat) (o : Order) (hk : Keeps σ s) :
    Keeps σ (State.finishOrder s p o) := by
  unfold State.finishOrder
  repeat' first
    | with_reducible assumption
    | (with_reducible apply State.setPg_keeps)
    | (with_reducible apply State.settleDone_keeps)

theorem State.failOrder_keeps {σ : State} (s : State) (p seq : Nat) (poison : Bool) (hk : Keeps σ s) :
    Keeps σ (State.failOrder s p seq poison) := by
  unfold State.failOrder
  repeat' first
    | with_reducible assumption
    | (with_reducible apply State.setBit_keeps)
    | (with_reducible apply State.setPg_keeps)
    | (with_reducible apply State.sendRecord_keeps)
    | split
    | ((try lift_lets); intro x; revert x; refine Keeps.letS (r := σ) ?_ (fun x hx => ?_))

theorem State.startOrder_keeps {σ : State} (s : State) (p : Nat) (o : Order) (hk : Keeps σ s) :
    Keeps σ (State.startOrder s p o) := by
  unfold State.startOrder
  repeat' first
    | with_reducible assumption
    | (with_reducible apply State.setPg_keeps)
    | (with_reducible apply State.postReq_keeps)
    | (with_reducible apply State.finishOrder_keeps)
    | (with_reducible apply State.failOrder_keeps)
    | (with_reducible apply State.readParts_keeps)
    | split
    | ((try lift_lets); intro x; revert x; refine Keeps.letS (r := σ) ?_ (fun x hx => ?_))
    | (fail_if_no_progress ((with_reducible refine Keeps.mk ?_ ?_ ?_ ?_ ?_ ?_) <;> [skip; rfl; rfl; rfl; rfl; rfl]))

theorem State.reelAgain_keeps {σ : State} (s : State) (p seq : Nat) (hk : Keeps σ s) :
    Keeps σ (State.reelAgain s p seq) := by
  unfold State.reelAgain
  repeat' first
    | with_reducible assumption
    | (with_reducible apply State.startOrder_keeps)
    | split

theorem State.startOrders_keeps {σ : State} (s : State) (p : Nat) (hk : Keeps σ s) :
    Keeps σ (State.startOrders s p) := by
  unfold State.startOrders
  repeat' first
    | with_reducible assumption
    | (with_reducible apply State.startOrder_keeps)
    | (with_reducible refine Keeps.foldl _ (fun t a ht => ?_) ?_)

theorem State.closeOp_keeps {σ : State} (s : State) (p seq : Nat) (hk : Keeps σ s) :
    Keeps σ (State.closeOp s p seq) := by
  unfold State.closeOp
  repeat' first
    | with_reducible assumption
    | (with_reducible apply State.setPg_keeps)

theorem State.qpError_keeps {σ : State} (s : State) (k : Nat) (hk : Keeps σ s) :
    Keeps σ (State.qpError s k) := by
  unfold State.qpError
  repeat' first
    | with_reducible assumption
    | (with_reducible apply State.wrF_keeps)
    | (with_reducible apply State.setQp_keeps)
    | (with_reducible apply State.failOrder_keeps)
    | (with_reducible refine Keeps.foldl _ (fun t a ht => ?_) ?_)

theorem State.retryFrom_keeps {σ : State} (s : State) (k psn : Nat) (hk : Keeps σ s) :
    Keeps σ (State.retryFrom s k psn) := by
  unfold State.retryFrom
  repeat' first
    | with_reducible assumption
    | (with_reducible apply State.setQp_keeps)
    | (with_reducible apply State.resendFrom_keeps)
    | (with_reducible apply State.qpError_keeps)
    | split
    | ((try lift_lets); intro x; revert x; refine Keeps.letS (r := σ) ?_ (fun x hx => ?_))

theorem State.sendMore_keeps {σ : State} (s : State) (k before : Nat) (hk : Keeps σ s) :
    Keeps σ (State.sendMore s k before) := by
  unfold State.sendMore
  repeat' first
    | with_reducible assumption
    | (with_reducible apply State.sendReq_keeps)
    | (with_reducible refine Keeps.foldl _ (fun t a ht => ?_) ?_)

theorem State.ackReqs_keeps {σ : State} (s : State) (k psn : Nat) (hk : Keeps σ s) :
    Keeps σ (State.ackReqs s k psn) := by
  unfold State.ackReqs
  repeat' first
    | with_reducible assumption
    | (with_reducible apply State.setQp_keeps)
    | (with_reducible apply State.closeOp_keeps)
    | (with_reducible apply State.sendMore_keeps)
    | (with_reducible refine Keeps.foldl _ (fun t a ht => ?_) ?_)
    | split
    | ((try lift_lets); intro x; revert x; refine Keeps.letS (r := σ) ?_ (fun x hx => ?_))

theorem State.roceIn_keeps {σ : State} (s : State) (p : RocePkt) (hk : Keeps σ s) :
    Keeps σ (State.roceIn s p).1 := by
  unfold State.roceIn
  repeat' first
    | with_reducible assumption
    | (with_reducible apply State.bump_keeps)
    | (with_reducible apply State.setQp_keeps)
    | (with_reducible apply State.sendRoce_keeps)
    | (with_reducible apply State.frameIn_keeps)
    | split
    | ((try lift_lets); intro x; revert x; refine Keeps.letS (r := σ) ?_ (fun x hx => ?_))

theorem State.roceIn_keeps_eq {σ : State} {s : State} {p : RocePkt} {t : State} {r : Bool} (hk : Keeps σ s) (he : State.roceIn s p = (t, r)) :
    Keeps σ t := by
  have := State.roceIn_keeps s p hk; rw [he] at this; exact this

theorem State.goOn_keeps {σ : State} (s : State) (p : Nat) (hk : Keeps σ s) :
    Keeps σ (State.goOn s p) := by
  unfold State.goOn
  repeat' first
    | with_reducible assumption
    | (with_reducible apply State.setPg_keeps)
    | (with_reducible apply State.sendRecord_keeps)
    | (with_reducible apply State.startOrders_keeps)

theorem State.rlRetry_keeps {σ : State} (s : State) (p : Nat) (hk : Keeps σ s) :
    Keeps σ (State.rlRetry s p) := by
  unfold State.rlRetry
  repeat' first
    | with_reducible assumption
    | (with_reducible apply State.setPg_keeps)
    | (with_reducible apply State.startOrder_keeps)
    | (with_reducible apply State.goOn_keeps)
    | split
    | ((try lift_lets); intro x; revert x; refine Keeps.letS (r := σ) ?_ (fun x hx => ?_))

theorem State.rlAbandon_keeps {σ : State} (s : State) (p : Nat) (hk : Keeps σ s) :
    Keeps σ (State.rlAbandon s p) := by
  unfold State.rlAbandon
  repeat' first
    | with_reducible assumption
    | (with_reducible apply State.setPg_keeps)
    | (with_reducible apply State.goOn_keeps)
    | split
    | ((try lift_lets); intro x; revert x; refine Keeps.letS (r := σ) ?_ (fun x hx => ?_))

theorem State.rlControls_keeps {σ : State} (s : State) (hk : Keeps σ s) :
    Keeps σ (State.rlControls s) := by
  unfold State.rlControls
  repeat' first
    | with_reducible assumption
    | (with_reducible apply State.setPg_keeps)
    | (with_reducible apply State.rlRetry_keeps)
    | (with_reducible apply State.rlAbandon_keeps)
    | (with_reducible refine Keeps.foldl _ (fun t a ht => ?_) ?_)
    | split

theorem State.readRecords_keeps {σ : State} (s : State) (p : Nat) (hk : Keeps σ s) :
    Keeps σ (State.readRecords s p) := by
  unfold State.readRecords
  repeat' first
    | with_reducible assumption
    | (with_reducible apply State.setBit_keeps)
    | (with_reducible apply State.event_keeps)
    | (with_reducible apply State.setPg_keeps)
    | (with_reducible apply State.pgRead_keeps)
    | (with_reducible refine Keeps.foldl _ (fun t a ht => ?_) ?_)
    | split
    | ((try lift_lets); intro x; revert x; refine Keeps.letS (r := σ) ?_ (fun x hx => ?_))

theorem State.loaderPut_keeps {σ : State} (s : State) (p : Prog) (c a : Nat) (bs : List Byte) (hk : Keeps σ s) :
    Keeps σ (State.loaderPut s p c a bs) := by
  unfold State.loaderPut
  repeat' first
    | with_reducible assumption
    | (with_reducible apply State.writeG_keeps)

theorem State.placeSections_keeps {σ : State} (s : State) (p : Prog) (hk : Keeps σ s) :
    Keeps σ (State.placeSections s p) := by
  unfold State.placeSections
  repeat' first
    | with_reducible assumption
    | (with_reducible apply State.loaderPut_keeps)
    | (with_reducible refine Keeps.foldl _ (fun t a ht => ?_) ?_)

theorem State.zeroProg_keeps {σ : State} (s : State) (p : Prog) (hk : Keeps σ s) :
    Keeps σ (State.zeroProg s p) := by
  unfold State.zeroProg
  repeat' first
    | with_reducible assumption
    | (with_reducible apply State.setBit_keeps)
    | (with_reducible apply State.zeroize_keeps)
    | (with_reducible refine Keeps.foldl _ (fun t a ht => ?_) ?_)

theorem State.zeroDone_keeps {σ : State} (s : State) (hk : Keeps σ s) :
    Keeps σ (State.zeroDone s) := by
  unfold State.zeroDone
  repeat' first
    | with_reducible assumption
    | (with_reducible apply State.wrF_keeps)
    | (with_reducible refine Keeps.foldl _ (fun t a ht => ?_) ?_)

theorem State.updPart_keeps {σ : State} (s : State) (p : Nat) (f : Part → Part) (hk : Keeps σ s) :
    Keeps σ (State.updPart s p f) := by
  unfold State.updPart
  repeat' first
    | with_reducible assumption
    | (with_reducible apply State.setPart_keeps)

theorem State.partTo_keeps {σ : State} (s : State) (p : Nat) (st : PState) (hk : Keeps σ s) :
    Keeps σ (State.partTo s p st) := by
  unfold State.partTo
  repeat' first
    | with_reducible assumption
    | (with_reducible apply State.log_keeps)
    | (with_reducible apply State.updPart_keeps)
    | split
    | ((try lift_lets); intro x; revert x; refine Keeps.letS (r := σ) ?_ (fun x hx => ?_))

theorem State.loadRefused_keeps {σ : State} (s : State) (p code : Nat) (hk : Keeps σ s) :
    Keeps σ (State.loadRefused s p code) := by
  unfold State.loadRefused
  repeat' first
    | with_reducible assumption
    | (with_reducible apply State.log_keeps)

theorem State.patchOne_keeps {σ : State} (s : State) (p : Prog) (e : List Byte) (v : Nat) (hk : Keeps σ s) :
    Keeps σ (State.patchOne s p e v) := by
  unfold State.patchOne
  repeat' first
    | with_reducible assumption
    | (with_reducible apply State.writeMasked_keeps)
    | (with_reducible apply State.loaderPut_keeps)
    | (with_reducible refine Keeps.foldl _ (fun t a ht => ?_) ?_)
    | split

theorem State.installRuns_keeps {σ : State} (s : State) (owner : Nat) (m : Image) (hk : Keeps σ s) :
    Keeps σ (State.installRuns s owner m) := by
  unfold State.installRuns
  repeat' first
    | with_reducible assumption
    | ((try lift_lets); intro x; revert x; refine Keeps.letS (r := σ) ?_ (fun x hx => ?_))
    | (fail_if_no_progress ((with_reducible refine Keeps.mk ?_ ?_ ?_ ?_ ?_ ?_) <;> [skip; rfl; rfl; rfl; rfl; rfl]))

theorem State.removeRuns_keeps {σ : State} (s : State) (owner : Nat) (hk : Keeps σ s) :
    Keeps σ (State.removeRuns s owner) := by
  unfold State.removeRuns
  repeat' first
    | with_reducible assumption
    | ((try lift_lets); intro x; revert x; refine Keeps.letS (r := σ) ?_ (fun x hx => ?_))
    | (fail_if_no_progress ((with_reducible refine Keeps.mk ?_ ?_ ?_ ?_ ?_ ?_) <;> [skip; rfl; rfl; rfl; rfl; rfl]))

theorem State.bindSlice_keeps {σ : State} (s : State) (pr : Prog) (secure : Bool) (c : Nat) (hk : Keeps σ s) :
    Keeps σ (State.bindSlice s pr secure c) := by
  unfold State.bindSlice
  repeat' first
    | with_reducible assumption
    | (with_reducible apply State.wr_keeps)
    | (with_reducible refine Keeps.foldl _ (fun t a ht => ?_) ?_)

theorem State.bindCore_keeps {σ : State} (s : State) (p : Prog) (c : Nat) (hk : Keeps σ s) :
    Keeps σ (State.bindCore s p c) := by
  unfold State.bindCore
  repeat' first
    | with_reducible assumption
    | (with_reducible apply State.wr_keeps)
    | (with_reducible apply State.updCore_keeps)
    | (with_reducible apply State.checkRows_keeps)
    | (with_reducible refine Keeps.foldl _ (fun t a ht => ?_) ?_)
    | split
    | ((try lift_lets); intro x; revert x; refine Keeps.letS (r := σ) ?_ (fun x hx => ?_))
    | (fail_if_no_progress ((with_reducible refine Keeps.mk ?_ ?_ ?_ ?_ ?_ ?_) <;> [skip; rfl; rfl; rfl; rfl; rfl]))

theorem State.setRegions_keeps {σ : State} (s : State) (p level : Nat) (at_ : Nat → Bool) (hk : Keeps σ s) :
    Keeps σ (State.setRegions s p level at_) := by
  unfold State.setRegions
  repeat' first
    | with_reducible assumption
    | (with_reducible apply State.wrF_keeps)
    | (with_reducible apply State.clrBit_keeps)
    | (with_reducible refine Keeps.foldl _ (fun t a ht => ?_) ?_)
    | split

theorem State.wakeRegions_keeps {σ : State} (s : State) (p : Nat) (hk : Keeps σ s) :
    Keeps σ (State.wakeRegions s p) := by
  unfold State.wakeRegions
  repeat' first
    | with_reducible assumption
    | (with_reducible apply State.setRegions_keeps)

theorem State.raiseRegions_keeps {σ : State} (s : State) (p : Nat) (hk : Keeps σ s) :
    Keeps σ (State.raiseRegions s p) := by
  unfold State.raiseRegions
  repeat' first
    | with_reducible assumption
    | (with_reducible apply State.setRegions_keeps)

theorem State.orphanReqs_keeps {σ : State} (s : State) (p : Nat) (hk : Keeps σ s) :
    Keeps σ (State.orphanReqs s p) := by
  unfold State.orphanReqs
  exact Keeps.foldl _ (fun t _ ht => State.setQp_keeps t _ _ ht) hk

theorem State.bindTo_keeps {σ : State} (s : State) (p : Nat) (pr : Prog) (b : BindBody) (hk : Keeps σ s) :
    Keeps σ (State.bindTo s p pr b) := by
  unfold State.bindTo
  repeat' first
    | first
      | with_reducible assumption
      | (with_reducible apply State.setPg_keeps)
      | (with_reducible apply State.takeBooks_keeps)
      | (with_reducible apply State.updPart_keeps)
      | (with_reducible apply State.partTo_keeps)
      | (with_reducible apply State.patchOne_keeps)
      | (with_reducible apply State.installRuns_keeps)
      | (with_reducible apply State.bindSlice_keeps)
      | (with_reducible apply State.bindCore_keeps)
    | first
      | (with_reducible apply State.wakeRegions_keeps)
      | (with_reducible apply State.clearFlags_keeps)
      | (with_reducible apply State.orphanReqs_keeps)
      | (with_reducible refine Keeps.foldl _ (fun t a ht => ?_) ?_)
      | split

theorem State.releaseProgs_keeps {σ : State} (s : State) (p : Nat) (keep : Word) (hk : Keeps σ s) :
    Keeps σ (State.releaseProgs s p keep) := by
  unfold State.releaseProgs
  repeat' first
    | with_reducible assumption
    | (with_reducible apply State.zeroProg_keeps)
    | (with_reducible apply State.updPart_keeps)
    | (with_reducible refine Keeps.foldl _ (fun t a ht => ?_) ?_)

theorem State.unbindCore_keeps {σ : State} (s : State) (c : Nat) (hk : Keeps σ s) :
    Keeps σ (State.unbindCore s c) := by
  unfold State.unbindCore
  repeat' first
    | with_reducible assumption
    | (with_reducible apply State.updCore_keeps)

theorem State.unbindPart_keeps {σ : State} (s : State) (p : Nat) (keep : Word) (hk : Keeps σ s) :
    Keeps σ (State.unbindPart s p keep) := by
  unfold State.unbindPart
  repeat' first
    | with_reducible assumption
    | (with_reducible apply State.dropUncommitted_keeps)
    | (with_reducible apply State.updPart_keeps)
    | (with_reducible apply State.removeRuns_keeps)
    | (with_reducible apply State.clearFlags_keeps)
    | (with_reducible apply State.releaseProgs_keeps)
    | (with_reducible apply State.unbindCore_keeps)
    | (with_reducible refine Keeps.foldl _ (fun t a ht => ?_) ?_)
    | split

theorem State.logTransit_keeps {σ : State} (s : State) (old new : PState) (hk : Keeps σ s) :
    Keeps σ (State.logTransit s old new) := by
  unfold State.logTransit
  repeat' first
    | with_reducible assumption
    | (with_reducible apply State.log_keeps)

theorem State.unbindTransits_keeps {σ : State} (s : State) (keep : Word) (hk : Keeps σ s) :
    Keeps σ (State.unbindTransits s keep) := by
  unfold State.unbindTransits
  repeat' first
    | with_reducible assumption
    | (with_reducible apply State.removeRuns_keeps)
    | (with_reducible apply State.releaseProgs_keeps)
    | (with_reducible apply State.logTransit_keeps)
    | (with_reducible refine Keeps.foldl _ (fun t a ht => ?_) ?_)
    | (fail_if_no_progress ((with_reducible refine Keeps.mk ?_ ?_ ?_ ?_ ?_ ?_) <;> [skip; rfl; rfl; rfl; rfl; rfl]))

theorem State.bindHalf_keeps {σ : State} (s : State) (o : PartOp) (b : BindBody) (hk : Keeps σ s) :
    Keeps σ (State.bindHalf s o b).1 := by
  unfold State.bindHalf
  repeat' first
    | with_reducible assumption
    | (with_reducible apply State.loadRefused_keeps)
    | (with_reducible apply State.installRuns_keeps)
    | (with_reducible apply State.bindTo_keeps)
    | (with_reducible apply State.logTransit_keeps)
    | split
    | ((try lift_lets); intro x; revert x; refine Keeps.letS (r := σ) ?_ (fun x hx => ?_))
    | (fail_if_no_progress ((with_reducible refine Keeps.mk ?_ ?_ ?_ ?_ ?_ ?_) <;> [skip; rfl; rfl; rfl; rfl; rfl]))

theorem State.bindHalf_keeps_eq {σ : State} {s : State} {o : PartOp} {b : BindBody} {t : State} {r : OpEnd} (hk : Keeps σ s) (he : State.bindHalf s o b = (t, r)) :
    Keeps σ t := by
  have := State.bindHalf_keeps s o b hk; rw [he] at this; exact this

theorem State.opFirst_keeps {σ : State} (s : State) (o : PartOp) (hk : Keeps σ s) :
    Keeps σ (State.opFirst s o).1 := by
  unfold State.opFirst
  repeat' first
    | with_reducible assumption
    | (with_reducible apply State.partTo_keeps)
    | (with_reducible apply State.unbindPart_keeps)
    | (with_reducible apply State.unbindTransits_keeps)
    | (refine State.bindHalf_keeps_eq (he := by assumption) ?_)
    | split
    | ((try lift_lets); intro x; revert x; refine Keeps.letS (r := σ) ?_ (fun x hx => ?_))

theorem State.opFirst_keeps_eq {σ : State} {s : State} {o : PartOp} {t : State} {r : OpEnd} (hk : Keeps σ s) (he : State.opFirst s o = (t, r)) :
    Keeps σ t := by
  have := State.opFirst_keeps s o hk; rw [he] at this; exact this

theorem State.opStep_keeps {σ : State} (s : State) (o : PartOp) (hk : Keeps σ s) :
    Keeps σ (State.opStep s o).1 := by
  unfold State.opStep
  repeat' first
    | with_reducible assumption
    | (with_reducible apply State.partTo_keeps)
    | (with_reducible apply State.raiseRegions_keeps)
    | (with_reducible apply State.logTransit_keeps)
    | (with_reducible apply State.opFirst_keeps)
    | split
    | (fail_if_no_progress ((with_reducible refine Keeps.mk ?_ ?_ ?_ ?_ ?_ ?_) <;> [skip; rfl; rfl; rfl; rfl; rfl]))

theorem State.opStep_keeps_eq {σ : State} {s : State} {o : PartOp} {t : State} {r : OpEnd} (hk : Keeps σ s) (he : State.opStep s o = (t, r)) :
    Keeps σ t := by
  have := State.opStep_keeps s o hk; rw [he] at this; exact this

theorem State.partSteps_keeps {σ : State} (s : State) (l : List PartOp) (h : Keeps σ s) : Keeps σ (s.partSteps l) := by
  induction l generalizing s with
  | nil => exact h
  | cons o r ih =>
    unfold State.partSteps
    split
    · next e => exact ih _ (Keeps.mk (State.opStep_keeps_eq h e) rfl rfl rfl rfl rfl)
    · next e => exact ih _ (State.complete_keeps _ _ _ _ _ _ _ _ (State.opStep_keeps_eq h e))

theorem State.partBoundary_keeps {σ : State} (s : State) (hk : Keeps σ s) :
    Keeps σ (State.partBoundary s) := by
  unfold State.partBoundary
  repeat' first
    | with_reducible assumption
    | (with_reducible apply State.zeroDone_keeps)
    | (with_reducible apply State.partSteps_keeps)
    | ((try lift_lets); intro x; revert x; refine Keeps.letS (r := σ) ?_ (fun x hx => ?_))
    | (fail_if_no_progress ((with_reducible refine Keeps.mk ?_ ?_ ?_ ?_ ?_ ?_) <;> [skip; rfl; rfl; rfl; rfl; rfl]))

theorem State.haltPart_keeps {σ : State} (s : State) (p : Nat) (hk : Keeps σ s) :
    Keeps σ (State.haltPart s p) := by
  unfold State.haltPart
  repeat' first
    | with_reducible assumption
    | (with_reducible apply State.partTo_keeps)
    | split
    | ((try lift_lets); intro x; revert x; refine Keeps.letS (r := σ) ?_ (fun x hx => ?_))

theorem State.haltTransits_keeps {σ : State} (s : State) (hk : Keeps σ s) :
    Keeps σ (State.haltTransits s) := by
  unfold State.haltTransits
  repeat' first
    | with_reducible assumption
    | (with_reducible apply State.logTransit_keeps)
    | (with_reducible refine Keeps.foldl _ (fun t a ht => ?_) ?_)
    | split
    | ((try lift_lets); intro x; revert x; refine Keeps.letS (r := σ) ?_ (fun x hx => ?_))
    | (fail_if_no_progress ((with_reducible refine Keeps.mk ?_ ?_ ?_ ?_ ?_ ?_) <;> [skip; rfl; rfl; rfl; rfl; rfl]))

theorem State.regWorld_keeps {σ : State} (s : State) (o : Origin) (kind a : Nat) (v : Word) (hk : Keeps σ s) :
    Keeps σ (State.regWorld s o kind a v) := by
  unfold State.regWorld
  repeat' first
    | with_reducible assumption
    | (with_reducible apply State.event_keeps)
    | (with_reducible apply State.log_keeps)

theorem State.sampleMon_keeps {σ : State} (s : State) (a : Nat) (hk : Keeps σ s) :
    Keeps σ (State.sampleMon s a) := by
  unfold State.sampleMon
  repeat' first
    | with_reducible assumption
    | (with_reducible apply State.wrF_keeps)
    | split
    | ((try lift_lets); intro x; revert x; refine Keeps.letS (r := σ) ?_ (fun x hx => ?_))
    | (fail_if_no_progress ((with_reducible refine Keeps.mk ?_ ?_ ?_ ?_ ?_ ?_) <;> [skip; rfl; rfl; rfl; rfl; rfl]))

theorem State.measure_keeps {σ : State} (s : State) (a : Nat) (hk : Keeps σ s) :
    Keeps σ (State.measure s a) := by
  unfold State.measure
  repeat' first
    | with_reducible assumption
    | (with_reducible apply State.wrF_keeps)
    | split
    | ((try lift_lets); intro x; revert x; refine Keeps.letS (r := σ) ?_ (fun x hx => ?_))
    | (fail_if_no_progress ((with_reducible refine Keeps.mk ?_ ?_ ?_ ?_ ?_ ?_) <;> [skip; rfl; rfl; rfl; rfl; rfl]))

theorem State.codewords_keeps {σ : State} (s : State) (a : Nat) (hk : Keeps σ s) :
    Keeps σ (State.codewords s a) := by
  unfold State.codewords
  repeat' first
    | with_reducible assumption
    | (with_reducible apply State.wr_keeps)
    | split
    | ((try lift_lets); intro x; revert x; refine Keeps.letS (r := σ) ?_ (fun x hx => ?_))
    | (fail_if_no_progress ((with_reducible refine Keeps.mk ?_ ?_ ?_ ?_ ?_ ?_) <;> [skip; rfl; rfl; rfl; rfl; rfl]))

theorem State.counterSet_keeps {σ : State} (s : State) (a : Nat) (hk : Keeps σ s) :
    Keeps σ (State.counterSet s a) := by
  unfold State.counterSet
  repeat' first
    | with_reducible assumption
    | (with_reducible apply State.updCore_keeps)
    | split
    | ((try lift_lets); intro x; revert x; refine Keeps.letS (r := σ) ?_ (fun x hx => ?_))

theorem State.countUp_keeps {σ : State} (s : State) (a : Nat) (hk : Keeps σ s) :
    Keeps σ (State.countUp s a) := by
  unfold State.countUp
  repeat' first
    | with_reducible assumption
    | (with_reducible apply State.wr_keeps)
    | (with_reducible apply State.counterSet_keeps)
    | split
    | ((try lift_lets); intro x; revert x; refine Keeps.letS (r := σ) ?_ (fun x hx => ?_))
    | (fail_if_no_progress ((with_reducible refine Keeps.mk ?_ ?_ ?_ ?_ ?_ ?_) <;> [skip; rfl; rfl; rfl; rfl; rfl]))

theorem State.regRead_keeps {σ : State} (s : State) (o : Origin) (a : Nat) (hk : Keeps σ s) :
    Keeps σ (State.regRead s o a).2.2 := by
  unfold State.regRead
  repeat' first
    | with_reducible assumption
    | (with_reducible apply State.regWorld_keeps)
    | (with_reducible apply State.sampleMon_keeps)
    | (with_reducible apply State.measure_keeps)
    | (with_reducible apply State.codewords_keeps)
    | (with_reducible apply State.countUp_keeps)
    | (with_reducible apply State.draw_keeps)
    | split
    | ((try lift_lets); intro x; revert x; refine Keeps.letS (r := σ) ?_ (fun x hx => ?_))
    | (fail_if_no_progress ((with_reducible refine Keeps.mk ?_ ?_ ?_ ?_ ?_ ?_) <;> [skip; rfl; rfl; rfl; rfl; rfl]))

theorem State.regRead_keeps_eq {σ : State} {s : State} {o : Origin} {a : Nat} {t : State} {r : Word} {r2 : Nat} (hk : Keeps σ s) (he : State.regRead s o a = (r, r2, t)) :
    Keeps σ t := by
  have := State.regRead_keeps s o a hk; rw [he] at this; exact this

theorem State.writeSc_keeps {σ : State} (s : State) (o : Origin) (a : Nat) (v : Word) (hk : Keeps σ s) :
    Keeps σ (State.writeSc s o a v) := by
  unfold State.writeSc
  repeat' first
    | with_reducible assumption
    | (with_reducible apply State.wr_keeps)
    | (with_reducible apply State.setBit_keeps)
    | (with_reducible apply State.log_keeps)
    | (with_reducible apply State.refuseWrite_keeps)
    | (with_reducible apply State.writeTyped_keeps)
    | split

theorem State.chooseSource_keeps {σ : State} (s : State) (hk : Keeps σ s) :
    Keeps σ (State.chooseSource s) := by
  unfold State.chooseSource
  repeat' first
    | with_reducible assumption
    | ((try lift_lets); intro x; revert x; refine Keeps.letS (r := σ) ?_ (fun x hx => ?_))
    | (fail_if_no_progress ((with_reducible refine Keeps.mk ?_ ?_ ?_ ?_ ?_ ?_) <;> [skip; rfl; rfl; rfl; rfl; rfl]))

theorem State.writeTb_keeps {σ : State} (s : State) (o : Origin) (a : Nat) (v : Word) (hk : Keeps σ s) :
    Keeps σ (State.writeTb s o a v) := by
  unfold State.writeTb
  repeat' first
    | with_reducible assumption
    | (with_reducible apply State.refuseWrite_keeps)
    | (with_reducible apply State.writeTyped_keeps)
    | (with_reducible apply State.chooseSource_keeps)
    | split

theorem State.writePm_keeps {σ : State} (s : State) (o : Origin) (a : Nat) (v : Word) (hk : Keeps σ s) :
    Keeps σ (State.writePm s o a v) := by
  unfold State.writePm
  repeat' first
    | with_reducible assumption
    | (with_reducible apply State.refuseWrite_keeps)
    | (with_reducible apply State.writeTyped_keeps)
    | (with_reducible apply State.levelRequest_keeps)
    | split
    | ((try lift_lets); intro x; revert x; refine Keeps.letS (r := σ) ?_ (fun x hx => ?_))

theorem State.hold_keeps {σ : State} (s : State) (o : Origin) (h : HeldWrite) (hk : Keeps σ s) :
    Keeps σ (State.hold s o h) := by
  unfold State.hold
  repeat' first
    | with_reducible assumption
    | ((try lift_lets); intro x; revert x; refine Keeps.letS (r := σ) ?_ (fun x hx => ?_))
    | (fail_if_no_progress ((with_reducible refine Keeps.mk ?_ ?_ ?_ ?_ ?_ ?_) <;> [skip; rfl; rfl; rfl; rfl; rfl]))

theorem State.writeGroupCtl_keeps {σ : State} (s : State) (o : Origin) (n : Nat) (v : Word) (hk : Keeps σ s) :
    Keeps σ (State.writeGroupCtl s o n v) := by
  unfold State.writeGroupCtl
  repeat' first
    | with_reducible assumption
    | (with_reducible apply State.wrF_keeps)
    | (with_reducible apply State.logWrite_keeps)
    | (with_reducible apply State.hold_keeps)
    | split

theorem State.writeRt_keeps {σ : State} (s : State) (o : Origin) (a : Nat) (v : Word) (hk : Keeps σ s) :
    Keeps σ (State.writeRt s o a v) := by
  unfold State.writeRt
  repeat' first
    | with_reducible assumption
    | (with_reducible apply State.refuseWrite_keeps)
    | (with_reducible apply State.writeTyped_keeps)
    | (with_reducible apply State.hold_keeps)
    | (with_reducible apply State.writeGroupCtl_keeps)
    | split
    | ((try lift_lets); intro x; revert x; refine Keeps.letS (r := σ) ?_ (fun x hx => ?_))

theorem State.writePg_keeps {σ : State} (s : State) (o : Origin) (a : Nat) (v : Word) (hk : Keeps σ s) :
    Keeps σ (State.writePg s o a v) := by
  unfold State.writePg
  repeat' first
    | with_reducible assumption
    | (with_reducible apply State.setPg_keeps)
    | (with_reducible apply State.refuseWrite_keeps)
    | (with_reducible apply State.logWrite_keeps)
    | (with_reducible apply State.writeTyped_keeps)
    | split
    | ((try lift_lets); intro x; revert x; refine Keeps.letS (r := σ) ?_ (fun x hx => ?_))

theorem State.writeXb_keeps {σ : State} (s : State) (o : Origin) (a : Nat) (v : Word) (hk : Keeps σ s) :
    Keeps σ (State.writeXb s o a v) := by
  unfold State.writeXb
  repeat' first
    | with_reducible assumption
    | (with_reducible apply State.logWrite_keeps)
    | (with_reducible apply State.writeTyped_keeps)
    | (with_reducible apply State.xbCmd_keeps)
    | (with_reducible apply State.xbPending_keeps)
    | split
    | ((try lift_lets); intro x; revert x; refine Keeps.letS (r := σ) ?_ (fun x hx => ?_))

theorem State.qpReset_keeps {σ : State} (s : State) (k : Nat) (hk : Keeps σ s) :
    Keeps σ (State.qpReset s k) := by
  unfold State.qpReset
  repeat' first
    | with_reducible assumption
    | (with_reducible apply State.wr_keeps)
    | (with_reducible apply State.setQp_keeps)
    | (with_reducible apply State.failOrder_keeps)
    | (with_reducible refine Keeps.foldl _ (fun t a ht => ?_) ?_)

theorem State.writeIo_keeps {σ : State} (s : State) (o : Origin) (a : Nat) (v : Word) (hk : Keeps σ s) :
    Keeps σ (State.writeIo s o a v) := by
  unfold State.writeIo
  repeat' first
    | with_reducible assumption
    | (with_reducible apply State.refuseWrite_keeps)
    | (with_reducible apply State.writeTyped_keeps)
    | (with_reducible apply State.qpError_keeps)
    | (with_reducible apply State.qpReset_keeps)
    | split
    | ((try lift_lets); intro x; revert x; refine Keeps.letS (r := σ) ?_ (fun x hx => ?_))

theorem State.writeTether_keeps {σ : State} (s : State) (o : Origin) (a : Nat) (v : Word) (hk : Keeps σ s) :
    Keeps σ (State.writeTether s o a v) := by
  unfold State.writeTether
  repeat' first
    | with_reducible assumption
    | (with_reducible apply State.refuseWrite_keeps)
    | (with_reducible apply State.writeTyped_keeps)
    | (with_reducible apply State.portEnable_keeps)
    | (with_reducible apply State.joinReport_keeps)
    | (with_reducible apply State.joinStart_keeps)
    | split

theorem State.writeDg_keeps {σ : State} (s : State) (o : Origin) (a : Nat) (v : Word) (hk : Keeps σ s) :
    Keeps σ (State.writeDg s o a v) := by
  unfold State.writeDg
  repeat' first
    | with_reducible assumption
    | (with_reducible apply State.wr_keeps)
    | (with_reducible apply State.writeTyped_keeps)
    | split

theorem State.writeCoreReg_keeps {σ : State} (s : State) (o : Origin) (a : Nat) (v : Word) (hk : Keeps σ s) :
    Keeps σ (State.writeCoreReg s o a v) := by
  unfold State.writeCoreReg
  repeat' first
    | with_reducible assumption
    | (with_reducible apply State.refuseWrite_keeps)
    | (with_reducible apply State.writeTyped_keeps)
    | (with_reducible apply State.counterSet_keeps)
    | split

theorem State.writeReg_keeps {σ : State} (s : State) (o : Origin) (a : Nat) (v : Word) (hk : Keeps σ s) :
    Keeps σ (State.writeReg s o a v) := by
  unfold State.writeReg
  repeat' first
    | first
      | with_reducible assumption
      | (with_reducible apply State.writeTyped_keeps)
      | (with_reducible apply State.writeSc_keeps)
      | (with_reducible apply State.writeTb_keeps)
      | (with_reducible apply State.writePm_keeps)
      | (with_reducible apply State.writeRt_keeps)
      | (with_reducible apply State.writePg_keeps)
      | (with_reducible apply State.writeXb_keeps)
      | (with_reducible apply State.writeIo_keeps)
    | first
      | (with_reducible apply State.writeTether_keeps)
      | (with_reducible apply State.writeDg_keeps)
      | (with_reducible apply State.writeCoreReg_keeps)
      | split

theorem State.regWrite_keeps {σ : State} (s : State) (o : Origin) (a : Nat) (v : Word) (hk : Keeps σ s) :
    Keeps σ (State.regWrite s o a v).2 := by
  unfold State.regWrite
  repeat' first
    | with_reducible assumption
    | (with_reducible apply State.wr_keeps)
    | (with_reducible apply State.regWorld_keeps)
    | (with_reducible apply State.counterSet_keeps)
    | (with_reducible apply State.writeReg_keeps)
    | split

theorem State.regWrite_keeps_eq {σ : State} {s : State} {o : Origin} {a : Nat} {v : Word} {t : State} {r : Nat} (hk : Keeps σ s) (he : State.regWrite s o a v = (r, t)) :
    Keeps σ t := by
  have := State.regWrite_keeps s o a v hk; rw [he] at this; exact this

theorem State.hostRead_keeps {σ : State} (s : State) (o : Origin) (g n : Nat) (hk : Keeps σ s) :
    Keeps σ (State.hostRead s o g n).2.2 := by
  unfold State.hostRead
  repeat' first
    | with_reducible assumption
    | (with_reducible apply State.checkRows_keeps)
    | (with_reducible apply State.hostRefused_keeps)
    | (with_reducible apply State.deliver_keeps)
    | split

theorem State.hostRead_keeps_eq {σ : State} {s : State} {o : Origin} {g : Nat} {n : Nat} {t : State} {r : List Byte} {r2 : Nat} (hk : Keeps σ s) (he : State.hostRead s o g n = (r, r2, t)) :
    Keeps σ t := by
  have := State.hostRead_keeps s o g n hk; rw [he] at this; exact this

theorem State.hostWrite_keeps {σ : State} (s : State) (o : Origin) (g : Nat) (data : List Byte) (hk : Keeps σ s) :
    Keeps σ (State.hostWrite s o g data) := by
  unfold State.hostWrite
  repeat' first
    | with_reducible assumption
    | (with_reducible apply State.writeG_keeps)
    | (with_reducible apply State.hostRefused_keeps)
    | split

theorem State.answerReg_keeps {σ : State} (s : State) (w : Waiter) (op a status : Nat) (v : Word) (hk : Keeps σ s) :
    Keeps σ (State.answerReg s w op a status v) := by
  unfold State.answerReg
  repeat' first
    | with_reducible assumption
    | (with_reducible apply State.setSess_keeps)
    | (with_reducible apply State.send_keeps)
    | split
    | (fail_if_no_progress ((with_reducible refine Keeps.mk ?_ ?_ ?_ ?_ ?_ ?_) <;> [skip; rfl; rfl; rfl; rfl; rfl]))

theorem State.jtagLog_keeps {σ : State} (s : State) (w : Waiter) (a : Nat) (old new : Word) (hk : Keeps σ s) :
    Keeps σ (State.jtagLog s w a old new) := by
  unfold State.jtagLog
  repeat' first
    | with_reducible assumption
    | (with_reducible apply State.log_keeps)
    | split

theorem State.jtagLogMem_keeps {σ : State} (t s : State) (w : Waiter) (g : Nat) (data : List Byte) (hk : Keeps σ t) :
    Keeps σ (State.jtagLogMem t s w g data) := by
  unfold State.jtagLogMem
  repeat' first
    | with_reducible assumption
    | (with_reducible apply State.jtagLog_keeps)
    | (with_reducible refine Keeps.foldl _ (fun t a ht => ?_) ?_)

theorem State.doAccess_keeps {σ : State} (s : State) (w : Waiter) (hk : Keeps σ s) :
    Keeps σ (State.doAccess s w) := by
  unfold State.doAccess
  repeat' first
    | first
      | with_reducible assumption
      | (with_reducible apply State.unitPut_keeps)
      | (with_reducible apply State.send_keeps)
      | (with_reducible apply State.reelAgain_keeps)
      | (with_reducible apply State.hostWrite_keeps)
      | (with_reducible apply State.answerReg_keeps)
      | (with_reducible apply State.jtagLog_keeps)
      | (with_reducible apply State.jtagLogMem_keeps)
      | (with_reducible apply State.regRead_keeps)
    | first
      | (with_reducible apply State.regWrite_keeps)
      | (with_reducible apply State.hostRead_keeps)
      | split
      | ((try lift_lets); intro x; revert x; refine Keeps.letS (r := σ) ?_ (fun x hx => ?_))
      | (fail_if_no_progress ((with_reducible refine Keeps.mk ?_ ?_ ?_ ?_ ?_ ?_) <;> [skip; rfl; rfl; rfl; rfl; rfl]))

theorem State.byDrift_keeps {σ : State} (s : State) (w : Waiter) (hk : Keeps σ s) :
    Keeps σ (State.byDrift s w) := by
  unfold State.byDrift
  repeat' first
    | with_reducible assumption
    | (with_reducible apply State.atEndpoint_keeps)
    | split

theorem State.access_keeps {σ : State} (s : State) (w : Waiter) (hk : Keeps σ s) :
    Keeps σ (State.access s w) := by
  unfold State.access
  repeat' first
    | with_reducible assumption
    | (with_reducible apply State.doAccess_keeps)
    | (with_reducible apply State.byDrift_keeps)
    | split
    | (fail_if_no_progress ((with_reducible refine Keeps.mk ?_ ?_ ?_ ?_ ?_ ?_) <;> [skip; rfl; rfl; rfl; rfl; rfl]))

theorem State.drainStalled_keeps {σ : State} (s : State) (hk : Keeps σ s) :
    Keeps σ (State.drainStalled s) := by
  unfold State.drainStalled
  repeat' first
    | with_reducible assumption
    | (with_reducible apply State.access_keeps)
    | (with_reducible refine Keeps.foldl _ (fun t a ht => ?_) ?_)
    | (fail_if_no_progress ((with_reducible refine Keeps.mk ?_ ?_ ?_ ?_ ?_ ?_) <;> [skip; rfl; rfl; rfl; rfl; rfl]))

theorem State.badBody_keeps {σ : State} (s : State) (h : PctHdr) (hk : Keeps σ s) :
    Keeps σ (State.badBody s h) := by
  unfold State.badBody
  repeat' first
    | with_reducible assumption
    | (with_reducible apply State.bump_keeps)
    | (with_reducible apply State.pctIn_keeps)
    | split
    | ((try lift_lets); intro x; revert x; refine Keeps.letS (r := σ) ?_ (fun x hx => ?_))

theorem State.viaRun_keeps {σ : State} (s : State) (v : Via) (acc : Access) (hk : Keeps σ s) :
    Keeps σ (State.viaRun s v acc) := by
  unfold State.viaRun
  repeat' first
    | with_reducible assumption
    | (with_reducible apply State.setSess_keeps)
    | (with_reducible apply State.access_keeps)
    | (with_reducible apply State.badBody_keeps)
    | (refine State.accept_keeps_eq (he := by assumption) ?_)
    | split

theorem State.bulkImage_keeps {σ : State} (s : State) (uid : Nat) (b : BulkHdr) (data : List Byte) (hk : Keeps σ s) :
    Keeps σ (State.bulkImage s uid b data) := by
  unfold State.bulkImage
  repeat' first
    | with_reducible assumption
    | (fail_if_no_progress ((with_reducible refine Keeps.mk ?_ ?_ ?_ ?_ ?_ ?_) <;> [skip; rfl; rfl; rfl; rfl; rfl]))

theorem State.bulkImageAsk_keeps {σ : State} (s : State) (uid : Nat) (b : BulkHdr) (hk : Keeps σ s) :
    Keeps σ (State.bulkImageAsk s uid b) := by
  unfold State.bulkImageAsk
  repeat' first
    | with_reducible assumption
    | (with_reducible apply State.send_keeps)

theorem State.bulkFlash_keeps {σ : State} (s : State) (uid : Nat) (o : Origin) (a : Nat) (data : List Byte) (hk : Keeps σ s) :
    Keeps σ (State.bulkFlash s uid o a data) := by
  unfold State.bulkFlash
  repeat' first
    | with_reducible assumption
    | (with_reducible apply State.log_keeps)
    | split
    | ((try lift_lets); intro x; revert x; refine Keeps.letS (r := σ) ?_ (fun x hx => ?_))
    | (fail_if_no_progress ((with_reducible refine Keeps.mk ?_ ?_ ?_ ?_ ?_ ?_) <;> [skip; rfl; rfl; rfl; rfl; rfl]))

theorem State.bulkIn_keeps {σ : State} (s : State) (h : PctHdr) (b : BulkHdr) (data : List Byte) (hk : Keeps σ s) :
    Keeps σ (State.bulkIn s h b data) := by
  unfold State.bulkIn
  repeat' first
    | with_reducible assumption
    | (with_reducible apply State.log_keeps)
    | (with_reducible apply State.access_keeps)
    | (with_reducible apply State.badBody_keeps)
    | (with_reducible apply State.bulkImage_keeps)
    | (with_reducible apply State.bulkFlash_keeps)
    | (refine State.accept_keeps_eq (he := by assumption) ?_)
    | split

theorem State.bulkAsk_keeps {σ : State} (s : State) (h : PctHdr) (b : BulkHdr) (hk : Keeps σ s) :
    Keeps σ (State.bulkAsk s h b) := by
  unfold State.bulkAsk
  repeat' first
    | with_reducible assumption
    | (with_reducible apply State.log_keeps)
    | (with_reducible apply State.send_keeps)
    | (with_reducible apply State.access_keeps)
    | (with_reducible apply State.badBody_keeps)
    | (with_reducible apply State.bulkImageAsk_keeps)
    | (refine State.accept_keeps_eq (he := by assumption) ?_)
    | split

theorem State.visitFlag_keeps {σ : State} (s : State) (f : Nat) (hk : Keeps σ s) :
    Keeps σ (State.visitFlag s f) := by
  unfold State.visitFlag
  repeat' first
    | with_reducible assumption
    | (with_reducible apply State.setFlag_keeps)
    | ((try lift_lets); intro x; revert x; refine Keeps.letS (r := σ) ?_ (fun x hx => ?_))
    | (fail_if_no_progress ((with_reducible refine Keeps.mk ?_ ?_ ?_ ?_ ?_ ?_) <;> [skip; rfl; rfl; rfl; rfl; rfl]))

theorem State.applyFlag_keeps {σ : State} (s : State) (o : FlagOp) (hk : Keeps σ s) :
    Keeps σ (State.applyFlag s o) := by
  unfold State.applyFlag
  repeat' first
    | with_reducible assumption
    | (with_reducible apply State.setFlag_keeps)
    | (with_reducible apply State.visitFlag_keeps)
    | split
    | ((try lift_lets); intro x; revert x; refine Keeps.letS (r := σ) ?_ (fun x hx => ?_))
    | (fail_if_no_progress ((with_reducible refine Keeps.mk ?_ ?_ ?_ ?_ ?_ ?_) <;> [skip; rfl; rfl; rfl; rfl; rfl]))

theorem State.finishId_keeps {σ : State} (s : State) (c id : Nat) (hk : Keeps σ s) :
    Keeps σ (State.finishId s c id) := by
  unfold State.finishId
  repeat' first
    | with_reducible assumption
    | (with_reducible apply State.finishIssued_keeps)
    | split

theorem State.applyOp_keeps {σ : State} (s : State) (o : FlagOp) (hk : Keeps σ s) :
    Keeps σ (State.applyOp s o) := by
  unfold State.applyOp
  repeat' first
    | with_reducible assumption
    | (with_reducible apply State.applyFlag_keeps)
    | (with_reducible apply State.finishId_keeps)
    | split

theorem State.issueFlag_keeps {σ : State} (s : State) (c : Nat) (e : QEntry) (kind : FlagKind) (f v : Word) (hk : Keeps σ s) :
    Keeps σ (State.issueFlag s c e kind f v) := by
  unfold State.issueFlag
  repeat' first
    | with_reducible assumption
    | (with_reducible apply State.updCore_keeps)
    | (with_reducible apply State.start_keeps)
    | (with_reducible apply State.failCmd_keeps)
    | (with_reducible apply State.postFlag_keeps)
    | split
    | ((try lift_lets); intro x; revert x; refine Keeps.letS (r := σ) ?_ (fun x hx => ?_))

theorem State.issueSeRsig_keeps {σ : State} (s : State) (c : Nat) (e : QEntry) (chip f n : Word) (hk : Keeps σ s) :
    Keeps σ (State.issueSeRsig s c e chip f n) := by
  unfold State.issueSeRsig
  repeat' first
    | with_reducible assumption
    | (with_reducible apply State.start_keeps)
    | (with_reducible apply State.failCmd_keeps)
    | split
    | ((try lift_lets); intro x; revert x; refine Keeps.letS (r := σ) ?_ (fun x hx => ?_))
    | (fail_if_no_progress ((with_reducible refine Keeps.mk ?_ ?_ ?_ ?_ ?_ ?_) <;> [skip; rfl; rfl; rfl; rfl; rfl]))

theorem State.sendCell_keeps {σ : State} (s : State) (p : Fin 8) (c : Cell) (hk : Keeps σ s) :
    Keeps σ (State.sendCell s p c) := by
  unfold State.sendCell
  repeat' first
    | with_reducible assumption
    | (with_reducible apply State.sendOn_keeps)
    | split

theorem State.applySig_keeps {σ : State} (s : State) (r : SigHeld) (hk : Keeps σ s) :
    Keeps σ (State.applySig s r) := by
  unfold State.applySig
  repeat' first
    | with_reducible assumption
    | (with_reducible apply State.postFlag_keeps)

theorem State.releaseSigs_keeps {σ : State} (s : State) (hk : Keeps σ s) :
    Keeps σ (State.releaseSigs s) := by
  unfold State.releaseSigs
  repeat' first
    | with_reducible assumption
    | (with_reducible apply State.applySig_keeps)
    | (with_reducible refine Keeps.foldl _ (fun t a ht => ?_) ?_)
    | ((try lift_lets); intro x; revert x; refine Keeps.letS (r := σ) ?_ (fun x hx => ?_))
    | (fail_if_no_progress ((with_reducible refine Keeps.mk ?_ ?_ ?_ ?_ ?_ ?_) <;> [skip; rfl; rfl; rfl; rfl; rfl]))

theorem State.takeSig_keeps {σ : State} (port : Nat) (s : State) (r : SigHeld) (hk : Keeps σ s) :
    Keeps σ (State.takeSig port s r) := by
  unfold State.takeSig
  repeat' first
    | with_reducible assumption
    | (with_reducible apply State.refuseLanding_keeps)
    | (with_reducible apply State.applySig_keeps)
    | split
    | ((try lift_lets); intro x; revert x; refine Keeps.letS (r := σ) ?_ (fun x hx => ?_))
    | (fail_if_no_progress ((with_reducible refine Keeps.mk ?_ ?_ ?_ ?_ ?_ ?_) <;> [skip; rfl; rfl; rfl; rfl; rfl]))

theorem State.sinkData_keeps {σ : State} (s : State) (port owner leg : Nat) (c : Cell) (hk : Keeps σ s) :
    Keeps σ (State.sinkData s port owner leg c) := by
  unfold State.sinkData
  repeat' first
    | with_reducible assumption
    | (with_reducible apply State.refuseLanding_keeps)
    | (with_reducible apply State.setLegIn_keeps)
    | split
    | ((try lift_lets); intro x; revert x; refine Keeps.letS (r := σ) ?_ (fun x hx => ?_))

theorem State.sinkDma_keeps {σ : State} (s : State) (port : Nat) (c : Cell) (hk : Keeps σ s) :
    Keeps σ (State.sinkDma s port c) := by
  unfold State.sinkDma
  repeat' first
    | with_reducible assumption
    | (with_reducible apply State.refuseLanding_keeps)
    | (with_reducible apply State.unitPut_keeps)
    | (with_reducible apply State.releaseSigs_keeps)
    | split
    | ((try lift_lets); intro x; revert x; refine Keeps.letS (r := σ) ?_ (fun x hx => ?_))
    | (fail_if_no_progress ((with_reducible refine Keeps.mk ?_ ?_ ?_ ?_ ?_ ?_) <;> [skip; rfl; rfl; rfl; rfl; rfl]))

theorem State.sink_keeps {σ : State} (s : State) (port owner : Nat) (e : DWord) (c : Cell) (hk : Keeps σ s) :
    Keeps σ (State.sink s port owner e c) := by
  unfold State.sink
  repeat' first
    | with_reducible assumption
    | (with_reducible apply State.batchCell_keeps)
    | (with_reducible apply State.takeSig_keeps)
    | (with_reducible apply State.sinkData_keeps)
    | (with_reducible apply State.sinkDma_keeps)
    | (with_reducible refine Keeps.foldl _ (fun t a ht => ?_) ?_)
    | split

theorem State.forward_keeps {σ : State} (s : State) (p : Fin 8) (k : Nat) (e : DWord) (c : Option Cell) (hk : Keeps σ s) :
    Keeps σ (State.forward s p k e c) := by
  unfold State.forward
  repeat' first
    | with_reducible assumption
    | ((try lift_lets); intro x; revert x; refine Keeps.letS (r := σ) ?_ (fun x hx => ?_))
    | (fail_if_no_progress ((with_reducible refine Keeps.mk ?_ ?_ ?_ ?_ ?_ ?_) <;> [skip; rfl; rfl; rfl; rfl; rfl]))

theorem State.checkIdle_keeps {σ : State} (s : State) (p : Fin 8) (c : Cell) (hk : Keeps σ s) :
    Keeps σ (State.checkIdle s p c) := by
  unfold State.checkIdle
  repeat' first
    | with_reducible assumption
    | (with_reducible apply State.enterCond_keeps)
    | split
    | ((try lift_lets); intro x; revert x; refine Keeps.letS (r := σ) ?_ (fun x hx => ?_))

theorem State.cellLost_keeps {σ : State} (s : State) (p : Fin 8) (hk : Keeps σ s) :
    Keeps σ (State.cellLost s p) := by
  unfold State.cellLost
  repeat' first
    | with_reducible assumption
    | (with_reducible apply State.setBit_keeps)
    | (with_reducible apply State.bump_keeps)
    | (with_reducible apply State.failBeat_keeps)

theorem State.arriveRun_keeps {σ : State} (s : State) (x : CellIn) (owner : Nat) (e : DWord) (hk : Keeps σ s) :
    Keeps σ (State.arriveRun s x owner e) := by
  unfold State.arriveRun
  repeat' first
    | with_reducible assumption
    | (with_reducible apply State.refuseLanding_keeps)
    | (with_reducible apply State.sink_keeps)
    | (with_reducible apply State.forward_keeps)
    | (with_reducible apply State.checkIdle_keeps)
    | (with_reducible apply State.cellLost_keeps)
    | split
    | ((try lift_lets); intro x; revert x; refine Keeps.letS (r := σ) ?_ (fun x hx => ?_))

theorem State.countFec_keeps {σ : State} (s : State) (x : CellIn) (hk : Keeps σ s) :
    Keeps σ (State.countFec s x) := by
  unfold State.countFec
  repeat' first
    | with_reducible assumption
    | (with_reducible apply State.bumpN_keeps)

theorem State.toRelease_keeps {σ : State} (s : State) (p k : Nat) (hk : Keeps σ s) :
    Keeps σ (State.toRelease s p k) := by
  unfold State.toRelease
  repeat' first
    | with_reducible assumption
    | (with_reducible apply State.toTc_keeps)
    | split
    | ((try lift_lets); intro x; revert x; refine Keeps.letS (r := σ) ?_ (fun x hx => ?_))

theorem State.arrive_keeps {σ : State} (s : State) (x : CellIn) (hk : Keeps σ s) :
    Keeps σ (State.arrive s x) := by
  unfold State.arrive
  repeat' first
    | with_reducible assumption
    | (with_reducible apply State.checkIdle_keeps)
    | (with_reducible apply State.arriveRun_keeps)
    | (with_reducible apply State.countFec_keeps)
    | (with_reducible apply State.toRelease_keeps)
    | split
    | ((try lift_lets); intro x; revert x; refine Keeps.letS (r := σ) ?_ (fun x hx => ?_))

theorem State.departData_keeps {σ : State} (s : State) (p : Fin 8) (owner : Nat) (e : DWord) (hk : Keeps σ s) :
    Keeps σ (State.departData s p owner e) := by
  unfold State.departData
  repeat' first
    | with_reducible assumption
    | (with_reducible apply State.unitMiss_keeps)
    | (with_reducible apply State.setLegOut_keeps)
    | (with_reducible apply State.sendCell_keeps)
    | split
    | ((try lift_lets); intro x; revert x; refine Keeps.letS (r := σ) ?_ (fun x hx => ?_))

theorem State.departDma_keeps {σ : State} (s : State) (p : Fin 8) (owner : Nat) (e : DWord) (hk : Keeps σ s) :
    Keeps σ (State.departDma s p owner e) := by
  unfold State.departDma
  repeat' first
    | with_reducible assumption
    | (with_reducible apply State.finishId_keeps)
    | (with_reducible apply State.sendCell_keeps)
    | split
    | ((try lift_lets); intro x; revert x; refine Keeps.letS (r := σ) ?_ (fun x hx => ?_))
    | (fail_if_no_progress ((with_reducible refine Keeps.mk ?_ ?_ ?_ ?_ ?_ ?_) <;> [skip; rfl; rfl; rfl; rfl; rfl]))

theorem State.departFlag_keeps {σ : State} (s : State) (p : Fin 8) (owner : Nat) (e : DWord) (hk : Keeps σ s) :
    Keeps σ (State.departFlag s p owner e) := by
  unfold State.departFlag
  repeat' first
    | with_reducible assumption
    | (with_reducible apply State.bump_keeps)
    | (with_reducible apply State.finishId_keeps)
    | (with_reducible apply State.sendCell_keeps)
    | (with_reducible refine Keeps.foldl _ (fun t a ht => ?_) ?_)
    | split
    | ((try lift_lets); intro x; revert x; refine Keeps.letS (r := σ) ?_ (fun x hx => ?_))
    | (fail_if_no_progress ((with_reducible refine Keeps.mk ?_ ?_ ?_ ?_ ?_ ?_) <;> [skip; rfl; rfl; rfl; rfl; rfl]))

theorem State.putTable_keeps {σ : State} (s : State) (t : BTable) (hk : Keeps σ s) :
    Keeps σ (State.putTable s t) := by
  unfold State.putTable
  repeat' first
    | with_reducible assumption
    | ((try lift_lets); intro x; revert x; refine Keeps.letS (r := σ) ?_ (fun x hx => ?_))
    | (fail_if_no_progress ((with_reducible refine Keeps.mk ?_ ?_ ?_ ?_ ?_ ?_) <;> [skip; rfl; rfl; rfl; rfl; rfl]))

theorem State.lateTable_keeps {σ : State} (s : State) (t : BTable) (owner : Nat) (hk : Keeps σ s) :
    Keeps σ (State.lateTable s t owner) := by
  unfold State.lateTable
  repeat' first
    | with_reducible assumption
    | (with_reducible apply State.setBit_keeps)
    | (with_reducible apply State.bump_keeps)
    | (with_reducible apply State.unitMiss_keeps)
    | (with_reducible apply State.putTable_keeps)
    | split

theorem State.departBatch_keeps {σ : State} (s : State) (p : Fin 8) (owner : Nat) (e : DWord) (k : Nat) (hk : Keeps σ s) :
    Keeps σ (State.departBatch s p owner e k) := by
  unfold State.departBatch
  repeat' first
    | with_reducible assumption
    | (with_reducible apply State.batchCell_keeps)
    | (with_reducible apply State.sendCell_keeps)
    | (with_reducible apply State.putTable_keeps)
    | (with_reducible apply State.lateTable_keeps)
    | split
    | ((try lift_lets); intro x; revert x; refine Keeps.letS (r := σ) ?_ (fun x hx => ?_))

theorem State.departFwd_keeps {σ : State} (s : State) (p : Fin 8) (e : DWord) (k : Nat) (hk : Keeps σ s) :
    Keeps σ (State.departFwd s p e k) := by
  unfold State.departFwd
  repeat' first
    | with_reducible assumption
    | (with_reducible apply State.sendCell_keeps)
    | ((try lift_lets); intro x; revert x; refine Keeps.letS (r := σ) ?_ (fun x hx => ?_))
    | (fail_if_no_progress ((with_reducible refine Keeps.mk ?_ ?_ ?_ ?_ ?_ ?_) <;> [skip; rfl; rfl; rfl; rfl; rfl]))

theorem State.depart_keeps {σ : State} (s : State) (p : Fin 8) (k : Nat) (hk : Keeps σ s) :
    Keeps σ (State.depart s p k) := by
  unfold State.depart
  repeat' first
    | with_reducible assumption
    | (with_reducible apply State.toTc_keeps)
    | (with_reducible apply State.sendCell_keeps)
    | (with_reducible apply State.departData_keeps)
    | (with_reducible apply State.departDma_keeps)
    | (with_reducible apply State.departFlag_keeps)
    | (with_reducible apply State.departBatch_keeps)
    | (with_reducible apply State.departFwd_keeps)
    | split
    | ((try lift_lets); intro x; revert x; refine Keeps.letS (r := σ) ?_ (fun x hx => ?_))

end Sys2Proof.Machine
end

