-- ==== Sys2Proof/Laws/KeepsBeat.lean ====
section
/-! SUPPORT. Each operation of Machine/BeatRun.lean, DmRun.lean, Seq.lean, Queue.lean, Eth.lean, FwRun.lean,
Intake.lean, Join.lean, Jtag.lean, Loader.lean, Pg.lean, Power.lean, Reel.lean, RegAccess.lean, Slice.lean, Sq.lean,
Su.lean, TimeBase.lean, Tick.lean keeps what `Keeps` says: one lemma per operation that answers a state. -/

namespace Sys2Proof.Machine

open Sys2Proof Sys2Proof.Laws

theorem State.guardCore_keeps {σ : State} (s : State) (c : Nat) (hk : Keeps σ s) :
    Keeps σ (State.guardCore s c) := by
  unfold State.guardCore
  repeat' first
    | with_reducible assumption
    | (with_reducible apply State.coreMiss_keeps)
    | (with_reducible refine Keeps.foldl _ (fun t a ht => ?_) ?_)
    | split

theorem State.suLate_keeps {σ : State} (s : State) (t : BTable) (hk : Keeps σ s) :
    Keeps σ (State.suLate s t) := by
  unfold State.suLate
  repeat' first
    | with_reducible assumption
    | (with_reducible apply State.setBit_keeps)
    | (with_reducible apply State.bump_keeps)
    | (with_reducible apply State.unitMiss_keeps)
    | split

theorem State.guardStart_keeps {σ : State} (s : State) (hk : Keeps σ s) :
    Keeps σ (State.guardStart s) := by
  unfold State.guardStart
  repeat' first
    | with_reducible assumption
    | (with_reducible apply State.toTc_keeps)
    | (with_reducible apply State.guardCore_keeps)
    | (with_reducible apply State.suLate_keeps)
    | (with_reducible refine Keeps.foldl _ (fun t a ht => ?_) ?_)
    | split
    | ((try lift_lets); intro x; revert x; refine Keeps.letS (r := σ) ?_ (fun x hx => ?_))
    | (fail_if_no_progress ((with_reducible refine Keeps.mk ?_ ?_ ?_ ?_ ?_ ?_) <;> [skip; rfl; rfl; rfl; rfl; rfl]))

theorem State.cutStatus_keeps {σ : State} (s : State) (hk : Keeps σ s) :
    Keeps σ (State.cutStatus s) := by
  unfold State.cutStatus
  repeat' first
    | with_reducible assumption
    | (with_reducible apply State.toTc_keeps)
    | (with_reducible apply State.readRecords_keeps)
    | (with_reducible refine Keeps.foldl _ (fun t a ht => ?_) ?_)
    | split
    | ((try lift_lets); intro x; revert x; refine Keeps.letS (r := σ) ?_ (fun x hx => ?_))
    | (fail_if_no_progress ((with_reducible refine Keeps.mk ?_ ?_ ?_ ?_ ?_ ?_) <;> [skip; rfl; rfl; rfl; rfl; rfl]))

theorem State.toCut_keeps {σ : State} (s : State) (hk : Keeps σ s) :
    Keeps σ (State.toCut s) := by
  unfold State.toCut
  repeat' first
    | with_reducible assumption
    | (with_reducible apply State.guardStart_keeps)
    | (with_reducible apply State.cutStatus_keeps)
    | split
    | ((try lift_lets); intro x; revert x; refine Keeps.letS (r := σ) ?_ (fun x hx => ?_))

theorem State.sendRound_keeps {σ : State} (s : State) (r : Nat) (hk : Keeps σ s) :
    Keeps σ (State.sendRound s r) := by
  unfold State.sendRound
  repeat' first
    | with_reducible assumption
    | (with_reducible apply State.toTc_keeps)
    | (with_reducible apply State.sendCell_keeps)
    | (with_reducible refine Keeps.foldl _ (fun t a ht => ?_) ?_)

theorem State.roundLost_keeps {σ : State} (s : State) (p : Nat) (hk : Keeps σ s) :
    Keeps σ (State.roundLost s p) := by
  unfold State.roundLost
  repeat' first
    | with_reducible assumption
    | (with_reducible apply State.setBit_keeps)
    | (with_reducible apply State.enterCond_keeps)

theorem State.takeStatus_keeps {σ : State} (s : State) (x : CellIn) (hk : Keeps σ s) :
    Keeps σ (State.takeStatus s x) := by
  unfold State.takeStatus
  repeat' first
    | with_reducible assumption
    | (with_reducible apply State.countFec_keeps)
    | (with_reducible apply State.roundLost_keeps)
    | split
    | ((try lift_lets); intro x; revert x; refine Keeps.letS (r := σ) ?_ (fun x hx => ?_))
    | (fail_if_no_progress ((with_reducible refine Keeps.mk ?_ ?_ ?_ ?_ ?_ ?_) <;> [skip; rfl; rfl; rfl; rfl; rfl]))

theorem State.lostRounds_keeps {σ : State} (s : State) (hk : Keeps σ s) :
    Keeps σ (State.lostRounds s) := by
  unfold State.lostRounds
  repeat' first
    | with_reducible assumption
    | (with_reducible apply State.roundLost_keeps)
    | (with_reducible refine Keeps.foldl _ (fun t a ht => ?_) ?_)
    | split

theorem State.mapPg_keeps {σ : State} (s : State) (f : PgPart → PgPart) (hk : Keeps σ s) :
    Keeps σ (State.mapPg s f) := by
  unfold State.mapPg
  repeat' first
    | with_reducible assumption
    | (with_reducible apply State.setPg_keeps)
    | (with_reducible refine Keeps.foldl _ (fun t a ht => ?_) ?_)

theorem State.dropGroups_keeps {σ : State} (s : State) (gs : List Nat) (hk : Keeps σ s) :
    Keeps σ (State.dropGroups s gs) := by
  unfold State.dropGroups
  repeat' first
    | with_reducible assumption
    | (with_reducible apply State.discardTable_keeps)
    | (with_reducible apply State.discardMembers_keeps)
    | (with_reducible apply State.haltPart_keeps)
    | (with_reducible apply State.restoreFlags_keeps)
    | (with_reducible refine Keeps.foldl _ (fun t a ht => ?_) ?_)
    | split
    | ((try lift_lets); intro x; revert x; refine Keeps.letS (r := σ) ?_ (fun x hx => ?_))

theorem State.commitBeat_keeps {σ : State} (s : State) (gs : List Nat) (hk : Keeps σ s) : Keeps σ (s.commitBeat gs) := by
  unfold State.commitBeat
  extract_lets src s0 s1 s2 s3
  have k0 : Keeps σ s0 := Keeps.mk hk rfl rfl rfl rfl rfl
  have k1 : Keeps σ s1 := Keeps.foldl _ (fun _ _ ht => State.commitTable_keeps _ _ ht) k0
  have k2 : Keeps σ s2 := State.xbSettle_keeps _ (State.dropGroups_keeps _ _ (State.commitMembers_keeps _ _ k1))
  have k3 : Keeps σ s3 := Keeps.foldl _ (fun _ _ ht => State.startOrders_keeps _ _ ht) k2
  clear_value s3
  exact Keeps.mk k3 rfl rfl rfl rfl rfl

theorem State.replayBeat_keeps {σ : State} (s : State) (gs : List Nat) (hk : Keeps σ s) : Keeps σ (s.replayBeat gs) := by
  unfold State.replayBeat
  extract_lets s1 s2 s3
  have k2 : Keeps σ s2 := State.mapPg_keeps _ _ (State.restoreFlags_keeps _ _ (State.dropGroups_keeps _ _ hk))
  clear_value s2
  exact State.event_keeps _ _ _ _ _ _ _ (Keeps.mk k2 rfl rfl rfl rfl rfl)

theorem State.flightFault_keeps {σ : State} (s : State) (cause port : Nat) (hk : Keeps σ s) : Keeps σ (s.flightFault cause port) := by
  unfold State.flightFault
  extract_lets s1 s2 s3 s4 s5 s6 s7
  have k1 : Keeps σ s1 := Keeps.foldl _ (fun _ _ ht => State.discardTable_keeps _ _ _ ht) hk
  have k2 : Keeps σ s2 := State.restoreFlags_keeps _ _ (State.discardMembers_keeps _ _ k1)
  have k3 : Keeps σ s3 := Keeps.foldl _ (fun _ _ ht => State.updEnt_keeps _ _ _ ht) k2
  have k4 : Keeps σ s4 := Keeps.foldl _ (fun _ _ ht => State.setBit_keeps _ _ _ ht) k3
  have k5 : Keeps σ s5 := State.haltTransits_keeps _ (Keeps.foldl _ (fun _ _ ht => State.haltPart_keeps _ _ ht) k4)
  have k6 : Keeps σ s6 := Keeps.foldl _ (fun _ _ ht => State.updPort_keeps _ _ _ ht) k5
  clear_value s6
  exact State.log_keeps _ _ _ _ _ _ _ (State.alert_keeps _ _ (State.event_keeps _ _ _ _ _ _ _ (Keeps.mk k6 rfl rfl rfl rfl rfl)))

theorem State.applyVerdict_keeps {σ : State} (s : State) (v : Verdict) (hk : Keeps σ s) :
    Keeps σ (State.applyVerdict s v) := by
  unfold State.applyVerdict
  repeat' first
    | with_reducible assumption
    | (with_reducible apply State.commitBeat_keeps)
    | (with_reducible apply State.replayBeat_keeps)
    | (with_reducible apply State.flightFault_keeps)
    | split

theorem State.flushGathered_keeps {σ : State} (s : State) (hk : Keeps σ s) :
    Keeps σ (State.flushGathered s) := by
  unfold State.flushGathered
  repeat' first
    | with_reducible assumption
    | (with_reducible apply State.putEvt_keeps)
    | (with_reducible refine Keeps.foldl _ (fun t a ht => ?_) ?_)
    | ((try lift_lets); intro x; revert x; refine Keeps.letS (r := σ) ?_ (fun x hx => ?_))
    | (fail_if_no_progress ((with_reducible refine Keeps.mk ?_ ?_ ?_ ?_ ?_ ?_) <;> [skip; rfl; rfl; rfl; rfl; rfl]))

theorem State.closeStretch_keeps {σ : State} (s : State) (hk : Keeps σ s) :
    Keeps σ (State.closeStretch s) := by
  unfold State.closeStretch
  repeat' first
    | with_reducible assumption
    | (with_reducible apply State.wrF_keeps)
    | (with_reducible apply State.bump_keeps)
    | (with_reducible refine Keeps.foldl _ (fun t a ht => ?_) ?_)
    | split
    | ((try lift_lets); intro x; revert x; refine Keeps.letS (r := σ) ?_ (fun x hx => ?_))
    | (fail_if_no_progress ((with_reducible refine Keeps.mk ?_ ?_ ?_ ?_ ?_ ?_) <;> [skip; rfl; rfl; rfl; rfl; rfl]))

theorem State.landFlags_keeps {σ : State} (s : State) (hk : Keeps σ s) :
    Keeps σ (State.landFlags s) := by
  unfold State.landFlags
  repeat' first
    | with_reducible assumption
    | (with_reducible apply State.applyOp_keeps)
    | (with_reducible refine Keeps.foldl _ (fun t a ht => ?_) ?_)
    | ((try lift_lets); intro x; revert x; refine Keeps.letS (r := σ) ?_ (fun x hx => ?_))
    | (fail_if_no_progress ((with_reducible refine Keeps.mk ?_ ?_ ?_ ?_ ?_ ?_) <;> [skip; rfl; rfl; rfl; rfl; rfl]))

theorem State.skipStorm_keeps {σ : State} (s : State) (hk : Keeps σ s) :
    Keeps σ (State.skipStorm s) := by
  unfold State.skipStorm
  repeat' first
    | with_reducible assumption
    | (with_reducible apply State.event_keeps)
    | (with_reducible apply State.alert_keeps)
    | split
    | ((try lift_lets); intro x; revert x; refine Keeps.letS (r := σ) ?_ (fun x hx => ?_))
    | (fail_if_no_progress ((with_reducible refine Keeps.mk ?_ ?_ ?_ ?_ ?_ ?_) <;> [skip; rfl; rfl; rfl; rfl; rfl]))

theorem State.clearPeriod_keeps {σ : State} (s : State) (hk : Keeps σ s) :
    Keeps σ (State.clearPeriod s) := by
  unfold State.clearPeriod
  repeat' first
    | with_reducible assumption
    | ((try lift_lets); intro x; revert x; refine Keeps.letS (r := σ) ?_ (fun x hx => ?_))
    | (fail_if_no_progress ((with_reducible refine Keeps.mk ?_ ?_ ?_ ?_ ?_ ?_) <;> [skip; rfl; rfl; rfl; rfl; rfl]))

theorem wf_takeBack {α : Type} [DecidableEq α] (dflt : Nat → α) (l : List (Nat × α × α)) (m : List (Nat × α))
    (h : Sparse.wf dflt m = true) : Sparse.wf dflt (l.foldl (takeBack dflt) m) = true := by
  induction l generalizing m with
  | nil => exact h
  | cons x r ih =>
    refine ih _ ?_
    unfold takeBack
    split
    · exact wf_set _ _ _ _ h
    · exact h

theorem State.abandon_keeps {σ : State} (s : State) (c : Nat) (i : Issued) (hk : Keeps σ s) : Keeps σ (s.abandon c i) := by
  unfold State.abandon
  split
  · exact hk
  · next u _ =>
    extract_lets dm ws rs kw kr rows s1
    refine State.updCore_keeps _ _ _ ?_
    refine hk.trans ⟨rfl, rfl, rfl, fun k => ?_⟩
    have k1 : ({ s with mem := s1.mem } : State).canonical = true :=
      all_set s.maps 0 _ k fun x => wf_takeBack _ _ _ x
    exact all_set ({ s with mem := s1.mem } : State).maps 1 _ k1 fun x => wf_takeBack _ _ _ x

theorem State.abandonAll_keeps {σ : State} (s : State) (hk : Keeps σ s) :
    Keeps σ (State.abandonAll s) := by
  unfold State.abandonAll
  repeat' first
    | with_reducible assumption
    | (with_reducible apply State.abandon_keeps)
    | (with_reducible refine Keeps.foldl _ (fun t a ht => ?_) ?_)

theorem State.startCores_keeps {σ : State} (s : State) (hk : Keeps σ s) :
    Keeps σ (State.startCores s) := by
  unfold State.startCores
  repeat' first
    | with_reducible assumption
    | (with_reducible apply State.updCore_keeps)
    | (with_reducible refine Keeps.foldl _ (fun t a ht => ?_) ?_)

theorem State.loadWindows_keeps {σ : State} (s : State) (hk : Keeps σ s) :
    Keeps σ (State.loadWindows s) := by
  unfold State.loadWindows
  repeat' first
    | with_reducible assumption
    | ((try lift_lets); intro x; revert x; refine Keeps.letS (r := σ) ?_ (fun x hx => ?_))
    | (fail_if_no_progress ((with_reducible refine Keeps.mk ?_ ?_ ?_ ?_ ?_ ?_) <;> [skip; rfl; rfl; rfl; rfl; rfl]))

theorem State.resendTables_keeps {σ : State} (s : State) (hk : Keeps σ s) :
    Keeps σ (State.resendTables s) := by
  unfold State.resendTables
  repeat' first
    | with_reducible assumption
    | ((try lift_lets); intro x; revert x; refine Keeps.letS (r := σ) ?_ (fun x hx => ?_))
    | (fail_if_no_progress ((with_reducible refine Keeps.mk ?_ ?_ ?_ ?_ ?_ ?_) <;> [skip; rfl; rfl; rfl; rfl; rfl]))

theorem State.openPeriod_keeps {σ : State} (s : State) (hk : Keeps σ s) :
    Keeps σ (State.openPeriod s) := by
  unfold State.openPeriod
  extract_lets s1 s2 src s3
  have k1 : Keeps σ s1 := State.mapPg_keeps _ _ (State.rlControls_keeps _
    (State.startCores_keeps _ (State.loadWindows_keeps _ (State.partBoundary_keeps _ hk))))
  clear_value s1
  have k2 : Keeps σ s2 := by
    unfold s2
    split
    · exact State.workStep_keeps _ k1
    · split
      · exact State.resendTables_keeps _ k1
      · exact k1
  clear_value s2
  exact State.drainStalled_keeps _ (State.drainWarns_keeps _ (State.snapshot_keeps _ (Keeps.mk k2 rfl rfl rfl rfl rfl)))

theorem State.fixKind_keeps {σ : State} (s : State) (skip : Bool) (hk : Keeps σ s) :
    Keeps σ (State.fixKind s skip) := by
  unfold State.fixKind
  repeat' first
    | with_reducible assumption
    | (with_reducible apply State.bump_keeps)
    | split
    | ((try lift_lets); intro x; revert x; refine Keeps.letS (r := σ) ?_ (fun x hx => ?_))
    | (fail_if_no_progress ((with_reducible refine Keeps.mk ?_ ?_ ?_ ?_ ?_ ?_) <;> [skip; rfl; rfl; rfl; rfl; rfl]))

theorem State.boundary_keeps {σ : State} (s : State) (hk : Keeps σ s) :
    Keeps σ (State.boundary s) := by
  unfold State.boundary
  extract_lets s1 s2 v skip s3 s4 src s5
  have k2 : Keeps σ s2 := State.toTc_keeps _ _ (State.lostRounds_keeps _ (State.abandonAll_keeps _
    (State.landFlags_keeps _ (State.toCut_keeps _ hk))))
  have k3 : Keeps σ s3 := State.dgBoundary_keeps _ _ (State.flushGathered_keeps _ k2)
  clear_value s3
  have k4 : Keeps σ s4 := State.mapPg_keeps _ _ (State.applyVerdict_keeps _ _ k3)
  clear_value s4
  exact State.openPeriod_keeps _ (State.clearPeriod_keeps _ (State.fixKind_keeps _ _ (State.closeStretch_keeps _
    (State.skipStorm_keeps _ (Keeps.mk k4 rfl rfl rfl rfl rfl)))))

theorem State.startFlight_keeps {σ : State} (s : State) (t : DWord) (hk : Keeps σ s) :
    Keeps σ (State.startFlight s t) := by
  unfold State.startFlight
  repeat' first
    | first
      | with_reducible assumption
      | (with_reducible apply State.dgBoundary_keeps)
      | (with_reducible apply State.toTc_keeps)
      | (with_reducible apply State.enterCond_keeps)
      | (with_reducible apply State.updPort_keeps)
      | (with_reducible apply State.updJoin_keeps)
      | (with_reducible apply State.clearPeriod_keeps)
      | (with_reducible apply State.openPeriod_keeps)
      | (with_reducible refine Keeps.foldl _ (fun t a ht => ?_) ?_)
    | first
      | split
      | ((try lift_lets); intro x; revert x; refine Keeps.letS (r := σ) ?_ (fun x hx => ?_))
      | (fail_if_no_progress ((with_reducible refine Keeps.mk ?_ ?_ ?_ ?_ ?_ ?_) <;> [skip; rfl; rfl; rfl; rfl; rfl]))

theorem State.dmPoison_keeps {σ : State} (s : State) (c : Nat) (b : Bool) (hk : Keeps σ s) :
    Keeps σ (State.dmPoison s c b) := by
  unfold State.dmPoison
  repeat' first
    | with_reducible assumption
    | (with_reducible apply State.setBit_keeps)
    | split

theorem State.moveBytes_keeps {σ : State} (s : State) (c dst src n : Nat) (hk : Keeps σ s) :
    Keeps σ (State.moveBytes s c dst src n) := by
  unfold State.moveBytes
  repeat' first
    | with_reducible assumption
    | (with_reducible apply State.touchRanges_keeps)
    | (with_reducible apply State.writeAt_keeps)
    | (with_reducible apply State.poisonAt_keeps)
    | (with_reducible apply State.dmPoison_keeps)

theorem State.zeroBytes_keeps {σ : State} (s : State) (c dst n : Nat) (hk : Keeps σ s) :
    Keeps σ (State.zeroBytes s c dst n) := by
  unfold State.zeroBytes
  repeat' first
    | with_reducible assumption
    | (with_reducible apply State.writeAt_keeps)

theorem State.issueDmCopy_keeps {σ : State} (s : State) (c : Nat) (e : QEntry) (dst src n : Nat) (hk : Keeps σ s) :
    Keeps σ (State.issueDmCopy s c e dst src n) := by
  unfold State.issueDmCopy
  repeat' first
    | with_reducible assumption
    | (with_reducible apply State.start_keeps)
    | (with_reducible apply State.failCmd_keeps)
    | (with_reducible apply State.moveBytes_keeps)
    | split

theorem State.issueDmZero_keeps {σ : State} (s : State) (c : Nat) (e : QEntry) (dst n : Nat) (hk : Keeps σ s) :
    Keeps σ (State.issueDmZero s c e dst n) := by
  unfold State.issueDmZero
  repeat' first
    | with_reducible assumption
    | (with_reducible apply State.start_keeps)
    | (with_reducible apply State.failCmd_keeps)
    | (with_reducible apply State.zeroBytes_keeps)
    | split

theorem State.issueDmGather_keeps {σ : State} (s : State) (c : Nat) (e : QEntry) (mz : Bool) (dst base list count b : Nat) (hk : Keeps σ s) :
    Keeps σ (State.issueDmGather s c e mz dst base list count b) := by
  unfold State.issueDmGather
  repeat' first
    | with_reducible assumption
    | (with_reducible apply State.touchRanges_keeps)
    | (with_reducible apply State.start_keeps)
    | (with_reducible apply State.failCmd_keeps)
    | (with_reducible apply State.moveBytes_keeps)
    | (with_reducible apply State.zeroBytes_keeps)
    | (with_reducible refine Keeps.foldl _ (fun t a ht => ?_) ?_)
    | split
    | ((try lift_lets); intro x; revert x; refine Keeps.letS (r := σ) ?_ (fun x hx => ?_))

theorem State.issueDmScatter_keeps {σ : State} (s : State) (c : Nat) (e : QEntry) (base list count b src : Nat) (hk : Keeps σ s) :
    Keeps σ (State.issueDmScatter s c e base list count b src) := by
  unfold State.issueDmScatter
  repeat' first
    | with_reducible assumption
    | (with_reducible apply State.touchRanges_keeps)
    | (with_reducible apply State.start_keeps)
    | (with_reducible apply State.failCmd_keeps)
    | (with_reducible apply State.moveBytes_keeps)
    | (with_reducible refine Keeps.foldl _ (fun t a ht => ?_) ?_)
    | split
    | ((try lift_lets); intro x; revert x; refine Keeps.letS (r := σ) ?_ (fun x hx => ?_))

theorem State.issueDmRput_keeps {σ : State} (s : State) (c : Nat) (e : QEntry) (chip win off src n : Nat) (hk : Keeps σ s) :
    Keeps σ (State.issueDmRput s c e chip win off src n) := by
  unfold State.issueDmRput
  repeat' first
    | with_reducible assumption
    | (with_reducible apply State.touchRanges_keeps)
    | (with_reducible apply State.start_keeps)
    | (with_reducible apply State.failCmd_keeps)
    | (with_reducible apply State.dmPoison_keeps)
    | split
    | ((try lift_lets); intro x; revert x; refine Keeps.letS (r := σ) ?_ (fun x hx => ?_))
    | (fail_if_no_progress ((with_reducible refine Keeps.mk ?_ ?_ ?_ ?_ ?_ ?_) <;> [skip; rfl; rfl; rfl; rfl; rfl]))

theorem State.noteStall_keeps {σ : State} (s : State) (h : Hdr) (cs : List Ctr) (hk : Keeps σ s) :
    Keeps σ (State.noteStall s h cs) := by
  unfold State.noteStall
  repeat' first
    | with_reducible assumption
    | (with_reducible apply State.updCore_keeps)
    | split
    | ((try lift_lets); intro x; revert x; refine Keeps.letS (r := σ) ?_ (fun x hx => ?_))

theorem State.updSq_keeps {σ : State} (s : State) (c : Nat) (f : Sq → Sq) (hk : Keeps σ s) :
    Keeps σ (State.updSq s c f) := by
  unfold State.updSq
  repeat' first
    | with_reducible assumption
    | (with_reducible apply State.updCore_keeps)

theorem State.pastCmd_keeps {σ : State} (s : State) (h : Hdr) (hk : Keeps σ s) :
    Keeps σ (State.pastCmd s h) := by
  unfold State.pastCmd
  repeat' first
    | with_reducible assumption
    | (with_reducible apply State.updSq_keeps)

theorem State.runCmd_keeps {σ : State} (s : State) (c : Nat) (e : QEntry) (hk : Keeps σ s) :
    Keeps σ (State.runCmd s c e) := by
  unfold State.runCmd
  repeat' first
    | first
      | with_reducible assumption
      | (with_reducible apply State.start_keeps)
      | (with_reducible apply State.issueMxLoad_keeps)
      | (with_reducible apply State.issueMxWs_keeps)
      | (with_reducible apply State.issueMxOs_keeps)
      | (with_reducible apply State.issueMxClear_keeps)
      | (with_reducible apply State.issueMxSheet_keeps)
      | (with_reducible apply State.issueMxSheetOff_keeps)
      | (with_reducible apply State.issueVxRun_keeps)
    | first
      | (with_reducible apply State.issueVxLd_keeps)
      | (with_reducible apply State.issueVxSt_keeps)
      | (with_reducible apply State.issueVxFill_keeps)
      | (with_reducible apply State.issueVxCtx_keeps)
      | (with_reducible apply State.issueVxRed_keeps)
      | (with_reducible apply State.issueVxScan_keeps)
      | (with_reducible apply State.issueVxSmStat_keeps)
      | (with_reducible apply State.issueVxSmMerge_keeps)
      | (with_reducible apply State.issueVxSmNorm_keeps)
    | first
      | (with_reducible apply State.issueVxSmFinal_keeps)
      | (with_reducible apply State.issueVxSmLse_keeps)
      | (with_reducible apply State.issueVxDigPost_keeps)
      | (with_reducible apply State.issueLpSend_keeps)
      | (with_reducible apply State.issueLpArm_keeps)
      | (with_reducible apply State.issueLpDisarm_keeps)
      | (with_reducible apply State.issueFlag_keeps)
      | (with_reducible apply State.issueSeRsig_keeps)
      | (with_reducible apply State.issueDmCopy_keeps)
    | first
      | (with_reducible apply State.issueDmZero_keeps)
      | (with_reducible apply State.issueDmGather_keeps)
      | (with_reducible apply State.issueDmScatter_keeps)
      | (with_reducible apply State.issueDmRput_keeps)
      | split

theorem State.remember_keeps {σ : State} (s t : State) (c : Nat) (order : List (Nat × Nat)) (hk : Keeps σ t) :
    Keeps σ (State.remember s t c order) := by
  unfold State.remember
  repeat' first
    | with_reducible assumption
    | (with_reducible apply State.setCore_keeps)
    | (with_reducible refine Keeps.foldl _ (fun t a ht => ?_) ?_)
    | split

theorem State.issueHead_keeps {σ : State} (s : State) (c : Nat) (eng : Engine) (hk : Keeps σ s) :
    Keeps σ (State.issueHead s c eng) := by
  unfold State.issueHead
  repeat' first
    | with_reducible assumption
    | (with_reducible apply State.updCore_keeps)
    | (with_reducible apply State.runCmd_keeps)
    | (with_reducible apply State.remember_keeps)
    | split

theorem State.hwm_keeps {σ : State} (s : State) (c : Nat) (eng : Engine) (n : Nat) (hk : Keeps σ s) :
    Keeps σ (State.hwm s c eng n) := by
  unfold State.hwm
  repeat' first
    | with_reducible assumption
    | (with_reducible apply State.wrF_keeps)
    | split
    | ((try lift_lets); intro x; revert x; refine Keeps.letS (r := σ) ?_ (fun x hx => ?_))

theorem State.enqueue_keeps {σ : State} (s : State) (h : Hdr) (eng : Engine) (cmd : ECmd) (hk : Keeps σ s) :
    Keeps σ (State.enqueue s h eng cmd) := by
  unfold State.enqueue
  repeat' first
    | with_reducible assumption
    | (with_reducible apply State.updCore_keeps)
    | (with_reducible apply State.coreFault_keeps)
    | (with_reducible apply State.hwm_keeps)
    | split
    | ((try lift_lets); intro x; revert x; refine Keeps.letS (r := σ) ?_ (fun x hx => ?_))

theorem State.dispatch_keeps {σ : State} (s : State) (h : Hdr) (eng : Engine) (ops : List Opnd) (mk : (Opnd → Word) → ECmd) (hk : Keeps σ s) :
    Keeps σ (State.dispatch s h eng ops mk) := by
  unfold State.dispatch
  repeat' first
    | with_reducible assumption
    | (with_reducible apply State.noteStall_keeps)
    | (with_reducible apply State.pastCmd_keeps)
    | (with_reducible apply State.issueHead_keeps)
    | (with_reducible apply State.enqueue_keeps)
    | split
    | ((try lift_lets); intro x; revert x; refine Keeps.letS (r := σ) ?_ (fun x hx => ?_))

theorem State.sendBy_keeps {σ : State} (s : State) (ep : Nat) (o : Output) (hk : Keeps σ s) :
    Keeps σ (State.sendBy s ep o) := by
  unfold State.sendBy
  repeat' first
    | with_reducible assumption
    | (with_reducible apply State.bump_keeps)
    | ((try lift_lets); intro x; revert x; refine Keeps.letS (r := σ) ?_ (fun x hx => ?_))
    | (fail_if_no_progress ((with_reducible refine Keeps.mk ?_ ?_ ?_ ?_ ?_ ?_) <;> [skip; rfl; rfl; rfl; rfl; rfl]))

theorem State.announceOn_keeps {σ : State} (net : Fin 2) (s : State) (ep : Nat) (hk : Keeps σ s) :
    Keeps σ (State.announceOn net s ep) := by
  unfold State.announceOn
  repeat' first
    | with_reducible assumption
    | (with_reducible apply State.sendBy_keeps)
    | split

theorem State.announce_keeps {σ : State} (s : State) (net : Fin 2) (hk : Keeps σ s) :
    Keeps σ (State.announce s net) := by
  unfold State.announce
  repeat' first
    | with_reducible assumption
    | (with_reducible apply State.announceOn_keeps)
    | (with_reducible refine Keeps.foldl _ (fun t a ht => ?_) ?_)

theorem State.report_keeps {σ : State} (s : State) (nonce : List Byte) (hk : Keeps σ s) :
    Keeps σ (State.report s nonce) := by
  unfold State.report
  repeat' first
    | with_reducible assumption
    | (with_reducible apply State.wr_keeps)
    | (with_reducible refine Keeps.foldl _ (fun t a ht => ?_) ?_)
    | (fail_if_no_progress ((with_reducible refine Keeps.mk ?_ ?_ ?_ ?_ ?_ ?_) <;> [skip; rfl; rfl; rfl; rfl; rfl]))

theorem State.streamOne_keeps {σ : State} (s : State) (i stream : Nat) (hk : Keeps σ s) :
    Keeps σ (State.streamOne s i stream) := by
  unfold State.streamOne
  repeat' first
    | with_reducible assumption
    | (with_reducible apply State.setSess_keeps)
    | (with_reducible apply State.sendTo_keeps)
    | split
    | ((try lift_lets); intro x; revert x; refine Keeps.letS (r := σ) ?_ (fun x hx => ?_))

theorem State.streams_keeps {σ : State} (s : State) (hk : Keeps σ s) :
    Keeps σ (State.streams s) := by
  unfold State.streams
  repeat' first
    | with_reducible assumption
    | (with_reducible apply State.streamOne_keeps)
    | (with_reducible refine Keeps.foldl _ (fun t a ht => ?_) ?_)

theorem State.fwDone_keeps {σ : State} (s : State) (o : Origin) (uid : Nat) (tag : Word) (op arg : Nat) (hk : Keeps σ s) :
    Keeps σ (State.fwDone s o uid tag op arg) := by
  unfold State.fwDone
  repeat' first
    | with_reducible assumption
    | (with_reducible apply State.log_keeps)
    | (with_reducible apply State.complete_keeps)

theorem State.fwRefuse_keeps {σ : State} (s : State) (uid : Nat) (tag : Word) (op code : Nat) (hk : Keeps σ s) :
    Keeps σ (State.fwRefuse s uid tag op code) := by
  unfold State.fwRefuse
  repeat' first
    | with_reducible assumption
    | (with_reducible apply State.complete_keeps)

theorem State.commitBank_keeps {σ : State} (s : State) (hk : Keeps σ s) :
    Keeps σ (State.commitBank s) := by
  unfold State.commitBank
  repeat' first
    | with_reducible assumption
    | ((try lift_lets); intro x; revert x; refine Keeps.letS (r := σ) ?_ (fun x hx => ?_))
    | (fail_if_no_progress ((with_reducible refine Keeps.mk ?_ ?_ ?_ ?_ ?_ ?_) <;> [skip; rfl; rfl; rfl; rfl; rfl]))

theorem State.svnBlow_keeps {σ : State} (s : State) (kind revoke svn : Nat) (hk : Keeps σ s) :
    Keeps σ (State.svnBlow s kind revoke svn) := by
  unfold State.svnBlow
  repeat' first
    | with_reducible assumption
    | ((try lift_lets); intro x; revert x; refine Keeps.letS (r := σ) ?_ (fun x hx => ?_))
    | (fail_if_no_progress ((with_reducible refine Keeps.mk ?_ ?_ ?_ ?_ ?_ ?_) <;> [skip; rfl; rfl; rfl; rfl; rfl]))

theorem State.ucalStore_keeps {σ : State} (s : State) (hk : Keeps σ s) :
    Keeps σ (State.ucalStore s) := by
  unfold State.ucalStore
  repeat' first
    | with_reducible assumption
    | split
    | ((try lift_lets); intro x; revert x; refine Keeps.letS (r := σ) ?_ (fun x hx => ?_))
    | (fail_if_no_progress ((with_reducible refine Keeps.mk ?_ ?_ ?_ ?_ ?_ ?_) <;> [skip; rfl; rfl; rfl; rfl; rfl]))

theorem State.lifecycleTo_keeps {σ : State} (s : State) (o : Origin) (n : Nat) (hk : Keeps σ s) :
    Keeps σ (State.lifecycleTo s o n) := by
  unfold State.lifecycleTo
  repeat' first
    | with_reducible assumption
    | (with_reducible apply State.log_keeps)
    | ((try lift_lets); intro x; revert x; refine Keeps.letS (r := σ) ?_ (fun x hx => ?_))
    | (fail_if_no_progress ((with_reducible refine Keeps.mk ?_ ?_ ?_ ?_ ?_ ?_) <;> [skip; rfl; rfl; rfl; rfl; rfl]))

theorem State.stage_keeps {σ : State} (s : State) (ep : Fin 8) (n base : Nat) (slots : List Nat) (ws : List Word) (hk : Keeps σ s) :
    Keeps σ (State.stage s ep n base slots ws) := by
  unfold State.stage
  repeat' first
    | with_reducible assumption
    | (with_reducible apply State.unitWrite_keeps)
    | (with_reducible refine Keeps.foldl _ (fun t a ht => ?_) ?_)
    | split

theorem State.enterRing_keeps {σ : State} (s1 : State) (i : Nat) (x : Sess) (c : CmdHdr) (op : ReqOp) (hk : Keeps σ s1) :
    Keeps σ (State.enterRing s1 i x c op) := by
  unfold State.enterRing
  repeat' first
    | with_reducible assumption
    | (with_reducible apply State.setRing_keeps)
    | (with_reducible apply State.setSess_keeps)
    | (with_reducible apply State.complete_keeps)
    | (with_reducible apply State.stage_keeps)
    | split
    | ((try lift_lets); intro x; revert x; refine Keeps.letS (r := σ) ?_ (fun x hx => ?_))
    | (fail_if_no_progress ((with_reducible refine Keeps.mk ?_ ?_ ?_ ?_ ?_ ?_) <;> [skip; rfl; rfl; rfl; rfl; rfl]))

theorem State.intake_keeps {σ : State} (s : State) (h : PctHdr) (c : CmdHdr) (op : ReqOp) (hk : Keeps σ s) :
    Keeps σ (State.intake s h c op) := by
  unfold State.intake
  repeat' first
    | with_reducible assumption
    | (with_reducible apply State.complete_keeps)
    | (with_reducible apply State.enterRing_keeps)
    | (refine State.command_keeps_eq (he := by assumption) ?_)
    | split

theorem State.sendProbe_keeps {σ : State} (s : State) (p : Fin 8) (hk : Keeps σ s) :
    Keeps σ (State.sendProbe s p) := by
  unfold State.sendProbe
  repeat' first
    | with_reducible assumption
    | (with_reducible apply State.updPort_keeps)
    | (with_reducible apply State.sendJoin_keeps)
    | split

theorem State.jtagRefused_keeps {σ : State} (s : State) (n : Nat) (hk : Keeps σ s) :
    Keeps σ (State.jtagRefused s n) := by
  unfold State.jtagRefused
  repeat' first
    | with_reducible assumption
    | (with_reducible apply State.event_keeps)
    | (fail_if_no_progress ((with_reducible refine Keeps.mk ?_ ?_ ?_ ?_ ?_ ?_) <;> [skip; rfl; rfl; rfl; rfl; rfl]))

theorem State.jtag_keeps {σ : State} (s : State) (n : Nat) (f : State → State) (hf : ∀ t, Keeps σ t → Keeps σ (f t)) (hk : Keeps σ s) :
    Keeps σ (State.jtag s n f) := by
  unfold State.jtag
  repeat' first
    | with_reducible assumption
    | (with_reducible apply State.jtagRefused_keeps)
    | (with_reducible apply hf)
    | split

theorem State.debug_keeps {σ : State} (s : State) (secure : Bool) (a : DbgAccess) (hk : Keeps σ s) :
    Keeps σ (State.debug s secure a) := by
  unfold State.debug
  repeat' first
    | with_reducible assumption
    | (with_reducible apply State.access_keeps)
    | split

theorem State.debugDenied_keeps {σ : State} (s : State) (a : DbgAccess) (hk : Keeps σ s) :
    Keeps σ (State.debugDenied s a) := by
  unfold State.debugDenied
  repeat' first
    | with_reducible assumption
    | (with_reducible apply State.hostRefused_keeps)
    | (with_reducible apply State.regWorld_keeps)
    | split
    | ((try lift_lets); intro x; revert x; refine Keeps.letS (r := σ) ?_ (fun x hx => ?_))
    | (fail_if_no_progress ((with_reducible refine Keeps.mk ?_ ?_ ?_ ?_ ?_ ?_) <;> [skip; rfl; rfl; rfl; rfl; rfl]))

theorem State.measureFor_keeps {σ : State} (s : State) (id : Nat) (hk : Keeps σ s) :
    Keeps σ (State.measureFor s id) := by
  unfold State.measureFor
  repeat' first
    | with_reducible assumption
    | (with_reducible apply State.measure_keeps)
    | split

theorem State.loadDone_keeps {σ : State} (s : State) (l : Load) (hk : Keeps σ s) :
    Keeps σ (State.loadDone s l) := by
  unfold State.loadDone
  repeat' first
    | with_reducible assumption
    | (with_reducible apply State.placeSections_keeps)
    | (with_reducible apply State.updPart_keeps)
    | split
    | ((try lift_lets); intro x; revert x; refine Keeps.letS (r := σ) ?_ (fun x hx => ?_))

theorem State.takePartOp_keeps {σ : State} (s : State) (ok : Bool) (o : PartOp) (hk : Keeps σ s) :
    Keeps σ (State.takePartOp s ok o) := by
  unfold State.takePartOp
  repeat' first
    | with_reducible assumption
    | (with_reducible apply State.complete_keeps)
    | split
    | ((try lift_lets); intro x; revert x; refine Keeps.letS (r := σ) ?_ (fun x hx => ?_))
    | (fail_if_no_progress ((with_reducible refine Keeps.mk ?_ ?_ ?_ ?_ ?_ ?_) <;> [skip; rfl; rfl; rfl; rfl; rfl]))

theorem State.putView_keeps {σ : State} (s : State) (p a : Nat) (bs : List Byte) (hk : Keeps σ s) :
    Keeps σ (State.putView s p a bs) := by
  unfold State.putView
  repeat' first
    | with_reducible assumption
    | (with_reducible apply State.atEndpoint_keeps)
    | (with_reducible apply State.unitPut_keeps)
    | (with_reducible apply State.refuseUnit_keeps)
    | split
    | ((try lift_lets); intro x; revert x; refine Keeps.letS (r := σ) ?_ (fun x hx => ?_))

theorem State.railsRise_keeps {σ : State} (s : State) (hk : Keeps σ s) :
    Keeps σ (State.railsRise s) := by
  unfold State.railsRise
  repeat' first
    | with_reducible assumption
    | ((try lift_lets); intro x; revert x; refine Keeps.letS (r := σ) ?_ (fun x hx => ?_))
    | (fail_if_no_progress ((with_reducible refine Keeps.mk ?_ ?_ ?_ ?_ ?_ ?_) <;> [skip; rfl; rfl; rfl; rfl; rfl]))

theorem State.powerOff_keeps {σ : State} (s : State) (hold : Nat) (trip : Bool) (hk : Keeps σ s) :
    Keeps σ (State.powerOff s hold trip) := by
  unfold State.powerOff
  repeat' first
    | with_reducible assumption
    | (with_reducible apply State.wipe_keeps)
    | ((try lift_lets); intro x; revert x; refine Keeps.letS (r := σ) ?_ (fun x hx => ?_))
    | (fail_if_no_progress ((with_reducible refine Keeps.mk ?_ ?_ ?_ ?_ ?_ ?_) <;> [skip; rfl; rfl; rfl; rfl; rfl]))

theorem State.resetKeep_keeps {σ : State} (s : State) (hk : Keeps σ s) :
    Keeps σ (State.resetKeep s) := by
  unfold State.resetKeep
  repeat' first
    | with_reducible assumption
    | (with_reducible apply State.wipe_keeps)
    | ((try lift_lets); intro x; revert x; refine Keeps.letS (r := σ) ?_ (fun x hx => ?_))
    | (fail_if_no_progress ((with_reducible refine Keeps.mk ?_ ?_ ?_ ?_ ?_ ?_) <;> [skip; rfl; rfl; rfl; rfl; rfl]))

theorem State.powerCode_keeps {σ : State} (s : State) (code stBit alertBit : Nat) (arg : Word) (hk : Keeps σ s) :
    Keeps σ (State.powerCode s code stBit alertBit arg) := by
  unfold State.powerCode
  repeat' first
    | with_reducible assumption
    | (with_reducible apply State.setBit_keeps)
    | (with_reducible apply State.event_keeps)
    | (with_reducible apply State.alert_keeps)
    | split
    | ((try lift_lets); intro x; revert x; refine Keeps.letS (r := σ) ?_ (fun x hx => ?_))
    | (fail_if_no_progress ((with_reducible refine Keeps.mk ?_ ?_ ?_ ?_ ?_ ?_) <;> [skip; rfl; rfl; rfl; rfl; rfl]))

theorem State.powerClear_keeps {σ : State} (s : State) (code : Nat) (hk : Keeps σ s) :
    Keeps σ (State.powerClear s code) := by
  unfold State.powerClear
  repeat' first
    | with_reducible assumption
    | ((try lift_lets); intro x; revert x; refine Keeps.letS (r := σ) ?_ (fun x hx => ?_))
    | (fail_if_no_progress ((with_reducible refine Keeps.mk ?_ ?_ ?_ ?_ ?_ ?_) <;> [skip; rfl; rfl; rfl; rfl; rfl]))

theorem State.stopFree_keeps {σ : State} (s : State) (hk : Keeps σ s) :
    Keeps σ (State.stopFree s) := by
  unfold State.stopFree
  repeat' first
    | with_reducible assumption
    | (with_reducible apply State.wrF_keeps)
    | (with_reducible refine Keeps.foldl _ (fun t a ht => ?_) ?_)
    | split

theorem State.readLands_keeps {σ : State} (s : State) (rl : Nat) (r : RoceReq) (bs : List Byte) (hk : Keeps σ s) :
    Keeps σ (State.readLands s rl r bs) := by
  unfold State.readLands
  repeat' first
    | with_reducible assumption
    | (with_reducible apply State.unitWrite_keeps)
    | (with_reducible apply State.putFrame_keeps)
    | split

theorem State.readArrives_keeps {σ : State} (s : State) (k : Nat) (r : RoceReq) (before : List RoceReq) (bs : List Byte) (hk : Keeps σ s) :
    Keeps σ (State.readArrives s k r before bs) := by
  unfold State.readArrives
  repeat' first
    | with_reducible assumption
    | (with_reducible apply State.setQp_keeps)
    | (with_reducible apply State.closeOp_keeps)
    | (with_reducible apply State.sendMore_keeps)
    | (with_reducible apply State.readLands_keeps)
    | (with_reducible refine Keeps.foldl _ (fun t a ht => ?_) ?_)
    | split

theorem State.fwWrite_keeps {σ : State} (s : State) (a : Nat) (v : Word) (hk : Keeps σ s) :
    Keeps σ (State.fwWrite s a v) := by
  unfold State.fwWrite
  repeat' first
    | with_reducible assumption
    | (with_reducible apply State.writeReg_keeps)

theorem State.setFlight_keeps {σ : State} (s : State) (b : FlightBody) (hk : Keeps σ s) :
    Keeps σ (State.setFlight s b) := by
  unfold State.setFlight
  repeat' first
    | with_reducible assumption
    | (with_reducible apply State.updJoin_keeps)
    | (with_reducible apply State.fwWrite_keeps)
    | (with_reducible refine Keeps.foldl _ (fun t a ht => ?_) ?_)

theorem State.upset_keeps {σ : State} (s : State) (c : Nat) (us : List Upset) (hk : Keeps σ s) :
    Keeps σ (State.upset s c us) := by
  unfold State.upset
  repeat' first
    | with_reducible assumption
    | (with_reducible apply State.setEcc_keeps)
    | (with_reducible refine Keeps.foldl _ (fun t a ht => ?_) ?_)
    | split
    | ((try lift_lets); intro x; revert x; refine Keeps.letS (r := σ) ?_ (fun x hx => ?_))

theorem State.poisonBack_keeps {σ : State} (s : State) (g : Nat) (hk : Keeps σ s) :
    Keeps σ (State.poisonBack s g) := by
  unfold State.poisonBack
  repeat' first
    | with_reducible assumption
    | (with_reducible apply State.setEcc_keeps)
    | ((try lift_lets); intro x; revert x; refine Keeps.letS (r := σ) ?_ (fun x hx => ?_))
    | (fail_if_no_progress ((with_reducible refine Keeps.mk ?_ ?_ ?_ ?_ ?_ ?_) <;> [skip; rfl; rfl; rfl; rfl; rfl]))

theorem State.corrBack_keeps {σ : State} (s : State) (c b g : Nat) (hk : Keeps σ s) :
    Keeps σ (State.corrBack s c b g) := by
  unfold State.corrBack
  repeat' first
    | with_reducible assumption
    | (with_reducible apply State.setEcc_keeps)
    | (with_reducible apply State.setBank_keeps)
    | split

theorem State.portFault_keeps {σ : State} (s : State) (c : Nat) (r : BankReq) (code : Nat) (hk : Keeps σ s) :
    Keeps σ (State.portFault s c r code) := by
  unfold State.portFault
  repeat' first
    | with_reducible assumption
    | (with_reducible apply State.sliceFault_keeps)
    | (with_reducible apply State.unitRefused_keeps)
    | (with_reducible apply State.hostRefused_keeps)
    | split
    | (fail_if_no_progress ((with_reducible refine Keeps.mk ?_ ?_ ?_ ?_ ?_ ?_) <;> [skip; rfl; rfl; rfl; rfl; rfl]))

theorem State.portWrite_keeps {σ : State} (s : State) (g : Nat) (r : BankReq) (hk : Keeps σ s) :
    Keeps σ (State.portWrite s g r) := by
  unfold State.portWrite
  repeat' first
    | with_reducible assumption
    | (with_reducible apply State.writeMasked_keeps)

theorem State.portRead_keeps {σ : State} (s : State) (g : Nat) (r : BankReq) (hk : Keeps σ s) :
    Keeps σ (State.portRead s g r) := by
  unfold State.portRead
  repeat' first
    | with_reducible assumption
    | (with_reducible apply State.checkRows_keeps)
    | (with_reducible apply State.deliver_keeps)
    | ((try lift_lets); intro x; revert x; refine Keeps.letS (r := σ) ?_ (fun x hx => ?_))
    | (fail_if_no_progress ((with_reducible refine Keeps.mk ?_ ?_ ?_ ?_ ?_ ?_) <;> [skip; rfl; rfl; rfl; rfl; rfl]))

theorem State.portAccess_keeps {σ : State} (s : State) (c : Nat) (r : BankReq) (hk : Keeps σ s) :
    Keeps σ (State.portAccess s c r) := by
  unfold State.portAccess
  repeat' first
    | with_reducible assumption
    | (with_reducible apply State.portFault_keeps)
    | (with_reducible apply State.portWrite_keeps)
    | (with_reducible apply State.portRead_keeps)
    | split

theorem State.present_keeps {σ : State} (s : State) (c b : Nat) (r : BankReq) (hk : Keeps σ s) :
    Keeps σ (State.present s c b r) := by
  unfold State.present
  repeat' first
    | with_reducible assumption
    | (with_reducible apply State.setBank_keeps)
    | (with_reducible apply State.portFault_keeps)
    | split
    | ((try lift_lets); intro x; revert x; refine Keeps.letS (r := σ) ?_ (fun x hx => ?_))
    | (fail_if_no_progress ((with_reducible refine Keeps.mk ?_ ?_ ?_ ?_ ?_ ?_) <;> [skip; rfl; rfl; rfl; rfl; rfl]))

theorem State.scrubPass_keeps {σ : State} (s : State) (c : Nat) (hk : Keeps σ s) :
    Keeps σ (State.scrubPass s c) := by
  unfold State.scrubPass
  repeat' first
    | with_reducible assumption
    | (with_reducible apply State.setBit_keeps)
    | (with_reducible apply State.setBank_keeps)
    | (with_reducible refine Keeps.foldl _ (fun t a ht => ?_) ?_)
    | split

theorem State.scrubRow_keeps {σ : State} (s : State) (c b : Nat) (hk : Keeps σ s) :
    Keeps σ (State.scrubRow s c b) := by
  unfold State.scrubRow
  repeat' first
    | with_reducible assumption
    | (with_reducible apply State.setBank_keeps)
    | (with_reducible apply State.checkRows_keeps)
    | (with_reducible apply State.scrubPass_keeps)

theorem State.bankCycle_keeps {σ : State} (s : State) (c b : Nat) (hk : Keeps σ s) :
    Keeps σ (State.bankCycle s c b) := by
  unfold State.bankCycle
  repeat' first
    | with_reducible assumption
    | (with_reducible apply State.bumpN_keeps)
    | (with_reducible apply State.setBank_keeps)
    | (with_reducible apply State.poisonBack_keeps)
    | (with_reducible apply State.corrBack_keeps)
    | (with_reducible apply State.portAccess_keeps)
    | (with_reducible apply State.scrubRow_keeps)
    | split
    | ((try lift_lets); intro x; revert x; refine Keeps.letS (r := σ) ?_ (fun x hx => ?_))

theorem State.sq_keeps {σ : State} (s : State) (h : Hdr) (ops : List Opnd) (cs : List Ctr) (f : State → State) (hf : ∀ t, Keeps σ t → Keeps σ (f t)) (hk : Keeps σ s) :
    Keeps σ (State.sq s h ops cs f) := by
  unfold State.sq
  repeat' first
    | with_reducible assumption
    | (with_reducible apply State.noteStall_keeps)
    | (with_reducible apply State.pastCmd_keeps)
    | (with_reducible apply hf)
    | split
    | ((try lift_lets); intro x; revert x; refine Keeps.letS (r := σ) ?_ (fun x hx => ?_))

theorem State.sqDo_keeps {σ : State} (s : State) (h : Hdr) (f : Sq → Sq) (hk : Keeps σ s) :
    Keeps σ (State.sqDo s h f) := by
  unfold State.sqDo
  repeat' first
    | with_reducible assumption
    | (with_reducible apply State.updSq_keeps)
    | (with_reducible apply State.pastCmd_keeps)

theorem State.sqAlu_keeps {σ : State} (s : State) (h : Hdr) (cd ca : Ctr) (b : Opnd) (f : Word → Word → Word) (hk : Keeps σ s) :
    Keeps σ (State.sqAlu s h cd ca b f) := by
  unfold State.sqAlu
  repeat' first
    | with_reducible assumption
    | (with_reducible apply State.sq_keeps)
    | (with_reducible apply State.sqDo_keeps)
    | refine (fun (t : State) (ht : Keeps σ t) => ?_)

theorem State.sqFault_keeps {σ : State} (s : State) (h : Hdr) (code : Nat) (hk : Keeps σ s) :
    Keeps σ (State.sqFault s h code) := by
  unfold State.sqFault
  repeat' first
    | with_reducible assumption
    | (with_reducible apply State.coreFault_keeps)

theorem State.sqLogic_keeps {σ : State} (s : State) (h : Hdr) (pd : PReg) (pa pb : PSrc) (f : Bool → Bool → Bool) (hk : Keeps σ s) :
    Keeps σ (State.sqLogic s h pd pa pb f) := by
  unfold State.sqLogic
  repeat' first
    | with_reducible assumption
    | (with_reducible apply State.sq_keeps)
    | (with_reducible apply State.sqDo_keeps)
    | refine (fun (t : State) (ht : Keeps σ t) => ?_)

theorem State.sqCallTo_keeps {σ : State} (s : State) (h : Hdr) (routine : Option Word) (target : Nat) (hk : Keeps σ s) :
    Keeps σ (State.sqCallTo s h routine target) := by
  unfold State.sqCallTo
  repeat' first
    | with_reducible assumption
    | (with_reducible apply State.updSq_keeps)
    | (with_reducible apply State.pastCmd_keeps)
    | (with_reducible apply State.sqFault_keeps)
    | split

theorem State.sqReturn_keeps {σ : State} (s : State) (h : Hdr) (routine : Bool) (hk : Keeps σ s) :
    Keeps σ (State.sqReturn s h routine) := by
  unfold State.sqReturn
  repeat' first
    | with_reducible assumption
    | (with_reducible apply State.updSq_keeps)
    | (with_reducible apply State.pastCmd_keeps)
    | (with_reducible apply State.sqFault_keeps)
    | split
    | ((try lift_lets); intro x; revert x; refine Keeps.letS (r := σ) ?_ (fun x hx => ?_))

theorem State.setSu_keeps {σ : State} (s : State) (n : Fin 4) (u : Su) (hk : Keeps σ s) :
    Keeps σ (State.setSu s n u) := by
  unfold State.setSu
  repeat' first
    | with_reducible assumption
    | (fail_if_no_progress ((with_reducible refine Keeps.mk ?_ ?_ ?_ ?_ ?_ ?_) <;> [skip; rfl; rfl; rfl; rfl; rfl]))

theorem State.addResult_keeps {σ : State} (s : State) (r : SlotResult) (hk : Keeps σ s) :
    Keeps σ (State.addResult s r) := by
  unfold State.addResult
  repeat' first
    | with_reducible assumption
    | ((try lift_lets); intro x; revert x; refine Keeps.letS (r := σ) ?_ (fun x hx => ?_))
    | (fail_if_no_progress ((with_reducible refine Keeps.mk ?_ ?_ ?_ ?_ ?_ ?_) <;> [skip; rfl; rfl; rfl; rfl; rfl]))

theorem State.sampleSlot_keeps {σ : State} (s : State) (n : Nat) (t : BTable) (j : SuJob) (i : Nat) (hk : Keeps σ s) :
    Keeps σ (s.sampleSlot n t j i) := by
  unfold State.sampleSlot
  split
  · exact State.setBit_keeps _ _ _ hk
  · next b _ =>
    split
    · exact hk
    · split
      · exact State.setBit_keeps _ _ _ hk
      · dsimp only
        have k1 := State.unitRead_keeps (s.atEndpoint (0x104 + n) ((j.cand + 17 * i * (j.shards * j.k) * 8) / 0x2000000)) 8 j.part
          ((j.cand + 17 * i * (j.shards * j.k) * 8) / 0x2000000) ((j.cand + 17 * i * (j.shards * j.k) * 8) % 0x2000000)
          ((b.d + 1) * (j.shards * j.k) * 8) (State.atEndpoint_keeps _ _ _ hk)
        generalize State.unitRead _ 8 j.part _ _ _ = r at k1 ⊢
        obtain ⟨bs, bad, s1⟩ := r
        dsimp only at k1 ⊢
        split
        · exact State.setBit_keeps _ _ _ k1
        · have k2 : ∀ (p : Prop) [Decidable p], Keeps σ (if p then s1.setBit (rSuStatus n) 6 else s1) := by
            intro p _
            split
            · exact State.setBit_keeps _ _ _ k1
            · exact k1
          split
          · split
            · exact State.addResult_keeps _ _ (State.setBit_keeps _ _ _ (k2 _))
            · exact State.addResult_keeps _ _ (k2 _)
          · exact State.bumpN_keeps _ _ _ (State.bumpN_keeps _ _ _ (State.bumpN_keeps _ _ _ (State.addResult_keeps _ _ (k2 _))))

theorem State.logTc_keeps {σ : State} (s : State) (old new : DWord) (hk : Keeps σ s) :
    Keeps σ (State.logTc s old new) := by
  unfold State.logTc
  repeat' first
    | with_reducible assumption
    | (with_reducible apply State.log_keeps)

theorem State.slew_keeps {σ : State} (s : State) (err : Int) (hk : Keeps σ s) :
    Keeps σ (State.slew s err) := by
  unfold State.slew
  repeat' first
    | with_reducible assumption
    | split
    | ((try lift_lets); intro x; revert x; refine Keeps.letS (r := σ) ?_ (fun x hx => ?_))
    | (fail_if_no_progress ((with_reducible refine Keeps.mk ?_ ?_ ?_ ?_ ?_ ?_) <;> [skip; rfl; rfl; rfl; rfl; rfl]))

theorem State.tick_keeps {σ : State} (s : State) (hk : Keeps σ s) :
    Keeps σ (State.tick s) := by
  unfold State.tick
  repeat' first
    | with_reducible assumption
    | (with_reducible apply State.streams_keeps)
    | split
    | ((try lift_lets); intro x; revert x; refine Keeps.letS (r := σ) ?_ (fun x hx => ?_))
    | (fail_if_no_progress ((with_reducible refine Keeps.mk ?_ ?_ ?_ ?_ ?_ ?_) <;> [skip; rfl; rfl; rfl; rfl; rfl]))

end Sys2Proof.Machine
end

