-- ==== Sys2Proof/Laws/State.lean ====
section
/-! SUPPORT. For each operation that replaces one piece of the state: what reading that piece answers after it, and that every
other field stands as it was. -/

namespace Sys2Proof.Machine

open Sys2Proof Sys2Proof.Laws

/-! ### Read after write -/

theorem State.core_setCore (s : State) (c d : Nat) (k : Core) : (s.setCore c k).core d = if d = c then k else s.core d := get_set _ _ _ _ _

theorem State.rd_wr (s : State) (a b : Nat) (v : Word) : (s.wr a v).rd b = if b = a then v else s.rd b := get_set _ _ _ _ _

theorem State.part_setPart (s : State) (p d : Nat) (q : Part) : (s.setPart p q).part d = if d = p then q else s.part d := get_set _ _ _ _ _

theorem State.memGet_memSet (s : State) (g d : Nat) (b : Byte) : (s.memSet g b).memGet d = if d = g then b else s.memGet d := get_set _ _ _ _ _

theorem State.pgOf_setPg (s : State) (p d : Nat) (q : PgPart) : (s.setPg p q).pgOf d = if d = p then q else s.pgOf d := get_set _ _ _ _ _

theorem State.qp_setQp (s : State) (n d : Nat) (x : Qp) : (s.setQp n x).qp d = if d = n then x else s.qp d := get_set _ _ _ _ _

theorem State.flagVal_setFlag (s : State) (f d : Nat) (v : Word) : (s.setFlag f v).flagVal d = if d = f then v else s.flagVal d := get_set _ _ _ _ _

theorem State.ent_setEnt (s : State) (i d : Nat) (e : Ent) : (s.setEnt i e).ent d = if d = i then e else s.ent d := get_set _ _ _ _ _

theorem State.cli_setCli (s : State) (i d : Nat) (c : Cli) : (s.setCli i c).cli d = if d = i then c else s.cli d := get_set _ _ _ _ _

theorem State.ring_setRing (s : State) (n d : Nat) (r : List RingCmd) : (s.setRing n r).ring d = if d = n then r else s.ring d := get_set _ _ _ _ _

theorem State.sessAt_setSess (s : State) (i d : Nat) (x : Option Sess) : (s.setSess i x).sessAt d = if d = i then x else s.sessAt d := get_set _ _ _ _ _

theorem State.mailAt_setMail (s : State) (e d : Nat) (q : List Packet) : (s.setMail e q).mailAt d = if d = e then q else s.mailAt d := get_set _ _ _ _ _

theorem State.outstAt_setOutst (s : State) (e n d : Nat) : (s.setOutst e n).outstAt d = if d = e then n else s.outstAt d := get_set _ _ _ _ _

theorem State.legIn_setLegIn (s : State) (n d : Nat) (q : List Flit) : (s.setLegIn n q).legIn d = if d = n then q else s.legIn d := get_set _ _ _ _ _

@[simp] theorem State.rd_wr_same (s : State) (a : Nat) (v : Word) : (s.wr a v).rd a = v := get_set_same _ _ _ _

@[simp] theorem State.core_setCore_same (s : State) (c : Nat) (k : Core) : (s.setCore c k).core c = k := get_set_same _ _ _ _

@[simp] theorem State.core_updCore_same (s : State) (c : Nat) (f : Core → Core) : (s.updCore c f).core c = f (s.core c) :=
  get_set_same _ _ _ _

theorem State.core_updCore (s : State) (c d : Nat) (f : Core → Core) :
    (s.updCore c f).core d = if d = c then f (s.core c) else s.core d := get_set _ _ _ _ _

/-- What a change of a core's sequencer leaves of the cores. -/
theorem State.core_updSq (s : State) (c d : Nat) (f : Sq → Sq) :
    (s.updSq c f).core d = if d = c then { s.core c with sq := f (s.core c).sq } else s.core d := State.core_updCore s c d _

/-- Writing a register twice leaves the second word. -/
theorem State.rd_wr_wr (s : State) (a b : Nat) (v w : Word) :
    ((s.wr a v).wr a w).rd b = (s.wr a w).rd b := by
  simp only [State.rd_wr]; split <;> rfl

/-! ### The memory keeps its canonical form -/

theorem State.memSet_wf (s : State) (g : Nat) (b : Byte) (h : Memory.wf s.mem = true) : Memory.wf (s.memSet g b).mem = true :=
  wf_set _ _ _ _ h

/-- Dropping corrections that wait changes no byte. -/
@[simp] theorem State.dropCorr_mem (s : State) (hit : Nat → Bool) : (s.dropCorr hit).mem = s.mem := by
  unfold State.dropCorr
  refine List.foldlRecOn (motive := fun t : State => t.mem = s.mem) s.banks _ rfl fun t ht x _ => ?_
  dsimp only
  split
  · split <;> exact ht
  · exact ht

theorem State.zeroize_wf (s : State) (c p n : Nat) (h : Memory.wf s.mem = true) : Memory.wf (s.zeroize c p n).mem = true :=
  wf_filter _ _ _ (by rw [State.dropCorr_mem]; exact h)

/-! ### What each operation leaves alone -/

@[simp] theorem State.wr_pending (s : State) (a : Nat) (v : Word) : (s.wr a v).pending = s.pending := rfl
@[simp] theorem State.wr_fuses (s : State) (a : Nat) (v : Word) : (s.wr a v).fuses = s.fuses := rfl
@[simp] theorem State.wr_flash (s : State) (a : Nat) (v : Word) : (s.wr a v).flash = s.flash := rfl
@[simp] theorem State.wr_pwr (s : State) (a : Nat) (v : Word) : (s.wr a v).pwr = s.pwr := rfl
@[simp] theorem State.wr_tb (s : State) (a : Nat) (v : Word) : (s.wr a v).tb = s.tb := rfl
@[simp] theorem State.wr_beat (s : State) (a : Nat) (v : Word) : (s.wr a v).beat = s.beat := rfl
@[simp] theorem State.wr_cores (s : State) (a : Nat) (v : Word) : (s.wr a v).cores = s.cores := rfl
@[simp] theorem State.wr_mem (s : State) (a : Nat) (v : Word) : (s.wr a v).mem = s.mem := rfl
@[simp] theorem State.wr_ecc (s : State) (a : Nat) (v : Word) : (s.wr a v).ecc = s.ecc := rfl
@[simp] theorem State.wr_poisonPending (s : State) (a : Nat) (v : Word) : (s.wr a v).poisonPending = s.poisonPending := rfl
@[simp] theorem State.wr_banks (s : State) (a : Nat) (v : Word) : (s.wr a v).banks = s.banks := rfl
@[simp] theorem State.wr_flags (s : State) (a : Nat) (v : Word) : (s.wr a v).flags = s.flags := rfl
@[simp] theorem State.wr_parts (s : State) (a : Nat) (v : Word) : (s.wr a v).parts = s.parts := rfl
@[simp] theorem State.wr_partOps (s : State) (a : Nat) (v : Word) : (s.wr a v).partOps = s.partOps := rfl
@[simp] theorem State.wr_transits (s : State) (a : Nat) (v : Word) : (s.wr a v).transits = s.transits := rfl
@[simp] theorem State.wr_loads (s : State) (a : Nat) (v : Word) : (s.wr a v).loads = s.loads := rfl
@[simp] theorem State.wr_tether (s : State) (a : Nat) (v : Word) : (s.wr a v).tether = s.tether := rfl
@[simp] theorem State.wr_drift (s : State) (a : Nat) (v : Word) : (s.wr a v).drift = s.drift := rfl
@[simp] theorem State.wr_rt (s : State) (a : Nat) (v : Word) : (s.wr a v).rt = s.rt := rfl
@[simp] theorem State.wr_su (s : State) (a : Nat) (v : Word) : (s.wr a v).su = s.su := rfl
@[simp] theorem State.wr_rings (s : State) (a : Nat) (v : Word) : (s.wr a v).rings = s.rings := rfl
@[simp] theorem State.wr_pg (s : State) (a : Nat) (v : Word) : (s.wr a v).pg = s.pg := rfl
@[simp] theorem State.wr_qps (s : State) (a : Nat) (v : Word) : (s.wr a v).qps = s.qps := rfl
@[simp] theorem State.wr_dg (s : State) (a : Nat) (v : Word) : (s.wr a v).dg = s.dg := rfl
@[simp] theorem State.wr_sess (s : State) (a : Nat) (v : Word) : (s.wr a v).sess = s.sess := rfl
@[simp] theorem State.wr_stalled (s : State) (a : Nat) (v : Word) : (s.wr a v).stalled = s.stalled := rfl
@[simp] theorem State.wr_neigh (s : State) (a : Nat) (v : Word) : (s.wr a v).neigh = s.neigh := rfl
@[simp] theorem State.wr_mc (s : State) (a : Nat) (v : Word) : (s.wr a v).mc = s.mc := rfl
@[simp] theorem State.wr_sc (s : State) (a : Nat) (v : Word) : (s.wr a v).sc = s.sc := rfl
@[simp] theorem State.wr_ir (s : State) (a : Nat) (v : Word) : (s.wr a v).ir = s.ir := rfl
@[simp] theorem State.wr_out (s : State) (a : Nat) (v : Word) : (s.wr a v).out = s.out := rfl
@[simp] theorem State.wr_rnd (s : State) (a : Nat) (v : Word) : (s.wr a v).rnd = s.rnd := rfl
@[simp] theorem State.wr_free (s : State) (a : Nat) (v : Word) : (s.wr a v).free = s.free := rfl

@[simp] theorem State.wrF_pending (s : State) (a lsb len v : Nat) : (s.wrF a lsb len v).pending = s.pending := rfl
@[simp] theorem State.wrF_fuses (s : State) (a lsb len v : Nat) : (s.wrF a lsb len v).fuses = s.fuses := rfl
@[simp] theorem State.wrF_flash (s : State) (a lsb len v : Nat) : (s.wrF a lsb len v).flash = s.flash := rfl
@[simp] theorem State.wrF_pwr (s : State) (a lsb len v : Nat) : (s.wrF a lsb len v).pwr = s.pwr := rfl
@[simp] theorem State.wrF_tb (s : State) (a lsb len v : Nat) : (s.wrF a lsb len v).tb = s.tb := rfl
@[simp] theorem State.wrF_beat (s : State) (a lsb len v : Nat) : (s.wrF a lsb len v).beat = s.beat := rfl
@[simp] theorem State.wrF_cores (s : State) (a lsb len v : Nat) : (s.wrF a lsb len v).cores = s.cores := rfl
@[simp] theorem State.wrF_mem (s : State) (a lsb len v : Nat) : (s.wrF a lsb len v).mem = s.mem := rfl
@[simp] theorem State.wrF_ecc (s : State) (a lsb len v : Nat) : (s.wrF a lsb len v).ecc = s.ecc := rfl
@[simp] theorem State.wrF_poisonPending (s : State) (a lsb len v : Nat) : (s.wrF a lsb len v).poisonPending = s.poisonPending := rfl
@[simp] theorem State.wrF_banks (s : State) (a lsb len v : Nat) : (s.wrF a lsb len v).banks = s.banks := rfl
@[simp] theorem State.wrF_flags (s : State) (a lsb len v : Nat) : (s.wrF a lsb len v).flags = s.flags := rfl
@[simp] theorem State.wrF_parts (s : State) (a lsb len v : Nat) : (s.wrF a lsb len v).parts = s.parts := rfl
@[simp] theorem State.wrF_partOps (s : State) (a lsb len v : Nat) : (s.wrF a lsb len v).partOps = s.partOps := rfl
@[simp] theorem State.wrF_transits (s : State) (a lsb len v : Nat) : (s.wrF a lsb len v).transits = s.transits := rfl
@[simp] theorem State.wrF_loads (s : State) (a lsb len v : Nat) : (s.wrF a lsb len v).loads = s.loads := rfl
@[simp] theorem State.wrF_tether (s : State) (a lsb len v : Nat) : (s.wrF a lsb len v).tether = s.tether := rfl
@[simp] theorem State.wrF_drift (s : State) (a lsb len v : Nat) : (s.wrF a lsb len v).drift = s.drift := rfl
@[simp] theorem State.wrF_rt (s : State) (a lsb len v : Nat) : (s.wrF a lsb len v).rt = s.rt := rfl
@[simp] theorem State.wrF_su (s : State) (a lsb len v : Nat) : (s.wrF a lsb len v).su = s.su := rfl
@[simp] theorem State.wrF_rings (s : State) (a lsb len v : Nat) : (s.wrF a lsb len v).rings = s.rings := rfl
@[simp] theorem State.wrF_pg (s : State) (a lsb len v : Nat) : (s.wrF a lsb len v).pg = s.pg := rfl
@[simp] theorem State.wrF_qps (s : State) (a lsb len v : Nat) : (s.wrF a lsb len v).qps = s.qps := rfl
@[simp] theorem State.wrF_dg (s : State) (a lsb len v : Nat) : (s.wrF a lsb len v).dg = s.dg := rfl
@[simp] theorem State.wrF_sess (s : State) (a lsb len v : Nat) : (s.wrF a lsb len v).sess = s.sess := rfl
@[simp] theorem State.wrF_stalled (s : State) (a lsb len v : Nat) : (s.wrF a lsb len v).stalled = s.stalled := rfl
@[simp] theorem State.wrF_neigh (s : State) (a lsb len v : Nat) : (s.wrF a lsb len v).neigh = s.neigh := rfl
@[simp] theorem State.wrF_mc (s : State) (a lsb len v : Nat) : (s.wrF a lsb len v).mc = s.mc := rfl
@[simp] theorem State.wrF_sc (s : State) (a lsb len v : Nat) : (s.wrF a lsb len v).sc = s.sc := rfl
@[simp] theorem State.wrF_ir (s : State) (a lsb len v : Nat) : (s.wrF a lsb len v).ir = s.ir := rfl
@[simp] theorem State.wrF_out (s : State) (a lsb len v : Nat) : (s.wrF a lsb len v).out = s.out := rfl
@[simp] theorem State.wrF_rnd (s : State) (a lsb len v : Nat) : (s.wrF a lsb len v).rnd = s.rnd := rfl
@[simp] theorem State.wrF_free (s : State) (a lsb len v : Nat) : (s.wrF a lsb len v).free = s.free := rfl

@[simp] theorem State.setBit_pending (s : State) (a n : Nat) : (s.setBit a n).pending = s.pending := rfl
@[simp] theorem State.setBit_fuses (s : State) (a n : Nat) : (s.setBit a n).fuses = s.fuses := rfl
@[simp] theorem State.setBit_flash (s : State) (a n : Nat) : (s.setBit a n).flash = s.flash := rfl
@[simp] theorem State.setBit_pwr (s : State) (a n : Nat) : (s.setBit a n).pwr = s.pwr := rfl
@[simp] theorem State.setBit_tb (s : State) (a n : Nat) : (s.setBit a n).tb = s.tb := rfl
@[simp] theorem State.setBit_beat (s : State) (a n : Nat) : (s.setBit a n).beat = s.beat := rfl
@[simp] theorem State.setBit_cores (s : State) (a n : Nat) : (s.setBit a n).cores = s.cores := rfl
@[simp] theorem State.setBit_mem (s : State) (a n : Nat) : (s.setBit a n).mem = s.mem := rfl
@[simp] theorem State.setBit_ecc (s : State) (a n : Nat) : (s.setBit a n).ecc = s.ecc := rfl
@[simp] theorem State.setBit_poisonPending (s : State) (a n : Nat) : (s.setBit a n).poisonPending = s.poisonPending := rfl
@[simp] theorem State.setBit_banks (s : State) (a n : Nat) : (s.setBit a n).banks = s.banks := rfl
@[simp] theorem State.setBit_flags (s : State) (a n : Nat) : (s.setBit a n).flags = s.flags := rfl
@[simp] theorem State.setBit_parts (s : State) (a n : Nat) : (s.setBit a n).parts = s.parts := rfl
@[simp] theorem State.setBit_partOps (s : State) (a n : Nat) : (s.setBit a n).partOps = s.partOps := rfl
@[simp] theorem State.setBit_transits (s : State) (a n : Nat) : (s.setBit a n).transits = s.transits := rfl
@[simp] theorem State.setBit_loads (s : State) (a n : Nat) : (s.setBit a n).loads = s.loads := rfl
@[simp] theorem State.setBit_tether (s : State) (a n : Nat) : (s.setBit a n).tether = s.tether := rfl
@[simp] theorem State.setBit_drift (s : State) (a n : Nat) : (s.setBit a n).drift = s.drift := rfl
@[simp] theorem State.setBit_rt (s : State) (a n : Nat) : (s.setBit a n).rt = s.rt := rfl
@[simp] theorem State.setBit_su (s : State) (a n : Nat) : (s.setBit a n).su = s.su := rfl
@[simp] theorem State.setBit_rings (s : State) (a n : Nat) : (s.setBit a n).rings = s.rings := rfl
@[simp] theorem State.setBit_pg (s : State) (a n : Nat) : (s.setBit a n).pg = s.pg := rfl
@[simp] theorem State.setBit_qps (s : State) (a n : Nat) : (s.setBit a n).qps = s.qps := rfl
@[simp] theorem State.setBit_dg (s : State) (a n : Nat) : (s.setBit a n).dg = s.dg := rfl
@[simp] theorem State.setBit_sess (s : State) (a n : Nat) : (s.setBit a n).sess = s.sess := rfl
@[simp] theorem State.setBit_stalled (s : State) (a n : Nat) : (s.setBit a n).stalled = s.stalled := rfl
@[simp] theorem State.setBit_neigh (s : State) (a n : Nat) : (s.setBit a n).neigh = s.neigh := rfl
@[simp] theorem State.setBit_mc (s : State) (a n : Nat) : (s.setBit a n).mc = s.mc := rfl
@[simp] theorem State.setBit_sc (s : State) (a n : Nat) : (s.setBit a n).sc = s.sc := rfl
@[simp] theorem State.setBit_ir (s : State) (a n : Nat) : (s.setBit a n).ir = s.ir := rfl
@[simp] theorem State.setBit_out (s : State) (a n : Nat) : (s.setBit a n).out = s.out := rfl
@[simp] theorem State.setBit_rnd (s : State) (a n : Nat) : (s.setBit a n).rnd = s.rnd := rfl
@[simp] theorem State.setBit_free (s : State) (a n : Nat) : (s.setBit a n).free = s.free := rfl

@[simp] theorem State.clrBit_pending (s : State) (a n : Nat) : (s.clrBit a n).pending = s.pending := rfl
@[simp] theorem State.clrBit_fuses (s : State) (a n : Nat) : (s.clrBit a n).fuses = s.fuses := rfl
@[simp] theorem State.clrBit_flash (s : State) (a n : Nat) : (s.clrBit a n).flash = s.flash := rfl
@[simp] theorem State.clrBit_pwr (s : State) (a n : Nat) : (s.clrBit a n).pwr = s.pwr := rfl
@[simp] theorem State.clrBit_tb (s : State) (a n : Nat) : (s.clrBit a n).tb = s.tb := rfl
@[simp] theorem State.clrBit_beat (s : State) (a n : Nat) : (s.clrBit a n).beat = s.beat := rfl
@[simp] theorem State.clrBit_cores (s : State) (a n : Nat) : (s.clrBit a n).cores = s.cores := rfl
@[simp] theorem State.clrBit_mem (s : State) (a n : Nat) : (s.clrBit a n).mem = s.mem := rfl
@[simp] theorem State.clrBit_ecc (s : State) (a n : Nat) : (s.clrBit a n).ecc = s.ecc := rfl
@[simp] theorem State.clrBit_poisonPending (s : State) (a n : Nat) : (s.clrBit a n).poisonPending = s.poisonPending := rfl
@[simp] theorem State.clrBit_banks (s : State) (a n : Nat) : (s.clrBit a n).banks = s.banks := rfl
@[simp] theorem State.clrBit_flags (s : State) (a n : Nat) : (s.clrBit a n).flags = s.flags := rfl
@[simp] theorem State.clrBit_parts (s : State) (a n : Nat) : (s.clrBit a n).parts = s.parts := rfl
@[simp] theorem State.clrBit_partOps (s : State) (a n : Nat) : (s.clrBit a n).partOps = s.partOps := rfl
@[simp] theorem State.clrBit_transits (s : State) (a n : Nat) : (s.clrBit a n).transits = s.transits := rfl
@[simp] theorem State.clrBit_loads (s : State) (a n : Nat) : (s.clrBit a n).loads = s.loads := rfl
@[simp] theorem State.clrBit_tether (s : State) (a n : Nat) : (s.clrBit a n).tether = s.tether := rfl
@[simp] theorem State.clrBit_drift (s : State) (a n : Nat) : (s.clrBit a n).drift = s.drift := rfl
@[simp] theorem State.clrBit_rt (s : State) (a n : Nat) : (s.clrBit a n).rt = s.rt := rfl
@[simp] theorem State.clrBit_su (s : State) (a n : Nat) : (s.clrBit a n).su = s.su := rfl
@[simp] theorem State.clrBit_rings (s : State) (a n : Nat) : (s.clrBit a n).rings = s.rings := rfl
@[simp] theorem State.clrBit_pg (s : State) (a n : Nat) : (s.clrBit a n).pg = s.pg := rfl
@[simp] theorem State.clrBit_qps (s : State) (a n : Nat) : (s.clrBit a n).qps = s.qps := rfl
@[simp] theorem State.clrBit_dg (s : State) (a n : Nat) : (s.clrBit a n).dg = s.dg := rfl
@[simp] theorem State.clrBit_sess (s : State) (a n : Nat) : (s.clrBit a n).sess = s.sess := rfl
@[simp] theorem State.clrBit_stalled (s : State) (a n : Nat) : (s.clrBit a n).stalled = s.stalled := rfl
@[simp] theorem State.clrBit_neigh (s : State) (a n : Nat) : (s.clrBit a n).neigh = s.neigh := rfl
@[simp] theorem State.clrBit_mc (s : State) (a n : Nat) : (s.clrBit a n).mc = s.mc := rfl
@[simp] theorem State.clrBit_sc (s : State) (a n : Nat) : (s.clrBit a n).sc = s.sc := rfl
@[simp] theorem State.clrBit_ir (s : State) (a n : Nat) : (s.clrBit a n).ir = s.ir := rfl
@[simp] theorem State.clrBit_out (s : State) (a n : Nat) : (s.clrBit a n).out = s.out := rfl
@[simp] theorem State.clrBit_rnd (s : State) (a n : Nat) : (s.clrBit a n).rnd = s.rnd := rfl
@[simp] theorem State.clrBit_free (s : State) (a n : Nat) : (s.clrBit a n).free = s.free := rfl

@[simp] theorem State.bump_pending (s : State) (a : Nat) : (s.bump a).pending = s.pending := rfl
@[simp] theorem State.bump_fuses (s : State) (a : Nat) : (s.bump a).fuses = s.fuses := rfl
@[simp] theorem State.bump_flash (s : State) (a : Nat) : (s.bump a).flash = s.flash := rfl
@[simp] theorem State.bump_pwr (s : State) (a : Nat) : (s.bump a).pwr = s.pwr := rfl
@[simp] theorem State.bump_tb (s : State) (a : Nat) : (s.bump a).tb = s.tb := rfl
@[simp] theorem State.bump_beat (s : State) (a : Nat) : (s.bump a).beat = s.beat := rfl
@[simp] theorem State.bump_cores (s : State) (a : Nat) : (s.bump a).cores = s.cores := rfl
@[simp] theorem State.bump_mem (s : State) (a : Nat) : (s.bump a).mem = s.mem := rfl
@[simp] theorem State.bump_ecc (s : State) (a : Nat) : (s.bump a).ecc = s.ecc := rfl
@[simp] theorem State.bump_poisonPending (s : State) (a : Nat) : (s.bump a).poisonPending = s.poisonPending := rfl
@[simp] theorem State.bump_banks (s : State) (a : Nat) : (s.bump a).banks = s.banks := rfl
@[simp] theorem State.bump_flags (s : State) (a : Nat) : (s.bump a).flags = s.flags := rfl
@[simp] theorem State.bump_parts (s : State) (a : Nat) : (s.bump a).parts = s.parts := rfl
@[simp] theorem State.bump_partOps (s : State) (a : Nat) : (s.bump a).partOps = s.partOps := rfl
@[simp] theorem State.bump_transits (s : State) (a : Nat) : (s.bump a).transits = s.transits := rfl
@[simp] theorem State.bump_loads (s : State) (a : Nat) : (s.bump a).loads = s.loads := rfl
@[simp] theorem State.bump_tether (s : State) (a : Nat) : (s.bump a).tether = s.tether := rfl
@[simp] theorem State.bump_drift (s : State) (a : Nat) : (s.bump a).drift = s.drift := rfl
@[simp] theorem State.bump_rt (s : State) (a : Nat) : (s.bump a).rt = s.rt := rfl
@[simp] theorem State.bump_su (s : State) (a : Nat) : (s.bump a).su = s.su := rfl
@[simp] theorem State.bump_rings (s : State) (a : Nat) : (s.bump a).rings = s.rings := rfl
@[simp] theorem State.bump_pg (s : State) (a : Nat) : (s.bump a).pg = s.pg := rfl
@[simp] theorem State.bump_qps (s : State) (a : Nat) : (s.bump a).qps = s.qps := rfl
@[simp] theorem State.bump_dg (s : State) (a : Nat) : (s.bump a).dg = s.dg := rfl
@[simp] theorem State.bump_sess (s : State) (a : Nat) : (s.bump a).sess = s.sess := rfl
@[simp] theorem State.bump_stalled (s : State) (a : Nat) : (s.bump a).stalled = s.stalled := rfl
@[simp] theorem State.bump_neigh (s : State) (a : Nat) : (s.bump a).neigh = s.neigh := rfl
@[simp] theorem State.bump_mc (s : State) (a : Nat) : (s.bump a).mc = s.mc := rfl
@[simp] theorem State.bump_sc (s : State) (a : Nat) : (s.bump a).sc = s.sc := rfl
@[simp] theorem State.bump_ir (s : State) (a : Nat) : (s.bump a).ir = s.ir := rfl
@[simp] theorem State.bump_out (s : State) (a : Nat) : (s.bump a).out = s.out := rfl
@[simp] theorem State.bump_rnd (s : State) (a : Nat) : (s.bump a).rnd = s.rnd := rfl
@[simp] theorem State.bump_free (s : State) (a : Nat) : (s.bump a).free = s.free := rfl

@[simp] theorem State.setCore_pending (s : State) (c : Nat) (k : Core) : (s.setCore c k).pending = s.pending := rfl
@[simp] theorem State.setCore_fuses (s : State) (c : Nat) (k : Core) : (s.setCore c k).fuses = s.fuses := rfl
@[simp] theorem State.setCore_flash (s : State) (c : Nat) (k : Core) : (s.setCore c k).flash = s.flash := rfl
@[simp] theorem State.setCore_pwr (s : State) (c : Nat) (k : Core) : (s.setCore c k).pwr = s.pwr := rfl
@[simp] theorem State.setCore_regs (s : State) (c : Nat) (k : Core) : (s.setCore c k).regs = s.regs := rfl
@[simp] theorem State.setCore_tb (s : State) (c : Nat) (k : Core) : (s.setCore c k).tb = s.tb := rfl
@[simp] theorem State.setCore_beat (s : State) (c : Nat) (k : Core) : (s.setCore c k).beat = s.beat := rfl
@[simp] theorem State.setCore_mem (s : State) (c : Nat) (k : Core) : (s.setCore c k).mem = s.mem := rfl
@[simp] theorem State.setCore_ecc (s : State) (c : Nat) (k : Core) : (s.setCore c k).ecc = s.ecc := rfl
@[simp] theorem State.setCore_poisonPending (s : State) (c : Nat) (k : Core) : (s.setCore c k).poisonPending = s.poisonPending := rfl
@[simp] theorem State.setCore_banks (s : State) (c : Nat) (k : Core) : (s.setCore c k).banks = s.banks := rfl
@[simp] theorem State.setCore_flags (s : State) (c : Nat) (k : Core) : (s.setCore c k).flags = s.flags := rfl
@[simp] theorem State.setCore_parts (s : State) (c : Nat) (k : Core) : (s.setCore c k).parts = s.parts := rfl
@[simp] theorem State.setCore_partOps (s : State) (c : Nat) (k : Core) : (s.setCore c k).partOps = s.partOps := rfl
@[simp] theorem State.setCore_transits (s : State) (c : Nat) (k : Core) : (s.setCore c k).transits = s.transits := rfl
@[simp] theorem State.setCore_loads (s : State) (c : Nat) (k : Core) : (s.setCore c k).loads = s.loads := rfl
@[simp] theorem State.setCore_tether (s : State) (c : Nat) (k : Core) : (s.setCore c k).tether = s.tether := rfl
@[simp] theorem State.setCore_drift (s : State) (c : Nat) (k : Core) : (s.setCore c k).drift = s.drift := rfl
@[simp] theorem State.setCore_rt (s : State) (c : Nat) (k : Core) : (s.setCore c k).rt = s.rt := rfl
@[simp] theorem State.setCore_su (s : State) (c : Nat) (k : Core) : (s.setCore c k).su = s.su := rfl
@[simp] theorem State.setCore_rings (s : State) (c : Nat) (k : Core) : (s.setCore c k).rings = s.rings := rfl
@[simp] theorem State.setCore_pg (s : State) (c : Nat) (k : Core) : (s.setCore c k).pg = s.pg := rfl
@[simp] theorem State.setCore_qps (s : State) (c : Nat) (k : Core) : (s.setCore c k).qps = s.qps := rfl
@[simp] theorem State.setCore_dg (s : State) (c : Nat) (k : Core) : (s.setCore c k).dg = s.dg := rfl
@[simp] theorem State.setCore_sess (s : State) (c : Nat) (k : Core) : (s.setCore c k).sess = s.sess := rfl
@[simp] theorem State.setCore_stalled (s : State) (c : Nat) (k : Core) : (s.setCore c k).stalled = s.stalled := rfl
@[simp] theorem State.setCore_neigh (s : State) (c : Nat) (k : Core) : (s.setCore c k).neigh = s.neigh := rfl
@[simp] theorem State.setCore_mc (s : State) (c : Nat) (k : Core) : (s.setCore c k).mc = s.mc := rfl
@[simp] theorem State.setCore_sc (s : State) (c : Nat) (k : Core) : (s.setCore c k).sc = s.sc := rfl
@[simp] theorem State.setCore_ir (s : State) (c : Nat) (k : Core) : (s.setCore c k).ir = s.ir := rfl
@[simp] theorem State.setCore_out (s : State) (c : Nat) (k : Core) : (s.setCore c k).out = s.out := rfl
@[simp] theorem State.setCore_rnd (s : State) (c : Nat) (k : Core) : (s.setCore c k).rnd = s.rnd := rfl
@[simp] theorem State.setCore_free (s : State) (c : Nat) (k : Core) : (s.setCore c k).free = s.free := rfl

@[simp] theorem State.updCore_pending (s : State) (c : Nat) (f : Core → Core) : (s.updCore c f).pending = s.pending := rfl
@[simp] theorem State.updCore_fuses (s : State) (c : Nat) (f : Core → Core) : (s.updCore c f).fuses = s.fuses := rfl
@[simp] theorem State.updCore_flash (s : State) (c : Nat) (f : Core → Core) : (s.updCore c f).flash = s.flash := rfl
@[simp] theorem State.updCore_pwr (s : State) (c : Nat) (f : Core → Core) : (s.updCore c f).pwr = s.pwr := rfl
@[simp] theorem State.updCore_regs (s : State) (c : Nat) (f : Core → Core) : (s.updCore c f).regs = s.regs := rfl
@[simp] theorem State.updCore_tb (s : State) (c : Nat) (f : Core → Core) : (s.updCore c f).tb = s.tb := rfl
@[simp] theorem State.updCore_beat (s : State) (c : Nat) (f : Core → Core) : (s.updCore c f).beat = s.beat := rfl
@[simp] theorem State.updCore_mem (s : State) (c : Nat) (f : Core → Core) : (s.updCore c f).mem = s.mem := rfl
@[simp] theorem State.updCore_ecc (s : State) (c : Nat) (f : Core → Core) : (s.updCore c f).ecc = s.ecc := rfl
@[simp] theorem State.updCore_poisonPending (s : State) (c : Nat) (f : Core → Core) : (s.updCore c f).poisonPending = s.poisonPending := rfl
@[simp] theorem State.updCore_banks (s : State) (c : Nat) (f : Core → Core) : (s.updCore c f).banks = s.banks := rfl
@[simp] theorem State.updCore_flags (s : State) (c : Nat) (f : Core → Core) : (s.updCore c f).flags = s.flags := rfl
@[simp] theorem State.updCore_parts (s : State) (c : Nat) (f : Core → Core) : (s.updCore c f).parts = s.parts := rfl
@[simp] theorem State.updCore_partOps (s : State) (c : Nat) (f : Core → Core) : (s.updCore c f).partOps = s.partOps := rfl
@[simp] theorem State.updCore_transits (s : State) (c : Nat) (f : Core → Core) : (s.updCore c f).transits = s.transits := rfl
@[simp] theorem State.updCore_loads (s : State) (c : Nat) (f : Core → Core) : (s.updCore c f).loads = s.loads := rfl
@[simp] theorem State.updCore_tether (s : State) (c : Nat) (f : Core → Core) : (s.updCore c f).tether = s.tether := rfl
@[simp] theorem State.updCore_drift (s : State) (c : Nat) (f : Core → Core) : (s.updCore c f).drift = s.drift := rfl
@[simp] theorem State.updCore_rt (s : State) (c : Nat) (f : Core → Core) : (s.updCore c f).rt = s.rt := rfl
@[simp] theorem State.updCore_su (s : State) (c : Nat) (f : Core → Core) : (s.updCore c f).su = s.su := rfl
@[simp] theorem State.updCore_rings (s : State) (c : Nat) (f : Core → Core) : (s.updCore c f).rings = s.rings := rfl
@[simp] theorem State.updCore_pg (s : State) (c : Nat) (f : Core → Core) : (s.updCore c f).pg = s.pg := rfl
@[simp] theorem State.updCore_qps (s : State) (c : Nat) (f : Core → Core) : (s.updCore c f).qps = s.qps := rfl
@[simp] theorem State.updCore_dg (s : State) (c : Nat) (f : Core → Core) : (s.updCore c f).dg = s.dg := rfl
@[simp] theorem State.updCore_sess (s : State) (c : Nat) (f : Core → Core) : (s.updCore c f).sess = s.sess := rfl
@[simp] theorem State.updCore_stalled (s : State) (c : Nat) (f : Core → Core) : (s.updCore c f).stalled = s.stalled := rfl
@[simp] theorem State.updCore_neigh (s : State) (c : Nat) (f : Core → Core) : (s.updCore c f).neigh = s.neigh := rfl
@[simp] theorem State.updCore_mc (s : State) (c : Nat) (f : Core → Core) : (s.updCore c f).mc = s.mc := rfl
@[simp] theorem State.updCore_sc (s : State) (c : Nat) (f : Core → Core) : (s.updCore c f).sc = s.sc := rfl
@[simp] theorem State.updCore_ir (s : State) (c : Nat) (f : Core → Core) : (s.updCore c f).ir = s.ir := rfl
@[simp] theorem State.updCore_out (s : State) (c : Nat) (f : Core → Core) : (s.updCore c f).out = s.out := rfl
@[simp] theorem State.updCore_rnd (s : State) (c : Nat) (f : Core → Core) : (s.updCore c f).rnd = s.rnd := rfl
@[simp] theorem State.updCore_free (s : State) (c : Nat) (f : Core → Core) : (s.updCore c f).free = s.free := rfl

@[simp] theorem State.updSq_pending (s : State) (c : Nat) (f : Sq → Sq) : (s.updSq c f).pending = s.pending := rfl
@[simp] theorem State.updSq_fuses (s : State) (c : Nat) (f : Sq → Sq) : (s.updSq c f).fuses = s.fuses := rfl
@[simp] theorem State.updSq_flash (s : State) (c : Nat) (f : Sq → Sq) : (s.updSq c f).flash = s.flash := rfl
@[simp] theorem State.updSq_pwr (s : State) (c : Nat) (f : Sq → Sq) : (s.updSq c f).pwr = s.pwr := rfl
@[simp] theorem State.updSq_regs (s : State) (c : Nat) (f : Sq → Sq) : (s.updSq c f).regs = s.regs := rfl
@[simp] theorem State.updSq_tb (s : State) (c : Nat) (f : Sq → Sq) : (s.updSq c f).tb = s.tb := rfl
@[simp] theorem State.updSq_beat (s : State) (c : Nat) (f : Sq → Sq) : (s.updSq c f).beat = s.beat := rfl
@[simp] theorem State.updSq_mem (s : State) (c : Nat) (f : Sq → Sq) : (s.updSq c f).mem = s.mem := rfl
@[simp] theorem State.updSq_ecc (s : State) (c : Nat) (f : Sq → Sq) : (s.updSq c f).ecc = s.ecc := rfl
@[simp] theorem State.updSq_poisonPending (s : State) (c : Nat) (f : Sq → Sq) : (s.updSq c f).poisonPending = s.poisonPending := rfl
@[simp] theorem State.updSq_banks (s : State) (c : Nat) (f : Sq → Sq) : (s.updSq c f).banks = s.banks := rfl
@[simp] theorem State.updSq_flags (s : State) (c : Nat) (f : Sq → Sq) : (s.updSq c f).flags = s.flags := rfl
@[simp] theorem State.updSq_parts (s : State) (c : Nat) (f : Sq → Sq) : (s.updSq c f).parts = s.parts := rfl
@[simp] theorem State.updSq_partOps (s : State) (c : Nat) (f : Sq → Sq) : (s.updSq c f).partOps = s.partOps := rfl
@[simp] theorem State.updSq_transits (s : State) (c : Nat) (f : Sq → Sq) : (s.updSq c f).transits = s.transits := rfl
@[simp] theorem State.updSq_loads (s : State) (c : Nat) (f : Sq → Sq) : (s.updSq c f).loads = s.loads := rfl
@[simp] theorem State.updSq_tether (s : State) (c : Nat) (f : Sq → Sq) : (s.updSq c f).tether = s.tether := rfl
@[simp] theorem State.updSq_drift (s : State) (c : Nat) (f : Sq → Sq) : (s.updSq c f).drift = s.drift := rfl
@[simp] theorem State.updSq_rt (s : State) (c : Nat) (f : Sq → Sq) : (s.updSq c f).rt = s.rt := rfl
@[simp] theorem State.updSq_su (s : State) (c : Nat) (f : Sq → Sq) : (s.updSq c f).su = s.su := rfl
@[simp] theorem State.updSq_rings (s : State) (c : Nat) (f : Sq → Sq) : (s.updSq c f).rings = s.rings := rfl
@[simp] theorem State.updSq_pg (s : State) (c : Nat) (f : Sq → Sq) : (s.updSq c f).pg = s.pg := rfl
@[simp] theorem State.updSq_qps (s : State) (c : Nat) (f : Sq → Sq) : (s.updSq c f).qps = s.qps := rfl
@[simp] theorem State.updSq_dg (s : State) (c : Nat) (f : Sq → Sq) : (s.updSq c f).dg = s.dg := rfl
@[simp] theorem State.updSq_sess (s : State) (c : Nat) (f : Sq → Sq) : (s.updSq c f).sess = s.sess := rfl
@[simp] theorem State.updSq_stalled (s : State) (c : Nat) (f : Sq → Sq) : (s.updSq c f).stalled = s.stalled := rfl
@[simp] theorem State.updSq_neigh (s : State) (c : Nat) (f : Sq → Sq) : (s.updSq c f).neigh = s.neigh := rfl
@[simp] theorem State.updSq_mc (s : State) (c : Nat) (f : Sq → Sq) : (s.updSq c f).mc = s.mc := rfl
@[simp] theorem State.updSq_sc (s : State) (c : Nat) (f : Sq → Sq) : (s.updSq c f).sc = s.sc := rfl
@[simp] theorem State.updSq_ir (s : State) (c : Nat) (f : Sq → Sq) : (s.updSq c f).ir = s.ir := rfl
@[simp] theorem State.updSq_out (s : State) (c : Nat) (f : Sq → Sq) : (s.updSq c f).out = s.out := rfl
@[simp] theorem State.updSq_rnd (s : State) (c : Nat) (f : Sq → Sq) : (s.updSq c f).rnd = s.rnd := rfl
@[simp] theorem State.updSq_free (s : State) (c : Nat) (f : Sq → Sq) : (s.updSq c f).free = s.free := rfl

@[simp] theorem State.pastCmd_pending (s : State) (h : Hdr) : (s.pastCmd h).pending = s.pending := rfl
@[simp] theorem State.pastCmd_fuses (s : State) (h : Hdr) : (s.pastCmd h).fuses = s.fuses := rfl
@[simp] theorem State.pastCmd_flash (s : State) (h : Hdr) : (s.pastCmd h).flash = s.flash := rfl
@[simp] theorem State.pastCmd_pwr (s : State) (h : Hdr) : (s.pastCmd h).pwr = s.pwr := rfl
@[simp] theorem State.pastCmd_regs (s : State) (h : Hdr) : (s.pastCmd h).regs = s.regs := rfl
@[simp] theorem State.pastCmd_tb (s : State) (h : Hdr) : (s.pastCmd h).tb = s.tb := rfl
@[simp] theorem State.pastCmd_beat (s : State) (h : Hdr) : (s.pastCmd h).beat = s.beat := rfl
@[simp] theorem State.pastCmd_mem (s : State) (h : Hdr) : (s.pastCmd h).mem = s.mem := rfl
@[simp] theorem State.pastCmd_ecc (s : State) (h : Hdr) : (s.pastCmd h).ecc = s.ecc := rfl
@[simp] theorem State.pastCmd_poisonPending (s : State) (h : Hdr) : (s.pastCmd h).poisonPending = s.poisonPending := rfl
@[simp] theorem State.pastCmd_banks (s : State) (h : Hdr) : (s.pastCmd h).banks = s.banks := rfl
@[simp] theorem State.pastCmd_flags (s : State) (h : Hdr) : (s.pastCmd h).flags = s.flags := rfl
@[simp] theorem State.pastCmd_parts (s : State) (h : Hdr) : (s.pastCmd h).parts = s.parts := rfl
@[simp] theorem State.pastCmd_partOps (s : State) (h : Hdr) : (s.pastCmd h).partOps = s.partOps := rfl
@[simp] theorem State.pastCmd_transits (s : State) (h : Hdr) : (s.pastCmd h).transits = s.transits := rfl
@[simp] theorem State.pastCmd_loads (s : State) (h : Hdr) : (s.pastCmd h).loads = s.loads := rfl
@[simp] theorem State.pastCmd_tether (s : State) (h : Hdr) : (s.pastCmd h).tether = s.tether := rfl
@[simp] theorem State.pastCmd_drift (s : State) (h : Hdr) : (s.pastCmd h).drift = s.drift := rfl
@[simp] theorem State.pastCmd_rt (s : State) (h : Hdr) : (s.pastCmd h).rt = s.rt := rfl
@[simp] theorem State.pastCmd_su (s : State) (h : Hdr) : (s.pastCmd h).su = s.su := rfl
@[simp] theorem State.pastCmd_rings (s : State) (h : Hdr) : (s.pastCmd h).rings = s.rings := rfl
@[simp] theorem State.pastCmd_pg (s : State) (h : Hdr) : (s.pastCmd h).pg = s.pg := rfl
@[simp] theorem State.pastCmd_qps (s : State) (h : Hdr) : (s.pastCmd h).qps = s.qps := rfl
@[simp] theorem State.pastCmd_dg (s : State) (h : Hdr) : (s.pastCmd h).dg = s.dg := rfl
@[simp] theorem State.pastCmd_sess (s : State) (h : Hdr) : (s.pastCmd h).sess = s.sess := rfl
@[simp] theorem State.pastCmd_stalled (s : State) (h : Hdr) : (s.pastCmd h).stalled = s.stalled := rfl
@[simp] theorem State.pastCmd_neigh (s : State) (h : Hdr) : (s.pastCmd h).neigh = s.neigh := rfl
@[simp] theorem State.pastCmd_mc (s : State) (h : Hdr) : (s.pastCmd h).mc = s.mc := rfl
@[simp] theorem State.pastCmd_sc (s : State) (h : Hdr) : (s.pastCmd h).sc = s.sc := rfl
@[simp] theorem State.pastCmd_ir (s : State) (h : Hdr) : (s.pastCmd h).ir = s.ir := rfl
@[simp] theorem State.pastCmd_out (s : State) (h : Hdr) : (s.pastCmd h).out = s.out := rfl
@[simp] theorem State.pastCmd_rnd (s : State) (h : Hdr) : (s.pastCmd h).rnd = s.rnd := rfl
@[simp] theorem State.pastCmd_free (s : State) (h : Hdr) : (s.pastCmd h).free = s.free := rfl

@[simp] theorem State.sqDo_pending (s : State) (h : Hdr) (f : Sq → Sq) : (s.sqDo h f).pending = s.pending := rfl
@[simp] theorem State.sqDo_fuses (s : State) (h : Hdr) (f : Sq → Sq) : (s.sqDo h f).fuses = s.fuses := rfl
@[simp] theorem State.sqDo_flash (s : State) (h : Hdr) (f : Sq → Sq) : (s.sqDo h f).flash = s.flash := rfl
@[simp] theorem State.sqDo_pwr (s : State) (h : Hdr) (f : Sq → Sq) : (s.sqDo h f).pwr = s.pwr := rfl
@[simp] theorem State.sqDo_regs (s : State) (h : Hdr) (f : Sq → Sq) : (s.sqDo h f).regs = s.regs := rfl
@[simp] theorem State.sqDo_tb (s : State) (h : Hdr) (f : Sq → Sq) : (s.sqDo h f).tb = s.tb := rfl
@[simp] theorem State.sqDo_beat (s : State) (h : Hdr) (f : Sq → Sq) : (s.sqDo h f).beat = s.beat := rfl
@[simp] theorem State.sqDo_mem (s : State) (h : Hdr) (f : Sq → Sq) : (s.sqDo h f).mem = s.mem := rfl
@[simp] theorem State.sqDo_ecc (s : State) (h : Hdr) (f : Sq → Sq) : (s.sqDo h f).ecc = s.ecc := rfl
@[simp] theorem State.sqDo_poisonPending (s : State) (h : Hdr) (f : Sq → Sq) : (s.sqDo h f).poisonPending = s.poisonPending := rfl
@[simp] theorem State.sqDo_banks (s : State) (h : Hdr) (f : Sq → Sq) : (s.sqDo h f).banks = s.banks := rfl
@[simp] theorem State.sqDo_flags (s : State) (h : Hdr) (f : Sq → Sq) : (s.sqDo h f).flags = s.flags := rfl
@[simp] theorem State.sqDo_parts (s : State) (h : Hdr) (f : Sq → Sq) : (s.sqDo h f).parts = s.parts := rfl
@[simp] theorem State.sqDo_partOps (s : State) (h : Hdr) (f : Sq → Sq) : (s.sqDo h f).partOps = s.partOps := rfl
@[simp] theorem State.sqDo_transits (s : State) (h : Hdr) (f : Sq → Sq) : (s.sqDo h f).transits = s.transits := rfl
@[simp] theorem State.sqDo_loads (s : State) (h : Hdr) (f : Sq → Sq) : (s.sqDo h f).loads = s.loads := rfl
@[simp] theorem State.sqDo_tether (s : State) (h : Hdr) (f : Sq → Sq) : (s.sqDo h f).tether = s.tether := rfl
@[simp] theorem State.sqDo_drift (s : State) (h : Hdr) (f : Sq → Sq) : (s.sqDo h f).drift = s.drift := rfl
@[simp] theorem State.sqDo_rt (s : State) (h : Hdr) (f : Sq → Sq) : (s.sqDo h f).rt = s.rt := rfl
@[simp] theorem State.sqDo_su (s : State) (h : Hdr) (f : Sq → Sq) : (s.sqDo h f).su = s.su := rfl
@[simp] theorem State.sqDo_rings (s : State) (h : Hdr) (f : Sq → Sq) : (s.sqDo h f).rings = s.rings := rfl
@[simp] theorem State.sqDo_pg (s : State) (h : Hdr) (f : Sq → Sq) : (s.sqDo h f).pg = s.pg := rfl
@[simp] theorem State.sqDo_qps (s : State) (h : Hdr) (f : Sq → Sq) : (s.sqDo h f).qps = s.qps := rfl
@[simp] theorem State.sqDo_dg (s : State) (h : Hdr) (f : Sq → Sq) : (s.sqDo h f).dg = s.dg := rfl
@[simp] theorem State.sqDo_sess (s : State) (h : Hdr) (f : Sq → Sq) : (s.sqDo h f).sess = s.sess := rfl
@[simp] theorem State.sqDo_stalled (s : State) (h : Hdr) (f : Sq → Sq) : (s.sqDo h f).stalled = s.stalled := rfl
@[simp] theorem State.sqDo_neigh (s : State) (h : Hdr) (f : Sq → Sq) : (s.sqDo h f).neigh = s.neigh := rfl
@[simp] theorem State.sqDo_mc (s : State) (h : Hdr) (f : Sq → Sq) : (s.sqDo h f).mc = s.mc := rfl
@[simp] theorem State.sqDo_sc (s : State) (h : Hdr) (f : Sq → Sq) : (s.sqDo h f).sc = s.sc := rfl
@[simp] theorem State.sqDo_ir (s : State) (h : Hdr) (f : Sq → Sq) : (s.sqDo h f).ir = s.ir := rfl
@[simp] theorem State.sqDo_out (s : State) (h : Hdr) (f : Sq → Sq) : (s.sqDo h f).out = s.out := rfl
@[simp] theorem State.sqDo_rnd (s : State) (h : Hdr) (f : Sq → Sq) : (s.sqDo h f).rnd = s.rnd := rfl
@[simp] theorem State.sqDo_free (s : State) (h : Hdr) (f : Sq → Sq) : (s.sqDo h f).free = s.free := rfl

@[simp] theorem State.setPart_pending (s : State) (p : Nat) (q : Part) : (s.setPart p q).pending = s.pending := rfl
@[simp] theorem State.setPart_fuses (s : State) (p : Nat) (q : Part) : (s.setPart p q).fuses = s.fuses := rfl
@[simp] theorem State.setPart_flash (s : State) (p : Nat) (q : Part) : (s.setPart p q).flash = s.flash := rfl
@[simp] theorem State.setPart_pwr (s : State) (p : Nat) (q : Part) : (s.setPart p q).pwr = s.pwr := rfl
@[simp] theorem State.setPart_regs (s : State) (p : Nat) (q : Part) : (s.setPart p q).regs = s.regs := rfl
@[simp] theorem State.setPart_tb (s : State) (p : Nat) (q : Part) : (s.setPart p q).tb = s.tb := rfl
@[simp] theorem State.setPart_beat (s : State) (p : Nat) (q : Part) : (s.setPart p q).beat = s.beat := rfl
@[simp] theorem State.setPart_cores (s : State) (p : Nat) (q : Part) : (s.setPart p q).cores = s.cores := rfl
@[simp] theorem State.setPart_mem (s : State) (p : Nat) (q : Part) : (s.setPart p q).mem = s.mem := rfl
@[simp] theorem State.setPart_ecc (s : State) (p : Nat) (q : Part) : (s.setPart p q).ecc = s.ecc := rfl
@[simp] theorem State.setPart_poisonPending (s : State) (p : Nat) (q : Part) : (s.setPart p q).poisonPending = s.poisonPending := rfl
@[simp] theorem State.setPart_banks (s : State) (p : Nat) (q : Part) : (s.setPart p q).banks = s.banks := rfl
@[simp] theorem State.setPart_flags (s : State) (p : Nat) (q : Part) : (s.setPart p q).flags = s.flags := rfl
@[simp] theorem State.setPart_partOps (s : State) (p : Nat) (q : Part) : (s.setPart p q).partOps = s.partOps := rfl
@[simp] theorem State.setPart_transits (s : State) (p : Nat) (q : Part) : (s.setPart p q).transits = s.transits := rfl
@[simp] theorem State.setPart_loads (s : State) (p : Nat) (q : Part) : (s.setPart p q).loads = s.loads := rfl
@[simp] theorem State.setPart_tether (s : State) (p : Nat) (q : Part) : (s.setPart p q).tether = s.tether := rfl
@[simp] theorem State.setPart_drift (s : State) (p : Nat) (q : Part) : (s.setPart p q).drift = s.drift := rfl
@[simp] theorem State.setPart_rt (s : State) (p : Nat) (q : Part) : (s.setPart p q).rt = s.rt := rfl
@[simp] theorem State.setPart_su (s : State) (p : Nat) (q : Part) : (s.setPart p q).su = s.su := rfl
@[simp] theorem State.setPart_rings (s : State) (p : Nat) (q : Part) : (s.setPart p q).rings = s.rings := rfl
@[simp] theorem State.setPart_pg (s : State) (p : Nat) (q : Part) : (s.setPart p q).pg = s.pg := rfl
@[simp] theorem State.setPart_qps (s : State) (p : Nat) (q : Part) : (s.setPart p q).qps = s.qps := rfl
@[simp] theorem State.setPart_dg (s : State) (p : Nat) (q : Part) : (s.setPart p q).dg = s.dg := rfl
@[simp] theorem State.setPart_sess (s : State) (p : Nat) (q : Part) : (s.setPart p q).sess = s.sess := rfl
@[simp] theorem State.setPart_stalled (s : State) (p : Nat) (q : Part) : (s.setPart p q).stalled = s.stalled := rfl
@[simp] theorem State.setPart_neigh (s : State) (p : Nat) (q : Part) : (s.setPart p q).neigh = s.neigh := rfl
@[simp] theorem State.setPart_mc (s : State) (p : Nat) (q : Part) : (s.setPart p q).mc = s.mc := rfl
@[simp] theorem State.setPart_sc (s : State) (p : Nat) (q : Part) : (s.setPart p q).sc = s.sc := rfl
@[simp] theorem State.setPart_ir (s : State) (p : Nat) (q : Part) : (s.setPart p q).ir = s.ir := rfl
@[simp] theorem State.setPart_out (s : State) (p : Nat) (q : Part) : (s.setPart p q).out = s.out := rfl
@[simp] theorem State.setPart_rnd (s : State) (p : Nat) (q : Part) : (s.setPart p q).rnd = s.rnd := rfl
@[simp] theorem State.setPart_free (s : State) (p : Nat) (q : Part) : (s.setPart p q).free = s.free := rfl

@[simp] theorem State.updPart_pending (s : State) (p : Nat) (f : Part → Part) : (s.updPart p f).pending = s.pending := rfl
@[simp] theorem State.updPart_fuses (s : State) (p : Nat) (f : Part → Part) : (s.updPart p f).fuses = s.fuses := rfl
@[simp] theorem State.updPart_flash (s : State) (p : Nat) (f : Part → Part) : (s.updPart p f).flash = s.flash := rfl
@[simp] theorem State.updPart_pwr (s : State) (p : Nat) (f : Part → Part) : (s.updPart p f).pwr = s.pwr := rfl
@[simp] theorem State.updPart_regs (s : State) (p : Nat) (f : Part → Part) : (s.updPart p f).regs = s.regs := rfl
@[simp] theorem State.updPart_tb (s : State) (p : Nat) (f : Part → Part) : (s.updPart p f).tb = s.tb := rfl
@[simp] theorem State.updPart_beat (s : State) (p : Nat) (f : Part → Part) : (s.updPart p f).beat = s.beat := rfl
@[simp] theorem State.updPart_cores (s : State) (p : Nat) (f : Part → Part) : (s.updPart p f).cores = s.cores := rfl
@[simp] theorem State.updPart_mem (s : State) (p : Nat) (f : Part → Part) : (s.updPart p f).mem = s.mem := rfl
@[simp] theorem State.updPart_ecc (s : State) (p : Nat) (f : Part → Part) : (s.updPart p f).ecc = s.ecc := rfl
@[simp] theorem State.updPart_poisonPending (s : State) (p : Nat) (f : Part → Part) : (s.updPart p f).poisonPending = s.poisonPending := rfl
@[simp] theorem State.updPart_banks (s : State) (p : Nat) (f : Part → Part) : (s.updPart p f).banks = s.banks := rfl
@[simp] theorem State.updPart_flags (s : State) (p : Nat) (f : Part → Part) : (s.updPart p f).flags = s.flags := rfl
@[simp] theorem State.updPart_partOps (s : State) (p : Nat) (f : Part → Part) : (s.updPart p f).partOps = s.partOps := rfl
@[simp] theorem State.updPart_transits (s : State) (p : Nat) (f : Part → Part) : (s.updPart p f).transits = s.transits := rfl
@[simp] theorem State.updPart_loads (s : State) (p : Nat) (f : Part → Part) : (s.updPart p f).loads = s.loads := rfl
@[simp] theorem State.updPart_tether (s : State) (p : Nat) (f : Part → Part) : (s.updPart p f).tether = s.tether := rfl
@[simp] theorem State.updPart_drift (s : State) (p : Nat) (f : Part → Part) : (s.updPart p f).drift = s.drift := rfl
@[simp] theorem State.updPart_rt (s : State) (p : Nat) (f : Part → Part) : (s.updPart p f).rt = s.rt := rfl
@[simp] theorem State.updPart_su (s : State) (p : Nat) (f : Part → Part) : (s.updPart p f).su = s.su := rfl
@[simp] theorem State.updPart_rings (s : State) (p : Nat) (f : Part → Part) : (s.updPart p f).rings = s.rings := rfl
@[simp] theorem State.updPart_pg (s : State) (p : Nat) (f : Part → Part) : (s.updPart p f).pg = s.pg := rfl
@[simp] theorem State.updPart_qps (s : State) (p : Nat) (f : Part → Part) : (s.updPart p f).qps = s.qps := rfl
@[simp] theorem State.updPart_dg (s : State) (p : Nat) (f : Part → Part) : (s.updPart p f).dg = s.dg := rfl
@[simp] theorem State.updPart_sess (s : State) (p : Nat) (f : Part → Part) : (s.updPart p f).sess = s.sess := rfl
@[simp] theorem State.updPart_stalled (s : State) (p : Nat) (f : Part → Part) : (s.updPart p f).stalled = s.stalled := rfl
@[simp] theorem State.updPart_neigh (s : State) (p : Nat) (f : Part → Part) : (s.updPart p f).neigh = s.neigh := rfl
@[simp] theorem State.updPart_mc (s : State) (p : Nat) (f : Part → Part) : (s.updPart p f).mc = s.mc := rfl
@[simp] theorem State.updPart_sc (s : State) (p : Nat) (f : Part → Part) : (s.updPart p f).sc = s.sc := rfl
@[simp] theorem State.updPart_ir (s : State) (p : Nat) (f : Part → Part) : (s.updPart p f).ir = s.ir := rfl
@[simp] theorem State.updPart_out (s : State) (p : Nat) (f : Part → Part) : (s.updPart p f).out = s.out := rfl
@[simp] theorem State.updPart_rnd (s : State) (p : Nat) (f : Part → Part) : (s.updPart p f).rnd = s.rnd := rfl
@[simp] theorem State.updPart_free (s : State) (p : Nat) (f : Part → Part) : (s.updPart p f).free = s.free := rfl

@[simp] theorem State.setEcc_pending (s : State) (g : Nat) (e : Ecc) : (s.setEcc g e).pending = s.pending := rfl
@[simp] theorem State.setEcc_fuses (s : State) (g : Nat) (e : Ecc) : (s.setEcc g e).fuses = s.fuses := rfl
@[simp] theorem State.setEcc_flash (s : State) (g : Nat) (e : Ecc) : (s.setEcc g e).flash = s.flash := rfl
@[simp] theorem State.setEcc_pwr (s : State) (g : Nat) (e : Ecc) : (s.setEcc g e).pwr = s.pwr := rfl
@[simp] theorem State.setEcc_regs (s : State) (g : Nat) (e : Ecc) : (s.setEcc g e).regs = s.regs := rfl
@[simp] theorem State.setEcc_tb (s : State) (g : Nat) (e : Ecc) : (s.setEcc g e).tb = s.tb := rfl
@[simp] theorem State.setEcc_beat (s : State) (g : Nat) (e : Ecc) : (s.setEcc g e).beat = s.beat := rfl
@[simp] theorem State.setEcc_cores (s : State) (g : Nat) (e : Ecc) : (s.setEcc g e).cores = s.cores := rfl
@[simp] theorem State.setEcc_mem (s : State) (g : Nat) (e : Ecc) : (s.setEcc g e).mem = s.mem := rfl
@[simp] theorem State.setEcc_poisonPending (s : State) (g : Nat) (e : Ecc) : (s.setEcc g e).poisonPending = s.poisonPending := rfl
@[simp] theorem State.setEcc_banks (s : State) (g : Nat) (e : Ecc) : (s.setEcc g e).banks = s.banks := rfl
@[simp] theorem State.setEcc_flags (s : State) (g : Nat) (e : Ecc) : (s.setEcc g e).flags = s.flags := rfl
@[simp] theorem State.setEcc_parts (s : State) (g : Nat) (e : Ecc) : (s.setEcc g e).parts = s.parts := rfl
@[simp] theorem State.setEcc_partOps (s : State) (g : Nat) (e : Ecc) : (s.setEcc g e).partOps = s.partOps := rfl
@[simp] theorem State.setEcc_transits (s : State) (g : Nat) (e : Ecc) : (s.setEcc g e).transits = s.transits := rfl
@[simp] theorem State.setEcc_loads (s : State) (g : Nat) (e : Ecc) : (s.setEcc g e).loads = s.loads := rfl
@[simp] theorem State.setEcc_tether (s : State) (g : Nat) (e : Ecc) : (s.setEcc g e).tether = s.tether := rfl
@[simp] theorem State.setEcc_drift (s : State) (g : Nat) (e : Ecc) : (s.setEcc g e).drift = s.drift := rfl
@[simp] theorem State.setEcc_rt (s : State) (g : Nat) (e : Ecc) : (s.setEcc g e).rt = s.rt := rfl
@[simp] theorem State.setEcc_su (s : State) (g : Nat) (e : Ecc) : (s.setEcc g e).su = s.su := rfl
@[simp] theorem State.setEcc_rings (s : State) (g : Nat) (e : Ecc) : (s.setEcc g e).rings = s.rings := rfl
@[simp] theorem State.setEcc_pg (s : State) (g : Nat) (e : Ecc) : (s.setEcc g e).pg = s.pg := rfl
@[simp] theorem State.setEcc_qps (s : State) (g : Nat) (e : Ecc) : (s.setEcc g e).qps = s.qps := rfl
@[simp] theorem State.setEcc_dg (s : State) (g : Nat) (e : Ecc) : (s.setEcc g e).dg = s.dg := rfl
@[simp] theorem State.setEcc_sess (s : State) (g : Nat) (e : Ecc) : (s.setEcc g e).sess = s.sess := rfl
@[simp] theorem State.setEcc_stalled (s : State) (g : Nat) (e : Ecc) : (s.setEcc g e).stalled = s.stalled := rfl
@[simp] theorem State.setEcc_neigh (s : State) (g : Nat) (e : Ecc) : (s.setEcc g e).neigh = s.neigh := rfl
@[simp] theorem State.setEcc_mc (s : State) (g : Nat) (e : Ecc) : (s.setEcc g e).mc = s.mc := rfl
@[simp] theorem State.setEcc_sc (s : State) (g : Nat) (e : Ecc) : (s.setEcc g e).sc = s.sc := rfl
@[simp] theorem State.setEcc_ir (s : State) (g : Nat) (e : Ecc) : (s.setEcc g e).ir = s.ir := rfl
@[simp] theorem State.setEcc_out (s : State) (g : Nat) (e : Ecc) : (s.setEcc g e).out = s.out := rfl
@[simp] theorem State.setEcc_rnd (s : State) (g : Nat) (e : Ecc) : (s.setEcc g e).rnd = s.rnd := rfl
@[simp] theorem State.setEcc_free (s : State) (g : Nat) (e : Ecc) : (s.setEcc g e).free = s.free := rfl

@[simp] theorem State.setBank_pending (s : State) (c b : Nat) (k : Bank) : (s.setBank c b k).pending = s.pending := rfl
@[simp] theorem State.setBank_fuses (s : State) (c b : Nat) (k : Bank) : (s.setBank c b k).fuses = s.fuses := rfl
@[simp] theorem State.setBank_flash (s : State) (c b : Nat) (k : Bank) : (s.setBank c b k).flash = s.flash := rfl
@[simp] theorem State.setBank_pwr (s : State) (c b : Nat) (k : Bank) : (s.setBank c b k).pwr = s.pwr := rfl
@[simp] theorem State.setBank_regs (s : State) (c b : Nat) (k : Bank) : (s.setBank c b k).regs = s.regs := rfl
@[simp] theorem State.setBank_tb (s : State) (c b : Nat) (k : Bank) : (s.setBank c b k).tb = s.tb := rfl
@[simp] theorem State.setBank_beat (s : State) (c b : Nat) (k : Bank) : (s.setBank c b k).beat = s.beat := rfl
@[simp] theorem State.setBank_cores (s : State) (c b : Nat) (k : Bank) : (s.setBank c b k).cores = s.cores := rfl
@[simp] theorem State.setBank_mem (s : State) (c b : Nat) (k : Bank) : (s.setBank c b k).mem = s.mem := rfl
@[simp] theorem State.setBank_ecc (s : State) (c b : Nat) (k : Bank) : (s.setBank c b k).ecc = s.ecc := rfl
@[simp] theorem State.setBank_poisonPending (s : State) (c b : Nat) (k : Bank) : (s.setBank c b k).poisonPending = s.poisonPending := rfl
@[simp] theorem State.setBank_flags (s : State) (c b : Nat) (k : Bank) : (s.setBank c b k).flags = s.flags := rfl
@[simp] theorem State.setBank_parts (s : State) (c b : Nat) (k : Bank) : (s.setBank c b k).parts = s.parts := rfl
@[simp] theorem State.setBank_partOps (s : State) (c b : Nat) (k : Bank) : (s.setBank c b k).partOps = s.partOps := rfl
@[simp] theorem State.setBank_transits (s : State) (c b : Nat) (k : Bank) : (s.setBank c b k).transits = s.transits := rfl
@[simp] theorem State.setBank_loads (s : State) (c b : Nat) (k : Bank) : (s.setBank c b k).loads = s.loads := rfl
@[simp] theorem State.setBank_tether (s : State) (c b : Nat) (k : Bank) : (s.setBank c b k).tether = s.tether := rfl
@[simp] theorem State.setBank_drift (s : State) (c b : Nat) (k : Bank) : (s.setBank c b k).drift = s.drift := rfl
@[simp] theorem State.setBank_rt (s : State) (c b : Nat) (k : Bank) : (s.setBank c b k).rt = s.rt := rfl
@[simp] theorem State.setBank_su (s : State) (c b : Nat) (k : Bank) : (s.setBank c b k).su = s.su := rfl
@[simp] theorem State.setBank_rings (s : State) (c b : Nat) (k : Bank) : (s.setBank c b k).rings = s.rings := rfl
@[simp] theorem State.setBank_pg (s : State) (c b : Nat) (k : Bank) : (s.setBank c b k).pg = s.pg := rfl
@[simp] theorem State.setBank_qps (s : State) (c b : Nat) (k : Bank) : (s.setBank c b k).qps = s.qps := rfl
@[simp] theorem State.setBank_dg (s : State) (c b : Nat) (k : Bank) : (s.setBank c b k).dg = s.dg := rfl
@[simp] theorem State.setBank_sess (s : State) (c b : Nat) (k : Bank) : (s.setBank c b k).sess = s.sess := rfl
@[simp] theorem State.setBank_stalled (s : State) (c b : Nat) (k : Bank) : (s.setBank c b k).stalled = s.stalled := rfl
@[simp] theorem State.setBank_neigh (s : State) (c b : Nat) (k : Bank) : (s.setBank c b k).neigh = s.neigh := rfl
@[simp] theorem State.setBank_mc (s : State) (c b : Nat) (k : Bank) : (s.setBank c b k).mc = s.mc := rfl
@[simp] theorem State.setBank_sc (s : State) (c b : Nat) (k : Bank) : (s.setBank c b k).sc = s.sc := rfl
@[simp] theorem State.setBank_ir (s : State) (c b : Nat) (k : Bank) : (s.setBank c b k).ir = s.ir := rfl
@[simp] theorem State.setBank_out (s : State) (c b : Nat) (k : Bank) : (s.setBank c b k).out = s.out := rfl
@[simp] theorem State.setBank_rnd (s : State) (c b : Nat) (k : Bank) : (s.setBank c b k).rnd = s.rnd := rfl
@[simp] theorem State.setBank_free (s : State) (c b : Nat) (k : Bank) : (s.setBank c b k).free = s.free := rfl

@[simp] theorem State.memSet_pending (s : State) (g : Nat) (b : Byte) : (s.memSet g b).pending = s.pending := rfl
@[simp] theorem State.memSet_fuses (s : State) (g : Nat) (b : Byte) : (s.memSet g b).fuses = s.fuses := rfl
@[simp] theorem State.memSet_flash (s : State) (g : Nat) (b : Byte) : (s.memSet g b).flash = s.flash := rfl
@[simp] theorem State.memSet_pwr (s : State) (g : Nat) (b : Byte) : (s.memSet g b).pwr = s.pwr := rfl
@[simp] theorem State.memSet_regs (s : State) (g : Nat) (b : Byte) : (s.memSet g b).regs = s.regs := rfl
@[simp] theorem State.memSet_tb (s : State) (g : Nat) (b : Byte) : (s.memSet g b).tb = s.tb := rfl
@[simp] theorem State.memSet_beat (s : State) (g : Nat) (b : Byte) : (s.memSet g b).beat = s.beat := rfl
@[simp] theorem State.memSet_cores (s : State) (g : Nat) (b : Byte) : (s.memSet g b).cores = s.cores := rfl
@[simp] theorem State.memSet_ecc (s : State) (g : Nat) (b : Byte) : (s.memSet g b).ecc = s.ecc := rfl
@[simp] theorem State.memSet_poisonPending (s : State) (g : Nat) (b : Byte) : (s.memSet g b).poisonPending = s.poisonPending := rfl
@[simp] theorem State.memSet_banks (s : State) (g : Nat) (b : Byte) : (s.memSet g b).banks = s.banks := rfl
@[simp] theorem State.memSet_flags (s : State) (g : Nat) (b : Byte) : (s.memSet g b).flags = s.flags := rfl
@[simp] theorem State.memSet_parts (s : State) (g : Nat) (b : Byte) : (s.memSet g b).parts = s.parts := rfl
@[simp] theorem State.memSet_partOps (s : State) (g : Nat) (b : Byte) : (s.memSet g b).partOps = s.partOps := rfl
@[simp] theorem State.memSet_transits (s : State) (g : Nat) (b : Byte) : (s.memSet g b).transits = s.transits := rfl
@[simp] theorem State.memSet_loads (s : State) (g : Nat) (b : Byte) : (s.memSet g b).loads = s.loads := rfl
@[simp] theorem State.memSet_tether (s : State) (g : Nat) (b : Byte) : (s.memSet g b).tether = s.tether := rfl
@[simp] theorem State.memSet_drift (s : State) (g : Nat) (b : Byte) : (s.memSet g b).drift = s.drift := rfl
@[simp] theorem State.memSet_rt (s : State) (g : Nat) (b : Byte) : (s.memSet g b).rt = s.rt := rfl
@[simp] theorem State.memSet_su (s : State) (g : Nat) (b : Byte) : (s.memSet g b).su = s.su := rfl
@[simp] theorem State.memSet_rings (s : State) (g : Nat) (b : Byte) : (s.memSet g b).rings = s.rings := rfl
@[simp] theorem State.memSet_pg (s : State) (g : Nat) (b : Byte) : (s.memSet g b).pg = s.pg := rfl
@[simp] theorem State.memSet_qps (s : State) (g : Nat) (b : Byte) : (s.memSet g b).qps = s.qps := rfl
@[simp] theorem State.memSet_dg (s : State) (g : Nat) (b : Byte) : (s.memSet g b).dg = s.dg := rfl
@[simp] theorem State.memSet_sess (s : State) (g : Nat) (b : Byte) : (s.memSet g b).sess = s.sess := rfl
@[simp] theorem State.memSet_stalled (s : State) (g : Nat) (b : Byte) : (s.memSet g b).stalled = s.stalled := rfl
@[simp] theorem State.memSet_neigh (s : State) (g : Nat) (b : Byte) : (s.memSet g b).neigh = s.neigh := rfl
@[simp] theorem State.memSet_mc (s : State) (g : Nat) (b : Byte) : (s.memSet g b).mc = s.mc := rfl
@[simp] theorem State.memSet_sc (s : State) (g : Nat) (b : Byte) : (s.memSet g b).sc = s.sc := rfl
@[simp] theorem State.memSet_ir (s : State) (g : Nat) (b : Byte) : (s.memSet g b).ir = s.ir := rfl
@[simp] theorem State.memSet_out (s : State) (g : Nat) (b : Byte) : (s.memSet g b).out = s.out := rfl
@[simp] theorem State.memSet_rnd (s : State) (g : Nat) (b : Byte) : (s.memSet g b).rnd = s.rnd := rfl
@[simp] theorem State.memSet_free (s : State) (g : Nat) (b : Byte) : (s.memSet g b).free = s.free := rfl

@[simp] theorem State.setPg_pending (s : State) (p : Nat) (q : PgPart) : (s.setPg p q).pending = s.pending := rfl
@[simp] theorem State.setPg_fuses (s : State) (p : Nat) (q : PgPart) : (s.setPg p q).fuses = s.fuses := rfl
@[simp] theorem State.setPg_flash (s : State) (p : Nat) (q : PgPart) : (s.setPg p q).flash = s.flash := rfl
@[simp] theorem State.setPg_pwr (s : State) (p : Nat) (q : PgPart) : (s.setPg p q).pwr = s.pwr := rfl
@[simp] theorem State.setPg_regs (s : State) (p : Nat) (q : PgPart) : (s.setPg p q).regs = s.regs := rfl
@[simp] theorem State.setPg_tb (s : State) (p : Nat) (q : PgPart) : (s.setPg p q).tb = s.tb := rfl
@[simp] theorem State.setPg_beat (s : State) (p : Nat) (q : PgPart) : (s.setPg p q).beat = s.beat := rfl
@[simp] theorem State.setPg_cores (s : State) (p : Nat) (q : PgPart) : (s.setPg p q).cores = s.cores := rfl
@[simp] theorem State.setPg_mem (s : State) (p : Nat) (q : PgPart) : (s.setPg p q).mem = s.mem := rfl
@[simp] theorem State.setPg_ecc (s : State) (p : Nat) (q : PgPart) : (s.setPg p q).ecc = s.ecc := rfl
@[simp] theorem State.setPg_poisonPending (s : State) (p : Nat) (q : PgPart) : (s.setPg p q).poisonPending = s.poisonPending := rfl
@[simp] theorem State.setPg_banks (s : State) (p : Nat) (q : PgPart) : (s.setPg p q).banks = s.banks := rfl
@[simp] theorem State.setPg_flags (s : State) (p : Nat) (q : PgPart) : (s.setPg p q).flags = s.flags := rfl
@[simp] theorem State.setPg_parts (s : State) (p : Nat) (q : PgPart) : (s.setPg p q).parts = s.parts := rfl
@[simp] theorem State.setPg_partOps (s : State) (p : Nat) (q : PgPart) : (s.setPg p q).partOps = s.partOps := rfl
@[simp] theorem State.setPg_transits (s : State) (p : Nat) (q : PgPart) : (s.setPg p q).transits = s.transits := rfl
@[simp] theorem State.setPg_loads (s : State) (p : Nat) (q : PgPart) : (s.setPg p q).loads = s.loads := rfl
@[simp] theorem State.setPg_tether (s : State) (p : Nat) (q : PgPart) : (s.setPg p q).tether = s.tether := rfl
@[simp] theorem State.setPg_drift (s : State) (p : Nat) (q : PgPart) : (s.setPg p q).drift = s.drift := rfl
@[simp] theorem State.setPg_rt (s : State) (p : Nat) (q : PgPart) : (s.setPg p q).rt = s.rt := rfl
@[simp] theorem State.setPg_su (s : State) (p : Nat) (q : PgPart) : (s.setPg p q).su = s.su := rfl
@[simp] theorem State.setPg_rings (s : State) (p : Nat) (q : PgPart) : (s.setPg p q).rings = s.rings := rfl
@[simp] theorem State.setPg_qps (s : State) (p : Nat) (q : PgPart) : (s.setPg p q).qps = s.qps := rfl
@[simp] theorem State.setPg_dg (s : State) (p : Nat) (q : PgPart) : (s.setPg p q).dg = s.dg := rfl
@[simp] theorem State.setPg_sess (s : State) (p : Nat) (q : PgPart) : (s.setPg p q).sess = s.sess := rfl
@[simp] theorem State.setPg_stalled (s : State) (p : Nat) (q : PgPart) : (s.setPg p q).stalled = s.stalled := rfl
@[simp] theorem State.setPg_neigh (s : State) (p : Nat) (q : PgPart) : (s.setPg p q).neigh = s.neigh := rfl
@[simp] theorem State.setPg_mc (s : State) (p : Nat) (q : PgPart) : (s.setPg p q).mc = s.mc := rfl
@[simp] theorem State.setPg_sc (s : State) (p : Nat) (q : PgPart) : (s.setPg p q).sc = s.sc := rfl
@[simp] theorem State.setPg_ir (s : State) (p : Nat) (q : PgPart) : (s.setPg p q).ir = s.ir := rfl
@[simp] theorem State.setPg_out (s : State) (p : Nat) (q : PgPart) : (s.setPg p q).out = s.out := rfl
@[simp] theorem State.setPg_rnd (s : State) (p : Nat) (q : PgPart) : (s.setPg p q).rnd = s.rnd := rfl
@[simp] theorem State.setPg_free (s : State) (p : Nat) (q : PgPart) : (s.setPg p q).free = s.free := rfl

@[simp] theorem State.setQp_pending (s : State) (k : Nat) (x : Qp) : (s.setQp k x).pending = s.pending := rfl
@[simp] theorem State.setQp_fuses (s : State) (k : Nat) (x : Qp) : (s.setQp k x).fuses = s.fuses := rfl
@[simp] theorem State.setQp_flash (s : State) (k : Nat) (x : Qp) : (s.setQp k x).flash = s.flash := rfl
@[simp] theorem State.setQp_pwr (s : State) (k : Nat) (x : Qp) : (s.setQp k x).pwr = s.pwr := rfl
@[simp] theorem State.setQp_regs (s : State) (k : Nat) (x : Qp) : (s.setQp k x).regs = s.regs := rfl
@[simp] theorem State.setQp_tb (s : State) (k : Nat) (x : Qp) : (s.setQp k x).tb = s.tb := rfl
@[simp] theorem State.setQp_beat (s : State) (k : Nat) (x : Qp) : (s.setQp k x).beat = s.beat := rfl
@[simp] theorem State.setQp_cores (s : State) (k : Nat) (x : Qp) : (s.setQp k x).cores = s.cores := rfl
@[simp] theorem State.setQp_mem (s : State) (k : Nat) (x : Qp) : (s.setQp k x).mem = s.mem := rfl
@[simp] theorem State.setQp_ecc (s : State) (k : Nat) (x : Qp) : (s.setQp k x).ecc = s.ecc := rfl
@[simp] theorem State.setQp_poisonPending (s : State) (k : Nat) (x : Qp) : (s.setQp k x).poisonPending = s.poisonPending := rfl
@[simp] theorem State.setQp_banks (s : State) (k : Nat) (x : Qp) : (s.setQp k x).banks = s.banks := rfl
@[simp] theorem State.setQp_flags (s : State) (k : Nat) (x : Qp) : (s.setQp k x).flags = s.flags := rfl
@[simp] theorem State.setQp_parts (s : State) (k : Nat) (x : Qp) : (s.setQp k x).parts = s.parts := rfl
@[simp] theorem State.setQp_partOps (s : State) (k : Nat) (x : Qp) : (s.setQp k x).partOps = s.partOps := rfl
@[simp] theorem State.setQp_transits (s : State) (k : Nat) (x : Qp) : (s.setQp k x).transits = s.transits := rfl
@[simp] theorem State.setQp_loads (s : State) (k : Nat) (x : Qp) : (s.setQp k x).loads = s.loads := rfl
@[simp] theorem State.setQp_tether (s : State) (k : Nat) (x : Qp) : (s.setQp k x).tether = s.tether := rfl
@[simp] theorem State.setQp_drift (s : State) (k : Nat) (x : Qp) : (s.setQp k x).drift = s.drift := rfl
@[simp] theorem State.setQp_rt (s : State) (k : Nat) (x : Qp) : (s.setQp k x).rt = s.rt := rfl
@[simp] theorem State.setQp_su (s : State) (k : Nat) (x : Qp) : (s.setQp k x).su = s.su := rfl
@[simp] theorem State.setQp_rings (s : State) (k : Nat) (x : Qp) : (s.setQp k x).rings = s.rings := rfl
@[simp] theorem State.setQp_pg (s : State) (k : Nat) (x : Qp) : (s.setQp k x).pg = s.pg := rfl
@[simp] theorem State.setQp_dg (s : State) (k : Nat) (x : Qp) : (s.setQp k x).dg = s.dg := rfl
@[simp] theorem State.setQp_sess (s : State) (k : Nat) (x : Qp) : (s.setQp k x).sess = s.sess := rfl
@[simp] theorem State.setQp_stalled (s : State) (k : Nat) (x : Qp) : (s.setQp k x).stalled = s.stalled := rfl
@[simp] theorem State.setQp_neigh (s : State) (k : Nat) (x : Qp) : (s.setQp k x).neigh = s.neigh := rfl
@[simp] theorem State.setQp_mc (s : State) (k : Nat) (x : Qp) : (s.setQp k x).mc = s.mc := rfl
@[simp] theorem State.setQp_sc (s : State) (k : Nat) (x : Qp) : (s.setQp k x).sc = s.sc := rfl
@[simp] theorem State.setQp_ir (s : State) (k : Nat) (x : Qp) : (s.setQp k x).ir = s.ir := rfl
@[simp] theorem State.setQp_out (s : State) (k : Nat) (x : Qp) : (s.setQp k x).out = s.out := rfl
@[simp] theorem State.setQp_rnd (s : State) (k : Nat) (x : Qp) : (s.setQp k x).rnd = s.rnd := rfl
@[simp] theorem State.setQp_free (s : State) (k : Nat) (x : Qp) : (s.setQp k x).free = s.free := rfl

@[simp] theorem State.setFlag_pending (s : State) (f : Nat) (v : Word) : (s.setFlag f v).pending = s.pending := rfl
@[simp] theorem State.setFlag_fuses (s : State) (f : Nat) (v : Word) : (s.setFlag f v).fuses = s.fuses := rfl
@[simp] theorem State.setFlag_flash (s : State) (f : Nat) (v : Word) : (s.setFlag f v).flash = s.flash := rfl
@[simp] theorem State.setFlag_pwr (s : State) (f : Nat) (v : Word) : (s.setFlag f v).pwr = s.pwr := rfl
@[simp] theorem State.setFlag_regs (s : State) (f : Nat) (v : Word) : (s.setFlag f v).regs = s.regs := rfl
@[simp] theorem State.setFlag_tb (s : State) (f : Nat) (v : Word) : (s.setFlag f v).tb = s.tb := rfl
@[simp] theorem State.setFlag_beat (s : State) (f : Nat) (v : Word) : (s.setFlag f v).beat = s.beat := rfl
@[simp] theorem State.setFlag_cores (s : State) (f : Nat) (v : Word) : (s.setFlag f v).cores = s.cores := rfl
@[simp] theorem State.setFlag_mem (s : State) (f : Nat) (v : Word) : (s.setFlag f v).mem = s.mem := rfl
@[simp] theorem State.setFlag_ecc (s : State) (f : Nat) (v : Word) : (s.setFlag f v).ecc = s.ecc := rfl
@[simp] theorem State.setFlag_poisonPending (s : State) (f : Nat) (v : Word) : (s.setFlag f v).poisonPending = s.poisonPending := rfl
@[simp] theorem State.setFlag_banks (s : State) (f : Nat) (v : Word) : (s.setFlag f v).banks = s.banks := rfl
@[simp] theorem State.setFlag_parts (s : State) (f : Nat) (v : Word) : (s.setFlag f v).parts = s.parts := rfl
@[simp] theorem State.setFlag_partOps (s : State) (f : Nat) (v : Word) : (s.setFlag f v).partOps = s.partOps := rfl
@[simp] theorem State.setFlag_transits (s : State) (f : Nat) (v : Word) : (s.setFlag f v).transits = s.transits := rfl
@[simp] theorem State.setFlag_loads (s : State) (f : Nat) (v : Word) : (s.setFlag f v).loads = s.loads := rfl
@[simp] theorem State.setFlag_tether (s : State) (f : Nat) (v : Word) : (s.setFlag f v).tether = s.tether := rfl
@[simp] theorem State.setFlag_drift (s : State) (f : Nat) (v : Word) : (s.setFlag f v).drift = s.drift := rfl
@[simp] theorem State.setFlag_rt (s : State) (f : Nat) (v : Word) : (s.setFlag f v).rt = s.rt := rfl
@[simp] theorem State.setFlag_su (s : State) (f : Nat) (v : Word) : (s.setFlag f v).su = s.su := rfl
@[simp] theorem State.setFlag_rings (s : State) (f : Nat) (v : Word) : (s.setFlag f v).rings = s.rings := rfl
@[simp] theorem State.setFlag_pg (s : State) (f : Nat) (v : Word) : (s.setFlag f v).pg = s.pg := rfl
@[simp] theorem State.setFlag_qps (s : State) (f : Nat) (v : Word) : (s.setFlag f v).qps = s.qps := rfl
@[simp] theorem State.setFlag_dg (s : State) (f : Nat) (v : Word) : (s.setFlag f v).dg = s.dg := rfl
@[simp] theorem State.setFlag_sess (s : State) (f : Nat) (v : Word) : (s.setFlag f v).sess = s.sess := rfl
@[simp] theorem State.setFlag_stalled (s : State) (f : Nat) (v : Word) : (s.setFlag f v).stalled = s.stalled := rfl
@[simp] theorem State.setFlag_neigh (s : State) (f : Nat) (v : Word) : (s.setFlag f v).neigh = s.neigh := rfl
@[simp] theorem State.setFlag_mc (s : State) (f : Nat) (v : Word) : (s.setFlag f v).mc = s.mc := rfl
@[simp] theorem State.setFlag_sc (s : State) (f : Nat) (v : Word) : (s.setFlag f v).sc = s.sc := rfl
@[simp] theorem State.setFlag_ir (s : State) (f : Nat) (v : Word) : (s.setFlag f v).ir = s.ir := rfl
@[simp] theorem State.setFlag_out (s : State) (f : Nat) (v : Word) : (s.setFlag f v).out = s.out := rfl
@[simp] theorem State.setFlag_rnd (s : State) (f : Nat) (v : Word) : (s.setFlag f v).rnd = s.rnd := rfl
@[simp] theorem State.setFlag_free (s : State) (f : Nat) (v : Word) : (s.setFlag f v).free = s.free := rfl

@[simp] theorem State.setEnt_pending (s : State) (i : Nat) (e : Ent) : (s.setEnt i e).pending = s.pending := rfl
@[simp] theorem State.setEnt_fuses (s : State) (i : Nat) (e : Ent) : (s.setEnt i e).fuses = s.fuses := rfl
@[simp] theorem State.setEnt_flash (s : State) (i : Nat) (e : Ent) : (s.setEnt i e).flash = s.flash := rfl
@[simp] theorem State.setEnt_pwr (s : State) (i : Nat) (e : Ent) : (s.setEnt i e).pwr = s.pwr := rfl
@[simp] theorem State.setEnt_regs (s : State) (i : Nat) (e : Ent) : (s.setEnt i e).regs = s.regs := rfl
@[simp] theorem State.setEnt_tb (s : State) (i : Nat) (e : Ent) : (s.setEnt i e).tb = s.tb := rfl
@[simp] theorem State.setEnt_beat (s : State) (i : Nat) (e : Ent) : (s.setEnt i e).beat = s.beat := rfl
@[simp] theorem State.setEnt_cores (s : State) (i : Nat) (e : Ent) : (s.setEnt i e).cores = s.cores := rfl
@[simp] theorem State.setEnt_mem (s : State) (i : Nat) (e : Ent) : (s.setEnt i e).mem = s.mem := rfl
@[simp] theorem State.setEnt_ecc (s : State) (i : Nat) (e : Ent) : (s.setEnt i e).ecc = s.ecc := rfl
@[simp] theorem State.setEnt_poisonPending (s : State) (i : Nat) (e : Ent) : (s.setEnt i e).poisonPending = s.poisonPending := rfl
@[simp] theorem State.setEnt_banks (s : State) (i : Nat) (e : Ent) : (s.setEnt i e).banks = s.banks := rfl
@[simp] theorem State.setEnt_flags (s : State) (i : Nat) (e : Ent) : (s.setEnt i e).flags = s.flags := rfl
@[simp] theorem State.setEnt_parts (s : State) (i : Nat) (e : Ent) : (s.setEnt i e).parts = s.parts := rfl
@[simp] theorem State.setEnt_partOps (s : State) (i : Nat) (e : Ent) : (s.setEnt i e).partOps = s.partOps := rfl
@[simp] theorem State.setEnt_transits (s : State) (i : Nat) (e : Ent) : (s.setEnt i e).transits = s.transits := rfl
@[simp] theorem State.setEnt_loads (s : State) (i : Nat) (e : Ent) : (s.setEnt i e).loads = s.loads := rfl
@[simp] theorem State.setEnt_tether (s : State) (i : Nat) (e : Ent) : (s.setEnt i e).tether = s.tether := rfl
@[simp] theorem State.setEnt_drift (s : State) (i : Nat) (e : Ent) : (s.setEnt i e).drift = s.drift := rfl
@[simp] theorem State.setEnt_su (s : State) (i : Nat) (e : Ent) : (s.setEnt i e).su = s.su := rfl
@[simp] theorem State.setEnt_rings (s : State) (i : Nat) (e : Ent) : (s.setEnt i e).rings = s.rings := rfl
@[simp] theorem State.setEnt_pg (s : State) (i : Nat) (e : Ent) : (s.setEnt i e).pg = s.pg := rfl
@[simp] theorem State.setEnt_qps (s : State) (i : Nat) (e : Ent) : (s.setEnt i e).qps = s.qps := rfl
@[simp] theorem State.setEnt_dg (s : State) (i : Nat) (e : Ent) : (s.setEnt i e).dg = s.dg := rfl
@[simp] theorem State.setEnt_sess (s : State) (i : Nat) (e : Ent) : (s.setEnt i e).sess = s.sess := rfl
@[simp] theorem State.setEnt_stalled (s : State) (i : Nat) (e : Ent) : (s.setEnt i e).stalled = s.stalled := rfl
@[simp] theorem State.setEnt_neigh (s : State) (i : Nat) (e : Ent) : (s.setEnt i e).neigh = s.neigh := rfl
@[simp] theorem State.setEnt_mc (s : State) (i : Nat) (e : Ent) : (s.setEnt i e).mc = s.mc := rfl
@[simp] theorem State.setEnt_sc (s : State) (i : Nat) (e : Ent) : (s.setEnt i e).sc = s.sc := rfl
@[simp] theorem State.setEnt_ir (s : State) (i : Nat) (e : Ent) : (s.setEnt i e).ir = s.ir := rfl
@[simp] theorem State.setEnt_out (s : State) (i : Nat) (e : Ent) : (s.setEnt i e).out = s.out := rfl
@[simp] theorem State.setEnt_rnd (s : State) (i : Nat) (e : Ent) : (s.setEnt i e).rnd = s.rnd := rfl
@[simp] theorem State.setEnt_free (s : State) (i : Nat) (e : Ent) : (s.setEnt i e).free = s.free := rfl

@[simp] theorem State.updEnt_pending (s : State) (i : Nat) (f : Ent → Ent) : (s.updEnt i f).pending = s.pending := rfl
@[simp] theorem State.updEnt_fuses (s : State) (i : Nat) (f : Ent → Ent) : (s.updEnt i f).fuses = s.fuses := rfl
@[simp] theorem State.updEnt_flash (s : State) (i : Nat) (f : Ent → Ent) : (s.updEnt i f).flash = s.flash := rfl
@[simp] theorem State.updEnt_pwr (s : State) (i : Nat) (f : Ent → Ent) : (s.updEnt i f).pwr = s.pwr := rfl
@[simp] theorem State.updEnt_regs (s : State) (i : Nat) (f : Ent → Ent) : (s.updEnt i f).regs = s.regs := rfl
@[simp] theorem State.updEnt_tb (s : State) (i : Nat) (f : Ent → Ent) : (s.updEnt i f).tb = s.tb := rfl
@[simp] theorem State.updEnt_beat (s : State) (i : Nat) (f : Ent → Ent) : (s.updEnt i f).beat = s.beat := rfl
@[simp] theorem State.updEnt_cores (s : State) (i : Nat) (f : Ent → Ent) : (s.updEnt i f).cores = s.cores := rfl
@[simp] theorem State.updEnt_mem (s : State) (i : Nat) (f : Ent → Ent) : (s.updEnt i f).mem = s.mem := rfl
@[simp] theorem State.updEnt_ecc (s : State) (i : Nat) (f : Ent → Ent) : (s.updEnt i f).ecc = s.ecc := rfl
@[simp] theorem State.updEnt_poisonPending (s : State) (i : Nat) (f : Ent → Ent) : (s.updEnt i f).poisonPending = s.poisonPending := rfl
@[simp] theorem State.updEnt_banks (s : State) (i : Nat) (f : Ent → Ent) : (s.updEnt i f).banks = s.banks := rfl
@[simp] theorem State.updEnt_flags (s : State) (i : Nat) (f : Ent → Ent) : (s.updEnt i f).flags = s.flags := rfl
@[simp] theorem State.updEnt_parts (s : State) (i : Nat) (f : Ent → Ent) : (s.updEnt i f).parts = s.parts := rfl
@[simp] theorem State.updEnt_partOps (s : State) (i : Nat) (f : Ent → Ent) : (s.updEnt i f).partOps = s.partOps := rfl
@[simp] theorem State.updEnt_transits (s : State) (i : Nat) (f : Ent → Ent) : (s.updEnt i f).transits = s.transits := rfl
@[simp] theorem State.updEnt_loads (s : State) (i : Nat) (f : Ent → Ent) : (s.updEnt i f).loads = s.loads := rfl
@[simp] theorem State.updEnt_tether (s : State) (i : Nat) (f : Ent → Ent) : (s.updEnt i f).tether = s.tether := rfl
@[simp] theorem State.updEnt_drift (s : State) (i : Nat) (f : Ent → Ent) : (s.updEnt i f).drift = s.drift := rfl
@[simp] theorem State.updEnt_su (s : State) (i : Nat) (f : Ent → Ent) : (s.updEnt i f).su = s.su := rfl
@[simp] theorem State.updEnt_rings (s : State) (i : Nat) (f : Ent → Ent) : (s.updEnt i f).rings = s.rings := rfl
@[simp] theorem State.updEnt_pg (s : State) (i : Nat) (f : Ent → Ent) : (s.updEnt i f).pg = s.pg := rfl
@[simp] theorem State.updEnt_qps (s : State) (i : Nat) (f : Ent → Ent) : (s.updEnt i f).qps = s.qps := rfl
@[simp] theorem State.updEnt_dg (s : State) (i : Nat) (f : Ent → Ent) : (s.updEnt i f).dg = s.dg := rfl
@[simp] theorem State.updEnt_sess (s : State) (i : Nat) (f : Ent → Ent) : (s.updEnt i f).sess = s.sess := rfl
@[simp] theorem State.updEnt_stalled (s : State) (i : Nat) (f : Ent → Ent) : (s.updEnt i f).stalled = s.stalled := rfl
@[simp] theorem State.updEnt_neigh (s : State) (i : Nat) (f : Ent → Ent) : (s.updEnt i f).neigh = s.neigh := rfl
@[simp] theorem State.updEnt_mc (s : State) (i : Nat) (f : Ent → Ent) : (s.updEnt i f).mc = s.mc := rfl
@[simp] theorem State.updEnt_sc (s : State) (i : Nat) (f : Ent → Ent) : (s.updEnt i f).sc = s.sc := rfl
@[simp] theorem State.updEnt_ir (s : State) (i : Nat) (f : Ent → Ent) : (s.updEnt i f).ir = s.ir := rfl
@[simp] theorem State.updEnt_out (s : State) (i : Nat) (f : Ent → Ent) : (s.updEnt i f).out = s.out := rfl
@[simp] theorem State.updEnt_rnd (s : State) (i : Nat) (f : Ent → Ent) : (s.updEnt i f).rnd = s.rnd := rfl
@[simp] theorem State.updEnt_free (s : State) (i : Nat) (f : Ent → Ent) : (s.updEnt i f).free = s.free := rfl

@[simp] theorem State.setCli_pending (s : State) (i : Nat) (c : Cli) : (s.setCli i c).pending = s.pending := rfl
@[simp] theorem State.setCli_fuses (s : State) (i : Nat) (c : Cli) : (s.setCli i c).fuses = s.fuses := rfl
@[simp] theorem State.setCli_flash (s : State) (i : Nat) (c : Cli) : (s.setCli i c).flash = s.flash := rfl
@[simp] theorem State.setCli_pwr (s : State) (i : Nat) (c : Cli) : (s.setCli i c).pwr = s.pwr := rfl
@[simp] theorem State.setCli_regs (s : State) (i : Nat) (c : Cli) : (s.setCli i c).regs = s.regs := rfl
@[simp] theorem State.setCli_tb (s : State) (i : Nat) (c : Cli) : (s.setCli i c).tb = s.tb := rfl
@[simp] theorem State.setCli_beat (s : State) (i : Nat) (c : Cli) : (s.setCli i c).beat = s.beat := rfl
@[simp] theorem State.setCli_cores (s : State) (i : Nat) (c : Cli) : (s.setCli i c).cores = s.cores := rfl
@[simp] theorem State.setCli_mem (s : State) (i : Nat) (c : Cli) : (s.setCli i c).mem = s.mem := rfl
@[simp] theorem State.setCli_ecc (s : State) (i : Nat) (c : Cli) : (s.setCli i c).ecc = s.ecc := rfl
@[simp] theorem State.setCli_poisonPending (s : State) (i : Nat) (c : Cli) : (s.setCli i c).poisonPending = s.poisonPending := rfl
@[simp] theorem State.setCli_banks (s : State) (i : Nat) (c : Cli) : (s.setCli i c).banks = s.banks := rfl
@[simp] theorem State.setCli_flags (s : State) (i : Nat) (c : Cli) : (s.setCli i c).flags = s.flags := rfl
@[simp] theorem State.setCli_parts (s : State) (i : Nat) (c : Cli) : (s.setCli i c).parts = s.parts := rfl
@[simp] theorem State.setCli_partOps (s : State) (i : Nat) (c : Cli) : (s.setCli i c).partOps = s.partOps := rfl
@[simp] theorem State.setCli_transits (s : State) (i : Nat) (c : Cli) : (s.setCli i c).transits = s.transits := rfl
@[simp] theorem State.setCli_loads (s : State) (i : Nat) (c : Cli) : (s.setCli i c).loads = s.loads := rfl
@[simp] theorem State.setCli_tether (s : State) (i : Nat) (c : Cli) : (s.setCli i c).tether = s.tether := rfl
@[simp] theorem State.setCli_drift (s : State) (i : Nat) (c : Cli) : (s.setCli i c).drift = s.drift := rfl
@[simp] theorem State.setCli_su (s : State) (i : Nat) (c : Cli) : (s.setCli i c).su = s.su := rfl
@[simp] theorem State.setCli_rings (s : State) (i : Nat) (c : Cli) : (s.setCli i c).rings = s.rings := rfl
@[simp] theorem State.setCli_pg (s : State) (i : Nat) (c : Cli) : (s.setCli i c).pg = s.pg := rfl
@[simp] theorem State.setCli_qps (s : State) (i : Nat) (c : Cli) : (s.setCli i c).qps = s.qps := rfl
@[simp] theorem State.setCli_dg (s : State) (i : Nat) (c : Cli) : (s.setCli i c).dg = s.dg := rfl
@[simp] theorem State.setCli_sess (s : State) (i : Nat) (c : Cli) : (s.setCli i c).sess = s.sess := rfl
@[simp] theorem State.setCli_stalled (s : State) (i : Nat) (c : Cli) : (s.setCli i c).stalled = s.stalled := rfl
@[simp] theorem State.setCli_neigh (s : State) (i : Nat) (c : Cli) : (s.setCli i c).neigh = s.neigh := rfl
@[simp] theorem State.setCli_mc (s : State) (i : Nat) (c : Cli) : (s.setCli i c).mc = s.mc := rfl
@[simp] theorem State.setCli_sc (s : State) (i : Nat) (c : Cli) : (s.setCli i c).sc = s.sc := rfl
@[simp] theorem State.setCli_ir (s : State) (i : Nat) (c : Cli) : (s.setCli i c).ir = s.ir := rfl
@[simp] theorem State.setCli_out (s : State) (i : Nat) (c : Cli) : (s.setCli i c).out = s.out := rfl
@[simp] theorem State.setCli_rnd (s : State) (i : Nat) (c : Cli) : (s.setCli i c).rnd = s.rnd := rfl
@[simp] theorem State.setCli_free (s : State) (i : Nat) (c : Cli) : (s.setCli i c).free = s.free := rfl

@[simp] theorem State.setRing_pending (s : State) (n : Nat) (r : List RingCmd) : (s.setRing n r).pending = s.pending := rfl
@[simp] theorem State.setRing_fuses (s : State) (n : Nat) (r : List RingCmd) : (s.setRing n r).fuses = s.fuses := rfl
@[simp] theorem State.setRing_flash (s : State) (n : Nat) (r : List RingCmd) : (s.setRing n r).flash = s.flash := rfl
@[simp] theorem State.setRing_pwr (s : State) (n : Nat) (r : List RingCmd) : (s.setRing n r).pwr = s.pwr := rfl
@[simp] theorem State.setRing_regs (s : State) (n : Nat) (r : List RingCmd) : (s.setRing n r).regs = s.regs := rfl
@[simp] theorem State.setRing_tb (s : State) (n : Nat) (r : List RingCmd) : (s.setRing n r).tb = s.tb := rfl
@[simp] theorem State.setRing_beat (s : State) (n : Nat) (r : List RingCmd) : (s.setRing n r).beat = s.beat := rfl
@[simp] theorem State.setRing_cores (s : State) (n : Nat) (r : List RingCmd) : (s.setRing n r).cores = s.cores := rfl
@[simp] theorem State.setRing_mem (s : State) (n : Nat) (r : List RingCmd) : (s.setRing n r).mem = s.mem := rfl
@[simp] theorem State.setRing_ecc (s : State) (n : Nat) (r : List RingCmd) : (s.setRing n r).ecc = s.ecc := rfl
@[simp] theorem State.setRing_poisonPending (s : State) (n : Nat) (r : List RingCmd) : (s.setRing n r).poisonPending = s.poisonPending := rfl
@[simp] theorem State.setRing_banks (s : State) (n : Nat) (r : List RingCmd) : (s.setRing n r).banks = s.banks := rfl
@[simp] theorem State.setRing_flags (s : State) (n : Nat) (r : List RingCmd) : (s.setRing n r).flags = s.flags := rfl
@[simp] theorem State.setRing_parts (s : State) (n : Nat) (r : List RingCmd) : (s.setRing n r).parts = s.parts := rfl
@[simp] theorem State.setRing_partOps (s : State) (n : Nat) (r : List RingCmd) : (s.setRing n r).partOps = s.partOps := rfl
@[simp] theorem State.setRing_transits (s : State) (n : Nat) (r : List RingCmd) : (s.setRing n r).transits = s.transits := rfl
@[simp] theorem State.setRing_loads (s : State) (n : Nat) (r : List RingCmd) : (s.setRing n r).loads = s.loads := rfl
@[simp] theorem State.setRing_tether (s : State) (n : Nat) (r : List RingCmd) : (s.setRing n r).tether = s.tether := rfl
@[simp] theorem State.setRing_drift (s : State) (n : Nat) (r : List RingCmd) : (s.setRing n r).drift = s.drift := rfl
@[simp] theorem State.setRing_rt (s : State) (n : Nat) (r : List RingCmd) : (s.setRing n r).rt = s.rt := rfl
@[simp] theorem State.setRing_su (s : State) (n : Nat) (r : List RingCmd) : (s.setRing n r).su = s.su := rfl
@[simp] theorem State.setRing_pg (s : State) (n : Nat) (r : List RingCmd) : (s.setRing n r).pg = s.pg := rfl
@[simp] theorem State.setRing_qps (s : State) (n : Nat) (r : List RingCmd) : (s.setRing n r).qps = s.qps := rfl
@[simp] theorem State.setRing_dg (s : State) (n : Nat) (r : List RingCmd) : (s.setRing n r).dg = s.dg := rfl
@[simp] theorem State.setRing_sess (s : State) (n : Nat) (r : List RingCmd) : (s.setRing n r).sess = s.sess := rfl
@[simp] theorem State.setRing_stalled (s : State) (n : Nat) (r : List RingCmd) : (s.setRing n r).stalled = s.stalled := rfl
@[simp] theorem State.setRing_neigh (s : State) (n : Nat) (r : List RingCmd) : (s.setRing n r).neigh = s.neigh := rfl
@[simp] theorem State.setRing_mc (s : State) (n : Nat) (r : List RingCmd) : (s.setRing n r).mc = s.mc := rfl
@[simp] theorem State.setRing_sc (s : State) (n : Nat) (r : List RingCmd) : (s.setRing n r).sc = s.sc := rfl
@[simp] theorem State.setRing_ir (s : State) (n : Nat) (r : List RingCmd) : (s.setRing n r).ir = s.ir := rfl
@[simp] theorem State.setRing_out (s : State) (n : Nat) (r : List RingCmd) : (s.setRing n r).out = s.out := rfl
@[simp] theorem State.setRing_rnd (s : State) (n : Nat) (r : List RingCmd) : (s.setRing n r).rnd = s.rnd := rfl
@[simp] theorem State.setRing_free (s : State) (n : Nat) (r : List RingCmd) : (s.setRing n r).free = s.free := rfl

@[simp] theorem State.setSess_pending (s : State) (i : Nat) (x : Option Sess) : (s.setSess i x).pending = s.pending := rfl
@[simp] theorem State.setSess_fuses (s : State) (i : Nat) (x : Option Sess) : (s.setSess i x).fuses = s.fuses := rfl
@[simp] theorem State.setSess_flash (s : State) (i : Nat) (x : Option Sess) : (s.setSess i x).flash = s.flash := rfl
@[simp] theorem State.setSess_pwr (s : State) (i : Nat) (x : Option Sess) : (s.setSess i x).pwr = s.pwr := rfl
@[simp] theorem State.setSess_regs (s : State) (i : Nat) (x : Option Sess) : (s.setSess i x).regs = s.regs := rfl
@[simp] theorem State.setSess_tb (s : State) (i : Nat) (x : Option Sess) : (s.setSess i x).tb = s.tb := rfl
@[simp] theorem State.setSess_beat (s : State) (i : Nat) (x : Option Sess) : (s.setSess i x).beat = s.beat := rfl
@[simp] theorem State.setSess_cores (s : State) (i : Nat) (x : Option Sess) : (s.setSess i x).cores = s.cores := rfl
@[simp] theorem State.setSess_mem (s : State) (i : Nat) (x : Option Sess) : (s.setSess i x).mem = s.mem := rfl
@[simp] theorem State.setSess_ecc (s : State) (i : Nat) (x : Option Sess) : (s.setSess i x).ecc = s.ecc := rfl
@[simp] theorem State.setSess_poisonPending (s : State) (i : Nat) (x : Option Sess) : (s.setSess i x).poisonPending = s.poisonPending := rfl
@[simp] theorem State.setSess_banks (s : State) (i : Nat) (x : Option Sess) : (s.setSess i x).banks = s.banks := rfl
@[simp] theorem State.setSess_flags (s : State) (i : Nat) (x : Option Sess) : (s.setSess i x).flags = s.flags := rfl
@[simp] theorem State.setSess_parts (s : State) (i : Nat) (x : Option Sess) : (s.setSess i x).parts = s.parts := rfl
@[simp] theorem State.setSess_partOps (s : State) (i : Nat) (x : Option Sess) : (s.setSess i x).partOps = s.partOps := rfl
@[simp] theorem State.setSess_transits (s : State) (i : Nat) (x : Option Sess) : (s.setSess i x).transits = s.transits := rfl
@[simp] theorem State.setSess_loads (s : State) (i : Nat) (x : Option Sess) : (s.setSess i x).loads = s.loads := rfl
@[simp] theorem State.setSess_tether (s : State) (i : Nat) (x : Option Sess) : (s.setSess i x).tether = s.tether := rfl
@[simp] theorem State.setSess_drift (s : State) (i : Nat) (x : Option Sess) : (s.setSess i x).drift = s.drift := rfl
@[simp] theorem State.setSess_rt (s : State) (i : Nat) (x : Option Sess) : (s.setSess i x).rt = s.rt := rfl
@[simp] theorem State.setSess_su (s : State) (i : Nat) (x : Option Sess) : (s.setSess i x).su = s.su := rfl
@[simp] theorem State.setSess_rings (s : State) (i : Nat) (x : Option Sess) : (s.setSess i x).rings = s.rings := rfl
@[simp] theorem State.setSess_pg (s : State) (i : Nat) (x : Option Sess) : (s.setSess i x).pg = s.pg := rfl
@[simp] theorem State.setSess_qps (s : State) (i : Nat) (x : Option Sess) : (s.setSess i x).qps = s.qps := rfl
@[simp] theorem State.setSess_dg (s : State) (i : Nat) (x : Option Sess) : (s.setSess i x).dg = s.dg := rfl
@[simp] theorem State.setSess_stalled (s : State) (i : Nat) (x : Option Sess) : (s.setSess i x).stalled = s.stalled := rfl
@[simp] theorem State.setSess_neigh (s : State) (i : Nat) (x : Option Sess) : (s.setSess i x).neigh = s.neigh := rfl
@[simp] theorem State.setSess_mc (s : State) (i : Nat) (x : Option Sess) : (s.setSess i x).mc = s.mc := rfl
@[simp] theorem State.setSess_sc (s : State) (i : Nat) (x : Option Sess) : (s.setSess i x).sc = s.sc := rfl
@[simp] theorem State.setSess_ir (s : State) (i : Nat) (x : Option Sess) : (s.setSess i x).ir = s.ir := rfl
@[simp] theorem State.setSess_out (s : State) (i : Nat) (x : Option Sess) : (s.setSess i x).out = s.out := rfl
@[simp] theorem State.setSess_rnd (s : State) (i : Nat) (x : Option Sess) : (s.setSess i x).rnd = s.rnd := rfl
@[simp] theorem State.setSess_free (s : State) (i : Nat) (x : Option Sess) : (s.setSess i x).free = s.free := rfl

@[simp] theorem State.setPort_pending (s : State) (p : Fin 8) (x : TPort) : (s.setPort p x).pending = s.pending := rfl
@[simp] theorem State.setPort_fuses (s : State) (p : Fin 8) (x : TPort) : (s.setPort p x).fuses = s.fuses := rfl
@[simp] theorem State.setPort_flash (s : State) (p : Fin 8) (x : TPort) : (s.setPort p x).flash = s.flash := rfl
@[simp] theorem State.setPort_pwr (s : State) (p : Fin 8) (x : TPort) : (s.setPort p x).pwr = s.pwr := rfl
@[simp] theorem State.setPort_regs (s : State) (p : Fin 8) (x : TPort) : (s.setPort p x).regs = s.regs := rfl
@[simp] theorem State.setPort_tb (s : State) (p : Fin 8) (x : TPort) : (s.setPort p x).tb = s.tb := rfl
@[simp] theorem State.setPort_beat (s : State) (p : Fin 8) (x : TPort) : (s.setPort p x).beat = s.beat := rfl
@[simp] theorem State.setPort_cores (s : State) (p : Fin 8) (x : TPort) : (s.setPort p x).cores = s.cores := rfl
@[simp] theorem State.setPort_mem (s : State) (p : Fin 8) (x : TPort) : (s.setPort p x).mem = s.mem := rfl
@[simp] theorem State.setPort_ecc (s : State) (p : Fin 8) (x : TPort) : (s.setPort p x).ecc = s.ecc := rfl
@[simp] theorem State.setPort_poisonPending (s : State) (p : Fin 8) (x : TPort) : (s.setPort p x).poisonPending = s.poisonPending := rfl
@[simp] theorem State.setPort_banks (s : State) (p : Fin 8) (x : TPort) : (s.setPort p x).banks = s.banks := rfl
@[simp] theorem State.setPort_flags (s : State) (p : Fin 8) (x : TPort) : (s.setPort p x).flags = s.flags := rfl
@[simp] theorem State.setPort_parts (s : State) (p : Fin 8) (x : TPort) : (s.setPort p x).parts = s.parts := rfl
@[simp] theorem State.setPort_partOps (s : State) (p : Fin 8) (x : TPort) : (s.setPort p x).partOps = s.partOps := rfl
@[simp] theorem State.setPort_transits (s : State) (p : Fin 8) (x : TPort) : (s.setPort p x).transits = s.transits := rfl
@[simp] theorem State.setPort_loads (s : State) (p : Fin 8) (x : TPort) : (s.setPort p x).loads = s.loads := rfl
@[simp] theorem State.setPort_drift (s : State) (p : Fin 8) (x : TPort) : (s.setPort p x).drift = s.drift := rfl
@[simp] theorem State.setPort_rt (s : State) (p : Fin 8) (x : TPort) : (s.setPort p x).rt = s.rt := rfl
@[simp] theorem State.setPort_su (s : State) (p : Fin 8) (x : TPort) : (s.setPort p x).su = s.su := rfl
@[simp] theorem State.setPort_rings (s : State) (p : Fin 8) (x : TPort) : (s.setPort p x).rings = s.rings := rfl
@[simp] theorem State.setPort_pg (s : State) (p : Fin 8) (x : TPort) : (s.setPort p x).pg = s.pg := rfl
@[simp] theorem State.setPort_qps (s : State) (p : Fin 8) (x : TPort) : (s.setPort p x).qps = s.qps := rfl
@[simp] theorem State.setPort_dg (s : State) (p : Fin 8) (x : TPort) : (s.setPort p x).dg = s.dg := rfl
@[simp] theorem State.setPort_sess (s : State) (p : Fin 8) (x : TPort) : (s.setPort p x).sess = s.sess := rfl
@[simp] theorem State.setPort_stalled (s : State) (p : Fin 8) (x : TPort) : (s.setPort p x).stalled = s.stalled := rfl
@[simp] theorem State.setPort_neigh (s : State) (p : Fin 8) (x : TPort) : (s.setPort p x).neigh = s.neigh := rfl
@[simp] theorem State.setPort_mc (s : State) (p : Fin 8) (x : TPort) : (s.setPort p x).mc = s.mc := rfl
@[simp] theorem State.setPort_sc (s : State) (p : Fin 8) (x : TPort) : (s.setPort p x).sc = s.sc := rfl
@[simp] theorem State.setPort_ir (s : State) (p : Fin 8) (x : TPort) : (s.setPort p x).ir = s.ir := rfl
@[simp] theorem State.setPort_out (s : State) (p : Fin 8) (x : TPort) : (s.setPort p x).out = s.out := rfl
@[simp] theorem State.setPort_rnd (s : State) (p : Fin 8) (x : TPort) : (s.setPort p x).rnd = s.rnd := rfl
@[simp] theorem State.setPort_free (s : State) (p : Fin 8) (x : TPort) : (s.setPort p x).free = s.free := rfl

@[simp] theorem State.updPort_pending (s : State) (p : Fin 8) (f : TPort → TPort) : (s.updPort p f).pending = s.pending := rfl
@[simp] theorem State.updPort_fuses (s : State) (p : Fin 8) (f : TPort → TPort) : (s.updPort p f).fuses = s.fuses := rfl
@[simp] theorem State.updPort_flash (s : State) (p : Fin 8) (f : TPort → TPort) : (s.updPort p f).flash = s.flash := rfl
@[simp] theorem State.updPort_pwr (s : State) (p : Fin 8) (f : TPort → TPort) : (s.updPort p f).pwr = s.pwr := rfl
@[simp] theorem State.updPort_regs (s : State) (p : Fin 8) (f : TPort → TPort) : (s.updPort p f).regs = s.regs := rfl
@[simp] theorem State.updPort_tb (s : State) (p : Fin 8) (f : TPort → TPort) : (s.updPort p f).tb = s.tb := rfl
@[simp] theorem State.updPort_beat (s : State) (p : Fin 8) (f : TPort → TPort) : (s.updPort p f).beat = s.beat := rfl
@[simp] theorem State.updPort_cores (s : State) (p : Fin 8) (f : TPort → TPort) : (s.updPort p f).cores = s.cores := rfl
@[simp] theorem State.updPort_mem (s : State) (p : Fin 8) (f : TPort → TPort) : (s.updPort p f).mem = s.mem := rfl
@[simp] theorem State.updPort_ecc (s : State) (p : Fin 8) (f : TPort → TPort) : (s.updPort p f).ecc = s.ecc := rfl
@[simp] theorem State.updPort_poisonPending (s : State) (p : Fin 8) (f : TPort → TPort) : (s.updPort p f).poisonPending = s.poisonPending := rfl
@[simp] theorem State.updPort_banks (s : State) (p : Fin 8) (f : TPort → TPort) : (s.updPort p f).banks = s.banks := rfl
@[simp] theorem State.updPort_flags (s : State) (p : Fin 8) (f : TPort → TPort) : (s.updPort p f).flags = s.flags := rfl
@[simp] theorem State.updPort_parts (s : State) (p : Fin 8) (f : TPort → TPort) : (s.updPort p f).parts = s.parts := rfl
@[simp] theorem State.updPort_partOps (s : State) (p : Fin 8) (f : TPort → TPort) : (s.updPort p f).partOps = s.partOps := rfl
@[simp] theorem State.updPort_transits (s : State) (p : Fin 8) (f : TPort → TPort) : (s.updPort p f).transits = s.transits := rfl
@[simp] theorem State.updPort_loads (s : State) (p : Fin 8) (f : TPort → TPort) : (s.updPort p f).loads = s.loads := rfl
@[simp] theorem State.updPort_drift (s : State) (p : Fin 8) (f : TPort → TPort) : (s.updPort p f).drift = s.drift := rfl
@[simp] theorem State.updPort_rt (s : State) (p : Fin 8) (f : TPort → TPort) : (s.updPort p f).rt = s.rt := rfl
@[simp] theorem State.updPort_su (s : State) (p : Fin 8) (f : TPort → TPort) : (s.updPort p f).su = s.su := rfl
@[simp] theorem State.updPort_rings (s : State) (p : Fin 8) (f : TPort → TPort) : (s.updPort p f).rings = s.rings := rfl
@[simp] theorem State.updPort_pg (s : State) (p : Fin 8) (f : TPort → TPort) : (s.updPort p f).pg = s.pg := rfl
@[simp] theorem State.updPort_qps (s : State) (p : Fin 8) (f : TPort → TPort) : (s.updPort p f).qps = s.qps := rfl
@[simp] theorem State.updPort_dg (s : State) (p : Fin 8) (f : TPort → TPort) : (s.updPort p f).dg = s.dg := rfl
@[simp] theorem State.updPort_sess (s : State) (p : Fin 8) (f : TPort → TPort) : (s.updPort p f).sess = s.sess := rfl
@[simp] theorem State.updPort_stalled (s : State) (p : Fin 8) (f : TPort → TPort) : (s.updPort p f).stalled = s.stalled := rfl
@[simp] theorem State.updPort_neigh (s : State) (p : Fin 8) (f : TPort → TPort) : (s.updPort p f).neigh = s.neigh := rfl
@[simp] theorem State.updPort_mc (s : State) (p : Fin 8) (f : TPort → TPort) : (s.updPort p f).mc = s.mc := rfl
@[simp] theorem State.updPort_sc (s : State) (p : Fin 8) (f : TPort → TPort) : (s.updPort p f).sc = s.sc := rfl
@[simp] theorem State.updPort_ir (s : State) (p : Fin 8) (f : TPort → TPort) : (s.updPort p f).ir = s.ir := rfl
@[simp] theorem State.updPort_out (s : State) (p : Fin 8) (f : TPort → TPort) : (s.updPort p f).out = s.out := rfl
@[simp] theorem State.updPort_rnd (s : State) (p : Fin 8) (f : TPort → TPort) : (s.updPort p f).rnd = s.rnd := rfl
@[simp] theorem State.updPort_free (s : State) (p : Fin 8) (f : TPort → TPort) : (s.updPort p f).free = s.free := rfl

@[simp] theorem State.updJoin_pending (s : State) (f : Join → Join) : (s.updJoin f).pending = s.pending := rfl
@[simp] theorem State.updJoin_fuses (s : State) (f : Join → Join) : (s.updJoin f).fuses = s.fuses := rfl
@[simp] theorem State.updJoin_flash (s : State) (f : Join → Join) : (s.updJoin f).flash = s.flash := rfl
@[simp] theorem State.updJoin_pwr (s : State) (f : Join → Join) : (s.updJoin f).pwr = s.pwr := rfl
@[simp] theorem State.updJoin_regs (s : State) (f : Join → Join) : (s.updJoin f).regs = s.regs := rfl
@[simp] theorem State.updJoin_tb (s : State) (f : Join → Join) : (s.updJoin f).tb = s.tb := rfl
@[simp] theorem State.updJoin_beat (s : State) (f : Join → Join) : (s.updJoin f).beat = s.beat := rfl
@[simp] theorem State.updJoin_cores (s : State) (f : Join → Join) : (s.updJoin f).cores = s.cores := rfl
@[simp] theorem State.updJoin_mem (s : State) (f : Join → Join) : (s.updJoin f).mem = s.mem := rfl
@[simp] theorem State.updJoin_ecc (s : State) (f : Join → Join) : (s.updJoin f).ecc = s.ecc := rfl
@[simp] theorem State.updJoin_poisonPending (s : State) (f : Join → Join) : (s.updJoin f).poisonPending = s.poisonPending := rfl
@[simp] theorem State.updJoin_banks (s : State) (f : Join → Join) : (s.updJoin f).banks = s.banks := rfl
@[simp] theorem State.updJoin_flags (s : State) (f : Join → Join) : (s.updJoin f).flags = s.flags := rfl
@[simp] theorem State.updJoin_parts (s : State) (f : Join → Join) : (s.updJoin f).parts = s.parts := rfl
@[simp] theorem State.updJoin_partOps (s : State) (f : Join → Join) : (s.updJoin f).partOps = s.partOps := rfl
@[simp] theorem State.updJoin_transits (s : State) (f : Join → Join) : (s.updJoin f).transits = s.transits := rfl
@[simp] theorem State.updJoin_loads (s : State) (f : Join → Join) : (s.updJoin f).loads = s.loads := rfl
@[simp] theorem State.updJoin_drift (s : State) (f : Join → Join) : (s.updJoin f).drift = s.drift := rfl
@[simp] theorem State.updJoin_rt (s : State) (f : Join → Join) : (s.updJoin f).rt = s.rt := rfl
@[simp] theorem State.updJoin_su (s : State) (f : Join → Join) : (s.updJoin f).su = s.su := rfl
@[simp] theorem State.updJoin_rings (s : State) (f : Join → Join) : (s.updJoin f).rings = s.rings := rfl
@[simp] theorem State.updJoin_pg (s : State) (f : Join → Join) : (s.updJoin f).pg = s.pg := rfl
@[simp] theorem State.updJoin_qps (s : State) (f : Join → Join) : (s.updJoin f).qps = s.qps := rfl
@[simp] theorem State.updJoin_dg (s : State) (f : Join → Join) : (s.updJoin f).dg = s.dg := rfl
@[simp] theorem State.updJoin_sess (s : State) (f : Join → Join) : (s.updJoin f).sess = s.sess := rfl
@[simp] theorem State.updJoin_stalled (s : State) (f : Join → Join) : (s.updJoin f).stalled = s.stalled := rfl
@[simp] theorem State.updJoin_neigh (s : State) (f : Join → Join) : (s.updJoin f).neigh = s.neigh := rfl
@[simp] theorem State.updJoin_mc (s : State) (f : Join → Join) : (s.updJoin f).mc = s.mc := rfl
@[simp] theorem State.updJoin_sc (s : State) (f : Join → Join) : (s.updJoin f).sc = s.sc := rfl
@[simp] theorem State.updJoin_ir (s : State) (f : Join → Join) : (s.updJoin f).ir = s.ir := rfl
@[simp] theorem State.updJoin_out (s : State) (f : Join → Join) : (s.updJoin f).out = s.out := rfl
@[simp] theorem State.updJoin_rnd (s : State) (f : Join → Join) : (s.updJoin f).rnd = s.rnd := rfl
@[simp] theorem State.updJoin_free (s : State) (f : Join → Join) : (s.updJoin f).free = s.free := rfl

@[simp] theorem State.setLegIn_pending (s : State) (n : Nat) (q : List Flit) : (s.setLegIn n q).pending = s.pending := rfl
@[simp] theorem State.setLegIn_fuses (s : State) (n : Nat) (q : List Flit) : (s.setLegIn n q).fuses = s.fuses := rfl
@[simp] theorem State.setLegIn_flash (s : State) (n : Nat) (q : List Flit) : (s.setLegIn n q).flash = s.flash := rfl
@[simp] theorem State.setLegIn_pwr (s : State) (n : Nat) (q : List Flit) : (s.setLegIn n q).pwr = s.pwr := rfl
@[simp] theorem State.setLegIn_regs (s : State) (n : Nat) (q : List Flit) : (s.setLegIn n q).regs = s.regs := rfl
@[simp] theorem State.setLegIn_tb (s : State) (n : Nat) (q : List Flit) : (s.setLegIn n q).tb = s.tb := rfl
@[simp] theorem State.setLegIn_beat (s : State) (n : Nat) (q : List Flit) : (s.setLegIn n q).beat = s.beat := rfl
@[simp] theorem State.setLegIn_cores (s : State) (n : Nat) (q : List Flit) : (s.setLegIn n q).cores = s.cores := rfl
@[simp] theorem State.setLegIn_mem (s : State) (n : Nat) (q : List Flit) : (s.setLegIn n q).mem = s.mem := rfl
@[simp] theorem State.setLegIn_ecc (s : State) (n : Nat) (q : List Flit) : (s.setLegIn n q).ecc = s.ecc := rfl
@[simp] theorem State.setLegIn_poisonPending (s : State) (n : Nat) (q : List Flit) : (s.setLegIn n q).poisonPending = s.poisonPending := rfl
@[simp] theorem State.setLegIn_banks (s : State) (n : Nat) (q : List Flit) : (s.setLegIn n q).banks = s.banks := rfl
@[simp] theorem State.setLegIn_flags (s : State) (n : Nat) (q : List Flit) : (s.setLegIn n q).flags = s.flags := rfl
@[simp] theorem State.setLegIn_parts (s : State) (n : Nat) (q : List Flit) : (s.setLegIn n q).parts = s.parts := rfl
@[simp] theorem State.setLegIn_partOps (s : State) (n : Nat) (q : List Flit) : (s.setLegIn n q).partOps = s.partOps := rfl
@[simp] theorem State.setLegIn_transits (s : State) (n : Nat) (q : List Flit) : (s.setLegIn n q).transits = s.transits := rfl
@[simp] theorem State.setLegIn_loads (s : State) (n : Nat) (q : List Flit) : (s.setLegIn n q).loads = s.loads := rfl
@[simp] theorem State.setLegIn_drift (s : State) (n : Nat) (q : List Flit) : (s.setLegIn n q).drift = s.drift := rfl
@[simp] theorem State.setLegIn_rt (s : State) (n : Nat) (q : List Flit) : (s.setLegIn n q).rt = s.rt := rfl
@[simp] theorem State.setLegIn_su (s : State) (n : Nat) (q : List Flit) : (s.setLegIn n q).su = s.su := rfl
@[simp] theorem State.setLegIn_rings (s : State) (n : Nat) (q : List Flit) : (s.setLegIn n q).rings = s.rings := rfl
@[simp] theorem State.setLegIn_pg (s : State) (n : Nat) (q : List Flit) : (s.setLegIn n q).pg = s.pg := rfl
@[simp] theorem State.setLegIn_qps (s : State) (n : Nat) (q : List Flit) : (s.setLegIn n q).qps = s.qps := rfl
@[simp] theorem State.setLegIn_dg (s : State) (n : Nat) (q : List Flit) : (s.setLegIn n q).dg = s.dg := rfl
@[simp] theorem State.setLegIn_sess (s : State) (n : Nat) (q : List Flit) : (s.setLegIn n q).sess = s.sess := rfl
@[simp] theorem State.setLegIn_stalled (s : State) (n : Nat) (q : List Flit) : (s.setLegIn n q).stalled = s.stalled := rfl
@[simp] theorem State.setLegIn_neigh (s : State) (n : Nat) (q : List Flit) : (s.setLegIn n q).neigh = s.neigh := rfl
@[simp] theorem State.setLegIn_mc (s : State) (n : Nat) (q : List Flit) : (s.setLegIn n q).mc = s.mc := rfl
@[simp] theorem State.setLegIn_sc (s : State) (n : Nat) (q : List Flit) : (s.setLegIn n q).sc = s.sc := rfl
@[simp] theorem State.setLegIn_ir (s : State) (n : Nat) (q : List Flit) : (s.setLegIn n q).ir = s.ir := rfl
@[simp] theorem State.setLegIn_out (s : State) (n : Nat) (q : List Flit) : (s.setLegIn n q).out = s.out := rfl
@[simp] theorem State.setLegIn_rnd (s : State) (n : Nat) (q : List Flit) : (s.setLegIn n q).rnd = s.rnd := rfl
@[simp] theorem State.setLegIn_free (s : State) (n : Nat) (q : List Flit) : (s.setLegIn n q).free = s.free := rfl

@[simp] theorem State.setLegOut_pending (s : State) (n : Nat) (q : List Flit) : (s.setLegOut n q).pending = s.pending := rfl
@[simp] theorem State.setLegOut_fuses (s : State) (n : Nat) (q : List Flit) : (s.setLegOut n q).fuses = s.fuses := rfl
@[simp] theorem State.setLegOut_flash (s : State) (n : Nat) (q : List Flit) : (s.setLegOut n q).flash = s.flash := rfl
@[simp] theorem State.setLegOut_pwr (s : State) (n : Nat) (q : List Flit) : (s.setLegOut n q).pwr = s.pwr := rfl
@[simp] theorem State.setLegOut_regs (s : State) (n : Nat) (q : List Flit) : (s.setLegOut n q).regs = s.regs := rfl
@[simp] theorem State.setLegOut_tb (s : State) (n : Nat) (q : List Flit) : (s.setLegOut n q).tb = s.tb := rfl
@[simp] theorem State.setLegOut_beat (s : State) (n : Nat) (q : List Flit) : (s.setLegOut n q).beat = s.beat := rfl
@[simp] theorem State.setLegOut_cores (s : State) (n : Nat) (q : List Flit) : (s.setLegOut n q).cores = s.cores := rfl
@[simp] theorem State.setLegOut_mem (s : State) (n : Nat) (q : List Flit) : (s.setLegOut n q).mem = s.mem := rfl
@[simp] theorem State.setLegOut_ecc (s : State) (n : Nat) (q : List Flit) : (s.setLegOut n q).ecc = s.ecc := rfl
@[simp] theorem State.setLegOut_poisonPending (s : State) (n : Nat) (q : List Flit) : (s.setLegOut n q).poisonPending = s.poisonPending := rfl
@[simp] theorem State.setLegOut_banks (s : State) (n : Nat) (q : List Flit) : (s.setLegOut n q).banks = s.banks := rfl
@[simp] theorem State.setLegOut_flags (s : State) (n : Nat) (q : List Flit) : (s.setLegOut n q).flags = s.flags := rfl
@[simp] theorem State.setLegOut_parts (s : State) (n : Nat) (q : List Flit) : (s.setLegOut n q).parts = s.parts := rfl
@[simp] theorem State.setLegOut_partOps (s : State) (n : Nat) (q : List Flit) : (s.setLegOut n q).partOps = s.partOps := rfl
@[simp] theorem State.setLegOut_transits (s : State) (n : Nat) (q : List Flit) : (s.setLegOut n q).transits = s.transits := rfl
@[simp] theorem State.setLegOut_loads (s : State) (n : Nat) (q : List Flit) : (s.setLegOut n q).loads = s.loads := rfl
@[simp] theorem State.setLegOut_drift (s : State) (n : Nat) (q : List Flit) : (s.setLegOut n q).drift = s.drift := rfl
@[simp] theorem State.setLegOut_rt (s : State) (n : Nat) (q : List Flit) : (s.setLegOut n q).rt = s.rt := rfl
@[simp] theorem State.setLegOut_su (s : State) (n : Nat) (q : List Flit) : (s.setLegOut n q).su = s.su := rfl
@[simp] theorem State.setLegOut_rings (s : State) (n : Nat) (q : List Flit) : (s.setLegOut n q).rings = s.rings := rfl
@[simp] theorem State.setLegOut_pg (s : State) (n : Nat) (q : List Flit) : (s.setLegOut n q).pg = s.pg := rfl
@[simp] theorem State.setLegOut_qps (s : State) (n : Nat) (q : List Flit) : (s.setLegOut n q).qps = s.qps := rfl
@[simp] theorem State.setLegOut_dg (s : State) (n : Nat) (q : List Flit) : (s.setLegOut n q).dg = s.dg := rfl
@[simp] theorem State.setLegOut_sess (s : State) (n : Nat) (q : List Flit) : (s.setLegOut n q).sess = s.sess := rfl
@[simp] theorem State.setLegOut_stalled (s : State) (n : Nat) (q : List Flit) : (s.setLegOut n q).stalled = s.stalled := rfl
@[simp] theorem State.setLegOut_neigh (s : State) (n : Nat) (q : List Flit) : (s.setLegOut n q).neigh = s.neigh := rfl
@[simp] theorem State.setLegOut_mc (s : State) (n : Nat) (q : List Flit) : (s.setLegOut n q).mc = s.mc := rfl
@[simp] theorem State.setLegOut_sc (s : State) (n : Nat) (q : List Flit) : (s.setLegOut n q).sc = s.sc := rfl
@[simp] theorem State.setLegOut_ir (s : State) (n : Nat) (q : List Flit) : (s.setLegOut n q).ir = s.ir := rfl
@[simp] theorem State.setLegOut_out (s : State) (n : Nat) (q : List Flit) : (s.setLegOut n q).out = s.out := rfl
@[simp] theorem State.setLegOut_rnd (s : State) (n : Nat) (q : List Flit) : (s.setLegOut n q).rnd = s.rnd := rfl
@[simp] theorem State.setLegOut_free (s : State) (n : Nat) (q : List Flit) : (s.setLegOut n q).free = s.free := rfl

@[simp] theorem State.setMail_pending (s : State) (ep : Nat) (q : List Packet) : (s.setMail ep q).pending = s.pending := rfl
@[simp] theorem State.setMail_fuses (s : State) (ep : Nat) (q : List Packet) : (s.setMail ep q).fuses = s.fuses := rfl
@[simp] theorem State.setMail_flash (s : State) (ep : Nat) (q : List Packet) : (s.setMail ep q).flash = s.flash := rfl
@[simp] theorem State.setMail_pwr (s : State) (ep : Nat) (q : List Packet) : (s.setMail ep q).pwr = s.pwr := rfl
@[simp] theorem State.setMail_regs (s : State) (ep : Nat) (q : List Packet) : (s.setMail ep q).regs = s.regs := rfl
@[simp] theorem State.setMail_tb (s : State) (ep : Nat) (q : List Packet) : (s.setMail ep q).tb = s.tb := rfl
@[simp] theorem State.setMail_beat (s : State) (ep : Nat) (q : List Packet) : (s.setMail ep q).beat = s.beat := rfl
@[simp] theorem State.setMail_cores (s : State) (ep : Nat) (q : List Packet) : (s.setMail ep q).cores = s.cores := rfl
@[simp] theorem State.setMail_mem (s : State) (ep : Nat) (q : List Packet) : (s.setMail ep q).mem = s.mem := rfl
@[simp] theorem State.setMail_ecc (s : State) (ep : Nat) (q : List Packet) : (s.setMail ep q).ecc = s.ecc := rfl
@[simp] theorem State.setMail_poisonPending (s : State) (ep : Nat) (q : List Packet) : (s.setMail ep q).poisonPending = s.poisonPending := rfl
@[simp] theorem State.setMail_banks (s : State) (ep : Nat) (q : List Packet) : (s.setMail ep q).banks = s.banks := rfl
@[simp] theorem State.setMail_flags (s : State) (ep : Nat) (q : List Packet) : (s.setMail ep q).flags = s.flags := rfl
@[simp] theorem State.setMail_parts (s : State) (ep : Nat) (q : List Packet) : (s.setMail ep q).parts = s.parts := rfl
@[simp] theorem State.setMail_partOps (s : State) (ep : Nat) (q : List Packet) : (s.setMail ep q).partOps = s.partOps := rfl
@[simp] theorem State.setMail_transits (s : State) (ep : Nat) (q : List Packet) : (s.setMail ep q).transits = s.transits := rfl
@[simp] theorem State.setMail_loads (s : State) (ep : Nat) (q : List Packet) : (s.setMail ep q).loads = s.loads := rfl
@[simp] theorem State.setMail_tether (s : State) (ep : Nat) (q : List Packet) : (s.setMail ep q).tether = s.tether := rfl
@[simp] theorem State.setMail_rt (s : State) (ep : Nat) (q : List Packet) : (s.setMail ep q).rt = s.rt := rfl
@[simp] theorem State.setMail_su (s : State) (ep : Nat) (q : List Packet) : (s.setMail ep q).su = s.su := rfl
@[simp] theorem State.setMail_rings (s : State) (ep : Nat) (q : List Packet) : (s.setMail ep q).rings = s.rings := rfl
@[simp] theorem State.setMail_pg (s : State) (ep : Nat) (q : List Packet) : (s.setMail ep q).pg = s.pg := rfl
@[simp] theorem State.setMail_qps (s : State) (ep : Nat) (q : List Packet) : (s.setMail ep q).qps = s.qps := rfl
@[simp] theorem State.setMail_dg (s : State) (ep : Nat) (q : List Packet) : (s.setMail ep q).dg = s.dg := rfl
@[simp] theorem State.setMail_sess (s : State) (ep : Nat) (q : List Packet) : (s.setMail ep q).sess = s.sess := rfl
@[simp] theorem State.setMail_stalled (s : State) (ep : Nat) (q : List Packet) : (s.setMail ep q).stalled = s.stalled := rfl
@[simp] theorem State.setMail_neigh (s : State) (ep : Nat) (q : List Packet) : (s.setMail ep q).neigh = s.neigh := rfl
@[simp] theorem State.setMail_mc (s : State) (ep : Nat) (q : List Packet) : (s.setMail ep q).mc = s.mc := rfl
@[simp] theorem State.setMail_sc (s : State) (ep : Nat) (q : List Packet) : (s.setMail ep q).sc = s.sc := rfl
@[simp] theorem State.setMail_ir (s : State) (ep : Nat) (q : List Packet) : (s.setMail ep q).ir = s.ir := rfl
@[simp] theorem State.setMail_out (s : State) (ep : Nat) (q : List Packet) : (s.setMail ep q).out = s.out := rfl
@[simp] theorem State.setMail_rnd (s : State) (ep : Nat) (q : List Packet) : (s.setMail ep q).rnd = s.rnd := rfl
@[simp] theorem State.setMail_free (s : State) (ep : Nat) (q : List Packet) : (s.setMail ep q).free = s.free := rfl

@[simp] theorem State.setWaiting_pending (s : State) (ep : Nat) (q : List Packet) : (s.setWaiting ep q).pending = s.pending := rfl
@[simp] theorem State.setWaiting_fuses (s : State) (ep : Nat) (q : List Packet) : (s.setWaiting ep q).fuses = s.fuses := rfl
@[simp] theorem State.setWaiting_flash (s : State) (ep : Nat) (q : List Packet) : (s.setWaiting ep q).flash = s.flash := rfl
@[simp] theorem State.setWaiting_pwr (s : State) (ep : Nat) (q : List Packet) : (s.setWaiting ep q).pwr = s.pwr := rfl
@[simp] theorem State.setWaiting_regs (s : State) (ep : Nat) (q : List Packet) : (s.setWaiting ep q).regs = s.regs := rfl
@[simp] theorem State.setWaiting_tb (s : State) (ep : Nat) (q : List Packet) : (s.setWaiting ep q).tb = s.tb := rfl
@[simp] theorem State.setWaiting_beat (s : State) (ep : Nat) (q : List Packet) : (s.setWaiting ep q).beat = s.beat := rfl
@[simp] theorem State.setWaiting_cores (s : State) (ep : Nat) (q : List Packet) : (s.setWaiting ep q).cores = s.cores := rfl
@[simp] theorem State.setWaiting_mem (s : State) (ep : Nat) (q : List Packet) : (s.setWaiting ep q).mem = s.mem := rfl
@[simp] theorem State.setWaiting_ecc (s : State) (ep : Nat) (q : List Packet) : (s.setWaiting ep q).ecc = s.ecc := rfl
@[simp] theorem State.setWaiting_poisonPending (s : State) (ep : Nat) (q : List Packet) : (s.setWaiting ep q).poisonPending = s.poisonPending := rfl
@[simp] theorem State.setWaiting_banks (s : State) (ep : Nat) (q : List Packet) : (s.setWaiting ep q).banks = s.banks := rfl
@[simp] theorem State.setWaiting_flags (s : State) (ep : Nat) (q : List Packet) : (s.setWaiting ep q).flags = s.flags := rfl
@[simp] theorem State.setWaiting_parts (s : State) (ep : Nat) (q : List Packet) : (s.setWaiting ep q).parts = s.parts := rfl
@[simp] theorem State.setWaiting_partOps (s : State) (ep : Nat) (q : List Packet) : (s.setWaiting ep q).partOps = s.partOps := rfl
@[simp] theorem State.setWaiting_transits (s : State) (ep : Nat) (q : List Packet) : (s.setWaiting ep q).transits = s.transits := rfl
@[simp] theorem State.setWaiting_loads (s : State) (ep : Nat) (q : List Packet) : (s.setWaiting ep q).loads = s.loads := rfl
@[simp] theorem State.setWaiting_tether (s : State) (ep : Nat) (q : List Packet) : (s.setWaiting ep q).tether = s.tether := rfl
@[simp] theorem State.setWaiting_rt (s : State) (ep : Nat) (q : List Packet) : (s.setWaiting ep q).rt = s.rt := rfl
@[simp] theorem State.setWaiting_su (s : State) (ep : Nat) (q : List Packet) : (s.setWaiting ep q).su = s.su := rfl
@[simp] theorem State.setWaiting_rings (s : State) (ep : Nat) (q : List Packet) : (s.setWaiting ep q).rings = s.rings := rfl
@[simp] theorem State.setWaiting_pg (s : State) (ep : Nat) (q : List Packet) : (s.setWaiting ep q).pg = s.pg := rfl
@[simp] theorem State.setWaiting_qps (s : State) (ep : Nat) (q : List Packet) : (s.setWaiting ep q).qps = s.qps := rfl
@[simp] theorem State.setWaiting_dg (s : State) (ep : Nat) (q : List Packet) : (s.setWaiting ep q).dg = s.dg := rfl
@[simp] theorem State.setWaiting_sess (s : State) (ep : Nat) (q : List Packet) : (s.setWaiting ep q).sess = s.sess := rfl
@[simp] theorem State.setWaiting_stalled (s : State) (ep : Nat) (q : List Packet) : (s.setWaiting ep q).stalled = s.stalled := rfl
@[simp] theorem State.setWaiting_neigh (s : State) (ep : Nat) (q : List Packet) : (s.setWaiting ep q).neigh = s.neigh := rfl
@[simp] theorem State.setWaiting_mc (s : State) (ep : Nat) (q : List Packet) : (s.setWaiting ep q).mc = s.mc := rfl
@[simp] theorem State.setWaiting_sc (s : State) (ep : Nat) (q : List Packet) : (s.setWaiting ep q).sc = s.sc := rfl
@[simp] theorem State.setWaiting_ir (s : State) (ep : Nat) (q : List Packet) : (s.setWaiting ep q).ir = s.ir := rfl
@[simp] theorem State.setWaiting_out (s : State) (ep : Nat) (q : List Packet) : (s.setWaiting ep q).out = s.out := rfl
@[simp] theorem State.setWaiting_rnd (s : State) (ep : Nat) (q : List Packet) : (s.setWaiting ep q).rnd = s.rnd := rfl
@[simp] theorem State.setWaiting_free (s : State) (ep : Nat) (q : List Packet) : (s.setWaiting ep q).free = s.free := rfl

@[simp] theorem State.setOutst_pending (s : State) (ep n : Nat) : (s.setOutst ep n).pending = s.pending := rfl
@[simp] theorem State.setOutst_fuses (s : State) (ep n : Nat) : (s.setOutst ep n).fuses = s.fuses := rfl
@[simp] theorem State.setOutst_flash (s : State) (ep n : Nat) : (s.setOutst ep n).flash = s.flash := rfl
@[simp] theorem State.setOutst_pwr (s : State) (ep n : Nat) : (s.setOutst ep n).pwr = s.pwr := rfl
@[simp] theorem State.setOutst_regs (s : State) (ep n : Nat) : (s.setOutst ep n).regs = s.regs := rfl
@[simp] theorem State.setOutst_tb (s : State) (ep n : Nat) : (s.setOutst ep n).tb = s.tb := rfl
@[simp] theorem State.setOutst_beat (s : State) (ep n : Nat) : (s.setOutst ep n).beat = s.beat := rfl
@[simp] theorem State.setOutst_cores (s : State) (ep n : Nat) : (s.setOutst ep n).cores = s.cores := rfl
@[simp] theorem State.setOutst_mem (s : State) (ep n : Nat) : (s.setOutst ep n).mem = s.mem := rfl
@[simp] theorem State.setOutst_ecc (s : State) (ep n : Nat) : (s.setOutst ep n).ecc = s.ecc := rfl
@[simp] theorem State.setOutst_poisonPending (s : State) (ep n : Nat) : (s.setOutst ep n).poisonPending = s.poisonPending := rfl
@[simp] theorem State.setOutst_banks (s : State) (ep n : Nat) : (s.setOutst ep n).banks = s.banks := rfl
@[simp] theorem State.setOutst_flags (s : State) (ep n : Nat) : (s.setOutst ep n).flags = s.flags := rfl
@[simp] theorem State.setOutst_parts (s : State) (ep n : Nat) : (s.setOutst ep n).parts = s.parts := rfl
@[simp] theorem State.setOutst_partOps (s : State) (ep n : Nat) : (s.setOutst ep n).partOps = s.partOps := rfl
@[simp] theorem State.setOutst_transits (s : State) (ep n : Nat) : (s.setOutst ep n).transits = s.transits := rfl
@[simp] theorem State.setOutst_loads (s : State) (ep n : Nat) : (s.setOutst ep n).loads = s.loads := rfl
@[simp] theorem State.setOutst_tether (s : State) (ep n : Nat) : (s.setOutst ep n).tether = s.tether := rfl
@[simp] theorem State.setOutst_rt (s : State) (ep n : Nat) : (s.setOutst ep n).rt = s.rt := rfl
@[simp] theorem State.setOutst_su (s : State) (ep n : Nat) : (s.setOutst ep n).su = s.su := rfl
@[simp] theorem State.setOutst_rings (s : State) (ep n : Nat) : (s.setOutst ep n).rings = s.rings := rfl
@[simp] theorem State.setOutst_pg (s : State) (ep n : Nat) : (s.setOutst ep n).pg = s.pg := rfl
@[simp] theorem State.setOutst_qps (s : State) (ep n : Nat) : (s.setOutst ep n).qps = s.qps := rfl
@[simp] theorem State.setOutst_dg (s : State) (ep n : Nat) : (s.setOutst ep n).dg = s.dg := rfl
@[simp] theorem State.setOutst_sess (s : State) (ep n : Nat) : (s.setOutst ep n).sess = s.sess := rfl
@[simp] theorem State.setOutst_stalled (s : State) (ep n : Nat) : (s.setOutst ep n).stalled = s.stalled := rfl
@[simp] theorem State.setOutst_neigh (s : State) (ep n : Nat) : (s.setOutst ep n).neigh = s.neigh := rfl
@[simp] theorem State.setOutst_mc (s : State) (ep n : Nat) : (s.setOutst ep n).mc = s.mc := rfl
@[simp] theorem State.setOutst_sc (s : State) (ep n : Nat) : (s.setOutst ep n).sc = s.sc := rfl
@[simp] theorem State.setOutst_ir (s : State) (ep n : Nat) : (s.setOutst ep n).ir = s.ir := rfl
@[simp] theorem State.setOutst_out (s : State) (ep n : Nat) : (s.setOutst ep n).out = s.out := rfl
@[simp] theorem State.setOutst_rnd (s : State) (ep n : Nat) : (s.setOutst ep n).rnd = s.rnd := rfl
@[simp] theorem State.setOutst_free (s : State) (ep n : Nat) : (s.setOutst ep n).free = s.free := rfl

@[simp] theorem State.setRouter_pending (s : State) (px py : Nat) (r : Router) : (s.setRouter px py r).pending = s.pending := rfl
@[simp] theorem State.setRouter_fuses (s : State) (px py : Nat) (r : Router) : (s.setRouter px py r).fuses = s.fuses := rfl
@[simp] theorem State.setRouter_flash (s : State) (px py : Nat) (r : Router) : (s.setRouter px py r).flash = s.flash := rfl
@[simp] theorem State.setRouter_pwr (s : State) (px py : Nat) (r : Router) : (s.setRouter px py r).pwr = s.pwr := rfl
@[simp] theorem State.setRouter_regs (s : State) (px py : Nat) (r : Router) : (s.setRouter px py r).regs = s.regs := rfl
@[simp] theorem State.setRouter_tb (s : State) (px py : Nat) (r : Router) : (s.setRouter px py r).tb = s.tb := rfl
@[simp] theorem State.setRouter_beat (s : State) (px py : Nat) (r : Router) : (s.setRouter px py r).beat = s.beat := rfl
@[simp] theorem State.setRouter_cores (s : State) (px py : Nat) (r : Router) : (s.setRouter px py r).cores = s.cores := rfl
@[simp] theorem State.setRouter_mem (s : State) (px py : Nat) (r : Router) : (s.setRouter px py r).mem = s.mem := rfl
@[simp] theorem State.setRouter_ecc (s : State) (px py : Nat) (r : Router) : (s.setRouter px py r).ecc = s.ecc := rfl
@[simp] theorem State.setRouter_poisonPending (s : State) (px py : Nat) (r : Router) : (s.setRouter px py r).poisonPending = s.poisonPending := rfl
@[simp] theorem State.setRouter_banks (s : State) (px py : Nat) (r : Router) : (s.setRouter px py r).banks = s.banks := rfl
@[simp] theorem State.setRouter_flags (s : State) (px py : Nat) (r : Router) : (s.setRouter px py r).flags = s.flags := rfl
@[simp] theorem State.setRouter_parts (s : State) (px py : Nat) (r : Router) : (s.setRouter px py r).parts = s.parts := rfl
@[simp] theorem State.setRouter_partOps (s : State) (px py : Nat) (r : Router) : (s.setRouter px py r).partOps = s.partOps := rfl
@[simp] theorem State.setRouter_transits (s : State) (px py : Nat) (r : Router) : (s.setRouter px py r).transits = s.transits := rfl
@[simp] theorem State.setRouter_loads (s : State) (px py : Nat) (r : Router) : (s.setRouter px py r).loads = s.loads := rfl
@[simp] theorem State.setRouter_tether (s : State) (px py : Nat) (r : Router) : (s.setRouter px py r).tether = s.tether := rfl
@[simp] theorem State.setRouter_rt (s : State) (px py : Nat) (r : Router) : (s.setRouter px py r).rt = s.rt := rfl
@[simp] theorem State.setRouter_su (s : State) (px py : Nat) (r : Router) : (s.setRouter px py r).su = s.su := rfl
@[simp] theorem State.setRouter_rings (s : State) (px py : Nat) (r : Router) : (s.setRouter px py r).rings = s.rings := rfl
@[simp] theorem State.setRouter_pg (s : State) (px py : Nat) (r : Router) : (s.setRouter px py r).pg = s.pg := rfl
@[simp] theorem State.setRouter_qps (s : State) (px py : Nat) (r : Router) : (s.setRouter px py r).qps = s.qps := rfl
@[simp] theorem State.setRouter_dg (s : State) (px py : Nat) (r : Router) : (s.setRouter px py r).dg = s.dg := rfl
@[simp] theorem State.setRouter_sess (s : State) (px py : Nat) (r : Router) : (s.setRouter px py r).sess = s.sess := rfl
@[simp] theorem State.setRouter_stalled (s : State) (px py : Nat) (r : Router) : (s.setRouter px py r).stalled = s.stalled := rfl
@[simp] theorem State.setRouter_neigh (s : State) (px py : Nat) (r : Router) : (s.setRouter px py r).neigh = s.neigh := rfl
@[simp] theorem State.setRouter_mc (s : State) (px py : Nat) (r : Router) : (s.setRouter px py r).mc = s.mc := rfl
@[simp] theorem State.setRouter_sc (s : State) (px py : Nat) (r : Router) : (s.setRouter px py r).sc = s.sc := rfl
@[simp] theorem State.setRouter_ir (s : State) (px py : Nat) (r : Router) : (s.setRouter px py r).ir = s.ir := rfl
@[simp] theorem State.setRouter_out (s : State) (px py : Nat) (r : Router) : (s.setRouter px py r).out = s.out := rfl
@[simp] theorem State.setRouter_rnd (s : State) (px py : Nat) (r : Router) : (s.setRouter px py r).rnd = s.rnd := rfl
@[simp] theorem State.setRouter_free (s : State) (px py : Nat) (r : Router) : (s.setRouter px py r).free = s.free := rfl

@[simp] theorem State.setSu_pending (s : State) (n : Fin 4) (u : Su) : (s.setSu n u).pending = s.pending := rfl
@[simp] theorem State.setSu_fuses (s : State) (n : Fin 4) (u : Su) : (s.setSu n u).fuses = s.fuses := rfl
@[simp] theorem State.setSu_flash (s : State) (n : Fin 4) (u : Su) : (s.setSu n u).flash = s.flash := rfl
@[simp] theorem State.setSu_pwr (s : State) (n : Fin 4) (u : Su) : (s.setSu n u).pwr = s.pwr := rfl
@[simp] theorem State.setSu_regs (s : State) (n : Fin 4) (u : Su) : (s.setSu n u).regs = s.regs := rfl
@[simp] theorem State.setSu_tb (s : State) (n : Fin 4) (u : Su) : (s.setSu n u).tb = s.tb := rfl
@[simp] theorem State.setSu_beat (s : State) (n : Fin 4) (u : Su) : (s.setSu n u).beat = s.beat := rfl
@[simp] theorem State.setSu_cores (s : State) (n : Fin 4) (u : Su) : (s.setSu n u).cores = s.cores := rfl
@[simp] theorem State.setSu_mem (s : State) (n : Fin 4) (u : Su) : (s.setSu n u).mem = s.mem := rfl
@[simp] theorem State.setSu_ecc (s : State) (n : Fin 4) (u : Su) : (s.setSu n u).ecc = s.ecc := rfl
@[simp] theorem State.setSu_poisonPending (s : State) (n : Fin 4) (u : Su) : (s.setSu n u).poisonPending = s.poisonPending := rfl
@[simp] theorem State.setSu_banks (s : State) (n : Fin 4) (u : Su) : (s.setSu n u).banks = s.banks := rfl
@[simp] theorem State.setSu_flags (s : State) (n : Fin 4) (u : Su) : (s.setSu n u).flags = s.flags := rfl
@[simp] theorem State.setSu_parts (s : State) (n : Fin 4) (u : Su) : (s.setSu n u).parts = s.parts := rfl
@[simp] theorem State.setSu_partOps (s : State) (n : Fin 4) (u : Su) : (s.setSu n u).partOps = s.partOps := rfl
@[simp] theorem State.setSu_transits (s : State) (n : Fin 4) (u : Su) : (s.setSu n u).transits = s.transits := rfl
@[simp] theorem State.setSu_loads (s : State) (n : Fin 4) (u : Su) : (s.setSu n u).loads = s.loads := rfl
@[simp] theorem State.setSu_tether (s : State) (n : Fin 4) (u : Su) : (s.setSu n u).tether = s.tether := rfl
@[simp] theorem State.setSu_drift (s : State) (n : Fin 4) (u : Su) : (s.setSu n u).drift = s.drift := rfl
@[simp] theorem State.setSu_rt (s : State) (n : Fin 4) (u : Su) : (s.setSu n u).rt = s.rt := rfl
@[simp] theorem State.setSu_rings (s : State) (n : Fin 4) (u : Su) : (s.setSu n u).rings = s.rings := rfl
@[simp] theorem State.setSu_pg (s : State) (n : Fin 4) (u : Su) : (s.setSu n u).pg = s.pg := rfl
@[simp] theorem State.setSu_qps (s : State) (n : Fin 4) (u : Su) : (s.setSu n u).qps = s.qps := rfl
@[simp] theorem State.setSu_dg (s : State) (n : Fin 4) (u : Su) : (s.setSu n u).dg = s.dg := rfl
@[simp] theorem State.setSu_sess (s : State) (n : Fin 4) (u : Su) : (s.setSu n u).sess = s.sess := rfl
@[simp] theorem State.setSu_stalled (s : State) (n : Fin 4) (u : Su) : (s.setSu n u).stalled = s.stalled := rfl
@[simp] theorem State.setSu_neigh (s : State) (n : Fin 4) (u : Su) : (s.setSu n u).neigh = s.neigh := rfl
@[simp] theorem State.setSu_mc (s : State) (n : Fin 4) (u : Su) : (s.setSu n u).mc = s.mc := rfl
@[simp] theorem State.setSu_sc (s : State) (n : Fin 4) (u : Su) : (s.setSu n u).sc = s.sc := rfl
@[simp] theorem State.setSu_ir (s : State) (n : Fin 4) (u : Su) : (s.setSu n u).ir = s.ir := rfl
@[simp] theorem State.setSu_out (s : State) (n : Fin 4) (u : Su) : (s.setSu n u).out = s.out := rfl
@[simp] theorem State.setSu_rnd (s : State) (n : Fin 4) (u : Su) : (s.setSu n u).rnd = s.rnd := rfl
@[simp] theorem State.setSu_free (s : State) (n : Fin 4) (u : Su) : (s.setSu n u).free = s.free := rfl

@[simp] theorem State.gather_pending (s : State) (code unit eng part core : Nat) (arg : Word) : (s.gather code unit eng part core arg).pending = s.pending := rfl
@[simp] theorem State.gather_fuses (s : State) (code unit eng part core : Nat) (arg : Word) : (s.gather code unit eng part core arg).fuses = s.fuses := rfl
@[simp] theorem State.gather_flash (s : State) (code unit eng part core : Nat) (arg : Word) : (s.gather code unit eng part core arg).flash = s.flash := rfl
@[simp] theorem State.gather_pwr (s : State) (code unit eng part core : Nat) (arg : Word) : (s.gather code unit eng part core arg).pwr = s.pwr := rfl
@[simp] theorem State.gather_regs (s : State) (code unit eng part core : Nat) (arg : Word) : (s.gather code unit eng part core arg).regs = s.regs := rfl
@[simp] theorem State.gather_tb (s : State) (code unit eng part core : Nat) (arg : Word) : (s.gather code unit eng part core arg).tb = s.tb := rfl
@[simp] theorem State.gather_beat (s : State) (code unit eng part core : Nat) (arg : Word) : (s.gather code unit eng part core arg).beat = s.beat := rfl
@[simp] theorem State.gather_cores (s : State) (code unit eng part core : Nat) (arg : Word) : (s.gather code unit eng part core arg).cores = s.cores := rfl
@[simp] theorem State.gather_mem (s : State) (code unit eng part core : Nat) (arg : Word) : (s.gather code unit eng part core arg).mem = s.mem := rfl
@[simp] theorem State.gather_ecc (s : State) (code unit eng part core : Nat) (arg : Word) : (s.gather code unit eng part core arg).ecc = s.ecc := rfl
@[simp] theorem State.gather_poisonPending (s : State) (code unit eng part core : Nat) (arg : Word) : (s.gather code unit eng part core arg).poisonPending = s.poisonPending := rfl
@[simp] theorem State.gather_banks (s : State) (code unit eng part core : Nat) (arg : Word) : (s.gather code unit eng part core arg).banks = s.banks := rfl
@[simp] theorem State.gather_flags (s : State) (code unit eng part core : Nat) (arg : Word) : (s.gather code unit eng part core arg).flags = s.flags := rfl
@[simp] theorem State.gather_parts (s : State) (code unit eng part core : Nat) (arg : Word) : (s.gather code unit eng part core arg).parts = s.parts := rfl
@[simp] theorem State.gather_partOps (s : State) (code unit eng part core : Nat) (arg : Word) : (s.gather code unit eng part core arg).partOps = s.partOps := rfl
@[simp] theorem State.gather_transits (s : State) (code unit eng part core : Nat) (arg : Word) : (s.gather code unit eng part core arg).transits = s.transits := rfl
@[simp] theorem State.gather_loads (s : State) (code unit eng part core : Nat) (arg : Word) : (s.gather code unit eng part core arg).loads = s.loads := rfl
@[simp] theorem State.gather_tether (s : State) (code unit eng part core : Nat) (arg : Word) : (s.gather code unit eng part core arg).tether = s.tether := rfl
@[simp] theorem State.gather_drift (s : State) (code unit eng part core : Nat) (arg : Word) : (s.gather code unit eng part core arg).drift = s.drift := rfl
@[simp] theorem State.gather_rt (s : State) (code unit eng part core : Nat) (arg : Word) : (s.gather code unit eng part core arg).rt = s.rt := rfl
@[simp] theorem State.gather_su (s : State) (code unit eng part core : Nat) (arg : Word) : (s.gather code unit eng part core arg).su = s.su := rfl
@[simp] theorem State.gather_rings (s : State) (code unit eng part core : Nat) (arg : Word) : (s.gather code unit eng part core arg).rings = s.rings := rfl
@[simp] theorem State.gather_pg (s : State) (code unit eng part core : Nat) (arg : Word) : (s.gather code unit eng part core arg).pg = s.pg := rfl
@[simp] theorem State.gather_qps (s : State) (code unit eng part core : Nat) (arg : Word) : (s.gather code unit eng part core arg).qps = s.qps := rfl
@[simp] theorem State.gather_dg (s : State) (code unit eng part core : Nat) (arg : Word) : (s.gather code unit eng part core arg).dg = s.dg := rfl
@[simp] theorem State.gather_sess (s : State) (code unit eng part core : Nat) (arg : Word) : (s.gather code unit eng part core arg).sess = s.sess := rfl
@[simp] theorem State.gather_stalled (s : State) (code unit eng part core : Nat) (arg : Word) : (s.gather code unit eng part core arg).stalled = s.stalled := rfl
@[simp] theorem State.gather_neigh (s : State) (code unit eng part core : Nat) (arg : Word) : (s.gather code unit eng part core arg).neigh = s.neigh := rfl
@[simp] theorem State.gather_mc (s : State) (code unit eng part core : Nat) (arg : Word) : (s.gather code unit eng part core arg).mc = s.mc := rfl
@[simp] theorem State.gather_ir (s : State) (code unit eng part core : Nat) (arg : Word) : (s.gather code unit eng part core arg).ir = s.ir := rfl
@[simp] theorem State.gather_out (s : State) (code unit eng part core : Nat) (arg : Word) : (s.gather code unit eng part core arg).out = s.out := rfl
@[simp] theorem State.gather_rnd (s : State) (code unit eng part core : Nat) (arg : Word) : (s.gather code unit eng part core arg).rnd = s.rnd := rfl
@[simp] theorem State.gather_free (s : State) (code unit eng part core : Nat) (arg : Word) : (s.gather code unit eng part core arg).free = s.free := rfl

@[simp] theorem State.failBeat_pending (s : State) : (s.failBeat ).pending = s.pending := rfl
@[simp] theorem State.failBeat_fuses (s : State) : (s.failBeat ).fuses = s.fuses := rfl
@[simp] theorem State.failBeat_flash (s : State) : (s.failBeat ).flash = s.flash := rfl
@[simp] theorem State.failBeat_pwr (s : State) : (s.failBeat ).pwr = s.pwr := rfl
@[simp] theorem State.failBeat_regs (s : State) : (s.failBeat ).regs = s.regs := rfl
@[simp] theorem State.failBeat_tb (s : State) : (s.failBeat ).tb = s.tb := rfl
@[simp] theorem State.failBeat_cores (s : State) : (s.failBeat ).cores = s.cores := rfl
@[simp] theorem State.failBeat_mem (s : State) : (s.failBeat ).mem = s.mem := rfl
@[simp] theorem State.failBeat_ecc (s : State) : (s.failBeat ).ecc = s.ecc := rfl
@[simp] theorem State.failBeat_poisonPending (s : State) : (s.failBeat ).poisonPending = s.poisonPending := rfl
@[simp] theorem State.failBeat_banks (s : State) : (s.failBeat ).banks = s.banks := rfl
@[simp] theorem State.failBeat_flags (s : State) : (s.failBeat ).flags = s.flags := rfl
@[simp] theorem State.failBeat_parts (s : State) : (s.failBeat ).parts = s.parts := rfl
@[simp] theorem State.failBeat_partOps (s : State) : (s.failBeat ).partOps = s.partOps := rfl
@[simp] theorem State.failBeat_transits (s : State) : (s.failBeat ).transits = s.transits := rfl
@[simp] theorem State.failBeat_loads (s : State) : (s.failBeat ).loads = s.loads := rfl
@[simp] theorem State.failBeat_tether (s : State) : (s.failBeat ).tether = s.tether := rfl
@[simp] theorem State.failBeat_drift (s : State) : (s.failBeat ).drift = s.drift := rfl
@[simp] theorem State.failBeat_rt (s : State) : (s.failBeat ).rt = s.rt := rfl
@[simp] theorem State.failBeat_su (s : State) : (s.failBeat ).su = s.su := rfl
@[simp] theorem State.failBeat_rings (s : State) : (s.failBeat ).rings = s.rings := rfl
@[simp] theorem State.failBeat_pg (s : State) : (s.failBeat ).pg = s.pg := rfl
@[simp] theorem State.failBeat_qps (s : State) : (s.failBeat ).qps = s.qps := rfl
@[simp] theorem State.failBeat_dg (s : State) : (s.failBeat ).dg = s.dg := rfl
@[simp] theorem State.failBeat_sess (s : State) : (s.failBeat ).sess = s.sess := rfl
@[simp] theorem State.failBeat_stalled (s : State) : (s.failBeat ).stalled = s.stalled := rfl
@[simp] theorem State.failBeat_neigh (s : State) : (s.failBeat ).neigh = s.neigh := rfl
@[simp] theorem State.failBeat_mc (s : State) : (s.failBeat ).mc = s.mc := rfl
@[simp] theorem State.failBeat_sc (s : State) : (s.failBeat ).sc = s.sc := rfl
@[simp] theorem State.failBeat_ir (s : State) : (s.failBeat ).ir = s.ir := rfl
@[simp] theorem State.failBeat_out (s : State) : (s.failBeat ).out = s.out := rfl
@[simp] theorem State.failBeat_rnd (s : State) : (s.failBeat ).rnd = s.rnd := rfl
@[simp] theorem State.failBeat_free (s : State) : (s.failBeat ).free = s.free := rfl

/-! ### Readers of another map -/

@[simp] theorem State.core_wr_other (s : State) (a' : Nat) (v' : Word) (c : Nat) : (s.wr a' v').core c = s.core c := rfl
@[simp] theorem State.part_wr_other (s : State) (a' : Nat) (v' : Word) (p : Nat) : (s.wr a' v').part p = s.part p := rfl
@[simp] theorem State.memGet_wr_other (s : State) (a' : Nat) (v' : Word) (g : Nat) : (s.wr a' v').memGet g = s.memGet g := rfl

@[simp] theorem State.core_wrF_other (s : State) (a' : Nat) (lsb' : Nat) (len' : Nat) (v' : Nat) (c : Nat) : (s.wrF a' lsb' len' v').core c = s.core c := rfl
@[simp] theorem State.part_wrF_other (s : State) (a' : Nat) (lsb' : Nat) (len' : Nat) (v' : Nat) (p : Nat) : (s.wrF a' lsb' len' v').part p = s.part p := rfl
@[simp] theorem State.memGet_wrF_other (s : State) (a' : Nat) (lsb' : Nat) (len' : Nat) (v' : Nat) (g : Nat) : (s.wrF a' lsb' len' v').memGet g = s.memGet g := rfl

@[simp] theorem State.core_setBit_other (s : State) (a' : Nat) (n' : Nat) (c : Nat) : (s.setBit a' n').core c = s.core c := rfl
@[simp] theorem State.part_setBit_other (s : State) (a' : Nat) (n' : Nat) (p : Nat) : (s.setBit a' n').part p = s.part p := rfl
@[simp] theorem State.memGet_setBit_other (s : State) (a' : Nat) (n' : Nat) (g : Nat) : (s.setBit a' n').memGet g = s.memGet g := rfl

@[simp] theorem State.core_clrBit_other (s : State) (a' : Nat) (n' : Nat) (c : Nat) : (s.clrBit a' n').core c = s.core c := rfl
@[simp] theorem State.part_clrBit_other (s : State) (a' : Nat) (n' : Nat) (p : Nat) : (s.clrBit a' n').part p = s.part p := rfl
@[simp] theorem State.memGet_clrBit_other (s : State) (a' : Nat) (n' : Nat) (g : Nat) : (s.clrBit a' n').memGet g = s.memGet g := rfl

@[simp] theorem State.core_bump_other (s : State) (a' : Nat) (c : Nat) : (s.bump a').core c = s.core c := rfl
@[simp] theorem State.part_bump_other (s : State) (a' : Nat) (p : Nat) : (s.bump a').part p = s.part p := rfl
@[simp] theorem State.memGet_bump_other (s : State) (a' : Nat) (g : Nat) : (s.bump a').memGet g = s.memGet g := rfl

@[simp] theorem State.rd_setCore_other (s : State) (c' : Nat) (k' : Core) (a : Nat) : (s.setCore c' k').rd a = s.rd a := rfl
@[simp] theorem State.part_setCore_other (s : State) (c' : Nat) (k' : Core) (p : Nat) : (s.setCore c' k').part p = s.part p := rfl
@[simp] theorem State.memGet_setCore_other (s : State) (c' : Nat) (k' : Core) (g : Nat) : (s.setCore c' k').memGet g = s.memGet g := rfl

@[simp] theorem State.rd_updCore_other (s : State) (c' : Nat) (f' : Core → Core) (a : Nat) : (s.updCore c' f').rd a = s.rd a := rfl
@[simp] theorem State.part_updCore_other (s : State) (c' : Nat) (f' : Core → Core) (p : Nat) : (s.updCore c' f').part p = s.part p := rfl
@[simp] theorem State.memGet_updCore_other (s : State) (c' : Nat) (f' : Core → Core) (g : Nat) : (s.updCore c' f').memGet g = s.memGet g := rfl

@[simp] theorem State.rd_updSq_other (s : State) (c' : Nat) (f' : Sq → Sq) (a : Nat) : (s.updSq c' f').rd a = s.rd a := rfl
@[simp] theorem State.part_updSq_other (s : State) (c' : Nat) (f' : Sq → Sq) (p : Nat) : (s.updSq c' f').part p = s.part p := rfl
@[simp] theorem State.memGet_updSq_other (s : State) (c' : Nat) (f' : Sq → Sq) (g : Nat) : (s.updSq c' f').memGet g = s.memGet g := rfl

@[simp] theorem State.rd_pastCmd_other (s : State) (h' : Hdr) (a : Nat) : (s.pastCmd h').rd a = s.rd a := rfl
@[simp] theorem State.part_pastCmd_other (s : State) (h' : Hdr) (p : Nat) : (s.pastCmd h').part p = s.part p := rfl
@[simp] theorem State.memGet_pastCmd_other (s : State) (h' : Hdr) (g : Nat) : (s.pastCmd h').memGet g = s.memGet g := rfl

@[simp] theorem State.rd_sqDo_other (s : State) (h' : Hdr) (f' : Sq → Sq) (a : Nat) : (s.sqDo h' f').rd a = s.rd a := rfl
@[simp] theorem State.part_sqDo_other (s : State) (h' : Hdr) (f' : Sq → Sq) (p : Nat) : (s.sqDo h' f').part p = s.part p := rfl
@[simp] theorem State.memGet_sqDo_other (s : State) (h' : Hdr) (f' : Sq → Sq) (g : Nat) : (s.sqDo h' f').memGet g = s.memGet g := rfl

@[simp] theorem State.rd_setPart_other (s : State) (p' : Nat) (q' : Part) (a : Nat) : (s.setPart p' q').rd a = s.rd a := rfl
@[simp] theorem State.core_setPart_other (s : State) (p' : Nat) (q' : Part) (c : Nat) : (s.setPart p' q').core c = s.core c := rfl
@[simp] theorem State.memGet_setPart_other (s : State) (p' : Nat) (q' : Part) (g : Nat) : (s.setPart p' q').memGet g = s.memGet g := rfl

@[simp] theorem State.rd_updPart_other (s : State) (p' : Nat) (f' : Part → Part) (a : Nat) : (s.updPart p' f').rd a = s.rd a := rfl
@[simp] theorem State.core_updPart_other (s : State) (p' : Nat) (f' : Part → Part) (c : Nat) : (s.updPart p' f').core c = s.core c := rfl
@[simp] theorem State.memGet_updPart_other (s : State) (p' : Nat) (f' : Part → Part) (g : Nat) : (s.updPart p' f').memGet g = s.memGet g := rfl

@[simp] theorem State.rd_setEcc_other (s : State) (g' : Nat) (e' : Ecc) (a : Nat) : (s.setEcc g' e').rd a = s.rd a := rfl
@[simp] theorem State.core_setEcc_other (s : State) (g' : Nat) (e' : Ecc) (c : Nat) : (s.setEcc g' e').core c = s.core c := rfl
@[simp] theorem State.part_setEcc_other (s : State) (g' : Nat) (e' : Ecc) (p : Nat) : (s.setEcc g' e').part p = s.part p := rfl
@[simp] theorem State.memGet_setEcc_other (s : State) (g' : Nat) (e' : Ecc) (g : Nat) : (s.setEcc g' e').memGet g = s.memGet g := rfl

@[simp] theorem State.rd_setBank_other (s : State) (c' : Nat) (b' : Nat) (k' : Bank) (a : Nat) : (s.setBank c' b' k').rd a = s.rd a := rfl
@[simp] theorem State.core_setBank_other (s : State) (c' : Nat) (b' : Nat) (k' : Bank) (c : Nat) : (s.setBank c' b' k').core c = s.core c := rfl
@[simp] theorem State.part_setBank_other (s : State) (c' : Nat) (b' : Nat) (k' : Bank) (p : Nat) : (s.setBank c' b' k').part p = s.part p := rfl
@[simp] theorem State.memGet_setBank_other (s : State) (c' : Nat) (b' : Nat) (k' : Bank) (g : Nat) : (s.setBank c' b' k').memGet g = s.memGet g := rfl

@[simp] theorem State.rd_memSet_other (s : State) (g' : Nat) (b' : Byte) (a : Nat) : (s.memSet g' b').rd a = s.rd a := rfl
@[simp] theorem State.core_memSet_other (s : State) (g' : Nat) (b' : Byte) (c : Nat) : (s.memSet g' b').core c = s.core c := rfl
@[simp] theorem State.part_memSet_other (s : State) (g' : Nat) (b' : Byte) (p : Nat) : (s.memSet g' b').part p = s.part p := rfl

@[simp] theorem State.rd_setPg_other (s : State) (p' : Nat) (q' : PgPart) (a : Nat) : (s.setPg p' q').rd a = s.rd a := rfl
@[simp] theorem State.core_setPg_other (s : State) (p' : Nat) (q' : PgPart) (c : Nat) : (s.setPg p' q').core c = s.core c := rfl
@[simp] theorem State.part_setPg_other (s : State) (p' : Nat) (q' : PgPart) (p : Nat) : (s.setPg p' q').part p = s.part p := rfl
@[simp] theorem State.memGet_setPg_other (s : State) (p' : Nat) (q' : PgPart) (g : Nat) : (s.setPg p' q').memGet g = s.memGet g := rfl

@[simp] theorem State.rd_setQp_other (s : State) (k' : Nat) (x' : Qp) (a : Nat) : (s.setQp k' x').rd a = s.rd a := rfl
@[simp] theorem State.core_setQp_other (s : State) (k' : Nat) (x' : Qp) (c : Nat) : (s.setQp k' x').core c = s.core c := rfl
@[simp] theorem State.part_setQp_other (s : State) (k' : Nat) (x' : Qp) (p : Nat) : (s.setQp k' x').part p = s.part p := rfl
@[simp] theorem State.memGet_setQp_other (s : State) (k' : Nat) (x' : Qp) (g : Nat) : (s.setQp k' x').memGet g = s.memGet g := rfl

@[simp] theorem State.rd_setFlag_other (s : State) (f' : Nat) (v' : Word) (a : Nat) : (s.setFlag f' v').rd a = s.rd a := rfl
@[simp] theorem State.core_setFlag_other (s : State) (f' : Nat) (v' : Word) (c : Nat) : (s.setFlag f' v').core c = s.core c := rfl
@[simp] theorem State.part_setFlag_other (s : State) (f' : Nat) (v' : Word) (p : Nat) : (s.setFlag f' v').part p = s.part p := rfl
@[simp] theorem State.memGet_setFlag_other (s : State) (f' : Nat) (v' : Word) (g : Nat) : (s.setFlag f' v').memGet g = s.memGet g := rfl

@[simp] theorem State.rd_setEnt_other (s : State) (i' : Nat) (e' : Ent) (a : Nat) : (s.setEnt i' e').rd a = s.rd a := rfl
@[simp] theorem State.core_setEnt_other (s : State) (i' : Nat) (e' : Ent) (c : Nat) : (s.setEnt i' e').core c = s.core c := rfl
@[simp] theorem State.part_setEnt_other (s : State) (i' : Nat) (e' : Ent) (p : Nat) : (s.setEnt i' e').part p = s.part p := rfl
@[simp] theorem State.memGet_setEnt_other (s : State) (i' : Nat) (e' : Ent) (g : Nat) : (s.setEnt i' e').memGet g = s.memGet g := rfl

@[simp] theorem State.rd_updEnt_other (s : State) (i' : Nat) (f' : Ent → Ent) (a : Nat) : (s.updEnt i' f').rd a = s.rd a := rfl
@[simp] theorem State.core_updEnt_other (s : State) (i' : Nat) (f' : Ent → Ent) (c : Nat) : (s.updEnt i' f').core c = s.core c := rfl
@[simp] theorem State.part_updEnt_other (s : State) (i' : Nat) (f' : Ent → Ent) (p : Nat) : (s.updEnt i' f').part p = s.part p := rfl
@[simp] theorem State.memGet_updEnt_other (s : State) (i' : Nat) (f' : Ent → Ent) (g : Nat) : (s.updEnt i' f').memGet g = s.memGet g := rfl

@[simp] theorem State.rd_setCli_other (s : State) (i' : Nat) (c' : Cli) (a : Nat) : (s.setCli i' c').rd a = s.rd a := rfl
@[simp] theorem State.core_setCli_other (s : State) (i' : Nat) (c' : Cli) (c : Nat) : (s.setCli i' c').core c = s.core c := rfl
@[simp] theorem State.part_setCli_other (s : State) (i' : Nat) (c' : Cli) (p : Nat) : (s.setCli i' c').part p = s.part p := rfl
@[simp] theorem State.memGet_setCli_other (s : State) (i' : Nat) (c' : Cli) (g : Nat) : (s.setCli i' c').memGet g = s.memGet g := rfl

@[simp] theorem State.rd_setRing_other (s : State) (n' : Nat) (r' : List RingCmd) (a : Nat) : (s.setRing n' r').rd a = s.rd a := rfl
@[simp] theorem State.core_setRing_other (s : State) (n' : Nat) (r' : List RingCmd) (c : Nat) : (s.setRing n' r').core c = s.core c := rfl
@[simp] theorem State.part_setRing_other (s : State) (n' : Nat) (r' : List RingCmd) (p : Nat) : (s.setRing n' r').part p = s.part p := rfl
@[simp] theorem State.memGet_setRing_other (s : State) (n' : Nat) (r' : List RingCmd) (g : Nat) : (s.setRing n' r').memGet g = s.memGet g := rfl

@[simp] theorem State.rd_setSess_other (s : State) (i' : Nat) (x' : Option Sess) (a : Nat) : (s.setSess i' x').rd a = s.rd a := rfl
@[simp] theorem State.core_setSess_other (s : State) (i' : Nat) (x' : Option Sess) (c : Nat) : (s.setSess i' x').core c = s.core c := rfl
@[simp] theorem State.part_setSess_other (s : State) (i' : Nat) (x' : Option Sess) (p : Nat) : (s.setSess i' x').part p = s.part p := rfl
@[simp] theorem State.memGet_setSess_other (s : State) (i' : Nat) (x' : Option Sess) (g : Nat) : (s.setSess i' x').memGet g = s.memGet g := rfl

@[simp] theorem State.rd_setPort_other (s : State) (p' : Fin 8) (x' : TPort) (a : Nat) : (s.setPort p' x').rd a = s.rd a := rfl
@[simp] theorem State.core_setPort_other (s : State) (p' : Fin 8) (x' : TPort) (c : Nat) : (s.setPort p' x').core c = s.core c := rfl
@[simp] theorem State.part_setPort_other (s : State) (p' : Fin 8) (x' : TPort) (p : Nat) : (s.setPort p' x').part p = s.part p := rfl
@[simp] theorem State.memGet_setPort_other (s : State) (p' : Fin 8) (x' : TPort) (g : Nat) : (s.setPort p' x').memGet g = s.memGet g := rfl

@[simp] theorem State.rd_updPort_other (s : State) (p' : Fin 8) (f' : TPort → TPort) (a : Nat) : (s.updPort p' f').rd a = s.rd a := rfl
@[simp] theorem State.core_updPort_other (s : State) (p' : Fin 8) (f' : TPort → TPort) (c : Nat) : (s.updPort p' f').core c = s.core c := rfl
@[simp] theorem State.part_updPort_other (s : State) (p' : Fin 8) (f' : TPort → TPort) (p : Nat) : (s.updPort p' f').part p = s.part p := rfl
@[simp] theorem State.memGet_updPort_other (s : State) (p' : Fin 8) (f' : TPort → TPort) (g : Nat) : (s.updPort p' f').memGet g = s.memGet g := rfl

@[simp] theorem State.rd_updJoin_other (s : State) (f' : Join → Join) (a : Nat) : (s.updJoin f').rd a = s.rd a := rfl
@[simp] theorem State.core_updJoin_other (s : State) (f' : Join → Join) (c : Nat) : (s.updJoin f').core c = s.core c := rfl
@[simp] theorem State.part_updJoin_other (s : State) (f' : Join → Join) (p : Nat) : (s.updJoin f').part p = s.part p := rfl
@[simp] theorem State.memGet_updJoin_other (s : State) (f' : Join → Join) (g : Nat) : (s.updJoin f').memGet g = s.memGet g := rfl

@[simp] theorem State.rd_setLegIn_other (s : State) (n' : Nat) (q' : List Flit) (a : Nat) : (s.setLegIn n' q').rd a = s.rd a := rfl
@[simp] theorem State.core_setLegIn_other (s : State) (n' : Nat) (q' : List Flit) (c : Nat) : (s.setLegIn n' q').core c = s.core c := rfl
@[simp] theorem State.part_setLegIn_other (s : State) (n' : Nat) (q' : List Flit) (p : Nat) : (s.setLegIn n' q').part p = s.part p := rfl
@[simp] theorem State.memGet_setLegIn_other (s : State) (n' : Nat) (q' : List Flit) (g : Nat) : (s.setLegIn n' q').memGet g = s.memGet g := rfl

@[simp] theorem State.rd_setLegOut_other (s : State) (n' : Nat) (q' : List Flit) (a : Nat) : (s.setLegOut n' q').rd a = s.rd a := rfl
@[simp] theorem State.core_setLegOut_other (s : State) (n' : Nat) (q' : List Flit) (c : Nat) : (s.setLegOut n' q').core c = s.core c := rfl
@[simp] theorem State.part_setLegOut_other (s : State) (n' : Nat) (q' : List Flit) (p : Nat) : (s.setLegOut n' q').part p = s.part p := rfl
@[simp] theorem State.memGet_setLegOut_other (s : State) (n' : Nat) (q' : List Flit) (g : Nat) : (s.setLegOut n' q').memGet g = s.memGet g := rfl

@[simp] theorem State.rd_setMail_other (s : State) (ep' : Nat) (q' : List Packet) (a : Nat) : (s.setMail ep' q').rd a = s.rd a := rfl
@[simp] theorem State.core_setMail_other (s : State) (ep' : Nat) (q' : List Packet) (c : Nat) : (s.setMail ep' q').core c = s.core c := rfl
@[simp] theorem State.part_setMail_other (s : State) (ep' : Nat) (q' : List Packet) (p : Nat) : (s.setMail ep' q').part p = s.part p := rfl
@[simp] theorem State.memGet_setMail_other (s : State) (ep' : Nat) (q' : List Packet) (g : Nat) : (s.setMail ep' q').memGet g = s.memGet g := rfl

@[simp] theorem State.rd_setWaiting_other (s : State) (ep' : Nat) (q' : List Packet) (a : Nat) : (s.setWaiting ep' q').rd a = s.rd a := rfl
@[simp] theorem State.core_setWaiting_other (s : State) (ep' : Nat) (q' : List Packet) (c : Nat) : (s.setWaiting ep' q').core c = s.core c := rfl
@[simp] theorem State.part_setWaiting_other (s : State) (ep' : Nat) (q' : List Packet) (p : Nat) : (s.setWaiting ep' q').part p = s.part p := rfl
@[simp] theorem State.memGet_setWaiting_other (s : State) (ep' : Nat) (q' : List Packet) (g : Nat) : (s.setWaiting ep' q').memGet g = s.memGet g := rfl

@[simp] theorem State.rd_setOutst_other (s : State) (ep' : Nat) (n' : Nat) (a : Nat) : (s.setOutst ep' n').rd a = s.rd a := rfl
@[simp] theorem State.core_setOutst_other (s : State) (ep' : Nat) (n' : Nat) (c : Nat) : (s.setOutst ep' n').core c = s.core c := rfl
@[simp] theorem State.part_setOutst_other (s : State) (ep' : Nat) (n' : Nat) (p : Nat) : (s.setOutst ep' n').part p = s.part p := rfl
@[simp] theorem State.memGet_setOutst_other (s : State) (ep' : Nat) (n' : Nat) (g : Nat) : (s.setOutst ep' n').memGet g = s.memGet g := rfl

@[simp] theorem State.rd_setRouter_other (s : State) (px' : Nat) (py' : Nat) (r' : Router) (a : Nat) : (s.setRouter px' py' r').rd a = s.rd a := rfl
@[simp] theorem State.core_setRouter_other (s : State) (px' : Nat) (py' : Nat) (r' : Router) (c : Nat) : (s.setRouter px' py' r').core c = s.core c := rfl
@[simp] theorem State.part_setRouter_other (s : State) (px' : Nat) (py' : Nat) (r' : Router) (p : Nat) : (s.setRouter px' py' r').part p = s.part p := rfl
@[simp] theorem State.memGet_setRouter_other (s : State) (px' : Nat) (py' : Nat) (r' : Router) (g : Nat) : (s.setRouter px' py' r').memGet g = s.memGet g := rfl

@[simp] theorem State.rd_setSu_other (s : State) (n' : Fin 4) (u' : Su) (a : Nat) : (s.setSu n' u').rd a = s.rd a := rfl
@[simp] theorem State.core_setSu_other (s : State) (n' : Fin 4) (u' : Su) (c : Nat) : (s.setSu n' u').core c = s.core c := rfl
@[simp] theorem State.part_setSu_other (s : State) (n' : Fin 4) (u' : Su) (p : Nat) : (s.setSu n' u').part p = s.part p := rfl
@[simp] theorem State.memGet_setSu_other (s : State) (n' : Fin 4) (u' : Su) (g : Nat) : (s.setSu n' u').memGet g = s.memGet g := rfl

@[simp] theorem State.rd_gather_other (s : State) (code' : Nat) (unit' : Nat) (eng' : Nat) (part' : Nat) (core' : Nat) (arg' : Word) (a : Nat) : (s.gather code' unit' eng' part' core' arg').rd a = s.rd a := rfl
@[simp] theorem State.core_gather_other (s : State) (code' : Nat) (unit' : Nat) (eng' : Nat) (part' : Nat) (core' : Nat) (arg' : Word) (c : Nat) : (s.gather code' unit' eng' part' core' arg').core c = s.core c := rfl
@[simp] theorem State.part_gather_other (s : State) (code' : Nat) (unit' : Nat) (eng' : Nat) (part' : Nat) (core' : Nat) (arg' : Word) (p : Nat) : (s.gather code' unit' eng' part' core' arg').part p = s.part p := rfl
@[simp] theorem State.memGet_gather_other (s : State) (code' : Nat) (unit' : Nat) (eng' : Nat) (part' : Nat) (core' : Nat) (arg' : Word) (g : Nat) : (s.gather code' unit' eng' part' core' arg').memGet g = s.memGet g := rfl

@[simp] theorem State.rd_failBeat_other (s : State)  (a : Nat) : (s.failBeat ).rd a = s.rd a := rfl
@[simp] theorem State.core_failBeat_other (s : State)  (c : Nat) : (s.failBeat ).core c = s.core c := rfl
@[simp] theorem State.part_failBeat_other (s : State)  (p : Nat) : (s.failBeat ).part p = s.part p := rfl
@[simp] theorem State.memGet_failBeat_other (s : State)  (g : Nat) : (s.failBeat ).memGet g = s.memGet g := rfl

end Sys2Proof.Machine
end

