-- ==== Sys2Proof/Laws/BeatNo.lean ====
section
/-! SUPPORT. What the operations of a boundary leave of what the boundary decides and of the budgets of the clients, and what a
replay leaves of memory, cores and opening flags: one lemma per operation. -/

namespace Sys2Proof.Machine

open Sys2Proof Sys2Proof.Laws

/-- What a boundary decides stands as it was, and the budgets of the clients balance where they did. -/
def InBeat (s t : State) : Prop := (t.beat.joined, t.beat.kind, t.beat.bno, t.beat.period, t.beat.replays, t.beat.replayNext, t.beat.lastCommit) = (s.beat.joined, s.beat.kind, s.beat.bno, s.beat.period, s.beat.replays, s.beat.replayNext, s.beat.lastCommit) ∧ (s.Budgets → t.Budgets)

theorem InBeat.refl (s : State) : InBeat s s := ⟨rfl, id⟩

theorem InBeat.trans {r s t : State} (h : InBeat r s) (k : InBeat s t) : InBeat r t := ⟨Eq.trans k.1 h.1, fun x => k.2 (h.2 x)⟩

theorem InBeat.cut {r x t : State} (h : InBeat r x) (k : InBeat r x → InBeat r t) : InBeat r t := k h

theorem InBeat.foldl {β : Type} {r : State} {f : State → β → State} (l : List β) {s : State}
    (hf : ∀ t b, InBeat r t → InBeat r (f t b)) (h : InBeat r s) : InBeat r (l.foldl f s) := by
  induction l generalizing s with
  | nil => exact h
  | cons b l ih => exact ih (hf s b h)

theorem InBeat.foldl_fst {β γ : Type} {r : State} {f : State × γ → β → State × γ} (l : List β) {a : State × γ}
    (hf : ∀ t b, InBeat r t.1 → InBeat r (f t b).1) (h : InBeat r a.1) : InBeat r (l.foldl f a).1 := by
  induction l generalizing a with
  | nil => exact h
  | cons b l ih => exact ih (hf a b h)

theorem InBeat.foldl_snd {β γ : Type} {r : State} {f : γ × State → β → γ × State} (l : List β) {a : γ × State}
    (hf : ∀ t b, InBeat r t.2 → InBeat r (f t b).2) (h : InBeat r a.2) : InBeat r (l.foldl f a).2 := by
  induction l generalizing a with
  | nil => exact h
  | cons b l ih => exact ih (hf a b h)

theorem InBeat.foldl_trd {β γ δ : Type} {r : State} {f : γ × δ × State → β → γ × δ × State} (l : List β) {a : γ × δ × State}
    (hf : ∀ t b, InBeat r t.2.2 → InBeat r (f t b).2.2) (h : InBeat r a.2.2) : InBeat r (l.foldl f a).2.2 := by
  induction l generalizing a with
  | nil => exact h
  | cons b l ih => exact ih (hf a b h)

theorem InBeat.mk {r s : State} {pwr' : Pwr} {regs' : List (Nat × Word)} {tb' : TimeBase} {beat' : Beat} {cores' : List (Nat × Core)} {mem' : List (Nat × Byte)} {ecc' : List (Nat × Ecc)} {poisonPending' : List Nat} {banks' : List (Nat × Bank)} {flags' : Flags} {parts' : List (Nat × Part)} {partOps' : List PartOp} {transits' : List Transit} {loads' : List Load} {tether' : Tether} {drift' : Drift} {rt' : Rt} {su' : Vector Su 4} {rings' : List (Nat × List RingCmd)} {pg' : List (Nat × PgPart)} {qps' : List (Nat × Qp)} {dg' : Dg} {sess' : List (Nat × Option Sess)} {neigh' : List (Nat × List Byte)} {stalled' : List Waiter} {mc' : Mc} {sc' : Sc} {ir' : JtagIr} {out' : List Output} {rnd' : Nat} {free' : Nat}
    (h : InBeat r s) (hb : (beat'.joined, beat'.kind, beat'.bno, beat'.period, beat'.replays, beat'.replayNext, beat'.lastCommit) = (s.beat.joined, s.beat.kind, s.beat.bno, s.beat.period, s.beat.replays, s.beat.replayNext, s.beat.lastCommit)) (hc : rt'.clis = s.rt.clis) :
    InBeat r (State.mk s.pending s.fuses s.flash pwr' regs' tb' beat' cores' mem' ecc' poisonPending' banks' flags' parts' partOps' transits' loads' tether' drift' rt' su' rings' pg' qps' dg' sess' neigh' stalled' mc' sc' ir' out' rnd' free') :=
  h.trans ⟨hb, fun x c => by have := x c; unfold State.cli at this ⊢; rw [show (State.mk s.pending s.fuses s.flash pwr' regs' tb' beat' cores' mem' ecc' poisonPending' banks' flags' parts' partOps' transits' loads' tether' drift' rt' su' rings' pg' qps' dg' sess' neigh' stalled' mc' sc' ir' out' rnd' free').rt.clis = s.rt.clis from hc]; exact this⟩

theorem InBeat.letS {r v : State} {P : State → Prop} (h : InBeat r v) (k : ∀ x, InBeat r x → P x) : let x := v; P x := k v h
theorem InBeat.let1 {r : State} {α : Type} {v : State × α} {P : State × α → Prop} (h : InBeat r v.1) (k : ∀ x, InBeat r x.1 → P x) : let x := v; P x := k v h
theorem InBeat.let2 {r : State} {α : Type} {v : α × State} {P : α × State → Prop} (h : InBeat r v.2) (k : ∀ x, InBeat r x.2 → P x) : let x := v; P x := k v h
theorem InBeat.let3 {r : State} {α β : Type} {v : α × β × State} {P : α × β × State → Prop} (h : InBeat r v.2.2) (k : ∀ x, InBeat r x.2.2 → P x) : let x := v; P x := k v h
theorem InBeat.letB {r : State} {v : Build} {P : Build → Prop} (h : InBeat r v.s) (k : ∀ x, InBeat r x.s → P x) : let x := v; P x := k v h
theorem InBeat.letf {r : State} {v : State → State} {P : (State → State) → Prop} (h : ∀ t, InBeat r t → InBeat r (v t)) (k : ∀ x, (∀ t, InBeat r t → InBeat r (x t)) → P x) : let x := v; P x := k v h
theorem InBeat.letf1 {r : State} {α : Type} {v : State → α → State} {P : (State → α → State) → Prop} (h : ∀ t a, InBeat r t → InBeat r (v t a)) (k : ∀ x, (∀ t a, InBeat r t → InBeat r (x t a)) → P x) : let x := v; P x := k v h
theorem InBeat.letv {α : Sort _} {v : α} {P : α → Prop} (k : ∀ x, P x) : let x := v; P x := k v

theorem State.wr_inBeat {σ : State} (s : State) (a : Nat) (v : Word) (h : InBeat σ s) : InBeat σ (s.wr a v):=
  InBeat.mk (s := s) ‹_› rfl rfl
theorem State.setCore_inBeat {σ : State} (s : State) (a : Nat) (v : Core) (h : InBeat σ s) : InBeat σ (s.setCore a v):=
  InBeat.mk (s := s) ‹_› rfl rfl
theorem State.setPart_inBeat {σ : State} (s : State) (a : Nat) (v : Part) (h : InBeat σ s) : InBeat σ (s.setPart a v):=
  InBeat.mk (s := s) ‹_› rfl rfl
theorem State.setEcc_inBeat {σ : State} (s : State) (a : Nat) (v : Ecc) (h : InBeat σ s) : InBeat σ (s.setEcc a v):=
  InBeat.mk (s := s) ‹_› rfl rfl
theorem State.setBank_inBeat {σ : State} (s : State) (c b : Nat) (x : Bank) (h : InBeat σ s) : InBeat σ (s.setBank c b x):=
  InBeat.mk (s := s) ‹_› rfl rfl
theorem State.memSet_inBeat {σ : State} (s : State) (a : Nat) (v : Byte) (h : InBeat σ s) : InBeat σ (s.memSet a v):=
  InBeat.mk (s := s) ‹_› rfl rfl
theorem State.setPg_inBeat {σ : State} (s : State) (p : Nat) (q : PgPart) (h : InBeat σ s) : InBeat σ (s.setPg p q):=
  InBeat.mk (s := s) ‹_› rfl rfl
theorem State.setQp_inBeat {σ : State} (s : State) (p : Nat) (q : Qp) (h : InBeat σ s) : InBeat σ (s.setQp p q):=
  InBeat.mk (s := s) ‹_› rfl rfl
theorem State.setFlag_inBeat {σ : State} (s : State) (p : Nat) (q : Word) (h : InBeat σ s) : InBeat σ (s.setFlag p q):=
  InBeat.mk (s := s) ‹_› rfl rfl
theorem State.setEnt_inBeat {σ : State} (s : State) (p : Nat) (q : Ent) (h : InBeat σ s) : InBeat σ (s.setEnt p q):=
  InBeat.mk (s := s) ‹_› rfl rfl
theorem State.setCli_inBeat {σ : State} (s : State) (p : Nat) (q : Cli) (hq : σ.Budgets → q.Book) (h : InBeat σ s) :
    InBeat σ (s.setCli p q) := by
  refine ⟨h.1, fun hb c => ?_⟩
  have e : (s.setCli p q).cli c = if c = p then q else s.cli c := get_set _ _ _ _ _
  rw [e]
  split
  · exact hq hb
  · exact h.2 hb c
theorem State.clearFlags_inBeat {σ : State} (s : State) (base n : Nat) (h : InBeat σ s) : InBeat σ (s.clearFlags base n):=
  InBeat.mk (s := s) ‹_› rfl rfl
theorem State.restoreFlags_inBeat {σ : State} (s : State) (p : Nat → Bool) (h : InBeat σ s) : InBeat σ (s.restoreFlags p):=
  InBeat.mk (s := s) ‹_› rfl rfl
theorem State.dropCorr_inBeat {σ : State} (s : State) (hit : Nat → Bool) (h : InBeat σ s) : InBeat σ (s.dropCorr hit):= by
  refine InBeat.foldl _ (fun t x ht => ?_) h
  dsimp only
  split
  · split
    · exact InBeat.mk (s := t) ht rfl rfl
    · exact ht
  · exact ht
theorem State.zeroize_inBeat {σ : State} (s : State) (c p n : Nat) (h : InBeat σ s) : InBeat σ (s.zeroize c p n):= by
  unfold State.zeroize
  exact InBeat.mk (State.dropCorr_inBeat _ _ h) rfl rfl

theorem State.wrF_inBeat {σ : State} (s : State) (a lsb len v : Nat) (hk : InBeat σ s) :
    InBeat σ (State.wrF s a lsb len v) := by
  unfold State.wrF
  repeat' first
    | with_reducible assumption
    | (with_reducible apply State.wr_inBeat)

theorem State.setBit_inBeat {σ : State} (s : State) (a n : Nat) (hk : InBeat σ s) :
    InBeat σ (State.setBit s a n) := by
  unfold State.setBit
  repeat' first
    | with_reducible assumption
    | (with_reducible apply State.wrF_inBeat)

theorem State.clrBit_inBeat {σ : State} (s : State) (a n : Nat) (hk : InBeat σ s) :
    InBeat σ (State.clrBit s a n) := by
  unfold State.clrBit
  repeat' first
    | with_reducible assumption
    | (with_reducible apply State.wrF_inBeat)

theorem State.bump_inBeat {σ : State} (s : State) (a : Nat) (hk : InBeat σ s) :
    InBeat σ (State.bump s a) := by
  unfold State.bump
  repeat' first
    | with_reducible assumption
    | (with_reducible apply State.wr_inBeat)

theorem State.gather_inBeat {σ : State} (s : State) (code unit eng part core : Nat) (arg : Word) (hk : InBeat σ s) :
    InBeat σ (State.gather s code unit eng part core arg) := by
  unfold State.gather
  repeat' first
    | with_reducible assumption
    | ((try lift_lets); intro x; revert x; refine InBeat.letS (r := σ) ?_ (fun x hx => ?_))
    | (fail_if_no_progress ((with_reducible refine InBeat.mk ?_ ?_ ?_) <;> [skip; rfl; rfl]))

theorem State.putEvt_inBeat {σ : State} (s : State) (e : Evt) (hk : InBeat σ s) :
    InBeat σ (State.putEvt s e) := by
  unfold State.putEvt
  repeat' first
    | with_reducible assumption
    | (with_reducible apply State.wr_inBeat)
    | (with_reducible apply State.setBit_inBeat)
    | (with_reducible apply State.bump_inBeat)
    | split
    | ((try lift_lets); intro x; revert x; refine InBeat.letS (r := σ) ?_ (fun x hx => ?_))
    | (fail_if_no_progress ((with_reducible refine InBeat.mk ?_ ?_ ?_) <;> [skip; rfl; rfl]))

theorem State.event_inBeat {σ : State} (s : State) (code unit eng part core : Nat) (arg : Word) (hk : InBeat σ s) :
    InBeat σ (State.event s code unit eng part core arg) := by
  unfold State.event
  repeat' first
    | with_reducible assumption
    | (with_reducible apply State.putEvt_inBeat)

theorem State.coreCode_inBeat {σ : State} (s : State) (code unit eng part core : Nat) (arg : Word) (hk : InBeat σ s) :
    InBeat σ (State.coreCode s code unit eng part core arg) := by
  unfold State.coreCode
  repeat' first
    | with_reducible assumption
    | (with_reducible apply State.gather_inBeat)
    | (with_reducible apply State.event_inBeat)
    | split

theorem State.alert_inBeat {σ : State} (s : State) (n : Nat) (hk : InBeat σ s) :
    InBeat σ (State.alert s n) := by
  unfold State.alert
  repeat' first
    | with_reducible assumption
    | (with_reducible apply State.setBit_inBeat)

theorem State.putLog_inBeat {σ : State} (s : State) (r : LogRec) (hk : InBeat σ s) :
    InBeat σ (State.putLog s r) := by
  unfold State.putLog
  repeat' first
    | with_reducible assumption
    | (with_reducible apply State.wr_inBeat)
    | (with_reducible apply State.setBit_inBeat)
    | (with_reducible apply State.bump_inBeat)
    | (with_reducible apply State.event_inBeat)
    | (with_reducible apply State.alert_inBeat)
    | split
    | ((try lift_lets); intro x; revert x; refine InBeat.letS (r := σ) ?_ (fun x hx => ?_))
    | (fail_if_no_progress ((with_reducible refine InBeat.mk ?_ ?_ ?_) <;> [skip; rfl; rfl]))

theorem State.log_inBeat {σ : State} (s : State) (o : Origin) (kind part : Nat) (addr old new : Word) (hk : InBeat σ s) :
    InBeat σ (State.log s o kind part addr old new) := by
  unfold State.log
  repeat' first
    | with_reducible assumption
    | (with_reducible apply State.putLog_inBeat)

theorem State.updCore_inBeat {σ : State} (s : State) (c : Nat) (f : Core → Core) (hk : InBeat σ s) :
    InBeat σ (State.updCore s c f) := by
  unfold State.updCore
  repeat' first
    | with_reducible assumption
    | (with_reducible apply State.setCore_inBeat)

theorem State.failBeat_inBeat {σ : State} (s : State) (hk : InBeat σ s) :
    InBeat σ (State.failBeat s) := by
  unfold State.failBeat
  repeat' first
    | with_reducible assumption
    | ((try lift_lets); intro x; revert x; refine InBeat.letS (r := σ) ?_ (fun x hx => ?_))
    | (fail_if_no_progress ((with_reducible refine InBeat.mk ?_ ?_ ?_) <;> [skip; rfl; rfl]))

theorem State.setSkip_inBeat {σ : State} (s : State) (hk : InBeat σ s) :
    InBeat σ (State.setSkip s) := by
  unfold State.setSkip
  repeat' first
    | with_reducible assumption
    | (with_reducible apply State.setBit_inBeat)
    | ((try lift_lets); intro x; revert x; refine InBeat.letS (r := σ) ?_ (fun x hx => ?_))
    | (fail_if_no_progress ((with_reducible refine InBeat.mk ?_ ?_ ?_) <;> [skip; rfl; rfl]))

theorem State.coreMiss_inBeat {σ : State} (s : State) (c eng : Nat) (pc : Nat) (hk : InBeat σ s) :
    InBeat σ (State.coreMiss s c eng pc) := by
  unfold State.coreMiss
  repeat' first
    | with_reducible assumption
    | (with_reducible apply State.setBit_inBeat)
    | (with_reducible apply State.bump_inBeat)
    | (with_reducible apply State.gather_inBeat)
    | (with_reducible apply State.failBeat_inBeat)
    | split

theorem State.unitMiss_inBeat {σ : State} (s : State) (unit part : Nat) (hk : InBeat σ s) :
    InBeat σ (State.unitMiss s unit part) := by
  unfold State.unitMiss
  repeat' first
    | with_reducible assumption
    | (with_reducible apply State.event_inBeat)
    | (with_reducible apply State.failBeat_inBeat)

theorem State.pairPackets_inBeat {σ : State} (s : State) (src dst n : Nat) (hk : InBeat σ s) :
    InBeat σ (State.pairPackets s src dst n) := by
  unfold State.pairPackets
  repeat' first
    | with_reducible assumption
    | split
    | ((try lift_lets); intro x; revert x; refine InBeat.letS (r := σ) ?_ (fun x hx => ?_))
    | (fail_if_no_progress ((with_reducible refine InBeat.mk ?_ ?_ ?_) <;> [skip; rfl; rfl]))

theorem State.atEndpoint_inBeat {σ : State} (s : State) (src c : Nat) (hk : InBeat σ s) :
    InBeat σ (State.atEndpoint s src c) := by
  unfold State.atEndpoint
  repeat' first
    | with_reducible assumption
    | (with_reducible apply State.wr_inBeat)
    | (with_reducible apply State.wrF_inBeat)
    | (with_reducible apply State.pairPackets_inBeat)
    | split
    | ((try lift_lets); intro x; revert x; refine InBeat.letS (r := σ) ?_ (fun x hx => ?_))
    | (fail_if_no_progress ((with_reducible refine InBeat.mk ?_ ?_ ?_) <;> [skip; rfl; rfl]))

theorem State.touch_inBeat {σ : State} (s : State) (g : Nat) (sched : Bool) (hk : InBeat σ s) :
    InBeat σ (State.touch s g sched) := by
  unfold State.touch
  repeat' first
    | with_reducible assumption
    | (with_reducible apply State.wr_inBeat)
    | (with_reducible apply State.setBit_inBeat)
    | (with_reducible apply State.bump_inBeat)
    | (with_reducible apply State.event_inBeat)
    | (with_reducible apply State.failBeat_inBeat)
    | (with_reducible apply State.setBank_inBeat)
    | split
    | ((try lift_lets); intro x; revert x; refine InBeat.letS (r := σ) ?_ (fun x hx => ?_))
    | (fail_if_no_progress ((with_reducible refine InBeat.mk ?_ ?_ ?_) <;> [skip; rfl; rfl]))

theorem State.deliver_inBeat {σ : State} (s : State) (g n : Nat) (hk : InBeat σ s) :
    InBeat σ (State.deliver s g n).2 := by
  unfold State.deliver
  repeat' first
    | with_reducible assumption
    | ((try lift_lets); intro x; revert x; refine InBeat.letS (r := σ) ?_ (fun x hx => ?_))
    | (fail_if_no_progress ((with_reducible refine InBeat.mk ?_ ?_ ?_) <;> [skip; rfl; rfl]))

theorem State.deliver_inBeat_eq {σ : State} {s : State} {g : Nat} {n : Nat} {t : State} {r : List Byte} (hk : InBeat σ s) (he : State.deliver s g n = (r, t)) :
    InBeat σ t := by
  have := State.deliver_inBeat s g n hk; rw [he] at this; exact this

theorem State.touchBeside_inBeat {σ : State} (s : State) (g : Nat) (hk : InBeat σ s) :
    InBeat σ (State.touchBeside s g) := by
  unfold State.touchBeside
  repeat' first
    | with_reducible assumption
    | (with_reducible apply State.touch_inBeat)
    | split

theorem State.checkRows_inBeat {σ : State} (s : State) (rs : List (Nat × Nat)) (sched : Bool) (hk : InBeat σ s) :
    InBeat σ (State.checkRows s rs sched) := by
  unfold State.checkRows
  repeat' first
    | with_reducible assumption
    | (with_reducible apply State.touch_inBeat)
    | (with_reducible apply State.touchBeside_inBeat)
    | (with_reducible refine InBeat.foldl _ (fun t a ht => ?_) ?_)

theorem State.memPut_inBeat {σ : State} (s : State) (ws : List (Nat × Byte)) (hk : InBeat σ s) :
    InBeat σ (State.memPut s ws) := by
  unfold State.memPut
  repeat' first
    | with_reducible assumption
    | (with_reducible apply State.memSet_inBeat)
    | (with_reducible refine InBeat.foldl _ (fun t a ht => ?_) ?_)

theorem State.mergeTouch_inBeat {σ : State} (s : State) (g : Nat) (hk : InBeat σ s) :
    InBeat σ (State.mergeTouch s g) := by
  unfold State.mergeTouch
  repeat' first
    | with_reducible assumption
    | (with_reducible apply State.setEcc_inBeat)
    | (with_reducible apply State.touch_inBeat)
    | split

theorem State.cleanGranule_inBeat {σ : State} (s : State) (g : Nat) (hk : InBeat σ s) :
    InBeat σ (State.cleanGranule s g) := by
  unfold State.cleanGranule
  repeat' first
    | with_reducible assumption
    | (with_reducible apply State.setEcc_inBeat)
    | ((try lift_lets); intro x; revert x; refine InBeat.letS (r := σ) ?_ (fun x hx => ?_))
    | (fail_if_no_progress ((with_reducible refine InBeat.mk ?_ ?_ ?_) <;> [skip; rfl; rfl]))

theorem State.writeMasked_inBeat {σ : State} (s : State) (ws : List (Nat × Byte)) (half : List Nat) (hk : InBeat σ s) :
    InBeat σ (State.writeMasked s ws half) := by
  unfold State.writeMasked
  repeat' first
    | with_reducible assumption
    | (with_reducible apply State.touchBeside_inBeat)
    | (with_reducible apply State.memPut_inBeat)
    | (with_reducible apply State.mergeTouch_inBeat)
    | (with_reducible apply State.dropCorr_inBeat)
    | (with_reducible apply State.cleanGranule_inBeat)
    | (with_reducible refine InBeat.foldl _ (fun t a ht => ?_) ?_)

theorem State.writeG_inBeat {σ : State} (s : State) (ws : List (Nat × Byte)) (hk : InBeat σ s) :
    InBeat σ (State.writeG s ws) := by
  unfold State.writeG
  repeat' first
    | with_reducible assumption
    | (with_reducible apply State.writeMasked_inBeat)

theorem State.writeHalf_inBeat {σ : State} (s : State) (c : Nat) (ws : List (Nat × Byte)) (half : List Nat) (hk : InBeat σ s) :
    InBeat σ (State.writeHalf s c ws half) := by
  unfold State.writeHalf
  repeat' first
    | with_reducible assumption
    | (with_reducible apply State.writeMasked_inBeat)

theorem State.writeAt_inBeat {σ : State} (s : State) (c : Nat) (ws : List (Nat × Byte)) (hk : InBeat σ s) :
    InBeat σ (State.writeAt s c ws) := by
  unfold State.writeAt
  repeat' first
    | with_reducible assumption
    | (with_reducible apply State.writeHalf_inBeat)

theorem State.poisonAt_inBeat {σ : State} (s : State) (c : Nat) (as : List Nat) (hk : InBeat σ s) :
    InBeat σ (State.poisonAt s c as) := by
  unfold State.poisonAt
  repeat' first
    | with_reducible assumption
    | (with_reducible apply State.setEcc_inBeat)
    | (with_reducible refine InBeat.foldl _ (fun t a ht => ?_) ?_)
    | split

theorem State.slcRecord_inBeat {σ : State} (s : State) (o : Origin) (part c : Nat) (x : Bad) (hk : InBeat σ s) :
    InBeat σ (State.slcRecord s o part c x) := by
  unfold State.slcRecord
  repeat' first
    | with_reducible assumption
    | (with_reducible apply State.setBit_inBeat)
    | (with_reducible apply State.log_inBeat)
    | split

theorem State.accessCode_inBeat {σ : State} (s : State) (code unit p c : Nat) (hk : InBeat σ s) :
    InBeat σ (State.accessCode s code unit p c) := by
  unfold State.accessCode
  repeat' first
    | with_reducible assumption
    | (with_reducible apply State.coreCode_inBeat)
    | (fail_if_no_progress ((with_reducible refine InBeat.mk ?_ ?_ ?_) <;> [skip; rfl; rfl]))

theorem State.unitRefused_inBeat {σ : State} (s : State) (unit p c : Nat) (x : Bad) (hk : InBeat σ s) :
    InBeat σ (State.unitRefused s unit p c x) := by
  unfold State.unitRefused
  repeat' first
    | with_reducible assumption
    | (with_reducible apply State.slcRecord_inBeat)
    | (with_reducible apply State.accessCode_inBeat)

theorem State.hostRefused_inBeat {σ : State} (s : State) (o : Origin) (g code : Nat) (hk : InBeat σ s) :
    InBeat σ (State.hostRefused s o g code) := by
  unfold State.hostRefused
  repeat' first
    | with_reducible assumption
    | (with_reducible apply State.setBit_inBeat)
    | (with_reducible apply State.log_inBeat)
    | (with_reducible apply State.accessCode_inBeat)
    | split

theorem State.unitPut_inBeat {σ : State} (s : State) (unit p c a : Nat) (bs : List Byte) (poison : List Nat) (hk : InBeat σ s) :
    InBeat σ (State.unitPut s unit p c a bs poison) := by
  unfold State.unitPut
  repeat' first
    | with_reducible assumption
    | (with_reducible apply State.writeAt_inBeat)
    | (with_reducible apply State.poisonAt_inBeat)
    | (with_reducible apply State.unitRefused_inBeat)
    | split

theorem State.unitWrite_inBeat {σ : State} (s : State) (src p c a : Nat) (bs : List Byte) (poison : List Nat) (hk : InBeat σ s) :
    InBeat σ (State.unitWrite s src p c a bs poison) := by
  unfold State.unitWrite
  repeat' first
    | with_reducible assumption
    | (with_reducible apply State.atEndpoint_inBeat)
    | (with_reducible apply State.unitPut_inBeat)
    | split
    | (fail_if_no_progress ((with_reducible refine InBeat.mk ?_ ?_ ?_) <;> [skip; rfl; rfl]))

theorem State.unitRead_inBeat {σ : State} (s : State) (unit p c a n : Nat) (hk : InBeat σ s) :
    InBeat σ (State.unitRead s unit p c a n).2.2 := by
  unfold State.unitRead
  repeat' first
    | with_reducible assumption
    | (with_reducible apply State.checkRows_inBeat)
    | (with_reducible apply State.unitRefused_inBeat)
    | split
    | ((try lift_lets); intro x; revert x; refine InBeat.letS (r := σ) ?_ (fun x hx => ?_))
    | (fail_if_no_progress ((with_reducible refine InBeat.mk ?_ ?_ ?_) <;> [skip; rfl; rfl]))

theorem State.unitRead_inBeat_eq {σ : State} {s : State} {unit : Nat} {p : Nat} {c : Nat} {a : Nat} {n : Nat} {t : State} {r : List Byte} {r2 : List Nat} (hk : InBeat σ s) (he : State.unitRead s unit p c a n = (r, r2, t)) :
    InBeat σ t := by
  have := State.unitRead_inBeat s unit p c a n hk; rw [he] at this; exact this

theorem State.endIssued_inBeat {σ : State} (s : State) (c : Nat) (i : Issued) (st : CmdEnd) (hk : InBeat σ s) :
    InBeat σ (State.endIssued s c i st) := by
  unfold State.endIssued
  repeat' first
    | with_reducible assumption
    | (with_reducible apply State.updCore_inBeat)

theorem State.finishIssued_inBeat {σ : State} (s : State) (c : Nat) (i : Issued) (hk : InBeat σ s) :
    InBeat σ (State.finishIssued s c i) := by
  unfold State.finishIssued
  repeat' first
    | with_reducible assumption
    | (with_reducible apply State.endIssued_inBeat)

theorem State.setRing_inBeat {σ : State} (s : State) (n : Nat) (r : List RingCmd) (hk : InBeat σ s) :
    InBeat σ (State.setRing s n r) := by
  unfold State.setRing
  repeat' first
    | with_reducible assumption
    | (fail_if_no_progress ((with_reducible refine InBeat.mk ?_ ?_ ?_) <;> [skip; rfl; rfl]))

theorem State.refuseWrite_inBeat {σ : State} (s : State) (o : Origin) (a : Nat) (v : Word) (hk : InBeat σ s) :
    InBeat σ (State.refuseWrite s o a v) := by
  unfold State.refuseWrite
  repeat' first
    | with_reducible assumption
    | (with_reducible apply State.log_inBeat)

theorem State.logWrite_inBeat {σ : State} (s : State) (o : Origin) (a : Nat) (old new : Word) (hk : InBeat σ s) :
    InBeat σ (State.logWrite s o a old new) := by
  unfold State.logWrite
  repeat' first
    | with_reducible assumption
    | (with_reducible apply State.log_inBeat)
    | split

theorem State.writeTyped_inBeat {σ : State} (s : State) (o : Origin) (a : Nat) (v : Word) (hk : InBeat σ s) :
    InBeat σ (State.writeTyped s o a v) := by
  unfold State.writeTyped
  repeat' first
    | with_reducible assumption
    | (with_reducible apply State.wr_inBeat)
    | (with_reducible apply State.refuseWrite_inBeat)
    | (with_reducible apply State.logWrite_inBeat)
    | split

theorem State.dgRecord_inBeat {σ : State} (s : State) (r : DgRec) (hk : InBeat σ s) :
    InBeat σ (State.dgRecord s r) := by
  unfold State.dgRecord
  repeat' first
    | with_reducible assumption
    | (with_reducible apply State.wr_inBeat)
    | (with_reducible apply State.setBit_inBeat)
    | (with_reducible apply State.bump_inBeat)
    | split
    | ((try lift_lets); intro x; revert x; refine InBeat.letS (r := σ) ?_ (fun x hx => ?_))
    | (fail_if_no_progress ((with_reducible refine InBeat.mk ?_ ?_ ?_) <;> [skip; rfl; rfl]))

theorem State.dgBoundary_inBeat {σ : State} (s : State) (failed : Bool) (hk : InBeat σ s) :
    InBeat σ (State.dgBoundary s failed) := by
  unfold State.dgBoundary
  repeat' first
    | with_reducible assumption
    | (with_reducible apply State.dgRecord_inBeat)
    | (with_reducible refine InBeat.foldl _ (fun t a ht => ?_) ?_)
    | split
    | ((try lift_lets); intro x; revert x; refine InBeat.letS (r := σ) ?_ (fun x hx => ?_))
    | (fail_if_no_progress ((with_reducible refine InBeat.mk ?_ ?_ ?_) <;> [skip; rfl; rfl]))

theorem State.updEnt_inBeat {σ : State} (s : State) (i : Nat) (f : Ent → Ent) (hk : InBeat σ s) :
    InBeat σ (State.updEnt s i f) := by
  unfold State.updEnt
  repeat' first
    | with_reducible assumption
    | (with_reducible apply State.setEnt_inBeat)

theorem State.setSess_inBeat {σ : State} (s : State) (i : Nat) (x : Option Sess) (hk : InBeat σ s) :
    InBeat σ (State.setSess s i x) := by
  unfold State.setSess
  repeat' first
    | with_reducible assumption
    | (fail_if_no_progress ((with_reducible refine InBeat.mk ?_ ?_ ?_) <;> [skip; rfl; rfl]))

theorem State.carry_inBeat {σ : State} (s : State) (w : Egress) (hk : InBeat σ s) :
    InBeat σ (State.carry s w) := by
  unfold State.carry
  repeat' first
    | with_reducible assumption
    | (with_reducible apply State.bump_inBeat)
    | split
    | ((try lift_lets); intro x; revert x; refine InBeat.letS (r := σ) ?_ (fun x hx => ?_))
    | (fail_if_no_progress ((with_reducible refine InBeat.mk ?_ ?_ ?_) <;> [skip; rfl; rfl]))

theorem State.emitMsg_inBeat {σ : State} (s0 : State) (x : Sess) (m : OutMsg) (retry : Bool) (hk : InBeat σ s0) :
    InBeat σ (State.emitMsg s0 x m retry) := by
  unfold State.emitMsg
  repeat' first
    | with_reducible assumption
    | (with_reducible apply State.carry_inBeat)
    | ((try lift_lets); intro x; revert x; refine InBeat.letS (r := σ) ?_ (fun x hx => ?_))
    | (fail_if_no_progress ((with_reducible refine InBeat.mk ?_ ?_ ?_) <;> [skip; rfl; rfl]))

theorem State.emitAck_inBeat {σ : State} (s0 : State) (x : Sess) (hk : InBeat σ s0) :
    InBeat σ (State.emitAck s0 x) := by
  unfold State.emitAck
  repeat' first
    | with_reducible assumption
    | (with_reducible apply State.carry_inBeat)
    | ((try lift_lets); intro x; revert x; refine InBeat.letS (r := σ) ?_ (fun x hx => ?_))
    | (fail_if_no_progress ((with_reducible refine InBeat.mk ?_ ?_ ?_) <;> [skip; rfl; rfl]))

theorem State.pump_inBeat {σ : State} (s : State) (i : Nat) (l : List OutMsg) (h : InBeat σ s) : InBeat σ (s.pump i l) := by
  induction l generalizing s with
  | nil => exact h
  | cons m r ih =>
    unfold State.pump
    split
    · split
      · exact ih _ (State.emitMsg_inBeat _ _ _ _ (State.setSess_inBeat _ _ _ h))
      · exact h
    · exact h

theorem State.sendTo_inBeat {σ : State} (s : State) (i : Nat) (m : OutMsg) (hk : InBeat σ s) :
    InBeat σ (State.sendTo s i m) := by
  unfold State.sendTo
  repeat' first
    | with_reducible assumption
    | (with_reducible apply State.setSess_inBeat)
    | (with_reducible apply State.pump_inBeat)
    | split

theorem State.send_inBeat {σ : State} (s : State) (uid kind : Nat) (body : List Byte) (hk : InBeat σ s) :
    InBeat σ (State.send s uid kind body) := by
  unfold State.send
  repeat' first
    | with_reducible assumption
    | (with_reducible apply State.sendTo_inBeat)
    | split

theorem State.complete_inBeat {σ : State} (s : State) (uid : Nat) (tag : Word) (op status code entry arg : Nat) (hk : InBeat σ s) :
    InBeat σ (State.complete s uid tag op status code entry arg) := by
  unfold State.complete
  repeat' first
    | with_reducible assumption
    | (with_reducible apply State.send_inBeat)

theorem State.dropRecord_inBeat {σ : State} (s : State) (e : Nat) (hk : InBeat σ s) :
    InBeat σ (State.dropRecord s e) := by
  unfold State.dropRecord
  repeat' first
    | with_reducible assumption
    | (with_reducible apply State.setBit_inBeat)
    | (with_reducible apply State.updEnt_inBeat)

theorem State.sendToken_inBeat {σ : State} (s : State) (uid ent : Nat) (tag : Word) (bno : BitVec 48) (pos : Nat) (fin fetched : Bool) (reason : Nat) (toks : List Word) (hk : InBeat σ s) :
    InBeat σ (State.sendToken s uid ent tag bno pos fin fetched reason toks) := by
  unfold State.sendToken
  repeat' first
    | with_reducible assumption
    | (with_reducible apply State.updEnt_inBeat)
    | (with_reducible apply State.sendTo_inBeat)
    | (with_reducible apply State.dropRecord_inBeat)
    | split
    | ((try lift_lets); intro x; revert x; refine InBeat.letS (r := σ) ?_ (fun x hx => ?_))

theorem State.draw_inBeat {σ : State} (s : State) (hk : InBeat σ s) :
    InBeat σ (State.draw s).2 := by
  unfold State.draw
  repeat' first
    | with_reducible assumption
    | (fail_if_no_progress ((with_reducible refine InBeat.mk ?_ ?_ ?_) <;> [skip; rfl; rfl]))

theorem State.draw_inBeat_eq {σ : State} {s : State} {t : State} {r : Word} (hk : InBeat σ s) (he : State.draw s = (r, t)) :
    InBeat σ t := by
  have := State.draw_inBeat s hk; rw [he] at this; exact this

theorem State.toTc_inBeat {σ : State} (s : State) (t : DWord) (hk : InBeat σ s) :
    InBeat σ (State.toTc s t) := by
  unfold State.toTc
  repeat' first
    | with_reducible assumption
    | split
    | ((try lift_lets); intro x; revert x; refine InBeat.letS (r := σ) ?_ (fun x hx => ?_))
    | (fail_if_no_progress ((with_reducible refine InBeat.mk ?_ ?_ ?_) <;> [skip; rfl; rfl]))

theorem State.loseSource_inBeat {σ : State} (s : State) (hk : InBeat σ s) :
    InBeat σ (State.loseSource s) := by
  unfold State.loseSource
  repeat' first
    | with_reducible assumption
    | (with_reducible apply State.setBit_inBeat)
    | (with_reducible apply State.event_inBeat)
    | ((try lift_lets); intro x; revert x; refine InBeat.letS (r := σ) ?_ (fun x hx => ?_))
    | (fail_if_no_progress ((with_reducible refine InBeat.mk ?_ ?_ ?_) <;> [skip; rfl; rfl]))

theorem State.enterCond_inBeat {σ : State} (s : State) (cause port : Nat) (hk : InBeat σ s) :
    InBeat σ (State.enterCond s cause port) := by
  unfold State.enterCond
  repeat' first
    | with_reducible assumption
    | ((try lift_lets); intro x; revert x; refine InBeat.letS (r := σ) ?_ (fun x hx => ?_))
    | (fail_if_no_progress ((with_reducible refine InBeat.mk ?_ ?_ ?_) <;> [skip; rfl; rfl]))

theorem State.setPort_inBeat {σ : State} (s : State) (p : Fin 8) (x : TPort) (hk : InBeat σ s) :
    InBeat σ (State.setPort s p x) := by
  unfold State.setPort
  repeat' first
    | with_reducible assumption
    | ((try lift_lets); intro x; revert x; refine InBeat.letS (r := σ) ?_ (fun x hx => ?_))
    | (fail_if_no_progress ((with_reducible refine InBeat.mk ?_ ?_ ?_) <;> [skip; rfl; rfl]))

theorem State.loseNeighbour_inBeat {σ : State} (s : State) (p : Fin 8) (hk : InBeat σ s) :
    InBeat σ (State.loseNeighbour s p) := by
  unfold State.loseNeighbour
  repeat' first
    | with_reducible assumption
    | (with_reducible apply State.enterCond_inBeat)
    | (with_reducible apply State.setPort_inBeat)
    | split

theorem State.loseLock_inBeat {σ : State} (s : State) (p : Fin 8) (hk : InBeat σ s) :
    InBeat σ (State.loseLock s p) := by
  unfold State.loseLock
  repeat' first
    | with_reducible assumption
    | (with_reducible apply State.loseSource_inBeat)
    | (with_reducible apply State.setPort_inBeat)
    | (with_reducible apply State.loseNeighbour_inBeat)
    | split

theorem State.levelRequest_inBeat {σ : State} (s : State) (o : Origin) (r : Fin 16) (v : Word) (hk : InBeat σ s) :
    InBeat σ (State.levelRequest s o r v) := by
  unfold State.levelRequest
  repeat' first
    | with_reducible assumption
    | (with_reducible apply State.wrF_inBeat)
    | (with_reducible apply State.setBit_inBeat)
    | (with_reducible apply State.clrBit_inBeat)
    | (with_reducible apply State.refuseWrite_inBeat)
    | (with_reducible apply State.logWrite_inBeat)
    | split
    | ((try lift_lets); intro x; revert x; refine InBeat.letS (r := σ) ?_ (fun x hx => ?_))

theorem State.stretch_inBeat {σ : State} (s : State) (r : Fin 16) (hk : InBeat σ s) :
    InBeat σ (State.stretch s r) := by
  unfold State.stretch
  repeat' first
    | with_reducible assumption
    | (with_reducible apply State.setSkip_inBeat)
    | split
    | ((try lift_lets); intro x; revert x; refine InBeat.letS (r := σ) ?_ (fun x hx => ?_))
    | (fail_if_no_progress ((with_reducible refine InBeat.mk ?_ ?_ ?_) <;> [skip; rfl; rfl]))

theorem State.setWarn_inBeat {σ : State} (s : State) (r : Fin 16) (b : Bool) (hk : InBeat σ s) :
    InBeat σ (State.setWarn s r b) := by
  unfold State.setWarn
  repeat' first
    | with_reducible assumption
    | ((try lift_lets); intro x; revert x; refine InBeat.letS (r := σ) ?_ (fun x hx => ?_))
    | (fail_if_no_progress ((with_reducible refine InBeat.mk ?_ ?_ ?_) <;> [skip; rfl; rfl]))

theorem State.drainWarns_inBeat {σ : State} (s : State) (hk : InBeat σ s) :
    InBeat σ (State.drainWarns s) := by
  unfold State.drainWarns
  repeat' first
    | with_reducible assumption
    | (with_reducible apply State.stretch_inBeat)
    | (with_reducible apply State.setWarn_inBeat)
    | (with_reducible refine InBeat.foldl _ (fun t a ht => ?_) ?_)
    | split

theorem State.updPort_inBeat {σ : State} (s : State) (p : Fin 8) (f : TPort → TPort) (hk : InBeat σ s) :
    InBeat σ (State.updPort s p f) := by
  unfold State.updPort
  repeat' first
    | with_reducible assumption
    | (with_reducible apply State.setPort_inBeat)

theorem State.portEnable_inBeat {σ : State} (s : State) (p : Fin 8) (on : Bool) (hk : InBeat σ s) :
    InBeat σ (State.portEnable s p on) := by
  unfold State.portEnable
  repeat' first
    | with_reducible assumption
    | (with_reducible apply State.loseLock_inBeat)
    | (with_reducible apply State.updPort_inBeat)
    | split

theorem State.updJoin_inBeat {σ : State} (s : State) (f : Join → Join) (hk : InBeat σ s) :
    InBeat σ (State.updJoin s f) := by
  unfold State.updJoin
  repeat' first
    | with_reducible assumption
    | ((try lift_lets); intro x; revert x; refine InBeat.letS (r := σ) ?_ (fun x hx => ?_))
    | (fail_if_no_progress ((with_reducible refine InBeat.mk ?_ ?_ ?_) <;> [skip; rfl; rfl]))

theorem State.sendOn_inBeat {σ : State} (s : State) (p : Fin 8) (c : Cell) (hk : InBeat σ s) :
    InBeat σ (State.sendOn s p c) := by
  unfold State.sendOn
  repeat' first
    | with_reducible assumption
    | (with_reducible apply State.setPort_inBeat)
    | split
    | ((try lift_lets); intro x; revert x; refine InBeat.letS (r := σ) ?_ (fun x hx => ?_))
    | (fail_if_no_progress ((with_reducible refine InBeat.mk ?_ ?_ ?_) <;> [skip; rfl; rfl]))

theorem State.sendJoin_inBeat {σ : State} (s : State) (p : Fin 8) (op : Nat) (body : List Byte) (hk : InBeat σ s) :
    InBeat σ (State.sendJoin s p op body) := by
  unfold State.sendJoin
  repeat' first
    | with_reducible assumption
    | (with_reducible apply State.sendOn_inBeat)

theorem State.joinFail_inBeat {σ : State} (s : State) (code : Nat) (hk : InBeat σ s) :
    InBeat σ (State.joinFail s code) := by
  unfold State.joinFail
  repeat' first
    | with_reducible assumption
    | (with_reducible apply State.log_inBeat)
    | (with_reducible apply State.updJoin_inBeat)
    | split

theorem State.takeStart_inBeat {σ : State} (s : State) (t : DWord) (first : BitVec 48) (hk : InBeat σ s) :
    InBeat σ (State.takeStart s t first) := by
  unfold State.takeStart
  repeat' first
    | with_reducible assumption
    | (with_reducible apply State.updJoin_inBeat)
    | (with_reducible apply State.sendJoin_inBeat)
    | (with_reducible refine InBeat.foldl _ (fun t a ht => ?_) ?_)

theorem State.joinReport_inBeat {σ : State} (s : State) (hk : InBeat σ s) :
    InBeat σ (State.joinReport s) := by
  unfold State.joinReport
  repeat' first
    | with_reducible assumption
    | (with_reducible apply State.updJoin_inBeat)
    | (with_reducible apply State.sendJoin_inBeat)
    | (with_reducible apply State.joinFail_inBeat)
    | (with_reducible apply State.takeStart_inBeat)
    | split
    | ((try lift_lets); intro x; revert x; refine InBeat.letS (r := σ) ?_ (fun x hx => ?_))

theorem State.sendTime_inBeat {σ : State} (s : State) (ps : List (Fin 8)) (hops : Nat) (hk : InBeat σ s) :
    InBeat σ (State.sendTime s ps hops) := by
  unfold State.sendTime
  repeat' first
    | with_reducible assumption
    | (with_reducible apply State.sendJoin_inBeat)
    | (with_reducible refine InBeat.foldl _ (fun t a ht => ?_) ?_)

theorem State.joinAlign_inBeat {σ : State} (s : State) (hk : InBeat σ s) :
    InBeat σ (State.joinAlign s) := by
  unfold State.joinAlign
  repeat' first
    | with_reducible assumption
    | (with_reducible apply State.updJoin_inBeat)
    | (with_reducible apply State.joinReport_inBeat)
    | (with_reducible apply State.sendTime_inBeat)
    | split
    | ((try lift_lets); intro x; revert x; refine InBeat.letS (r := σ) ?_ (fun x hx => ?_))

theorem State.joinMeasure_inBeat {σ : State} (s : State) (hk : InBeat σ s) :
    InBeat σ (State.joinMeasure s) := by
  unfold State.joinMeasure
  repeat' first
    | with_reducible assumption
    | (with_reducible apply State.updJoin_inBeat)
    | (with_reducible apply State.joinAlign_inBeat)
    | split

theorem State.joinTrain_inBeat {σ : State} (s : State) (hk : InBeat σ s) :
    InBeat σ (State.joinTrain s) := by
  unfold State.joinTrain
  repeat' first
    | with_reducible assumption
    | (with_reducible apply State.updJoin_inBeat)
    | (with_reducible apply State.joinFail_inBeat)
    | (with_reducible apply State.joinMeasure_inBeat)
    | split

theorem State.joinStart_inBeat {σ : State} (s : State) (hk : InBeat σ s) :
    InBeat σ (State.joinStart s) := by
  unfold State.joinStart
  repeat' first
    | with_reducible assumption
    | (with_reducible apply State.clrBit_inBeat)
    | (with_reducible apply State.log_inBeat)
    | (with_reducible apply State.updPort_inBeat)
    | (with_reducible apply State.updJoin_inBeat)
    | (with_reducible apply State.joinTrain_inBeat)
    | (with_reducible refine InBeat.foldl _ (fun t a ht => ?_) ?_)
    | ((try lift_lets); intro x; revert x; refine InBeat.letS (r := σ) ?_ (fun x hx => ?_))
    | (fail_if_no_progress ((with_reducible refine InBeat.mk ?_ ?_ ?_) <;> [skip; rfl; rfl]))

theorem State.takeBooks_inBeat {σ : State} (s : State) (p : Nat) (hk : InBeat σ s) :
    InBeat σ (State.takeBooks s p) := by
  unfold State.takeBooks
  repeat' first
    | with_reducible assumption
    | (with_reducible apply State.setPg_inBeat)
    | (with_reducible refine InBeat.foldl _ (fun t a ht => ?_) ?_)
    | split
    | ((try lift_lets); intro x; revert x; refine InBeat.letS (r := σ) ?_ (fun x hx => ?_))

theorem State.setLists_inBeat {σ : State} (s : State) (p : Nat) (q : PgPart) (hk : InBeat σ s) :
    InBeat σ (State.setLists s p q) := by
  unfold State.setLists
  repeat' first
    | with_reducible assumption
    | (with_reducible apply State.setPg_inBeat)

theorem State.putToken_inBeat {σ : State} (s : State) (p frame pos : Nat) (w : Word) (hk : InBeat σ s) :
    InBeat σ (State.putToken s p frame pos w) := by
  unfold State.putToken
  repeat' first
    | with_reducible assumption
    | (with_reducible apply State.unitWrite_inBeat)

theorem State.pgRead_inBeat {σ : State} (s : State) (p c a n : Nat) (hk : InBeat σ s) :
    InBeat σ (State.pgRead s p c a n).2.2 := by
  unfold State.pgRead
  repeat' first
    | with_reducible assumption
    | (with_reducible apply State.setBit_inBeat)
    | (with_reducible apply State.atEndpoint_inBeat)
    | (with_reducible apply State.unitRead_inBeat)
    | split
    | ((try lift_lets); intro x; revert x; refine InBeat.letS (r := σ) ?_ (fun x hx => ?_))

theorem State.pgRead_inBeat_eq {σ : State} {s : State} {p : Nat} {c : Nat} {a : Nat} {n : Nat} {t : State} {r : List Byte} {r2 : List Nat} (hk : InBeat σ s) (he : State.pgRead s p c a n = (r, r2, t)) :
    InBeat σ t := by
  have := State.pgRead_inBeat s p c a n hk; rw [he] at this; exact this

theorem State.stagedWords_inBeat {σ : State} (s : State) (p : Nat) (as : List Nat) (hk : InBeat σ s) :
    InBeat σ (State.stagedWords s p as).2 := by
  unfold State.stagedWords
  repeat' first
    | with_reducible assumption
    | (with_reducible apply State.pgRead_inBeat)
    | (with_reducible refine InBeat.foldl_snd _ (fun t a ht => ?_) ?_)

theorem State.stagedWords_inBeat_eq {σ : State} {s : State} {p : Nat} {as : List Nat} {t : State} {r : List Word} (hk : InBeat σ s) (he : State.stagedWords s p as = (r, t)) :
    InBeat σ t := by
  have := State.stagedWords_inBeat s p as hk; rw [he] at this; exact this

theorem State.heldTokens_inBeat {σ : State} (s : State) (p : Nat) (x : Ent) (want : Nat → Bool) (hk : InBeat σ s) :
    InBeat σ (State.heldTokens s p x want).2 := by
  unfold State.heldTokens
  repeat' first
    | with_reducible assumption
    | (with_reducible apply State.stagedWords_inBeat)

theorem State.heldTokens_inBeat_eq {σ : State} {s : State} {p : Nat} {x : Ent} {want : Nat → Bool} {t : State} {r : List (Nat × Word)} (hk : InBeat σ s) (he : State.heldTokens s p x want = (r, t)) :
    InBeat σ t := by
  have := State.heldTokens_inBeat s p x want hk; rw [he] at this; exact this

theorem State.pageTokens_inBeat {σ : State} (s : State) (p e lo k : Nat) (hk : InBeat σ s) :
    InBeat σ (State.pageTokens s p e lo k).2 := by
  unfold State.pageTokens
  repeat' first
    | with_reducible assumption
    | (with_reducible apply State.pgRead_inBeat)
    | (with_reducible apply State.heldTokens_inBeat)
    | split
    | ((try lift_lets); intro x; revert x; refine InBeat.letS (r := σ) ?_ (fun x hx => ?_))

theorem State.pageTokens_inBeat_eq {σ : State} {s : State} {p : Nat} {e : Nat} {lo : Nat} {k : Nat} {t : State} {r : List Word} (hk : InBeat σ s) (he : State.pageTokens s p e lo k = (r, t)) :
    InBeat σ t := by
  have := State.pageTokens_inBeat s p e lo k hk; rw [he] at this; exact this

theorem State.readTokens_inBeat {σ : State} (s : State) (p e start n : Nat) (hk : InBeat σ s) :
    InBeat σ (State.readTokens s p e start n).2 := by
  unfold State.readTokens
  repeat' first
    | with_reducible assumption
    | (with_reducible apply State.pageTokens_inBeat)
    | (with_reducible refine InBeat.foldl_snd _ (fun t a ht => ?_) ?_)
    | split

theorem State.readTokens_inBeat_eq {σ : State} {s : State} {p : Nat} {e : Nat} {start : Nat} {n : Nat} {t : State} {r : List Word} (hk : InBeat σ s) (he : State.readTokens s p e start n = (r, t)) :
    InBeat σ t := by
  have := State.readTokens_inBeat s p e start n hk; rw [he] at this; exact this

theorem State.storeTokens_inBeat {σ : State} (s : State) (p e : Nat) (hk : InBeat σ s) :
    InBeat σ (State.storeTokens s p e).2 := by
  unfold State.storeTokens
  repeat' first
    | with_reducible assumption
    | (with_reducible apply State.updEnt_inBeat)
    | (with_reducible apply State.putToken_inBeat)
    | (with_reducible apply State.heldTokens_inBeat)
    | (with_reducible refine InBeat.foldl _ (fun t a ht => ?_) ?_)
    | split

theorem State.storeTokens_inBeat_eq {σ : State} {s : State} {p : Nat} {e : Nat} {t : State} {r : List (Nat × Word)} (hk : InBeat σ s) (he : State.storeTokens s p e = (r, t)) :
    InBeat σ t := by
  have := State.storeTokens_inBeat s p e hk; rw [he] at this; exact this

theorem State.copyBlock_inBeat {σ : State} (s : State) (p src dst : Nat) (hk : InBeat σ s) :
    InBeat σ (State.copyBlock s p src dst) := by
  unfold State.copyBlock
  repeat' first
    | with_reducible assumption
    | (with_reducible apply State.unitWrite_inBeat)
    | (with_reducible apply State.pgRead_inBeat)

theorem State.cowOne_inBeat {σ : State} (s : State) (p e slot : Nat) (apps : List Append) (j : Nat) (hk : InBeat σ s) :
    InBeat σ (s.cowOne p e slot apps j).1 := by
  unfold State.cowOne
  extract_lets q
  split
  · dsimp only
    exact State.copyBlock_inBeat _ _ _ _ (State.setPg_inBeat _ _ _ hk)
  · exact hk

theorem State.cowOne_inBeat_eq {σ : State} {s : State} {p : Nat} {e : Nat} {slot : Nat} {apps : List Append} {j : Nat} {t : State} {r : List Append} (hk : InBeat σ s) (he : State.cowOne s p e slot apps j = (t, r)) :
    InBeat σ t := by
  have := State.cowOne_inBeat s p e slot apps j hk; rw [he] at this; exact this

theorem State.appendOne_inBeat {σ : State} (s : State) (p e slot : Nat) (apps : List Append) (hk : InBeat σ s) :
    InBeat σ (State.appendOne s p e slot apps).1 := by
  unfold State.appendOne
  repeat' first
    | with_reducible assumption
    | (with_reducible apply State.setLists_inBeat)
    | split
    | ((try lift_lets); intro x; revert x; refine InBeat.letS (r := σ) ?_ (fun x hx => ?_))

theorem State.appendOne_inBeat_eq {σ : State} {s : State} {p : Nat} {e : Nat} {slot : Nat} {apps : List Append} {t : State} {r : List Append} (hk : InBeat σ s) (he : State.appendOne s p e slot apps = (t, r)) :
    InBeat σ t := by
  have := State.appendOne_inBeat s p e slot apps hk; rw [he] at this; exact this

theorem State.pgPlace_inBeat {σ : State} (s : State) (p e slot start n fresh : Nat) (hk : InBeat σ s) :
    InBeat σ (State.pgPlace s p e slot start n fresh).1 := by
  unfold State.pgPlace
  repeat' first
    | with_reducible assumption
    | (with_reducible apply State.setPg_inBeat)
    | (with_reducible apply State.cowOne_inBeat)
    | (with_reducible apply State.appendOne_inBeat)
    | (with_reducible refine InBeat.foldl_fst _ (fun t a ht => ?_) ?_)
    | split

theorem State.pgPlace_inBeat_eq {σ : State} {s : State} {p : Nat} {e : Nat} {slot : Nat} {start : Nat} {n : Nat} {fresh : Nat} {t : State} {r : List Append} (hk : InBeat σ s) (he : State.pgPlace s p e slot start n fresh = (t, r)) :
    InBeat σ t := by
  have := State.pgPlace_inBeat s p e slot start n fresh hk; rw [he] at this; exact this

theorem State.xbTo_inBeat {σ : State} (s : State) (expert : Bool) (k st : Nat) (hk : InBeat σ s) :
    InBeat σ (State.xbTo s expert k st) := by
  unfold State.xbTo
  repeat' first
    | with_reducible assumption
    | (with_reducible apply State.wrF_inBeat)

theorem State.xbSettle_inBeat {σ : State} (s : State) (hk : InBeat σ s) :
    InBeat σ (State.xbSettle s) := by
  unfold State.xbSettle
  repeat' first
    | with_reducible assumption
    | (with_reducible apply State.wr_inBeat)
    | (with_reducible refine InBeat.foldl _ (fun t a ht => ?_) ?_)
    | split

theorem State.xbCount_inBeat {σ : State} (s : State) (hk : InBeat σ s) :
    InBeat σ (State.xbCount s) := by
  unfold State.xbCount
  repeat' first
    | with_reducible assumption
    | (with_reducible apply State.wrF_inBeat)
    | (with_reducible refine InBeat.foldl _ (fun t a ht => ?_) ?_)

theorem State.xbFlipOne_inBeat {σ : State} (s : State) (expert : Bool) (k : Nat) (hk : InBeat σ s) :
    InBeat σ (State.xbFlipOne s expert k) := by
  unfold State.xbFlipOne
  repeat' first
    | with_reducible assumption
    | (with_reducible apply State.wr_inBeat)
    | (with_reducible apply State.wrF_inBeat)
    | (with_reducible apply State.xbTo_inBeat)
    | split
    | ((try lift_lets); intro x; revert x; refine InBeat.letS (r := σ) ?_ (fun x hx => ?_))

theorem State.xbFlip_inBeat {σ : State} (s : State) (hk : InBeat σ s) :
    InBeat σ (State.xbFlip s) := by
  unfold State.xbFlip
  repeat' first
    | with_reducible assumption
    | (with_reducible apply State.xbFlipOne_inBeat)
    | (with_reducible refine InBeat.foldl _ (fun t a ht => ?_) ?_)

theorem State.xbPin_inBeat {σ : State} (s : State) (expert : Bool) (set group : Nat) (nonSecure : Bool) (hk : InBeat σ s) :
    InBeat σ (State.xbPin s expert set group nonSecure).2 := by
  unfold State.xbPin
  repeat' first
    | with_reducible assumption
    | (with_reducible apply State.event_inBeat)
    | split
    | ((try lift_lets); intro x; revert x; refine InBeat.letS (r := σ) ?_ (fun x hx => ?_))

theorem State.xbPin_inBeat_eq {σ : State} {s : State} {expert : Bool} {set : Nat} {group : Nat} {nonSecure : Bool} {t : State} {r : Nat} (hk : InBeat σ s) (he : State.xbPin s expert set group nonSecure = (r, t)) :
    InBeat σ t := by
  have := State.xbPin_inBeat s expert set group nonSecure hk; rw [he] at this; exact this

theorem State.xbCmd_inBeat {σ : State} (s : State) (op : Nat) (expert : Bool) (k group : Nat) (hk : InBeat σ s) :
    InBeat σ (State.xbCmd s op expert k group) := by
  unfold State.xbCmd
  repeat' first
    | with_reducible assumption
    | (with_reducible apply State.wr_inBeat)
    | (with_reducible apply State.setBit_inBeat)
    | (with_reducible apply State.xbTo_inBeat)
    | split
    | ((try lift_lets); intro x; revert x; refine InBeat.letS (r := σ) ?_ (fun x hx => ?_))

theorem State.xbPending_inBeat {σ : State} (s : State) (expert : Bool) (k v : Nat) (hk : InBeat σ s) :
    InBeat σ (State.xbPending s expert k v) := by
  unfold State.xbPending
  repeat' first
    | with_reducible assumption
    | (with_reducible apply State.wrF_inBeat)
    | (with_reducible apply State.setBit_inBeat)
    | split

theorem State.forgetEnd_inBeat {σ : State} (s : State) (e : Nat) (all : Bool) (hk : InBeat σ s) :
    InBeat σ (State.forgetEnd s e all) := by
  unfold State.forgetEnd
  repeat' first
    | with_reducible assumption
    | split
    | ((try lift_lets); intro x; revert x; refine InBeat.letS (r := σ) ?_ (fun x hx => ?_))
    | (fail_if_no_progress ((with_reducible refine InBeat.mk ?_ ?_ ?_) <;> [skip; rfl; rfl]))

theorem State.endEnt_inBeat {σ : State} (s : State) (e : Nat) (st : EState) (reason : Nat) (hk : InBeat σ s) :
    InBeat σ (State.endEnt s e st reason) := by
  unfold State.endEnt
  repeat' first
    | with_reducible assumption
    | (with_reducible apply State.updEnt_inBeat)
    | (with_reducible apply State.sendToken_inBeat)
    | (with_reducible apply State.forgetEnd_inBeat)
    | split
    | ((try lift_lets); intro x; revert x; refine InBeat.letS (r := σ) ?_ (fun x hx => ?_))

theorem State.freeEnt_inBeat {σ : State} (s : State) (n e code : Nat) (hk : InBeat σ s) :
    InBeat σ (State.freeEnt s n e code) := by
  unfold State.freeEnt
  repeat' first
    | with_reducible assumption
    | (with_reducible apply State.setEnt_inBeat)
    | (with_reducible apply State.complete_inBeat)
    | (with_reducible apply State.setLists_inBeat)
    | (with_reducible apply State.forgetEnd_inBeat)
    | (with_reducible refine InBeat.foldl _ (fun t a ht => ?_) ?_)
    | split
    | ((try lift_lets); intro x; revert x; refine InBeat.letS (r := σ) ?_ (fun x hx => ?_))
    | (fail_if_no_progress ((with_reducible refine InBeat.mk ?_ ?_ ?_) <;> [skip; rfl; rfl]))

theorem State.freeEnded_inBeat {σ : State} (s : State) (n : Nat) (hk : InBeat σ s) :
    InBeat σ (State.freeEnded s n) := by
  unfold State.freeEnded
  repeat' first
    | with_reducible assumption
    | (with_reducible apply State.freeEnt_inBeat)
    | (with_reducible refine InBeat.foldl _ (fun t a ht => ?_) ?_)

theorem State.dropDraft_inBeat {σ : State} (s : State) (hk : InBeat σ s) :
    InBeat σ (State.dropDraft s) := by
  unfold State.dropDraft
  repeat' first
    | with_reducible assumption
    | (with_reducible apply State.setBit_inBeat)
    | (with_reducible apply State.bump_inBeat)

theorem State.storeDraft_inBeat {σ : State} (s : State) (e pos : Nat) (steps : List (Nat × DraftStep)) (tc : DWord) (whole : Bool) (hk : InBeat σ s) :
    InBeat σ (State.storeDraft s e pos steps tc whole) := by
  unfold State.storeDraft
  repeat' first
    | with_reducible assumption
    | (with_reducible apply State.dropDraft_inBeat)
    | split
    | ((try lift_lets); intro x; revert x; refine InBeat.letS (r := σ) ?_ (fun x hx => ?_))
    | (fail_if_no_progress ((with_reducible refine InBeat.mk ?_ ?_ ?_) <;> [skip; rfl; rfl]))

theorem State.queueOrReel_inBeat {σ : State} (s : State) (n e : Nat) (hk : InBeat σ s) :
    InBeat σ (State.queueOrReel s n e) := by
  unfold State.queueOrReel
  repeat' first
    | with_reducible assumption
    | (with_reducible apply State.updEnt_inBeat)

theorem State.unstage_inBeat {σ : State} (s : State) (n : Nat) (r : RingCmd) (hk : InBeat σ s) :
    InBeat σ (State.unstage s n r).2 := by
  unfold State.unstage
  repeat' first
    | with_reducible assumption
    | (with_reducible apply State.stagedWords_inBeat)
    | split

theorem State.unstage_inBeat_eq {σ : State} {s : State} {n : Nat} {r : RingCmd} {t : State} {r : RingCmd} (hk : InBeat σ s) (he : State.unstage s n r = (r, t)) :
    InBeat σ t := by
  have := State.unstage_inBeat s n r hk; rw [he] at this; exact this

theorem State.nextQseq_inBeat {σ : State} (s : State) (n : Nat) (hk : InBeat σ s) :
    InBeat σ (State.nextQseq s n).2 := by
  unfold State.nextQseq
  repeat' first
    | with_reducible assumption
    | split
    | ((try lift_lets); intro x; revert x; refine InBeat.letS (r := σ) ?_ (fun x hx => ?_))
    | (fail_if_no_progress ((with_reducible refine InBeat.mk ?_ ?_ ?_) <;> [skip; rfl; rfl]))

theorem State.nextQseq_inBeat_eq {σ : State} {s : State} {n : Nat} {t : State} {r : Nat} (hk : InBeat σ s) (he : State.nextQseq s n = (r, t)) :
    InBeat σ t := by
  have := State.nextQseq_inBeat s n hk; rw [he] at this; exact this

theorem State.takeSubmit_inBeat {σ : State} (s : State) (n : Nat) (r : RingCmd) (b : SubmitBody) (hk : InBeat σ s) :
    InBeat σ (State.takeSubmit s n r b) := by
  unfold State.takeSubmit
  repeat' first
    | with_reducible assumption
    | (with_reducible apply State.setEnt_inBeat)
    | (with_reducible apply State.complete_inBeat)
    | (with_reducible apply State.setLists_inBeat)
    | (with_reducible apply State.queueOrReel_inBeat)
    | (with_reducible apply State.nextQseq_inBeat)
    | split

theorem State.takeResume_inBeat {σ : State} (s : State) (n : Nat) (r : RingCmd) (maxNew : Nat) (deadline : DWord) (toks : List Word) (hk : InBeat σ s) :
    InBeat σ (State.takeResume s n r maxNew deadline toks) := by
  unfold State.takeResume
  repeat' first
    | with_reducible assumption
    | (with_reducible apply State.updEnt_inBeat)
    | (with_reducible apply State.complete_inBeat)
    | (with_reducible apply State.queueOrReel_inBeat)
    | (with_reducible apply State.nextQseq_inBeat)

theorem State.takeCmd_inBeat {σ : State} (s0 : State) (n : Nat) (r0 : RingCmd) (hk : InBeat σ s0) :
    InBeat σ (State.takeCmd s0 n r0) := by
  unfold State.takeCmd
  repeat' first
    | first
      | with_reducible assumption
      | (with_reducible apply State.updEnt_inBeat)
      | (with_reducible apply State.complete_inBeat)
      | (with_reducible apply State.endEnt_inBeat)
      | (with_reducible apply State.storeDraft_inBeat)
      | (with_reducible apply State.takeSubmit_inBeat)
      | (with_reducible apply State.takeResume_inBeat)
      | (with_reducible apply State.unstage_inBeat)
      | split
    | first
      | ((try lift_lets); intro x; revert x; refine InBeat.letS (r := σ) ?_ (fun x hx => ?_))
      | (fail_if_no_progress ((with_reducible refine InBeat.mk ?_ ?_ ?_) <;> [skip; rfl; rfl]))

theorem State.ackRing_inBeat {σ : State} (s : State) (uids : List Nat) (hk : InBeat σ s) :
    InBeat σ (State.ackRing s uids) := by
  unfold State.ackRing
  repeat' first
    | with_reducible assumption
    | (with_reducible apply State.emitAck_inBeat)
    | (with_reducible refine InBeat.foldl _ (fun t a ht => ?_) ?_)
    | split

theorem State.takeAll_inBeat {σ : State} (s : State) (n : Nat) (hk : InBeat σ s) :
    InBeat σ (State.takeAll s n) := by
  unfold State.takeAll
  repeat' first
    | with_reducible assumption
    | (with_reducible apply State.setRing_inBeat)
    | (with_reducible apply State.takeCmd_inBeat)
    | (with_reducible apply State.ackRing_inBeat)
    | (with_reducible refine InBeat.foldl _ (fun t a ht => ?_) ?_)
    | split
    | ((try lift_lets); intro x; revert x; refine InBeat.letS (r := σ) ?_ (fun x hx => ?_))

theorem State.writeClient_inBeat {σ : State} (s0 : State) (o : Origin) (c word : Nat) (v : Word) (hk : InBeat σ s0) :
    InBeat σ (State.writeClient s0 o c word v) := by
  unfold State.writeClient
  have h1 : InBeat σ (s0.log o 2 0xFF (BitVec.ofNat 32 (rRtCli (16 * c + word))) ((s0.cli c).words.getD word 0) v) :=
    State.log_inBeat _ _ _ _ _ _ _ hk
  extract_lets x s y used
  replace h1 : InBeat σ s := h1
  have hb : ∀ q : Cli, q.balance = x.balance → q.reserved = x.reserved → q.spent = x.spent → q.refilled = x.refilled →
      σ.Budgets → q.Book := fun q a b d e z => by
    have := hk.2 z c
    unfold Cli.Book at this ⊢
    rw [a, b, d, e]
    exact this
  clear_value s x used
  have hs : ∀ q : Cli, q.balance = x.balance → q.reserved = x.reserved → q.spent = x.spent → q.refilled = x.refilled →
      InBeat σ (s.setCli c q) := fun q a b d e => State.setCli_inBeat _ _ _ (hb q a b d e) h1
  repeat' split
  all_goals first
    | with_reducible exact h1
    | (with_reducible refine State.refuseWrite_inBeat _ _ _ _ ?_); exact hs _ rfl rfl rfl rfl
    | exact hs _ rfl rfl rfl rfl

theorem State.openClient_inBeat {σ : State} (s : State) (c : Nat) (hk : InBeat σ s) :
    InBeat σ (State.openClient s c) :=
  State.setCli_inBeat _ _ _ (fun _ => by simp [Cli.Book]) hk

theorem State.creditClient_inBeat {σ : State} (s : State) (c amount : Nat) (hk : InBeat σ s) :
    InBeat σ (State.creditClient s c amount) :=
  State.setCli_inBeat _ _ _ (fun x => by have := hk.2 x c; unfold Cli.Book at this ⊢; dsimp only; rw [← this]; bv_omega) hk

theorem State.clientWrites_inBeat {σ : State} (s : State) (f : Nat → Bool) (hk : InBeat σ s) :
    InBeat σ (State.clientWrites s f) := by
  unfold State.clientWrites
  repeat' first
    | with_reducible assumption
    | (with_reducible apply State.log_inBeat)
    | (with_reducible apply State.writeClient_inBeat)
    | (with_reducible apply State.openClient_inBeat)
    | (with_reducible apply State.creditClient_inBeat)
    | (with_reducible refine InBeat.foldl _ (fun t a ht => ?_) ?_)
    | split
    | ((try lift_lets); intro x; revert x; refine InBeat.letS (r := σ) ?_ (fun x hx => ?_))
    | (fail_if_no_progress ((with_reducible refine InBeat.mk ?_ ?_ ?_) <;> [skip; rfl; rfl]))

theorem Cli.refill_book {x : Cli} (t : Nat) (h : x.Book) : (x.refill t).Book := by
  unfold Cli.refill
  dsimp only
  split
  · exact h
  · unfold Cli.Book at h ⊢
    dsimp only
    rw [← h]
    bv_omega

theorem State.refills_inBeat {σ : State} (s : State) (n : Nat) (hk : InBeat σ s) :
    InBeat σ (State.refills s n) :=
  InBeat.foldl _ (fun _ c ht => State.setCli_inBeat _ _ _ (fun x => Cli.refill_book _ (ht.2 x c)) ht) hk

theorem Cli.book_reserve {b r R S F : BitVec 64} (h : b + R + S = F) : b - r + (R + r) + S = F := by
  rw [← h]
  ring

theorem Build.place_inBeat {σ : State} (b : Build) (p e : Nat) (pl : Plan) (new : Bool) (h : InBeat σ b.s) : InBeat σ (Build.place b p e pl new).s := by
  unfold Build.place
  extract_lets s x k d bytes r st rd s1 toks resv slot s2 cl s3 sr s4
  have kr : InBeat σ r.1 := State.pgPlace_inBeat _ _ _ _ _ _ _ h
  clear_value r
  have k1 : InBeat σ s1 := State.readTokens_inBeat _ _ _ _ _ (State.storeTokens_inBeat _ _ _ kr)
  clear_value s1
  have k2 : InBeat σ s2 := State.updEnt_inBeat _ _ _ k1
  have k3 : InBeat σ s3 := State.setCli_inBeat s2 x.client _ (fun y => Cli.book_reserve (k2.2 y x.client)) k2
  show InBeat σ s4
  unfold s4
  clear_value s3
  split
  · exact InBeat.mk k3 rfl rfl
  · exact k3

theorem Build.note_inBeat {σ : State} (b : Build) (e why : Nat) (h : InBeat σ b.s) : InBeat σ (Build.note b e why).s :=
  State.updEnt_inBeat _ _ _ h

theorem Build.cont_inBeat {σ : State} (n p : Nat) (b : Build) (e : Nat) (h : InBeat σ b.s) : InBeat σ (Build.cont n p b e).s := by
  have noted (f : Ent → Ent) (why : Nat) : InBeat σ (Build.note { b with s := b.s.updEnt e f } e why).s :=
    Build.note_inBeat _ _ _ (State.updEnt_inBeat _ _ _ h)
  unfold Build.cont
  dsimp only
  split
  · exact noted _ _
  · split
    · exact noted _ _
    · split
      · exact noted _ _
      · split
        · exact noted _ _
        · split
          · exact noted _ _
          · exact Build.place_inBeat _ _ _ _ _ h

theorem State.pinFor_inBeat {σ : State} (s : State) (n e : Nat) (hk : InBeat σ s) :
    InBeat σ (State.pinFor s n e) := by
  unfold State.pinFor
  repeat' first
    | with_reducible assumption
    | (with_reducible apply State.updEnt_inBeat)
    | (with_reducible apply State.xbPin_inBeat)
    | split

theorem Build.queued_inBeat {σ : State} (n p : Nat) (b : Build) (l : List Nat) (h : InBeat σ b.s) : InBeat σ (Build.queued n p b l).s := by
  induction l generalizing b with
  | nil => exact h
  | cons e r ih =>
    unfold Build.queued
    extract_lets s pl d x why b1 b2
    have k1 : InBeat σ b1.s := Build.note_inBeat _ _ _ h
    have k2 : InBeat σ b2.s := by
      unfold b2
      split
      · exact State.endEnt_inBeat _ _ _ _ k1
      · exact k1
    split
    · exact ih _ (Build.place_inBeat _ _ _ _ _ (State.pinFor_inBeat _ _ _ h))
    · split
      · exact k2
      · exact ih _ k2

theorem State.pgCommit_inBeat {σ : State} (s : State) (p : Nat) (anchor : Bool) (w : Wire) (hk : InBeat σ s) :
    InBeat σ (State.pgCommit s p anchor w) := by
  unfold State.pgCommit
  repeat' first
    | with_reducible assumption
    | (with_reducible apply State.setLists_inBeat)
    | split
    | ((try lift_lets); intro x; revert x; refine InBeat.letS (r := σ) ?_ (fun x hx => ?_))

theorem State.reelDecide_inBeat {σ : State} (s0 : State) (n p : Nat) (hk : InBeat σ s0) :
    InBeat σ (State.reelDecide s0 n p) := by
  unfold State.reelDecide
  repeat' first
    | with_reducible assumption
    | (with_reducible apply State.setPg_inBeat)
    | split
    | ((try lift_lets); intro x; revert x; refine InBeat.letS (r := σ) ?_ (fun x hx => ?_))

theorem State.noteLast_inBeat {σ : State} (s : State) (n : Nat) (slots : Option Nat) (reason refused : Nat) (hk : InBeat σ s) :
    InBeat σ (State.noteLast s n slots reason refused) := by
  unfold State.noteLast
  repeat' first
    | with_reducible assumption
    | (with_reducible apply State.wr_inBeat)

theorem State.unplace_inBeat {σ : State} (s : State) (n : Nat) (hk : InBeat σ s) :
    InBeat σ (State.unplace s n) := by
  unfold State.unplace
  repeat' first
    | with_reducible assumption
    | (with_reducible apply State.updEnt_inBeat)
    | (with_reducible refine InBeat.foldl _ (fun t a ht => ?_) ?_)

theorem Build.conts_inBeat {σ : State} (n p : Nat) (l : List Nat) (b : Build) (h : InBeat σ b.s) :
    InBeat σ (l.foldl (fun b e => b.cont n p e) b).s := by
  induction l generalizing b with
  | nil => exact h
  | cons e r ih => exact ih _ (Build.cont_inBeat _ _ _ _ h)

theorem State.admitGroup_inBeat {σ : State} (s : State) (n ready : Nat) (hk : InBeat σ s) : InBeat σ (s.admitGroup n ready) := by
  unfold State.admitGroup
  extract_lets rest
  have kr : InBeat σ rest := State.unplace_inBeat _ _ hk
  clear_value rest
  split
  · exact State.noteLast_inBeat _ _ _ _ _ kr
  · split
    · exact State.noteLast_inBeat _ _ _ _ _ kr
    · extract_lets q s1 live cont b1 waiting b2 q2 s2 q3 ops apps s3 t
      have k1 : InBeat σ b1.s := Build.conts_inBeat _ _ _ _ (State.setPg_inBeat _ _ _ hk)
      have k2 : InBeat σ b2.s := by
        unfold b2
        clear_value b1
        split
        · exact k1
        · exact Build.queued_inBeat _ _ _ _ k1
      have k3 : InBeat σ s3 := State.setPg_inBeat _ _ _ (State.reelDecide_inBeat _ _ _ (State.setPg_inBeat _ _ _ k2))
      clear_value s3
      exact State.noteLast_inBeat _ _ _ _ _ (InBeat.mk k3 rfl rfl)

theorem State.orderDone_inBeat {σ : State} (s : State) (n p : Nat) (o : Order) (hk : InBeat σ s) :
    InBeat σ (State.orderDone s n p o) := by
  unfold State.orderDone
  repeat' first
    | with_reducible assumption
    | (with_reducible apply State.setBit_inBeat)
    | (with_reducible apply State.event_inBeat)
    | (with_reducible apply State.setPg_inBeat)
    | split
    | ((try lift_lets); intro x; revert x; refine InBeat.letS (r := σ) ?_ (fun x hx => ?_))

theorem State.ordersDone_inBeat {σ : State} (s : State) (n p : Nat) (hk : InBeat σ s) :
    InBeat σ (State.ordersDone s n p) := by
  unfold State.ordersDone
  repeat' first
    | with_reducible assumption
    | (with_reducible apply State.setPg_inBeat)
    | (with_reducible apply State.orderDone_inBeat)
    | (with_reducible refine InBeat.foldl _ (fun t a ht => ?_) ?_)

theorem State.selections_inBeat {σ : State} (s : State) (n p : Nat) (hk : InBeat σ s) :
    InBeat σ (State.selections s n p) := by
  unfold State.selections
  repeat' first
    | with_reducible assumption
    | (with_reducible apply State.setPg_inBeat)
    | (with_reducible apply State.updEnt_inBeat)
    | (with_reducible refine InBeat.foldl _ (fun t a ht => ?_) ?_)
    | split
    | ((try lift_lets); intro x; revert x; refine InBeat.letS (r := σ) ?_ (fun x hx => ?_))

theorem State.sendFetched_inBeat {σ : State} (s : State) (p : Nat) (f : FetchJob) (lo hi : Nat) (hk : InBeat σ s) :
    InBeat σ (State.sendFetched s p f lo hi) := by
  unfold State.sendFetched
  repeat' first
    | with_reducible assumption
    | (with_reducible apply State.sendToken_inBeat)
    | (with_reducible apply State.readTokens_inBeat)
    | (with_reducible refine InBeat.foldl _ (fun t a ht => ?_) ?_)

theorem State.serveFetch_inBeat {σ : State} (s : State) (p : Nat) (f : FetchJob) (hk : InBeat σ s) :
    InBeat σ (State.serveFetch s p f) := by
  unfold State.serveFetch
  repeat' first
    | with_reducible assumption
    | (with_reducible apply State.updEnt_inBeat)
    | (with_reducible apply State.complete_inBeat)
    | (with_reducible apply State.sendFetched_inBeat)
    | (with_reducible apply State.readTokens_inBeat)
    | split
    | ((try lift_lets); intro x; revert x; refine InBeat.letS (r := σ) ?_ (fun x hx => ?_))
    | (fail_if_no_progress ((with_reducible refine InBeat.mk ?_ ?_ ?_) <;> [skip; rfl; rfl]))

theorem State.reeled_inBeat {σ : State} (s : State) (n p : Nat) (hk : InBeat σ s) :
    InBeat σ (State.reeled s n p) := by
  unfold State.reeled
  repeat' first
    | with_reducible assumption
    | (with_reducible apply State.updEnt_inBeat)
    | (with_reducible refine InBeat.foldl _ (fun t a ht => ?_) ?_)

theorem State.releaseGroup_inBeat {σ : State} (s : State) (n : Nat) (hk : InBeat σ s) : InBeat σ (s.releaseGroup n) := by
  unfold State.releaseGroup
  extract_lets live alive s1 s2 s3 ring s4 s5
  have k1 : InBeat σ s1 := InBeat.foldl _ (fun _ _ ht => State.endEnt_inBeat _ _ _ _ ht) hk
  have k2 : InBeat σ s2 := InBeat.foldl _ (fun _ _ ht => State.freeEnt_inBeat _ _ _ _ ht) k1
  have k3 : InBeat σ s3 := InBeat.foldl _ (fun _ c ht => State.setCli_inBeat _ _ _ (fun x => ht.2 x c) ht) k2
  have k4 : InBeat σ s4 := InBeat.foldl _ (fun _ _ ht => State.complete_inBeat _ _ _ _ _ _ _ _ ht) (State.setRing_inBeat _ _ _ k3)
  have k5 : InBeat σ s5 := State.ackRing_inBeat _ _ k4
  clear_value s5
  exact State.clrBit_inBeat _ _ _ (InBeat.mk k5 rfl rfl)

theorem State.heldGroup_inBeat {σ : State} (s : State) (h : Origin × HeldWrite) (hk : InBeat σ s) :
    InBeat σ (State.heldGroup s h) := by
  unfold State.heldGroup
  repeat' first
    | with_reducible assumption
    | (with_reducible apply State.wrF_inBeat)
    | (with_reducible apply State.setBit_inBeat)
    | (with_reducible apply State.refuseWrite_inBeat)
    | (with_reducible apply State.releaseGroup_inBeat)
    | split

theorem State.groupStep_inBeat {σ : State} (n : Nat) (a : State × Nat) (h : InBeat σ a.1) : InBeat σ (State.groupStep n a).1 := by
  unfold State.groupStep
  repeat' first
    | first
      | with_reducible assumption
      | (with_reducible apply State.freeEnded_inBeat)
      | (with_reducible apply State.takeAll_inBeat)
      | (with_reducible apply State.clientWrites_inBeat)
      | (with_reducible apply State.refills_inBeat)
      | (with_reducible apply State.admitGroup_inBeat)
      | (with_reducible apply State.ordersDone_inBeat)
      | (with_reducible apply State.selections_inBeat)
      | (with_reducible apply State.serveFetch_inBeat)
    | first
      | (with_reducible apply State.reeled_inBeat)
      | (with_reducible refine InBeat.foldl _ (fun t a ht => ?_) ?_)
      | split
      | ((try lift_lets); intro x; revert x; refine InBeat.letS (r := σ) ?_ (fun x hx => ?_))

theorem State.groupStep_inBeat_eq {σ : State} {n : Nat} {a : State × Nat} {t : State} {r : Nat} (h : InBeat σ a.1) (e : State.groupStep n a = (t, r)) : InBeat σ t := by
  have := State.groupStep_inBeat n a h; rw [e] at this; exact this

theorem State.workStep_inBeat {σ : State} (s : State) (hk : InBeat σ s) :
    InBeat σ (State.workStep s) := by
  unfold State.workStep
  repeat' first
    | with_reducible assumption
    | (with_reducible apply State.xbFlip_inBeat)
    | (with_reducible apply State.clientWrites_inBeat)
    | (with_reducible apply State.heldGroup_inBeat)
    | (with_reducible apply State.groupStep_inBeat)
    | (with_reducible refine InBeat.foldl _ (fun t a ht => ?_) ?_)
    | (with_reducible refine InBeat.foldl_fst _ (fun t a ht => ?_) ?_)
    | ((try lift_lets); intro x; revert x; refine InBeat.letS (r := σ) ?_ (fun x hx => ?_))
    | (fail_if_no_progress ((with_reducible refine InBeat.mk ?_ ?_ ?_) <;> [skip; rfl; rfl]))

theorem Cli.book_charge {b r u R S F : BitVec 64} (h : b + R + S = F) : b + (r - u) + (R - r) + (S + u) = F := by
  rw [← h]
  ring

theorem State.charge_inBeat {σ : State} (s : State) (c resv used : Nat) (hk : InBeat σ s) :
    InBeat σ (State.charge s c resv used) :=
  State.setCli_inBeat s c _ (fun x => Cli.book_charge (hk.2 x c)) hk

theorem State.keepTokens_inBeat {σ : State} (s : State) (p e start : Nat) (toks : List Word) (hk : InBeat σ s) :
    InBeat σ (State.keepTokens s p e start toks) := by
  unfold State.keepTokens
  repeat' first
    | with_reducible assumption
    | (with_reducible apply State.updEnt_inBeat)
    | (with_reducible apply State.putToken_inBeat)
    | (with_reducible refine InBeat.foldl _ (fun t a ht => ?_) ?_)
    | split

theorem State.commitSlot_inBeat {σ : State} (s : State) (n p : Nat) (bno : BitVec 48) (b : BSlot) (res : Option SlotResult) (hk : InBeat σ s) :
    InBeat σ (State.commitSlot s n p bno b res) := by
  unfold State.commitSlot
  repeat' first
    | with_reducible assumption
    | (with_reducible apply State.updEnt_inBeat)
    | (with_reducible apply State.sendToken_inBeat)
    | (with_reducible apply State.endEnt_inBeat)
    | (with_reducible apply State.charge_inBeat)
    | (with_reducible apply State.keepTokens_inBeat)
    | split
    | ((try lift_lets); intro x; revert x; refine InBeat.letS (r := σ) ?_ (fun x hx => ?_))

theorem State.forgetTable_inBeat {σ : State} (s : State) (t : BTable) (hk : InBeat σ s) :
    InBeat σ (State.forgetTable s t) := by
  unfold State.forgetTable
  repeat' first
    | with_reducible assumption
    | ((try lift_lets); intro x; revert x; refine InBeat.letS (r := σ) ?_ (fun x hx => ?_))
    | (fail_if_no_progress ((with_reducible refine InBeat.mk ?_ ?_ ?_) <;> [skip; rfl; rfl]))

theorem State.commitTable_inBeat {σ : State} (s : State) (t : BTable) (hk : InBeat σ s) :
    InBeat σ (State.commitTable s t) := by
  unfold State.commitTable
  repeat' first
    | with_reducible assumption
    | (with_reducible apply State.xbSettle_inBeat)
    | (with_reducible apply State.pgCommit_inBeat)
    | (with_reducible apply State.commitSlot_inBeat)
    | (with_reducible apply State.forgetTable_inBeat)
    | (with_reducible refine InBeat.foldl _ (fun t a ht => ?_) ?_)
    | split

theorem State.dropSlot_inBeat {σ : State} (s : State) (fault : Bool) (b : BSlot) (hk : InBeat σ s) :
    InBeat σ (State.dropSlot s fault b) := by
  unfold State.dropSlot
  repeat' first
    | with_reducible assumption
    | (with_reducible apply State.updEnt_inBeat)
    | (with_reducible apply State.endEnt_inBeat)
    | (with_reducible apply State.charge_inBeat)
    | split

theorem State.discardTable_inBeat {σ : State} (s : State) (fault : Bool) (t : BTable) (hk : InBeat σ s) :
    InBeat σ (State.discardTable s fault t) := by
  unfold State.discardTable
  repeat' first
    | with_reducible assumption
    | (with_reducible apply State.setLists_inBeat)
    | (with_reducible apply State.forgetTable_inBeat)
    | (with_reducible apply State.dropSlot_inBeat)
    | (with_reducible refine InBeat.foldl _ (fun t a ht => ?_) ?_)
    | split

theorem State.commitMembers_inBeat {σ : State} (s : State) (groups : Nat → Bool) (hk : InBeat σ s) :
    InBeat σ (State.commitMembers s groups) := by
  unfold State.commitMembers
  repeat' first
    | with_reducible assumption
    | (with_reducible apply State.pgCommit_inBeat)
    | (with_reducible refine InBeat.foldl _ (fun t a ht => ?_) ?_)

theorem State.discardMembers_inBeat {σ : State} (s : State) (groups : Nat → Bool) (hk : InBeat σ s) :
    InBeat σ (State.discardMembers s groups) := by
  unfold State.discardMembers
  repeat' first
    | with_reducible assumption
    | (with_reducible apply State.setLists_inBeat)
    | (with_reducible refine InBeat.foldl _ (fun t a ht => ?_) ?_)
    | split

theorem State.dropUncommitted_inBeat {σ : State} (s : State) (g : Nat) (hk : InBeat σ s) :
    InBeat σ (State.dropUncommitted s g) := by
  unfold State.dropUncommitted
  repeat' first
    | with_reducible assumption
    | (with_reducible apply State.unplace_inBeat)
    | (with_reducible apply State.discardTable_inBeat)
    | (with_reducible apply State.discardMembers_inBeat)
    | (with_reducible refine InBeat.foldl _ (fun t a ht => ?_) ?_)
    | split
    | ((try lift_lets); intro x; revert x; refine InBeat.letS (r := σ) ?_ (fun x hx => ?_))

theorem State.snapshot_inBeat {σ : State} (s : State) (hk : InBeat σ s) :
    InBeat σ (State.snapshot s) := by
  unfold State.snapshot
  repeat' first
    | with_reducible assumption
    | (with_reducible apply State.wr_inBeat)
    | (with_reducible apply State.xbCount_inBeat)
    | (with_reducible refine InBeat.foldl _ (fun t a ht => ?_) ?_)
    | ((try lift_lets); intro x; revert x; refine InBeat.letS (r := σ) ?_ (fun x hx => ?_))
    | (fail_if_no_progress ((with_reducible refine InBeat.mk ?_ ?_ ?_) <;> [skip; rfl; rfl]))

theorem State.sendRoce_inBeat {σ : State} (s0 : State) (k psn : Nat) (op : RoceOp) (va : DWord) (rkey : Word) (len : Nat) (data : List Byte) (hk : InBeat σ s0) :
    InBeat σ (State.sendRoce s0 k psn op va rkey len data) := by
  unfold State.sendRoce
  repeat' first
    | with_reducible assumption
    | (with_reducible apply State.carry_inBeat)
    | ((try lift_lets); intro x; revert x; refine InBeat.letS (r := σ) ?_ (fun x hx => ?_))
    | (fail_if_no_progress ((with_reducible refine InBeat.mk ?_ ?_ ?_) <;> [skip; rfl; rfl]))

theorem State.sendReq_inBeat {σ : State} (s : State) (k : Nat) (r : RoceReq) (skip : Nat) (hk : InBeat σ s) :
    InBeat σ (State.sendReq s k r skip) := by
  unfold State.sendReq
  repeat' first
    | with_reducible assumption
    | (with_reducible apply State.sendRoce_inBeat)
    | (with_reducible refine InBeat.foldl _ (fun t a ht => ?_) ?_)

theorem State.postReq_inBeat {σ : State} (s : State) (k : Nat) (r : RoceReq) (hk : InBeat σ s) :
    InBeat σ (State.postReq s k r) := by
  unfold State.postReq
  repeat' first
    | with_reducible assumption
    | (with_reducible apply State.wrF_inBeat)
    | (with_reducible apply State.setQp_inBeat)
    | (with_reducible apply State.sendReq_inBeat)
    | split
    | ((try lift_lets); intro x; revert x; refine InBeat.letS (r := σ) ?_ (fun x hx => ?_))

theorem State.readParts_inBeat {σ : State} (s : State) (rl p : Nat) (parts : List (Nat × Nat × Nat)) (hk : InBeat σ s) :
    InBeat σ (State.readParts s rl p parts).2.2 := by
  unfold State.readParts
  repeat' first
    | with_reducible assumption
    | (with_reducible apply State.atEndpoint_inBeat)
    | (with_reducible apply State.unitRead_inBeat)
    | (with_reducible refine InBeat.foldl_trd _ (fun t a ht => ?_) ?_)

theorem State.readParts_inBeat_eq {σ : State} {s : State} {rl : Nat} {p : Nat} {parts : List (Nat × Nat × Nat)} {t : State} {r : List Byte} {r2 : Bool} (hk : InBeat σ s) (he : State.readParts s rl p parts = (r, r2, t)) :
    InBeat σ t := by
  have := State.readParts_inBeat s rl p parts hk; rw [he] at this; exact this

theorem State.sendRecord_inBeat {σ : State} (s : State) (p : Nat) (hk : InBeat σ s) :
    InBeat σ (State.sendRecord s p) := by
  unfold State.sendRecord
  repeat' first
    | with_reducible assumption
    | split
    | ((try lift_lets); intro x; revert x; refine InBeat.letS (r := σ) ?_ (fun x hx => ?_))
    | (fail_if_no_progress ((with_reducible refine InBeat.mk ?_ ?_ ?_) <;> [skip; rfl; rfl]))

theorem State.settleDone_inBeat {σ : State} (s : State) (p : Nat) (hk : InBeat σ s) :
    InBeat σ (State.settleDone s p) := by
  unfold State.settleDone
  repeat' first
    | with_reducible assumption
    | (with_reducible apply State.setPg_inBeat)
    | (with_reducible apply State.sendRecord_inBeat)
    | split
    | ((try lift_lets); intro x; revert x; refine InBeat.letS (r := σ) ?_ (fun x hx => ?_))

theorem State.finishOrder_inBeat {σ : State} (s : State) (p : Nat) (o : Order) (hk : InBeat σ s) :
    InBeat σ (State.finishOrder s p o) := by
  unfold State.finishOrder
  repeat' first
    | with_reducible assumption
    | (with_reducible apply State.setPg_inBeat)
    | (with_reducible apply State.settleDone_inBeat)

theorem State.failOrder_inBeat {σ : State} (s : State) (p seq : Nat) (poison : Bool) (hk : InBeat σ s) :
    InBeat σ (State.failOrder s p seq poison) := by
  unfold State.failOrder
  repeat' first
    | with_reducible assumption
    | (with_reducible apply State.setBit_inBeat)
    | (with_reducible apply State.setPg_inBeat)
    | (with_reducible apply State.sendRecord_inBeat)
    | split
    | ((try lift_lets); intro x; revert x; refine InBeat.letS (r := σ) ?_ (fun x hx => ?_))

theorem State.startOrder_inBeat {σ : State} (s : State) (p : Nat) (o : Order) (hk : InBeat σ s) :
    InBeat σ (State.startOrder s p o) := by
  unfold State.startOrder
  repeat' first
    | with_reducible assumption
    | (with_reducible apply State.setPg_inBeat)
    | (with_reducible apply State.postReq_inBeat)
    | (with_reducible apply State.finishOrder_inBeat)
    | (with_reducible apply State.failOrder_inBeat)
    | (with_reducible apply State.readParts_inBeat)
    | split
    | ((try lift_lets); intro x; revert x; refine InBeat.letS (r := σ) ?_ (fun x hx => ?_))
    | (fail_if_no_progress ((with_reducible refine InBeat.mk ?_ ?_ ?_) <;> [skip; rfl; rfl]))

theorem State.reelAgain_inBeat {σ : State} (s : State) (p seq : Nat) (hk : InBeat σ s) :
    InBeat σ (State.reelAgain s p seq) := by
  unfold State.reelAgain
  repeat' first
    | with_reducible assumption
    | (with_reducible apply State.startOrder_inBeat)
    | split

theorem State.startOrders_inBeat {σ : State} (s : State) (p : Nat) (hk : InBeat σ s) :
    InBeat σ (State.startOrders s p) := by
  unfold State.startOrders
  repeat' first
    | with_reducible assumption
    | (with_reducible apply State.startOrder_inBeat)
    | (with_reducible refine InBeat.foldl _ (fun t a ht => ?_) ?_)

theorem State.qpError_inBeat {σ : State} (s : State) (k : Nat) (hk : InBeat σ s) :
    InBeat σ (State.qpError s k) := by
  unfold State.qpError
  repeat' first
    | with_reducible assumption
    | (with_reducible apply State.wrF_inBeat)
    | (with_reducible apply State.setQp_inBeat)
    | (with_reducible apply State.failOrder_inBeat)
    | (with_reducible refine InBeat.foldl _ (fun t a ht => ?_) ?_)

theorem State.goOn_inBeat {σ : State} (s : State) (p : Nat) (hk : InBeat σ s) :
    InBeat σ (State.goOn s p) := by
  unfold State.goOn
  repeat' first
    | with_reducible assumption
    | (with_reducible apply State.setPg_inBeat)
    | (with_reducible apply State.sendRecord_inBeat)
    | (with_reducible apply State.startOrders_inBeat)

theorem State.rlRetry_inBeat {σ : State} (s : State) (p : Nat) (hk : InBeat σ s) :
    InBeat σ (State.rlRetry s p) := by
  unfold State.rlRetry
  repeat' first
    | with_reducible assumption
    | (with_reducible apply State.setPg_inBeat)
    | (with_reducible apply State.startOrder_inBeat)
    | (with_reducible apply State.goOn_inBeat)
    | split
    | ((try lift_lets); intro x; revert x; refine InBeat.letS (r := σ) ?_ (fun x hx => ?_))

theorem State.rlAbandon_inBeat {σ : State} (s : State) (p : Nat) (hk : InBeat σ s) :
    InBeat σ (State.rlAbandon s p) := by
  unfold State.rlAbandon
  repeat' first
    | with_reducible assumption
    | (with_reducible apply State.setPg_inBeat)
    | (with_reducible apply State.goOn_inBeat)
    | split
    | ((try lift_lets); intro x; revert x; refine InBeat.letS (r := σ) ?_ (fun x hx => ?_))

theorem State.rlControls_inBeat {σ : State} (s : State) (hk : InBeat σ s) :
    InBeat σ (State.rlControls s) := by
  unfold State.rlControls
  repeat' first
    | with_reducible assumption
    | (with_reducible apply State.setPg_inBeat)
    | (with_reducible apply State.rlRetry_inBeat)
    | (with_reducible apply State.rlAbandon_inBeat)
    | (with_reducible refine InBeat.foldl _ (fun t a ht => ?_) ?_)
    | split

theorem State.readRecords_inBeat {σ : State} (s : State) (p : Nat) (hk : InBeat σ s) :
    InBeat σ (State.readRecords s p) := by
  unfold State.readRecords
  repeat' first
    | with_reducible assumption
    | (with_reducible apply State.setBit_inBeat)
    | (with_reducible apply State.event_inBeat)
    | (with_reducible apply State.setPg_inBeat)
    | (with_reducible apply State.pgRead_inBeat)
    | (with_reducible refine InBeat.foldl _ (fun t a ht => ?_) ?_)
    | split
    | ((try lift_lets); intro x; revert x; refine InBeat.letS (r := σ) ?_ (fun x hx => ?_))

theorem State.loaderPut_inBeat {σ : State} (s : State) (p : Prog) (c a : Nat) (bs : List Byte) (hk : InBeat σ s) :
    InBeat σ (State.loaderPut s p c a bs) := by
  unfold State.loaderPut
  repeat' first
    | with_reducible assumption
    | (with_reducible apply State.writeG_inBeat)

theorem State.zeroProg_inBeat {σ : State} (s : State) (p : Prog) (hk : InBeat σ s) :
    InBeat σ (State.zeroProg s p) := by
  unfold State.zeroProg
  repeat' first
    | with_reducible assumption
    | (with_reducible apply State.setBit_inBeat)
    | (with_reducible apply State.zeroize_inBeat)
    | (with_reducible refine InBeat.foldl _ (fun t a ht => ?_) ?_)

theorem State.zeroDone_inBeat {σ : State} (s : State) (hk : InBeat σ s) :
    InBeat σ (State.zeroDone s) := by
  unfold State.zeroDone
  repeat' first
    | with_reducible assumption
    | (with_reducible apply State.wrF_inBeat)
    | (with_reducible refine InBeat.foldl _ (fun t a ht => ?_) ?_)

theorem State.updPart_inBeat {σ : State} (s : State) (p : Nat) (f : Part → Part) (hk : InBeat σ s) :
    InBeat σ (State.updPart s p f) := by
  unfold State.updPart
  repeat' first
    | with_reducible assumption
    | (with_reducible apply State.setPart_inBeat)

theorem State.partTo_inBeat {σ : State} (s : State) (p : Nat) (st : PState) (hk : InBeat σ s) :
    InBeat σ (State.partTo s p st) := by
  unfold State.partTo
  repeat' first
    | with_reducible assumption
    | (with_reducible apply State.log_inBeat)
    | (with_reducible apply State.updPart_inBeat)
    | split
    | ((try lift_lets); intro x; revert x; refine InBeat.letS (r := σ) ?_ (fun x hx => ?_))

theorem State.loadRefused_inBeat {σ : State} (s : State) (p code : Nat) (hk : InBeat σ s) :
    InBeat σ (State.loadRefused s p code) := by
  unfold State.loadRefused
  repeat' first
    | with_reducible assumption
    | (with_reducible apply State.log_inBeat)

theorem State.patchOne_inBeat {σ : State} (s : State) (p : Prog) (e : List Byte) (v : Nat) (hk : InBeat σ s) :
    InBeat σ (State.patchOne s p e v) := by
  unfold State.patchOne
  repeat' first
    | with_reducible assumption
    | (with_reducible apply State.writeMasked_inBeat)
    | (with_reducible apply State.loaderPut_inBeat)
    | (with_reducible refine InBeat.foldl _ (fun t a ht => ?_) ?_)
    | split

theorem State.installRuns_inBeat {σ : State} (s : State) (owner : Nat) (m : Image) (hk : InBeat σ s) :
    InBeat σ (State.installRuns s owner m) := by
  unfold State.installRuns
  repeat' first
    | with_reducible assumption
    | ((try lift_lets); intro x; revert x; refine InBeat.letS (r := σ) ?_ (fun x hx => ?_))
    | (fail_if_no_progress ((with_reducible refine InBeat.mk ?_ ?_ ?_) <;> [skip; rfl; rfl]))

theorem State.removeRuns_inBeat {σ : State} (s : State) (owner : Nat) (hk : InBeat σ s) :
    InBeat σ (State.removeRuns s owner) := by
  unfold State.removeRuns
  repeat' first
    | with_reducible assumption
    | ((try lift_lets); intro x; revert x; refine InBeat.letS (r := σ) ?_ (fun x hx => ?_))
    | (fail_if_no_progress ((with_reducible refine InBeat.mk ?_ ?_ ?_) <;> [skip; rfl; rfl]))

theorem State.bindSlice_inBeat {σ : State} (s : State) (pr : Prog) (secure : Bool) (c : Nat) (hk : InBeat σ s) :
    InBeat σ (State.bindSlice s pr secure c) := by
  unfold State.bindSlice
  repeat' first
    | with_reducible assumption
    | (with_reducible apply State.wr_inBeat)
    | (with_reducible refine InBeat.foldl _ (fun t a ht => ?_) ?_)

theorem State.bindCore_inBeat {σ : State} (s : State) (p : Prog) (c : Nat) (hk : InBeat σ s) :
    InBeat σ (State.bindCore s p c) := by
  unfold State.bindCore
  repeat' first
    | with_reducible assumption
    | (with_reducible apply State.wr_inBeat)
    | (with_reducible apply State.updCore_inBeat)
    | (with_reducible apply State.checkRows_inBeat)
    | (with_reducible refine InBeat.foldl _ (fun t a ht => ?_) ?_)
    | split
    | ((try lift_lets); intro x; revert x; refine InBeat.letS (r := σ) ?_ (fun x hx => ?_))
    | (fail_if_no_progress ((with_reducible refine InBeat.mk ?_ ?_ ?_) <;> [skip; rfl; rfl]))

theorem State.setRegions_inBeat {σ : State} (s : State) (p level : Nat) (at_ : Nat → Bool) (hk : InBeat σ s) :
    InBeat σ (State.setRegions s p level at_) := by
  unfold State.setRegions
  repeat' first
    | with_reducible assumption
    | (with_reducible apply State.wrF_inBeat)
    | (with_reducible apply State.clrBit_inBeat)
    | (with_reducible refine InBeat.foldl _ (fun t a ht => ?_) ?_)
    | split

theorem State.wakeRegions_inBeat {σ : State} (s : State) (p : Nat) (hk : InBeat σ s) :
    InBeat σ (State.wakeRegions s p) := by
  unfold State.wakeRegions
  repeat' first
    | with_reducible assumption
    | (with_reducible apply State.setRegions_inBeat)

theorem State.raiseRegions_inBeat {σ : State} (s : State) (p : Nat) (hk : InBeat σ s) :
    InBeat σ (State.raiseRegions s p) := by
  unfold State.raiseRegions
  repeat' first
    | with_reducible assumption
    | (with_reducible apply State.setRegions_inBeat)

theorem State.orphanReqs_inBeat {σ : State} (s : State) (p : Nat) (hk : InBeat σ s) :
    InBeat σ (State.orphanReqs s p) := by
  unfold State.orphanReqs
  exact InBeat.foldl _ (fun t _ ht => State.setQp_inBeat t _ _ ht) hk

theorem State.bindTo_inBeat {σ : State} (s : State) (p : Nat) (pr : Prog) (b : BindBody) (hk : InBeat σ s) :
    InBeat σ (State.bindTo s p pr b) := by
  unfold State.bindTo
  repeat' first
    | first
      | with_reducible assumption
      | (with_reducible apply State.setPg_inBeat)
      | (with_reducible apply State.takeBooks_inBeat)
      | (with_reducible apply State.updPart_inBeat)
      | (with_reducible apply State.partTo_inBeat)
      | (with_reducible apply State.patchOne_inBeat)
      | (with_reducible apply State.installRuns_inBeat)
      | (with_reducible apply State.bindSlice_inBeat)
      | (with_reducible apply State.bindCore_inBeat)
    | first
      | (with_reducible apply State.wakeRegions_inBeat)
      | (with_reducible apply State.clearFlags_inBeat)
      | (with_reducible apply State.orphanReqs_inBeat)
      | (with_reducible refine InBeat.foldl _ (fun t a ht => ?_) ?_)
      | split

theorem State.releaseProgs_inBeat {σ : State} (s : State) (p : Nat) (keep : Word) (hk : InBeat σ s) :
    InBeat σ (State.releaseProgs s p keep) := by
  unfold State.releaseProgs
  repeat' first
    | with_reducible assumption
    | (with_reducible apply State.zeroProg_inBeat)
    | (with_reducible apply State.updPart_inBeat)
    | (with_reducible refine InBeat.foldl _ (fun t a ht => ?_) ?_)

theorem State.unbindCore_inBeat {σ : State} (s : State) (c : Nat) (hk : InBeat σ s) :
    InBeat σ (State.unbindCore s c) := by
  unfold State.unbindCore
  repeat' first
    | with_reducible assumption
    | (with_reducible apply State.updCore_inBeat)

theorem State.unbindPart_inBeat {σ : State} (s : State) (p : Nat) (keep : Word) (hk : InBeat σ s) :
    InBeat σ (State.unbindPart s p keep) := by
  unfold State.unbindPart
  repeat' first
    | with_reducible assumption
    | (with_reducible apply State.dropUncommitted_inBeat)
    | (with_reducible apply State.updPart_inBeat)
    | (with_reducible apply State.removeRuns_inBeat)
    | (with_reducible apply State.clearFlags_inBeat)
    | (with_reducible apply State.releaseProgs_inBeat)
    | (with_reducible apply State.unbindCore_inBeat)
    | (with_reducible refine InBeat.foldl _ (fun t a ht => ?_) ?_)
    | split

theorem State.logTransit_inBeat {σ : State} (s : State) (old new : PState) (hk : InBeat σ s) :
    InBeat σ (State.logTransit s old new) := by
  unfold State.logTransit
  repeat' first
    | with_reducible assumption
    | (with_reducible apply State.log_inBeat)

theorem State.unbindTransits_inBeat {σ : State} (s : State) (keep : Word) (hk : InBeat σ s) :
    InBeat σ (State.unbindTransits s keep) := by
  unfold State.unbindTransits
  repeat' first
    | with_reducible assumption
    | (with_reducible apply State.removeRuns_inBeat)
    | (with_reducible apply State.releaseProgs_inBeat)
    | (with_reducible apply State.logTransit_inBeat)
    | (with_reducible refine InBeat.foldl _ (fun t a ht => ?_) ?_)
    | (fail_if_no_progress ((with_reducible refine InBeat.mk ?_ ?_ ?_) <;> [skip; rfl; rfl]))

theorem State.bindHalf_inBeat {σ : State} (s : State) (o : PartOp) (b : BindBody) (hk : InBeat σ s) :
    InBeat σ (State.bindHalf s o b).1 := by
  unfold State.bindHalf
  repeat' first
    | with_reducible assumption
    | (with_reducible apply State.loadRefused_inBeat)
    | (with_reducible apply State.installRuns_inBeat)
    | (with_reducible apply State.bindTo_inBeat)
    | (with_reducible apply State.logTransit_inBeat)
    | split
    | ((try lift_lets); intro x; revert x; refine InBeat.letS (r := σ) ?_ (fun x hx => ?_))
    | (fail_if_no_progress ((with_reducible refine InBeat.mk ?_ ?_ ?_) <;> [skip; rfl; rfl]))

theorem State.bindHalf_inBeat_eq {σ : State} {s : State} {o : PartOp} {b : BindBody} {t : State} {r : OpEnd} (hk : InBeat σ s) (he : State.bindHalf s o b = (t, r)) :
    InBeat σ t := by
  have := State.bindHalf_inBeat s o b hk; rw [he] at this; exact this

theorem State.opFirst_inBeat {σ : State} (s : State) (o : PartOp) (hk : InBeat σ s) :
    InBeat σ (State.opFirst s o).1 := by
  unfold State.opFirst
  repeat' first
    | with_reducible assumption
    | (with_reducible apply State.partTo_inBeat)
    | (with_reducible apply State.unbindPart_inBeat)
    | (with_reducible apply State.unbindTransits_inBeat)
    | (refine State.bindHalf_inBeat_eq (he := by assumption) ?_)
    | split
    | ((try lift_lets); intro x; revert x; refine InBeat.letS (r := σ) ?_ (fun x hx => ?_))

theorem State.opFirst_inBeat_eq {σ : State} {s : State} {o : PartOp} {t : State} {r : OpEnd} (hk : InBeat σ s) (he : State.opFirst s o = (t, r)) :
    InBeat σ t := by
  have := State.opFirst_inBeat s o hk; rw [he] at this; exact this

theorem State.opStep_inBeat {σ : State} (s : State) (o : PartOp) (hk : InBeat σ s) :
    InBeat σ (State.opStep s o).1 := by
  unfold State.opStep
  repeat' first
    | with_reducible assumption
    | (with_reducible apply State.partTo_inBeat)
    | (with_reducible apply State.raiseRegions_inBeat)
    | (with_reducible apply State.logTransit_inBeat)
    | (with_reducible apply State.opFirst_inBeat)
    | split
    | (fail_if_no_progress ((with_reducible refine InBeat.mk ?_ ?_ ?_) <;> [skip; rfl; rfl]))

theorem State.opStep_inBeat_eq {σ : State} {s : State} {o : PartOp} {t : State} {r : OpEnd} (hk : InBeat σ s) (he : State.opStep s o = (t, r)) :
    InBeat σ t := by
  have := State.opStep_inBeat s o hk; rw [he] at this; exact this

theorem State.partSteps_inBeat {σ : State} (s : State) (l : List PartOp) (h : InBeat σ s) : InBeat σ (s.partSteps l) := by
  induction l generalizing s with
  | nil => exact h
  | cons o r ih =>
    unfold State.partSteps
    split
    · next e => exact ih _ (InBeat.mk (State.opStep_inBeat_eq h e) rfl rfl)
    · next e => exact ih _ (State.complete_inBeat _ _ _ _ _ _ _ _ (State.opStep_inBeat_eq h e))

theorem State.partBoundary_inBeat {σ : State} (s : State) (hk : InBeat σ s) :
    InBeat σ (State.partBoundary s) := by
  unfold State.partBoundary
  repeat' first
    | with_reducible assumption
    | (with_reducible apply State.zeroDone_inBeat)
    | (with_reducible apply State.partSteps_inBeat)
    | ((try lift_lets); intro x; revert x; refine InBeat.letS (r := σ) ?_ (fun x hx => ?_))
    | (fail_if_no_progress ((with_reducible refine InBeat.mk ?_ ?_ ?_) <;> [skip; rfl; rfl]))

theorem State.haltPart_inBeat {σ : State} (s : State) (p : Nat) (hk : InBeat σ s) :
    InBeat σ (State.haltPart s p) := by
  unfold State.haltPart
  repeat' first
    | with_reducible assumption
    | (with_reducible apply State.partTo_inBeat)
    | split
    | ((try lift_lets); intro x; revert x; refine InBeat.letS (r := σ) ?_ (fun x hx => ?_))

theorem State.haltTransits_inBeat {σ : State} (s : State) (hk : InBeat σ s) :
    InBeat σ (State.haltTransits s) := by
  unfold State.haltTransits
  repeat' first
    | with_reducible assumption
    | (with_reducible apply State.logTransit_inBeat)
    | (with_reducible refine InBeat.foldl _ (fun t a ht => ?_) ?_)
    | split
    | ((try lift_lets); intro x; revert x; refine InBeat.letS (r := σ) ?_ (fun x hx => ?_))
    | (fail_if_no_progress ((with_reducible refine InBeat.mk ?_ ?_ ?_) <;> [skip; rfl; rfl]))

theorem State.regWorld_inBeat {σ : State} (s : State) (o : Origin) (kind a : Nat) (v : Word) (hk : InBeat σ s) :
    InBeat σ (State.regWorld s o kind a v) := by
  unfold State.regWorld
  repeat' first
    | with_reducible assumption
    | (with_reducible apply State.event_inBeat)
    | (with_reducible apply State.log_inBeat)

theorem State.sampleMon_inBeat {σ : State} (s : State) (a : Nat) (hk : InBeat σ s) :
    InBeat σ (State.sampleMon s a) := by
  unfold State.sampleMon
  repeat' first
    | with_reducible assumption
    | (with_reducible apply State.wrF_inBeat)
    | split
    | ((try lift_lets); intro x; revert x; refine InBeat.letS (r := σ) ?_ (fun x hx => ?_))
    | (fail_if_no_progress ((with_reducible refine InBeat.mk ?_ ?_ ?_) <;> [skip; rfl; rfl]))

theorem State.measure_inBeat {σ : State} (s : State) (a : Nat) (hk : InBeat σ s) :
    InBeat σ (State.measure s a) := by
  unfold State.measure
  repeat' first
    | with_reducible assumption
    | (with_reducible apply State.wrF_inBeat)
    | split
    | ((try lift_lets); intro x; revert x; refine InBeat.letS (r := σ) ?_ (fun x hx => ?_))
    | (fail_if_no_progress ((with_reducible refine InBeat.mk ?_ ?_ ?_) <;> [skip; rfl; rfl]))

theorem State.codewords_inBeat {σ : State} (s : State) (a : Nat) (hk : InBeat σ s) :
    InBeat σ (State.codewords s a) := by
  unfold State.codewords
  repeat' first
    | with_reducible assumption
    | (with_reducible apply State.wr_inBeat)
    | split
    | ((try lift_lets); intro x; revert x; refine InBeat.letS (r := σ) ?_ (fun x hx => ?_))
    | (fail_if_no_progress ((with_reducible refine InBeat.mk ?_ ?_ ?_) <;> [skip; rfl; rfl]))

theorem State.counterSet_inBeat {σ : State} (s : State) (a : Nat) (hk : InBeat σ s) :
    InBeat σ (State.counterSet s a) := by
  unfold State.counterSet
  repeat' first
    | with_reducible assumption
    | (with_reducible apply State.updCore_inBeat)
    | split
    | ((try lift_lets); intro x; revert x; refine InBeat.letS (r := σ) ?_ (fun x hx => ?_))

theorem State.countUp_inBeat {σ : State} (s : State) (a : Nat) (hk : InBeat σ s) :
    InBeat σ (State.countUp s a) := by
  unfold State.countUp
  repeat' first
    | with_reducible assumption
    | (with_reducible apply State.wr_inBeat)
    | (with_reducible apply State.counterSet_inBeat)
    | split
    | ((try lift_lets); intro x; revert x; refine InBeat.letS (r := σ) ?_ (fun x hx => ?_))
    | (fail_if_no_progress ((with_reducible refine InBeat.mk ?_ ?_ ?_) <;> [skip; rfl; rfl]))

theorem State.regRead_inBeat {σ : State} (s : State) (o : Origin) (a : Nat) (hk : InBeat σ s) :
    InBeat σ (State.regRead s o a).2.2 := by
  unfold State.regRead
  repeat' first
    | with_reducible assumption
    | (with_reducible apply State.regWorld_inBeat)
    | (with_reducible apply State.sampleMon_inBeat)
    | (with_reducible apply State.measure_inBeat)
    | (with_reducible apply State.codewords_inBeat)
    | (with_reducible apply State.countUp_inBeat)
    | (with_reducible apply State.draw_inBeat)
    | split
    | ((try lift_lets); intro x; revert x; refine InBeat.letS (r := σ) ?_ (fun x hx => ?_))
    | (fail_if_no_progress ((with_reducible refine InBeat.mk ?_ ?_ ?_) <;> [skip; rfl; rfl]))

theorem State.regRead_inBeat_eq {σ : State} {s : State} {o : Origin} {a : Nat} {t : State} {r : Word} {r2 : Nat} (hk : InBeat σ s) (he : State.regRead s o a = (r, r2, t)) :
    InBeat σ t := by
  have := State.regRead_inBeat s o a hk; rw [he] at this; exact this

theorem State.writeSc_inBeat {σ : State} (s : State) (o : Origin) (a : Nat) (v : Word) (hk : InBeat σ s) :
    InBeat σ (State.writeSc s o a v) := by
  unfold State.writeSc
  repeat' first
    | with_reducible assumption
    | (with_reducible apply State.wr_inBeat)
    | (with_reducible apply State.setBit_inBeat)
    | (with_reducible apply State.log_inBeat)
    | (with_reducible apply State.refuseWrite_inBeat)
    | (with_reducible apply State.writeTyped_inBeat)
    | split

theorem State.chooseSource_inBeat {σ : State} (s : State) (hk : InBeat σ s) :
    InBeat σ (State.chooseSource s) := by
  unfold State.chooseSource
  repeat' first
    | with_reducible assumption
    | ((try lift_lets); intro x; revert x; refine InBeat.letS (r := σ) ?_ (fun x hx => ?_))
    | (fail_if_no_progress ((with_reducible refine InBeat.mk ?_ ?_ ?_) <;> [skip; rfl; rfl]))

theorem State.writeTb_inBeat {σ : State} (s : State) (o : Origin) (a : Nat) (v : Word) (hk : InBeat σ s) :
    InBeat σ (State.writeTb s o a v) := by
  unfold State.writeTb
  repeat' first
    | with_reducible assumption
    | (with_reducible apply State.refuseWrite_inBeat)
    | (with_reducible apply State.writeTyped_inBeat)
    | (with_reducible apply State.chooseSource_inBeat)
    | split

theorem State.writePm_inBeat {σ : State} (s : State) (o : Origin) (a : Nat) (v : Word) (hk : InBeat σ s) :
    InBeat σ (State.writePm s o a v) := by
  unfold State.writePm
  repeat' first
    | with_reducible assumption
    | (with_reducible apply State.refuseWrite_inBeat)
    | (with_reducible apply State.writeTyped_inBeat)
    | (with_reducible apply State.levelRequest_inBeat)
    | split
    | ((try lift_lets); intro x; revert x; refine InBeat.letS (r := σ) ?_ (fun x hx => ?_))

theorem State.hold_inBeat {σ : State} (s : State) (o : Origin) (h : HeldWrite) (hk : InBeat σ s) :
    InBeat σ (State.hold s o h) := by
  unfold State.hold
  repeat' first
    | with_reducible assumption
    | ((try lift_lets); intro x; revert x; refine InBeat.letS (r := σ) ?_ (fun x hx => ?_))
    | (fail_if_no_progress ((with_reducible refine InBeat.mk ?_ ?_ ?_) <;> [skip; rfl; rfl]))

theorem State.writeGroupCtl_inBeat {σ : State} (s : State) (o : Origin) (n : Nat) (v : Word) (hk : InBeat σ s) :
    InBeat σ (State.writeGroupCtl s o n v) := by
  unfold State.writeGroupCtl
  repeat' first
    | with_reducible assumption
    | (with_reducible apply State.wrF_inBeat)
    | (with_reducible apply State.logWrite_inBeat)
    | (with_reducible apply State.hold_inBeat)
    | split

theorem State.writeRt_inBeat {σ : State} (s : State) (o : Origin) (a : Nat) (v : Word) (hk : InBeat σ s) :
    InBeat σ (State.writeRt s o a v) := by
  unfold State.writeRt
  repeat' first
    | with_reducible assumption
    | (with_reducible apply State.refuseWrite_inBeat)
    | (with_reducible apply State.writeTyped_inBeat)
    | (with_reducible apply State.hold_inBeat)
    | (with_reducible apply State.writeGroupCtl_inBeat)
    | split
    | ((try lift_lets); intro x; revert x; refine InBeat.letS (r := σ) ?_ (fun x hx => ?_))

theorem State.writePg_inBeat {σ : State} (s : State) (o : Origin) (a : Nat) (v : Word) (hk : InBeat σ s) :
    InBeat σ (State.writePg s o a v) := by
  unfold State.writePg
  repeat' first
    | with_reducible assumption
    | (with_reducible apply State.setPg_inBeat)
    | (with_reducible apply State.refuseWrite_inBeat)
    | (with_reducible apply State.logWrite_inBeat)
    | (with_reducible apply State.writeTyped_inBeat)
    | split
    | ((try lift_lets); intro x; revert x; refine InBeat.letS (r := σ) ?_ (fun x hx => ?_))

theorem State.writeXb_inBeat {σ : State} (s : State) (o : Origin) (a : Nat) (v : Word) (hk : InBeat σ s) :
    InBeat σ (State.writeXb s o a v) := by
  unfold State.writeXb
  repeat' first
    | with_reducible assumption
    | (with_reducible apply State.logWrite_inBeat)
    | (with_reducible apply State.writeTyped_inBeat)
    | (with_reducible apply State.xbCmd_inBeat)
    | (with_reducible apply State.xbPending_inBeat)
    | split
    | ((try lift_lets); intro x; revert x; refine InBeat.letS (r := σ) ?_ (fun x hx => ?_))

theorem State.qpReset_inBeat {σ : State} (s : State) (k : Nat) (hk : InBeat σ s) :
    InBeat σ (State.qpReset s k) := by
  unfold State.qpReset
  repeat' first
    | with_reducible assumption
    | (with_reducible apply State.wr_inBeat)
    | (with_reducible apply State.setQp_inBeat)
    | (with_reducible apply State.failOrder_inBeat)
    | (with_reducible refine InBeat.foldl _ (fun t a ht => ?_) ?_)

theorem State.writeIo_inBeat {σ : State} (s : State) (o : Origin) (a : Nat) (v : Word) (hk : InBeat σ s) :
    InBeat σ (State.writeIo s o a v) := by
  unfold State.writeIo
  repeat' first
    | with_reducible assumption
    | (with_reducible apply State.refuseWrite_inBeat)
    | (with_reducible apply State.writeTyped_inBeat)
    | (with_reducible apply State.qpError_inBeat)
    | (with_reducible apply State.qpReset_inBeat)
    | split
    | ((try lift_lets); intro x; revert x; refine InBeat.letS (r := σ) ?_ (fun x hx => ?_))

theorem State.writeTether_inBeat {σ : State} (s : State) (o : Origin) (a : Nat) (v : Word) (hk : InBeat σ s) :
    InBeat σ (State.writeTether s o a v) := by
  unfold State.writeTether
  repeat' first
    | with_reducible assumption
    | (with_reducible apply State.refuseWrite_inBeat)
    | (with_reducible apply State.writeTyped_inBeat)
    | (with_reducible apply State.portEnable_inBeat)
    | (with_reducible apply State.joinReport_inBeat)
    | (with_reducible apply State.joinStart_inBeat)
    | split

theorem State.writeDg_inBeat {σ : State} (s : State) (o : Origin) (a : Nat) (v : Word) (hk : InBeat σ s) :
    InBeat σ (State.writeDg s o a v) := by
  unfold State.writeDg
  repeat' first
    | with_reducible assumption
    | (with_reducible apply State.wr_inBeat)
    | (with_reducible apply State.writeTyped_inBeat)
    | split

theorem State.writeCoreReg_inBeat {σ : State} (s : State) (o : Origin) (a : Nat) (v : Word) (hk : InBeat σ s) :
    InBeat σ (State.writeCoreReg s o a v) := by
  unfold State.writeCoreReg
  repeat' first
    | with_reducible assumption
    | (with_reducible apply State.refuseWrite_inBeat)
    | (with_reducible apply State.writeTyped_inBeat)
    | (with_reducible apply State.counterSet_inBeat)
    | split

theorem State.writeReg_inBeat {σ : State} (s : State) (o : Origin) (a : Nat) (v : Word) (hk : InBeat σ s) :
    InBeat σ (State.writeReg s o a v) := by
  unfold State.writeReg
  repeat' first
    | first
      | with_reducible assumption
      | (with_reducible apply State.writeTyped_inBeat)
      | (with_reducible apply State.writeSc_inBeat)
      | (with_reducible apply State.writeTb_inBeat)
      | (with_reducible apply State.writePm_inBeat)
      | (with_reducible apply State.writeRt_inBeat)
      | (with_reducible apply State.writePg_inBeat)
      | (with_reducible apply State.writeXb_inBeat)
      | (with_reducible apply State.writeIo_inBeat)
    | first
      | (with_reducible apply State.writeTether_inBeat)
      | (with_reducible apply State.writeDg_inBeat)
      | (with_reducible apply State.writeCoreReg_inBeat)
      | split

theorem State.regWrite_inBeat {σ : State} (s : State) (o : Origin) (a : Nat) (v : Word) (hk : InBeat σ s) :
    InBeat σ (State.regWrite s o a v).2 := by
  unfold State.regWrite
  repeat' first
    | with_reducible assumption
    | (with_reducible apply State.wr_inBeat)
    | (with_reducible apply State.regWorld_inBeat)
    | (with_reducible apply State.counterSet_inBeat)
    | (with_reducible apply State.writeReg_inBeat)
    | split

theorem State.regWrite_inBeat_eq {σ : State} {s : State} {o : Origin} {a : Nat} {v : Word} {t : State} {r : Nat} (hk : InBeat σ s) (he : State.regWrite s o a v = (r, t)) :
    InBeat σ t := by
  have := State.regWrite_inBeat s o a v hk; rw [he] at this; exact this

theorem State.hostRead_inBeat {σ : State} (s : State) (o : Origin) (g n : Nat) (hk : InBeat σ s) :
    InBeat σ (State.hostRead s o g n).2.2 := by
  unfold State.hostRead
  repeat' first
    | with_reducible assumption
    | (with_reducible apply State.checkRows_inBeat)
    | (with_reducible apply State.hostRefused_inBeat)
    | (with_reducible apply State.deliver_inBeat)
    | split

theorem State.hostRead_inBeat_eq {σ : State} {s : State} {o : Origin} {g : Nat} {n : Nat} {t : State} {r : List Byte} {r2 : Nat} (hk : InBeat σ s) (he : State.hostRead s o g n = (r, r2, t)) :
    InBeat σ t := by
  have := State.hostRead_inBeat s o g n hk; rw [he] at this; exact this

theorem State.hostWrite_inBeat {σ : State} (s : State) (o : Origin) (g : Nat) (data : List Byte) (hk : InBeat σ s) :
    InBeat σ (State.hostWrite s o g data) := by
  unfold State.hostWrite
  repeat' first
    | with_reducible assumption
    | (with_reducible apply State.writeG_inBeat)
    | (with_reducible apply State.hostRefused_inBeat)
    | split

theorem State.answerReg_inBeat {σ : State} (s : State) (w : Waiter) (op a status : Nat) (v : Word) (hk : InBeat σ s) :
    InBeat σ (State.answerReg s w op a status v) := by
  unfold State.answerReg
  repeat' first
    | with_reducible assumption
    | (with_reducible apply State.setSess_inBeat)
    | (with_reducible apply State.send_inBeat)
    | split
    | (fail_if_no_progress ((with_reducible refine InBeat.mk ?_ ?_ ?_) <;> [skip; rfl; rfl]))

theorem State.jtagLog_inBeat {σ : State} (s : State) (w : Waiter) (a : Nat) (old new : Word) (hk : InBeat σ s) :
    InBeat σ (State.jtagLog s w a old new) := by
  unfold State.jtagLog
  repeat' first
    | with_reducible assumption
    | (with_reducible apply State.log_inBeat)
    | split

theorem State.jtagLogMem_inBeat {σ : State} (t s : State) (w : Waiter) (g : Nat) (data : List Byte) (hk : InBeat σ t) :
    InBeat σ (State.jtagLogMem t s w g data) := by
  unfold State.jtagLogMem
  repeat' first
    | with_reducible assumption
    | (with_reducible apply State.jtagLog_inBeat)
    | (with_reducible refine InBeat.foldl _ (fun t a ht => ?_) ?_)

theorem State.doAccess_inBeat {σ : State} (s : State) (w : Waiter) (hk : InBeat σ s) :
    InBeat σ (State.doAccess s w) := by
  unfold State.doAccess
  repeat' first
    | first
      | with_reducible assumption
      | (with_reducible apply State.unitPut_inBeat)
      | (with_reducible apply State.send_inBeat)
      | (with_reducible apply State.reelAgain_inBeat)
      | (with_reducible apply State.hostWrite_inBeat)
      | (with_reducible apply State.answerReg_inBeat)
      | (with_reducible apply State.jtagLog_inBeat)
      | (with_reducible apply State.jtagLogMem_inBeat)
      | (with_reducible apply State.regRead_inBeat)
    | first
      | (with_reducible apply State.regWrite_inBeat)
      | (with_reducible apply State.hostRead_inBeat)
      | split
      | ((try lift_lets); intro x; revert x; refine InBeat.letS (r := σ) ?_ (fun x hx => ?_))
      | (fail_if_no_progress ((with_reducible refine InBeat.mk ?_ ?_ ?_) <;> [skip; rfl; rfl]))

theorem State.byDrift_inBeat {σ : State} (s : State) (w : Waiter) (hk : InBeat σ s) :
    InBeat σ (State.byDrift s w) := by
  unfold State.byDrift
  repeat' first
    | with_reducible assumption
    | (with_reducible apply State.atEndpoint_inBeat)
    | split

theorem State.access_inBeat {σ : State} (s : State) (w : Waiter) (hk : InBeat σ s) :
    InBeat σ (State.access s w) := by
  unfold State.access
  repeat' first
    | with_reducible assumption
    | (with_reducible apply State.doAccess_inBeat)
    | (with_reducible apply State.byDrift_inBeat)
    | split
    | (fail_if_no_progress ((with_reducible refine InBeat.mk ?_ ?_ ?_) <;> [skip; rfl; rfl]))

theorem State.drainStalled_inBeat {σ : State} (s : State) (hk : InBeat σ s) :
    InBeat σ (State.drainStalled s) := by
  unfold State.drainStalled
  repeat' first
    | with_reducible assumption
    | (with_reducible apply State.access_inBeat)
    | (with_reducible refine InBeat.foldl _ (fun t a ht => ?_) ?_)
    | (fail_if_no_progress ((with_reducible refine InBeat.mk ?_ ?_ ?_) <;> [skip; rfl; rfl]))

theorem State.visitFlag_inBeat {σ : State} (s : State) (f : Nat) (hk : InBeat σ s) :
    InBeat σ (State.visitFlag s f) := by
  unfold State.visitFlag
  repeat' first
    | with_reducible assumption
    | (with_reducible apply State.setFlag_inBeat)
    | ((try lift_lets); intro x; revert x; refine InBeat.letS (r := σ) ?_ (fun x hx => ?_))
    | (fail_if_no_progress ((with_reducible refine InBeat.mk ?_ ?_ ?_) <;> [skip; rfl; rfl]))

theorem State.applyFlag_inBeat {σ : State} (s : State) (o : FlagOp) (hk : InBeat σ s) :
    InBeat σ (State.applyFlag s o) := by
  unfold State.applyFlag
  repeat' first
    | with_reducible assumption
    | (with_reducible apply State.setFlag_inBeat)
    | (with_reducible apply State.visitFlag_inBeat)
    | split
    | ((try lift_lets); intro x; revert x; refine InBeat.letS (r := σ) ?_ (fun x hx => ?_))
    | (fail_if_no_progress ((with_reducible refine InBeat.mk ?_ ?_ ?_) <;> [skip; rfl; rfl]))

theorem State.finishId_inBeat {σ : State} (s : State) (c id : Nat) (hk : InBeat σ s) :
    InBeat σ (State.finishId s c id) := by
  unfold State.finishId
  repeat' first
    | with_reducible assumption
    | (with_reducible apply State.finishIssued_inBeat)
    | split

theorem State.applyOp_inBeat {σ : State} (s : State) (o : FlagOp) (hk : InBeat σ s) :
    InBeat σ (State.applyOp s o) := by
  unfold State.applyOp
  repeat' first
    | with_reducible assumption
    | (with_reducible apply State.applyFlag_inBeat)
    | (with_reducible apply State.finishId_inBeat)
    | split

theorem State.guardCore_inBeat {σ : State} (s : State) (c : Nat) (hk : InBeat σ s) :
    InBeat σ (State.guardCore s c) := by
  unfold State.guardCore
  repeat' first
    | with_reducible assumption
    | (with_reducible apply State.coreMiss_inBeat)
    | (with_reducible refine InBeat.foldl _ (fun t a ht => ?_) ?_)
    | split

theorem State.suLate_inBeat {σ : State} (s : State) (t : BTable) (hk : InBeat σ s) :
    InBeat σ (State.suLate s t) := by
  unfold State.suLate
  repeat' first
    | with_reducible assumption
    | (with_reducible apply State.setBit_inBeat)
    | (with_reducible apply State.bump_inBeat)
    | (with_reducible apply State.unitMiss_inBeat)
    | split

theorem State.guardStart_inBeat {σ : State} (s : State) (hk : InBeat σ s) :
    InBeat σ (State.guardStart s) := by
  unfold State.guardStart
  repeat' first
    | with_reducible assumption
    | (with_reducible apply State.toTc_inBeat)
    | (with_reducible apply State.guardCore_inBeat)
    | (with_reducible apply State.suLate_inBeat)
    | (with_reducible refine InBeat.foldl _ (fun t a ht => ?_) ?_)
    | split
    | ((try lift_lets); intro x; revert x; refine InBeat.letS (r := σ) ?_ (fun x hx => ?_))
    | (fail_if_no_progress ((with_reducible refine InBeat.mk ?_ ?_ ?_) <;> [skip; rfl; rfl]))

theorem State.cutStatus_inBeat {σ : State} (s : State) (hk : InBeat σ s) :
    InBeat σ (State.cutStatus s) := by
  unfold State.cutStatus
  repeat' first
    | with_reducible assumption
    | (with_reducible apply State.toTc_inBeat)
    | (with_reducible apply State.readRecords_inBeat)
    | (with_reducible refine InBeat.foldl _ (fun t a ht => ?_) ?_)
    | split
    | ((try lift_lets); intro x; revert x; refine InBeat.letS (r := σ) ?_ (fun x hx => ?_))
    | (fail_if_no_progress ((with_reducible refine InBeat.mk ?_ ?_ ?_) <;> [skip; rfl; rfl]))

theorem State.toCut_inBeat {σ : State} (s : State) (hk : InBeat σ s) :
    InBeat σ (State.toCut s) := by
  unfold State.toCut
  repeat' first
    | with_reducible assumption
    | (with_reducible apply State.guardStart_inBeat)
    | (with_reducible apply State.cutStatus_inBeat)
    | split
    | ((try lift_lets); intro x; revert x; refine InBeat.letS (r := σ) ?_ (fun x hx => ?_))

theorem State.roundLost_inBeat {σ : State} (s : State) (p : Nat) (hk : InBeat σ s) :
    InBeat σ (State.roundLost s p) := by
  unfold State.roundLost
  repeat' first
    | with_reducible assumption
    | (with_reducible apply State.setBit_inBeat)
    | (with_reducible apply State.enterCond_inBeat)

theorem State.lostRounds_inBeat {σ : State} (s : State) (hk : InBeat σ s) :
    InBeat σ (State.lostRounds s) := by
  unfold State.lostRounds
  repeat' first
    | with_reducible assumption
    | (with_reducible apply State.roundLost_inBeat)
    | (with_reducible refine InBeat.foldl _ (fun t a ht => ?_) ?_)
    | split

theorem State.mapPg_inBeat {σ : State} (s : State) (f : PgPart → PgPart) (hk : InBeat σ s) :
    InBeat σ (State.mapPg s f) := by
  unfold State.mapPg
  repeat' first
    | with_reducible assumption
    | (with_reducible apply State.setPg_inBeat)
    | (with_reducible refine InBeat.foldl _ (fun t a ht => ?_) ?_)

theorem State.dropGroups_inBeat {σ : State} (s : State) (gs : List Nat) (hk : InBeat σ s) :
    InBeat σ (State.dropGroups s gs) := by
  unfold State.dropGroups
  repeat' first
    | with_reducible assumption
    | (with_reducible apply State.discardTable_inBeat)
    | (with_reducible apply State.discardMembers_inBeat)
    | (with_reducible apply State.haltPart_inBeat)
    | (with_reducible apply State.restoreFlags_inBeat)
    | (with_reducible refine InBeat.foldl _ (fun t a ht => ?_) ?_)
    | split
    | ((try lift_lets); intro x; revert x; refine InBeat.letS (r := σ) ?_ (fun x hx => ?_))

theorem State.flushGathered_inBeat {σ : State} (s : State) (hk : InBeat σ s) :
    InBeat σ (State.flushGathered s) := by
  unfold State.flushGathered
  repeat' first
    | with_reducible assumption
    | (with_reducible apply State.putEvt_inBeat)
    | (with_reducible refine InBeat.foldl _ (fun t a ht => ?_) ?_)
    | ((try lift_lets); intro x; revert x; refine InBeat.letS (r := σ) ?_ (fun x hx => ?_))
    | (fail_if_no_progress ((with_reducible refine InBeat.mk ?_ ?_ ?_) <;> [skip; rfl; rfl]))

theorem State.closeStretch_inBeat {σ : State} (s : State) (hk : InBeat σ s) :
    InBeat σ (State.closeStretch s) := by
  unfold State.closeStretch
  repeat' first
    | with_reducible assumption
    | (with_reducible apply State.wrF_inBeat)
    | (with_reducible apply State.bump_inBeat)
    | (with_reducible refine InBeat.foldl _ (fun t a ht => ?_) ?_)
    | split
    | ((try lift_lets); intro x; revert x; refine InBeat.letS (r := σ) ?_ (fun x hx => ?_))
    | (fail_if_no_progress ((with_reducible refine InBeat.mk ?_ ?_ ?_) <;> [skip; rfl; rfl]))

theorem State.landFlags_inBeat {σ : State} (s : State) (hk : InBeat σ s) :
    InBeat σ (State.landFlags s) := by
  unfold State.landFlags
  repeat' first
    | with_reducible assumption
    | (with_reducible apply State.applyOp_inBeat)
    | (with_reducible refine InBeat.foldl _ (fun t a ht => ?_) ?_)
    | ((try lift_lets); intro x; revert x; refine InBeat.letS (r := σ) ?_ (fun x hx => ?_))
    | (fail_if_no_progress ((with_reducible refine InBeat.mk ?_ ?_ ?_) <;> [skip; rfl; rfl]))

theorem State.skipStorm_inBeat {σ : State} (s : State) (hk : InBeat σ s) :
    InBeat σ (State.skipStorm s) := by
  unfold State.skipStorm
  repeat' first
    | with_reducible assumption
    | (with_reducible apply State.event_inBeat)
    | (with_reducible apply State.alert_inBeat)
    | split
    | ((try lift_lets); intro x; revert x; refine InBeat.letS (r := σ) ?_ (fun x hx => ?_))
    | (fail_if_no_progress ((with_reducible refine InBeat.mk ?_ ?_ ?_) <;> [skip; rfl; rfl]))

theorem State.clearPeriod_inBeat {σ : State} (s : State) (hk : InBeat σ s) :
    InBeat σ (State.clearPeriod s) := by
  unfold State.clearPeriod
  repeat' first
    | with_reducible assumption
    | ((try lift_lets); intro x; revert x; refine InBeat.letS (r := σ) ?_ (fun x hx => ?_))
    | (fail_if_no_progress ((with_reducible refine InBeat.mk ?_ ?_ ?_) <;> [skip; rfl; rfl]))

theorem State.abandon_inBeat {σ : State} (s : State) (c : Nat) (i : Issued) (hk : InBeat σ s) : InBeat σ (s.abandon c i) := by
  unfold State.abandon
  split
  · exact hk
  · next u _ =>
    extract_lets dm ws rs kw kr rows s1
    refine State.updCore_inBeat _ _ _ ?_
    exact InBeat.mk hk rfl rfl

theorem State.abandonAll_inBeat {σ : State} (s : State) (hk : InBeat σ s) :
    InBeat σ (State.abandonAll s) := by
  unfold State.abandonAll
  repeat' first
    | with_reducible assumption
    | (with_reducible apply State.abandon_inBeat)
    | (with_reducible refine InBeat.foldl _ (fun t a ht => ?_) ?_)

theorem State.startCores_inBeat {σ : State} (s : State) (hk : InBeat σ s) :
    InBeat σ (State.startCores s) := by
  unfold State.startCores
  repeat' first
    | with_reducible assumption
    | (with_reducible apply State.updCore_inBeat)
    | (with_reducible refine InBeat.foldl _ (fun t a ht => ?_) ?_)

theorem State.loadWindows_inBeat {σ : State} (s : State) (hk : InBeat σ s) :
    InBeat σ (State.loadWindows s) := by
  unfold State.loadWindows
  repeat' first
    | with_reducible assumption
    | ((try lift_lets); intro x; revert x; refine InBeat.letS (r := σ) ?_ (fun x hx => ?_))
    | (fail_if_no_progress ((with_reducible refine InBeat.mk ?_ ?_ ?_) <;> [skip; rfl; rfl]))

theorem State.resendTables_inBeat {σ : State} (s : State) (hk : InBeat σ s) :
    InBeat σ (State.resendTables s) := by
  unfold State.resendTables
  repeat' first
    | with_reducible assumption
    | ((try lift_lets); intro x; revert x; refine InBeat.letS (r := σ) ?_ (fun x hx => ?_))
    | (fail_if_no_progress ((with_reducible refine InBeat.mk ?_ ?_ ?_) <;> [skip; rfl; rfl]))

theorem State.openPeriod_inBeat {σ : State} (s : State) (hk : InBeat σ s) :
    InBeat σ (State.openPeriod s) := by
  unfold State.openPeriod
  extract_lets s1 s2 src s3
  have k1 : InBeat σ s1 := State.mapPg_inBeat _ _ (State.rlControls_inBeat _
    (State.startCores_inBeat _ (State.loadWindows_inBeat _ (State.partBoundary_inBeat _ hk))))
  clear_value s1
  have k2 : InBeat σ s2 := by
    unfold s2
    split
    · exact State.workStep_inBeat _ k1
    · split
      · exact State.resendTables_inBeat _ k1
      · exact k1
  clear_value s2
  exact State.drainStalled_inBeat _ (State.drainWarns_inBeat _ (State.snapshot_inBeat _ (InBeat.mk k2 rfl rfl)))

/-- Memory, cores and the flags of the opening stand as they were. -/
def SameMem (s t : State) : Prop := t.mem = s.mem ∧ t.cores = s.cores ∧ t.flags.opening = s.flags.opening

theorem SameMem.refl (s : State) : SameMem s s := ⟨rfl, rfl, rfl⟩

theorem SameMem.trans {r s t : State} (h : SameMem r s) (k : SameMem s t) : SameMem r t := ⟨k.1.trans h.1, k.2.1.trans h.2.1, k.2.2.trans h.2.2⟩

theorem SameMem.cut {r x t : State} (h : SameMem r x) (k : SameMem r x → SameMem r t) : SameMem r t := k h

theorem SameMem.foldl {β : Type} {r : State} {f : State → β → State} (l : List β) {s : State}
    (hf : ∀ t b, SameMem r t → SameMem r (f t b)) (h : SameMem r s) : SameMem r (l.foldl f s) := by
  induction l generalizing s with
  | nil => exact h
  | cons b l ih => exact ih (hf s b h)

theorem SameMem.foldl_fst {β γ : Type} {r : State} {f : State × γ → β → State × γ} (l : List β) {a : State × γ}
    (hf : ∀ t b, SameMem r t.1 → SameMem r (f t b).1) (h : SameMem r a.1) : SameMem r (l.foldl f a).1 := by
  induction l generalizing a with
  | nil => exact h
  | cons b l ih => exact ih (hf a b h)

theorem SameMem.foldl_snd {β γ : Type} {r : State} {f : γ × State → β → γ × State} (l : List β) {a : γ × State}
    (hf : ∀ t b, SameMem r t.2 → SameMem r (f t b).2) (h : SameMem r a.2) : SameMem r (l.foldl f a).2 := by
  induction l generalizing a with
  | nil => exact h
  | cons b l ih => exact ih (hf a b h)

theorem SameMem.foldl_trd {β γ δ : Type} {r : State} {f : γ × δ × State → β → γ × δ × State} (l : List β) {a : γ × δ × State}
    (hf : ∀ t b, SameMem r t.2.2 → SameMem r (f t b).2.2) (h : SameMem r a.2.2) : SameMem r (l.foldl f a).2.2 := by
  induction l generalizing a with
  | nil => exact h
  | cons b l ih => exact ih (hf a b h)

theorem SameMem.mk {r s : State} {regs' : List (Nat × Word)} {tb' : TimeBase} {beat' : Beat} {ecc' : List (Nat × Ecc)} {poisonPending' : List Nat} {banks' : List (Nat × Bank)} {flags' : Flags} {parts' : List (Nat × Part)} {partOps' : List PartOp} {transits' : List Transit} {loads' : List Load} {tether' : Tether} {drift' : Drift} {rt' : Rt} {su' : Vector Su 4} {rings' : List (Nat × List RingCmd)} {pg' : List (Nat × PgPart)} {qps' : List (Nat × Qp)} {dg' : Dg} {sess' : List (Nat × Option Sess)} {neigh' : List (Nat × List Byte)} {stalled' : List Waiter} {sc' : Sc} {ir' : JtagIr} {out' : List Output} {rnd' : Nat} {free' : Nat}
    (h : SameMem r s) (hf : flags'.opening = s.flags.opening) :
    SameMem r (State.mk s.pending s.fuses s.flash s.pwr regs' tb' beat' s.cores s.mem ecc' poisonPending' banks' flags' parts' partOps' transits' loads' tether' drift' rt' su' rings' pg' qps' dg' sess' neigh' stalled' s.mc sc' ir' out' rnd' free') :=
  h.trans ⟨rfl, rfl, hf⟩

theorem SameMem.letS {r v : State} {P : State → Prop} (h : SameMem r v) (k : ∀ x, SameMem r x → P x) : let x := v; P x := k v h
theorem SameMem.let1 {r : State} {α : Type} {v : State × α} {P : State × α → Prop} (h : SameMem r v.1) (k : ∀ x, SameMem r x.1 → P x) : let x := v; P x := k v h
theorem SameMem.let2 {r : State} {α : Type} {v : α × State} {P : α × State → Prop} (h : SameMem r v.2) (k : ∀ x, SameMem r x.2 → P x) : let x := v; P x := k v h
theorem SameMem.let3 {r : State} {α β : Type} {v : α × β × State} {P : α × β × State → Prop} (h : SameMem r v.2.2) (k : ∀ x, SameMem r x.2.2 → P x) : let x := v; P x := k v h
theorem SameMem.letB {r : State} {v : Build} {P : Build → Prop} (h : SameMem r v.s) (k : ∀ x, SameMem r x.s → P x) : let x := v; P x := k v h
theorem SameMem.letf {r : State} {v : State → State} {P : (State → State) → Prop} (h : ∀ t, SameMem r t → SameMem r (v t)) (k : ∀ x, (∀ t, SameMem r t → SameMem r (x t)) → P x) : let x := v; P x := k v h
theorem SameMem.letf1 {r : State} {α : Type} {v : State → α → State} {P : (State → α → State) → Prop} (h : ∀ t a, SameMem r t → SameMem r (v t a)) (k : ∀ x, (∀ t a, SameMem r t → SameMem r (x t a)) → P x) : let x := v; P x := k v h
theorem SameMem.letv {α : Sort _} {v : α} {P : α → Prop} (k : ∀ x, P x) : let x := v; P x := k v

theorem State.wr_sameMem {σ : State} (s : State) (a : Nat) (v : Word) (h : SameMem σ s) : SameMem σ (s.wr a v):=
  SameMem.mk (s := s) ‹_› rfl
theorem State.setPart_sameMem {σ : State} (s : State) (a : Nat) (v : Part) (h : SameMem σ s) : SameMem σ (s.setPart a v):=
  SameMem.mk (s := s) ‹_› rfl
theorem State.setPg_sameMem {σ : State} (s : State) (p : Nat) (q : PgPart) (h : SameMem σ s) : SameMem σ (s.setPg p q):=
  SameMem.mk (s := s) ‹_› rfl
theorem State.setEnt_sameMem {σ : State} (s : State) (p : Nat) (q : Ent) (h : SameMem σ s) : SameMem σ (s.setEnt p q):=
  SameMem.mk (s := s) ‹_› rfl
theorem State.setCli_sameMem {σ : State} (s : State) (p : Nat) (q : Cli) (h : SameMem σ s) : SameMem σ (s.setCli p q):=
  SameMem.mk (s := s) ‹_› rfl
theorem State.restoreFlags_sameMem {σ : State} (s : State) (p : Nat → Bool) (h : SameMem σ s) : SameMem σ (s.restoreFlags p):=
  SameMem.mk (s := s) ‹_› rfl

theorem State.wrF_sameMem {σ : State} (s : State) (a lsb len v : Nat) (hk : SameMem σ s) :
    SameMem σ (State.wrF s a lsb len v) := by
  unfold State.wrF
  repeat' first
    | with_reducible assumption
    | (with_reducible apply State.wr_sameMem)

theorem State.setBit_sameMem {σ : State} (s : State) (a n : Nat) (hk : SameMem σ s) :
    SameMem σ (State.setBit s a n) := by
  unfold State.setBit
  repeat' first
    | with_reducible assumption
    | (with_reducible apply State.wrF_sameMem)

theorem State.bump_sameMem {σ : State} (s : State) (a : Nat) (hk : SameMem σ s) :
    SameMem σ (State.bump s a) := by
  unfold State.bump
  repeat' first
    | with_reducible assumption
    | (with_reducible apply State.wr_sameMem)

theorem State.putEvt_sameMem {σ : State} (s : State) (e : Evt) (hk : SameMem σ s) :
    SameMem σ (State.putEvt s e) := by
  unfold State.putEvt
  repeat' first
    | with_reducible assumption
    | (with_reducible apply State.wr_sameMem)
    | (with_reducible apply State.setBit_sameMem)
    | (with_reducible apply State.bump_sameMem)
    | split
    | ((try lift_lets); intro x; revert x; refine SameMem.letS (r := σ) ?_ (fun x hx => ?_))
    | (fail_if_no_progress ((with_reducible refine SameMem.mk ?_ ?_) <;> [skip; rfl]))

theorem State.event_sameMem {σ : State} (s : State) (code unit eng part core : Nat) (arg : Word) (hk : SameMem σ s) :
    SameMem σ (State.event s code unit eng part core arg) := by
  unfold State.event
  repeat' first
    | with_reducible assumption
    | (with_reducible apply State.putEvt_sameMem)

theorem State.alert_sameMem {σ : State} (s : State) (n : Nat) (hk : SameMem σ s) :
    SameMem σ (State.alert s n) := by
  unfold State.alert
  repeat' first
    | with_reducible assumption
    | (with_reducible apply State.setBit_sameMem)

theorem State.putLog_sameMem {σ : State} (s : State) (r : LogRec) (hk : SameMem σ s) :
    SameMem σ (State.putLog s r) := by
  unfold State.putLog
  repeat' first
    | with_reducible assumption
    | (with_reducible apply State.wr_sameMem)
    | (with_reducible apply State.setBit_sameMem)
    | (with_reducible apply State.bump_sameMem)
    | (with_reducible apply State.event_sameMem)
    | (with_reducible apply State.alert_sameMem)
    | split
    | ((try lift_lets); intro x; revert x; refine SameMem.letS (r := σ) ?_ (fun x hx => ?_))
    | (fail_if_no_progress ((with_reducible refine SameMem.mk ?_ ?_) <;> [skip; rfl]))

theorem State.log_sameMem {σ : State} (s : State) (o : Origin) (kind part : Nat) (addr old new : Word) (hk : SameMem σ s) :
    SameMem σ (State.log s o kind part addr old new) := by
  unfold State.log
  repeat' first
    | with_reducible assumption
    | (with_reducible apply State.putLog_sameMem)

theorem State.updEnt_sameMem {σ : State} (s : State) (i : Nat) (f : Ent → Ent) (hk : SameMem σ s) :
    SameMem σ (State.updEnt s i f) := by
  unfold State.updEnt
  repeat' first
    | with_reducible assumption
    | (with_reducible apply State.setEnt_sameMem)

theorem State.setSess_sameMem {σ : State} (s : State) (i : Nat) (x : Option Sess) (hk : SameMem σ s) :
    SameMem σ (State.setSess s i x) := by
  unfold State.setSess
  repeat' first
    | with_reducible assumption
    | (fail_if_no_progress ((with_reducible refine SameMem.mk ?_ ?_) <;> [skip; rfl]))

theorem State.carry_sameMem {σ : State} (s : State) (w : Egress) (hk : SameMem σ s) :
    SameMem σ (State.carry s w) := by
  unfold State.carry
  repeat' first
    | with_reducible assumption
    | (with_reducible apply State.bump_sameMem)
    | split
    | ((try lift_lets); intro x; revert x; refine SameMem.letS (r := σ) ?_ (fun x hx => ?_))
    | (fail_if_no_progress ((with_reducible refine SameMem.mk ?_ ?_) <;> [skip; rfl]))

theorem State.emitMsg_sameMem {σ : State} (s0 : State) (x : Sess) (m : OutMsg) (retry : Bool) (hk : SameMem σ s0) :
    SameMem σ (State.emitMsg s0 x m retry) := by
  unfold State.emitMsg
  repeat' first
    | with_reducible assumption
    | (with_reducible apply State.carry_sameMem)
    | ((try lift_lets); intro x; revert x; refine SameMem.letS (r := σ) ?_ (fun x hx => ?_))
    | (fail_if_no_progress ((with_reducible refine SameMem.mk ?_ ?_) <;> [skip; rfl]))

theorem State.pump_sameMem {σ : State} (s : State) (i : Nat) (l : List OutMsg) (h : SameMem σ s) : SameMem σ (s.pump i l) := by
  induction l generalizing s with
  | nil => exact h
  | cons m r ih =>
    unfold State.pump
    split
    · split
      · exact ih _ (State.emitMsg_sameMem _ _ _ _ (State.setSess_sameMem _ _ _ h))
      · exact h
    · exact h

theorem State.sendTo_sameMem {σ : State} (s : State) (i : Nat) (m : OutMsg) (hk : SameMem σ s) :
    SameMem σ (State.sendTo s i m) := by
  unfold State.sendTo
  repeat' first
    | with_reducible assumption
    | (with_reducible apply State.setSess_sameMem)
    | (with_reducible apply State.pump_sameMem)
    | split

theorem State.dropRecord_sameMem {σ : State} (s : State) (e : Nat) (hk : SameMem σ s) :
    SameMem σ (State.dropRecord s e) := by
  unfold State.dropRecord
  repeat' first
    | with_reducible assumption
    | (with_reducible apply State.setBit_sameMem)
    | (with_reducible apply State.updEnt_sameMem)

theorem State.sendToken_sameMem {σ : State} (s : State) (uid ent : Nat) (tag : Word) (bno : BitVec 48) (pos : Nat) (fin fetched : Bool) (reason : Nat) (toks : List Word) (hk : SameMem σ s) :
    SameMem σ (State.sendToken s uid ent tag bno pos fin fetched reason toks) := by
  unfold State.sendToken
  repeat' first
    | with_reducible assumption
    | (with_reducible apply State.updEnt_sameMem)
    | (with_reducible apply State.sendTo_sameMem)
    | (with_reducible apply State.dropRecord_sameMem)
    | split
    | ((try lift_lets); intro x; revert x; refine SameMem.letS (r := σ) ?_ (fun x hx => ?_))

theorem State.setLists_sameMem {σ : State} (s : State) (p : Nat) (q : PgPart) (hk : SameMem σ s) :
    SameMem σ (State.setLists s p q) := by
  unfold State.setLists
  repeat' first
    | with_reducible assumption
    | (with_reducible apply State.setPg_sameMem)

theorem State.forgetEnd_sameMem {σ : State} (s : State) (e : Nat) (all : Bool) (hk : SameMem σ s) :
    SameMem σ (State.forgetEnd s e all) := by
  unfold State.forgetEnd
  repeat' first
    | with_reducible assumption
    | split
    | ((try lift_lets); intro x; revert x; refine SameMem.letS (r := σ) ?_ (fun x hx => ?_))
    | (fail_if_no_progress ((with_reducible refine SameMem.mk ?_ ?_) <;> [skip; rfl]))

theorem State.endEnt_sameMem {σ : State} (s : State) (e : Nat) (st : EState) (reason : Nat) (hk : SameMem σ s) :
    SameMem σ (State.endEnt s e st reason) := by
  unfold State.endEnt
  repeat' first
    | with_reducible assumption
    | (with_reducible apply State.updEnt_sameMem)
    | (with_reducible apply State.sendToken_sameMem)
    | (with_reducible apply State.forgetEnd_sameMem)
    | split
    | ((try lift_lets); intro x; revert x; refine SameMem.letS (r := σ) ?_ (fun x hx => ?_))

theorem State.charge_sameMem {σ : State} (s : State) (c resv used : Nat) (hk : SameMem σ s) :
    SameMem σ (State.charge s c resv used) := by
  unfold State.charge
  repeat' first
    | with_reducible assumption
    | (with_reducible apply State.setCli_sameMem)

theorem State.forgetTable_sameMem {σ : State} (s : State) (t : BTable) (hk : SameMem σ s) :
    SameMem σ (State.forgetTable s t) := by
  unfold State.forgetTable
  repeat' first
    | with_reducible assumption
    | ((try lift_lets); intro x; revert x; refine SameMem.letS (r := σ) ?_ (fun x hx => ?_))
    | (fail_if_no_progress ((with_reducible refine SameMem.mk ?_ ?_) <;> [skip; rfl]))

theorem State.dropSlot_sameMem {σ : State} (s : State) (fault : Bool) (b : BSlot) (hk : SameMem σ s) :
    SameMem σ (State.dropSlot s fault b) := by
  unfold State.dropSlot
  repeat' first
    | with_reducible assumption
    | (with_reducible apply State.updEnt_sameMem)
    | (with_reducible apply State.endEnt_sameMem)
    | (with_reducible apply State.charge_sameMem)
    | split

theorem State.discardTable_sameMem {σ : State} (s : State) (fault : Bool) (t : BTable) (hk : SameMem σ s) :
    SameMem σ (State.discardTable s fault t) := by
  unfold State.discardTable
  repeat' first
    | with_reducible assumption
    | (with_reducible apply State.setLists_sameMem)
    | (with_reducible apply State.forgetTable_sameMem)
    | (with_reducible apply State.dropSlot_sameMem)
    | (with_reducible refine SameMem.foldl _ (fun t a ht => ?_) ?_)
    | split

theorem State.discardMembers_sameMem {σ : State} (s : State) (groups : Nat → Bool) (hk : SameMem σ s) :
    SameMem σ (State.discardMembers s groups) := by
  unfold State.discardMembers
  repeat' first
    | with_reducible assumption
    | (with_reducible apply State.setLists_sameMem)
    | (with_reducible refine SameMem.foldl _ (fun t a ht => ?_) ?_)
    | split

theorem State.updPart_sameMem {σ : State} (s : State) (p : Nat) (f : Part → Part) (hk : SameMem σ s) :
    SameMem σ (State.updPart s p f) := by
  unfold State.updPart
  repeat' first
    | with_reducible assumption
    | (with_reducible apply State.setPart_sameMem)

theorem State.partTo_sameMem {σ : State} (s : State) (p : Nat) (st : PState) (hk : SameMem σ s) :
    SameMem σ (State.partTo s p st) := by
  unfold State.partTo
  repeat' first
    | with_reducible assumption
    | (with_reducible apply State.log_sameMem)
    | (with_reducible apply State.updPart_sameMem)
    | split
    | ((try lift_lets); intro x; revert x; refine SameMem.letS (r := σ) ?_ (fun x hx => ?_))

theorem State.haltPart_sameMem {σ : State} (s : State) (p : Nat) (hk : SameMem σ s) :
    SameMem σ (State.haltPart s p) := by
  unfold State.haltPart
  repeat' first
    | with_reducible assumption
    | (with_reducible apply State.partTo_sameMem)
    | split
    | ((try lift_lets); intro x; revert x; refine SameMem.letS (r := σ) ?_ (fun x hx => ?_))

theorem State.mapPg_sameMem {σ : State} (s : State) (f : PgPart → PgPart) (hk : SameMem σ s) :
    SameMem σ (State.mapPg s f) := by
  unfold State.mapPg
  repeat' first
    | with_reducible assumption
    | (with_reducible apply State.setPg_sameMem)
    | (with_reducible refine SameMem.foldl _ (fun t a ht => ?_) ?_)

theorem State.dropGroups_sameMem {σ : State} (s : State) (gs : List Nat) (hk : SameMem σ s) :
    SameMem σ (State.dropGroups s gs) := by
  unfold State.dropGroups
  repeat' first
    | with_reducible assumption
    | (with_reducible apply State.discardTable_sameMem)
    | (with_reducible apply State.discardMembers_sameMem)
    | (with_reducible apply State.haltPart_sameMem)
    | (with_reducible apply State.restoreFlags_sameMem)
    | (with_reducible refine SameMem.foldl _ (fun t a ht => ?_) ?_)
    | split
    | ((try lift_lets); intro x; revert x; refine SameMem.letS (r := σ) ?_ (fun x hx => ?_))

/-- The beat, the registers and the tether stand as they were. -/
def SameView (s t : State) : Prop := t.beat = s.beat ∧ t.regs = s.regs ∧ t.tether = s.tether

theorem SameView.refl (s : State) : SameView s s := ⟨rfl, rfl, rfl⟩

theorem SameView.trans {r s t : State} (h : SameView r s) (k : SameView s t) : SameView r t := ⟨k.1.trans h.1, k.2.1.trans h.2.1, k.2.2.trans h.2.2⟩

theorem SameView.cut {r x t : State} (h : SameView r x) (k : SameView r x → SameView r t) : SameView r t := k h

theorem SameView.foldl {β : Type} {r : State} {f : State → β → State} (l : List β) {s : State}
    (hf : ∀ t b, SameView r t → SameView r (f t b)) (h : SameView r s) : SameView r (l.foldl f s) := by
  induction l generalizing s with
  | nil => exact h
  | cons b l ih => exact ih (hf s b h)

theorem SameView.foldl_fst {β γ : Type} {r : State} {f : State × γ → β → State × γ} (l : List β) {a : State × γ}
    (hf : ∀ t b, SameView r t.1 → SameView r (f t b).1) (h : SameView r a.1) : SameView r (l.foldl f a).1 := by
  induction l generalizing a with
  | nil => exact h
  | cons b l ih => exact ih (hf a b h)

theorem SameView.foldl_snd {β γ : Type} {r : State} {f : γ × State → β → γ × State} (l : List β) {a : γ × State}
    (hf : ∀ t b, SameView r t.2 → SameView r (f t b).2) (h : SameView r a.2) : SameView r (l.foldl f a).2 := by
  induction l generalizing a with
  | nil => exact h
  | cons b l ih => exact ih (hf a b h)

theorem SameView.foldl_trd {β γ δ : Type} {r : State} {f : γ × δ × State → β → γ × δ × State} (l : List β) {a : γ × δ × State}
    (hf : ∀ t b, SameView r t.2.2 → SameView r (f t b).2.2) (h : SameView r a.2.2) : SameView r (l.foldl f a).2.2 := by
  induction l generalizing a with
  | nil => exact h
  | cons b l ih => exact ih (hf a b h)

theorem SameView.mk {r s : State} {tb' : TimeBase} {cores' : List (Nat × Core)} {mem' : List (Nat × Byte)} {ecc' : List (Nat × Ecc)} {poisonPending' : List Nat} {banks' : List (Nat × Bank)} {flags' : Flags} {parts' : List (Nat × Part)} {partOps' : List PartOp} {transits' : List Transit} {loads' : List Load} {drift' : Drift} {rt' : Rt} {su' : Vector Su 4} {rings' : List (Nat × List RingCmd)} {pg' : List (Nat × PgPart)} {qps' : List (Nat × Qp)} {dg' : Dg} {sess' : List (Nat × Option Sess)} {neigh' : List (Nat × List Byte)} {stalled' : List Waiter} {sc' : Sc} {ir' : JtagIr} {out' : List Output} {rnd' : Nat} {free' : Nat}
    (h : SameView r s) :
    SameView r (State.mk s.pending s.fuses s.flash s.pwr s.regs tb' s.beat cores' mem' ecc' poisonPending' banks' flags' parts' partOps' transits' loads' s.tether drift' rt' su' rings' pg' qps' dg' sess' neigh' stalled' s.mc sc' ir' out' rnd' free') :=
  h.trans ⟨rfl, rfl, rfl⟩

theorem SameView.letS {r v : State} {P : State → Prop} (h : SameView r v) (k : ∀ x, SameView r x → P x) : let x := v; P x := k v h
theorem SameView.let1 {r : State} {α : Type} {v : State × α} {P : State × α → Prop} (h : SameView r v.1) (k : ∀ x, SameView r x.1 → P x) : let x := v; P x := k v h
theorem SameView.let2 {r : State} {α : Type} {v : α × State} {P : α × State → Prop} (h : SameView r v.2) (k : ∀ x, SameView r x.2 → P x) : let x := v; P x := k v h
theorem SameView.let3 {r : State} {α β : Type} {v : α × β × State} {P : α × β × State → Prop} (h : SameView r v.2.2) (k : ∀ x, SameView r x.2.2 → P x) : let x := v; P x := k v h
theorem SameView.letB {r : State} {v : Build} {P : Build → Prop} (h : SameView r v.s) (k : ∀ x, SameView r x.s → P x) : let x := v; P x := k v h
theorem SameView.letf {r : State} {v : State → State} {P : (State → State) → Prop} (h : ∀ t, SameView r t → SameView r (v t)) (k : ∀ x, (∀ t, SameView r t → SameView r (x t)) → P x) : let x := v; P x := k v h
theorem SameView.letf1 {r : State} {α : Type} {v : State → α → State} {P : (State → α → State) → Prop} (h : ∀ t a, SameView r t → SameView r (v t a)) (k : ∀ x, (∀ t a, SameView r t → SameView r (x t a)) → P x) : let x := v; P x := k v h
theorem SameView.letv {α : Sort _} {v : α} {P : α → Prop} (k : ∀ x, P x) : let x := v; P x := k v

theorem State.setCore_sameView {σ : State} (s : State) (a : Nat) (v : Core) (h : SameView σ s) : SameView σ (s.setCore a v):=
  SameView.mk (s := s) ‹_›
theorem State.setFlag_sameView {σ : State} (s : State) (p : Nat) (q : Word) (h : SameView σ s) : SameView σ (s.setFlag p q):=
  SameView.mk (s := s) ‹_›

theorem State.updCore_sameView {σ : State} (s : State) (c : Nat) (f : Core → Core) (hk : SameView σ s) :
    SameView σ (State.updCore s c f) := by
  unfold State.updCore
  repeat' first
    | with_reducible assumption
    | (with_reducible apply State.setCore_sameView)

theorem State.endIssued_sameView {σ : State} (s : State) (c : Nat) (i : Issued) (st : CmdEnd) (hk : SameView σ s) :
    SameView σ (State.endIssued s c i st) := by
  unfold State.endIssued
  repeat' first
    | with_reducible assumption
    | (with_reducible apply State.updCore_sameView)

theorem State.finishIssued_sameView {σ : State} (s : State) (c : Nat) (i : Issued) (hk : SameView σ s) :
    SameView σ (State.finishIssued s c i) := by
  unfold State.finishIssued
  repeat' first
    | with_reducible assumption
    | (with_reducible apply State.endIssued_sameView)

theorem State.toTc_sameView {σ : State} (s : State) (t : DWord) (hk : SameView σ s) :
    SameView σ (State.toTc s t) := by
  unfold State.toTc
  repeat' first
    | with_reducible assumption
    | split
    | ((try lift_lets); intro x; revert x; refine SameView.letS (r := σ) ?_ (fun x hx => ?_))
    | (fail_if_no_progress ((with_reducible refine SameView.mk ?_) <;> [skip]))

theorem State.visitFlag_sameView {σ : State} (s : State) (f : Nat) (hk : SameView σ s) :
    SameView σ (State.visitFlag s f) := by
  unfold State.visitFlag
  repeat' first
    | with_reducible assumption
    | (with_reducible apply State.setFlag_sameView)
    | ((try lift_lets); intro x; revert x; refine SameView.letS (r := σ) ?_ (fun x hx => ?_))
    | (fail_if_no_progress ((with_reducible refine SameView.mk ?_) <;> [skip]))

theorem State.applyFlag_sameView {σ : State} (s : State) (o : FlagOp) (hk : SameView σ s) :
    SameView σ (State.applyFlag s o) := by
  unfold State.applyFlag
  repeat' first
    | with_reducible assumption
    | (with_reducible apply State.setFlag_sameView)
    | (with_reducible apply State.visitFlag_sameView)
    | split
    | ((try lift_lets); intro x; revert x; refine SameView.letS (r := σ) ?_ (fun x hx => ?_))
    | (fail_if_no_progress ((with_reducible refine SameView.mk ?_) <;> [skip]))

theorem State.finishId_sameView {σ : State} (s : State) (c id : Nat) (hk : SameView σ s) :
    SameView σ (State.finishId s c id) := by
  unfold State.finishId
  repeat' first
    | with_reducible assumption
    | (with_reducible apply State.finishIssued_sameView)
    | split

theorem State.applyOp_sameView {σ : State} (s : State) (o : FlagOp) (hk : SameView σ s) :
    SameView σ (State.applyOp s o) := by
  unfold State.applyOp
  repeat' first
    | with_reducible assumption
    | (with_reducible apply State.applyFlag_sameView)
    | (with_reducible apply State.finishId_sameView)
    | split

theorem State.landFlags_sameView {σ : State} (s : State) (hk : SameView σ s) :
    SameView σ (State.landFlags s) := by
  unfold State.landFlags
  repeat' first
    | with_reducible assumption
    | (with_reducible apply State.applyOp_sameView)
    | (with_reducible refine SameView.foldl _ (fun t a ht => ?_) ?_)
    | ((try lift_lets); intro x; revert x; refine SameView.letS (r := σ) ?_ (fun x hx => ?_))
    | (fail_if_no_progress ((with_reducible refine SameView.mk ?_) <;> [skip]))

theorem State.abandon_sameView {σ : State} (s : State) (c : Nat) (i : Issued) (hk : SameView σ s) : SameView σ (s.abandon c i) := by
  unfold State.abandon
  split
  · exact hk
  · next u _ =>
    extract_lets dm ws rs kw kr rows s1
    refine State.updCore_sameView _ _ _ ?_
    exact SameView.mk hk

theorem State.abandonAll_sameView {σ : State} (s : State) (hk : SameView σ s) :
    SameView σ (State.abandonAll s) := by
  unfold State.abandonAll
  repeat' first
    | with_reducible assumption
    | (with_reducible apply State.abandon_sameView)
    | (with_reducible refine SameView.foldl _ (fun t a ht => ?_) ?_)

/-! ### The decision applied -/

/-- A commit: the next beat, no replay yet (10 R297). -/
theorem State.commitBeat_beat (s : State) (gs : List Nat) :
    ((s.commitBeat gs).beat.joined, (s.commitBeat gs).beat.kind, (s.commitBeat gs).beat.bno, (s.commitBeat gs).beat.period,
        (s.commitBeat gs).beat.replays, (s.commitBeat gs).beat.replayNext, (s.commitBeat gs).beat.lastCommit)
      = (s.beat.joined, s.beat.kind, s.beat.bno + 1, s.beat.period, 0, false, s.beat.bno)
    ∧ (s.Budgets → (s.commitBeat gs).Budgets) := by
  unfold State.commitBeat
  extract_lets src s0 s1 s2 s3
  have k0 : InBeat s0 s0 := InBeat.refl _
  have k1 : InBeat s0 s1 := InBeat.foldl _ (fun _ _ ht => State.commitTable_inBeat _ _ ht) k0
  have k2 : InBeat s0 s2 := State.xbSettle_inBeat _ (State.dropGroups_inBeat _ _ (State.commitMembers_inBeat _ _ k1))
  have k3 : InBeat s0 s3 := InBeat.foldl _ (fun _ _ ht => State.startOrders_inBeat _ _ ht) k2
  clear_value s3
  obtain ⟨h, g⟩ := k3
  simp only [Prod.mk.injEq] at h ⊢
  obtain ⟨h1, h2, h3, h4, h5, h6, h7⟩ := h
  exact ⟨⟨h1, h2, congrArg (· + 1) h3, h4, trivial, trivial, h7⟩, fun x c => g x c⟩

/-- A replay: the same beat once more (10 R297). -/
theorem State.replayBeat_beat (s : State) (gs : List Nat) :
    ((s.replayBeat gs).beat.joined, (s.replayBeat gs).beat.kind, (s.replayBeat gs).beat.bno, (s.replayBeat gs).beat.period,
        (s.replayBeat gs).beat.replays, (s.replayBeat gs).beat.replayNext, (s.replayBeat gs).beat.lastCommit)
      = (s.beat.joined, s.beat.kind, s.beat.bno, s.beat.period, s.beat.replays + 1, true, s.beat.lastCommit)
    ∧ (s.Budgets → (s.replayBeat gs).Budgets) := by
  unfold State.replayBeat
  extract_lets s1 s2 src sr2 s3
  have k2 : InBeat s s2 := State.mapPg_inBeat _ _ (State.restoreFlags_inBeat _ _ (State.dropGroups_inBeat _ _ (InBeat.refl _)))
  have k4 := State.event_inBeat (σ := s3) s3 0x87 3 0xFF 0xFF 0xFFFF (BitVec.ofNat 32 s3.beat.replays) (InBeat.refl _)
  obtain ⟨h, g⟩ := k4
  obtain ⟨e, f⟩ := k2
  clear_value s2
  simp only [Prod.mk.injEq] at h e ⊢
  obtain ⟨h1, h2, h3, h4, h5, h6, h7⟩ := h
  obtain ⟨e1, e2, e3, e4, e5, e6, e7⟩ := e
  exact ⟨⟨h1.trans e1, h2.trans e2, h3.trans e3, h4.trans e4, h5.trans (congrArg (· + 1) e5), h6, h7.trans e7⟩,
    fun x => g fun c => f x c⟩

/-- A flight fault: the device is joined no more (10 R304). -/
theorem State.flightFault_beat (s : State) (cause port : Nat) :
    ((s.flightFault cause port).beat.joined, (s.flightFault cause port).beat.kind, (s.flightFault cause port).beat.bno)
      = (false, 0, s.beat.bno)
    ∧ (s.Budgets → (s.flightFault cause port).Budgets) := by
  unfold State.flightFault
  extract_lets s1 s2 s3 s4 s5 s6 src sr2 s7
  have k1 : InBeat s s1 := InBeat.foldl _ (fun _ _ ht => State.discardTable_inBeat _ _ _ ht) (InBeat.refl _)
  have k2 : InBeat s s2 := State.restoreFlags_inBeat _ _ (State.discardMembers_inBeat _ _ k1)
  have k3 : InBeat s s3 := InBeat.foldl _ (fun _ _ ht => State.updEnt_inBeat _ _ _ ht) k2
  have k4 : InBeat s s4 := InBeat.foldl _ (fun _ _ ht => State.setBit_inBeat _ _ _ ht) k3
  have k5 : InBeat s s5 := State.haltTransits_inBeat _ (InBeat.foldl _ (fun _ _ ht => State.haltPart_inBeat _ _ ht) k4)
  have k6 : InBeat s s6 := InBeat.foldl _ (fun _ _ ht => State.updPort_inBeat _ _ _ ht) k5
  have k7 := State.log_inBeat (σ := s7) _ originHw 11 0xFF 0 0 (BitVec.ofNat 32 cause)
    (State.alert_inBeat _ 0 (State.event_inBeat s7 0x86 11 0xFF 0xFF 0xFFFF (BitVec.ofNat 32 cause) (InBeat.refl _)))
  obtain ⟨h, g⟩ := k7
  obtain ⟨e, f⟩ := k6
  clear_value s6
  simp only [Prod.mk.injEq] at h e ⊢
  exact ⟨⟨h.1, h.2.1, h.2.2.1.trans e.2.2.1⟩, fun x => g fun c => f x c⟩

end Sys2Proof.Machine
end

