-- ==== Sys2Proof/Laws/Bits.lean ====
section
/-! SUPPORT. Reading a bit field after one is written. -/

namespace Sys2Proof.Machine

open Sys2Proof

/-- A word splits at a field into the bits above, the field and the bits below. -/
theorem fld_split (w lsb len : Nat) :
    w = w / 2 ^ (lsb + len) * 2 ^ (lsb + len) + w / 2 ^ lsb % 2 ^ len * 2 ^ lsb + w % 2 ^ lsb := by
  have h1 := Nat.div_add_mod w (2 ^ lsb)
  have h2 := Nat.div_add_mod (w / 2 ^ lsb) (2 ^ len)
  rw [Nat.div_div_eq_div_mul, ← pow_add] at h2
  calc w = 2 ^ lsb * (w / 2 ^ lsb) + w % 2 ^ lsb := h1.symm
    _ = 2 ^ lsb * (2 ^ len * (w / 2 ^ (lsb + len)) + w / 2 ^ lsb % 2 ^ len) + w % 2 ^ lsb := by rw [h2]
    _ = _ := by rw [pow_add]; ring

/-- The number a written field leaves. -/
theorem setFld_toNat (w : Word) (lsb len v : Nat) (h : lsb + len ≤ 32) :
    (setFld w lsb len v).toNat
      = w.toNat / 2 ^ (lsb + len) * 2 ^ (lsb + len) + v % 2 ^ len * 2 ^ lsb + w.toNat % 2 ^ lsb := by
  have hs := fld_split w.toNat lsb len
  have hw : w.toNat < 2 ^ 32 := w.isLt
  have hl : w.toNat % 2 ^ lsb < 2 ^ lsb := Nat.mod_lt _ (by positivity)
  have hv : v % 2 ^ len < 2 ^ len := Nat.mod_lt _ (by positivity)
  have hhi : w.toNat / 2 ^ (lsb + len) < 2 ^ (32 - (lsb + len)) := by
    rw [Nat.div_lt_iff_lt_mul (by positivity), ← pow_add]
    simpa [Nat.sub_add_cancel h] using hw
  have key : w.toNat / 2 ^ (lsb + len) * 2 ^ (lsb + len) + v % 2 ^ len * 2 ^ lsb + w.toNat % 2 ^ lsb < 2 ^ 32 := by
    have e : 2 ^ 32 = 2 ^ (32 - (lsb + len)) * 2 ^ (lsb + len) := by rw [← pow_add, Nat.sub_add_cancel h]
    have e2 : 2 ^ (lsb + len) = 2 ^ len * 2 ^ lsb := by rw [← pow_add, Nat.add_comm]
    have a1 : (w.toNat / 2 ^ (lsb + len) + 1) * 2 ^ (lsb + len) ≤ 2 ^ (32 - (lsb + len)) * 2 ^ (lsb + len) :=
      Nat.mul_le_mul_right _ hhi
    have a2 : (v % 2 ^ len + 1) * 2 ^ lsb ≤ 2 ^ len * 2 ^ lsb := Nat.mul_le_mul_right _ hv
    rw [e]
    rw [← e2] at a2
    rw [Nat.add_mul, Nat.one_mul] at a1 a2
    omega
  unfold setFld fld
  rw [BitVec.toNat_ofNat]
  have e : w.toNat - w.toNat / 2 ^ lsb % 2 ^ len * 2 ^ lsb + v % 2 ^ len * 2 ^ lsb
      = w.toNat / 2 ^ (lsb + len) * 2 ^ (lsb + len) + v % 2 ^ len * 2 ^ lsb + w.toNat % 2 ^ lsb := by omega
  rw [e]
  exact Nat.mod_eq_of_lt key

/-- Read after write of a field. -/
theorem fld_setFld (w : Word) (lsb len v : Nat) (h : lsb + len ≤ 32) : fld (setFld w lsb len v) lsb len = v % 2 ^ len := by
  have hl : w.toNat % 2 ^ lsb < 2 ^ lsb := Nat.mod_lt _ (by positivity)
  unfold fld
  rw [setFld_toNat w lsb len v h]
  have e : w.toNat / 2 ^ (lsb + len) * 2 ^ (lsb + len) + v % 2 ^ len * 2 ^ lsb + w.toNat % 2 ^ lsb
      = 2 ^ lsb * (2 ^ len * (w.toNat / 2 ^ (lsb + len)) + v % 2 ^ len) + w.toNat % 2 ^ lsb := by rw [pow_add]; ring
  rw [e, Nat.mul_add_div (by positivity), Nat.div_eq_of_lt hl, Nat.add_zero, Nat.mul_add_mod, Nat.mod_mod]

/-- A field above the one written stands. -/
theorem fld_setFld_above (w : Word) (lsb len v a n : Nat) (h : lsb + len ≤ 32) (ha : lsb + len ≤ a) :
    fld (setFld w lsb len v) a n = fld w a n := by
  have hl : w.toNat % 2 ^ lsb < 2 ^ lsb := Nat.mod_lt _ (by positivity)
  have hv : v % 2 ^ len < 2 ^ len := Nat.mod_lt _ (by positivity)
  have e2 : 2 ^ (lsb + len) = 2 ^ len * 2 ^ lsb := by rw [← pow_add, Nat.add_comm]
  have low : v % 2 ^ len * 2 ^ lsb + w.toNat % 2 ^ lsb < 2 ^ (lsb + len) := by
    have := Nat.mul_le_mul_right (2 ^ lsb) hv
    rw [Nat.succ_mul, ← e2] at this
    omega
  have q : (setFld w lsb len v).toNat / 2 ^ (lsb + len) = w.toNat / 2 ^ (lsb + len) := by
    rw [setFld_toNat w lsb len v h, Nat.add_assoc, Nat.mul_comm, Nat.mul_add_div (by positivity), Nat.div_eq_of_lt low,
      Nat.add_zero]
  unfold fld
  obtain ⟨d, rfl⟩ := Nat.exists_eq_add_of_le ha
  rw [pow_add, ← Nat.div_div_eq_div_mul, ← Nat.div_div_eq_div_mul, q]

/-- A field below the one written stands. -/
theorem fld_setFld_below (w : Word) (lsb len v a n : Nat) (h : lsb + len ≤ 32) (ha : a + n ≤ lsb) :
    fld (setFld w lsb len v) a n = fld w a n := by
  have q : (setFld w lsb len v).toNat % 2 ^ lsb = w.toNat % 2 ^ lsb := by
    rw [setFld_toNat w lsb len v h]
    have e : w.toNat / 2 ^ (lsb + len) * 2 ^ (lsb + len) + v % 2 ^ len * 2 ^ lsb + w.toNat % 2 ^ lsb
        = 2 ^ lsb * (2 ^ len * (w.toNat / 2 ^ (lsb + len)) + v % 2 ^ len) + w.toNat % 2 ^ lsb := by rw [pow_add]; ring
    rw [e, Nat.mul_add_mod, Nat.mod_mod]
  have low : ∀ x : Nat, x / 2 ^ a % 2 ^ n = x % 2 ^ lsb / 2 ^ a % 2 ^ n := by
    intro x
    obtain ⟨d, rfl⟩ := Nat.exists_eq_add_of_le ha
    rw [show a + n + d = a + (n + d) by omega, pow_add 2 a, Nat.mod_mul_right_div_self, pow_add 2 n,
      Nat.mod_mul_right_mod]
  unfold fld
  rw [low, q, ← low]

/-- A bit is its field of length 1. -/
theorem bit_eq_fld (w : Word) (n : Nat) : bit w n = decide (fld w n 1 = 1) := by simp [bit, fld]

/-- A bit set reads as set. -/
@[simp] theorem bit_setFld_one (w : Word) (n : Nat) (h : n < 32) : bit (setFld w n 1 1) n = true := by
  rw [bit_eq_fld, fld_setFld w n 1 1 (by omega)]; rfl

/-- A bit cleared reads as clear. -/
@[simp] theorem bit_setFld_zero (w : Word) (n : Nat) (h : n < 32) : bit (setFld w n 1 0) n = false := by
  rw [bit_eq_fld, fld_setFld w n 1 0 (by omega)]; rfl

/-- Another bit stands. -/
theorem bit_setFld_other (w : Word) (n m v : Nat) (h : n < 32) (hm : m ≠ n) : bit (setFld w n 1 v) m = bit w m := by
  rw [bit_eq_fld, bit_eq_fld]
  rcases Nat.lt_or_gt_of_ne hm with hlt | hgt
  · rw [fld_setFld_below w n 1 v m 1 (by omega) (by omega)]
  · rw [fld_setFld_above w n 1 v m 1 (by omega) (by omega)]

end Sys2Proof.Machine
end

