-- ==== Sys2Proof/Laws/Frames.lean ====
section
/-! SUPPORT. Frames: that `Only` composes, and for each shared operation the groups of state it may change. -/

namespace Sys2Proof.Machine

open Sys2Proof

theorem Same.rfl {s : State} {g : Grp} : Same s s g := by cases g <;> first | exact Eq.refl _ | exact fun _ => Eq.refl _

theorem Same.trans {s t u : State} {g : Grp} (h : Same s t g) (k : Same t u g) : Same s u g := by
  cases g <;> first | exact Eq.trans k h | exact fun x => (k x).trans (h x)

theorem Only.refl (ch : List Grp) (s : State) : Only ch s s := fun _ _ => Same.rfl

theorem Only.trans {ch : List Grp} {s t u : State} (h : Only ch s t) (k : Only ch t u) : Only ch s u :=
  fun g hg => (h g hg).trans (k g hg)

theorem Only.mono {ch dh : List Grp} {s t : State} (h : Only ch s t) (m : ∀ g, g ∈ ch → g ∈ dh) : Only dh s t :=
  fun g hg => h g fun x => hg (m g x)

/-- A change within one group named. -/
theorem Only.of {ch : List Grp} {s t : State} {c : Grp} (h : c ∈ ch) (e : ∀ g, g ≠ c → Same s t g) : Only ch s t :=
  fun g hg => e g fun x => hg (x ▸ h)

theorem Only.pending {ch : List Grp} (s : State) (x : List Instr) (h : Grp.pending ∈ ch) : Only ch s { s with pending := x } :=
  Only.of h fun g hg => by cases g <;> first | exact absurd rfl hg | exact Eq.refl _ | exact fun _ => Eq.refl _

theorem Only.fuses {ch : List Grp} (s : State) (x : Fuses) (h : Grp.fuses ∈ ch) : Only ch s { s with fuses := x } :=
  Only.of h fun g hg => by cases g <;> first | exact absurd rfl hg | exact Eq.refl _ | exact fun _ => Eq.refl _

theorem Only.flash {ch : List Grp} (s : State) (x : List (Nat × Byte)) (h : Grp.flash ∈ ch) : Only ch s { s with flash := x } :=
  Only.of h fun g hg => by cases g <;> first | exact absurd rfl hg | exact Eq.refl _ | exact fun _ => Eq.refl _

theorem Only.pwr {ch : List Grp} (s : State) (x : Pwr) (h : Grp.pwr ∈ ch) : Only ch s { s with pwr := x } :=
  Only.of h fun g hg => by cases g <;> first | exact absurd rfl hg | exact Eq.refl _ | exact fun _ => Eq.refl _

theorem Only.regs {ch : List Grp} (s : State) (x : List (Nat × Word)) (h : Grp.regs ∈ ch) : Only ch s { s with regs := x } :=
  Only.of h fun g hg => by cases g <;> first | exact absurd rfl hg | exact Eq.refl _ | exact fun _ => Eq.refl _

theorem Only.tb {ch : List Grp} (s : State) (x : TimeBase) (h : Grp.tb ∈ ch) : Only ch s { s with tb := x } :=
  Only.of h fun g hg => by cases g <;> first | exact absurd rfl hg | exact Eq.refl _ | exact fun _ => Eq.refl _

theorem Only.beat {ch : List Grp} (s : State) (x : Beat) (h : Grp.beat ∈ ch) : Only ch s { s with beat := x } :=
  Only.of h fun g hg => by cases g <;> first | exact absurd rfl hg | exact Eq.refl _ | exact fun _ => Eq.refl _

theorem Only.cores {ch : List Grp} (s : State) (x : List (Nat × Core)) (h : Grp.cores ∈ ch) : Only ch s { s with cores := x } :=
  Only.of h fun g hg => by cases g <;> first | exact absurd rfl hg | exact Eq.refl _ | exact fun _ => Eq.refl _

theorem Only.mem {ch : List Grp} (s : State) (x : List (Nat × Byte)) (h : Grp.mem ∈ ch) : Only ch s { s with mem := x } :=
  Only.of h fun g hg => by cases g <;> first | exact absurd rfl hg | exact Eq.refl _ | exact fun _ => Eq.refl _

theorem Only.ecc {ch : List Grp} (s : State) (x : List (Nat × Ecc)) (h : Grp.ecc ∈ ch) : Only ch s { s with ecc := x } :=
  Only.of h fun g hg => by cases g <;> first | exact absurd rfl hg | exact Eq.refl _ | exact fun _ => Eq.refl _

theorem Only.poisonPending {ch : List Grp} (s : State) (x : List Nat) (h : Grp.poisonPending ∈ ch) : Only ch s { s with poisonPending := x } :=
  Only.of h fun g hg => by cases g <;> first | exact absurd rfl hg | exact Eq.refl _ | exact fun _ => Eq.refl _

theorem Only.banks {ch : List Grp} (s : State) (x : List (Nat × Bank)) (h : Grp.banks ∈ ch) : Only ch s { s with banks := x } :=
  Only.of h fun g hg => by cases g <;> first | exact absurd rfl hg | exact Eq.refl _ | exact fun _ => Eq.refl _

theorem Only.flags {ch : List Grp} (s : State) (x : Flags) (h : Grp.flags ∈ ch) : Only ch s { s with flags := x } :=
  Only.of h fun g hg => by cases g <;> first | exact absurd rfl hg | exact Eq.refl _ | exact fun _ => Eq.refl _

theorem Only.parts {ch : List Grp} (s : State) (x : List (Nat × Part)) (h : Grp.parts ∈ ch) : Only ch s { s with parts := x } :=
  Only.of h fun g hg => by cases g <;> first | exact absurd rfl hg | exact Eq.refl _ | exact fun _ => Eq.refl _

theorem Only.partOps {ch : List Grp} (s : State) (x : List PartOp) (h : Grp.partOps ∈ ch) : Only ch s { s with partOps := x } :=
  Only.of h fun g hg => by cases g <;> first | exact absurd rfl hg | exact Eq.refl _ | exact fun _ => Eq.refl _

theorem Only.transits {ch : List Grp} (s : State) (x : List Transit) (h : Grp.transits ∈ ch) : Only ch s { s with transits := x } :=
  Only.of h fun g hg => by cases g <;> first | exact absurd rfl hg | exact Eq.refl _ | exact fun _ => Eq.refl _

theorem Only.loads {ch : List Grp} (s : State) (x : List Load) (h : Grp.loads ∈ ch) : Only ch s { s with loads := x } :=
  Only.of h fun g hg => by cases g <;> first | exact absurd rfl hg | exact Eq.refl _ | exact fun _ => Eq.refl _

theorem Only.tether {ch : List Grp} (s : State) (x : Tether) (h : Grp.tether ∈ ch) : Only ch s { s with tether := x } :=
  Only.of h fun g hg => by cases g <;> first | exact absurd rfl hg | exact Eq.refl _ | exact fun _ => Eq.refl _

theorem Only.drift {ch : List Grp} (s : State) (x : Drift) (h : Grp.drift ∈ ch) : Only ch s { s with drift := x } :=
  Only.of h fun g hg => by cases g <;> first | exact absurd rfl hg | exact Eq.refl _ | exact fun _ => Eq.refl _

theorem Only.rt {ch : List Grp} (s : State) (x : Rt) (h : Grp.rt ∈ ch) : Only ch s { s with rt := x } :=
  Only.of h fun g hg => by cases g <;> first | exact absurd rfl hg | exact Eq.refl _ | exact fun _ => Eq.refl _

theorem Only.su {ch : List Grp} (s : State) (x : Vector Su 4) (h : Grp.su ∈ ch) : Only ch s { s with su := x } :=
  Only.of h fun g hg => by cases g <;> first | exact absurd rfl hg | exact Eq.refl _ | exact fun _ => Eq.refl _

theorem Only.rings {ch : List Grp} (s : State) (x : List (Nat × List RingCmd)) (h : Grp.rings ∈ ch) : Only ch s { s with rings := x } :=
  Only.of h fun g hg => by cases g <;> first | exact absurd rfl hg | exact Eq.refl _ | exact fun _ => Eq.refl _

theorem Only.pg {ch : List Grp} (s : State) (x : List (Nat × PgPart)) (h : Grp.pg ∈ ch) : Only ch s { s with pg := x } :=
  Only.of h fun g hg => by cases g <;> first | exact absurd rfl hg | exact Eq.refl _ | exact fun _ => Eq.refl _

theorem Only.qps {ch : List Grp} (s : State) (x : List (Nat × Qp)) (h : Grp.qps ∈ ch) : Only ch s { s with qps := x } :=
  Only.of h fun g hg => by cases g <;> first | exact absurd rfl hg | exact Eq.refl _ | exact fun _ => Eq.refl _

theorem Only.dg {ch : List Grp} (s : State) (x : Dg) (h : Grp.dg ∈ ch) : Only ch s { s with dg := x } :=
  Only.of h fun g hg => by cases g <;> first | exact absurd rfl hg | exact Eq.refl _ | exact fun _ => Eq.refl _

theorem Only.sess {ch : List Grp} (s : State) (x : List (Nat × Option Sess)) (h : Grp.sess ∈ ch) : Only ch s { s with sess := x } :=
  Only.of h fun g hg => by cases g <;> first | exact absurd rfl hg | exact Eq.refl _ | exact fun _ => Eq.refl _

theorem Only.neigh {ch : List Grp} (s : State) (x : List (Nat × List Byte)) (h : Grp.neigh ∈ ch) : Only ch s { s with neigh := x } :=
  Only.of h fun g hg => by cases g <;> first | exact absurd rfl hg | exact Eq.refl _ | exact fun _ => Eq.refl _

theorem Only.stalled {ch : List Grp} (s : State) (x : List Waiter) (h : Grp.stalled ∈ ch) : Only ch s { s with stalled := x } :=
  Only.of h fun g hg => by cases g <;> first | exact absurd rfl hg | exact Eq.refl _ | exact fun _ => Eq.refl _

theorem Only.mc {ch : List Grp} (s : State) (x : Mc) (h : Grp.mc ∈ ch) : Only ch s { s with mc := x } :=
  Only.of h fun g hg => by cases g <;> first | exact absurd rfl hg | exact Eq.refl _ | exact fun _ => Eq.refl _

theorem Only.sc {ch : List Grp} (s : State) (x : Sc) (h : Grp.sc ∈ ch) : Only ch s { s with sc := x } :=
  Only.of h fun g hg => by cases g <;> first | exact absurd rfl hg | exact Eq.refl _ | exact fun _ => Eq.refl _

theorem Only.ir {ch : List Grp} (s : State) (x : JtagIr) (h : Grp.ir ∈ ch) : Only ch s { s with ir := x } :=
  Only.of h fun g hg => by cases g <;> first | exact absurd rfl hg | exact Eq.refl _ | exact fun _ => Eq.refl _

theorem Only.out {ch : List Grp} (s : State) (x : List Output) (h : Grp.out ∈ ch) : Only ch s { s with out := x } :=
  Only.of h fun g hg => by cases g <;> first | exact absurd rfl hg | exact Eq.refl _ | exact fun _ => Eq.refl _

theorem Only.rnd {ch : List Grp} (s : State) (x : Nat) (h : Grp.rnd ∈ ch) : Only ch s { s with rnd := x } :=
  Only.of h fun g hg => by cases g <;> first | exact absurd rfl hg | exact Eq.refl _ | exact fun _ => Eq.refl _

theorem Only.free {ch : List Grp} (s : State) (x : Nat) (h : Grp.free ∈ ch) : Only ch s { s with free := x } :=
  Only.of h fun g hg => by cases g <;> first | exact absurd rfl hg | exact Eq.refl _ | exact fun _ => Eq.refl _

theorem Only.wr {ch : List Grp} (s : State) (a : Nat) (v : Word) (hr : Grp.regs ∈ ch) : Only ch s (s.wr a v) := by
  exact Only.regs s _ hr

theorem Only.wrF {ch : List Grp} (s : State) (a l n v : Nat) (hr : Grp.regs ∈ ch) : Only ch s (s.wrF a l n v) := by
  exact Only.regs s _ hr

theorem Only.setBit {ch : List Grp} (s : State) (a n : Nat) (hr : Grp.regs ∈ ch) : Only ch s (s.setBit a n) := by
  exact Only.regs s _ hr

theorem Only.clrBit {ch : List Grp} (s : State) (a n : Nat) (hr : Grp.regs ∈ ch) : Only ch s (s.clrBit a n) := by
  exact Only.regs s _ hr

theorem Only.alert {ch : List Grp} (s : State) (n : Nat) (hr : Grp.regs ∈ ch) : Only ch s (s.alert n) := by
  exact Only.regs s _ hr

theorem Only.bump {ch : List Grp} (s : State) (a : Nat) (hr : Grp.regs ∈ ch) : Only ch s (s.bump a) := by
  exact Only.regs s _ hr

theorem Only.setCore {ch : List Grp} (s : State) (c : Nat) (k : Core) (h : Grp.cores ∈ ch) : Only ch s (s.setCore c k) := by
  exact Only.cores s _ h

theorem Only.updCore {ch : List Grp} (s : State) (c : Nat) (f : Core → Core) (h : Grp.cores ∈ ch) : Only ch s (s.updCore c f) := by
  exact Only.cores s _ h

theorem Only.updSq {ch : List Grp} (s : State) (c : Nat) (f : Sq → Sq) (h : Grp.cores ∈ ch) : Only ch s (s.updSq c f) := by
  exact Only.cores s _ h

theorem Only.pastCmd {ch : List Grp} (s : State) (x : Hdr) (h : Grp.cores ∈ ch) : Only ch s (s.pastCmd x) := by
  exact Only.cores s _ h

theorem Only.memSet {ch : List Grp} (s : State) (g : Nat) (b : Byte) (h : Grp.mem ∈ ch) : Only ch s (s.memSet g b) := by
  exact Only.mem s _ h

theorem Only.setPart {ch : List Grp} (s : State) (p : Nat) (q : Part) (h : Grp.parts ∈ ch) : Only ch s (s.setPart p q) := by
  exact Only.parts s _ h

theorem Only.setSess {ch : List Grp} (s : State) (i : Nat) (x : Option Sess) (h : Grp.sess ∈ ch) : Only ch s (s.setSess i x) := by
  exact Only.sess s _ h

theorem Only.setPg {ch : List Grp} (s : State) (p : Nat) (q : PgPart) (h : Grp.pg ∈ ch) : Only ch s (s.setPg p q) := by
  exact Only.pg s _ h

theorem Only.setQp {ch : List Grp} (s : State) (p : Nat) (q : Qp) (h : Grp.qps ∈ ch) : Only ch s (s.setQp p q) := by
  exact Only.qps s _ h

theorem Only.failBeat {ch : List Grp} (s : State) (hb : Grp.beat ∈ ch) : Only ch s (s.failBeat) := by
  exact Only.beat s _ hb

theorem Only.faultGroup {ch : List Grp} (s : State) (g : Nat) (hb : Grp.beat ∈ ch) : Only ch s (s.faultGroup g) := by
  exact Only.beat s _ hb

theorem Only.gather {ch : List Grp} (s : State) (code u e p c : Nat) (a : Word) (hs : Grp.sc ∈ ch) : Only ch s (s.gather code u e p c a) := by
  exact Only.sc s _ hs

theorem Only.putEvt {ch : List Grp} (s : State) (e : Evt) (hr : Grp.regs ∈ ch) (hs : Grp.sc ∈ ch) : Only ch s (s.putEvt e) := by
  unfold State.putEvt
  have h1 := Only.sc (ch := ch) s { s.sc with evts := Sparse.set (fun _ => none) s.sc.evts ((s.rd rScEvtHead).toNat % 4096) (some (s.rd rScEvtHead, e)) } hs
  dsimp only at h1 ⊢
  split
  · exact (((h1.trans (Only.wr _ _ _ hr)).trans (Only.bump _ _ hr)).trans (Only.wr _ _ _ hr)).trans (Only.setBit _ _ _ hr)
  · exact h1.trans (Only.wr _ _ _ hr)

theorem Only.event {ch : List Grp} (s : State) (code u e p c : Nat) (a : Word) (hr : Grp.regs ∈ ch) (hs : Grp.sc ∈ ch) : Only ch s (s.event code u e p c a) := by
  exact Only.putEvt s _ hr hs

theorem Only.putLog {ch : List Grp} (s : State) (r : LogRec) (hr : Grp.regs ∈ ch) (hs : Grp.sc ∈ ch) : Only ch s (s.putLog r) := by
  unfold State.putLog
  have h1 : Only ch s { s with sc := { s.sc with chain := sm3 (s.sc.chain ++ logBytes (s.rd rScLogHead) r), logs := Sparse.set (fun _ => none) s.sc.logs ((s.rd rScLogHead).toNat % 16384) (some (s.rd rScLogHead, r, (sm3 (s.sc.chain ++ logBytes (s.rd rScLogHead) r)).take 16)) } } := Only.sc s _ hs
  have h2 := h1.trans (Only.wr _ rScLogHead (s.rd rScLogHead + 1) hr)
  dsimp only
  split
  · exact ((((h2.trans (Only.bump _ _ hr)).trans (Only.wr _ _ _ hr)).trans (Only.setBit _ _ _ hr)).trans (Only.event _ _ _ _ _ _ _ hr hs)).trans (Only.alert _ _ hr)
  · exact h2

theorem Only.log {ch : List Grp} (s : State) (o : Origin) (k p : Nat) (a x y : Word) (hr : Grp.regs ∈ ch) (hs : Grp.sc ∈ ch) : Only ch s (s.log o k p a x y) := by
  exact Only.putLog s _ hr hs

theorem Only.coreMiss {ch : List Grp} (s : State) (c eng pc : Nat) (hr : Grp.regs ∈ ch) (hs : Grp.sc ∈ ch) (hb : Grp.beat ∈ ch) : Only ch s (s.coreMiss c eng pc) := by
  unfold State.coreMiss
  have h1 : Only ch s (if eng = 4 then s.setBit (rLpStatus c) 1 else s) := by
    split
    · exact Only.setBit _ _ _ hr
    · exact Only.refl _ _
  exact (((h1.trans (Only.setBit _ _ _ hr)).trans (Only.bump _ _ hr)).trans (Only.gather _ _ _ _ _ _ _ hs)).trans (Only.failBeat _ hb)

theorem Only.coreFault {ch : List Grp} (s : State) (c code src pc : Nat) (hr : Grp.regs ∈ ch) (hs : Grp.sc ∈ ch) (hb : Grp.beat ∈ ch) : Only ch s (s.coreFault c code src pc) := by
  unfold State.coreFault
  have h1 : Only ch s (if bit (s.rd (rSqFault c)) 11 then s
    else ((s.wr (rSqFault c) (BitVec.ofNat 32 (code + src * 256 + 2048))).wr (rSqFaultPc c) (BitVec.ofNat 32 pc)).wr
      (rSqFaultBeat c) (BitVec.ofNat 32 s.beat.bno.toNat)) := by
    split
    · exact Only.refl _ _
    · exact ((Only.wr _ _ _ hr).trans (Only.wr _ _ _ hr)).trans (Only.wr _ _ _ hr)
  generalize (if bit (s.rd (rSqFault c)) 11 then s
    else ((s.wr (rSqFault c) (BitVec.ofNat 32 (code + src * 256 + 2048))).wr (rSqFaultPc c) (BitVec.ofNat 32 pc)).wr
      (rSqFaultBeat c) (BitVec.ofNat 32 s.beat.bno.toNat)) = s1 at h1
  have h2 := ((h1.trans (Only.setBit _ (rSqStatus c) 4 hr)).trans (Only.bump _ (rSqFaultCount c) hr)).trans
    (Only.gather _ code 0 src (s.partNo c) c (BitVec.ofNat 32 pc) hs)
  dsimp only
  split <;> split
  · exact (h2.trans (Only.faultGroup _ _ hb)).trans (Only.coreMiss _ _ _ _ hr hs hb)
  · exact h2.trans (Only.coreMiss _ _ _ _ hr hs hb)
  · exact h2.trans (Only.faultGroup _ _ hb)
  · exact h2

theorem Only.carry {ch : List Grp} (s : State) (w : Egress) (hr : Grp.regs ∈ ch) (hn : Grp.neigh ∈ ch) (ho : Grp.out ∈ ch) : Only ch s (s.carry w) := by
  unfold State.carry
  split
  · exact Only.refl _ _
  · dsimp only
    split
    · exact Only.bump _ _ hr
    · refine Only.trans (fun g hg => ?_) (Only.bump _ _ hr)
      cases g <;> first | exact absurd hr hg | exact absurd hn hg | exact absurd ho hg | exact Eq.refl _ | exact fun _ => Eq.refl _

theorem Only.emitMsg {ch : List Grp} (s : State) (x : Sess) (m : OutMsg) (b : Bool) (hr : Grp.regs ∈ ch) (hn : Grp.neigh ∈ ch) (ho : Grp.out ∈ ch) : Only ch s (s.emitMsg x m b) := by
  unfold State.emitMsg
  exact (Only.carry _ _ hr hn ho).trans (Only.out _ _ ho)

theorem Only.emitAck {ch : List Grp} (s : State) (x : Sess) (hr : Grp.regs ∈ ch) (hn : Grp.neigh ∈ ch) (ho : Grp.out ∈ ch) : Only ch s (s.emitAck x) := by
  unfold State.emitAck
  exact (Only.carry _ _ hr hn ho).trans (Only.out _ _ ho)

theorem Only.pump {ch : List Grp} (s : State) (i : Nat) (l : List OutMsg) (hr : Grp.regs ∈ ch) (hn : Grp.neigh ∈ ch) (ho : Grp.out ∈ ch) (he : Grp.sess ∈ ch) : Only ch s (s.pump i l) := by
  induction l generalizing s with
  | nil => exact Only.refl _ _
  | cons m r ih =>
    unfold State.pump
    split
    · split
      · exact ((Only.setSess _ _ _ he).trans (Only.emitMsg _ _ _ _ hr hn ho)).trans (ih _)
      · exact Only.refl _ _
    · exact Only.refl _ _

theorem Only.sendTo {ch : List Grp} (s : State) (i : Nat) (m : OutMsg) (hr : Grp.regs ∈ ch) (hn : Grp.neigh ∈ ch) (ho : Grp.out ∈ ch) (he : Grp.sess ∈ ch) : Only ch s (s.sendTo i m) := by
  unfold State.sendTo
  split
  · exact (Only.setSess _ _ _ he).trans (Only.pump _ _ _ hr hn ho he)
  · exact Only.refl _ _

theorem Only.send {ch : List Grp} (s : State) (u k : Nat) (b : List Byte) (hr : Grp.regs ∈ ch) (hn : Grp.neigh ∈ ch) (ho : Grp.out ∈ ch) (he : Grp.sess ∈ ch) : Only ch s (s.send u k b) := by
  unfold State.send
  split
  · exact Only.sendTo _ _ _ hr hn ho he
  · exact Only.refl _ _

theorem Only.complete {ch : List Grp} (s : State) (u : Nat) (tag : Word) (op st code e a : Nat) (hr : Grp.regs ∈ ch) (hn : Grp.neigh ∈ ch) (ho : Grp.out ∈ ch) (he : Grp.sess ∈ ch) : Only ch s (s.complete u tag op st code e a) := by
  exact Only.send _ _ _ _ hr hn ho he

theorem Only.fwRefuse {ch : List Grp} (s : State) (u : Nat) (tag : Word) (op code : Nat) (hr : Grp.regs ∈ ch) (hn : Grp.neigh ∈ ch) (ho : Grp.out ∈ ch) (he : Grp.sess ∈ ch) : Only ch s (s.fwRefuse u tag op code) := by
  exact Only.send _ _ _ _ hr hn ho he

theorem Only.fwDone {ch : List Grp} (s : State) (o : Origin) (u : Nat) (tag : Word) (op a : Nat) (hr : Grp.regs ∈ ch) (hs : Grp.sc ∈ ch) (hn : Grp.neigh ∈ ch) (ho : Grp.out ∈ ch) (he : Grp.sess ∈ ch) : Only ch s (s.fwDone o u tag op a) := by
  unfold State.fwDone
  exact (Only.log _ _ _ _ _ _ _ hr hs).trans (Only.complete _ _ _ _ _ _ _ _ hr hn ho he)

theorem Only.answerReg {ch : List Grp} (s : State) (w : Waiter) (op a st : Nat) (v : Word) (hr : Grp.regs ∈ ch) (hn : Grp.neigh ∈ ch) (ho : Grp.out ∈ ch) (he : Grp.sess ∈ ch) : Only ch s (s.answerReg w op a st v) := by
  unfold State.answerReg
  split
  · split
    · exact Only.refl _ _
    · split
      · exact Only.refl _ _
      · split
        · exact (Only.setSess _ _ _ he).trans (Only.send _ _ _ _ hr hn ho he)
        · exact Only.setSess _ _ _ he
  · split
    · exact Only.out _ _ ho
    · exact Only.refl _ _

theorem Only.pairPackets {ch : List Grp} (s : State) (a b n : Nat) (hd : Grp.drift ∈ ch) : Only ch s (s.pairPackets a b n) := by
  unfold State.pairPackets
  extract_lets
  repeat' split
  all_goals first | exact Only.refl _ _ | exact Only.drift _ _ hd

theorem Only.atEndpoint {ch : List Grp} (s : State) (a c : Nat) (hr : Grp.regs ∈ ch) (hd : Grp.drift ∈ ch) (hf : Grp.free ∈ ch) : Only ch s (s.atEndpoint a c) := by
  unfold State.atEndpoint
  split
  · exact Only.refl _ _
  · have h1 := (Only.wr (ch := ch) s (rDriftRxCount c) (s.rd (rDriftRxCount c) + BitVec.ofNat 32 (Config.accessPackets s.free + 1)) hr).trans
      (Only.wr _ (rDriftTxCount c) (s.rd (rDriftTxCount c) + BitVec.ofNat 32 (Config.accessPackets s.free + 1)) hr)
    dsimp only
    split
    · exact (((h1.trans (Only.wrF _ _ _ _ _ hr)).trans (Only.pairPackets _ _ _ _ hd)).trans (Only.pairPackets _ _ _ _ hd)).trans (Only.free _ _ hf)
    · exact ((h1.trans (Only.pairPackets _ _ _ _ hd)).trans (Only.pairPackets _ _ _ _ hd)).trans (Only.free _ _ hf)

theorem Only.byDrift {ch : List Grp} (s : State) (w : Waiter) (hr : Grp.regs ∈ ch) (hd : Grp.drift ∈ ch) (hf : Grp.free ∈ ch) : Only ch s (s.byDrift w) := by
  unfold State.byDrift
  split
  · exact Only.refl _ _
  · exact Only.atEndpoint _ _ _ hr hd hf
  · exact Only.refl _ _

theorem Only.regWorld {ch : List Grp} (s : State) (o : Origin) (k a : Nat) (v : Word) (hr : Grp.regs ∈ ch) (hs : Grp.sc ∈ ch) : Only ch s (s.regWorld o k a v) := by
  unfold State.regWorld
  exact (Only.event _ _ _ _ _ _ _ hr hs).trans (Only.log _ _ _ _ _ _ _ hr hs)

theorem Only.foldl {ch : List Grp} {α : Type} (f : State → α → State) (l : List α) (s : State) (h : ∀ t x, Only ch t (f t x)) : Only ch s (l.foldl f s) := by
  induction l generalizing s with
  | nil => exact Only.refl _ _
  | cons x r ih => exact (h s x).trans (ih _)

end Sys2Proof.Machine
end

