-- ==== Sys2Proof/WellFormed.lean ====
section
/-! DEFINITION. Which commands are well formed: every operand fits the width its chapter gives it. The types of
Syntax.lean hold most of it; what a natural number or a list leaves open is checked here. -/

namespace Sys2Proof

/-- The header of a command of a stream (05 R144; 06 R169): a virtual core index of 8 bits, a size of at least one
narrow word. -/
def Hdr.wf (h : Hdr) : Bool := decide (h.core < 256) && decide (1 ≤ h.words)

/-- A core index of 8 bits (05 R144). -/
def coreWf (c : Nat) : Bool := decide (c < 256)

/-- A number that fits a given count of bits. -/
def fits (bits n : Nat) : Bool := decide (n < 2 ^ bits)

/-- An address in a local space: 25 bits (05 R144). -/
def localWf (a : Nat) : Bool := fits 25 a

/-- A granule whose stored bits have been flipped: 8-byte aligned, in a local space (05 R149). -/
def Upset.wf (u : Upset) : Bool := localWf u.addr && decide (u.addr % 8 = 0)

/-- A 4-bit element format (02 R36). -/
def Fmt.fourBit (f : Fmt) : Bool :=
  match f with
  | .int4 | .fp4 | .mxfp4 => true
  | _ => false

/-- A format with block scales (02 R40). -/
def Fmt.scaled (f : Fmt) : Bool :=
  match f with
  | .mxfp4 | .mxe4m3 | .mxe5m2 => true
  | _ => false

/-- A pass modifier: one of `.pass1` to `.pass4` (03 R86, R89). -/
def passWf (p : Option Nat) : Bool := p.all fun n => decide (1 ≤ n) && decide (n ≤ 4)

/-- The scale addresses of a format: one for a format with block scales, none for another (03 R80). -/
def sclWf (f : Fmt) (scl : Option Nat) : Bool := decide (scl.isSome = f.scaled) && scl.all localWf

/-- `mx.load.w` (03 R80): an aligned source and stride, 1 to 256 rows and columns, 512 in 4-bit formats. -/
def MxLoad.wf (c : MxLoad) : Bool :=
  let most := if c.fmt.fourBit then 512 else 256
  localWf c.src && decide (c.src % 256 = 0) && decide (c.stride % 256 = 0) && fits 32 c.stride && decide (1 ≤ c.kb)
    && decide (c.kb ≤ most) && decide (1 ≤ c.nb) && decide (c.nb ≤ most) && sclWf c.fmt c.scl

/-- `mx.run.ws` (03 R80): a row of 256, m as an immediate 0 to 256, at least one column and at most the most a buffer holds. -/
def MxWs.wf (c : MxWs) : Bool :=
  passWf c.pass && decide (c.q < 256) && localWf c.src && fits 32 c.stride
    && (match c.m with
      | .imm w => decide (w.toNat ≤ 256)
      | .ctr _ => true)
    && decide (1 ≤ c.n) && decide (c.n ≤ 512) && sclWf c.fa c.scl

/-- `mx.run.os` (03 R80): 1 to 65,536 of reduction, 1 to 256 rows and columns. -/
def MxOs.wf (c : MxOs) : Bool :=
  passWf c.pass && decide (c.q < 256) && localWf c.srca && fits 32 c.stridea && localWf c.srcb && fits 32 c.strideb
    && decide (1 ≤ c.k) && decide (c.k ≤ 65536) && decide (1 ≤ c.m) && decide (c.m ≤ 256) && decide (1 ≤ c.n) && decide (c.n ≤ 256)
    && sclWf c.fa c.scla && sclWf c.fb c.sclb

/-- An operand of the vector engine (04 R110): an address of a local space, a stride of 32 bits, a row of 256; a slice stream of a
format with block scales has a scale address, and only one has. -/
def VOp.wf (o : VOp) : Bool :=
  match o with
  | .slc t => localWf t.addr && fits 32 t.stride && sclWf t.fmt t.scl
  | .acb _ q _ _ => decide (q < 256)
  | _ => true

/-- A mask of the vector engine (04 R113). -/
def VMask.wf (m : VMask) : Bool :=
  match m with
  | .bm addr stride => localWf addr && fits 32 stride
  | _ => true

/-- `vx.run` (04 R122). -/
def VxRun.wf (c : VxRun) : Bool :=
  c.in0.wf && c.in1.wf && c.in2.wf && c.in3.wf && c.out0.wf && c.out1.wf && c.mask.wf

/-- An access of a bank (05 R145): a wide one to an aligned word of 256 bytes with 32 enables, or a narrow one, of the sequencer
alone, to an aligned word of 8 bytes; a write brings the bytes of its word. A host access says where it comes from (16 R466). -/
def BankReq.wf (r : BankReq) : Bool :=
  let n := if r.narrow then 8 else 256
  localWf r.addr && decide (r.addr % n = 0) && decide (r.en.length * 8 = n) && decide (r.data.length = if r.wr then n else 0)
    && (!r.narrow || decide (r.user = .sq))
    && (if r.user = .host then decide (1 ≤ r.host.iface ∧ r.host.iface ≤ 3 ∧ r.host.src.length ≤ 16 ∧ r.host.port < 65536
          ∧ r.host.sess < 65536)
        else decide (r.host = HostFrom.none))

/-- A tether cell (10 R282, R283): 10-bit chips, a class of 4 bits, two VALID bits, 256 bytes. -/
def CellIn.wf (c : CellIn) : Bool :=
  decide (c.cell.cls < 16) && decide (c.cell.src < 1024) && decide (c.cell.dst < 1024) && decide (c.cell.valid < 4)
    && decide (c.cell.payload.length = 256)

/-- The names of an alignment block (10 R277). -/
def AlignBlock.wf (b : AlignBlock) : Bool := fits 10 b.chip && decide (b.port < 8) && fits 16 b.tag

/-- A READY payload (10 R301). -/
def ReadyMsg.wf (r : ReadyMsg) : Bool :=
  r.chips.all (fun c => decide (c < 1024)) && decide (r.count < 65536) && decide (r.level < 256)
    && decide (r.beatLen < 4294967296)

/-- The VLAN identifier of a tag: 12 bits (15 R422). -/
def vlanWf (v : Option Nat) : Bool := v.all (fits 12)

/-- An address of an IP family: 16 bytes in IPv6, 4 in IPv4 (15 R423). -/
def ipWf (v6 : Bool) (a : List Byte) : Bool := decide (a.length = if v6 then 16 else 4)

/-- A neighbour query (15 R423). -/
def NeighbourQuery.wf (q : NeighbourQuery) : Bool := vlanWf q.vlan && ipWf q.v6 q.target

/-- An echo request (15 R423). -/
def EchoQuery.wf (q : EchoQuery) : Bool := vlanWf q.vlan && ipWf q.v6 q.src && ipWf q.v6 q.dst

/-- A RoCEv2 packet (15 R425): a 24-bit queue pair and PSN, at most one path MTU of data. -/
def RocePkt.wf (p : RocePkt) : Bool :=
  vlanWf p.vlan && decide (p.qp < 16777216) && decide (p.psn < 16777216) && decide (p.data.length ≤ 4096)

/-- A PCT datagram (15 R428): a 16-byte source address, 16-bit ports, length and magic, an 8-bit KIND. -/
def PctHdr.wf (h : PctHdr) : Bool :=
  vlanWf h.vlan && decide (h.src.length = 16) && decide (h.port < 65536) && decide (h.dport < 65536) && decide (h.udpLen < 65536)
    && decide (h.magic < 65536) && decide (h.ver < 256) && decide (h.kind < 256) && decide (h.len < 65536)

/-- A PCT datagram of a row whose messages have a KIND: of that one, or of none that a host sends, which is discarded (15 R429). -/
def PctHdr.wfOf (h : PctHdr) (k : Nat) : Bool := h.wf && (decide (h.kind = k) || !hostKind h.kind)

/-- A command header (15 R433). -/
def CmdHdr.wf (c : CmdHdr) : Bool :=
  decide (c.target < 65536) && decide (c.entry < 4294967296) && decide (c.count < 4294967296)

/-- A SUBMIT body (15 R433). -/
def SubmitBody.wf (b : SubmitBody) : Bool :=
  decide (b.client < 4096) && decide (b.prio < 8) && decide (b.maxNew < 16777216) && decide (b.spec < 256)
    && decide (b.npages < 65536) && decide (b.prefixLen < 4294967296)

/-- A PART_CREATE body (15 R434). -/
def CreateBody.wf (b : CreateBody) : Bool :=
  decide (b.x0 < 256) && decide (b.y0 < 256) && decide (b.w < 256) && decide (b.h < 256) && decide (b.alloc < 65536)

/-- A BIND body (15 R434): member records of twelve windows. -/
def BindBody.wf (b : BindBody) : Bool :=
  decide (b.handle < 4294967296) && decide (b.group < 65536)
    && b.members.all fun m => decide (m.chip < 65536) && decide (m.part < 256) && decide (m.rwin.length = 12)

/-- A FLIGHT body (15 R434): eight port records. -/
def FlightBody.wf (b : FlightBody) : Bool :=
  decide (b.chip < 65536) && decide (b.tag < 65536) && decide (b.rounds < 256) && decide (b.dMax < 65536)
    && decide (b.beatLen < 4294967296) && decide (b.guard < 4294967296) && decide (b.ports.length = 8)
    && b.ports.all fun p => decide (p.peer < 65536) && decide (p.peerPort < 256) && decide (p.dNom < 65536)

/-- A BULK header (15 R440). -/
def BulkHdr.wf (b : BulkHdr) : Bool :=
  decide (b.target < 256) && decide (b.handle < 4294967296) && decide (b.addr < 18446744073709551616)
    && decide (b.bytes < 4294967296)

/-- A register operation's way in. -/
def Via.wf (v : Via) : Bool :=
  match v with
  | .pct h => h.wfOf 3
  | .more _ => true
  | .firmware => true

/-- A register address (15 R439): 32 bits, 4-byte aligned. -/
def addrWf (a : Nat) : Bool := decide (a < 4294967296) && decide (a % 4 = 0)

/-- A JTAG debug access (16 R475): a register, or a granule of a slice, written with its 8 bytes. -/
def DbgAccess.wf (a : DbgAccess) : Bool :=
  match a with
  | .regRead addr => addrWf addr
  | .regWrite addr _ => addrWf addr
  | .memRead core addr => coreWf core && localWf addr && decide (addr % 8 = 0)
  | .memWrite core addr data => coreWf core && localWf addr && decide (addr % 8 = 0) && decide (data.length = 8)

/-- Is the command well formed? -/
def Instr.wf (i : Instr) : Bool :=
  match i with
  | .pwrEnRise => true
  | .pwrEnFall => true
  | .powerOffHoldEnd => true
  | .undervoltageLockout => true
  | .overvoltageLockout => true
  | .overcurrentTrip => true
  | .pwrInputLow vin => fits 16 vin
  | .pwrInputHigh vin => fits 16 vin
  | .railFault rail => decide (1 ≤ rail) && decide (rail ≤ 5)
  | .railOutOfRegulation rail => decide (1 ≤ rail) && decide (rail ≤ 5)
  | .thermalTrip => true
  | .resetNLow _ => true
  | .internalResetRelease _ => true
  | .pctReady _ => true
  | .firmwareReset => true
  | .tsyncLoad => true
  | .refLost => true
  | .refRelock => true
  | .tbPhaseCheck _ => true
  | .beatStartAnnounce _ => true
  | .beatBoundary => true
  | .guardBandStart => true
  | .statusCut => true
  | .statusRoundSend r => fits 8 r
  | .statusCell c => c.wf
  | .monitorWarn _ margin => fits 8 margin
  | .followStretch _ => true
  | .crossingLate _ _ _ core _ => coreWf core
  | .levelChangeRequest via _ _ => via.wf
  | .levelChangeDone _ => true
  | .heartbeatSend => true
  | .powerWindow _ => true
  | .thermalSample temps => decide (temps.length = 32)
  | .scrubRead core _ upset => coreWf core && upset.all Upset.wf
  | .bankGrant core _ reqs upset => coreWf core && reqs.all BankReq.wf && upset.all Upset.wf
  | .correctionWriteback core _ => coreWf core
  | .poisonWriteback core _ => coreWf core
  | .sqFetch core => coreWf core
  | .engineIssue core _ => coreWf core
  | .commandComplete core _ _ => coreWf core
  | .sqNop h => h.wf
  | .sqMovi h _ _ => h.wf
  | .sqMov h _ _ => h.wf
  | .sqRd h _ _ => h.wf
  | .sqAdd h _ _ _ => h.wf
  | .sqSub h _ _ _ => h.wf
  | .sqMul h _ _ _ => h.wf
  | .sqAnd h _ _ _ => h.wf
  | .sqOr h _ _ _ => h.wf
  | .sqXor h _ _ _ => h.wf
  | .sqShl h _ _ _ => h.wf
  | .sqShr h _ _ _ => h.wf
  | .sqLd h _ _ _ _ => h.wf
  | .sqLdValue core => coreWf core
  | .sqSt h _ _ _ _ => h.wf
  | .sqCmp h _ _ _ _ => h.wf
  | .sqKset h _ _ _ _ => h.wf
  | .sqKoff h _ => h.wf
  | .sqPand h _ _ _ => h.wf
  | .sqPor h _ _ _ => h.wf
  | .sqPxor h _ _ _ => h.wf
  | .sqPnot h _ _ => h.wf
  | .sqPset h _ _ => h.wf
  | .sqLoop h _ _ _ => h.wf
  | .sqJmp h _ => h.wf
  | .sqCall h _ => h.wf
  | .sqRet h => h.wf
  | .sqRcall h _ _ => h.wf
  | .sqRret h => h.wf
  | .sqWaitq h _ n => h.wf && fits 6 n
  | .sqWaitqRelease core => coreWf core
  | .sqDelay h _ => h.wf
  | .sqDelayExpire core => coreWf core
  | .sqPost h _ _ _ => h.wf
  | .sqPostAccept core => coreWf core
  | .sqPres h _ _ => h.wf
  | .sqEnd h => h.wf
  | .mxLoadW h c => h.wf && c.wf
  | .mxRunWs h c => h.wf && c.wf
  | .mxRunOs h c => h.wf && c.wf
  | .mxClear h _ _ => h.wf
  | .mxSheet h _ => h.wf
  | .mxSheetOff h => h.wf
  | .meSheetStall core => coreWf core
  | .vxLd h _ _ src => h.wf && src.wf
  | .vxSt h _ _ _ dst mask => h.wf && dst.wf && mask.wf
  | .vxBcast h _ _ => h.wf
  | .vxIota h _ => h.wf
  | .vxMov h _ _ => h.wf
  | .vxCtx h _ _ _ _ _ => h.wf
  | .vxRun h c => h.wf && c.wf
  | .vxRed h c => h.wf && c.src.wf && c.mask.wf
  | .vxScan h c => h.wf && c.dst.wf && c.src.wf && c.mask.wf
  | .vxSmStat h _ _ src _ mask => h.wf && src.wf && mask.wf
  | .vxSmMerge h _ _ _ _ _ _ => h.wf
  | .vxSmNorm h dst src _ _ _ mask => h.wf && dst.wf && src.wf && mask.wf
  | .vxSmFinal h dst src _ _ => h.wf && dst.wf && src.wf
  | .vxSmLse h _ _ _ => h.wf
  | .vxDigPost h _ _ _ => h.wf
  | .dmCopy h _ _ _ => h.wf
  | .dmZero h _ _ => h.wf
  | .dmGather h _ _ _ _ _ _ => h.wf
  | .dmScatter h _ _ _ _ _ => h.wf
  | .dmRput h _ _ _ _ _ => h.wf
  | .lpSend h _ _ _ => h.wf
  | .lpArm h _ _ _ _ => h.wf
  | .lpDisarm h _ => h.wf
  | .switchEntryAdvance core => coreWf core
  | .latticeDeparture core => coreWf core
  | .latticeArrival core _ upset => coreWf core && upset.all Upset.wf
  | .legArrival f => f.upset.all Upset.wf
  | .seSet h _ _ => h.wf
  | .seAdd h _ _ => h.wf
  | .seWaitObs h _ _ => h.wf
  | .seWaitTake h _ _ => h.wf
  | .seRsig h _ _ _ => h.wf
  | .seFenceQ h _ => h.wf
  | .seFenceAll h => h.wf
  | .seFenceRemote h => h.wf
  | .fenceRelease core => coreWf core
  | .flagOpApply _ => true
  | .waitRelease core => coreWf core
  | .driftRouterCycle _ _ _ => true
  | .driftPacketEject _ => true
  | .suJob _ => true
  | .suResult _ => true
  | .draftPacket => true
  | .pgSelection => true
  | .digestPost => true
  | .pgViewWrite _ => true
  | .tetherSlotDepart _ _ => true
  | .data c => c.wf
  | .dma c => c.wf
  | .flag c => c.wf
  | .batch c => c.wf
  | .idle c => c.wf
  | .portLocked _ block => block.wf
  | .portLockLost _ => true
  | .portTrainTimeout _ => true
  | .neighbourLost _ => true
  | .joinStart via _ => via.wf
  | .joinReadySet via _ => via.wf
  | .joinProbeTick => true
  | .probe _ _ _ => true
  | .echo _ _ _ trip16 => fits 32 trip16
  | .time _ _ hops => fits 8 hops
  | .adopt _ => true
  | .peer _ => true
  | .ready _ r => r.wf
  | .start _ _ _ => true
  | .joinTimeout => true
  | .startTcReached => true
  | .reelOrderComplete _ => true
  | .rdmaReadResponse p => p.wf
  | .roceAcknowledge p _ => p.wf
  | .cnp p => p.wf
  | .roceRetryTimeout _ => true
  | .roceRateIncrease _ => true
  | .rlRetry via _ => via.wf
  | .rlAbandon via _ => via.wf
  | .portUp _ => true
  | .portDown _ => true
  | .failoverAnnounce _ => true
  | .neighbourDiscovery q => q.wf
  | .icmpEcho q => q.wf
  | .pauseFrame _ => true
  | .sessionSyn h => h.wf
  | .ack h => h.wfOf 8
  | .pctResendTimeout _ => true
  | .heartbeat h => h.wfOf 7
  | .hostHeartbeatTimeout _ => true
  | .submit h c b => h.wfOf 1 && c.wf && b.wf
  | .resume h c maxNew _ _ => h.wfOf 1 && c.wf && fits 24 maxNew
  | .cancel h c => h.wfOf 1 && c.wf
  | .draft h c pos _ => h.wfOf 1 && c.wf && fits 32 pos
  | .fetch h c from_ _ => h.wfOf 1 && c.wf && fits 32 from_
  | .partCreate h c b => h.wfOf 1 && c.wf && b.wf
  | .partDestroy h c => h.wfOf 1 && c.wf
  | .loadBegin h c bytes => h.wfOf 1 && c.wf && fits 64 bytes
  | .loadEnd h c handle => h.wfOf 1 && c.wf && fits 32 handle
  | .bind h c b => h.wfOf 1 && c.wf && b.wf
  | .unbind h c _ => h.wfOf 1 && c.wf
  | .rebind h c b _ => h.wfOf 1 && c.wf && b.wf
  | .transit h c b => h.wfOf 1 && c.wf && b.wf
  | .flight h c b => h.wfOf 1 && c.wf && b.wf
  | .join h c => h.wfOf 1 && c.wf
  | .attest h c nonce => h.wfOf 1 && c.wf && decide (nonce.length = 32)
  | .logStream h c _ _ _ => h.wfOf 1 && c.wf
  | .fwBegin h c => h.wfOf 1 && c.wf
  | .fwCommit h c handle => h.wfOf 1 && c.wf && fits 32 handle
  | .reset h c _ => h.wfOf 1 && c.wf
  | .svnRaise h c kind _ svn => h.wfOf 1 && c.wf && fits 8 kind && fits 16 svn
  | .configCommit h c copy => h.wfOf 1 && c.wf && fits 8 copy
  | .ucalSave h c => h.wfOf 1 && c.wf
  | .ucalLoad h c copy => h.wfOf 1 && c.wf && fits 8 copy
  | .lcOwn h c pubkey => h.wfOf 1 && c.wf && decide (pubkey.length = 64)
  | .lcReturn h c sig => h.wfOf 1 && c.wf && decide (sig.length = 64)
  | .registerRead via addr => via.wf && addrWf addr
  | .registerWrite via addr _ => via.wf && addrWf addr
  | .bulkWrite h b _ => h.wfOf 5 && b.wf
  | .bulkRead h b => h.wfOf 5 && b.wf
  | .tsyncArm via _ => via.wf
  | .tbTcLoRead via => via.wf
  | .scRandRead via => via.wf
  | .rtCredit via _ => via.wf
  | .clientRecordWrite via _ _ _ => via.wf
  | .rtGroupValidSet via _ _ => via.wf
  | .groupRelease via _ _ => via.wf
  | .noadmit via _ _ => via.wf
  | .frozen via _ _ => via.wf
  | .xbClaim via _ _ group => via.wf && fits 16 group
  | .xbReady via _ _ group => via.wf && fits 16 group
  | .xbRelease via _ _ group => via.wf && fits 16 group
  | .xbPendingWrite via _ _ _ => via.wf
  | .dgLogTailWrite via _ => via.wf
  | .scLogTailWrite via _ => via.wf
  | .scEvtTailWrite via _ => via.wf
  | .ucalWrite via _ _ => via.wf
  | .scJtagLock via _ => via.wf
  | .bypass => true
  | .idcode => true
  | .samplePreload => true
  | .extest => true
  | .clamp => true
  | .highz => true
  | .dbgNs a => a.wf
  | .dbgS a => a.wf
  | .lcScrap => true
  | .pldmSensorRead _ => true
  | .mctpRecordRead _ => true
  | .reservedOp h c op => h.wfOf 1 && c.wf && fits 16 op
  | .roceUnsupportedPacket p => p.wf

end Sys2Proof
end

