-- ==== Sys2Proof/Tests/Slice0.lean ====
section
/-! SUPPORT. The model's own tests: every check of WellFormed refuses an ill-formed term, a few single commands against values
the spec gives, and for each statement a state and operands that meet its hypotheses. -/

namespace Sys2Proof.Tests

open Sys2Proof Sys2Proof.Machine

set_option Elab.async false

/-! ### A device in a work beat -/

/-- PCT-ready, joined, in a work beat; partition 0, secure, RUNNING, holds cores 0 and 1 and flags 0 to 3; SLC_RELOC of core 0
maps 16 pages of tier 0. -/
def work : State :=
  { State.reset with
    pwr := { Pwr.reset with phase := .ready }
    beat := { Beat.reset with joined := true, kind := 1, bno := 7 }
    parts := [(0, { Part.reset with st := .running, w := 2, h := 1, fcount := 4, bound := some 0 })]
    regs := [(rSlcReloc 0 0, 0x00100000)] }

/-- `work` with core 0 as given. -/
def workCore (k : Core) : State := { work with cores := [(0, k)] }

/-- A sequencer whose stream runs, with a full buffer. -/
def sq0 : Sq := { Sq.reset with run := true, avail := 16 }

/-- `work` with the sequencer of core 0 as given. -/
def workSq (q : Sq) : State := workCore { Core.reset with sq := q }

/-- A command of core 0 of one narrow word, with nothing attached. -/
def hd : Hdr := ⟨0, none, 1, none, none, false, false⟩

/-- A command that its predicate, P0 negated, never lets run. -/
def hdOff : Hdr := { hd with pred := some ⟨.p 0, true⟩ }

/-- `work` with the sequencer running. -/
def st0 : State := workSq sq0

/-- The queue of an engine of core 0 in `work`, the stream running. -/
def workDm (l : List QEntry) : State := workCore { Core.reset with sq := sq0, qDm := l }

/-- An entry of a queue. -/
def ent0 (c : ECmd) : QEntry := ⟨0, 0, c, none, none, false⟩

/-- A command issued. -/
def iss (e : Engine) (f : Finish) (c : ECmd) : Issued := ⟨0, e, 0, none, f, c, none⟩

/-! ### Witnesses: the sequencer -/

theorem witness_SqWritesCounter :
    SqReady st0 hd [7] ∧ SqReady st0 hd [7, 0] ∧ SqReady st0 hd (Opnd.ctrs (.ctr 3) ++ [7, 0]) := by
  unfold SqReady; decide +kernel

theorem witness_SqWritesPredicate :
    SqReady st0 hd (Opnd.ctrs (.imm 1) ++ [7]) ∧ SqReady st0 hd (sq0.srcCtrs (.p 7) ++ sq0.srcCtrs (.k 3))
      ∧ SqReady st0 hd (sq0.srcCtrs (.k 0) ++ sq0.srcCtrs (.k 0)) ∧ SqReady st0 hd (Opnd.ctrs (.ctr 7)) ∧ SqReady st0 hd [] := by
  unfold SqReady; decide +kernel

theorem witness_PredicateZeroIsTrue :
    (∃ t, exec (.sqCmp hd .eq 0 7 (.imm 1)) st0 = .next t) ∧ SqReady st0 hd [] := by
  refine ⟨⟨_, rfl⟩, ?_, ?_⟩ <;> decide +kernel

theorem witness_SqMovesStream :
    let fr (b : Option Word) : Frame := ⟨b, 5, 0⟩
    let deep := workSq { sq0 with stack := List.replicate 7 (fr none) }
    (SqReady deep hd [7] ∧ (deep.corePart 0).secure = true ∧ (deep.core 0).sq.stack.length < 8)
      ∧ (SqReady deep hd [] ∧ (deep.core 0).sq.stack = fr none :: List.replicate 6 (fr none)
          ∧ (deep.core 0).sq.loops.length ≤ (fr none).loops)
      ∧ (let s := workSq { sq0 with stack := [fr (some 1)] }
         SqReady s hd [] ∧ (s.core 0).sq.stack = [fr (some 1)] ∧ (s.core 0).sq.loops.length ≤ (fr (some 1)).loops)
      ∧ SqReady st0 hd (Opnd.ctrs (.imm 0)) ∧ (∀ l ∈ (st0.core 0).sq.loops, l.reg ≠ 3) := by
  unfold SqReady; decide +kernel

theorem witness_SqHolds :
    SqReady st0 hd [] ∧ SqReady st0 hd (Opnd.ctrs (.ctr 0))
      ∧ (let s := workSq { sq0 with hold := some (.waitq .dm 0) }
         (s.core 0).sq.hold = some (.waitq .dm 0) ∧ ((s.core 0).queue .dm).length ≤ 0)
      ∧ ((workSq { sq0 with hold := some (.delay 1) }).core 0).sq.hold = some (.delay 1)
      ∧ (let s := { workSq { sq0 with hold := some .post } with drift := { work.drift with outst := [(0, 8)] } }
         (s.core 0).sq.hold = some .post
          ∧ Sparse.get (fun _ => 0) s.drift.outst 0 + (Sparse.get (fun _ => []) s.drift.waiting 0).length ≤ 8) := by
  unfold SqReady; decide +kernel

theorem witness_SqReadsAndWritesMemory :
    (SqReady st0 hd [7, 0] ∧ (st0.core 0).loadFree ⟨hd.after, hd.ord, narrowAddr 0 0xFFFC, 4⟩ = true ∧ narrowAddr 0 0xFFFC % 4 = 0
        ∧ st0.checkRange 0 (narrowAddr 0 0) 4 = none ∧ (st0.core 0).loadFree ⟨hd.after, hd.ord, narrowAddr 0 0, 4⟩ = true)
      ∧ (let s := workSq { sq0 with loads := [⟨0, 0, 7, 9, false⟩] }
         (s.core 0).sq.loads = [⟨0, 0, 7, 9, false⟩])
      ∧ (SqReady st0 hd [0, 1] ∧ narrowAddr 0 0x7FFC % 4 = 0 ∧ st0.checkRange 0 (narrowAddr 0 0x7FFC) 4 = none) := by
  refine ⟨⟨⟨?_, ?_⟩, ?_, ?_, ?_, ?_⟩, ?_, ⟨?_, ?_⟩, ?_, ?_⟩ <;> decide +kernel

theorem witness_SqPosts :
    SqReady st0 hd (Opnd.ctrs (.imm 0x107) ++ Opnd.ctrs (.imm 8)) ∧ st0.unitPresent 0x107 = true
      ∧ ∀ i, i < 6 → st0.checkRange 0 (8 + 8 * i) 8 = none := by
  refine ⟨⟨?_, ?_⟩, ?_, ?_⟩ <;> decide +kernel

theorem witness_SqSkipsWhenFalse :
    (st0.core 0).sq.passes hdOff.pred = false ∧ st0.canDispatch hdOff (Opnd.ctrs (.ctr 2) ++ [7, 0]) = true
      ∧ st0.canDispatch hdOff [7, 0] = true ∧ st0.canDispatch hdOff [] = true := by
  refine ⟨?_, ?_, ?_, ?_⟩ <;> decide +kernel

theorem witness_SqFetches :
    let q := { Sq.reset with run := true, avail := 15 }
    (let s := workSq q
     s.coreRuns 0 = true ∧ (s.core 0).sq.avail < 16 ∧ s.bytePoisoned 0 120 = false ∧ s.checkRange 0 120 8 = none)
      ∧ (let s := { workSq q with ecc := [(15, .poison)] }
         s.coreRuns 0 = true ∧ s.bytePoisoned 0 120 = true) := by
  refine ⟨⟨?_, ?_, ?_, ?_⟩, ?_, ?_⟩ <;> decide +kernel

theorem witness_ComparisonsOfCounters :
    ((0x80000000 : Word) - 0).toNat = 2 ^ 31 ∧ (7 : PReg).val ≠ 0 ∧ SqReady st0 hd (Opnd.ctrs (.imm 1) ++ [7]) ∧ SqReady st0 hd [] := by
  refine ⟨?_, ?_, ⟨?_, ?_⟩, ?_, ?_⟩ <;> decide +kernel

/-! ### Witnesses: the engines -/

/-- An entry of a switch table whose east output takes the local port, send stream 5, for one cycle (09 R258). -/
def latSend5 : DWord := 1 + 5 * 2 ^ 19 + 5 * 2 ^ 32

/-- An entry of a switch table whose local output takes the north port, receive stream 6, for one cycle (09 R258). -/
def latRecv6 : DWord := 1 + 1 * 2 ^ 28 + 6 * 2 ^ 40

theorem witness_DmLpSeDispatch :
    QueueReady (workDm (List.replicate 63 (ent0 .seFenceAll))) hd .dm [.ctr 0, .ctr 1, .ctr 2, .ctr 3, .ctr 7]
      ∧ QueueReady st0 hd .lp [.ctr 0, .ctr 1, .ctr 2, .ctr 3] ∧ QueueReady st0 hd .se [.ctr 0, .imm 1, .ctr 7]
      ∧ QueueReady st0 hd .dm [.ctr 0, .imm 1] ∧ QueueReady st0 hd .lp [] ∧ QueueReady st0 hd .se [] := by
  unfold QueueReady SqReady; decide +kernel

theorem witness_MeVeDispatch :
    QueueReady st0 hd .me [] ∧ QueueReady st0 hd .me [.ctr 7] ∧ QueueReady st0 hd .ve []
      ∧ QueueReady st0 hd .ve [.ctr 0, .ctr 1, .ctr 2, .ctr 3]
      ∧ QueueReady st0 hd .ve (VOp.opnds (.scalar (.ctr 7)) ++ VMask.opnds (.len (.ctr 6)))
      ∧ QueueReady st0 hd .ve (Opnd.imm 1 :: [VOp.scalar (.ctr 7), .none, .v 15, .none, .none, .none].flatMap VOp.opnds
          ++ VMask.opnds (.len (.ctr 0))) := by
  unfold QueueReady SqReady; decide +kernel

theorem witness_FullQueueOverruns :
    let q := List.replicate 64 (ent0 .seFenceAll)
    let s := workCore { Core.reset with sq := sq0, qDm := q, qLp := q, qSe := q, qMe := q, qVe := q }
    SqReady s hd ([Opnd.ctr 0, .imm 256].flatMap Opnd.ctrs) ∧ SqReady s hd []
      ∧ (∀ e ∈ [Engine.dm, .lp, .se, .me, .ve], 64 ≤ ((s.core 0).queue e).length) ∧ bit (s.rd (rSqFault 0)) 11 = false := by
  refine ⟨⟨?_, ?_⟩, ⟨?_, ?_⟩, ?_, ?_⟩ <;> decide +kernel

theorem witness_DmIssueMovesBytes :
    (let e := ent0 (.dmZero 0xFF00 256)
     IssueReady (workDm [e]) 0 .dm e [] ∧ (workDm [e]).checkRange 0 0xFF00 256 = none)
      ∧ (let e := ent0 (.dmCopy 32 0 32)
         IssueReady (workDm [e]) 0 .dm e [] ∧ (workDm [e]).checkRange 0 0 32 = none ∧ (workDm [e]).checkRange 0 32 32 = none
           ∧ ¬(0 < 32 + 32 ∧ 32 < 0 + 32)) := by
  refine ⟨⟨⟨?_, ?_⟩, ?_⟩, ⟨?_, ?_⟩, ?_, ?_, ?_⟩ <;> decide +kernel

/-- The entry of a departure table that sends a run of one slot of class `c` to chip 3 (10 R286). -/
def runTo3 (c : Nat) : DWord := 1 + BitVec.ofNat 64 c * 2 ^ 16 + 3 * 2 ^ 51

/-- `work` with slots to chip 3 for partition 0, of classes 2 and 3, chip 3 a device of its flight. -/
def workRuns (s : State) : State :=
  { s with
    tether := { Tether.reset with runs := [⟨0, 0, true, [runTo3 2, runTo3 3]⟩] }
    parts := [(0, { Part.reset with st := .running, w := 2, h := 1, fcount := 4, bound := some 0, members := [⟨3, 0, []⟩] })] }

/-- The blocks of one index: the index 0 at 512, so block 0 at address 0, gathered to or scattered from 256. -/
theorem witness_DmIssueMovesBlocks :
    let s := workDm [ent0 (.dmScatter 0 512 1 256 256)]
    (∃ p, p ≤ 10 ∧ 256 = 2 ^ (p + 8)) ∧ s.checkRange 0 512 (4 * 1) = none ∧ s.checkRange 0 256 (1 * 256) = none
      ∧ s.readLe 0 (512 + 4 * 0) 4 = 0 ∧ s.checkRange 0 (0 + 0 * 256) 256 = none ∧ 0 + 0 * 256 + 256 ≤ 256 := by
  refine ⟨⟨0, ?_, ?_⟩, ?_, ?_, ?_, ?_, ?_⟩ <;> decide +kernel

theorem witness_DmIssueMovesBytes_blocks :
    (let e := ent0 (.dmGather true 256 0 512 1 256)
     IssueReady (workDm [e]) 0 .dm e [])
      ∧ (let e := ent0 (.dmScatter 0 512 1 256 256)
         IssueReady (workDm [e]) 0 .dm e [])
      ∧ (let e := ent0 (.dmRput 3 63 256 0 32)
         let s := workRuns (workDm [e])
         IssueReady s 0 .dm e [] ∧ s.checkRange 0 0 32 = none ∧ s.ownsSlot (s.partNo 0) 2 3 = true) := by
  refine ⟨⟨?_, ?_⟩, ⟨?_, ?_⟩, ⟨?_, ?_⟩, ?_, ?_⟩ <;> decide +kernel

/-- `work` with one entry in the VE queue of core 0, and in slot 5 a program of one input and one output that negates. -/
def workVe (c : ECmd) : State :=
  workCore { Core.reset with
    qVe := [ent0 c]
    ve := { Ve.reset with progs := [(5, some ⟨1, 1, [⟨.fneg, .o 0, .i 0, .imm 0, .imm 0⟩]⟩), (6, some ⟨0, 2, []⟩)] } }

/-- A stream of words at an address, rows of 1,024 bytes. -/
def slc0 (a : Nat) : VOp := .slc ⟨.int32, none, none, false, none, a, 1024, none⟩

/-- One command of the VE for each clause: a run, a reduction by lanes and by rows, a scan, the softmax forms. -/
def veCmds : List ECmd :=
  [.vxBcast 15 3, .vxIota 0, .vxMov 15 0, .vxLd 0 3 (slc0 0), .vxLd 0 31 (.acb 1 255 false false), .vxSt 0 true 3 (slc0 2048) .none,
   .vxSt 7 false 3 (.acb 0 0 false false) (.len (.imm 9)),
   .vxRun ⟨0, false, 5, .imm 1, .v 3, .none, .none, .none, .v 3, .none, .nz 2⟩,
   .vxRun ⟨0, true, 6, .imm 1, .none, .none, .none, .none, .v 3, .v 4, .none⟩,
   .vxRed ⟨.mean, true, true, false, 1, slc0 0, .imm 32, .none, some 2, some 3⟩,
   .vxRed ⟨.argmin, false, false, false, 1, slc0 0, .imm 2, .none, none, some 3⟩,
   .vxScan ⟨.max, false, false, true, slc0 4096, slc0 0, .imm 2, .none⟩,
   .vxSmStat 0 1 (slc0 0) 2 .none, .vxSmMerge 0 1 2 3 4 5, .vxSmNorm (slc0 4096) (slc0 0) 0 1 2 .none,
   .vxSmFinal (slc0 4096) (slc0 0) 1 2, .vxSmLse 2 0 1, .vxDigPost 7 1 2]

theorem witness_VeIssueFillsRegister : ∀ c ∈ veCmds, IssueReady (workVe c) 0 .ve (ent0 c) [] := by
  simp only [veCmds, List.forall_mem_cons, List.not_mem_nil, false_implies, implies_true, and_true]
  repeat' apply And.intro
  all_goals decide +kernel

theorem witness_VeIssueFillsRegister_checks :
    let s := workVe .mxSheetOff
    (∀ st, slc0 0 = .slc st → st.fmt = .int32) ∧ (∀ i, i < 1024 → s.bytePoisoned 0 (0 + i) = false)
      ∧ VePasses s 0 1 [slc0 0] [] .none ∧ VePasses s 0 1 [.acb 1 255 false false] [] .none ∧ VePasses s 0 1 [] [slc0 2048] .none
      ∧ VePasses s 0 1 [] [.acb 0 0 false false] (.len (.imm 9))
      ∧ (⟨.fneg, .o 0, .i 0, .imm 0, .imm 0⟩ : UOp).dst = .o 0
      ∧ Sparse.get (fun _ => none) (s.core 0).ve.progs 5 = some ⟨1, 1, [⟨.fneg, .o 0, .i 0, .imm 0, .imm 0⟩]⟩
      ∧ (∀ i, i < 4 → ([VOp.v 3, .none, .none, .none].getD i .none ≠ .none ↔ i < 1))
      ∧ VePasses s 0 1 [.v 3, .none, .none, .none] [.v 3, .none] (.nz 2)
      ∧ VePasses s 0 1 [.none, .none, .none, .none] [.v 3, .v 4] .none
      ∧ VePasses s 0 32 [slc0 0] [] .none ∧ VePasses s 0 2 [slc0 0] [slc0 4096] .none := by
  refine ⟨?_, ?_, ?_, ?_, ?_, ?_, ?_, ?_, ?_, ?_, ?_, ?_, ?_⟩
  · intro st h; cases h; rfl
  · decide +kernel
  all_goals (try unfold VePasses)
  all_goals decide +kernel

theorem witness_VeIssueFillsRegister_values :
    let s := workCore { Core.reset with ve := { Ve.reset with v := [(0, ⟨0xFF800000, false⟩), (256, ⟨0, false⟩)] } }
    let all := activeLanes s 0 (.bc 1) .none 0
    ((s.core 0).lane 0 0).bits = 0xFF800000 ∧ ((s.core 0).lane 0 0).poison = false ∧ ((s.core 0).lane 1 0).bits ≠ 0xFF800000
      ∧ all.filterMap id ≠ [] ∧ (∀ y ∈ all.filterMap id, y.poison = false)
      ∧ (all.filterMap id).foldl (fun a y => f32max a y.bits) 0xFF800000 ≠ 0xFF800000
      ∧ (activeLanes s 0 (.bc 1) (.len (.imm 0)) 0).filterMap id = [] := by
  decide +kernel

/-- `work` with one entry in the SE queue of core 0. -/
def workSe (c : ECmd) : State := workCore { Core.reset with qSe := [ent0 c] }

theorem witness_EngineIssueStarts :
    (∀ c ∈ [ECmd.seFenceQ ⟨true, false, false, false, true⟩, .seFenceAll, .seFenceRemote, .seSet 3 1, .seAdd 3 1, .seWaitObs 3 1,
        .seWaitTake 3 65535], IssueReady (workSe c) 0 .se (ent0 c) [])
      ∧ (3 : Word).toNat < ((workSe .seFenceAll).corePart 0).fcount ∧ (65535 : Word).toNat ≤ 65535
      ∧ (let e := ent0 (.lpSend 5 0 256)
         let s := workCore { Core.reset with qLp := [e], lat := { Lat.reset with table := [latSend5] } }
         IssueReady s 0 .lp e [] ∧ (s.core 0).lat.names true 5 = true ∧ lpLimits 0 256 = false
           ∧ ((s.core 0).lp.sends.filter fun y => decide (y.strm = 5)).length < 2 ∧ s.checkRange 0 0 256 = none)
      ∧ (let e := ent0 (.lpArm 6 0 256 (some (3, 65535)))
         let s := workCore { Core.reset with qLp := [e], lat := { Lat.reset with table := [latRecv6] } }
         IssueReady s 0 .lp e [] ∧ (s.core 0).lat.names false 6 = true ∧ lpLimits 0 256 = false
           ∧ ((s.core 0).lp.arms.filter fun y => decide (y.strm = 6)).length < 2 ∧ s.checkRange 0 0 256 = none)
      ∧ (let e := ent0 (.lpDisarm 6)
         let s := workCore { Core.reset with qLp := [e], lat := { Lat.reset with table := [latRecv6] }
                                             lp := { sends := [], arms := [⟨9, 6, 0, 256, 0, false, none⟩] } }
         IssueReady s 0 .lp e [] ∧ (s.core 0).lat.names false 6 = true
           ∧ ∀ y ∈ (s.core 0).lp.arms, y.strm = 6 → y.written = false)
      ∧ (let e := ent0 (.seRsig 3 7 1)
         let s := workRuns (workSe (.seRsig 3 7 1))
         IssueReady s 0 .se e [] ∧ (∃ q ∈ (s.corePart 0).members, q.chip = 3) ∧ s.ownsSlot (s.partNo 0) 3 3 = true)
      ∧ (let e := ent0 (.vxCtx 7 1 2 3 4)
         IssueReady (workCore { Core.reset with qVe := [e] }) 0 .ve e []) := by
  refine ⟨?_, ?_, ?_, ⟨⟨?_, ?_⟩, ?_, ?_, ?_, ?_⟩, ⟨⟨?_, ?_⟩, ?_, ?_, ?_, ?_⟩, ⟨⟨?_, ?_⟩, ?_, ?_⟩, ⟨⟨?_, ?_⟩, ?_, ?_⟩, ⟨?_, ?_⟩⟩
  · intro c hc
    simp only [List.mem_cons, List.not_mem_nil, or_false] at hc
    obtain rfl | rfl | rfl | rfl | rfl | rfl | rfl := hc <;> refine ⟨?_, ?_⟩ <;> decide +kernel
  all_goals decide +kernel

/-- `work` with one entry in the ME queue of core 0, buffer 0 loaded with 32 rows and 2 columns of E5M2. -/
def workMe (c : ECmd) : State :=
  workCore { Core.reset with
    qMe := [ent0 c], me := { Me.reset with w := (Vector.replicate 2 WBuf.reset).set 0 ⟨true, .e5m2, 32, 2, [], []⟩ } }

/-- A load, an MX load, a weight-stationary and an output-stationary run, and a clear. -/
def meLoad : MxLoad := ⟨1, .fp16, 0, 64, 2, 2, none⟩
def meLoadMx : MxLoad := ⟨0, .mxe4m3, 0, 32, 32, 2, some 0x4000⟩
def meWs : MxWs := ⟨.e4m3, .e5m2, none, false, false, 1, 0, 0, 0x1000, 64, .imm 2, 2, none⟩
def meOs : MxOs := ⟨.e4m3, .e4m3, none, false, 0, 0, 0, 64, 0x1000, 64, 2, 2, 2, none, none⟩

theorem witness_EngineIssueStarts_me :
    (∀ c ∈ [ECmd.mxLoad meLoad, .mxLoad meLoadMx, .mxWs meWs, .mxOs meOs, .mxClear 1 true],
        IssueReady (workMe c) 0 .me (ent0 c) [] ∧ Alone (workMe c) 0 ∧ (workMe c).slcCheck 0 ((workMe c).meReads 0 c) = none)
      ∧ (workMe (.mxWs meWs)).wsCheck 0 meWs = none ∧ (workMe (.mxOs meOs)).osCheck 0 meOs = none ∧ fmtIsMx .mxe4m3 = true := by
  refine ⟨?_, ?_, ?_, ?_⟩
  · simp only [List.forall_mem_cons, List.not_mem_nil, false_implies, implies_true, and_true]
    repeat' apply And.intro
    all_goals (try unfold Alone)
    all_goals decide +kernel
  all_goals decide +kernel

/-- Two descriptors: core 0 alone, and core 0 with core 1. -/
def dAlone : Word := 0x10000
def dPair : Word := 0x10100

/-- The four cases of the sheets: core 0 alone, with a neighbour that waits nowhere, leaving one, and leaving none. -/
def workSheet (d : Word) (c : ECmd) (sel : Option (Fin 4)) : State :=
  { workCore { Core.reset with qMe := [ent0 c], me := { Me.reset with sheet := sel } } with regs := [(rMeSheet 0 3, d)] }

theorem witness_EngineIssueStarts_sheet :
    (∀ d ∈ [dAlone, dPair],
        let s := workSheet d (.mxSheet 3) (some 3)
        IssueReady s 0 .me (ent0 (.mxSheet 3)) [] ∧ bit (s.rd (rMeSheet 0 3)) 16 = true ∧ 0 ∈ sheetCores d
          ∧ s.sheetOf 0 = some d ∧ ∀ i ∈ sheetCores d, s.level (s.regionOf i) = s.level (s.regionOf 0))
      ∧ sheetNear dAlone 0 = [] ∧ sheetNear dPair 0 = [1]
      ∧ (let s := workSheet dPair (.mxSheet 3) none
         s.sheetJoining 1 = none ∧ (s.core 0).me.offerOf 1 = none)
      ∧ ∀ sel ∈ [none, some (3 : Fin 4)],
          IssueReady (workSheet dPair .mxSheetOff sel) 0 .me (ent0 .mxSheetOff) [] := by
  refine ⟨?_, ?_, ?_, ?_, ?_⟩
  · simp only [List.forall_mem_cons, List.not_mem_nil, false_implies, implies_true, and_true]
    refine ⟨⟨⟨?_, ?_⟩, ?_, ?_, ?_, ?_⟩, ⟨⟨?_, ?_⟩, ?_, ?_, ?_, ?_⟩⟩ <;> decide +kernel
  · decide +kernel
  · decide +kernel
  · decide +kernel
  · simp only [List.forall_mem_cons, List.not_mem_nil, false_implies, implies_true, and_true]
    refine ⟨⟨?_, ?_⟩, ?_, ?_⟩ <;> decide +kernel

theorem witness_CommandsComplete :
    (let s := workCore { Core.reset with issued := [iss .dm .timed (.dmZero 0 256)] }
     (s.core 0).issued.find? (fun i => decide (i.id = 0) && decide (i.eng = .dm) && decide (i.finish = .timed))
       = some (iss .dm .timed (.dmZero 0 256)))
      ∧ (let s := workCore { Core.reset with issued := [iss .se .fence .seFenceAll] }
         (s.core 0).issued.find? (fun i => decide (i.finish = .fence)) = some (iss .se .fence .seFenceAll)
           ∧ (s.core 0).fenceHolds 0 .seFenceAll = true)
      ∧ (let s := { work with flags := { Flags.reset with releases := [(0, 5)] } }
         s.flags.releases.find? (fun r => decide (r.1 = 0)) = some (0, 5))
      ∧ ((workCore { Core.reset with issued := [iss .me .join (.mxSheet 0)] }).core 0).issued.find?
            (fun i => decide (i.finish = .sheet ∨ i.finish = .join)) = some (iss .me .join (.mxSheet 0)) := by
  refine ⟨?_, ⟨?_, ?_⟩, ?_, ?_⟩ <;> decide +kernel

/-- `work` with one flag operation at its bank and one on the way to it; flag 3 holds 2. -/
def workFlag (k : FlagKind) (v : Word) : State :=
  { work with flags := { Flags.reset with value := [(3, 2)], ops := [⟨3, k, v, 1, 4, 9⟩]
                                          banks := (Vector.replicate 16 []).set 0 [⟨3, k, v, 0, 4, 9⟩] } }

theorem witness_FlagOperationsApply :
    (∀ k, (workFlag k 2).flags.banks[(0 : Fin 16)] = [⟨3, k, 2, 0, 4, 9⟩] ∧ (workFlag k 2).flags.ops = [⟨3, k, 2, 1, 4, 9⟩]
        ∧ ∀ w ∈ (workFlag k 2).flags.watches, w.flag ≠ 3)
      ∧ flagBank 3 = 0 ∧ flagBank 8191 = 15 ∧ ((workFlag .obs 2).flagVal 3 - 2).toNat < 2 ^ 31 ∧ (2 : Word).toNat ≤ ((workFlag .take 2).flagVal 3).toNat
      ∧ ((workFlag .take 2).flagVal 3).toNat < 2 ^ 31 ∧ 2 ^ 31 ≤ ((workFlag .obs 3).flagVal 3 - 3).toNat := by
  refine ⟨fun k => ⟨rfl, rfl, ?_⟩, ?_, ?_, ?_, ?_, ?_, ?_⟩
  · intro w h; cases h
  all_goals decide +kernel

/-! ### Witnesses: power, time base, networks, pins -/

/-- A device that is PCT-ready and joined to no flight. -/
def ready : State := { State.reset with pwr := { Pwr.reset with phase := .ready, pwrEn := true, resetN := true, good := true } }

/-- `ready` with registers as given. -/
def readyRegs (r : List (Nat × Word)) : State := { ready with regs := r }

theorem witness_PowerSequence :
    ready.railsUp = true ∧ 10000 ≤ 10000 ∧ 999 < 1000
      ∧ (let s := { State.reset with pwr := { Pwr.reset with hold := 1 } }
         s.pwr.pwrEn = false ∧ s.pwr.hold ≠ 0 ∧ s.pwr.rise = false)
      ∧ (State.reset.pwr.pwrEn = false ∧ State.reset.pwr.hold = 0 ∧ State.reset.pwr.phase = .off)
      ∧ (let s := { State.reset with pwr := { Pwr.reset with hold := 2, rise := true, pwrEn := true } }
         s.pwr.hold ≠ 0 ∧ s.pwr.rise = true ∧ s.pwr.pwrEn = true)
      ∧ (let s := { State.reset with pwr := { Pwr.reset with phase := .starting } }
         s.pwr.phase = .starting
          ∧ ({ s with regs := [(rIoEpState 3, 2)] }).failover 0 = false)
      ∧ ({ ready with mc := { Mc.reset with resetPend := true } }).mc.resetPend = true := by
  decide +kernel

/-- The public key of GB/T 32918's own example. -/
def pubKey : List Byte :=
  beBytes 32 0x09F9DF311E5421A150DD7D161E4BC5C672179FAD1833FC076BB08FF356F35020
    ++ beBytes 32 0xCCEA490CE26775A52DC6EA718CC1AA600AED05FBF35E084A6632F6072DA9AD13

/-- The header and signature of an MF image without a payload, signed with that key. -/
def mfImage : List Byte :=
  leBytes 4 0x46574C50 ++ [1, 9, 0xB1, 0] ++ List.replicate 24 0 ++ sm3 []
    ++ pubKey ++ beBytes 32 78337616112442984134945054207571627540259776381557030184048984751053400962583
    ++ beBytes 32 3716350122370363503738482069156945692195213629617307226880173419900736024120

/-- A device held in reset whose bank A is valid and holds that image. -/
def bootable : State :=
  { State.reset with
    pwr := { Pwr.reset with phase := .reset, good := true }
    fuses := { Fuses.reset with fwkeys := [sm3 pubKey] }
    flash := flashPut [] 0 (leBytes 4 0x4B4E4250 ++ leBytes 4 1 ++ [1, 0, 0, 0] ++ leBytes 4 92 ++ List.replicate 76 0 ++ mfImage) }

theorem witness_InternalResetRelease :
    (bootable.pwr.phase = .reset ∧ bootable.pwr.good = true ∧ bootable.fuses.lifecycle ≠ 4)
      ∧ bootable.validBanks = [0] ∧ ((bootable.imageOk 0 1).map fun x => x.1.key) = some (sm3 pubKey)
      ∧ (let s := { bootable with flash := [] }
         s.validBanks = [] ∧ ({ s with fuses := { Fuses.reset with lifecycle := 4 } }).fuses.lifecycle = 4) := by
  decide +kernel

/-- `ready` at a time, with power codes that have been written. -/
def raisedAt (tc : DWord) (l : List Machine.PowerCode) : State :=
  { ready with pwr := { ready.pwr with live := l }, tb := { TimeBase.reset with tc := tc } }

theorem witness_PowerMonitors :
    ready.live = true ∧ (∀ c ∈ [0x90, 0x91, 0x92, 0x93, 0x94, 0x95, 0x96], ready.raised c = none)
      ∧ (let s := raisedAt 400000005 [⟨0x90, 0, some 5⟩]
         s.raised 0x90 = some ⟨0x90, 0, some 5⟩ ∧ 400000000 ≤ (s.tb.tc - 5).toNat)
      ∧ (let s := raisedAt 400000004 [⟨0x90, 0, some 5⟩, ⟨0x92, 0, none⟩, ⟨0x96, 5, none⟩]
         s.raised 0x90 = some ⟨0x90, 0, some 5⟩ ∧ (s.tb.tc - 5).toNat < 400000000 ∧ s.raised 0x92 = some ⟨0x92, 0, none⟩
           ∧ s.raised 0x96 = some ⟨0x96, 5, none⟩)
      ∧ (1 ≤ 5 ∧ 5 ≤ 5) ∧ 2400 < ready.metered 2401 ∧ ready.metered 2400 ≤ 2400
      ∧ (((fld (ready.rd rPmThresh) 0 8 * 16 : Nat) : Int) ≤ (hottest (List.replicate 32 1440)).2)
      ∧ (((fld (ready.rd rPmThresh) 8 8 * 16 : Nat) : Int) ≤ (hottest (List.replicate 32 1600)).2)
      ∧ ready.ucalOffset 0x11C = 0 ∧ (640 : Int) < (List.replicate 32 641).getD 28 0
      ∧ (let l : List Int := List.replicate 29 640 ++ [865]
         l.getD 28 0 ≤ 640 ∧ 224 < l.getD 29 0 - l.getD 28 0)
      ∧ ¬((fld (ready.rd rPmThresh) 0 8 * 16 : Nat) : Int) ≤ (hottest (List.replicate 32 640)).2 := by
  decide +kernel

theorem witness_TimeBaseEvents :
    (let s := readyRegs [(rTbCtl, 2)]
     s.live = true ∧ bit (s.rd rTbCtl) 1 = true ∧ s.beat.joined = false)
      ∧ ({ ready with tb := { TimeBase.reset with locked := true } }).tb.locked = true
      ∧ ({ ready with tb := { TimeBase.reset with holdover := true } }).tb.holdover = true
      ∧ (let s := { ready with tether := { Tether.reset with join := { Join.reset with step := 4, parent := some 0 } } }
         s.tb.phaseRef = none ∧ 4 ≤ s.tether.join.step ∧ s.tether.join.step ≤ 6 ∧ s.tether.join.isRoot = false
          ∧ s.tether.join.parent.isSome = true)
      ∧ (({ ready with tb := { TimeBase.reset with phaseRef := some 5 } }).tb.phaseRef = some 5
          ∧ ((12 : Int) - 5).natAbs < 8 ∧ ((36 : Int) - 5).natAbs < 32 ∧ 8 ≤ ((13 : Int) - 5).natAbs ∧ ((68 : Int) - 5).natAbs < 64
          ∧ 32 ≤ ((37 : Int) - 5).natAbs ∧ 64 ≤ ((69 : Int) - 5).natAbs ∧ fld (ready.rd rTbPhase) 16 16 < ((37 : Int) - 5).natAbs)
      ∧ work.beat.joined = true
      ∧ (ready.live = true ∧ ready.level 15 ≠ 3
          ∧ (0 : Nat) < fld ((readyRegs [(rPmRegionMon 15, 1)]).rd (rPmRegionMon 15)) 0 8
          ∧ ({ ready with tb := { TimeBase.reset with stretch := (Vector.replicate 16 0).set 15 1 } }).mayStretch 15 = false)
      ∧ (let s := { ready with tb := { TimeBase.reset with stretch := (Vector.replicate 16 0).set 0 1 } }
         (regionNeighbours 4).any (fun n => decide (s.stretchOf 4 < s.stretchOf n)) = true ∧ s.level 4 ≠ 3
           ∧ s.tb.warnWait = Vector.replicate 16 false)
      ∧ bit (work.rd rTbXlate) 6 = false := by
  decide +kernel

theorem witness_PortsOfTheNetworks :
    (let s := readyRegs [(rIoEpCfg 7, 2)]
     s.live = true ∧ bit (s.rd (rIoEpCfg 7)) 1 = true ∧ s.tagOk 7 none = true ∧ s.tagOk 7 (some 1) = false
      ∧ s.answers 7 true (s.ip6 1) = some 1 ∧ s.answers 7 true [] = none
      ∧ 18 + 4 * bn false + 40 + 8 + (List.replicate 4286 (0 : Byte)).length ≤ 4352
      ∧ 4352 < 18 + 4 * bn false + 40 + 8 + (List.replicate 4287 (0 : Byte)).length
      ∧ 9216 < 18 + 4 * bn false + 40 + 8 + (List.replicate 9151 (0 : Byte)).length)
      ∧ (readyRegs [(rIoEpState 7, 2)]).failover 0 = true
      ∧ State.reset.live = false ∧ bit ((readyRegs [(rIoEpCfg 0, 1)]).rd (rIoEpCfg 0)) 1 = false := by
  decide +kernel

theorem witness_ManagementPins :
    ready.pwr.phase ≠ .off ∧ ready.jtagMay 2 = true ∧ ready.jtagMay 3 = true
      ∧ (let s := { ready with fuses := { Fuses.reset with lifecycle := 3 } }
         s.jtagMay 7 = true ∧ s.fuses.lifecycle = 3 ∧ s.pwr.phase ≠ .reset ∧ inCoreBlock rMcFeatId = false ∧ rMcFeatId < 0x3000000
          ∧ rMcFeatId ≠ rTbTcLo ∧ rMcFeatId ≠ rScRand
          ∧ ({ s with pwr := { Pwr.reset with phase := .reset } }).jtagMay 7 = true)
      ∧ (let s := { ready with regs := [(rScJtag, 1)], parts := [(0, { Part.reset with st := .idle, secure := false, w := 1, h := 1, bound := some 0 })] }
         s.jtagMay 6 = true ∧ s.dbgNsMay (.memRead 0 0) = true ∧ s.dbgNsMay (.regRead (rSqFault 0)) = true
          ∧ blockCore (rSqFault 0) = 0 ∧ s.coreExists 0 = true ∧ s.stopped 0 = false)
      ∧ (ready.pwr.phase ≠ .halted ∧ (ready.measureFor 64).sensor 64 = some 2 ∧ (State.reset.measureFor 1).sensor 1 = some 0
          ∧ (ready.measureFor 36).sensor 36 = some 0)
      ∧ (ready.live = true ∧ Sparse.get (fun _ => none) ready.sc.evts 4095 = none)
      ∧ Sparse.get (fun _ => none) [(0, some ((0 : Word), (⟨0x90, 4, 0xFF, 0xFF, 0xFFFF, 1, 0, 0, 0⟩ : Evt)))] 0
          = some (0, ⟨0x90, 4, 0xFF, 0xFF, 0xFFFF, 1, 0, 0, 0⟩) := by
  decide +kernel

/-- A device whose owner has opened non-secure debug, with a non-secure partition over core 0. -/
def openNs : State :=
  { ready with regs := [(rScJtag, 1)], parts := [(0, { Part.reset with st := .idle, secure := false, w := 1, h := 1, bound := some 0 })] }

theorem witness_dbgNs_read :
    let u := ({ openNs with ir := .dbgNs }).atEndpoint 0x10C 0
    u.mayCount (rSqFault 0) = false ∧ u.timedRead (rSqFault 0) = none := by
  decide +kernel

theorem witness_JtagRefusals :
    ready.pwr.phase ≠ .off ∧ ready.jtagMay 6 = false ∧ ready.jtagMay 7 = false ∧ ready.fuses.lifecycle ≠ 3
      ∧ ({ ready with fuses := { Fuses.reset with lifecycle := 4 } }).jtagMay 2 = false
      ∧ work.pwr.phase ≠ .off ∧ work.jtagMay 3 = false
      ∧ openNs.jtagMay 6 = true ∧ openNs.pwr.phase ≠ .reset ∧ openNs.beat.joined = false
      ∧ openNs.dbgNsMay (.regRead rMcFeatId) = false ∧ openNs.dbgNsMay (.regWrite (rSlcStatus 1) 0) = false
      ∧ openNs.dbgNsMay (.memRead 1 0) = false ∧ openNs.dbgNsMay (.memWrite 1 0 []) = false := by
  decide +kernel

/-! ### Witnesses: sessions and their operations -/

/-- A source address. -/
def addr0 : List Byte := List.replicate 16 0

/-- A sequenced message of a kind of a secure session of `addr0`, UDP port 9, session 5, with SEQ 1 and a body of `n` bytes. -/
def hdrOf (kind n : Nat) : PctHdr := ⟨0, none, addr0, 9, 39620, 32 + n, 0x5443, 1, kind, false, false, false, n, 5, 1, 0⟩

/-- A COMMAND message. -/
def hdr (n : Nat) : PctHdr := hdrOf 1 n

/-- The session it belongs to; `sec` is its world. -/
def sess0 (sec : Bool) : Sess :=
  { uid := 1, src := addr0, port := 9, id := 5, secure := sec, ep := 0, rx := 0, tx := 0, unacked := [], waiting := [],
    resends := 0, missed := 0, ring := none, mask := 0, fromEvt := 0, fromLog := 0, left := 0, reply := [], cmd := none }

/-- The registers of a device whose source entry 0 admits every address. -/
def srcRegs : List (Nat × Word) := [(rIoSrcCtl 0, 0x200)]

/-- A PCT-ready device with one session open in context 0. -/
def pct : State := { readyRegs srcRegs with sess := [(0, some (sess0 true))] }

/-- `pct` with a session of the non-secure world. -/
def pctNs : State := { pct with sess := [(0, some (sess0 false))] }

/-- The session after the datagram. -/
def sessIn (sec : Bool) : Sess := { sess0 sec with rx := 1 }

theorem accepted {s : State} {h : PctHdr} {i : Nat} {x : Sess} (e : (s.accept h).2 = some (i, x)) :
    s.accept h = ((s.accept h).1, some (i, x)) := by
  rw [← e]

/-- `s` after the message of `hdr 0`, its only one. -/
def took (s : State) (sec : Bool) : State := ((s.accept (hdr 0)).1).setSess 0 (some (sessIn sec))

theorem whole {s : State} {sec : Bool} (e : (s.accept (hdr 0)).2 = some (0, sessIn sec)) :
    Whole s (took s sec) (hdr 0) 0 (sessIn sec) :=
  ⟨(s.accept (hdr 0)).1, accepted e, rfl, rfl, rfl⟩

theorem witness_DatagramAccepted :
    (∀ k ∈ [1, 3, 5, 7, 8], (pct.accept (hdrOf k 0)).2 = some (0, sessIn true)) ∧ Reaches pct (hdr 0) := by
  unfold Reaches; decide +kernel

theorem witness_accepted_ns : (pctNs.accept (hdr 0)).2 = some (0, sessIn false) := by decide +kernel

theorem witness_managed : Managed pct (took pct true) (hdr 0) (sessIn true) := ⟨⟨0, whole (by decide +kernel)⟩, rfl⟩

theorem witness_SessionsOpenAndEnd :
    (let s := readyRegs srcRegs
     let r := s.bump (rIoEpRx 0)
     Reaches s (hdr 4160) ∧ goodHdr (hdr 4160) = true ∧ r.source addr0 = some 0 ∧ r.sessFor (hdr 4160) = none
       ∧ (List.range 64).find? (fun n => (r.sessAt n).isNone) = some 0)
      ∧ (let r := pct.bump (rIoEpRx 0)
         Reaches pct (hdrOf 8 0) ∧ goodHdr (hdrOf 8 0) = true ∧ r.source addr0 = some 0 ∧ (hdrOf 8 0).syn = false ∧ r.sessFor (hdrOf 8 0) = some 0
           ∧ (sess0 true).waiting = [])
      ∧ ((pct.admitPct (hdrOf 7 0)).2 = some 0 ∧ (pct.admitPct (hdrOf 7 0)).1.sessAt 0 = some (sess0 true))
      ∧ (∀ n, n < 2 → ({ pct with neigh := [(0, addr0), (1, addr0)] }).neigh.contains (n, addr0) = true)
      ∧ pct.sessAt 0 = some (sess0 true)
      ∧ (let m : OutMsg := ⟨1, 7, false, [], [], []⟩
         (let x := { sess0 true with unacked := [m], resends := 16 }
          ({ pct with sess := [(63, some x)] }).sessAt 63 = some x ∧ x.unacked ≠ [] ∧ 16 ≤ x.resends)
           ∧ (let x := { sess0 true with unacked := [m], resends := 15 }
              ({ pct with sess := [(63, some x)] }).sessAt 63 = some x ∧ x.unacked ≠ [] ∧ x.resends < 16)) := by
  unfold Reaches; decide +kernel

/-- A command header for target `t`. -/
def cmd (t : Nat) : CmdHdr := ⟨t, 7, 3, 1⟩

/-- `pct` with a group in slot 15, its ring of 1 command and 4 staging words. -/
def pctRing : State := { pct with regs := [(rRtGroupCtl 15, 1), (rIoRingCtl 15, 1), (rIoRingWords 15, 4)] ++ srcRegs }

/-- A SUBMIT body of `n` words. -/
def body0 (n : Nat) : SubmitBody :=
  { client := 0, prio := 0, keep := false, nowait := false, topkEn := false, bidir := false, noattend := false, maxNew := 1,
    deadline := 0, seed := 0, key := 0, temp := 0, topP := 0, topK := 0, spec := 0, npages := 1, prefixLen := 0,
    words := List.replicate n 0 }

theorem witness_RequestsEnterTheRing :
    (let s1 := took pctRing true
     (pctRing.accept (hdr 0)).2 = some (0, sessIn true) ∧ s1.groupSlot 0 = some 15
       ∧ (s1.ring 15).length < fld (s1.rd (rIoRingCtl 15)) 0 11
       ∧ ∀ op ∈ [ReqOp.submit (body0 4), .resume 1 0 [0, 0, 0, 0], .cancel, .draft 0 [], .fetch 0 false],
           (s1.stagingUsed 15).length + op.words ≤ fld (s1.rd (rIoRingWords 15)) 0 24)
      ∧ (let s := { pct with regs := (rRtGroupCtl 0, 1) :: srcRegs }
         (s.accept (hdr 0)).2 = some (0, sessIn true) ∧ (took s true).groupSlot 0 = some 0
           ∧ ¬((took s true).ring 0).length < fld ((took s true).rd (rIoRingCtl 0)) 0 11)
      ∧ ((pct.accept (hdr 0)).2 = some (0, sessIn true) ∧ (took pct true).groupSlot 0 = none)
      ∧ ((pct.accept { hdr 0 with more := true }).2 = some (0, sessIn true))
      ∧ (∀ bad, let k : OpenCmd := ⟨⟨0, 7, 3, 1⟩, .req (.submit (body0 2)), bad⟩
          let s := { pctRing with sess := [(0, some { sess0 true with cmd := some k })] }
          (s.accept (hdr 0)).2 = some (0, { sessIn true with cmd := some k })
            ∧ (took s true).groupSlot 0 = some 15
            ∧ ((took s true).stagingUsed 15).length + 4 ≤ fld ((took s true).rd (rIoRingWords 15)) 0 24) := by
  decide +kernel

/-- `pct` with partition 0 as given. -/
def pctPart (p : Part) : State := { pct with parts := [(0, p)] }

/-- A program of a handle. -/
def prog0 (n : Nat) : Prog :=
  ⟨0, n, ⟨false, true, 12, 0, 0, 1, 1, 10, 0, 1, 0, 0, 1, 0, [], []⟩, 0, 0, 0, []⟩

theorem witness_PartitionsComeAndGo :
    (let s := { pct with regs := (rMcStatus, 0) :: srcRegs }
     let s1 := took s true
     (s.accept (hdr 0)).2 = some (0, sessIn true) ∧ s1.createCheck 15 ⟨0, 0, 16, 15, false, 1620⟩ = 0 ∧ s1.createCheck 16 ⟨0, 0, 16, 15, false, 0⟩ ≠ 0)
      ∧ (let s := pctPart { Part.reset with st := .idle, w := 1, h := 1 }
         let s1 := took s true
         (s.accept (hdr 0)).2 = some (0, sessIn true) ∧ (s1.part 0).st = .idle ∧ s1.partBusy 0 = false)
      ∧ (((took pct true).part 15).st ≠ .idle) := by
  decide +kernel

/-- A device with an LNK image, so that its tether ports can be enabled. -/
def withLnk (s : State) : State := { s with mc := { s.mc with images := s.mc.images.set 3 { FwImg.reset with absent := false } } }

/-- The DIGEST of the image below. -/
def transitDigest : List Byte := beBytes 32 110544920525741347367446854943402223375513061316838451294793153156952836845941

/-- A transit image without runs, signed with that key. -/
def transitImage : List Byte :=
  leBytes 4 0x4D494C50 ++ [1, 0, 128, 0, 9, 0xB1, 3] ++ List.replicate 7 0 ++ [1, 0] ++ List.replicate 16 0 ++ leBytes 4 128
    ++ leBytes 8 160 ++ transitDigest ++ (sm3 pubKey).take 16 ++ List.replicate 32 0
    ++ [7, 0, 0xFF, 0xFF, 0xFF] ++ List.replicate 11 0 ++ leBytes 8 160 ++ List.replicate 8 0
    ++ beBytes 32 65120919765216882715843733292129540142262089255657773851930445593398410720063
    ++ beBytes 32 13916912992557522712816166956256449826964971115356463745493097844143929074205

theorem witness_LoaderOperations_load :
    let l : Load := ⟨4, 1, 0xFFFF, 224, transitImage, false⟩
    let bad : Load := ⟨5, 1, 0, 8, [], false⟩
    let s := { pct with regs := (rMcStatus, 0) :: srcRegs, loads := [l, bad], mc := { Mc.reset with keys := [⟨(sm3 pubKey).take 16, pubKey, true, false⟩] } }
    let s1 := took s true
    (s.accept (hdr 0)).2 = some (0, sessIn true) ∧ s1.partBusy 0 = false
      ∧ s1.loads.find? (fun l => decide (l.handle = 4 ∧ l.session = 1)) = some l
      ∧ ({ s1 with loads := s1.loads.filter fun y => decide (y.handle ≠ 4) }).loadCheck 0xFFFF l = 0
      ∧ s1.loads.find? (fun l => decide (l.handle = 5 ∧ l.session = 1)) = some bad
      ∧ ({ s1 with loads := s1.loads.filter fun y => decide (y.handle ≠ 5) }).loadCheck 0 bad = 1 := by
  decide +kernel

theorem witness_LoaderOperations :
    (took pct true).partBusy 0 = false
      ∧ (let s := pctPart { Part.reset with st := .idle, w := 1, h := 1, progs := [prog0 4] }
         let s1 := took s true
         (s.accept (hdr 0)).2 = some (0, sessIn true) ∧ s1.partBusy 0 = false ∧ (s1.part 0).st = .idle ∧ (s1.progOf 0 4).isSome = true)
      ∧ (let s := pctPart { Part.reset with st := .running, w := 1, h := 1, progs := [prog0 4], bound := some 0 }
         let s1 := took s true
         (s.accept (hdr 0)).2 = some (0, sessIn true) ∧ s1.partBusy 0 = false ∧ (s1.part 0).isBound = true
           ∧ (s1.progOf 0 4).isSome = true)
      ∧ (cmd 0xFFFF).target = 0xFFFF
      ∧ (let s := { pct with parts := [(0xFFFF, { Part.reset with progs := [prog0 4] })] }
         ((took s true).progOf 0xFFFF 4).isSome = true ∧ (s.accept (hdr 0)).2 = some (0, sessIn true))
      ∧ (let s := { pct with partOps := [⟨15, 0x24, 1, 0, false, 0, none, 0, false, 0⟩] }
         (took s true).partBusy 15 = true ∧ (s.accept (hdr 0)).2 = some (0, sessIn true))
      ∧ (let s1 := took pct true
         s1.beat.joined = false
           ∧ (s1.fwWrite rTetherJoinCtl (setFld (s1.rd rTetherJoinCtl) 0 1 1)).tether.join.step ≠ 7)
      ∧ (let s := withLnk { pct with regs := (rTetherPortCfg 0, 1) :: srcRegs
                                     tether := { Tether.reset with ports := Tether.reset.ports.set 0 { TPort.reset with st := 1, late := true } } }
         let s1 := took s true
         (s.accept (hdr 0)).2 = some (0, sessIn true) ∧ s1.beat.joined = false
           ∧ (s1.fwWrite rTetherJoinCtl (setFld (s1.rd rTetherJoinCtl) 0 1 1)).tether.join.step = 7)
      ∧ (let s := { pct with beat := work.beat }
         (took s true).beat.joined = true ∧ (s.accept (hdr 0)).2 = some (0, sessIn true)) := by
  decide +kernel

theorem witness_FirmwareOperations :
    (let s1 := took pct true
     s1.fuses.lifecycle ≠ 3 ∧ s1.mc.upd = none ∧ s1.beat.joined = false ∧ s1.svnCheck 6 15 64 = 0 ∧ s1.fuses.lifecycle = 2)
      ∧ (let s := { pct with fuses := { Fuses.reset with lifecycle := 1 } }
         (s.accept (hdr 0)).2 = some (0, sessIn true) ∧ (took s true).fuses.lifecycle = 1)
      ∧ (let s1 := took pct true
         let d := s1.fwDone ((sessIn true).origin 0) 1 7 0x41 0
         d.sessOf 1 = some 0 ∧ (d.sessAt 0).isSome = true) := by
  decide +kernel

theorem witness_FirmwareRefusals :
    (let s := { pct with fuses := { Fuses.reset with lifecycle := 3 } }
     (s.accept (hdr 0)).2 = some (0, sessIn true) ∧ (took s true).fuses.lifecycle = 3)
      ∧ (let s := { pct with mc := { Mc.reset with upd := some ⟨2, 1, false⟩ } }
         (s.accept (hdr 0)).2 = some (0, sessIn true) ∧ (took s true).mc.upd ≠ none)
      ∧ (let s := { pct with beat := work.beat }
         (s.accept (hdr 0)).2 = some (0, sessIn true) ∧ (took s true).beat.joined = true)
      ∧ (let s := { pct with fuses := { Fuses.reset with lifecycle := 1 } }
         (s.accept (hdr 0)).2 = some (0, sessIn true) ∧ (took s true).fuses.lifecycle ≠ 2)
      ∧ (took pct true).fuses.lifecycle ≠ 1 ∧ (took pct true).svnCheck 7 0 0 ≠ 0
      ∧ ((pctNs.accept (hdr 0)).2 = some (0, sessIn false)) := by
  decide +kernel

/-! ### Witnesses: register operations and bulk messages -/

/-- The state in which a REGISTER message of 16 bytes takes place, and who waits for its answer. -/
theorem lands_pct {s : State} {acc : Access} {x : Sess} (e : (s.accept (hdr 16)).2 = some (0, x)) :
    Lands s (.pct (hdr 16)) acc
      ((s.accept (hdr 16)).1.setSess 0 (some { x with left := 0, reply := if x.left = 0 then x.reply else [] }))
      ⟨x.origin 0, some x.uid, acc, true⟩ :=
  ⟨by decide, _, 0, x, accepted e, rfl, rfl⟩

/-- A register access of firmware, to no core, that need not wait. -/
theorem fw_lands {s : State} {acc : Access}
    (h : (s.live && !s.mustWait ⟨originFw, none, s.fwAccess acc, true⟩ && (s.fwAccess acc).core.isNone) = true) :
    LandsNow s .firmware acc s ⟨originFw, none, s.fwAccess acc, true⟩ := by
  rw [Bool.and_eq_true, Bool.and_eq_true, Bool.not_eq_true'] at h
  refine ⟨s, ⟨h.1.1, rfl, rfl⟩, h.1.2, ?_⟩
  have n := Option.isNone_iff_eq_none.mp h.2
  unfold State.byDrift
  rw [n]
  split
  · rfl
  · contradiction
  · rfl

/-- A read by firmware of a register of a core that need not wait. -/
theorem fw_core {s : State} {a : Nat} (h : (s.live && !s.mustWait ⟨originFw, none, .regRead a, true⟩) = true) :
    LandsNow s .firmware (.regRead a) (s.byDrift ⟨originFw, none, .regRead a, true⟩) ⟨originFw, none, .regRead a, true⟩ := by
  rw [Bool.and_eq_true, Bool.not_eq_true'] at h
  exact ⟨s, ⟨h.1, rfl, rfl⟩, h.2, rfl⟩

/-- A device in start-up with an ME command of core 0 outstanding, its SE having waited. -/
def busy : State :=
  { ready with
    pwr := { Pwr.reset with phase := .starting }
    cores := [(0, { Core.reset with issued := [iss .me .timed (.mxSheet 0)], counting := [blockOff (rSeWaitCycles 0)] })] }

/-- `busy` when an access has passed the endpoint of core 0. -/
def busyIn (a : Nat) : State := busy.byDrift ⟨originFw, none, .regRead a, true⟩

theorem busyIn_keeps (a : Nat) : (busyIn a).core 0 = busy.core 0 ∧ (busyIn a).pwr = busy.pwr ∧ (busyIn a).rows = busy.rows := by
  have h : Only [.regs, .drift, .free] busy (busyIn a) := Only.byDrift _ _ (by simp) (by simp) (by simp)
  exact ⟨h .cores (by simp) 0, h .pwr (by simp), congrArg Fuses.gridRows (h .fuses (by simp))⟩

theorem witness_RegisterReads :
    (LandsNow ready .firmware (.regRead rMcStatus) ready ⟨originFw, none, .regRead rMcStatus, true⟩
        ∧ inCoreBlock rMcStatus = false ∧ rMcStatus ≠ rTbTcLo ∧ rMcStatus ≠ rScRand
        ∧ ((((ready.sampleMon rMcStatus).measure rMcStatus).codewords rMcStatus).countUp rMcStatus).timedRead rMcStatus = none)
      ∧ (LandsNow busy .firmware (.regRead (rSeWaitCycles 0)) (busyIn (rSeWaitCycles 0)) ⟨originFw, none, .regRead (rSeWaitCycles 0), true⟩
          ∧ (busyIn (rSeWaitCycles 0)).coreExists 0 = true ∧ (busyIn (rSeWaitCycles 0)).mayCount (rSeWaitCycles 0) = true)
      ∧ (LandsNow busy .firmware (.regRead (rMeStatus 0)) (busyIn (rMeStatus 0)) ⟨originFw, none, .regRead (rMeStatus 0), true⟩
          ∧ (busyIn (rMeStatus 0)).mayStall (rMeStatus 0) = true)
      ∧ (LandsNow busy .firmware (.regRead (rSlcStatus 0)) (busyIn (rSlcStatus 0)) ⟨originFw, none, .regRead (rSlcStatus 0), true⟩
          ∧ (busyIn (rSlcStatus 0)).mayZero (rSlcStatus 0) = true)
      ∧ (LandsNow ready .firmware (.regRead (rSqStatus 240)) (ready.byDrift ⟨originFw, none, .regRead (rSqStatus 240), true⟩)
            ⟨originFw, none, .regRead (rSqStatus 240), true⟩
          ∧ inCoreBlock (rSqStatus 240) = true ∧ blockCore (rSqStatus 240) < 256
          ∧ (ready.byDrift ⟨originFw, none, .regRead (rSqStatus 240), true⟩).coreExists (blockCore (rSqStatus 240)) = false)
      ∧ (∃ u w, LandsNow pctNs (.pct (hdr 16)) (.regRead rScRand) u w ∧ inCoreBlock rScRand = false ∧ w.o.secure = false
          ∧ u.nsReadable rScRand = false ∧ ¬(0x8001000 ≤ rScRand ∧ rScRand < 0x8005000))
      ∧ LandsNow ready .firmware (.regRead rTbTcLo) ready ⟨originFw, none, .regRead rTbTcLo, true⟩
      ∧ LandsNow ready .firmware (.regRead rScRand) ready ⟨originFw, none, .regRead rScRand, true⟩ := by
  refine ⟨⟨fw_lands (by decide +kernel), by decide, by decide, by decide, ?_⟩, ⟨fw_core (by decide +kernel), ?_, ?_⟩,
    ⟨fw_core (by decide +kernel), ?_⟩, ⟨fw_core (by decide +kernel), ?_⟩,
    ⟨fw_core (by decide +kernel), by decide, by decide, ?_⟩,
    ⟨_, _, ⟨_, lands_pct (x := sessIn false) (by decide +kernel), ?_, rfl⟩, ?_⟩, fw_lands (by decide +kernel), fw_lands (by decide +kernel)⟩
  · decide +kernel
  · unfold State.coreExists; rw [(busyIn_keeps _).2.2]; decide +kernel
  · unfold State.mayCount; rw [show blockCore (rSeWaitCycles 0) = 0 from rfl, (busyIn_keeps _).1]; decide +kernel
  · unfold State.mayStall; rw [show blockCore (rMeStatus 0) = 0 from rfl, (busyIn_keeps _).1]; decide +kernel
  · unfold State.mayZero; rw [(busyIn_keeps _).2.1, show busy.pwr.phase = .starting from rfl]; simp; decide +kernel
  all_goals decide +kernel

/-- `ready` with region 0 stopped. -/
def stopped : State := readyRegs [(rPmRegionClk 0, 0x1C)]

theorem witness_AccessesWait :
    (∃ w, Lands stopped .firmware (.regRead (rSqStatus 0)) stopped w ∧ stopped.mustWait w = true)
      ∧ (∃ w, Lands stopped .firmware (.regWrite (rSqStatus 0) 1) stopped w ∧ stopped.mustWait w = true)
      ∧ stopped.stalled = [] ∧ bit (stopped.rd (rPmRegionClk 0)) 4 = true := by
  refine ⟨⟨_, ⟨by decide +kernel, rfl, rfl⟩, ?_⟩, ⟨_, ⟨by decide +kernel, rfl, rfl⟩, ?_⟩, ?_, ?_⟩
  all_goals decide +kernel

theorem witness_RegisterWrites :
    (LandsNow ready .firmware (.regWrite rTbBeatLen 8001) ready ⟨originFw, none, .regWrite rTbBeatLen 8001, true⟩
        ∧ PlainReg ready rTbBeatLen ∧ (regFind rTbBeatLen).map RegRow.readOnly = some false)
      ∧ (LandsNow ready .firmware (.regWrite rMcFeatId 1) ready ⟨originFw, none, .regWrite rMcFeatId 1, true⟩
          ∧ PlainReg ready rMcFeatId ∧ (regFind rMcFeatId).map RegRow.readOnly = some true)
      ∧ (∃ u w, LandsNow pctNs (.pct (hdr 16)) (.regWrite rTbBeatLen 8001) u w ∧ w.o.secure = false ∧ inCoreBlock rTbBeatLen = false)
      ∧ (PlainReg ready (rSqFault 239) ∧ PlainReg ready (rSuStatus 3) ∧ PlainReg ready (rIoSrcCtl 63)) := by
  refine ⟨⟨fw_lands (by decide +kernel), .inr (.inr (.inl (by decide))), by decide +kernel⟩,
    ⟨fw_lands (by decide +kernel), .inr (.inl (by decide)), by decide +kernel⟩,
    ⟨_, _, ⟨_, lands_pct (x := sessIn false) (by decide +kernel), ?_, rfl⟩, ?_⟩,
    .inl (by decide +kernel), .inr (.inr (.inr (.inr (.inl (by decide))))), .inr (.inr (.inr (.inr (.inr (by decide)))))⟩
  all_goals decide +kernel

theorem witness_HeldWrites :
    originFw.secure = true
      ∧ LandsNow ready .firmware (.regWrite (rRtGroupCtl 15) 1) ready ⟨originFw, none, .regWrite (rRtGroupCtl 15) 1, true⟩
      ∧ (LandsNow ready .firmware (.regWrite rRtCredit 0x1000) ready ⟨originFw, none, .regWrite rRtCredit 0x1000, true⟩
          ∧ fld 0x1000 12 20 ≠ 0)
      ∧ LandsNow ready .firmware (.regWrite (rRtCli (16 * 4095 + 15)) 1) ready
          ⟨originFw, none, .regWrite (rRtCli (16 * 4095 + 15)) 1, true⟩
      ∧ LandsNow ready .firmware (.regWrite (rRtCli (16 * 0 + 13)) 1) ready
          ⟨originFw, none, .regWrite (rRtCli (16 * 0 + 13)) 1, true⟩ := by
  refine ⟨rfl, fw_lands ?_, ⟨fw_lands ?_, ?_⟩, fw_lands ?_, fw_lands ?_⟩
  all_goals decide +kernel

theorem witness_SlotsAreBound :
    (LandsNow ready .firmware (.regWrite rXbCmd (xbWord 1 true 127 2047)) ready
        ⟨originFw, none, .regWrite rXbCmd (xbWord 1 true 127 2047), true⟩ ∧ ready.xbState true 127 = 0)
      ∧ (let s := readyRegs [(rXbSlot false 1023, 1)]
         LandsNow s .firmware (.regWrite rXbCmd (xbWord 2 false 1023 0)) s
            ⟨originFw, none, .regWrite rXbCmd (xbWord 2 false 1023 0), true⟩
          ∧ LandsNow s .firmware (.regWrite rXbCmd (xbWord 3 false 1023 0)) s
            ⟨originFw, none, .regWrite rXbCmd (xbWord 3 false 1023 0), true⟩
          ∧ LandsNow s .firmware (.regWrite rXbCmd (xbWord 1 false 1023 0)) s
            ⟨originFw, none, .regWrite rXbCmd (xbWord 1 false 1023 0), true⟩
          ∧ s.xbState false 1023 = 1)
      ∧ (let s := readyRegs [(rXbSlot false 5, 2)]
         LandsNow s .firmware (.regWrite (rXbSet false 0) 0x50000) s ⟨originFw, none, .regWrite (rXbSet false 0) 0x50000, true⟩
          ∧ s.xbMay false 0 5 = true ∧ s.xbMay false 0 6 = false) := by
  refine ⟨⟨fw_lands ?_, ?_⟩, ⟨fw_lands ?_, fw_lands ?_, fw_lands ?_, ?_⟩, fw_lands ?_, ?_, ?_⟩
  all_goals decide +kernel

theorem witness_LogTailsAndLocks : ∀ p ∈ [(rScLogTail, (0 : Word)), (rScEvtTail, 1), (rDgLogTail, 0), (rScUcal 63, 0x00200100),
      (rScUcal 63, 0x00210100), (rScJtag, 0)],
    LandsNow ready .firmware (.regWrite p.1 p.2) ready ⟨originFw, none, .regWrite p.1 p.2, true⟩ := by
  intro p hp
  simp only [List.mem_cons, List.not_mem_nil, or_false] at hp
  obtain rfl | rfl | rfl | rfl | rfl | rfl := hp <;> exact fw_lands (by decide +kernel)

theorem witness_JtagIsLocked :
    (let s := readyRegs [(rScJtag, 2)]
     LandsNow s .firmware (.regWrite rScJtag 1) s ⟨originFw, none, .regWrite rScJtag 1, true⟩ ∧ bit (s.rd rScJtag) 1 = true)
      ∧ bit (ready.rd rScJtag) 1 = false := by
  refine ⟨⟨fw_lands ?_, ?_⟩, ?_⟩
  all_goals decide +kernel

theorem witness_RegistersThatAct :
    (LandsNow ready .firmware (.regWrite (rPmRegionClk 15) 3) ready ⟨originFw, none, .regWrite (rPmRegionClk 15) 3, true⟩
        ∧ ready.regionHeld 15 = false)
      ∧ (LandsNow work .firmware (.regWrite (rPmRegionClk 0) 3) work ⟨originFw, none, .regWrite (rPmRegionClk 0) 3, true⟩
          ∧ work.regionHeld 0 = true ∧ fld 3 0 2 ≠ work.level 0)
      ∧ (LandsNow ready .firmware (.regWrite rTbCtl 2) ready ⟨originFw, none, .regWrite rTbCtl 2, true⟩ ∧ ready.beat.joined = false)
      ∧ (LandsNow work .firmware (.regWrite rTbCtl 2) work ⟨originFw, none, .regWrite rTbCtl 2, true⟩ ∧ work.beat.joined = true)
      ∧ (let s := withLnk (readyRegs [(rTetherPortCfg 0, 1)])
         LandsNow s .firmware (.regWrite rTetherJoinCtl 3) s ⟨originFw, none, .regWrite rTetherJoinCtl 3, true⟩
          ∧ bit 3 0 = true ∧ s.beat.joined = false ∧ s.portEn 0 = true
          ∧ ∀ p, s.portEn p = true → (s.port p).st ≤ 1 ∧ (s.port p).late = false)
      ∧ (LandsNow work .firmware (.regWrite rTetherJoinCtl 1) work ⟨originFw, none, .regWrite rTetherJoinCtl 1, true⟩)
      ∧ (let s := readyRegs [(rMcStatus, 0)]
         LandsNow s .firmware (.regWrite rTetherJoinCtl 4) s ⟨originFw, none, .regWrite rTetherJoinCtl 4, true⟩ ∧ bit 4 0 = false
          ∧ bit 4 2 = true ∧ s.tether.join.step ≠ 4)
      ∧ (let s := { readyRegs [(rMcStatus, 0), (rTbBeatLen, 1)] with tether := { Tether.reset with join := { Join.reset with step := 4 } } }
         LandsNow s .firmware (.regWrite rTetherJoinCtl 4) s ⟨originFw, none, .regWrite rTetherJoinCtl 4, true⟩
          ∧ s.tether.join.step = 4 ∧ s.beatOk = false)
      ∧ (LandsNow ready .firmware (.regWrite (rRlPartCtl 15) 1) ready ⟨originFw, none, .regWrite (rRlPartCtl 15) 1, true⟩
          ∧ LandsNow ready .firmware (.regWrite (rRlPartCtl 15) 2) ready ⟨originFw, none, .regWrite (rRlPartCtl 15) 2, true⟩)
      ∧ (let o : Order := ⟨9, false, 0, 5, true, 0, .failed⟩
         let s := { readyRegs [(rIoQpCtl 0, 1)] with pg := [(3, { PgPart.reset with stopped := true, orders := [o], failSeq := 9 })] }
         (s.pgOf 3).stopped = true ∧ (s.pgOf 3).orders = [o] ∧ s.qpState (s.orderQp 3 o.page) = 1) := by
  refine ⟨⟨fw_lands ?_, ?_⟩, ⟨fw_lands ?_, ?_, ?_⟩, ⟨fw_lands ?_, ?_⟩, ⟨fw_lands ?_, ?_⟩, ⟨fw_lands ?_, ?_, ?_, ?_, ?_⟩, fw_lands ?_,
    ⟨fw_lands (acc := .regWrite rTetherJoinCtl 4) ?_, ?_, ?_, ?_⟩, ⟨fw_lands (acc := .regWrite rTetherJoinCtl 4) ?_, ?_, ?_⟩,
    ⟨fw_lands ?_, fw_lands ?_⟩, ?_⟩
  all_goals decide +kernel

/-- A bulk header. -/
def bulk0 (t bytes : Nat) : BulkHdr := ⟨t, 4, 0, bytes, 7⟩

theorem witness_BulkMessages :
    (goodBulk (hdr 4120) (bulk0 0 4096) 4096 = true ∧ (pct.accept (hdr 4120)).2 = some (0, sessIn true)
        ∧ (List.replicate 4096 (0 : Byte)).length = (bulk0 0 4096).bytes)
      ∧ goodBulk (hdr 32) (bulk0 1 8) 8 = true
      ∧ (let s := { pct with mc := { Mc.reset with upd := some ⟨2, 1, false⟩ } }
         let s1 := (s.accept (hdr 32)).1
         (s.accept (hdr 32)).2 = some (0, sessIn true)
          ∧ goodBulk (hdr 32) ⟨2, 0, bankBase s1.otherBank, 8, 7⟩ 8 = true ∧ s1.flashMay 1 (bankBase s1.otherBank) 8 = true)
      ∧ (pct.accept (hdr 32)).1.flashMay 1 0 8 = false
      ∧ (goodBulk (hdr 24) (bulk0 0 4096) 0 = true ∧ goodBulk (hdr 24) (bulk0 2 8) 0 = true
          ∧ (pct.accept (hdr 24)).2 = some (0, sessIn true))
      ∧ ((pctNs.accept (hdr 32)).2 = some (0, sessIn false) ∧ goodBulk (hdr 32) ⟨2, 0, 0, 8, 7⟩ 8 = true)
      ∧ (let l : Load := ⟨4, 1, 0, 16, List.replicate 16 0, false⟩
         let s := { pct with loads := [l] }
         (s.accept (hdr 24)).2 = some (0, sessIn true)
          ∧ (s.accept (hdr 24)).1.loads.find? (fun l => decide (l.handle = 4 ∧ l.session = 1)) = some l
          ∧ goodBulk (hdr 24) ⟨1, 4, 8, 8, 7⟩ 0 = true ∧ 8 + 8 ≤ l.bytes.length) := by
  decide +kernel

theorem witness_HostWritesMemory :
    let s1 := (pct.accept (hdr 32)).1
    (pct.accept (hdr 32)).2 = some (0, sessIn true) ∧ goodBulk (hdr 32) ⟨0, 0, 0x17FFFF8, 8, 7⟩ 8 = true
      ∧ s1.mustWait ⟨(sessIn true).origin 0, some 1, .memWrite 0x17FFFF8 (List.replicate 8 1), false⟩ = false
      ∧ s1.hostCheck ((sessIn true).origin 0) 0x17FFFF8 8 = none
      ∧ (let s2 := (pct.accept (hdr 24)).1
         (pct.accept (hdr 24)).2 = some (0, sessIn true) ∧ goodBulk (hdr 24) ⟨0, 0, 0x17FFFF8, 8, 7⟩ 0 = true
          ∧ s2.mustWait ⟨(sessIn true).origin 0, some 1, .memRead 0x17FFFF8 8 7, false⟩ = false
          ∧ ∀ k, k < 8 → s2.granulePoisoned ((0x17FFFF8 + k) / 8) = false) := by
  decide +kernel

/-! ### Witnesses: the tether -/

/-- A device in beat `b` with an LNK image, port 0 enabled and in state `p`, and the join as given. -/
def net (b : Beat) (p : TPort) (j : Join) : State :=
  { work with
    beat := b
    mc := { Mc.reset with images := Mc.reset.images.set 3 { FwImg.reset with absent := false } }
    regs := [(rSlcReloc 0 0, 0x00100000), (rTetherPortCfg 0, 1)]
    tether := { Tether.reset with ports := Tether.reset.ports.set 0 p, join := j } }

/-- A port in a state, of no flight. -/
def port0 (st : Nat) : TPort := { TPort.reset with st := st }

/-- A port of a flight. -/
def portJ : TPort := { TPort.reset with st := 4, joined := true, cells := 1 }

/-- An alignment block of frame 0, chip 0, port 0, tag 0. -/
def block0 : AlignBlock := ⟨0, 0, 0, 0, 0⟩

theorem witness_PortsTrain :
    (let s := net work.beat (port0 1) Join.reset
     s.portEn 0 = true ∧ s.beat.joined = true ∧ s.blockOk 0 block0 = true ∧ s.blockOk 0 ⟨0, 1, 0, 0, 0⟩ = false ∧ (s.port 0).st = 1)
      ∧ (let s := net work.beat (port0 2) Join.reset
         s.portEn 0 = true ∧ 2 ≤ (s.port 0).st ∧ s.beat.joined = true)
      ∧ (let s := net Beat.reset (port0 1) { Join.reset with step := 1 }
         s.portEn 0 = true ∧ s.beat.joined = false ∧ (s.port 0).st = 1 ∧ s.tether.join.step = 1)
      ∧ (net Beat.reset (port0 1) { Join.reset with step := 2 }).joining = true
      ∧ (net Beat.reset (port0 1) Join.reset).tether.join.step ≠ 1 ∧ (net Beat.reset (port0 1) Join.reset).joining = false := by
  decide +kernel

theorem witness_JoinCells :
    (let s := net Beat.reset { port0 2 with delays := List.replicate 62 40 } { Join.reset with step := 2 }
     s.joinCells 0 = true ∧ s.tether.join.step = 2 ∧ (s.port 0).st = 2 ∧ (s.port 0).delays.length < 63 ∧ s.joining = true)
      ∧ (let s := { net Beat.reset (port0 3) { Join.reset with step := 4 } with regs := [(rTetherPortCfg 0, 1), (rTetherJoinCtl, 0x80)] }
         s.joinCells 0 = true ∧ (s.port 0).st = 3 ∧ 2 ≤ s.tether.join.step ∧ s.tether.join.step ≤ 4 ∧ s.tether.join.isRoot = false
          ∧ s.tether.join.sent = false ∧ s.tether.join.parent = none ∧ 15 < 16 ∧ 15 < s.rounds)
      ∧ (let s := net Beat.reset { port0 3 with heard := .child } { Join.reset with step := 3, bitmap := [0] }
         s.joinCells 0 = true ∧ s.joining = true ∧ (s.port 0).heard = .child ∧ (s.port 0).ready = false
          ∧ ([1].any fun c => s.tether.join.bitmap.contains c) = false ∧ ([0].any fun c => s.tether.join.bitmap.contains c) = true
          ∧ s.compatLevel ≠ s.compatLevel + 1 ∧ (s.rd rTbBeatLen).toNat = 8000 ∧ 8001 ≠ (s.rd rTbBeatLen).toNat
          ∧ s.tether.join.step ≠ 4)
      ∧ (let s := { net Beat.reset (port0 3) { Join.reset with step := 4, parent := some 0 } with tb := { TimeBase.reset with tc := 5 } }
         s.joinCells 0 = true ∧ s.tether.join.step = 4 ∧ s.tether.join.parent = some 0 ∧ s.tb.tc.toNat ≤ (5 : DWord).toNat
          ∧ (4 : DWord).toNat < s.tb.tc.toNat)
      ∧ (let s := { net Beat.reset (port0 2) { Join.reset with step := 4 } with regs := [(rTetherPortCfg 0, 1), (rTetherJoinCtl, 0x80)] }
         s.joinCells 0 = true ∧ (s.port 0).st = 2 ∧ s.tether.join.isRoot = false ∧ s.tether.join.sent = false)
      ∧ (let s := net Beat.reset { port0 2 with probes := 63 } { Join.reset with step := 2 }
         s.tether.join.step = 2 ∧ 0 ∈ s.portsEn ∧ (s.port 0).st = 2 ∧ (s.port 0).probes < 64)
      ∧ (net Beat.reset (port0 3) { Join.reset with step := 5 }).joining = true := by
  decide +kernel

/-- A run entry of a class: one slot, its cells consumed here. -/
def run0 (cls : Nat) : DWord := BitVec.ofNat 64 (1 + cls * 2 ^ 16 + 2 ^ 37)

/-- A device in a work beat whose port 0 receives a run of a class in slot 0. -/
def rx (cls : Nat) : State :=
  let s := net work.beat (port0 4) Join.reset
  { s with tether := { s.tether with runs := [⟨0, 0, false, [run0 cls]⟩]
                                     rwin := [(0, (1, 0, 1))] } }

/-- A cell of a class in slot 0 of port 0, its header check right. -/
def cell0 (cls : Nat) (arg : Word) : CellIn :=
  let c : Cell := ⟨cls, 0, 0, arg, 3, List.replicate 256 9⟩
  ⟨0, 0, true, 0, 0, c, BitVec.ofNat 6 (hchk (cellHeader c))⟩

/-- A FLAG cell of one signal of `stamp` cells to flag 3 of partition 0. -/
def flagCell (stamp : Byte) : CellIn :=
  let c : Cell := ⟨3, 0, 0, 1, 3, [0, 0, 3, 0, 1, 0, 0, 0, stamp, 0, 0, 0, 0, 0, 0, 0] ++ List.replicate 240 0⟩
  ⟨0, 0, true, 0, 0, c, BitVec.ofNat 6 (hchk (cellHeader c))⟩

/-- An IDLE cell. -/
def idleCell (arg : Word) : CellIn := { cell0 0 arg with slot := 1 }

theorem witness_CellsArrive :
    (CellTaken 1 (rx 1) (cell0 1 0) 0 (run0 1) ∧ ((rx 1).legIn (runLeg (run0 1))).length ≤ 62)
      ∧ (CellTaken 2 (rx 2) (cell0 2 0x01C00000) 0 (run0 2) ∧ ((rx 2).part 0).isBound = true
          ∧ (rx 2).unitCheck 0 0 0 256 = none ∧ (0 : Nat) * 256 + (fld 0x01C00000 22 3 + 1) * 32 ≤ fld (1 : Word) 0 16 * 256)
      ∧ (CellTaken 4 (rx 4) (cell0 4 0x001FFFFF) 0 (run0 4) ∧ bit 0x001FFFFF 21 = false)
      ∧ (let s := rx 1
         (s.portEn 0 = true ∧ 2 ≤ (s.port 0).st ∧ s.playSlot 0 false 1 = none ∧ s.beat.joined = true)
          ∧ ((cell0 0 0).cell.src = s.peerOf 0 ∧ fld 0 0 16 = s.flightTag ∧ fld 0 16 3 = fld (s.rd (rTetherPortCfg 0)) 11 3)
          ∧ cellDecodes (idleCell 0) = true ∧ cellDecodes (idleCell 0xFFFF) = true ∧ fld 0xFFFF 0 16 ≠ s.flightTag)
      ∧ (let s := net Beat.reset (port0 2) Join.reset
         s.portEn 0 = true ∧ 2 ≤ (s.port 0).st ∧ s.playSlot 0 false 0 = none ∧ s.beat.joined = false)
      ∧ work.portEn 0 = false
      ∧ (let x := { cell0 1 0 with hchk := (cell0 1 0).hchk ^^^ 1 }
         (rx 1).portEn 0 = true ∧ (rx 1).playSlot 0 false 0 = some (0, run0 1) ∧ cellDecodes x = false) := by
  unfold CellTaken
  and_intros <;> decide +kernel

theorem witness_CellsArrive_flag : ∀ b ∈ [(0 : Byte), 1],
    CellTaken 3 (rx 3) (flagCell b) 0 (run0 3) ∧ ∃ g, cellSigs (flagCell b).cell = [g] ∧ g.part < 16
      ∧ g.flag < ((rx 3).part g.part).fcount ∧ (rx 3).sigDue g = decide (b = 0) ∧ (rx 3).tether.held.length < 64 := by
  intro b hb
  simp only [List.mem_cons, List.not_mem_nil, or_false] at hb
  obtain rfl | rfl := hb <;> exact ⟨by unfold CellTaken; and_intros <;> decide +kernel, _, rfl, by decide +kernel⟩

/-- A device in a work beat whose port 0 sends a run of a class in slot 0. -/
def tx (cls : Nat) : State :=
  let s := net work.beat (port0 4) Join.reset
  { s with tether := { s.tether with runs := [⟨0, 0, true, [BitVec.ofNat 64 (1 + cls * 2 ^ 16)]⟩, ⟨0, 0, true, []⟩] } }

theorem witness_SlotsDepart :
    (let s := net Beat.reset (port0 2) Join.reset
     s.live = true ∧ s.beat.joined = false ∧ s.portEn 0 = true ∧ 2 ≤ (s.port 0).st)
      ∧ (∀ c ∈ [1, 2, 3, 4], (tx c).live = true ∧ (tx c).beat.joined = true
          ∧ ((tx c).toTc ((tx c).beatStart + BitVec.ofNat 64 (2 * 0))).isStatusSlot 0 = false ∧ (tx c).beat.inGuard = false
          ∧ (((tx c).toTc ((tx c).beatStart + BitVec.ofNat 64 (2 * 0))).playSlot 0 true 0).map (fun p => runClass p.2) = some c)
      ∧ (let u := (tx 1).toTc ((tx 1).beatStart + BitVec.ofNat 64 (2 * 1))
         u.isStatusSlot 1 = false ∧ u.playSlot 0 true 1 = none)
      ∧ (let e := BitVec.ofNat 64 (1 + 1 * 2 ^ 16 + 2 ^ 37)
         let s := net work.beat (port0 4) Join.reset
         let s := { s with tether := { s.tether with runs := [⟨0, 0, true, [e]⟩], fwd := [⟨0, 0, 0, some (cell0 1 0).cell⟩] } }
         ((s.toTc s.beatStart).playSlot 0 true 0).map (·.2) = some e ∧ runBit e = true ∧ runClass e = 1
          ∧ (s.tether.fwd.find? fun f => decide (f.port = 0 ∧ f.slot = 0 ∧ f.src = runFrom e)) = some ⟨0, 0, 0, some (cell0 1 0).cell⟩)
      ∧ (voidFlit.bytes.length = 128
          ∧ (let d : DmaOut := ⟨0, 0, 0, 0, List.replicate 32 7, false, 3, 4, true⟩
             let s := tx 2
             let s := { s with tether := { s.tether with dmaOut := [d] } }
             (s.tether.dmaOut.find? fun d => decide (d.part = 0 ∧ d.chip = 0)) = some d ∧ 32 ≤ d.bytes.length ∧ d.bytes.length ≤ 256)
          ∧ (let s := tx 3
             let s := { s with tether := { s.tether with sigOut := [⟨0, 0, 3, 1, 0, 4⟩] } }
             ((s.tether.sigOut.filter fun r => decide (r.part = 0 ∧ r.chip = 0)).take 16) ≠ [])
          ∧ (∀ ready ∈ [0, 1],
              let b : BTable := ⟨0, 0, 7, 0, [], [], 1, 0, ready, false⟩
              let s := { tx 4 with rt := { Rt.reset with tables := [b] } }
              s.rt.tables.find? (fun b => decide (b.group = runGroup (BitVec.ofNat 64 (1 + 4 * 2 ^ 16)))) = some b
                ∧ s.batchIndex 0 0 0 = 0))
      ∧ (let s := { net work.beat (port0 4) Join.reset with regs := [(rTbGuard, 8), (rTetherJoinCtl, 8)] }
         s.live = true ∧ s.beat.joined = true ∧ (s.toTc (s.beatStart + BitVec.ofNat 64 (2 * 4000))).isStatusSlot 4000 = true) := by
  decide +kernel

theorem witness_BeatEvents :
    (let s := net Beat.reset (port0 3) { Join.reset with step := 5, startTc := some 100 }
     s.tether.join.startTc = some 100 ∧ s.tether.join.step = 5)
      ∧ (work.beat.joined = true ∧ work.beat.inGuard = false ∧ work.beat.cut = false)
      ∧ (let s := { net { work.beat with cut := true, inGuard := true } portJ Join.reset with
                      regs := [(rTetherPortCfg 0, 1), (rTetherJoinCtl, 8)] }
         s.beat.joined = true ∧ s.beat.cut = true ∧ s.beat.inGuard = true ∧ 1 ≤ s.rounds ∧ s.portsJoined = [0]
          ∧ (∀ p ∈ s.portsJoined, s.portEn p = true ∧ 2 ≤ (s.port p).st)
          ∧ ∀ p ∈ s.portsJoined, 1 ≤ (s.port p).cells ∧ (s.port p).cells ≤ 542)
      ∧ (let s := net work.beat portJ Join.reset
         let x := cell0 5 0x1C00
         s.beat.joined = true ∧ (s.port 0).joined = true ∧ s.portEn 0 = true ∧ 2 ≤ (s.port 0).st ∧ cellDecodes x = true ∧ x.cell.cls = 5
          ∧ x.cell.src = s.peerOf 0 ∧ x.cell.dst = s.chipId ∧ fld x.cell.arg 10 12 = s.beat.bno.toNat % 4096
          ∧ (cell0 5 0x2000).cell.cls = 5 ∧ cellDecodes (cell0 5 0x2000) = true ∧ fld 0x2000 10 12 ≠ s.beat.bno.toNat % 4096) := by
  decide +kernel

/-- The end of a work beat of a device with one joined port and one status round, whose copy has come where `came`, with the status
seen there and the beat's own fields as given. -/
def ending (came : Bool) (seen : Status) (kind replays : Nat) (cond : Option (Nat × Nat)) : State :=
  { net { work.beat with inGuard := true, cut := true, kind := kind, replays := replays, seen := seen, cond := cond
                         cells := if came then [(1, 0)] else [] } portJ Join.reset with
    regs := [(rTetherPortCfg 0, 1), (rTetherJoinCtl, 8)] }

/-- A status: FAIL, FAULT. -/
def status0 (fail fault : Bool) : Status := ⟨fail, false, fault, []⟩

theorem witness_BoundaryVerdicts :
    (∀ fail, ∀ k ∈ [(1, 0), (2, 2), (2, 3), (3, 1)],
        let s := ending true (status0 fail false) k.1 k.2 none
        s.beat.joined = true ∧ s.beat.inGuard = true ∧ s.beat.cut = true ∧ s.beat.cond = none ∧ RoundsCame s
          ∧ s.view.fault = false ∧ s.view.fail = fail ∧ s.beat.kind = k.1 ∧ s.beat.replays = k.2)
      ∧ (let s := ending true (status0 true true) 1 0 none
         RoundsCame s ∧ s.view.fault = true)
      ∧ (∀ c ∈ [1, 2, 3], (ending true (status0 false false) 1 0 (some (c, 7))).beat.cond = some (c, 7))
      ∧ ¬RoundsCame (ending false (status0 false false) 1 0 none)
      ∧ Sparse.wf (fun _ => (0 : Word)) [(3, (1 : Word)), (16383, 2)] = true := by
  unfold RoundsCame; decide +kernel

theorem witness_BoundaryVerdicts_budgets :
    State.reset.Budgets ∧ ({ Cli.reset with balance := 3, reserved := 4, spent := 5, refilled := 12 } : Cli).Book := by
  refine ⟨fun c => ?_, ?_⟩
  · show Cli.reset.Book
    unfold Cli.Book; decide
  · unfold Cli.Book; decide

/-- An anchor of group 0 in partition 2, entry 5 FREE with a list of page 9, which another list holds too; 8 pages, 4 frames. -/
def books : State :=
  { ready with
    pg := [(2, { PgPart.reset with group := some 0, lists := [(4, [9]), (5, [9])]
                                   pages := [(9, some { Page.fresh (some 3) 0 with refs := 2 })] })]
    regs := [(rPgPartPool 2, 8), (rPgPartFrames 2, 4), (rRtGroupEnt 0, 0x14005)] }

theorem witness_BoundaryVerdicts_books :
    books.booksPart (books.gId 0) = some 2 ∧ ((books.pgOf 2).page 9).isSome = true ∧ (books.pgOf 2).list 5 = [9]
      ∧ (books.groupEnts 0).find? (fun i => decide ((books.ent i).st = .free)) = some 5
      ∧ ((books.pgOf 2).list 5)[0]? = some 9
      ∧ ((books.pgOf 2).alloc (books.pgPool 2) (books.pgFrames 2) books.beat.bno.toNat).isSome = true := by
  decide +kernel

/-! ### Witnesses: the die -/

/-- A packet from `src` to `dst`. -/
def pkt (src dst : Nat) (kind : BitVec 8) (payload : List Byte) : Packet :=
  ⟨dst, src, kind, true, false, false, 0, 0, 0, 48, 0, 0, payload⟩

/-- `work` with a packet that has arrived at an endpoint. -/
def workArr (ep : Nat) (p : Packet) : State := { work with drift := { Drift.reset with arrived := [(ep, [p])] } }

/-- A packet at an in-order receiver, the next one held. -/
def workEarly : State :=
  { work with drift := { Drift.reset with arrived := [(0x10D, [pkt 0 0x10D 0 []])]
                                          early := [(0x10D, [{ pkt 0 0x10D 0 [] with seq := 1 }])] } }

theorem witness_DriftDelivers :
    Sparse.get (fun _ => []) (workArr 255 (pkt 0x109 255 0xFF [])).drift.arrived 255 = [pkt 0x109 255 0xFF []]
      ∧ (let s := { workArr 255 (pkt 0x109 255 0xFF []) with drift := { Drift.reset with outst := [(255, 8)] } }
         (portsOf 255).find? (fun k => decide (0 < s.outstAt k)) = some 255)
      ∧ (∀ k ∈ portsOf 0x103, work.outstAt k = 0)
      ∧ (Sparse.get (fun _ => []) (workArr 0x109 (pkt 0 0x109 0 [])).drift.arrived 0x109 = [pkt 0 0x109 0 []]
          ∧ hasMailbox 0x109 = true)
      ∧ (takesInOrder 0x10D = true ∧ Sparse.get (fun _ => []) (workArr 0x10D (pkt 0 0x10D 0 [])).drift.early 0x10D = []
          ∧ Sparse.get (fun _ => []) (workEarly.drift.early) (0 * 65536 + 0x10D) = [{ pkt 0 0x10D 0 [] with seq := 1 }]
          ∧ (pkt 0 0x10D 0 []).seq = 0 ∧ { pkt 0 0x10D 0 [] with seq := 1 }.seq ≠ (0 : BitVec 16))
      ∧ (255 < 0x100 ∧ { pkt 0x109 255 0xFF [] with poison := true }.poison = true) := by
  decide +kernel

/-- The packet, injected the longest time ago that its time field tells. -/
def aged (p : Packet) : Packet := { p with injTime := 1 }

/-- A die whose only traffic is at one router. -/
def atRouter (px py : Fin 16) (ins : Vector (Option Packet) 4) (outs : Vector (List Packet) 4) : State :=
  State.reset.setRouter px.val py.val { Router.reset with ins := ins, outs := outs }

theorem witness_DriftDelivers_router :
    let n4 : Vector (Option Packet) 4 := Vector.replicate 4 none
    let l4 : Vector (List Packet) 4 := Vector.replicate 4 []
    let p := pkt 0 0x109 0 []
    let d := State.reset.driftHome 0x109
    RouterAt State.reset 3 2 n4 l4
      ∧ (d.1 < 16 ∧ d.2 < 16)
      ∧ RouterAt (atRouter (Fin.ofNat 16 d.1) (Fin.ofNat 16 d.2) (n4.set 3 (some p)) l4) (Fin.ofNat 16 d.1) (Fin.ofNat 16 d.2) (n4.set 3 (some p)) l4
      ∧ RouterAt (atRouter (Fin.ofNat 16 d.1) (Fin.ofNat 16 d.2) ((n4.set 3 (some (aged p))).set 0 (some p)) l4) (Fin.ofNat 16 d.1)
          (Fin.ofNat 16 d.2) ((n4.set 3 (some (aged p))).set 0 (some p)) l4
      ∧ (aged p).before State.reset.driftNow p = true := by
  unfold RouterAt; decide +kernel

/-- Packets at router (4, 4) to each of its four neighbours, alone; one whose output north is full; two that both go north. -/
theorem witness_DriftDelivers_way :
    let n4 : Vector (Option Packet) 4 := Vector.replicate 4 none
    let l4 : Vector (List Packet) 4 := Vector.replicate 4 []
    let dest (x y : Nat) : Packet := pkt 0 (y * 16 + x) 0 []
    (∀ xy ∈ [(5, 4), (3, 4), (4, 3), (4, 5)],
        let p := dest xy.1 xy.2
        let s := atRouter 4 4 (n4.set 2 (some p)) l4
        RouterAt s 4 4 (n4.set 2 (some p)) l4 ∧ s.driftHome p.dst = xy)
      ∧ (let p := dest 4 3
         let s := atRouter 4 4 (n4.set 2 (some p)) (l4.set 0 [p, p])
         RouterAt s 4 4 (n4.set 2 (some p)) (l4.set 0 [p, p]) ∧ (s.router 5 4).ins[3] = none)
      ∧ (let p := dest 4 3
         let s := atRouter 4 4 ((n4.set 2 (some (aged p))).set 3 (some p)) (l4.set 0 [p])
         RouterAt s 4 4 ((n4.set 2 (some (aged p))).set 3 (some p)) (l4.set 0 [p]) ∧ (s.router 4 3).ins[2] = none
           ∧ (s.router 5 4).ins[3] = none ∧ (aged p).before s.driftNow p = true) := by
  unfold RouterAt; decide +kernel

/-- `work` with a packet in the mailbox of a unit and registers as given. -/
def workMail (ep : Nat) (p : Packet) (r : List (Nat × Word)) : State :=
  { work with regs := r, drift := { Drift.reset with mail := [(ep, [p])] } }

/-- A post of a digest of period 0, layer 1, tensor 2. -/
def digPkt : Packet := pkt 0 0x109 1 (List.replicate 16 0 ++ [1, 0, 2, 0] ++ List.replicate 28 0)

/-- A sampling job: one slot, one shard, k of 1. -/
def suPkt : Packet := pkt 0 0x104 1 ([0, 0, 1, 0, 1, 0, 1, 0] ++ List.replicate 40 0)

/-- A draft of one step for entry 0. -/
def draftPkt : Packet := pkt 0 0x100 0x10 ([0, 0, 1, 0] ++ List.replicate 44 0)

/-- A selection of entry 0. -/
def selPkt : Packet := pkt 0 0x101 0x20 (List.replicate 48 0)

/-- A die with its four sampling units. -/
def units (s : State) : State := { s with fuses := { Fuses.reset with units := 63 } }

/-- The registers of a group slot 0 that anchors group 0 with entry 0 and SU 0. -/
def grpRegs : List (Nat × Word) := [(rRtGroupCtl 0, 0x4001), (rRtGroupEnt 0, 0x4000)]

theorem witness_UnitsTakePackets :
    (let s := workMail 0x109 digPkt [(rDgCtl, 1)]
     (s.takeMail 0x109).map (·.1) = some digPkt ∧ bit (s.rd rDgCtl) 0 = true ∧ digPkt.kind = 1 ∧ digPkt.poison = false
      ∧ leAt digPkt.payload 14 2 = s.beat.period.toNat % 65536 ∧ s.dg.table = [])
      ∧ (let s := units (workMail 0x104 suPkt grpRegs)
         s.workPeriod = true ∧ s.injPeriod suPkt = s.beat.period.toNat ∧ s.suExists 0 = true ∧ (s.suOf 0).jobs.length < 9 ∧ (s.takeMail 0x104).map (·.1) = some suPkt
          ∧ (s.takeMail 0x104).map (fun x => x.2.suTakes 0 suPkt) = some true)
      ∧ (let s := units (workMail 0x104 suPkt [])
         (s.takeMail 0x104).map (fun x => x.2.suTakes 0 suPkt) = some false)
      ∧ (let s := { workMail 0x100 draftPkt grpRegs with rt := { Rt.reset with ents := [(0, { Ent.reset with st := .admitted })] } }
         (s.takeMail 0x100).map (·.1) = some draftPkt ∧ draftPkt.kind = 0x10
          ∧ (s.takeMail 0x100).map (fun x => ((x.2.slotOfEnt 0).isSome, (x.2.ent 0).st)) = some (true, .admitted)
          ∧ (s.takeMail 0x100).map (fun x => x.2.wrongWorld draftPkt.secure (x.2.ent 0).client) = some false
          ∧ s.draftOf 0 = none ∧ s.rt.drafts.length < 4096
          ∧ leAt draftPkt.payload 2 1 = 1 ∧ leAt draftPkt.payload 3 1 = 0)
      ∧ (let s := { workMail 0x101 selPkt (grpRegs ++ [(rPgPartCtl 0, 3)]) with pg := [(0, { PgPart.reset with group := some 0 })] }
         (s.takeMail 0x101).map (·.1) = some selPkt ∧ selPkt.kind = 0x20
          ∧ (s.takeMail 0x101).map (fun x => x.2.wrongWorld selPkt.secure (x.2.ent 0).client) = some false ∧ leAt selPkt.payload 2 1 ≤ 10
          ∧ (s.takeMail 0x101).map (fun x => (x.2.anchorPart (x.2.part 0).group, x.2.slotOfEnt 0, decide (x.2.gId 0 = (x.2.part 0).group)))
              = some (some 0, some 0, true)) := by
  decide +kernel

theorem witness_poisoned_packets : { suPkt with poison := true }.poison = true ∧ 9 - 1 < 9 := by decide

/-- `work` with the switch of core 0 playing `e`. -/
def workLat (e : DWord) (k : Core) : State := workCore { k with lat := { k.lat with table := [e], play := true, left := 1 } }

/-- A flit. -/
def flit0 : Flit := ⟨false, false, false, List.replicate 128 0, List.replicate 16 false⟩

/-- An entry that takes the north input (code 1) to its local port. -/
def latNorth : DWord := 1 + 1 * 2 ^ 28

theorem witness_LatticeMoves :
    (let s := workLat latSend5 Core.reset
     s.inWork = true ∧ (s.core 0).lat.play = true ∧ s.latEntry 0 = some latSend5 ∧ latDeparts latSend5 = true
      ∧ (s.core 0).lp.sends.find? (fun y => decide (y.strm.val = latSend latSend5)) = none)
      ∧ ((workLat latSend5 { Core.reset with lat := { Lat.reset with inN := [flit0] } }).core 0).lat.input .n = [flit0]
      ∧ (let x : Send := ⟨0, 5, 0, 256, 0⟩
         let s := workLat latSend5 { Core.reset with lp := ⟨[x], []⟩ }
         s.latEntry 0 = some latSend5 ∧ (s.core 0).lp.sends.find? (fun y => decide (y.strm.val = latSend latSend5)) = some x
          ∧ x.sent + 128 < x.bytes ∧ ∀ g, g < 16 → s.bytePoisoned 0 (x.src + x.sent + 8 * g) = false)
      ∧ (let s := workLat latNorth Core.reset
         s.latEntry 0 = some latNorth ∧ (List.range 5).any (fun o => decide (latSrc latNorth o = 1)) = true ∧ s.legIn 0 = []
          ∧ ({ s with tether := { Tether.reset with legArr := [(0, [flit0])] } }).legIn 0 = [flit0]) := by
  decide +kernel

theorem witness_LatticeMoves_forwards :
    (let s := workLat (1 + 1 * 2 ^ 16 + 1 * 2 ^ 19) Core.reset
     s.latEntry 0 = some (1 + 1 * 2 ^ 16 + 1 * 2 ^ 19) ∧ latSrc (1 + 1 * 2 ^ 16 + 1 * 2 ^ 19) 0 = 1 ∧ latSrc (1 + 1 * 2 ^ 16 + 1 * 2 ^ 19) 1 = 1
       ∧ s.linkOf 0 0 = .leg 0 ∧ s.linkOf 0 1 = .core 1 .w ∧ s.level (s.regionOf 0) = s.level (s.regionOf 1) ∧ (s.legOut 0).length < 64)
      ∧ (let s := workLat latNorth Core.reset
         latSrc latNorth 4 = 1 ∧ ((s.core 0).lp.arms.find? fun a => decide (a.strm.val = latRecv latNorth)) = none
           ∧ bit (s.rd (rLpRefuse 0)) 6 = false ∧ ∀ o, o < 4 → latSrc latNorth o ≠ 1)
      ∧ (∀ n ∈ [128, 256], let a : Arm := ⟨0, 0, 0, n, 0, false, some (3, 1)⟩
         let s := workLat latNorth { Core.reset with lp := ⟨[], [a]⟩ }
         ((s.core 0).lp.arms.find? fun a => decide (a.strm.val = latRecv latNorth)) = some a ∧ s.checkRange 0 (a.dst + a.got) 128 = none)
      ∧ (∀ o, o < 5 → latSrc 1 o ≠ 1) := by
  decide +kernel

theorem witness_BankPorts :
    (let s := { work with banks := [(bankKey 0 0, { Bank.reset with corr := some (5, 0) })], ecc := [(5, .single)] }
     s.bankRuns 0 = true ∧ s.choose 0 0 = some (.corr 5) ∧ s.granule 5 = .single)
      ∧ ({ work with poisonPending := [0] }).choose 0 0 = some (.poison 0)
      ∧ (work.bankRuns 239 = true ∧ bit (work.rd (rSlcScrub 239)) 0 = true
          ∧ ((work.bank 239 47).waiting.any fun q => decide (q.1.user = .scrub)) = false)
      ∧ work.choose 239 47 = none
      ∧ (let q : BankReq := ⟨.sq, false, true, 8, true, [true], [], HostFrom.none⟩
         reqOk q = true ∧ (match work.portAddr 0 q with | .ok a => decide (a = 8) && decide (bankOf a = 0) | .error _ => false) = true
          ∧ BankUser.cls q.user = 1 ∧ (work.bank 0 0).waiting = [] ∧ ∀ i, i < 8 → work.granulePoisoned ((gaddr 0 8 + i) / 8) = false)
      ∧ (let q : BankReq := ⟨.dm, true, false, 0, true, List.replicate 32 true, List.replicate 256 (0, 0), HostFrom.none⟩
         reqOk q = true ∧ BankUser.cls q.user = 1) := by
  decide +kernel

/-! ### Witnesses: units and queue pairs -/

/-- A slot of a batch table that asks for a result of entry 3. -/
def slot0 : BSlot :=
  { ent := 3, emit := true, tailgen := false, mask := 0, start := 0, c := 1, d := 0, tokens := [], drafts := [], head := 0, pages := 0,
    slab := none, adapter := 0, expert := 0, resv := 0, fresh := false, was := Ent.reset }

/-- The sampling unit 3 with a job of one slot, one shard and `k` candidates for partition 0, whose candidates stand at 0 of core 0. -/
def sampling (k : Nat) (temp : BitVec 16) : State :=
  { work with
    su := Vector.set (Vector.replicate 4 (Su.mk [])) 3 (Su.mk [⟨0, 1, 1, k, 0, 0⟩])
    regs := [(rSlcReloc 0 0, 0x00100000), (rRtGroupCtl 0, 1)]
    mem := [(0, 5), (6, 0x80), (7, 0x3F), (8, 6), (14, 0x80), (15, 0x3F)]
    rt := { Rt.reset with tables := [⟨0, 0, 7, 0, [slot0], [], 1, 1, 0, false⟩], ents := [(3, { Ent.reset with temp := temp })] } }

theorem witness_UnitsAnswer :
    (let s := sampling 1 0
     let s := { s with beat := { s.beat with inGuard := true } }
     (s.suOf 3).jobs = [⟨0, 1, 1, 1, 0, 0⟩] ∧ s.workPeriod = true ∧ s.suWaits ⟨0, 1, 1, 1, 0, 0⟩ = false ∧ s.beat.inGuard = true
       ∧ s.groupSlot (s.part 0).group = some 0 ∧ (s.rt.tables.find? fun t => decide (t.n = 0)).isSome = true)
      ∧ ({ sampling 1 0 with regs := [] }).groupSlot 0 = none
      ∧ (∀ k ∈ [1, 2], ∀ t, SlotReady (sampling k 0) ⟨0, 0, 7, t, [slot0], [], 1, 1, 0, false⟩ ⟨0, 1, 1, k, 0, 0⟩ 0 slot0)
      ∧ (let s := sampling 2 0
         let c0 := candidate s 0 0
         let c1 := candidate s 0 8
         slot0.d = 0 ∧ slot0.drafts = [] ∧ (s.ent slot0.ent).temp = 0 ∧ c0 = (5, 0x3F800000) ∧ c1 = (6, 0x3F800000)
           ∧ f32isNan c0.2 = false ∧ c0.2 ≠ f32ninf) := by
  refine ⟨?_, ?_, ?_, ?_⟩
  · decide +kernel
  · decide +kernel
  · intro k hk t
    simp only [List.mem_cons, List.not_mem_nil, or_false] at hk
    obtain rfl | rfl := hk <;> exact ⟨rfl, rfl, (fun _ h => nomatch h), by decide +kernel, by decide +kernel⟩
  · decide +kernel

/-- A partition with its table received, and VIEW_BYTES as given, in units of 256. -/
def viewing (n : Word) : State :=
  { work with regs := [(rSlcReloc 0 0, 0x00100000), (rPgPartCtl 0, 1), (rPgPartViewBytes 0, n)]
              pg := [(0, { PgPart.reset with table := some 7 })]
              rt := { Rt.reset with recv := [⟨0, 0, [], true⟩] } }

theorem witness_UnitsAnswer_view : ∀ n ∈ [0, 1],
    let s := viewing n
    s.workPeriod = true ∧ s.pgOn 0 = true ∧ (s.recvOf (s.part 0).group).last = true ∧ (s.pgOf 0).table = some s.beat.bno
      ∧ (s.pgOf 0).view ≠ some s.beat.bno ∧ s.stopped (s.viewCore8 0) = false ∧ s.beat.inGuard = false
      ∧ (s.viewBytes 0 (wireOf (s.recvOf (s.part 0).group).all)).length = 64
      ∧ fld (s.rd (rPgPartViewBytes 0)) 0 17 * 256 = n.toNat * 256 ∧ s.unitCheck 0 0 0 64 = none := by
  simp only [List.forall_mem_cons, List.not_mem_nil, false_implies, implies_true, and_true]
  refine ⟨⟨?_, ?_, ?_, ?_, ?_, ?_, ?_, ?_, ?_, ?_⟩, ⟨?_, ?_, ?_, ?_, ?_, ?_, ?_, ?_, ?_, ?_⟩⟩
  all_goals decide +kernel

/-- A packet for queue pair 1023. -/
def roce0 (n : Nat) : RocePkt := ⟨0, none, 1023, 3, List.replicate n 0, true, false⟩

/-- A read of a queue pair: PSN 3, 8 bytes. -/
def read0 : RoceReq := ⟨3, 1, .readReq, [], 0, 8, 0, 0, 0, 7⟩

/-- A write of a queue pair: PSN 3 to 5, of which 3 is acknowledged. -/
def write0 : RoceReq := ⟨3, 3, .writeFirst, List.replicate 9000 0, 0, 9000, 0, 0, 4096, 7⟩

/-- A device whose queue pair 1023 is in RTS with the requests as given. -/
def rts (r : List RoceReq) : State :=
  { readyRegs [(rIoQpCtl 1023, 1)] with qps := [(1023, { Qp.reset with reqs := r })], tb := { TimeBase.reset with tc := 20000 } }

theorem witness_QueuePairs :
    ready.qpRate 1023 ≤ 1000 ∧ (ready.live = true ∧ bit (ready.rd (rIoEpCfg 0)) 1 = true)
      ∧ (let s := rts []
         (s.roceIn (roce0 0)).2 = true ∧ (s.roceIn (roce0 0)).1.since ((s.roceIn (roce0 0)).1.qp 1023).cutTc 20000 = true)
      ∧ (let s := rts [read0]
         (s.roceIn (roce0 8)).2 = true ∧ firstRead ((s.roceIn (roce0 8)).1.qp 1023).reqs = ([], some read0)
          ∧ (roce0 8).psn = (read0.psn + read0.off / 4096) % 2 ^ 24 ∧ (roce0 8).data.length = min 4096 (read0.len - read0.off)
          ∧ (roce0 7).data.length ≠ min 4096 (read0.len - read0.off)
          ∧ (s.qp 1023).reqs = [read0] ∧ s.qpState 1023 = 1)
      ∧ (let s := rts [write0]
         (s.roceIn (roce0 0)).2 = true ∧ psnFrom (write0.psn + write0.span - 1) 4 ≥ 2 ^ 23
           ∧ write0.off < 4096 * (psnFrom write0.psn 4 + 1) ∧ psnFrom write0.psn 4 + 1 < write0.span)
      ∧ (let s := { rts [] with neigh := [(1, (rts []).qpDip 1023)] }
         s.neigh.contains (1, s.qpDip 1023) = true)
      ∧ (let o : Order := ⟨4, true, 1, 2, true, 0, .running⟩
         let s := { ready with pg := [(15, { PgPart.reset with orders := [o] })] }
         (s.pgOf 15).orders.find? (fun o => o.move && decide (o.openOps = 0 ∧ o.st = .running)) = some o) := by
  decide +kernel

/-! ### Witnesses: the whole block, the formats -/

theorem witness_StepRunsFront : ({ ready with pending := [.idcode] }).pending = [.idcode] ∧ ready.pending = [] := by decide

theorem witness_StepKeepsCanonical : State.reset.canonical = true ∧ ∃ t, step State.reset = .next t :=
  ⟨by decide +kernel, _, rfl⟩

theorem witness_HeaderCheck :
    { cell0 1 0 with hchk := (cell0 1 0).hchk ^^^ 1 }.hchk.toNat ≠ hchk (cellHeader (cell0 1 0).cell) ∧ 7 ≤ (cell0 7 0).cell.cls
      ∧ 57 < 58 := by
  decide +kernel

theorem witness_SignedZerosAreKept :
    fmtFloat .fp4 ≠ none ∧ fmtFloat .int8 = none ∧ 65535 < 65536 ∧ f32isNan 1 = false ∧ fIsFin (f32v 1) = true ∧ fNonzero (f32v 1) = true := by
  decide +kernel

theorem witness_NaNsAndSaturation :
    f32isNan (f32add 0x7F800000 0xFF800000) = true ∧ f32isNan (f32mul 0x7F800000 0) = true ∧ f32isNan 0x7F800001 = true := by
  decide +kernel

theorem witness_FormatsRoundTrip :
    (fmtFloat .bf16).map (fun ff => (decide (0x7F80 < 2 ^ (ff.mbits + ff.ebits + 1)), decide (fdecode ff 0x7F80 ≠ .nan),
      decide (fdecode ff 1 ≠ .nan))) = some (true, true, true) := by
  decide +kernel

/-! ### WellFormed refuses an ill-formed term for each of its checks -/

theorem test_wf_header :
    (Instr.sqNop hd).wf = true ∧ (Instr.sqNop { hd with core := 256 }).wf = false ∧ (Instr.sqNop { hd with words := 0 }).wf = false
      ∧ (Instr.sqFetch 255).wf = true ∧ (Instr.sqFetch 256).wf = false := by decide

theorem test_wf_cell :
    let x := cell0 1 0
    (Instr.data x).wf = true ∧ (Instr.data { x with cell := { x.cell with cls := 16 } }).wf = false
      ∧ (Instr.data { x with cell := { x.cell with src := 1024 } }).wf = false
      ∧ (Instr.data { x with cell := { x.cell with dst := 1024 } }).wf = false
      ∧ (Instr.data { x with cell := { x.cell with valid := 4 } }).wf = false
      ∧ (Instr.data { x with cell := { x.cell with payload := List.replicate 255 0 } }).wf = false := by decide +kernel

theorem test_wf_join :
    (Instr.portLocked 0 block0).wf = true ∧ (Instr.portLocked 0 ⟨0, 1024, 0, 0, 0⟩).wf = false ∧ (Instr.portLocked 0 ⟨0, 0, 8, 0, 0⟩).wf = false
      ∧ (Instr.portLocked 0 ⟨0, 0, 0, 65536, 0⟩).wf = false ∧ (Instr.ready 0 ⟨[1023], 1, 255, 8000⟩).wf = true
      ∧ (Instr.ready 0 ⟨[1024], 1, 255, 8000⟩).wf = false ∧ (Instr.ready 0 ⟨[], 65536, 0, 0⟩).wf = false
      ∧ (Instr.ready 0 ⟨[], 0, 256, 0⟩).wf = false ∧ (Instr.ready 0 ⟨[], 0, 0, 4294967296⟩).wf = false := by decide

theorem test_wf_ethernet :
    (Instr.cnp (roce0 0)).wf = true ∧ (Instr.cnp { roce0 0 with qp := 16777216 }).wf = false
      ∧ (Instr.cnp { roce0 0 with psn := 16777216 }).wf = false ∧ (Instr.cnp (roce0 4097)).wf = false := by decide +kernel

theorem test_wf_datagram :
    let h := hdrOf 8 0
    (Instr.ack h).wf = true ∧ (Instr.ack (hdrOf 9 0)).wf = true ∧ (Instr.ack (hdrOf 7 0)).wf = false
      ∧ (∀ x ∈ [{ h with src := [] }, { h with port := 65536 }, { h with dport := 65536 }, { h with udpLen := 65536 },
          { h with magic := 65536 }, { h with ver := 256 }, { h with kind := 256 }, { h with len := 65536 }],
          (Instr.ack x).wf = false) := by decide

/-- A SUBMIT body. -/
def sub0 : SubmitBody := ⟨0, 0, false, false, false, false, false, 0, 0, 0, 0, 0, 0, 0, 0, 0, 0, []⟩

theorem test_wf_commands :
    (Instr.submit (hdr 0) (cmd 0) sub0).wf = true ∧ (Instr.submit (hdr 0) (cmd 65536) sub0).wf = false
      ∧ (Instr.submit (hdr 0) { cmd 0 with entry := 4294967296 } sub0).wf = false
      ∧ (Instr.submit (hdr 0) { cmd 0 with count := 4294967296 } sub0).wf = false
      ∧ (∀ b ∈ [{ sub0 with client := 4096 }, { sub0 with prio := 8 }, { sub0 with maxNew := 16777216 }, { sub0 with spec := 256 },
          { sub0 with npages := 65536 }, { sub0 with prefixLen := 4294967296 }], (Instr.submit (hdr 0) (cmd 0) b).wf = false)
      ∧ (Instr.partCreate (hdr 0) (cmd 0) ⟨255, 255, 255, 255, true, 65535⟩).wf = true
      ∧ (∀ b ∈ [CreateBody.mk 256 0 0 0 true 0, ⟨0, 256, 0, 0, true, 0⟩, ⟨0, 0, 256, 0, true, 0⟩, ⟨0, 0, 0, 256, true, 0⟩,
          ⟨0, 0, 0, 0, true, 65536⟩], (Instr.partCreate (hdr 0) (cmd 0) b).wf = false) := by decide

theorem test_wf_bindings :
    let m : Member := ⟨0, 0, List.replicate 12 0⟩
    let p : PortRec := ⟨true, 0, 0, 0⟩
    let f : FlightBody := ⟨0, 0, true, 0, 0, 8000, 8, List.replicate 8 p⟩
    (Instr.bind (hdr 0) (cmd 0) ⟨1, 0, 0, [m]⟩).wf = true
      ∧ (∀ b ∈ [BindBody.mk 4294967296 0 0 [], ⟨1, 65536, 0, []⟩, ⟨1, 0, 0, [{ m with chip := 65536 }]⟩, ⟨1, 0, 0, [{ m with part := 256 }]⟩,
          ⟨1, 0, 0, [{ m with rwin := [] }]⟩], (Instr.bind (hdr 0) (cmd 0) b).wf = false)
      ∧ (Instr.flight (hdr 0) (cmd 0) f).wf = true
      ∧ (∀ b ∈ [{ f with chip := 65536 }, { f with tag := 65536 }, { f with rounds := 256 }, { f with dMax := 65536 },
          { f with beatLen := 4294967296 }, { f with guard := 4294967296 }, { f with ports := [] },
          { f with ports := List.replicate 8 { p with peer := 65536 } }, { f with ports := List.replicate 8 { p with peerPort := 256 } },
          { f with ports := List.replicate 8 { p with dNom := 65536 } }], (Instr.flight (hdr 0) (cmd 0) b).wf = false) := by decide

theorem test_wf_access :
    (Instr.registerRead .firmware 4).wf = true ∧ (Instr.registerRead .firmware 5).wf = false
      ∧ (Instr.registerRead .firmware 4294967296).wf = false ∧ (Instr.registerRead (.pct (hdr 0)) 4).wf = false
      ∧ (Instr.registerRead (.pct (hdrOf 3 16)) 4).wf = true
      ∧ (Instr.bulkRead (hdrOf 5 24) (bulk0 0 8)).wf = true
      ∧ (∀ b ∈ [{ bulk0 0 8 with target := 256 }, { bulk0 0 8 with handle := 4294967296 }, { bulk0 0 8 with addr := 2 ^ 64 },
          { bulk0 0 8 with bytes := 4294967296 }], (Instr.bulkRead (hdrOf 5 24) b).wf = false) := by decide

theorem test_wf_numbers :
    (Instr.pwrInputLow 65535).wf = true ∧ (Instr.pwrInputLow 65536).wf = false ∧ (Instr.railFault 5).wf = true
      ∧ (Instr.railFault 0).wf = false ∧ (Instr.railFault 6).wf = false ∧ (Instr.statusRoundSend 256).wf = false
      ∧ (Instr.monitorWarn 0 255).wf = true ∧ (Instr.monitorWarn 0 256).wf = false
      ∧ (Instr.thermalSample (List.replicate 32 40)).wf = true ∧ (Instr.thermalSample []).wf = false
      ∧ (Instr.sqWaitq hd .me 63).wf = true ∧ (Instr.sqWaitq hd .me 64).wf = false
      ∧ (Instr.echo 0 0 0 4294967296).wf = false ∧ (Instr.time 0 0 256).wf = false
      ∧ (Instr.xbClaim .firmware true 0 65536).wf = false ∧ (Instr.attest (hdr 0) (cmd 0) []).wf = false
      ∧ (Instr.lcOwn (hdr 0) (cmd 0) []).wf = false ∧ (Instr.reservedOp (hdr 0) (cmd 0) 65536).wf = false := by decide

theorem test_wf_banks :
    let wide : BankReq := ⟨.me, false, false, 256, false, List.replicate 32 true, [], HostFrom.none⟩
    let narrow : BankReq := ⟨.sq, true, true, 8, false, [true], List.replicate 8 (0, 3), HostFrom.none⟩
    (Instr.bankGrant 0 0 [wide, narrow] [⟨8, true⟩]).wf = true
      ∧ (∀ r ∈ [{ wide with addr := 8 }, { wide with addr := 2 ^ 25 }, { wide with en := [true] }, { wide with wr := true },
          { narrow with user := .pg }, { narrow with addr := 4 }, { narrow with data := [] }, { wide with user := .host },
          { wide with host := ⟨1, [], 0, 0xFFFF⟩ }], (Instr.bankGrant 0 0 [r] []).wf = false)
      ∧ (Instr.bankGrant 0 0 [{ wide with user := .host, host := ⟨1, List.replicate 16 0, 9, 0⟩ }] []).wf = true
      ∧ (∀ u ∈ [Upset.mk 4 true, ⟨2 ^ 25, true⟩], (Instr.bankGrant 0 0 [] [u]).wf = false ∧ (Instr.scrubRead 0 0 [u]).wf = false
          ∧ (Instr.latticeArrival 0 .n [u]).wf = false ∧ (Instr.legArrival ⟨0, [u]⟩).wf = false) := by decide +kernel

theorem test_wf_matrix :
    let w : MxLoad := ⟨0, .int8, 0, 256, 256, 256, none⟩
    let r : MxWs := ⟨.int8, .int8, none, false, false, 0, 0, 0, 0, 0, .imm 256, 1, none⟩
    let o : MxOs := ⟨.int8, .int8, none, false, 0, 0, 0, 0, 0, 0, 65536, 256, 256, none, none⟩
    (Instr.mxLoadW hd w).wf = true ∧ (Instr.mxRunWs hd r).wf = true ∧ (Instr.mxRunOs hd o).wf = true
      ∧ (Instr.mxLoadW hd { w with fmt := .mxfp4, kb := 512, scl := some 0 }).wf = true
      ∧ (∀ x ∈ [{ w with kb := 0 }, { w with kb := 257 }, { w with nb := 0 }, { w with nb := 257 }, { w with src := 128 },
          { w with src := 2 ^ 25 }, { w with stride := 8 }, { w with stride := 2 ^ 32 }, { w with scl := some 0 }, { w with fmt := .mxe4m3 },
          { w with fmt := .mxe4m3, scl := some (2 ^ 25) }], (Instr.mxLoadW hd x).wf = false)
      ∧ (∀ x ∈ [{ r with pass := some 0 }, { r with pass := some 5 }, { r with q := 256 }, { r with src := 2 ^ 25 }, { r with stride := 2 ^ 32 },
          { r with m := .imm 257 }, { r with n := 0 }, { r with n := 513 }, { r with scl := some 0 }], (Instr.mxRunWs hd x).wf = false)
      ∧ (∀ x ∈ [{ o with pass := some 5 }, { o with q := 256 }, { o with srca := 2 ^ 25 }, { o with stridea := 2 ^ 32 },
          { o with srcb := 2 ^ 25 }, { o with strideb := 2 ^ 32 }, { o with k := 0 }, { o with k := 65537 }, { o with m := 0 }, { o with m := 257 },
          { o with n := 0 }, { o with n := 257 }, { o with scla := some 0 }, { o with sclb := some 0 }], (Instr.mxRunOs hd x).wf = false) := by
  decide +kernel

theorem test_wf_vector :
    let t : SlcStream := ⟨.bf16, none, none, false, none, 0, 0, none⟩
    let run : VxRun := ⟨0, false, 0, .imm 1, .slc t, .none, .none, .none, .slc t, .none, .none⟩
    (Instr.vxLd hd 0 0 (.slc t)).wf = true ∧ (Instr.vxRun hd run).wf = true
      ∧ (∀ x ∈ [VOp.slc { t with addr := 2 ^ 25 }, .slc { t with stride := 2 ^ 32 }, .slc { t with scl := some 0 },
          .slc { t with fmt := .mxfp4 }, .acb 0 256 false false],
          (Instr.vxLd hd 0 0 x).wf = false ∧ (Instr.vxRun hd { run with in3 := x }).wf = false ∧ (Instr.vxRun hd { run with out1 := x }).wf = false)
      ∧ (∀ x ∈ [VMask.bm (2 ^ 25) 0, .bm 0 (2 ^ 32)], (Instr.vxRun hd { run with mask := x }).wf = false) := by decide +kernel

theorem test_wf_network :
    (Instr.neighbourDiscovery ⟨0, some 4095, true, List.replicate 16 0⟩).wf = true
      ∧ (Instr.neighbourDiscovery ⟨0, some 4096, true, List.replicate 16 0⟩).wf = false
      ∧ (Instr.neighbourDiscovery ⟨0, none, false, List.replicate 16 0⟩).wf = false
      ∧ (Instr.icmpEcho ⟨0, none, false, List.replicate 4 0, List.replicate 4 0, []⟩).wf = true
      ∧ (Instr.icmpEcho ⟨0, none, false, List.replicate 4 0, [], []⟩).wf = false
      ∧ (Instr.icmpEcho ⟨0, none, false, [], List.replicate 4 0, []⟩).wf = false
      ∧ (Instr.icmpEcho ⟨0, some 4096, false, List.replicate 4 0, List.replicate 4 0, []⟩).wf = false
      ∧ (Instr.cnp { roce0 0 with vlan := some 4096 }).wf = false ∧ (Instr.ack { hdrOf 8 0 with vlan := some 4096 }).wf = false := by decide +kernel

theorem test_wf_debug :
    (Instr.dbgS (.memWrite 255 8 (List.replicate 8 0))).wf = true
      ∧ (∀ a ∈ [DbgAccess.regRead 2, .regWrite (2 ^ 32) 0, .memRead 256 0, .memRead 0 4, .memRead 0 (2 ^ 25), .memWrite 0 0 []],
          (Instr.dbgS a).wf = false ∧ (Instr.dbgNs a).wf = false) := by decide +kernel

/-! ### Single results against values the spec gives -/

/-- No row of the table gives its command bits. -/
theorem test_no_word_spells_a_command : decodeTableWord 32 0 = none ∧ State.reset.withFetchWord 32 0 = State.reset := by
  decide +kernel

/-- The worked example of 10 after R297 and the instruction of 16 R474. -/
theorem test_header_check_and_idcode :
    hchk 0x00001F1411004025 = 0x16 ∧ (match exec .idcode ready with | .next t => t.out | _ => []) = [.tdo 0x17E09BA7] := by
  decide +kernel

/-- SM3 of "abc", from the algorithm's own standard (16 R450 and R451 use it). -/
theorem test_sm3_abc :
    sm3 [0x61, 0x62, 0x63] = [0x66, 0xC7, 0xF0, 0xF4, 0x62, 0xEE, 0xED, 0xD9, 0xD1, 0xF2, 0xD4, 0x6B, 0xDC, 0x10, 0xE4, 0xE2,
      0x41, 0x67, 0xC4, 0x87, 0x5C, 0xF2, 0xF7, 0xA2, 0x29, 0x7D, 0xA0, 0x2B, 0x8F, 0x4B, 0xA8, 0xE0] := by
  decide +kernel

/-- The worked example of 02 after R51: 0x3F80_5000 to BF16, to nearest and with the two draws. -/
theorem test_stochastic_rounding :
    (fmtEncode .bf16 .rne false 0 (f32v 0x3F805000)).bits = 0x3F80 ∧ (fmtEncode .bf16 .sr false 0xB2C4 (f32v 0x3F805000)).bits = 0x3F81
      ∧ (fmtEncode .bf16 .sr false 0x9F00 (f32v 0x3F805000)).bits = 0x3F80 := by
  decide +kernel

/-- The worked example of 12 after R340: the order of a fold. -/
theorem test_fold_order :
    f32add (f32add (f32add 0 0x3F800000) 0x33800000) 0x33800000 = 0x3F800000
      ∧ f32add (f32add (f32add 0 0x33800000) 0x33800000) 0x3F800000 = 0x3F800001 := by
  decide +kernel

/-- The worked example of 05 after R154: SLC_RELOC1 with BASE 0x200 and SIZE 0x500. -/
theorem test_relocation :
    (match State.xlate { work with regs := [(rSlcReloc 0 1, 0x05000200)] } 0 0x451A40 with | .ok p => p | .error _ => 0) = 0x651A40
      ∧ bankOf 0x651A40 % 16 = 0xA := by
  decide +kernel

/-- 08 R236: 0xFFFF_FFFE after an add of 4 is 2, and satisfies an observe-wait of 2. -/
theorem test_flag_wraps :
    let s := { work with flags := { Flags.reset with value := [(3, 0xFFFFFFFE)], banks := (Vector.replicate 16 []).set 0 [⟨3, .add, 4, 0, 4, 9⟩, ⟨3, .obs, 2, 1, 4, 8⟩] } }
    (match exec (.flagOpApply ⟨0, []⟩) s with
      | .next t => (t.flagVal 3, match exec (.flagOpApply ⟨0, []⟩) t with | .next u => u.flags.releases | _ => [])
      | _ => (0, [])) = (2, [(1, 8)]) := by
  decide +kernel

/-- The worked example of 08 after R240: core 40's take is registered first, core 17's second; one count releases core 17. -/
theorem test_two_take_waiters :
    let w (c : Nat) : FlagOp := ⟨69, .take, 1, c, 4, c⟩
    let s := { work with flags := { Flags.reset with watches := [w 40], banks := (Vector.replicate 16 []).set 2 [w 17, ⟨69, .add, 1, 3, 3, 0⟩] } }
    (match exec (.flagOpApply ⟨2, []⟩) s with
      | .next t => (match exec (.flagOpApply ⟨2, []⟩) t with
          | .next u => (u.flagVal 69, u.flags.releases, u.flags.watches)
          | _ => (9, [], []))
      | _ => (9, [], [])) = (0, [(17, 17)], [w 40]) := by
  decide +kernel

/-- 06 R186: a shift by 33 shifts by 1; 06 R180: neither serial operator holds at a difference of 2^31. -/
theorem test_shift_and_serial :
    (match exec (.sqShl hd 7 0 (.imm 33)) (workSq { sq0 with ctr := (Vector.replicate 8 0).set 0 3 }) with
      | .next t => (t.core 0).sq.ctr[7]
      | _ => 0) = 6
      ∧ cmpVal .snlt 1 0x80000001 = false ∧ cmpVal .sngt 1 0x80000001 = false ∧ cmpVal .snlt 0xFFFFFFFF 0 = true := by
  decide +kernel

/-- 11 R336, 17 R492: BEAT_LEN is 8,000 and the thresholds are 90 and 100 °C after reset. -/
theorem test_reset_registers : State.reset.rd rTbBeatLen = 8000 ∧ fld (State.reset.rd rPmThresh) 0 16 = 90 + 100 * 256 := by
  decide +kernel

/-- 16 R452: ID_PUB of the fuses after reset is the public key of the private key derived from ID_SECRET. -/
theorem test_identity_key : Fuses.reset.idPub = sm2Pub (identityKey Fuses.reset.idSecret) := by
  decide +kernel

end Sys2Proof.Tests
end

/-! The signs of zeros (02 R38): what rounding and encoding give for a zero, and the sum of a value and its negation. -/

namespace Sys2Proof.Machine

open Sys2Proof

/-! ### Zeros written in a format -/

/-- With no bits discarded no mode chooses hi; under `.sr` since the draw alone stays below 2^16 (02 R46, R47). -/
theorem roundsUp_disc_zero (mode : Rnd) (lo shift : Nat) {r : Nat} (hr : r < 65536) :
    roundsUp mode r lo 0 shift = false := by
  cases mode with
  | rne => simp [roundsUp, (Nat.two_pow_pos shift).ne]
  | rtz => rfl
  | sr => simp [roundsUp, hr]

theorem roundToGrid_zero (mode : Rnd) (e q : Int) {r : Nat} (hr : r < 65536) : roundToGrid mode r 0 e q = (0, false) := by
  unfold roundToGrid
  split
  · simp
  · simp [roundsUp_disc_zero mode _ _ hr]

/-- A zero keeps its sign in every floating-point format. -/
@[simp] theorem fencode_zero (ff : FFmt) (mode : Rnd) (sat : Bool) (r : Nat) (neg : Bool) (e : Int) :
    fencode ff mode sat r (.fin neg 0 e) = ⟨if neg then 2 ^ (ff.mbits + ff.ebits) else 0, false, false⟩ := by
  simp [fencode]

/-- Zero lies in the range of every integer format. -/
@[simp] theorem clampInt_zero (w : Nat) : clampInt w 0 = (0, false) := by
  have hpos : (0 : Int) < 2 ^ (w - 1) := by positivity
  have hhi : ¬ (0 : Int) > 2 ^ (w - 1) - 1 := by omega
  have hlo : ¬ (0 : Int) < -(2 ^ (w - 1)) := by omega
  simp only [clampInt, if_neg hhi, if_neg hlo]

/-- An integer format has one zero, whatever the sign of the value. -/
theorem iencode_zero (w : Nat) (mode : Rnd) (neg : Bool) (e : Int) {r : Nat} (hr : r < 65536) :
    iencode w mode r (.fin neg 0 e) = ⟨0, false, false⟩ := by
  simp [iencode, roundToGrid_zero mode e 0 hr, intCode]

/-! ### A value and its negation -/

/-- Flipping the top bit of a code negates the value it stands for: fraction and exponent field lie below that bit. -/
theorem fdecode_xor_sign (ff : FFmt) (bits : Nat) :
    fdecode ff (bits ^^^ 2 ^ (ff.mbits + ff.ebits)) = fneg (fdecode ff bits) := by
  have hfrac : (bits ^^^ 2 ^ (ff.mbits + ff.ebits)) % 2 ^ ff.mbits = bits % 2 ^ ff.mbits := by
    rw [Nat.xor_mod_two_pow, pow_add, Nat.mul_mod_right, Nat.xor_zero]
  have hexp : (bits ^^^ 2 ^ (ff.mbits + ff.ebits)) / 2 ^ ff.mbits % 2 ^ ff.ebits
      = bits / 2 ^ ff.mbits % 2 ^ ff.ebits := by
    rw [Nat.xor_div_two_pow, Nat.xor_mod_two_pow, pow_add, Nat.mul_div_cancel_left _ (by positivity), Nat.mod_self,
      Nat.xor_zero]
  have hsign : decide ((bits ^^^ 2 ^ (ff.mbits + ff.ebits)) / 2 ^ (ff.mbits + ff.ebits) % 2 = 1)
      = !decide (bits / 2 ^ (ff.mbits + ff.ebits) % 2 = 1) := by
    rw [Nat.xor_div_two_pow, Nat.div_self (by positivity), Nat.xor_mod_two_eq, ← decide_not]
    exact decide_eq_decide.mpr (by omega)
  simp only [fdecode, hfrac, hexp, hsign]
  split_ifs <;> rfl

/-- Flipping bit 31 of an FP32 word negates its value. -/
theorem f32v_xor_sign (a : Word) : f32v (a ^^^ 0x80000000) = fneg (f32v a) := by
  have h : (a ^^^ 0x80000000).toNat = a.toNat ^^^ 2 ^ (ffp32.mbits + ffp32.ebits) := BitVec.toNat_xor a 0x80000000
  rw [f32v, f32v, h, fdecode_xor_sign]

theorem fScaled_not (neg : Bool) (mag : Nat) (exp e : Int) : fScaled (!neg) mag exp e = -fScaled neg mag exp e := by
  cases neg <;> simp [fScaled]

/-- A finite value that is not zero and its negation sum to +0. -/
theorem fadd_fneg_fin (neg : Bool) (e : Int) {m : Nat} (hm : m ≠ 0) :
    fadd (.fin neg m e) (fneg (.fin neg m e)) = .fin false 0 e := by
  simp [fadd, fneg, hm, fScaled_not]

theorem exists_fin_of_fNonzero {x : FVal} (hx : fNonzero x = true) : ∃ neg m e, x = .fin neg m e ∧ m ≠ 0 := by
  cases x with
  | nan => simp [fNonzero] at hx
  | inf neg => simp [fNonzero] at hx
  | fin neg m e => exact ⟨neg, m, e, rfl, by simpa [fNonzero] using hx⟩

theorem f32add_xor_sign {a : Word} (ha : fNonzero (f32v a) = true) : f32add a (a ^^^ 0x80000000) = 0 := by
  obtain ⟨neg, m, e, hv, hm⟩ := exists_fin_of_fNonzero ha
  rw [f32add, f32v_xor_sign, hv, fadd_fneg_fin neg e hm, rne32, fencode_zero]
  rfl

/-! ### Conversions to the element formats, and the statement -/

/-- A conversion to a floating-point format keeps the sign of a zero. -/
theorem fmtEncode_zero_float {f : Fmt} {ff : FFmt} (hf : fmtFloat f = some ff) (mode : Rnd) (sat : Bool) (r : Nat)
    (neg : Bool) (e : Int) :
    (fmtEncode f mode sat r (.fin neg 0 e)).bits = if neg then 2 ^ (ff.mbits + ff.ebits) else 0 := by
  simp [fmtEncode, hf]

/-- A conversion to an integer format gives 0 for either zero. -/
theorem fmtEncode_zero_int {f : Fmt} (hf : fmtFloat f = none) (mode : Rnd) (sat : Bool) {r : Nat} (hr : r < 65536)
    (neg : Bool) (e : Int) : (fmtEncode f mode sat r (.fin neg 0 e)).bits = 0 := by
  simp [fmtEncode, hf, iencode_zero _ mode neg e hr]

/-- Settles O58: conversions by `fmtEncode_zero_float` and `fmtEncode_zero_int`, the sums of two zeros by evaluation, and
a number's sum with its negation since bit 31 alone is its sign. -/
theorem signedZerosAreKept : Obligations.SignedZerosAreKept := by
  unfold Obligations.SignedZerosAreKept
  refine ⟨fun f ff mode sat r e hf =>
      ⟨fmtEncode_zero_float hf mode sat r true e, fmtEncode_zero_float hf mode sat r false e⟩,
    fun f mode sat r e hf hr => fmtEncode_zero_int hf mode sat hr true e, ?_, ?_, ?_,
    fun a _ _ hnonzero => f32add_xor_sign hnonzero⟩
  · decide
  · decide
  · decide

end Sys2Proof.Machine

/-! The comparisons of counters and the live comparators of the sequencer (06 R180). -/

namespace Sys2Proof.Machine

open Sys2Proof

/-! ### The serial operators -/

section
variable (a b : Word)

theorem cmpVal_snlt : cmpVal .snlt a b = true ↔ 1 ≤ (b - a).toNat ∧ (b - a).toNat ≤ 2 ^ 31 - 1 :=
  decide_eq_true_iff.trans (and_congr_right' (Nat.lt_iff_le_pred (Nat.two_pow_pos 31)))

/-- `sngt` is `snlt` of the operands exchanged. -/
theorem cmpVal_sngt_eq_snlt : cmpVal .sngt a b = cmpVal .snlt b a := rfl

theorem cmpVal_sngt : cmpVal .sngt a b = true ↔ 1 ≤ (a - b).toNat ∧ (a - b).toNat ≤ 2 ^ 31 - 1 :=
  cmpVal_snlt b a

variable {a b}

/-- A difference of 2^31 is its own negation. -/
theorem toNat_sub_swap_of_half (h : (a - b).toNat = 2 ^ 31) : (b - a).toNat = 2 ^ 31 := by
  bv_omega

theorem cmpVal_snlt_of_half (h : (b - a).toNat = 2 ^ 31) : cmpVal .snlt a b = false := by
  rw [Bool.eq_false_iff, Ne, cmpVal_snlt, h]
  decide

end

/-! ### What a predicate source reads -/

/-- A back edge moves the position, the words at hand and the loops, and nothing else. -/
theorem Sq.edge_frame (q : Sq) (pc avail : Nat) (ls : List Loop) :
    ∃ pc' avail' ls', q.edge pc avail ls = { q with pc := pc', avail := avail', loops := ls' } := by
  fun_induction Sq.edge q pc avail ls with
  | case1 => exact ⟨_, _, _, rfl⟩
  | case2 => exact ⟨_, _, _, rfl⟩
  | case3 l r floor hends hlast ih => exact ih
  | case4 => exact ⟨_, _, _, rfl⟩

/-- Moving past a command moves the position, the words at hand and the loops, and forgets the stall. -/
theorem Sq.past_frame (q : Sq) (words : Nat) :
    ∃ pc' avail' ls', q.past words = { q with stall := none, pc := pc', avail := avail', loops := ls' } :=
  Sq.edge_frame _ _ _ _

@[simp] theorem Sq.past_pred (q : Sq) (words : Nat) : (q.past words).pred = q.pred := by
  obtain ⟨_, _, _, hpast⟩ := q.past_frame words
  rw [hpast]

@[simp] theorem Sq.past_cmps (q : Sq) (words : Nat) : (q.past words).cmps = q.cmps := by
  obtain ⟨_, _, _, hpast⟩ := q.past_frame words
  rw [hpast]

/-- A predicate other than P0 reads the value written, also once the stream has moved on. -/
theorem Sq.src_p_past_setPred (q : Sq) {p : PReg} (hp : p.val ≠ 0) (v : Bool) (words : Nat) :
    ((q.setPred p v).past words).src (.p p) = v := by
  simp [Sq.src, Sq.setPred, hp]

/-- A live comparator reads its comparison, of the counters of the sequencer that reads it. -/
theorem Sq.src_k_of_some {q : Sq} {k : Fin 4} {c : Cmp} (hc : q.cmps[k] = some c) :
    q.src (.k k) = cmpVal c.op q.ctr[c.ctr] (q.opnd c.b) := by
  simp only [Sq.src, hc]

/-- A comparator that is off reads false. -/
theorem Sq.src_k_of_none {q : Sq} {k : Fin 4} (hc : q.cmps[k] = none) : q.src (.k k) = false := by
  simp only [Sq.src, hc]

/-- The negation of a source that reads false lets a command run. -/
theorem Sq.passes_not_of_src_false {q : Sq} {p : PSrc} (hp : q.src p = false) : q.passes (some ⟨p, true⟩) = true := by
  simp [Sq.passes, hp]

/-! ### A command of the sequencer that is ready -/

theorem State.sq_of_ready {s : State} {h : Hdr} {ops : List Opnd} {cs : List Ctr} (f : State → State)
    (hr : SqReady s h (ops.flatMap Opnd.ctrs ++ cs)) : s.sq h ops cs f = f s := by
  obtain ⟨hcan, hpass⟩ := hr
  simp [State.sq, hcan, hpass]

theorem State.core_sqDo_sq (s : State) (h : Hdr) (f : Sq → Sq) :
    ((s.sqDo h f).core h.core).sq = (f (s.core h.core).sq).past h.words := by
  simp only [State.sqDo, State.pastCmd, State.core_updSq, if_true]

/-- A command that does `f` to the sequencer leaves, when it is ready, what `f` made of it, moved past the command. -/
theorem runs_sqDo_of_ready {c : Instr} {s : State} {h : Hdr} {ops : List Opnd} {cs : List Ctr} {f : Sq → Sq}
    (hexec : exec c s = .next (s.sq h ops cs fun t => t.sqDo h f)) (hr : SqReady s h (ops.flatMap Opnd.ctrs ++ cs)) :
    Runs c s fun t => (t.core h.core).sq = (f (s.core h.core).sq).past h.words :=
  ⟨_, hexec.trans (congrArg _ (State.sq_of_ready _ hr)), State.core_sqDo_sq s h f⟩

section
variable {s : State} {h : Hdr}

/-- `sq.cmp` sets its predicate once, from the counters as it dispatches. -/
theorem runs_sqCmp (op : CmpOp) (ca : Ctr) {pd : PReg} {b : Opnd} (hpd : pd.val ≠ 0)
    (hr : SqReady s h (Opnd.ctrs b ++ [ca])) :
    Runs (.sqCmp h op pd ca b) s fun t =>
      (t.core h.core).sq.src (.p pd) = cmpVal op (s.core h.core).sq.ctr[ca] ((s.core h.core).sq.opnd b) := by
  obtain ⟨t, ht, hsq⟩ := runs_sqDo_of_ready (c := .sqCmp h op pd ca b) (ops := [b]) rfl
    (by rwa [List.flatMap_singleton])
  exact ⟨t, ht, (congrArg (·.src (.p pd)) hsq).trans (Sq.src_p_past_setPred _ hpd _ _)⟩

/-- `sq.kset` leaves the comparison in its comparator. -/
theorem runs_sqKset (kn : Fin 4) (ca : Ctr) (op : CmpOp) (b : Opnd) (hr : SqReady s h []) :
    Runs (.sqKset h kn ca op b) s fun t => (t.core h.core).sq.cmps[kn] = some ⟨ca, op, b⟩ := by
  obtain ⟨t, ht, hsq⟩ := runs_sqDo_of_ready (c := .sqKset h kn ca op b) rfl hr
  exact ⟨t, ht, by simp [hsq]⟩

/-- `sq.koff` leaves its comparator off. -/
theorem runs_sqKoff (kn : Fin 4) (hr : SqReady s h []) :
    Runs (.sqKoff h kn) s fun t => (t.core h.core).sq.cmps[kn] = none := by
  obtain ⟨t, ht, hsq⟩ := runs_sqDo_of_ready (c := .sqKoff h kn) rfl hr
  exact ⟨t, ht, by simp [hsq]⟩

end

/-- Settles O56: the operators are the comparisons decided, a difference of 2^31 is that of the operands exchanged, and a
comparator reads what `sq.kset` or `sq.koff` left in it with the counters of whoever reads it. -/
theorem comparisonsOfCounters : Obligations.ComparisonsOfCounters := by
  unfold Obligations.ComparisonsOfCounters
  refine ⟨fun a b => ⟨decide_eq_true_iff, decide_eq_true_iff, decide_eq_true_iff, decide_eq_true_iff,
      decide_eq_true_iff, decide_eq_true_iff, decide_eq_true_iff, decide_eq_true_iff, decide_eq_true_iff,
      decide_eq_true_iff, cmpVal_snlt a b, cmpVal_sngt a b,
      fun hhalf => ⟨cmpVal_snlt_of_half (toNat_sub_swap_of_half hhalf), cmpVal_snlt_of_half hhalf⟩⟩,
    fun s h op pd ca b kn => ⟨fun hpd hr => runs_sqCmp op ca hpd hr, fun hr => ?kset, fun hr => ?koff⟩⟩
  case kset =>
    obtain ⟨t, ht, hset⟩ := runs_sqKset kn ca op b hr
    exact ⟨t, ht, fun r hcmps => Sq.src_k_of_some (by rw [hcmps, hset])⟩
  case koff =>
    obtain ⟨t, ht, hoff⟩ := runs_sqKoff kn hr
    refine ⟨t, ht, fun r hcmps => ?_⟩
    have hfalse : r.src (.k kn) = false := Sq.src_k_of_none (by rw [hcmps, hoff])
    exact ⟨hfalse, Sq.passes_not_of_src_false hfalse⟩

end Sys2Proof.Machine

/-! The check of a cell header (10 R284): HCHK is the exclusive OR of groups, so the check of an exclusive OR is the
exclusive OR of the checks, and a changed bit changes the check by the check of that bit alone. -/

namespace Sys2Proof.Machine

open Sys2Proof

/-- Group `i` of six bits of header bits [57:0] (10 R284). -/
def headerGroup (i h : Nat) : Nat := h % 2 ^ 58 / 2 ^ (6 * i) % 2 ^ 6

theorem hchk_eq_foldl_headerGroup (h : Nat) : hchk h = (List.range 10).foldl (fun c i => c ^^^ headerGroup i h) 0 := rfl

/-- The group as the rule's own text takes it, by masks and a shift. -/
theorem headerGroup_eq_and_shift (i h : Nat) : headerGroup i h = (h &&& 0x03FFFFFFFFFFFFFF) >>> (6 * i) &&& 0x3F := by
  rw [headerGroup, ← Nat.and_two_pow_sub_one_eq_mod _ 58, ← Nat.shiftRight_eq_div_pow, ← Nat.and_two_pow_sub_one_eq_mod]

theorem headerGroup_xor (i a b : Nat) : headerGroup i (a ^^^ b) = headerGroup i a ^^^ headerGroup i b := by
  simp only [headerGroup, Nat.xor_mod_two_pow, Nat.xor_div_two_pow]

theorem foldl_xor_xor (f g : Nat → Nat) (l : List Nat) (x y : Nat) :
    l.foldl (fun c i => c ^^^ (f i ^^^ g i)) (x ^^^ y)
      = l.foldl (fun c i => c ^^^ f i) x ^^^ l.foldl (fun c i => c ^^^ g i) y := by
  induction l generalizing x y with
  | nil => rfl
  | cons i l ih =>
    have hswap : x ^^^ y ^^^ (f i ^^^ g i) = (x ^^^ f i) ^^^ (y ^^^ g i) := by ac_rfl
    simp only [List.foldl_cons, hswap, ih]

/-- The check is linear over exclusive OR. -/
theorem hchk_xor (a b : Nat) : hchk (a ^^^ b) = hchk a ^^^ hchk b := by
  simpa only [hchk_eq_foldl_headerGroup, headerGroup_xor, Nat.xor_self] using
    foldl_xor_xor (headerGroup · a) (headerGroup · b) (List.range 10) 0 0

/-- Bit `i` of a header lies in one group, at bit `i % 6` of it. -/
theorem hchk_two_pow : ∀ i < 58, hchk (2 ^ i) = 2 ^ (i % 6) := by
  decide

/-- A header with one of its bits changed has another check: the two differ in bit `i % 6`. -/
theorem hchk_xor_two_pow_ne (h : Nat) {i : Nat} (hi : i < 58) : hchk (h ^^^ 2 ^ i) ≠ hchk h := by
  rw [hchk_xor, hchk_two_pow i hi]
  intro heq
  have hzero : 2 ^ (i % 6) = 0 := Nat.xor_right_injective (heq.trans (Nat.xor_zero _).symm)
  exact (Nat.two_pow_pos _).ne' hzero

/-- What a receiver asks of a cell before it takes it (10 R278, R284). -/
theorem cellDecodes_iff (x : CellIn) :
    cellDecodes x = true ↔ x.fec = true ∧ x.hchk.toNat = hchk (cellHeader x.cell) ∧ x.cell.cls < 7 := by
  simp only [cellDecodes, Bool.and_eq_true, decide_eq_true_eq, and_assoc]

/-- Settles O57: the groups are those of the rule's text, a cell decodes only with its own check and a CLASS in use, and the
check is linear with a nonzero value for every single bit. -/
theorem headerCheck : Obligations.HeaderCheck := by
  unfold Obligations.HeaderCheck
  refine ⟨fun h => ?groups, fun x hbad => ?undecoded, fun h i hi => hchk_xor_two_pow_ne h hi, ?workedExample⟩
  case groups => simp only [hchk_eq_foldl_headerGroup, headerGroup_eq_and_shift]
  case undecoded =>
    refine Bool.eq_false_iff.mpr fun hdec => ?_
    obtain ⟨-, hmatch, hcls⟩ := (cellDecodes_iff x).mp hdec
    exact hbad.elim (· hmatch) hcls.not_ge
  case workedExample => decide

end Sys2Proof.Machine

/-! Every command of the block keeps what `Keeps` says, and so does a step (95; 05). -/

namespace Sys2Proof.Machine

open Sys2Proof

section

variable {r : State}

theorem Keeps.ite {a b : State} {p : Prop} [Decidable p] (ha : Keeps r a) (hb : Keeps r b) : Keeps r (if p then a else b) := by
  split
  · exact ha
  · exact hb

theorem NextKeeps.ite {a b : Res} {p : Prop} [Decidable p] (ha : NextKeeps r a) (hb : NextKeeps r b) :
    NextKeeps r (if p then a else b) := by
  split
  · exact ha
  · exact hb

theorem Keeps.pwr {s : State} (x : Pwr) (h : Keeps r s) : Keeps r { s with pwr := x } := h.mk rfl rfl rfl rfl rfl

theorem Keeps.out {s : State} (x : List Output) (h : Keeps r s) : Keeps r { s with out := x } := h.mk rfl rfl rfl rfl rfl

theorem Keeps.tb {s : State} (x : TimeBase) (h : Keeps r s) : Keeps r { s with tb := x } := h.mk rfl rfl rfl rfl rfl

theorem Keeps.ir {s : State} (x : JtagIr) (h : Keeps r s) : Keeps r { s with ir := x } := h.mk rfl rfl rfl rfl rfl

theorem Keeps.mc {s : State} (x : Mc) (h : Keeps r s) : Keeps r { s with mc := x } := h.mk rfl rfl rfl rfl rfl

end

/-! ### The sequencer (06) -/

theorem execSqFetch_keeps (c : Nat) (s : State) : NextKeeps s (execSqFetch c s) := by
  have hw (b : Nat) : Keeps s (s.touchRanges c [(b, 8)]) := State.touchRanges_keeps _ _ _ (.refl s)
  refine .ite (.ite (.mk ?_) (.mk (State.updSq_keeps _ _ _ ?_))) (.mk (.refl s))
  · exact State.updSq_keeps _ _ _ (State.failBeat_keeps _ (State.gather_keeps _ _ _ _ _ _ _ (State.setBit_keeps _ _ _ (hw _))))
  · split
    · exact State.sliceFault_keeps _ _ _ _ (hw _)
    · exact hw _

theorem execSqLd_keeps (h : Hdr) (size : Size) (cd ca : Ctr) (imm : BitVec 16) (s : State) :
    NextKeeps s (execSqLd h size cd ca imm s) := by
  refine .mk (State.sq_keeps _ _ _ _ _ (fun t ht => ?_) (.refl s))
  refine .ite (State.updCore_keeps _ _ _ ht) (.ite (State.pastCmd_keeps _ _ (State.sqFault_keeps _ _ _ ht)) ?_)
  split
  · exact State.pastCmd_keeps _ _ (State.sliceFault_keeps _ _ _ _ ht)
  · exact State.sqDo_keeps _ _ _ (State.touchRanges_keeps _ _ _ ht)

theorem execSqLdValue_keeps (c : Nat) (s : State) : NextKeeps s (execSqLdValue c s) := by
  unfold execSqLdValue
  split
  · exact .mk (.refl s)
  · next l r _ =>
    have hl := State.updSq_keeps s c (fun q => { q with loads := r }) (.refl s)
    refine .ite (.mk ?_) (.mk (State.updSq_keeps _ _ _ hl))
    exact State.updSq_keeps _ _ _ (State.failBeat_keeps _ (State.gather_keeps _ _ _ _ _ _ _ (State.setBit_keeps _ _ _ hl)))

theorem execSqSt_keeps (h : Hdr) (size : Size) (ca : Ctr) (imm : BitVec 16) (cs : Ctr) (s : State) :
    NextKeeps s (execSqSt h size ca imm cs s) := by
  refine .mk (State.sq_keeps _ _ _ _ _ (fun t ht => ?_) (.refl s))
  refine .ite (State.pastCmd_keeps _ _ (State.sqFault_keeps _ _ _ ht)) ?_
  split
  · exact State.pastCmd_keeps _ _ (State.sliceFault_keeps _ _ _ _ ht)
  · exact State.pastCmd_keeps _ _ (State.writeAt_keeps _ _ _ (State.updCore_keeps _ _ _ ht))

theorem execSqLoop_keeps (h : Hdr) (ln : Fin 4) (count : Opnd) (stop : Nat) (s : State) :
    NextKeeps s (execSqLoop h ln count stop s) :=
  .ite (.mk (State.noteStall_keeps _ _ _ (.refl s))) (.ite (.mk (State.updSq_keeps _ _ _ (.refl s)))
    (.ite (.mk (State.pastCmd_keeps _ _ (State.sqFault_keeps _ _ _ (.refl s))))
      (.ite (.mk (State.updSq_keeps _ _ _ (.refl s))) (.mk (State.updSq_keeps _ _ _ (.refl s))))))

theorem execSqRcall_keeps (h : Hdr) (id : Nat) (cn : Ctr) (s : State) : NextKeeps s (execSqRcall h id cn s) :=
  .mk (State.sq_keeps _ _ _ _ _
    (fun _ ht => .ite (State.sqCallTo_keeps _ _ _ _ ht) (State.pastCmd_keeps _ _ (State.sqFault_keeps _ _ _ ht))) (.refl s))

theorem execSqWaitq_keeps (h : Hdr) (eng : Engine) (n : Nat) (s : State) : NextKeeps s (execSqWaitq h eng n s) :=
  .mk (State.sq_keeps _ _ _ _ _ (fun _ ht => .ite (State.pastCmd_keeps _ _ ht) (State.sqDo_keeps _ _ _ ht)) (.refl s))

theorem execSqWaitqRelease_keeps (c : Nat) (s : State) : NextKeeps s (execSqWaitqRelease c s) := by
  unfold execSqWaitqRelease
  split
  · exact .ite (.mk (State.updSq_keeps _ _ _ (.refl s))) (.mk (.refl s))
  · exact .mk (.refl s)

theorem execSqDelayExpire_keeps (c : Nat) (s : State) : NextKeeps s (execSqDelayExpire c s) := by
  unfold execSqDelayExpire
  split
  · exact .mk (State.updSq_keeps _ _ _ (.refl s))
  · exact .mk (.refl s)

theorem execSqPost_keeps (h : Hdr) (unit : Opnd) (kind : BitVec 8) (src : Opnd) (s : State) :
    NextKeeps s (execSqPost h unit kind src s) := by
  refine .mk (State.sq_keeps _ _ _ _ _ (fun t ht => ?_) (.refl s))
  refine .ite (State.pastCmd_keeps _ _ (State.updCore_keeps _ _ _ (State.gather_keeps _ _ _ _ _ _ _ (State.setBit_keeps _ _ _ ht))))
    (.ite (State.pastCmd_keeps _ _ (State.sqFault_keeps _ _ _ ht)) ?_)
  split
  · exact State.pastCmd_keeps _ _ (State.sliceFault_keeps _ _ _ _ ht)
  · exact State.sqDo_keeps _ _ _ (State.offer_keeps _ _ (State.touchRanges_keeps _ _ _ ht))

/-! ### The engines and the flag banks (03; 08) -/

theorem execCommandComplete_keeps (c : Nat) (eng : Engine) (id : Nat) (s : State) :
    NextKeeps s (execCommandComplete c eng id s) := by
  unfold execCommandComplete
  split
  · exact .mk (State.finishIssued_keeps _ _ _ (.refl s))
  · exact .mk (.refl s)

theorem execMeSheetStall_keeps (c : Nat) (s : State) : NextKeeps s (execMeSheetStall c s) := by
  unfold execMeSheetStall
  split
  · exact .mk (State.endIssued_keeps _ _ _ _ (State.coreMiss_keeps _ _ _ _ (State.coreFault_keeps _ _ _ _ _ (.refl s))))
  · exact .mk (.refl s)

theorem execFenceRelease_keeps (c : Nat) (s : State) : NextKeeps s (execFenceRelease c s) := by
  unfold execFenceRelease
  split
  · exact .ite (.mk (State.finishIssued_keeps _ _ _ (.refl s))) (.mk (.refl s))
  · exact .mk (.refl s)

theorem execFlagOpApply_keeps (t : FlagTick) (s : State) : NextKeeps s (execFlagOpApply t s) := by
  unfold execFlagOpApply
  dsimp only
  split
  · exact .mk (.refl s)
  · exact .mk (State.applyOp_keeps _ _ ((Keeps.refl s).mk rfl rfl rfl rfl rfl))

theorem execWaitRelease_keeps (c : Nat) (s : State) : NextKeeps s (execWaitRelease c s) := by
  unfold execWaitRelease
  split
  · exact .mk (.refl s)
  · exact .mk (State.updCore_keeps _ _ _ (State.finishId_keeps _ _ _ ((Keeps.refl s).mk rfl rfl rfl rfl rfl)))

/-! ### The banks (05) -/

theorem execScrubRead_keeps (c : Nat) (b : Fin 48) (up : List Upset) (s : State) : NextKeeps s (execScrubRead c b up s) :=
  .ite (.mk (State.setBank_keeps _ _ _ _ (State.upset_keeps _ _ _ (.refl s)))) (.mk (State.upset_keeps _ _ _ (.refl s)))

theorem execBankGrant_keeps (c : Nat) (b : Fin 48) (reqs : List BankReq) (up : List Upset) (s : State) :
    NextKeeps s (execBankGrant c b reqs up s) := by
  have hp : Keeps s (reqs.foldl (fun t q => t.present c b.val q) (s.upset c up)) :=
    Keeps.foldl _ (fun _ _ ht => State.present_keeps _ _ _ _ ht) (State.upset_keeps _ _ _ (.refl s))
  exact .mk (.ite (State.bankCycle_keeps _ _ _ hp) hp)

theorem execCorrectionWriteback_keeps (c : Nat) (b : Fin 48) (s : State) : NextKeeps s (execCorrectionWriteback c b s) := by
  unfold execCorrectionWriteback
  split
  · exact .mk (.ite (State.bankCycle_keeps _ _ _ (.refl s)) (.refl s))
  · exact .mk (.refl s)

theorem execPoisonWriteback_keeps (c : Nat) (b : Fin 48) (s : State) : NextKeeps s (execPoisonWriteback c b s) := by
  unfold execPoisonWriteback
  split
  · exact .mk (.ite (State.bankCycle_keeps _ _ _ (.refl s)) (.refl s))
  · exact .mk (.refl s)

/-! ### The networks of the die (09) -/

theorem execSwitchEntryAdvance_keeps (c : Nat) (s : State) : NextKeeps s (execSwitchEntryAdvance c s) :=
  .ite (.mk (State.updCore_keeps _ _ _ (.refl s))) (.mk (.refl s))

theorem execLatticeDeparture_keeps (c : Nat) (s : State) : NextKeeps s (execLatticeDeparture c s) := by
  unfold execLatticeDeparture
  split
  · exact .mk (.refl s)
  · refine .ite (.mk (.refl s)) ?_
    split
    · exact .mk (State.pass_keeps _ _ _ _ _ (State.lpMiss_keeps _ _ _ (.refl s)))
    · have hr (a : Nat) : Keeps s (s.touchRanges c [(a, 128)]) := State.touchRanges_keeps _ _ _ (.refl s)
      have hp (p : Prop) [Decidable p] (a : Nat) : Keeps s
          (if p then (s.touchRanges c [(a, 128)]).setBit (rLpStatus c) 3 else s.touchRanges c [(a, 128)]) :=
        .ite (State.setBit_keeps _ _ _ (hr a)) (hr a)
      exact .mk (State.pass_keeps _ _ _ _ _ (.ite (State.updCore_keeps _ _ _ (hp _ _))
        (State.finishId_keeps _ _ _ (State.updCore_keeps _ _ _ (hp _ _)))))

theorem execLatticeArrival_keeps (c : Nat) (port : Dir) (up : List Upset) (s : State) :
    NextKeeps s (execLatticeArrival c port up s) := by
  unfold execLatticeArrival
  split
  · exact .mk (.refl s)
  · exact .mk (State.pass_keeps _ _ _ _ _ (State.checkFlit_keeps _ _ _ _ (State.updCore_keeps _ _ _ (.refl s))))

theorem execLegArrival_keeps (x : LegFlit) (s : State) : NextKeeps s (execLegArrival x s) := by
  unfold execLegArrival
  dsimp only
  split
  · exact .mk (.refl s)
  · refine .ite (.mk (.refl s)) ?_
    split
    · exact .mk (State.pass_keeps _ _ _ _ _ (State.lpMiss_keeps _ _ _ (.refl s)))
    · exact .mk (State.pass_keeps _ _ _ _ _ (State.checkFlit_keeps _ _ _ _ (State.setLegIn_keeps _ _ _ (.refl s))))

theorem execDriftRouterCycle_keeps (px py : Fin 16) (up : Option DriftUpset) (s : State) :
    NextKeeps s (execDriftRouterCycle px py up s) := by
  refine .mk (State.drain_keeps _ _ _ (State.inject_keeps _ _ _ _ (State.placeAll_keeps _ _ _ _ _ ?_)))
  split
  · exact State.driftUpset_keeps _ _ _ _ (.refl s)
  · exact .refl s

theorem execDriftPacketEject_keeps (ep : Nat) (s : State) : NextKeeps s (execDriftPacketEject ep s) := by
  unfold execDriftPacketEject
  split
  · exact .mk (.refl s)
  · have hd (d : Drift) : Keeps s { s with drift := d } := (Keeps.refl s).mk rfl rfl rfl rfl rfl
    have hw (d : Drift) (a : Nat) (v : Word) := State.wr_keeps { s with drift := d } a v (hd d)
    have hm {p : Prop} [Decidable p] (d : Drift) (a b n : Nat) (v : Word) : Keeps s
        (if p then ({ s with drift := d }.wr a v).wrF b 0 16 n else { s with drift := d }.wr a v) :=
      .ite (State.wrF_keeps _ _ _ _ _ (hw d a v)) (hw d a v)
    refine .ite (.mk (State.holdEarly_keeps _ _ ?_)) (.ite (.mk (State.setMail_keeps _ _ _ ?_)) (.mk (State.apply_keeps _ _ ?_)))
    all_goals exact .ite (.ite (State.setBit_keeps _ _ _ (hm _ _ _ _ _)) (hm _ _ _ _ _)) (hd _)

/-! ### Units (12 to 14) -/

theorem execDigestPost_keeps (s : State) : NextKeeps s (execDigestPost s) := by
  unfold execDigestPost
  split
  · exact .mk (.refl s)
  · have h1 := State.takeMail_keeps (.refl s) ‹_›
    refine .ite (.mk h1) (.ite (.mk (State.dgBad_keeps _ _ h1)) ?_)
    dsimp only
    split
    · exact .mk (State.setBit_keeps _ _ _ (State.bump_keeps _ _ h1))
    · exact .mk (State.dgPost_keeps _ _ _ _ _ _ h1)

theorem execSuJob_keeps (n : Fin 4) (s : State) : NextKeeps s (execSuJob n s) := by
  refine .ite (.mk (.refl s)) ?_
  split
  · exact .mk (.refl s)
  · have h1 := State.takeMail_keeps (.refl s) ‹_›
    exact .ite (.mk h1) (.ite (.mk (State.setBit_keeps _ _ _ h1))
      (.ite (.mk (State.setSu_keeps _ _ _ h1)) (.mk (State.setBit_keeps _ _ _ h1))))

theorem execSuResult_keeps (n : Fin 4) (s : State) : NextKeeps s (execSuResult n s) := by
  unfold execSuResult
  split
  · exact .mk (.refl s)
  · refine .ite (.mk (.refl s)) ?_
    have hs (l : List SuJob) : Keeps s (s.setSu n ⟨l⟩) := State.setSu_keeps _ _ _ (.refl s)
    have hfin {t : State} (ht : Keeps s t) : NextKeeps s (.next
        (if (t.bump (rSuJobs n.val)).beat.inGuard then (t.bump (rSuJobs n.val)).setBit (rSuStatus n.val) 5 else t.bump (rSuJobs n.val))) :=
      .mk (.ite (State.setBit_keeps _ _ _ (State.bump_keeps _ _ ht)) (State.bump_keeps _ _ ht))
    refine hfin ?_
    split
    · exact State.setBit_keeps _ _ _ (hs _)
    · split
      · exact State.setBit_keeps _ _ _ (hs _)
      · exact Keeps.foldl _ (fun _ _ ht => State.sampleSlot_keeps _ _ _ _ _ ht) (hs _)

theorem execDraftPacket_keeps (s : State) : NextKeeps s (execDraftPacket s) := by
  unfold execDraftPacket
  split
  · exact .mk (.refl s)
  · have h1 := State.takeMail_keeps (.refl s) ‹_›
    exact .ite (.mk h1) (.ite (.mk (State.dropDraft_keeps _ h1)) (.mk (State.storeDraft_keeps _ _ _ _ _ _ h1)))

theorem execPgSelection_keeps (s : State) : NextKeeps s (execPgSelection s) := by
  unfold execPgSelection
  split
  · exact .mk (.refl s)
  · have h1 := State.takeMail_keeps (.refl s) ‹_›
    refine .ite (.mk (State.setBit_keeps _ _ _ h1)) (.ite (.mk h1) ?_)
    split
    · exact .ite (.mk (State.setPg_keeps _ _ _ h1)) (.mk h1)
    · exact .mk h1

theorem execPgViewWrite_keeps (part : Fin 16) (s : State) : NextKeeps s (execPgViewWrite part s) := by
  have hv (q : PgPart) : Keeps s (s.setPg part.val q) := State.setPg_keeps _ _ _ (.refl s)
  refine .ite (.ite (.mk (State.refuseUnit_keeps _ _ _ _ _ (State.setBit_keeps _ _ _ (hv _))))
    (.mk (State.unitFlag_keeps _ _ _ _ _ ?_))) (.mk (.refl s))
  exact Keeps.foldl _ (fun _ _ ht => State.putView_keeps _ _ _ _ ht) (hv _)

/-! ### The tether and the time base (10; 11) -/

theorem execStartTcReached_keeps (s : State) : NextKeeps s (execStartTcReached s) := by
  unfold execStartTcReached
  split
  · exact .mk (.ite (State.startFlight_keeps _ _ (.refl s)) (.refl s))
  · exact .mk (.refl s)

theorem execPortLocked_keeps (p : Fin 8) (b : AlignBlock) (s : State) : NextKeeps s (execPortLocked p b s) :=
  .ite (.mk (.refl s)) (.ite
    (.mk (.ite (State.updPort_keeps _ _ _ (.refl s)) (State.enterCond_keeps _ _ _ (State.updPort_keeps _ _ _ (.refl s)))))
    (.mk (State.joinTrain_keeps _ (State.updPort_keeps _ _ _ (.refl s)))))

theorem execTbPhaseCheck_keeps (offset : Int) (s : State) : NextKeeps s (execTbPhaseCheck offset s) := by
  unfold execTbPhaseCheck
  split
  · exact .mk (.ite (Keeps.tb _ (.refl s)) (.refl s))
  · have h1 (v : Nat) := State.wrF_keeps s rTbPhase 0 16 v (.refl s)
    have h2 {p : Prop} [Decidable p] (v w : Nat) : Keeps s
        (if p then (s.wrF rTbPhase 0 16 v).wrF rTbPhase 16 16 w else s.wrF rTbPhase 0 16 v) :=
      .ite (State.wrF_keeps _ _ _ _ _ (h1 v)) (h1 v)
    have h3 {p : Prop} [Decidable p] {t : State} (e : Int) (ht : Keeps s t) : Keeps s (if p then t.slew e else t) :=
      .ite (State.slew_keeps _ _ ht) ht
    have h4 {t : State} (w : Word) (ht : Keeps s t) : Keeps s (((t.setBit rTbStatus 3).event 0x83 3 0xFF 0xFF 0xFFFF w).alert 2) :=
      State.alert_keeps _ _ (State.event_keeps _ _ _ _ _ _ _ (State.setBit_keeps _ _ _ ht))
    exact .ite (.mk (h3 _ (h2 _ _))) (.ite (.mk (h4 _ (h3 _ (h2 _ _))))
      (.mk (Keeps.foldl _ (fun _ _ ht => State.loseLock_keeps _ _ ht) (h4 _ (h3 _ (h2 _ _))))))

theorem execTsyncLoad_keeps (s : State) : NextKeeps s (execTsyncLoad s) :=
  .ite (.mk (State.logTc_keeps _ _ _ (State.setBit_keeps _ _ _ (State.clrBit_keeps _ _ _ (State.loadTc_keeps _ _ (.refl s)))))) (.mk (.refl s))

theorem execMonitorWarn_keeps (region : Region) (margin : Nat) (s : State) : NextKeeps s (execMonitorWarn region margin s) := by
  have h1 := State.setBit_keeps s (rPmRegionMon region.val) 8 (.refl s)
  have h2 {p : Prop} [Decidable p] : Keeps s
      (if p then (s.setBit (rPmRegionMon region.val) 8).wrF (rPmRegionMon region.val) 0 8 margin else s.setBit (rPmRegionMon region.val) 8) :=
    .ite (State.wrF_keeps _ _ _ _ _ h1) h1
  exact .ite (.ite (.mk (State.drainWarns_keeps _ (State.stretch_keeps _ _ h2))) (.mk (State.setWarn_keeps _ _ _ h2))) (.mk (.refl s))

theorem execCrossingLate_keeps (b : Fin 24) (down sheet : Bool) (c : Nat) (inp : Dir) (s : State) :
    NextKeeps s (execCrossingLate b down sheet c inp s) := by
  have h1 {p : Prop} [Decidable p] (w : Word) : Keeps s (if p then s else s.wr rTbXlate w) := .ite (.refl s) (State.wr_keeps _ _ _ (.refl s))
  have h2 {p : Prop} [Decidable p] {t : State} (ht : Keeps s t) : Keeps s (if p then t.setSkip else t) := .ite (State.setSkip_keeps _ ht) ht
  exact .mk (.ite (h2 (State.bump_keeps _ _ (h1 _))) (State.updCore_keeps _ _ _ (h2 (State.bump_keeps _ _ (h1 _)))))

/-! ### The host interface (15) -/

theorem execPctResendTimeout_keeps (i : Fin 64) (s : State) : NextKeeps s (execPctResendTimeout i s) := by
  unfold execPctResendTimeout
  split
  · exact .mk (.refl s)
  · exact .ite (.mk (.refl s)) (.ite (.mk (State.closeSess_keeps _ _ (.refl s)))
      (.mk (Keeps.foldl _ (fun _ _ ht => State.emitMsg_keeps _ _ _ _ ht) (State.setSess_keeps _ _ _ (.refl s)))))

theorem execHeartbeat_keeps (h : PctHdr) (s : State) : NextKeeps s (execHeartbeat h s) := by
  unfold execHeartbeat
  split
  · exact .mk (State.admitPct_keeps_eq (.refl s) ‹_›)
  · have h1 := State.admitPct_keeps_eq (.refl s) ‹_›
    split
    · exact .mk (State.setSess_keeps _ _ _ h1)
    · exact .mk h1

theorem execNeighbourDiscovery_keeps (q : NeighbourQuery) (s : State) : NextKeeps s (execNeighbourDiscovery q s) := by
  have hf := State.frameIn_keeps s q.ep q.vlan (.refl s)
  unfold execNeighbourDiscovery
  dsimp only
  split
  · exact .mk (State.sendBy_keeps _ _ _ hf)
  · exact .mk hf

theorem execIcmpEcho_keeps (q : EchoQuery) (s : State) : NextKeeps s (execIcmpEcho q s) := by
  have hf := State.frameIn_keeps s q.ep q.vlan (.refl s)
  refine .ite (.mk (.refl s)) ?_
  dsimp only
  split
  · exact .ite (.mk (State.sendBy_keeps _ _ _ hf)) (.mk hf)
  · exact .mk hf

theorem execPortDown_keeps (ep : Fin 8) (s : State) : NextKeeps s (execPortDown ep s) := by
  have hc := State.clrBit_keeps _ (rIoEpState ep) 1 (State.clrBit_keeps s (rIoEpState ep) 0 (.refl s))
  exact .mk (.ite (State.announce_keeps _ _ hc) hc)

theorem execReelOrderComplete_keeps (part : Fin 16) (s : State) : NextKeeps s (execReelOrderComplete part s) := by
  unfold execReelOrderComplete
  split
  · exact .mk (State.finishOrder_keeps _ _ _ (.refl s))
  · exact .mk (.refl s)

theorem execRdmaReadResponse_keeps (p : RocePkt) (s : State) : NextKeeps s (execRdmaReadResponse p s) := by
  unfold execRdmaReadResponse
  split
  · exact .mk (State.roceIn_keeps_eq (.refl s) ‹_›)
  · have h1 := State.roceIn_keeps_eq (.refl s) ‹_›
    split
    · exact .mk h1
    · exact .ite (.mk (State.readArrives_keeps _ _ _ _ _ h1)) (.ite (.mk h1) (.mk (State.sendRoce_keeps _ _ _ _ _ _ _ _ h1)))

theorem execRoceAcknowledge_keeps (p : RocePkt) (syn : AckSyn) (s : State) : NextKeeps s (execRoceAcknowledge p syn s) := by
  unfold execRoceAcknowledge
  split
  · exact .mk (State.roceIn_keeps_eq (.refl s) ‹_›)
  · have h1 := State.roceIn_keeps_eq (.refl s) ‹_›
    cases syn with
    | ack => exact .mk (State.ackReqs_keeps _ _ _ h1)
    | nakSeq => exact .mk (State.retryFrom_keeps _ _ _ (State.ackReqs_keeps _ _ _ h1))
    | nakOther => exact .mk (State.qpError_keeps _ _ h1)

theorem execCnp_keeps (p : RocePkt) (s : State) : NextKeeps s (execCnp p s) := by
  unfold execCnp
  split
  · exact .mk (State.roceIn_keeps_eq (.refl s) ‹_›)
  · have h1 := State.roceIn_keeps_eq (.refl s) ‹_›
    exact .ite (.mk (State.wrF_keeps _ _ _ _ _ (State.setQp_keeps _ _ _ h1))) (.mk h1)

theorem execRoceRetryTimeout_keeps (qp : Fin 1024) (s : State) : NextKeeps s (execRoceRetryTimeout qp s) := by
  unfold execRoceRetryTimeout
  split
  · exact .mk (.refl s)
  · exact .mk (.ite (State.retryFrom_keeps _ _ _ (.refl s)) (.refl s))

theorem execRoceUnsupportedPacket_keeps (p : RocePkt) (s : State) : NextKeeps s (execRoceUnsupportedPacket p s) := by
  have hf := State.frameIn_keeps s p.ep p.vlan (.refl s)
  exact .mk (.ite (State.bump_keeps _ _ hf) hf)

/-! ### Management operations (07; 10; 16): what each does in the state in which its command is accepted -/

section

variable (h : PctHdr) (c : CmdHdr) (s : State)

theorem execAttest_keeps (nonce : List Byte) : NextKeeps s (execAttest h c nonce s) :=
  .mk (State.manage_keeps _ _ _ _ _ (fun _ _ _ ht => .ite (State.fwRefuse_keeps _ _ _ _ _ ht)
    (State.fwDone_keeps _ _ _ _ _ _ (State.report_keeps _ _ ht))) (.refl s))

theorem execLogStream_keeps (mask : BitVec 8) (fromEvt fromLog : Word) : NextKeeps s (execLogStream h c mask fromEvt fromLog s) := by
  refine .mk (State.manage_keeps _ _ _ _ _ (fun t uid o ht => ?_) (.refl s))
  have h1 := State.fwDone_keeps _ o uid c.tag 0x41 0 ht
  dsimp only
  split
  · exact h1
  · split
    · exact h1
    · exact State.streamOne_keeps _ _ _ (State.streamOne_keeps _ _ _ (State.setSess_keeps _ _ _ h1))

theorem execFwBegin_keeps : NextKeeps s (execFwBegin h c s) :=
  .mk (State.manage_keeps _ _ _ _ _ (fun _ _ _ ht => .ite (State.fwRefuse_keeps _ _ _ _ _ ht)
    (State.fwDone_keeps _ _ _ _ _ _ (ht.mk rfl rfl rfl rfl rfl))) (.refl s))

theorem execFwCommit_keeps (handle : Nat) : NextKeeps s (execFwCommit h c handle s) :=
  .mk (State.manage_keeps _ _ _ _ _ (fun _ _ _ ht => .ite (State.fwRefuse_keeps _ _ _ _ _ ht)
    (State.fwDone_keeps _ _ _ _ _ _ (State.commitBank_keeps _ ht))) (.refl s))

theorem execReset_keeps (force : Bool) : NextKeeps s (execReset h c force s) :=
  .mk (State.manage_keeps _ _ _ _ _ (fun _ _ _ ht => .ite (State.fwRefuse_keeps _ _ _ _ _ ht)
    (Keeps.mc _ (State.fwDone_keeps _ _ _ _ _ _ ht))) (.refl s))

theorem execSvnRaise_keeps (kind : Nat) (revoke : BitVec 4) (svn : Nat) : NextKeeps s (execSvnRaise h c kind revoke svn s) :=
  .mk (State.manage_keeps _ _ _ _ _ (fun _ _ _ ht => .ite (State.fwRefuse_keeps _ _ _ _ _ ht)
    (State.fwDone_keeps _ _ _ _ _ _ (State.svnBlow_keeps _ _ _ _ ht))) (.refl s))

theorem execConfigCommit_keeps (copy : Nat) : NextKeeps s (execConfigCommit h c copy s) :=
  .mk (State.manage_keeps _ _ _ _ _ (fun _ _ _ ht => .ite (State.fwRefuse_keeps _ _ _ _ _ ht)
    (State.fwDone_keeps _ _ _ _ _ _ ht)) (.refl s))

theorem execUcalSave_keeps : NextKeeps s (execUcalSave h c s) :=
  .mk (State.manage_keeps _ _ _ _ _ (fun _ _ _ ht => State.fwDone_keeps _ _ _ _ _ _ (State.ucalStore_keeps _ ht)) (.refl s))

theorem execUcalLoad_keeps (copy : Nat) : NextKeeps s (execUcalLoad h c copy s) := by
  refine .mk (State.manage_keeps _ _ _ _ _ (fun t uid o ht => ?_) (.refl s))
  dsimp only
  split
  · exact State.fwRefuse_keeps _ _ _ _ _ ht
  · exact State.fwDone_keeps _ _ _ _ _ _ (Keeps.mc _ (State.wrWords_keeps _ _ _ ht))

theorem execLcOwn_keeps (pubkey : List Byte) : NextKeeps s (execLcOwn h c pubkey s) :=
  .mk (State.manage_keeps _ _ _ _ _ (fun _ _ _ ht => .ite (State.fwRefuse_keeps _ _ _ _ _ ht)
    (State.fwDone_keeps _ _ _ _ _ _ ((State.lifecycleTo_keeps _ _ _ ht).mk rfl rfl rfl rfl rfl))) (.refl s))

theorem execLcReturn_keeps (sig : List Byte) : NextKeeps s (execLcReturn h c sig s) :=
  .mk (State.manage_keeps _ _ _ _ _ (fun _ _ _ ht => .ite (State.fwRefuse_keeps _ _ _ _ _ ht)
    (.ite (State.fwRefuse_keeps _ _ _ _ _ ht) (Keeps.mc _ (State.fwDone_keeps _ _ _ _ _ _
      ((State.lifecycleTo_keeps _ _ _ ht).mk rfl rfl rfl rfl rfl))))) (.refl s))

theorem execPartCreate_keeps (b : CreateBody) : NextKeeps s (execPartCreate h c b s) :=
  .mk (State.manage_keeps _ _ _ _ _ (fun _ _ _ ht => .ite (State.complete_keeps _ _ _ _ _ _ _ _ ht)
    (State.complete_keeps _ _ _ _ _ _ _ _ (State.partTo_keeps _ _ _ (State.updPart_keeps _ _ _ ht)))) (.refl s))

theorem execPartDestroy_keeps : NextKeeps s (execPartDestroy h c s) :=
  .mk (State.manage_keeps _ _ _ _ _ (fun _ _ _ ht => .ite (State.complete_keeps _ _ _ _ _ _ _ _ ht)
    (State.complete_keeps _ _ _ _ _ _ _ _ (State.setPart_keeps _ _ _ (State.setPg_keeps _ _ _ (State.partTo_keeps _ _ _
      (Keeps.foldl _ (fun _ _ hu => State.zeroize_keeps _ _ _ _ hu) ht)))))) (.refl s))

theorem execLoadBegin_keeps (bytes : Nat) : NextKeeps s (execLoadBegin h c bytes s) :=
  .mk (State.manage_keeps _ _ _ _ _ (fun _ _ _ ht => .ite (State.complete_keeps _ _ _ _ _ _ _ _ ht)
    (State.complete_keeps _ _ _ _ _ _ _ _ (ht.mk rfl rfl rfl rfl rfl))) (.refl s))

theorem execLoadEnd_keeps (handle : Nat) : NextKeeps s (execLoadEnd h c handle s) := by
  refine .mk (State.manage_keeps _ _ _ _ _ (fun t uid o ht => ?_) (.refl s))
  have hl (l : List Load) : Keeps s { t with loads := l } := ht.mk rfl rfl rfl rfl rfl
  dsimp only
  split
  · exact State.complete_keeps _ _ _ _ _ _ _ _ (State.loadRefused_keeps _ _ _ ht)
  · exact .ite (State.complete_keeps _ _ _ _ _ _ _ _ ht) (.ite
      (State.complete_keeps _ _ _ _ _ _ _ _ (State.loadRefused_keeps _ _ _ (hl _)))
      (State.complete_keeps _ _ _ _ _ _ _ _ (State.loadDone_keeps _ _ (hl _))))

theorem execFlight_keeps (b : FlightBody) : NextKeeps s (execFlight h c b s) :=
  .mk (State.manage_keeps _ _ _ _ _ (fun _ _ _ ht => .ite (State.complete_keeps _ _ _ _ _ _ _ _ ht)
    (State.complete_keeps _ _ _ _ _ _ _ _ (State.setFlight_keeps _ _ ht))) (.refl s))

theorem execJoin_keeps : NextKeeps s (execJoin h c s) :=
  .mk (State.manage_keeps _ _ _ _ _ (fun _ _ _ ht => .ite (State.complete_keeps _ _ _ _ _ _ _ _ ht)
    (.ite (State.complete_keeps _ _ _ _ _ _ _ _ (State.fwWrite_keeps _ _ _ ht))
      (State.complete_keeps _ _ _ _ _ _ _ _ (State.fwWrite_keeps _ _ _ ht)))) (.refl s))

end

/-! ### Pins, power and the test port (16; 17) -/

theorem execDbgNs_keeps (a : DbgAccess) (s : State) : NextKeeps s (execDbgNs a s) :=
  .mk (State.jtag_keeps _ _ _ (fun _ ht => .ite (State.debug_keeps _ _ _ (Keeps.ir _ ht)) (State.debugDenied_keeps _ _ (Keeps.ir _ ht))) (.refl s))

theorem execLcScrap_keeps (s : State) : NextKeeps s (execLcScrap s) :=
  .mk (State.jtag_keeps _ _ _ (fun _ ht => (State.log_keeps _ _ _ _ _ _ _ ht).mk rfl rfl rfl rfl rfl) (.refl s))

theorem execPldmSensorRead_keeps (id : Nat) (s : State) : NextKeeps s (execPldmSensorRead id s) := by
  refine .ite (.mk (.refl s)) ?_
  have hm := State.measureFor_keeps s id (.refl s)
  dsimp only
  split
  · exact .mk (Keeps.out _ hm)
  · exact .mk hm

theorem execPwrEnRise_keeps (s : State) : NextKeeps s (execPwrEnRise s) := by
  have h1 : Keeps s { s with pwr := { s.pwr with pwrEn := true } } := Keeps.pwr _ (.refl s)
  exact .ite (.mk (.refl s)) (.ite (.mk (Keeps.pwr _ h1)) (.ite (.mk h1) (.mk (State.railsRise_keeps _ h1))))

theorem execPwrEnFall_keeps (s : State) : NextKeeps s (execPwrEnFall s) :=
  .mk (Keeps.pwr _ (.ite (State.powerOff_keeps _ _ _ (.refl s)) (.refl s)))

theorem execPowerOffHoldEnd_keeps (s : State) : NextKeeps s (execPowerOffHoldEnd s) :=
  .ite (.mk (.refl s)) (.mk (.ite (State.railsRise_keeps _ (Keeps.pwr _ (.refl s))) (Keeps.pwr _ (.refl s))))

theorem execRailFault_keeps (rail : Nat) (s : State) : NextKeeps s (execRailFault rail s) := by
  have h1 := State.powerCode_keeps s 0x96 7 14 (BitVec.ofNat 32 rail) (.refl s)
  exact .ite (.mk (.ite h1 (Keeps.pwr _ h1))) (.mk (.refl s))

theorem execResetNLow_keeps (ns : Nat) (s : State) : NextKeeps s (execResetNLow ns s) :=
  .ite (.mk (.refl s)) (.ite (.mk (.refl s)) (.mk (Keeps.pwr _ (.ite (State.resetKeep_keeps _ (.refl s)) (.refl s)))))

theorem execPowerWindow_keeps (raw : Nat) (s : State) : NextKeeps s (execPowerWindow raw s) := by
  have h1 (d : DWord) (n : Nat) := State.wrF_keeps _ rPmPin 0 16 n (State.toTc_keeps s d (.refl s))
  have h2 {p : Prop} [Decidable p] (d : DWord) (n m : Nat) : Keeps s
      (if p then ((s.toTc d).wrF rPmPin 0 16 n).wrF rPmPin 16 16 m else (s.toTc d).wrF rPmPin 0 16 n) :=
    .ite (State.wrF_keeps _ _ _ _ _ (h1 d n)) (h1 d n)
  exact .ite (.ite (.mk (State.powerCode_keeps _ _ _ _ _ (State.bump_keeps _ _ (h2 _ _ _))))
    (.mk (State.powerClear_keeps _ _ (h2 _ _ _)))) (.mk (.refl s))

theorem execThermalSample_keeps (temps : List Int) (s : State) : NextKeeps s (execThermalSample temps s) := by
  have h2 (p : Pwr) (v w : Word) := State.wr_keeps _ rPmCool w (State.wr_keeps _ rPmTj v (Keeps.pwr (s := s) p (.refl s)))
  have code {p : Prop} [Decidable p] {t : State} (n a b : Nat) (w : Word) (ht : Keeps s t) :
      Keeps s (if p then t.powerCode n a b w else t.powerClear n) :=
    .ite (State.powerCode_keeps _ _ _ _ _ ht) (State.powerClear_keeps _ _ ht)
  have crit {p : Prop} [Decidable p] {t : State} (w : Word) (ht : Keeps s t) :
      Keeps s (if p then (t.powerCode 0x94 5 12 w).stopFree else t.powerClear 0x94) :=
    .ite (State.stopFree_keeps _ (State.powerCode_keeps _ _ _ _ _ ht)) (State.powerClear_keeps _ _ ht)
  have warm {p : Prop} [Decidable p] {t : State} (ht : Keeps s t) : Keeps s (if p then t.powerCode 0x95 6 13 0 else t) :=
    .ite (State.powerCode_keeps _ _ _ _ _ ht) ht
  have h5 {p q r : Prop} [Decidable p] [Decidable q] [Decidable r] (x : Pwr) (v w y : Word) := 
    warm (p := p) (crit (p := q) y (code (p := r) 0x93 4 11 y (h2 x v w)))
  exact .ite (.ite (.mk (State.powerCode_keeps _ _ _ _ _ (h5 _ _ _ _))) (.ite (.mk (h5 _ _ _ _))
    (.mk (State.powerClear_keeps _ _ (h5 _ _ _ _))))) (.mk (.refl s))

/-- Every command answers a next state that keeps what `Keeps` says: for each, the lemma of the operation it calls. -/
theorem exec_keeps (i : Instr) (s : State) : NextKeeps s (exec i s) := by
  cases i with
  | dmCopy | dmZero | dmGather | dmScatter | dmRput | lpSend | lpDisarm | mxLoadW | mxRunWs | mxRunOs | mxClear | mxSheet
  | mxSheetOff | seSet | seAdd | seWaitObs | seWaitTake | seRsig | seFenceQ | seFenceAll | seFenceRemote | vxLd | vxSt
  | vxBcast | vxIota | vxMov | vxCtx | vxRun | vxRed | vxScan | vxSmStat | vxSmMerge | vxSmNorm | vxSmFinal | vxSmLse
  | vxDigPost | lpArm => exact .mk (State.dispatch_keeps _ _ _ _ _ (.refl s))
  | submit | resume | cancel | draft | fetch => exact .mk (State.intake_keeps _ _ _ _ (.refl s))
  | registerRead | registerWrite | tsyncArm | tbTcLoRead | scRandRead | rtCredit | clientRecordWrite | rtGroupValidSet
  | groupRelease | noadmit | frozen | xbClaim | xbReady | xbRelease | xbPendingWrite | dgLogTailWrite | scLogTailWrite
  | scEvtTailWrite | ucalWrite | scJtagLock | levelChangeRequest | joinStart | joinReadySet | rlRetry | rlAbandon =>
    exact .mk (State.viaRun_keeps _ _ _ (.refl s))
  | bulkWrite => exact .mk (State.bulkIn_keeps _ _ _ _ (.refl s))
  | bulkRead => exact .mk (State.bulkAsk_keeps _ _ _ (.refl s))
  | sqNop => exact .mk (State.sq_keeps _ _ _ _ _ (fun _ ht => State.pastCmd_keeps _ _ ht) (.refl s))
  | sqMovi | sqMov | sqRd | sqCmp | sqKset | sqKoff | sqPset | sqDelay | sqPres | sqEnd =>
    exact .mk (State.sq_keeps _ _ _ _ _ (fun _ ht => State.sqDo_keeps _ _ _ ht) (.refl s))
  | sqAdd | sqSub | sqMul | sqAnd | sqOr | sqXor | sqShl | sqShr => exact .mk (State.sqAlu_keeps _ _ _ _ _ _ (.refl s))
  | sqPand | sqPor | sqPxor | sqPnot => exact .mk (State.sqLogic_keeps _ _ _ _ _ _ (.refl s))
  | sqJmp => exact .mk (State.sq_keeps _ _ _ _ _ (fun _ ht => State.updSq_keeps _ _ _ ht) (.refl s))
  | sqCall => exact .mk (State.sq_keeps _ _ _ _ _ (fun _ ht => State.sqCallTo_keeps _ _ _ _ ht) (.refl s))
  | sqRet | sqRret => exact .mk (State.sq_keeps _ _ _ _ _ (fun _ ht => State.sqReturn_keeps _ _ _ ht) (.refl s))
  | data | dma | flag | batch | idle => exact .mk (State.arrive_keeps _ _ (.refl s))
  | sessionSyn | ack => exact .mk (State.admitPct_keeps _ _ (.refl s))
  | hostHeartbeatTimeout => exact .mk (State.closeSess_keeps _ _ (.refl s))
  | heartbeatSend =>
    exact .ite (.mk (Keeps.foldl _ (fun _ _ ht => State.sendHeartbeat_keeps _ _ ht) (State.toTc_keeps _ _ (.refl s)))) (.mk (.refl s))
  | guardBandStart => exact .mk (.ite (State.guardStart_keeps _ (.refl s)) (.refl s))
  | statusCut => exact .mk (.ite (State.toCut_keeps _ (.refl s)) (.refl s))
  | statusRoundSend => exact .mk (.ite (State.sendRound_keeps _ _ (State.toCut_keeps _ (.refl s))) (.refl s))
  | statusCell => exact .mk (.ite (State.takeStatus_keeps _ _ (.refl s)) (.refl s))
  | beatBoundary => exact .mk (.ite (State.boundary_keeps _ (.refl s)) (.refl s))
  | engineIssue => exact .mk (State.issueHead_keeps _ _ _ (.refl s))
  | portUp => exact .mk (.ite (State.setBit_keeps _ _ _ (State.setBit_keeps _ _ _ (.refl s))) (.refl s))
  | failoverAnnounce => exact .mk (.ite (State.announce_keeps _ _ (.refl s)) (.refl s))
  | pauseFrame => exact .mk (.ite (State.bump_keeps _ _ (State.bump_keeps _ _ (.refl s))) (.refl s))
  | reservedOp => exact .mk (State.manage_keeps _ _ _ _ _ (fun _ _ _ ht => State.fwRefuse_keeps _ _ _ _ _ ht) (.refl s))
  | portLockLost => exact .mk (.ite (State.loseLock_keeps _ _ (.refl s)) (.refl s))
  | portTrainTimeout => exact .ite (.mk (State.joinFail_keeps _ _ (State.updPort_keeps _ _ _ (.refl s)))) (.mk (.refl s))
  | neighbourLost => exact .ite (.mk (State.loseNeighbour_keeps _ _ (State.updPort_keeps _ _ _ (.refl s)))) (.mk (.refl s))
  | joinProbeTick => exact .mk (.ite (Keeps.foldl _ (fun _ _ ht => State.sendProbe_keeps _ _ ht) (.refl s)) (.refl s))
  | probe => exact .mk (.ite (State.sendJoin_keeps _ _ _ _ (.refl s)) (.refl s))
  | echo => exact .mk (.ite (State.takeEcho_keeps _ _ _ (.refl s)) (.refl s))
  | time => exact .mk (.ite (.ite (State.takeTime_keeps _ _ _ _ _ (.refl s)) (State.updPort_keeps _ _ _ (.refl s))) (.refl s))
  | adopt | peer => exact .mk (.ite (State.joinReport_keeps _ (State.updPort_keeps _ _ _ (.refl s))) (.refl s))
  | ready => exact .mk (.ite (State.takeReady_keeps _ _ _ (.refl s)) (.refl s))
  | start => exact .mk (.ite (.ite (State.joinFail_keeps _ _ (.refl s)) (State.takeStart_keeps _ _ _ (.refl s))) (.refl s))
  | joinTimeout => exact .mk (State.joinFail_keeps _ _ (.refl s))
  | bypass | idcode => exact .mk (State.jtag_keeps _ _ _ (fun _ ht => ht.mk rfl rfl rfl rfl rfl) (.refl s))
  | samplePreload | extest | clamp | highz => exact .mk (State.jtag_keeps _ _ _ (fun _ ht => Keeps.ir _ ht) (.refl s))
  | dbgS => exact .mk (State.jtag_keeps _ _ _ (fun _ ht => State.debug_keeps _ _ _ (Keeps.ir _ ht)) (.refl s))
  | mctpRecordRead => exact .ite (.mk (Keeps.out _ (.refl s))) (.mk (.refl s))
  | bind | rebind | transit =>
    exact .mk (State.managePlan_keeps _ _ _ _ _ _ _ (fun _ _ _ _ _ ht => State.takePartOp_keeps _ _ _ ht) (.refl s))
  | unbind => exact .mk (State.manage_keeps _ _ _ _ _ (fun _ _ _ ht => State.takePartOp_keeps _ _ _ ht) (.refl s))
  | undervoltageLockout | overvoltageLockout | overcurrentTrip | railOutOfRegulation | thermalTrip =>
    exact .mk (.ite (State.powerOff_keeps _ _ _ (.refl s)) (.refl s))
  | pwrInputLow | pwrInputHigh => exact .mk (.ite (State.powerCode_keeps _ _ _ _ _ (State.wrF_keeps _ _ _ _ _ (.refl s))) (.refl s))
  | internalResetRelease => exact .mk (.ite (State.startUp_keeps _ _ (.refl s)) (.refl s))
  | pctReady => exact .mk (.ite (Keeps.pwr _ (.refl s)) (.refl s))
  | firmwareReset => exact .mk (.ite (State.resetKeep_keeps _ (.refl s)) (.refl s))
  | roceRateIncrease => exact .mk (State.wrF_keeps _ _ _ _ _ (.refl s))
  | levelChangeDone => exact .mk (State.drainStalled_keeps _ (State.levelDone_keeps _ _ (.refl s)))
  | sqPostAccept => exact .ite (.mk (State.updSq_keeps _ _ _ (.refl s))) (.mk (.refl s))
  | tetherSlotDepart => exact .mk (.ite (State.depart_keeps _ _ _ (.refl s)) (.refl s))
  | refLost => exact .mk (.ite (State.loseSource_keeps _ (.refl s)) (.refl s))
  | refRelock => exact .mk (.ite (Keeps.tb _ (.refl s)) (.refl s))
  | beatStartAnnounce => exact .mk (.ite (State.toTc_keeps _ _ (.refl s)) (.refl s))
  | followStretch => exact .ite (.mk (State.drainWarns_keeps _ (State.stretch_keeps _ _ (.refl s)))) (.mk (.refl s))
  | driftRouterCycle => exact execDriftRouterCycle_keeps _ _ _ s
  | driftPacketEject => exact execDriftPacketEject_keeps _ s
  | digestPost => exact execDigestPost_keeps s
  | pctResendTimeout => exact execPctResendTimeout_keeps _ s
  | heartbeat => exact execHeartbeat_keeps _ s
  | draftPacket => exact execDraftPacket_keeps s
  | startTcReached => exact execStartTcReached_keeps s
  | sqFetch => exact execSqFetch_keeps _ s
  | commandComplete => exact execCommandComplete_keeps _ _ _ s
  | portDown => exact execPortDown_keeps _ s
  | neighbourDiscovery => exact execNeighbourDiscovery_keeps _ s
  | icmpEcho => exact execIcmpEcho_keeps _ s
  | attest => exact execAttest_keeps _ _ s _
  | logStream => exact execLogStream_keeps _ _ s _ _ _
  | fwBegin => exact execFwBegin_keeps _ _ s
  | fwCommit => exact execFwCommit_keeps _ _ s _
  | reset => exact execReset_keeps _ _ s _
  | svnRaise => exact execSvnRaise_keeps _ _ s _ _ _
  | configCommit => exact execConfigCommit_keeps _ _ s _
  | ucalSave => exact execUcalSave_keeps _ _ s
  | ucalLoad => exact execUcalLoad_keeps _ _ s _
  | lcOwn => exact execLcOwn_keeps _ _ s _
  | lcReturn => exact execLcReturn_keeps _ _ s _
  | portLocked => exact execPortLocked_keeps _ _ s
  | dbgNs => exact execDbgNs_keeps _ s
  | lcScrap => exact execLcScrap_keeps s
  | pldmSensorRead => exact execPldmSensorRead_keeps _ s
  | partCreate => exact execPartCreate_keeps _ _ s _
  | partDestroy => exact execPartDestroy_keeps _ _ s
  | loadBegin => exact execLoadBegin_keeps _ _ s _
  | loadEnd => exact execLoadEnd_keeps _ _ s _
  | switchEntryAdvance => exact execSwitchEntryAdvance_keeps _ s
  | latticeDeparture => exact execLatticeDeparture_keeps _ s
  | latticeArrival => exact execLatticeArrival_keeps _ _ _ s
  | legArrival => exact execLegArrival_keeps _ s
  | meSheetStall => exact execMeSheetStall_keeps _ s
  | pgSelection => exact execPgSelection_keeps s
  | pgViewWrite => exact execPgViewWrite_keeps _ s
  | pwrEnRise => exact execPwrEnRise_keeps s
  | pwrEnFall => exact execPwrEnFall_keeps s
  | powerOffHoldEnd => exact execPowerOffHoldEnd_keeps s
  | railFault => exact execRailFault_keeps _ s
  | resetNLow => exact execResetNLow_keeps _ s
  | powerWindow => exact execPowerWindow_keeps _ s
  | thermalSample => exact execThermalSample_keeps _ s
  | reelOrderComplete => exact execReelOrderComplete_keeps _ s
  | rdmaReadResponse => exact execRdmaReadResponse_keeps _ s
  | roceAcknowledge => exact execRoceAcknowledge_keeps _ _ s
  | cnp => exact execCnp_keeps _ s
  | roceRetryTimeout => exact execRoceRetryTimeout_keeps _ s
  | roceUnsupportedPacket => exact execRoceUnsupportedPacket_keeps _ s
  | flight => exact execFlight_keeps _ _ s _
  | join => exact execJoin_keeps _ _ s
  | fenceRelease => exact execFenceRelease_keeps _ s
  | flagOpApply => exact execFlagOpApply_keeps _ s
  | waitRelease => exact execWaitRelease_keeps _ s
  | scrubRead => exact execScrubRead_keeps _ _ _ s
  | bankGrant => exact execBankGrant_keeps _ _ _ _ s
  | correctionWriteback => exact execCorrectionWriteback_keeps _ _ s
  | poisonWriteback => exact execPoisonWriteback_keeps _ _ s
  | sqLd => exact execSqLd_keeps _ _ _ _ _ s
  | sqLdValue => exact execSqLdValue_keeps _ s
  | sqSt => exact execSqSt_keeps _ _ _ _ _ s
  | sqLoop => exact execSqLoop_keeps _ _ _ _ s
  | sqRcall => exact execSqRcall_keeps _ _ _ s
  | sqWaitq => exact execSqWaitq_keeps _ _ _ s
  | sqWaitqRelease => exact execSqWaitqRelease_keeps _ s
  | sqDelayExpire => exact execSqDelayExpire_keeps _ s
  | sqPost => exact execSqPost_keeps _ _ _ _ s
  | suJob => exact execSuJob_keeps _ s
  | suResult => exact execSuResult_keeps _ s
  | tsyncLoad => exact execTsyncLoad_keeps s
  | tbPhaseCheck => exact execTbPhaseCheck_keeps _ s
  | monitorWarn => exact execMonitorWarn_keeps _ _ s
  | crossingLate => exact execCrossingLate_keeps _ _ _ _ _ s

theorem step_of_cons {s : State} {c : Instr} {q : List Instr} (hp : s.pending = c :: q) :
    step s = exec c { s with pending := q } := by
  simp only [step, hp]

theorem step_of_nil {s : State} (hp : s.pending = []) : step s = .next s.tick := by
  simp only [step, hp]

theorem step_keeps (s : State) : NextKeeps { s with pending := s.pending.tail } (step s) := by
  cases hp : s.pending with
  | nil =>
    have hs : { s with pending := [].tail } = s := by rw [List.tail_nil, ← hp]
    rw [step_of_nil hp, hs]
    exact .mk (State.tick_keeps _ (.refl s))
  | cons c q =>
    rw [step_of_cons hp]
    exact exec_keeps c _

/-- Settles O54: every command answers a next state and keeps the queue, the grade and the disabled cores. -/
theorem everyCommandCompletes : Obligations.EveryCommandCompletes := by
  intro c s
  obtain ⟨t, ht, hpending, hgrade, hcols, -⟩ := exec_keeps c s
  exact ⟨t, ht, hpending, hgrade, hcols⟩

/-- Settles O55: the canonical form does not look at the queue, and every step keeps it. -/
theorem stepKeepsCanonical : Obligations.StepKeepsCanonical := by
  intro s t hs hstep
  obtain ⟨u, hu, hpending, -, -, hcan⟩ := step_keeps s
  obtain rfl : u = t := Host.Outcome.next.inj (hu.symm.trans hstep)
  exact ⟨hcan hs, hpending⟩

end Sys2Proof.Machine

/-! What a command of the sequencer that may dispatch leaves (06 R170 to R186): its effect on the sequencer, moved past the
command, and nothing else. -/

namespace Sys2Proof.Machine

open Sys2Proof

/-! ### Changes that do not meet the stream's position -/

/-- A change of a sequencer that neither looks at the stream's position, its loops and its stall nor changes them, and leaves the
call stack. -/
structure Sq.Aside (f : Sq → Sq) : Prop where
  stack : ∀ q, (f q).stack = q.stack
  move : ∀ q pc avail ls, f { q with pc := pc, avail := avail, loops := ls } = { f q with pc := pc, avail := avail, loops := ls }
  stall : ∀ q, f { q with stall := none } = { f q with stall := none }
  place : ∀ q, (f q).pc = q.pc ∧ (f q).avail = q.avail ∧ (f q).loops = q.loops

theorem Sq.Aside.edge {f : Sq → Sq} (hf : Sq.Aside f) (q : Sq) (pc avail : Nat) (ls : List Loop) :
    (f q).edge pc avail ls = f (q.edge pc avail ls) := by
  induction ls generalizing q with
  | nil => exact (hf.move q _ _ _).symm
  | cons l r ih =>
    simp only [Sq.edge, hf.stack]
    have hput (pc avail : Nat) (ls : List Loop) : { f q with pc := pc, avail := avail, loops := ls, stack := q.stack }
        = f { q with pc := pc, avail := avail, loops := ls } :=
      (congrArg (fun st => { f q with pc := pc, avail := avail, loops := ls, stack := st }) (hf.stack q).symm).trans
        (hf.move q pc avail ls).symm
    split_ifs
    · exact hput _ _ _
    · exact hput _ _ _
    · exact ih q
    · exact hput _ _ _

/-- Such a change may come before or after the stream moves. -/
theorem Sq.Aside.past {f : Sq → Sq} (hf : Sq.Aside f) (q : Sq) (words : Nat) : (f q).past words = f (q.past words) := by
  obtain ⟨hpc, havail, hloops⟩ := hf.place q
  have hstall := hf.stall q
  simp only [Sq.past, ← hf.edge, hstall, hpc, havail, hloops]

theorem Sq.Aside.id : Sq.Aside id := ⟨fun _ => rfl, fun _ _ _ _ => rfl, fun _ => rfl, fun _ => ⟨rfl, rfl, rfl⟩⟩

theorem Sq.Aside.ite {f g : Sq → Sq} (p : Prop) [Decidable p] (hf : Sq.Aside f) (hg : Sq.Aside g) :
    Sq.Aside fun q => if p then f q else g q := by
  by_cases hp : p
  · simpa only [if_pos hp] using hf
  · simpa only [if_neg hp] using hg

theorem Sq.Aside.setCtr (c : Ctr) (v : Word) : Sq.Aside (setCtr c v) :=
  ⟨fun _ => rfl, fun _ _ _ _ => rfl, fun _ => rfl, fun _ => ⟨rfl, rfl, rfl⟩⟩

theorem Sq.Aside.hold (x : Option Hold) : Sq.Aside fun q => { q with hold := x } :=
  ⟨fun _ => rfl, fun _ _ _ _ => rfl, fun _ => rfl, fun _ => ⟨rfl, rfl, rfl⟩⟩

theorem Sq.Aside.setCmp (k : Fin 4) (x : Option Cmp) : Sq.Aside fun q => { q with cmps := q.cmps.set k x } :=
  ⟨fun _ => rfl, fun _ _ _ _ => rfl, fun _ => rfl, fun _ => ⟨rfl, rfl, rfl⟩⟩

theorem Sq.Aside.stop : Sq.Aside fun q => { q with ended := true, run := false } :=
  ⟨fun _ => rfl, fun _ _ _ _ => rfl, fun _ => rfl, fun _ => ⟨rfl, rfl, rfl⟩⟩

theorem Sq.Aside.setPred (p : PReg) (v : Bool) : Sq.Aside fun q => q.setPred p v :=
  Sq.Aside.ite _ .id ⟨fun _ => rfl, fun _ _ _ _ => rfl, fun _ => rfl, fun _ => ⟨rfl, rfl, rfl⟩⟩

theorem Sq.Aside.addLoad (l : PendLoad) (n : Nat) : Sq.Aside fun q => { q with loads := q.loads ++ [l], seq := n } :=
  ⟨fun _ => rfl, fun _ _ _ _ => rfl, fun _ => rfl, fun _ => ⟨rfl, rfl, rfl⟩⟩

/-! ### The frame of a change of one sequencer -/

theorem SqIs.updSq (s : State) (h : Hdr) (f : Sq → Sq) : SqIs h (f (s.core h.core).sq) s (s.updSq h.core f) :=
  ⟨by rw [State.core_updSq, if_pos rfl], fun c hc => by rw [State.core_updSq, if_neg hc], Only.updSq _ _ _ (by decide)⟩

theorem SqIs.trans {h : Hdr} {p q : Sq} {s t u : State} (k : SqIs h p s t) (l : SqIs h q t u) : SqIs h q s u := by
  obtain ⟨kcore, kother, konly⟩ := k
  obtain ⟨lcore, lother, lonly⟩ := l
  exact ⟨by rw [lcore, kcore], fun c hc => (lother c hc).trans (kother c hc), konly.trans lonly⟩

theorem SqIs.pastCmd (s : State) (h : Hdr) : SqIs h ((s.core h.core).sq.past h.words) s (s.pastCmd h) :=
  SqIs.updSq s h fun q => q.past h.words

/-- `SqEffect` is `SqIs` of the sequencer moved on. -/
theorem sqEffect_iff (h : Hdr) (f : Sq → Sq) (s t : State) :
    SqEffect h f s t ↔ SqIs h (f ((s.core h.core).sq.past h.words)) s t := Iff.rfl

theorem SqEffect.pastCmd (s : State) (h : Hdr) : SqEffect h id s (s.pastCmd h) := SqIs.pastCmd s h

/-- A change done at the command's own sequencer and moved past the command. -/
theorem SqEffect.sqDo {s : State} {h : Hdr} {f g : Sq → Sq} (hfg : f (s.core h.core).sq = g (s.core h.core).sq) (hg : Sq.Aside g) :
    SqEffect h g s (s.sqDo h f) := by
  have h1 := SqIs.trans (SqIs.updSq s h f) (SqIs.pastCmd _ h)
  rw [State.core_updSq, if_pos rfl, hfg, hg.past] at h1
  exact h1

/-! ### Commands that are ready -/

theorem Runs.of_eq {c : Instr} {s t : State} {P : State → Prop} (h : exec c s = .next t) (k : P t) : Runs c s P := ⟨t, h, k⟩

section

variable {c : Instr} {s : State} {h : Hdr} {ops : List Opnd} {cs : List Ctr}

theorem runs_of_sq {f : State → State} {P : State → Prop} (hexec : exec c s = .next (s.sq h ops cs f))
    (hr : SqReady s h (ops.flatMap Opnd.ctrs ++ cs)) (hP : P (f s)) : Runs c s P :=
  .of_eq (hexec.trans (congrArg _ (State.sq_of_ready f hr))) hP

theorem runs_sqEffect {f g : Sq → Sq} (hexec : exec c s = .next (s.sq h ops cs fun t => t.sqDo h f))
    (hr : SqReady s h (ops.flatMap Opnd.ctrs ++ cs)) (hfg : f (s.core h.core).sq = g (s.core h.core).sq) (hg : Sq.Aside g) :
    Runs c s (SqEffect h g s) := runs_of_sq hexec hr (SqEffect.sqDo hfg hg)

theorem State.sq_of_not_passes (f : State → State) (hcan : s.canDispatch h (ops.flatMap Opnd.ctrs ++ cs) = true)
    (hpass : (s.core h.core).sq.passes h.pred = false) : s.sq h ops cs f = s.pastCmd h := by
  simp [State.sq, hcan, hpass]

theorem State.dispatch_of_not_passes {eng : Engine} (mk : (Opnd → Word) → ECmd) (hcan : s.canDispatch h (ops.flatMap Opnd.ctrs) = true)
    (hpass : (s.core h.core).sq.passes h.pred = false) : s.dispatch h eng ops mk = s.pastCmd h := by
  simp [State.dispatch, hcan, hpass]

theorem runs_sq_skip {f : State → State} (hexec : exec c s = .next (s.sq h ops cs f))
    (hcan : s.canDispatch h (ops.flatMap Opnd.ctrs ++ cs) = true) (hpass : (s.core h.core).sq.passes h.pred = false) :
    Runs c s (SqEffect h id s) :=
  .of_eq (hexec.trans (congrArg _ (State.sq_of_not_passes f hcan hpass))) (SqEffect.pastCmd s h)

theorem runs_dispatch_skip {eng : Engine} {mk : (Opnd → Word) → ECmd} (hexec : exec c s = .next (s.dispatch h eng ops mk))
    (hcan : s.canDispatch h (ops.flatMap Opnd.ctrs) = true) (hpass : (s.core h.core).sq.passes h.pred = false) :
    Runs c s (SqEffect h id s) :=
  .of_eq (hexec.trans (congrArg _ (State.dispatch_of_not_passes mk hcan hpass))) (SqEffect.pastCmd s h)

end

theorem flatMap_ctrs_one (b : Opnd) (cs : List Ctr) : [b].flatMap Opnd.ctrs ++ cs = Opnd.ctrs b ++ cs := by
  rw [List.flatMap_singleton]

/-! ### Counters, predicates, skipped commands -/

/-- Settles O1: each command does one change to its sequencer, which the stream's move does not meet. -/
theorem sqWritesCounter : Obligations.SqWritesCounter := by
  intro s h cd ca b imm src
  refine ⟨fun hr => ?_, fun hr => ?_, fun hr => ?_, fun hr => ?_⟩
  · exact runs_sqEffect (ops := []) rfl hr rfl (.setCtr _ _)
  · exact runs_sqEffect (ops := []) rfl hr rfl (.setCtr _ _)
  · exact runs_sqEffect (ops := []) rfl hr rfl (.setCtr _ _)
  · have alu {c : Instr} (f : Word → Word → Word) (hexec : exec c s = .next (s.sqAlu h cd ca b f)) :
        Runs c s (SqEffect h (setCtr cd (f (s.core h.core).sq.ctr[ca] ((s.core h.core).sq.opnd b))) s) :=
      runs_sqEffect (ops := [b]) hexec (by rwa [flatMap_ctrs_one]) rfl (.setCtr _ _)
    exact ⟨alu (· + ·) rfl, alu (· - ·) rfl, alu (· * ·) rfl, alu (· &&& ·) rfl, alu (· ||| ·) rfl, alu (· ^^^ ·) rfl,
      alu (fun x y => x <<< (y.toNat % 32)) rfl, alu (fun x y => x >>> (y.toNat % 32)) rfl⟩

/-- Settles O2: as O1, for the predicates, the comparators and the end of the stream. -/
theorem sqWritesPredicate : Obligations.SqWritesPredicate := by
  intro s h pd ca b unit op pa pb v kn
  refine ⟨fun hr => ?_, fun hr => ?_, fun hr => ?_, fun hr => ?_, fun hr => ?_⟩
  · exact runs_sqEffect (ops := [b]) rfl (by rwa [flatMap_ctrs_one]) rfl (.setPred _ _)
  · have logic {c : Instr} (f : Bool → Bool → Bool) (hexec : exec c s = .next (s.sqLogic h pd pa pb f)) :
        Runs c s (SqEffect h (fun r => r.setPred pd (f ((s.core h.core).sq.src pa) ((s.core h.core).sq.src pb))) s) :=
      runs_sqEffect (ops := []) hexec hr rfl (.setPred _ _)
    exact ⟨logic (· && ·) rfl, logic (· || ·) rfl, logic (· ^^ ·) rfl⟩
  · exact runs_sqEffect (ops := []) rfl hr rfl (.setPred _ _)
  · exact runs_of_sq (ops := [unit]) (cs := []) rfl (by rwa [List.append_nil, List.flatMap_singleton])
      (SqEffect.sqDo rfl (.setPred _ _))
  · exact ⟨runs_sqEffect (ops := []) rfl hr rfl (.setPred _ _), runs_sqEffect (ops := []) rfl hr rfl (.setCmp _ _),
      runs_sqEffect (ops := []) rfl hr rfl (.setCmp _ _),
      runs_of_sq (ops := []) (f := fun t => t.pastCmd h) rfl hr (SqEffect.pastCmd s h), runs_sqEffect (ops := []) rfl hr rfl .stop⟩

theorem Sq.src_p_zero (q : Sq) : q.src (.p 0) = true := by
  simp [Sq.src]

theorem State.noteStall_pred (s : State) (h : Hdr) (cs : List Ctr) :
    ((s.noteStall h cs).core h.core).sq.pred = (s.core h.core).sq.pred := by
  unfold State.noteStall
  dsimp only
  split
  · rw [State.core_updCore_same]
  · rfl

theorem State.pastCmd_pred (s : State) (h : Hdr) : ((s.pastCmd h).core h.core).sq.pred = (s.core h.core).sq.pred := by
  rw [(SqIs.pastCmd s h).1, Sq.past_pred]

/-- Settles O3: P0 is never written, whether the comparison stands, is skipped or runs. -/
theorem predicateZeroIsTrue : Obligations.PredicateZeroIsTrue := by
  intro s t h op ca b kn
  refine ⟨fun hexec => ⟨Sq.src_p_zero _, ?_⟩, fun hr => ?_⟩
  · obtain rfl := Host.Outcome.next.inj hexec
    unfold State.sq
    dsimp only
    split
    · exact State.noteStall_pred _ _ _
    · split
      · exact State.pastCmd_pred _ _
      · rw [State.core_sqDo_sq, Sq.past_pred]
        rfl
  · obtain ⟨t, ht, hoff⟩ := runs_sqKoff kn hr
    exact ⟨t, ht, Sq.src_k_of_none hoff⟩

/-- Settles O8: such a command only moves the stream past its words. -/
theorem sqSkipsWhenFalse : Obligations.SqSkipsWhenFalse := by
  intro s h cd ca b size imm label hpass
  refine ⟨fun hc => ?_, fun hc => ⟨?_, ?_⟩, fun hc => ⟨?_, ?_⟩, fun hc => ⟨?_, ?_⟩⟩
  · exact runs_sq_skip (ops := [b]) rfl (by rwa [flatMap_ctrs_one]) hpass
  · exact runs_sq_skip (ops := []) rfl hc hpass
  · exact runs_sq_skip (ops := []) rfl hc hpass
  · exact runs_sq_skip (ops := []) rfl hc hpass
  · exact runs_sq_skip (ops := []) rfl hc hpass
  · exact runs_dispatch_skip (ops := []) rfl hc hpass
  · exact runs_dispatch_skip (ops := []) rfl hc hpass

/-! ### Jumps, calls, returns and loops -/

theorem State.sqCallTo_eq_updSq {s : State} {h : Hdr} (routine : Option Word) (target : Nat) (hroom : (s.core h.core).sq.stack.length < 8) :
    s.sqCallTo h routine target = s.updSq h.core fun q =>
      { q.jumpTo target with stack := ⟨routine, q.pc + h.words, q.loops.length⟩ :: q.stack } := by
  rw [State.sqCallTo, if_neg (by omega)]

theorem State.sqReturn_eq_updSq {s : State} {h : Hdr} {routine : Bool} {f : Frame} {r : List Frame}
    (hstack : (s.core h.core).sq.stack = f :: r) (hkind : f.routine.isSome = routine) (hloops : (s.core h.core).sq.loops.length ≤ f.loops) :
    s.sqReturn h routine = s.updSq h.core fun q => { q with stack := r, stall := none }.edge f.ret 0 q.loops := by
  simp only [State.sqReturn, hstack, hkind, ne_eq, not_true, if_false, if_neg (Nat.not_lt.mpr hloops)]

theorem execSqLoop_of_ready {s : State} {h : Hdr} {ln : Fin 4} {count : Opnd} (stop : Nat) (hr : SqReady s h (Opnd.ctrs count))
    (hfree : ∀ l ∈ (s.core h.core).sq.loops, l.reg ≠ ln) :
    execSqLoop h ln count stop s = .next (s.updSq h.core fun q =>
      if ((s.core h.core).sq.opnd count).toNat = 0 then q.skipTo stop else
        { q with stall := none, pc := q.pc + h.words, avail := q.avail - h.words,
                 loops := ⟨ln, q.pc + h.words, stop, ((s.core h.core).sq.opnd count).toNat, 0⟩ :: q.loops }) := by
  obtain ⟨hcan, hpass⟩ := hr
  have hnone : ((s.core h.core).sq.loops.any fun l => decide (l.reg = ln)) = false := by
    simpa only [List.any_eq_false, decide_eq_true_eq] using hfree
  simp only [execSqLoop, hcan, hpass, hnone, Bool.not_true, Bool.false_eq_true, if_false]
  split <;> rfl

/-- Settles O4: each moves the stream by one change of the sequencer. -/
theorem sqMovesStream : Obligations.SqMovesStream := by
  intro s h label id cn ln count f r
  refine ⟨fun hr => ?_, fun hr hroom => ?_, fun hr hsec hroom => ?_, fun hr hstack hloops => ⟨fun hkind => ?_, fun hkind => ?_⟩,
    fun hr hfree => ?_⟩
  · exact runs_of_sq (ops := []) rfl hr (SqIs.updSq _ _ _)
  · refine runs_of_sq (ops := []) rfl hr ?_
    rw [State.sqCallTo_eq_updSq _ _ hroom]
    exact SqIs.updSq s h _
  · refine runs_of_sq (ops := []) rfl hr ?_
    rw [if_pos hsec, State.sqCallTo_eq_updSq _ _ hroom]
    exact SqIs.updSq s h _
  · refine runs_of_sq (ops := []) rfl hr ?_
    rw [State.sqReturn_eq_updSq hstack (by rw [hkind]; rfl) hloops]
    exact SqIs.updSq s h _
  · refine runs_of_sq (ops := []) rfl hr ?_
    rw [State.sqReturn_eq_updSq hstack hkind hloops]
    exact SqIs.updSq s h _
  · exact .of_eq (execSqLoop_of_ready label hr hfree) (SqIs.updSq s h _)

/-! ### Holds -/

/-- The hold of a core's stream ends, and nothing else changes. -/
theorem State.updSq_unhold (s : State) (c : Nat) :
    let t := s.updSq c fun q => { q with hold := none }
    t.core c = { s.core c with sq := { (s.core c).sq with hold := none } } ∧ (∀ d, d ≠ c → t.core d = s.core d) ∧ Only [.cores] s t :=
  ⟨by rw [State.core_updSq, if_pos rfl], fun d hd => by rw [State.core_updSq, if_neg hd], Only.updSq _ _ _ (by decide)⟩

/-- Settles O5: a hold is one change of the sequencer, and so is its end. -/
theorem sqHolds : Obligations.SqHolds := by
  intro s h eng n b c
  refine ⟨fun hr => ?_, fun hr => ?_, fun hhold hlen => ?_, fun hhold => ?_, fun hhold hout => ?_⟩
  · refine runs_of_sq (ops := []) rfl hr ?_
    by_cases hlen : ((s.core h.core).queue eng).length ≤ n
    · simp only [if_pos hlen]
      exact SqEffect.pastCmd s h
    · simp only [if_neg hlen]
      exact SqEffect.sqDo rfl (.hold _)
  · exact runs_sqEffect (ops := [b]) (cs := []) rfl (by rwa [List.append_nil, List.flatMap_singleton]) rfl (.hold _)
  · exact .of_eq (by simp only [exec, execSqWaitqRelease, hhold, if_pos hlen]) (State.updSq_unhold s c)
  · exact .of_eq (by simp only [exec, execSqDelayExpire, hhold]) (State.updSq_unhold s c)
  · have hgo : (s.core c).sq.hold = some .post ∧ Sparse.get (fun _ => 0) s.drift.outst c + (s.waitingAt c).length ≤ 8 := ⟨hhold, hout⟩
    exact .of_eq (if_pos hgo) (State.updSq_unhold s c)

end Sys2Proof.Machine

/-! A step, and the state after reset (95; 00 R15, R16). -/

namespace Sys2Proof.Machine

open Sys2Proof

/-! ### A step -/

theorem Only.ite {ch : List Grp} {s t u : State} {p : Prop} [Decidable p] (ht : Only ch s t) (hu : Only ch s u) :
    Only ch s (if p then t else u) := by
  split
  · exact ht
  · exact hu

section

variable {ch : List Grp} (hr : Grp.regs ∈ ch) (hn : Grp.neigh ∈ ch) (ho : Grp.out ∈ ch) (he : Grp.sess ∈ ch)
include hr hn ho he

theorem Only.streamOne (s : State) (i n : Nat) : Only ch s (s.streamOne i n) := by
  unfold State.streamOne
  split
  · exact .refl _ _
  · exact .ite (.refl _ _) (.ite (.setSess _ _ _ he) ((Only.setSess _ _ _ he).trans (.sendTo _ _ _ hr hn ho he)))

theorem Only.streams (s : State) : Only ch s s.streams :=
  Only.foldl _ _ _ fun t _ => (Only.streamOne hr hn ho he t _ _).trans (.streamOne hr hn ho he _ _ _)

end

/-- The time base after one tc with nothing commanded. -/
def TimeBase.tick (b : TimeBase) : TimeBase := if b.locked || b.holdover then { b with tc := b.tc + 1 } else b

theorem State.tick_eq (s : State) : s.tick = State.streams { s with tb := s.tb.tick } := by
  unfold State.tick TimeBase.tick
  split <;> rfl

/-- Settles O52: the first part is how `step` is defined; when nothing waits, the streams send, and that touches registers,
sessions, neighbours and what is sent. -/
theorem stepRunsFront : Obligations.StepRunsFront := by
  refine ⟨fun s c q hp => step_of_cons hp, fun s hp => ⟨s.tick, step_of_nil hp, ?_⟩⟩
  obtain ⟨hpending, -⟩ := State.tick_keeps s (.refl s)
  have hsend : Only [.regs, .neigh, .out, .sess] { s with tb := s.tb.tick } s.tick := by
    rw [State.tick_eq]
    exact Only.streams (by decide) (by decide) (by decide) (by decide) _
  exact ⟨hpending.trans hp, hsend .tb (by decide), hsend .mem (by decide), hsend .cores (by decide), hsend .beat (by decide)⟩

/-! ### Reset values -/

/-- The row holds no register at `base`, `base + stride`, … of the chip-level blocks, so many of them. -/
def RegRow.misses (r : RegRow) (base stride count : Nat) : Bool :=
  r.core || decide (r.off + r.count * r.stride ≤ base) || decide (base + stride * count ≤ r.off)
    || decide (r.stride = stride ∧ r.off ≤ base ∧ (base - r.off) % stride ≠ 0)

theorem RegRow.not_holds_of_misses {r : RegRow} {base stride count i : Nat} (h : r.misses base stride count = true) (hpos : 0 < stride)
    (hi : i < count) :
    r.holds false (base + i * stride) = false := by
  have hle : i * stride + stride ≤ stride * count := by
    calc i * stride + stride = stride * (i + 1) := by ring
      _ ≤ stride * count := Nat.mul_le_mul_left _ hi
  rw [Bool.eq_false_iff]
  intro hh
  simp only [RegRow.holds, Bool.and_eq_true, beq_iff_eq, decide_eq_true_eq] at hh
  obtain ⟨⟨⟨hcore, hlo⟩, hhi⟩, hmod⟩ := hh
  simp only [RegRow.misses, hcore, Bool.false_or, Bool.or_eq_true, decide_eq_true_eq] at h
  rcases h with (h | h) | ⟨hs, hoff, hne⟩
  · omega
  · omega
  · rw [hs, Nat.sub_add_comm hoff, Nat.add_mul_mod_self_right] at hmod
    exact hne hmod

/-- The row that holds a family of chip-level registers, when no row before it holds any of them. -/
theorem regFind_of_misses {pre post : List RegRow} {r : RegRow} {base i : Nat} (hrows : regRows = pre ++ r :: post)
    (hmiss : pre.all (fun x => x.misses base r.stride r.count) = true) (hr : r.core = false ∧ r.off = base ∧ 0 < r.stride)
    (hi : i < r.count) (ha : base + i * r.stride < 0x10000000) : regFind (base + i * r.stride) = some r := by
  obtain ⟨hcore, hoff, hpos⟩ := hr
  have hblock : inCoreBlock (base + i * r.stride) = false := by simp only [inCoreBlock, decide_eq_false_iff_not]; omega
  have hlt : i * r.stride < r.count * r.stride := Nat.mul_lt_mul_of_pos_right hi hpos
  rw [regFind, if_neg (by omega), hrows, List.find?_eq_some_iff_append]
  refine ⟨?_, pre, post, rfl, fun x hx => ?_⟩
  · simp [blockOff, hblock, RegRow.holds, hcore, hoff, hlt]
  · have hx' := List.all_eq_true.mp hmiss x hx
    rw [hblock, blockOff, hblock, if_neg Bool.false_ne_true, RegRow.not_holds_of_misses hx' hpos hi]
    rfl

theorem regReset_rIoQpRate (q : Fin 1024) : regReset (rIoQpRate q) = 1000 := by
  have hfind := regFind_of_misses (pre := regRows.take 166) (post := regRows.drop 167) (r := ⟨false, 0x900201C, 1024, 0x20, [⟨0, 10, .ro, 0x3E8⟩]⟩)
    (base := 0x900201C) (i := q.val) (by decide +kernel) (by decide +kernel) (by decide) q.isLt (by have := q.isLt; dsimp only; omega)
  rw [regReset, rIoQpRate, show 0x900201C + q.val * 0x20 = 0x900201C + q.val * 32 from rfl, hfind]
  rfl

theorem regReset_rSlcScrub {c : Nat} (hc : c < 256) : fld (regReset (rSlcScrub c)) 0 1 = 1 := by
  have hblock : inCoreBlock (rSlcScrub c) = true := decide_eq_true (by rw [rSlcScrub, coreBase]; omega)
  have hoff : blockOff (rSlcScrub c) = 0x6018 := by
    rw [blockOff, hblock, if_pos rfl, rSlcScrub, coreBase]
    omega
  have hlt : ¬0x20000000 ≤ rSlcScrub c := by rw [rSlcScrub, coreBase]; omega
  have hfind : regFind (rSlcScrub c) = some ⟨true, 0x6018, 1, 0x4, [⟨0, 1, .rw, 0x1⟩, ⟨16, 16, .rw, 0x1000⟩]⟩ := by
    rw [regFind, if_neg hlt, hblock, hoff]
    decide +kernel
  rw [regReset, hfind]
  rfl

theorem State.rd_reset (a : Nat) : State.reset.rd a = regReset a := rfl

/-- Settles O53: every map of the reset state is empty, so each read is the default of its key. -/
theorem resetValues : Obligations.ResetValues := by
  refine ⟨by decide +kernel, rfl, by decide +kernel, by decide +kernel, by decide +kernel, fun q => ?_, fun c hc => ?_,
    fun _ => rfl, fun _ => rfl, fun _ => rfl, fun _ => ⟨rfl, rfl⟩, rfl, by decide +kernel⟩
  · rw [State.qpRate, State.rd_reset, regReset_rIoQpRate]
    decide
  · rw [State.rd_reset, regReset_rSlcScrub hc]

end Sys2Proof.Machine

/-! Dispatch into the engine queues (06 R173 to R176; 08 R221, R222, R227): a command that may dispatch and finds room enters its
queue, one that finds none is a fault of its own. -/

namespace Sys2Proof.Machine

open Sys2Proof

/-! ### Registers written by the hardware -/

theorem State.rd_wr_ne (s : State) {a b : Nat} (v : Word) (h : b ≠ a) : (s.wr a v).rd b = s.rd b := by rw [State.rd_wr, if_neg h]

theorem State.rd_wrF (s : State) (a b lsb len v : Nat) :
    (s.wrF a lsb len v).rd b = if b = a then setFld (s.rd a) lsb len v else s.rd b := State.rd_wr s a b _

theorem State.rd_wrF_ne (s : State) {a b : Nat} (lsb len v : Nat) (h : b ≠ a) : (s.wrF a lsb len v).rd b = s.rd b :=
  s.rd_wr_ne _ h

theorem State.rd_setBit (s : State) (a b n : Nat) : (s.setBit a n).rd b = if b = a then setFld (s.rd a) n 1 1 else s.rd b :=
  State.rd_wrF s a b n 1 1

theorem State.rd_setBit_ne (s : State) {a b : Nat} (n : Nat) (h : b ≠ a) : (s.setBit a n).rd b = s.rd b := s.rd_wrF_ne _ _ _ h

theorem State.rd_clrBit (s : State) (a b n : Nat) : (s.clrBit a n).rd b = if b = a then setFld (s.rd a) n 1 0 else s.rd b :=
  State.rd_wrF s a b n 1 0

theorem State.rd_clrBit_ne (s : State) {a b : Nat} (n : Nat) (h : b ≠ a) : (s.clrBit a n).rd b = s.rd b := s.rd_wrF_ne _ _ _ h

theorem State.rd_bump (s : State) (a b : Nat) : (s.bump a).rd b = if b = a then satInc (s.rd a) else s.rd b := State.rd_wr s a b _

theorem State.rd_bump_ne (s : State) {a b : Nat} (h : b ≠ a) : (s.bump a).rd b = s.rd b := s.rd_wr_ne _ h

@[simp] theorem State.rd_faultGroup_other (s : State) (g a : Nat) : (s.faultGroup g).rd a = s.rd a := rfl

/-! ### What a dispatch keeps count of in its core -/

/-- A core that differs in its marks, its table of memory ranges and the counters noted alone. -/
def Core.Noted (k l : Core) : Prop := ∃ m t o n, l = { k with marked := m, track := t, ordOvf := o, counting := n }

theorem Core.Noted.refl (k : Core) : k.Noted k := ⟨k.marked, k.track, k.ordOvf, k.counting, rfl⟩

theorem Core.Noted.trans {k l m : Core} (h : k.Noted l) (i : l.Noted m) : k.Noted m := by
  obtain ⟨m1, t1, o1, n1, rfl⟩ := h
  obtain ⟨m2, t2, o2, n2, rfl⟩ := i
  exact ⟨m2, t2, o2, n2, rfl⟩

theorem Core.noted_count (k : Core) (off : Nat) : k.Noted (k.count off) := by
  unfold Core.count
  split
  · exact .refl k
  · exact ⟨k.marked, k.track, k.ordOvf, _, rfl⟩

theorem Core.noted_noteCounts (k : Core) : k.Noted k.noteCounts := by
  have fold (l : List Nat) (k : Core) : k.Noted (l.foldl (fun k off => if k.countsNow off then k.count off else k) k) := by
    induction l generalizing k with
    | nil => exact .refl k
    | cons off r ih =>
      refine Core.Noted.trans ?_ (ih _)
      dsimp only
      split
      · exact k.noted_count off
      · exact .refl k
  exact fold _ k

theorem Core.noted_trackCmd (k : Core) (id : Nat) (rd wr : List Hull) : k.Noted (k.trackCmd id rd wr) := by
  unfold Core.trackCmd
  split
  · exact ⟨k.marked, _, k.ordOvf, k.counting, rfl⟩
  · exact ⟨k.marked, k.track, _, k.counting, rfl⟩

theorem Core.queue_setQueue (k : Core) (eng e : Engine) (q : List QEntry) :
    (k.setQueue eng q).queue e = if e = eng then q else k.queue e := by
  cases eng <;> cases e <;> rfl

/-- The fields of a core a queue's replacement leaves. -/
theorem Core.setQueue_frame (k : Core) (eng : Engine) (q : List QEntry) :
    (k.setQueue eng q).sq = k.sq ∧ (k.setQueue eng q).me = k.me ∧ (k.setQueue eng q).ve = k.ve ∧ (k.setQueue eng q).lp = k.lp
      ∧ (k.setQueue eng q).lat = k.lat ∧ (k.setQueue eng q).issued = k.issued ∧ (k.setQueue eng q).marked = k.marked
      ∧ (k.setQueue eng q).wait = k.wait ∧ (k.setQueue eng q).done = k.done ∧ (k.setQueue eng q).ends = k.ends := by
  cases eng <;> exact ⟨rfl, rfl, rfl, rfl, rfl, rfl, rfl, rfl, rfl, rfl⟩

theorem Core.Noted.setQueue {k l : Core} (h : k.Noted l) (eng : Engine) (q : List QEntry) :
    (k.setQueue eng q).Noted (l.setQueue eng q) := by
  obtain ⟨m, t, o, n, rfl⟩ := h
  cases eng <;> exact ⟨m, t, o, n, rfl⟩

theorem Core.Noted.frame {k l : Core} (h : k.Noted l) :
    (∀ e, l.queue e = k.queue e) ∧ l.sq = k.sq ∧ l.me = k.me ∧ l.ve = k.ve ∧ l.lp = k.lp ∧ l.lat = k.lat ∧ l.issued = k.issued := by
  obtain ⟨m, t, o, n, rfl⟩ := h
  exact ⟨fun e => by cases e <;> rfl, rfl, rfl, rfl, rfl, rfl, rfl⟩

theorem Core.queue_sq (k : Core) (q : Sq) (e : Engine) : Core.queue { k with sq := q } e = k.queue e := by
  cases e <;> rfl

/-- The core with the next command's number one further. -/
def Core.nextSeq (k : Core) : Core := { k with sq := { k.sq with seq := k.sq.seq + 1 } }

theorem Core.Noted.nextSeq {k l : Core} (h : k.Noted l) : k.nextSeq.Noted l.nextSeq := by
  obtain ⟨m, t, o, n, rfl⟩ := h
  exact ⟨m, t, o, n, rfl⟩

/-- The highest occupancy is in one of two registers. -/
theorem State.hwm_cases (s : State) (c : Nat) (eng : Engine) (n : Nat) :
    s.hwm c eng n = s ∨ ∃ a w, (a = rSqQhwmA c ∨ a = rSqQhwmB c) ∧ s.hwm c eng n = s.wr a w := by
  have field (a l : Nat) (ha : a = rSqQhwmA c ∨ a = rSqQhwmB c) : (if fld (s.rd a) l 7 < n then s.wrF a l 7 n else s) = s
      ∨ ∃ b w, (b = rSqQhwmA c ∨ b = rSqQhwmB c) ∧ (if fld (s.rd a) l 7 < n then s.wrF a l 7 n else s) = s.wr b w := by
    split
    · exact .inr ⟨a, _, ha, rfl⟩
    · exact .inl rfl
  cases eng with
  | se => exact field _ 0 (.inr rfl)
  | me => exact field _ 0 (.inl rfl)
  | ve => exact field _ 8 (.inl rfl)
  | dm => exact field _ 16 (.inl rfl)
  | lp => exact field _ 24 (.inl rfl)

theorem State.hwm_frame (s : State) (c : Nat) (eng : Engine) (n : Nat) :
    (∀ d, (s.hwm c eng n).core d = s.core d) ∧ Only [.regs] s (s.hwm c eng n)
      ∧ ∀ a, a ≠ rSqQhwmA c → a ≠ rSqQhwmB c → (s.hwm c eng n).rd a = s.rd a := by
  obtain h | ⟨b, w, hb, h⟩ := s.hwm_cases c eng n
  · rw [h]
    exact ⟨fun _ => rfl, .refl _ s, fun _ _ _ => rfl⟩
  · rw [h]
    refine ⟨fun _ => rfl, .regs s _ (by decide), fun a hA hB => s.rd_wr_ne w ?_⟩
    rintro rfl
    exact hb.elim hA hB

/-! ### A queue with room -/

/-- The core once the command has entered its queue: the entry at its end, the next number for the next command, and its books. -/
theorem State.enqueue_of_room (s : State) (h : Hdr) (eng : Engine) (cmd : ECmd) (room : ((s.core h.core).queue eng).length < 64) :
    let k := s.core h.core
    let e : QEntry := ⟨k.sq.seq, k.sq.pc, cmd, h.mark, h.after.map fun sb => (sb, k.marked[sb]), h.ord⟩
    ∃ l, Core.Noted (k.setQueue eng (k.queue eng ++ [e])).nextSeq l
      ∧ s.enqueue h eng cmd = (s.setCore h.core l).hwm h.core eng ((k.queue eng).length + 1) := by
  intro k e
  have mark (k : Core) : k.Noted (match h.mark with
      | some m => { k with marked := k.marked.set m (k.marked[m] + 1) }
      | none => k) := by
    split
    · exact ⟨_, k.track, k.ordOvf, k.counting, rfl⟩
    · exact .refl k
  have track (k : Core) : k.Noted (if eng = .se then k else k.trackCmd e.id (hulls cmd).1 (hulls cmd).2) := by
    split
    · exact .refl k
    · exact k.noted_trackCmd _ _ _
  unfold State.enqueue
  dsimp only
  rw [if_neg (Nat.not_le.mpr room)]
  exact ⟨_, ((mark k).setQueue eng _).nextSeq.trans ((track _).trans (Core.noted_noteCounts _)), rfl⟩

theorem Sq.past_seq (q : Sq) (words : Nat) : (q.past words).seq = q.seq := by
  obtain ⟨_, _, _, hpast⟩ := q.past_frame words
  rw [hpast]

theorem Sq.Aside.nextSeq : Sq.Aside fun q => { q with seq := q.seq + 1 } :=
  ⟨fun _ => rfl, fun _ _ _ _ => rfl, fun _ => rfl, fun _ => ⟨rfl, rfl, rfl⟩⟩

/-- A command that finds room enters its queue, and the stream moves past it. -/
theorem enqueued_of_room (s : State) (h : Hdr) (eng : Engine) (cmd : ECmd) (room : ((s.core h.core).queue eng).length < 64) :
    Enqueued h eng cmd s ((s.enqueue h eng cmd).pastCmd h) := by
  obtain ⟨l, hl, henq⟩ := s.enqueue_of_room h eng cmd room
  obtain ⟨hqueue, hsq, hme, hve, hlp, hlat, hissued⟩ := hl.frame
  obtain ⟨qsq, qme, qve, qlp, qlat, qissued, -⟩ := (s.core h.core).setQueue_frame eng ((s.core h.core).queue eng
    ++ [⟨(s.core h.core).sq.seq, (s.core h.core).sq.pc, cmd, h.mark, h.after.map fun sb => (sb, (s.core h.core).marked[sb]), h.ord⟩])
  rw [henq]
  obtain ⟨hcore, honly, hrd⟩ := (s.setCore h.core l).hwm_frame h.core eng (((s.core h.core).queue eng).length + 1)
  have pcore := (SqIs.pastCmd ((s.setCore h.core l).hwm h.core eng (((s.core h.core).queue eng).length + 1)) h)
  obtain ⟨pown, pother, ponly⟩ := pcore
  rw [hcore, State.core_setCore_same] at pown
  have queue (e : Engine) : ((((s.setCore h.core l).hwm h.core eng (((s.core h.core).queue eng).length + 1)).pastCmd h).core h.core).queue e
      = if e = eng then (s.core h.core).queue eng ++ [⟨(s.core h.core).sq.seq, (s.core h.core).sq.pc, cmd, h.mark,
          h.after.map fun sb => (sb, (s.core h.core).marked[sb]), h.ord⟩] else (s.core h.core).queue e := by
    rw [pown, Core.queue_sq, hqueue, Core.nextSeq, Core.queue_sq, Core.queue_setQueue]
  refine ⟨by rw [queue, if_pos rfl], fun e he => by rw [queue, if_neg he], ?_, ?_, ?_, ?_, ?_, ?_, fun c hc => ?_, hrd, ?_⟩
  · rw [pown, hsq, Core.nextSeq, qsq, Sq.Aside.nextSeq.past, Sq.past_seq]
  · rw [pown, hme, Core.nextSeq, qme]
  · rw [pown, hve, Core.nextSeq, qve]
  · rw [pown, hlp, Core.nextSeq, qlp]
  · rw [pown, hlat, Core.nextSeq, qlat]
  · rw [pown, hissued, Core.nextSeq, qissued]
  · rw [pother c hc, hcore, State.core_setCore, if_neg hc]
  · exact (Only.setCore s _ _ (by decide)).trans ((honly.mono (by decide)).trans (ponly.mono (by decide)))

/-- The dispatch of a command that is ready. -/
theorem dispatches_of_ready {i : Instr} {s : State} {h : Hdr} {eng : Engine} {ops : List Opnd} {mk : (Opnd → Word) → ECmd} {cmd : ECmd}
    (hexec : exec i s = .next (s.dispatch h eng ops mk)) (hcmd : cmd = mk (s.core h.core).sq.opnd) (hr : QueueReady s h eng ops) :
    Dispatches i h eng cmd s := by
  obtain ⟨⟨hcan, hpass⟩, room⟩ := hr
  subst hcmd
  refine ⟨_, enqueued_of_room s h eng _ room, hexec.trans (congrArg _ ?_)⟩
  simp [State.dispatch, hcan, hpass]

/-- Settles O9: one dispatch for every command. -/
theorem dmLpSeDispatch : Obligations.DmLpSeDispatch := by
  intro s h st flag m mz a b c d e
  exact ⟨dispatches_of_ready rfl rfl, dispatches_of_ready rfl rfl,
    fun hr => ⟨dispatches_of_ready rfl rfl hr, dispatches_of_ready rfl rfl hr, dispatches_of_ready rfl rfl hr⟩,
    dispatches_of_ready rfl rfl, dispatches_of_ready rfl rfl, dispatches_of_ready rfl rfl,
    fun hr => ⟨dispatches_of_ready rfl rfl hr, dispatches_of_ready rfl rfl hr, dispatches_of_ready rfl rfl hr, dispatches_of_ready rfl rfl hr⟩,
    dispatches_of_ready rfl rfl,
    fun hr => ⟨dispatches_of_ready rfl rfl hr, dispatches_of_ready rfl rfl hr, dispatches_of_ready rfl rfl hr⟩⟩

/-- Settles O10: as O9, for the ME and the VE. -/
theorem meVeDispatch : Obligations.MeVeDispatch := by
  intro s h lw ws os half l512 mz sid x n v1 v2 v3 v4 v5 v6 o1 o2 mk a b c d run red scan layer tensor
  exact ⟨fun hr => ⟨dispatches_of_ready rfl rfl hr, dispatches_of_ready rfl rfl hr, dispatches_of_ready rfl rfl hr,
      dispatches_of_ready rfl rfl hr, dispatches_of_ready rfl rfl hr⟩, dispatches_of_ready rfl rfl,
    fun hr => ⟨dispatches_of_ready rfl rfl hr, dispatches_of_ready rfl rfl hr, dispatches_of_ready rfl rfl hr,
      dispatches_of_ready rfl rfl hr, dispatches_of_ready rfl rfl hr⟩, dispatches_of_ready rfl rfl,
    dispatches_of_ready rfl rfl, dispatches_of_ready rfl rfl, dispatches_of_ready rfl rfl, dispatches_of_ready rfl rfl,
    dispatches_of_ready rfl rfl, dispatches_of_ready rfl rfl, dispatches_of_ready rfl rfl, dispatches_of_ready rfl rfl,
    dispatches_of_ready rfl rfl⟩

/-! ### A full queue -/

theorem State.rd_coreMiss_ne (s : State) {c b : Nat} (eng pc : Nat) (hlp : b ≠ rLpStatus c) (hst : b ≠ rSqStatus c)
    (hn : b ≠ rSqMissCount c) : (s.coreMiss c eng pc).rd b = s.rd b := by
  have h1 : (if eng = 4 then s.setBit (rLpStatus c) 1 else s).rd b = s.rd b := by
    split
    · exact s.rd_setBit_ne 1 hlp
    · rfl
  unfold State.coreMiss
  rw [State.rd_failBeat_other, State.rd_gather_other, State.rd_bump_ne _ hn, State.rd_setBit_ne _ _ hst, h1]

/-- The first fault captured (06 R195). -/
def State.captured (s : State) (c code src pc : Nat) : State :=
  if bit (s.rd (rSqFault c)) 11 then s
  else ((s.wr (rSqFault c) (BitVec.ofNat 32 (code + src * 256 + 2048))).wr (rSqFaultPc c) (BitVec.ofNat 32 pc)).wr
    (rSqFaultBeat c) (BitVec.ofNat 32 s.beat.bno.toNat)

/-- The registers a miss does not write hold the capture and the count. -/
theorem State.rd_coreFault (s : State) {c b : Nat} (code src pc : Nat) (hlp : b ≠ rLpStatus c) (hst : b ≠ rSqStatus c)
    (hn : b ≠ rSqMissCount c) :
    (s.coreFault c code src pc).rd b
      = if b = rSqFaultCount c then satInc ((s.captured c code src pc).rd b) else (s.captured c code src pc).rd b := by
  have hmiss (q : Prop) [Decidable q] (u : State) : (if q then u.coreMiss c src pc else u).rd b = u.rd b := by
    split
    · exact u.rd_coreMiss_ne src pc hlp hst hn
    · rfl
  have hgroup (q : Prop) [Decidable q] (u : State) (g : Nat) : (if q then u.faultGroup g else u).rd b = u.rd b := by
    split <;> rfl
  unfold State.coreFault
  dsimp only
  rw [hmiss, hgroup, State.rd_gather_other, State.rd_bump, State.rd_setBit_ne _ _ hst]
  split
  next hb =>
    rw [← hb, State.rd_setBit_ne _ _ hst]
    rfl
  next => rfl

theorem State.rd_captured_faultCount (s : State) (c code src pc : Nat) :
    (s.captured c code src pc).rd (rSqFaultCount c) = s.rd (rSqFaultCount c) := by
  unfold State.captured
  split
  · rfl
  · rw [State.rd_wr_ne, State.rd_wr_ne, State.rd_wr_ne] <;> simp [rSqFaultCount, rSqFaultBeat, rSqFaultPc, rSqFault]

theorem State.rd_captured_first (s : State) (c code src pc : Nat) (hfirst : bit (s.rd (rSqFault c)) 11 = false) :
    (s.captured c code src pc).rd (rSqFault c) = BitVec.ofNat 32 (code + src * 256 + 2048)
      ∧ (s.captured c code src pc).rd (rSqFaultPc c) = BitVec.ofNat 32 pc := by
  unfold State.captured
  rw [hfirst]
  constructor
  · rw [if_neg Bool.false_ne_true, State.rd_wr_ne, State.rd_wr_ne, State.rd_wr_same] <;> simp [rSqFaultBeat, rSqFaultPc, rSqFault]
  · rw [if_neg Bool.false_ne_true, State.rd_wr_ne, State.rd_wr_same]
    simp [rSqFaultBeat, rSqFaultPc]

theorem State.memGet_coreFault (s : State) (c code src pc g : Nat) : (s.coreFault c code src pc).memGet g = s.memGet g :=
  (Only.coreFault (ch := [.regs, .sc, .beat]) s c code src pc (by decide) (by decide) (by decide)) .mem (by decide) g

theorem State.core_coreFault (s : State) (c code src pc d : Nat) : (s.coreFault c code src pc).core d = s.core d :=
  (Only.coreFault (ch := [.regs, .sc, .beat]) s c code src pc (by decide) (by decide) (by decide)) .cores (by decide) d

/-- A core whose command ended with FAULT where it was to enter its queue. -/
theorem State.enqueue_of_full (s : State) (h : Hdr) (eng : Engine) (cmd : ECmd) (full : 64 ≤ ((s.core h.core).queue eng).length) :
    let k := s.core h.core
    ∃ l : Core, (∀ e, l.queue e = k.queue e) ∧ l.sq = { k.sq with seq := k.sq.seq + 1 } ∧ l.ends = k.ends ++ [(k.sq.seq, .fault)]
      ∧ s.enqueue h eng cmd = (s.coreFault h.core 0x10 0 k.sq.pc).setCore h.core l := by
  intro k
  unfold State.enqueue
  dsimp only
  rw [if_pos full]
  refine ⟨_, fun e => ?_, ?_, ?_, rfl⟩
  all_goals rw [State.core_coreFault]
  · cases h.mark <;> cases e <;> rfl
  · cases h.mark <;> rfl
  · cases h.mark <;> rfl

theorem overruns_of_full {i : Instr} {s : State} {h : Hdr} {eng : Engine} {ops : List Opnd} {mk : (Opnd → Word) → ECmd}
    (hexec : exec i s = .next (s.dispatch h eng ops mk)) (hr : SqReady s h (ops.flatMap Opnd.ctrs))
    (full : 64 ≤ ((s.core h.core).queue eng).length) : Overruns i h s := by
  obtain ⟨hcan, hpass⟩ := hr
  have hbusy : ((s.core h.core).queue eng).isEmpty = false := by
    rw [← Bool.not_eq_true, List.isEmpty_iff_length_eq_zero]
    omega
  obtain ⟨l, hqueue, hsq, hends, henq⟩ := s.enqueue_of_full h eng (mk (s.core h.core).sq.opnd) full
  obtain ⟨hown, -, -⟩ := SqIs.pastCmd ((s.coreFault h.core 0x10 0 (s.core h.core).sq.pc).setCore h.core l) h
  rw [State.core_setCore_same] at hown
  refine .of_eq (t := (s.enqueue h eng (mk (s.core h.core).sq.opnd)).pastCmd h) (hexec.trans (congrArg _ ?_)) ?_
  · simp [State.dispatch, hcan, hpass, hbusy]
  rw [henq]
  refine ⟨fun e => by rw [hown, Core.queue_sq, hqueue], ?_, by rw [hown, hends], ?_, fun hfirst => ⟨?_, ?_⟩, fun g => ?_⟩
  · rw [hown, hsq, Sq.Aside.nextSeq.past, Sq.past_seq]
  · rw [State.rd_pastCmd_other, State.rd_setCore_other, State.rd_coreFault, if_pos rfl, State.rd_captured_faultCount]
      <;> simp [rSqFaultCount, rLpStatus, rSqStatus, rSqMissCount]
  · rw [State.rd_pastCmd_other, State.rd_setCore_other, State.rd_coreFault, if_neg, (s.rd_captured_first _ _ _ _ hfirst).1]
      <;> simp [rSqFault, rSqFaultCount, rLpStatus, rSqStatus, rSqMissCount]
  · rw [State.rd_pastCmd_other, State.rd_setCore_other, State.rd_coreFault, if_neg, (s.rd_captured_first _ _ _ _ hfirst).2]
      <;> simp [rSqFaultPc, rSqFaultCount, rLpStatus, rSqStatus, rSqMissCount]
  · rw [State.memGet_pastCmd_other, State.memGet_setCore_other, State.memGet_coreFault]

/-- Settles O11: the overrun of each engine's queue. -/
theorem fullQueueOverruns : Obligations.FullQueueOverruns := by
  intro s h a b st v full
  exact ⟨overruns_of_full rfl, fun hr => ⟨overruns_of_full (ops := []) rfl hr, overruns_of_full (ops := []) rfl hr,
    overruns_of_full (ops := []) rfl hr, overruns_of_full (ops := []) rfl hr⟩⟩

end Sys2Proof.Machine

/-! Commands that are outstanding complete (08 R218, R219, R239; 03 R95). -/

namespace Sys2Proof.Machine

open Sys2Proof

theorem State.core_endIssued (s : State) (c d : Nat) (i : Issued) (e : CmdEnd) :
    (s.endIssued c i e).core d = if d = c then (s.core c).retire i.id i.mark e else s.core d := State.core_updCore s c d _

theorem State.failBeat_fail (s : State) : s.failBeat.beat.acc.fail = true := rfl

theorem State.coreMiss_fail (s : State) (c eng pc : Nat) : (s.coreMiss c eng pc).beat.acc.fail = true := by
  unfold State.coreMiss
  exact State.failBeat_fail _

theorem Only.endIssued (s : State) (c : Nat) (i : Issued) (e : CmdEnd) : Only [.cores] s (s.endIssued c i e) :=
  Only.updCore s c _ (by decide)

/-- A command ends in its own core alone. -/
theorem State.finishIssued_frame (s : State) (c : Nat) (i : Issued) :
    (s.finishIssued c i).core c = (s.core c).retire i.id i.mark .ok ∧ (∀ d, d ≠ c → (s.finishIssued c i).core d = s.core d)
      ∧ Only [.cores] s (s.finishIssued c i) :=
  ⟨by rw [State.finishIssued, State.core_endIssued, if_pos rfl],
    fun d hd => by rw [State.finishIssued, State.core_endIssued, if_neg hd], Only.endIssued s c i .ok⟩

/-- Whatever command of a number there is, it is outstanding no longer. -/
theorem State.finishId_frame (s : State) (c id : Nat) :
    ((s.finishId c id).core c).issued = (s.core c).issued.filter (fun i => decide (i.id ≠ id))
      ∧ (∀ d, d ≠ c → (s.finishId c id).core d = s.core d) ∧ Only [.cores] s (s.finishId c id) := by
  unfold State.finishId
  split
  next i hi =>
    obtain ⟨hown, hother, honly⟩ := s.finishIssued_frame c i
    have hid : i.id = id := by simpa using List.find?_some hi
    exact ⟨by rw [hown, ← hid]; rfl, hother, honly⟩
  next hnone =>
    refine ⟨(List.filter_eq_self.mpr fun i hi => ?_).symm, fun _ _ => rfl, .refl _ s⟩
    simpa using List.find?_eq_none.mp hnone i hi

/-- The state with a release taken off those the flag bank gave. -/
def State.tookRelease (s : State) (rel : Nat × Nat) : State :=
  { s with flags := { s.flags with releases := s.flags.releases.erase rel } }

/-- Settles O15: each event finds its command and ends it. -/
theorem commandsComplete : Obligations.CommandsComplete := by
  intro s c eng id i rel
  refine ⟨fun hi => ?_, fun hi hfence => ?_, fun hrel => ?_, fun hi => ?_⟩
  · exact .of_eq (by simp only [exec, execCommandComplete, hi]) (s.finishIssued_frame c i)
  · exact .of_eq (by simp only [exec, execFenceRelease, hi, hfence, if_true]) (s.finishIssued_frame c i)
  · obtain ⟨hissued, hother, honly⟩ := (s.tookRelease rel).finishId_frame c rel.2
    have hexec : exec (.waitRelease c) s = .next (((s.tookRelease rel).finishId c rel.2).updCore c fun k =>
        { k with wait := { k.wait with active := false } }) := by
      simp only [exec, execWaitRelease, hrel]
      rfl
    refine .of_eq hexec ⟨congrArg Flags.releases (honly .flags (by decide)), by rw [State.core_updCore_same], ?_, fun d hd => ?_, ?_⟩
    · rw [State.core_updCore_same]
      exact hissued
    · rw [State.core_updCore, if_neg hd, hother d hd]
      rfl
    · exact (Only.flags s _ (by decide)).trans ((honly.mono (by decide)).trans (Only.updCore _ _ _ (by decide)))
  · refine .of_eq (by simp only [exec, execMeSheetStall, hi]; rfl) ?_
    have hmiss : Only [.regs, .sc, .beat] s ((s.coreFault c 0x29 1 i.pc).coreMiss c 1 i.pc) :=
      (Only.coreFault s c 0x29 1 i.pc (by decide) (by decide) (by decide)).trans
        (Only.coreMiss _ c 1 i.pc (by decide) (by decide) (by decide))
    have hend := Only.endIssued ((s.coreFault c 0x29 1 i.pc).coreMiss c 1 i.pc) c i .fault
    refine ⟨?_, fun g => (hend .mem (by decide) g).trans (hmiss .mem (by decide) g), fun d hd => ?_, ?_⟩
    · rw [State.core_endIssued, if_pos rfl, hmiss .cores (by decide) c]
      rfl
    · rw [State.core_endIssued, if_neg hd, hmiss .cores (by decide) d]
    · rw [hend .beat (by decide), State.coreMiss_fail]

end Sys2Proof.Machine

/-! Slice memory (05): what reading and writing bytes changes, and what a byte reads once bytes were written. -/

namespace Sys2Proof.Machine

open Sys2Proof

/-! ### Which groups of state a read and a write of memory change -/

/-- Reading granules changes these alone: the records of errors found, the write-backs pending, the verdict of the beat. -/
def foundGroups : List Grp := [.regs, .beat, .banks, .poisonPending, .sc]
/-- Writing bytes changes these alone. -/
def writtenGroups : List Grp := [.regs, .beat, .banks, .poisonPending, .sc, .mem, .ecc]

theorem Only.setBank {ch : List Grp} (s : State) (c b : Nat) (k : Bank) (h : Grp.banks ∈ ch) : Only ch s (s.setBank c b k) :=
  Only.banks s _ h

theorem Only.setEcc {ch : List Grp} (s : State) (g : Nat) (e : Ecc) (h : Grp.ecc ∈ ch) : Only ch s (s.setEcc g e) := Only.ecc s _ h

theorem Only.bumpN {ch : List Grp} (s : State) (a n : Nat) (h : Grp.regs ∈ ch) : Only ch s (s.bumpN a n) := by
  unfold State.bumpN
  exact .ite (Only.refl _ _) (Only.wr s _ _ h)

theorem Only.touch (s : State) (g : Nat) (sched : Bool) : Only foundGroups s (s.touch g sched) := by
  unfold State.touch
  extract_lets c p s1 b u1 u2 u3 v1
  split
  case h_1 => exact .refl _ _
  case h_2 =>
    have h1 : Only foundGroups s s1 := (Only.setBit _ _ _ (by decide)).trans (Only.bump _ _ (by decide))
    exact .ite (h1.trans (.setBank _ _ _ _ (by decide))) h1
  case h_3 =>
    have h1 : Only foundGroups s u1 := (Only.setBit _ _ _ (by decide)).trans (Only.bump _ _ (by decide))
    have h2 : Only foundGroups u1 u2 := .ite (.refl _ _) (Only.wr _ _ _ (by decide))
    have h3 : Only foundGroups u2 u3 := .poisonPending _ _ (by decide)
    exact h1.trans (h2.trans (h3.trans ((Only.event _ _ _ _ _ _ _ (by decide) (by decide)).trans (Only.failBeat _ (by decide)))))
  case h_4 =>
    have h1 : Only foundGroups s v1 := (Only.setBit _ _ _ (by decide)).trans (Only.bump _ _ (by decide))
    exact .ite (h1.trans (Only.failBeat _ (by decide))) h1

theorem Only.touchBeside (s : State) (g : Nat) : Only foundGroups s (s.touchBeside g) := .ite (.refl _ _) (.touch s g false)

theorem Only.checkRows (s : State) (rs : List (Nat × Nat)) (sched : Bool) : Only foundGroups s (s.checkRows rs sched) :=
  (Only.foldl (fun (t : State) (g : Nat) => t.touch g sched) _ s fun t x => .touch t x sched).trans (.foldl State.touchBeside _ _ .touchBeside)

theorem Only.touchRanges (s : State) (c : Nat) (rs : List (Nat × Nat)) : Only foundGroups s (s.touchRanges c rs) := .checkRows s _ true

theorem Only.memPut (s : State) (ws : List (Nat × Byte)) : Only [.mem] s (s.memPut ws) :=
  .foldl (fun (t : State) (w : Nat × Byte) => t.memSet w.1 w.2) ws s fun t w => .memSet t w.1 w.2 (by decide)

theorem Only.mergeTouch (s : State) (g : Nat) : Only (.ecc :: foundGroups) s (s.mergeTouch g) := by
  have htouch : Only (.ecc :: foundGroups) s (s.touch g false) := (Only.touch s g false).mono (by decide)
  exact .ite (htouch.trans (.setEcc _ _ _ (by decide))) htouch

theorem Only.dropCorr (s : State) (hit : Nat → Bool) : Only [.banks] s (s.dropCorr hit) := by
  refine .foldl _ s.banks s fun t x => ?_
  dsimp only
  split
  · exact .ite (.banks _ _ (by decide)) (.refl _ _)
  · exact .refl _ _

theorem Only.cleanGranule (s : State) (g : Nat) : Only [.ecc, .poisonPending] s (s.cleanGranule g) :=
  (Only.setEcc s g .clean (by decide)).trans (.poisonPending _ _ (by decide))

/-- Before its bytes stand, a write finds errors and settles check states. -/
theorem State.writeMasked_eq (s : State) (ws : List (Nat × Byte)) (half : List Nat) :
    ∃ u, Only (.ecc :: foundGroups) s u ∧ s.writeMasked ws half = u.memPut ws := by
  refine ⟨_, ?_, rfl⟩
  refine Only.trans ?_ ((Only.dropCorr _ _).mono (by decide))
  refine Only.trans ?_ (.foldl State.cleanGranule _ _ fun t g => (Only.cleanGranule t g).mono (by decide))
  exact (Only.foldl State.mergeTouch _ s .mergeTouch).trans (.foldl State.touchBeside _ _ fun t g => (Only.touchBeside t g).mono (by decide))

theorem Only.writeMasked (s : State) (ws : List (Nat × Byte)) (half : List Nat) : Only writtenGroups s (s.writeMasked ws half) := by
  obtain ⟨u, hu, hw⟩ := s.writeMasked_eq ws half
  rw [hw]
  exact (hu.mono (by decide)).trans ((Only.memPut u ws).mono (by decide))

theorem Only.writeAt (s : State) (c : Nat) (ws : List (Nat × Byte)) : Only writtenGroups s (s.writeAt c ws) := .writeMasked s _ _

theorem Only.writeG (s : State) (ws : List (Nat × Byte)) : Only writtenGroups s (s.writeG ws) := .writeMasked s _ _

theorem Only.slcRecord {ch : List Grp} (s : State) (o : Origin) (p c : Nat) (x : Bad) (hr : Grp.regs ∈ ch) (hs : Grp.sc ∈ ch) :
    Only ch s (s.slcRecord o p c x) := by
  have hbit : Only ch s (if s.coreExists c then s.setBit (rSlcStatus c) (slcBit x.code) else s) := .ite (.setBit _ _ _ hr) (.refl _ _)
  exact .ite (hbit.trans (.log _ _ _ _ _ _ _ hr hs)) hbit

theorem Only.sliceFault {ch : List Grp} (s : State) (c : Nat) (x : Bad) (pc : Nat) (hr : Grp.regs ∈ ch) (hs : Grp.sc ∈ ch)
    (hb : Grp.beat ∈ ch) : Only ch s (s.sliceFault c x pc) :=
  (Only.slcRecord s _ _ c x hr hs).trans (.coreFault _ _ _ _ _ hr hs hb)

/-! ### What a byte reads after a write -/

theorem State.memGet_memPut_other (s : State) (ws : List (Nat × Byte)) (g : Nat) (h : ∀ w ∈ ws, w.1 ≠ g) :
    (s.memPut ws).memGet g = s.memGet g := by
  induction ws generalizing s with
  | nil => rfl
  | cons w r ih =>
    have hw : g ≠ w.1 := fun e => h w (by simp) e.symm
    exact (ih (s.memSet w.1 w.2) fun x hx => h x (by simp [hx])).trans (by rw [State.memGet_memSet, if_neg hw])

theorem State.memPut_append (s : State) (l m : List (Nat × Byte)) : s.memPut (l ++ m) = (s.memPut l).memPut m := List.foldl_append

/-- The last write of a byte is the one that stands. -/
theorem State.memGet_memPut_last (s : State) (l m : List (Nat × Byte)) (w : Nat × Byte) (h : ∀ x ∈ m, x.1 ≠ w.1) :
    (s.memPut (l ++ w :: m)).memGet w.1 = w.2 := by
  rw [State.memPut_append]
  exact (State.memGet_memPut_other _ m w.1 h).trans (by rw [State.memGet_memSet, if_pos rfl])

theorem State.memGet_memPut_congr {s u : State} (ws : List (Nat × Byte)) {g : Nat} (h : u.memGet g = s.memGet g) :
    (u.memPut ws).memGet g = (s.memPut ws).memGet g := by
  induction ws generalizing s u with
  | nil => exact h
  | cons w r ih => exact ih (by rw [State.memGet_memSet, State.memGet_memSet, h])

theorem State.memGet_writeMasked (s : State) (ws : List (Nat × Byte)) (half : List Nat) (g : Nat) :
    (s.writeMasked ws half).memGet g = (s.memPut ws).memGet g := by
  obtain ⟨u, hu, hw⟩ := s.writeMasked_eq ws half
  rw [hw, State.memGet_memPut_congr ws (hu .mem (by decide) g)]

/-! ### Consecutive bytes -/

theorem spread_cons (a : Nat) (b : Byte) (bs : List Byte) : spread a (b :: bs) = (a, b) :: spread (a + 1) bs := by
  simp [spread, List.range_succ_eq_map, List.zip_map_left, Nat.add_assoc, Nat.add_comm 1]

theorem spread_append (a : Nat) (l m : List Byte) : spread a (l ++ m) = spread a l ++ spread (a + l.length) m := by
  induction l generalizing a with
  | nil => rfl
  | cons b l ih => simp [spread_cons, ih, Nat.add_assoc, Nat.add_comm 1]

theorem mem_spread {a x : Nat} {b : Byte} {bs : List Byte} : (x, b) ∈ spread a bs ↔ ∃ i, x = a + i ∧ bs[i]? = some b := by
  induction bs generalizing a with
  | nil => simp [spread]
  | cons d bs ih =>
    rw [spread_cons, List.mem_cons, ih]
    constructor
    · rintro (h | ⟨i, rfl, hi⟩)
      · obtain ⟨rfl, rfl⟩ := Prod.mk.inj h
        exact ⟨0, rfl, rfl⟩
      · exact ⟨i + 1, by omega, hi⟩
    · rintro ⟨i, rfl, hi⟩
      cases i with
      | zero => exact .inl (by simpa using hi.symm)
      | succ i => exact .inr ⟨i, by omega, hi⟩

/-- Consecutive bytes cut at one of them. -/
theorem spread_split (a : Nat) (bs : List Byte) (i : Nat) (hi : i < bs.length) :
    spread a bs = spread a (bs.take i) ++ (a + i, bs[i]) :: spread (a + i + 1) (bs.drop (i + 1)) := by
  conv => lhs; rw [← List.take_append_drop i bs, List.drop_eq_getElem_cons hi]
  rw [spread_append, spread_cons, List.length_take, Nat.min_eq_left (Nat.le_of_lt hi)]

/-- A byte of a write through the translation reads what was written, where no later byte of it lies there. -/
theorem State.memGet_writeAt_spread (s : State) (c a : Nat) (bs : List Byte) (i g : Nat) (hi : i < bs.length)
    (hg : s.xlateG c (a + i) = some g) (hlast : ∀ j, i < j → j < bs.length → s.xlateG c (a + j) ≠ some g) :
    (s.writeAt c (spread a bs)).memGet g = bs[i] := by
  unfold State.writeAt State.writeHalf
  rw [State.memGet_writeMasked, spread_split a bs i hi, List.filterMap_append, List.filterMap_cons, hg]
  refine State.memGet_memPut_last s _ _ (g, bs[i]) fun x hx hxg => ?_
  obtain ⟨⟨y, b⟩, hy, hyx⟩ := List.mem_filterMap.mp hx
  obtain ⟨k, rfl, hk⟩ := mem_spread.mp hy
  obtain ⟨z, hz, rfl⟩ := Option.map_eq_some_iff.mp hyx
  have hlen : k < (bs.drop (i + 1)).length := (List.getElem?_eq_some_iff.mp hk).1
  rw [List.length_drop] at hlen
  refine hlast (i + 1 + k) (by omega) (by omega) ?_
  rw [show a + (i + 1 + k) = a + i + 1 + k by omega]
  exact hz.trans (congrArg some hxg)

/-- A byte that none of the written addresses reaches stands. -/
theorem State.memGet_writeAt_other (s : State) (c : Nat) (ws : List (Nat × Byte)) (g : Nat) (h : ∀ w ∈ ws, s.xlateG c w.1 ≠ some g) :
    (s.writeAt c ws).memGet g = s.memGet g := by
  unfold State.writeAt State.writeHalf
  rw [State.memGet_writeMasked]
  refine State.memGet_memPut_other s _ g fun x hx hxg => ?_
  obtain ⟨w, hw, hwx⟩ := List.mem_filterMap.mp hx
  obtain ⟨z, hz, rfl⟩ := Option.map_eq_some_iff.mp hwx
  exact h w hw (hz.trans (congrArg some hxg))

theorem State.memGet_writeAt_spread_other (s : State) (c a : Nat) (bs : List Byte) (g : Nat)
    (h : ∀ i, i < bs.length → s.xlateG c (a + i) ≠ some g) : (s.writeAt c (spread a bs)).memGet g = s.memGet g := by
  refine s.memGet_writeAt_other c _ g fun w hw => ?_
  obtain ⟨i, hwi, hi⟩ := mem_spread.mp (show (w.1, w.2) ∈ spread a bs from hw)
  exact hwi ▸ h i (List.getElem?_eq_some_iff.mp hi).1

/-- Bytes written at global addresses stand there. -/
theorem State.memGet_writeG_spread (s : State) (a : Nat) (bs : List Byte) (i : Nat) (hi : i < bs.length) :
    (s.writeG (spread a bs)).memGet (a + i) = bs[i] := by
  unfold State.writeG
  rw [State.memGet_writeMasked, spread_split a bs i hi]
  refine State.memGet_memPut_last s _ _ (a + i, bs[i]) fun x hx => ?_
  obtain ⟨k, hk, -⟩ := mem_spread.mp (show (x.1, x.2) ∈ _ from hx)
  show x.1 ≠ a + i
  omega

theorem State.memGet_writeG_spread_other (s : State) (a : Nat) (bs : List Byte) (g : Nat) (h : g < a ∨ a + bs.length ≤ g) :
    (s.writeG (spread a bs)).memGet g = s.memGet g := by
  unfold State.writeG
  rw [State.memGet_writeMasked]
  refine State.memGet_memPut_other s _ g fun x hx => ?_
  obtain ⟨i, hxi, hi⟩ := mem_spread.mp (show (x.1, x.2) ∈ _ from hx)
  have := (List.getElem?_eq_some_iff.mp hi).1
  omega

end Sys2Proof.Machine

/-! The sequencer at memory: the fetch, narrow loads and stores, packets (06 R172, R173, R185, R186). -/

namespace Sys2Proof.Machine

open Sys2Proof

theorem State.core_touchRanges (s : State) (c : Nat) (rs : List (Nat × Nat)) (d : Nat) : (s.touchRanges c rs).core d = s.core d :=
  Only.touchRanges s c rs .cores (by decide) d

theorem State.memGet_touchRanges (s : State) (c : Nat) (rs : List (Nat × Nat)) (g : Nat) : (s.touchRanges c rs).memGet g = s.memGet g :=
  Only.touchRanges s c rs .mem (by decide) g

/-- Settles O49: a word that is not poisoned is at hand, a poisoned one stops the SQ. -/
theorem sqFetches : Obligations.SqFetches := by
  intro s c q a hruns hrun hended hpoison havail
  have hmay : (s.coreRuns c && (s.core c).sq.run && !(s.core c).sq.ended && !(s.core c).sq.poison
      && decide ((s.core c).sq.avail < 16)) = true := by
    simp [hruns, hrun, hended, hpoison, havail, q]
  refine ⟨fun hclean hcheck => ?_, fun hbad => ?_⟩
  · have hexec : exec (.sqFetch c) s = .next ((s.touchRanges c [(a, 8)]).updSq c fun q => { q with avail := q.avail + 1 }) := by
      simp only [exec, execSqFetch]
      rw [if_pos hmay, if_neg (ne_true_of_eq_false hclean), hcheck]
    refine .of_eq hexec ⟨?_, fun k hk => ?_, fun g => ?_⟩
    · rw [State.core_updSq, if_pos rfl, State.core_touchRanges]
    · rw [State.core_updSq, if_neg hk, State.core_touchRanges]
    · rw [State.memGet_updSq_other, State.memGet_touchRanges]
  · have hexec : exec (.sqFetch c) s = .next (((((s.touchRanges c [(a, 8)]).setBit (rSqStatus c) 7).gather 0x14 0 0 (s.partNo c) c
        (BitVec.ofNat 32 q.pc)).failBeat).updSq c fun q => { q with poison := true }) := by
      simp only [exec, execSqFetch]
      rw [if_pos hmay, if_pos hbad]
    refine .of_eq hexec ⟨?_, ?_, ?_, fun g => ?_⟩
    · rw [State.core_updSq, if_pos rfl, State.core_failBeat_other, State.core_gather_other, State.core_setBit_other, State.core_touchRanges]
    · rw [State.rd_updSq_other, State.rd_failBeat_other, State.rd_gather_other, State.rd_setBit, if_pos rfl, bit_setFld_one _ _ (by decide)]
    · rw [State.updSq_beat, State.failBeat_fail]
    · rw [State.memGet_updSq_other, State.memGet_failBeat_other, State.memGet_gather_other, State.memGet_setBit_other,
        State.memGet_touchRanges]

theorem length_leBytes (n v : Nat) : (leBytes n v).length = n := by simp [leBytes]

theorem getElem_leBytes (n v i : Nat) (h : i < (leBytes n v).length) : (leBytes n v)[i] = BitVec.ofNat 8 (v / 256 ^ i) := by
  simp [leBytes]

theorem Sq.past_loads (q : Sq) (words : Nat) : (q.past words).loads = q.loads := by
  obtain ⟨_, _, _, hpast⟩ := q.past_frame words
  rw [hpast]

/-- A change of the sequencer that runs, done after one of the other state, and moved past the command. -/
theorem State.sqDo_frame {s u : State} {h : Hdr} {f g : Sq → Sq} (hcore : ∀ c, u.core c = s.core c)
    (hfg : f (s.core h.core).sq = g (s.core h.core).sq) (hg : Sq.Aside g) :
    ((u.sqDo h f).core h.core).sq = g ((s.core h.core).sq.past h.words) ∧ ∀ c, c ≠ h.core → (u.sqDo h f).core c = s.core c := by
  obtain ⟨hown, hother, -⟩ := SqEffect.sqDo (s := u) (h := h) (f := f) (g := g) (by rw [hcore, hfg]) hg
  exact ⟨by rw [hown, hcore], fun c hc => (hother c hc).trans (hcore c)⟩

/-- Settles O6: the load waits, its value arrives, the store writes its bytes. -/
theorem sqReadsAndWritesMemory : Obligations.SqReadsAndWritesMemory := by
  intro s h size cd ca cs imm q a n
  refine ⟨fun hr hfree halign hcheck => ?_, fun c l r hl hp => ?_, fun hr halign hcheck => ?_⟩
  · let l : PendLoad := ⟨q.seq, q.pc, cd, BitVec.ofNat 32 (s.readLe h.core a n), s.bytePoisoned h.core a⟩
    obtain ⟨hsq, hother⟩ := State.sqDo_frame (s := s) (u := s.touchRanges h.core [(a, n)]) (h := h)
      (f := fun q => { q with loads := q.loads ++ [l], seq := q.seq + 1 })
      (g := fun r => { r with loads := r.loads ++ [l], seq := q.seq + 1 }) (fun c => State.core_touchRanges _ _ _ c) rfl (.addLoad l _)
    have hbody : exec (.sqLd h size cd ca imm) s
        = .next ((s.touchRanges h.core [(a, n)]).sqDo h fun q => { q with loads := q.loads ++ [l], seq := q.seq + 1 }) := by
      refine congrArg Host.Outcome.next ((State.sq_of_ready (ops := []) _ hr).trans ?_)
      dsimp only
      rw [if_neg (ne_true_of_eq_false (congrArg not hfree)), if_neg (not_not.mpr halign), hcheck]
    refine .of_eq hbody ⟨?_, fun g => ?_, hother⟩
    · rw [hsq, Sq.past_loads]
    · rw [State.memGet_sqDo_other, State.memGet_touchRanges]
  · have hexec : exec (.sqLdValue c) s
        = .next ((s.updSq c fun q => { q with loads := r }).updSq c fun q => { q with ctr := q.ctr.set l.ctr l.value }) := by
      show execSqLdValue c s = _
      unfold execSqLdValue
      rw [hl]
      dsimp only
      rw [if_neg (ne_true_of_eq_false hp)]
    refine .of_eq hexec ⟨?_, fun d hd => ?_, ?_⟩
    · rw [State.core_updSq, if_pos rfl, State.core_updSq, if_pos rfl]
    · rw [State.core_updSq, if_neg hd, State.core_updSq, if_neg hd]
    · exact (Only.updSq s c _ (by decide)).trans (.updSq _ c _ (by decide))
  · let bs := leBytes n q.ctr[cs].toNat
    let u := s.updCore h.core fun k => { k with ordOvf := k.ordOvf || decide (64 ≤ k.track.length) }
    have hlen : bs.length = n := length_leBytes _ _
    have hbody : exec (.sqSt h size ca imm cs) s = .next ((u.writeAt h.core (spread a bs)).pastCmd h) := by
      refine congrArg Host.Outcome.next ((State.sq_of_ready (ops := []) _ hr).trans ?_)
      dsimp only
      rw [if_neg (not_not.mpr halign), hcheck]
    have hwrite (c : Nat) : (u.writeAt h.core (spread a bs)).core c = u.core c := Only.writeAt u h.core _ .cores (by decide) c
    obtain ⟨hown, hother, -⟩ := SqIs.pastCmd (u.writeAt h.core (spread a bs)) h
    refine .of_eq hbody ⟨?_, fun i g hi hg hlast => ?_, fun g hg => ?_, fun c hc => ?_⟩
    · rw [hown, hwrite, State.core_updCore_same]
    · rw [State.memGet_pastCmd_other, State.memGet_writeAt_spread u h.core a bs i g (hlen ▸ hi) hg fun j hj hjn => hlast j hj (hlen ▸ hjn),
        getElem_leBytes]
    · rw [State.memGet_pastCmd_other, State.memGet_writeAt_spread_other u h.core a bs g fun i hi => hg i (hlen ▸ hi)]
      rfl
    · rw [hother c hc, hwrite, State.core_updCore, if_neg hc]

/-! ### Packets offered by a core -/

/-- A core has one port. -/
theorem State.portFor_core (s : State) {c : Nat} (hc : s.coreExists c = true) : s.portFor c = c := by
  have hrows : s.rows ≤ 15 := by
    unfold State.rows Fuses.gridRows
    split <;> omega
  have hlt : c < 16 * s.rows := of_decide_eq_true hc
  have hone : ¬(0x101 ≤ c ∧ c ≤ 0x103) := by omega
  simp [State.portFor, portsOf, hone]

/-- A core whose command may dispatch is one of the grid. -/
theorem State.coreExists_of_canDispatch {s : State} {h : Hdr} {cs : List Ctr} (hcan : s.canDispatch h cs = true) :
    s.coreExists h.core = true := by
  simp only [State.canDispatch, State.coreRuns, Bool.and_eq_true] at hcan
  tauto

/-- What an offer adds to the port of its endpoint. -/
theorem State.waitingAt_offer (s : State) (p : Packet) (c : Nat) (hp : s.portFor p.src = c) :
    ∃ n, (s.offer p).waitingAt c = s.waitingAt c ++ [{ p with seq := n }] := by
  refine ⟨Sparse.get (fun _ => 0) s.drift.seqs (p.src * 65536 + p.dst), ?_⟩
  unfold State.offer
  dsimp only
  rw [hp]
  exact Laws.get_set_same _ _ _ _

/-- Settles O7: the packet waits at the core's port with the bytes read. -/
theorem sqPosts : Obligations.SqPosts := by
  intro s h unit src kind q u a hr hpresent halign hcheck
  let bad := (List.range 6).any fun i => s.bytePoisoned h.core (a + 8 * i)
  let p : Packet := ⟨u, h.core, kind, (s.corePart h.core).secure, bad, true, 0, 0, 0, 48, s.partNo h.core, 0, s.readBytes h.core a 48⟩
  let r := s.touchRanges h.core [(a, 48)]
  have hops : [unit, src].flatMap Opnd.ctrs ++ [] = Opnd.ctrs unit ++ Opnd.ctrs src := by simp
  have hnone : ((List.range 6).findSome? fun i => s.checkRange h.core (a + 8 * i) 8) = none :=
    List.findSome?_eq_none_iff.mpr fun i hi => hcheck i (List.mem_range.mp hi)
  have hbody : exec (.sqPost h unit kind src) s = .next ((r.offer p).sqDo h fun q => { q with hold := some .post }) := by
    refine congrArg Host.Outcome.next ((State.sq_of_ready (ops := [unit, src]) (cs := []) _ (hops ▸ hr)).trans ?_)
    dsimp only
    rw [if_neg (ne_true_of_eq_false (congrArg not hpresent)), if_neg (not_not.mpr halign), hnone]
  have htouch : Only foundGroups s r := .touchRanges s h.core _
  have hoffer : Only [.drift] r (r.offer p) := Only.drift r _ (by decide)
  have hcore (c : Nat) : (r.offer p).core c = s.core c := (hoffer .cores (by decide) c).trans (htouch .cores (by decide) c)
  obtain ⟨hsq, hother⟩ := State.sqDo_frame (h := h) (f := fun q => { q with hold := some .post }) hcore rfl (.hold _)
  refine .of_eq hbody ⟨hsq, ?_, fun g => ?_, hother⟩
  · have hport : r.portFor p.src = h.core := State.portFor_core r (by
      show decide (h.core < 16 * r.rows) = true
      rw [State.rows, htouch .fuses (by decide)]
      exact State.coreExists_of_canDispatch hr.1)
    obtain ⟨n, hn⟩ := r.waitingAt_offer p h.core hport
    refine ⟨{ p with seq := n }, ?_, rfl, rfl, rfl, rfl⟩
    have hdrift : r.waitingAt h.core = s.waitingAt h.core := by
      rw [State.waitingAt, htouch .drift (by decide)]
      rfl
    show (r.offer p).waitingAt h.core = s.waitingAt h.core ++ [{ p with seq := n }]
    rw [hn, hdrift]
  · rw [State.memGet_sqDo_other, hoffer .mem (by decide), htouch .mem (by decide)]

end Sys2Proof.Machine

/-! The port of a bank (05 R145 to R153, R163, R165). -/

namespace Sys2Proof.Machine

open Sys2Proof

theorem State.bank_setBank (s : State) (c b : Nat) (k : Bank) : (s.setBank c b k).bank c b = k := Laws.get_set_same _ _ _ _

theorem State.bumpN_zero (s : State) (a : Nat) : s.bumpN a 0 = s := if_pos rfl

theorem State.upset_nil (s : State) (c : Nat) : s.upset c [] = s := rfl

/-- The bank's own part of a cycle: the others wait one more, and the conflicts are counted. -/
def State.cycled (s : State) (c b : Nat) : State :=
  (s.setBank c b ((s.bank c b).after (s.choose c b))).bumpN (rSlcConflicts c)
    ((((s.bank c b).after (s.choose c b)).waiting.filter fun r => decide (BankUser.cls r.1.user = 1)).length)

theorem State.bankCycle_eq (s : State) (c b : Nat) : s.bankCycle c b = match s.choose c b with
    | some (.req r) => if r.1.user = .scrub then (s.cycled c b).scrubRow c b else (s.cycled c b).portAccess c r.1
    | some (.poison x) => (s.cycled c b).poisonBack x
    | some (.corr x) => (s.cycled c b).corrBack c b x
    | none => s.cycled c b := rfl

theorem Only.cycled (s : State) (c b : Nat) : Only [.banks, .regs] s (s.cycled c b) :=
  (Only.setBank s c b _ (by decide)).trans (.bumpN _ _ _ (by decide))

theorem State.granule_of_only {s t : State} (h : Only [.banks, .regs] s t) (g : Nat) : t.granule g = s.granule g := by
  unfold State.granule
  rw [h .ecc (by decide), h .poisonPending (by decide)]

theorem State.granule_setEcc (s : State) (g : Nat) (e : Ecc) :
    (s.setEcc g e).granule g = if e ≠ .poison ∧ s.poisonPending.contains g then .poison else e := by
  unfold State.granule State.setEcc
  dsimp only
  rw [Laws.get_set_same]

/-- A granule with an error to correct has no poison write-back pending. -/
theorem State.not_pending_of_single {s : State} {g : Nat} (h : s.granule g = .single) : s.poisonPending.contains g = false := by
  unfold State.granule at h
  dsimp only at h
  split at h
  · cases h
  next hp =>
    rw [h] at hp
    simpa using hp

theorem State.corrBack_frame (s : State) (c b g : Nat) :
    ((s.corrBack c b g).bank c b).corr = none ∧ (s.granule g = .single → (s.corrBack c b g).granule g = .clean)
      ∧ Only [.banks, .ecc] s (s.corrBack c b g) := by
  have hset : Only [.banks, .ecc] s (s.setBank c b { s.bank c b with corr := none }) := .setBank s c b _ (by decide)
  unfold State.corrBack
  extract_lets k s1
  have hcorr : (s1.bank c b).corr = none := by rw [State.bank_setBank]
  split
  next hsingle =>
    refine ⟨hcorr, fun _ => ?_, hset.trans (.setEcc _ _ _ (by decide))⟩
    rw [State.granule_setEcc, if_neg]
    rw [show s1.poisonPending = s.poisonPending from rfl, State.not_pending_of_single hsingle]
    decide
  next hother => exact ⟨hcorr, fun h => absurd h hother, hset⟩

theorem State.poisonBack_frame (s : State) (g : Nat) :
    (s.poisonBack g).granule g = .poison ∧ g ∉ (s.poisonBack g).poisonPending ∧ Only [.ecc, .poisonPending] s (s.poisonBack g) := by
  refine ⟨?_, by simp [State.poisonBack], (Only.setEcc s g _ (by decide)).trans (.poisonPending _ _ (by decide))⟩
  unfold State.poisonBack State.granule State.setEcc
  dsimp only
  rw [Laws.get_set_same]
  rfl

/-- A byte written once reads what was written. -/
theorem State.memGet_memPut_of_mem (s : State) {ws : List (Nat × Byte)} (hnodup : (ws.map (·.1)).Nodup) {w : Nat × Byte} (hw : w ∈ ws) :
    (s.memPut ws).memGet w.1 = w.2 := by
  obtain ⟨l, m, rfl⟩ := List.append_of_mem hw
  refine s.memGet_memPut_last l m w fun x hx e => ?_
  rw [List.map_append, List.map_cons, List.nodup_append] at hnodup
  obtain ⟨-, hm, -⟩ := hnodup
  exact (List.nodup_cons.mp hm).1 (e ▸ List.mem_map_of_mem hx)

theorem nibbled_zero (old new : Byte) : nibbled old new 0 = old := by
  unfold nibbled
  apply BitVec.eq_of_toNat_eq
  simp
  omega

/-! ### A request that comes to an idle bank -/

theorem mem_class1_of_cls {u : BankUser} (h : BankUser.cls u = 1) : u ∈ class1 := by
  cases u <;> simp [BankUser.cls, class1] at h ⊢

theorem firstOf_singleton {us : List BankUser} {q : BankReq} (n : Nat) (h : q.user ∈ us) : firstOf us [(q, n)] = some (q, n) := by
  unfold firstOf
  induction us with
  | nil => cases h
  | cons u r ih =>
    rw [List.findSome?_cons]
    by_cases hu : q.user = u
    · simp [hu]
    · simpa [hu] using ih ((List.mem_cons.mp h).resolve_left hu)

/-- A well-formed request of class 1 for a bank where none waits is granted in the cycle in which it is presented. -/
theorem bankGrant_idle {s : State} {c a : Nat} {b : Fin 48} {q : BankReq} (hruns : s.bankRuns c = true) (hok : reqOk q = true)
    (haddr : s.portAddr c q = .ok a) (hbank : bankOf a = b.val) (hcls : BankUser.cls q.user = 1)
    (hidle : (s.bank c b.val).waiting = []) :
    ∃ x, exec (.bankGrant c b [q] []) s = .next (State.portAccess { s with banks := x } c q) := by
  let k0 : Bank := { s.bank c b.val with waiting := [(q, 0)] }
  let s1 := s.setBank c b.val k0
  have hpresent : s.present c b.val q = s1 := by
    unfold State.present
    rw [if_neg (ne_true_of_eq_false (congrArg not hok)), haddr]
    dsimp only
    rw [if_neg (by simp [hbank, hcls]), hidle, List.nil_append]
  have hwait : s1.bank c b.val = k0 := s.bank_setBank c b.val k0
  have hchoose : s1.choose c b.val = some (.req (q, 0)) := by
    unfold State.choose
    rw [hwait]
    simp [k0, firstOf_singleton 0 (mem_class1_of_cls hcls)]
  have hscrub : ¬ q.user = .scrub := by
    intro h
    rw [h] at hcls
    cases hcls
  have hruns1 : s1.bankRuns c = true := hruns
  have hcycled : s1.cycled c b.val = s1.setBank c b.val (k0.after (some (.req (q, 0)))) := by
    unfold State.cycled
    rw [hchoose, hwait]
    have hnone : (k0.after (some (.req (q, 0)))).waiting = [] := by simp [Bank.after, k0]
    rw [hnone, List.filter_nil, List.length_nil, State.bumpN_zero]
  refine ⟨(s1.setBank c b.val (k0.after (some (.req (q, 0))))).banks, ?_⟩
  show execBankGrant c b [q] [] s = _
  unfold execBankGrant
  dsimp only
  rw [State.upset_nil, List.foldl_cons, List.foldl_nil, hpresent, if_pos hruns1, State.bankCycle_eq, hchoose, hcycled]
  dsimp only
  rw [if_neg hscrub]
  rfl

theorem State.memGet_checkRows (s : State) (rs : List (Nat × Nat)) (sched : Bool) (g : Nat) : (s.checkRows rs sched).memGet g = s.memGet g :=
  Only.checkRows s rs sched .mem (by decide) g

theorem getD_map_range {α : Type} (n i : Nat) (f : Nat → α) (d : α) (h : i < n) : ((List.range n).map f).getD i d = f i := by
  simp [h]

/-- A granted read of granules that are not poisoned delivers the bytes enabled and marks none. -/
theorem State.portRead_clean (s : State) (g : Nat) (q : BankReq)
    (hclean : ∀ i, i < reqBytes q → s.granulePoisoned ((g + i) / 8) = false) (hdvd : 8 ∣ reqBytes q) :
    (s.portRead g q).out = s.out ++ [.mem ((List.range (reqBytes q)).map fun i => if q.en.getD (i / 8) false then s.memGet (g + i) else 0)
        (List.replicate (reqBytes q / 8) false)]
      ∧ Only (.free :: .out :: foundGroups) s (s.portRead g q) := by
  have hbytes : (s.deliver g (reqBytes q)).1 = (List.range (reqBytes q)).map fun i => s.memGet (g + i) := by
    refine List.map_congr_left fun i hi => ?_
    rw [if_neg (ne_true_of_eq_false (hclean i (List.mem_range.mp hi)))]
  have hpoison (l : List Nat) : ((List.range (reqBytes q / 8)).map fun i => l.contains i && s.granulePoisoned (g / 8 + i))
      = List.replicate (reqBytes q / 8) false := by
    refine List.eq_replicate_iff.mpr ⟨by simp, fun x hx => ?_⟩
    obtain ⟨i, hi, rfl⟩ := List.mem_map.mp hx
    have := List.mem_range.mp hi
    rw [show g / 8 + i = (g + 8 * i) / 8 by omega, hclean (8 * i) (by omega), Bool.and_false]
  unfold State.portRead
  extract_lets gs d bytes poison s1
  have hrows : Only foundGroups d.2 s1 := Only.checkRows _ _ _
  have hfree : Only [.free] s d.2 := Only.free s _ (by decide)
  refine ⟨?_, (hfree.mono (by decide)).trans ((hrows.mono (by decide)).trans (.out _ _ (by decide)))⟩
  show s1.out ++ [.mem bytes poison] = _
  rw [hrows .out (by decide), hfree .out (by decide), show poison = _ from hpoison gs]
  congr 3
  refine List.map_congr_left fun i hi => ?_
  rw [show d.1 = _ from hbytes, getD_map_range _ _ _ _ (List.mem_range.mp hi)]

/-- The byte writes of a granted write: of the bytes enabled, those that are not masked whole. -/
def portWrites (s : State) (g : Nat) (q : BankReq) : List (Nat × Byte) :=
  (((List.range (reqBytes q)).zip q.data).filter fun p => q.en.getD (p.1 / 8) false && decide (p.2.2.toNat ≠ 0)).map
    fun p => (g + p.1, nibbled (s.memGet (g + p.1)) p.2.1 p.2.2)

theorem mem_zip_range {α : Type} {n : Nat} {l : List α} (h : l.length = n) {p : Nat × α} :
    p ∈ (List.range n).zip l ↔ l[p.1]? = some p.2 := by
  obtain ⟨i, x⟩ := p
  rw [List.mem_iff_getElem?]
  constructor
  · rintro ⟨k, hk⟩
    obtain ⟨hi, hx⟩ := List.getElem?_zip_eq_some.mp hk
    obtain ⟨hk, hki⟩ := List.getElem?_eq_some_iff.mp hi
    rw [List.getElem_range] at hki
    exact hki ▸ hx
  · intro hx
    have hlt : i < n := h ▸ (List.getElem?_eq_some_iff.mp hx).1
    exact ⟨i, List.getElem?_zip_eq_some.mpr ⟨by simp [hlt], hx⟩⟩

theorem mem_portWrites {s : State} {g : Nat} {q : BankReq} (hlen : q.data.length = reqBytes q) {w : Nat × Byte} :
    w ∈ portWrites s g q ↔ ∃ i d, q.data[i]? = some d ∧ q.en.getD (i / 8) false = true ∧ d.2.toNat ≠ 0
      ∧ w = (g + i, nibbled (s.memGet (g + i)) d.1 d.2) := by
  unfold portWrites
  rw [List.mem_map]
  constructor
  · rintro ⟨⟨i, d⟩, hp, rfl⟩
    obtain ⟨hz, hon⟩ := List.mem_filter.mp hp
    rw [Bool.and_eq_true, decide_eq_true_eq] at hon
    exact ⟨i, d, (mem_zip_range hlen).mp hz, hon.1, hon.2, rfl⟩
  · rintro ⟨i, d, hi, hen, hmask, rfl⟩
    refine ⟨(i, d), List.mem_filter.mpr ⟨(mem_zip_range hlen).mpr hi, ?_⟩, rfl⟩
    rw [Bool.and_eq_true, decide_eq_true_eq]
    exact ⟨hen, hmask⟩

theorem nodup_portWrites (s : State) (g : Nat) (q : BankReq) (hlen : q.data.length = reqBytes q) :
    ((portWrites s g q).map (·.1)).Nodup := by
  have hkeys : ((((List.range (reqBytes q)).zip q.data).filter fun p => q.en.getD (p.1 / 8) false && decide (p.2.2.toNat ≠ 0)).map
      (·.1)).Nodup := by
    refine List.Nodup.sublist (List.Sublist.map _ List.filter_sublist) ?_
    rw [List.map_fst_zip (by simp [hlen])]
    exact List.nodup_range
  have hmap : (portWrites s g q).map (·.1) = ((((List.range (reqBytes q)).zip q.data).filter fun p =>
      q.en.getD (p.1 / 8) false && decide (p.2.2.toNat ≠ 0)).map (·.1)).map (g + ·) := by
    simp [portWrites, Function.comp_def]
  rw [hmap]
  exact hkeys.map fun _ _ h => Nat.add_left_cancel h

theorem State.memGet_portWrite_eq (s : State) (g : Nat) (q : BankReq) (x : Nat) :
    (s.portWrite g q).memGet x = (s.memPut (portWrites s g q)).memGet x := State.memGet_writeMasked s _ _ x

/-- A granted write changes the bits enabled of the bytes of its word and no other byte. -/
theorem State.memGet_portWrite (s : State) (g : Nat) (q : BankReq) (hlen : q.data.length = reqBytes q) :
    (∀ i, i < reqBytes q → (s.portWrite g q).memGet (g + i) = if q.en.getD (i / 8) false then
        nibbled (s.memGet (g + i)) (q.data.getD i (0, 0)).1 (q.data.getD i (0, 0)).2 else s.memGet (g + i))
      ∧ (∀ x, x < g ∨ g + reqBytes q ≤ x → (s.portWrite g q).memGet x = s.memGet x) := by
  refine ⟨fun i hi => ?_, fun x hx => ?_⟩
  · have hd : q.data[i]? = some (q.data[i]'(hlen ▸ hi)) := List.getElem?_eq_getElem _
    rw [State.memGet_portWrite_eq, List.getD_eq_getElem?_getD (l := q.data), hd, Option.getD_some]
    by_cases hon : q.en.getD (i / 8) false = true ∧ (q.data[i]'(hlen ▸ hi)).2.toNat ≠ 0
    · rw [if_pos hon.1]
      exact s.memGet_memPut_of_mem (nodup_portWrites s g q hlen) ((mem_portWrites hlen).mpr ⟨i, _, hd, hon.1, hon.2, rfl⟩)
    · rw [State.memGet_memPut_other]
      · split
        next hen =>
          have hzero : (q.data[i]'(hlen ▸ hi)).2 = 0 :=
            BitVec.eq_of_toNat_eq (not_not.mp fun h => hon ⟨hen, h⟩)
          rw [hzero, nibbled_zero]
        next => rfl
      · intro w hw hwx
        obtain ⟨j, d, hj, hen, hmask, rfl⟩ := (mem_portWrites hlen).mp hw
        obtain rfl : j = i := Nat.add_left_cancel hwx
        obtain rfl := Option.some.inj (hj.symm.trans hd)
        exact hon ⟨hen, hmask⟩
  · rw [State.memGet_portWrite_eq]
    refine State.memGet_memPut_other s _ x fun w hw hwx => ?_
    obtain ⟨j, d, hj, -, -, rfl⟩ := (mem_portWrites hlen).mp hw
    have hj' := (List.getElem?_eq_some_iff.mp hj).1
    have hwx' : g + j = x := hwx
    omega

theorem reqBytes_dvd (q : BankReq) : 8 ∣ reqBytes q := by
  unfold reqBytes
  split <;> decide

/-- Settles O48: what each row of the port does where the port's order gives it the cycle. -/
theorem bankPorts : Obligations.BankPorts := by
  intro s c g a b q hruns
  refine ⟨fun hc => ?_, fun hp => ?_, fun hscrub hnone => ?_, fun hnone => ?_, fun hok haddr hbank hcls hidle => ⟨fun hrd hclean => ?_, fun hwr => ?_⟩⟩
  · have hexec : exec (.correctionWriteback c b) s = .next ((s.cycled c b.val).corrBack c b.val g) := by
      show execCorrectionWriteback c b s = _
      unfold execCorrectionWriteback
      rw [hc, State.bankCycle_eq, hc, if_pos hruns]
    have hcyc := Only.cycled s c b.val
    obtain ⟨hcorr, hclean, honly⟩ := (s.cycled c b.val).corrBack_frame c b.val g
    refine .of_eq hexec ⟨hcorr, fun h => hclean ((State.granule_of_only hcyc g).trans h), fun x => ?_, ?_⟩
    · exact (honly .mem (by decide) x).trans (hcyc .mem (by decide) x)
    · exact (hcyc.mono (by decide)).trans (honly.mono (by decide))
  · have hexec : exec (.poisonWriteback c b) s = .next ((s.cycled c b.val).poisonBack g) := by
      show execPoisonWriteback c b s = _
      unfold execPoisonWriteback
      rw [hp, State.bankCycle_eq, hp, if_pos hruns]
    have hcyc := Only.cycled s c b.val
    obtain ⟨hpoison, hgone, honly⟩ := (s.cycled c b.val).poisonBack_frame g
    refine .of_eq hexec ⟨hpoison, hgone, fun x => ?_, ?_⟩
    · exact (honly .mem (by decide) x).trans (hcyc .mem (by decide) x)
    · exact (hcyc.mono (by decide)).trans (honly.mono (by decide))
  · have hmay : (s.bankRuns c && bit (s.rd (rSlcScrub c)) 0
        && !((s.bank c b.val).waiting.any fun r => decide (r.1.user = .scrub))) = true := by
      rw [hruns, hscrub, hnone]
      rfl
    refine .of_eq (t := s.setBank c b.val { s.bank c b.val with waiting := (s.bank c b.val).waiting
        ++ [(⟨.scrub, false, false, rowAddr b.val (s.bank c b.val).row, true, List.replicate 32 true, [], HostFrom.none⟩, 0)] }) ?_
      ⟨by rw [State.bank_setBank], .setBank s c _ _ (by decide)⟩
    show execScrubRead c b [] s = _
    unfold execScrubRead
    dsimp only
    rw [State.upset_nil, if_pos hmay]
  · refine .of_eq (t := s.cycled c b.val) ?_ (Only.cycled s c b.val)
    show execBankGrant c b [] [] s = _
    unfold execBankGrant
    dsimp only
    rw [List.foldl_nil, State.upset_nil, if_pos hruns, State.bankCycle_eq, hnone]
  · obtain ⟨x, hexec⟩ := bankGrant_idle hruns hok haddr hbank hcls hidle
    let u : State := { s with banks := x }
    have haccess : u.portAccess c q = u.portRead (gaddr c a) q := by
      unfold State.portAccess
      rw [show u.portAddr c q = .ok a from haddr]
      dsimp only
      rw [if_neg (ne_true_of_eq_false hrd)]
    obtain ⟨hout, honly⟩ := u.portRead_clean (gaddr c a) q hclean (reqBytes_dvd q)
    refine .of_eq hexec ?_
    rw [haccess]
    exact ⟨hout, fun y => honly .mem (by decide) y, fun k => honly .cores (by decide) k⟩
  · obtain ⟨x, hexec⟩ := bankGrant_idle hruns hok haddr hbank hcls hidle
    let u : State := { s with banks := x }
    have hlen : q.data.length = reqBytes q := by
      simp only [reqOk, hwr, if_true, Bool.and_eq_true, decide_eq_true_eq] at hok
      tauto
    have haccess : u.portAccess c q = u.portWrite (gaddr c a) q := by
      unfold State.portAccess
      rw [show u.portAddr c q = .ok a from haddr]
      dsimp only
      rw [if_pos hwr]
    obtain ⟨hin, hother⟩ := u.memGet_portWrite (gaddr c a) q hlen
    refine .of_eq hexec ?_
    rw [haccess]
    exact ⟨hin, hother, fun k => Only.writeMasked u _ _ .cores (by decide) k⟩

end Sys2Proof.Machine

/-! The eight Ethernet ports (15 R420 to R424). -/

namespace Sys2Proof.Machine

open Sys2Proof

/-! ### What counting frames leaves of the networks -/

/-- The state differs in no register by which the device knows its networks: the states of the ports, the addresses and the tags. -/
structure SameNets (s t : State) : Prop where
  pwr : t.pwr = s.pwr
  fuses : t.fuses = s.fuses
  st : ∀ i, t.rd (rIoEpState i) = s.rd (rIoEpState i)
  net : ∀ a, 0x9000400 ≤ a → t.rd a = s.rd a

theorem SameNets.trans {s t u : State} (h : SameNets s t) (k : SameNets t u) : SameNets s u :=
  ⟨k.pwr.trans h.pwr, k.fuses.trans h.fuses, fun i => (k.st i).trans (h.st i), fun a ha => (k.net a ha).trans (h.net a ha)⟩

theorem SameNets.refl (s : State) : SameNets s s := ⟨rfl, rfl, fun _ => rfl, fun _ _ => rfl⟩

/-- A counter of a port was counted. -/
theorem SameNets.bump (s : State) {a : Nat} (h : a < 0x9000400) (hst : ∀ i, rIoEpState i ≠ a) : SameNets s (s.bump a) :=
  ⟨rfl, rfl, fun i => s.rd_bump_ne (hst i), fun b hb => s.rd_bump_ne (by omega)⟩

theorem SameNets.out (s : State) (o : List Output) : SameNets s { s with out := o } := ⟨rfl, rfl, fun _ => rfl, fun _ _ => rfl⟩

section

variable {s t : State} (h : SameNets s t)
include h

theorem SameNets.failover (m : Nat) : t.failover m = s.failover m := by
  simp only [State.failover, State.live, h.pwr, h.st]

theorem SameNets.borrowed (ep : Nat) : t.borrowed ep = s.borrowed ep := by
  simp only [State.borrowed, h.st, h.failover]

theorem SameNets.upPorts (n : Fin 2) : t.upPorts n = s.upPorts n := by
  simp only [State.upPorts, h.st]

theorem SameNets.vlanTag (n : Fin 2) : t.vlanTag n = s.vlanTag n := by
  simp only [State.vlanTag, h.net (rIoNetVlan n) (by unfold rIoNetVlan; omega)]

theorem SameNets.ip4 (n : Fin 2) : t.ip4 n = s.ip4 n := by
  simp only [State.ip4, h.net (rIoNetIp4 n) (by unfold rIoNetIp4; omega)]

theorem SameNets.ip6 (n : Fin 2) : t.ip6 n = s.ip6 n := by
  simp only [State.ip6, State.linkLocal, h.fuses, h.net (rIoNetIp60 n) (by unfold rIoNetIp60; omega),
    h.net (rIoNetIp61 n) (by unfold rIoNetIp61; omega), h.net (rIoNetIp62 n) (by unfold rIoNetIp62; omega),
    h.net (rIoNetIp63 n) (by unfold rIoNetIp63; omega)]

theorem SameNets.answers (ep : Fin 8) (v6 : Bool) (a : List Byte) : t.answers ep v6 a = s.answers ep v6 a := by
  simp only [State.answers, h.borrowed, h.ip4, h.ip6]

end

/-! ### Frames sent and announcements -/

theorem SameNets.sendBy (s : State) {ep : Nat} (h : ep < 8) (o : Output) : SameNets s (s.sendBy ep o) :=
  (SameNets.bump s (by unfold rIoEpTx; omega) fun i => by unfold rIoEpState rIoEpTx; omega).trans (.out _ _)

theorem State.sendBy_out (s : State) (ep : Nat) (o : Output) : (s.sendBy ep o).out = s.out ++ [o] := rfl

theorem State.rd_sendBy (s : State) (ep : Nat) (o : Output) (a : Nat) : (s.sendBy ep o).rd a = (s.bump (rIoEpTx ep)).rd a := rfl

theorem Only.sendBy (s : State) (ep : Nat) (o : Output) : Only [.regs, .out] s (s.sendBy ep o) :=
  (Only.bump s _ (by decide)).trans (.out _ _ (by decide))

theorem State.announceOn_eq (s : State) (net : Fin 2) {ep : Nat} (h : ep < 8) :
    (State.announceOn net s ep).out = s.out ++ announcements s net ep ∧ SameNets s (State.announceOn net s ep)
      ∧ Only [.regs, .out] s (State.announceOn net s ep) := by
  have h1 := SameNets.sendBy s h (.announce (Fin.ofNat 8 ep) (s.vlanTag net) net true)
  unfold State.announceOn announcements
  dsimp only
  split
  next hip =>
    exact ⟨by simp [State.sendBy], h1.trans (.sendBy _ h _), (Only.sendBy _ _ _).trans (Only.sendBy _ _ _)⟩
  next hip => exact ⟨by simp [State.sendBy], h1, Only.sendBy _ _ _⟩

/-- A network's addresses are announced on each port that carries it. -/
theorem State.announce_eq (s : State) (net : Fin 2) :
    (s.announce net).out = s.out ++ (s.upPorts (1 - net)).flatMap (announcements s net) ∧ SameNets s (s.announce net)
      ∧ Only [.regs, .out] s (s.announce net) := by
  have fold (l : List Nat) (hl : ∀ ep ∈ l, ep < 8) (t : State) (ht : SameNets s t) (hout : Only [.regs, .out] s t) :
      (l.foldl (State.announceOn net) t).out = t.out ++ l.flatMap (announcements s net)
        ∧ SameNets s (l.foldl (State.announceOn net) t) ∧ Only [.regs, .out] s (l.foldl (State.announceOn net) t) := by
    induction l generalizing t with
    | nil => exact ⟨by simp, ht, hout⟩
    | cons ep r ih =>
      obtain ⟨hsent, hsame, honly⟩ := t.announceOn_eq net (hl ep (by simp))
      obtain ⟨hrest, hall⟩ := ih (fun e he => hl e (by simp [he])) _ (ht.trans hsame) (hout.trans honly)
      have hann : announcements t net ep = announcements s net ep := by
        unfold announcements
        rw [ht.vlanTag, ht.ip4]
      exact ⟨by rw [List.foldl_cons, hrest, hsent, hann, List.flatMap_cons, List.append_assoc], hall⟩
  refine fold _ (fun ep hep => ?_) s (.refl s) (.refl _ s)
  obtain ⟨hmem, -⟩ := List.mem_filter.mp hep
  obtain ⟨i, hi, rfl⟩ := List.mem_map.mp hmem
  have := List.mem_range.mp hi
  omega

/-! ### Frames that come in -/

theorem State.frameIn_enabled {s : State} {ep : Fin 8} {vlan : Option Nat} (hlive : s.live = true) (hen : bit (s.rd (rIoEpCfg ep)) 1 = true) :
    s.frameIn ep vlan = (s.bump (rIoEpRx ep), s.tagOk ep vlan) := by
  unfold State.frameIn
  rw [hlive, hen]
  rfl

theorem SameNets.frame (s : State) (ep : Fin 8) : SameNets s (s.bump (rIoEpRx ep)) :=
  SameNets.bump s (by unfold rIoEpRx; omega) fun i => by unfold rIoEpState rIoEpRx; omega

theorem countedIn_bump (s : State) (ep : Fin 8) : CountedIn ep s (s.bump (rIoEpRx ep)) :=
  ⟨by rw [State.rd_bump, if_pos rfl], fun a ha => s.rd_bump_ne ha, Only.bump s _ (by decide)⟩

theorem answered_sendBy (s : State) (ep : Fin 8) (o : Output) : Answered ep o s ((s.bump (rIoEpRx ep)).sendBy ep o) := by
  have hrx : rIoEpRx ep ≠ rIoEpTx ep := by unfold rIoEpRx rIoEpTx; omega
  refine ⟨?_, ?_, ?_, fun a h1 h2 => ?_, (Only.bump s _ (by decide)).trans (Only.sendBy _ _ _)⟩
  · rw [State.sendBy_out, State.bump_out]
  · rw [State.rd_sendBy, State.rd_bump_ne _ hrx, State.rd_bump, if_pos rfl]
  · rw [State.rd_sendBy, State.rd_bump, if_pos rfl, State.rd_bump_ne _ hrx.symm]
  · rw [State.rd_sendBy, State.rd_bump_ne _ h2, State.rd_bump_ne _ h1]

/-- Settles O20: what counts a frame leaves the networks as they are, so the answer is that of the state before it. -/
theorem portsOfTheNetworks : Obligations.PortsOfTheNetworks := by
  intro s ep net n q e
  refine ⟨fun hlive hen => ?_, ?_, fun hfail => ?_, fun hlive hen => ⟨fun htag hans => ?_, fun hno => ?_⟩,
    fun hlive hen => ⟨fun htag hans hin hout => ?_, fun hin hno => ?_, fun hlong => ?_⟩, fun hlive hen => ?_, fun hno => ?_⟩
  · refine .of_eq (t := (s.setBit (rIoEpState ep) 0).setBit (rIoEpState ep) 1) ?_ ⟨?_, ?_, fun a ha => ?_, ?_⟩
    · show Host.Outcome.next _ = _
      rw [if_pos ⟨hlive, hen⟩]
    · rw [State.rd_setBit, if_pos rfl, bit_setFld_other _ _ _ _ (by decide) (by decide), State.rd_setBit, if_pos rfl,
        bit_setFld_one _ _ (by decide)]
    · rw [State.rd_setBit, if_pos rfl, bit_setFld_one _ _ (by decide)]
    · rw [State.rd_setBit_ne _ _ ha, State.rd_setBit_ne _ _ ha]
    · exact (Only.setBit s _ _ (by decide)).trans (Only.setBit _ _ _ (by decide))
  · let u := (s.clrBit (rIoEpState ep) 0).clrBit (rIoEpState ep) 1
    have hup : bit (u.rd (rIoEpState ep)) 0 = false := by
      rw [State.rd_clrBit, if_pos rfl, bit_setFld_other _ _ _ _ (by decide) (by decide), State.rd_clrBit, if_pos rfl,
        bit_setFld_zero _ _ (by decide)]
    have hlink : bit (u.rd (rIoEpState ep)) 1 = false := by
      rw [State.rd_clrBit, if_pos rfl, bit_setFld_zero _ _ (by decide)]
    have hclr : Only [.regs, .out] s u := (Only.clrBit s _ _ (by decide)).trans (Only.clrBit _ _ _ (by decide))
    obtain ⟨-, hsame, honly⟩ := u.announce_eq (netOf ep)
    refine .of_eq (t := if u.failover (netOf ep) ∧ !s.failover (netOf ep) then u.announce (netOf ep) else u) rfl ?_
    split
    · exact ⟨by rw [hsame.st, hup], by rw [hsame.st, hlink], hclr.trans honly⟩
    · exact ⟨hup, hlink, hclr⟩
  · obtain ⟨hout, -, honly⟩ := s.announce_eq net
    refine .of_eq (t := s.announce net) ?_ ⟨hout, honly⟩
    show Host.Outcome.next _ = _
    rw [if_pos hfail]
  · have hframe := State.frameIn_enabled (vlan := q.vlan) hlive hen
    refine .of_eq ?_ (answered_sendBy s q.ep (.neighbour q.ep (s.vlanTag n) q.v6 q.target))
    show execNeighbourDiscovery q s = _
    unfold execNeighbourDiscovery
    rw [hframe]
    dsimp only
    rw [htag, (SameNets.frame s q.ep).answers, hans]
    dsimp only
    rw [(SameNets.frame s q.ep).vlanTag]
  · have hframe := State.frameIn_enabled (vlan := q.vlan) hlive hen
    refine .of_eq ?_ (countedIn_bump s q.ep)
    show execNeighbourDiscovery q s = _
    unfold execNeighbourDiscovery
    rw [hframe]
    dsimp only
    rw [(SameNets.frame s q.ep).answers]
    obtain hno | hno := hno
    · rw [hno]
    · rw [hno]
      cases s.tagOk q.ep q.vlan <;> rfl
  · have hframe := State.frameIn_enabled (vlan := e.vlan) hlive hen
    refine .of_eq ?_ (answered_sendBy s e.ep (.echo e.ep (s.vlanTag n) e.v6 e.src e.data))
    show execIcmpEcho e s = _
    unfold execIcmpEcho
    rw [hframe, if_neg (show ¬ 9216 < echoFrame _ _ _ from Nat.not_lt.mpr hin)]
    dsimp only
    rw [htag, (SameNets.frame s e.ep).answers, hans]
    dsimp only
    rw [(SameNets.frame s e.ep).vlanTag]
    exact if_pos hout
  · have hframe := State.frameIn_enabled (vlan := e.vlan) hlive hen
    refine .of_eq ?_ (countedIn_bump s e.ep)
    show execIcmpEcho e s = _
    unfold execIcmpEcho
    rw [hframe, if_neg (show ¬ 9216 < echoFrame _ _ _ from Nat.not_lt.mpr hin)]
    dsimp only
    rw [(SameNets.frame s e.ep).answers]
    obtain hno | hno | ⟨hans, hlong⟩ := hno
    · rw [hno]
    · rw [hno]
      cases s.tagOk e.ep e.vlan <;> rfl
    · rw [hans]
      cases s.tagOk e.ep e.vlan with
      | false => rfl
      | true =>
        dsimp only
        rw [(SameNets.frame s e.ep).vlanTag]
        exact if_neg (Nat.not_le.mpr hlong)
  · refine .of_eq (t := s) ?_ rfl
    show execIcmpEcho e s = _
    unfold execIcmpEcho
    exact if_pos hlong
  · have hne : rIoEpRx ep ≠ rIoEpPauseRx ep := by unfold rIoEpRx rIoEpPauseRx; omega
    refine .of_eq (t := (s.bump (rIoEpRx ep)).bump (rIoEpPauseRx ep)) ?_ ⟨?_, ?_, fun a h1 h2 => ?_, ?_⟩
    · show Host.Outcome.next _ = _
      rw [if_pos (by rw [hlive, hen]; rfl)]
    · rw [State.rd_bump_ne _ hne, State.rd_bump, if_pos rfl]
    · rw [State.rd_bump, if_pos rfl, State.rd_bump_ne _ hne.symm]
    · rw [State.rd_bump_ne _ h2, State.rd_bump_ne _ h1]
    · exact (Only.bump s _ (by decide)).trans (Only.bump _ _ (by decide))
  · have hoff : ¬(s.live = true ∧ bit (s.rd (rIoEpCfg ep)) 1 = true) := by
      rintro ⟨hl, he⟩
      rcases hno with h | h
      · rw [h] at hl; cases hl
      · rw [h] at he; cases he
    refine ⟨.of_eq (t := s) ?_ rfl, .of_eq (t := s) ?_ rfl⟩
    · show Host.Outcome.next _ = _
      rw [if_neg hoff]
    · show Host.Outcome.next _ = _
      rw [if_neg (by rwa [Bool.and_eq_true])]

end Sys2Proof.Machine

/-! The fault and event records and the change log (16 R465 to R469): what writing one changes. -/

namespace Sys2Proof.Machine

open Sys2Proof

/-! ### Records -/

/-- The registers that writing a record changes. -/
def evtRegs : List Nat := [rScEvtHead, rScEvtTail, rScEvtLost, rScStatus]
/-- The registers that an entry of the change log changes. -/
def logRegs : List Nat := [rScLogHead, rScLogTail, rScLogLost, rScStatus, rScAlert, rScEvtHead, rScEvtTail, rScEvtLost]

theorem State.rd_putEvt_ne (s : State) (e : Evt) {a : Nat} (h : a ∉ evtRegs) : (s.putEvt e).rd a = s.rd a := by
  simp only [evtRegs, List.mem_cons, List.not_mem_nil, or_false, not_or] at h
  obtain ⟨hhead, htail, hlost, hst⟩ := h
  unfold State.putEvt
  extract_lets head evts sc s1 s2
  have h2 : s2.rd a = s.rd a := s1.rd_wr_ne _ hhead
  split
  · rw [State.rd_setBit_ne _ _ hst, State.rd_wr_ne _ _ htail, State.rd_bump_ne _ hlost, h2]
  · exact h2

theorem State.rd_event_ne (s : State) (code unit eng part core : Nat) (arg : Word) {a : Nat} (h : a ∉ evtRegs) :
    (s.event code unit eng part core arg).rd a = s.rd a := s.rd_putEvt_ne _ h

theorem State.rd_putEvt_head (s : State) (e : Evt) : (s.putEvt e).rd rScEvtHead = s.rd rScEvtHead + 1 := by
  unfold State.putEvt
  extract_lets head evts sc s1 s2
  have h2 : s2.rd rScEvtHead = s.rd rScEvtHead + 1 := s1.rd_wr_same _ _
  split
  · rw [State.rd_setBit_ne _ _ (by decide), State.rd_wr_ne _ _ (by decide), State.rd_bump_ne _ (by decide), h2]
  · exact h2

theorem State.evts_putEvt (s : State) (e : Evt) :
    (s.putEvt e).sc.evts = Sparse.set (fun _ => none) s.sc.evts ((s.rd rScEvtHead).toNat % 4096) (some (s.rd rScEvtHead, e)) := by
  unfold State.putEvt
  extract_lets head evts sc s1 s2
  have h2 : s2.sc = s1.sc := State.wr_sc _ _ _
  split
  · rw [State.setBit_sc, State.wr_sc, State.bump_sc, h2]
  · rw [h2]

/-- A record stands in the ring where the head was. -/
theorem State.evt_putEvt (s : State) (e : Evt) :
    Sparse.get (fun _ => none) (s.putEvt e).sc.evts ((s.rd rScEvtHead).toNat % 4096) = some (s.rd rScEvtHead, e) := by
  rw [State.evts_putEvt, Laws.get_set_same]

/-! ### The change log -/

theorem State.rd_putLog_ne (s : State) (r : LogRec) {a : Nat} (h : a ∉ logRegs) : (s.putLog r).rd a = s.rd a := by
  have hevt : a ∉ evtRegs := fun hm => h (by
    simp only [evtRegs, logRegs, List.mem_cons, List.not_mem_nil, or_false] at hm ⊢
    tauto)
  simp only [logRegs, List.mem_cons, List.not_mem_nil, or_false, not_or] at h
  obtain ⟨hhead, htail, hlost, hst, halert, -⟩ := h
  unfold State.putLog
  extract_lets head d logs sc s1 s2 s3
  have h2 : s2.rd a = s.rd a := s1.rd_wr_ne _ hhead
  split
  · rw [State.alert, State.rd_setBit_ne _ _ halert, State.rd_event_ne _ _ _ _ _ _ _ hevt]
    show (((s2.bump rScLogLost).wr rScLogTail _).setBit rScStatus 4).rd a = _
    rw [State.rd_setBit_ne _ _ hst, State.rd_wr_ne _ _ htail, State.rd_bump_ne _ hlost, h2]
  · exact h2

theorem State.rd_log_ne (s : State) (o : Origin) (k p : Nat) (x y z : Word) {a : Nat} (h : a ∉ logRegs) :
    (s.log o k p x y z).rd a = s.rd a := s.rd_putLog_ne _ h

theorem State.rd_putLog_head (s : State) (r : LogRec) : (s.putLog r).rd rScLogHead = s.rd rScLogHead + 1 := by
  unfold State.putLog
  extract_lets head d logs sc s1 s2 s3
  have h2 : s2.rd rScLogHead = s.rd rScLogHead + 1 := s1.rd_wr_same _ _
  split
  · rw [State.alert, State.rd_setBit_ne _ _ (by decide), State.rd_event_ne _ _ _ _ _ _ _ (by decide)]
    show (((s2.bump rScLogLost).wr rScLogTail _).setBit rScStatus 4).rd rScLogHead = _
    rw [State.rd_setBit_ne _ _ (by decide), State.rd_wr_ne _ _ (by decide), State.rd_bump_ne _ (by decide), h2]
  · exact h2

theorem State.rd_log_head (s : State) (o : Origin) (k p : Nat) (x y z : Word) :
    (s.log o k p x y z).rd rScLogHead = s.rd rScLogHead + 1 := s.rd_putLog_head _

end Sys2Proof.Machine

/-! Ports that train, lock and fail (10 R277 to R310) and the events of the time base (11 R311 to R331). -/

namespace Sys2Proof.Machine

open Sys2Proof

/-! ### One port of the tether -/

theorem State.port_setPort (s : State) (p q : Fin 8) (x : TPort) : (s.setPort p x).port q = if q = p then x else s.port q := by
  unfold State.port State.setPort
  simp only [Fin.getElem_fin, Vector.getElem_set]
  by_cases h : q = p
  · rw [if_pos (by rw [h]), if_pos h]
  · rw [if_neg (fun e => h (Fin.ext e.symm)), if_neg h]

theorem State.port_setPort_same (s : State) (p : Fin 8) (x : TPort) : (s.setPort p x).port p = x := by
  rw [State.port_setPort, if_pos rfl]

theorem State.port_setPort_ne (s : State) {p q : Fin 8} (x : TPort) (h : q ≠ p) : (s.setPort p x).port q = s.port q := by
  rw [State.port_setPort, if_neg h]

theorem Only.setPort {ch : List Grp} (s : State) (p : Fin 8) (x : TPort) (h : Grp.tether ∈ ch) : Only ch s (s.setPort p x) :=
  Only.tether s _ h

theorem Only.enterCond {ch : List Grp} (s : State) (c p : Nat) (h : Grp.beat ∈ ch) : Only ch s (s.enterCond c p) := Only.beat s _ h

theorem Only.loseSource {ch : List Grp} (s : State) (ht : Grp.tb ∈ ch) (hr : Grp.regs ∈ ch) (hs : Grp.sc ∈ ch) : Only ch s s.loseSource :=
  (Only.tb s _ ht).trans ((Only.setBit _ _ _ hr).trans (.event _ _ _ _ _ _ _ hr hs))

theorem State.port_of_only {ch : List Grp} {s t : State} (h : Only ch s t) (hch : Grp.tether ∉ ch) (p : Fin 8) : t.port p = s.port p := by
  rw [State.port, h .tether hch, State.port]

/-- A neighbour lost is marked at its port alone, and faults a flight. -/
theorem State.loseNeighbour_frame (s : State) (p : Fin 8) :
    (s.loseNeighbour p).port p = { s.port p with lost := true } ∧ (∀ q, q ≠ p → (s.loseNeighbour p).port q = s.port q)
      ∧ (s.beat.joined = true → (s.loseNeighbour p).beat.cond = some (s.beat.cond.getD (1, p.val)) ∧ (s.loseNeighbour p).beat.acc.fault = true)
      ∧ Only [.tether, .beat] s (s.loseNeighbour p) := by
  have hport : Only [.tether, .beat] s (s.setPort p { s.port p with lost := true }) := .setPort s p _ (by decide)
  unfold State.loseNeighbour
  extract_lets x s1
  have hother (q : Fin 8) (hq : q ≠ p) : s1.port q = s.port q := s.port_setPort_ne _ hq
  split
  next hj =>
    have hcond : Only [.beat] s1 (s1.enterCond 1 p.val) := .enterCond s1 _ _ (by decide)
    refine ⟨?_, fun q hq => ?_, fun _ => ⟨rfl, rfl⟩, hport.trans (hcond.mono (by decide))⟩
    · rw [State.port_of_only hcond (by decide), State.port_setPort_same]
    · rw [State.port_of_only hcond (by decide), hother q hq]
  next hj => exact ⟨s.port_setPort_same p _, hother, fun h => absurd h hj, hport⟩

/-- A port that loses lock is back in TRAIN, its neighbour lost. -/
theorem State.loseLock_frame (s : State) (p : Fin 8) :
    (s.loseLock p).port p = { s.port p with st := 1, lanes := 0, lost := true } ∧ (∀ q, q ≠ p → (s.loseLock p).port q = s.port q)
      ∧ (s.beat.joined = true → (s.loseLock p).beat.cond = some (s.beat.cond.getD (1, p.val)) ∧ (s.loseLock p).beat.acc.fault = true)
      ∧ Only [.tether, .beat, .tb, .regs, .sc] s (s.loseLock p) := by
  unfold State.loseLock
  extract_lets x s1
  obtain ⟨hown, hother, hcond, honly⟩ := (s.setPort p { s.port p with st := 1, lanes := 0 }).loseNeighbour_frame p
  have h1 : Only [.tether, .beat, .tb, .regs, .sc] s s1 :=
    (Only.setPort s p _ (by decide)).trans (honly.mono (by decide))
  have hown1 : s1.port p = { s.port p with st := 1, lanes := 0, lost := true } := by
    rw [show s1.port p = _ from hown, State.port_setPort_same]
  have hother1 (q : Fin 8) (hq : q ≠ p) : s1.port q = s.port q := (hother q hq).trans (s.port_setPort_ne _ hq)
  have hsrc : Only [.tb, .regs, .sc] s1 s1.loseSource := .loseSource s1 (by decide) (by decide) (by decide)
  split
  · refine ⟨?_, fun q hq => ?_, fun h => ?_, h1.trans (hsrc.mono (by decide))⟩
    · rw [State.port_of_only hsrc (by decide), hown1]
    · rw [State.port_of_only hsrc (by decide), hother1 q hq]
    · rw [hsrc .beat (by decide)]
      exact hcond h
  · exact ⟨hown1, hother1, hcond, h1⟩

theorem State.port_updPort (s : State) (p q : Fin 8) (f : TPort → TPort) : (s.updPort p f).port q = if q = p then f (s.port p) else s.port q :=
  s.port_setPort p q _

/-- The port once it has locked: in LOCKED at least, four lanes, its block; what a join found lost stays lost in its later steps. -/
def State.lockedPort (s : State) (b : AlignBlock) (x : TPort) : TPort :=
  { x with st := if x.st ≤ 1 then 2 else x.st, lanes := 15, block := some b, late := false,
           lost := x.lost && (s.beat.joined || (s.joining && decide (2 ≤ s.tether.join.step))) }

theorem exec_portLocked {s : State} {p : Fin 8} (b : AlignBlock) (hen : s.portEn p = true) :
    exec (.portLocked p b) s = if s.beat.joined then .next (if s.blockOk p b then s.updPort p (s.lockedPort b)
        else (s.updPort p (s.lockedPort b)).enterCond 2 p.val) else .next (s.updPort p (s.lockedPort b)).joinTrain := by
  show execPortLocked p b s = _
  unfold execPortLocked
  rw [if_neg (ne_true_of_eq_false (congrArg not hen))]
  rfl

/-- A join that fails says so in its step and its code, and in the change log. -/
theorem State.joinFail_frame (s : State) (code : Nat) :
    (∀ p, (s.joinFail code).port p = s.port p)
      ∧ (s.joining = true → (s.joinFail code).tether.join = { s.tether.join with step := 7, code := code }
          ∧ (s.joinFail code).rd rScLogHead = s.rd rScLogHead + 1)
      ∧ (s.joining = false → s.joinFail code = s) := by
  unfold State.joinFail
  split
  next hj =>
    have hlog := Only.log (ch := [.regs, .sc]) (s.updJoin fun j => { j with step := 7, code := code }) originHw 11 0xFF 0 0
      (BitVec.ofNat 32 code) (by decide) (by decide)
    refine ⟨fun p => ?_, fun _ => ⟨?_, ?_⟩, fun h => absurd (h.symm.trans hj) (by decide)⟩
    · rw [State.port_of_only hlog (by decide)]
      rfl
    · rw [hlog .tether (by decide)]
      rfl
    · rw [State.rd_log_head]
      rfl
  next hj => exact ⟨fun _ => rfl, fun h => absurd h hj, fun _ => rfl⟩

/-- Settles O39: each row changes its port, and where it says so the join or the condition of the flight. -/
theorem portsTrain : Obligations.PortsTrain := by
  intro s p b hen
  have hother (f : TPort → TPort) (q : Fin 8) (hq : q ≠ p) : (s.updPort p f).port q = s.port q := by
    rw [State.port_updPort, if_neg hq]
  have hown (f : TPort → TPort) : (s.updPort p f).port p = f (s.port p) := by rw [State.port_updPort, if_pos rfl]
  have honly (f : TPort → TPort) : Only [.tether] s (s.updPort p f) := Only.setPort s p _ (by decide)
  refine ⟨fun hj hok => ?_, fun hj hok => ?_, fun hj => ?_, fun hst => ?_, fun hst => ?_, fun hst => ?_⟩
  · refine .of_eq ((exec_portLocked b hen).trans (by rw [hj, hok]; rfl)) ⟨honly _, ?_, hother _⟩
    rw [hown, State.lockedPort, hj, Bool.true_or, Bool.and_true]
  · exact .of_eq ((exec_portLocked b hen).trans (by rw [hj, hok]; rfl)) ⟨rfl, rfl⟩
  · refine .of_eq ((exec_portLocked b hen).trans (by rw [hj]; rfl)) ⟨s.updPort p (s.lockedPort b), rfl, honly _, ?_, ?_, ?_, ?_, fun hstep => ?_⟩
    · rw [hown]
      dsimp only [State.lockedPort]
      split <;> omega
    · rw [hown]
      rfl
    · rw [hown]
      rfl
    · rw [hown]
      dsimp only [State.lockedPort]
      rw [hj, Bool.false_or, Bool.and_assoc]
    · exact if_pos hstep
  · obtain ⟨hport, hothers, hcond, -⟩ := s.loseLock_frame p
    refine .of_eq (t := s.loseLock p) ?_ ⟨by rw [hport], by rw [hport], by rw [hport], hothers, hcond⟩
    show Host.Outcome.next _ = _
    rw [if_pos ⟨hen, hst⟩]
  · obtain ⟨hports, hjoin, hno⟩ := (s.updPort p fun x => { x with late := true }).joinFail_frame 1
    refine .of_eq (t := (s.updPort p fun x => { x with late := true }).joinFail 1) ?_ ⟨?_, ?_, fun q hq => ?_, hjoin, fun h => ?_⟩
    · show execPortTrainTimeout p s = _
      unfold execPortTrainTimeout
      rw [if_pos ⟨hen, hst⟩]
    · rw [hports, hown]
    · rw [hports, hown, hst]
    · rw [hports, hother _ q hq]
    · rw [hno h]
      exact ⟨honly _, rfl⟩
  · obtain ⟨hport, hothers, hcond, -⟩ := (s.updPort p fun x => { x with st := 5 }).loseNeighbour_frame p
    refine .of_eq (t := (s.updPort p fun x => { x with st := 5 }).loseNeighbour p) ?_ ⟨?_, ?_, fun q hq => ?_, hcond⟩
    · show execNeighbourLost p s = _
      unfold execNeighbourLost
      rw [if_pos ⟨hen, hst⟩]
    · rw [hport, hown]
    · rw [hport]
    · rw [hothers q hq, hother _ q hq]

end Sys2Proof.Machine

/-! The events of the time base (11 R311 to R331). -/

namespace Sys2Proof.Machine

open Sys2Proof

theorem State.rd_logTc_ne (s : State) (x y : DWord) {a : Nat} (h : a ∉ logRegs) : (s.logTc x y).rd a = s.rd a := by
  rw [State.logTc, State.rd_log_ne _ _ _ _ _ _ _ h, State.rd_log_ne _ _ _ _ _ _ _ h]

theorem Only.logTc (s : State) (x y : DWord) : Only [.regs, .sc] s (s.logTc x y) :=
  (Only.log s _ _ _ _ _ _ (by decide) (by decide)).trans (.log _ _ _ _ _ _ _ (by decide) (by decide))

theorem Only.setSkip {ch : List Grp} (s : State) (hb : Grp.beat ∈ ch) (hr : Grp.regs ∈ ch) : Only ch s s.setSkip :=
  (Only.beat s _ hb).trans (.setBit _ _ _ hr)

theorem Only.stretch (s : State) (r : Fin 16) : Only [.tb, .beat, .regs] s (s.stretch r) :=
  .ite ((Only.tb s _ (by decide)).trans (.setSkip _ (by decide) (by decide))) (.tb s _ (by decide))

theorem State.stretch_tb (s : State) (r : Fin 16) :
    (s.stretch r).tb = { s.tb with stretch := s.tb.stretch.set r (min 0xFFFF (s.stretchOf r.val + 1)) } := by
  unfold State.stretch
  dsimp only
  split <;> rfl

theorem State.drainWarns_of_none {s : State} (h : s.tb.warnWait = Vector.replicate 16 false) : s.drainWarns = s := by
  have hno (r : Fin 16) : s.warnWaits r.val = false := by
    have hall : ∀ r : Fin 16, (Vector.replicate 16 false).toList.getD r.val false = false := by decide
    rw [State.warnWaits, h, hall]
  have fold (l : List (Fin 16)) :
      l.foldl (fun t r => if t.warnWaits r.val && t.mayStretch r.val then (t.setWarn r false).stretch r else t) s = s := by
    induction l with
    | nil => rfl
    | cons r l ih => rw [List.foldl_cons, hno r, Bool.false_and, if_neg Bool.false_ne_true, ih]
  exact fold _

theorem State.event_tb (s : State) (code unit eng part core : Nat) (arg : Word) : (s.event code unit eng part core arg).tb = s.tb :=
  Only.event (ch := [.regs, .sc]) s code unit eng part core arg (by decide) (by decide) .tb (by decide)

theorem State.loseSource_tb (s : State) : s.loseSource.tb = { s.tb with locked := false, holdover := true } := by
  unfold State.loseSource
  rw [State.event_tb, State.setBit_tb]

theorem State.loadTc_tc (s : State) (t : DWord) : (s.loadTc t).tb.tc = t := rfl

theorem State.memGet_loadTc (s : State) (t : DWord) (g : Nat) : (s.loadTc t).memGet g = s.memGet g := rfl

/-! ### The phase offset -/

/-- The offset measured and the largest, and the slew where one is due (11 R315). -/
def State.phased (s : State) (err : Int) : State :=
  let m := err.natAbs
  let s1 := s.wrF rTbPhase 0 16 (err % 65536).toNat
  let s2 := if fld (s.rd rTbPhase) 16 16 < m then s1.wrF rTbPhase 16 16 (min 0xFFFF m) else s1
  if 8 ≤ m ∧ m < 64 then s2.slew err else s2

theorem State.phased_frame (s : State) (err : Int) :
    fld ((s.phased err).rd rTbPhase) 0 16 = (err % 65536).toNat
      ∧ (fld (s.rd rTbPhase) 16 16 < err.natAbs → fld ((s.phased err).rd rTbPhase) 16 16 = min 0xFFFF err.natAbs)
      ∧ (s.phased err).tb = (if 8 ≤ err.natAbs ∧ err.natAbs < 64 then { s.tb with phase := s.tb.phase + if 0 < err then 2 else -2 } else s.tb)
      ∧ Only [.regs, .tb] s (s.phased err) := by
  have hlow : (err % 65536).toNat < 2 ^ 16 := by omega
  have hhigh : min 0xFFFF err.natAbs < 2 ^ 16 := by omega
  unfold State.phased
  extract_lets m s1 s2
  have h1 : Only [.regs, .tb] s s1 := .wrF s _ _ _ _ (by decide)
  have h2 : Only [.regs, .tb] s1 s2 := .ite (.wrF s1 _ _ _ _ (by decide)) (.refl _ _)
  have htb : s2.tb = s.tb := by
    show (if _ then s1.wrF _ _ _ _ else s1).tb = _
    split
    · rw [State.wrF_tb, State.wrF_tb]
    · rw [State.wrF_tb]
  have hrd (p : Prop) [Decidable p] : (if p then s2.slew err else s2).rd rTbPhase = s2.rd rTbPhase := by
    split <;> rfl
  have hphase1 : s1.rd rTbPhase = setFld (s.rd rTbPhase) 0 16 (err % 65536).toNat := by rw [State.rd_wrF, if_pos rfl]
  refine ⟨?_, fun hmore => ?_, ?_, ?_⟩
  · rw [hrd]
    show fld ((if _ then s1.wrF _ _ _ _ else s1).rd rTbPhase) 0 16 = _
    split
    · rw [State.rd_wrF, if_pos rfl, fld_setFld_below _ _ _ _ _ _ (by decide) (by decide), hphase1, fld_setFld _ _ _ _ (by decide),
        Nat.mod_eq_of_lt hlow]
    · rw [hphase1, fld_setFld _ _ _ _ (by decide), Nat.mod_eq_of_lt hlow]
  · rw [hrd]
    show fld ((if _ then s1.wrF _ _ _ _ else s1).rd rTbPhase) 16 16 = _
    rw [if_pos hmore, State.rd_wrF, if_pos rfl, fld_setFld _ _ _ _ (by decide), Nat.mod_eq_of_lt hhigh]
  · show (if 8 ≤ err.natAbs ∧ err.natAbs < 64 then s2.slew err else s2).tb = _
    split
    · rw [State.slew, htb]
    · exact htb
  · exact (h1.trans h2).trans (.ite (.tb s2 _ (by decide)) (.refl _ s2))

/-! ### Ports that lose lock together -/

theorem State.rd_loseLock (s : State) (p : Fin 8) :
    (∀ a, a ≠ rTbStatus → a ∉ evtRegs → (s.loseLock p).rd a = s.rd a)
      ∧ bit ((s.loseLock p).rd rTbStatus) 3 = bit (s.rd rTbStatus) 3 := by
  unfold State.loseLock
  extract_lets x s1
  have h1 (a : Nat) : s1.rd a = s.rd a := by
    obtain ⟨-, -, -, honly⟩ := (s.setPort p { s.port p with st := 1, lanes := 0 }).loseNeighbour_frame p
    exact honly .regs (by decide) a
  split
  · refine ⟨fun a ha he => ?_, ?_⟩
    · rw [State.loseSource, State.rd_event_ne _ _ _ _ _ _ _ he, State.rd_setBit_ne _ _ ha]
      exact h1 a
    · rw [State.loseSource, State.rd_event_ne _ _ _ _ _ _ _ (by decide), State.rd_setBit, if_pos rfl,
        bit_setFld_other _ _ _ _ (by decide) (by decide)]
      exact congrArg (bit · 3) (h1 rTbStatus)
  · exact ⟨fun a _ _ => h1 a, congrArg (bit · 3) (h1 rTbStatus)⟩

/-- Several ports lose lock: each of them is in TRAIN, no other changes. -/
theorem State.loseLocks (l : List (Fin 8)) (s : State) :
    (∀ p, ((l.foldl State.loseLock s).port p).st = if p ∈ l then 1 else (s.port p).st)
      ∧ (∀ a, a ≠ rTbStatus → a ∉ evtRegs → (l.foldl State.loseLock s).rd a = s.rd a)
      ∧ bit ((l.foldl State.loseLock s).rd rTbStatus) 3 = bit (s.rd rTbStatus) 3 := by
  induction l generalizing s with
  | nil => exact ⟨fun p => by simp, fun _ _ _ => rfl, rfl⟩
  | cons x l ih =>
    obtain ⟨hst, hrd, hbit⟩ := ih (s.loseLock x)
    obtain ⟨hown, hother, -⟩ := s.loseLock_frame x
    obtain ⟨hrd1, hbit1⟩ := s.rd_loseLock x
    refine ⟨fun p => ?_, fun a ha he => (hrd a ha he).trans (hrd1 a ha he), hbit.trans hbit1⟩
    rw [List.foldl_cons, hst]
    by_cases hp : p = x
    · simp [hp, hown]
    · simp [hp, hother p hp]

/-- TIME_SLIP: the status, the record, the alert (11 R315). -/
def State.slipped (s : State) (err : Int) : State :=
  ((s.setBit rTbStatus 3).event 0x83 3 0xFF 0xFF 0xFFFF (BitVec.ofInt 32 err)).alert 2

theorem State.slipped_frame (s : State) (err : Int) :
    (s.slipped err).rd rTbPhase = s.rd rTbPhase ∧ bit ((s.slipped err).rd rTbStatus) 3 = true ∧ bit ((s.slipped err).rd rScAlert) 2 = true
      ∧ Only [.regs, .sc] s (s.slipped err) := by
  refine ⟨?_, ?_, ?_, ?_⟩
  · rw [State.slipped, State.alert, State.rd_setBit_ne _ _ (by decide), State.rd_event_ne _ _ _ _ _ _ _ (by decide),
      State.rd_setBit_ne _ _ (by decide)]
  · rw [State.slipped, State.alert, State.rd_setBit_ne _ _ (by decide), State.rd_event_ne _ _ _ _ _ _ _ (by decide), State.rd_setBit,
      if_pos rfl, bit_setFld_one _ _ (by decide)]
  · rw [State.slipped, State.alert, State.rd_setBit, if_pos rfl, bit_setFld_one _ _ (by decide)]
  · exact (Only.setBit s _ _ (by decide)).trans ((Only.event _ _ _ _ _ _ _ (by decide) (by decide)).trans (Only.alert _ _ (by decide)))

theorem exec_tbPhaseCheck {s : State} {offset r : Int} (hr : s.tb.phaseRef = some r) :
    exec (.tbPhaseCheck offset) s = if (offset - r).natAbs < 32 then .next (s.phased (offset - r))
      else if (offset - r).natAbs < 64 then .next ((s.phased (offset - r)).slipped (offset - r))
      else .next (((List.finRange 8).filter fun p => decide (2 ≤ (s.port p).st)).foldl State.loseLock
        ((s.phased (offset - r)).slipped (offset - r))) := by
  show execTbPhaseCheck offset s = _
  unfold execTbPhaseCheck
  rw [hr]
  rfl

/-- What a phase check that is compared with its reference leaves. -/
theorem runs_tbPhaseCheck {s : State} {offset r : Int} (hr : s.tb.phaseRef = some r) :
    Runs (.tbPhaseCheck offset) s fun t => t.rd rTbPhase = (s.phased (offset - r)).rd rTbPhase
      ∧ ((offset - r).natAbs < 32 → t = s.phased (offset - r))
      ∧ ((offset - r).natAbs < 64 → t.tb = (s.phased (offset - r)).tb)
      ∧ (32 ≤ (offset - r).natAbs → bit (t.rd rTbStatus) 3 = true ∧ bit (t.rd rScAlert) 2 = true)
      ∧ (64 ≤ (offset - r).natAbs → ∀ p, (t.port p).st = if 2 ≤ (s.port p).st then 1 else (s.port p).st) := by
  obtain ⟨-, -, -, honly⟩ := s.phased_frame (offset - r)
  obtain ⟨hphase, hslip, halert, hsonly⟩ := (s.phased (offset - r)).slipped_frame (offset - r)
  by_cases h32 : (offset - r).natAbs < 32
  · exact .of_eq ((exec_tbPhaseCheck hr).trans (if_pos h32)) ⟨rfl, fun _ => rfl, fun _ => rfl, fun h => absurd h32 (by omega),
      fun h => absurd h32 (by omega)⟩
  · by_cases h64 : (offset - r).natAbs < 64
    · refine .of_eq ((exec_tbPhaseCheck hr).trans ((if_neg h32).trans (if_pos h64))) ⟨hphase, fun h => absurd h h32,
        fun _ => hsonly .tb (by decide), fun _ => ⟨hslip, halert⟩, fun h => absurd h64 (by omega)⟩
    · obtain ⟨hst, hrd, hbit⟩ := State.loseLocks ((List.finRange 8).filter fun p => decide (2 ≤ (s.port p).st))
        ((s.phased (offset - r)).slipped (offset - r))
      refine .of_eq ((exec_tbPhaseCheck hr).trans ((if_neg h32).trans (if_neg h64))) ⟨?_, fun h => absurd h h32, fun h => absurd h h64,
        fun _ => ⟨hbit.trans hslip, ?_⟩, fun _ p => ?_⟩
      · rw [hrd _ (by decide) (by decide), hphase]
      · rw [hrd _ (by decide) (by decide), halert]
      · rw [hst, State.port_of_only hsonly (by decide), State.port_of_only honly (by decide)]
        simp

/-! ### Warnings and stretches -/

theorem State.rd_setSkip_ne (s : State) {a : Nat} (h : a ≠ rTbBeatState) : s.setSkip.rd a = s.rd a := State.rd_setBit_ne _ _ h

theorem State.rd_stretch_ne (s : State) (r : Fin 16) {a : Nat} (h : a ≠ rTbBeatState) : (s.stretch r).rd a = s.rd a := by
  unfold State.stretch
  extract_lets n tb s1
  split
  · exact s1.rd_setSkip_ne h
  · rfl

/-- The warnings that take their stretch change no register but the state of the beat. -/
theorem State.rd_drainWarns_ne (s : State) {a : Nat} (h : a ≠ rTbBeatState) : s.drainWarns.rd a = s.rd a := by
  have fold (l : List (Fin 16)) (t : State) :
      (l.foldl (fun t r => if t.warnWaits r.val && t.mayStretch r.val then (t.setWarn r false).stretch r else t) t).rd a = t.rd a := by
    induction l generalizing t with
    | nil => rfl
    | cons r l ih =>
      rw [List.foldl_cons, ih]
      split
      · exact (t.setWarn r false).rd_stretch_ne r h
      · rfl
  exact fold _ s

/-- Whether a region may stretch is not a matter of what its monitor measured. -/
theorem State.mayStretch_congr {s t : State} {region : Region} (htb : t.tb = s.tb)
    (hrd : ∀ a, a ≠ rPmRegionMon region.val → t.rd a = s.rd a) (r : Nat) : t.mayStretch r = s.mayStretch r := by
  have hlevel : t.level r = s.level r := congrArg (fld · 2 2) (hrd _ (by unfold rPmRegionClk rPmRegionMon; omega))
  have hlen : t.rd rTbBeatLen = s.rd rTbBeatLen := hrd _ (by unfold rTbBeatLen rPmRegionMon; omega)
  have hbudget : t.budget r = s.budget r := by
    unfold State.budget
    rw [hlen, hlevel]
  have hcount (r : Nat) : t.stretchOf r = s.stretchOf r := by rw [State.stretchOf, htb, State.stretchOf]
  simp only [State.mayStretch, hbudget, hcount]

/-- The monitor's warning and the least margin it saw (11 R337). -/
def State.warned (s : State) (region : Region) (margin : Nat) : State :=
  let a := rPmRegionMon region.val
  if margin < fld (s.rd a) 0 8 then (s.setBit a 8).wrF a 0 8 margin else s.setBit a 8

theorem State.warned_frame (s : State) (region : Region) (margin : Nat) :
    bit ((s.warned region margin).rd (rPmRegionMon region.val)) 8 = true
      ∧ (margin < fld (s.rd (rPmRegionMon region.val)) 0 8 →
          fld ((s.warned region margin).rd (rPmRegionMon region.val)) 0 8 = margin % 256)
      ∧ (s.warned region margin).tb = s.tb
      ∧ ∀ a, a ≠ rPmRegionMon region.val → (s.warned region margin).rd a = s.rd a := by
  unfold State.warned
  dsimp only
  split
  next h =>
    refine ⟨?_, fun _ => ?_, by rw [State.wrF_tb, State.setBit_tb], fun a ha => by rw [State.rd_wrF_ne _ _ _ _ ha, State.rd_setBit_ne _ _ ha]⟩
    · rw [State.rd_wrF, if_pos rfl, State.rd_setBit, if_pos rfl, bit_eq_fld, fld_setFld_above _ _ _ _ _ _ (by decide) (by decide), ← bit_eq_fld,
        bit_setFld_one _ _ (by decide)]
    · rw [State.rd_wrF, if_pos rfl, fld_setFld _ _ _ _ (by decide)]
      rfl
  next h =>
    exact ⟨by rw [State.rd_setBit, if_pos rfl, bit_setFld_one _ _ (by decide)], fun hlt => absurd hlt h, State.setBit_tb _ _ _,
      fun a ha => s.rd_setBit_ne _ ha⟩

/-! ### A crossing that is late -/

/-- The first late crossing captured, each counted (11 R323). -/
def State.crossed (s : State) (b : Fin 24) (down : Bool) : State :=
  (if bit (s.rd rTbXlate) 6 then s else s.wr rTbXlate (BitVec.ofNat 32 (b.val + bn down * 32 + 64))).bump rTbXlateCount

theorem State.crossed_frame (s : State) (b : Fin 24) (down : Bool) :
    (s.crossed b down).rd rTbXlateCount = satInc (s.rd rTbXlateCount)
      ∧ (bit (s.rd rTbXlate) 6 = false → (s.crossed b down).rd rTbXlate = BitVec.ofNat 32 (b.val + bn down * 32 + 64))
      ∧ Only [.regs] s (s.crossed b down) := by
  unfold State.crossed
  refine ⟨?_, fun h => ?_, (Only.ite (.refl _ s) (.wr s _ _ (by decide))).trans (Only.bump _ _ (by decide))⟩
  · rw [State.rd_bump, if_pos rfl]
    split
    · rfl
    · rw [State.rd_wr_ne _ _ (by decide)]
  · rw [if_neg (ne_true_of_eq_false h), State.rd_bump_ne _ (by decide), State.rd_wr_same]

theorem State.core_of_only {ch : List Grp} {s t : State} (h : Only ch s t) (hch : Grp.cores ∉ ch) (c : Nat) : t.core c = s.core c := h .cores hch c

theorem runs_crossingLate (s : State) (b : Fin 24) (down sheet : Bool) (core : Nat) (inp : Dir) :
    ∃ u, exec (.crossingLate b down sheet core inp) s
        = .next (if sheet then u else u.updCore core fun k => { k with lat := k.lat.voidFront inp })
      ∧ u.rd rTbXlateCount = satInc (s.rd rTbXlateCount)
      ∧ (bit (s.rd rTbXlate) 6 = false → u.rd rTbXlate = BitVec.ofNat 32 (b.val + bn down * 32 + 64))
      ∧ (s.beat.joined = true → u.beat.acc.skip = true) ∧ Only [.regs, .beat] s u := by
  obtain ⟨hcount, hfirst, honly⟩ := s.crossed_frame b down
  refine ⟨if s.beat.joined then (s.crossed b down).setSkip else s.crossed b down, ?_, ?_, fun h => ?_, fun h => ?_, ?_⟩
  · rfl
  · split
    · rw [State.rd_setSkip_ne _ (by decide), hcount]
    · exact hcount
  · split
    · rw [State.rd_setSkip_ne _ (by decide), hfirst h]
    · exact hfirst h
  · rw [if_pos h, State.setSkip, State.setBit_beat]
  · exact .ite ((honly.mono (by decide)).trans (Only.setSkip _ (by decide) (by decide))) (honly.mono (by decide))

/-- Settles O19: each row by what it does to the time base, the registers and the ports. -/
theorem timeBaseEvents : Obligations.TimeBaseEvents := by
  intro s offset r region margin b down sheet core inp
  refine ⟨fun hlive harm hj => ?_, fun hlock => ?_, fun hold => ?_, fun hnone h4 h6 hroot hpar => ?_, fun hr => ?_, fun hj => ?_,
    fun hlive hlev => ?_, fun hbehind hlev hwarn => ?_, ?_⟩
  · let t := join64 (s.rd rTbTsyncValLo) (s.rd rTbTsyncValHi) + 12
    let u := ((s.loadTc t).clrBit rTbCtl 1).setBit rTbStatus 4
    have hlog := Only.logTc u s.tb.tc t
    refine .of_eq (t := u.logTc s.tb.tc t) ?_ ⟨?_, ?_, ?_, fun g => ?_⟩
    · show execTsyncLoad s = _
      unfold execTsyncLoad
      rw [if_pos ⟨hlive, harm, by rw [hj]; rfl⟩]
    · rw [hlog .tb (by decide), State.setBit_tb, State.clrBit_tb, State.loadTc_tc]
    · rw [State.rd_logTc_ne _ _ _ (by decide), State.rd_setBit_ne _ _ (by decide), State.rd_clrBit, if_pos rfl, bit_setFld_zero _ _ (by decide)]
    · rw [State.rd_logTc_ne _ _ _ (by decide), State.rd_setBit, if_pos rfl, bit_setFld_one _ _ (by decide)]
    · rw [hlog .mem (by decide), State.memGet_setBit_other, State.memGet_clrBit_other, State.memGet_loadTc]
  · refine .of_eq (t := s.loseSource) ?_ ⟨?_, ?_⟩
    · show Host.Outcome.next _ = _
      rw [if_pos hlock]
    · exact s.loseSource_tb
    · unfold State.loseSource
      rw [State.rd_event_ne _ _ _ _ _ _ _ (by decide), State.rd_setBit, if_pos rfl, bit_setFld_one _ _ (by decide)]
  · refine .of_eq (t := { s with tb := { s.tb with locked := true, holdover := false } }) ?_ ⟨rfl, .tb s _ (by decide)⟩
    show Host.Outcome.next _ = _
    rw [if_pos hold]
  · refine .of_eq (t := { s with tb := { s.tb with phaseRef := some offset } }) ?_ ⟨rfl, .tb s _ (by decide)⟩
    show execTbPhaseCheck offset s = _
    unfold execTbPhaseCheck
    rw [hnone]
    dsimp only
    rw [if_pos (by simp [h4, h6, hroot, hpar])]
  · obtain ⟨hnow, hmax, htb, honly⟩ := s.phased_frame (offset - r)
    obtain ⟨t, hexec, hphase, h32, h64, hslip, hports⟩ := runs_tbPhaseCheck (offset := offset) hr
    refine .of_eq hexec ⟨by rw [hphase, hnow], fun h => by rw [hphase, hmax h], fun h => h32 h ▸ honly, fun h => ?_, fun h1 h2 => ?_,
      hslip, hports⟩
    · rw [h64 (by omega), htb, if_neg (by omega)]
    · rw [h64 h2, htb, if_pos ⟨h1, h2⟩]
  · refine .of_eq (t := s.toTc (s.nextBoundary - 8)) ?_ ⟨?_, ?_⟩
    · show Host.Outcome.next _ = _
      rw [if_pos hj]
    · exact .ite (.tb s _ (by decide)) (.refl _ s)
    · unfold State.toTc
      split <;> rfl
  · obtain ⟨hwarn, hmargin, htb, hrd⟩ := s.warned_frame region margin
    have hexec : exec (.monitorWarn region margin) s = if (s.warned region margin).mayStretch region.val
        then .next ((s.warned region margin).stretch region).drainWarns else .next ((s.warned region margin).setWarn region true) := by
      show execMonitorWarn region margin s = _
      unfold execMonitorWarn
      rw [if_pos ⟨hlive, hlev⟩]
      rfl
    have hmon : rPmRegionMon region.val ≠ rTbBeatState := by unfold rPmRegionMon rTbBeatState; omega
    rw [State.mayStretch_congr htb hrd] at hexec
    cases hmay : s.mayStretch region.val with
    | true =>
      rw [hmay, if_pos rfl] at hexec
      have hreg : (((s.warned region margin).stretch region).drainWarns).rd (rPmRegionMon region.val)
          = (s.warned region margin).rd (rPmRegionMon region.val) := by
        rw [State.rd_drainWarns_ne _ hmon, State.rd_stretch_ne _ _ hmon]
      exact .of_eq hexec ⟨by rw [hreg, hwarn], fun h => by rw [hreg, hmargin h], fun h => by cases h⟩
    | false =>
      rw [hmay, if_neg Bool.false_ne_true] at hexec
      exact .of_eq hexec ⟨hwarn, hmargin, fun _ => by rw [State.setWarn, htb]⟩
  · refine .of_eq (t := s.stretch region) ?_ ⟨s.stretch_tb region, .stretch s region⟩
    show execFollowStretch region s = _
    unfold execFollowStretch
    rw [if_pos ⟨hbehind, hlev⟩, State.drainWarns_of_none (by rw [State.stretch_tb, hwarn])]
  · obtain ⟨u, hexec, hcount, hfirst, hskip, honly⟩ := runs_crossingLate s b down sheet core inp
    cases sheet with
    | true => exact .of_eq hexec ⟨hcount, hfirst, hskip, fun _ => honly, fun h => by cases h⟩
    | false =>
      refine .of_eq hexec ⟨hcount, hfirst, hskip, fun h => absurd h (by decide), fun _ => ⟨?_, fun c hc => ?_, ?_⟩⟩
      · rw [if_neg Bool.false_ne_true]
        exact (honly.mono (by decide)).trans (Only.updCore _ _ _ (by decide))
      · rw [if_neg Bool.false_ne_true, State.core_updCore, if_neg hc, State.core_of_only honly (by decide)]
      · rw [if_neg Bool.false_ne_true, State.core_updCore, if_pos rfl, State.core_of_only honly (by decide)]

end Sys2Proof.Machine

/-! Power off, power on, reset and start-up (16 R453 to R461; 17 R480 to R493). -/

namespace Sys2Proof.Machine

open Sys2Proof

/-! ### What a power-off and a reset leave -/

theorem State.wiped_of_pwr (s : State) (w : Pwr) : Wiped s { s.wipe with pwr := w } := by
  refine ⟨?_, rfl, rfl, rfl, rfl⟩
  exact (Only.pending State.reset s.pending (by decide)).trans ((Only.fuses _ s.fuses (by decide)).trans
    ((Only.flash _ s.flash (by decide)).trans ((Only.pwr _ w (by decide)).trans ((Only.out _ s.out (by decide)).trans
      ((Only.rnd _ s.rnd (by decide)).trans (Only.free _ s.free (by decide)))))))

theorem set_all (v : Vector Rail 5) (r : Rail) : ((((v.set 0 r).set 1 r).set 2 r).set 3 r).set 4 r = Vector.replicate 5 r := by
  ext i hi
  interval_cases i <;> simp

theorem set_all_down (v : Vector Rail 5) (r : Rail) : ((((v.set 4 r).set 3 r).set 2 r).set 1 r).set 0 r = Vector.replicate 5 r := by
  ext i hi
  interval_cases i <;> simp

/-- The rails down, the last of them the bus. -/
theorem Pwr.railsDown (w : Pwr) : [4, 3, 2, 1, 0].foldl (fun w i => Pwr.setRail w .off i) w
    = { w with rails := Vector.replicate 5 .off, good := false } := by
  have hrails : _ = Vector.replicate 5 Rail.off := set_all_down w.rails .off
  simp only [List.foldl_cons, List.foldl_nil, Pwr.setRail]
  exact congrArg (fun v : Vector Rail 5 => { w with rails := v, good := v.toList.all fun x => decide (x = Rail.good) }) hrails

/-- The rails up, the last of them VSER: power is good. -/
theorem Pwr.railsUp (w : Pwr) : [0, 1, 2, 3, 4].foldl (fun w i => Pwr.setRail w .good i) w
    = { w with rails := Vector.replicate 5 .good, good := true } := by
  have hrails : _ = Vector.replicate 5 Rail.good := set_all w.rails .good
  simp only [List.foldl_cons, List.foldl_nil, Pwr.setRail]
  exact congrArg (fun v : Vector Rail 5 => { w with rails := v, good := v.toList.all fun x => decide (x = Rail.good) }) hrails

theorem State.poweredOff (s : State) (hold : Nat) (trip : Bool) : PoweredOff hold trip s (s.powerOff hold trip) := by
  unfold State.powerOff
  dsimp only
  rw [Pwr.railsDown]
  exact ⟨rfl, rfl, rfl, rfl, rfl, rfl, rfl, s.wiped_of_pwr _⟩

/-! ### What start-up keeps once the images are chosen -/

/-- Registers, records, the calibration's verdict and the management state alone changed, of the last neither images nor the number of
the boot. -/
structure BootKeeps (s t : State) : Prop where
  pwr : t.pwr = s.pwr
  locked : t.tb.locked = s.tb.locked
  fuses : t.fuses = s.fuses
  flash : t.flash = s.flash
  mem : t.mem = s.mem
  cores : t.cores = s.cores
  images : t.mc.images = s.mc.images
  bootId : t.mc.bootId = s.mc.bootId

theorem BootKeeps.refl (s : State) : BootKeeps s s := ⟨rfl, rfl, rfl, rfl, rfl, rfl, rfl, rfl⟩

theorem BootKeeps.trans {s t u : State} (h : BootKeeps s t) (k : BootKeeps t u) : BootKeeps s u :=
  ⟨k.pwr.trans h.pwr, k.locked.trans h.locked, k.fuses.trans h.fuses, k.flash.trans h.flash, k.mem.trans h.mem, k.cores.trans h.cores,
    k.images.trans h.images, k.bootId.trans h.bootId⟩

theorem BootKeeps.ite {s t u : State} {p : Prop} [Decidable p] (ht : BootKeeps s t) (hu : BootKeeps s u) :
    BootKeeps s (if p then t else u) := by
  split
  · exact ht
  · exact hu

theorem BootKeeps.foldl {α : Type} {f : State → α → State} (l : List α) (s : State) (h : ∀ t x, BootKeeps t (f t x)) :
    BootKeeps s (l.foldl f s) := by
  induction l generalizing s with
  | nil => exact .refl s
  | cons x l ih => exact (h s x).trans (ih _)

theorem BootKeeps.wr (s : State) (a : Nat) (v : Word) : BootKeeps s (s.wr a v) := ⟨rfl, rfl, rfl, rfl, rfl, rfl, rfl, rfl⟩

theorem BootKeeps.wrF (s : State) (a l n v : Nat) : BootKeeps s (s.wrF a l n v) := .wr s _ _

theorem BootKeeps.setBit (s : State) (a n : Nat) : BootKeeps s (s.setBit a n) := .wr s _ _

theorem BootKeeps.bump (s : State) (a : Nat) : BootKeeps s (s.bump a) := .wr s _ _

theorem BootKeeps.alert (s : State) (n : Nat) : BootKeeps s (s.alert n) := .wr s _ _

theorem BootKeeps.sc (s : State) (x : Sc) : BootKeeps s { s with sc := x } := ⟨rfl, rfl, rfl, rfl, rfl, rfl, rfl, rfl⟩

theorem BootKeeps.tb (s : State) (x : TimeBase) (h : x.locked = s.tb.locked) : BootKeeps s { s with tb := x } :=
  ⟨rfl, h, rfl, rfl, rfl, rfl, rfl, rfl⟩

theorem BootKeeps.mc (s : State) (x : Mc) (hi : x.images = s.mc.images) (hb : x.bootId = s.mc.bootId) : BootKeeps s { s with mc := x } :=
  ⟨rfl, rfl, rfl, rfl, rfl, rfl, hi, hb⟩

theorem BootKeeps.putEvt (s : State) (e : Evt) : BootKeeps s (s.putEvt e) := by
  unfold State.putEvt
  extract_lets head evts sc s1 s2
  have h2 : BootKeeps s s2 := (BootKeeps.sc s _).trans (.wr _ _ _)
  exact .ite (h2.trans ((BootKeeps.bump _ _).trans ((BootKeeps.wr _ _ _).trans (.setBit _ _ _)))) h2

theorem BootKeeps.event (s : State) (code unit eng part core : Nat) (arg : Word) : BootKeeps s (s.event code unit eng part core arg) :=
  .putEvt s _

theorem BootKeeps.putLog (s : State) (r : LogRec) : BootKeeps s (s.putLog r) := by
  unfold State.putLog
  extract_lets head d logs sc s1 s2 s3
  have h2 : BootKeeps s s2 := (BootKeeps.sc s _).trans (.wr _ _ _)
  have h3 : BootKeeps s s3 := h2.trans ((BootKeeps.bump _ _).trans ((BootKeeps.wr _ _ _).trans (.setBit _ _ _)))
  exact .ite (h3.trans ((BootKeeps.event _ _ _ _ _ _ _).trans (.alert _ _))) h2

theorem BootKeeps.log (s : State) (o : Origin) (k p : Nat) (x y z : Word) : BootKeeps s (s.log o k p x y z) := .putLog s _

theorem BootKeeps.wrWords (s : State) (a : Nat) (ws : List Word) : BootKeeps s (s.wrWords a ws) := by
  induction ws generalizing s a with
  | nil => exact .refl s
  | cons w r ih =>
    refine BootKeeps.trans ?_ (ih _ _)
    unfold State.wrFields
    split
    · exact .wr _ _ _
    · exact .refl _

theorem BootKeeps.calibrate (s : State) (cal : Calib) : BootKeeps s (s.calibrate cal) := by
  unfold State.calibrate
  extract_lets xs word s1
  have h1 : BootKeeps s s1 := .foldl _ _ fun t k => .wr t _ _
  split
  · exact h1
  · exact h1.trans ((BootKeeps.tb s1 _ (by rfl)).trans ((BootKeeps.event _ _ _ _ _ _ _).trans (.alert _ _)))

theorem BootKeeps.config (s : State) (q : Word) (k : Option Nat) (d : List Byte) (l : List ProgKey) :
    BootKeeps s { s with mc := { s.mc with cfgSeq := q, cfgCopy := k, cfgDig := d, keys := l } } := .mc s _ rfl rfl

theorem BootKeeps.applyConfig (s : State) : BootKeeps s s.applyConfig := by
  unfold State.applyConfig
  split
  next k hk =>
    extract_lets m s1 s2 sig mc s3
    have h1 : BootKeeps s s1 := .foldl _ _ fun t n => .wrWords t _ _
    have h2 : BootKeeps s1 s2 := .foldl _ _ fun t i => .wrWords t _ _
    have h3 : BootKeeps s2 s3 := .config s2 _ _ _ _
    exact (h1.trans (h2.trans h3)).trans ((BootKeeps.wrF _ _ _ _ _).trans (.wrF _ _ _ _ _))
  · exact (BootKeeps.wr _ _ _).trans ((BootKeeps.wr _ _ _).trans (.wrF _ _ _ _ _))

theorem BootKeeps.applyUcal (s : State) : BootKeeps s s.applyUcal := by
  unfold State.applyUcal
  split
  · exact (BootKeeps.wrWords s _ _).trans (.mc _ _ (by rfl) (by rfl))
  · exact .refl s

/-- MF running from a bank, with the images, the catalogue and the number of the boot, before it logs. -/
def State.mfRuns (s : State) (images : List FwImg) (boot mseq : Word) (rlib : List Routine) (chain : List Byte) : State :=
  { s with rnd := s.rnd + 1, mc := { s.mc with images := images, bootId := boot, matrixSeq := mseq, rlib := rlib },
           sc := { s.sc with chain := chain }, pwr := { s.pwr with phase := .starting } }

/-- What MF's start-up from a bank does to the state with its images. -/
theorem State.startMf_eq (s : State) (own : Nat) (mf : FwImg) (cal : Calib) :
    ∃ rest boot mseq rlib chain, boot ≠ 0 ∧ BootKeeps (s.mfRuns (mf :: rest) boot mseq rlib chain) (s.startMf own mf cal) := by
  unfold State.startMf
  extract_lets d boot imgs mx oc mximg mseq cat all st mc sc pw s1 s2 s3 s4
  have hboot : boot ≠ 0 := by
    show (if d.1 = 0 then (1 : Word) else d.1) ≠ 0
    split
    · decide
    · assumption
  have h2 : BootKeeps s1 s2 := .wr _ _ _
  have h3 : BootKeeps s2 s3 := .log _ _ _ _ _ _ _
  have h4 : BootKeeps s3 s4 := .ite (.event _ _ _ _ _ _ _) (.ite ((BootKeeps.event _ _ _ _ _ _ _).trans (.alert _ _)) (.refl _))
  exact ⟨_, boot, mseq, cat.take 256, _, hboot,
    (h2.trans (h3.trans h4)).trans ((BootKeeps.calibrate _ _).trans ((BootKeeps.applyConfig _).trans (.applyUcal _)))⟩

theorem State.flashBytes_congr {s t : State} (h : t.flash = s.flash) : t.flashBytes = s.flashBytes := by
  have hbyte : t.flashByte = s.flashByte := by
    funext a
    rw [State.flashByte, h, State.flashByte]
  funext a n
  rw [State.flashBytes, hbyte, State.flashBytes]

/-- The image that verifies at the flash address where its bank has one (16 R450): `imageOk` with the address looked up, so that its
branches are seen without evaluating the look-up. -/
def State.imageFrom (s : State) (b kind : Nat) (x : Option Nat) : Option (FwImg × List Byte) :=
  match x with
  | none => none
  | some a =>
    let h := s.flashBytes a 128
    let n := leAt h 16 4
    let payload := s.flashBytes (a + 128) n
    let svn := leAt h 12 2
    if leAt h 0 4 = 0x46574C50 ∧ leAt h 4 1 = kind ∧ leAt h 5 1 = 9 ∧ leAt h 6 1 = 0xB1 ∧ leAt h 7 1 = 0
        ∧ leAt h 20 12 = 0 ∧ sm3 payload = (h.drop 32).take 32 ∧ s.fuses.keysInUse.contains (sm3 (h.drop 64))
        ∧ sm2Verify (h.drop 64) (h ++ payload) (s.flashBytes (a + 128 + n) 64) = true
        ∧ s.fuses.minSvn.getD (kind - 1) 0 ≤ svn then
      some (⟨false, b, BitVec.ofNat 32 (leAt h 8 4), svn, leAt h 14 2, (h.drop 32).take 32, sm3 (h.drop 64)⟩, payload)
    else none

theorem State.imageOk_eq (s : State) (b kind : Nat) : s.imageOk b kind = s.imageFrom b kind (s.imageAt b kind) := rfl

theorem State.imageOk_congr {s t : State} (hf : t.flash = s.flash) (hu : t.fuses = s.fuses) : t.imageOk = s.imageOk := by
  have hat : t.imageAt = s.imageAt := by
    funext b kind
    unfold State.imageAt
    rw [State.flashBytes_congr hf]
  have hfrom : t.imageFrom = s.imageFrom := by
    funext b kind x
    unfold State.imageFrom
    rw [State.flashBytes_congr hf, hu]
  funext b kind
  rw [State.imageOk_eq, hat, hfrom, State.imageOk_eq]

theorem State.validBanks_congr {s t : State} (hf : t.flash = s.flash) : t.validBanks = s.validBanks := by
  have hvalid : t.bankValid = s.bankValid := by
    funext b
    rw [State.bankValid, State.flashBytes_congr hf, State.bankValid]
  have hseq : t.bankSeq = s.bankSeq := by
    funext b
    rw [State.bankSeq, State.flashBytes_congr hf, State.bankSeq]
  rw [State.validBanks, hvalid, hseq, State.validBanks]

/-- The state in which start-up begins: everything lost that power does not keep, RESET_N high, the loop locked. -/
def State.released (s : State) : State :=
  { s.wipe with pwr := { s.pwr with resetN := true }, tb := { s.wipe.tb with locked := true } }

theorem State.startUp_eq (s : State) (cal : Calib) : s.startUp cal =
    if s.fuses.lifecycle = 4 then { s.released with pwr := { s.released.pwr with phase := .halted } }
    else match s.validBanks.findSome? fun b => (s.imageOk b 1).map fun x => (b, x.1) with
      | none => { s.released with pwr := { s.released.pwr with phase := .halted, alertHeld := true } }
      | some (b, mf) => s.released.startMf b mf cal := by
  have hstart : s.startUp cal = if s.fuses.lifecycle = 4 then { s.released with pwr := { s.released.pwr with phase := .halted } }
      else match s.released.validBanks.findSome? fun b => (s.released.imageOk b 1).map fun x => (b, x.1) with
        | none => { s.released with pwr := { s.released.pwr with phase := .halted, alertHeld := true } }
        | some (b, mf) => s.released.startMf b mf cal := rfl
  rw [hstart, State.validBanks_congr (show s.released.flash = s.flash from rfl),
    State.imageOk_congr (show s.released.flash = s.flash from rfl) rfl]

/-- What the release of the internal reset does where the power is good. -/
theorem internalResetReleased (s : State) (cal : Calib) (b : Nat) (mf : FwImg) :
    let t := s.startUp cal
    t.pwr.resetN = true ∧ t.tb.locked = true ∧ t.fuses = s.fuses ∧ t.flash = s.flash ∧ t.mem = [] ∧ t.cores = []
      ∧ (s.fuses.lifecycle = 4 → t.pwr.phase = .halted)
      ∧ (s.fuses.lifecycle ≠ 4 → (∀ k ∈ s.validBanks, s.imageOk k 1 = none) → t.pwr.phase = .halted ∧ t.pwr.alertHeld = true)
      ∧ (s.fuses.lifecycle ≠ 4 → s.validBanks.findSome? (fun k => (s.imageOk k 1).map fun x => (k, x.1)) = some (b, mf) →
          t.pwr.phase = .starting ∧ t.mc.images.head? = some mf ∧ t.mc.bootId ≠ 0) := by
  intro t
  by_cases hlc : s.fuses.lifecycle = 4
  · have ht : t = _ := (s.startUp_eq cal).trans (if_pos hlc)
    rw [ht]
    exact ⟨rfl, rfl, rfl, rfl, rfl, rfl, fun _ => rfl, fun h => absurd hlc h, fun h => absurd hlc h⟩
  · have ht : t = _ := (s.startUp_eq cal).trans (if_neg hlc)
    cases hfind : s.validBanks.findSome? fun b => (s.imageOk b 1).map fun x => (b, x.1) with
    | none =>
      rw [hfind] at ht
      rw [ht]
      exact ⟨rfl, rfl, rfl, rfl, rfl, rfl, fun h => absurd h hlc, fun _ _ => ⟨rfl, rfl⟩, fun _ h => by cases h⟩
    | some x =>
      obtain ⟨own, img⟩ := x
      rw [hfind] at ht
      obtain ⟨rest, boot, mseq, rlib, chain, hboot, hk⟩ := s.released.startMf_eq own img cal
      rw [ht]
      refine ⟨by rw [hk.pwr]; rfl, by rw [hk.locked]; rfl, by rw [hk.fuses]; rfl, by rw [hk.flash]; rfl, by rw [hk.mem]; rfl,
        by rw [hk.cores]; rfl, fun h => absurd h hlc, fun _ hnone => ?_, fun _ hsome => ?_⟩
      · obtain ⟨k, hk1, hk2⟩ := List.exists_of_findSome?_eq_some hfind
        rw [hnone k hk1] at hk2
        cases hk2
      · obtain ⟨rfl, rfl⟩ := Prod.mk.inj (Option.some.inj hsome)
        exact ⟨by rw [hk.pwr]; rfl, by rw [hk.images]; rfl, by rw [hk.bootId]; exact hboot⟩

/-- The rails risen, in reset. -/
theorem State.railsRise_eq (s : State) : s.railsRise
    = { s with pwr := { s.pwr with rails := Vector.replicate 5 .good, good := true, phase := .reset, rise := false, alertHeld := false } } := by
  unfold State.railsRise
  rw [Pwr.railsUp]

/-- Settles O17: a power-off and a reset wipe; the rows of the pins and of the hold change the module's power alone. -/
theorem powerSequence : Obligations.PowerSequence := by
  intro s rail ns cal late b mf
  refine ⟨fun hup => ⟨?_, ?_, ?_, ?_, ?_, ?_, fun hns => ?_⟩, fun hns => ?_, fun hen hhold => ?_, fun hen hhold hoff => ?_,
    fun hhold => ?_, fun hreset hgood => ?_, fun hstart hlate => ?_, fun hpend => ?_⟩
  · exact .of_eq (congrArg Host.Outcome.next (if_pos hup)) (s.poweredOff 1 false)
  · exact .of_eq (congrArg Host.Outcome.next (if_pos hup)) (s.poweredOff 1 false)
  · exact .of_eq (congrArg Host.Outcome.next (if_pos hup)) (s.poweredOff 1 false)
  · exact .of_eq (congrArg Host.Outcome.next (if_pos hup)) (s.poweredOff 1 false)
  · exact .of_eq (congrArg Host.Outcome.next (if_pos hup)) (s.poweredOff 2 true)
  · obtain ⟨hphase, hgood, -, -, hhold, -, -, -⟩ := s.poweredOff 1 false
    refine .of_eq (t := { s.powerOff 1 false with pwr := { (s.powerOff 1 false).pwr with pwrEn := false, rise := false, trip := false } })
      ?_ ⟨rfl, hphase, hgood, rfl, hhold, s.wiped_of_pwr _⟩
    show execPwrEnFall s = _
    unfold execPwrEnFall
    rw [if_pos hup]
  · refine .of_eq (t := { s.resetKeep with pwr := { s.resetKeep.pwr with resetN := false } }) ?_ ⟨rfl, rfl, rfl, s.wiped_of_pwr _⟩
    show execResetNLow ns s = _
    unfold execResetNLow
    rw [if_neg (by omega), if_neg (by omega), if_pos hup]
  · exact .of_eq (if_pos hns) rfl
  · refine .of_eq (t := { s with pwr := { s.pwr with pwrEn := true, rise := true } }) ?_ ⟨rfl, .pwr s _ (by decide)⟩
    show execPwrEnRise s = _
    unfold execPwrEnRise
    dsimp only
    rw [if_neg (ne_true_of_eq_false hen), if_pos hhold]
  · refine .of_eq (t := State.railsRise { s with pwr := { s.pwr with pwrEn := true } }) ?_ ?_
    · have hdown : s.railsUp = false := by simp [State.railsUp, hoff]
      show execPwrEnRise s = _
      unfold execPwrEnRise
      dsimp only
      rw [if_neg (ne_true_of_eq_false hen), if_neg (not_not.mpr hhold), if_neg (ne_true_of_eq_false hdown)]
    · rw [State.railsRise_eq]
      exact ⟨rfl, rfl, rfl, rfl, .pwr s _ (by decide)⟩
  · have hexec : exec .powerOffHoldEnd s = .next (if s.pwr.rise ∧ s.pwr.pwrEn
        then State.railsRise { s with pwr := { s.pwr with hold := 0 } } else { s with pwr := { s.pwr with hold := 0 } }) := if_neg hhold
    refine .of_eq hexec ?_
    rw [State.railsRise_eq]
    split
    next h => exact ⟨rfl, .pwr s _ (by decide), fun _ _ => ⟨rfl, rfl⟩, fun hno => absurd (h.1.symm.trans hno) (by decide)⟩
    next h => exact ⟨rfl, .pwr s _ (by decide), fun h1 h2 => absurd ⟨h1, h2⟩ h, fun _ => rfl⟩
  · exact .of_eq (congrArg Host.Outcome.next (if_pos ⟨hreset, hgood⟩)) (internalResetReleased s cal b mf)
  · refine .of_eq (congrArg Host.Outcome.next (if_pos ⟨hstart, ?_⟩)) ⟨rfl, .pwr s _ (by decide)⟩
    exact hlate.imp id fun h => by rw [h]; rfl
  · exact .of_eq (congrArg Host.Outcome.next (if_pos hpend)) ⟨rfl, rfl, s.wiped_of_pwr _⟩

end Sys2Proof.Machine

/-! What the power and thermal monitors record (17 R478 to R496). -/

namespace Sys2Proof.Machine

open Sys2Proof

/-- A bit that is set stays set when another, or it again, is set. -/
theorem bit_setFld_of_set {w : Word} {m : Nat} (n : Nat) (hn : n < 32) (h : bit w m = true) : bit (setFld w n 1 1) m = true := by
  by_cases e : m = n
  · rw [e, bit_setFld_one _ _ hn]
  · rw [bit_setFld_other _ _ _ _ hn e, h]

/-! ### Records that follow one another -/

/-- The record stands in the ring, `k` places after the head that `s` has. -/
def RecAt (s t : State) (k : Nat) (e : Evt) : Prop :=
  Sparse.get (fun _ => none) t.sc.evts ((s.rd rScEvtHead + BitVec.ofNat 32 k).toNat % 4096) = some (s.rd rScEvtHead + BitVec.ofNat 32 k, e)

/-- A state at the same time of the same beat, whose head is `j` records further. -/
structure Ahead (s u : State) (j : Nat) : Prop where
  tb : u.tb = s.tb
  beat : u.beat = s.beat
  head : u.rd rScEvtHead = s.rd rScEvtHead + BitVec.ofNat 32 j

theorem recAt_putEvt {s u : State} {j : Nat} (h : Ahead s u j) (e : Evt) : RecAt s (u.putEvt e) j e := by
  have hrec := u.evt_putEvt e
  rwa [h.head] at hrec

theorem head_add_mod (x : Word) (k : Nat) : (x + BitVec.ofNat 32 k).toNat % 4096 = (x.toNat + k) % 4096 := by
  rw [BitVec.toNat_add, BitVec.toNat_ofNat]
  omega

theorem RecAt.putEvt {s u : State} {j k : Nat} (h : Ahead s u j) (hk : k < j) (hj : j < 4096) {e : Evt} (hrec : RecAt s u k e) (d : Evt) :
    RecAt s (u.putEvt d) k e := by
  have hne : (s.rd rScEvtHead + BitVec.ofNat 32 k).toNat % 4096 ≠ (u.rd rScEvtHead).toNat % 4096 := by
    rw [h.head, head_add_mod, head_add_mod]
    omega
  rw [RecAt, State.evts_putEvt, Laws.get_set, if_neg hne]
  exact hrec

/-! ### A code whose condition is present -/

/-- The status bit of a code and the note that it is present. -/
def State.codeSeen (s : State) (code stBit : Nat) : State :=
  { s.setBit rPmStatus stBit with
    pwr := { s.pwr with live := ⟨code, s.tb.tc, none⟩ :: s.pwr.live.filter fun p => decide (p.code ≠ code) }, free := s.free + 1 }

theorem State.powerCode_eq (s : State) (code stBit alertBit : Nat) (arg : Word) : s.powerCode code stBit alertBit arg
    = if s.freshCode code then ((s.codeSeen code stBit).event code 4 0xFF 0xFF 0xFFFF arg).alert alertBit else s.codeSeen code stBit := rfl

theorem State.rd_codeSeen (s : State) (code stBit a : Nat) : (s.codeSeen code stBit).rd a = (s.setBit rPmStatus stBit).rd a := rfl

/-- The registers that a power code changes. -/
def codeRegs : List Nat := rPmStatus :: rScAlert :: evtRegs

theorem State.rd_powerCode_ne (s : State) (code stBit alertBit : Nat) (arg : Word) {a : Nat} (h : a ∉ codeRegs) :
    (s.powerCode code stBit alertBit arg).rd a = s.rd a := by
  simp only [codeRegs, List.mem_cons, not_or] at h
  obtain ⟨hst, halert, hevt⟩ := h
  rw [State.powerCode_eq]
  split
  · rw [State.alert, State.rd_setBit_ne _ _ halert, State.rd_event_ne _ _ _ _ _ _ _ (by simpa [evtRegs] using hevt), State.rd_codeSeen,
      State.rd_setBit_ne _ _ hst]
  · rw [State.rd_codeSeen, State.rd_setBit_ne _ _ hst]

theorem State.raised_cons_other (s : State) {c d : Nat} (h : c ≠ d) (tc : DWord) :
    (⟨c, tc, none⟩ :: s.pwr.live.filter fun p => decide (p.code ≠ c)).find? (fun p : PowerCode => decide (p.code = d)) = s.raised d := by
  rw [List.find?_cons_of_neg (by simpa using h), List.find?_filter, State.raised]
  congr 1
  funext p
  by_cases hp : p.code = d
  · simp [hp, Ne.symm h]
  · simp [hp]

theorem State.pwr_powerCode (s : State) (c stBit alertBit : Nat) (arg : Word) :
    (s.powerCode c stBit alertBit arg).pwr = (s.codeSeen c stBit).pwr := by
  rw [State.powerCode_eq]
  split
  · rw [State.alert, State.setBit_pwr, Only.event (ch := [.regs, .sc]) _ _ _ _ _ _ _ (by decide) (by decide) .pwr (by decide)]
  · rfl

theorem State.raised_powerCode_other (s : State) {c d : Nat} (h : c ≠ d) (stBit alertBit : Nat) (arg : Word) :
    (s.powerCode c stBit alertBit arg).raised d = s.raised d := by
  rw [State.raised, State.pwr_powerCode]
  exact s.raised_cons_other h s.tb.tc

theorem Only.powerCode {ch : List Grp} (s : State) (code stBit alertBit : Nat) (arg : Word) (hr : Grp.regs ∈ ch) (hp : Grp.pwr ∈ ch)
    (hf : Grp.free ∈ ch) (hs : Grp.sc ∈ ch) : Only ch s (s.powerCode code stBit alertBit arg) := by
  have hseen : Only ch s (s.codeSeen code stBit) := 
    ((Only.setBit s rPmStatus stBit hr).trans (Only.pwr _ (s.codeSeen code stBit).pwr hp)).trans (Only.free _ (s.free + 1) hf)
  rw [State.powerCode_eq]
  exact .ite (hseen.trans ((Only.event _ _ _ _ _ _ _ hr hs).trans (Only.alert _ _ hr))) hseen

theorem freshCode_of_powerFresh {s u : State} {c : Nat} (htb : u.tb = s.tb) (hraised : u.raised c = s.raised c) (h : PowerFresh s c) :
    u.freshCode c = true := by
  unfold State.freshCode
  obtain hnone | ⟨p, t, hsome, hended, hlong⟩ := h
  · rw [hraised, hnone]
  · rw [hraised, hsome]
    dsimp only
    rw [hended]
    dsimp only
    rw [State.second, htb, decide_eq_true hlong]

theorem freshCode_of_powerLasts {s : State} {c : Nat} (h : PowerLasts s c) : s.freshCode c = false := by
  unfold State.freshCode
  obtain ⟨p, hsome, hlast⟩ := h
  rw [hsome]
  dsimp only
  cases hended : p.ended with
  | none =>
    rw [hended] at hlast
    obtain hsampled | hlt := hlast
    · simp [hsampled]
    · have hno : s.second p.last = false := decide_eq_false (Nat.not_le.mpr hlt)
      simp [hno]
  | some t =>
    rw [hended] at hlast
    exact decide_eq_false (Nat.not_le.mpr hlast)

/-- A code in an event of several: its own bits and record, and what stood before it. -/
theorem powerCode_step {s u : State} {j : Nat} (h : Ahead s u j) (hj : j < 4096) (c st al : Nat) (arg : Word) (hst : st < 32)
    (hal : al < 32) :
    let t := u.powerCode c st al arg
    ∃ j', j ≤ j' ∧ j' ≤ j + 1 ∧ Ahead s t j' ∧ (u.raised c = s.raised c → Sys2Proof.PowerCode c st al arg j' s t)
      ∧ ∀ c2 st2 al2 arg2 n, n ≤ j → Sys2Proof.PowerCode c2 st2 al2 arg2 n s u → Sys2Proof.PowerCode c2 st2 al2 arg2 n s t := by
  have hseen : Ahead s (u.codeSeen c st) j :=
    ⟨h.tb, h.beat, by rw [State.rd_codeSeen, State.rd_setBit_ne _ _ (by decide), h.head]⟩
  have hstatus : (u.codeSeen c st).rd rPmStatus = setFld (u.rd rPmStatus) st 1 1 := by rw [State.rd_codeSeen, State.rd_setBit, if_pos rfl]
  rw [State.powerCode_eq]
  cases hfresh : u.freshCode c with
  | true =>
    rw [if_pos rfl]
    let e : Evt := ⟨c, 4, 0xFF, 0xFF, 0xFFFF, 1, s.beat.bno, arg, s.tb.tc⟩
    have hevent : (u.codeSeen c st).event c 4 0xFF 0xFF 0xFFFF arg = (u.codeSeen c st).putEvt e := by
      unfold State.event
      rw [hseen.beat, hseen.tb]
    rw [hevent]
    have honly : Only [.regs, .sc] (u.codeSeen c st) ((u.codeSeen c st).putEvt e) := .putEvt _ _ (by decide) (by decide)
    have hpm : (((u.codeSeen c st).putEvt e).alert al).rd rPmStatus = setFld (u.rd rPmStatus) st 1 1 := by
      rw [State.alert, State.rd_setBit_ne _ _ (by decide), State.rd_putEvt_ne _ _ (by decide), hstatus]
    have hsc : (((u.codeSeen c st).putEvt e).alert al).rd rScAlert = setFld (u.rd rScAlert) al 1 1 := by
      rw [State.alert, State.rd_setBit, if_pos rfl, State.rd_putEvt_ne _ _ (by decide), State.rd_codeSeen, State.rd_setBit_ne _ _ (by decide)]
    refine ⟨j + 1, by omega, le_rfl, ⟨?_, ?_, ?_⟩, fun _ => ⟨?_, fun _ => ⟨?_, j, by omega, recAt_putEvt hseen e⟩⟩, ?_⟩
    · rw [State.alert, State.setBit_tb, honly .tb (by decide), hseen.tb]
    · rw [State.alert, State.setBit_beat, honly .beat (by decide), hseen.beat]
    · rw [State.alert, State.rd_setBit_ne _ _ (by decide), State.rd_putEvt_head, hseen.head, BitVec.ofNat_add, BitVec.add_assoc]
      rfl
    · rw [hpm, bit_setFld_one _ _ hst]
    · rw [hsc, bit_setFld_one _ _ hal]
    · rintro c2 st2 al2 arg2 n hn ⟨hbit, hrec⟩
      refine ⟨by rw [hpm]; exact bit_setFld_of_set _ hst hbit, fun hf => ?_⟩
      obtain ⟨halert, k, hk, hat⟩ := hrec hf
      exact ⟨by rw [hsc]; exact bit_setFld_of_set _ hal halert, k, hk, RecAt.putEvt hseen (by omega) hj hat e⟩
  | false =>
    rw [if_neg Bool.false_ne_true]
    refine ⟨j, le_rfl, by omega, hseen, fun hraised => ⟨?_, fun hf => ?_⟩, ?_⟩
    · rw [hstatus, bit_setFld_one _ _ hst]
    · exact absurd (hfresh.symm.trans (freshCode_of_powerFresh h.tb hraised hf)) (by decide)
    · rintro c2 st2 al2 arg2 n hn ⟨hbit, hrec⟩
      refine ⟨by rw [hstatus]; exact bit_setFld_of_set _ hst hbit, fun hf => ?_⟩
      rw [State.rd_codeSeen, State.rd_setBit_ne _ _ (by decide)]
      exact hrec hf

theorem State.freshCode_congr {s u : State} (hpwr : u.pwr = s.pwr) (htb : u.tb = s.tb) (hfree : u.free = s.free) (c : Nat) :
    u.freshCode c = s.freshCode c := by
  simp only [State.freshCode, State.raised, State.second, hpwr, htb, hfree]

/-- A code alone in its event, after registers were written. -/
theorem powerEvent_powerCode {s u : State} (h : Only [.regs] s u) (hhead : u.rd rScEvtHead = s.rd rScEvtHead)
    (halert : u.rd rScAlert = s.rd rScAlert) (c st al : Nat) (arg : Word) (hst : st < 32) (hal : al < 32) :
    PowerEvent c st al arg s (u.powerCode c st al arg) := by
  have hahead : Ahead s u 0 := ⟨h .tb (by decide), h .beat (by decide), hhead.trans (BitVec.add_zero _).symm⟩
  have hraised : u.raised c = s.raised c := by rw [State.raised, h .pwr (by decide), State.raised]
  obtain ⟨j, -, hj, -, hcode, -⟩ := powerCode_step hahead (by decide) c st al arg hst hal
  obtain ⟨hbit, hrec⟩ := hcode hraised
  refine ⟨⟨hbit, fun hf => ?_⟩, fun hlast => ?_⟩
  · obtain ⟨ha, k, hk, hat⟩ := hrec hf
    exact ⟨ha, k, by omega, hat⟩
  · have hstale : u.freshCode c = false :=
      (State.freshCode_congr (h .pwr (by decide)) (h .tb (by decide)) (h .free (by decide)) c).trans (freshCode_of_powerLasts hlast)
    rw [State.powerCode_eq, if_neg (ne_true_of_eq_false hstale)]
    exact ⟨h .sc (by decide), by rw [State.rd_codeSeen, State.rd_setBit_ne _ _ (by decide), halert]⟩

theorem powerCode_mono {c st al : Nat} {arg : Word} {n m : Nat} {s t : State} (h : Sys2Proof.PowerCode c st al arg n s t) (hnm : n ≤ m) :
    Sys2Proof.PowerCode c st al arg m s t := by
  obtain ⟨hbit, hrec⟩ := h
  refine ⟨hbit, fun hf => ?_⟩
  obtain ⟨halert, k, hk, hat⟩ := hrec hf
  exact ⟨halert, k, by omega, hat⟩

/-! ### Conditions that a sample finds absent, regions that are stopped -/

theorem State.raised_powerClear (s : State) (c d : Nat) :
    (s.powerClear c).raised d
      = (s.raised d).map fun p => if p.code = c ∧ p.ended.isNone then { p with ended := some s.tb.tc } else p := by
  unfold State.raised State.powerClear
  dsimp only
  rw [List.find?_map]
  congr 2
  funext p
  dsimp only [Function.comp]
  split <;> rfl

theorem State.raised_powerClear_other (s : State) {c d : Nat} (h : c ≠ d) : (s.powerClear c).raised d = s.raised d := by
  rw [State.raised_powerClear]
  cases hr : s.raised d with
  | none => rfl
  | some p =>
    have hp : p.code = d := by simpa using List.find?_some (show s.pwr.live.find? _ = some p from hr)
    rw [Option.map_some, if_neg (fun hc => h (hc.1.symm.trans hp))]

theorem State.ended_of_powerClear (s : State) (c : Nat) {p : PowerCode} (h : (s.powerClear c).raised c = some p) : p.ended.isSome = true := by
  rw [State.raised_powerClear] at h
  obtain ⟨q, hq, rfl⟩ := Option.map_eq_some_iff.mp h
  have hcode : q.code = c := by simpa using List.find?_some (show s.pwr.live.find? _ = some q from hq)
  split
  · rfl
  next hno =>
    cases he : q.ended with
    | none => exact absurd ⟨hcode, by rw [he]; rfl⟩ hno
    | some t => rfl

theorem State.regionHeld_of_only {ch : List Grp} {s t : State} (h : Only ch s t) (hp : Grp.parts ∉ ch) (hf : Grp.fuses ∉ ch) (r : Nat) :
    t.regionHeld r = s.regionHeld r := by
  have hparts : t.partList = s.partList := by
    unfold State.partList
    exact List.map_congr_left fun p _ => by rw [h .parts hp p]
  have hrow : t.physRow = s.physRow := by
    funext x y
    rw [State.physRow, h .fuses hf, State.physRow]
  have huses : t.partUses = s.partUses := by
    funext q r
    rw [State.partUses, hrow, State.partUses]
  rw [State.regionHeld, hparts, huses, State.regionHeld]

/-- What PM stops: every region that no running work holds. -/
theorem State.stopFree_frame (s : State) :
    (∀ r : Fin 16, s.stopFree.level r.val = if s.regionHeld r.val then s.level r.val else 3)
      ∧ Only [.regs] s s.stopFree ∧ ∀ a, (∀ r, a ≠ rPmRegionClk r) → s.stopFree.rd a = s.rd a := by
  have fold (l : List (Fin 16)) (t : State) (ht : Only [.regs] s t) :
      let u := l.foldl (fun t r => if t.regionHeld r.val ∨ t.level r.val = 3 then t else t.wrF (rPmRegionClk r.val) 2 2 3) t
      (∀ r : Fin 16, u.level r.val = if r ∈ l ∧ s.regionHeld r.val = false then 3 else t.level r.val)
        ∧ Only [.regs] s u ∧ ∀ a, (∀ r, a ≠ rPmRegionClk r) → u.rd a = t.rd a := by
    induction l generalizing t with
    | nil => exact ⟨fun r => by simp, ht, fun _ _ => rfl⟩
    | cons x l ih =>
      have hstep : Only [.regs] t (if t.regionHeld x.val ∨ t.level x.val = 3 then t else t.wrF (rPmRegionClk x.val) 2 2 3) :=
        .ite (.refl _ t) (.wrF t _ _ _ _ (by decide))
      obtain ⟨hlevel, honly, hrd⟩ := ih _ (ht.trans hstep)
      have hheld := State.regionHeld_of_only ht (by decide) (by decide) x.val
      have hwritten (r : Fin 16) : (t.wrF (rPmRegionClk x.val) 2 2 3).level r.val = if r = x then 3 else t.level r.val := by
        rw [State.level, State.rd_wrF]
        by_cases hr : r = x
        · rw [if_pos (by rw [hr]), if_pos hr, fld_setFld _ _ _ _ (by decide)]
          rfl
        · rw [if_neg (fun e => hr (Fin.ext (by unfold rPmRegionClk at e; omega))), if_neg hr, State.level]
      refine ⟨fun r => ?_, honly, fun a ha => (hrd a ha).trans ?_⟩
      · rw [List.foldl_cons, hlevel]
        simp only [List.mem_cons]
        by_cases hskip : t.regionHeld x.val = true ∨ t.level x.val = 3
        · rw [if_pos hskip]
          by_cases hr : r = x
          · subst hr
            rw [hheld] at hskip
            by_cases hh : s.regionHeld r.val = true
            · simp [hh]
            · simp [hskip.resolve_left hh]
          · simp [hr]
        · rw [if_neg hskip, hwritten]
          by_cases hr : r = x
          · subst hr
            have hfree : s.regionHeld r.val = false := by
              rw [← hheld]
              simpa using fun h => hskip (.inl h)
            simp [hfree]
          · simp [hr]
      · split
        · rfl
        · exact t.rd_wrF_ne _ _ _ (ha _)
  obtain ⟨hlevel, honly, hrd⟩ := fold (List.finRange 16) s (.refl _ s)
  refine ⟨fun r => ?_, honly, hrd⟩
  rw [State.stopFree, hlevel]
  cases s.regionHeld r.val <;> simp

/-! ### A sample of the sensors -/

/-- From `u`, `j` records after the head of `s`, to `t`: the codes known stay known, and registers other than a code's stand. -/
structure Sampled (s u t : State) (j j' : Nat) : Prop where
  ahead : Ahead s t j'
  le : j ≤ j'
  keeps : ∀ c st al arg n, n ≤ j → Sys2Proof.PowerCode c st al arg n s u → Sys2Proof.PowerCode c st al arg n s t
  rd : ∀ a, a ∉ codeRegs → (∀ r, a ≠ rPmRegionClk r) → t.rd a = u.rd a
  temps : t.pwr.temps = u.pwr.temps
  only : Only [.regs, .pwr, .sc, .free] u t

theorem Sampled.refl {s u : State} {j : Nat} (h : Ahead s u j) : Sampled s u u j j :=
  ⟨h, le_rfl, fun _ _ _ _ _ _ h => h, fun _ _ _ => rfl, rfl, .refl _ u⟩

theorem Sampled.trans {s u v w : State} {i j k : Nat} (h : Sampled s u v i j) (g : Sampled s v w j k) : Sampled s u w i k :=
  ⟨g.ahead, h.le.trans g.le, fun c st al arg n hn hc => g.keeps c st al arg n (hn.trans h.le) (h.keeps c st al arg n hn hc),
    fun a ha hr => (g.rd a ha hr).trans (h.rd a ha hr), g.temps.trans h.temps, h.only.trans g.only⟩

theorem State.temps_powerCode (s : State) (c st al : Nat) (arg : Word) : (s.powerCode c st al arg).pwr.temps = s.pwr.temps := by
  rw [State.pwr_powerCode]
  rfl

/-- A code written where its condition is present. -/
theorem sampled_powerCode {s u : State} {j : Nat} (h : Ahead s u j) (hj : j < 4096) (c st al : Nat) (arg : Word) (hst : st < 32)
    (hal : al < 32) : ∃ j', j' ≤ j + 1 ∧ Sampled s u (u.powerCode c st al arg) j j'
      ∧ (u.raised c = s.raised c → Sys2Proof.PowerCode c st al arg j' s (u.powerCode c st al arg)) := by
  obtain ⟨j', hle, hlt, hahead, hcode, hkeeps⟩ := powerCode_step h hj c st al arg hst hal
  exact ⟨j', hlt, ⟨hahead, hle, hkeeps, fun a ha _ => u.rd_powerCode_ne c st al arg ha, u.temps_powerCode c st al arg,
    .powerCode u c st al arg (by decide) (by decide) (by decide) (by decide)⟩, hcode⟩

theorem sampled_powerClear {s u : State} {j : Nat} (h : Ahead s u j) (c : Nat) : Sampled s u (u.powerClear c) j j :=
  ⟨⟨h.tb, h.beat, h.head⟩, le_rfl, fun _ _ _ _ _ _ hc => hc, fun _ _ _ => rfl, rfl, .pwr u _ (by decide)⟩

/-- Stopping regions touches nothing of a code. -/
theorem sampled_stopFree {s u : State} {j : Nat} (h : Ahead s u j) : Sampled s u u.stopFree j j := by
  obtain ⟨-, honly, hrd⟩ := u.stopFree_frame
  have hpm : u.stopFree.rd rPmStatus = u.rd rPmStatus := hrd _ fun r => by unfold rPmStatus rPmRegionClk; omega
  have hsc : u.stopFree.rd rScAlert = u.rd rScAlert := hrd _ fun r => by unfold rScAlert rPmRegionClk; omega
  have hhead : u.stopFree.rd rScEvtHead = u.rd rScEvtHead := hrd _ fun r => by unfold rScEvtHead rPmRegionClk; omega
  refine ⟨⟨by rw [honly .tb (by decide), h.tb], by rw [honly .beat (by decide), h.beat], hhead.trans h.head⟩, le_rfl, ?_,
    fun a _ hr => hrd a hr, by rw [honly .pwr (by decide)], honly.mono (by decide)⟩
  rintro c st al arg n - ⟨hbit, hrec⟩
  refine ⟨by rw [hpm, hbit], fun hf => ?_⟩
  rw [hsc, honly .sc (by decide)]
  exact hrec hf

theorem rPmRegionClk_not_codeRegs (r : Nat) : rPmRegionClk r ∉ codeRegs := by
  simp only [codeRegs, evtRegs, List.mem_cons, List.not_mem_nil, or_false, not_or]
  unfold rPmRegionClk rPmStatus rScAlert rScEvtHead rScEvtTail rScEvtLost rScStatus
  omega

theorem State.level_powerCode (s : State) (c st al : Nat) (arg : Word) (r : Nat) : (s.powerCode c st al arg).level r = s.level r := by
  rw [State.level, State.rd_powerCode_ne _ _ _ _ _ (rPmRegionClk_not_codeRegs r), State.level]

/-- The readings in their registers, before they are compared. -/
def State.readings (s : State) (ts : List Int) : State :=
  ((State.wr { s with pwr := { s.pwr with temps := ts } } rPmTj
    (BitVec.ofNat 32 (((hottest ts).2 % 65536).toNat + (hottest ts).1 * 2 ^ 16))).wr rPmCool
    (BitVec.ofNat 32 ((ts.getD 28 0 % 65536).toNat + (ts.getD 29 0 % 65536).toNat * 2 ^ 16)))

/-- The comparison with TJ_WARN. -/
def State.compareWarm (s : State) (p : Prop) [Decidable p] (arg : Word) : State :=
  if p then s.powerCode 0x93 4 11 arg else s.powerClear 0x93

/-- The comparison with THERM_CRIT. -/
def State.compareCrit (s : State) (p : Prop) [Decidable p] (arg : Word) : State :=
  if p then (s.powerCode 0x94 5 12 arg).stopFree else s.powerClear 0x94

/-- The comparison with the limits of the coolant. -/
def State.compareCool (s : State) (p q : Bool) : State :=
  let s5 := if p then s.powerCode 0x95 6 13 0 else s
  if q then s5.powerCode 0x95 6 13 1 else if p then s5 else s5.powerClear 0x95

theorem exec_thermalSample {s : State} (hlive : s.live = true) (temps : List Int) :
    let ts := (List.range 32).map fun i => temps.getD i 0 + s.ucalOffset (0x100 + i)
    exec (.thermalSample temps) s = .next ((((s.readings ts).compareWarm (((fld (s.rd rPmThresh) 0 8 * 16 : Nat) : Int) ≤ (hottest ts).2)
        (BitVec.ofNat 32 (hottest ts).1)).compareCrit (((fld (s.rd rPmThresh) 8 8 * 16 : Nat) : Int) ≤ (hottest ts).2)
        (BitVec.ofNat 32 (hottest ts).1)).compareCool (decide (640 < ts.getD 28 0)) (decide (224 < ts.getD 29 0 - ts.getD 28 0))) := by
  intro ts
  show execThermalSample temps s = _
  unfold execThermalSample
  rw [if_pos hlive]
  dsimp only
  generalize hp : decide (640 < ((List.range 32).map fun i => temps.getD i 0 + s.ucalOffset (0x100 + i)).getD 28 0) = p
  generalize hq : decide (224 < ((List.range 32).map fun i => temps.getD i 0 + s.ucalOffset (0x100 + i)).getD 29 0
    - ((List.range 32).map fun i => temps.getD i 0 + s.ucalOffset (0x100 + i)).getD 28 0) = q
  cases p <;> cases q <;> rfl

theorem compareWarm_frame {s u : State} (h : Ahead s u 0) (hraised : ∀ d, u.raised d = s.raised d) (p : Prop) [Decidable p] (arg : Word) :
    let t := u.compareWarm p arg
    ∃ j, j ≤ 1 ∧ Sampled s u t 0 j ∧ (p → Sys2Proof.PowerCode 0x93 4 11 arg j s t) ∧ (∀ d, d ≠ 0x93 → t.raised d = s.raised d)
      ∧ (∀ r, t.level r = u.level r) ∧ (¬p → t.sc = u.sc ∧ ∀ a, t.rd a = u.rd a) := by
  unfold State.compareWarm
  by_cases hp : p
  · obtain ⟨j, hj, hs, hcode⟩ := sampled_powerCode h (by decide) 0x93 4 11 arg (by decide) (by decide)
    rw [if_pos hp]
    exact ⟨j, hj, hs, fun _ => hcode (hraised _),
      fun d hd => (u.raised_powerCode_other (Ne.symm hd) _ _ _).trans (hraised d), u.level_powerCode _ _ _ _, fun hno => absurd hp hno⟩
  · rw [if_neg hp]
    exact ⟨0, by omega, sampled_powerClear h 0x93, fun hyes => absurd hyes hp,
      fun d hd => (u.raised_powerClear_other (Ne.symm hd)).trans (hraised d), fun _ => rfl, fun _ => ⟨rfl, fun _ => rfl⟩⟩

theorem compareCrit_frame {s u : State} {j : Nat} (h : Ahead s u j) (hj : j ≤ 1)
    (hraised : ∀ d, d ≠ 0x93 → u.raised d = s.raised d) (hheld : ∀ r, u.regionHeld r = s.regionHeld r) (hlevel : ∀ r, u.level r = s.level r)
    (p : Prop) [Decidable p] (arg : Word) :
    let t := u.compareCrit p arg
    ∃ k, k ≤ 2 ∧ Sampled s u t j k ∧ (p → Sys2Proof.PowerCode 0x94 5 12 arg k s t) ∧ t.raised 0x95 = s.raised 0x95
      ∧ (p → ∀ r : Fin 16, t.level r.val = if s.regionHeld r.val then s.level r.val else 3)
      ∧ (¬p → t.sc = u.sc ∧ ∀ a, t.rd a = u.rd a) := by
  unfold State.compareCrit
  by_cases hp : p
  · obtain ⟨k, hk, hs, hcode⟩ := sampled_powerCode h (by omega) 0x94 5 12 arg (by decide) (by decide)
    have hstop := sampled_stopFree hs.ahead
    obtain ⟨hfree, honly, -⟩ := (u.powerCode 0x94 5 12 arg).stopFree_frame
    rw [if_pos hp]
    refine ⟨k, by omega, hs.trans hstop, fun _ => ?_, ?_, fun _ r => ?_, fun hno => absurd hp hno⟩
    · exact hstop.keeps _ _ _ _ _ le_rfl (hcode (hraised _ (by decide)))
    · rw [State.raised, honly .pwr (by decide)]
      exact (u.raised_powerCode_other (by decide) _ _ _).trans (hraised _ (by decide))
    · rw [hfree, State.level_powerCode, hlevel, State.regionHeld_of_only hs.only (by decide) (by decide), hheld]
  · rw [if_neg hp]
    exact ⟨j, by omega, sampled_powerClear h 0x94, fun hyes => absurd hyes hp,
      (u.raised_powerClear_other (by decide)).trans (hraised _ (by decide)), fun hyes => absurd hyes hp, fun _ => ⟨rfl, fun _ => rfl⟩⟩

theorem compareCool_frame {s u : State} {j : Nat} (h : Ahead s u j) (hj : j ≤ 2) (hraised : u.raised 0x95 = s.raised 0x95) (p q : Bool) :
    let t := u.compareCool p q
    ∃ k, Sampled s u t j k ∧ (p = true → Sys2Proof.PowerCode 0x95 6 13 0 3 s t) ∧ (p = false → q = true → Sys2Proof.PowerCode 0x95 6 13 1 3 s t)
      ∧ (∀ r, t.level r = u.level r) ∧ (p = false → q = false → t.sc = u.sc ∧ ∀ a, t.rd a = u.rd a) := by
  unfold State.compareCool
  obtain ⟨k0, hk0, hs0, hcode0⟩ := sampled_powerCode h (by omega) 0x95 6 13 0 (by decide) (by decide)
  obtain ⟨k1, hk1, hs1, hcode1⟩ := sampled_powerCode h (by omega) 0x95 6 13 1 (by decide) (by decide)
  obtain ⟨k2, hk2, hs2, -⟩ := sampled_powerCode hs0.ahead (by omega) 0x95 6 13 1 (by decide) (by decide)
  cases p with
  | true =>
    have h0 := powerCode_mono (hcode0 hraised) (show k0 ≤ 3 by omega)
    cases q with
    | true =>
      refine ⟨k2, hs0.trans hs2, fun _ => powerCode_mono (hs2.keeps _ _ _ _ _ le_rfl (hcode0 hraised)) (by omega), fun hno => absurd hno (by decide),
        fun r => ?_, fun hno => absurd hno (by decide)⟩
      exact (State.level_powerCode _ _ _ _ _ r).trans (u.level_powerCode _ _ _ _ r)
    | false => exact ⟨k0, hs0, fun _ => h0, fun hno => absurd hno (by decide), u.level_powerCode _ _ _ _, fun hno => absurd hno (by decide)⟩
  | false =>
    cases q with
    | true =>
      exact ⟨k1, hs1, fun hno => absurd hno (by decide), fun _ _ => powerCode_mono (hcode1 hraised) (by omega), u.level_powerCode _ _ _ _,
        fun _ hno => absurd hno (by decide)⟩
    | false =>
      exact ⟨j, sampled_powerClear h 0x95, fun hno => absurd hno (by decide), fun _ hno => absurd hno (by decide), fun _ => rfl, fun _ _ => ⟨rfl, fun _ => rfl⟩⟩

theorem State.readings_frame (s : State) (ts : List Int) :
    let u := s.readings ts
    u.pwr.temps = ts ∧ u.rd rPmTj = BitVec.ofNat 32 (((hottest ts).2 % 65536).toNat + (hottest ts).1 * 2 ^ 16)
      ∧ u.rd rPmCool = BitVec.ofNat 32 ((ts.getD 28 0 % 65536).toNat + (ts.getD 29 0 % 65536).toNat * 2 ^ 16)
      ∧ (∀ a, a ≠ rPmTj → a ≠ rPmCool → u.rd a = s.rd a) ∧ (∀ d, u.raised d = s.raised d) ∧ Only [.regs, .pwr] s u := by
  refine ⟨rfl, ?_, ?_, fun a h1 h2 => ?_, fun _ => rfl, ?_⟩
  · rw [State.readings, State.rd_wr_ne _ _ (by decide), State.rd_wr_same]
  · rw [State.readings, State.rd_wr_same]
  · rw [State.readings, State.rd_wr_ne _ _ h2, State.rd_wr_ne _ _ h1]
    rfl
  · exact (Only.pwr s _ (by decide)).trans ((Only.wr _ _ _ (by decide)).trans (Only.wr _ _ _ (by decide)))

/-! ### The window of the power meter -/

/-- The power of a window in its register, the highest beside it (17 R491). -/
def State.windowed (u : State) (avg : Nat) : State :=
  let s1 := u.wrF rPmPin 0 16 (min 0xFFFF avg)
  if fld (u.rd rPmPin) 16 16 < avg then s1.wrF rPmPin 16 16 (min 0xFFFF avg) else s1

theorem State.windowed_frame (u : State) (avg : Nat) :
    fld ((u.windowed avg).rd rPmPin) 0 16 = min 0xFFFF avg
      ∧ fld ((u.windowed avg).rd rPmPin) 16 16 = (if fld (u.rd rPmPin) 16 16 < avg then min 0xFFFF avg else fld (u.rd rPmPin) 16 16)
      ∧ (∀ a, a ≠ rPmPin → (u.windowed avg).rd a = u.rd a) ∧ Only [.regs] u (u.windowed avg) := by
  have hlt : min 0xFFFF avg < 2 ^ 16 := by omega
  unfold State.windowed
  dsimp only
  split
  · refine ⟨?_, ?_, fun a ha => by rw [State.rd_wrF_ne _ _ _ _ ha, State.rd_wrF_ne _ _ _ _ ha],
      (Only.wrF _ _ _ _ _ (by decide)).trans (Only.wrF _ _ _ _ _ (by decide))⟩
    · rw [State.rd_wrF, if_pos rfl, fld_setFld_below _ _ _ _ _ _ (by decide) (by decide), State.rd_wrF, if_pos rfl,
        fld_setFld _ _ _ _ (by decide), Nat.mod_eq_of_lt hlt]
    · rw [State.rd_wrF, if_pos rfl, fld_setFld _ _ _ _ (by decide), Nat.mod_eq_of_lt hlt]
  · refine ⟨?_, ?_, fun a ha => State.rd_wrF_ne _ _ _ _ ha, Only.wrF _ _ _ _ _ (by decide)⟩
    · rw [State.rd_wrF, if_pos rfl, fld_setFld _ _ _ _ (by decide), Nat.mod_eq_of_lt hlt]
    · rw [State.rd_wrF, if_pos rfl, fld_setFld_above _ _ _ _ _ _ (by decide) (by decide)]

theorem Only.toTc {ch : List Grp} (s : State) (t : DWord) (h : Grp.tb ∈ ch) : Only ch s (s.toTc t) := .ite (.tb s _ h) (.refl _ s)

theorem exec_powerWindow {s : State} (hlive : s.live = true) (raw : Nat) :
    let u := s.toTc (BitVec.ofNat 64 (ceilDiv s.tb.tc.toNat 400000 * 400000))
    exec (.powerWindow raw) s = .next (if 2400 < s.metered raw
      then ((u.windowed (s.metered raw)).bump rPmEvtOver).powerCode 0x92 3 10 (BitVec.ofNat 32 (s.metered raw))
      else (u.windowed (s.metered raw)).powerClear 0x92) := by
  intro u
  have hu : u.rd rPmPin = s.rd rPmPin := Only.toTc (ch := [.tb]) s _ (by decide) .regs (by decide) rPmPin
  have hexec : exec (.powerWindow raw) s = if 2400 < s.metered raw
      then .next ((((if fld (s.rd rPmPin) 16 16 < s.metered raw then (u.wrF rPmPin 0 16 (min 0xFFFF (s.metered raw))).wrF rPmPin 16 16
        (min 0xFFFF (s.metered raw)) else u.wrF rPmPin 0 16 (min 0xFFFF (s.metered raw)))).bump rPmEvtOver).powerCode 0x92 3 10
        (BitVec.ofNat 32 (s.metered raw)))
      else .next ((if fld (s.rd rPmPin) 16 16 < s.metered raw then (u.wrF rPmPin 0 16 (min 0xFFFF (s.metered raw))).wrF rPmPin 16 16
        (min 0xFFFF (s.metered raw)) else u.wrF rPmPin 0 16 (min 0xFFFF (s.metered raw))).powerClear 0x92) := if_pos hlive
  rw [hexec, ← hu]
  split <;> rfl

/-- A rail brought out of its limits: it is weak, and power is good no longer. -/
theorem Pwr.setRail_weak (w : Pwr) (i : Fin 5) : (w.setRail .weak i).good = false ∧ (w.setRail .weak i).rails = w.rails.set i .weak := by
  refine ⟨?_, rfl⟩
  show (w.rails.set i .weak).toList.all (fun x => decide (x = .good)) = false
  rw [List.all_eq_false]
  exact ⟨.weak, by rw [Vector.mem_toList_iff]; exact Vector.mem_set _, by decide⟩

theorem runs_pwrInput {s : State} {i : Instr} (hlive : s.live = true) (vin code st al : Nat) (hst : st < 32) (hal : al < 32)
    (hexec : exec i s = .next (if s.live then (s.wrF rPmVin 0 16 vin).powerCode code st al (BitVec.ofNat 32 vin) else s)) :
    Runs i s fun t => fld (t.rd rPmVin) 0 16 = vin % 65536 ∧ PowerEvent code st al (BitVec.ofNat 32 vin) s t := by
  rw [if_pos hlive] at hexec
  refine .of_eq hexec ⟨?_, ?_⟩
  · rw [State.rd_powerCode_ne _ _ _ _ _ (by decide), State.rd_wrF, if_pos rfl, fld_setFld _ _ _ _ (by decide)]
    rfl
  · exact powerEvent_powerCode (Only.wrF s _ _ _ _ (by decide)) (State.rd_wrF_ne _ _ _ _ (by decide)) (State.rd_wrF_ne _ _ _ _ (by decide))
      code st al _ hst hal

/-- A rail outside its limits is weak from then on, where it is one of the five. -/
theorem runs_railFault {s : State} (hlive : s.live = true) (rail : Nat) :
    Runs (.railFault rail) s fun t => PowerEvent 0x96 7 14 (BitVec.ofNat 32 rail) s t
      ∧ (1 ≤ rail → rail ≤ 5 → t.pwr.good = false ∧ t.pwr.rails = s.pwr.rails.set (Fin.ofNat 5 (rail - 1)) .weak) := by
  have hcode := powerEvent_powerCode (Only.refl [.regs] s) rfl rfl 0x96 7 14 (BitVec.ofNat 32 rail) (by decide) (by decide)
  have hexec : exec (.railFault rail) s = .next (if rail = 0 ∨ 5 < rail then s.powerCode 0x96 7 14 (BitVec.ofNat 32 rail)
      else { s.powerCode 0x96 7 14 (BitVec.ofNat 32 rail) with
        pwr := (s.powerCode 0x96 7 14 (BitVec.ofNat 32 rail)).pwr.setRail .weak (Fin.ofNat 5 (rail - 1)) }) := if_pos hlive
  refine .of_eq hexec ?_
  split
  next hno => exact ⟨hcode, fun h1 h5 => by omega⟩
  next =>
    obtain ⟨hgood, hrails⟩ := (s.powerCode 0x96 7 14 (BitVec.ofNat 32 rail)).pwr.setRail_weak (Fin.ofNat 5 (rail - 1))
    refine ⟨hcode, fun _ _ => ⟨hgood, hrails.trans ?_⟩⟩
    rw [State.pwr_powerCode]
    rfl

/-- The window's power is put into its register and, over 2,400 W, recorded. -/
theorem runs_powerWindow {s u : State} {raw avg : Nat} (hu : Only [.tb] s u)
    (hexec : exec (.powerWindow raw) s = .next (if 2400 < avg
      then ((u.windowed avg).bump rPmEvtOver).powerCode 0x92 3 10 (BitVec.ofNat 32 avg) else (u.windowed avg).powerClear 0x92)) :
    Runs (.powerWindow raw) s fun t => fld (t.rd rPmPin) 0 16 = min 0xFFFF avg
      ∧ fld (t.rd rPmPin) 16 16 = (if fld (s.rd rPmPin) 16 16 < avg then min 0xFFFF avg else fld (s.rd rPmPin) 16 16)
      ∧ (2400 < avg → t.rd rPmEvtOver = satInc (s.rd rPmEvtOver) ∧ PowerEvent 0x92 3 10 (BitVec.ofNat 32 avg) u t)
      ∧ (avg ≤ 2400 → NoRecord s t ∧ t.rd rPmStatus = s.rd rPmStatus ∧ t.rd rPmEvtOver = s.rd rPmEvtOver
          ∧ ∀ p, t.raised 0x92 = some p → p.ended.isSome = true) := by
  have hurd (a : Nat) : u.rd a = s.rd a := hu .regs (by decide) a
  obtain ⟨hnow, hmax, hrd, honly⟩ := u.windowed_frame avg
  refine .of_eq hexec ?_
  by_cases hover : 2400 < avg
  · rw [if_pos hover]
    have hkeep {a : Nat} (ha : a ∉ codeRegs) (hb : a ≠ rPmEvtOver) :
        (((u.windowed avg).bump rPmEvtOver).powerCode 0x92 3 10 (BitVec.ofNat 32 avg)).rd a = (u.windowed avg).rd a := by
      rw [State.rd_powerCode_ne _ _ _ _ _ ha, State.rd_bump_ne _ hb]
    refine ⟨?_, ?_, fun _ => ⟨?_, ?_⟩, fun hle => absurd hover (Nat.not_lt.mpr hle)⟩
    · rw [hkeep (by decide) (by decide), hnow]
    · rw [hkeep (by decide) (by decide), hmax, hurd]
    · rw [State.rd_powerCode_ne _ _ _ _ _ (by decide), State.rd_bump, if_pos rfl, hrd _ (by decide), hurd]
    · refine powerEvent_powerCode (honly.trans (Only.bump _ _ (by decide))) ?_ ?_ 0x92 3 10 _ (by decide) (by decide)
      · rw [State.rd_bump_ne _ (by decide), hrd _ (by decide)]
      · rw [State.rd_bump_ne _ (by decide), hrd _ (by decide)]
  · rw [if_neg hover]
    have hkeep {a : Nat} (ha : a ≠ rPmPin) : ((u.windowed avg).powerClear 0x92).rd a = s.rd a := (hrd a ha).trans (hurd a)
    refine ⟨hnow, hmax.trans (by rw [hurd]), fun h => absurd h hover, fun _ => ⟨⟨?_, hkeep (by decide)⟩, hkeep (by decide), hkeep (by decide),
      fun p hp => State.ended_of_powerClear _ 0x92 hp⟩⟩
    exact (hu .sc (by decide)).trans (honly .sc (by decide))

/-- A sample of the sensors is put into its registers and compared with each limit in turn. -/
theorem runs_thermalSample {s : State} {temps ts : List Int} (warm crit : Prop) [Decidable warm] [Decidable crit]
    (hexec : exec (.thermalSample temps) s = .next ((((s.readings ts).compareWarm warm (BitVec.ofNat 32 (hottest ts).1)).compareCrit crit
      (BitVec.ofNat 32 (hottest ts).1)).compareCool (decide (640 < ts.getD 28 0)) (decide (224 < ts.getD 29 0 - ts.getD 28 0)))) :
    Runs (.thermalSample temps) s fun t => t.pwr.temps = ts
      ∧ t.rd rPmTj = BitVec.ofNat 32 (((hottest ts).2 % 65536).toNat + (hottest ts).1 * 2 ^ 16)
      ∧ t.rd rPmCool = BitVec.ofNat 32 ((ts.getD 28 0 % 65536).toNat + (ts.getD 29 0 % 65536).toNat * 2 ^ 16)
      ∧ (warm → Sys2Proof.PowerCode 0x93 4 11 (BitVec.ofNat 32 (hottest ts).1) 1 s t)
      ∧ (crit → Sys2Proof.PowerCode 0x94 5 12 (BitVec.ofNat 32 (hottest ts).1) 2 s t
          ∧ (∀ r : Fin 16, s.regionHeld r.val = false → t.level r.val = 3)
          ∧ (∀ r : Fin 16, s.regionHeld r.val = true → t.level r.val = s.level r.val))
      ∧ (640 < ts.getD 28 0 → Sys2Proof.PowerCode 0x95 6 13 0 3 s t)
      ∧ (ts.getD 28 0 ≤ 640 → 224 < ts.getD 29 0 - ts.getD 28 0 → Sys2Proof.PowerCode 0x95 6 13 1 3 s t)
      ∧ (¬warm → ¬crit → ts.getD 28 0 ≤ 640 → ts.getD 29 0 - ts.getD 28 0 ≤ 224 →
          NoRecord s t ∧ t.rd rPmStatus = s.rd rPmStatus ∧ ∀ r, t.level r = s.level r) := by
  obtain ⟨htemps, htj, hcool, hrd, hraised, honly⟩ := s.readings_frame ts
  have hlevels (r : Nat) : (s.readings ts).level r = s.level r := by
    rw [State.level, hrd _ (by unfold rPmRegionClk rPmTj; omega) (by unfold rPmRegionClk rPmCool; omega), State.level]
  have h0 : Ahead s (s.readings ts) 0 :=
    ⟨honly .tb (by decide), honly .beat (by decide), (hrd _ (by decide) (by decide)).trans (BitVec.add_zero _).symm⟩
  obtain ⟨j1, hj1, hs1, hwarm, hraised1, hlevel1, hcold1⟩ := compareWarm_frame h0 hraised warm (BitVec.ofNat 32 (hottest ts).1)
  obtain ⟨j2, hj2, hs2, hcrit, hraised2, hlevel2, hcold2⟩ := compareCrit_frame hs1.ahead hj1 hraised1
    (State.regionHeld_of_only (honly.mono (by decide) |>.trans hs1.only) (by decide) (by decide))
    (fun r => (hlevel1 r).trans (hlevels r)) crit (BitVec.ofNat 32 (hottest ts).1)
  obtain ⟨j3, hs3, hwarmc, hrose, hlevel3, hcold3⟩ := compareCool_frame hs2.ahead hj2 hraised2
    (decide (640 < ts.getD 28 0)) (decide (224 < ts.getD 29 0 - ts.getD 28 0))
  have hs := hs1.trans (hs2.trans hs3)
  have hreg {a : Nat} (h1 : a ∉ codeRegs) (h2 : ∀ r, a ≠ rPmRegionClk r) := hs.rd a h1 h2
  refine .of_eq (hexec) ⟨?_, ?_, ?_, fun hw => ?_, fun hc => ⟨?_, fun r hfree => ?_, fun r hheld => ?_⟩, fun hw => ?_,
    fun hno hr => ?_, fun hnw hnc hno hnr => ⟨⟨?_, ?_⟩, ?_, fun r => ?_⟩⟩
  · rw [hs.temps, htemps]
  · rw [hreg (by decide) fun r => by unfold rPmTj rPmRegionClk; omega, htj]
  · rw [hreg (by decide) fun r => by unfold rPmCool rPmRegionClk; omega, hcool]
  · exact powerCode_mono (hs3.keeps _ _ _ _ _ hs2.le (hs2.keeps _ _ _ _ _ le_rfl (hwarm hw))) hj1
  · exact powerCode_mono (hs3.keeps _ _ _ _ _ le_rfl (hcrit hc)) hj2
  · rw [hlevel3, hlevel2 hc, hfree, if_neg Bool.false_ne_true]
  · rw [hlevel3, hlevel2 hc, hheld, if_pos rfl]
  · exact hwarmc (decide_eq_true hw)
  · exact hrose (decide_eq_false (Int.not_lt.mpr hno)) (decide_eq_true hr)
  all_goals
    obtain ⟨hsc1, hrd1⟩ := hcold1 hnw
    obtain ⟨hsc2, hrd2⟩ := hcold2 hnc
    obtain ⟨hsc3, hrd3⟩ := hcold3 (decide_eq_false (by omega)) (decide_eq_false (by omega))
  · rw [hsc3, hsc2, hsc1]
    exact honly .sc (by decide)
  · rw [hrd3, hrd2, hrd1, hrd _ (by decide) (by decide)]
  · rw [hrd3, hrd2, hrd1, hrd _ (by decide) (by decide)]
  · rw [hlevel3, State.level, hrd2, ← State.level, hlevel1, hlevels]

/-- Settles O18: each event writes its registers and then, one after the other, the codes whose conditions are present. -/
theorem powerMonitors : Obligations.PowerMonitors := by
  intro s vin rail raw temps avg u ts warm crit hlive
  exact ⟨runs_pwrInput hlive vin 0x90 1 8 (by decide) (by decide) rfl, runs_pwrInput hlive vin 0x91 2 9 (by decide) (by decide) rfl,
    runs_railFault hlive rail, runs_powerWindow (.toTc s _ (by decide)) (exec_powerWindow hlive raw),
    runs_thermalSample warm crit (exec_thermalSample hlive temps)⟩

end Sys2Proof.Machine

/-! What an access of a register from outside does to the state before it is answered (15 R439; 16 R446, R448). -/

namespace Sys2Proof.Machine

open Sys2Proof

/-! ### What a read measures -/

theorem Only.sampleMon {ch : List Grp} (s : State) (a : Nat) (hr : Grp.regs ∈ ch) (hf : Grp.free ∈ ch) : Only ch s (s.sampleMon a) :=
  .ite ((Only.wrF s _ _ _ _ hr).trans (.free _ _ hf)) (.refl _ s)

theorem Only.measure {ch : List Grp} (s : State) (a : Nat) (hr : Grp.regs ∈ ch) (hf : Grp.free ∈ ch) : Only ch s (s.measure a) :=
  .ite ((Only.wrF s _ _ _ _ hr).trans (.free _ _ hf)) (.refl _ s)

theorem Only.codewords {ch : List Grp} (s : State) (a : Nat) (hr : Grp.regs ∈ ch) (hf : Grp.free ∈ ch) : Only ch s (s.codewords a) :=
  .ite ((Only.wr s _ _ hr).trans (.free _ _ hf)) (.refl _ s)

theorem Only.counterSet {ch : List Grp} (s : State) (a : Nat) (hc : Grp.cores ∈ ch) : Only ch s (s.counterSet a) :=
  .ite (.updCore s _ _ hc) (.refl _ s)

theorem Only.countUp {ch : List Grp} (s : State) (a : Nat) (hr : Grp.regs ∈ ch) (hf : Grp.free ∈ ch) (hc : Grp.cores ∈ ch) :
    Only ch s (s.countUp a) :=
  .ite (((Only.wr s _ _ hr).trans (.counterSet _ _ hc)).trans (.free _ _ hf)) (.refl _ s)

theorem State.countUp_of_not {s : State} {a : Nat} (h : s.mayCount a = false) : s.countUp a = s :=
  if_neg (by simp [h])

/-- Outside the clocked regions' monitors, the power meters and the ports' codeword counters a read samples nothing. -/
theorem State.sampled_eq {s : State} {a : Nat} (h : a < 0x3000000 ∨ (0x4000000 ≤ a ∧ a < 0x9000000) ∨ 0xA000000 ≤ a) :
    ((s.sampleMon a).measure a).codewords a = s := by
  have hmon : s.sampleMon a = s := if_neg fun ⟨_, hany⟩ => by
    obtain ⟨r, hr, ha⟩ := List.any_eq_true.mp hany
    obtain ⟨hat, -⟩ := (Bool.and_eq_true_iff ..).mp ha
    have hat := of_decide_eq_true hat
    rw [rPmRegionMon] at hat
    have := List.mem_range.mp hr
    omega
  have hmeas : s.measure a = s := if_neg fun ⟨_, ha⟩ => by
    simp only [rPmVin, rPmIin] at ha
    omega
  have hcode : s.codewords a = s := if_neg fun ⟨_, hany⟩ => by
    obtain ⟨ep, hep, ha⟩ := List.any_eq_true.mp hany
    obtain ⟨hat, -⟩ := (Bool.and_eq_true_iff ..).mp ha
    have hat := of_decide_eq_true hat
    rw [rIoEpFecCe, rIoEpFecUe] at hat
    have := List.mem_range.mp hep
    omega
  rw [hmon, hmeas, hcode]

theorem blockAddr_ge {a : Nat} (h : inCoreBlock a = true) : 0x10000000 ≤ a := of_decide_eq_true h

theorem State.sampled_core {s : State} {a : Nat} (h : inCoreBlock a = true) : ((s.sampleMon a).measure a).codewords a = s :=
  State.sampled_eq (.inr (.inr (by have := blockAddr_ge h; omega)))

theorem State.mayCount_outside (s : State) {a : Nat} (h : inCoreBlock a = false) : s.mayCount a = false := by
  simp [State.mayCount, countsCycles, h]

theorem State.timedRead_outside (s : State) {a : Nat} (h : inCoreBlock a = false) : s.timedRead a = none := by
  simp [State.timedRead, State.mayStall, State.mayZero, h]

/-! ### What a read answers -/

/-- The world of the access may read the register, and the core it is in exists. -/
def State.ReadOpen (s : State) (o : Origin) (a : Nat) : Prop :=
  ¬(inCoreBlock a = true ∧ blockCore a < 256 ∧ s.coreExists (blockCore a) = false) ∧ (o.secure = true ∨ s.nsReadable a = true)

theorem State.ReadOpen.not_absent {s : State} {o : Origin} {a : Nat} (h : s.ReadOpen o a) :
    ¬(inCoreBlock a ∧ blockCore a < 256 ∧ !s.coreExists (blockCore a)) := by
  simpa using h.1

theorem State.ReadOpen.not_denied {s : State} {o : Origin} {a : Nat} (h : s.ReadOpen o a) : ¬(!o.secure ∧ !s.nsReadable a) := by
  simp only [Bool.not_eq_true', not_and, Bool.not_eq_false]
  intro hns
  exact h.2.resolve_left (by rw [hns]; decide)

/-- The state in which a register is viewed: what its read measures has been measured. -/
def State.readIn (s : State) (a : Nat) : State := (((s.sampleMon a).measure a).codewords a).countUp a

theorem State.regRead_timed {s : State} {o : Origin} {a : Nat} (h : s.ReadOpen o a) (htb : a ≠ rTbTcLo) (hrand : a ≠ rScRand) :
    s.regRead o a = match (s.readIn a).timedRead a with
      | some v => (v, 0, { s.readIn a with free := (s.readIn a).free + 1 })
      | none => ((s.readIn a).regView a, 0, s.readIn a) := by
  unfold State.regRead
  rw [if_neg h.not_absent, if_neg h.not_denied, if_neg htb, if_neg hrand]
  rfl

theorem State.regRead_view {s : State} {o : Origin} {a : Nat} (h : s.ReadOpen o a) (htb : a ≠ rTbTcLo) (hrand : a ≠ rScRand)
    (hnone : (s.readIn a).timedRead a = none) : s.regRead o a = ((s.readIn a).regView a, 0, s.readIn a) := by
  rw [State.regRead_timed h htb hrand, hnone]

theorem State.regRead_some {s : State} {o : Origin} {a : Nat} (h : s.ReadOpen o a) (htb : a ≠ rTbTcLo) (hrand : a ≠ rScRand)
    {v : Word} (hsome : (s.readIn a).timedRead a = some v) :
    s.regRead o a = (v, 0, { s.readIn a with free := (s.readIn a).free + 1 }) := by
  rw [State.regRead_timed h htb hrand, hsome]

/-! ### An access that takes place at once -/

theorem State.access_now {s : State} {w : Waiter} (h : s.mustWait w = false) : s.access w = (s.byDrift w).doAccess w :=
  if_neg (by rw [h]; decide)

theorem State.access_waits {s : State} {w : Waiter} (h : s.mustWait w = true) : s.access w = { s with stalled := s.stalled ++ [w] } :=
  if_pos h

theorem State.doAccess_regRead (s : State) {w : Waiter} {a : Nat} (h : w.acc = .regRead a) :
    s.doAccess w = (s.regRead w.o a).2.2.answerReg w 1 a (s.regRead w.o a).2.1 (s.regRead w.o a).1 := by
  unfold State.doAccess
  rw [h]

theorem State.nsBlock_congr {s u : State} (h : u.parts = s.parts) (c : Nat) : u.nsBlock c = s.nsBlock c := by
  have hpart : u.part = s.part := funext fun p => by rw [State.part, h, State.part]
  unfold State.nsBlock State.partOf
  rw [hpart]

theorem State.nsReadable_block {s : State} {a : Nat} (h : inCoreBlock a = true) : s.nsReadable a = s.nsBlock (blockCore a) :=
  if_pos h

theorem rTbTcLo_outside {a : Nat} (h : inCoreBlock a = true) : a ≠ rTbTcLo := fun e => by
  have := blockAddr_ge h
  rw [e, rTbTcLo] at this
  omega

theorem rScRand_outside {a : Nat} (h : inCoreBlock a = true) : a ≠ rScRand := fun e => by
  have := blockAddr_ge h
  rw [e, rScRand] at this
  omega

end Sys2Proof.Machine

/-! The JTAG port, its refusals, and the management bus (16 R473 to R475; 17 R485, R495). -/

namespace Sys2Proof.Machine

open Sys2Proof

/-! ### An instruction is taken or refused -/

section
variable {s : State} {n : Nat}

theorem State.jtag_taken (f : State → State) (hon : s.pwr.phase ≠ .off) (h : s.jtagMay n = true) : s.jtag n f = f s := by
  rw [State.jtag, if_neg hon, if_pos h]

theorem State.jtag_refused (f : State → State) (hon : s.pwr.phase ≠ .off) (h : s.jtagMay n = false) : s.jtag n f = s.jtagRefused n := by
  rw [State.jtag, if_neg hon, if_neg (by rw [h]; decide)]

/-- What the instruction does, where the lifecycle allows it. -/
theorem runs_taken {i : Instr} {f : State → State} {P : State → Prop} (hexec : exec i s = .next (s.jtag n f)) (hon : s.pwr.phase ≠ .off)
    (h : s.jtagMay n = true) (hP : P (f s)) : Runs i s P :=
  ⟨f s, by rw [hexec, State.jtag_taken f hon h], hP⟩

/-- A refused instruction acts as BYPASS and leaves one record. -/
theorem State.jtagRefused_frame (s : State) (n : Nat) : JtagRefused n s (s.jtagRefused n) :=
  ⟨Only.event (ch := [.regs, .sc]) _ _ _ _ _ _ _ (by decide) (by decide) .ir (by decide), State.rd_putEvt_head _ _, State.evt_putEvt _ _, (Only.ir s _ (by decide)).trans (.event _ _ _ _ _ _ _ (by decide) (by decide))⟩

theorem runs_refused {i : Instr} {f : State → State} (hexec : exec i s = .next (s.jtag n f)) (hon : s.pwr.phase ≠ .off)
    (h : s.jtagMay n = false) : Runs i s (JtagRefused n s) :=
  ⟨s.jtagRefused n, by rw [hexec, State.jtag_refused f hon h], s.jtagRefused_frame n⟩

end

/-! ### Which lifecycles allow which -/

theorem State.jtagMay_dbgS (s : State) : s.jtagMay 7 = decide (s.fuses.lifecycle = 0 ∨ s.fuses.lifecycle = 3) := rfl

theorem State.jtagMay_lcScrap (s : State) : s.jtagMay 8 = decide (s.fuses.lifecycle = 3) := rfl

theorem State.jtagMay_sample (s : State) : s.jtagMay 2 = !decide (s.fuses.lifecycle = 4) := by
  rw [← decide_not]; rfl

theorem State.jtagMay_dbgNs (s : State) : s.jtagMay 6 = (s.jtagMay 7 || (decide (s.fuses.lifecycle = 2) && bit (s.rd rScJtag) 0)) := rfl

/-- The three instructions that drive the pins. -/
theorem State.jtagMay_pins (s : State) {n : Nat} (hlo : 3 ≤ n) (hhi : n ≤ 5) : s.jtagMay n
    = (s.jtagMay 7 || (decide (s.fuses.lifecycle = 1 ∨ s.fuses.lifecycle = 2) && !s.beat.joined && !s.anyBound)) := by
  unfold State.jtagMay
  rw [if_neg (by omega), if_neg (by omega), if_pos hhi]
  rfl

theorem State.jtagMay_pins_eq (s : State) {n : Nat} (hlo : 3 ≤ n) (hhi : n ≤ 5) : s.jtagMay n = s.jtagMay 3 := by
  rw [s.jtagMay_pins hlo hhi, s.jtagMay_pins (le_refl 3) (by decide)]

/-! ### A debug access outside its reach -/

theorem rd_log_regWorld (s : State) (o : Origin) (k a : Nat) (v : Word) : (s.regWorld o k a v).rd rScLogHead = s.rd rScLogHead + 1 := by
  unfold State.regWorld
  rw [State.rd_log_head, State.rd_event_ne _ _ _ _ _ _ _ (by decide)]

/-- A refused access of a slice is entered in the change log. -/
theorem State.rd_log_hostRefused (s : State) (o : Origin) (g code : Nat) (hj : s.beat.joined = false) :
    (s.hostRefused o g code).rd rScLogHead = s.rd rScLogHead + 1 := by
  unfold State.hostRefused
  extract_lets c s1
  have hs1 : s1.rd rScLogHead = s.rd rScLogHead := by
    dsimp only [s1]
    split
    · exact State.rd_setBit_ne _ _ (by unfold rScLogHead rSlcStatus coreBase; omega)
    · rfl
  have hj1 : ¬ s1.beat.joined = true := by
    rw [Only.ite (ch := [.regs]) (.setBit s _ _ (by decide)) (.refl _ s) .beat (by decide), hj]
    decide
  rw [State.rd_log_head, State.accessCode, State.coreCode, if_neg hj1, State.rd_event_ne _ _ _ _ _ _ _ (by decide)]
  exact congrArg (· + 1) hs1

theorem Only.hostRefused {ch : List Grp} (s : State) (o : Origin) (g code : Nat) (hr : Grp.regs ∈ ch) (hs : Grp.sc ∈ ch)
    (hf : Grp.free ∈ ch) : Only ch s (s.hostRefused o g code) := by
  unfold State.hostRefused
  extract_lets c s1
  have h1 : Only ch s s1 := .ite (.setBit s _ _ hr) (.refl _ s)
  exact ((h1.trans (.free _ _ hf)).trans (.ite (.gather _ _ _ _ _ _ _ hs) (.event _ _ _ _ _ _ _ hr hs))).trans
    (.log _ _ _ _ _ _ _ hr hs)

/-- The outputs of a debug access that is denied. -/
def deniedOut : DbgAccess → List Output
  | .regRead _ => [.value 0 1]
  | .regWrite _ v => [.value v 1]
  | .memRead _ _ => [.mem (List.replicate 8 0) [false]]
  | .memWrite _ _ _ => []

/-- Does the access name a slice? -/
def ofSlice : DbgAccess → Bool
  | .regRead _ => false
  | .regWrite _ _ => false
  | .memRead _ _ => true
  | .memWrite _ _ _ => true

theorem runs_denied {s : State} {a : DbgAccess} (hon : s.pwr.phase ≠ .off) (hmay : s.jtagMay 6 = true) (hreset : s.pwr.phase ≠ .reset)
    (hdenied : s.dbgNsMay a = false) (hjoined : ofSlice a = true → s.beat.joined = false) :
    Runs (.dbgNs a) s (DebugDenied (deniedOut a) s) := by
  refine runs_taken rfl hon hmay ?_
  show DebugDenied _ s (if s.dbgNsMay a = true then _ else ({ s with ir := .dbgNs }).debugDenied a)
  rw [if_neg (by rw [hdenied]; decide)]
  unfold State.debugDenied
  extract_lets o
  rw [if_neg hreset]
  have hir : Only [.ir, .out, .regs, .sc, .free] s { s with ir := .dbgNs } := .ir s _ (by decide)
  have hworld (o : Origin) (k r : Nat) (v : Word) :
      DebugDenied [] s (({ s with ir := .dbgNs }).regWorld o k r v) :=
by
    have h := Only.regWorld (ch := [.regs, .sc]) { s with ir := .dbgNs } o k r v (by decide) (by decide)
    exact ⟨h .ir (by decide), by rw [List.append_nil]; exact h .out (by decide), rd_log_regWorld _ _ _ _ _, hir.trans (h.mono (by decide))⟩
  have hslice (o : Origin) (g : Nat) (hj : s.beat.joined = false) :
      DebugDenied [] s (({ s with ir := .dbgNs }).hostRefused o g 0x42) := by
    have h := Only.hostRefused (ch := [.regs, .sc, .free]) { s with ir := .dbgNs } o g 0x42 (by decide) (by decide) (by decide)
    exact ⟨h .ir (by decide), by rw [List.append_nil]; exact h .out (by decide), State.rd_log_hostRefused _ _ _ _ hj, hir.trans (h.mono (by decide))⟩
  have hout {t : State} (o : List Output) (h : DebugDenied [] s t) : DebugDenied o s { t with out := t.out ++ o } := by
    obtain ⟨hir, ho, hlog, honly⟩ := h
    refine ⟨hir, ?_, hlog, honly.trans (.out t _ (by decide))⟩
    show t.out ++ o = _
    rw [ho, List.append_nil]
  cases a with
  | regRead r => exact hout _ (hworld _ 4 r 0)
  | regWrite r v => exact hout _ (hworld _ 3 r v)
  | memRead c p => exact hout _ (hslice _ _ (hjoined rfl))
  | memWrite c p d => exact hslice _ _ (hjoined rfl)

/-- Settles O22: an instruction that the lifecycle does not allow is `jtagRefused`, a debug access outside its reach `debugDenied`. -/
theorem jtagRefusals : Obligations.JtagRefusals := by
  unfold Obligations.JtagRefusals
  intro s a c p r v d hon
  refine ⟨runs_refused rfl hon, fun h => ⟨runs_refused rfl hon h, runs_refused rfl hon ?_, runs_refused rfl hon ?_⟩, runs_refused rfl hon,
    runs_refused rfl hon, fun h => runs_refused rfl hon ?_, fun hmay hreset => ⟨?_, ?_, fun hj => ⟨?_, ?_⟩⟩, s.jtagMay_sample,
    s.jtagMay_dbgS, s.jtagMay_dbgNs, fun n hlo hhi => s.jtagMay_pins hlo hhi⟩
  · rw [s.jtagMay_pins_eq (by decide) (by decide), h]
  · rw [s.jtagMay_pins_eq (by decide) (by decide), h]
  · exact decide_eq_false h
  · exact fun h => runs_denied hon hmay hreset h (fun e => absurd e Bool.false_ne_true)
  · exact fun h => runs_denied hon hmay hreset h (fun e => absurd e Bool.false_ne_true)
  · exact fun h => runs_denied hon hmay hreset h fun _ => hj
  · exact fun h => runs_denied hon hmay hreset h fun _ => hj

/-! ### The management pins -/

/-- A register read of the secure world outside the core blocks answers the register as it is viewed. -/
theorem State.debug_regRead_outside {s : State} {r : Nat} (hreset : s.pwr.phase ≠ .reset) (hblock : inCoreBlock r = false)
    (hr : r < 0x3000000 ∨ (0x4000000 ≤ r ∧ r < 0x9000000) ∨ 0xA000000 ≤ r) (htb : r ≠ rTbTcLo) (hrand : r ≠ rScRand) :
    s.debug true (.regRead r) = { s with out := s.out ++ [.value (s.regView r) 0] } := by
  have hcore : (Access.regRead r).core = none := if_neg (by rw [hblock]; decide)
  unfold State.debug
  extract_lets o
  rw [if_neg hreset]
  have hopen : s.ReadOpen o r := ⟨fun h => absurd h.1 (by rw [hblock]; decide), .inl rfl⟩
  have hin : s.readIn r = s := by
    rw [State.readIn, State.sampled_eq hr, State.countUp_of_not (s.mayCount_outside hblock)]
  have hread := State.regRead_view hopen htb hrand (by rw [hin]; exact s.timedRead_outside hblock)
  show s.access ⟨o, none, .regRead r, true⟩ = _
  have hdrift : s.byDrift ⟨o, none, .regRead r, true⟩ = s := by
    unfold State.byDrift
    rw [hcore]
  rw [State.access_now (by unfold State.mustWait; rw [hcore]; rfl), hdrift, State.doAccess_regRead _ rfl, hread, hin]
  rfl

/-- A register read of the non-secure world in a core block of its own. -/
theorem State.debug_regRead_block {s u : State} {r : Nat} (hu : u = s.atEndpoint 0x10C (blockCore r)) (hreset : s.pwr.phase ≠ .reset)
    (hmay : s.dbgNsMay (.regRead r) = true) (hexists : s.coreExists (blockCore r) = true) (hstopped : s.stopped (blockCore r) = false)
    (hcount : u.mayCount r = false) (hnone : u.timedRead r = none) :
    s.debug false (.regRead r) = { u with out := u.out ++ [.value (u.regView r) 0] } := by
  obtain ⟨hblock, hns⟩ := (Bool.and_eq_true_iff ..).mp hmay
  have hcore : (Access.regRead r).core = some (blockCore r) := if_pos hblock
  unfold State.debug
  extract_lets o
  rw [if_neg hreset]
  have honly : Only [.regs, .drift, .free] s u := hu ▸ .atEndpoint s _ _ (by decide) (by decide) (by decide)
  have hparts : u.nsBlock (blockCore r) = s.nsBlock (blockCore r) := by
    have hpart : u.part = s.part := funext (honly .parts (by decide))
    unfold State.nsBlock State.partOf
    rw [hpart]
  have hrows : u.coreExists (blockCore r) = true := by
    rw [← hexists, State.coreExists, State.coreExists, State.rows, State.rows, honly .fuses (by decide)]
  have hopen : u.ReadOpen o r := by
    refine ⟨fun h => absurd h.2.2 (by rw [hrows]; decide), .inr ?_⟩
    rw [State.nsReadable_block hblock, hparts, hns]
  have hin : u.readIn r = u := by rw [State.readIn, State.sampled_core hblock, State.countUp_of_not hcount]
  have hread := State.regRead_view hopen (rTbTcLo_outside hblock) (rScRand_outside hblock) (by rw [hin]; exact hnone)
  show s.access ⟨o, none, .regRead r, true⟩ = _
  have hdrift : s.byDrift ⟨o, none, .regRead r, true⟩ = u := by
    unfold State.byDrift
    rw [hcore, hu]
    rfl
  have hnow : s.mustWait ⟨o, none, .regRead r, true⟩ = false := by
    unfold State.mustWait
    rw [hcore]
    simp [hstopped]
  rw [State.access_now hnow, hdrift, State.doAccess_regRead _ rfl, hread, hin]
  rfl

theorem State.debug_reset {s : State} (h : s.pwr.phase = .reset) (secure : Bool) (a : DbgAccess) : s.debug secure a = s := by
  unfold State.debug
  extract_lets o
  rw [if_pos h]

/-- A reading of a sensor measures at most the input voltage or current. -/
theorem State.measureFor_frame (s : State) (id : Nat) :
    (∀ a, a ≠ rPmVin → a ≠ rPmIin → (s.measureFor id).rd a = s.rd a) ∧ Only [.out, .regs, .free] s (s.measureFor id)
      ∧ (id ≠ 1 → id ≠ 2 → s.measureFor id = s) := by
  have hrd {b : Nat} : ∀ a, a ≠ b → (s.measure b).rd a = s.rd a := fun a ha => by
    unfold State.measure
    split
    · exact s.rd_wrF_ne _ _ _ ha
    · rfl
  unfold State.measureFor
  split
  next h1 => exact ⟨fun a ha _ => hrd a ha, Only.measure s _ (by decide) (by decide), fun h => absurd h1 h⟩
  next =>
    split
    next h2 => exact ⟨fun a _ ha => hrd a ha, .measure s _ (by decide) (by decide), fun _ h => absurd h2 h⟩
    next => exact ⟨fun _ _ _ => rfl, .refl _ s, fun _ _ => rfl⟩

theorem runs_pldmSensorRead {s : State} {id : Nat} {v : Int} (hphase : s.pwr.phase ≠ .halted) (hv : (s.measureFor id).sensor id = some v) :
    Runs (.pldmSensorRead id) s fun t =>
      t.out = s.out ++ [.sensor s.smbusAddr v] ∧ Only [.out, .regs, .free] s t ∧ (∀ a, a ≠ rPmVin → a ≠ rPmIin → t.rd a = s.rd a)
        ∧ (id ≠ 1 → id ≠ 2 → Only [.out] s t) := by
  obtain ⟨hrd, honly, hself⟩ := s.measureFor_frame id
  let u := s.measureFor id
  refine .of_eq (t := { u with out := u.out ++ [.sensor u.smbusAddr v] }) ?_ ⟨?_, honly.trans (.out _ _ (by decide)), hrd, fun h1 h2 => ?_⟩
  · show execPldmSensorRead id s = _
    unfold execPldmSensorRead
    rw [if_neg hphase]
    show (match u.sensor id with
      | some v => _
      | none => _) = _
    rw [hv]
  · show u.out ++ [.sensor u.smbusAddr v] = _
    have hm : Only [.regs, .free] s u := by
      unfold u State.measureFor
      exact .ite (.measure s _ (by decide) (by decide)) (.ite (.measure s _ (by decide) (by decide)) (.refl _ s))
    rw [hm .out (by decide), State.smbusAddr, hm .pwr (by decide), ← State.smbusAddr]
  · rw [show u = s from hself h1 h2]
    exact .out s _ (by decide)

theorem runs_mctpRecordRead {s : State} {idx : Nat} (hlive : s.live = true) (hidx : idx < 4096) :
    Runs (.mctpRecordRead idx) s fun t => Only [.out] s t
      ∧ (∀ seq e, Sparse.get (fun _ => none) s.sc.evts idx = some (seq, e) → t.out = s.out ++ [.record s.smbusAddr (Evt.bytes e seq)])
      ∧ (Sparse.get (fun _ => none) s.sc.evts idx = none → t.out = s.out ++ [.record s.smbusAddr (List.replicate 32 0)]) := by
  let b := match Sparse.get (fun _ => none) s.sc.evts idx with
    | some (seq, e) => Evt.bytes e seq
    | none => List.replicate 32 0
  refine .of_eq (t := { s with out := s.out ++ [.record s.smbusAddr b] }) ?_ ⟨.out s _ (by decide), fun seq e h => ?_, fun h => ?_⟩
  · show execMctpRecordRead idx s = _
    exact if_pos ⟨hlive, hidx⟩
  · show s.out ++ [.record s.smbusAddr b] = _
    rw [show b = Evt.bytes e seq by simp only [b, h]]
  · show s.out ++ [.record s.smbusAddr b] = _
    rw [show b = List.replicate 32 0 by simp only [b, h]]

theorem runs_lcScrap {s : State} (hon : s.pwr.phase ≠ .off) (hl : s.fuses.lifecycle = 3) :
    Runs .lcScrap s fun t => t.fuses = { s.fuses with lifecycle := 4 }
      ∧ t.rd rScLogHead = s.rd rScLogHead + 1 ∧ (∀ g, t.memGet g = s.memGet g) := by
  have hlog := Only.log (ch := [.regs, .sc]) s ⟨3, true, [], 0, 0xFFFF⟩ 10 0xFF 0 3 4 (by decide) (by decide)
  refine runs_taken rfl hon (s.jtagMay_lcScrap.trans (decide_eq_true hl)) ?_
  extract_lets t1
  refine ⟨?_, s.rd_log_head _ _ _ _ _ _, hlog .mem (by decide)⟩
  show { t1.fuses with lifecycle := 4 } = _
  rw [hlog .fuses (by decide)]

theorem runs_dbgNs_regRead {s u : State} {r : Nat} (heq : u = ({ s with ir := .dbgNs }).atEndpoint 0x10C (blockCore r))
    (hphase : s.pwr.phase = .ready) (h6 : s.jtagMay 6 = true) (hmay : s.dbgNsMay (.regRead r) = true)
    (hexists : s.coreExists (blockCore r) = true) (hstopped : s.stopped (blockCore r) = false)
    (hcount : u.mayCount r = false) (hnone : u.timedRead r = none) :
    Runs (.dbgNs (.regRead r)) s fun t => t.ir = .dbgNs
      ∧ t.out = s.out ++ [.value (u.regView r) 0] ∧ Only [.ir, .out, .regs, .drift, .free] s t := by
  have hu : Only [.regs, .drift, .free] { s with ir := .dbgNs } u := heq ▸ .atEndpoint _ _ _ (by decide) (by decide) (by decide)
  have hreset : s.pwr.phase ≠ .reset := by rw [hphase]; decide
  have hread := State.debug_regRead_block (s := { s with ir := .dbgNs }) heq hreset hmay hexists hstopped hcount hnone
  have hon : s.pwr.phase ≠ .off := by rw [hphase]; decide
  refine .of_eq (congrArg Host.Outcome.next ((State.jtag_taken _ hon h6).trans ((if_pos hmay).trans hread)))
    ⟨hu .ir (by decide), ?_, ((Only.ir s _ (by decide)).trans (hu.mono (by decide))).trans (.out u _ (by decide))⟩
  exact congrArg (· ++ _) (hu .out (by decide))

/-- Settles O21: each instruction that is taken does what `runs_taken` says, and the two debug instructions are register operations. -/
theorem managementPins : Obligations.ManagementPins := by
  unfold Obligations.ManagementPins
  intro s a id idx r v
  refine ⟨fun hon => ⟨?_, ?_, fun h2 => ?_, fun h3 => ⟨?_, ?_, ?_⟩, fun hl => ?_⟩, fun hon h7 => ⟨?_, fun hreset => ?_, fun hreset hb hr htb hrand => ?_⟩,
    fun hon h6 hmay => ⟨?_, fun hreset => ?_⟩, ?_, runs_pldmSensorRead, runs_mctpRecordRead⟩
  · exact runs_taken rfl hon rfl ⟨rfl, rfl, (Only.ir s .bypass (by decide)).trans (.out _ _ (by decide))⟩
  · exact runs_taken rfl hon rfl ⟨rfl, rfl, (Only.ir s .idcode (by decide)).trans (.out _ _ (by decide))⟩
  · exact runs_taken rfl hon h2 ⟨rfl, .ir s _ (by decide)⟩
  · exact runs_taken rfl hon h3 ⟨rfl, .ir s _ (by decide)⟩
  · exact runs_taken rfl hon ((s.jtagMay_pins_eq (by decide) (by decide)).trans h3) ⟨rfl, .ir s _ (by decide)⟩
  · exact runs_taken rfl hon ((s.jtagMay_pins_eq (by decide) (by decide)).trans h3) ⟨rfl, .ir s _ (by decide)⟩
  · exact runs_lcScrap hon hl
  · exact runs_taken rfl hon h7 rfl
  · refine runs_taken rfl hon h7 ?_
    rw [State.debug_reset (s := { s with ir := .dbgS }) hreset]
    exact ⟨rfl, .ir s _ (by decide)⟩
  · refine runs_taken rfl hon h7 ?_
    rw [State.debug_regRead_outside (s := { s with ir := .dbgS }) hreset hb hr htb hrand]
    exact ⟨rfl, rfl, (Only.ir s .dbgS (by decide)).trans (.out _ _ (by decide))⟩
  · exact runs_taken rfl hon  h6 (if_pos hmay)
  · refine runs_taken rfl hon h6 ?_
    dsimp only
    rw [if_pos hmay, State.debug_reset (s := { s with ir := .dbgNs }) hreset]
    exact ⟨rfl, .ir s _ (by decide)⟩
  · intro u hphase h6
    exact runs_dbgNs_regRead (u := u) rfl hphase h6

end Sys2Proof.Machine

/-! Accesses of registers as they arrive (11 R326; 15 R439): what waits, and what a read answers. -/

namespace Sys2Proof.Machine

open Sys2Proof

/-! ### How an access lands -/

section
variable {s u : State} {via : Via} {acc : Access} {w : Waiter}

theorem State.viaRun_lands (h : Lands s via acc u w) : s.viaRun via acc = u.access w := by
  cases via with
  | firmware =>
    obtain ⟨hlive, rfl, rfl⟩ := h
    exact if_pos hlive
  | more i =>
    obtain ⟨x, hx, hleft, rfl, rfl⟩ := h
    unfold State.viaRun
    dsimp only
    rw [hx]
    exact if_neg hleft
  | pct h =>
    obtain ⟨hgood, s1, i, x, hacc, rfl, rfl⟩ := h
    unfold State.viaRun
    dsimp only
    rw [if_neg (by rw [hgood]; decide), hacc]

theorem State.viaRun_now (h : LandsNow s via acc u w) : s.viaRun via acc = u.doAccess w := by
  obtain ⟨u0, hlands, hnow, rfl⟩ := h
  rw [State.viaRun_lands hlands, State.access_now hnow]

/-- Who waits: firmware, or a session, never JTAG. -/
theorem iface_of_lands (h : Lands s via acc u w) : w.o.iface ≠ 3 := by
  cases via with
  | firmware =>
    obtain ⟨-, -, rfl⟩ := h
    show 0 ≠ 3
    decide
  | more i =>
    obtain ⟨x, -, -, -, rfl⟩ := h
    show 1 + x.net.val ≠ 3
    omega
  | pct h =>
    obtain ⟨-, -, i, x, -, -, rfl⟩ := h
    show 1 + x.net.val ≠ 3
    omega

/-- The access is the one asked for, but for what firmware never writes. -/
theorem acc_of_lands (h : Lands s via acc u w) : w.acc = acc ∨ (w.o = originFw ∧ w.acc = s.fwAccess acc) := by
  cases via with
  | firmware =>
    obtain ⟨-, -, rfl⟩ := h
    exact .inr ⟨rfl, rfl⟩
  | more i =>
    obtain ⟨x, -, -, -, rfl⟩ := h
    exact .inl rfl
  | pct h =>
    obtain ⟨-, -, i, x, -, -, rfl⟩ := h
    exact .inl rfl

theorem iface_of_landsNow (h : LandsNow s via acc u w) : w.o.iface ≠ 3 := by
  obtain ⟨u0, hlands, -, -⟩ := h
  exact iface_of_lands hlands

theorem acc_regRead {a : Nat} (h : LandsNow s via (.regRead a) u w) : w.acc = .regRead a := by
  obtain ⟨u0, hlands, -, -⟩ := h
  exact (acc_of_lands hlands).elim id And.right

theorem acc_regWrite {a : Nat} {v : Word} (h : LandsNow s via (.regWrite a v) u w) (ha : a ≠ rTetherJoinCtl) :
    w.acc = .regWrite a v := by
  obtain ⟨u0, hlands, -, -⟩ := h
  refine (acc_of_lands hlands).elim id fun hw => hw.2.trans ?_
  show Access.regWrite a (if a = rTetherJoinCtl ∧ _ then _ else v) = _
  rw [if_neg fun e => ha e.1]

/-- A read that lands answers what `regRead` gives. -/
theorem State.viaRun_regRead {a : Nat} (h : LandsNow s via (.regRead a) u w) {v : Word} {st : Nat} {t : State}
    (hread : u.regRead w.o a = (v, st, t)) : s.viaRun via (.regRead a) = t.answerReg w 1 a st v := by
  rw [State.viaRun_now h, State.doAccess_regRead _ (acc_regRead h), hread]

end

/-! ### A counter of cycles, a stalled band, a zeroing -/

section
variable {u : State} {a : Nat}

theorem State.mayCount_block (h : u.mayCount a = true) : inCoreBlock a = true ∧ blockCore a < 256
    ∧ (blockOff a = 0x4004 ∨ blockOff a = 0x6010 ∨ blockOff a = 0x7210 ∨ blockOff a = 0x7214) := by
  simp only [State.mayCount, countsCycles, Bool.and_eq_true, decide_eq_true_eq] at h
  exact ⟨h.1.1.1, h.1.1.2, h.1.2⟩

theorem State.mayStall_block (h : u.mayStall a = true) : inCoreBlock a = true ∧ blockCore a < 256 ∧ blockOff a = 0x4000 := by
  simp only [State.mayStall, Bool.and_eq_true, decide_eq_true_eq] at h
  exact ⟨h.1.1.1, h.1.1.2, h.1.2⟩

theorem State.mayZero_block (h : u.mayZero a = true) : inCoreBlock a = true ∧ blockCore a < 256 ∧ blockOff a = 0x6000 := by
  simp only [State.mayZero, Bool.and_eq_true, decide_eq_true_eq] at h
  exact ⟨h.1.1.1, h.1.1.2, h.1.2⟩

theorem State.mayCount_of_off (h : ¬(blockOff a = 0x4004 ∨ blockOff a = 0x6010 ∨ blockOff a = 0x7210 ∨ blockOff a = 0x7214)) :
    u.mayCount a = false := by
  rw [← Bool.not_eq_true]
  exact fun hc => h (State.mayCount_block hc).2.2

theorem State.timedRead_of_off {t : State} (h1 : blockOff a ≠ 0x4000) (h2 : blockOff a ≠ 0x6000) : t.timedRead a = none := by
  unfold State.timedRead
  rw [if_neg fun h => h1 (State.mayStall_block h).2.2, if_neg fun h => h2 (State.mayZero_block h).2.2]

theorem State.readIn_block (h : inCoreBlock a = true) : u.readIn a = u.countUp a := by
  rw [State.readIn, State.sampled_core h]

theorem Only.sampled {ch : List Grp} (s : State) (a : Nat) (hr : Grp.regs ∈ ch) (hf : Grp.free ∈ ch) :
    Only ch s (((s.sampleMon a).measure a).codewords a) :=
  ((Only.sampleMon s a hr hf).trans (.measure _ a hr hf)).trans (.codewords _ a hr hf)

/-- Where nothing is counted, a read only samples. -/
theorem State.readIn_of_not_count (h : u.mayCount a = false) : u.readIn a = ((u.sampleMon a).measure a).codewords a := by
  cases hb : inCoreBlock a with
  | true => rw [State.readIn_block hb, State.countUp_of_not h, State.sampled_core hb]
  | false => exact State.countUp_of_not (State.mayCount_outside _ hb)

theorem Only.readIn {ch : List Grp} (s : State) (a : Nat) (hr : Grp.regs ∈ ch) (hf : Grp.free ∈ ch) (hc : Grp.cores ∈ ch) :
    Only ch s (s.readIn a) :=
  (Only.sampled s a hr hf).trans (.countUp _ a hr hf hc)

theorem State.rd_counterSet (s : State) (a b : Nat) : (s.counterSet a).rd b = s.rd b :=
  Only.counterSet (ch := [.cores]) s a (by decide) .regs (by decide) b

theorem State.rd_countUp (h : u.mayCount a = true) : (u.countUp a).rd a = satAdd (u.regView a) (Config.waitCycles u.free) := by
  unfold State.countUp
  rw [if_pos h]
  exact ((u.wr a _).rd_counterSet a a).trans (u.rd_wr_same a _)

end

/-! ### What a read answers -/

section
variable {s u : State} {via : Via} {w : Waiter} {a : Nat}

/-- A read of a register that the world may read and that has no effect of its own. -/
theorem runs_registerRead_plain (h : LandsNow s via (.regRead a) u w) (hopen : u.ReadOpen w.o a) (htb : a ≠ rTbTcLo) (hrand : a ≠ rScRand) :
    let v := (((u.sampleMon a).measure a).codewords a).countUp a
    (v.timedRead a = none → Runs (.registerRead via a) s fun t => t = v.answerReg w 1 a 0 (v.regView a)
        ∧ Only [.regs, .free, .cores] u v ∧ (u.mayCount a = false → Only [.regs, .free] u v)
        ∧ (u.mayCount a = false → a < 0x3000000 ∨ (0x4000000 ≤ a ∧ a < 0x9000000) ∨ 0xA000000 ≤ a → v = u))
      ∧ (u.mayCount a = true → Runs (.registerRead via a) s fun t => t = (u.countUp a).answerReg w 1 a 0 ((u.countUp a).regView a)
          ∧ (u.countUp a).rd a = satAdd (u.regView a) (Config.waitCycles u.free))
      ∧ (u.mayStall a = true → Runs (.registerRead via a) s fun t => ∃ x : Word,
          t = ({ u with free := u.free + 1 }).answerReg w 1 a 0 x ∧ ∀ n, n ≠ 5 → bit x n = bit (u.regView a) n)
      ∧ (u.mayZero a = true → Runs (.registerRead via a) s fun t => ∃ x : Word,
          t = ({ u with free := u.free + 1 }).answerReg w 1 a 0 x ∧ ∀ n, n ≠ 6 → bit x n = bit (u.regView a) n) := by
  intro v
  refine ⟨fun hnone => ?_, fun hcount => ?_, fun hstall => ?_, fun hzero => ?_⟩
  · refine .of_eq (congrArg Host.Outcome.next (State.viaRun_regRead h (State.regRead_view hopen htb hrand hnone)))
      ⟨rfl, .readIn u a (by decide) (by decide) (by decide), fun hc => ?_, fun hc hr => ?_⟩
    · show Only _ u (u.readIn a)
      rw [State.readIn_of_not_count hc]
      exact .sampled u a (by decide) (by decide)
    · show u.readIn a = u
      rw [State.readIn_of_not_count hc, State.sampled_eq hr]
  · obtain ⟨hblock, -, hoff⟩ := State.mayCount_block hcount
    have hin := State.readIn_block (u := u) hblock
    have hnone : (u.readIn a).timedRead a = none := State.timedRead_of_off (by omega) (by omega)
    have hread := State.regRead_view hopen htb hrand hnone
    rw [hin] at hread
    exact .of_eq (congrArg Host.Outcome.next (State.viaRun_regRead h hread)) ⟨rfl, State.rd_countUp hcount⟩
  · obtain ⟨hblock, -, hoff⟩ := State.mayStall_block hstall
    have hin : u.readIn a = u := by rw [State.readIn_block hblock, State.countUp_of_not (State.mayCount_of_off (by omega))]
    have hread := State.regRead_some hopen htb hrand (by rw [hin]; exact if_pos hstall)
    rw [hin] at hread
    exact .of_eq (congrArg Host.Outcome.next (State.viaRun_regRead h hread)) ⟨_, rfl, fun n hn => bit_setFld_other _ _ _ _ (by decide) hn⟩
  · obtain ⟨hblock, -, hoff⟩ := State.mayZero_block hzero
    have hin : u.readIn a = u := by rw [State.readIn_block hblock, State.countUp_of_not (State.mayCount_of_off (by omega))]
    have hstall : ¬u.mayStall a = true := fun hs => by
      have := (State.mayStall_block hs).2.2
      omega
    have hread := State.regRead_some hopen htb hrand (by rw [hin]; exact (if_neg hstall).trans (if_pos hzero))
    rw [hin] at hread
    exact .of_eq (congrArg Host.Outcome.next (State.viaRun_regRead h hread)) ⟨_, rfl, fun n hn => bit_setFld_other _ _ _ _ (by decide) hn⟩

/-- A register of a core that does not exist. -/
theorem State.regRead_absent {o : Origin} (h1 : inCoreBlock a = true) (h2 : blockCore a < 256) (h3 : u.coreExists (blockCore a) = false) :
    u.regRead o a = (0, 2, u) := by
  unfold State.regRead
  rw [if_pos ⟨h1, h2, by rw [h3]; rfl⟩]

/-- A register that the non-secure world may not read. -/
theorem State.regRead_denied {o : Origin} (habsent : ¬(inCoreBlock a = true ∧ blockCore a < 256 ∧ u.coreExists (blockCore a) = false))
    (hns : o.secure = false) (hread : u.nsReadable a = false) (hset : ¬(0x8001000 ≤ a ∧ a < 0x8005000)) :
    u.regRead o a = (0, 1, u.regWorld o 4 a 0) := by
  unfold State.regRead
  rw [if_neg (by simpa using habsent), if_pos ⟨by rw [hns]; rfl, by rw [hread]; rfl⟩, if_neg fun h => hset ⟨h.1, h.2.1⟩]

theorem State.regRead_tcLo {o : Origin} :
    u.regRead o rTbTcLo = (lo32 u.tb.tc, 0, { u with tb := { u.tb with tcHi := hi32 u.tb.tc } }) := by
  have hopen : u.ReadOpen o rTbTcLo := ⟨fun h => absurd h.1 (by decide), .inr rfl⟩
  unfold State.regRead
  rw [if_neg hopen.not_absent, if_neg hopen.not_denied, if_pos rfl]

theorem State.regRead_rand {o : Origin} (hsecure : o.secure = true) :
    u.regRead o rScRand = (Config.random u.rnd, 0, { u with rnd := u.rnd + 1 }) := by
  have hopen : u.ReadOpen o rScRand := ⟨fun h => absurd h.1 (by decide), .inl hsecure⟩
  unfold State.regRead
  rw [if_neg hopen.not_absent, if_neg hopen.not_denied, if_neg (by decide), if_pos rfl]
  rfl

end

/-- Settles O30: an access that lands answers `regRead`, whose cases are told apart by the address. -/
theorem registerReads : Obligations.RegisterReads := by
  unfold Obligations.RegisterReads
  intro s u via w a
  exact ⟨fun h hexists hworld htb hrand => runs_registerRead_plain h ⟨hexists, hworld⟩ htb hrand,
    fun h h1 h2 h3 => .of_eq (congrArg Host.Outcome.next (State.viaRun_regRead h (State.regRead_absent h1 h2 h3))) rfl,
    fun h h1 h2 h3 h4 => .of_eq (congrArg Host.Outcome.next (State.viaRun_regRead h (State.regRead_denied h1 h2 h3 h4))) rfl,
    fun h => .of_eq (congrArg Host.Outcome.next (State.viaRun_regRead h State.regRead_tcLo)) rfl,
    fun h hsecure => .of_eq (congrArg Host.Outcome.next (State.viaRun_regRead h (State.regRead_rand hsecure))) rfl⟩

/-! ### What waits for a region -/

/-- A level change that is done puts the region at the level asked for, and nothing else. -/
theorem State.levelDone_frame (s : State) (r : Fin 16) (h : bit (s.rd (rPmRegionClk r.val)) 4 = true) :
    fld ((s.levelDone r).rd (rPmRegionClk r.val)) 2 2 = fld (s.rd (rPmRegionClk r.val)) 0 2
      ∧ bit ((s.levelDone r).rd (rPmRegionClk r.val)) 4 = false
      ∧ (∀ b, b ≠ rPmRegionClk r.val → (s.levelDone r).rd b = s.rd b) ∧ Only [.regs] s (s.levelDone r) := by
  unfold State.levelDone
  extract_lets a
  rw [if_pos h]
  refine ⟨?_, ?_, fun b hb => ?_, (Only.wrF s _ _ _ _ (by decide)).trans (.clrBit _ _ _ (by decide))⟩
  · rw [State.rd_clrBit, if_pos rfl, fld_setFld_below _ _ _ _ _ _ (by decide) (by decide), State.rd_wrF, if_pos rfl,
      fld_setFld _ _ _ _ (by decide)]
    exact Nat.mod_eq_of_lt (Nat.mod_lt _ (by decide))
  · rw [State.rd_clrBit, if_pos rfl, bit_setFld_zero _ _ (by decide)]
  · rw [State.rd_clrBit_ne _ _ hb, State.rd_wrF_ne _ _ _ _ hb]

/-- Settles O31: what must wait joins those that wait, and the end of a level change runs them all. -/
theorem accessesWait : Obligations.AccessesWait := by
  unfold Obligations.AccessesWait
  intro s u via w a v region
  have hwait {acc : Access} {i : Instr} (hexec : exec i s = .next (s.viaRun via acc)) (hlands : Lands s via acc u w)
      (hmust : u.mustWait w = true) : Runs i s fun t => t.stalled = u.stalled ++ [w] ∧ Only [.stalled] u t := by
    rw [State.viaRun_lands hlands, State.access_waits hmust] at hexec
    exact .of_eq hexec ⟨rfl, .stalled u _ (by decide)⟩
  have hstalled : (s.levelDone region).stalled = s.stalled := by
    unfold State.levelDone
    dsimp only
    split <;> simp
  have hdrain : (s.levelDone region).drainStalled = s.stalled.foldl State.access { s.levelDone region with stalled := [] } := by
    rw [State.drainStalled, hstalled]
  refine ⟨hwait rfl, hwait rfl, fun hnone hbit => ?_, .of_eq rfl hdrain⟩
  obtain ⟨hfld, hdone, hrd, honly⟩ := s.levelDone_frame region hbit
  refine .of_eq (congrArg Host.Outcome.next hdrain) ?_
  rw [hnone] at hstalled ⊢
  rw [show (List.foldl State.access { s.levelDone region with stalled := [] } []) = s.levelDone region by
    rw [List.foldl_nil, ← hstalled]]
  exact ⟨hfld, hdone, hrd, honly⟩

end Sys2Proof.Machine

/-! A write of a register: how it lands, what its type leaves, and what is logged (00 R13 to R17; 16 R448, R465). -/

namespace Sys2Proof.Machine

open Sys2Proof

/-! ### What is logged of a write -/

theorem Only.logWrite {ch : List Grp} (s : State) (o : Origin) (a : Nat) (old new : Word) (hr : Grp.regs ∈ ch) (hs : Grp.sc ∈ ch) :
    Only ch s (s.logWrite o a old new) := .ite (.log s _ _ _ _ _ _ hr hs) (.refl _ s)

theorem Only.refuseWrite {ch : List Grp} (s : State) (o : Origin) (a : Nat) (v : Word) (hr : Grp.regs ∈ ch) (hs : Grp.sc ∈ ch) :
    Only ch s (s.refuseWrite o a v) := .log s _ _ _ _ _ _ hr hs

theorem State.rd_logWrite_ne (s : State) (o : Origin) (a : Nat) (old new : Word) {b : Nat} (h : b ∉ logRegs) :
    (s.logWrite o a old new).rd b = s.rd b := by
  unfold State.logWrite
  split
  · exact s.rd_log_ne _ _ _ _ _ _ h
  · rfl

theorem State.rd_refuseWrite_ne (s : State) (o : Origin) (a : Nat) (v : Word) {b : Nat} (h : b ∉ logRegs) :
    (s.refuseWrite o a v).rd b = s.rd b := s.rd_log_ne _ _ _ _ _ _ h

theorem State.rd_refuseWrite_head (s : State) (o : Origin) (a : Nat) (v : Word) :
    (s.refuseWrite o a v).rd rScLogHead = s.rd rScLogHead + 1 := s.rd_log_head _ _ _ _ _ _

/-- Of a register outside the core blocks that is no counter, a write is logged. -/
theorem State.rd_logWrite_head (s : State) (o : Origin) {a : Nat} (old new : Word) (hblock : inCoreBlock a = false)
    (hcounter : isCounter a = false) : (s.logWrite o a old new).rd rScLogHead = s.rd rScLogHead + 1 := by
  unfold State.logWrite
  rw [if_pos ⟨by rw [State.blockSecure, hblock]; rfl, by rw [hcounter]; rfl⟩, State.rd_log_head]

/-- The registers of the change log and of the records lie from SC_STATUS to SC_ALERT. -/
theorem not_logRegs {a : Nat} (h : a < 0x1000000 ∨ 0x1000050 < a) : a ∉ logRegs := by
  intro hm
  simp only [logRegs, List.mem_cons, List.not_mem_nil, or_false] at hm
  unfold rScLogHead rScLogTail rScLogLost rScStatus rScAlert rScEvtHead rScEvtTail rScEvtLost at hm
  omega

/-! ### What the types of the fields leave -/

section
variable {s : State} {o : Origin} {a : Nat} {v : Word} {r : RegRow}

theorem Only.writeTyped {ch : List Grp} (s : State) (o : Origin) (a : Nat) (v : Word) (hr : Grp.regs ∈ ch) (hs : Grp.sc ∈ ch) :
    Only ch s (s.writeTyped o a v) := by
  unfold State.writeTyped
  split
  · exact .refl _ s
  · exact .ite (.refuseWrite s _ _ _ hr hs) (.ite ((Only.wr s _ _ hr).trans (.logWrite _ _ _ _ _ hr hs)) (.wr s _ _ hr))

/-- A register whose fields are read-only keeps its value, and the write is logged. -/
theorem State.writeTyped_readOnly (hfind : regFind a = some r) (hro : r.readOnly = true) : s.writeTyped o a v = s.refuseWrite o a v := by
  unfold State.writeTyped
  rw [hfind]
  exact if_pos hro

/-- A register with a field that is written takes what its types leave. -/
theorem State.rd_writeTyped (hfind : regFind a = some r) (hro : r.readOnly = false) (hlog : a ∉ logRegs) :
    (s.writeTyped o a v).rd a = r.after (decide (a = rScJtag) && bit (s.rd a) 1) (s.rd a) v := by
  unfold State.writeTyped
  rw [hfind]
  dsimp only
  rw [if_neg (by rw [hro]; decide)]
  split
  · rw [State.rd_logWrite_ne _ _ _ _ _ hlog, State.rd_wr_same]
  · rw [State.rd_wr_same]

theorem State.rd_writeTyped_ne (s : State) (o : Origin) (a : Nat) (v : Word) {b : Nat} (hb : b ≠ a) (hlog : b ∉ logRegs) :
    (s.writeTyped o a v).rd b = s.rd b := by
  unfold State.writeTyped
  split
  · rfl
  · dsimp only
    split
    · exact s.rd_refuseWrite_ne _ _ _ hlog
    · split
      · rw [State.rd_logWrite_ne _ _ _ _ _ hlog, State.rd_wr_ne _ _ hb]
      · rw [State.rd_wr_ne _ _ hb]

end

/-! ### How a write lands -/

section
variable {s u : State} {via : Via} {w : Waiter} {a : Nat} {v x : Word}

theorem State.doAccess_regWrite (u : State) {w : Waiter} {a st : Nat} {x : Word} {t : State} (hacc : w.acc = .regWrite a x)
    (hiface : w.o.iface ≠ 3) (hwrite : u.regWrite w.o a x = (st, t)) : u.doAccess w = t.answerReg w 2 a st x := by
  have hlog (t : State) (old : Word) : t.jtagLog w a old x = t := if_neg hiface
  unfold State.doAccess
  rw [hacc]
  dsimp only
  rw [hwrite, hlog, ite_self]

/-- A write that lands is answered with what `regWrite` gives. -/
theorem State.viaRun_regWrite (h : LandsNow s via (.regWrite a v) u w) (hacc : w.acc = .regWrite a x) {st : Nat} {t : State}
    (hwrite : u.regWrite w.o a x = (st, t)) : s.viaRun via (.regWrite a v) = t.answerReg w 2 a st x := by
  rw [State.viaRun_now h, State.doAccess_regWrite u hacc (iface_of_landsNow h) hwrite]

theorem State.regWrite_secure {o : Origin} (hsecure : o.secure = true)
    (hexists : inCoreBlock a = true → u.coreExists (blockCore a) = true) : u.regWrite o a x = (0, u.writeReg o a x) := by
  unfold State.regWrite
  rw [if_neg fun h => absurd h.2.2 (by rw [hexists h.1]; decide), if_pos hsecure]

/-- A write of the secure world takes place as `writeReg` says and is answered with status 0. -/
theorem runs_wrote_of_acc {i : Instr} {P : State → Prop} (hexec : exec i s = .next (s.viaRun via (.regWrite a v)))
    (h : LandsNow s via (.regWrite a v) u w) (hacc : w.acc = .regWrite a x) (hsecure : w.o.secure = true)
    (hexists : inCoreBlock a = true → u.coreExists (blockCore a) = true) (hP : P (u.writeReg w.o a x)) : Runs i s (Wrote w a x P) := by
  refine .of_eq hexec ⟨u.writeReg w.o a x, ?_, hP⟩
  rw [State.viaRun_regWrite h hacc (State.regWrite_secure hsecure hexists)]

/-- The same for a register outside the core blocks, other than the one whose READY firmware may not set. -/
theorem runs_wrote {i : Instr} {P : State → Prop} (hexec : exec i s = .next (s.viaRun via (.regWrite a v)))
    (h : LandsNow s via (.regWrite a v) u w) (ha : a ≠ rTetherJoinCtl) (hsecure : w.o.secure = true) (hblock : inCoreBlock a = false)
    (hP : P (u.writeReg w.o a v)) : Runs i s (Wrote w a v P) :=
  runs_wrote_of_acc hexec h (acc_regWrite h ha) hsecure (fun e => absurd e (by rw [hblock]; decide)) hP

/-- The non-secure world writes nothing outside the core blocks, and is logged. -/
theorem State.regWrite_nonSecure {o : Origin} (hns : o.secure = false) (hblock : inCoreBlock a = false) :
    u.regWrite o a x = (1, u.regWorld o 3 a x) := by
  unfold State.regWrite
  rw [if_neg fun h => absurd h.1 (by rw [hblock]; decide), if_neg (by rw [hns]; decide)]
  split
  · rw [if_neg fun h => absurd h.1 (by rw [hblock]; decide)]
  · rfl

end

/-! ### Plain registers -/

/-- Of a register without an effect of its own, a write is the write of its type and, in a core block, the counting of its counter. -/
theorem State.writeReg_plain {u : State} {o : Origin} {a : Nat} {v : Word} (h : PlainReg u a) : ∃ t : State,
    u.writeReg o a v = t ∧ (t = u.writeTyped o a v ∨ t = (u.writeTyped o a v).counterSet a) := by
  refine ⟨_, rfl, ?_⟩
  unfold State.writeReg
  rcases h with ⟨hblock, -, hsetup⟩ | hmc | ⟨hlo, hhi, hctl, hjoined⟩ | ⟨hlo, hhi, hthresh⟩ | ⟨hlo, hhi⟩ | ⟨hlo, hhi⟩
  · right
    rw [if_pos hblock, State.writeCoreReg, if_neg fun e => absurd e.1 (by rw [hsetup]; decide)]
  all_goals
    left
    have hblock : ¬inCoreBlock a = true := fun e => by
      have := blockAddr_ge e
      omega
    rw [if_neg hblock]
  · rw [if_pos hmc]
  · rw [if_neg (by omega), if_neg (by omega), if_pos hhi, State.writeTb, if_neg fun e => absurd e.1 (by rw [hjoined]; decide), if_neg hctl]
  · rw [if_neg (by omega), if_neg (by omega), if_neg (by omega), if_pos (by omega), State.writePm, if_neg hthresh, if_neg (by omega)]
  · rw [if_neg (by omega), if_neg (by omega), if_neg (by omega), if_neg (by omega), if_neg (by omega), if_neg (by omega), if_pos hhi]
  · rw [if_neg (by omega), if_neg (by omega), if_neg (by omega), if_neg (by omega), if_neg (by omega), if_neg (by omega), if_neg (by omega),
      if_neg (by omega), if_pos (by omega), State.writeIo, if_neg (by omega)]

theorem not_logRegs_plain {u : State} {a : Nat} (h : PlainReg u a) : a ∉ logRegs := by
  refine not_logRegs ?_
  rcases h with ⟨hblock, -, -⟩ | hmc | ⟨hlo, hhi, -, -⟩ | ⟨hlo, hhi, -⟩ | ⟨hlo, hhi⟩ | ⟨hlo, hhi⟩
  · have := blockAddr_ge hblock
    omega
  all_goals omega

theorem exists_of_plain {u : State} {a : Nat} (h : PlainReg u a) (hblock : inCoreBlock a = true) : u.coreExists (blockCore a) = true := by
  have := blockAddr_ge hblock
  rcases h with ⟨-, hexists, -⟩ | hmc | ⟨hlo, hhi, -, -⟩ | ⟨hlo, hhi, -⟩ | ⟨hlo, hhi⟩ | ⟨hlo, hhi⟩
  · exact hexists
  all_goals omega

theorem ne_of_plain {u : State} {a : Nat} (h : PlainReg u a) : a ≠ rScJtag ∧ a ≠ rTetherJoinCtl := by
  have hge : inCoreBlock a = true → 0x10000000 ≤ a := blockAddr_ge
  unfold rScJtag rTetherJoinCtl
  rcases h with ⟨hblock, -, -⟩ | hmc | ⟨hlo, hhi, -, -⟩ | ⟨hlo, hhi, -⟩ | ⟨hlo, hhi⟩ | ⟨hlo, hhi⟩
  · have := hge hblock
    omega
  all_goals omega

theorem State.counterSet_of_not {s : State} {a : Nat} (h : countsCycles a = false) : s.counterSet a = s :=
  if_neg (by rw [h]; exact Bool.false_ne_true)

/-- What a write of a plain register changes. -/
theorem State.writeReg_plain_frame {u : State} {o : Origin} {a : Nat} {v : Word} (h : PlainReg u a) :
    (∀ b, (u.writeReg o a v).rd b = (u.writeTyped o a v).rd b) ∧ Only [.regs, .sc, .cores] u (u.writeReg o a v)
      ∧ (countsCycles a = false → Only [.regs, .sc] u (u.writeReg o a v)) := by
  have htyped {ch : List Grp} (hr : Grp.regs ∈ ch) (hs : Grp.sc ∈ ch) := Only.writeTyped u o a v hr hs
  obtain ⟨t, heq, rfl | rfl⟩ := State.writeReg_plain (o := o) (v := v) h
  · rw [heq]
    exact ⟨fun _ => rfl, htyped (by decide) (by decide), fun _ => htyped (by decide) (by decide)⟩
  · rw [heq]
    refine ⟨fun b => State.rd_counterSet _ a b, (htyped (by decide) (by decide)).trans (.counterSet _ a (by decide)), fun hc => ?_⟩
    rw [State.counterSet_of_not hc]
    exact htyped (by decide) (by decide)

/-- Settles O32: a plain register takes what its types leave; the other world's write is `regWorld`. -/
theorem registerWrites : Obligations.RegisterWrites := by
  unfold Obligations.RegisterWrites
  intro s u via w a v r
  refine ⟨fun h hsecure hplain hfind => ?_, fun h hns hblock => ?_⟩
  · obtain ⟨hrd, honly, honly'⟩ := State.writeReg_plain_frame (o := w.o) (v := v) hplain
    obtain ⟨hjtag, hjoin⟩ := ne_of_plain hplain
    have hruns {P : State → Prop} := runs_wrote_of_acc (P := P) (i := .registerWrite via a v) rfl h (acc_regWrite h hjoin) hsecure
      (exists_of_plain hplain)
    refine ⟨fun hro => hruns ⟨?_, honly .mem (by decide), honly, honly'⟩, fun hro => hruns ⟨?_, ?_⟩⟩
    · rw [hrd, State.rd_writeTyped hfind hro (not_logRegs_plain hplain), decide_eq_false hjtag]
      rfl
    · rw [hrd, State.writeTyped_readOnly hfind hro, State.rd_refuseWrite_ne _ _ _ _ (not_logRegs_plain hplain)]
    · rw [hrd, State.writeTyped_readOnly hfind hro, State.rd_refuseWrite_head]
  · have hacc : w.acc = .regWrite a v := by
      obtain ⟨u0, hlands, -, -⟩ := h
      refine (acc_of_lands hlands).resolve_right fun hfw => absurd hns ?_
      rw [hfw.1]
      decide
    exact ⟨_, congrArg Host.Outcome.next (State.viaRun_regWrite h hacc (State.regWrite_nonSecure hns hblock)), rfl⟩

end Sys2Proof.Machine

/-! Writes that are held for the boundary, the slots of the model and expert store, and the tails and locks of the security
controller (12 R354; 13 R364, R383; 14 R415, R416, R421; 16 R464, R468, R469, R475). -/

namespace Sys2Proof.Machine

open Sys2Proof

/-! ### Which unit's write it is -/

theorem outside_of_lt {a : Nat} (h : a < 0x10000000) : inCoreBlock a = false := decide_eq_false (by omega)

section
variable {u : State} {o : Origin} {a : Nat} {v : Word}

theorem State.writeReg_sc (h1 : 0x1000000 ≤ a) (h2 : a < 0x2000000) : u.writeReg o a v = u.writeSc o a v := by
  unfold State.writeReg
  rw [if_neg (ne_true_of_eq_false (outside_of_lt (by omega))), if_neg (by omega), if_pos h2]

theorem State.writeReg_tb (h1 : 0x2000000 ≤ a) (h2 : a < 0x3000000) : u.writeReg o a v = u.writeTb o a v := by
  unfold State.writeReg
  rw [if_neg (ne_true_of_eq_false (outside_of_lt (by omega))), if_neg (by omega), if_neg (by omega), if_pos h2]

theorem State.writeReg_pm (h1 : 0x3000000 ≤ a) (h2 : a < 0x4000000) : u.writeReg o a v = u.writePm o a v := by
  unfold State.writeReg
  rw [if_neg (ne_true_of_eq_false (outside_of_lt (by omega))), if_neg (by omega), if_neg (by omega), if_neg (by omega), if_pos h2]

theorem State.writeReg_rt (h1 : 0x4000000 ≤ a) (h2 : a < 0x5000000) : u.writeReg o a v = u.writeRt o a v := by
  unfold State.writeReg
  rw [if_neg (ne_true_of_eq_false (outside_of_lt (by omega))), if_neg (by omega), if_neg (by omega), if_neg (by omega), if_neg (by omega), if_pos h2]

theorem State.writeReg_pg (h1 : 0x5000000 ≤ a) (h2 : a < 0x7000000) : u.writeReg o a v = u.writePg o a v := by
  unfold State.writeReg
  rw [if_neg (ne_true_of_eq_false (outside_of_lt (by omega))), if_neg (by omega), if_neg (by omega), if_neg (by omega), if_neg (by omega), if_neg (by omega), if_pos h2]

theorem State.writeReg_xb (h1 : 0x8000000 ≤ a) (h2 : a < 0x9000000) : u.writeReg o a v = u.writeXb o a v := by
  unfold State.writeReg
  rw [if_neg (ne_true_of_eq_false (outside_of_lt (by omega))), if_neg (by omega), if_neg (by omega), if_neg (by omega), if_neg (by omega), if_neg (by omega), if_neg (by omega),
    if_neg (by omega), if_pos h2]

theorem State.writeReg_tether (h1 : 0xA000000 ≤ a) (h2 : a < 0xB000000) : u.writeReg o a v = u.writeTether o a v := by
  unfold State.writeReg
  rw [if_neg (ne_true_of_eq_false (outside_of_lt (by omega))), if_neg (by omega), if_neg (by omega), if_neg (by omega), if_neg (by omega), if_neg (by omega), if_neg (by omega),
    if_neg (by omega), if_neg (by omega), if_neg (by omega), if_pos h2]

theorem State.writeReg_dg (h1 : 0xB000000 ≤ a) (h2 : a < 0x10000000) : u.writeReg o a v = u.writeDg o a v := by
  unfold State.writeReg
  rw [if_neg (ne_true_of_eq_false (outside_of_lt (by omega))), if_neg (by omega), if_neg (by omega), if_neg (by omega), if_neg (by omega), if_neg (by omega), if_neg (by omega),
    if_neg (by omega), if_neg (by omega), if_neg (by omega), if_neg (by omega)]

end

/-! ### Held for the boundary -/

/-- What a write of a group's control word holds: each bit that differs from what was last written. -/
def heldBits (o : Origin) (n : Nat) (v old : Word) : List (Origin × HeldWrite) :=
  (if bit v 0 = bit old 0 then [] else [(o, HeldWrite.valid n (bit v 0))])
    ++ (if bit v 12 = bit old 12 then [] else [(o, HeldWrite.noadmit n (bit v 12))])
    ++ (if bit v 13 = bit old 13 then [] else [(o, HeldWrite.frozen n (bit v 13))])

/-- What is held if a bit differs. -/
theorem State.hold_unless (s : State) (o : Origin) (h : HeldWrite) (p : Prop) [Decidable p] :
    (if p then s else s.hold o h) = { s with rt := { s.rt with held := s.rt.held ++ if p then [] else [(o, h)] } } := by
  split
  · rw [List.append_nil]
  · rfl

/-- A write of a group's control word: GROUP and SU_MASK at once at most, the three bits held. -/
theorem State.writeGroupCtl_frame (u : State) (o : Origin) (n : Nat) (v : Word) :
    (u.writeGroupCtl o n v).rt = { u.rt with held := u.rt.held ++ heldBits o n v (u.groupCtl n) }
      ∧ bit ((u.writeGroupCtl o n v).rd (rRtGroupCtl n)) 0 = bit (u.rd (rRtGroupCtl n)) 0
      ∧ (∀ g, (u.writeGroupCtl o n v).memGet g = u.memGet g) := by
  have hnot : rRtGroupCtl n ∉ logRegs := not_logRegs (.inr (by unfold rRtGroupCtl; omega))
  unfold State.writeGroupCtl
  extract_lets a old s1 s2 s3 s4
  have h1 : Only [.regs] u s1 := .ite (.refl _ u) ((Only.wrF u _ _ _ _ (by decide)).trans (.wrF _ _ _ _ _ (by decide)))
  have hbit : bit (s1.rd a) 0 = bit (u.rd a) 0 := by
    dsimp only [s1]
    split
    · rfl
    · rw [State.rd_wrF, if_pos rfl, State.rd_wrF, if_pos rfl, bit_eq_fld, fld_setFld_below _ _ _ _ _ _ (by decide) (by decide),
        fld_setFld_below _ _ _ _ _ _ (by decide) (by decide), ← bit_eq_fld]
  have h4 : s4 = { s1 with rt := { s1.rt with held := s1.rt.held ++ heldBits o n v old } } := by
    dsimp only [s4, s3, s2]
    rw [State.hold_unless, State.hold_unless, State.hold_unless]
    simp only [heldBits, List.append_assoc]
  have hlog : Only [.regs, .sc] s4 (s4.logWrite o a old (s4.groupCtl n)) := .logWrite _ _ _ _ _ (by decide) (by decide)
  refine ⟨?_, ?_, fun g => ?_⟩
  · rw [hlog .rt (by decide), h4]
    show { s1.rt with held := s1.rt.held ++ heldBits o n v old } = _
    rw [h1 .rt (by decide)]
  · rw [State.rd_logWrite_ne _ _ _ _ _ hnot, h4]
    exact hbit
  · rw [hlog .mem (by decide), h4]
    exact h1 .mem (by decide) g

section
variable {u : State} {o : Origin} {v : Word}

theorem State.writeReg_groupCtl {n : Nat} (hn : n < 16) : u.writeReg o (rRtGroupCtl n) v = u.writeGroupCtl o n v := by
  have hn' : (rRtGroupCtl n - 0x4000100) / 0x40 = n ∧ (rRtGroupCtl n - 0x4000100) % 0x40 = 0 := by unfold rRtGroupCtl; omega
  rw [State.writeReg_rt (by unfold rRtGroupCtl; omega) (by unfold rRtGroupCtl; omega)]
  unfold State.writeRt
  rw [if_neg (by unfold rRtGroupCtl rRtCredit; omega), if_pos (by unfold rRtGroupCtl; omega)]
  dsimp only
  rw [hn'.1, hn'.2, if_pos rfl]

theorem State.writeReg_credit (h : fld v 12 20 ≠ 0) :
    u.writeReg o rRtCredit v = u.hold o (.credit (fld v 0 12) (fld v 12 20)) := by
  rw [State.writeReg_rt (by decide) (by decide)]
  unfold State.writeRt
  rw [if_pos rfl, if_neg h]

/-- A write of a word of a client record: held where the host may write it, refused where only the RT does. -/
theorem State.writeReg_client (client : Fin 4096) (word : Fin 16) :
    u.writeReg o (rRtCli (16 * client.val + word.val)) v
      = if 8 ≤ word.val ∧ word.val ≤ 11 ∨ 14 ≤ word.val then u.hold o (.client client.val word.val v)
        else u.refuseWrite o (rRtCli (16 * client.val + word.val)) v := by
  have ha : rRtCli (16 * client.val + word.val) = 0x4200000 + client.val * 64 + word.val * 4 := by unfold rRtCli; omega
  have hw := word.isLt
  rw [State.writeReg_rt (by rw [ha]; omega) (by rw [ha]; omega)]
  unfold State.writeRt
  rw [if_neg (by rw [ha]; unfold rRtCredit; omega), if_neg (by rw [ha]; omega), if_neg (by rw [ha]; omega), if_pos (by rw [ha]; omega)]
  dsimp only
  rw [show (rRtCli (16 * client.val + word.val) - 0x4200000) % 64 / 4 = word.val by rw [ha]; omega,
    show (rRtCli (16 * client.val + word.val) - 0x4200000) / 64 = client.val by rw [ha]; omega]
  refine if_congr ?_ rfl rfl
  omega

end

/-- Settles O33: what each write holds is appended to what is held. -/
theorem heldWrites : Obligations.HeldWrites := by
  unfold Obligations.HeldWrites
  intro s u via w n client word v a old held hsecure
  refine ⟨fun h => ?_, fun h hv => ?_, fun h => ?_⟩
  · intro waits
    have hP : waits (u.writeReg w.o a v) := by
      rw [State.writeReg_groupCtl n.isLt]
      exact u.writeGroupCtl_frame w.o n.val v
    have ha : a ≠ rTetherJoinCtl := by unfold a rRtGroupCtl rTetherJoinCtl; omega
    have hblock : inCoreBlock a = false := outside_of_lt (by unfold a rRtGroupCtl; omega)
    exact ⟨runs_wrote rfl h ha hsecure hblock hP, runs_wrote rfl h ha hsecure hblock hP, runs_wrote rfl h ha hsecure hblock hP,
      runs_wrote rfl h ha hsecure hblock hP⟩
  · refine runs_wrote rfl h (by decide) hsecure (by decide) ?_
    rw [State.writeReg_credit hv]
    exact ⟨rfl, .rt u _ (by decide)⟩
  · have ha : rRtCli (16 * client.val + word.val) ≠ rTetherJoinCtl := by unfold rRtCli rTetherJoinCtl; omega
    have hblock : inCoreBlock (rRtCli (16 * client.val + word.val)) = false := outside_of_lt (by unfold rRtCli; omega)
    refine ⟨fun hw => runs_wrote rfl h ha hsecure hblock ?_, fun hw => runs_wrote rfl h ha hsecure hblock ?_⟩
    · rw [State.writeReg_client, if_pos hw]
      exact ⟨rfl, .rt u _ (by decide)⟩
    · rw [State.writeReg_client, if_neg hw]
      exact ⟨Only.refuseWrite (ch := [.regs, .sc]) u _ _ _ (by decide) (by decide) .rt (by decide), u.rd_refuseWrite_head _ _ _⟩

end Sys2Proof.Machine

/-! The slots of the model and expert store (14 R415, R416, R421), log tails, user calibration and the debug lock (12 R354; 16 R464,
R468, R469, R475). -/

namespace Sys2Proof.Machine

open Sys2Proof

/-! ### The word of XB_CMD -/

theorem xbWord_toNat (op : Nat) (e : Bool) (k g : Nat) (hop : op < 4) :
    (xbWord op e k g).toNat = op + bn e * 4 + k % 1024 * 8 + g % 2048 * 8192 := by
  have he : bn e < 2 := by cases e <;> decide
  rw [xbWord, BitVec.toNat_ofNat]
  omega

theorem xbWord_fields (op : Nat) (e : Bool) (k g : Nat) (hop : op < 4) (hk : k < 1024) :
    fld (xbWord op e k g) 0 2 = op ∧ bit (xbWord op e k g) 2 = e ∧ fld (xbWord op e k g) 3 10 = k
      ∧ fld (xbWord op e k g) 13 11 = g % 2048 := by
  have he : bn e < 2 := by cases e <;> decide
  have hw := xbWord_toNat op e k g hop
  have hbit : fld (xbWord op e k g) 2 1 = bn e := by
    unfold fld
    rw [hw]
    omega
  refine ⟨?_, ?_, ?_, ?_⟩
  · unfold fld
    rw [hw]
    omega
  · rw [bit_eq_fld, hbit]
    cases e <;> rfl
  · unfold fld
    rw [hw]
    omega
  · unfold fld
    rw [hw]
    omega

/-! ### The registers of the store -/

theorem rXbSlot_range (e : Bool) {k : Nat} (hk : k < 1024) : 0x8005000 ≤ rXbSlot e k := by
  unfold rXbSlot rXbEslot rXbAslot
  split <;> omega

theorem rXbSlot_not_logRegs (e : Bool) {k : Nat} (hk : k < 1024) : rXbSlot e k ∉ logRegs :=
  not_logRegs (.inr (by have := rXbSlot_range e hk; omega))

/-- The address of a set's word gives back the set. -/
theorem rXbSet_place (e : Bool) {k : Nat} (hk : k < 1024) :
    0x8001000 ≤ rXbSet e k ∧ rXbSet e k < 0x8005000 ∧ rXbSet e k % 8 = 0 ∧ decide (0x8003000 ≤ rXbSet e k) = e
      ∧ (rXbSet e k - (if 0x8003000 ≤ rXbSet e k then 0x8003000 else 0x8001000)) / 8 = k := by
  unfold rXbSet rXbEsetSlots rXbAsetSlots
  cases e with
  | true =>
    rw [if_pos rfl, if_pos (by omega)]
    exact ⟨by omega, by omega, by omega, decide_eq_true (by omega), by omega⟩
  | false =>
    rw [if_neg Bool.false_ne_true, if_neg (by omega)]
    exact ⟨by omega, by omega, by omega, decide_eq_false (by omega), by omega⟩

section
variable {u : State} {o : Origin} {e : Bool} {k g : Nat}

/-- A command of the store is entered in the change log and carried out. -/
theorem State.writeReg_xbCmd {op : Nat} (hop : op < 4) (hk : k < 1024) :
    u.writeReg o rXbCmd (xbWord op e k g) = (u.logWrite o rXbCmd 0 (xbWord op e k g)).xbCmd op e k (g % 2048) := by
  obtain ⟨h1, h2, h3, h4⟩ := xbWord_fields op e k g hop hk
  rw [State.writeReg_xb (by decide) (by decide)]
  unfold State.writeXb
  rw [if_pos rfl, h1, h2, h3, h4]

theorem State.rd_xbSlot_logWrite (hk : k < 1024) (a : Nat) (old new : Word) :
    (u.logWrite o a old new).rd (rXbSlot e k) = u.rd (rXbSlot e k) := u.rd_logWrite_ne _ _ _ _ (rXbSlot_not_logRegs e hk)

theorem State.xbState_logWrite (hk : k < 1024) (a : Nat) (old new : Word) : (u.logWrite o a old new).xbState e k = u.xbState e k := by
  rw [State.xbState, State.rd_xbSlot_logWrite hk, State.xbState]

/-- A FREE slot is claimed. -/
theorem State.xbClaim_frame (hk : k < 1024) (hfree : u.xbState e k = 0) :
    let t := u.writeReg o rXbCmd (xbWord 1 e k g)
    t.xbState e k = 1 ∧ t.xbGroup e k = g % 2048 ∧ Only [.regs, .sc] u t := by
  have hcmd : u.writeReg o rXbCmd (xbWord 1 e k g)
      = (u.logWrite o rXbCmd 0 (xbWord 1 e k g)).wr (rXbSlot e k) (BitVec.ofNat 32 (1 + g % 2048 % 2048 * 2 ^ 19)) := by
    rw [State.writeReg_xbCmd (by decide) hk]
    exact if_pos ⟨rfl, (State.xbState_logWrite hk _ _ _).trans hfree⟩
  intro t
  have hrd : t.rd (rXbSlot e k) = BitVec.ofNat 32 (1 + g % 2048 % 2048 * 2 ^ 19) := by
    rw [show t = _ from hcmd, State.rd_wr_same]
  refine ⟨?_, ?_, ?_⟩
  · rw [State.xbState, hrd, fld, BitVec.toNat_ofNat]
    omega
  · rw [State.xbGroup, hrd, fld, BitVec.toNat_ofNat]
    omega
  · rw [show t = _ from hcmd]
    exact (Only.logWrite u _ _ _ _ (by decide) (by decide)).trans (.wr _ _ _ (by decide))

/-- A claimed slot is made READY, its group as it was. -/
theorem State.xbReady_frame (hk : k < 1024) (hclaimed : u.xbState e k = 1) :
    let t := u.writeReg o rXbCmd (xbWord 2 e k g)
    t.xbState e k = 2 ∧ t.xbGroup e k = u.xbGroup e k ∧ Only [.regs, .sc] u t := by
  have hst : (u.logWrite o rXbCmd 0 (xbWord 2 e k g)).xbState e k = 1 := (State.xbState_logWrite hk _ _ _).trans hclaimed
  have hcmd : u.writeReg o rXbCmd (xbWord 2 e k g) = (u.logWrite o rXbCmd 0 (xbWord 2 e k g)).wrF (rXbSlot e k) 0 3 2 := by
    rw [State.writeReg_xbCmd (by decide) hk]
    unfold State.xbCmd
    extract_lets st
    rw [if_neg fun h => absurd h.1 (by decide), if_pos ⟨rfl, hst⟩, State.xbTo]
  intro t
  have hrd : t.rd (rXbSlot e k) = setFld (u.rd (rXbSlot e k)) 0 3 2 := by
    rw [show t = _ from hcmd, State.rd_wrF, if_pos rfl, State.rd_xbSlot_logWrite hk]
  refine ⟨?_, ?_, ?_⟩
  · rw [State.xbState, hrd, fld_setFld _ _ _ _ (by decide)]
    rfl
  · rw [State.xbGroup, hrd, fld_setFld_above _ _ _ _ _ _ (by decide) (by decide), State.xbGroup]
  · rw [show t = _ from hcmd]
    exact (Only.logWrite u _ _ _ _ (by decide) (by decide)).trans (.wrF _ _ _ _ _ (by decide))

/-- A slot that is not in use is released. -/
theorem State.xbRelease_frame (hk : k < 1024) (h : u.xbState e k = 1 ∨ u.xbState e k = 2) :
    let t := u.writeReg o rXbCmd (xbWord 3 e k g)
    t.rd (rXbSlot e k) = 0 ∧ Only [.regs, .sc] u t := by
  have hst : (u.logWrite o rXbCmd 0 (xbWord 3 e k g)).xbState e k = 1 ∨ (u.logWrite o rXbCmd 0 (xbWord 3 e k g)).xbState e k = 2 := by
    rw [State.xbState_logWrite hk]
    exact h
  have hcmd : u.writeReg o rXbCmd (xbWord 3 e k g) = (u.logWrite o rXbCmd 0 (xbWord 3 e k g)).wr (rXbSlot e k) 0 := by
    rw [State.writeReg_xbCmd (by decide) hk]
    unfold State.xbCmd
    extract_lets st
    rw [if_neg fun h => absurd h.1 (by decide), if_neg fun h => absurd h.1 (by decide), if_pos ⟨rfl, hst⟩]
  intro t
  rw [show t = _ from hcmd]
  exact ⟨State.rd_wr_same _ _ _, (Only.logWrite u _ _ _ _ (by decide) (by decide)).trans (.wr _ _ _ (by decide))⟩

/-- A claim of a slot that is not FREE is refused. -/
theorem State.xbClaim_refused (hk : k < 1024) (hbusy : u.xbState e k ≠ 0) :
    let t := u.writeReg o rXbCmd (xbWord 1 e k g)
    bit (t.rd rXbStatus) 0 = true ∧ t.rd (rXbSlot e k) = u.rd (rXbSlot e k) := by
  have hcmd : u.writeReg o rXbCmd (xbWord 1 e k g) = (u.logWrite o rXbCmd 0 (xbWord 1 e k g)).setBit rXbStatus 0 := by
    rw [State.writeReg_xbCmd (by decide) hk]
    unfold State.xbCmd
    extract_lets st
    rw [if_neg fun h => absurd ((State.xbState_logWrite hk _ _ _).symm.trans h.2) hbusy, if_neg fun h => absurd h.1 (by decide),
      if_neg fun h => absurd h.1 (by decide)]
  intro t
  have hne : rXbSlot e k ≠ rXbStatus := by
    have := rXbSlot_range e hk
    unfold rXbStatus
    omega
  rw [show t = _ from hcmd]
  exact ⟨by rw [State.rd_setBit, if_pos rfl, bit_setFld_one _ _ (by decide)], by
    rw [State.rd_setBit_ne _ _ hne, State.rd_xbSlot_logWrite hk]⟩

/-- PENDING names a READY slot of the group, or the write is refused. -/
theorem State.xbPending_frame (hk : k < 1024) (v : Word) :
    let t := u.writeReg o (rXbSet e k) v
    Only [.regs, .sc] u t
      ∧ (u.xbMay e k (fld v 16 16) = true → fld (t.rd (rXbSet e k)) 16 16 = fld v 16 16)
      ∧ (u.xbMay e k (fld v 16 16) = false → bit (t.rd rXbStatus) 0 = true ∧ t.rd (rXbSet e k) = u.rd (rXbSet e k)) := by
  obtain ⟨hlo, hhi, halign, he, hk'⟩ := rXbSet_place e hk
  have hnot : rXbSet e k ∉ logRegs := not_logRegs (.inr (by omega))
  have hset : u.writeReg o (rXbSet e k) v = if u.xbMay e k (fld v 16 16)
      then (u.xbPending e k (fld v 16 16)).logWrite o (rXbSet e k) (u.rd (rXbSet e k)) ((u.xbPending e k (fld v 16 16)).rd (rXbSet e k))
      else u.xbPending e k (fld v 16 16) := by
    rw [State.writeReg_xb (by omega) (by omega)]
    unfold State.writeXb
    rw [if_neg (by unfold rXbCmd; omega), if_pos ⟨hlo, hhi, halign⟩]
    dsimp only
    rw [he, hk']
  intro t
  rw [show t = _ from hset]
  have hlt : fld v 16 16 < 2 ^ 16 := Nat.mod_lt _ (by decide)
  by_cases hmay : u.xbMay e k (fld v 16 16) = true
  · have hpend : u.xbPending e k (fld v 16 16) = u.wrF (rXbSet e k) 16 16 (fld v 16 16) := if_pos hmay
    rw [if_pos hmay, hpend]
    refine ⟨(Only.wrF u _ _ _ _ (by decide)).trans (.logWrite _ _ _ _ _ (by decide) (by decide)), fun _ => ?_, fun h => absurd hmay (by rw [h]; decide)⟩
    rw [State.rd_logWrite_ne _ _ _ _ _ hnot, State.rd_wrF, if_pos rfl, fld_setFld _ _ _ _ (by decide), Nat.mod_eq_of_lt hlt]
  · have hpend : u.xbPending e k (fld v 16 16) = u.setBit rXbStatus 0 := if_neg hmay
    rw [if_neg hmay, hpend]
    refine ⟨.setBit u _ _ (by decide), fun h => absurd h hmay, fun _ => ⟨?_, ?_⟩⟩
    · rw [State.rd_setBit, if_pos rfl, bit_setFld_one _ _ (by decide)]
    · rw [State.rd_setBit_ne _ _ (by unfold rXbStatus; omega)]

end

/-- Settles O34: XB_CMD does what the state of the slot allows. -/
theorem slotsAreBound : Obligations.SlotsAreBound := by
  unfold Obligations.SlotsAreBound
  intro s u via w e k g v hsecure
  refine ⟨fun h hst => ?_, fun h hst => ?_, fun h hst => ?_, fun h hst => ?_, fun h => ?_⟩
  · obtain ⟨hst, hgroup, honly⟩ := State.xbClaim_frame (o := w.o) (g := g) k.isLt hst
    exact runs_wrote rfl h (by decide) hsecure (by decide) ⟨hst, hgroup, honly .mem (by decide), honly⟩
  · exact runs_wrote rfl h (by decide) hsecure (by decide) (State.xbReady_frame k.isLt hst)
  · exact runs_wrote rfl h (by decide) hsecure (by decide) (State.xbRelease_frame k.isLt hst)
  · exact runs_wrote rfl h (by decide) hsecure (by decide) (State.xbClaim_refused k.isLt hst)
  · obtain ⟨hlo, hhi, -⟩ := rXbSet_place e k.isLt
    exact runs_wrote rfl h (by unfold rTetherJoinCtl; omega) hsecure (outside_of_lt (by omega)) (State.xbPending_frame k.isLt v)

/-! ### Tails, calibration words, the debug lock -/

/-- What is set in SC_STATUS stays set when a record or an entry of the change log is written. -/
theorem State.bit_scStatus_putEvt {s : State} (e : Evt) {n : Nat} (h : bit (s.rd rScStatus) n = true) :
    bit ((s.putEvt e).rd rScStatus) n = true := by
  unfold State.putEvt
  extract_lets head evts sc s1 s2
  have h2 : s2.rd rScStatus = s.rd rScStatus := State.rd_wr_ne _ _ (by decide)
  split
  · rw [State.rd_setBit, if_pos rfl, State.rd_wr_ne _ _ (by decide), State.rd_bump_ne _ (by decide), h2]
    exact bit_setFld_of_set _ (by decide) h
  · rw [h2]
    exact h

theorem State.bit_scStatus_putLog {s : State} (r : LogRec) {n : Nat} (h : bit (s.rd rScStatus) n = true) :
    bit ((s.putLog r).rd rScStatus) n = true := by
  unfold State.putLog
  extract_lets head d logs sc s1 s2 s3
  have h2 : s2.rd rScStatus = s.rd rScStatus := State.rd_wr_ne _ _ (by decide)
  split
  · rw [State.alert, State.rd_setBit_ne _ _ (by decide)]
    refine State.bit_scStatus_putEvt _ ?_
    show bit ((((s2.bump rScLogLost).wr rScLogTail _).setBit rScStatus 4).rd rScStatus) n = true
    rw [State.rd_setBit, if_pos rfl, State.rd_wr_ne _ _ (by decide), State.rd_bump_ne _ (by decide), h2]
    exact bit_setFld_of_set _ (by decide) h
  · rw [h2]
    exact h

/-- A calibration word: entered in the change log, and taken only within the bounds. -/
theorem State.writeReg_ucal (u : State) (o : Origin) (i : Fin 64) (v : Word) :
    let p := fld v 0 16
    let known := decide (p = 0 ∨ (0x100 ≤ p ∧ p < 0x120) ∨ (0x200 ≤ p ∧ p < 0x210) ∨ (0x300 ≤ p ∧ p < 0x320)
      ∨ (0x400 ≤ p ∧ p < 0x408) ∨ p = 0x500)
    let fits := decide (p = 0) || decide ((v.extractLsb' 16 16).toInt.natAbs ≤ u.fuses.bounds.getD (p / 256 - 1) 0)
    u.writeReg o (rScUcal i.val) v = (if known && fits then u.wr (rScUcal i.val) v else u.setBit rScStatus 6).log o 8 0xFF
      (BitVec.ofNat 32 p) ((u.rd (rScUcal i.val)) >>> 16) (v >>> 16) := by
  intro p known fits
  have hi := i.isLt
  rw [State.writeReg_sc (by unfold rScUcal; omega) (by unfold rScUcal; omega)]
  unfold State.writeSc
  rw [if_neg (by unfold rScUcal rScLogTail; omega), if_neg (by unfold rScUcal rScEvtTail; omega),
    if_neg (by unfold rScUcal rScJtag; omega), if_pos (by unfold rScUcal; omega)]

/-- Settles O35: each register of the security controller and the digest log has its own rule for a write. -/
theorem logTailsAndLocks : Obligations.LogTailsAndLocks := by
  unfold Obligations.LogTailsAndLocks
  intro s u via w i v a p known fits hsecure
  refine ⟨fun h => ?_, fun h => ?_, fun h => ?_, fun h => ?_, fun h hlock => ?_, fun h hlock => ?_⟩
  · refine runs_wrote rfl h (by decide) hsecure (by decide) ((State.writeReg_sc (by decide) (by decide)).trans ?_)
    unfold State.writeSc
    rw [if_pos rfl]
  · refine runs_wrote rfl h (by decide) hsecure (by decide) ((State.writeReg_sc (by decide) (by decide)).trans ?_)
    unfold State.writeSc
    rw [if_neg (by decide), if_pos rfl]
  · refine runs_wrote rfl h (by decide) hsecure (by decide) ((State.writeReg_dg (by decide) (by decide)).trans ?_)
    unfold State.writeDg
    rw [if_pos rfl]
  · have hi := i.isLt
    have hnot : a ∉ logRegs := not_logRegs (.inr (by unfold a rScUcal; omega))
    refine runs_wrote rfl h (by unfold a rScUcal rTetherJoinCtl; omega) hsecure (outside_of_lt (by unfold a rScUcal; omega)) ?_
    rw [u.writeReg_ucal]
    refine ⟨?_, fun hok => ?_, fun hbad => ⟨?_, ?_⟩⟩
    · rw [State.rd_log_head]
      split
      · rw [State.rd_wr_ne _ _ (by unfold rScUcal rScLogHead; omega)]
      · rw [State.rd_setBit_ne _ _ (by decide)]
    · rw [State.rd_log_ne _ _ _ _ _ _ _ hnot, if_pos hok, State.rd_wr_same]
    · rw [State.rd_log_ne _ _ _ _ _ _ _ hnot, if_neg (ne_true_of_eq_false hbad), State.rd_setBit_ne _ _ (by unfold a rScUcal rScStatus; omega)]
    · rw [if_neg (ne_true_of_eq_false hbad)]
      refine State.bit_scStatus_putLog _ ?_
      rw [State.rd_setBit, if_pos rfl, bit_setFld_one _ _ (by decide)]
  · refine runs_wrote rfl h (by decide) hsecure (by decide) ?_
    have hrefuse : u.writeReg w.o rScJtag v = u.refuseWrite w.o rScJtag v := by
      rw [State.writeReg_sc (by decide) (by decide)]
      unfold State.writeSc
      rw [if_neg (by decide), if_neg (by decide), if_pos ⟨rfl, hlock⟩]
    rw [hrefuse]
    exact ⟨u.rd_refuseWrite_ne _ _ _ (by decide), u.rd_refuseWrite_head _ _ _⟩
  · refine runs_wrote rfl h (by decide) hsecure (by decide) ((State.writeReg_sc (by decide) (by decide)).trans ?_)
    unfold State.writeSc
    rw [if_neg (by decide), if_neg (by decide), if_neg fun e => absurd e.2 (by rw [hlock]; decide), if_neg (by decide)]

end Sys2Proof.Machine

/-! A write of TETHER_JOIN_CTL with READY while a join waits for it (10 R303, R307): the limits of the beat are checked with the
ROUNDS that the same write brings, not with those that stood before. -/

namespace Sys2Proof.Machine

open Sys2Proof

/-- The row of TETHER_JOIN_CTL. -/
def joinCtlRow : RegRow :=
  ⟨false, 0xA000008, 1, 0x4, [⟨0, 1, .wo, 0x0⟩, ⟨1, 1, .rw, 0x0⟩, ⟨2, 1, .w1s, 0x0⟩, ⟨3, 5, .rw, 0x1⟩, ⟨8, 8, .rw, 0x64⟩, ⟨16, 16, .rw, 0x64⟩]⟩

theorem regFind_joinCtl : regFind rTetherJoinCtl = some joinCtlRow := by decide +kernel

theorem State.writeReg_joinCtl {u : State} {o : Origin} {v : Word} (h : bit v 0 = false) (hready : bit v 2 = true) :
    u.writeReg o rTetherJoinCtl v = (u.writeTyped o rTetherJoinCtl v).joinReport := by
  rw [State.writeReg_tether (by decide) (by decide)]
  unfold State.writeTether
  rw [if_neg fun e => absurd e.1 (by decide), if_pos rfl]
  dsimp only
  rw [if_neg (ne_true_of_eq_false h), if_pos hready]

/-- A device that has already reported stays as it is where the beat is within its limits. -/
theorem State.joinReport_sent {s : State} (hsent : s.tether.join.sent = true) (hok : s.beatOk = true) : s.joinReport = s := by
  unfold State.joinReport
  extract_lets j
  rw [if_neg fun e => absurd e.2 (by rw [hok]; decide), if_neg fun e => absurd e.2.1 (by rw [hsent]; decide)]

/-- A device that runs firmware whose outcome is ACCEPTED, in the fourth step of a join, which has reported, with ROUNDS 31: its 31
rounds do not fit the guard band. -/
def tooManyRounds : State :=
  (State.wr { State.reset with
    pwr := { State.reset.pwr with phase := .ready },
    tether := { State.reset.tether with join := { Join.reset with step := 4, sent := true } } } rMcStatus 2).wr rTetherJoinCtl 248

/-- READY with ROUNDS 1. -/
def readyOneRound : Word := 12

theorem rd_tooManyRounds {a : Nat} (h : a ≠ rTetherJoinCtl) (hmc : a ≠ rMcStatus) : tooManyRounds.rd a = regReset a :=
  (State.rd_wr_ne _ _ h).trans (State.rd_wr_ne _ _ hmc)

theorem tooManyRounds_beatOk : tooManyRounds.beatOk = false := by
  have hlen : tooManyRounds.rd rTbBeatLen = 8000 := (rd_tooManyRounds (by decide) (by decide)).trans (by decide +kernel)
  have hguard : tooManyRounds.rd rTbGuard = 64 := (rd_tooManyRounds (by decide) (by decide)).trans (by decide +kernel)
  have hctl : tooManyRounds.rd rTetherJoinCtl = 248 := State.rd_wr_same _ _ _
  unfold State.beatOk State.rounds State.roundGap
  rw [hlen, hguard, hctl]
  decide

/-- After the write the one round fits. -/
theorem oneRound_beatOk : (tooManyRounds.writeTyped originFw rTetherJoinCtl readyOneRound).beatOk = true := by
  have hrd {a : Nat} (ha : a ≠ rTetherJoinCtl) (hlog : a ∉ logRegs) (hmc : a ≠ rMcStatus) :
      (tooManyRounds.writeTyped originFw rTetherJoinCtl readyOneRound).rd a = regReset a :=
    (State.rd_writeTyped_ne _ _ _ _ ha hlog).trans (rd_tooManyRounds ha hmc)
  have hlen := (hrd (a := rTbBeatLen) (by decide) (by decide) (by decide)).trans (show regReset rTbBeatLen = 8000 by decide +kernel)
  have hguard := (hrd (a := rTbGuard) (by decide) (by decide) (by decide)).trans (show regReset rTbGuard = 64 by decide +kernel)
  have hctl : (tooManyRounds.writeTyped originFw rTetherJoinCtl readyOneRound).rd rTetherJoinCtl = 12 := by
    rw [State.rd_writeTyped regFind_joinCtl (by decide) (by decide), show tooManyRounds.rd rTetherJoinCtl = 248 from State.rd_wr_same _ _ _]
    decide
  have hjoin : (tooManyRounds.writeTyped originFw rTetherJoinCtl readyOneRound).tether.join.dMax = 40 := by
    rw [Only.writeTyped (ch := [.regs, .sc]) tooManyRounds _ _ _ (by decide) (by decide) .tether (by decide)]
    rfl
  unfold State.beatOk State.rounds State.roundGap
  rw [hlen, hguard, hctl, hjoin]
  decide

/-- Refutes O36: a device (`tooManyRounds`) in step 4 whose 31 rounds do not fit the guard band, and a write of TETHER_JOIN_CTL by firmware with READY
and ROUNDS 1. The one round fits, so the join does not fail with code 8: it stays in step 4. -/
theorem not_registersThatAct : ¬ Obligations.RegistersThatAct := by
  unfold Obligations.RegistersThatAct
  intro h
  have hacc : tooManyRounds.fwAccess (.regWrite rTetherJoinCtl readyOneRound) = .regWrite rTetherJoinCtl readyOneRound := by
    have hstatus : tooManyRounds.rd rMcStatus = 2 := (State.rd_wr_ne _ _ (by decide)).trans (State.rd_wr_same _ _ _)
    show Access.regWrite rTetherJoinCtl (if _ ∧ (fld (tooManyRounds.rd rMcStatus) 1 2 = 2 ∨ _) then _ else _) = _
    rw [hstatus]
    rfl
  let w : Waiter := ⟨originFw, none, .regWrite rTetherJoinCtl readyOneRound, true⟩
  have hlands : LandsNow tooManyRounds .firmware (.regWrite rTetherJoinCtl readyOneRound) tooManyRounds w :=
    ⟨tooManyRounds, ⟨rfl, rfl, by rw [hacc]⟩, rfl, rfl⟩
  obtain ⟨-, -, -, hjoin, -⟩ := h tooManyRounds tooManyRounds .firmware w 0 0 readyOneRound readyOneRound rfl
  obtain ⟨-, -, -, hfails⟩ := hjoin hlands rfl
  obtain ⟨t, hexec, u1, hanswer, hcode⟩ := hfails (by decide) (by decide) rfl tooManyRounds_beatOk
  have htyped := Only.writeTyped (ch := [.regs, .sc]) tooManyRounds originFw rTetherJoinCtl readyOneRound (by decide) (by decide)
  have hrun : exec (.joinReadySet .firmware readyOneRound) tooManyRounds
      = .next (tooManyRounds.writeTyped originFw rTetherJoinCtl readyOneRound) := by
    refine congrArg Host.Outcome.next ?_
    rw [State.viaRun_regWrite hlands rfl (State.regWrite_secure rfl (fun e => absurd e (by decide))),
      State.writeReg_joinCtl (by decide) (by decide), State.joinReport_sent ?_ oneRound_beatOk]
    · rfl
    · rw [htyped .tether (by decide)]
      rfl
  have hstep : u1.tether.join.step = 4 := by
    have ht : t = u1 := hanswer
    rw [← ht, ← Host.Outcome.next.inj (hrun.symm.trans hexec), htyped .tether (by decide)]
    rfl
  rw [hcode] at hstep
  exact absurd hstep (by decide)

end Sys2Proof.Machine

/-! Bulk messages: a slice read or written in one access, images and flash (05 R144, R151, R157; 15 R440; 16 R460). -/

namespace Sys2Proof.Machine

open Sys2Proof

section
variable {s s1 : State} {h : PctHdr} {b : BulkHdr} {data : List Byte} {i : Nat} {x : Sess}

/-- A bulk message that writes does what its target says. -/
theorem exec_bulkWrite (hacc : s.accept h = (s1, some (i, x))) (hgood : goodBulk h b b.bytes = true) (hlen : data.length = b.bytes) :
    exec (.bulkWrite h b data) s = .next (if b.target = 0 then s1.access ⟨x.origin i, some x.uid, .memWrite b.addr data, false⟩
      else if b.target = 1 then s1.bulkImage x.uid b data
      else if x.secure then s1.bulkFlash x.uid (x.origin i) b.addr data
      else s1.log (x.origin i) 3 0xFF (BitVec.ofNat 32 b.addr) 0 0) := by
  show Host.Outcome.next (s.bulkIn h b data) = _
  unfold State.bulkIn
  rw [if_neg (by rw [hgood, hlen]; simp), hacc]

/-- A bulk message that reads does what its target says. -/
theorem exec_bulkRead (hacc : s.accept h = (s1, some (i, x))) (hgood : goodBulk h b 0 = true) :
    exec (.bulkRead h b) s = .next (if b.target = 0 then s1.access ⟨x.origin i, some x.uid, .memRead b.addr b.bytes b.tag, false⟩
      else if b.target = 1 then s1.bulkImageAsk x.uid b
      else if x.secure then s1.send x.uid 5 (bulkData 2 0 0 b.addr b.tag (s1.flashBytes b.addr b.bytes))
      else (s1.log (x.origin i) 4 0xFF (BitVec.ofNat 32 b.addr) 0 0).send x.uid 5
        (bulkData 2 1 0 b.addr b.tag (List.replicate b.bytes 0))) := by
  show Host.Outcome.next (s.bulkAsk h b) = _
  unfold State.bulkAsk
  rw [if_neg (by rw [hgood]; decide), hacc]

end

/-! ### Images and flash -/

theorem State.bulkFlash_may {s : State} {uid a : Nat} {o : Origin} {data : List Byte} (h : s.flashMay uid a data.length = true) :
    s.bulkFlash uid o a data = { s with flash := flashErase (flashWrite s.flash a data) (bankBase s.otherBank) 8 } := if_pos h

theorem State.bulkFlash_refused {s : State} {uid a : Nat} {o : Origin} {data : List Byte} (h : s.flashMay uid a data.length = false) :
    s.bulkFlash uid o a data = State.log { s with mc := { s.mc with upd := s.mc.upd.map fun u => { u with failed := true } } } o 3 0xFF
      (BitVec.ofNat 32 a) 0 0 := if_neg (ne_true_of_eq_false h)

/-- A read of the image of an open load, within what has come. -/
theorem State.bulkImageAsk_open {s : State} {uid : Nat} {b : BulkHdr} {l : Load}
    (hfind : s.loads.find? (fun l => decide (l.handle = b.handle ∧ l.session = uid)) = some l) (hlen : b.addr + b.bytes ≤ l.bytes.length) :
    s.bulkImageAsk uid b = s.send uid 5 (bulkData 1 0 b.handle b.addr b.tag ((l.bytes.drop b.addr).take b.bytes)) := by
  unfold State.bulkImageAsk
  rw [hfind]
  have hfull : b.bytes - ((l.bytes.drop b.addr).take b.bytes).length = 0 := by
    rw [List.length_take, List.length_drop]
    omega
  dsimp only
  rw [hfull, List.replicate_zero, List.append_nil]
  rfl

/-- Settles O37: the four targets of `exec_bulkWrite` and `exec_bulkRead`. -/
theorem bulkMessages : Obligations.BulkMessages := by
  unfold Obligations.BulkMessages
  intro s s1 h b data i x hacc
  refine ⟨fun hgood hlen => ?_, fun hgood => ?_⟩
  · have hexec := exec_bulkWrite (data := data) hacc hgood hlen
    refine ⟨fun h0 => .of_eq (hexec.trans ?_) rfl, fun h1 => .of_eq (hexec.trans ?_) ⟨.loads s1 _ (by decide), rfl⟩,
      fun h2 hsec hmay => ?_, fun h2 hsec hmay => ?_, fun h2 hsec => ?_⟩
    · exact congrArg _ (if_pos h0)
    · rw [if_neg (by omega), if_pos h1]
      rfl
    · rw [if_neg (by omega), if_neg (by omega), if_pos hsec, State.bulkFlash_may hmay] at hexec
      exact .of_eq hexec ⟨.flash s1 _ (by decide), rfl⟩
    · rw [if_neg (by omega), if_neg (by omega), if_pos hsec, State.bulkFlash_refused hmay] at hexec
      have hlog := Only.log (ch := [.regs, .sc]) { s1 with mc := { s1.mc with upd := s1.mc.upd.map fun u => { u with failed := true } } }
        (x.origin i) 3 0xFF (BitVec.ofNat 32 b.addr) 0 0 (by decide) (by decide)
      exact .of_eq hexec ⟨hlog .flash (by decide), State.rd_log_head _ _ _ _ _ _ _, congrArg Mc.upd (hlog .mc (by decide))⟩
    · rw [if_neg (by omega), if_neg (by omega), if_neg (ne_true_of_eq_false hsec)] at hexec
      have hlog := Only.log (ch := [.regs, .sc]) s1 (x.origin i) 3 0xFF (BitVec.ofNat 32 b.addr) 0 0 (by decide) (by decide)
      exact .of_eq hexec ⟨hlog .flash (by decide), State.rd_log_head _ _ _ _ _ _ _, hlog⟩
  · have hexec := exec_bulkRead hacc hgood
    refine ⟨fun h0 => .of_eq (hexec.trans (congrArg _ (if_pos h0))) rfl, fun h2 hsec => .of_eq (hexec.trans ?_) rfl,
      fun l h1 hfind hlen => .of_eq (hexec.trans ?_) rfl⟩
    · rw [if_neg (by omega), if_neg (by omega), if_pos hsec]
    · rw [if_neg (by omega), if_pos h1, State.bulkImageAsk_open hfind hlen]

/-! ### Slices -/

theorem State.rd_atEndpoint_ne (s : State) (src c : Nat) {a : Nat} (h1 : a ≠ rDriftRxCount c) (h2 : a ≠ rDriftTxCount c)
    (h3 : a ≠ rDriftMaxLat c) : (s.atEndpoint src c).rd a = s.rd a := by
  unfold State.atEndpoint
  split
  · rfl
  · extract_lets n k age s1 s2 s3
    have hs1 : s1.rd a = s.rd a := by rw [State.rd_wr_ne _ _ h2, State.rd_wr_ne _ _ h1]
    have hs2 : s2.rd a = s1.rd a := by
      dsimp only [s2]
      split
      · exact State.rd_wrF_ne _ _ _ _ h3
      · rfl
    have hs3 : Only [.drift] s2 s3 := (Only.pairPackets _ _ _ _ (by decide)).trans (.pairPackets _ _ _ _ (by decide))
    exact (hs3 .regs (by decide) a).trans (hs2.trans hs1)

/-- The endpoint of a core leaves the regions of every slice alone. -/
theorem State.addrSecure_atEndpoint (s : State) (src c d p : Nat) : (s.atEndpoint src c).addrSecure d p = s.addrSecure d p := by
  have hrd : (List.range 32).map (fun i => (s.atEndpoint src c).rd (rSlcRegion d i)) = (List.range 32).map fun i => s.rd (rSlcRegion d i) := by
    refine List.map_congr_left fun i hi => ?_
    have := List.mem_range.mp hi
    exact s.rd_atEndpoint_ne src c (by unfold rSlcRegion rDriftRxCount coreBase; omega) (by unfold rSlcRegion rDriftTxCount coreBase; omega)
      (by unfold rSlcRegion rDriftMaxLat coreBase; omega)
  unfold State.addrSecure
  rw [hrd]

theorem State.hostCheck_atEndpoint (s : State) (o : Origin) (src c g n : Nat) : (s.atEndpoint src c).hostCheck o g n = s.hostCheck o g n := by
  have honly : Only [.regs, .drift, .free] s (s.atEndpoint src c) := .atEndpoint s _ _ (by decide) (by decide) (by decide)
  have hexists (d : Nat) : (s.atEndpoint src c).coreExists d = s.coreExists d := by
    rw [State.coreExists, State.coreExists, State.rows, State.rows, honly .fuses (by decide)]
  unfold State.hostCheck
  simp only [hexists, State.addrSecure_atEndpoint]

theorem State.granulePoisoned_congr {s t : State} (hecc : t.ecc = s.ecc) (hpend : t.poisonPending = s.poisonPending) (g : Nat) :
    t.granulePoisoned g = s.granulePoisoned g := by
  unfold State.granulePoisoned State.granule
  rw [hecc, hpend]

/-- A granule that is marked within a range lies in it. -/
theorem mem_marked {s : State} {a n g : Nat} (ha : a % 8 = 0) (h : g ∈ s.marked [(a, a + n)]) : ∃ k, k < n ∧ (a + k) / 8 = g := by
  simp only [State.marked, List.any_cons, List.any_nil, Bool.or_false, List.mem_filter, Bool.and_eq_true, decide_eq_true_eq] at h
  exact ⟨g * 8 - a, by omega, by omega⟩

section
variable {s : State} {w : Waiter} {g n : Nat} {data : List Byte}

theorem State.doAccess_memWrite (hacc : w.acc = .memWrite g data) (hiface : w.o.iface ≠ 3) (hcheck : s.hostCheck w.o g data.length = none) :
    s.doAccess w = s.writeG (spread g data) := by
  have hlog (t : State) (a : Nat) (x y : Word) : t.jtagLog w a x y = t := if_neg hiface
  have hmem (t : State) : t.jtagLogMem s w g data = t := by
    unfold State.jtagLogMem
    simp only [hlog]
    induction List.range (ceilDiv data.length 4) generalizing t with
    | nil => rfl
    | cons k l ih => exact ih t
  unfold State.doAccess
  rw [hacc]
  dsimp only
  rw [hmem, ite_self, State.hostWrite, hcheck]

/-- A read of bytes that no poison covers answers them with status 0. -/
theorem State.hostRead_clean {o : Origin} (hcheck : s.hostCheck o g n = none) (hg : g % 8 = 0)
    (hclean : ∀ k, k < n → s.granulePoisoned ((g + k) / 8) = false) :
    s.hostRead o g n = ((List.range n).map fun k => s.memGet (g + k), 0,
      State.checkRows { s with free := s.free + n } [(g, g + n)] false) := by
  have hbytes : (s.deliver g n).1 = (List.range n).map fun k => s.memGet (g + k) := by
    refine List.map_congr_left fun k hk => ?_
    rw [if_neg (ne_true_of_eq_false (hclean k (List.mem_range.mp hk)))]
  have hmarked : (s.marked [(g, g + n)]).any s.granulePoisoned = false := by
    rw [List.any_eq_false]
    intro q hq
    obtain ⟨k, hk, rfl⟩ := mem_marked hg hq
    rw [hclean k hk]
    decide
  unfold State.hostRead
  rw [hcheck]
  dsimp only
  rw [hbytes, hmarked]
  rfl

end

theorem goodBulk_aligned {h : PctHdr} {b : BulkHdr} {n : Nat} (hgood : goodBulk h b n = true) : b.addr % 8 = 0 :=
  (of_decide_eq_true hgood).2.1

/-- Settles O38: past its endpoint the access is `writeG` of the bytes, or a read of clean granules. -/
theorem hostWritesMemory : Obligations.HostWritesMemory := by
  unfold Obligations.HostWritesMemory
  intro s s1 h b data i x hacc htarget hcheck
  have hiface : (x.origin i).iface ≠ 3 := by
    show 1 + x.net.val ≠ 3
    omega
  refine ⟨fun hgood hlen hnow => ?_, fun hgood hnow hclean => ?_⟩
  · refine .of_eq ((exec_bulkWrite hacc hgood hlen).trans (congrArg _ (if_pos htarget))) ?_
    set u := s1.byDrift ⟨x.origin i, some x.uid, .memWrite b.addr data, false⟩ with hu
    have honly : Only [.regs, .drift, .free] s1 u := .byDrift s1 _ (by decide) (by decide) (by decide)
    have hcheck' : u.hostCheck (x.origin i) b.addr data.length = none := by
      rw [hlen, ← hcheck]
      exact s1.hostCheck_atEndpoint _ _ _ _ _
    rw [State.access_now hnow, ← hu, State.doAccess_memWrite rfl hiface hcheck']
    have hwrite : Only _ u (u.writeG (spread b.addr data)) := .writeG u _
    refine ⟨fun k hk => ?_, fun g hg => ?_, fun c => ?_⟩
    · rw [State.memGet_writeG_spread _ _ _ _ (by omega), List.getD_eq_getElem _ _ (by omega)]
    · rw [State.memGet_writeG_spread_other _ _ _ _ (by omega), honly .mem (by decide)]
    · rw [hwrite .cores (by decide), honly .cores (by decide)]
  · refine .of_eq ((exec_bulkRead hacc hgood).trans (congrArg _ (if_pos htarget))) ?_
    set u := s1.byDrift ⟨x.origin i, some x.uid, .memRead b.addr b.bytes b.tag, false⟩ with hu
    have honly : Only [.regs, .drift, .free] s1 u := .byDrift s1 _ (by decide) (by decide) (by decide)
    have hcheck' : u.hostCheck (x.origin i) b.addr b.bytes = none := by
      rw [← hcheck]
      exact s1.hostCheck_atEndpoint _ _ _ _ _
    have hclean' (k : Nat) (hk : k < b.bytes) : u.granulePoisoned ((b.addr + k) / 8) = false := by
      rw [State.granulePoisoned_congr (honly .ecc (by decide)) (honly .poisonPending (by decide)), hclean k hk]
    have hread := State.hostRead_clean hcheck' (goodBulk_aligned hgood) hclean'
    have hbytes : ((List.range b.bytes).map fun k => u.memGet (b.addr + k)) = (List.range b.bytes).map fun k => s1.memGet (b.addr + k) :=
      List.map_congr_left fun k _ => honly .mem (by decide) _
    rw [hbytes] at hread
    have hdo : u.doAccess ⟨x.origin i, some x.uid, .memRead b.addr b.bytes b.tag, false⟩
        = (State.checkRows { u with free := u.free + b.bytes } [(b.addr, b.addr + b.bytes)] false).send x.uid 5
          (bulkData 0 0 0 b.addr b.tag ((List.range b.bytes).map fun k => s1.memGet (b.addr + k))) := by
      unfold State.doAccess
      dsimp only
      rw [hread]
    rw [State.access_now hnow, ← hu, hdo]
    refine ⟨fun g => ?_, _, rfl⟩
    rw [Only.send (ch := [.regs, .neigh, .out, .sess]) _ _ _ _ (by decide) (by decide) (by decide) (by decide) .mem (by decide),
      State.memGet_checkRows]
    exact honly .mem (by decide) g

end Sys2Proof.Machine

/-! The floating-point formats (02 R36, R37, R43 to R46): a code that is no NaN converts to itself, a result that is a NaN is the
canonical one; the saturating integer sum (02 R55). -/

namespace Sys2Proof.Machine

open Sys2Proof

/-! ### The shape of a layout -/

/-- What the exponent field and the mantissa can hold beside the largest finite value: with infinities, one exponent more and every
mantissa; without, no exponent more. -/
def FShape (f : FFmt) : Prop :=
  (f.ieee = true ∧ 2 ^ f.ebits = f.emax + 2 ∧ f.mmax + 1 = 2 ^ f.mbits) ∨ (f.ieee = false ∧ 2 ^ f.ebits = f.emax + 1)

theorem fShape_ffp32 : FShape ffp32 := .inl (by decide)

theorem fShape_of_fmtFloat {f : Fmt} {ff : FFmt} (h : fmtFloat f = some ff) : FShape ff := by
  cases f <;> cases h
  case fp32 => exact .inl (by decide)
  case bf16 => exact .inl (by decide)
  case cbf16 => exact .inl (by decide)
  case fp16 => exact .inl (by decide)
  case e5m2 => exact .inl (by decide)
  case mxe5m2 => exact .inl (by decide)
  case e4m3 => exact .inr (by decide)
  case mxe4m3 => exact .inr (by decide)
  case fp4 => exact .inr (by decide)
  case mxfp4 => exact .inr (by decide)

/-- The weight of the sign. -/
def fSign (f : FFmt) (neg : Bool) : Nat := if neg then 2 ^ (f.mbits + f.ebits) else 0

/-- The code of a sign, an exponent field and a mantissa field. -/
def fCode (f : FFmt) (neg : Bool) (e m : Nat) : Nat := fSign f neg + e * 2 ^ f.mbits + m

section
variable {f : FFmt} {neg : Bool} {e m : Nat}

theorem fCode_fields (he : e < 2 ^ f.ebits) (hm : m < 2 ^ f.mbits) :
    fCode f neg e m % 2 ^ f.mbits = m ∧ fCode f neg e m / 2 ^ f.mbits % 2 ^ f.ebits = e
      ∧ decide (fCode f neg e m / 2 ^ (f.mbits + f.ebits) % 2 = 1) = neg := by
  have hsplit : fCode f neg e m = m + 2 ^ f.mbits * (e + 2 ^ f.ebits * bn neg) := by
    unfold fCode fSign
    cases neg
    · simp only [bn, Bool.false_eq_true, if_false]
      ring
    · simp only [bn, if_true]
      ring
  have hdiv : fCode f neg e m / 2 ^ f.mbits = e + 2 ^ f.ebits * bn neg := by
    rw [hsplit, Nat.add_mul_div_left _ _ (Nat.two_pow_pos _), Nat.div_eq_of_lt hm, Nat.zero_add]
  refine ⟨?_, ?_, ?_⟩
  · rw [hsplit, Nat.add_mul_mod_self_left, Nat.mod_eq_of_lt hm]
  · rw [hdiv, Nat.add_mul_mod_self_left, Nat.mod_eq_of_lt he]
  · rw [pow_add, ← Nat.div_div_eq_div_mul, hdiv, Nat.add_mul_div_left _ _ (Nat.two_pow_pos _), Nat.div_eq_of_lt he, Nat.zero_add]
    cases neg <;> rfl

/-- Every code is that of its fields. -/
theorem exists_fCode {code : Nat} (h : code < 2 ^ (f.mbits + f.ebits + 1)) :
    ∃ neg e m, code = fCode f neg e m ∧ e < 2 ^ f.ebits ∧ m < 2 ^ f.mbits := by
  refine ⟨decide (code / 2 ^ (f.mbits + f.ebits) = 1), code / 2 ^ f.mbits % 2 ^ f.ebits, code % 2 ^ f.mbits, ?_,
    Nat.mod_lt _ (Nat.two_pow_pos _), Nat.mod_lt _ (Nat.two_pow_pos _)⟩
  have hm := Nat.mod_add_div code (2 ^ f.mbits)
  have he := Nat.mod_add_div (code / 2 ^ f.mbits) (2 ^ f.ebits)
  rw [Nat.div_div_eq_div_mul, ← pow_add] at he
  have hs : code / 2 ^ (f.mbits + f.ebits) < 2 := Nat.div_lt_of_lt_mul (by rwa [← pow_succ])
  have hsum : code = code % 2 ^ f.mbits + code / 2 ^ f.mbits % 2 ^ f.ebits * 2 ^ f.mbits
      + 2 ^ (f.mbits + f.ebits) * (code / 2 ^ (f.mbits + f.ebits)) := by
    conv_lhs => rw [← hm, ← he]
    rw [pow_add]
    ring
  unfold fCode fSign
  by_cases h1 : code / 2 ^ (f.mbits + f.ebits) = 1
  · rw [decide_eq_true h1, if_pos rfl]
    rw [h1] at hsum
    omega
  · rw [decide_eq_false h1, if_neg Bool.false_ne_true]
    rw [Nat.lt_one_iff.mp (lt_of_le_of_ne (Nat.lt_succ_iff.mp hs) h1)] at hsum
    omega

/-! ### What a code stands for -/

theorem fdecode_fCode (he : e < 2 ^ f.ebits) (hm : m < 2 ^ f.mbits) : fdecode f (fCode f neg e m)
    = if f.ieee ∧ e = f.emax + 1 then (if m = 0 then .inf neg else .nan)
      else if ¬ f.ieee ∧ e = f.emax ∧ m > f.mmax then .nan
      else if e = 0 then .fin neg m (1 - (f.bias : Int) - f.mbits)
      else .fin neg (2 ^ f.mbits + m) ((e : Int) - f.bias - f.mbits) := by
  obtain ⟨hfm, hfe, hfs⟩ := fCode_fields (f := f) (neg := neg) he hm
  unfold fdecode
  simp only [hfm, hfe, hfs]

/-! ### What a code is that stands for a value -/

theorem roundToGrid_exact (mode : Rnd) (r mag : Nat) (exp : Int) : roundToGrid mode r mag exp exp = (mag, false) := by
  unfold roundToGrid
  rw [if_pos (le_refl exp), sub_self]
  simp

/-- A subnormal value, or zero, is written with its own mantissa. -/
theorem fencode_subnormal (mode : Rnd) (sat : Bool) (r : Nat) (hm : m < 2 ^ f.mbits) :
    (fencode f mode sat r (.fin neg m (1 - (f.bias : Int) - f.mbits))).bits = fCode f neg 0 m := by
  unfold fencode fCode fSign
  dsimp only
  by_cases h0 : m = 0
  · rw [if_pos h0, h0]
    simp
  · have hlog : Nat.log2 m < f.mbits := (Nat.log2_lt h0).mpr hm
    have hq : max (1 - (f.bias : Int) - f.mbits) (1 - (f.bias : Int) - f.mbits + (Nat.log2 m : Int) - f.mbits)
        = 1 - (f.bias : Int) - f.mbits := max_eq_left (by omega)
    have hcarry : ¬ m ≥ 2 ^ (f.mbits + 1) := by
      rw [pow_succ]
      omega
    rw [if_neg h0, hq, roundToGrid_exact, decide_eq_false hcarry, if_neg Bool.false_ne_true, if_neg Bool.false_ne_true, if_pos hm]
    simp

/-- A normal value is written with its own exponent and mantissa. -/
theorem fencode_normal (mode : Rnd) (sat : Bool) (r : Nat) (he : e ≠ 0) (hm : m < 2 ^ f.mbits)
    (hmax : ¬(e > f.emax ∨ (e = f.emax ∧ m > f.mmax))) :
    (fencode f mode sat r (.fin neg (2 ^ f.mbits + m) ((e : Int) - f.bias - f.mbits))).bits = fCode f neg e m := by
  have hpos : 0 < 2 ^ f.mbits := Nat.two_pow_pos _
  have hlog : Nat.log2 (2 ^ f.mbits + m) = f.mbits := by
    rw [Nat.log2_eq_iff (by omega), pow_succ]
    omega
  have hq : max (1 - (f.bias : Int) - f.mbits) ((e : Int) - f.bias - f.mbits + (Nat.log2 (2 ^ f.mbits + m) : Int) - f.mbits)
      = (e : Int) - f.bias - f.mbits := by
    rw [hlog, max_eq_right (by omega)]
    omega
  have hcarry : ¬ 2 ^ f.mbits + m ≥ 2 ^ (f.mbits + 1) := by
    rw [pow_succ]
    omega
  have hexp : ((e : Int) - f.bias - f.mbits + f.mbits + f.bias).toNat = e := by omega
  unfold fencode fCode fSign
  dsimp only
  rw [if_neg (by omega), hq, roundToGrid_exact, decide_eq_false hcarry, if_neg Bool.false_ne_true, if_neg Bool.false_ne_true,
    if_neg (by omega), hexp, Nat.add_sub_cancel_left, if_neg hmax]

theorem fencode_infinity (mode : Rnd) (r : Nat) (hieee : f.ieee = true) :
    (fencode f mode false r (.inf neg)).bits = fCode f neg (f.emax + 1) 0 := by
  have hwrite : fencode f mode false r (.inf neg) = ⟨finfinity f neg, false, false⟩ := if_neg (by rw [hieee]; decide)
  rw [hwrite]
  rfl

end

/-- Settles O60: the value of the fields of a code is written with those fields, in each mode. -/
theorem formatsRoundTrip : Obligations.FormatsRoundTrip := by
  unfold Obligations.FormatsRoundTrip
  intro f ff code r mode hf hcode _ hnan
  obtain ⟨neg, e, m, rfl, he, hm⟩ := exists_fCode hcode
  have hshape := fShape_of_fmtFloat hf
  have henc (x : FVal) : fmtEncode f mode false r x = fencode ff mode false r x := by
    unfold fmtEncode
    rw [hf]
  rw [fdecode_fCode he hm] at hnan ⊢
  rw [henc]
  by_cases hinf : ff.ieee ∧ e = ff.emax + 1
  · rw [if_pos hinf] at hnan ⊢
    by_cases h0 : m = 0
    · rw [if_pos h0, fencode_infinity _ _ hinf.1, hinf.2, h0]
    · exact absurd (if_neg h0) hnan
  · rw [if_neg hinf] at hnan ⊢
    by_cases hlost : ¬ ff.ieee ∧ e = ff.emax ∧ m > ff.mmax
    · exact absurd (if_pos hlost) hnan
    · rw [if_neg hlost]
      by_cases h0 : e = 0
      · rw [if_pos h0, fencode_subnormal _ _ _ hm, h0]
      · rw [if_neg h0, fencode_normal _ _ _ h0 hm]
        rcases hshape with ⟨hieee, hexp, hmax⟩ | ⟨hieee, hexp⟩
        · have : e ≠ ff.emax + 1 := fun h => hinf ⟨hieee, h⟩
          omega
        · have : ¬(e = ff.emax ∧ m > ff.mmax) := fun h => hlost ⟨by rw [hieee]; decide, h⟩
          omega

/-! ### NaNs -/

/-- What rounding leaves has at most one bit more than the mantissa, and then is the power of two. -/
theorem roundToGrid_le (mode : Rnd) (r : Nat) {mag mb : Nat} {exp q : Int} (hq : exp + (Nat.log2 mag : Int) - mb ≤ q) :
    (roundToGrid mode r mag exp q).1 ≤ 2 ^ (mb + 1) := by
  have hlt : mag < 2 ^ (Nat.log2 mag + 1) := Nat.lt_log2_self
  unfold roundToGrid
  split
  next hle =>
    calc mag * 2 ^ (exp - q).toNat ≤ 2 ^ (Nat.log2 mag + 1) * 2 ^ (exp - q).toNat := Nat.mul_le_mul_right _ hlt.le
      _ = 2 ^ (Nat.log2 mag + 1 + (exp - q).toNat) := (pow_add ..).symm
      _ ≤ 2 ^ (mb + 1) := Nat.pow_le_pow_right (by decide) (by omega)
  next hgt =>
    have hlo : mag / 2 ^ (q - exp).toNat < 2 ^ (mb + 1) := by
      refine Nat.div_lt_of_lt_mul (hlt.trans_le ?_)
      rw [← pow_add]
      exact Nat.pow_le_pow_right (by decide) (by omega)
    dsimp only
    split <;> omega

/-- What is written for a value is no NaN: its fields are those of a finite value or of an infinity. -/
theorem exists_fencode {f : FFmt} (mode : Rnd) (r : Nat) (hieee : f.ieee = true) (hexp : 2 ^ f.ebits = f.emax + 2)
    (hmax : f.mmax + 1 = 2 ^ f.mbits) {x : FVal} (hx : x ≠ .nan) :
    ∃ neg e m, (fencode f mode false r x).bits = fCode f neg e m ∧ e < 2 ^ f.ebits ∧ m < 2 ^ f.mbits ∧ (e = f.emax + 1 → m = 0) := by
  have hpos : 0 < 2 ^ f.mbits := Nat.two_pow_pos _
  cases x with
  | nan => exact absurd rfl hx
  | inf neg => exact ⟨neg, f.emax + 1, 0, fencode_infinity _ _ hieee, by omega, hpos, fun _ => rfl⟩
  | fin neg mag exp =>
    by_cases h0 : mag = 0
    · exact ⟨neg, 0, 0, by unfold fencode; simp [h0, fCode, fSign], by omega, hpos, fun _ => rfl⟩
    · have hround := roundToGrid_le mode r (le_max_right (1 - (f.bias : Int) - f.mbits) (exp + (Nat.log2 mag : Int) - f.mbits))
      unfold fencode
      dsimp only
      rw [if_neg h0]
      generalize roundToGrid mode r mag exp (max (1 - (f.bias : Int) - f.mbits) (exp + (Nat.log2 mag : Int) - f.mbits)) = rounded at hround ⊢
      generalize max (1 - (f.bias : Int) - f.mbits) (exp + (Nat.log2 mag : Int) - f.mbits) = q
      generalize hm : (if decide (rounded.1 ≥ 2 ^ (f.mbits + 1)) = true then rounded.1 / 2 else rounded.1) = m
      generalize he : ((if decide (rounded.1 ≥ 2 ^ (f.mbits + 1)) = true then q + 1 else q) + f.mbits + f.bias).toNat = e
      have hmlt : m < 2 ^ (f.mbits + 1) := by
        rw [← hm]
        rw [pow_succ] at hround ⊢
        split
        next => omega
        next hn => simpa [pow_succ] using hn
      rw [pow_succ] at hmlt
      split
      next hlt => exact ⟨neg, 0, m, by simp [fCode, fSign], by omega, hlt, fun h => by omega⟩
      next hge =>
        split
        next hover =>
          rw [if_neg (by rw [hieee]; decide)]
          have hinf : ∃ neg' e' m', finfinity f neg = fCode f neg' e' m' ∧ e' < 2 ^ f.ebits ∧ m' < 2 ^ f.mbits ∧ (e' = f.emax + 1 → m' = 0) :=
            ⟨neg, f.emax + 1, 0, rfl, by omega, hpos, fun _ => rfl⟩
          have hlarge : ∃ neg' e' m', flargest f neg = fCode f neg' e' m' ∧ e' < 2 ^ f.ebits ∧ m' < 2 ^ f.mbits ∧ (e' = f.emax + 1 → m' = 0) :=
            ⟨neg, f.emax, f.mmax, rfl, by omega, by omega, fun h => by omega⟩
          cases mode with
          | rne => exact hinf
          | rtz => exact hlarge
          | sr =>
            dsimp only
            split
            · exact hinf
            · exact hlarge
        next hin => exact ⟨neg, e, m - 2 ^ f.mbits, rfl, by omega, by omega, fun h => by omega⟩

/-- Rounding to FP32 gives a NaN for a NaN alone. -/
theorem f32isNan_rne32 {x : FVal} (hx : x ≠ .nan) : f32isNan (rne32 x) = false := by
  obtain ⟨neg, e, m, hbits, he, hm, hinf⟩ := exists_fencode (f := ffp32) .rne 0 rfl rfl rfl hx
  have hlt : fCode ffp32 neg e m < 2 ^ 32 := by
    have hs : fSign ffp32 neg ≤ 2 ^ 31 := by cases neg <;> decide
    change e < 2 ^ 8 at he
    change m < 2 ^ 23 at hm
    show fSign ffp32 neg + e * 2 ^ 23 + m < 2 ^ 32
    omega
  refine decide_eq_false ?_
  rw [f32v, rne32, hbits, BitVec.toNat_ofNat, Nat.mod_eq_of_lt hlt, fdecode_fCode he hm]
  split
  next h =>
    rw [if_pos (hinf h.2)]
    exact FVal.noConfusion
  next =>
    rw [if_neg fun h => h.1 rfl]
    split <;> exact FVal.noConfusion

theorem rne32_nan : rne32 .nan = 0x7FC00000 := rfl

theorem rne32_of_isNan {x : FVal} (h : f32isNan (rne32 x) = true) : rne32 x = 0x7FC00000 := by
  by_cases hx : x = .nan
  · rw [hx, rne32_nan]
  · exact absurd h (ne_true_of_eq_false (f32isNan_rne32 hx))

theorem fadd_nan {x y : FVal} (h : x = .nan ∨ y = .nan) : fadd x y = .nan := by
  rcases h with rfl | rfl
  · rfl
  · cases x <;> rfl

theorem fmul_nan {x y : FVal} (h : x = .nan ∨ y = .nan) : fmul x y = .nan := by
  rcases h with rfl | rfl
  · rfl
  · cases x <;> rfl

/-! ### The saturating integer sum -/

/-- Clamping to the range of a signed word says whether it moved the value. -/
theorem satAdd32_toInt (a : Word) (v : Int) : (satAdd32 a v).1.toInt = max (-2 ^ 31) (min (2 ^ 31 - 1) (a.toInt + v))
    ∧ ((satAdd32 a v).2 = true ↔ (satAdd32 a v).1.toInt ≠ a.toInt + v) := by
  have hrange (x : Int) (h1 : -2 ^ 31 ≤ x) (h2 : x ≤ 2 ^ 31 - 1) : (BitVec.ofInt 32 x).toInt = x := by
    rw [BitVec.toInt_ofInt, Int.bmod_eq_of_le (by omega) (by omega)]
  unfold satAdd32 clampInt
  dsimp only
  split
  next hhi =>
    dsimp only
    rw [hrange _ (by decide) (by decide)]
    exact ⟨by omega, fun _ => by omega, fun _ => rfl⟩
  next hhi =>
    split
    next hlo =>
      dsimp only
      rw [hrange _ (by decide) (by decide)]
      exact ⟨by omega, fun _ => by omega, fun _ => rfl⟩
    next hlo =>
      dsimp only
      rw [hrange _ (by omega) (by omega)]
      exact ⟨by omega, fun h => absurd h Bool.false_ne_true, fun h => absurd rfl h⟩

/-- Settles O59: rounding gives a NaN for a NaN alone, and clamping moves what is out of range alone. -/
theorem naNsAndSaturation : Obligations.NaNsAndSaturation := by
  unfold Obligations.NaNsAndSaturation
  refine ⟨fun a b => ⟨rne32_of_isNan, rne32_of_isNan, fun h => ?_⟩, ?_, ?_, satAdd32_toInt⟩
  · have hv : f32v a = .nan ∨ f32v b = .nan := h.imp of_decide_eq_true of_decide_eq_true
    rw [f32add, f32mul, fadd_nan hv, fmul_nan hv]
    exact ⟨rne32_nan, rne32_nan⟩
  · decide
  · decide

end Sys2Proof.Machine

/-! Datagrams and sessions: what is accepted, how a session opens, is kept alive and ends (15 R421, R428 to R432, R441). -/

namespace Sys2Proof.Machine

open Sys2Proof

/-! ### The contexts of sessions -/

theorem State.sessAt_setSess_same (s : State) (i : Nat) (x : Option Sess) : (s.setSess i x).sessAt i = x := by
  rw [State.sessAt_setSess, if_pos rfl]

theorem State.sessAt_setSess_ne (s : State) {i n : Nat} (x : Option Sess) (h : n ≠ i) : (s.setSess i x).sessAt n = s.sessAt n := by
  rw [State.sessAt_setSess, if_neg h]

theorem State.sessAt_congr {s t : State} (h : t.sess = s.sess) (n : Nat) : t.sessAt n = s.sessAt n := by
  rw [State.sessAt, h, State.sessAt]

theorem State.sessAt_of_only {ch : List Grp} {s t : State} (h : Only ch s t) (hch : Grp.sess ∉ ch) (n : Nat) : t.sessAt n = s.sessAt n :=
  State.sessAt_congr (h .sess hch) n

theorem State.setSess_self {s : State} {i : Nat} {x : Sess} (h : s.sessAt i = some x) (n : Nat) : (s.setSess i (some x)).sessAt n = s.sessAt n := by
  rw [State.sessAt_setSess]
  split
  next hn => rw [hn, h]
  next => rfl

/-! ### What a datagram must be -/

/-- The state in which a datagram has been counted by its port. -/
def State.counted (s : State) (h : PctHdr) : State := s.bump (rIoEpRx h.ep)

theorem State.pctIn_reaches {s : State} {h : PctHdr} (hr : Reaches s h) : s.pctIn h = (s.counted h, true) := by
  obtain ⟨hphase, hen, htag, hport⟩ := hr
  have hlive : s.live = true := decide_eq_true (.inl hphase)
  unfold State.pctIn
  rw [State.frameIn_enabled hlive hen]
  dsimp only
  rw [htag, hport]
  exact Prod.ext rfl (decide_eq_true ⟨hphase, rfl⟩)

theorem State.reaches_of_pctIn {s : State} {h : PctHdr} (hin : (s.pctIn h).2 = true) : Reaches s h ∧ (s.pctIn h).1 = s.counted h := by
  unfold State.pctIn at hin ⊢
  by_cases hopen : (s.live && bit (s.rd (rIoEpCfg h.ep)) 1) = true
  · obtain ⟨hlive, hen⟩ := (Bool.and_eq_true_iff ..).mp hopen
    rw [State.frameIn_enabled hlive hen] at hin ⊢
    obtain ⟨htag, hrest⟩ := (Bool.and_eq_true_iff ..).mp hin
    obtain ⟨hphase, hport⟩ := of_decide_eq_true hrest
    exact ⟨⟨hphase, hen, htag, hport⟩, rfl⟩
  · rw [State.frameIn, if_neg hopen] at hin
    exact absurd hin Bool.false_ne_true

/-- A well-formed datagram of a known source that reaches the engine. -/
theorem State.admitPct_reaches {s : State} {h : PctHdr} {k : Nat} (hr : Reaches s h) (hgood : goodHdr h = true)
    (hsrc : (s.counted h).source h.src = some k) : s.admitPct h = if h.syn then ((s.counted h).openSess h k, none) else
      match (s.counted h).sessFor h with
      | none => ((s.counted h).strangerAck h, none)
      | some i => ((s.counted h).takeAck i h.ack, some i) := by
  unfold State.admitPct
  rw [State.pctIn_reaches hr]
  dsimp only
  rw [if_neg (by decide), if_neg (by rw [hgood]; decide), hsrc] <;> rfl

/-- Only such a datagram, of a session that is open, is taken in. -/
theorem State.admitPct_some {s t : State} {h : PctHdr} {i : Nat} (ha : s.admitPct h = (t, some i)) :
    Reaches s h ∧ goodHdr h = true ∧ (s.counted h).source h.src ≠ none ∧ h.syn = false ∧ t = (s.counted h).takeAck i h.ack := by
  have hnone {u : State} (e : (u, (none : Option Nat)) = (t, some i)) : False := by cases e
  unfold State.admitPct at ha
  dsimp only at ha
  by_cases hin : (s.pctIn h).2 = true
  · obtain ⟨hr, hcount⟩ := State.reaches_of_pctIn hin
    rw [hin, hcount, if_neg (by decide)] at ha
    by_cases hgood : goodHdr h = true
    · rw [if_neg (by rw [hgood]; decide)] at ha
      refine ⟨hr, hgood, ?_⟩
      split at ha
      · exact (hnone ha).elim
      next k hk =>
        refine ⟨by rw [hk]; exact Option.some_ne_none k, ?_⟩
        by_cases hsyn : h.syn = true
        · rw [if_pos hsyn] at ha
          exact (hnone ha).elim
        · rw [if_neg hsyn] at ha
          split at ha
          · exact (hnone ha).elim
          · obtain ⟨rfl, hi⟩ := Prod.ext_iff.mp ha
            obtain rfl := Option.some.inj hi
            exact ⟨eq_false_of_ne_true hsyn, rfl⟩
    · rw [if_pos (by rw [eq_false_of_ne_true hgood]; rfl)] at ha
      exact (hnone ha).elim
  · rw [if_pos (by rw [eq_false_of_ne_true hin]; rfl)] at ha
    exact (hnone ha).elim

/-! ### What taking an acknowledgement changes -/

theorem State.foldl_updEnt_frame (l : List Nat) (f : Ent → Ent) (s : State) : Only [.rt] s (l.foldl (fun t e => t.updEnt e f) s) :=
  Only.foldl _ l s fun t e => .rt t _ (by decide)

theorem Only.takeAck {ch : List Grp} (s : State) (i : Nat) (ack : Word) (hrt : Grp.rt ∈ ch) (hr : Grp.regs ∈ ch) (hn : Grp.neigh ∈ ch)
    (ho : Grp.out ∈ ch) (he : Grp.sess ∈ ch) : Only ch s (s.takeAck i ack) := by
  unfold State.takeAck
  split
  · exact .refl _ s
  · dsimp only
    split
    · exact .refl _ s
    · have hfold (l : List Nat) (u : State) : Only ch u (l.foldl (fun t e => t.updEnt e fun y => { y with acked := true }) u) :=
        (State.foldl_updEnt_frame l _ u).mono (by simpa using hrt)
      exact ((Only.setSess _ _ _ he).trans (hfold _ _)).trans (.pump _ _ _ hr hn ho he)

/-- An acknowledgement releases the messages that it covers. -/
theorem State.takeAck_frame {s : State} {i : Nat} {x : Sess} (hx : s.sessAt i = some x) (hwait : x.waiting = []) (ack : Word) :
    (∃ n, (s.takeAck i ack).sessAt i = some { x with unacked := x.unacked.filter (fun m => !serialGe ack m.seq), resends := n }
        ∧ (n = 0 ∨ n = x.resends))
      ∧ (∀ n, n ≠ i → (s.takeAck i ack).sessAt n = s.sessAt n) ∧ (∀ g, (s.takeAck i ack).memGet g = s.memGet g) := by
  have hmem := Only.takeAck (ch := [.rt, .regs, .neigh, .out, .sess]) s i ack (by decide) (by decide) (by decide) (by decide) (by decide) .mem
    (by decide)
  unfold State.takeAck at hmem ⊢
  rw [hx] at hmem ⊢
  dsimp only at hmem ⊢
  by_cases hgone : x.unacked.filter (fun m => serialGe ack m.seq) = []
  · rw [if_pos hgone]
    have hkeep : x.unacked.filter (fun m => !serialGe ack m.seq) = x.unacked := by
      rw [List.filter_eq_self]
      intro m hm
      have := List.filter_eq_nil_iff.mp hgone m hm
      rw [eq_false_of_ne_true this]
      rfl
    exact ⟨⟨x.resends, by rw [hx, hkeep], .inr rfl⟩, fun _ _ => rfl, fun _ => rfl⟩
  · rw [if_neg hgone] at hmem ⊢
    rw [hwait] at hmem ⊢
    have hfold := State.foldl_updEnt_frame ((x.unacked.filter fun m => serialGe ack m.seq).flatMap (·.ends)) (fun y => { y with acked := true })
      (s.setSess i (some { x with unacked := x.unacked.filter fun m => !serialGe ack m.seq, waiting := [], resends := 0 }))
    refine ⟨⟨0, ?_, .inl rfl⟩, fun n hn => ?_, hmem⟩
    · show State.sessAt (List.foldl _ _ _) i = _
      rw [State.sessAt_of_only hfold (by decide), State.sessAt_setSess_same]
    · show State.sessAt (List.foldl _ _ _) n = _
      rw [State.sessAt_of_only hfold (by decide), State.sessAt_setSess_ne _ _ hn]

theorem State.emitAck_out (s : State) (x : Sess) :
    ∃ w, ∃ r : Nat × Nat, (s.emitAck x).out.getLast? = some (.pct w x.id s.mc.bootId 0 x.rx 8 0 r.1 r.2 []) := by
  have hmc : ∀ w, (s.carry w).mc.bootId = s.mc.bootId := fun w =>
    congrArg Mc.bootId (Only.carry (ch := [.regs, .neigh, .out]) s w (by decide) (by decide) (by decide) .mc (by decide))
  refine ⟨s.wireTo x 8, (s.carry (s.wireTo x 8)).ringInfo x, ?_⟩
  rw [← hmc (s.wireTo x 8)]
  exact List.getLast?_concat

/-- Settles O23: an accepted datagram came through `admitPct`, and its session's number is the next. -/
theorem datagramAccepted : Obligations.DatagramAccepted := by
  unfold Obligations.DatagramAccepted
  intro s s1 h i x hacc
  unfold State.accept at hacc
  rcases hadmit : s.admitPct h with ⟨t, ⟨_⟩ | ⟨n⟩⟩
  · rw [hadmit] at hacc
    cases hacc
  rw [hadmit] at hacc
  dsimp only at hacc
  rcases hsess : t.sessAt n with ⟨_⟩ | ⟨x0⟩
  · rw [hsess] at hacc
    cases hacc
  rw [hsess] at hacc
  dsimp only at hacc
  by_cases hseq : h.seq = x0.rx + 1
  · rw [if_neg (not_not.mpr hseq)] at hacc
    obtain ⟨hr, hgood, hsrc, hsyn, ht⟩ := State.admitPct_some hadmit
    obtain ⟨hs1, hix⟩ := Prod.ext_iff.mp hacc
    obtain ⟨rfl, hx⟩ := Prod.ext_iff.mp (Option.some.inj hix)
    dsimp only at hs1 hx
    rw [hx] at hs1
    obtain ⟨hform, hkind⟩ := (Bool.and_eq_true_iff ..).mp hgood
    obtain ⟨hmagic, hver, hlen, hudp⟩ := of_decide_eq_true hform
    have hcount : Only [.rt, .regs, .neigh, .out, .sess] s t :=
      ht ▸ (Only.bump s _ (by decide)).trans (.takeAck _ _ _ (by decide) (by decide) (by decide) (by decide) (by decide))
    have hack : Only [.regs, .neigh, .out] (t.setSess n (some x)) s1 := hs1 ▸ .emitAck _ _ (by decide) (by decide) (by decide)
    have hset : Only [.sess] t (t.setSess n (some x)) := .setSess t _ _ (by decide)
    obtain ⟨w, r, hout⟩ := (t.setSess n (some x)).emitAck_out x
    have hrx : x.rx = h.seq := by rw [← hx, hseq]
    refine ⟨hr, hmagic, hver, hlen, hudp, of_decide_eq_true hkind, hsrc, hsyn, ?_, hrx, by rw [← hx], ⟨w, r, ?_⟩, fun g => ?_, ?_⟩
    · rw [State.sessAt_of_only hack (by decide), State.sessAt_setSess_same]
    · rw [← hs1, hout, hrx]
      congr 2
      exact congrArg Mc.bootId (Eq.trans (hset .mc (by decide)) (hcount .mc (by decide)))
    · rw [hack .mem (by decide), hset .mem (by decide), hcount .mem (by decide)]
    · rw [hack .pending (by decide), hset .pending (by decide), hcount .pending (by decide)]
  · rw [if_pos hseq] at hacc
    cases hacc

end Sys2Proof.Machine

/-! How a session opens, is kept alive and ends, and the heartbeats of the device (15 R430 to R432, R441). -/

namespace Sys2Proof.Machine

open Sys2Proof

/-! ### Opening a session -/

theorem State.emitAck_sess (s : State) (x : Sess) (n : Nat) : (s.emitAck x).sessAt n = s.sessAt n :=
  State.sessAt_of_only (.emitAck (ch := [.regs, .neigh, .out]) s x (by decide) (by decide) (by decide)) (by decide) n

/-- A SYN of no session opens one in the lowest free context. -/
theorem State.openSess_frame {s : State} {h : PctHdr} {k i : Nat} (hnone : s.sessFor h = none)
    (hfree : (List.range 64).find? (fun n => (s.sessAt n).isNone) = some i) :
    (s.openSess h k).mc.handle = s.mc.handle + 1
      ∧ (∃ y, (s.openSess h k).sessAt i = some y ∧ y.uid = s.mc.handle + 1 ∧ y.src = h.src ∧ y.port = h.port ∧ y.id = h.session
          ∧ y.secure = !bit (s.rd (rIoSrcCtl k)) 8 ∧ y.rx = h.seq ∧ y.tx = 0)
      ∧ (∀ n, n ≠ i → (s.openSess h k).sessAt n = s.sessAt n) := by
  unfold State.openSess
  rw [hnone]
  dsimp only
  rw [hfree]
  dsimp only
  refine ⟨?_, ⟨_, (State.emitAck_sess _ _ i).trans (State.sessAt_setSess_same _ _ _), rfl, rfl, rfl, rfl, rfl, rfl, rfl⟩, fun n hn => ?_⟩
  · exact congrArg Mc.handle (Only.emitAck (ch := [.regs, .neigh, .out]) _ _ (by decide) (by decide) (by decide) .mc (by decide))
  · rw [State.emitAck_sess, State.sessAt_setSess_ne _ _ hn]
    rfl

/-! ### A session ends -/

theorem State.discardHeld_frame (s : State) (x : Sess) :
    Only [.rt, .regs, .stalled] s (s.discardHeld x) ∧ (∀ w ∈ (s.discardHeld x).stalled, w.uid ≠ some x.uid)
      ∧ (∀ a, a ≠ rIoStatus → (s.discardHeld x).rd a = s.rd a) := by
  unfold State.discardHeld
  extract_lets s1
  have hdrop (t : State) (e : Nat) : Only [.rt, .regs] t (t.dropRecord e) ∧ ∀ a, a ≠ rIoStatus → (t.dropRecord e).rd a = t.rd a :=
    ⟨(Only.rt t _ (by decide)).trans (.setBit _ _ _ (by decide)), fun a ha => State.rd_setBit_ne _ _ ha⟩
  have hfold (l : List Nat) (t : State) : Only [.rt, .regs] t (l.foldl State.dropRecord t)
      ∧ ∀ a, a ≠ rIoStatus → (l.foldl State.dropRecord t).rd a = t.rd a := by
    induction l generalizing t with
    | nil => exact ⟨.refl _ t, fun _ _ => rfl⟩
    | cons e r ih =>
      obtain ⟨honly, hrd⟩ := ih (t.dropRecord e)
      exact ⟨(hdrop t e).1.trans honly, fun a ha => (hrd a ha).trans ((hdrop t e).2 a ha)⟩
  obtain ⟨honly, hrd⟩ := hfold ((x.unacked ++ x.waiting).flatMap (·.ents)) s
  refine ⟨(honly.mono (by decide)).trans (.stalled s1 _ (by decide)), fun w hw => ?_, fun a ha => hrd a ha⟩
  exact of_decide_eq_true (List.mem_filter.mp hw).2

/-- A session that closes leaves nothing of it open. -/
theorem State.closeSess_frame {s : State} {i : Nat} {x : Sess} (hx : s.sessAt i = some x) :
    (s.closeSess i).sessAt i = none ∧ (s.closeSess i).rd rIoSessClosed = satInc (s.rd rIoSessClosed)
      ∧ (∀ l ∈ (s.closeSess i).loads, l.session ≠ x.uid) ∧ (∀ u, (s.closeSess i).mc.upd = some u → u.sess ≠ x.uid)
      ∧ (∀ w ∈ (s.closeSess i).stalled, w.uid ≠ some x.uid) ∧ (∀ g, (s.closeSess i).memGet g = s.memGet g) := by
  obtain ⟨honly, hstalled, hrd⟩ := s.discardHeld_frame x
  have hs2 : Only [.sess, .regs] (s.discardHeld x) (((s.discardHeld x).setSess i none).bump rIoSessClosed) :=
    (Only.setSess _ _ _ (by decide)).trans (.bump _ _ (by decide))
  unfold State.closeSess
  rw [hx]
  dsimp only
  refine ⟨?_, ?_, fun l hl => of_decide_eq_true (List.mem_filter.mp hl).2, fun u hu => ?_, hstalled, fun g => ?_⟩
  · show (((s.discardHeld x).setSess i none).bump rIoSessClosed).sessAt i = none
    rw [State.sessAt_of_only (.bump (ch := [.regs]) _ _ (by decide)) (by decide), State.sessAt_setSess_same]
  · show (((s.discardHeld x).setSess i none).bump rIoSessClosed).rd rIoSessClosed = _
    rw [State.rd_bump, if_pos rfl]
    exact congrArg satInc (hrd rIoSessClosed (by decide))
  · exact of_decide_eq_true (Option.filter_eq_some_iff.mp hu).2
  · exact (hs2 .mem (by decide) g).trans (honly .mem (by decide) g)

/-! ### Messages sent again -/

/-- What a frame to an address that is known already changes: the counter of its port. -/
theorem State.carry_known {s : State} {w : Egress} (hep : ∀ ep, w.ep = some ep → ep < 8) (h : s.neigh.contains (w.net.val, w.dst) = true) :
    SameNets s (s.carry w) ∧ Only [.regs] s (s.carry w) := by
  unfold State.carry
  split
  · exact ⟨.refl s, .refl _ s⟩
  next ep he =>
    have hlt := hep ep he
    dsimp only
    rw [if_pos h]
    exact ⟨SameNets.bump s (by unfold rIoEpTx; omega) fun i => by unfold rIoEpState rIoEpTx; omega, .bump s _ (by decide)⟩

theorem State.upPorts_lt {s : State} {net : Fin 2} {ep : Nat} (h : ep ∈ s.upPorts net) : ep < 8 := by
  obtain ⟨hmem, -⟩ := List.mem_filter.mp h
  obtain ⟨i, hi, rfl⟩ := List.mem_map.mp hmem
  have := List.mem_range.mp hi
  omega

theorem State.wire_ep_lt (s : State) (net : Fin 2) (dst : List Byte) (sport dport ecn ep : Nat)
    (h : (s.wire net dst sport dport ecn).ep = some ep) : ep < 8 := by
  have hmem := List.mem_of_getElem? h
  split at hmem
  · exact State.upPorts_lt hmem
  · exact State.upPorts_lt hmem

theorem SameNets.wire {s t : State} (h : SameNets s t) (net : Fin 2) (dst : List Byte) (sport dport ecn : Nat) :
    t.wire net dst sport dport ecn = s.wire net dst sport dport ecn := by
  simp only [State.wire, State.carrier, h.upPorts, h.vlanTag]

/-- A message that is sent again, to an address that is known. -/
def resentMsg (s : State) (x : Sess) (r : Nat × Nat) (m : OutMsg) : Output :=
  .pct (s.wireTo x m.kind) x.id s.mc.bootId m.seq x.rx m.kind (bn m.gap * 4 + 8) r.1 r.2 m.body

theorem State.ringInfo_congr {s t : State} (h : t.rings = s.rings) (x : Sess) : t.ringInfo x = s.ringInfo x := by
  unfold State.ringInfo
  split
  · rw [State.ring, h, State.ring]
  · rfl

theorem State.emitMsg_known {s t : State} {x : Sess} (hs : SameNets s t) (honly : Only [.sess, .out, .regs] s t) (hres : Resolved s x.src)
    (m : OutMsg) : (t.emitMsg x m true).out = t.out ++ [resentMsg s x (s.ringInfo x) m] ∧ SameNets s (t.emitMsg x m true)
      ∧ Only [.out, .regs] t (t.emitMsg x m true) := by
  have hwire : t.wireTo x m.kind = s.wireTo x m.kind := hs.wire _ _ _ _ _
  have hknown : t.neigh.contains ((t.wireTo x m.kind).net.val, (t.wireTo x m.kind).dst) = true := by
    rw [honly .neigh (by decide)]
    exact hres _ (Fin.is_lt _)
  obtain ⟨hsame, hcarry⟩ := t.carry_known (fun ep he => t.wire_ep_lt _ _ _ _ _ ep he) hknown
  have hring : (t.carry (t.wireTo x m.kind)).ringInfo x = s.ringInfo x :=
    State.ringInfo_congr (Eq.trans (hcarry .rings (by decide)) (honly .rings (by decide))) x
  have hboot : (t.carry (t.wireTo x m.kind)).mc.bootId = s.mc.bootId :=
    congrArg Mc.bootId (Eq.trans (hcarry .mc (by decide)) (honly .mc (by decide)))
  refine ⟨?_, (hs.trans hsame).trans (.out _ _), (hcarry.mono (by decide)).trans (.out _ _ (by decide))⟩
  unfold State.emitMsg
  extract_lets w u r
  show u.out ++ _ = _
  rw [show u.out = t.out from hcarry .out (by decide), show r = s.ringInfo x from hring, show u.mc.bootId = s.mc.bootId from hboot,
    show w = s.wireTo x m.kind from hwire]
  rfl

/-- All that is not acknowledged is sent again, in order. -/
theorem State.resend_known {s : State} {x : Sess} (hres : Resolved s x.src) (l : List OutMsg) {t : State} (hs : SameNets s t)
    (honly : Only [.sess, .out, .regs] s t) :
    (l.foldl (fun u m => u.emitMsg x m true) t).out = t.out ++ l.map (resentMsg s x (s.ringInfo x)) := by
  induction l generalizing t with
  | nil => simp
  | cons m r ih =>
    obtain ⟨hout, hsame, hstep⟩ := State.emitMsg_known hs honly hres m
    rw [List.foldl_cons, ih hsame (honly.trans (hstep.mono (by decide))), hout, List.map_cons, List.append_assoc]
    rfl

theorem Only.resend (s : State) (x : Sess) (l : List OutMsg) : Only [.regs, .neigh, .out] s (l.foldl (fun u m => u.emitMsg x m true) s) :=
  Only.foldl _ l s fun t m => .emitMsg t x m true (by decide) (by decide) (by decide)

/-- A timeout with less than 16 resends: everything again, with RETRY. -/
theorem runs_resend {s : State} {j : Fin 64} {x : Sess} (hx : s.sessAt j.val = some x) (hun : x.unacked ≠ []) (hlt : x.resends < 16) :
    Runs (.pctResendTimeout j) s fun t =>
      t.sessAt j.val = some { x with resends := x.resends + 1 } ∧ Only [.sess, .out, .regs, .neigh] s t
        ∧ (Resolved s x.src → ∃ r : Nat × Nat, t.out = s.out ++ x.unacked.map fun m =>
            .pct (s.wireTo x m.kind) x.id s.mc.bootId m.seq x.rx m.kind (bn m.gap * 4 + 8) r.1 r.2 m.body) := by
  let x1 : Sess := { x with resends := x.resends + 1 }
  have hset : Only [.sess] s (s.setSess j.val (some x1)) := .setSess s _ _ (by decide)
  have hsend := Only.resend (s.setSess j.val (some x1)) x1 x.unacked
  refine .of_eq (t := x.unacked.foldl (fun u m => u.emitMsg x1 m true) (s.setSess j.val (some x1))) ?_
    ⟨?_, (hset.mono (by decide)).trans (hsend.mono (by decide)), fun hres => ⟨s.ringInfo x1, ?_⟩⟩
  · show execPctResendTimeout j s = _
    unfold execPctResendTimeout
    rw [hx]
    dsimp only
    rw [if_neg hun, if_neg (by omega)]
  · rw [State.sessAt_of_only hsend (by decide), State.sessAt_setSess_same]
  · exact State.resend_known (x := x1) hres x.unacked ⟨rfl, rfl, fun _ => rfl, fun _ _ => rfl⟩ (hset.mono (by decide))

/-! ### Heartbeats -/

theorem State.sendHeartbeat_frame (s : State) (k : Nat) :
    (s.sendHeartbeat k).mc.hbCount = s.mc.hbCount + 1 ∧ Only [.mc, .out, .regs, .neigh] s (s.sendHeartbeat k) := by
  have hcarry (w : Egress) := Only.carry (ch := [.regs, .neigh, .out]) s w (by decide) (by decide) (by decide)
  unfold State.sendHeartbeat
  extract_lets w u mc s1
  refine ⟨?_, (((hcarry w).mono (by decide)).trans (.mc _ _ (by decide))).trans (.out s1 _ (by decide))⟩
  show s.mc.hbCount + 1 = _
  rfl

/-- The state differs in no source entry. -/
def SameSources (s t : State) : Prop := ∀ a, 0x9000800 ≤ a → t.rd a = s.rd a

theorem State.srcAddr_congr {s t : State} (h : SameSources s t) (k : Nat) : t.srcAddr k = s.srcAddr k := by
  unfold State.srcAddr
  rw [h _ (by unfold rIoSrcAddr0; omega), h _ (by unfold rIoSrcAddr1; omega), h _ (by unfold rIoSrcAddr2; omega),
    h _ (by unfold rIoSrcAddr3; omega)]

theorem State.sendHeartbeat_known {s : State} {k : Nat} (hres : Resolved s (beNat 16 (s.srcAddr k))) :
    (s.sendHeartbeat k).out.length = s.out.length + 1 ∧ (s.sendHeartbeat k).neigh = s.neigh ∧ SameSources s (s.sendHeartbeat k) := by
  let w := s.wire 0 (beNat 16 (s.srcAddr k)) 39620 39620 0
  obtain ⟨hsame, hcarry⟩ := s.carry_known (w := w) (fun ep he => s.wire_ep_lt _ _ _ _ _ ep he) (hres 0 (by decide))
  refine ⟨?_, hcarry .neigh (by decide), fun a ha => hsame.net a (by omega)⟩
  show ((s.carry w).out ++ [_]).length = _
  rw [hcarry .out (by decide), List.length_append, List.length_singleton]

theorem State.heartbeats_frame (l : List Nat) (s : State) :
    (l.foldl State.sendHeartbeat s).mc.hbCount = s.mc.hbCount + BitVec.ofNat 32 l.length
      ∧ Only [.mc, .out, .regs, .neigh] s (l.foldl State.sendHeartbeat s) := by
  induction l generalizing s with
  | nil => exact ⟨(BitVec.add_zero _).symm, .refl _ s⟩
  | cons k r ih =>
    obtain ⟨hcount, honly⟩ := s.sendHeartbeat_frame k
    obtain ⟨hrest, hall⟩ := ih (s.sendHeartbeat k)
    refine ⟨?_, honly.trans hall⟩
    rw [List.foldl_cons, hrest, hcount, List.length_cons]
    bv_omega

theorem State.heartbeats_known {s : State} (l : List Nat) {t : State} (hneigh : t.neigh = s.neigh) (hsrc : SameSources s t)
    (hres : ∀ k ∈ l, Resolved s (beNat 16 (s.srcAddr k))) : (l.foldl State.sendHeartbeat t).out.length = t.out.length + l.length := by
  induction l generalizing t with
  | nil => rfl
  | cons k r ih =>
    have hk : Resolved t (beNat 16 (t.srcAddr k)) := by
      rw [State.srcAddr_congr hsrc]
      intro n hn
      rw [hneigh]
      exact hres k (List.mem_cons_self ..) n hn
    obtain ⟨hlen, hsame, hnext⟩ := State.sendHeartbeat_known hk
    rw [List.foldl_cons, ih (hsame.trans hneigh) (fun a ha => (hnext a ha).trans (hsrc a ha)) (fun x hx => hres x (List.mem_cons_of_mem _ hx)),
      hlen, List.length_cons]
    omega

theorem runs_heartbeatSend {s : State} (hphase : s.pwr.phase = .ready) :
    Runs .heartbeatSend s fun t =>
      t.mc.hbCount = s.mc.hbCount + BitVec.ofNat 32 s.hbDests.length ∧ Only [.mc, .out, .regs, .neigh, .tb] s t
        ∧ ((∀ k ∈ s.hbDests, Resolved s (beNat 16 (s.srcAddr k))) → t.out.length = s.out.length + s.hbDests.length) := by
  have htc (x : DWord) : Only [.tb] s (s.toTc x) := .toTc s x (by decide)
  obtain ⟨hcount, honly⟩ := State.heartbeats_frame s.hbDests (s.toTc (BitVec.ofNat 64 (ceilDiv s.tb.tc.toNat 400000 * 400000)))
  refine .of_eq (if_pos hphase) ⟨?_, ((htc _).mono (by decide)).trans (honly.mono (by decide)), fun hres => ?_⟩
  · rw [hcount, htc _ .mc (by decide)]
  · rw [State.heartbeats_known s.hbDests (htc _ .neigh (by decide)) (fun a _ => htc _ .regs (by decide) a) hres, htc _ .out (by decide)]

/-- Settles O24: opening, acknowledging, keeping and closing by their frames, resends and heartbeats by an induction over what is sent. -/
theorem sessionsOpenAndEnd : Obligations.SessionsOpenAndEnd := by
  unfold Obligations.SessionsOpenAndEnd
  intro s s1 h i j k x r
  have hrsess (n : Nat) : r.sessAt n = s.sessAt n := State.sessAt_of_only (.bump (ch := [.regs]) s _ (by decide)) (by decide) n
  refine ⟨fun hr hgood hsrc hnone hfree => ?_, fun hr hgood hsrc hsyn hsess => ?_, fun hadmit hx => ?_, fun hx => ?_, fun hx hun hmax => ?_,
    fun hx hun hlt => runs_resend hx hun hlt, runs_heartbeatSend⟩
  · have hadmit := State.admitPct_reaches (h := { h with syn := true }) hr hgood hsrc
    rw [if_pos rfl] at hadmit
    obtain ⟨hhandle, hopen, hothers⟩ := State.openSess_frame (h := { h with syn := true }) (k := k) hnone hfree
    exact .of_eq (congrArg (fun p : State × Option Nat => (Host.Outcome.next p.1 : Res)) hadmit) ⟨hhandle, hopen, fun n hn => (hothers n hn).trans (hrsess n)⟩
  · have hadmit := State.admitPct_reaches hr hgood hsrc
    rw [if_neg (ne_true_of_eq_false hsyn), show (s.counted h).sessFor h = some i from hsess] at hadmit
    have hexec : exec (.ack h) s = .next (r.takeAck i h.ack) := congrArg (fun p : State × Option Nat => (Host.Outcome.next p.1 : Res)) hadmit
    refine ⟨.of_eq hexec rfl, fun hx hwait => ?_⟩
    obtain ⟨hown, hothers, hmem⟩ := State.takeAck_frame ((hrsess i).trans hx) hwait h.ack
    exact .of_eq hexec ⟨hown, fun n hn => (hothers n hn).trans (hrsess n), hmem⟩
  · refine .of_eq (t := s1.setSess i (some { x with missed := 0, ep := h.ep })) ?_ ⟨State.sessAt_setSess_same _ _ _, .setSess s1 _ _ (by decide)⟩
    show execHeartbeat h s = _
    unfold execHeartbeat
    rw [hadmit]
    dsimp only
    rw [hx]
  · exact .of_eq rfl (State.closeSess_frame hx)
  · obtain ⟨hgone, hclosed, -⟩ := State.closeSess_frame hx
    refine .of_eq (t := s.closeSess j.val) ?_ ⟨hgone, hclosed⟩
    show execPctResendTimeout j s = _
    unfold execPctResendTimeout
    rw [hx]
    dsimp only
    rw [if_neg hun, if_pos hmax]

end Sys2Proof.Machine

/-! ### A word written to staging finds an uncorrectable error and fails the beat (05 R148, R151; 15 R435) -/

namespace Sys2Proof.Machine

open Sys2Proof

/-- An accepted session of the secure world in context 0. -/
def hostSess : Sess :=
  { uid := 1, src := List.replicate 16 0, port := 9, id := 5, secure := true, ep := 0, rx := 0, tx := 0, unacked := [], waiting := [],
    resends := 0, missed := 0, ring := none, mask := 0, fromEvt := 0, fromLog := 0, left := 0, reply := [], cmd := none }

/-- Its next message, of one COMMAND. -/
def hostMsg : PctHdr := ⟨0, none, List.replicate 16 0, 9, 39620, 32, 0x5443, 1, 1, false, false, false, 0, 5, 1, 0⟩

/-- A SUBMIT of one word. -/
def oneWord : SubmitBody :=
  { client := 0, prio := 0, keep := false, nowait := false, topkEn := false, bidir := false, noattend := false, maxNew := 1,
    deadline := 0, seed := 0, key := 0, temp := 0, topP := 0, topK := 0, spec := 0, npages := 1, prefixLen := 0, words := [0] }

/-- A device that takes them, its group 0 in slot 15 with room for one command and one word, anchored by partition 0, which is
bound over core 0; in the granule where the staging words lie stands an uncorrectable error that nobody has found. -/
def foulStaging : State :=
  { State.reset with
    pwr := { State.reset.pwr with phase := .ready }
    regs := [(rRtGroupCtl 15, 1), (rIoRingCtl 15, 1), (rIoRingWords 15, 1), (rPgPartCtl 0, 3), (rSlcReloc 0 0, 0xFFF0000), (rIoSrcCtl 0, 0x200)]
    sess := [(0, some hostSess)]
    parts := [(0, { Part.reset with st := .running, w := 1, h := 1, bound := some 0 })]
    pg := [(0, { PgPart.reset with group := some 0 })]
    ecc := [(0, .uncorr)] }

/-- It, after the message. -/
def foulTook : State := (foulStaging.accept hostMsg).1.setSess 0 (some { hostSess with rx := 1 })

theorem foulStaging_accept : (foulStaging.accept hostMsg).2 = some (0, { hostSess with rx := 1 }) := by decide +kernel

theorem foulStaging_accepted : foulStaging.accept hostMsg = ((foulStaging.accept hostMsg).1, some (0, { hostSess with rx := 1 })) := by
  rw [← foulStaging_accept]

theorem foulTook_whole : Whole foulStaging foulTook hostMsg 0 { hostSess with rx := 1 } := ⟨_, foulStaging_accepted, rfl, rfl, rfl⟩

/-- With its ring noted in its session. -/
def foulNamed : State := foulTook.setSess 0 (some { hostSess with rx := 1, ring := some 15 })

/-- The one staging word is free, so the command takes it. -/
theorem foulNamed_slots : foulNamed.stageSlots 15 1 = [0] := by
  have hcap : fld (foulNamed.rd (rIoRingWords 15)) 0 24 = 1 := by decide +kernel
  have hused : foulNamed.stagingUsed 15 = [] := by decide +kernel
  unfold State.stageSlots
  rw [hcap, hused]
  simp [Nat.mod_one]

/-- With the command in its ring, which took the staging words given; they are to be written. -/
def foulRing (slots : List Nat) : State :=
  let s : State := { foulNamed with free := foulNamed.free + 1 }
  s.setRing 15 (s.ring 15 ++ [⟨1, true, ⟨0, 7, 3, 1⟩, .submit oneWord, s.tb.tc, slots, foulNamed.stageBase 15⟩])

/-- With the one staging word. -/
def foulQueued : State := foulRing [0]

theorem foulStaging_submit :
    foulStaging.intake hostMsg ⟨0, 7, 3, 1⟩ (.submit oneWord) = foulQueued.stage 0 15 (foulNamed.stageBase 15) [0] [0] := by
  have hcmd : foulStaging.command hostMsg ⟨0, 7, 3, 1⟩ (.req (.submit oneWord))
      = (foulTook, some (0, { hostSess with rx := 1 }, ⟨⟨0, 7, 3, 1⟩, .req (.submit oneWord), false⟩)) := by
    unfold State.command
    rw [foulStaging_accepted]
    rfl
  have hslot : foulTook.groupSlot 0 = some 15 := by decide +kernel
  unfold State.intake
  rw [hcmd]
  show foulTook.enterRing 0 _ _ _ = _
  unfold State.enterRing
  rw [hslot]
  show (if (foulNamed.ring 15).length < fld (foulNamed.rd (rIoRingCtl 15)) 0 11 ∧
    (foulNamed.stagingUsed 15).length + 1 ≤ fld (foulNamed.rd (rIoRingWords 15)) 0 24 then _ else _) = _
  rw [if_pos (by decide +kernel)]
  exact congrArg (fun slots => (foulRing slots).stage 0 15 (foulNamed.stageBase 15) slots [0]) foulNamed_slots

/-- A write that merges into a granule with an uncorrectable error finds it, and the beat fails. -/
theorem State.fail_mergeTouch {s : State} {g : Nat} (h : s.granule g = .uncorr) : (s.mergeTouch g).beat.acc.fail = true := by
  unfold State.mergeTouch
  extract_lets t
  rw [if_neg (by rw [h]; decide)]
  dsimp only [t]
  unfold State.touch
  rw [h]
  rfl

/-- Where one granule alone has an error, a write into part of it fails the beat. -/
theorem State.fail_writeMasked {s : State} {ws : List (Nat × Byte)} {g : Nat} (hecc : s.ecc = [(g, .uncorr)]) (hpend : s.poisonPending = [])
    (hin : ∃ w ∈ ws, w.1 / 8 = g) (hpart : g ∉ wholeGranules ws) : (s.writeMasked ws []).beat.acc.fail = true := by
  have hg : s.granule g = .uncorr := by
    unfold State.granule
    rw [hecc, hpend]
    simp [Sparse.get]
  have hmarked (rs : List (Nat × Nat)) : s.marked rs = [g].filter fun g => rs.any fun r => decide (r.1 / 8 ≤ g) && decide (g * 8 < r.2) := by
    unfold State.marked
    rw [hecc, hpend]
    rfl
  have hmark : s.marked (ws.map fun w => (w.1, w.1 + 1)) = [g] := by
    obtain ⟨w, hw, hwg⟩ := hin
    rw [hmarked, List.filter_eq_self]
    simp only [List.mem_singleton, List.any_eq_true, List.mem_map, Bool.and_eq_true, decide_eq_true_eq]
    rintro x rfl
    exact ⟨_, ⟨w, hw, rfl⟩, by dsimp only; omega, by dsimp only; omega⟩
  have hwhole : ((wholeGranules ws).filter fun g => !([] : List Nat).any fun a => decide (a / 8 = g)).contains g = false := by
    simpa using hpart
  unfold State.writeMasked
  extract_lets whole rs partly beside s1 s2
  have hpartly : partly = [g] := by
    dsimp only [partly, rs]
    rw [hmark]
    simp [whole, hpart]
  have hbeside : beside = [] := by
    dsimp only [beside]
    rw [hpartly, hmarked, List.filter_eq_nil_iff]
    simp
  have hs2 : Only [.ecc, .poisonPending] s1 s2 := .foldl State.cleanGranule _ _ .cleanGranule
  have hs1 : s1 = s.mergeTouch g := by
    dsimp only [s1]
    rw [hpartly, hbeside]
    rfl
  have hput := Only.memPut (s2.dropCorr fun g => ws.any fun w => decide (w.1 / 8 = g)) ws .beat (by decide)
  have hdrop := Only.dropCorr s2 (fun g => ws.any fun w => decide (w.1 / 8 = g)) .beat (by decide)
  have hbeat := Eq.trans hput (Eq.trans hdrop (hs2 .beat (by decide)))
  rw [hbeat, hs1]
  exact State.fail_mergeTouch hg

/-- The endpoint of a core leaves the translation of every slice alone. -/
theorem State.xlatePart_atEndpoint (s : State) (src d c lo hi : Nat) : (s.atEndpoint src d).xlatePart c lo hi = s.xlatePart c lo hi := by
  have honly : Only [.regs, .drift, .free] s (s.atEndpoint src d) := .atEndpoint s _ _ (by decide) (by decide) (by decide)
  have hexists : (s.atEndpoint src d).coreExists c = s.coreExists c := by
    rw [State.coreExists, State.coreExists, State.rows, State.rows, honly .fuses (by decide)]
  have hpart : (s.atEndpoint src d).corePart c = s.corePart c := by
    have hparts : ∀ p, (s.atEndpoint src d).part p = s.part p := honly .parts (by decide)
    simp only [State.corePart, State.partOf, hparts]
  have hreloc (t : Nat) (ht : tierOf lo = t) (h3 : t ≠ 3) : (s.atEndpoint src d).rd (rSlcReloc c t) = s.rd (rSlcReloc c t) := by
    have hlt : t < 3 := by
      subst ht
      unfold tierOf at *
      split_ifs at * <;> omega
    exact s.rd_atEndpoint_ne src d (by unfold rSlcReloc rDriftRxCount coreBase; omega) (by unfold rSlcReloc rDriftTxCount coreBase; omega)
      (by unfold rSlcReloc rDriftMaxLat coreBase; omega)
  unfold State.xlatePart
  simp only [hexists, hpart, State.addrSecure_atEndpoint]
  split
  · rfl
  · next h => rw [hreloc _ rfl fun e => h (.inl e)]

theorem State.unitCheck_atEndpoint (s : State) (src d p c a n : Nat) : (s.atEndpoint src d).unitCheck p c a n = s.unitCheck p c a n := by
  have hparts : ∀ q, (s.atEndpoint src d).part q = s.part q :=
    Only.atEndpoint (ch := [.regs, .drift, .free]) s src d (by decide) (by decide) (by decide) .parts (by decide)
  have hof : (s.atEndpoint src d).partOf c = s.partOf c := by simp only [State.partOf, hparts]
  have hrange : (s.atEndpoint src d).checkRange c a n = s.checkRange c a n := by simp only [State.checkRange, State.xlatePart_atEndpoint]
  unfold State.unitCheck
  rw [hof, hrange]

theorem State.xlateG_atEndpoint (s : State) (src d c a : Nat) : (s.atEndpoint src d).xlateG c a = s.xlateG c a := by
  simp only [State.xlateG, State.xlate, State.xlatePart_atEndpoint]

/-- Its word is written, and the beat fails. -/
theorem foulQueued_fails : (foulQueued.stage 0 15 (foulNamed.stageBase 15) [0] [0]).beat.acc.fail = true := by
  have hpart : foulQueued.anchorPart (fld (foulQueued.rd (rRtGroupCtl 15)) 1 11) = some 0 := by decide +kernel
  have hbase : foulNamed.stageBase 15 = 0 := by decide +kernel
  have hcheck : foulQueued.unitCheck 0 0 0 4 = none := by decide +kernel
  have hat : (spread 0 (leBytes 4 (0 : Word).toNat)).filterMap (fun w => (foulQueued.xlateG 0 w.1).map fun g => (g, w.2))
      = [(0, 0), (1, 0), (2, 0), (3, 0)] := by decide +kernel
  have honly : Only [.regs, .drift, .free] foulQueued (foulQueued.atEndpoint 0x110 0) := .atEndpoint _ _ _ (by decide) (by decide) (by decide)
  unfold State.stage
  rw [hpart, hbase]
  show (foulQueued.unitWrite 0x110 0 0 0 (leBytes 4 (0 : Word).toNat) []).beat.acc.fail = true
  unfold State.unitWrite
  rw [if_neg (by decide +kernel)]
  unfold State.unitPut
  rw [State.unitCheck_atEndpoint, show (leBytes 4 (0 : Word).toNat).length = 4 from rfl, hcheck]
  show ((foulQueued.atEndpoint 0x110 0).writeMasked ((spread 0 (leBytes 4 (0 : Word).toNat)).filterMap fun w =>
    ((foulQueued.atEndpoint 0x110 0).xlateG 0 w.1).map fun g => (g, w.2)) []).beat.acc.fail = true
  simp only [State.xlateG_atEndpoint]
  rw [hat]
  exact State.fail_writeMasked (g := 0) (Eq.trans (honly .ecc (by decide)) rfl) (Eq.trans (honly .poisonPending (by decide)) rfl) (by decide) (by decide)

/-- Refutes O25: the word of a SUBMIT that is written to staging (`foulStaging`) finds an uncorrectable error in its granule, and the
beat fails, which the statement's frame of the step does not allow. -/
theorem not_requestsEnterTheRing : ¬ Obligations.RequestsEnterTheRing := by
  unfold Obligations.RequestsEnterTheRing
  intro h
  have hroom : (foulTook.ring 15).length < fld (foulTook.rd (rIoRingCtl 15)) 0 11
      ∧ (foulTook.stagingUsed 15).length + 1 ≤ fld (foulTook.rd (rIoRingWords 15)) 0 24 := by decide +kernel
  obtain ⟨hrun, -⟩ := h foulStaging foulTook foulTook hostMsg ⟨0, 7, 3, 1⟩ 0 15 0 { hostSess with rx := 1 } oneWord oneWord 0 [] 0
    [] 0 false ⟨⟨0, 7, 3, 1⟩, .req (.submit oneWord), false⟩
  obtain ⟨hsubmit, -⟩ := hrun foulTook_whole (by decide +kernel)
  obtain ⟨t, hexec, -, -, -, -, honly, -⟩ := hsubmit hroom
  obtain rfl : foulStaging.intake hostMsg ⟨0, 7, 3, 1⟩ (.submit oneWord) = t := Host.Outcome.next.inj hexec
  have hstands : (foulStaging.intake hostMsg ⟨0, 7, 3, 1⟩ (.submit oneWord)).beat = foulTook.beat := honly .beat (by decide)
  have hclear : foulTook.beat.acc.fail = false := by decide +kernel
  rw [foulStaging_submit] at hstands
  rw [← hstands, foulQueued_fails] at hclear
  cases hclear
end Sys2Proof.Machine

/-! ### Commands of one message (15 R433, R434) -/

namespace Sys2Proof.Machine

open Sys2Proof

/-- The command of one message is whole with it. -/
theorem State.command_whole {s s1 : State} {h : PctHdr} {i : Nat} {x : Sess} (hw : Whole s s1 h i x) (c : CmdHdr) (o : OpenOp) :
    s.command h c o = (s1, some (i, x, ⟨c, o, false⟩)) := by
  obtain ⟨s0, hacc, hcmd, hmore, rfl⟩ := hw
  have hx : { x with cmd := none } = x := by rw [← hcmd]
  unfold State.command
  rw [hacc]
  dsimp only
  rw [hmore, hcmd, ← hx]
  rfl

/-- A management command of a session of the secure world has its effect. -/
theorem State.manageCmd_secure {s s1 : State} {h : PctHdr} {i : Nat} {x : Sess} (hw : Whole s s1 h i x) (hsec : x.secure = true) (c : CmdHdr)
    (o : OpenOp) (f : State → Nat → Origin → OpenCmd → State) : s.manageCmd h c o f = f s1 x.uid (x.origin i) ⟨c, o, false⟩ := by
  unfold State.manageCmd
  rw [State.command_whole hw]
  dsimp only
  rw [if_neg (by decide), if_neg (by rw [hsec]; decide)]

/-- One of any other is logged and answered WORLD. -/
theorem State.manageCmd_refused {s s1 : State} {h : PctHdr} {i : Nat} {x : Sess} (hw : Whole s s1 h i x) (hsec : x.secure = false) (c : CmdHdr)
    (o : OpenOp) (f : State → Nat → Origin → OpenCmd → State) :
    s.manageCmd h c o f
      = (s1.log (x.origin i) 4 0xFF (BitVec.ofNat 32 o.code) 0 0).complete x.uid c.tag o.code 3 0 0 0 := by
  unfold State.manageCmd
  rw [State.command_whole hw]
  dsimp only
  rw [if_neg (by decide), if_pos (by rw [hsec]; decide)]

theorem exec_manage {s s1 : State} {h : PctHdr} {i : Nat} {x : Sess} {ci : Instr} {c : CmdHdr} {op : Nat} {f : State → Nat → Origin → State}
    (hw : Whole s s1 h i x) (hsec : x.secure = true) (hexec : exec ci s = .next (s.manage h c op f)) :
    exec ci s = .next (f s1 x.uid (x.origin i)) :=
  hexec.trans (congrArg Host.Outcome.next (State.manageCmd_secure hw hsec c (.plain op) fun t uid o _ => f t uid o))

theorem exec_managePlan {s s1 : State} {h : PctHdr} {i : Nat} {x : Sess} {ci : Instr} {c : CmdHdr} {op : Nat} {b : BindBody} {keep : Word}
    {f : State → Nat → CmdHdr → BindBody → Word → State}
    (hw : Whole s s1 h i x) (hsec : x.secure = true) (hexec : exec ci s = .next (s.managePlan h c op b keep f)) :
    exec ci s = .next (f s1 x.uid c b keep) :=
  hexec.trans (congrArg Host.Outcome.next (State.manageCmd_secure hw hsec c (.bind op b keep) _))

end Sys2Proof.Machine

/-! ### Partitions come and go (05 R162; 07 R208, R210, R214) -/

namespace Sys2Proof.Machine

open Sys2Proof

/-- A map without the keys of which `f` holds. -/
theorem get_filter_key {α : Type} (d : Nat → α) (m : List (Nat × α)) (f : Nat → Bool) (k : Nat) :
    Sparse.get d (m.filter fun e => !f e.1) k = if f k = true then d k else Sparse.get d m k := by
  induction m with
  | nil => exact (ite_self _).symm
  | cons e m ih =>
    by_cases he : e.1 = k
    · cases hf : f k <;> simp_all [Sparse.get]
    · cases hf : f e.1 <;> simp_all [Sparse.get]

theorem State.memGet_zeroize (s : State) (c p n g : Nat) :
    (s.zeroize c p n).memGet g = if gaddr c p ≤ g ∧ g < gaddr c p + n then 0 else s.memGet g := by
  have hdrop (hit : Nat → Bool) : (s.dropCorr hit).memGet g = s.memGet g := Only.dropCorr s hit .mem (by decide) g
  unfold State.zeroize
  extract_lets lo inR t
  refine (get_filter_key memDefault t.mem inR g).trans ?_
  have hiff : inR g = true ↔ lo ≤ g ∧ g < lo + n := by simp [inR]
  exact if_congr hiff rfl (hdrop _)

theorem Only.zeroize (s : State) (c p n : Nat) : Only [.mem, .ecc, .poisonPending, .banks] s (s.zeroize c p n) := by
  unfold State.zeroize
  extract_lets lo inR t
  have hdrop : Only [.mem, .ecc, .poisonPending, .banks] s t := (Only.dropCorr s _).mono (by decide)
  refine hdrop.trans ?_
  have hmem : Only [.mem, .ecc, .poisonPending, .banks] t { t with mem := t.mem.filter fun m => !inR m.1 } := .mem _ _ (by decide)
  have hecc := Only.ecc (ch := [.mem, .ecc, .poisonPending, .banks]) { t with mem := t.mem.filter fun m => !inR m.1 }
    (t.ecc.filter fun e => !inR (e.1 * 8)) (by decide)
  exact hmem.trans (hecc.trans (.poisonPending _ _ (by decide)))

/-- The slices of some cores zeroed whole. -/
theorem State.memGet_zeroCores (s : State) (l : List Nat) (g : Nat) :
    (l.foldl (fun u x => u.zeroize x 0 0x1800000) s).memGet g
      = if ∃ k ∈ l, gaddr k 0 ≤ g ∧ g < gaddr k 0 + 0x1800000 then 0 else s.memGet g := by
  induction l generalizing s with
  | nil => simp
  | cons c l ih =>
    rw [List.foldl_cons, ih, State.memGet_zeroize]
    by_cases hc : gaddr c 0 ≤ g ∧ g < gaddr c 0 + 0x1800000 <;> simp [hc]

theorem Only.zeroCores (s : State) (l : List Nat) :
    Only [.mem, .ecc, .poisonPending, .banks] s (l.foldl (fun u x => u.zeroize x 0 0x1800000) s) :=
  .foldl (fun (u : State) (x : Nat) => u.zeroize x 0 0x1800000) l s fun t x => .zeroize t x 0 _

theorem State.part_updPart (s : State) (p d : Nat) (f : Part → Part) : (s.updPart p f).part d = if d = p then f (s.part p) else s.part d :=
  s.part_setPart _ _ _

theorem Only.partTo_log (s : State) (p : Nat) (st : PState) : Only [.parts, .regs, .sc] s (s.partTo p st) := by
  unfold State.partTo
  extract_lets old
  exact .ite (.refl _ _) ((Only.setPart _ _ _ (by decide)).trans (.log _ _ _ _ _ _ _ (by decide) (by decide)))

theorem State.part_partTo (s : State) (p d : Nat) (st : PState) :
    (s.partTo p st).part d = if d = p then { s.part p with st := st } else s.part d := by
  unfold State.partTo
  extract_lets old
  split
  · next h =>
    split
    · next hd => rw [hd, ← h]
    · rfl
  · exact Eq.trans (Only.log (ch := [.regs, .sc]) _ _ _ _ _ _ _ (by decide) (by decide) .parts (by decide) d) (s.part_updPart p d _)

/-- What frees a partition once its cores are zeroed writes no byte. -/
theorem State.memGet_freed (u : State) (p : Nat) (st : PState) (q : PgPart) (r : Part) (g : Nat) :
    (((u.partTo p st).setPg p q).setPart p r).memGet g = u.memGet g :=
  Only.partTo_log u p st .mem (by decide) g

/-- Settles O26: the effects stand between the acceptance of the command and its completion; a destroyed partition's cores are zeroed
over their whole ranges. -/
theorem partitionsComeAndGo : Obligations.PartitionsComeAndGo := by
  unfold Obligations.PartitionsComeAndGo
  intro s s1 h c b x hm
  obtain ⟨⟨i, hw⟩, hsec⟩ := hm
  have hcreate := exec_manage hw hsec (show exec (.partCreate h c b) s = .next (s.manage h c 0x20 _) from rfl)
  have hdestroy := exec_manage hw hsec (show exec (.partDestroy h c) s = .next (s.manage h c 0x21 _) from rfl)
  dsimp only at hcreate hdestroy
  refine ⟨fun hcheck => ?_, fun hcheck => ?_, fun hlt hst hbusy => ?_, fun hno => ?_⟩
  · rw [if_neg (not_not.mpr hcheck)] at hcreate
    have honly : Only [.parts, .regs, .sc] s1 _ := (Only.setPart s1 _ _ (by decide)).trans (Only.partTo_log (s1.updPart c.target fun q =>
        { q with secure := !b.nonSecure, x0 := b.x0, y0 := b.y0, w := b.w, h := b.h, alloc := b.alloc }) c.target .idle)
    refine ⟨_, hcreate, ?_, fun p hp => ?_, honly .mem (by decide), honly .cores (by decide)⟩
    · rw [State.part_partTo, if_pos rfl, State.part_updPart, if_pos rfl]
    · rw [State.part_partTo, if_neg hp, State.part_updPart, if_neg hp]
  · rw [if_pos hcheck] at hcreate
    exact .of_eq hcreate rfl
  · rw [if_neg (by rw [hst, hbusy]; simpa using hlt)] at hdestroy
    refine ⟨_, hdestroy, ?_, fun p hp => ?_, fun k a hk ha => ?_, fun g hg => ?_⟩
    · rw [State.part_setPart, if_pos rfl]
    · rw [State.part_setPart, if_neg hp]
      exact Eq.trans (State.part_partTo _ _ _ _) (Eq.trans (if_neg hp) (Only.zeroCores s1 _ .parts (by decide) p))
    · refine Eq.trans (State.memGet_freed _ _ _ _ _ _) ?_
      rw [State.memGet_zeroCores, if_pos ⟨k, hk, by unfold gaddr; omega, by unfold gaddr; omega⟩]
    · refine Eq.trans (State.memGet_freed _ _ _ _ _ _) ?_
      rw [State.memGet_zeroCores, if_neg]
      rintro ⟨k, hk, hlo, hhi⟩
      exact hg k (g - gaddr k 0) hk (by omega) (by unfold gaddr at *; omega)
  · rw [if_pos (by simpa using hno)] at hdestroy
    exact .of_eq hdestroy rfl
end Sys2Proof.Machine

/-! ### What firmware refuses (15 R434; 16 R448, R453, R459 to R461) -/

namespace Sys2Proof.Machine

open Sys2Proof

/-- A management command of a session of the non-secure world is logged and answered WORLD. -/
theorem runs_manage_refused {s s1 : State} {h : PctHdr} {i : Nat} {x : Sess} {ci : Instr} {c : CmdHdr} {o : OpenOp}
    {f : State → Nat → Origin → OpenCmd → State} (hw : Whole s s1 h i x) (hsec : x.secure = false)
    (hexec : exec ci s = .next (s.manageCmd h c o f)) : Runs ci s (WorldRefused s1 i x c o.code) := by
  rw [State.manageCmd_refused hw hsec] at hexec
  exact .of_eq hexec rfl

/-- Settles O29. -/
theorem firmwareRefusals : Obligations.FirmwareRefusals := by
  unfold Obligations.FirmwareRefusals
  intro s s1 h c i kind svn bytes handle copy op revoke mask ev lg keep force nonce pubkey sig cb b fb x no hw
  refine ⟨fun hsec => ⟨fun hlc => ?_, fun hupd => ?_, fun hjoined => ?_, fun hcheck => ?_, fun hlc => ?_, fun hlc => ?_⟩, fun hsec => ?_⟩
  · have hexec := exec_manage hw hsec (show exec (.attest h c nonce) s = .next (s.manage h c 0x40 _) from rfl)
    rw [if_pos hlc] at hexec
    exact .of_eq hexec rfl
  · have hexec := exec_manage hw hsec (show exec (.fwBegin h c) s = .next (s.manage h c 0x42 _) from rfl)
    rw [if_pos (Option.isSome_iff_ne_none.mpr hupd)] at hexec
    exact .of_eq hexec rfl
  · have hexec := exec_manage hw hsec (show exec (.reset h c false) s = .next (s.manage h c 0x44 _) from rfl)
    rw [if_pos ⟨hjoined, rfl⟩] at hexec
    exact .of_eq hexec rfl
  · have hexec := exec_manage hw hsec (show exec (.svnRaise h c kind revoke svn) s = .next (s.manage h c 0x45 _) from rfl)
    dsimp only at hexec
    rw [if_pos hcheck] at hexec
    exact .of_eq hexec rfl
  · have hexec := exec_manage hw hsec (show exec (.lcOwn h c pubkey) s = .next (s.manage h c 0x48 _) from rfl)
    rw [if_pos hlc] at hexec
    exact .of_eq hexec rfl
  · have hexec := exec_manage hw hsec (show exec (.lcReturn h c sig) s = .next (s.manage h c 0x49 _) from rfl)
    rw [if_pos hlc] at hexec
    exact .of_eq hexec rfl
  · have hno {ci : Instr} {o : OpenOp} {f : State → Nat → Origin → OpenCmd → State} (hexec : exec ci s = .next (s.manageCmd h c o f)) :
        Runs ci s (no o.code) := runs_manage_refused hw hsec hexec
    exact ⟨hno (o := .plain 0x20) rfl, hno (o := .plain 0x21) rfl, hno (o := .plain 0x22) rfl, hno (o := .plain 0x23) rfl,
      hno (o := .bind 0x24 b 0) rfl, hno (o := .plain 0x25) rfl, hno (o := .bind 0x26 b keep) rfl, hno (o := .bind 0x27 b 0) rfl,
      hno (o := .plain 0x28) rfl, hno (o := .plain 0x29) rfl, hno (o := .plain 0x40) rfl, hno (o := .plain 0x41) rfl,
      hno (o := .plain 0x42) rfl, hno (o := .plain 0x43) rfl, hno (o := .plain 0x44) rfl, hno (o := .plain 0x45) rfl,
      hno (o := .plain 0x46) rfl, hno (o := .plain 0x47) rfl, hno (o := .plain 0x48) rfl, hno (o := .plain 0x49) rfl,
      hno (o := .plain 0x4A) rfl, hno (o := .plain op) rfl⟩

end Sys2Proof.Machine

/-! ### What firmware does (16 R451 to R472) -/

namespace Sys2Proof.Machine

open Sys2Proof

/-! #### A message of a session changes no register but the counts of the ports -/

/-- A register of none of the eight ports' frame counts. -/
def NoTx (a : Nat) : Prop := ∀ ep, ep < 8 → a ≠ rIoEpTx ep

theorem noTx_of_lt {a : Nat} (h : a < rIoEpTx 0) : NoTx a := fun ep _ => by unfold rIoEpTx at *; omega

theorem State.rd_carry {s : State} {w : Egress} {a : Nat} (hep : ∀ ep, w.ep = some ep → ep < 8) (h : NoTx a) : (s.carry w).rd a = s.rd a := by
  unfold State.carry
  split
  · rfl
  next ep he =>
    have hne := h ep (hep ep he)
    dsimp only
    rw [State.rd_bump_ne _ hne]
    split
    · rfl
    · exact State.rd_bump_ne _ hne

theorem State.rd_emitMsg (s : State) (x : Sess) (m : OutMsg) (b : Bool) {a : Nat} (h : NoTx a) : (s.emitMsg x m b).rd a = s.rd a :=
  State.rd_carry (fun _ he => s.wire_ep_lt _ _ _ _ _ _ he) h

theorem State.rd_pump (s : State) (i : Nat) (l : List OutMsg) {a : Nat} (h : NoTx a) : (s.pump i l).rd a = s.rd a := by
  induction l generalizing s with
  | nil => rfl
  | cons m r ih =>
    unfold State.pump
    split
    · split
      · rw [ih, State.rd_emitMsg _ _ _ _ h]
        rfl
      · rfl
    · rfl

theorem State.rd_sendTo (s : State) (i : Nat) (m : OutMsg) {a : Nat} (h : NoTx a) : (s.sendTo i m).rd a = s.rd a := by
  unfold State.sendTo
  split
  · exact State.rd_pump _ _ _ h
  · rfl

theorem State.rd_complete (s : State) (uid : Nat) (tag : Word) (op st code e n : Nat) {a : Nat} (h : NoTx a) :
    (s.complete uid tag op st code e n).rd a = s.rd a := by
  unfold State.complete State.send
  split
  · exact State.rd_sendTo _ _ _ h
  · rfl

theorem Only.completed (s : State) (uid : Nat) (tag : Word) (op st code e n : Nat) :
    Only [.regs, .out, .sess, .neigh] s (s.complete uid tag op st code e n) :=
  .complete _ _ _ _ _ _ _ _ (by decide) (by decide) (by decide) (by decide)

/-- An operation that is carried out is entered in the change log and answered. -/
theorem Only.fwDone_log (s : State) (o : Origin) (uid : Nat) (tag : Word) (op arg : Nat) :
    Only [.regs, .out, .sess, .neigh, .sc] s (s.fwDone o uid tag op arg) := .fwDone _ _ _ _ _ _ (by decide) (by decide) (by decide) (by decide) (by decide)

theorem State.rd_fwDone_head (s : State) (o : Origin) (uid : Nat) (tag : Word) (op arg : Nat) :
    (s.fwDone o uid tag op arg).rd rScLogHead = s.rd rScLogHead + 1 := by
  unfold State.fwDone
  rw [State.rd_complete _ _ _ _ _ _ _ _ (noTx_of_lt (by decide)), State.rd_log_head]

/-! #### The report, flash and calibration -/

theorem Only.mcFlash (s : State) (m : Mc) (f : List (Nat × Byte)) : Only [.mc, .flash] s { s with mc := m, flash := f } := by
  have hmc : Only [.mc, .flash] s { s with mc := m } := .mc _ _ (by decide)
  exact hmc.trans (.flash { s with mc := m } f (by decide))

theorem State.ucalStore_frame (s : State) : Only [.mc, .flash] s s.ucalStore ∧ s.ucalStore.mc.ucalSeq = s.mc.ucalSeq + 1
    ∧ s.ucalStore.mc.ucalCopy = some (match s.mc.ucalCopy with | some k => 1 - k | none => 0) := by
  unfold State.ucalStore
  extract_lets k q bs
  exact ⟨.mcFlash s _ _, rfl, rfl⟩

theorem State.report_frame (s : State) (nonce : List Byte) :
    Only [.regs, .rnd] s (s.report nonce) ∧ (s.report nonce).rd rScLogHead = s.rd rScLogHead := by
  unfold State.report
  extract_lets b sig ws
  have hrnd : Only [.regs, .rnd] s { s with rnd := s.rnd + 8 } := .rnd _ _ (by decide)
  refine ⟨hrnd.trans (.foldl (fun (t : State) (p : Nat × Word) => t.wr (rScReport p.1) p.2) _ _ fun t p => .wr _ _ _ (by decide)), ?_⟩
  suffices h : ∀ (l : List (Nat × Word)) (t : State), (l.foldl (fun t p => t.wr (rScReport p.1) p.2) t).rd rScLogHead = t.rd rScLogHead from
    h _ _
  intro l t
  induction l generalizing t with
  | nil => rfl
  | cons p l ih => exact (ih _).trans (State.rd_wr_ne _ _ (by unfold rScReport rScLogHead; omega))

theorem get_flashPut (f : List (Nat × Byte)) (a : Nat) (bs : List Byte) (k : Nat) :
    Sparse.get (fun _ => (0xFF : Byte)) (flashPut f a bs) k
      = if a ≤ k ∧ k < a + bs.length then bs.getD (k - a) 0 else Sparse.get (fun _ => (0xFF : Byte)) f k := by
  induction bs generalizing f a with
  | nil => exact (if_neg fun h => by simp at h; omega).symm
  | cons b r ih =>
    show Sparse.get _ (flashPut _ (a + 1) r) k = _
    rw [ih, Laws.get_set]
    rcases Nat.lt_trichotomy k a with h | rfl | h
    · rw [if_neg (by omega), if_neg (by omega), if_neg (by omega)]
    · rw [if_neg (by omega), if_pos rfl, if_pos (by simp), Nat.sub_self]; rfl
    · rw [if_neg (by omega : ¬ k = a)]
      refine if_congr (by rw [List.length_cons]; omega) ?_ rfl
      rw [show k - a = (k - (a + 1)) + 1 by omega, List.getD_cons_succ]

theorem State.commitBank_magic (s : State) : leNat (s.commitBank.flashBytes (bankBase s.otherBank) 4) = 0x4B4E4250 := by
  have hbank : s.otherBank ≤ 1 := Nat.sub_le _ _
  have hbyte (i : Nat) (hi : i < 4) : s.commitBank.flashByte (bankBase s.otherBank + i) = (leBytes 4 0x4B4E4250).getD i 0 := by
    unfold State.flashByte
    rw [if_neg (by unfold bankBase; omega)]
    refine (get_flashPut _ _ _ _).trans ?_
    rw [if_pos ⟨Nat.le_add_right _ _, by rw [List.length_append, length_leBytes, length_leBytes]; omega⟩, Nat.add_sub_cancel_left,
      List.getD_append _ _ _ _ (by rw [length_leBytes]; exact hi)]
  unfold State.flashBytes
  rw [List.map_congr_left fun i hi => hbyte i (List.mem_range.mp hi)]
  decide

/-- The row of SC_UCALi. -/
def ucalRow : RegRow := ⟨false, 0x1000200, 64, 0x4, [⟨0, 16, .rw, 0x0⟩, ⟨16, 16, .rw, 0x0⟩]⟩

theorem regFind_ucal : ∀ i : Fin 64, regFind (rScUcal i.val) = some ucalRow := by decide +kernel

theorem State.wrFields_ucal (s : State) {i : Nat} (hi : i < 64) (w : Word) : s.wrFields (rScUcal i) w = s.wr (rScUcal i) w := by
  unfold State.wrFields
  rw [regFind_ucal ⟨i, hi⟩]
  dsimp only
  congr 1
  unfold RegRow.after
  extract_lets rw w1c w1s
  rw [show rw = BitVec.allOnes 32 from by decide, show w1c = 0#32 from by decide, show w1s = 0#32 from by decide]
  simp only [BitVec.not_allOnes, BitVec.and_allOnes, BitVec.and_zero, BitVec.or_zero, BitVec.zero_or, BitVec.not_zero]

theorem State.wrWords_ucal (s : State) (k : Nat) (l : List Word) (hl : k + l.length ≤ 64) :
    Only [.regs] s (s.wrWords (rScUcal k) l) ∧ (∀ i, i < k → (s.wrWords (rScUcal k) l).rd (rScUcal i) = s.rd (rScUcal i))
      ∧ ∀ i, i < l.length → (s.wrWords (rScUcal k) l).rd (rScUcal (k + i)) = l.getD i 0 := by
  induction l generalizing s k with
  | nil => exact ⟨.refl _ s, fun _ _ => rfl, fun i hi => absurd hi (Nat.not_lt_zero i)⟩
  | cons w r ih =>
    rw [List.length_cons] at hl
    have hstep : s.wrWords (rScUcal k) (w :: r) = (s.wr (rScUcal k) w).wrWords (rScUcal (k + 1)) r := by
      rw [State.wrWords, State.wrFields_ucal s (by omega), show rScUcal k + 4 = rScUcal (k + 1) by unfold rScUcal; omega]
    obtain ⟨honly, hbelow, hat⟩ := ih (s.wr (rScUcal k) w) (k + 1) (by omega)
    rw [hstep]
    refine ⟨(Only.wr s _ _ (by decide)).trans honly, fun i hi => ?_, fun i hi => ?_⟩
    · rw [hbelow i (by omega), State.rd_wr_ne _ _ (by unfold rScUcal; omega)]
    · cases i with
      | zero => exact (hbelow k (Nat.lt_succ_self k)).trans (State.rd_wr_same _ _ _)
      | succ i => rw [show k + (i + 1) = k + 1 + i by omega, hat i (Nat.lt_of_succ_lt_succ hi), List.getD_cons_succ]

theorem State.fuses_lifecycleTo (s : State) (o : Origin) (n : Nat) : (s.lifecycleTo o n).fuses = { s.fuses with lifecycle := n } := by
  have hlog (k p : Nat) (a y z : Word) : (s.log o k p a y z).fuses = s.fuses :=
    Only.log (ch := [.regs, .sc]) _ _ _ _ _ _ _ (by decide) (by decide) .fuses (by decide)
  exact congrArg (fun f : Fuses => { f with lifecycle := n }) (hlog _ _ _ _ _)

/-- An operation that is answered, and then a reset is pending. -/
theorem runs_fwDone_reset {ci : Instr} {s u : State} {o : Origin} {uid : Nat} {tag : Word} {op arg : Nat}
    (hexec : exec ci s = .next { u.fwDone o uid tag op arg with mc := { (u.fwDone o uid tag op arg).mc with resetPend := true } }) :
    Runs ci s fun t => t.mc.resetPend = true ∧ t.fuses = u.fuses :=
  .of_eq hexec ⟨rfl, Only.fwDone_log u o uid tag op arg .fuses (by decide)⟩

/-- Settles O28: each operation is its effect on the state that took the command in, entered in the change log and answered. -/
theorem firmwareOperations : Obligations.FirmwareOperations := by
  unfold Obligations.FirmwareOperations
  intro s s1 h c i handle kind svn copy op revoke mask ev lg force nonce pubkey sig x o done hw hsec
  have hdone (u : State) (code arg : Nat) : Only [.regs, .out, .sess, .neigh, .sc] u (done u code arg) := .fwDone_log u _ _ _ _ _
  refine ⟨fun hlc => ?_, fun hupd => ?_, ?_, ⟨rfl, s1.commitBank_magic, ?_⟩, fun hforce => ?_, fun hcheck => ?_, ?_, ?_, fun hcopy => ?_,
    fun hlc => ?_, fun hlc => ?_, ?_, fun hsess => ?_, fun k y hk hy => ?_⟩
  · have hexec := exec_manage hw hsec (show exec (.attest h c nonce) s = .next (s.manage h c 0x40 _) from rfl)
    rw [if_neg hlc] at hexec
    obtain ⟨honly, hhead⟩ := s1.report_frame nonce
    exact .of_eq hexec ⟨rfl, (State.rd_fwDone_head (s1.report nonce) o x.uid c.tag 0x40 704).trans (by rw [hhead]),
      Eq.trans (hdone (s1.report nonce) 0x40 704 .fuses (by decide)) (honly .fuses (by decide)),
      fun g => Eq.trans (hdone (s1.report nonce) 0x40 704 .mem (by decide) g) (honly .mem (by decide) g)⟩
  · have hexec := exec_manage hw hsec (show exec (.fwBegin h c) s = .next (s.manage h c 0x42 _) from rfl)
    rw [if_neg (by rw [hupd]; decide)] at hexec
    exact .of_eq hexec ⟨_, rfl, rfl, rfl, Only.mcFlash s1 _ _⟩
  · have hexec := exec_manage hw hsec (show exec (.fwCommit h c handle) s = .next (s.manage h c 0x43 _) from rfl)
    dsimp only at hexec
    rw [ite_not] at hexec
    exact .of_eq hexec rfl
  · exact Only.mcFlash s1 _ _
  · have hexec := exec_manage hw hsec (show exec (.reset h c force) s = .next (s.manage h c 0x44 _) from rfl)
    rw [if_neg (by rcases hforce with e | e <;> simp [e])] at hexec
    exact .of_eq hexec ⟨rfl, .mc _ _ (by decide)⟩
  · have hexec := exec_manage hw hsec (show exec (.svnRaise h c kind revoke svn) s = .next (s.manage h c 0x45 _) from rfl)
    dsimp only at hexec
    rw [if_neg (not_not.mpr hcheck)] at hexec
    exact .of_eq hexec ⟨hdone (s1.svnBlow kind revoke.toNat svn) 0x45 0 .fuses (by decide), rfl⟩
  · have hexec := exec_manage hw hsec (show exec (.configCommit h c copy) s = .next (s.manage h c 0x46 _) from rfl)
    dsimp only at hexec
    rw [ite_not] at hexec
    have hframe : Only [.regs, .out, .sess, .neigh, .sc] s1
        (if s1.configCheck copy = 0 then done s1 0x46 0 else s1.fwRefuse x.uid c.tag 0x46 (s1.configCheck copy)) :=
      .ite (hdone s1 0x46 0) ((Only.completed _ _ _ _ _ _ _ _).mono (by decide))
    exact .of_eq hexec ⟨hframe .mem (by decide), hframe .flash (by decide), rfl⟩
  · have hexec := exec_manage hw hsec (show exec (.ucalSave h c) s = .next (s.manage h c 0x47 _) from rfl)
    have hmc : (done s1.ucalStore 0x47 0).mc = s1.ucalStore.mc := hdone s1.ucalStore 0x47 0 .mc (by decide)
    obtain ⟨honly, hseq, hcopy⟩ := s1.ucalStore_frame
    exact .of_eq hexec ⟨rfl, (congrArg Mc.ucalSeq hmc).trans hseq, (congrArg Mc.ucalCopy hmc).trans hcopy,
      (State.rd_fwDone_head s1.ucalStore o x.uid c.tag 0x47 0).trans (congrArg (· + 1) (honly .regs (by decide) _))⟩
  · have hexec := exec_manage hw hsec (show exec (.ucalLoad h c copy) s = .next (s.manage h c 0x4A _) from rfl)
    dsimp only at hexec
    rw [if_pos hcopy] at hexec
    cases hc : s1.ucalCopy copy with
    | none =>
      rw [hc] at hexec
      exact .of_eq hexec rfl
    | some v =>
      rw [hc] at hexec
      have hlen : (v.2.take 64).length ≤ 64 := List.length_take_le _ _
      obtain ⟨honly, -, hat⟩ := s1.wrWords_ucal 0 (v.2.take 64) (by omega)
      have hmc : (s1.wrWords (rScUcal 0) (v.2.take 64)).mc = s1.mc := honly .mc (by decide)
      refine .of_eq hexec ⟨_, rfl, (honly.mono (by decide)).trans (.mc _ _ (by decide)), by rw [hmc], fun i hi => ?_⟩
      have hi' : i < 64 ∧ i < v.2.length := lt_min_iff.mp hi
      have hrd := hat i (by rw [List.length_take]; exact hi)
      rw [Nat.zero_add] at hrd
      exact Eq.trans hrd (by simp [List.getD_eq_getElem?_getD, hi'.1])
  · have hexec := exec_manage hw hsec (show exec (.lcOwn h c pubkey) s = .next (s.manage h c 0x48 _) from rfl)
    rw [if_neg (not_not.mpr hlc)] at hexec
    refine .of_eq hexec ⟨_, rfl, ?_⟩
    have hfuses := s1.fuses_lifecycleTo (x.origin i) 2
    rw [hfuses]
  · have hexec := exec_manage hw hsec (show exec (.lcReturn h c sig) s = .next (s.manage h c 0x49 _) from rfl)
    rw [if_neg (not_not.mpr hlc)] at hexec
    cases hsig : s1.ownerSigned (s1.deviceId ++ leBytes 4 s1.mc.bootId.toNat ++ [0x52]) sig with
    | false =>
      rw [if_pos (by rw [hsig]; decide)] at hexec
      refine .of_eq hexec ?_
      dsimp only
      rw [if_neg (by decide)]
    | true =>
      rw [if_neg (by rw [hsig]; decide)] at hexec
      obtain ⟨t, ht, hdone⟩ := runs_fwDone_reset hexec
      refine ⟨t, ht, ?_⟩
      dsimp only
      rw [if_pos rfl, hdone.2, State.fuses_lifecycleTo]
      exact ⟨hdone.1, rfl⟩
  · have hexec := exec_manage hw hsec (show exec (.reservedOp h c op) s = .next (s.manage h c op _) from rfl)
    exact .of_eq hexec ⟨rfl, .completed _ _ _ _ _ _ _ _⟩
  · have hexec := exec_manage hw hsec (show exec (.logStream h c mask ev lg) s = .next (s.manage h c 0x41 _) from rfl)
    dsimp only at hexec
    rw [hsess] at hexec
    exact .of_eq hexec rfl
  · have hexec := exec_manage hw hsec (show exec (.logStream h c mask ev lg) s = .next (s.manage h c 0x41 _) from rfl)
    dsimp only at hexec
    rw [hk] at hexec
    dsimp only at hexec
    rw [hy] at hexec
    exact .of_eq hexec ⟨_, rfl, by rw [State.sessAt_setSess, if_pos rfl], .setSess _ _ _ (by decide)⟩

end Sys2Proof.Machine

/-! ### Loads, bindings, flights and joins (07 R209 to R215; 10 R299; 15 R434) -/

namespace Sys2Proof.Machine

open Sys2Proof

/-! #### FLIGHT writes the registers of a flight -/

/-- The beat and TETHER_CHIP stand. -/
def ChipKept (s t : State) : Prop := t.beat = s.beat ∧ t.rd rTetherChip = s.rd rTetherChip

theorem ChipKept.trans {r s t : State} (h : ChipKept r s) (k : ChipKept s t) : ChipKept r t := ⟨k.1.trans h.1, k.2.trans h.2⟩

theorem ChipKept.writeTyped (s : State) (o : Origin) {a : Nat} (v : Word) (h : a ≠ rTetherChip) : ChipKept s (s.writeTyped o a v) :=
  ⟨Only.writeTyped (ch := [.regs, .sc]) s o a v (by decide) (by decide) .beat (by decide),
    State.rd_writeTyped_ne s o a v h.symm (not_logRegs (.inr (by decide)))⟩

/-- A write of TETHER_JOIN_CTL with neither START nor READY. -/
theorem ChipKept.joinCtl (s : State) {v : Word} (h0 : bit v 0 = false) (h2 : bit v 2 = false) : ChipKept s (s.fwWrite rTetherJoinCtl v) := by
  unfold State.fwWrite
  rw [State.writeReg_tether (by decide) (by decide)]
  unfold State.writeTether
  rw [if_neg fun e => absurd e.1 (by decide), if_pos rfl]
  dsimp only
  rw [if_neg (ne_true_of_eq_false h0), if_neg (ne_true_of_eq_false h2)]
  exact .writeTyped s _ _ (by decide)

/-- A write of BEAT_LEN or GUARD off a flight. -/
theorem ChipKept.tbWrite (s : State) {a : Nat} (v : Word) (hj : s.beat.joined = false) (ha : a = rTbBeatLen ∨ a = rTbGuard) :
    ChipKept s (s.fwWrite a v) := by
  have hlo : 0x2000000 ≤ a ∧ a < 0x3000000 ∧ a ≠ rTbCtl ∧ a ≠ rTetherChip := by rcases ha with rfl | rfl <;> decide
  obtain ⟨h1, h2, hctl, hchip⟩ := hlo
  unfold State.fwWrite
  rw [State.writeReg_tb h1 h2]
  unfold State.writeTb
  rw [if_neg fun e => absurd (hj.symm.trans e.1) (by decide), if_neg hctl]
  exact .writeTyped s _ _ hchip

/-- A write of the configuration of a port off a flight. -/
theorem ChipKept.portCfg (s : State) (p : Fin 8) (v : Word) (hj : s.beat.joined = false) : ChipKept s (s.fwWrite (rTetherPortCfg p) v) := by
  have hp := p.isLt
  have hchip : rTetherPortCfg p ≠ rTetherChip := by unfold rTetherPortCfg rTetherChip; omega
  unfold State.fwWrite
  rw [State.writeReg_tether (by unfold rTetherPortCfg; omega) (by unfold rTetherPortCfg; omega)]
  unfold State.writeTether
  rw [if_neg fun e => absurd e.1 hchip, if_neg (by unfold rTetherPortCfg rTetherJoinCtl; omega), if_pos (by unfold rTetherPortCfg; omega)]
  dsimp only
  rw [hj]
  have htyped := ChipKept.writeTyped s originFw v hchip
  show ChipKept s (if _ then s.writeTyped originFw (rTetherPortCfg p) v else State.portEnable (s.writeTyped originFw (rTetherPortCfg p) v) _ _)
  split
  · exact htyped
  · refine htyped.trans ?_
    have hj1 : (s.writeTyped originFw (rTetherPortCfg p) v).beat.joined = false := (congrArg Beat.joined htyped.1).trans hj
    unfold State.portEnable
    split
    · exact ⟨rfl, rfl⟩
    · dsimp only
      rw [if_neg (ne_true_of_eq_false hj1)]
      exact ⟨rfl, rfl⟩

theorem ChipKept.portCfgs (l : List (Fin 8)) (v : Fin 8 → Word) (s : State) (hj : s.beat.joined = false) :
    ChipKept s (l.foldl (fun t (p : Fin 8) => t.fwWrite (rTetherPortCfg p) (v p)) s) := by
  induction l generalizing s with
  | nil => exact ⟨rfl, rfl⟩
  | cons p l ih =>
    have hp := ChipKept.portCfg s p (v p) hj
    exact hp.trans (ih _ ((congrArg Beat.joined hp.1).trans hj))

/-- The row of TETHER_CHIP. -/
def chipRow : RegRow := ⟨false, 0xA000004, 1, 0x4, [⟨0, 10, .rw, 0x0⟩, ⟨10, 16, .rw, 0x0⟩]⟩

theorem regFind_chip : regFind rTetherChip = some chipRow := by decide +kernel

theorem fld_chipRow_after (old v : Word) : fld (chipRow.after false old v) 0 10 = v.toNat % 1024 := by
  have hmask : (chipRow.after false old v).setWidth 10 = v.setWidth 10 := by
    unfold RegRow.after
    extract_lets rw w1c w1s
    rw [show rw = 0x3FFFFFF#32 from by decide, show w1c = 0#32 from by decide, show w1s = 0#32 from by decide]
    simp only [BitVec.and_zero, BitVec.not_zero, BitVec.and_allOnes, BitVec.or_zero, BitVec.setWidth_or, BitVec.setWidth_and]
    rw [show (0x3FFFFFF#32).setWidth 10 = BitVec.allOnes 10 from by decide, show (~~~0x3FFFFFF#32).setWidth 10 = 0#10 from by decide,
      BitVec.and_zero, BitVec.zero_or, BitVec.and_allOnes]
  have h := congrArg BitVec.toNat hmask
  rw [BitVec.toNat_setWidth, BitVec.toNat_setWidth] at h
  unfold fld
  rw [Nat.pow_zero, Nat.div_one]
  exact h

/-- What FLIGHT writes to the configuration of a port. -/
def flightPortWord (b : FlightBody) (p : Fin 8) : Word :=
  let r := b.ports.getD p.val ⟨false, 0, 0, 0⟩
  BitVec.ofNat 32 (bn r.en + r.peer % 1024 * 2 + r.peerPort % 8 * 2 ^ 11 + r.dNom % 1024 * 2 ^ 14)

theorem State.setFlight_frame (s : State) (b : FlightBody) (hj : s.beat.joined = false) :
    (s.setFlight b).beat = s.beat ∧ fld ((s.setFlight b).rd rTetherChip) 0 10 = b.chip % 1024 := by
  unfold State.setFlight
  extract_lets s1 w s2 s3 s4
  have hs1 : s1 = s.writeTyped originFw rTetherChip (BitVec.ofNat 32 (b.chip % 1024 + b.tag % 65536 * 1024)) := by
    dsimp only [s1]
    unfold State.fwWrite
    rw [State.writeReg_tether (by decide) (by decide)]
    unfold State.writeTether
    rw [if_neg fun e => absurd (hj.symm.trans e.2) (by decide), if_neg (by decide), if_neg (by decide)]
  have hbeat1 : s1.beat = s.beat := by
    rw [hs1]
    exact Only.writeTyped (ch := [.regs, .sc]) s originFw _ _ (by decide) (by decide) .beat (by decide)
  have hchip1 : fld (s1.rd rTetherChip) 0 10 = b.chip % 1024 := by
    rw [hs1, State.rd_writeTyped regFind_chip (by decide) (by decide), show (decide (rTetherChip = rScJtag) && _) = false from rfl, fld_chipRow_after,
      BitVec.toNat_ofNat]
    omega
  have h2 : ChipKept s1 s2 := by
    have hlow (x : Word) {m : Nat} (hm : m < 3) : bit (setFld x 3 5 b.rounds) m = bit x m := by
      rw [bit_eq_fld, fld_setFld_below _ _ _ _ _ _ (by decide) (by omega), ← bit_eq_fld]
    refine .joinCtl s1 ?_ ?_
    · rw [hlow _ (by decide), bit_setFld_other _ _ _ _ (by decide) (by decide), bit_setFld_other _ _ _ _ (by decide) (by decide),
        bit_setFld_zero _ _ (by decide)]
    · rw [hlow _ (by decide), bit_setFld_other _ _ _ _ (by decide) (by decide), bit_setFld_zero _ _ (by decide)]
  have hj2 : s2.beat.joined = false := (congrArg Beat.joined (h2.1.trans hbeat1)).trans hj
  have h3 : ChipKept s2 s3 := by
    have hlen := ChipKept.tbWrite s2 (BitVec.ofNat 32 b.beatLen) hj2 (.inl rfl)
    exact hlen.trans (.tbWrite _ _ ((congrArg Beat.joined hlen.1).trans hj2) (.inr rfl))
  have h4 : ChipKept s2 s4 := h3.trans ⟨rfl, rfl⟩
  have hj4 : s4.beat.joined = false := (congrArg Beat.joined h4.1).trans hj2
  have h5 := ChipKept.portCfgs (List.finRange 8) (flightPortWord b) s4 hj4
  obtain ⟨hbeat, hchip⟩ := h2.trans (h4.trans h5)
  exact ⟨hbeat.trans hbeat1, (congrArg (fld · 0 10) hchip).trans hchip1⟩

end Sys2Proof.Machine

/-! ### Images are placed; bindings wait (07 R209, R211, R213, R215) -/

namespace Sys2Proof.Machine

open Sys2Proof

theorem Only.placeSections (s : State) (p : Prog) : Only writtenGroups s (s.placeSections p) := by
  unfold State.placeSections
  extract_lets s1
  have hput (x : Section) (t : State) (l : List Nat) : Only writtenGroups t (l.foldl (fun u c => u.loaderPut p c x.addr x.fill) t) :=
    .foldl (fun (u : State) (c : Nat) => u.loaderPut p c x.addr x.fill) l t fun u c => .writeG u _
  have hsections : Only writtenGroups s s1 := .foldl (fun (t : State) (x : Section) => (p.image.coresOf x).foldl
    (fun u c => u.loaderPut p c x.addr x.fill) t) _ s fun t x => hput x t _
  refine hsections.trans (.foldl (fun (t : State) (r : Nat × Nat) => p.image.cores.foldl
    (fun u c => u.loaderPut p c r.2 (Config.routineWords r.1)) t) _ _ fun t r => ?_)
  exact .foldl (fun (u : State) (c : Nat) => u.loaderPut p c r.2 (Config.routineWords r.1)) _ t fun u c => .writeG u _

/-- An image that passes every check finds bases and a slot. -/
theorem State.loadCheck_room {s : State} {part : Nat} {l : Load} (h : s.loadCheck part l = 0) :
    (freeBases (s.part part).progs (imageOf l.bytes)).isSome = true ∧ (freeSlot (s.part part).progs (imageOf l.bytes).transit).isSome = true := by
  unfold State.loadCheck at h
  extract_lets b m q streams at h
  have hroom : ¬((freeBases q.progs m).isNone = true ∨ (freeSlot q.progs m.transit).isNone = true ∨ m.routines.isNone = true) := by
    intro hno
    rw [if_pos hno] at h
    split_ifs at h
  simp only [not_or, Option.isNone_iff_eq_none, ← Option.isSome_iff_ne_none] at hroom
  exact ⟨hroom.1, hroom.2.1⟩

theorem State.loadDone_frame {s : State} {l : Load} (h : s.loadCheck l.part l = 0) :
    (s.loadDone l).loads = s.loads ∧ ∃ pr : Prog, ((s.loadDone l).part l.part).progs = (s.part l.part).progs ++ [pr] ∧ pr.handle = l.handle
      ∧ pr.image = imageOf l.bytes := by
  obtain ⟨hbases, hslot⟩ := State.loadCheck_room h
  obtain ⟨b, hb⟩ := Option.isSome_iff_exists.mp hbases
  obtain ⟨k, hk⟩ := Option.isSome_iff_exists.mp hslot
  unfold State.loadDone
  extract_lets q m
  rw [show freeBases q.progs m = some b from hb, show freeSlot q.progs m.transit = some k from hk]
  dsimp only
  refine ⟨(Only.placeSections s _ .loads (by decide)),
    { slot := k, handle := l.handle, image := m, base0 := b.1, base1 := b.2.1, base2 := b.2.2, routines := m.routines.getD [] }, ?_, rfl, rfl⟩
  rw [State.part_updPart, if_pos rfl, Only.placeSections s _ .parts (by decide) l.part]

/-- An operation on a partition that has none pending waits, with the TC at which it came. -/
theorem State.takePartOp_waits {s : State} {ok : Bool} {o : PartOp} (hok : ok = true) (hfree : o.part = 0xFFFF ∨ s.partBusy o.part = false) :
    s.takePartOp ok o = { s with partOps := s.partOps ++
      [{ o with bind := o.bind.map fun b => { b with group := b.group % 2048 }, tc := s.tb.tc }] } := by
  unfold State.takePartOp
  exact if_neg (by rcases hfree with e | e <;> simp [hok, e])

theorem State.takePartOp_busy {s : State} {ok : Bool} {o : PartOp} (hpart : o.part ≠ 0xFFFF) (hbusy : s.partBusy o.part = true) :
    s.takePartOp ok o = s.complete o.sess o.tag o.op 1 0x13 0 0 := by
  unfold State.takePartOp
  exact if_pos (.inr ⟨hpart, hbusy⟩)

/-- Settles O27. -/
theorem loaderOperations : Obligations.LoaderOperations := by
  unfold Obligations.LoaderOperations
  intro s s1 h c b keep bytes handle l fb x op body hm
  obtain ⟨⟨i, hw⟩, hsec⟩ := hm
  have hunbind := exec_manage hw hsec (show exec (.unbind h c keep) s = .next (s.manage h c 0x25 _) from rfl)
  have hbind := exec_managePlan hw hsec (show exec (.bind h c b) s = .next (s.managePlan h c 0x24 b 0 _) from rfl)
  have hrebind := exec_managePlan hw hsec (show exec (.rebind h c b keep) s = .next (s.managePlan h c 0x26 b keep _) from rfl)
  have htransit := exec_managePlan hw hsec (show exec (.transit h c b) s = .next (s.managePlan h c 0x27 b 0 _) from rfl)
  have hflight := exec_manage hw hsec (show exec (.flight h c fb) s = .next (s.manage h c 0x28 _) from rfl)
  have hjoin := exec_manage hw hsec (show exec (.join h c) s = .next (s.manage h c 0x29 _) from rfl)
  have honly (l : List PartOp) : Only [.partOps] s1 { s1 with partOps := l } := .partOps _ _ (by decide)
  refine ⟨fun hfree => ?_, fun hfind hfree => ?_, fun hlt hfree => ⟨fun hidle hprog => ?_, fun hbound => ?_, fun hbound hprog => ?_⟩,
    fun hall => ?_, fun hprog => ?_, fun hlt hbusy => ⟨?_, ?_, ?_⟩, fun hj => ?_, fun hj => ⟨fun hstep => ?_, fun hstep => ?_⟩, fun hj => ⟨?_, ?_⟩⟩
  · have hexec := exec_manage hw hsec (show exec (.loadBegin h c bytes) s = .next (s.manage h c 0x22 _) from rfl)
    dsimp only at hexec
    rw [if_neg (by rcases hfree with e | e <;> simp [e])] at hexec
    have hmc : Only [.loads, .mc] s1 { s1 with mc := { s1.mc with handle := s1.mc.handle + 1 } } := .mc _ _ (by decide)
    exact .of_eq hexec ⟨_, rfl, rfl, rfl, hmc.trans (.loads _ _ (by decide))⟩
  · intro s2 code
    have hexec := exec_manage hw hsec (show exec (.loadEnd h c handle) s = .next (s.manage h c 0x23 _) from rfl)
    dsimp only at hexec
    rw [hfind] at hexec
    dsimp only at hexec
    rw [if_neg (by rcases hfree with e | e <;> simp [e])] at hexec
    have hmatch : l.handle = handle ∧ l.session = x.uid := by simpa using List.find?_some hfind
    have hhandle := hmatch.1
    by_cases hcode : code = 0
    · obtain ⟨hloads, pr, hprogs, hpr, himage⟩ := State.loadDone_frame hcode
      rw [if_neg (not_not.mpr hcode)] at hexec
      have hdone := Only.completed (s2.loadDone l) x.uid c.tag 0x23 0 0 0 0
      refine .of_eq hexec ⟨Eq.trans (hdone .loads (by decide)) hloads, fun _ => ⟨rfl, pr, ?_, hpr.trans hhandle, himage⟩, fun e => absurd hcode e⟩
      exact (congrArg Part.progs (hdone .parts (by decide) l.part)).trans hprogs
    · rw [if_pos hcode] at hexec
      have hlog : Only [.regs, .out, .sess, .neigh, .sc] s2 (s2.loadRefused l.part code) := .log _ _ _ _ _ _ _ (by decide) (by decide)
      have hdone := Only.completed (s2.loadRefused l.part code) x.uid c.tag 0x23 1 code 0 0
      exact .of_eq hexec ⟨Eq.trans (hdone .loads (by decide)) (hlog .loads (by decide)), fun e => absurd e hcode, fun _ => rfl⟩
  · rw [State.takePartOp_waits (by simp [hlt, hidle, hprog]) (.inr hfree)] at hbind
    exact .of_eq hbind ⟨rfl, honly _⟩
  · rw [State.takePartOp_waits (by simp [hlt, hbound]) (.inr hfree)] at hunbind
    exact .of_eq hunbind ⟨rfl, honly _⟩
  · rw [State.takePartOp_waits (by simp [hlt, hbound, hprog]) (.inr hfree)] at hrebind
    exact .of_eq hrebind ⟨rfl, honly _⟩
  · rw [hall, State.takePartOp_waits (by simp) (.inl rfl)] at hunbind
    exact .of_eq hunbind ⟨rfl, honly _⟩
  · rw [State.takePartOp_waits hprog (.inl rfl)] at htransit
    exact .of_eq htransit ⟨rfl, honly _⟩
  · rw [State.takePartOp_busy (by dsimp only; omega) hbusy] at hbind
    exact .of_eq hbind rfl
  · rw [State.takePartOp_busy (by dsimp only; omega) hbusy] at hunbind
    exact .of_eq hunbind rfl
  · rw [State.takePartOp_busy (by dsimp only; omega) hbusy] at hrebind
    exact .of_eq hrebind rfl
  · rw [if_neg (ne_true_of_eq_false hj)] at hflight
    obtain ⟨hbeat, hchip⟩ := s1.setFlight_frame fb hj
    have hdone := Only.completed (s1.setFlight fb) x.uid c.tag 0x28 0 0 0 0
    refine .of_eq hflight ⟨rfl, ?_, Eq.trans (hdone .beat (by decide)) hbeat⟩
    rw [State.rd_complete _ _ _ _ _ _ _ _ (fun ep _ => by unfold rTetherChip rIoEpTx; omega), hchip]
  · dsimp only at hjoin
    rw [if_neg (ne_true_of_eq_false hj), if_neg hstep] at hjoin
    exact .of_eq hjoin rfl
  · dsimp only at hjoin
    rw [if_neg (ne_true_of_eq_false hj), if_pos hstep] at hjoin
    exact .of_eq hjoin rfl
  · rw [if_pos hj] at hflight
    exact .of_eq hflight rfl
  · rw [if_pos hj] at hjoin
    exact .of_eq hjoin rfl

end Sys2Proof.Machine

/-! ### Routers of the drift network (09 R268) -/

namespace Sys2Proof.Machine

open Sys2Proof

theorem State.router_setRouter (s : State) (x y a b : Nat) (r : Router) :
    (s.setRouter x y r).router a b = if b * 16 + a = y * 16 + x then r else s.router a b := Laws.get_set _ _ _ _ _

theorem State.router_setRouter_same (s : State) (x y : Nat) (r : Router) : (s.setRouter x y r).router x y = r := by
  rw [State.router_setRouter, if_pos rfl]

theorem State.router_setRouter_ne (s : State) {x y a b : Nat} (r : Router) (h : b * 16 + a ≠ y * 16 + x) :
    (s.setRouter x y r).router a b = s.router a b := by rw [State.router_setRouter, if_neg h]

theorem Only.setRouter {ch : List Grp} (s : State) (x y : Nat) (r : Router) (h : Grp.drift ∈ ch) : Only ch s (s.setRouter x y r) := .drift s _ h

/-! #### Placing -/

/-- The packets on the inputs of a router, with their inputs. -/
def arrivedAt (ins : Vector (Option Packet) 4) : List (Nat × Packet) :=
  [0, 1, 2, 3].filterMap fun i => (ins.toList.getD i none).map fun p => (i, p)

/-- They, in visiting order. -/
def visited (now : BitVec 16) (arrived : List (Nat × Packet)) : List (Nat × Packet) :=
  (arrived.foldl (fun l x => insertPacket now x.2 l) []).filterMap fun p => arrived.find? fun x => decide (x.2 = p)

/-- No input holds a packet. -/
abbrev noIns : Vector (Option Packet) 4 := Vector.replicate 4 none

/-- No output queue holds one. -/
abbrev noOuts : Vector (List Packet) 4 := Vector.replicate 4 []

theorem visited_one (now : BitVec 16) (i : Fin 4) (p : Packet) : visited now (arrivedAt (noIns.set i (some p))) = [(i.val, p)] := by
  have harr : arrivedAt (noIns.set i (some p)) = [(i.val, p)] := by fin_cases i <;> rfl
  simp [harr, visited, insertPacket]

/-- Visiting order is strict. -/
theorem Packet.before_asymm {now : BitVec 16} {p q : Packet} (h : p.before now q = true) : q.before now p = false := by
  unfold Packet.before at *
  split_ifs at * <;> simp_all <;> omega

theorem arrivedAt_two {i j : Fin 4} (hlt : i < j) (p q : Packet) :
    arrivedAt ((noIns.set i (some p)).set j (some q)) = [(i.val, p), (j.val, q)] := by
  have hpairs : (i = 0 ∧ j = 1) ∨ (i = 0 ∧ j = 2) ∨ (i = 0 ∧ j = 3) ∨ (i = 1 ∧ j = 2) ∨ (i = 1 ∧ j = 3) ∨ (i = 2 ∧ j = 3) := by
    revert i j
    decide
  rcases hpairs with ⟨rfl, rfl⟩ | ⟨rfl, rfl⟩ | ⟨rfl, rfl⟩ | ⟨rfl, rfl⟩ | ⟨rfl, rfl⟩ | ⟨rfl, rfl⟩ <;> rfl

theorem visited_two {now : BitVec 16} {i j : Fin 4} {p q : Packet} (hij : i ≠ j) (h : p.before now q = true) :
    visited now (arrivedAt ((noIns.set i (some p)).set j (some q))) = [(i.val, p), (j.val, q)] := by
  have hpq : p ≠ q := by
    rintro rfl
    exact absurd (h.symm.trans (Packet.before_asymm h)) (by decide)
  have harr : arrivedAt ((noIns.set i (some p)).set j (some q)) = [(i.val, p), (j.val, q)]
      ∨ arrivedAt ((noIns.set i (some p)).set j (some q)) = [(j.val, q), (i.val, p)] := by
    rcases lt_or_gt_of_ne hij with hlt | hlt
    · exact .inl (arrivedAt_two hlt p q)
    · exact .inr ((congrArg arrivedAt (Vector.set_comm (some p) (some q) (Fin.val_ne_of_ne hij))).trans (arrivedAt_two hlt q p))
  rcases harr with e | e
  · simp [e, visited, insertPacket, Packet.before_asymm h, hpq]
  · simp [e, visited, insertPacket, h, hpq.symm]

theorem State.place_home {s : State} {px py n : Nat} {p : Packet} (h : s.driftHome p.dst = (px, py)) (hn : 0 < n) :
    s.place px py p n = some (s.ejected p, n - 1) := if_pos ⟨h, hn⟩

theorem State.place_out {s : State} {px py n o : Nat} {p : Packet} (h : s.driftHome p.dst ≠ (px, py))
    (ho : chooseOut (s.router px py) px py (s.driftHome p.dst).1 (s.driftHome p.dst).2 = some o) :
    s.place px py p n = some (s.setRouter px py ((s.router px py).setOut o ((s.router px py).outs.toList.getD o [] ++ [hopped p])), n) := by
  unfold State.place
  dsimp only
  rw [if_neg fun e => h e.1, ho]
  rfl

theorem State.placeAll_cons {s u : State} {px py i n m : Nat} {p : Packet} (l : List (Nat × Packet))
    (h : (s.setRouter px py ((s.router px py).setIn i none)).place px py p n = some (u, m)) :
    s.placeAll px py ((i, p) :: l) n = u.placeAll px py l m := by
  rw [State.placeAll, h]

/-! #### What a packet on its way takes -/

/-- With every queue empty a packet takes the output to the east or west that shortens its path, else the one north or south. -/
theorem chooseOut_east {r : Router} {px py dx dy : Nat} (hr : r.outs = noOuts) (h : px < dx) (hd : dx < 16) :
    chooseOut r px py dx dy = some 1 := by
  have h1 : px < 15 := by omega
  have h2 : ¬ dx < px := by omega
  unfold chooseOut
  rw [hr]
  simp [driftEdge, productive, List.filter_cons, h, h1, h2]
  split_ifs <;> simp_all

theorem chooseOut_west {r : Router} {px py dx dy : Nat} (hr : r.outs = noOuts) (h : dx < px) : chooseOut r px py dx dy = some 3 := by
  have h1 : 0 < px := by omega
  have h2 : ¬ px < dx := by omega
  unfold chooseOut
  rw [hr]
  simp [driftEdge, productive, List.filter_cons, h, h1, h2]
  split_ifs <;> simp_all

theorem chooseOut_north {r : Router} {px py dy : Nat} (hr : r.outs = noOuts) (h : dy < py) : chooseOut r px py px dy = some 0 := by
  have h1 : 0 < py := by omega
  have h2 : ¬ py < dy := by omega
  unfold chooseOut
  rw [hr]
  simp [driftEdge, productive, List.filter_cons, h, h1, h2]

theorem chooseOut_south {r : Router} {px py dy : Nat} (hr : r.outs = noOuts) (h : py < dy) (hd : dy < 16) :
    chooseOut r px py px dy = some 2 := by
  have h1 : py < 15 := by omega
  have h2 : ¬ dy < py := by omega
  unfold chooseOut
  rw [hr]
  simp [driftEdge, productive, List.filter_cons, h, h1, h2]
  split_ifs <;> simp_all

/-- With the last entry of the output north free a packet takes it, also where the others are emptier. -/
theorem chooseOut_north_last {r : Router} {px py dy : Nat} {a : Packet} (hr : r.outs = noOuts.set 0 [a]) (h : dy < py) :
    chooseOut r px py px dy = some 0 := by
  have h1 : 0 < py := by omega
  have h2 : ¬ py < dy := by omega
  unfold chooseOut
  rw [hr]
  simp [driftEdge, productive, List.filter_cons, h, h1, h2]

/-- With it full it is deflected to the east. -/
theorem chooseOut_north_full {r : Router} {px py dy : Nat} {a b : Packet} (hr : r.outs = noOuts.set 0 [a, b]) (h : dy < py) (hx : px < 15) :
    chooseOut r px py px dy = some 1 := by
  have h1 : 0 < py := by omega
  have h2 : ¬ py < dy := by omega
  unfold chooseOut
  rw [hr]
  simp [driftEdge, productive, List.filter_cons, h, h1, h2, hx]
  split_ifs <;> simp_all

end Sys2Proof.Machine

/-! ### Outputs send, endpoints inject (09 R268, R269) -/

namespace Sys2Proof.Machine

open Sys2Proof

/-! #### Draining -/

/-- Where an output leads. -/
def nextX (px o : Nat) : Nat := if o = 1 then px + 1 else if o = 3 then px - 1 else px

/-- Where an output leads. -/
def nextY (py o : Nat) : Nat := if o = 0 then py - 1 else if o = 2 then py + 1 else py

/-- One output sends its oldest packet where the neighbour's input is empty. -/
def State.drainOut (t : State) (px py o : Nat) : State :=
  match (t.router px py).outs.toList.getD o [] with
  | [] => t
  | p :: rest =>
    if ((t.router (nextX px o) (nextY py o)).ins.toList.getD ((o + 2) % 4) none).isNone then
      (t.setRouter px py ((t.router px py).setOut o rest)).setRouter (nextX px o) (nextY py o)
        (((t.setRouter px py ((t.router px py).setOut o rest)).router (nextX px o) (nextY py o)).setIn ((o + 2) % 4) (some p))
    else t

theorem State.drain_eq (s : State) (px py : Nat) :
    s.drain px py = [0, 1, 2, 3].foldl (fun t o => t.drainOut px py o) s := rfl

theorem State.drainOut_empty {s : State} {px py o : Nat} (h : (s.router px py).outs.toList.getD o [] = []) : s.drainOut px py o = s := by
  unfold State.drainOut
  rw [h]

theorem State.drain_empty {s : State} {px py : Nat} (h : (s.router px py).outs = noOuts) : s.drain px py = s := by
  have hout (o : Nat) (ho : o < 4) : s.drainOut px py o = s := State.drainOut_empty (by rw [h]; interval_cases o <;> rfl)
  rw [State.drain_eq]
  simp only [List.foldl_cons, List.foldl_nil, hout 0 (by decide), hout 1 (by decide), hout 2 (by decide), hout 3 (by decide)]

theorem Only.drainOut (s : State) (px py o : Nat) : Only [.drift] s (s.drainOut px py o) := by
  unfold State.drainOut
  split
  · exact .refl _ s
  · exact .ite ((Only.setRouter s _ _ _ (by decide)).trans (.setRouter _ _ _ _ (by decide))) (.refl _ s)

theorem Only.drain (s : State) (px py : Nat) : Only [.drift] s (s.drain px py) :=
  .foldl (fun (t : State) (o : Nat) => t.drainOut px py o) _ s fun t o => .drainOut t px py o

/-- An output sends on: what its neighbour gets, what stays. -/
theorem State.drainOut_sends {s : State} {px py o : Nat} {p : Packet} {rest : List Packet}
    (hout : (s.router px py).outs.toList.getD o [] = p :: rest)
    (hne : nextY py o * 16 + nextX px o ≠ py * 16 + px)
    (hin : (s.router (nextX px o) (nextY py o)).ins.toList.getD ((o + 2) % 4) none = none) :
    (s.drainOut px py o).router px py = (s.router px py).setOut o rest
      ∧ (s.drainOut px py o).router (nextX px o) (nextY py o) = (s.router (nextX px o) (nextY py o)).setIn ((o + 2) % 4) (some p) := by
  unfold State.drainOut
  rw [hout]
  dsimp only
  rw [if_pos (by rw [hin]; rfl)]
  rw [State.router_setRouter_same, State.router_setRouter_ne _ _ hne.symm, State.router_setRouter_same, State.router_setRouter_ne _ _ hne]
  exact ⟨rfl, rfl⟩

/-- Whether it sends or not: other routers, the router's own inputs and its other outputs stand. -/
theorem State.drainOut_others (s : State) {px py o : Nat} (ho : o < 4) (hne : nextY py o * 16 + nextX px o ≠ py * 16 + px) :
    ((s.drainOut px py o).router px py).ins = (s.router px py).ins
      ∧ (∀ k, k ≠ o → ((s.drainOut px py o).router px py).outs.toList.getD k [] = (s.router px py).outs.toList.getD k [])
      ∧ ∀ a b, b * 16 + a ≠ py * 16 + px → b * 16 + a ≠ nextY py o * 16 + nextX px o → (s.drainOut px py o).router a b = s.router a b := by
  unfold State.drainOut
  split
  · exact ⟨rfl, fun _ _ => rfl, fun _ _ _ _ => rfl⟩
  next p rest _ =>
    split
    · rw [State.router_setRouter_ne _ _ hne.symm, State.router_setRouter_same, Router.setOut, dif_pos ho]
      refine ⟨rfl, fun k hk => ?_, fun a b h1 h2 => ?_⟩
      · simp [List.getD_eq_getElem?_getD, hk.symm]
      · rw [State.router_setRouter_ne _ _ h2, State.router_setRouter_ne _ _ h1]
    · exact ⟨rfl, fun _ _ => rfl, fun _ _ _ _ => rfl⟩

/-! #### Nothing is injected -/

/-- What decides whether an endpoint at a router injects stands. -/
def Quiet (px py : Nat) (s t : State) : Prop :=
  t.fuses = s.fuses ∧ t.drift.waiting = s.drift.waiting ∧ t.drift.outst = s.drift.outst ∧ (t.router px py).last = (s.router px py).last

theorem Quiet.trans {px py : Nat} {r s t : State} (h : Quiet px py r s) (k : Quiet px py s t) : Quiet px py r t := by
  obtain ⟨h1, h2, h3, h4⟩ := h
  obtain ⟨k1, k2, k3, k4⟩ := k
  exact ⟨k1.trans h1, k2.trans h2, k3.trans h3, k4.trans h4⟩

theorem Quiet.setRouter {px py : Nat} (s : State) {r : Router} (h : r.last = (s.router px py).last) : Quiet px py s (s.setRouter px py r) :=
  ⟨rfl, rfl, rfl, by rw [State.router_setRouter_same, h]⟩

theorem Router.last_setIn (r : Router) (i : Nat) (p : Option Packet) : (r.setIn i p).last = r.last := by
  unfold Router.setIn
  split <;> rfl

theorem Router.last_setOut (r : Router) (o : Nat) (q : List Packet) : (r.setOut o q).last = r.last := by
  unfold Router.setOut
  split <;> rfl

theorem Quiet.inject {px py : Nat} {s t : State} (h : Quiet px py s t) (hno : ∀ k ∈ s.portsAt px py, s.mayInject k = false) (n : Nat) :
    t.inject px py n = t := by
  obtain ⟨hfuses, hwaiting, houtst, hlast⟩ := h
  have hports : t.portsAt px py = s.portsAt px py := by
    have hhome (ep : Nat) : t.driftHome ep = s.driftHome ep := by simp only [State.driftHome, State.physRow, hfuses]
    have hexists (c : Nat) : t.coreExists c = s.coreExists c := by rw [State.coreExists, State.coreExists, State.rows, State.rows, hfuses]
    unfold State.portsAt State.endpointsAt
    simp only [hhome, hexists, hlast]
  have hmay (k : Nat) : t.mayInject k = s.mayInject k := by
    have hwait : t.waitingAt k = s.waitingAt k := congrArg (fun w => Sparse.get _ w k) hwaiting
    have hout : t.outstAt k = s.outstAt k := congrArg (fun w => Sparse.get _ w k) houtst
    unfold State.mayInject
    rw [hwait, hout]
  unfold State.inject
  rw [hports, List.find?_eq_none.mpr fun k hk => by rw [hmay, hno k hk]; decide]

/-- A cycle of a router places what has arrived, and sends. -/
theorem runs_router {s u : State} {px py : Fin 16} {ins : Vector (Option Packet) 4} {outs : Vector (List Packet) 4} {l : List (Nat × Packet)} {n : Nat}
    {P : State → Prop} (hat : RouterAt s px py ins outs) (hl : visited s.driftNow (arrivedAt ins) = l)
    (hplace : s.placeAll px.val py.val l 2 = (u, n)) (hquiet : Quiet px.val py.val s u) (hP : P (u.drain px.val py.val)) :
    Runs (.driftRouterCycle px py none) s P := by
  obtain ⟨hins, -, hno⟩ := hat
  have hexec : exec (.driftRouterCycle px py none) s = .next (((s.placeAll px.val py.val (visited s.driftNow
      (arrivedAt (s.router px.val py.val).ins)) 2).1.inject px.val py.val (s.placeAll px.val py.val (visited s.driftNow
      (arrivedAt (s.router px.val py.val).ins)) 2).2).drain px.val py.val) := rfl
  rw [hins, hl, hplace, hquiet.inject hno] at hexec
  exact .of_eq hexec hP

end Sys2Proof.Machine

/-! ### Packets leave the drift network, routers pass them on (09 R268 to R271) -/

namespace Sys2Proof.Machine

open Sys2Proof

/-! #### Ejection -/

/-- An ejected packet counted at its endpoint (09 R270, R271, R275). -/
def State.ejectCounted (s : State) (ep : Nat) (p : Packet) (r : List Packet) : State :=
  let key := p.src * 65536 + p.dst
  let s1 := { s with drift := { s.drift with
    arrived := Sparse.set (fun _ => []) s.drift.arrived ep r
    counts := Sparse.set (fun _ => 0) s.drift.counts key (Sparse.get (fun _ => (0 : Word)) s.drift.counts key + 1) } }
  if ep < 0x100 then
    let t := s1.wr (rDriftRxCount ep) (s1.rd (rDriftRxCount ep) + 1)
    let u := if fld (t.rd (rDriftMaxLat ep)) 0 16 < p.age s.driftNow then t.wrF (rDriftMaxLat ep) 0 16 (p.age s.driftNow) else t
    if p.poison then u.setBit (rDriftStatus ep) 6 else u
  else s1

theorem exec_driftPacketEject {s : State} {ep : Nat} {p : Packet} {r : List Packet}
    (h : Sparse.get (fun _ => []) s.drift.arrived ep = p :: r) : exec (.driftPacketEject ep) s =
      let u := s.ejectCounted ep p r
      if takesInOrder ep then .next (u.holdEarly p)
      else if hasMailbox ep ∧ p.kind ≠ 0xFF ∧ p.kind ≠ 0xFE then .next (u.setMail ep (u.mailAt ep ++ [p]))
      else .next (u.apply p) := by
  show execDriftPacketEject ep s = _
  unfold execDriftPacketEject
  rw [h]
  rfl

/-- Counting changes what has arrived and the count of the pair alone, and registers where the endpoint is a core's. -/
theorem State.ejectCounted_frame (s : State) (ep : Nat) (p : Packet) (r : List Packet) :
    (s.ejectCounted ep p r).drift = { s.drift with
        arrived := Sparse.set (fun _ => []) s.drift.arrived ep r
        counts := Sparse.set (fun _ => 0) s.drift.counts (p.src * 65536 + p.dst)
          (Sparse.get (fun _ => (0 : Word)) s.drift.counts (p.src * 65536 + p.dst) + 1) }
      ∧ Only [.drift, .regs] s (s.ejectCounted ep p r) ∧ (0x100 ≤ ep → Only [.drift] s (s.ejectCounted ep p r))
      ∧ (ep < 0x100 → p.poison = true → bit ((s.ejectCounted ep p r).rd (rDriftStatus ep)) 6 = true) := by
  unfold State.ejectCounted
  extract_lets key d s1 t u
  have h1 : Only [.drift] s s1 := .drift _ _ (by decide)
  have ht : Only [.regs] s1 t := .wr _ _ _ (by decide)
  have hu : Only [.regs] t u := .ite (.wrF _ _ _ _ _ (by decide)) (.refl _ t)
  have hv : Only [.regs] u (if p.poison = true then u.setBit (rDriftStatus ep) 6 else u) := .ite (.setBit _ _ _ (by decide)) (.refl _ u)
  have hregs := ht.trans (hu.trans hv)
  split
  next hlt =>
    refine ⟨hregs .drift (by decide), (h1.mono (by decide)).trans (hregs.mono (by decide)), fun h => absurd hlt (by omega), fun _ hp => ?_⟩
    rw [if_pos hp, State.rd_setBit, if_pos rfl, bit_setFld_one _ _ (by decide)]
  next hlt => exact ⟨rfl, h1.mono (by decide), fun _ => h1, fun h => absurd h hlt⟩

/-- Only what waits at ports, is numbered or is outstanding differs. -/
def SameTaken (s t : State) : Prop :=
  Only [.drift] s t ∧ t.drift.arrived = s.drift.arrived ∧ t.drift.counts = s.drift.counts ∧ t.drift.mail = s.drift.mail
    ∧ t.drift.early = s.drift.early ∧ t.drift.expect = s.drift.expect

theorem SameTaken.refl (s : State) : SameTaken s s := ⟨.refl _ s, rfl, rfl, rfl, rfl, rfl⟩

theorem SameTaken.apply (s : State) (p : Packet) : SameTaken s (s.apply p) := by
  unfold State.apply
  split
  · unfold State.closeRequest
    split
    · exact ⟨.drift _ _ (by decide), rfl, rfl, rfl, rfl, rfl⟩
    · exact .refl s
  · unfold State.answer
    split
    · exact ⟨.drift _ _ (by decide), rfl, rfl, rfl, rfl, rfl⟩
    · exact .refl s

/-- A request of an endpoint that a port has outstanding is closed at the first such port. -/
theorem State.closeRequest_outst (s : State) (ep : Nat) :
    (∀ k, (portsOf ep).find? (fun k => decide (0 < s.outstAt k)) = some k → (s.closeRequest ep).outstAt k = s.outstAt k - 1
        ∧ ∀ j, j ≠ k → (s.closeRequest ep).outstAt j = s.outstAt j)
      ∧ ((∀ k ∈ portsOf ep, s.outstAt k = 0) → s.closeRequest ep = s) := by
  have hset (k n j : Nat) : (s.setOutst k n).outstAt j = if j = k then n else s.outstAt j := Laws.get_set _ _ _ _ _
  refine ⟨fun k hk => ?_, fun h => ?_⟩
  · unfold State.closeRequest
    rw [hk]
    exact ⟨(hset k _ k).trans (if_pos rfl), fun j hj => (hset k _ j).trans (if_neg hj)⟩
  · unfold State.closeRequest
    rw [List.find?_eq_none.mpr fun k hk => by simp [h k hk]]

/-- The packets that a receiver in order holds of a pair. -/
def State.earlyOf (s : State) (key : Nat) : List Packet := Sparse.get (fun _ => []) s.drift.early key

/-- The number it awaits next of the pair. -/
def State.wantOf (s : State) (key : Nat) : BitVec 16 := Sparse.get (fun _ => 0) s.drift.expect key

/-- The packet next in sequence is no longer held. -/
def State.earlyTaken (s : State) (key : Nat) : State :=
  { s with drift := { s.drift with
    early := Sparse.set (fun _ => []) s.drift.early key ((s.earlyOf key).filter fun x => decide (x.seq ≠ s.wantOf key))
    expect := Sparse.set (fun _ => 0) s.drift.expect key (s.wantOf key + 1) } }

theorem State.takeEarly_succ (s : State) (key n : Nat) : s.takeEarly key (n + 1) =
    match (s.earlyOf key).find? fun p => decide (p.seq = s.wantOf key) with
    | none => s
    | some p => ((s.earlyTaken key).apply p).takeEarly key n := rfl

theorem Only.takeEarly (s : State) (key n : Nat) : Only [.drift] s (s.takeEarly key n) := by
  induction n generalizing s with
  | zero => exact .refl _ s
  | succ n ih =>
    rw [State.takeEarly_succ]
    split
    · exact .refl _ s
    next p _ =>
      have h1 : Only [.drift] s (s.earlyTaken key) := .drift _ _ (by decide)
      exact h1.trans ((SameTaken.apply _ p).1.trans (ih _))

/-- The one next in sequence is taken. -/
theorem State.takeEarly_some {s : State} {key : Nat} (n : Nat) {p : Packet}
    (h : (s.earlyOf key).find? (fun p => decide (p.seq = s.wantOf key)) = some p) :
    ∃ t : State, s.takeEarly key (n + 1) = t.takeEarly key n ∧ t.earlyOf key = (s.earlyOf key).filter (fun x => decide (x.seq ≠ s.wantOf key))
      ∧ t.wantOf key = s.wantOf key + 1 := by
  obtain ⟨-, -, -, -, hearly, hexpect⟩ := SameTaken.apply (s.earlyTaken key) p
  refine ⟨(s.earlyTaken key).apply p, ?_, ?_, ?_⟩
  · rw [State.takeEarly_succ, h]
  · rw [State.earlyOf, hearly]
    exact Laws.get_set_same _ _ _ _
  · rw [State.wantOf, hexpect]
    exact Laws.get_set_same _ _ _ _

theorem State.takeEarly_none {s : State} {key : Nat} (n : Nat) (h : (s.earlyOf key).find? (fun p => decide (p.seq = s.wantOf key)) = none) :
    s.takeEarly key n = s := by
  cases n with
  | zero => rfl
  | succ n => rw [State.takeEarly_succ, h]

theorem Only.holdEarly (s : State) (p : Packet) : Only [.drift] s (s.holdEarly p) := by
  unfold State.holdEarly
  extract_lets key q d
  have h1 : Only [.drift] s { s with drift := { s.drift with early := Sparse.set (fun _ => []) s.drift.early key q } } := .drift _ _ (by decide)
  exact h1.trans (.takeEarly _ _ _)

/-- With one packet more held. -/
def State.earlyWith (s : State) (key : Nat) (p : Packet) : State :=
  { s with drift := { s.drift with early := Sparse.set (fun _ => []) s.drift.early key (s.earlyOf key ++ [p]) } }

theorem State.earlyOf_earlyWith (s : State) (key : Nat) (p : Packet) : (s.earlyWith key p).earlyOf key = s.earlyOf key ++ [p] :=
  Laws.get_set_same _ _ _ _

theorem State.wantOf_earlyWith (s : State) (key : Nat) (p : Packet) : (s.earlyWith key p).wantOf key = s.wantOf key := rfl

section
variable {s : State} {p q : Packet} {key : Nat} (hkey : p.src * 65536 + p.dst = key)
include hkey

theorem State.holdEarly_eq : s.holdEarly p = (s.earlyWith key p).takeEarly key (s.earlyOf key ++ [p]).length := by
  subst hkey
  rfl

/-- A packet that is early is held. -/
theorem State.holdEarly_early (hnone : s.earlyOf key = []) (hseq : p.seq ≠ s.wantOf key) :
    (s.holdEarly p).earlyOf key = [p] ∧ (s.holdEarly p).wantOf key = s.wantOf key := by
  have hheld : (s.earlyWith key p).earlyOf key = [p] := by rw [State.earlyOf_earlyWith, hnone, List.nil_append]
  have hfind : ((s.earlyWith key p).earlyOf key).find? (fun x => decide (x.seq = (s.earlyWith key p).wantOf key)) = none := by
    rw [hheld, State.wantOf_earlyWith]
    simp [hseq]
  rw [State.holdEarly_eq hkey, State.takeEarly_none _ hfind]
  exact ⟨hheld, rfl⟩

/-- The one awaited is taken, with none held. -/
theorem State.holdEarly_next (hnone : s.earlyOf key = []) (hseq : p.seq = s.wantOf key) :
    (s.holdEarly p).earlyOf key = [] ∧ (s.holdEarly p).wantOf key = s.wantOf key + 1 := by
  have hheld : (s.earlyWith key p).earlyOf key = [p] := by rw [State.earlyOf_earlyWith, hnone, List.nil_append]
  have hfind : ((s.earlyWith key p).earlyOf key).find? (fun x => decide (x.seq = (s.earlyWith key p).wantOf key)) = some p := by
    rw [hheld, State.wantOf_earlyWith]
    simp [hseq]
  obtain ⟨t, ht, hearly, hwant⟩ := State.takeEarly_some 0 hfind
  rw [State.holdEarly_eq hkey, hnone, List.nil_append]
  show (State.takeEarly _ key 1).earlyOf key = [] ∧ (State.takeEarly _ key 1).wantOf key = _
  rw [ht]
  refine ⟨hearly.trans ?_, hwant⟩
  rw [hheld, State.wantOf_earlyWith]
  simp [hseq]

/-- It is taken with the one after it, which was held. -/
theorem State.holdEarly_both (hone : s.earlyOf key = [q]) (hq : q.seq = s.wantOf key + 1) (hseq : p.seq = s.wantOf key) :
    (s.holdEarly p).earlyOf key = [] ∧ (s.holdEarly p).wantOf key = s.wantOf key + 2 := by
  have hne : s.wantOf key + 1 ≠ s.wantOf key := by bv_omega
  have hheld : (s.earlyWith key p).earlyOf key = [q, p] := by rw [State.earlyOf_earlyWith, hone]; rfl
  have hfind : ((s.earlyWith key p).earlyOf key).find? (fun x => decide (x.seq = (s.earlyWith key p).wantOf key)) = some p := by
    rw [hheld, State.wantOf_earlyWith]
    simp [hseq, hq]
  obtain ⟨t, ht, hearly, hwant⟩ := State.takeEarly_some 1 hfind
  have hleft : t.earlyOf key = [q] := by
    rw [hearly, hheld, State.wantOf_earlyWith]
    simp [hseq, hq]
  have hnext : t.wantOf key = s.wantOf key + 1 := hwant
  have hfind2 : (t.earlyOf key).find? (fun x => decide (x.seq = t.wantOf key)) = some q := by
    rw [hleft, hnext]
    simp [hq]
  obtain ⟨u, hu, hearly2, hwant2⟩ := State.takeEarly_some 0 hfind2
  rw [State.holdEarly_eq hkey, hone]
  show (State.takeEarly _ key 2).earlyOf key = [] ∧ (State.takeEarly _ key 2).wantOf key = _
  rw [ht, hu]
  refine ⟨hearly2.trans ?_, hwant2.trans ?_⟩
  · rw [hleft, hnext]
    simp [hq]
  · rw [hnext]
    bv_omega

end

end Sys2Proof.Machine

/-! ### A cycle of a router (09 R268, R273) -/

namespace Sys2Proof.Machine

open Sys2Proof

/-! #### What a cycle leaves alone -/

theorem Only.place {s u : State} {px py n m : Nat} {p : Packet} (h : s.place px py p n = some (u, m)) : Only [.drift] s u := by
  unfold State.place at h
  extract_lets d r at h
  split at h
  · obtain ⟨rfl, -⟩ := Prod.mk.inj (Option.some.inj h)
    exact .drift _ _ (by decide)
  · split at h
    · obtain ⟨rfl, -⟩ := Prod.mk.inj (Option.some.inj h)
      exact .setRouter _ _ _ _ (by decide)
    · cases h

theorem Only.placeAll (s : State) (px py : Nat) (l : List (Nat × Packet)) (n : Nat) : Only [.drift] s (s.placeAll px py l n).1 := by
  induction l generalizing s n with
  | nil => exact .refl _ s
  | cons x r ih =>
    obtain ⟨i, p⟩ := x
    rw [State.placeAll]
    have hin : Only [.drift] s (s.setRouter px py ((s.router px py).setIn i none)) := .setRouter _ _ _ _ (by decide)
    split
    next u m h => exact hin.trans ((Only.place h).trans (ih _ _))
    · exact ih _ _

theorem Only.inject (s : State) (px py n : Nat) : Only [.drift, .regs] s (s.inject px py n) := by
  unfold State.inject
  split
  · exact .refl _ s
  · split
    · exact .refl _ s
    · split
      · exact .refl _ s
      next t _ h =>
        extract_lets r1 t1 t2
        have hplace : Only [.drift, .regs] s t := (Only.place h).mono (by decide)
        have h1 : Only [.drift, .regs] t t1 := .drift _ _ (by decide)
        have h2 : Only [.drift, .regs] t1 t2 := .ite (.drift _ _ (by decide)) (.refl _ _)
        exact hplace.trans (h1.trans (h2.trans (.ite (.wr _ _ _ (by decide)) (.refl _ _))))

theorem Only.driftUpset (s : State) (px py : Nat) (u : DriftUpset) : Only [.drift, .regs, .beat, .sc] s (s.driftUpset px py u) := by
  unfold State.driftUpset
  extract_lets r
  split
  · exact .refl _ s
  · split
    · split
      · exact (Only.setBit _ _ _ (by decide)).trans (.bump _ _ (by decide))
      · exact .refl _ s
    · split
      · rename_i s1 d s2 _ _ _ _ _
        have h1 : Only [.drift, .regs, .beat, .sc] s s1 := .setRouter _ _ _ _ (by decide)
        have h2 : Only [.drift, .regs, .beat, .sc] s1 s2 := .drift _ _ (by decide)
        exact h1.trans (h2.trans ((Only.event _ _ _ _ _ _ _ (by decide) (by decide)).trans ((Only.setBit _ _ _ (by decide)).trans
          (.failBeat _ (by decide)))))
      · exact .setRouter _ _ _ _ (by decide)

theorem runs_driftRouterCycle (s : State) (px py : Fin 16) (up : Option DriftUpset) :
    Runs (.driftRouterCycle px py up) s fun t => Only [.drift, .regs, .beat, .sc] s t := by
  let s1 := match up with
    | some u => s.driftUpset px.val py.val u
    | none => s
  have hup : Only [.drift, .regs, .beat, .sc] s s1 := by
    cases up with
    | none => exact .refl _ s
    | some u => exact .driftUpset s _ _ u
  refine .of_eq rfl (hup.trans (Only.trans ?_ (((Only.inject _ _ _ _).mono (by decide)).trans ((Only.drain _ _ _).mono (by decide)))))
  exact (Only.placeAll s1 _ _ _ _).mono (by decide)

end Sys2Proof.Machine

/-! ### How a router places packets (09 R268) -/

namespace Sys2Proof.Machine

open Sys2Proof

theorem Router.ins_setIn (r : Router) (i : Fin 4) (p : Option Packet) : (r.setIn i.val p).ins = r.ins.set i p := by
  rw [Router.setIn, dif_pos i.isLt]

theorem Router.outs_setIn (r : Router) (i : Nat) (p : Option Packet) : (r.setIn i p).outs = r.outs := by
  unfold Router.setIn
  split <;> rfl

theorem Router.outs_setOut (r : Router) (o : Fin 4) (q : List Packet) : (r.setOut o.val q).outs = r.outs.set o q := by
  rw [Router.setOut, dif_pos o.isLt]

theorem Router.ins_setOut (r : Router) (o : Nat) (q : List Packet) : (r.setOut o q).ins = r.ins := by
  unfold Router.setOut
  split <;> rfl

theorem toList_getD {α : Type} (v : Vector α 4) (k : Nat) (h : k < 4) (d : α) : v.toList.getD k d = v[k] := by
  simp [List.getD_eq_getElem?_getD, h]

theorem State.driftHome_of_only {ch : List Grp} {s t : State} (h : Only ch s t) (hch : Grp.fuses ∉ ch) (ep : Nat) :
    t.driftHome ep = s.driftHome ep := by
  have hfuses : t.fuses = s.fuses := h .fuses hch
  simp only [State.driftHome, State.physRow, hfuses]

/-! #### One packet placed -/

section
variable {s : State} {px py n : Nat} {i o : Fin 4} {p : Packet}

/-- A packet at home is ejected. -/
theorem State.placeAll_home (l : List (Nat × Packet)) (h : s.driftHome p.dst = (px, py)) :
    ∃ u : State, s.placeAll px py ((i.val, p) :: l) (n + 1) = u.placeAll px py l n
      ∧ (u.router px py).ins = (s.router px py).ins.set i none ∧ (u.router px py).outs = (s.router px py).outs
      ∧ Sparse.get (fun _ => []) u.drift.arrived p.dst = Sparse.get (fun _ => []) s.drift.arrived p.dst ++ [p]
      ∧ Only [.drift] s u ∧ Quiet px py s u := by
  let s1 := s.setRouter px py ((s.router px py).setIn i.val none)
  have honly : Only [.drift] s s1 := .setRouter _ _ _ _ (by decide)
  have hrouter : (s1.ejected p).router px py = (s.router px py).setIn i.val none := s.router_setRouter_same px py _
  refine ⟨s1.ejected p, State.placeAll_cons l (State.place_home h (Nat.succ_pos n)), ?_, ?_, Laws.get_set_same _ _ _ _,
    honly.trans (.drift _ _ (by decide)), ?_⟩
  · rw [hrouter, Router.ins_setIn]
  · rw [hrouter, Router.outs_setIn]
  · exact (Quiet.setRouter s (Router.last_setIn _ _ _)).trans ⟨rfl, rfl, rfl, rfl⟩

/-- A packet on its way enters the queue of the output chosen for it, one hop on. -/
theorem State.placeAll_out (l : List (Nat × Packet)) (h : s.driftHome p.dst ≠ (px, py))
    (ho : ∀ r : Router, r.outs = (s.router px py).outs → chooseOut r px py (s.driftHome p.dst).1 (s.driftHome p.dst).2 = some o.val) :
    ∃ u : State, s.placeAll px py ((i.val, p) :: l) n = u.placeAll px py l n
      ∧ (u.router px py).ins = (s.router px py).ins.set i none
      ∧ (u.router px py).outs = (s.router px py).outs.set o ((s.router px py).outs[o] ++ [hopped p])
      ∧ (∀ a b, b * 16 + a ≠ py * 16 + px → u.router a b = s.router a b) ∧ Only [.drift] s u ∧ Quiet px py s u := by
  let s1 := s.setRouter px py ((s.router px py).setIn i.val none)
  have honly : Only [.drift] s s1 := .setRouter _ _ _ _ (by decide)
  have hrouter : s1.router px py = (s.router px py).setIn i.val none := s.router_setRouter_same px py _
  have hplace := State.place_out (s := s1) (px := px) (py := py) (n := n) (p := p) (o := o.val) h
    (ho _ (by rw [hrouter, Router.outs_setIn]))
  refine ⟨_, State.placeAll_cons l hplace, ?_, ?_, fun a b hab => ?_, honly.trans (.setRouter _ _ _ _ (by decide)), ?_⟩
  · rw [State.router_setRouter_same, Router.ins_setOut, hrouter, Router.ins_setIn]
  · rw [State.router_setRouter_same, Router.outs_setOut, hrouter, Router.outs_setIn, toList_getD _ _ o.isLt]
    rfl
  · rw [State.router_setRouter_ne _ _ hab]
    exact s.router_setRouter_ne _ hab
  · exact (Quiet.setRouter s (Router.last_setIn _ _ _)).trans (Quiet.setRouter s1 (Router.last_setOut _ _ _))

end

theorem noIns_one (i : Fin 4) (p : Packet) : (noIns.set i (some p)).set i none = noIns := by fin_cases i <;> rfl

theorem noIns_two {i j : Fin 4} (h : i ≠ j) (p q : Packet) : (((noIns.set i (some p)).set j (some q)).set i none).set j none = noIns := by
  rw [Vector.set_comm (some q) none (Fin.val_ne_of_ne h.symm), noIns_one i p]
  exact noIns_one j q

/-! #### One output that holds a packet -/

/-- An output alone with one packet sends it on. -/
theorem State.drain_one {u : State} {px py : Nat} {o : Fin 4} {h : Packet} (houts : (u.router px py).outs = noOuts.set o [h])
    (hne : nextY py o * 16 + nextX px o ≠ py * 16 + px)
    (hin : (u.router (nextX px o) (nextY py o)).ins[(o.val + 2) % 4] = none) :
    ((u.drain px py).router px py).ins = (u.router px py).ins ∧ ((u.drain px py).router px py).outs = noOuts
      ∧ ((u.drain px py).router (nextX px o) (nextY py o)).ins[(o.val + 2) % 4] = some h := by
  have hget (k : Nat) (hk : k < 4) (hko : k ≠ o.val) : (u.router px py).outs.toList.getD k [] = [] := by
    rw [houts, toList_getD _ _ hk]
    simp [hko.symm]
  obtain ⟨hhere, hthere⟩ := State.drainOut_sends (s := u) (px := px) (py := py) (o := o.val) (p := h) (rest := [])
    (by rw [houts, toList_getD _ _ o.isLt]; simp) hne (by rw [toList_getD _ _ (Nat.mod_lt _ (by decide))]; exact hin)
  have hout : ((u.drainOut px py o.val).router px py).outs = noOuts := by
    rw [hhere, Router.outs_setOut, houts]
    simp
  have hbefore (k : Nat) (hk : k < 4) (hko : k ≠ o.val) : u.drainOut px py k = u := State.drainOut_empty (hget k hk hko)
  have hafter (k : Nat) (hk : k < 4) : (u.drainOut px py o.val).drainOut px py k = u.drainOut px py o.val :=
    State.drainOut_empty (by rw [hout, toList_getD _ _ hk]; simp)
  have hdrain : u.drain px py = u.drainOut px py o.val := by
    rw [State.drain_eq]
    fin_cases o <;> simp_all
  rw [hdrain, hout, hthere, hhere, Router.ins_setOut]
  exact ⟨rfl, rfl, by rw [Router.ins_setIn _ ⟨(o.val + 2) % 4, Nat.mod_lt _ (by decide)⟩]; exact Vector.getElem_set_self _⟩

end Sys2Proof.Machine

/-! ### Packets leave the drift network, and routers pass them on (09 R266 to R273) -/

namespace Sys2Proof.Machine

open Sys2Proof

theorem Router.getElem_setIn (r : Router) (k : Nat) (h : k < 4) (p : Option Packet) : (r.setIn k p).ins[k] = p := by
  rw [Router.ins_setIn r ⟨k, h⟩]
  exact Vector.getElem_set_self _

/-- With a packet for the east and others for the north alone, the north sends first, then the east. -/
theorem State.drain_north_east {u : State} {px py : Nat} {x : Packet} (h1 : (u.router px py).outs.toList.getD 1 [] = [x])
    (h2 : (u.router px py).outs.toList.getD 2 [] = []) (h3 : (u.router px py).outs.toList.getD 3 [] = []) (hpy : 0 < py)
    (hin : (u.router (px + 1) py).ins[3] = none) :
    u.drain px py = (u.drainOut px py 0).drainOut px py 1 ∧ ((u.drain px py).router px py).ins = (u.router px py).ins
      ∧ ((u.drain px py).router (px + 1) py).ins[3] = some x
      ∧ ((u.drain px py).router px py).outs = ((u.drainOut px py 0).router px py).outs.set 1 []
      ∧ (u.drain px py).router px (py - 1) = (u.drainOut px py 0).router px (py - 1) := by
  have hnorth : nextY py 0 * 16 + nextX px 0 ≠ py * 16 + px := by unfold nextX nextY; simp; omega
  have heast : nextY py 1 * 16 + nextX px 1 ≠ py * 16 + px := by unfold nextX nextY; simp
  obtain ⟨hins0, houts0, hothers0⟩ := u.drainOut_others (o := 0) (by decide) hnorth
  have hneigh : (u.drainOut px py 0).router (nextX px 1) (nextY py 1) = u.router (px + 1) py :=
    hothers0 _ _ heast (by unfold nextX nextY; simp; omega)
  obtain ⟨hhere, hthere⟩ := State.drainOut_sends (s := u.drainOut px py 0) (o := 1) (p := x) (rest := [])
    ((houts0 1 (by decide)).trans h1) heast (by rw [hneigh, toList_getD _ _ (by decide)]; exact hin)
  obtain ⟨-, houts1, hothers1⟩ := (u.drainOut px py 0).drainOut_others (o := 1) (by decide) heast
  have hlast2 : ((u.drainOut px py 0).drainOut px py 1).drainOut px py 2 = (u.drainOut px py 0).drainOut px py 1 :=
    State.drainOut_empty ((houts1 2 (by decide)).trans ((houts0 2 (by decide)).trans h2))
  have hlast3 : ((u.drainOut px py 0).drainOut px py 1).drainOut px py 3 = (u.drainOut px py 0).drainOut px py 1 :=
    State.drainOut_empty ((houts1 3 (by decide)).trans ((houts0 3 (by decide)).trans h3))
  have hdrain : u.drain px py = (u.drainOut px py 0).drainOut px py 1 := by
    rw [State.drain_eq]
    simp only [List.foldl_cons, List.foldl_nil]
    rw [hlast2, hlast3]
  rw [hdrain]
  refine ⟨rfl, ?_, ?_, ?_, hothers1 _ _ (by omega) (by unfold nextX nextY; simp; omega)⟩
  · rw [hhere, Router.ins_setOut, hins0]
  · rw [hneigh] at hthere
    exact (congrArg (fun r : Router => r.ins[3]) hthere).trans (Router.getElem_setIn _ 3 (by decide) _)
  · rw [hhere]
    exact Router.outs_setOut _ 1 _

section
variable {s : State} {px py : Fin 16} {i j o : Fin 4} {p q a b : Packet}

/-- A packet alone in a router whose outputs are empty goes on by the output chosen for it. -/
theorem runs_one_way {P : State → Prop} (hat : RouterAt s px py (noIns.set i (some p)) noOuts) (hhome : s.driftHome p.dst ≠ (px.val, py.val))
    (hchoose : ∀ r : Router, r.outs = noOuts → chooseOut r px.val py.val (s.driftHome p.dst).1 (s.driftHome p.dst).2 = some o.val)
    (hne : nextY py.val o * 16 + nextX px.val o ≠ py.val * 16 + px.val)
    (hin : (s.router (nextX px.val o) (nextY py.val o)).ins[(o.val + 2) % 4] = none)
    (hP : ∀ t : State, (t.router px.val py.val).ins = noIns → (t.router px.val py.val).outs = noOuts →
      (t.router (nextX px.val o) (nextY py.val o)).ins[(o.val + 2) % 4] = some (hopped p) → Only [.drift] s t → P t) :
    Runs (.driftRouterCycle px py none) s P := by
  have ⟨hins, houts, _⟩ := hat
  obtain ⟨u, hplace, huins, huouts, hothers, honly, hquiet⟩ := State.placeAll_out (s := s) (n := 2) (i := i) [] hhome
    fun r hr => hchoose r (hr.trans houts)
  rw [hins, noIns_one] at huins
  rw [houts, Fin.getElem_fin, Vector.getElem_replicate] at huouts
  obtain ⟨hdins, hdouts, hnext⟩ := State.drain_one huouts hne (by rw [hothers _ _ hne]; exact hin)
  refine runs_router hat (visited_one _ i p) (hplace.trans rfl) hquiet (hP _ (hdins.trans huins) hdouts hnext (honly.trans (.drain u _ _)))

/-- A packet alone at home is ejected. -/
theorem runs_home (hat : RouterAt s px py (noIns.set i (some p)) noOuts) (hhome : s.driftHome p.dst = (px.val, py.val)) :
    Runs (.driftRouterCycle px py none) s fun t => Only [.drift] s t
      ∧ Sparse.get (fun _ => []) t.drift.arrived p.dst = Sparse.get (fun _ => []) s.drift.arrived p.dst ++ [p]
      ∧ (t.router px.val py.val).ins = noIns := by
  have ⟨hins, houts, _⟩ := hat
  obtain ⟨u, hplace, huins, huouts, harr, honly, hquiet⟩ := State.placeAll_home (s := s) (n := 1) (i := i) [] hhome
  rw [hins, noIns_one] at huins
  refine runs_router hat (visited_one _ i p) (hplace.trans rfl) hquiet ?_
  rw [State.drain_empty (huouts.trans houts)]
  exact ⟨honly, harr, huins⟩

/-- Of two at home the older is ejected first. -/
theorem runs_home_two (hij : i ≠ j) (hat : RouterAt s px py ((noIns.set i (some p)).set j (some q)) noOuts)
    (hbefore : p.before s.driftNow q = true) (hdst : p.dst = q.dst) (hhome : s.driftHome p.dst = (px.val, py.val)) :
    Runs (.driftRouterCycle px py none) s fun t => (t.router px.val py.val).ins = noIns
      ∧ Sparse.get (fun _ => []) t.drift.arrived p.dst = Sparse.get (fun _ => []) s.drift.arrived p.dst ++ [p, q] := by
  have ⟨hins, houts, _⟩ := hat
  obtain ⟨u, hplace, huins, huouts, harr, honly, hquiet⟩ := State.placeAll_home (s := s) (n := 1) (i := i) [(j.val, q)] hhome
  obtain ⟨w, hplace2, hwins, hwouts, harr2, -, hquiet2⟩ := State.placeAll_home (s := u) (n := 0) (i := j) (p := q) [] (px := px.val) (py := py.val)
    (by rw [State.driftHome_of_only honly (by decide), ← hdst, hhome])
  rw [huins, hins, noIns_two hij] at hwins
  refine runs_router hat (visited_two hij hbefore) (hplace.trans (hplace2.trans rfl)) (hquiet.trans hquiet2) ?_
  rw [State.drain_empty (hwouts.trans (huouts.trans houts))]
  refine ⟨hwins, ?_⟩
  rw [hdst, harr2, ← hdst, harr, List.append_assoc]
  rfl

/-- With the output north full a packet on its way there is deflected to the east. -/
theorem runs_deflected (hat : RouterAt s px py (noIns.set i (some p)) (noOuts.set 0 [a, b])) (hx : (s.driftHome p.dst).1 = px.val)
    (hy : (s.driftHome p.dst).2 < py.val) (hlt : px.val < 15) (hin : (s.router (px.val + 1) py.val).ins[3] = none) :
    Runs (.driftRouterCycle px py none) s fun t => (t.router px.val py.val).ins = noIns
      ∧ (t.router (px.val + 1) py.val).ins[3] = some (hopped p) := by
  have ⟨hins, houts, _⟩ := hat
  obtain ⟨u, hplace, huins, huouts, hothers, -, hquiet⟩ := State.placeAll_out (s := s) (n := 2) (i := i) (o := 1) [] (fun e => by rw [e] at hy; exact absurd hy (Nat.lt_irrefl _))
    fun r hr => by rw [hx]; exact chooseOut_north_full (hr.trans houts) hy hlt
  rw [hins, noIns_one] at huins
  refine runs_router hat (visited_one _ i p) (hplace.trans rfl) hquiet ?_
  have houtsu (k : Nat) (hk : k < 4) : (u.router px.val py.val).outs.toList.getD k [] = ((noOuts.set 0 [a, b]).set 1 [hopped p]).toList.getD k [] := by
    rw [huouts, houts]
    rfl
  obtain ⟨-, hdins, heast, -⟩ := State.drain_north_east (u := u) (px := px.val) (py := py.val) (houtsu 1 (by decide)) (houtsu 2 (by decide)) (houtsu 3 (by decide))
    (by omega) (by rw [hothers _ _ (by omega)]; exact hin)
  exact ⟨hdins.trans huins, heast⟩

/-- Of two on their way north the older takes the last entry there, the other is deflected to the east. -/
theorem runs_north_two (hij : i ≠ j) (hat : RouterAt s px py ((noIns.set i (some p)).set j (some q)) (noOuts.set 0 [a]))
    (hbefore : p.before s.driftNow q = true) (hpx : (s.driftHome p.dst).1 = px.val) (hpy : (s.driftHome p.dst).2 < py.val)
    (hqx : (s.driftHome q.dst).1 = px.val) (hqy : (s.driftHome q.dst).2 < py.val) (hlt : px.val < 15)
    (hnin : (s.router px.val (py.val - 1)).ins[2] = none) (hein : (s.router (px.val + 1) py.val).ins[3] = none) :
    Runs (.driftRouterCycle px py none) s fun t => (t.router px.val py.val).ins = noIns
      ∧ (t.router px.val py.val).outs = noOuts.set 0 [hopped p] ∧ (t.router px.val (py.val - 1)).ins[2] = some a
      ∧ (t.router (px.val + 1) py.val).ins[3] = some (hopped q) := by
  have ⟨hins, houts, _⟩ := hat
  have hway {r : Packet} (hr : (s.driftHome r.dst).2 < py.val) : s.driftHome r.dst ≠ (px.val, py.val) := fun e => by
    rw [e] at hr
    exact absurd hr (Nat.lt_irrefl _)
  obtain ⟨u, hplace, huins, huouts, huothers, huonly, huquiet⟩ := State.placeAll_out (s := s) (n := 2) (i := i) (o := 0) [(j.val, q)] (hway hpy)
    fun r hr => by rw [hpx]; exact chooseOut_north_last (hr.trans houts) hpy
  have hhome : u.driftHome q.dst = s.driftHome q.dst := State.driftHome_of_only huonly (by decide) _
  have huouts' : (u.router px.val py.val).outs = noOuts.set 0 [a, hopped p] := by
    rw [huouts, houts]
    rfl
  obtain ⟨w, hplace2, hwins, hwouts, hwothers, -, hwquiet⟩ := State.placeAll_out (s := u) (n := 2) (i := j) (o := 1) (p := q) (px := px.val)
    (py := py.val) [] (by rw [hhome]; exact hway hqy) fun r hr => by rw [hhome, hqx]; exact chooseOut_north_full (hr.trans huouts') hqy hlt
  rw [huins, hins, noIns_two hij] at hwins
  refine runs_router hat (visited_two hij hbefore) (hplace.trans (hplace2.trans rfl)) (huquiet.trans hwquiet) ?_
  have houtsw (k : Nat) (hk : k < 4) : (w.router px.val py.val).outs.toList.getD k []
      = ((noOuts.set 0 [a, hopped p]).set 1 [hopped q]).toList.getD k [] := by
    rw [hwouts, huouts']
    rfl
  have hsame (x y : Nat) (h : y * 16 + x ≠ py.val * 16 + px.val) : w.router x y = s.router x y := (hwothers _ _ h).trans (huothers _ _ h)
  have hnorth : nextY py.val 0 * 16 + nextX px.val 0 ≠ py.val * 16 + px.val := by unfold nextX nextY; simp; omega
  obtain ⟨hhere, hthere⟩ := State.drainOut_sends (s := w) (px := px.val) (py := py.val) (o := 0) (p := a) (rest := [hopped p]) (houtsw 0 (by decide)) hnorth
    (by rw [toList_getD _ _ (by decide), hsame _ _ hnorth]; exact hnin)
  obtain ⟨-, hdins, heast, hdouts, hdnorth⟩ := State.drain_north_east (u := w) (px := px.val) (py := py.val) (houtsw 1 (by decide)) (houtsw 2 (by decide))
    (houtsw 3 (by decide)) (by omega) (by rw [hsame _ _ (by omega)]; exact hein)
  refine ⟨hdins.trans hwins, ?_, ?_, heast⟩
  · have hset : ((w.router px.val py.val).setOut 0 [hopped p]).outs = (w.router px.val py.val).outs.set 0 [hopped p] := Router.outs_setOut _ 0 _
    rw [hdouts, hhere, hset, hwouts, huouts']
    rfl
  · rw [hdnorth]
    exact (congrArg (fun r : Router => r.ins[2]) hthere).trans (Router.getElem_setIn _ 2 (by decide) _)

end

theorem routerPlaces (s : State) (px py : Fin 16) (i j : Fin 4) (p q a b : Packet) : RouterPlaces s px py i j p q a b := by
  refine ⟨fun hat => ?_, runs_home, fun hij hat hbefore hdst hhome => runs_home_two hij hat hbefore hdst hhome, fun hat => ⟨?_, ?_, ?_, ?_⟩,
    runs_deflected, runs_north_two⟩
  · have ⟨_, houts, _⟩ := hat
    exact runs_router hat rfl rfl ⟨rfl, rfl, rfl, rfl⟩ (State.drain_empty houts)
  · intro hx hd hin
    refine runs_one_way (o := 1) hat (fun e => by rw [e] at hx; exact absurd hx (Nat.lt_irrefl _)) (fun r hr => chooseOut_east hr hx hd) ?_ hin
      fun t h1 h2 h3 h4 => ⟨h1, h2, h3, h4⟩
    unfold nextX nextY
    simp
  · intro hx hin
    refine runs_one_way (o := 3) hat (fun e => by rw [e] at hx; exact absurd hx (Nat.lt_irrefl _)) (fun r hr => chooseOut_west hr hx) ?_ hin
      fun t h1 h2 h3 h4 => ⟨h1, h2, h3, h4⟩
    unfold nextX nextY
    simp
    omega
  · intro hx hy hin
    refine runs_one_way (o := 0) hat (fun e => by rw [e] at hy; exact absurd hy (Nat.lt_irrefl _))
      (fun r hr => by rw [hx]; exact chooseOut_north hr hy) ?_ hin fun t h1 h2 h3 h4 => ⟨h1, h2, h3, h4⟩
    unfold nextX nextY
    simp
    omega
  · intro hx hy hd hin
    refine runs_one_way (o := 2) hat (fun e => by rw [e] at hy; exact absurd hy (Nat.lt_irrefl _))
      (fun r hr => by rw [hx]; exact chooseOut_south hr hy hd) ?_ hin fun t h1 h2 h3 h4 => ⟨h1, h2, h3, h4⟩
    unfold nextX nextY
    simp

theorem not_mailbox_inOrder {ep : Nat} (h : hasMailbox ep = true) : takesInOrder ep = false := by
  simp only [hasMailbox, takesInOrder, decide_eq_true_eq, decide_eq_false_iff_not] at *
  omega

/-- Settles O45: an ejection is its counting and what the packet is; a router places what has arrived, then each output sends. -/
theorem driftDelivers : Obligations.DriftDelivers := by
  unfold Obligations.DriftDelivers
  intro s ep p r px py up i j q a b
  refine ⟨fun harr => ?_, runs_driftRouterCycle s px py up, routerPlaces s px py i j p q a b⟩
  intro key n want
  have hexec := exec_driftPacketEject harr
  obtain ⟨hdrift, honly, hfar, hpoison⟩ := s.ejectCounted_frame ep p r
  dsimp only at hexec
  have hin : takesInOrder ep = true → exec (.driftPacketEject ep) s = .next ((s.ejectCounted ep p r).holdEarly p) := fun h => by rw [hexec, if_pos h]
  have hearly : (s.ejectCounted ep p r).earlyOf key = Sparse.get (fun _ => []) s.drift.early key := by rw [State.earlyOf, hdrift]
  have hwant : (s.ejectCounted ep p r).wantOf key = want := by rw [State.wantOf, hdrift]
  have hgone : Sparse.get (fun _ => []) (s.ejectCounted ep p r).drift.arrived ep = r := by
    rw [hdrift]
    exact Laws.get_set_same _ _ _ _
  refine ⟨fun hkind hno => ?_, fun hff hfe hmail => ?_, fun hord hnone => ?_, fun hord hone hq hp => ?_, fun hlt hp => ?_⟩
  · have happly : (s.ejectCounted ep p r).apply p = (s.ejectCounted ep p r).closeRequest p.dst := if_pos hkind
    rw [if_neg (ne_true_of_eq_false hno), if_neg (by rintro ⟨-, h1, h2⟩; rcases hkind with e | e; exacts [h1 e, h2 e])] at hexec
    obtain ⟨hsame, harrived, hcounts, hmails, -, -⟩ := SameTaken.apply (s.ejectCounted ep p r) p
    obtain ⟨hclose, hnone⟩ := (s.ejectCounted ep p r).closeRequest_outst p.dst
    have hout (k : Nat) : (s.ejectCounted ep p r).outstAt k = s.outstAt k := by rw [State.outstAt, hdrift]; rfl
    simp only [hout] at hclose hnone
    refine .of_eq hexec ⟨?_, ?_, fun k hk => ?_, fun hall k => ?_, fun e => ?_, honly.trans (hsame.mono (by decide))⟩
    · rw [harrived, hgone]
    · rw [hcounts, hdrift]
      exact Laws.get_set_same _ _ _ _
    · rw [happly]
      exact hclose k hk
    · rw [happly, hnone hall, hout]
    · rw [State.mailAt, hmails, hdrift]
      rfl
  · rw [if_neg (ne_true_of_eq_false (not_mailbox_inOrder hmail)), if_pos ⟨hmail, hff, hfe⟩] at hexec
    have hmails (e : Nat) : (s.ejectCounted ep p r).mailAt e = s.mailAt e := by rw [State.mailAt, hdrift]; rfl
    have hge : 0x100 ≤ ep := by
      simp only [hasMailbox, decide_eq_true_eq] at hmail
      omega
    refine .of_eq hexec ⟨?_, fun e he => ?_, hgone, (hfar hge).trans (.drift _ _ (by decide))⟩
    · rw [State.mailAt_setMail, if_pos rfl, hmails]
    · rw [State.mailAt_setMail, if_neg he, hmails]
  · refine .of_eq (hin hord) ⟨fun hne => ?_, fun heq => ?_⟩
    · obtain ⟨h1, h2⟩ := State.holdEarly_early (s := s.ejectCounted ep p r) (p := p) rfl (hearly.trans hnone) (by rw [hwant]; exact hne)
      exact ⟨h1, h2.trans hwant⟩
    · obtain ⟨h1, h2⟩ := State.holdEarly_next (s := s.ejectCounted ep p r) (p := p) rfl (hearly.trans hnone) (heq.trans hwant.symm)
      exact ⟨h1, h2.trans (congrArg (· + 1) hwant)⟩
  · obtain ⟨h1, h2⟩ := State.holdEarly_both (s := s.ejectCounted ep p r) (p := p) rfl (hearly.trans hone) (hq.trans (congrArg (· + 1) hwant.symm))
      (hp.trans hwant.symm)
    exact .of_eq (hin hord) ⟨h1, h2.trans (congrArg (· + 2) hwant)⟩
  · have hno : takesInOrder ep = false := by
      simp only [takesInOrder, decide_eq_false_iff_not]
      omega
    have hnomail : hasMailbox ep = false := by
      simp only [hasMailbox, decide_eq_false_iff_not]
      omega
    rw [if_neg (ne_true_of_eq_false hno), if_neg fun h => absurd (hnomail.symm.trans h.1) (by decide)] at hexec
    obtain ⟨hsame, -⟩ := SameTaken.apply (s.ejectCounted ep p r) p
    exact .of_eq hexec (by rw [hsame .regs (by decide)]; exact hpoison hlt hp)

end Sys2Proof.Machine

/-! ### Units take the packets of their mailboxes (09 R267; 12 R350, R351; 13 R375, R378; 14 R409) -/

namespace Sys2Proof.Machine

open Sys2Proof

theorem Only.takeMail {s u : State} {ep : Nat} {p : Packet} (h : s.takeMail ep = some (p, u)) : Only [.drift] s u := by
  unfold State.takeMail at h
  split at h
  · cases h
  · obtain ⟨rfl, rfl⟩ := Prod.mk.inj (Option.some.inj h)
    unfold State.answer
    exact .ite (Only.trans (.drift _ _ (by decide)) (.drift _ _ (by decide))) (.drift _ _ (by decide))

theorem State.suOf_setSu (s : State) (n m : Fin 4) (x : Su) : (s.setSu n x).suOf m.val = if m = n then x else s.suOf m.val := by
  unfold State.suOf State.setSu
  rw [toList_getD _ _ m.isLt, toList_getD _ _ m.isLt, Vector.getElem_set]
  exact if_congr ⟨fun h => Fin.ext h.symm, fun h => by rw [h]⟩ rfl rfl

theorem bit_rd_setBit (s : State) (a : Nat) {n : Nat} (hn : n < 32) : bit ((s.setBit a n).rd a) n = true := by
  rw [State.rd_setBit, if_pos rfl, bit_setFld_one _ _ hn]

section
variable {s u : State} {p : Packet}

/-- The DG marks the period of a poisoned post bad. -/
theorem runs_digestPost_poison (hmail : s.takeMail 0x109 = some (p, u)) (hen : bit (s.rd rDgCtl) 0 = true) (hkind : p.kind = 1) (hp : p.poison = true) :
    Runs .digestPost s (· = u.dgBad (u.injPeriod p)) := by
  refine .of_eq (t := u.dgBad (u.injPeriod p)) ?_ rfl
  show execDigestPost s = _
  unfold execDigestPost
  rw [hmail]
  dsimp only
  rw [if_neg (by rw [hen, hkind]; decide), if_pos hp]

theorem runs_digestPost (hmail : s.takeMail 0x109 = some (p, u)) (hen : bit (s.rd rDgCtl) 0 = true) (hkind : p.kind = 1) (hp : p.poison = false)
    (hcur : leAt p.payload 14 2 = s.beat.period.toNat % 65536) :
    Runs .digestPost s (· = u.dgPost s.beat.period.toNat (s.part p.part).group (leAt p.payload 16 2) (leAt p.payload 18 2)
      (BitVec.ofNat 64 (leAt p.payload 0 8))) := by
  refine .of_eq (t := u.dgPost s.beat.period.toNat (s.part p.part).group (leAt p.payload 16 2) (leAt p.payload 18 2)
      (BitVec.ofNat 64 (leAt p.payload 0 8))) ?_ rfl
  show execDigestPost s = _
  unfold execDigestPost
  rw [hmail]
  dsimp only
  rw [if_neg (by rw [hen, hkind]; decide), if_neg (ne_true_of_eq_false hp), if_pos hcur]

theorem State.dgBad_frame (u : State) (k : Nat) : k ∈ (u.dgBad k).dg.bad ∧ bit ((u.dgBad k).rd rDgStatus) 3 = true ∧ (u.dgBad k).dg.table = u.dg.table := by
  refine ⟨List.mem_cons_self .., ?_, rfl⟩
  show bit ((u.setBit rDgStatus 3).rd rDgStatus) 3 = true
  rw [State.rd_setBit, if_pos rfl, bit_setFld_one _ _ (by decide)]

/-- A digest of a period that has none open opens its entry. -/
theorem State.dgPost_first {u : State} {period group layer tensor : Nat} {digest : DWord} (h : u.dg.table = []) :
    (u.dgPost period group layer tensor digest).dg.table = [⟨period, group, layer, tensor, digest, 1⟩] := by
  unfold State.dgPost
  extract_lets here
  rw [h, if_neg (by simp), if_pos (by decide)]
  rfl

/-- A sampling unit that has room takes a post of the period, or records why not. -/
theorem exec_suJob {n : Fin 4} (hex : s.suExists n.val = true) (hroom : (s.suOf n.val).jobs.length < 9)
    (hmail : s.takeMail (0x104 + n.val) = some (p, u)) (hwork : s.workPeriod = true) (hper : s.injPeriod p = s.beat.period.toNat) :
    exec (.suJob n) s = if p.poison = true then .next (u.setBit (rSuStatus n.val) 8)
      else if u.suTakes n.val p = true then .next (u.setSu n ⟨(u.suOf n.val).jobs ++ [suJobOf p]⟩) else .next (u.setBit (rSuStatus n.val) 9) := by
  show execSuJob n s = _
  unfold execSuJob
  rw [if_neg (by rw [hex, not_or, Nat.not_le]; exact ⟨by decide, hroom⟩), hmail]
  dsimp only
  rw [if_neg (by rw [hwork, hper]; simp)]

theorem State.dropDraft_frame (u : State) :
    u.dropDraft.rt = u.rt ∧ bit (u.dropDraft.rd rRtStatus) 4 = true ∧ u.dropDraft.rd rRtDraftDrops = satInc (u.rd rRtDraftDrops) := by
  unfold State.dropDraft
  refine ⟨rfl, ?_, ?_⟩
  · rw [State.rd_bump_ne _ (by decide), State.rd_setBit, if_pos rfl, bit_setFld_one _ _ (by decide)]
  · rw [State.rd_bump, if_pos rfl, State.rd_setBit_ne _ _ (by decide)]

theorem su_status_frame {a n : Nat} (h : u.su = s.su) (hn : n < 32) : (u.setBit a n).su = s.su ∧ bit ((u.setBit a n).rd a) n = true :=
  ⟨h, bit_rd_setBit u a hn⟩

/-- The first draft set of an entry joins the store while it has room. -/
theorem State.storeDraft_first {e pos : Nat} {steps : List (Nat × DraftStep)} {tc : DWord} {whole : Bool} (h : u.draftOf e = none)
    (hroom : u.rt.drafts.length < 4096) :
    u.storeDraft e pos steps tc whole = { u with rt := { u.rt with drafts := u.rt.drafts ++ [⟨e, pos, steps, tc⟩] } } := by
  unfold State.storeDraft
  rw [h]
  exact if_neg (by omega)

end

/-- Settles O46: each unit takes the oldest packet of its mailbox and does what it is. -/
theorem unitsTakePackets : Obligations.UnitsTakePackets := by
  unfold Obligations.UnitsTakePackets
  intro s u p n a k
  refine ⟨fun hmail hen hkind => ⟨fun hp => ?_, fun hp hcur => ⟨?_, fun hnone => ?_⟩⟩, fun hex hroom hmail hwork hper => ⟨fun hp ht => ?_, fun hp ht => ?_,
    fun hp => ?_⟩, fun hmail hkind => ?_, fun hmail => ⟨fun hp => ?_, fun hp hkind hworld hcount hanchor hslot hgroup => ?_⟩⟩
  · obtain ⟨t, ht, rfl⟩ := runs_digestPost_poison hmail hen hkind hp
    obtain ⟨h1, h2, h3⟩ := u.dgBad_frame (u.injPeriod p)
    exact ⟨_, ht, h1, h2, h3.trans (congrArg Dg.table (Only.takeMail hmail .dg (by decide)))⟩
  · exact runs_digestPost hmail hen hkind hp hcur
  · obtain ⟨t, ht, rfl⟩ := runs_digestPost hmail hen hkind hp hcur
    exact ⟨_, ht, State.dgPost_first ((congrArg Dg.table (Only.takeMail hmail .dg (by decide))).trans hnone)⟩
  · have hunits : u.su = s.su := Only.takeMail hmail .su (by decide)
    have hsu (m : Nat) : u.suOf m = s.suOf m := by rw [State.suOf, hunits]; rfl
    have hexec := exec_suJob hex hroom hmail hwork hper
    rw [if_neg (ne_true_of_eq_false hp), if_pos ht] at hexec
    refine .of_eq hexec ⟨?_, fun m hm => ?_⟩
    · rw [State.suOf_setSu, if_pos rfl, hsu]
    · rw [State.suOf_setSu, if_neg hm, hsu]
  · have hexec := exec_suJob hex hroom hmail hwork hper
    rw [if_neg (ne_true_of_eq_false hp), if_neg (ne_true_of_eq_false ht)] at hexec
    exact .of_eq hexec (su_status_frame (n := 9) (Only.takeMail hmail .su (by decide)) (by decide))
  · have hexec := exec_suJob hex hroom hmail hwork hper
    rw [if_pos hp] at hexec
    exact .of_eq hexec (su_status_frame (n := 8) (Only.takeMail hmail .su (by decide)) (by decide))
  · intro e count first st
    have hrt : u.rt = s.rt := Only.takeMail hmail .rt (by decide)
    refine ⟨fun hbad => ?_, fun hp hworld hslot hfree hdone hfailed hc1 hc5 hc16 => ?_⟩
    · have hexec : exec .draftPacket s = .next u.dropDraft := by
        show execDraftPacket s = _
        unfold execDraftPacket
        rw [hmail]
        dsimp only
        rw [if_neg (not_not.mpr hkind)]
        exact if_pos (by rcases hbad with h | h | h | h | h <;> simp [e, count, first] at h ⊢ <;> simp [h])
      obtain ⟨h1, h2, h3⟩ := u.dropDraft_frame
      exact .of_eq hexec ⟨h1.trans hrt, h2, h3.trans (congrArg satInc (Only.takeMail hmail .regs (by decide) _))⟩
    · intro steps
      have hexec : exec .draftPacket s = .next (u.storeDraft e (leAt p.payload 4 4) steps u.tb.tc false) := by
        show execDraftPacket s = _
        unfold execDraftPacket
        rw [hmail]
        dsimp only
        rw [if_neg (not_not.mpr hkind)]
        refine if_neg ?_
        simp only [Bool.or_eq_true, decide_eq_true_eq, not_or, Bool.not_eq_true, Option.isNone_eq_false_iff]
        exact ⟨⟨⟨⟨hslot, hfree, hdone, hfailed⟩, hworld⟩, by omega, by omega, by omega⟩, hp⟩
      refine ⟨.of_eq hexec rfl, fun hnone hroom => .of_eq hexec ?_⟩
      have hdraft : u.draftOf e = none := by rw [State.draftOf, hrt]; exact hnone
      rw [State.storeDraft_first hdraft (by rw [hrt]; exact hroom)]
      have htb : u.tb = s.tb := Only.takeMail hmail .tb (by decide)
      dsimp only
      rw [hrt, htb]
  · have hexec : exec .pgSelection s = .next (u.setBit rPgStatus 1) := by
      show execPgSelection s = _
      unfold execPgSelection
      rw [hmail]
      exact if_pos hp
    exact .of_eq hexec ⟨bit_rd_setBit _ _ (by decide), Only.takeMail hmail .pg (by decide)⟩
  · have hbooks : u.pg = s.pg := Only.takeMail hmail .pg (by decide)
    have hpg (q : Nat) : u.pgOf q = s.pgOf q := by rw [State.pgOf, hbooks]; rfl
    have hexec : exec .pgSelection s = .next (u.setPg a { u.pgOf a with posts := (u.pgOf a).posts ++ [(leAt p.payload 0 2,
        decide (leAt p.payload 3 1 % 2 = 1), (List.range (leAt p.payload 2 1)).map fun i => leAt p.payload (4 + 4 * i) 4)] }) := by
      show execPgSelection s = _
      unfold execPgSelection
      rw [hmail]
      dsimp only
      rw [if_neg (ne_true_of_eq_false hp), if_neg (by rw [hkind, hworld]; simpa using hcount), hanchor, hslot]
      exact if_pos hgroup
    refine .of_eq hexec ⟨?_, fun q hq => ?_⟩
    · rw [State.pgOf_setPg, if_pos rfl, hpg]
    · rw [State.pgOf_setPg, if_neg hq, hpg]

end Sys2Proof.Machine

/-! The address map (05 R141 to R157): which registers it rests on, what reading and writing memory leaves of them, and what a range
that passes its check says of its bytes. -/

namespace Sys2Proof.Machine

open Sys2Proof

/-! ### The registers of the map, and those that reading and writing memory change -/

/-- A relocation or region register of a core (05 R154, R155). -/
def MapReg (a : Nat) : Prop :=
  0x10000000 ≤ a ∧ (0x6020 ≤ a % 0x100000 ∧ a % 0x100000 ≤ 0x6028 ∨ 0x6100 ≤ a % 0x100000 ∧ a % 0x100000 ≤ 0x617C)

/-- A register in which the checks of granules are recorded (05 R149 to R151, R167). -/
def FoundReg (a : Nat) : Prop := a ∈ evtRegs ∨ (0x10000000 ≤ a ∧ 0x6000 ≤ a % 0x100000 ∧ a % 0x100000 < 0x6018)

theorem mapReg_reloc (c : Nat) {k : Nat} (h : k < 3) : MapReg (rSlcReloc c k) := by
  unfold MapReg rSlcReloc coreBase; omega

theorem mapReg_region (c : Nat) {i : Nat} (h : i < 32) : MapReg (rSlcRegion c i) := by
  unfold MapReg rSlcRegion coreBase; omega

theorem not_evtReg_of_core {a : Nat} (h : 0x10000000 ≤ a) : a ∉ evtRegs := by
  simp only [evtRegs, List.mem_cons, List.not_mem_nil, or_false, rScEvtHead, rScEvtTail, rScEvtLost, rScStatus]
  omega

theorem MapReg.not_found {a : Nat} (h : MapReg a) : ¬ FoundReg a := by
  rintro (hevt | hslc)
  · exact not_evtReg_of_core h.1 hevt
  · unfold MapReg at h; omega

theorem State.rd_foldl {α : Type} {a : Nat} (f : State → α → State) (l : List α) (s : State) (hf : ∀ t x, (f t x).rd a = t.rd a) :
    (l.foldl f s).rd a = s.rd a := by
  induction l generalizing s with
  | nil => rfl
  | cons x l ih => exact (ih _).trans (hf s x)

section
variable {a : Nat} (h : ¬ FoundReg a)
include h

theorem State.rd_touch (s : State) (g : Nat) (sched : Bool) : (s.touch g sched).rd a = s.rd a := by
  obtain ⟨hevt, hslc⟩ := not_or.mp h
  have hne (c k : Nat) (hk : 0x6000 ≤ k ∧ k < 0x6018) : a ≠ coreBase c + k := by
    rintro rfl
    unfold coreBase at hslc
    omega
  have hst (c : Nat) : a ≠ rSlcStatus c := hne c _ (by decide)
  have hce (c : Nat) : a ≠ rSlcCeCount c := hne c _ (by decide)
  have hue (c : Nat) : a ≠ rSlcUeCount c := hne c _ (by decide)
  have haddr (c : Nat) : a ≠ rSlcUeAddr c := hne c _ (by decide)
  have hpr (c : Nat) : a ≠ rSlcPoisonReads c := hne c _ (by decide)
  unfold State.touch
  extract_lets c p s1 b u1 u2 u3 v1
  split
  case h_1 => rfl
  case h_2 =>
    have h1 : s1.rd a = s.rd a := by rw [State.rd_bump_ne _ (hce c), State.rd_setBit_ne _ _ (hst c)]
    have hbank (x : Bank) : (s1.setBank c (bankOf p) x).rd a = s1.rd a := Only.setBank (ch := [.banks]) s1 c _ x (by decide) .regs (by decide) a
    split
    · exact (hbank _).trans h1
    · exact h1
  case h_3 =>
    have h1 : u1.rd a = s.rd a := by rw [State.rd_bump_ne _ (hue c), State.rd_setBit_ne _ _ (hst c)]
    have h2 : u2.rd a = u1.rd a := by
      unfold u2
      split
      · rfl
      · exact State.rd_wr_ne _ _ (haddr c)
    have h3 : u3.rd a = u2.rd a := Only.poisonPending (ch := [.poisonPending]) u2 _ (by decide) .regs (by decide) a
    rw [State.rd_failBeat_other, State.rd_event_ne u3 _ _ _ _ _ _ hevt, h3, h2, h1]
  case h_4 =>
    have h1 : v1.rd a = s.rd a := by rw [State.rd_bump_ne _ (hpr c), State.rd_setBit_ne _ _ (hst c)]
    split
    · exact (State.rd_failBeat_other v1 a).trans h1
    · exact h1

theorem State.rd_touchBeside (s : State) (g : Nat) : (s.touchBeside g).rd a = s.rd a := by
  unfold State.touchBeside
  split
  · rfl
  · exact s.rd_touch h g false

theorem State.rd_checkRows (s : State) (rs : List (Nat × Nat)) (sched : Bool) : (s.checkRows rs sched).rd a = s.rd a :=
  (State.rd_foldl State.touchBeside _ _ fun t x => t.rd_touchBeside h x).trans
    (State.rd_foldl (fun (t : State) (g : Nat) => t.touch g sched) _ s fun t x => t.rd_touch h x sched)

theorem State.rd_touchRanges (s : State) (c : Nat) (rs : List (Nat × Nat)) : (s.touchRanges c rs).rd a = s.rd a :=
  s.rd_checkRows h _ true

theorem State.rd_mergeTouch (s : State) (g : Nat) : (s.mergeTouch g).rd a = s.rd a := by
  unfold State.mergeTouch
  extract_lets t
  have ht : t.rd a = s.rd a := s.rd_touch h g false
  split
  · exact ht
  · exact ht

theorem State.rd_writeMasked (s : State) (ws : List (Nat × Byte)) (half : List Nat) : (s.writeMasked ws half).rd a = s.rd a := by
  unfold State.writeMasked
  extract_lets whole rs partly beside s1 s2
  have h1 : s1.rd a = s.rd a := (State.rd_foldl State.touchBeside _ _ fun t x => t.rd_touchBeside h x).trans
    (State.rd_foldl State.mergeTouch _ s fun t x => t.rd_mergeTouch h x)
  have h2 : s2.rd a = s1.rd a := State.rd_foldl State.cleanGranule _ _ fun _ _ => rfl
  have h3 (t : State) (hit : Nat → Bool) : (t.dropCorr hit).rd a = t.rd a := Only.dropCorr t hit .regs (by decide) a
  have h4 (t : State) : (t.memPut ws).rd a = t.rd a := Only.memPut t ws .regs (by decide) a
  rw [h4, h3, h2, h1]

theorem State.rd_writeAt (s : State) (c : Nat) (ws : List (Nat × Byte)) : (s.writeAt c ws).rd a = s.rd a := s.rd_writeMasked h _ _

theorem State.rd_writeG (s : State) (ws : List (Nat × Byte)) : (s.writeG ws).rd a = s.rd a := s.rd_writeMasked h _ _

end

theorem Only.poisonAt (s : State) (c : Nat) (as : List Nat) : Only [.ecc] s (s.poisonAt c as) := by
  refine .foldl _ as s fun t a => ?_
  split
  · exact .setEcc _ _ _ (by decide)
  · exact .refl _ _

theorem tierOf_lt {a : Nat} (h : tierOf a ≠ 3) : tierOf a < 3 := by
  unfold tierOf at *
  split_ifs at * <;> omega

/-! ### States of the same map -/

/-- The translation of the two states is the same: the grid, the partitions and the registers of the map (05 R154 to R157). -/
structure SameMap (s t : State) : Prop where
  fuses : t.fuses = s.fuses
  parts : ∀ p, t.part p = s.part p
  regs : ∀ a, MapReg a → t.rd a = s.rd a

theorem SameMap.refl (s : State) : SameMap s s := ⟨rfl, fun _ => rfl, fun _ _ => rfl⟩

theorem SameMap.trans {s t u : State} (h : SameMap s t) (k : SameMap t u) : SameMap s u :=
  ⟨k.fuses.trans h.fuses, fun p => (k.parts p).trans (h.parts p), fun a ha => (k.regs a ha).trans (h.regs a ha)⟩

/-- A change that leaves fuses, partitions and the registers of the map leaves the map. -/
theorem SameMap.of_only {ch : List Grp} {s t : State} (h : Only ch s t) (hf : Grp.fuses ∉ ch) (hp : Grp.parts ∉ ch)
    (hr : ∀ a, MapReg a → t.rd a = s.rd a) : SameMap s t := ⟨h .fuses hf, h .parts hp, hr⟩

theorem SameMap.of_regs {ch : List Grp} {s t : State} (h : Only ch s t) (hf : Grp.fuses ∉ ch) (hp : Grp.parts ∉ ch)
    (hr : Grp.regs ∉ ch) : SameMap s t := .of_only h hf hp fun a _ => h .regs hr a

theorem SameMap.touchRanges (s : State) (c : Nat) (rs : List (Nat × Nat)) : SameMap s (s.touchRanges c rs) :=
  .of_only (.touchRanges s c rs) (by decide) (by decide) fun _ ha => s.rd_touchRanges ha.not_found c rs

theorem SameMap.writeAt (s : State) (c : Nat) (ws : List (Nat × Byte)) : SameMap s (s.writeAt c ws) :=
  .of_only (.writeAt s c ws) (by decide) (by decide) fun _ ha => s.rd_writeAt ha.not_found c ws

theorem SameMap.poisonAt (s : State) (c : Nat) (as : List Nat) : SameMap s (s.poisonAt c as) :=
  .of_regs (.poisonAt s c as) (by decide) (by decide) (by decide)

/-- A register off the map may be written. -/
theorem SameMap.wr (s : State) {a : Nat} (v : Word) (h : ¬ MapReg a) : SameMap s (s.wr a v) :=
  .of_only (.wr (ch := [.regs]) s a v (by decide)) (by decide) (by decide) fun b hb => s.rd_wr_ne v (by rintro rfl; exact h hb)

theorem SameMap.wrF (s : State) {a : Nat} (l n v : Nat) (h : ¬ MapReg a) : SameMap s (s.wrF a l n v) := .wr s _ h

theorem SameMap.setBit (s : State) {a : Nat} (n : Nat) (h : ¬ MapReg a) : SameMap s (s.setBit a n) := .wrF s _ _ _ h

theorem SameMap.bump (s : State) {a : Nat} (h : ¬ MapReg a) : SameMap s (s.bump a) := .wr s _ h

section
variable {s t : State} (h : SameMap s t)
include h

theorem SameMap.coreExists (c : Nat) : t.coreExists c = s.coreExists c := by
  rw [State.coreExists, State.coreExists, State.rows, State.rows, h.fuses]

theorem SameMap.partOf (c : Nat) : t.partOf c = s.partOf c := by simp only [State.partOf, h.parts]

theorem SameMap.corePart (c : Nat) : t.corePart c = s.corePart c := by simp only [State.corePart, h.partOf, h.parts]

theorem SameMap.addrSecure (c p : Nat) : t.addrSecure c p = s.addrSecure c p := by
  have hd : (List.range 32).map (fun i => t.rd (rSlcRegion c i)) = (List.range 32).map fun i => s.rd (rSlcRegion c i) :=
    List.map_congr_left fun i hi => h.regs _ (mapReg_region c (List.mem_range.mp hi))
  unfold State.addrSecure
  rw [hd]

theorem SameMap.xlatePart (c lo hi : Nat) : t.xlatePart c lo hi = s.xlatePart c lo hi := by
  unfold State.xlatePart
  by_cases h3 : tierOf lo = 3
  · rw [if_pos (.inl h3), if_pos (.inl h3)]
  · simp only [h.coreExists, h.corePart, h.addrSecure, h.regs _ (mapReg_reloc c (tierOf_lt h3))]

theorem SameMap.xlateG (c a : Nat) : t.xlateG c a = s.xlateG c a := by simp only [State.xlateG, State.xlate, h.xlatePart]

theorem SameMap.checkRange (c a n : Nat) : t.checkRange c a n = s.checkRange c a n := by simp only [State.checkRange, h.xlatePart]

theorem SameMap.unitCheck (p c a n : Nat) : t.unitCheck p c a n = s.unitCheck p c a n := by
  simp only [State.unitCheck, h.checkRange, h.partOf]

theorem SameMap.globalRanges (c a n : Nat) : t.globalRanges c a n = s.globalRanges c a n := by
  simp only [State.globalRanges, h.xlatePart]

theorem SameMap.readByte (hmem : ∀ g, t.memGet g = s.memGet g) (c a : Nat) : t.readByte c a = s.readByte c a := by
  simp only [State.readByte, h.xlateG, hmem]

theorem SameMap.bytePoisoned (hecc : t.ecc = s.ecc) (hpend : t.poisonPending = s.poisonPending) (c a : Nat) :
    t.bytePoisoned c a = s.bytePoisoned c a := by
  simp only [State.bytePoisoned, h.xlateG, State.granulePoisoned_congr hecc hpend]

end

end Sys2Proof.Machine

/-! A range that passes its check reaches a byte for each of its addresses, and no two reach the same (05 R141, R154, R157). -/

namespace Sys2Proof.Machine

open Sys2Proof

theorem tierOf_bounds {a : Nat} (h : tierOf a ≠ 3) : tierStart (tierOf a) ≤ a ∧ a < tierEnd (tierOf a) := by
  unfold tierOf at *
  split_ifs at * <;> simp only [tierStart, tierEnd] <;> simp <;> omega

theorem tierOf_of_bounds {a t : Nat} (ht : t < 3) (hlo : tierStart t ≤ a) (hhi : a < tierEnd t) : tierOf a = t := by
  have ht' : t = 0 ∨ t = 1 ∨ t = 2 := by omega
  unfold tierOf
  obtain rfl | rfl | rfl := ht' <;> simp [tierStart, tierEnd] at hlo hhi <;> split_ifs <;> omega

/-- What lets a part of a range be translated, and where it then lies (05 R154, R157). -/
theorem State.xlatePart_ok_iff (s : State) (c lo hi p : Nat) : s.xlatePart c lo hi = .ok p ↔
    (tierOf lo ≠ 3 ∧ s.coreExists c = true)
      ∧ p = tierStart (tierOf lo) + fld (s.rd (rSlcReloc c (tierOf lo))) 0 12 * 4096 + (lo - tierStart (tierOf lo))
      ∧ ((s.corePart c).isBound = true ∧ lo - tierStart (tierOf lo) + (hi - lo) ≤ fld (s.rd (rSlcReloc c (tierOf lo))) 16 12 * 4096
        ∧ p + (hi - lo) ≤ tierEnd (tierOf lo))
      ∧ ((s.corePart c).secure = false →
          ∀ i, i < (p + (hi - lo) - 1) / 4096 - p / 4096 + 1 → s.addrSecure c ((p / 4096 + i) * 4096) = false) := by
  unfold State.xlatePart
  extract_lets t w o phys q
  by_cases h1 : t = 3 ∨ (!s.coreExists c) = true
  · rw [if_pos h1]
    refine iff_of_false (by simp) fun ⟨⟨h3, hc⟩, _⟩ => h1.elim h3 fun hn => ?_
    rw [hc] at hn
    exact absurd hn (by decide)
  have hpre : tierOf lo ≠ 3 ∧ s.coreExists c = true := by simpa [t] using h1
  rw [if_neg h1]
  by_cases h2 : (!q.isBound) = true ∨ o + (hi - lo) > fld w 16 12 * 4096 ∨ phys + (hi - lo) > tierEnd t
  · rw [if_pos h2]
    refine iff_of_false (by simp) fun ⟨_, hp, ⟨hb, hle, hend⟩, _⟩ => ?_
    rw [show p = phys from hp] at hend
    obtain hn | hn | hn := h2
    · rw [show q.isBound = true from hb] at hn
      exact absurd hn (by decide)
    · exact absurd hle (Nat.not_le.mpr hn)
    · exact absurd hend (Nat.not_le.mpr hn)
  rw [if_neg h2]
  simp only [not_or, Bool.not_eq_true', Bool.not_eq_false, Nat.not_lt, gt_iff_lt] at h2
  split
  · next h3 =>
    refine iff_of_false (by simp) fun ⟨_, hp, _, hw⟩ => ?_
    rw [Bool.not_eq_true'] at h3
    obtain ⟨hsec, hany⟩ := h3
    obtain ⟨i, hi, hsecure⟩ := List.any_eq_true.mp hany
    have hclear := hw hsec i
    rw [show p = phys from hp] at hclear
    rw [hclear (List.mem_range.mp hi)] at hsecure
    exact absurd hsecure (by decide)
  · next h3 =>
    constructor
    · intro h
      obtain rfl : phys = p := by simpa using h
      refine ⟨hpre, rfl, h2, fun hsec i hi => ?_⟩
      by_contra hne
      exact h3 ⟨by rw [show q.secure = false from hsec]; rfl,
        List.any_eq_true.mpr ⟨i, List.mem_range.mpr hi, by simpa using hne⟩⟩
    · rintro ⟨_, hp, _⟩
      exact congrArg Except.ok hp.symm

/-- A byte of a part that is translated whole lies at its offset in it. -/
theorem State.xlatePart_byte {s : State} {c lo hi p x : Nat} (h : s.xlatePart c lo hi = .ok p) (hlo : lo ≤ x) (hhi : x < hi)
    (hend : hi ≤ tierEnd (tierOf lo)) : s.xlatePart c x (x + 1) = .ok (p + (x - lo)) := by
  obtain ⟨⟨h3, hc⟩, hp, ⟨hb, hle, hpend⟩, hworld⟩ := (s.xlatePart_ok_iff c lo hi p).mp h
  have hstart := (tierOf_bounds h3).1
  have htier : tierOf x = tierOf lo := tierOf_of_bounds (tierOf_lt h3) (by omega) (by omega)
  refine (s.xlatePart_ok_iff c x (x + 1) _).mpr ⟨⟨htier ▸ h3, hc⟩, ?_, ⟨hb, ?_, ?_⟩, fun hsec i hi => ?_⟩
  · rw [htier, hp]; omega
  · rw [htier]; omega
  · rw [htier]; omega
  · obtain rfl : i = 0 := by omega
    have := hworld hsec ((p + (x - lo)) / 4096 - p / 4096) (by omega)
    rwa [show p / 4096 + ((p + (x - lo)) / 4096 - p / 4096) = (p + (x - lo)) / 4096 + 0 by omega] at this

/-- A part of a range lies within one tier. -/
theorem rangeParts_bounds {a n lo hi : Nat} (h : (lo, hi) ∈ rangeParts a n) (h3 : tierOf lo ≠ 3) : hi ≤ tierEnd (tierOf lo) := by
  obtain ⟨t, ht, hp⟩ := List.mem_filterMap.mp h
  have ht4 := List.mem_range.mp ht
  obtain ⟨hlt, hp⟩ := Option.ite_none_right_eq_some.mp hp
  obtain ⟨rfl, rfl⟩ := Prod.mk.inj (Option.some.inj hp)
  by_cases ht3 : t = 3
  · subst ht3
    have hb := tierOf_bounds h3
    have hend : tierEnd (tierOf (max a (tierStart 3))) ≤ 0x1800000 := by
      have := tierOf_lt h3
      have h3' : tierOf (max a (tierStart 3)) = 0 ∨ tierOf (max a (tierStart 3)) = 1 ∨ tierOf (max a (tierStart 3)) = 2 := by omega
      obtain h | h | h := h3' <;> rw [h] <;> decide
    have hs : tierStart 3 = 0x1800000 := by decide
    omega
  · rw [if_neg ht3] at hlt ⊢
    rw [tierOf_of_bounds (t := t) (by omega) (by omega) (by omega)]
    omega

/-- Every address of a range lies in one of its parts. -/
theorem exists_rangePart (a n i : Nat) (hi : i < n) : ∃ p ∈ rangeParts a n, p.1 ≤ a + i ∧ a + i < p.2 := by
  have hpart (t : Nat) (ht : t < 4) (hlo : tierStart t ≤ a + i) (hhi : t ≠ 3 → a + i < tierEnd t) :
      ∃ p ∈ rangeParts a n, p.1 ≤ a + i ∧ a + i < p.2 := by
    have hin : a + i < min (a + n) (if t = 3 then a + n else tierEnd t) := by
      split
      · omega
      · next hne => exact lt_min (by omega) (hhi hne)
    refine ⟨(max a (tierStart t), min (a + n) (if t = 3 then a + n else tierEnd t)),
      List.mem_filterMap.mpr ⟨t, List.mem_range.mpr ht, if_pos (lt_of_le_of_lt (max_le (by omega) hlo) hin)⟩, max_le (by omega) hlo, hin⟩
  by_cases h3 : tierOf (a + i) = 3
  · refine hpart 3 (by omega) ?_ (absurd rfl)
    have hstart : tierStart 3 = 0x1800000 := by decide
    by_contra hlt
    unfold tierOf at h3
    split_ifs at h3 <;> omega
  · exact hpart _ (by have := tierOf_lt h3; omega) (tierOf_bounds h3).1 fun _ => (tierOf_bounds h3).2

/-- Every address of a range that passes its check reaches a byte. -/
theorem State.xlateG_of_checkRange {s : State} {c a n i : Nat} (h : s.checkRange c a n = none) (hi : i < n) :
    ∃ g, s.xlateG c (a + i) = some g := by
  obtain ⟨⟨lo, hi'⟩, hmem, hlo, hhi⟩ := exists_rangePart a n i hi
  have hpart := (List.findSome?_eq_none_iff.mp h) (lo, hi') hmem
  cases hx : s.xlatePart c lo hi' with
  | error e => rw [hx] at hpart; exact absurd hpart (by simp)
  | ok p =>
    have h3 := ((s.xlatePart_ok_iff c lo hi' p).mp hx).1.1
    have hb := State.xlatePart_byte hx hlo hhi (rangeParts_bounds hmem h3)
    exact ⟨_, by unfold State.xlateG State.xlate; rw [hb]⟩

/-- Where an address reaches, with the part of its tier that it lies in. -/
theorem State.xlateG_some {s : State} {c x g : Nat} (h : s.xlateG c x = some g) : ∃ p, s.xlatePart c x (x + 1) = .ok p ∧ g = gaddr c p := by
  unfold State.xlateG State.xlate at h
  cases hx : s.xlatePart c x (x + 1) with
  | error e => rw [hx] at h; exact absurd h (by simp)
  | ok p => rw [hx] at h; exact ⟨p, rfl, (Option.some.inj h).symm⟩

/-- Two addresses of a core reach two bytes. -/
theorem State.xlateG_injective {s : State} {c x y g : Nat} (hx : s.xlateG c x = some g) (hy : s.xlateG c y = some g) : x = y := by
  obtain ⟨p, hp, rfl⟩ := State.xlateG_some hx
  obtain ⟨q, hq, hpq⟩ := State.xlateG_some hy
  obtain ⟨⟨hx3, -⟩, hpx, ⟨-, -, hpend⟩, -⟩ := (s.xlatePart_ok_iff c x _ p).mp hp
  obtain ⟨⟨hy3, -⟩, hqy, ⟨-, -, hqend⟩, -⟩ := (s.xlatePart_ok_iff c y _ q).mp hq
  obtain rfl : p = q := by unfold gaddr at hpq; omega
  have htx : tierOf p = tierOf x := tierOf_of_bounds (tierOf_lt hx3) (by omega) (by omega)
  have hty : tierOf p = tierOf y := tierOf_of_bounds (tierOf_lt hy3) (by omega) (by omega)
  have htier : tierOf x = tierOf y := htx.symm.trans hty
  have hbx := (tierOf_bounds hx3).1
  have hby := (tierOf_bounds hy3).1
  rw [htier] at hpx hbx
  omega

/-- The bytes written through the translation, where their range passes its check. -/
theorem State.memGet_writeAt_checked {s : State} {c a i g : Nat} {bs : List Byte} (hi : i < bs.length) (hg : s.xlateG c (a + i) = some g) :
    (s.writeAt c (spread a bs)).memGet g = bs[i] :=
  s.memGet_writeAt_spread c a bs i g hi hg fun j hij _ hj => by
    have := State.xlateG_injective hg hj
    omega

theorem State.readByte_writeAt {s : State} {c a i : Nat} {bs : List Byte} (h : s.checkRange c a bs.length = none) (hi : i < bs.length) :
    (s.writeAt c (spread a bs)).readByte c (a + i) = bs[i] := by
  obtain ⟨g, hg⟩ := State.xlateG_of_checkRange h hi
  unfold State.readByte
  rw [(SameMap.writeAt s c _).xlateG, hg]
  exact State.memGet_writeAt_checked hi hg

end Sys2Proof.Machine

/-! How a flit leaves an output of a switch (09 R252, R253, R256, R261): what is touched, and where the flit then stands. -/

namespace Sys2Proof.Machine

open Sys2Proof

/-! ### The register groups of the lattice -/

/-- A register in which a switch, its LP or the misses of a core are recorded. -/
def LatReg (a : Nat) : Prop :=
  0x10000000 ≤ a ∧ (a % 0x100000 = 0x3000 ∨ a % 0x100000 = 0x3024 ∨ a % 0x100000 = 0x7100 ∨ a % 0x100000 = 0x8000)

theorem MapReg.not_lat {a : Nat} (h : MapReg a) : ¬ LatReg a := by
  unfold MapReg at h
  unfold LatReg
  omega

theorem latReg_latStatus (c : Nat) : LatReg (rLatStatus c) := by unfold LatReg rLatStatus coreBase; omega
theorem latReg_lpStatus (c : Nat) : LatReg (rLpStatus c) := by unfold LatReg rLpStatus coreBase; omega
theorem latReg_sqStatus (c : Nat) : LatReg (rSqStatus c) := by unfold LatReg rSqStatus coreBase; omega
theorem latReg_missCount (c : Nat) : LatReg (rSqMissCount c) := by unfold LatReg rSqMissCount coreBase; omega
theorem not_latReg_refuse (c : Nat) : ¬ LatReg (rLpRefuse c) := by unfold LatReg rLpRefuse coreBase; omega
theorem not_latReg_region {r : Nat} (h : r < 16) : ¬ LatReg (rPmRegionClk r) := by unfold LatReg rPmRegionClk; omega

/-- What a flit that leaves touches: the inputs of switches, a leg's buffer, and the records of misses. -/
structure Left (u t : State) : Prop where
  only : Only [.cores, .regs, .beat, .sc, .tether, .free] u t
  lp : ∀ k, (t.core k).lp = (u.core k).lp
  issued : ∀ k, (t.core k).issued = (u.core k).issued
  regs : ∀ a, ¬ LatReg a → t.rd a = u.rd a

theorem Left.refl (u : State) : Left u u := ⟨.refl _ _, fun _ => rfl, fun _ => rfl, fun _ _ => rfl⟩

theorem Left.trans {u t v : State} (h : Left u t) (k : Left t v) : Left u v :=
  ⟨h.only.trans k.only, fun n => (k.lp n).trans (h.lp n), fun n => (k.issued n).trans (h.issued n),
    fun a ha => (k.regs a ha).trans (h.regs a ha)⟩

theorem Left.sameMap {u t : State} (h : Left u t) : SameMap u t :=
  .of_only h.only (by decide) (by decide) fun a ha => h.regs a ha.not_lat

theorem Left.linkOf {u t : State} (h : Left u t) (c o : Nat) : t.linkOf c o = u.linkOf c o := by
  unfold State.linkOf State.rows
  rw [h.only .fuses (by decide)]

theorem State.physRow_lt (s : State) (x y : Nat) : s.physRow x y < 16 := by
  unfold State.physRow
  rw [List.getD_eq_getElem?_getD]
  cases h : ((List.range 16).filter fun py => decide (fld (s.fuses.colmap x) py 1 = 1))[y]? with
  | none => exact (by decide : 0 < 16)
  | some v => exact List.mem_range.mp (List.mem_filter.mp (List.mem_of_getElem? h)).1

theorem State.regionOf_lt (s : State) (c : Nat) : s.regionOf c < 16 := by
  have := s.physRow_lt (c % 16) (c / 16)
  unfold State.regionOf
  omega

theorem Left.level {u t : State} (h : Left u t) (c : Nat) : t.level (t.regionOf c) = u.level (u.regionOf c) := by
  have hregion : t.regionOf c = u.regionOf c := by
    unfold State.regionOf State.physRow
    rw [h.only .fuses (by decide)]
  unfold State.level
  rw [hregion, h.regs _ (not_latReg_region (u.regionOf_lt c))]

/-! ### The parts of a departure -/

theorem State.lpMiss_lat (s : State) (c : Nat) (pc : Option Nat) : Only [.regs, .beat, .sc, .free] s (s.lpMiss c pc) := by
  cases pc with
  | some n => exact .coreMiss _ _ _ _ (by decide) (by decide) (by decide)
  | none => exact (Only.free s _ (by decide)).trans (.coreMiss _ _ _ _ (by decide) (by decide) (by decide))

theorem State.rd_lpMiss_ne (s : State) (c : Nat) (pc : Option Nat) {a : Nat} (h : ¬ LatReg a) : (s.lpMiss c pc).rd a = s.rd a := by
  have hne {b : Nat} (hb : LatReg b) : a ≠ b := by
    rintro rfl
    exact h hb
  cases pc with
  | some n => exact State.rd_coreMiss_ne _ _ _ (hne (latReg_lpStatus c)) (hne (latReg_sqStatus c)) (hne (latReg_missCount c))
  | none => exact State.rd_coreMiss_ne { s with free := s.free + 1 } _ _ (hne (latReg_lpStatus c)) (hne (latReg_sqStatus c)) (hne (latReg_missCount c))

theorem Left.lpMiss (s : State) (c : Nat) (pc : Option Nat) : Left s (s.lpMiss c pc) := by
  have honly := s.lpMiss_lat c pc
  have hcore (k : Nat) : (s.lpMiss c pc).core k = s.core k := honly .cores (by decide) k
  exact ⟨honly.mono (by decide), fun k => by rw [hcore], fun k => by rw [hcore], fun a ha => s.rd_lpMiss_ne c pc ha⟩

theorem Left.lateMiss (s : State) (c : Nat) (f : Flit) : Left s (if f.late then s.lpMiss c none else s) := by
  split
  · exact .lpMiss s c none
  · exact .refl s

/-- The state with a flit behind those on their way to an input. -/
def State.putInput (s : State) (d : Nat) (i : Dir) (g : Flit) : State :=
  s.updCore d fun k => { k with lat := k.lat.setInput i (k.lat.input i ++ [g]) }

theorem Left.putInput (s : State) (d : Nat) (i : Dir) (g : Flit) : Left s (s.putInput d i g) := by
  refine ⟨.updCore _ _ _ (by decide), fun k => ?_, fun k => ?_, fun a _ => Only.updCore (ch := [.cores]) s d _ (by decide) .regs (by decide) a⟩
  · rw [State.putInput, State.core_updCore]; split <;> simp_all
  · rw [State.putInput, State.core_updCore]; split <;> simp_all

theorem Left.setLegOut (s : State) (n : Nat) (q : List Flit) : Left s (s.setLegOut n q) :=
  ⟨.tether _ _ (by decide), fun _ => rfl, fun _ => rfl, fun _ _ => rfl⟩

theorem Left.missedAt (s : State) (d c : Nat) (pc : Option Nat) (i : Dir) (g : Flit) :
    Left s (((s.setBit (rLatStatus d) 14).putInput d i g).lpMiss c pc) := by
  have h1 : Left s (s.setBit (rLatStatus d) 14) := by
    have honly : Only [.regs] s (s.setBit (rLatStatus d) 14) := .setBit _ _ _ (by decide)
    have hcore (k : Nat) : (s.setBit (rLatStatus d) 14).core k = s.core k := honly .cores (by decide) k
    exact ⟨honly.mono (by decide), fun k => by rw [hcore], fun k => by rw [hcore],
      fun a ha => s.rd_setBit_ne 14 (by rintro rfl; exact ha (latReg_latStatus d))⟩
  exact h1.trans ((Left.putInput _ d i g).trans (.lpMiss _ c pc))

/-- The flit at a leg: put into its buffer where that has room. -/
def State.atLeg (s : State) (n : Nat) (f : Flit) : State :=
  if f.gone then s else if (s.legOut n).length < 64 then s.setLegOut n (s.legOut n ++ [{ f with late := false }]) else s

theorem Left.atLeg (s : State) (n : Nat) (f : Flit) : Left s (s.atLeg n f) := by
  unfold State.atLeg
  split
  · exact .refl s
  · split
    · exact .setLegOut s n _
    · exact .refl s

/-- A flit leaves by the link of its output. -/
theorem State.leaveBy_eq (s : State) (c o : Nat) (f : Flit) (pc : Option Nat) : s.leaveBy c o f pc = match s.linkOf c o with
    | .core d i => if f.gone = true ∨ s.level (s.regionOf c) = s.level (s.regionOf d) then s.putInput d i f
        else ((s.setBit (rLatStatus d) 14).putInput d i { f with gone := true }).lpMiss c pc
    | .leg n => (if f.late then s.lpMiss c none else s).atLeg n f
    | .nowhere => s := by
  unfold State.leaveBy
  cases s.linkOf c o with
  | core d i =>
    by_cases hg : f.gone = true
    · exact (if_pos hg).trans (if_pos (.inl hg)).symm
    · by_cases hl : s.level (s.regionOf c) = s.level (s.regionOf d)
      · exact ((if_neg hg).trans (if_pos hl)).trans (if_pos (.inr hl)).symm
      · exact ((if_neg hg).trans (if_neg hl)).trans (if_neg (not_or.mpr ⟨hg, hl⟩)).symm
  | leg n => rfl
  | nowhere => rfl

section
variable {s : State} {c o : Nat} {f : Flit} {pc : Option Nat}

theorem State.leaveBy_core {d : Nat} {i : Dir} (h : s.linkOf c o = .core d i) : s.leaveBy c o f pc =
    if f.gone = true ∨ s.level (s.regionOf c) = s.level (s.regionOf d) then s.putInput d i f
    else ((s.setBit (rLatStatus d) 14).putInput d i { f with gone := true }).lpMiss c pc := by
  rw [State.leaveBy_eq, h]

theorem State.leaveBy_leg {n : Nat} (h : s.linkOf c o = .leg n) : s.leaveBy c o f pc = (if f.late then s.lpMiss c none else s).atLeg n f := by
  rw [State.leaveBy_eq, h]

theorem State.leaveBy_nowhere (h : s.linkOf c o = .nowhere) : s.leaveBy c o f pc = s := by
  rw [State.leaveBy_eq, h]

end

theorem Left.leaveBy (s : State) (c o : Nat) (f : Flit) (pc : Option Nat) : Left s (s.leaveBy c o f pc) := by
  cases h : s.linkOf c o with
  | core d i =>
    rw [State.leaveBy_core h]
    split
    · exact .putInput s d i f
    · exact .missedAt s d c pc i _
  | leg n =>
    rw [State.leaveBy_leg h]
    exact (Left.lateMiss s c f).trans (.atLeg _ n f)
  | nowhere =>
    rw [State.leaveBy_nowhere h]
    exact .refl s

/-! ### Where the flit stands -/

theorem Lat.input_setInput_ne (l : Lat) {d j : Dir} (q : List Flit) (h : j ≠ d) : (l.setInput d q).input j = l.input j := by
  cases d <;> cases j <;> simp_all [Lat.setInput, Lat.input]

theorem Lat.input_setInput_same (l : Lat) {d : Dir} (q : List Flit) (h : d ≠ .l) : (l.setInput d q).input d = q := by
  cases d
  case l => exact absurd rfl h
  all_goals rfl

theorem State.input_putInput_ne (s : State) {d e : Nat} {i j : Dir} (g : Flit) (h : ¬ (e = d ∧ j = i)) :
    ((s.putInput d i g).core e).lat.input j = (s.core e).lat.input j := by
  rw [State.putInput, State.core_updCore]
  split
  · next he => rw [Lat.input_setInput_ne _ _ fun hj => h ⟨he, hj⟩, he]
  · rfl

theorem State.input_putInput_same (s : State) (d : Nat) {i : Dir} (g : Flit) (h : i ≠ .l) :
    ((s.putInput d i g).core d).lat.input i = (s.core d).lat.input i ++ [g] := by
  rw [State.putInput, State.core_updCore, if_pos rfl, Lat.input_setInput_same _ _ h]

theorem State.input_lpMiss (s : State) (c : Nat) (pc : Option Nat) (d : Nat) : (s.lpMiss c pc).core d = s.core d :=
  s.lpMiss_lat c pc .cores (by decide) d

theorem State.core_atLeg (s : State) (n : Nat) (f : Flit) (d : Nat) : (s.atLeg n f).core d = s.core d := by
  unfold State.atLeg
  split
  · rfl
  · split <;> rfl

theorem State.core_lateMiss (s : State) (c : Nat) (f : Flit) (d : Nat) : (if f.late then s.lpMiss c none else s).core d = s.core d := by
  split
  · exact s.input_lpMiss c none d
  · rfl

/-- The input of a neighbour that a flit leaves for has it last. -/
theorem State.input_leaveBy_same {s : State} {c o d : Nat} {i : Dir} {f : Flit} (pc : Option Nat) (h : s.linkOf c o = .core d i) (hi : i ≠ .l)
    (hl : f.gone = true ∨ s.level (s.regionOf c) = s.level (s.regionOf d)) :
    ((s.leaveBy c o f pc).core d).lat.input i = (s.core d).lat.input i ++ [f] := by
  rw [State.leaveBy_core h, if_pos hl, State.input_putInput_same _ _ _ hi]

/-- The other inputs stand. -/
theorem State.input_leaveBy_ne {s : State} {c o d : Nat} {i : Dir} (f : Flit) (pc : Option Nat) (h : s.linkOf c o ≠ .core d i) :
    ((s.leaveBy c o f pc).core d).lat.input i = (s.core d).lat.input i := by
  cases hlink : s.linkOf c o with
  | core d' i' =>
    have hne : ¬ (d = d' ∧ i = i') := fun ⟨hd, hi⟩ => h (by rw [hlink, hd, hi])
    have hset (k : Nat) : (s.setBit (rLatStatus d') 14).core k = s.core k := Only.setBit (ch := [.regs]) s _ _ (by decide) .cores (by decide) k
    rw [State.leaveBy_core hlink]
    split
    · exact s.input_putInput_ne f hne
    · rw [State.input_lpMiss, State.input_putInput_ne _ _ hne, hset]
  | leg n => rw [State.leaveBy_leg hlink, State.core_atLeg, State.core_lateMiss]
  | nowhere => rw [State.leaveBy_nowhere hlink]

theorem State.legOut_lateMiss (s : State) (c n : Nat) (f : Flit) : (if f.late then s.lpMiss c none else s).legOut n = s.legOut n := by
  have htether : (s.lpMiss c none).tether = s.tether := s.lpMiss_lat c none .tether (by decide)
  split
  · rw [State.legOut, htether, State.legOut]
  · rfl

/-- The buffer of a leg that a flit leaves by has it last. -/
theorem State.legOut_leaveBy_same {s : State} {c o n : Nat} {f : Flit} (pc : Option Nat) (h : s.linkOf c o = .leg n) (hg : f.gone = false)
    (hroom : (s.legOut n).length < 64) : (s.leaveBy c o f pc).legOut n = s.legOut n ++ [{ f with late := false }] := by
  have hroom' : ((if f.late then s.lpMiss c none else s).legOut n).length < 64 := by rwa [State.legOut_lateMiss]
  rw [State.leaveBy_leg h, State.atLeg, if_neg (by rw [hg]; decide), if_pos hroom']
  refine (Laws.get_set_same _ _ _ _).trans ?_
  rw [State.legOut_lateMiss]

theorem State.legOut_setLegOut_ne (s : State) {m n : Nat} (q : List Flit) (h : n ≠ m) : (s.setLegOut m q).legOut n = s.legOut n :=
  (Laws.get_set _ _ _ _ _).trans (if_neg h)

theorem State.legOut_atLeg_ne (s : State) {m n : Nat} (f : Flit) (h : n ≠ m) : (s.atLeg m f).legOut n = s.legOut n := by
  unfold State.atLeg
  split
  · rfl
  · split
    · exact s.legOut_setLegOut_ne _ h
    · rfl

/-- The other legs' buffers stand. -/
theorem State.legOut_leaveBy_ne {s : State} {c o n : Nat} (f : Flit) (pc : Option Nat) (h : s.linkOf c o ≠ .leg n) :
    (s.leaveBy c o f pc).legOut n = s.legOut n := by
  cases hlink : s.linkOf c o with
  | core d i =>
    have h1 : (s.setBit (rLatStatus d) 14).tether = s.tether := Only.setBit (ch := [.regs]) s _ _ (by decide) .tether (by decide)
    have h2 (t : State) (g : Flit) : (t.putInput d i g).tether = t.tether := Only.updCore (ch := [.cores]) t d _ (by decide) .tether (by decide)
    have h3 (t : State) : (t.lpMiss c pc).tether = t.tether := t.lpMiss_lat c pc .tether (by decide)
    unfold State.legOut
    rw [State.leaveBy_core hlink]
    split
    · rw [h2]
    · rw [h3, h2, h1]
  | leg m =>
    have hne : n ≠ m := by
      rintro rfl
      exact h hlink
    rw [State.leaveBy_leg hlink, State.legOut_atLeg_ne _ f hne, State.legOut_lateMiss]
  | nowhere => rw [State.leaveBy_nowhere hlink]

/-- No two outputs lead to one place. -/
theorem State.linkOf_injective {s : State} {c o p : Nat} (ho : o < 4) (hp : p < 4) (h : s.linkOf c o = s.linkOf c p)
    (hn : s.linkOf c o ≠ .nowhere) : o = p := by
  have hlt := Nat.mod_lt c (by decide : 0 < 16)
  unfold State.linkOf at h hn
  obtain rfl | rfl | rfl | rfl : o = 0 ∨ o = 1 ∨ o = 2 ∨ o = 3 := by omega
  all_goals obtain rfl | rfl | rfl | rfl : p = 0 ∨ p = 1 ∨ p = 2 ∨ p = 3 := by omega
  all_goals simp at h hn ⊢
  all_goals split_ifs at h hn
  all_goals simp at h hn

theorem State.linkOf_core_dir {s : State} {c o d : Nat} {i : Dir} (h : s.linkOf c o = .core d i) : i ≠ .l := by
  unfold State.linkOf at h
  rintro rfl
  dsimp only at h
  split_ifs at h
  all_goals exact absurd h (by simp)

end Sys2Proof.Machine

/-! How a flit is deposited, and how it passes a switch (06 R193; 09 R254, R259, R263). -/

namespace Sys2Proof.Machine

open Sys2Proof

/-! ### The deposit -/

theorem State.finishIssued_lp (s : State) (c : Nat) (i : Issued) (k : Nat) :
    ((s.finishIssued c i).core k).lp = (s.core k).lp ∧ ((s.finishIssued c i).core k).lat = (s.core k).lat := by
  unfold State.finishIssued State.endIssued
  rw [State.core_updCore]
  split
  · next h => rw [h]; exact ⟨rfl, rfl⟩
  · exact ⟨rfl, rfl⟩

/-- The commands that stood behind a buffer end: only their cores' records of commands change. -/
theorem State.finishAll_frame (c : Nat) (l : List Issued) (s : State) :
    Only [.cores] s (l.foldl (fun t i => t.finishIssued c i) s)
      ∧ ∀ k, ((l.foldl (fun t i => t.finishIssued c i) s).core k).lp = (s.core k).lp
        ∧ ((l.foldl (fun t i => t.finishIssued c i) s).core k).lat = (s.core k).lat := by
  induction l generalizing s with
  | nil => exact ⟨.refl _ _, fun _ => ⟨rfl, rfl⟩⟩
  | cons i l ih =>
    obtain ⟨honly, hcore⟩ := ih (s.finishIssued c i)
    have h1 : Only [.cores] s (s.finishIssued c i) := .updCore _ _ _ (by decide)
    exact ⟨h1.trans honly, fun k => ⟨(hcore k).1.trans (s.finishIssued_lp c i k).1, (hcore k).2.trans (s.finishIssued_lp c i k).2⟩⟩

/-- The data of a flit written for a buffer, and its poison. -/
def State.landed (s : State) (c : Nat) (a : Arm) (f : Flit) : State :=
  let bad := ((List.range 16).filter fun g => f.poison.getD g false).map fun g => a.dst + a.got + 8 * g
  if f.void || f.gone then s
  else
    let t := (s.writeAt c (spread (a.dst + a.got) (f.bytes.take 128))).poisonAt c bad
    if bad.isEmpty then t else t.setBit (rLpStatus c) 3

/-- The buffer after the flit. -/
def Arm.after (a : Arm) (f : Flit) : Arm := { a with got := a.got + 128, written := a.written || !(f.void || f.gone) }

/-- The state with a core's armed buffers changed. -/
def State.updArms (s : State) (c : Nat) (g : List Arm → List Arm) : State :=
  s.updCore c fun k => { k with lp := { k.lp with arms := g k.lp.arms } }

/-- The flag add of a buffer that is complete leaves. -/
def State.postAdd (s : State) (c : Nat) (p : Part) (a : Arm) : State :=
  match a.add with
  | some x => s.postFlag ⟨p.fbase + x.1.toNat, .add, x.2, c, 3, a.id⟩
  | none => s

section
variable {s : State} {c st : Nat} {f : Flit}

theorem State.deposit_none {v : State} (hv : (if f.late then s.lpMiss c none else s) = v)
    (h : ((v.core c).lp.arms.find? fun a => decide (a.strm.val = st)) = none) :
    s.deposit c st f = if f.gone then v else v.lpRefuse c st := by
  unfold State.deposit
  extract_lets u
  rw [show u = v from hv, h]

theorem State.deposit_some {v : State} {a : Arm} (hv : (if f.late then s.lpMiss c none else s) = v)
    (h : ((v.core c).lp.arms.find? fun a => decide (a.strm.val = st)) = some a) :
    s.deposit c st f = if a.got + 128 < a.bytes then (v.landed c a f).updArms c (fun l => l.map fun x => if x.id = a.id then a.after f else x)
      else (((v.core c).issued.filter fun i => decide (i.id = a.id)).foldl (fun t i => t.finishIssued c i)
        ((v.landed c a f).updArms c fun l => l.filter fun x => decide (x.id ≠ a.id))).postAdd c (v.corePart c) a := by
  unfold State.deposit
  extract_lets u
  rw [show u = v from hv, h]
  rfl

end

theorem Only.landed (s : State) (c : Nat) (a : Arm) (f : Flit) : Only writtenGroups s (s.landed c a f) := by
  unfold State.landed
  extract_lets bad t
  have ht : Only writtenGroups s t := (Only.writeAt s c _).trans ((Only.poisonAt _ c bad).mono (by decide))
  split
  · exact .refl _ _
  · split
    · exact ht
    · exact ht.trans (.setBit _ _ _ (by decide))

theorem SameMap.landed (s : State) (c : Nat) (a : Arm) (f : Flit) : SameMap s (s.landed c a f) := by
  unfold State.landed
  extract_lets bad t
  have ht : SameMap s t := (SameMap.writeAt s c _).trans (.poisonAt _ c bad)
  split
  · exact .refl _
  · split
    · exact ht
    · exact ht.trans (.setBit _ _ fun h => h.not_lat (latReg_lpStatus c))

/-- A flit that carries nothing writes nothing. -/
theorem State.landed_void {s : State} {c : Nat} {a : Arm} {f : Flit} (h : f.void = true ∨ f.gone = true) : s.landed c a f = s := by
  unfold State.landed
  exact if_pos (by simpa using h)

/-- The bytes of a flit that carries data stand in the buffer. -/
theorem State.readByte_landed {s : State} {c i : Nat} {a : Arm} {f : Flit} (hv : f.void = false) (hg : f.gone = false)
    (hlen : f.bytes.length = 128) (hcheck : s.checkRange c (a.dst + a.got) 128 = none) (hi : i < 128) :
    (s.landed c a f).readByte c (a.dst + a.got + i) = f.bytes.getD i 0 := by
  have hlen' : (f.bytes.take 128).length = 128 := by rw [List.length_take, hlen]; rfl
  have hmem : ∀ g, (s.landed c a f).memGet g = (s.writeAt c (spread (a.dst + a.got) (f.bytes.take 128))).memGet g := by
    intro g
    unfold State.landed
    extract_lets bad t
    have ht : t.memGet g = (s.writeAt c (spread (a.dst + a.got) (f.bytes.take 128))).memGet g :=
      Only.poisonAt _ c bad .mem (by decide) g
    rw [if_neg (by rw [hv, hg]; decide)]
    split
    · exact ht
    · exact (Only.setBit (ch := [.regs]) t _ _ (by decide) .mem (by decide) g).trans ht
  have hmap : SameMap (s.writeAt c (spread (a.dst + a.got) (f.bytes.take 128))) (s.landed c a f) :=
    ⟨(SameMap.landed s c a f).fuses.trans (SameMap.writeAt s c _).fuses.symm,
      fun p => ((SameMap.landed s c a f).parts p).trans ((SameMap.writeAt s c _).parts p).symm,
      fun b hb => ((SameMap.landed s c a f).regs b hb).trans ((SameMap.writeAt s c _).regs b hb).symm⟩
  rw [hmap.readByte hmem, State.readByte_writeAt (by rw [hlen']; exact hcheck) (by rw [hlen']; exact hi)]
  rw [List.getElem_take, List.getD_eq_getElem?_getD, List.getElem?_eq_getElem (by omega), Option.getD_some]

theorem State.arms_updArms (s : State) (c : Nat) (g : List Arm → List Arm) : ((s.updArms c g).core c).lp.arms = g (s.core c).lp.arms := by
  rw [State.updArms, State.core_updCore_same]

theorem Only.updArms (s : State) (c : Nat) (g : List Arm → List Arm) : Only [.cores] s (s.updArms c g) := .updCore _ _ _ (by decide)

theorem State.lat_updArms (s : State) (c : Nat) (g : List Arm → List Arm) (k : Nat) : ((s.updArms c g).core k).lat = (s.core k).lat := by
  rw [State.updArms, State.core_updCore]
  split
  · next h => rw [h]
  · rfl

theorem Only.postAdd (s : State) (c : Nat) (p : Part) (a : Arm) : Only [.flags] s (s.postAdd c p a) := by
  unfold State.postAdd
  split
  · exact .flags _ _ (by decide)
  · exact .refl _ _

theorem State.ops_postAdd (s : State) (c : Nat) (p : Part) (a : Arm) :
    (s.postAdd c p a).flags.ops = s.flags.ops ++ (match a.add with
      | some x => [⟨p.fbase + x.1.toNat, .add, x.2, c, 3, a.id⟩]
      | none => []) := by
  unfold State.postAdd
  cases a.add with
  | some x => rfl
  | none => exact (List.append_nil _).symm

theorem Only.lpRefuse (s : State) (c st : Nat) : Only [.free, .regs, .sc, .beat] s (s.lpRefuse c st) := by
  unfold State.lpRefuse
  extract_lets s0 s1 s2
  have h1 : Only [.free, .regs, .sc, .beat] s s1 := (Only.free s _ (by decide)).trans (.setBit _ _ _ (by decide))
  have h2 : Only [.free, .regs, .sc, .beat] s s2 := h1.trans (.ite (.refl _ _) (.wr _ _ _ (by decide)))
  exact h2.trans ((Only.gather _ _ _ _ _ _ _ (by decide)).trans (.failBeat _ (by decide)))

/-- What a refused landing records. -/
theorem State.lpRefuse_frame (s : State) (c st : Nat) :
    bit ((s.lpRefuse c st).rd (rLpStatus c)) 2 = true ∧ (s.lpRefuse c st).beat.acc.fail = true
      ∧ (bit (s.rd (rLpRefuse c)) 6 = false → (s.lpRefuse c st).rd (rLpRefuse c) = BitVec.ofNat 32 (st + 64)) := by
  unfold State.lpRefuse
  extract_lets s0 s1 s2
  have hne : rLpStatus c ≠ rLpRefuse c := by unfold rLpStatus rLpRefuse; omega
  have h1 : bit (s1.rd (rLpStatus c)) 2 = true := bit_rd_setBit s0 _ (by decide)
  refine ⟨?_, rfl, fun h => ?_⟩
  · rw [State.rd_failBeat_other, State.rd_gather_other]
    unfold s2
    split
    · exact h1
    · rwa [State.rd_wr_ne _ _ hne]
  · rw [State.rd_failBeat_other, State.rd_gather_other]
    unfold s2
    rw [if_neg (by rw [h]; decide), State.rd_wr_same]

/-! ### Through the switch -/

/-- The neighbours and legs that an entry sends a source to. -/
def sideOuts (e : DWord) (code : Nat) : List Nat := (List.range 4).filter fun o => decide (latSrc e o = code)

theorem mem_sideOuts {e : DWord} {code o : Nat} : o ∈ sideOuts e code ↔ o < 4 ∧ latSrc e o = code := by
  simp [sideOuts]

/-- A flit through the outputs of a switch that lead away. -/
def State.leaveAll (s : State) (c : Nat) (e : DWord) (code : Nat) (f : Flit) (pc : Option Nat) : State :=
  (sideOuts e code).foldl (fun t o => t.leaveBy c o f pc) s

theorem isEmpty_outs {e : DWord} {code : Nat} :
    ((List.range 5).filter fun o => decide (latSrc e o = code)).isEmpty = true ↔ ∀ o, o < 5 → latSrc e o ≠ code := by
  rw [List.isEmpty_iff, List.filter_eq_nil_iff]
  simp

section
variable {s : State} {c code : Nat} {f : Flit} {pc : Option Nat} {e : DWord} (he : s.latEntry c = some e)
include he

/-- A flit that no output selects. -/
theorem State.pass_unselected (hn : ∀ o, o < 5 → latSrc e o ≠ code) :
    s.pass c code f pc = if f.void || f.gone then s else s.bump (rLatDiscards c) := by
  unfold State.pass
  rw [he]
  exact if_pos (isEmpty_outs.mpr hn)

/-- A flit that an output selects. -/
theorem State.pass_selected {o : Nat} (ho : o < 5) (hsrc : latSrc e o = code) :
    s.pass c code f pc = if latSrc e 4 = code then (s.leaveAll c e code f pc).deposit c (latRecv e) f else s.leaveAll c e code f pc := by
  have houts : (List.range 5).filter (fun o => decide (latSrc e o = code)) = sideOuts e code ++ (if latSrc e 4 = code then [4] else []) := by
    rw [show List.range 5 = List.range 4 ++ [4] from rfl, List.filter_append, sideOuts, List.filter_singleton]
    simp [Bool.cond_eq_ite]
  have hsides (t : State) : (sideOuts e code).foldl (fun t o => if o = 4 then t.deposit c (latRecv e) f else t.leaveBy c o f pc) t
      = t.leaveAll c e code f pc := by
    unfold State.leaveAll
    refine List.foldl_ext _ _ _ fun u o ho => if_neg ?_
    have := (mem_sideOuts.mp ho).1
    omega
  unfold State.pass
  rw [he]
  refine (if_neg fun h => isEmpty_outs.mp h o ho hsrc).trans ?_
  dsimp only
  rw [houts, List.foldl_append, hsides]
  split
  · rfl
  · rfl

end

/-- What one step of a fold does to a part of the state, the others leaving it, is what the fold does. -/
theorem foldl_once {σ α β : Type} (R : σ → Prop) (step : σ → α → σ) (m : σ → β) (F : β → β) {os : List α} {o : α} (ho : o ∈ os) (hnd : os.Nodup)
    (hR : ∀ t x, R t → R (step t x)) (hother : ∀ t x, x ∈ os → x ≠ o → R t → m (step t x) = m t)
    (hsame : ∀ t, R t → m (step t o) = F (m t)) {s : σ} (hs : R s) : m (os.foldl step s) = F (m s) := by
  have hrest (l : List α) (hl : ∀ x ∈ l, x ∈ os ∧ x ≠ o) (t : σ) (ht : R t) : m (l.foldl step t) = m t := by
    induction l generalizing t with
    | nil => rfl
    | cons x l ih =>
      obtain ⟨hx, hne⟩ := hl x List.mem_cons_self
      exact (ih (fun y hy => hl y (List.mem_cons_of_mem _ hy)) _ (hR t x ht)).trans (hother t x hx hne ht)
  have hkeep (l : List α) (t : σ) (ht : R t) : R (l.foldl step t) := by
    induction l generalizing t with
    | nil => exact ht
    | cons x l ih => exact ih _ (hR t x ht)
  obtain ⟨p, q, rfl⟩ := List.append_of_mem ho
  have hno : o ∉ p ∧ o ∉ q := by
    obtain ⟨-, hq, hpq⟩ := List.nodup_append.mp hnd
    exact ⟨fun h => hpq o h o List.mem_cons_self rfl, (List.nodup_cons.mp hq).1⟩
  rw [List.foldl_append, List.foldl_cons]
  rw [hrest q (fun x hx => ⟨List.mem_append_right _ (List.mem_cons_of_mem _ hx), fun h => hno.2 (h ▸ hx)⟩) _ (hR _ _ (hkeep p s hs)),
    hsame _ (hkeep p s hs), hrest p (fun x hx => ⟨List.mem_append_left _ hx, fun h => hno.1 (h ▸ hx)⟩) s hs]

theorem Left.leaveAll (s : State) (c : Nat) (e : DWord) (code : Nat) (f : Flit) (pc : Option Nat) : Left s (s.leaveAll c e code f pc) := by
  unfold State.leaveAll
  generalize sideOuts e code = l
  induction l generalizing s with
  | nil => exact .refl s
  | cons o l ih => exact (Left.leaveBy s c o f pc).trans (ih _)

section
variable {s : State} {c code o : Nat} {e : DWord} {f : Flit} {pc : Option Nat}

theorem State.input_leaveAll {d : Nat} {i : Dir} (ho : o < 4) (hsrc : latSrc e o = code) (h : s.linkOf c o = .core d i)
    (hl : f.gone = true ∨ s.level (s.regionOf c) = s.level (s.regionOf d)) :
    ((s.leaveAll c e code f pc).core d).lat.input i = (s.core d).lat.input i ++ [f] := by
  refine foldl_once (Left s) _ (fun t => (t.core d).lat.input i) (· ++ [f]) (mem_sideOuts.mpr ⟨ho, hsrc⟩) (List.nodup_range.filter _)
    (fun t x ht => ht.trans (.leaveBy t c x f pc)) (fun t x hx hne ht => ?_) (fun t ht => ?_) (.refl s)
  · refine State.input_leaveBy_ne f pc fun hx' => hne ?_
    rw [ht.linkOf] at hx'
    exact State.linkOf_injective (mem_sideOuts.mp hx).1 ho (hx'.trans h.symm) (by rw [hx']; simp)
  · refine State.input_leaveBy_same pc (by rw [ht.linkOf, h]) (State.linkOf_core_dir h) ?_
    rwa [ht.level, ht.level]

theorem State.legOut_leaveAll {n : Nat} (ho : o < 4) (hsrc : latSrc e o = code) (h : s.linkOf c o = .leg n) (hg : f.gone = false)
    (hroom : (s.legOut n).length < 64) : (s.leaveAll c e code f pc).legOut n = s.legOut n ++ [{ f with late := false }] := by
  refine (foldl_once (Left s) _ (fun t => t.legOut n) (fun q => if q.length < 64 then q ++ [{ f with late := false }] else q)
    (mem_sideOuts.mpr ⟨ho, hsrc⟩) (List.nodup_range.filter _)
    (fun t x ht => ht.trans (.leaveBy t c x f pc)) (fun t x hx hne ht => ?_) (fun t ht => ?_) (.refl s)).trans (if_pos hroom)
  · refine State.legOut_leaveBy_ne f pc fun hx' => hne ?_
    rw [ht.linkOf] at hx'
    exact State.linkOf_injective (mem_sideOuts.mp hx).1 ho (hx'.trans h.symm) (by rw [hx']; simp)
  · have hlink : t.linkOf c o = .leg n := by rw [ht.linkOf, h]
    split
    · next hr => exact State.legOut_leaveBy_same pc hlink hg hr
    · next hr =>
      rw [State.leaveBy_leg hlink, State.atLeg, if_neg (by rw [hg]; decide), State.legOut_lateMiss, if_neg hr, State.legOut_lateMiss]

end

end Sys2Proof.Machine

/-! The schedule of the lattice (06 R192, R193; 09 R253 to R263). -/

namespace Sys2Proof.Machine

open Sys2Proof

/-- The late flit's own miss leaves the buffers and the switches. -/
theorem State.lateMiss_arms (s : State) (c : Nat) (f : Flit) {st : Nat} {o : Option Arm}
    (h : ((s.core c).lp.arms.find? fun a => decide (a.strm.val = st)) = o) :
    (((if f.late then s.lpMiss c none else s).core c).lp.arms.find? fun a => decide (a.strm.val = st)) = o := by
  rw [(Left.lateMiss s c f).lp, h]

/-- A deposit leaves the switches and the legs. -/
theorem State.deposit_switches (s : State) (c st : Nat) (f : Flit) :
    (∀ d, ((s.deposit c st f).core d).lat = (s.core d).lat) ∧ (s.deposit c st f).tether = s.tether := by
  have hv : Only [.regs, .beat, .sc, .free] s (if f.late then s.lpMiss c none else s) := .ite (s.lpMiss_lat c none) (.refl _ _)
  generalize hvdef : (if f.late then s.lpMiss c none else s) = v at hv
  have hcore : ∀ d, v.core d = s.core d := hv .cores (by decide)
  have htether : v.tether = s.tether := hv .tether (by decide)
  cases harm : ((v.core c).lp.arms.find? fun a => decide (a.strm.val = st)) with
  | none =>
    rw [State.deposit_none hvdef harm]
    split
    · exact ⟨fun d => by rw [hcore], htether⟩
    · have hr := Only.lpRefuse v c st
      have hrc : ∀ d, (v.lpRefuse c st).core d = v.core d := hr .cores (by decide)
      exact ⟨fun d => by rw [hrc, hcore], Eq.trans (hr .tether (by decide)) htether⟩
  | some a =>
    rw [State.deposit_some hvdef harm]
    have hl := Only.landed v c a f
    have hlc : ∀ d, (v.landed c a f).core d = v.core d := hl .cores (by decide)
    have hlt : (v.landed c a f).tether = s.tether := Eq.trans (hl .tether (by decide)) htether
    have hu (g : List Arm → List Arm) : (∀ d, (((v.landed c a f).updArms c g).core d).lat = (s.core d).lat)
        ∧ ((v.landed c a f).updArms c g).tether = s.tether :=
      ⟨fun d => by rw [State.lat_updArms, hlc, hcore], Eq.trans (Only.updArms _ c g .tether (by decide)) hlt⟩
    split
    · exact hu _
    · obtain ⟨honly, hfin⟩ := State.finishAll_frame c ((v.core c).issued.filter fun i => decide (i.id = a.id))
        ((v.landed c a f).updArms c fun l => l.filter fun x => decide (x.id ≠ a.id))
      have hp := Only.postAdd (((v.core c).issued.filter fun i => decide (i.id = a.id)).foldl (fun t i => t.finishIssued c i)
        ((v.landed c a f).updArms c fun l => l.filter fun x => decide (x.id ≠ a.id))) c (v.corePart c) a
      have hpc := hp .cores (by decide)
      exact ⟨fun d => by rw [hpc d, (hfin d).2, (hu _).1], Eq.trans (hp .tether (by decide)) (Eq.trans (honly .tether (by decide)) (hu _).2)⟩

/-- The deposit of a flit in the oldest buffer of its stream. -/
theorem State.deposit_frame {s : State} {c st : Nat} {f : Flit} {a : Arm}
    (h : ((s.core c).lp.arms.find? fun a => decide (a.strm.val = st)) = some a) :
    (f.void = false → f.gone = false → f.bytes.length = 128 → s.checkRange c (a.dst + a.got) 128 = none →
        ∀ i, i < 128 → (s.deposit c st f).readByte c (a.dst + a.got + i) = f.bytes.getD i 0)
      ∧ (f.void = true ∨ f.gone = true → ∀ m, (s.deposit c st f).memGet m = s.memGet m)
      ∧ (a.got + 128 < a.bytes → (s.deposit c st f).flags.ops = s.flags.ops
        ∧ ((s.deposit c st f).core c).lp.arms = (s.core c).lp.arms.map fun x => if x.id = a.id then a.after f else x)
      ∧ (a.bytes ≤ a.got + 128 → ((s.deposit c st f).core c).lp.arms = (s.core c).lp.arms.filter (fun x => decide (x.id ≠ a.id))
        ∧ (s.deposit c st f).flags.ops = s.flags.ops ++ (match a.add with
          | some p => [⟨(s.corePart c).fbase + p.1.toNat, .add, p.2, c, 3, a.id⟩]
          | none => [])) := by
  have hlate := Left.lateMiss s c f
  have harm := s.lateMiss_arms c f h
  generalize hv : (if f.late then s.lpMiss c none else s) = v at hlate harm
  have hmem : ∀ m, v.memGet m = s.memGet m := hlate.only .mem (by decide)
  have hops : v.flags = s.flags := hlate.only .flags (by decide)
  have hland := Only.landed v c a f
  have hlandc : (v.landed c a f).core c = v.core c := hland .cores (by decide) c
  have hlandf : (v.landed c a f).flags = s.flags := Eq.trans (hland .flags (by decide)) hops
  have harms (g : List Arm → List Arm) : (((v.landed c a f).updArms c g).core c).lp.arms = g (s.core c).lp.arms := by
    rw [State.arms_updArms, hlandc, hlate.lp]
  by_cases hroom : a.got + 128 < a.bytes
  · have hd : s.deposit c st f = (v.landed c a f).updArms c (fun l => l.map fun x => if x.id = a.id then a.after f else x) := by
      rw [State.deposit_some hv harm, if_pos hroom]
    rw [hd]
    have hu := Only.updArms (v.landed c a f) c fun l => l.map fun x => if x.id = a.id then a.after f else x
    have hum := hu .mem (by decide)
    refine ⟨fun hvoid hgone hlen hcheck i hi => ?_, fun hnil m => ?_, fun _ => ⟨?_, harms _⟩, fun hle => absurd hroom (Nat.not_lt.mpr hle)⟩
    · rw [(SameMap.of_regs hu (by decide) (by decide) (by decide)).readByte hum]
      exact State.readByte_landed hvoid hgone hlen (by rw [hlate.sameMap.checkRange, hcheck]) hi
    · rw [hum m, State.landed_void hnil, hmem]
    · have huf := hu .flags (by decide)
      exact congrArg Flags.ops (Eq.trans huf hlandf)
  · have hd : s.deposit c st f = (((v.core c).issued.filter fun i => decide (i.id = a.id)).foldl (fun t i => t.finishIssued c i)
        ((v.landed c a f).updArms c fun l => l.filter fun x => decide (x.id ≠ a.id))).postAdd c (v.corePart c) a := by
      rw [State.deposit_some hv harm, if_neg hroom]
    rw [hd]
    obtain ⟨hfo, hfc⟩ := State.finishAll_frame c ((v.core c).issued.filter fun i => decide (i.id = a.id))
      ((v.landed c a f).updArms c fun l => l.filter fun x => decide (x.id ≠ a.id))
    have hfin : Only [.cores] (v.landed c a f) (((v.core c).issued.filter fun i => decide (i.id = a.id)).foldl
        (fun t i => t.finishIssued c i) ((v.landed c a f).updArms c fun l => l.filter fun x => decide (x.id ≠ a.id))) :=
      (Only.updArms (v.landed c a f) c fun l => l.filter fun x => decide (x.id ≠ a.id)).trans hfo
    generalize ((v.core c).issued.filter fun i => decide (i.id = a.id)).foldl (fun t i => t.finishIssued c i)
      ((v.landed c a f).updArms c fun l => l.filter fun x => decide (x.id ≠ a.id)) = w at hfin hfc
    have hpost := Only.postAdd w c (v.corePart c) a
    have hall : Only [.cores, .flags] (v.landed c a f) (w.postAdd c (v.corePart c) a) := (hfin.mono (by decide)).trans (hpost.mono (by decide))
    have ham := hall .mem (by decide)
    have hwf : w.flags = s.flags := Eq.trans (hfin .flags (by decide)) hlandf
    have hpc := hpost .cores (by decide) c
    refine ⟨fun hvoid hgone hlen hcheck i hi => ?_, fun hnil m => ?_, fun hlt => absurd hlt hroom, fun _ => ⟨?_, ?_⟩⟩
    · rw [(SameMap.of_regs hall (by decide) (by decide) (by decide)).readByte ham]
      exact State.readByte_landed hvoid hgone hlen (by rw [hlate.sameMap.checkRange, hcheck]) hi
    · rw [ham m, State.landed_void hnil, hmem]
    · rw [hpc, (hfc c).1, harms]
    · have hops := State.ops_postAdd w c (v.corePart c) a
      rw [hwf, hlate.sameMap.corePart] at hops
      rw [hlate.sameMap.corePart]
      exact hops

/-- The refusal of a flit no buffer waits for. -/
theorem State.deposit_refused {s : State} {c st : Nat} {f : Flit} (h : ((s.core c).lp.arms.find? fun a => decide (a.strm.val = st)) = none)
    (hg : f.gone = false) :
    bit ((s.deposit c st f).rd (rLpStatus c)) 2 = true ∧ (s.deposit c st f).beat.acc.fail = true
      ∧ (bit (s.rd (rLpRefuse c)) 6 = false → (s.deposit c st f).rd (rLpRefuse c) = BitVec.ofNat 32 (st + 64))
      ∧ (∀ m, (s.deposit c st f).memGet m = s.memGet m) := by
  have hlate := Left.lateMiss s c f
  have harm := s.lateMiss_arms c f h
  generalize hv : (if f.late then s.lpMiss c none else s) = v at hlate harm
  rw [State.deposit_none hv harm, if_neg (by rw [hg]; decide)]
  obtain ⟨hbit, hfail, hrefuse⟩ := v.lpRefuse_frame c st
  have hmem := Only.lpRefuse v c st .mem (by decide)
  have hvm := hlate.only .mem (by decide)
  exact ⟨hbit, hfail, fun h6 => hrefuse (by rw [hlate.regs _ (not_latReg_refuse c), h6]), fun m => Eq.trans (hmem m) (hvm m)⟩

/-- A flit passes a switch as its entry says. -/
theorem forwarded_pass {u : State} {c : Nat} {e : DWord} (code : Nat) (f : Flit) (pc : Option Nat) (he : u.latEntry c = some e) :
    Forwarded u (u.pass c code f pc) c code f e := by
  have hall := Left.leaveAll u c e code f pc
  have hsel {o : Nat} (ho : o < 5) (hsrc : latSrc e o = code) := State.pass_selected (f := f) (pc := pc) he ho hsrc
  have hamem : ∀ m, (u.leaveAll c e code f pc).memGet m = u.memGet m := hall.only .mem (by decide)
  have haflags : (u.leaveAll c e code f pc).flags = u.flags := hall.only .flags (by decide)
  have hkeeps {o : Nat} (ho : o < 5) (hsrc : latSrc e o = code) :
      (∀ d, ((u.pass c code f pc).core d).lat = ((u.leaveAll c e code f pc).core d).lat)
        ∧ (u.pass c code f pc).tether = (u.leaveAll c e code f pc).tether := by
    rw [hsel ho hsrc]
    split
    · exact State.deposit_switches _ c _ f
    · exact ⟨fun _ => rfl, rfl⟩
  have hlocal (h4 : latSrc e 4 = code) : u.pass c code f pc = (u.leaveAll c e code f pc).deposit c (latRecv e) f := by
    rw [hsel (by decide) h4, if_pos h4]
  refine ⟨fun o d i ⟨ho, hsrc, hlink⟩ hl => ?_, fun o n ⟨ho, hsrc, hlink⟩ hg hroom => ?_, fun h4 hmine hg => ?_, fun a h4 hmine => ?_, fun hn => ?_⟩
  · rw [(hkeeps (by omega) hsrc).1, State.input_leaveAll ho hsrc hlink hl]
  · have hleg : (u.pass c code f pc).legOut n = (u.leaveAll c e code f pc).legOut n := by
      unfold State.legOut
      rw [(hkeeps (by omega) hsrc).2]
    rw [hleg, State.legOut_leaveAll ho hsrc hlink hg hroom]
  · rw [hlocal h4]
    obtain ⟨hbit, hfail, hrefuse, hmem⟩ := State.deposit_refused (f := f) (by rw [hall.lp]; exact hmine) hg
    exact ⟨hbit, hfail, fun h6 => hrefuse (by rw [hall.regs _ (not_latReg_refuse c), h6]), fun m => by rw [hmem, hamem]⟩
  · rw [hlocal h4]
    obtain ⟨hbytes, hnil, hgoes, hends⟩ := State.deposit_frame (f := f) (a := a) (s := u.leaveAll c e code f pc) (c := c) (st := latRecv e) (by rw [hall.lp]; exact hmine)
    refine ⟨fun hv hg hlen hcheck => hbytes hv hg hlen (by rw [hall.sameMap.checkRange, hcheck]), fun h m => by rw [hnil h, hamem],
      fun hlt => ?_, fun hle => ?_⟩
    · obtain ⟨hops, harms⟩ := hgoes hlt
      exact ⟨by rw [hops, haflags], by rw [harms, hall.lp]; rfl⟩
    · obtain ⟨harms, hops⟩ := hends hle
      rw [haflags, hall.sameMap.corePart] at hops
      exact ⟨by rw [harms, hall.lp], hops⟩
  · rw [State.pass_unselected he hn]
    split
    · exact ⟨fun _ => rfl, rfl⟩
    · exact ⟨Only.bump (ch := [.regs]) u _ (by decide) .mem (by decide), u.rd_wr_same _ _⟩

end Sys2Proof.Machine

/-! The events of the switches and legs (06 R192, R193; 09 R252 to R264). -/

namespace Sys2Proof.Machine

open Sys2Proof

/-! ### What the entry in effect rests on -/

/-- The period is the same: only what is gathered of it may differ. -/
def SamePeriod (s t : State) : Prop := ∃ acc, t.beat = { s.beat with acc := acc }

theorem SamePeriod.refl (s : State) : SamePeriod s s := ⟨s.beat.acc, rfl⟩

theorem SamePeriod.trans {s t u : State} (h : SamePeriod s t) (k : SamePeriod t u) : SamePeriod s u := by
  obtain ⟨x, hx⟩ := h
  obtain ⟨y, hy⟩ := k
  exact ⟨y, by rw [hy, hx]⟩

theorem SamePeriod.of_beat {s t : State} (h : t.beat = s.beat) : SamePeriod s t := ⟨s.beat.acc, h⟩

theorem SamePeriod.of_only {ch : List Grp} {s t : State} (h : Only ch s t) (hb : Grp.beat ∉ ch) : SamePeriod s t := .of_beat (h .beat hb)

theorem SamePeriod.failBeat (s : State) : SamePeriod s s.failBeat := ⟨_, rfl⟩

theorem SamePeriod.foldl {α : Type} (f : State → α → State) (l : List α) (s : State) (hf : ∀ t x, SamePeriod t (f t x)) :
    SamePeriod s (l.foldl f s) := by
  induction l generalizing s with
  | nil => exact .refl s
  | cons x l ih => exact (hf s x).trans (ih _)

theorem SamePeriod.touch (s : State) (g : Nat) (sched : Bool) : SamePeriod s (s.touch g sched) := by
  have hregs (a n b : Nat) : SamePeriod s ((s.setBit a n).bump b) :=
    .of_only (ch := [.regs]) ((Only.setBit s a n (by decide)).trans (.bump _ _ (by decide))) (by decide)
  unfold State.touch
  extract_lets c p s1 b u1 u2 u3 v1
  split
  case h_1 => exact .refl s
  case h_2 =>
    split
    · exact (hregs _ _ _).trans (.of_only (.setBank (ch := [.banks]) s1 _ _ _ (by decide)) (by decide))
    · exact hregs _ _ _
  case h_3 =>
    have h1 : SamePeriod s u1 := hregs _ _ _
    have h2 : SamePeriod u1 u2 := .of_only (ch := [.regs]) (.ite (.refl _ _) (.wr _ _ _ (by decide))) (by decide)
    have h3 : SamePeriod u2 u3 := .of_only (.poisonPending (ch := [.poisonPending]) u2 _ (by decide)) (by decide)
    have h4 : SamePeriod u3 (u3.event 0x8C 0 6 (s.partNo c) c (BitVec.ofNat 32 p)) :=
      .of_only (ch := [.regs, .sc]) (.event _ _ _ _ _ _ _ (by decide) (by decide)) (by decide)
    exact h1.trans (h2.trans (h3.trans (h4.trans (.failBeat _))))
  case h_4 =>
    split
    · exact (hregs _ _ _).trans (.failBeat v1)
    · exact hregs _ _ _

theorem SamePeriod.touchRanges (s : State) (c : Nat) (rs : List (Nat × Nat)) : SamePeriod s (s.touchRanges c rs) := by
  have hbeside (t : State) (g : Nat) : SamePeriod t (t.touchBeside g) := by
    unfold State.touchBeside
    split
    · exact .refl t
    · exact .touch t g false
  exact (SamePeriod.foldl (fun (t : State) (g : Nat) => t.touch g true) _ s fun t x => .touch t x true).trans
    (.foldl State.touchBeside _ _ hbeside)

/-- The entry in effect rests on the period, the table and the place in it. -/
theorem State.latEntry_congr {s t : State} {c : Nat} (hb : SamePeriod s t) (hplay : (t.core c).lat.play = (s.core c).lat.play)
    (htable : (t.core c).lat.table = (s.core c).lat.table) (hidx : (t.core c).lat.idx = (s.core c).lat.idx) :
    t.latEntry c = s.latEntry c := by
  obtain ⟨acc, hacc⟩ := hb
  unfold State.latEntry State.inWork Lat.live
  rw [hacc]
  simp only [hplay, htable, hidx]

theorem Lat.setInput_entry (l : Lat) (d : Dir) (q : List Flit) :
    (l.setInput d q).play = l.play ∧ (l.setInput d q).table = l.table ∧ (l.setInput d q).idx = l.idx := by
  cases d <;> exact ⟨rfl, rfl, rfl⟩

/-- The switch with an arrived flit taken from its input. -/
def State.takeFlit (s : State) (c : Nat) (d : Dir) (r : List Flit) : State := s.updCore c fun k => { k with lat := k.lat.setInput d r }

theorem State.latEntry_takeFlit (s : State) (c : Nat) (d : Dir) (r : List Flit) : (s.takeFlit c d r).latEntry c = s.latEntry c := by
  obtain ⟨hplay, htable, hidx⟩ := (s.core c).lat.setInput_entry d r
  have hcore : ((s.takeFlit c d r).core c).lat = (s.core c).lat.setInput d r := by rw [State.takeFlit, State.core_updCore_same]
  exact State.latEntry_congr (.of_only (.updCore (ch := [.cores]) s c _ (by decide)) (by decide))
    (by rw [hcore, hplay]) (by rw [hcore, htable]) (by rw [hcore, hidx])

theorem State.latEntry_of_cores {s t : State} {c : Nat} (hb : SamePeriod s t) (hc : t.core c = s.core c) : t.latEntry c = s.latEntry c :=
  State.latEntry_congr hb (by rw [hc]) (by rw [hc]) (by rw [hc])

theorem SamePeriod.lpMiss (s : State) (c : Nat) (pc : Option Nat) : SamePeriod s (s.lpMiss c pc) := by
  have hmiss (t : State) (n : Nat) : SamePeriod t (t.coreMiss c 4 n) := by
    unfold State.coreMiss
    refine (SamePeriod.of_only (ch := [.regs, .sc]) ?_ (by decide)).trans (.failBeat _)
    exact ((Only.ite (.setBit _ _ _ (by decide)) (.refl _ _)).trans ((Only.setBit _ _ _ (by decide)).trans (.bump _ _ (by decide)))).trans
      (.gather _ _ _ _ _ _ _ (by decide))
  cases pc with
  | some n => exact hmiss s n
  | none => exact (SamePeriod.of_only (.free (ch := [.free]) s (s.free + 1) (by decide)) (by decide)).trans (hmiss _ _)

theorem State.latEntry_lpMiss (s : State) (c : Nat) (pc : Option Nat) : (s.lpMiss c pc).latEntry c = s.latEntry c :=
  State.latEntry_of_cores (.lpMiss s c pc) (s.input_lpMiss c pc c)

/-- The check of a flit records errors only. -/
theorem State.checkFlit_frame (s : State) (c : Nat) (f : Flit) (up : List Upset) :
    Only [.regs, .beat] s (s.checkFlit c f up).1 ∧ SamePeriod s (s.checkFlit c f up).1 := by
  unfold State.checkFlit
  extract_lets ce ue s1 s2
  have h1 : Only [.regs] s s1 := .ite (.refl _ _) ((Only.setBit _ _ _ (by decide)).trans (.bumpN _ _ _ (by decide)))
  have h2 : Only [.regs] s1 (s1.setBit (rLatStatus c) 13) := .setBit _ _ _ (by decide)
  refine ⟨(h1.mono (by decide)).trans (.ite (.refl _ _) ((h2.mono (by decide)).trans (.failBeat _ (by decide)))), ?_⟩
  refine (SamePeriod.of_only h1 (by decide)).trans ?_
  unfold s2
  split
  · exact .refl _
  · exact (SamePeriod.of_only h2 (by decide)).trans (.failBeat _)

theorem State.latEntry_checkFlit (s : State) (c : Nat) (f : Flit) (up : List Upset) : (s.checkFlit c f up).1.latEntry c = s.latEntry c :=
  State.latEntry_of_cores (s.checkFlit_frame c f up).2 ((s.checkFlit_frame c f up).1 .cores (by decide) c)

/-- Without an upset the check finds nothing. -/
theorem State.checkFlit_nil (s : State) (c : Nat) (f : Flit) :
    s.checkFlit c f [] = (s, { f with poison := (List.range 16).map fun g => f.poison.getD g false }) := by
  unfold State.checkFlit
  simp

theorem State.pass_ended {s : State} {c code : Nat} {f : Flit} {pc : Option Nat} (he : s.latEntry c = none) :
    s.pass c code f pc = if f.void || f.gone then s else s.bump (rLatDiscards c) := by
  unfold State.pass
  rw [he]
  exact if_pos rfl

/-! ### A departure -/

/-- A send after 128 bytes more of it have left. -/
def State.sentOn (s : State) (c id : Nat) : State :=
  s.updCore c fun k => { k with lp := { k.lp with sends := k.lp.sends.map fun y => if y.id = id then { y with sent := y.sent + 128 } else y } }

section
variable {s : State} {c : Nat} {e : DWord} {x : Send} (he : s.latEntry c = some e) (hdep : latDeparts e = true)
include he hdep

theorem exec_departure_none (hx : ((s.core c).lp.sends.find? fun y => decide (y.strm.val = latSend e)) = none) :
    exec (.latticeDeparture c) s = .next ((s.lpMiss c none).pass c 5 voidFlit none) := by
  show execLatticeDeparture c s = _
  unfold execLatticeDeparture
  rw [he]
  dsimp only
  rw [if_neg (by rw [hdep]; decide), hx]

theorem exec_departure_some (hx : ((s.core c).lp.sends.find? fun y => decide (y.strm.val = latSend e)) = some x) (hmore : x.sent + 128 < x.bytes)
    (hclean : ∀ g, g < 16 → s.bytePoisoned c (x.src + x.sent + 8 * g) = false) :
    exec (.latticeDeparture c) s = .next (((s.touchRanges c [(x.src + x.sent, 128)]).sentOn c x.id).pass c 5
      ⟨false, false, false, s.readBytes c (x.src + x.sent) 128, List.replicate 16 false⟩ ((s.core c).pcOf x.id)) := by
  have hpoison : ((List.range 16).map fun g => s.bytePoisoned c (x.src + x.sent + 8 * g)) = List.replicate 16 false :=
    (List.map_congr_left fun g hg => hclean g (List.mem_range.mp hg)).trans (by decide)
  show execLatticeDeparture c s = _
  unfold execLatticeDeparture
  rw [he]
  dsimp only
  rw [if_neg (by rw [hdep]; decide), hx]
  dsimp only
  rw [hpoison, if_pos hmore, if_neg (by decide : ¬ (List.replicate 16 false).any id = true)]
  rfl

end

/-- What has left changes of the state: the send that is read, and what reading finds. -/
theorem State.sentOn_frame (s : State) (c id : Nat) (rs : List (Nat × Nat)) :
    (((s.touchRanges c rs).sentOn c id).core c).lp.sends
        = (s.core c).lp.sends.map (fun y => if y.id = id then { y with sent := y.sent + 128 } else y)
      ∧ (∀ k, k ≠ c → ((s.touchRanges c rs).sentOn c id).core k = s.core k)
      ∧ (∀ g, ((s.touchRanges c rs).sentOn c id).memGet g = s.memGet g)
      ∧ ((s.touchRanges c rs).sentOn c id).latEntry c = s.latEntry c := by
  have hcore := s.core_touchRanges c rs
  have hupd : Only [.cores] (s.touchRanges c rs) ((s.touchRanges c rs).sentOn c id) := .updCore _ _ _ (by decide)
  have hmem := hupd .mem (by decide)
  have hc : ((s.touchRanges c rs).sentOn c id).core c = { s.core c with lp := { (s.core c).lp with
      sends := (s.core c).lp.sends.map fun y => if y.id = id then { y with sent := y.sent + 128 } else y } } := by
    rw [State.sentOn, State.core_updCore_same, hcore]
  refine ⟨by rw [hc], fun k hk => ?_, fun g => (hmem g).trans (s.memGet_touchRanges c rs g), ?_⟩
  · rw [State.sentOn, State.core_updCore, if_neg hk, hcore]
  · exact State.latEntry_congr ((SamePeriod.touchRanges s c rs).trans (.of_only hupd (by decide))) (by rw [hc]) (by rw [hc]) (by rw [hc])

/-! ### A leg -/

theorem State.legIn_of_tether {s t : State} (h : t.tether.legArr = s.tether.legArr) (n : Nat) : t.legIn n = s.legIn n := by
  unfold State.legIn
  rw [h]

/-- The arrival buffers of legs stand while a flit leaves. -/
theorem State.legArr_leaveBy (s : State) (c o : Nat) (f : Flit) (pc : Option Nat) :
    (s.leaveBy c o f pc).tether.legArr = s.tether.legArr := by
  have hmiss (t : State) (p : Option Nat) : (t.lpMiss c p).tether = t.tether := t.lpMiss_lat c p .tether (by decide)
  have hput (t : State) (d : Nat) (i : Dir) (g : Flit) : (t.putInput d i g).tether = t.tether :=
    Only.updCore (ch := [.cores]) t d _ (by decide) .tether (by decide)
  have hset (t : State) (a n : Nat) : (t.setBit a n).tether = t.tether := Only.setBit (ch := [.regs]) t _ _ (by decide) .tether (by decide)
  cases h : s.linkOf c o with
  | core d i =>
    rw [State.leaveBy_core h]
    split
    · rw [hput]
    · rw [hmiss, hput, hset]
  | leg n =>
    have hlate : (if f.late then s.lpMiss c none else s).tether = s.tether := by
      split
      · exact hmiss s none
      · rfl
    rw [State.leaveBy_leg h]
    generalize (if f.late then s.lpMiss c none else s) = v at hlate
    rw [← hlate]
    unfold State.atLeg
    split
    · rfl
    · split <;> rfl
  | nowhere => rw [State.leaveBy_nowhere h]

theorem State.legArr_pass (s : State) (c code : Nat) (f : Flit) (pc : Option Nat) : (s.pass c code f pc).tether.legArr = s.tether.legArr := by
  have hall (e : DWord) : (s.leaveAll c e code f pc).tether.legArr = s.tether.legArr := by
    unfold State.leaveAll
    generalize sideOuts e code = l
    generalize hs : s.tether.legArr = q
    induction l generalizing s with
    | nil => exact hs
    | cons o l ih => exact ih _ ((s.legArr_leaveBy c o f pc).trans hs)
  have hbump : (s.bump (rLatDiscards c)).tether = s.tether := Only.bump (ch := [.regs]) s _ (by decide) .tether (by decide)
  cases he : s.latEntry c with
  | none =>
    rw [State.pass_ended he]
    split
    · rfl
    · rw [hbump]
  | some e =>
    by_cases hn : ∀ o, o < 5 → latSrc e o ≠ code
    · rw [State.pass_unselected he hn]
      split
      · rfl
      · rw [hbump]
    · push Not at hn
      obtain ⟨o, ho, hsrc⟩ := hn
      rw [State.pass_selected he ho hsrc]
      split
      · rw [(State.deposit_switches _ c _ f).2, hall]
      · exact hall e

theorem exec_legArrival {s : State} {leg : Fin 32} {up : List Upset} {e : DWord} {core code : Nat}
    (hcore : core = if leg.val < 16 then leg.val else (s.rows - 1) * 16 + (leg.val - 16)) (hcode : code = if leg.val < 16 then 1 else 3)
    (he : s.latEntry core = some e) (hsel : (List.range 5).any (fun o => decide (latSrc e o = code)) = true) :
    exec (.legArrival ⟨leg, up⟩) s = match s.legIn leg.val with
      | [] => .next ((s.lpMiss core none).pass core code voidFlit none)
      | f :: r => .next (((s.setLegIn leg.val r).checkFlit core f up).1.pass core code ((s.setLegIn leg.val r).checkFlit core f up).2 none) := by
  subst hcore hcode
  show execLegArrival ⟨leg, up⟩ s = _
  unfold execLegArrival
  extract_lets core code
  rw [he]
  exact if_neg (by rw [hsel]; decide)

/-! ### The obligation -/

/-- Settles O47, from how a flit leaves an output, is deposited and passes a switch. -/
theorem latticeMoves : Obligations.LatticeMoves := by
  intro s c d up leg f r e x
  refine ⟨fun hwork hplay => ?_, fun hin => ?_, fun he hdep hx => ?_, fun he hdep hx hmore hclean => ?_, ?_⟩
  · have hexec : exec (.switchEntryAdvance c) s = .next (s.updCore c fun k => { k with lat := k.lat.at (k.lat.idx + 1) }) :=
      if_pos ⟨hwork, hplay⟩
    exact .of_eq hexec ⟨State.core_updCore_same _ _ _, fun k hk => by rw [State.core_updCore, if_neg hk], .updCore _ _ _ (by decide)⟩
  · have hexec : exec (.latticeArrival c d up) s
        = .next (((s.takeFlit c d r).checkFlit c f up).1.pass c (dirCode d) ((s.takeFlit c d r).checkFlit c f up).2 none) := by
      show execLatticeArrival c d up s = _
      unfold execLatticeArrival
      rw [hin]
      rfl
    have hentry := s.latEntry_takeFlit c d r
    refine ⟨.of_eq hexec ⟨rfl, fun he => ?_⟩, fun hup => ?_, fun he hup => ?_⟩
    · exact forwarded_pass _ _ _ (by rw [State.latEntry_checkFlit]; exact hentry.trans he)
    · rw [hup, State.checkFlit_nil]
      exact ⟨rfl, rfl⟩
    · subst hup
      rw [State.checkFlit_nil, State.pass_ended (hentry.trans he)] at hexec
      have hd : d ≠ .l := by
        rintro rfl
        exact absurd hin (by simp [Lat.input])
      have htake : Only [.cores] s (s.takeFlit c d r) := .updCore _ _ _ (by decide)
      have hinput : ((s.takeFlit c d r).core c).lat.input d = r := by
        rw [State.takeFlit, State.core_updCore_same, Lat.input_setInput_same _ _ hd]
      have hother (k : Nat) (hk : k ≠ c) : (s.takeFlit c d r).core k = s.core k := by rw [State.takeFlit, State.core_updCore, if_neg hk]
      have hbump : Only [.regs] (s.takeFlit c d r) ((s.takeFlit c d r).bump (rLatDiscards c)) := .bump _ _ (by decide)
      have hbc := hbump .cores (by decide)
      have hrd := htake .regs (by decide) (rLatDiscards c)
      refine .of_eq hexec ?_
      by_cases hv : (f.void || f.gone) = true
      · rw [if_pos hv, if_pos hv]
        exact ⟨hinput, hrd, hother, htake.mono (by decide)⟩
      · rw [if_neg hv, if_neg hv]
        refine ⟨by rw [hbc c, hinput], (State.rd_wr_same _ _ _).trans ?_, fun k hk => by rw [hbc k, hother k hk],
          (htake.mono (by decide)).trans (hbump.mono (by decide))⟩
        rw [hrd]
  · exact .of_eq (exec_departure_none he hdep hx) ⟨rfl, forwarded_pass _ _ _ (by rw [State.latEntry_lpMiss, he])⟩
  · obtain ⟨hsends, hcores, hmem, hentry⟩ := s.sentOn_frame c x.id [(x.src + x.sent, 128)]
    exact .of_eq (exec_departure_some he hdep hx hmore hclean) ⟨_, rfl, hsends, hcores, hmem, forwarded_pass _ _ _ (hentry.trans he)⟩
  · intro core code v he hsel
    have hexec := exec_legArrival (up := up) (leg := leg) (core := core) (code := code) rfl rfl he hsel
    refine ⟨fun hin => ?_, fun hin => ?_⟩
    · rw [hin] at hexec
      have hset : (s.setLegIn leg.val r).latEntry core = some e :=
        (State.latEntry_of_cores (.of_only (.tether (ch := [.tether]) s _ (by decide)) (by decide)) rfl).trans he
      have hcheck := ((s.setLegIn leg.val r).checkFlit_frame core f up).1 .tether (by decide)
      have hlegs (n : Nat) : (v.1.pass core code v.2 none).legIn n = if n = leg.val then r else s.legIn n := by
        rw [State.legIn_of_tether (State.legArr_pass _ _ _ _ _), State.legIn_of_tether (congrArg Tether.legArr hcheck), State.legIn_setLegIn]
      exact .of_eq hexec ⟨rfl, by rw [hlegs, if_pos rfl], fun n hn => by rw [hlegs, if_neg hn],
        forwarded_pass _ _ _ ((State.latEntry_checkFlit _ _ _ _).trans hset)⟩
    · rw [hin] at hexec
      exact .of_eq hexec ⟨rfl, forwarded_pass _ _ _ (by rw [State.latEntry_lpMiss, he])⟩

end Sys2Proof.Machine

/-! The queue pairs of the RoCEv2 engine and the end of a reel order (14 R411, R412; 15 R425 to R427). -/

namespace Sys2Proof.Machine

open Sys2Proof

/-! ### What sending and settling leave -/

theorem State.qp_of_only {ch : List Grp} {s t : State} (h : Only ch s t) (hq : Grp.qps ∉ ch) (k : Nat) : t.qp k = s.qp k := by
  unfold State.qp
  rw [h .qps hq]

/-- The groups that sending a packet touches. -/
def sentGroups : List Grp := [.regs, .neigh, .out]

theorem Only.sendRoce (s : State) (k psn : Nat) (op : RoceOp) (va : DWord) (rkey : Word) (len : Nat) (data : List Byte) :
    Only sentGroups s (s.sendRoce k psn op va rkey len data) :=
  (Only.carry s _ (by decide) (by decide) (by decide)).trans (.out _ _ (by decide))

theorem Only.sendReq (s : State) (k : Nat) (r : RoceReq) (skip : Nat) : Only sentGroups s (s.sendReq k r skip) :=
  .foldl _ _ s fun t _ => .sendRoce t _ _ _ _ _ _ _

theorem Only.sendMore (s : State) (k before : Nat) : Only sentGroups s (s.sendMore k before) := .foldl _ _ s fun t r => .sendReq t k r 0

theorem Only.resendFrom (s : State) (k psn : Nat) : Only sentGroups s (s.resendFrom k psn) :=
  .foldl _ _ s fun t r => .ite (.sendReq t k r _) (.ite (.sendReq t k r 0) (.refl _ _))

theorem Only.closeOp (s : State) (p seq : Nat) : Only [.pg] s (s.closeOp p seq) := .setPg _ _ _ (by decide)

theorem Only.sendRecord (s : State) (p : Nat) : Only [.tether] s (s.sendRecord p) := .ite (.refl _ _) (.tether _ _ (by decide))

theorem Only.failOrder (s : State) (p seq : Nat) (poison : Bool) : Only [.regs, .pg, .tether] s (s.failOrder p seq poison) := by
  unfold State.failOrder
  extract_lets q q1 s1
  have h1 : Only [.regs, .pg, .tether] s s1 := (Only.setBit _ _ _ (by decide)).trans (.setPg _ _ _ (by decide))
  exact .ite (.refl _ _) (.ite h1 (h1.trans ((Only.sendRecord s1 p).mono (by decide))))

theorem State.rd_failOrder (s : State) (p seq : Nat) (poison : Bool) {a : Nat} (h : a ≠ rRlStatus) :
    (s.failOrder p seq poison).rd a = s.rd a := by
  unfold State.failOrder
  extract_lets q q1 s1
  have h1 : s1.rd a = s.rd a :=
    Eq.trans (Only.setPg (ch := [.pg]) (s.setBit rRlStatus (if poison then 1 else 2)) p q1 (by decide) .regs (by decide) a) (s.rd_setBit_ne _ h)
  have h2 : (s1.sendRecord p).rd a = s1.rd a := Only.sendRecord s1 p .regs (by decide) a
  split
  · rfl
  · split
    · exact h1
    · exact h2.trans h1

/-! ### Acknowledgements (15 R426) -/

/-- A request that an acknowledgement up to a PSN covers whole. -/
def acked (psn : Nat) (r : RoceReq) : Bool := decide (r.op ≠ .readReq) && decide (psnFrom (r.psn + r.span - 1) psn < 2 ^ 23)

/-- The pairs after operations are closed and packets sent. -/
theorem State.qp_closed (s : State) (k j n : Nat) (gone : List RoceReq) :
    ((gone.foldl (fun t r => t.closeOp r.part r.order) s).sendMore k n).qp j = s.qp j := by
  have h1 : Only [.pg] s (gone.foldl (fun t r => t.closeOp r.part r.order) s) := .foldl _ _ s fun t r => .closeOp t _ _
  rw [State.qp_of_only (.sendMore _ k n) (by decide), State.qp_of_only h1 (by decide)]

theorem drop_length_takeWhile {α : Type} (p : α → Bool) (l : List α) : l.drop (l.takeWhile p).length = l.dropWhile p := by
  have h := List.drop_left (l₁ := l.takeWhile p) (l₂ := l.dropWhile p)
  rwa [List.takeWhile_append_dropWhile] at h

/-- The queue after an acknowledgement: the requests it covers are gone, the next perhaps acknowledged in part. -/
theorem State.qp_ackReqs (s : State) (k psn : Nat) :
    (∀ r rs x, (s.qp k).reqs.dropWhile (acked psn) = r :: rs → r.advanced psn = some x →
        ((s.ackReqs k psn).qp k).reqs = x :: rs ∧ ((s.ackReqs k psn).qp k).tries = 0)
      ∧ ((∀ r rs, (s.qp k).reqs.dropWhile (acked psn) = r :: rs → r.advanced psn = none) →
        ((s.ackReqs k psn).qp k).reqs = (s.qp k).reqs.dropWhile (acked psn)) := by
  have hrest : (s.qp k).reqs.drop ((s.qp k).reqs.takeWhile (acked psn)).length = (s.qp k).reqs.dropWhile (acked psn) :=
    drop_length_takeWhile _ _
  unfold State.ackReqs
  extract_lets q gone wire rest
  rw [show rest = (s.qp k).reqs.dropWhile (acked psn) from hrest]
  refine ⟨fun r rs x hr hx => ?_, fun hnone => ?_⟩
  · rw [hr, List.head?_cons, Option.bind_some, hx]
    dsimp only
    rw [State.qp_closed, State.qp_setQp, if_pos rfl]
    exact ⟨rfl, rfl⟩
  · have hbind : ((s.qp k).reqs.dropWhile (acked psn)).head?.bind (fun r => r.advanced psn) = none := by
      cases h : (s.qp k).reqs.dropWhile (acked psn) with
      | nil => rfl
      | cons r rs => exact hnone r rs h
    rw [hbind]
    dsimp only
    split
    · next hgone =>
      have hnil : (s.qp k).reqs.takeWhile (acked psn) = [] := List.isEmpty_iff.mp hgone
      rw [← hrest, hnil]
      rfl
    · rw [State.qp_closed, State.qp_setQp, if_pos rfl]

/-- An error empties the queue pair. -/
theorem State.qpError_frame (s : State) (k : Nat) : ((s.qpError k).qp k).reqs = [] ∧ (s.qpError k).qpState k = 2 := by
  unfold State.qpError
  extract_lets reqs src s1
  have hfold : Only [.regs, .pg, .tether] s1 (reqs.foldl (fun t r => t.failOrder r.part r.order false) s1) := .foldl _ _ s1 fun t r => .failOrder t _ _ _
  have hrd : (reqs.foldl (fun t r => t.failOrder r.part r.order false) s1).rd (rIoQpCtl k) = s1.rd (rIoQpCtl k) :=
    State.rd_foldl _ _ s1 fun t r => t.rd_failOrder _ _ _ (by unfold rIoQpCtl rRlStatus; omega)
  have hqp : (reqs.foldl (fun t r => t.failOrder r.part r.order false) s1).qp k = s1.qp k := State.qp_of_only hfold (by decide) k
  have h1 : s1.qp k = { s.qp k with reqs := [], tries := 0 } :=
    (State.qp_of_only (ch := [.regs]) (.wrF (s.setQp k { s.qp k with reqs := [], tries := 0 }) _ 0 2 2 (by decide)) (by decide) k).trans
      ((s.qp_setQp k k _).trans (if_pos rfl))
  refine ⟨by rw [hqp, h1], ?_⟩
  unfold State.qpState
  rw [hrd]
  show fld (((s.setQp k { s.qp k with reqs := [], tries := 0 }).wrF (rIoQpCtl k) 0 2 2).rd (rIoQpCtl k)) 0 2 = 2
  exact (congrArg (fld · 0 2) ((State.rd_wrF _ _ _ _ _ _).trans (if_pos rfl))).trans (fld_setFld _ _ _ _ (by decide))

/-- A retry counts, or is the last (15 R426). -/
theorem State.retryFrom_frame (s : State) (k psn : Nat) :
    ((s.qp k).tries < fld (s.rd (rIoQpCtl k)) 9 3 → (s.retryFrom k psn).qp k = { s.qp k with tries := (s.qp k).tries + 1 })
      ∧ (fld (s.rd (rIoQpCtl k)) 9 3 ≤ (s.qp k).tries → (s.retryFrom k psn).qpState k = 2 ∧ ((s.retryFrom k psn).qp k).reqs = []) := by
  unfold State.retryFrom
  refine ⟨fun hlt => ?_, fun hle => ?_⟩
  · rw [if_neg (Nat.not_le.mpr hlt)]
    exact (State.qp_of_only (.resendFrom _ k psn) (by decide) k).trans ((s.qp_setQp k k _).trans (if_pos rfl))
  · rw [if_pos hle]
    exact (s.qpError_frame k).symm

/-! ### Responses (14 R411; 15 R425) -/

/-- The end of a read takes it and the writes before it off the queue. -/
theorem State.qp_readArrives {s : State} {k : Nat} {r : RoceReq} {before : List RoceReq} {bs : List Byte} (h : r.len ≤ r.off + bs.length) :
    ((s.readArrives k r before bs).qp k).reqs = (s.qp k).reqs.drop (before.length + 1) := by
  unfold State.readArrives
  extract_lets q wire s1 rest s2 s3
  have hmore (n : Nat) : ((s2.closeOp r.part r.order).sendMore k n).qp k = s2.qp k :=
    (State.qp_of_only (.sendMore _ k n) (by decide) k).trans (State.qp_of_only (.closeOp s2 _ _) (by decide) k)
  rw [if_pos h, hmore]
  have h2 : s2.qp k = { q with reqs := rest.drop 1, tries := 0 } := (s1.qp_setQp k k _).trans (if_pos rfl)
  rw [h2, List.drop_drop]

/-- The packet that a queue pair sends, where its peer is resolved. -/
theorem State.sendRoce_out {s : State} {k psn : Nat} {op : RoceOp} {va : DWord} {rkey : Word} {len : Nat} {data : List Byte}
    (h : s.neigh.contains (1, s.qpDip k) = true) :
    ∃ crc, (s.sendRoce k psn op va rkey len data).out
      = s.out ++ [.roce (s.qpWire k) k (fld (s.rd (rIoQpDqpn k)) 0 24) psn op va rkey len data crc] := by
  have hnet : (s.qpWire k).net = 1 ∧ (s.qpWire k).dst = s.qpDip k := by
    unfold State.qpWire
    extract_lets home w
    split <;> exact ⟨rfl, rfl⟩
  have hknown : s.neigh.contains ((s.qpWire k).net.val, (s.qpWire k).dst) = true := by rw [hnet.1, hnet.2]; exact h
  have hout : (s.carry (s.qpWire k)).out = s.out := by
    unfold State.carry
    split
    · rfl
    · rw [if_pos hknown, State.bump_out]
  unfold State.sendRoce
  extract_lets w t dqpn crc
  exact ⟨crc, congrArg (· ++ _) hout⟩

theorem State.qpWire_frame (s : State) (k : Nat) : (s.qpWire k).dst = s.qpDip k ∧ (s.qpWire k).sport = 0xC000 + k % 0x4000
    ∧ (s.qpWire k).dport = 4791 ∧ (s.qpWire k).ecn = 2 := by
  unfold State.qpWire
  extract_lets home w
  split <;> exact ⟨rfl, rfl, rfl, rfl⟩

/-! ### Orders (14 R411, R412) -/

theorem PgPart.orders_updPage (q : PgPart) (id : Nat) (f : Page → Page) : (q.updPage id f).orders = q.orders := by
  unfold PgPart.updPage
  split <;> rfl

theorem Only.settleDone (s : State) (p : Nat) : Only [.pg, .tether] s (s.settleDone p) := by
  unfold State.settleDone
  extract_lets q d
  exact .ite (.refl _ _) ((Only.setPg _ _ _ (by decide)).trans ((Only.sendRecord _ p).mono (by decide)))

theorem State.orders_settleDone (s : State) (p : Nat) : ((s.settleDone p).pgOf p).orders = (s.pgOf p).orders := by
  unfold State.settleDone
  extract_lets q d
  split
  · rfl
  · have h : ((s.setPg p { q with doneN := d }).sendRecord p).pg = (s.setPg p { q with doneN := d }).pg := Only.sendRecord _ p .pg (by decide)
    have hof : ((s.setPg p { q with doneN := d }).sendRecord p).pgOf p = (s.setPg p { q with doneN := d }).pgOf p := by
      unfold State.pgOf
      rw [h]
    rw [hof, State.pgOf_setPg, if_pos rfl]

/-- An order that is complete is no open order. -/
theorem State.finishOrder_frame (s : State) (p : Nat) (o : Order) :
    (∀ x ∈ ((s.finishOrder p o).pgOf p).orders, x.seq ≠ o.seq) ∧ (∀ g, (s.finishOrder p o).memGet g = s.memGet g) := by
  unfold State.finishOrder
  extract_lets q q1 q2
  have honly : Only [.pg, .tether] s ((s.setPg p q2).settleDone p) := (Only.setPg _ _ _ (by decide)).trans (.settleDone _ p)
  refine ⟨fun x hx => ?_, honly .mem (by decide)⟩
  have h2 : q2.orders = q1.orders := by
    unfold q2
    split
    · rfl
    · exact PgPart.orders_updPage _ _ _
  rw [State.orders_settleDone, State.pgOf_setPg, if_pos rfl, h2] at hx
  exact of_decide_eq_true (List.mem_filter.mp hx).2

/-! ### Rates (15 R427) -/

theorem State.qpRate_wrF (s : State) (k v : Nat) : (s.wrF (rIoQpRate k) 0 10 v).qpRate k = v % 1024 := by
  unfold State.qpRate
  exact (congrArg (fld · 0 10) ((State.rd_wrF _ _ _ _ _ _).trans (if_pos rfl))).trans (fld_setFld _ _ _ _ (by decide))

/-! ### The obligation -/

/-- Settles O51. -/
theorem queuePairs : Obligations.QueuePairs := by
  intro s s1 p qp r rs before part o
  refine ⟨.of_eq rfl fun hle => ⟨?_, fun a ha => s.rd_wrF_ne _ _ _ ha, .wrF _ _ _ _ _ (by decide)⟩, fun hlive hen => ?_, fun hin hsince => ?_,
    fun hin => ⟨?_, ?_, ?_⟩, fun hin hfirst hpsn => ?_, fun hreqs hrts => ?_, fun hfind => ?_⟩
  · rw [State.qpRate_wrF]
    exact Nat.mod_eq_of_lt (by omega)
  · have hframe : s.frameIn p.ep p.vlan = (s.bump (rIoEpRx p.ep), s.tagOk p.ep p.vlan) := if_pos (by rw [hlive, hen]; rfl)
    have hexec : exec (.roceUnsupportedPacket p) s
        = .next (if s.tagOk p.ep p.vlan then (s.bump (rIoEpRx p.ep)).bump rIoBad else s.bump (rIoEpRx p.ep)) := by
      show execRoceUnsupportedPacket p s = _
      unfold execRoceUnsupportedPacket
      rw [hframe]
    have hne : rIoBad ≠ rIoEpRx p.ep := by unfold rIoBad rIoEpRx; omega
    have hbump : Only [.regs] s (s.bump (rIoEpRx p.ep)) := .bump _ _ (by decide)
    refine .of_eq hexec ?_
    by_cases htag : s.tagOk p.ep p.vlan = true
    · rw [if_pos htag, if_pos htag]
      exact ⟨by rw [State.rd_bump_ne _ hne.symm, State.rd_bump, if_pos rfl], hbump.trans (.bump _ _ (by decide)),
        by rw [State.rd_bump, if_pos rfl, State.rd_bump_ne _ hne]⟩
    · rw [if_neg htag, if_neg htag]
      exact ⟨by rw [State.rd_bump, if_pos rfl], hbump, State.rd_bump_ne _ hne⟩
  · have hexec : exec (.cnp p) s = .next ((s1.setQp p.qp { s1.qp p.qp with cutTc := some s1.tb.tc }).wrF (rIoQpRate p.qp) 0 10
        (max (s1.qpRate p.qp / 2) 10)) := by
      show execCnp p s = _
      unfold execCnp
      rw [hin]
      exact if_pos hsince
    have hqp (k : Nat) := State.qp_of_only (ch := [.regs])
      (.wrF (s1.setQp p.qp { s1.qp p.qp with cutTc := some s1.tb.tc }) (rIoQpRate p.qp) 0 10 (max (s1.qpRate p.qp / 2) 10) (by decide)) (by decide) k
    exact .of_eq hexec ⟨State.qpRate_wrF _ _ _, (hqp _).trans ((s1.qp_setQp _ _ _).trans (if_pos rfl)),
      fun k hk => (hqp k).trans ((s1.qp_setQp _ _ _).trans (if_neg hk)),
      (Only.setQp _ _ _ (by decide)).trans (.wrF _ _ _ _ _ (by decide))⟩
  · have hexec : exec (.roceAcknowledge p .ack) s = .next (s1.ackReqs p.qp p.psn) := by
      show execRoceAcknowledge p .ack s = _
      unfold execRoceAcknowledge
      rw [hin]
    obtain ⟨hpart, hwhole⟩ := s1.qp_ackReqs p.qp p.psn
    refine .of_eq hexec ⟨rfl, fun hnil => ?_, fun x xs hrest => ⟨fun hadv => ?_, fun hadv => ?_⟩⟩
    · exact (hwhole fun y ys hy => absurd (hy.symm.trans hnil) (List.cons_ne_nil _ _)).trans hnil
    · exact hpart x xs _ hrest (if_pos hadv)
    · refine (hwhole fun y ys hy => ?_).trans hrest
      obtain ⟨rfl, rfl⟩ := List.cons.inj (hy.symm.trans hrest)
      exact if_neg hadv
  · have hexec : exec (.roceAcknowledge p .nakSeq) s
        = .next ((s1.ackReqs p.qp ((p.psn + 2 ^ 24 - 1) % 2 ^ 24)).retryFrom p.qp p.psn) := by
      show execRoceAcknowledge p .nakSeq s = _
      unfold execRoceAcknowledge
      rw [hin]
    exact .of_eq hexec rfl
  · have hexec : exec (.roceAcknowledge p .nakOther) s = .next (s1.qpError p.qp) := by
      show execRoceAcknowledge p .nakOther s = _
      unfold execRoceAcknowledge
      rw [hin]
    exact .of_eq hexec ⟨rfl, s1.qpError_frame p.qp⟩
  · have hexec : exec (.rdmaReadResponse p) s = if p.psn = r.oldest ∧ p.data.length = min 4096 (r.len - r.off) then .next (s1.readArrives p.qp r before p.data)
        else if p.psn ≠ r.oldest ∧ 2 ^ 23 ≤ psnFrom r.oldest p.psn then .next s1
        else .next (s1.sendRoce p.qp r.oldest .nak 0 0 0 []) := by
      show execRdmaReadResponse p s = _
      unfold execRdmaReadResponse
      rw [hin]
      dsimp only
      rw [hfirst]
    have hpsn' : p.psn = r.oldest := hpsn
    refine ⟨fun hlen => ?_, fun hlen => ?_⟩
    · rw [if_pos ⟨hpsn', hlen⟩] at hexec
      exact .of_eq hexec ⟨rfl, State.qp_readArrives⟩
    · rw [if_neg fun h => hlen h.2, if_neg fun h => h.1 hpsn', ← hpsn'] at hexec
      obtain ⟨hdst, hsport, hdport, hecn⟩ := s1.qpWire_frame p.qp
      exact .of_eq hexec ⟨rfl, hdst, hsport, hdport, hecn, State.sendRoce_out⟩
  · have hexec : exec (.roceRetryTimeout qp) s = .next (s.retryFrom qp.val r.oldest) := by
      show execRoceRetryTimeout qp s = _
      unfold execRoceRetryTimeout
      rw [hreqs]
      exact congrArg Host.Outcome.next (if_pos hrts)
    exact .of_eq hexec ⟨rfl, s.retryFrom_frame qp.val r.oldest⟩
  · have hexec : exec (.reelOrderComplete part) s = .next (s.finishOrder part.val o) := by
      show execReelOrderComplete part s = _
      unfold execReelOrderComplete
      rw [hfind]
    exact .of_eq hexec (s.finishOrder_frame part.val o)

end Sys2Proof.Machine

/-! The cells of a join (10 R299 to R303, R310). -/

namespace Sys2Proof.Machine

open Sys2Proof

/-! ### Cells sent -/

theorem Only.updJoin {ch : List Grp} (s : State) (f : Join → Join) (h : Grp.tether ∈ ch) : Only ch s (s.updJoin f) := .tether _ _ h

theorem State.port_updJoin (s : State) (f : Join → Join) (p : Fin 8) : (s.updJoin f).port p = s.port p := rfl

theorem State.join_updJoin (s : State) (f : Join → Join) : (s.updJoin f).tether.join = f s.tether.join := rfl

theorem State.join_setPort (s : State) (p : Fin 8) (x : TPort) : (s.setPort p x).tether.join = s.tether.join := rfl

/-- A cell sent leaves behind the block of its frame. -/
theorem cellSent_sendOn (s : State) (p : Fin 8) (c : Cell) : CellSent p c s (s.sendOn p c) := by
  unfold State.sendOn
  extract_lets x b y
  exact ⟨rfl, s.port_setPort_same p y, fun q hq => s.port_setPort_ne y hq, rfl,
    (Only.setPort s p y (by decide)).trans (.out _ _ (by decide))⟩

theorem State.sendJoin_frame (s : State) (p : Fin 8) (op : Nat) (body : List Byte) :
    Only [.out, .tether] s (s.sendJoin p op body) ∧ (s.sendJoin p op body).tether.join = s.tether.join
      ∧ (∀ q, ((s.sendJoin p op body).port q).probes = (s.port q).probes ∧ ((s.sendJoin p op body).port q).st = (s.port q).st) := by
  unfold State.sendJoin
  extract_lets c
  obtain ⟨-, hp, hq, hjoin, honly⟩ := cellSent_sendOn s p c
  refine ⟨honly, hjoin, fun q => ?_⟩
  by_cases h : q = p
  · rw [h, hp]
    split <;> exact ⟨rfl, rfl⟩
  · rw [hq q h]
    exact ⟨rfl, rfl⟩

/-- Cells of a join sent in turn leave the join. -/
theorem State.foldl_sendJoin {α : Type} (f : State → α → State) (l : List α) (s : State)
    (hf : ∀ t x, Only [.out, .tether] t (f t x) ∧ (f t x).tether.join = t.tether.join) :
    Only [.out, .tether] s (l.foldl f s) ∧ (l.foldl f s).tether.join = s.tether.join := by
  induction l generalizing s with
  | nil => exact ⟨.refl _ _, rfl⟩
  | cons x l ih => exact ⟨(hf s x).1.trans (ih _).1, (ih _).2.trans (hf s x).2⟩

theorem State.sendJoin_keeps_join (s : State) (p : Fin 8) (op : Nat) (body : List Byte) :
    Only [.out, .tether] s (s.sendJoin p op body) ∧ (s.sendJoin p op body).tether.join = s.tether.join :=
  ⟨(s.sendJoin_frame p op body).1, (s.sendJoin_frame p op body).2.1⟩

/-! ### The report and the start (10 R303) -/

theorem State.takeStart_frame (s : State) (t : DWord) (first : BitVec 48) :
    Only [.out, .tether] s (s.takeStart t first)
      ∧ (s.takeStart t first).tether.join = { s.tether.join with step := 5, startTc := some t, first := first } := by
  unfold State.takeStart
  extract_lets s1
  obtain ⟨honly, hjoin⟩ := State.foldl_sendJoin (fun (u : State) (p : Fin 8) => u.sendJoin p 7 (leBytes 8 t.toNat ++ leBytes 8 first.toNat))
    s1.children s1 fun u p => u.sendJoin_keeps_join p 7 _
  exact ⟨(Only.updJoin s _ (by decide)).trans honly, hjoin⟩

/-- What a join touches in its last steps. -/
def joinGroups : List Grp := [.out, .tether, .regs, .sc]

theorem Only.joinFail (s : State) (code : Nat) : Only joinGroups s (s.joinFail code) :=
  .ite ((Only.updJoin _ _ (by decide)).trans (.log _ _ _ _ _ _ _ (by decide) (by decide))) (.refl _ _)

theorem Only.joinReport (s : State) : Only joinGroups s s.joinReport := by
  unfold State.joinReport
  extract_lets j
  have hsent : Only joinGroups s (s.updJoin fun x => { x with sent := true }) := .updJoin _ _ (by decide)
  refine .ite (.joinFail s 8) (.ite (.ite (.ite (hsent.trans ((State.takeStart_frame _ _ _).1.mono (by decide))) (.refl _ _)) ?_) (.refl _ _))
  split
  · exact hsent.trans ((State.sendJoin_frame _ _ _ _).1.mono (by decide))
  · exact .refl _ _

/-- A report before step 4 is none. -/
theorem State.joinReport_early {s : State} (h : s.tether.join.step ≠ 4) : s.joinReport = s := by
  unfold State.joinReport
  extract_lets j
  exact (if_neg fun hs => h hs.1).trans (if_neg fun hs => h hs.1)

theorem State.sendTime_frame (s : State) (ps : List (Fin 8)) (hops : Nat) :
    Only [.out, .tether] s (s.sendTime ps hops) ∧ (s.sendTime ps hops).tether.join = s.tether.join :=
  State.foldl_sendJoin (fun (t : State) (p : Fin 8) => t.sendJoin p 3 (leBytes 8 s.tb.tc.toNat ++ leBytes 1 hops)) ps s
    fun t p => t.sendJoin_keeps_join p 3 _

theorem Only.joinAlign (s : State) : Only joinGroups s s.joinAlign := by
  unfold State.joinAlign
  extract_lets j
  have hstep (t : State) : Only joinGroups t (t.updJoin fun x => { x with step := 4 }) := .updJoin _ _ (by decide)
  exact .ite (((s.sendTime_frame _ _).1.mono (by decide)).trans ((hstep _).trans (.joinReport _)))
    (.ite ((hstep s).trans (.joinReport _)) (.joinReport s))

/-! ### TIME (10 R302) -/

/-- The time that a TIME names, taken. -/
def State.tookTime (s : State) (t : DWord) (d : Nat) : State :=
  let s0 := s.loadTc t
  let s1 := { s0 with tb := { s0.tb with phase := (d % 32 : Nat), srcPort := bit (s.rd rTbCtl) 0, phaseRef := none } }
  (s1.log originHw 7 0xFF 0 (lo32 s.tb.tc) (lo32 t)).log originHw 7 0xFF 0 (hi32 s.tb.tc) (hi32 t)

theorem State.tookTime_frame (s : State) (t : DWord) (d : Nat) :
    (s.tookTime t d).tb.tc = t ∧ (s.tookTime t d).tb.phase = (d % 32 : Nat) ∧ (s.tookTime t d).tb.phaseRef = none
      ∧ (s.tookTime t d).tether = s.tether := by
  unfold State.tookTime
  extract_lets s0 src s1
  have hlog : Only [.regs, .sc] s1 ((s1.log originHw 7 0xFF 0 (lo32 s.tb.tc) (lo32 t)).log originHw 7 0xFF 0 (hi32 s.tb.tc) (hi32 t)) :=
    (Only.log _ _ _ _ _ _ _ (by decide) (by decide)).trans (.log _ _ _ _ _ _ _ (by decide) (by decide))
  have htb := hlog .tb (by decide)
  have htether := hlog .tether (by decide)
  exact ⟨congrArg TimeBase.tc htb, congrArg TimeBase.phase htb, congrArg TimeBase.phaseRef htb, htether⟩

/-- The device tells its neighbours, and passes TIME on. -/
def State.passTime (s : State) (p : Fin 8) (hops : Nat) : State :=
  let others := s.portsEn.filter fun q => decide (q ≠ p)
  (others.foldl (fun u q => u.sendJoin q 5 []) (s.sendJoin p 4 [])).sendTime others (hops + 1)

theorem State.passTime_frame (s : State) (p : Fin 8) (hops : Nat) :
    Only [.out, .tether] s (s.passTime p hops) ∧ (s.passTime p hops).tether.join = s.tether.join := by
  unfold State.passTime
  extract_lets others
  obtain ⟨h1, j1⟩ := s.sendJoin_keeps_join p 4 []
  obtain ⟨h2, j2⟩ := State.foldl_sendJoin (fun (u : State) (q : Fin 8) => u.sendJoin q 5 []) others (s.sendJoin p 4 []) fun u q => u.sendJoin_keeps_join q 5 []
  obtain ⟨h3, j3⟩ := (others.foldl (fun u q => u.sendJoin q 5 []) (s.sendJoin p 4 [])).sendTime_frame others (hops + 1)
  exact ⟨h1.trans (h2.trans h3), j3.trans (j2.trans j1)⟩

/-- A device without a parent takes the first that is near enough. -/
theorem State.takeTime_first {s : State} {p : Fin 8} {tc : DWord} {hops : Nat} (hnone : s.tether.join.parent = none) (h16 : hops < 16)
    (hrounds : hops < s.rounds) : s.takeTime p tc hops s.tb.tc
      = (((s.tookTime (tc + BitVec.ofNat 64 ((s.port p).delays.foldl max 0 / 32)) ((s.port p).delays.foldl max 0)).updJoin fun x =>
          { x with parent := some p.val, depth := hops + 1 }).passTime p hops).joinAlign := by
  have hbetter : (match s.tether.join.parent with
      | none => true
      | some q => decide (hops + 1 < s.tether.join.depth) || (decide (hops + 1 = s.tether.join.depth) && decide (p.val < q))) = true := by
    rw [hnone]
  have hzero : tc + BitVec.ofNat 64 ((s.port p).delays.foldl max 0 / 32) + (s.tb.tc - s.tb.tc)
      = tc + BitVec.ofNat 64 ((s.port p).delays.foldl max 0 / 32) := by rw [BitVec.sub_self, BitVec.add_zero]
  unfold State.takeTime
  extract_lets j better d t
  rw [if_neg (by rw [show better = true from hbetter]; decide), if_neg (by omega)]
  rw [← hzero]
  rfl

/-! ### Probes (10 R300) -/

theorem State.sendProbe_frame (s : State) (p : Fin 8) : (s.sendProbe p).tether.join = s.tether.join
    ∧ ∀ q, ((s.sendProbe p).port q).st = (s.port q).st ∧ ((s.sendProbe p).port q).probes
      = if q = p ∧ (s.port p).st = 2 ∧ (s.port p).probes < 64 then (s.port p).probes + 1 else (s.port q).probes := by
  unfold State.sendProbe
  by_cases h : (s.port p).st = 2 ∧ (s.port p).probes < 64
  · obtain ⟨-, hjoin, hports⟩ := (s.updPort p fun x => { x with probes := x.probes + 1 }).sendJoin_frame p 1 (leBytes 8 s.tb.tc.toNat)
    rw [if_pos h]
    refine ⟨hjoin, fun q => ?_⟩
    rw [(hports q).1, (hports q).2, State.port_updPort]
    by_cases hq : q = p
    · rw [if_pos hq, if_pos ⟨hq, h⟩, hq]
      exact ⟨rfl, rfl⟩
    · rw [if_neg hq, if_neg fun hn => hq hn.1]
      exact ⟨rfl, rfl⟩
  · rw [if_neg h]
    exact ⟨rfl, fun q => ⟨rfl, by rw [if_neg fun hn => h hn.2]⟩⟩

theorem State.sendProbes_frame (l : List (Fin 8)) (hl : l.Nodup) (s : State) : (l.foldl State.sendProbe s).tether.join = s.tether.join
    ∧ ∀ q, (q ∉ l → (((l.foldl State.sendProbe s).port q).probes = (s.port q).probes))
      ∧ (q ∈ l → (s.port q).st = 2 → (s.port q).probes < 64 → ((l.foldl State.sendProbe s).port q).probes = (s.port q).probes + 1) := by
  induction l generalizing s with
  | nil => exact ⟨rfl, fun q => ⟨fun _ => rfl, fun h => absurd h List.not_mem_nil⟩⟩
  | cons p l ih =>
    obtain ⟨hp, hl'⟩ := List.nodup_cons.mp hl
    obtain ⟨hjoin, hport⟩ := s.sendProbe_frame p
    obtain ⟨hjoin', hrest⟩ := ih hl' (s.sendProbe p)
    refine ⟨hjoin'.trans hjoin, fun q => ⟨fun hq => ?_, fun hq hst hn => ?_⟩⟩
    · obtain ⟨hqp, hql⟩ := List.ne_and_not_mem_of_not_mem_cons hq
      exact ((hrest q).1 hql).trans ((hport q).2.trans (if_neg fun h => hqp h.1))
    · obtain rfl | hql := List.mem_cons.mp hq
      · exact ((hrest q).1 hp).trans ((hport q).2.trans (if_pos ⟨rfl, hst, hn⟩))
      · have hqp : q ≠ p := by
          rintro rfl
          exact hp hql
        have hprobes : ((s.sendProbe p).port q).probes = (s.port q).probes := (hport q).2.trans (if_neg fun h => hqp h.1)
        rw [List.foldl_cons, (hrest q).2 hql ((hport q).1.trans hst) (by omega), hprobes]

theorem State.nodup_portsEn (s : State) : s.portsEn.Nodup := (List.nodup_finRange 8).filter _

/-! ### READY (10 R303) -/

theorem State.takeReady_taken {s : State} {p : Fin 8} {r : ReadyMsg} (hseen : (r.chips.any fun c => s.tether.join.bitmap.contains c) = false)
    (hlevel : r.level = s.compatLevel) (hlen : r.beatLen = (s.rd rTbBeatLen).toNat) :
    s.takeReady p r = ((s.updPort p fun x => { x with ready := true }).updJoin fun x =>
      { x with bitmap := x.bitmap ++ r.chips, count := x.count + r.count }).joinReport := by
  unfold State.takeReady
  extract_lets j
  rw [if_neg (ne_true_of_eq_false hseen), if_neg (not_not.mpr hlevel), if_neg (not_not.mpr hlen)]

theorem State.takeReady_seen {s : State} {p : Fin 8} {r : ReadyMsg} (hseen : (r.chips.any fun c => s.tether.join.bitmap.contains c) = true) :
    s.takeReady p r = s.joinFail 4 := if_pos hseen

theorem State.takeReady_level {s : State} {p : Fin 8} {r : ReadyMsg} (hseen : (r.chips.any fun c => s.tether.join.bitmap.contains c) = false)
    (hlevel : r.level ≠ s.compatLevel) : s.takeReady p r = s.joinFail 5 := (if_neg (ne_true_of_eq_false hseen)).trans (if_pos hlevel)

theorem State.takeReady_len {s : State} {p : Fin 8} {r : ReadyMsg} (hseen : (r.chips.any fun c => s.tether.join.bitmap.contains c) = false)
    (hlevel : r.level = s.compatLevel) (hlen : r.beatLen ≠ (s.rd rTbBeatLen).toNat) : s.takeReady p r = s.joinFail 8 :=
  (if_neg (ne_true_of_eq_false hseen)).trans ((if_neg (not_not.mpr hlevel)).trans (if_pos hlen))

theorem exec_ready {s : State} {p : Fin 8} {r : ReadyMsg} (hcells : s.joinCells p = true) (hjoin : s.joining = true)
    (hheard : (s.port p).heard = .child) (hready : (s.port p).ready = false) : exec (.ready p r) s = .next (s.takeReady p r) :=
  congrArg Host.Outcome.next (if_pos ⟨hcells, hjoin, hheard, by rw [hready]; rfl⟩)

/-! ### ADOPT and PEER (10 R301, R303) -/

/-- The report where a neighbour is heard from. -/
theorem State.heard_frame (s : State) (p : Fin 8) (h : Heard) :
    ∃ u : State, (s.updPort p fun x => { x with heard := h }).joinReport = u.joinReport ∧ u.port p = { s.port p with heard := h }
      ∧ Only [.tether] s u ∧ (s.tether.join.step ≠ 4 → (s.updPort p fun x => { x with heard := h }).joinReport = u) :=
  ⟨_, rfl, (s.port_updPort p p _).trans (if_pos rfl), .setPort s p _ (by decide), fun hstep => State.joinReport_early (by rwa [State.updPort, State.join_setPort])⟩

/-! ### The obligation -/

/-- Settles O40. -/
theorem joinCells : Obligations.JoinCells := by
  intro s p tc tc2 hold trip hops r j d seen
  refine ⟨fun hcells => ⟨?_, fun hstep hst hlen => ?_, fun hlo hhi hroot hsent => ⟨fun hst hparent h16 hrounds => ?_, fun hst => ?_⟩, fun hjoin => ⟨?_, ?_⟩,
    fun hjoin hheard hready => ⟨fun hseen hlevel hlen => ?_, fun hseen => ?_, fun hseen hlevel => ?_, fun hseen hlevel hlen => ?_⟩,
    fun hstep hparent => ⟨fun hle => ?_, fun hlt => ?_⟩⟩, fun hstep => ?_, fun hjoin => ?_⟩
  · have hexec : exec (.probe p tc hold) s = .next (s.sendJoin p 2 (leBytes 8 tc.toNat ++ leBytes 4 hold.toNat)) :=
      congrArg Host.Outcome.next (if_pos hcells)
    refine .of_eq hexec ?_
    unfold State.sendJoin
    rw [List.length_append, length_leBytes, length_leBytes]
    exact cellSent_sendOn s p _
  · have hexec : exec (.echo p tc hold trip) s = .next (s.takeEcho p (trip - hold.toNat)) :=
      congrArg Host.Outcome.next (if_pos ⟨hcells, hstep, hst⟩)
    have hecho : s.takeEcho p (trip - hold.toNat) = s.setPort p { s.port p with delays := (s.port p).delays ++ [trip - hold.toNat] } := by
      unfold State.takeEcho
      exact if_pos (by rw [List.length_append, List.length_singleton]; omega)
    exact .of_eq (hexec.trans (congrArg _ hecho)) ⟨s.port_setPort_same p _, .setPort s p _ (by decide)⟩
  · have hexec : exec (.time p tc hops) s = .next (s.takeTime p tc hops s.tb.tc) :=
      congrArg Host.Outcome.next ((if_pos ⟨hcells, Nat.le_trans (by decide) hlo, hhi, by rw [show s.tether.join.isRoot = false from hroot]; rfl,
        by rw [show s.tether.join.sent = false from hsent]; rfl⟩).trans (if_pos hst))
    obtain ⟨htc, hphase, href, htether⟩ := s.tookTime_frame (tc + BitVec.ofNat 64 (d / 32)) d
    have hupd : Only [.tether] (s.tookTime (tc + BitVec.ofNat 64 (d / 32)) d) ((s.tookTime (tc + BitVec.ofNat 64 (d / 32)) d).updJoin fun x =>
        { x with parent := some p.val, depth := hops + 1 }) := .updJoin _ _ (by decide)
    obtain ⟨hpass, hkeep⟩ := ((s.tookTime (tc + BitVec.ofNat 64 (d / 32)) d).updJoin fun x =>
      { x with parent := some p.val, depth := hops + 1 }).passTime_frame p hops
    have halign := Only.joinAlign (((s.tookTime (tc + BitVec.ofNat 64 (d / 32)) d).updJoin fun x =>
      { x with parent := some p.val, depth := hops + 1 }).passTime p hops)
    have htb := ((hupd.mono (by decide)).trans ((hpass.mono (by decide)).trans halign)) .tb (by decide)
    refine .of_eq (hexec.trans (congrArg _ (State.takeTime_first hparent h16 hrounds))) ⟨?_, ?_, ?_, _, rfl, ?_⟩
    · exact (congrArg TimeBase.tc htb).trans htc
    · exact (congrArg TimeBase.phase htb).trans hphase
    · exact (congrArg TimeBase.phaseRef htb).trans href
    · rw [hkeep, State.join_updJoin, htether]
  · have hexec : exec (.time p tc hops) s = .next (s.updPort p fun x => { x with time := some (tc, hops, s.tb.tc) }) :=
      congrArg Host.Outcome.next ((if_pos ⟨hcells, Nat.le_trans (by decide) hlo, hhi, by rw [show s.tether.join.isRoot = false from hroot]; rfl,
        by rw [show s.tether.join.sent = false from hsent]; rfl⟩).trans (if_neg (by omega)))
    exact .of_eq hexec ⟨(s.port_updPort p p _).trans (if_pos rfl), .setPort s p _ (by decide)⟩
  · have hexec : exec (.adopt p) s = .next (s.updPort p fun x => { x with heard := .child }).joinReport :=
      congrArg Host.Outcome.next (if_pos ⟨hcells, hjoin⟩)
    exact .of_eq hexec (s.heard_frame p .child)
  · have hexec : exec (.peer p) s = .next (s.updPort p fun x => { x with heard := .peer }).joinReport :=
      congrArg Host.Outcome.next (if_pos ⟨hcells, hjoin⟩)
    exact .of_eq hexec (s.heard_frame p .peer)
  · refine .of_eq ((exec_ready hcells hjoin hheard hready).trans (congrArg _ (State.takeReady_taken hseen hlevel hlen))) ⟨_, rfl, ?_, rfl, fun h => State.joinReport_early (by rwa [State.join_updJoin])⟩
    rw [State.port_updJoin, State.port_updPort, if_pos rfl]
  · exact .of_eq ((exec_ready hcells hjoin hheard hready).trans (congrArg _ (State.takeReady_seen hseen))) ((s.joinFail_frame 4).2.1 hjoin).1
  · exact .of_eq ((exec_ready hcells hjoin hheard hready).trans (congrArg _ (State.takeReady_level hseen hlevel))) ((s.joinFail_frame 5).2.1 hjoin).1
  · exact .of_eq ((exec_ready hcells hjoin hheard hready).trans (congrArg _ (State.takeReady_len hseen hlevel hlen))) ((s.joinFail_frame 8).2.1 hjoin).1
  · have hexec : exec (.start p tc tc2) s = .next (s.takeStart tc (BitVec.ofNat 48 tc2.toNat)) :=
      congrArg Host.Outcome.next ((if_pos ⟨hcells, hstep, hparent⟩).trans (if_neg (Nat.not_lt.mpr hle)))
    exact .of_eq hexec (s.takeStart_frame tc _).2
  · have hexec : exec (.start p tc tc2) s = .next (s.joinFail 7) :=
      congrArg Host.Outcome.next ((if_pos ⟨hcells, hstep, hparent⟩).trans (if_pos hlt))
    have hjoin : s.joining = true := decide_eq_true ⟨by rw [show s.tether.join.step = 4 from hstep]; decide, by rw [show s.tether.join.step = 4 from hstep]; decide⟩
    exact .of_eq hexec ((s.joinFail_frame 7).2.1 hjoin).1
  · have hexec : exec .joinProbeTick s = .next (s.portsEn.foldl State.sendProbe s) := congrArg Host.Outcome.next (if_pos hstep)
    obtain ⟨hjoin, hports⟩ := State.sendProbes_frame s.portsEn s.nodup_portsEn s
    exact .of_eq hexec ⟨rfl, hjoin, fun q hq => (hports q).2 hq⟩
  · have hexec : exec .joinTimeout s = .next (s.joinFail 1) := rfl
    exact .of_eq hexec ((s.joinFail_frame 1).2.1 hjoin)

end Sys2Proof.Machine

/-! Writes of units and refused landings (05 R154 to R157; 10 R308), and the cells that arrive (10 R278 to R292). -/

namespace Sys2Proof.Machine

open Sys2Proof

/-! ### Writes of units -/

theorem Only.coreCode (s : State) (code unit eng part core : Nat) (arg : Word) : Only [.regs, .sc] s (s.coreCode code unit eng part core arg) :=
  .ite (.gather _ _ _ _ _ _ _ (by decide)) (.event _ _ _ _ _ _ _ (by decide) (by decide))

theorem Only.accessCode (s : State) (code unit p c : Nat) : Only [.regs, .sc, .free] s (s.accessCode code unit p c) :=
  (Only.free s _ (by decide)).trans ((Only.coreCode { s with free := s.free + 1 } _ _ _ _ _ _).mono (by decide))

theorem Only.unitRefused (s : State) (unit p c : Nat) (x : Bad) : Only [.regs, .sc, .free] s (s.unitRefused unit p c x) :=
  (Only.slcRecord s _ _ _ x (by decide) (by decide)).trans (.accessCode _ _ _ _ _)

/-- What a write of a unit may touch: what a write touches, and the records of one that is refused. -/
def unitGroups : List Grp := .free :: writtenGroups

theorem Only.unitPut (s : State) (unit p c a : Nat) (bs : List Byte) (poison : List Nat) : Only unitGroups s (s.unitPut unit p c a bs poison) := by
  unfold State.unitPut
  split
  · exact (Only.unitRefused s _ _ _ _).mono (by decide)
  · exact ((Only.writeAt s c _).mono (by decide)).trans ((Only.poisonAt _ c poison).mono (by decide))

section
variable {s : State} {unit p c a : Nat} {bs : List Byte} {poison : List Nat}

theorem State.unitPut_accepted (h : s.unitCheck p c a bs.length = none) :
    s.unitPut unit p c a bs poison = (s.writeAt c (spread a bs)).poisonAt c poison := by
  unfold State.unitPut
  rw [h]

/-- What a unit has written stands at its addresses, and nothing else changed (05 R154, R157). -/
theorem State.memGet_unitPut (h : s.unitCheck p c a bs.length = none) :
    (∀ i g, ∀ hi : i < bs.length, s.xlateG c (a + i) = some g → (s.unitPut unit p c a bs poison).memGet g = bs[i])
      ∧ ∀ g, (∀ i, i < bs.length → s.xlateG c (a + i) ≠ some g) → (s.unitPut unit p c a bs poison).memGet g = s.memGet g := by
  rw [State.unitPut_accepted h]
  have hmem : ∀ g, ((s.writeAt c (spread a bs)).poisonAt c poison).memGet g = (s.writeAt c (spread a bs)).memGet g :=
    Only.poisonAt _ c poison .mem (by decide)
  exact ⟨fun i g hi hg => (hmem g).trans (State.memGet_writeAt_checked hi hg),
    fun g hg => (hmem g).trans (s.memGet_writeAt_spread_other c a bs g hg)⟩

end

/-! ### Refused landings, misses, held signals -/

theorem Only.refuseLanding (s : State) (unit cause port chip part : Nat) : Only [.regs, .sc, .beat] s (s.refuseLanding unit cause port chip part) := by
  unfold State.refuseLanding
  extract_lets s1 s2
  have h1 : Only [.regs, .sc, .beat] s s1 := .ite (.refl _ _) (.wr _ _ _ (by decide))
  have h2 : Only [.regs, .sc, .beat] s1 s2 := .ite (.setBit _ _ _ (by decide)) (.refl _ _)
  exact h1.trans (h2.trans ((Only.bump _ _ (by decide)).trans ((Only.event _ _ _ _ _ _ _ (by decide) (by decide)).trans (.failBeat _ (by decide)))))

theorem Only.unitMiss (s : State) (unit part : Nat) : Only [.regs, .sc, .beat] s (s.unitMiss unit part) :=
  (Only.event _ _ _ _ _ _ _ (by decide) (by decide)).trans (.failBeat _ (by decide))

theorem Only.releaseSigs (s : State) : Only [.tether, .flags] s s.releaseSigs :=
  (Only.tether s _ (by decide)).trans (.foldl _ _ _ fun _ _ => .flags _ _ (by decide))

theorem State.tether_releaseSigs (s : State) : s.releaseSigs.tether = { s.tether with held := s.tether.held.filter fun r => !s.sigDue r } :=
  Only.foldl (ch := [.flags]) State.applySig (s.tether.held.filter fun r => s.sigDue r)
    { s with tether := { s.tether with held := s.tether.held.filter fun r => !s.sigDue r } } (fun _ _ => .flags _ _ (by decide)) .tether (by decide)

theorem Only.btDeposit (s : State) (anchor i : Nat) (bytes : List Byte) (p : Nat) : Only unitGroups s (s.btDeposit anchor i bytes p) := by
  unfold State.btDeposit
  extract_lets core a s1
  have h1 : Only unitGroups s s1 := .unitPut _ _ _ _ _ _ _
  exact .ite h1 (h1.trans ((Only.setBit _ _ _ (by decide)).trans ((Only.refuseLanding _ _ _ _ _ _).mono (by decide))))

/-! ### A cell has arrived (10 R278, R285) -/

/-- The state in which a cell takes effect: its release time come, its codewords counted. -/
def State.arrived (s : State) (x : CellIn) : State := (s.toRelease x.port.val x.slot).countFec x

theorem Only.arrived (s : State) (x : CellIn) : Only [.tb, .regs] s (s.arrived x) := by
  have h1 : Only [.tb, .regs] s (s.toRelease x.port.val x.slot) := .ite (.toTc _ _ (by decide)) (.refl _ _)
  exact h1.trans ((Only.bumpN _ _ _ (by decide)).trans (.bumpN _ _ _ (by decide)))

theorem State.rd_bumpN_ne (s : State) {a b : Nat} (n : Nat) (h : b ≠ a) : (s.bumpN a n).rd b = s.rd b := by
  unfold State.bumpN
  split
  · rfl
  · exact s.rd_wr_ne _ h

theorem State.rd_countFec_ne (s : State) (x : CellIn) {a : Nat} (hc : a ≠ rTetherPortFecCe x.port.val) (hu : a ≠ rTetherPortFecUe x.port.val) :
    (s.countFec x).rd a = s.rd a := by
  unfold State.countFec
  rw [State.rd_bumpN_ne _ _ hu, State.rd_bumpN_ne _ _ hc]

theorem State.rd_arrived_ne (s : State) (x : CellIn) {a : Nat} (hc : a ≠ rTetherPortFecCe x.port.val) (hu : a ≠ rTetherPortFecUe x.port.val) :
    (s.arrived x).rd a = s.rd a := by
  have h : Only [.tb] s (s.toRelease x.port.val x.slot) := .ite (.toTc _ _ (by decide)) (.refl _ _)
  exact (State.rd_countFec_ne _ x hc hu).trans (h .regs (by decide) a)

theorem SameMap.arrived (s : State) (x : CellIn) : SameMap s (s.arrived x) :=
  .of_only (.arrived s x) (by decide) (by decide) fun a ha => by
    have hx := x.port.isLt
    have hlo : 0x10000000 ≤ a := ha.1
    exact s.rd_arrived_ne x (by unfold rTetherPortFecCe; omega) (by unfold rTetherPortFecUe; omega)

theorem State.chipId_arrived (s : State) (x : CellIn) : (s.arrived x).chipId = s.chipId := by
  have hx := x.port.isLt
  unfold State.chipId
  rw [s.rd_arrived_ne x (by unfold rTetherChip rTetherPortFecCe; omega) (by unfold rTetherChip rTetherPortFecUe; omega)]

theorem State.playSlot_congr {s t : State} (hbeat : t.beat = s.beat) (htether : t.tether = s.tether) (hparts : ∀ p, t.part p = s.part p)
    (htransits : t.transits = s.transits) (port : Nat) (dep : Bool) (k : Nat) : t.playSlot port dep k = s.playSlot port dep k := by
  have hwork : t.workPeriod = s.workPeriod := by unfold State.workPeriod; rw [hbeat]
  have hslot : t.slot port dep k = s.slot port dep k := by unfold State.slot; rw [htether]
  have howner : t.ownerPlays = s.ownerPlays := funext fun o => by unfold State.ownerPlays; rw [hparts, htransits]
  unfold State.playSlot
  rw [hwork, hslot, howner]

theorem State.playSlot_arrived (s : State) (x : CellIn) (port : Nat) (dep : Bool) (k : Nat) :
    (s.arrived x).playSlot port dep k = s.playSlot port dep k :=
  State.playSlot_congr (Only.arrived s x .beat (by decide)) (Only.arrived s x .tether (by decide)) (Only.arrived s x .parts (by decide))
    (Only.arrived s x .transits (by decide)) _ _ _

section
variable {s : State} {x : CellIn}

theorem State.arrive_off (h : s.portEn x.port = false) : s.arrive x = s := if_pos (.inl (by rw [h]; rfl))

section
variable (hen : s.portEn x.port = true) (hst : 2 ≤ (s.port x.port).st)
include hen hst

theorem State.arrive_run {o : Nat} {e : DWord} (hplay : s.playSlot x.port.val false x.slot = some (o, e)) :
    s.arrive x = (s.arrived x).arriveRun x o e := by
  unfold State.arrive
  rw [if_neg (by rw [hen]; simp; omega)]
  show (match (s.arrived x).playSlot x.port.val false x.slot with
    | some q => (s.arrived x).arriveRun x q.1 q.2
    | none => if cellDecodes x ∧ x.cell.cls = 0 then (s.arrived x).checkIdle x.port x.cell else s.arrived x) = _
  rw [State.playSlot_arrived, hplay]

theorem State.arrive_idle (hplay : s.playSlot x.port.val false x.slot = none) :
    s.arrive x = if cellDecodes x ∧ x.cell.cls = 0 then (s.arrived x).checkIdle x.port x.cell else s.arrived x := by
  unfold State.arrive
  rw [if_neg (by rw [hen]; simp; omega)]
  show (match (s.arrived x).playSlot x.port.val false x.slot with
    | some q => (s.arrived x).arriveRun x q.1 q.2
    | none => if cellDecodes x ∧ x.cell.cls = 0 then (s.arrived x).checkIdle x.port x.cell else s.arrived x) = _
  rw [State.playSlot_arrived, hplay]

end

/-- A cell of its run goes to the sink of its class, and on. -/
theorem State.arrive_taken {k o : Nat} {e : DWord} (h : CellTaken k s x o e) (hk : k ≠ 0) :
    s.arrive x = ((s.arrived x).sink x.port.val o e x.cell).forward x.port x.slot e (some x.cell) := by
  obtain ⟨hen, hst, hplay, hdec, hbit, hcls, hrun, hsrc, hdst⟩ := h
  rw [State.arrive_run hen hst hplay]
  unfold State.arriveRun
  extract_lets c
  have hc0 : c.cls ≠ 0 := by rw [show c.cls = k from hcls]; exact hk
  rw [if_neg (by rw [hdec]; simp [hc0]), if_neg hc0, if_neg, if_pos hbit]
  rintro (h1 | h2 | h3)
  · exact h1 (hcls.trans hrun.symm)
  · exact h2 hsrc
  · exact h3.2.2 ((hdst h3.2.1).trans (s.chipId_arrived x).symm)

end

theorem Only.forward (s : State) (p : Fin 8) (k : Nat) (e : DWord) (c : Option Cell) : Only [.tether] s (s.forward p k e c) := .tether _ _ (by decide)

end Sys2Proof.Machine

/-! What arriving cells do (05 R159, R160; 08 R242, R243; 09 R261; 10 R278 to R292; 13 R373). -/

namespace Sys2Proof.Machine

open Sys2Proof

section
variable {s : State} {port owner : Nat} {e : DWord} {c : Cell}

/-! ### The sinks -/

theorem State.sink_data (h : c.cls = 1) : s.sink port owner e c = s.sinkData port owner (runLeg e) c := if_pos h

theorem State.sink_dma (h : c.cls = 2) : s.sink port owner e c = s.sinkDma port c :=
  (if_neg (by rw [h]; decide)).trans (if_pos h)

theorem State.sink_flag (h : c.cls = 3) : s.sink port owner e c = (cellSigs c).foldl (State.takeSig port) s :=
  (if_neg (by rw [h]; decide)).trans ((if_neg (by rw [h]; decide)).trans (if_pos h))

theorem State.sink_batch (h : c.cls = 4) :
    s.sink port owner e c = s.batchCell (fld c.arg 0 11) c.src (fld c.arg 11 10) (bit c.arg 21) c.payload :=
  (if_neg (by rw [h]; decide)).trans ((if_neg (by rw [h]; decide)).trans (if_neg (by rw [h]; decide)))

/-- The two flits of a DATA cell (10 R283). -/
def cellFlits (c : Cell) : List Flit :=
  [⟨decide (c.valid % 2 = 0), false, false, c.payload.take 128, (List.range 16).map fun n => bit c.arg n⟩,
   ⟨decide (c.valid / 2 % 2 = 0), false, false, (c.payload.drop 128).take 128, (List.range 16).map fun n => bit c.arg (16 + n)⟩]

theorem State.sinkData_room {leg : Nat} (h : (s.legIn leg).length ≤ 62) :
    s.sinkData port owner leg c = s.setLegIn leg (s.legIn leg ++ cellFlits c) := by
  unfold State.sinkData
  extract_lets q flit
  have h0 : flit 0 = ⟨decide (c.valid % 2 = 0), false, false, c.payload.take 128, (List.range 16).map fun n => bit c.arg n⟩ := by
    simp [flit]
  have h1 : flit 1 = ⟨decide (c.valid / 2 % 2 = 0), false, false, (c.payload.drop 128).take 128,
      (List.range 16).map fun n => bit c.arg (16 + n)⟩ := rfl
  rw [if_neg (show ¬ 64 < (s.legIn leg).length + 2 by omega), h0, h1]
  rfl

/-- A DMA cell of a sender counted, with the signals that waited for it. -/
def State.dmaCounted (s : State) (src : Nat) : State :=
  State.releaseSigs { s with tether := { s.tether with dmaRcvd := Sparse.set (fun _ => 0) s.tether.dmaRcvd src (s.dmaRcvd src + 1) } }

/-- A payload that its window accepts is written and counted (05 R159, R160). -/
theorem State.sinkDma_accepted {w : Word × Word × Word}
    (hw : Sparse.get (fun _ => ((0 : Word), (0 : Word), (0 : Word))) s.tether.rwin (fld c.arg 0 6) = w)
    (hvalid : bit w.1 0 = true) (hbound : (s.part (fld w.1 1 4)).isBound = true) (hsrc : bit w.1 23 = true ∨ fld w.1 13 10 = c.src)
    (hlen : fld c.arg 6 16 * 256 + (fld c.arg 22 3 + 1) * 32 ≤ fld w.2.2 0 16 * 256)
    (hcheck : s.unitCheck (fld w.1 1 4) (fld w.1 5 8) (fld w.2.1 8 17 * 256 + fld c.arg 6 16 * 256) ((fld c.arg 22 3 + 1) * 32) = none) :
    ∃ poison : List Nat, s.sinkDma port c = (s.unitPut 11 (fld w.1 1 4) (fld w.1 5 8) (fld w.2.1 8 17 * 256 + fld c.arg 6 16 * 256)
        (c.payload.take ((fld c.arg 22 3 + 1) * 32)) poison).dmaCounted c.src := by
  have hok : (bit w.1 0 && (s.part (fld w.1 1 4)).isBound && (bit w.1 23 || decide (fld w.1 13 10 = c.src))
      && decide (fld c.arg 6 16 * 256 + (fld c.arg 22 3 + 1) * 32 ≤ fld w.2.2 0 16 * 256)) = true := by
    simp only [hvalid, hbound, Bool.true_and, Bool.and_eq_true, Bool.or_eq_true, decide_eq_true_eq]
    exact ⟨hsrc, hlen⟩
  refine ⟨if bit c.arg 25 then (List.range ((fld c.arg 22 3 + 1) * 32 / 8)).map (fld w.2.1 8 17 * 256 + fld c.arg 6 16 * 256 + 8 * ·) else [], ?_⟩
  unfold State.sinkDma
  extract_lets w' part core off len a ok t s1 src s2
  obtain rfl : w' = w := hw
  have hok' : ok = true := hok
  have ht : t = s.unitPut 11 part core a (c.payload.take len) (if bit c.arg 25 then (List.range (len / 8)).map (a + 8 * ·) else []) := if_pos hok'
  have hs1 : s1 = t := if_pos (by rw [hok']; exact congrArg Option.isNone hcheck)
  unfold s2 src
  rw [hs1, ht]
  rfl

end

theorem State.dmaRcvd_of_tether {s t : State} (h : t.tether = s.tether) (c : Nat) : t.dmaRcvd c = s.dmaRcvd c := by
  unfold State.dmaRcvd
  rw [h]

/-- What counting a DMA cell changes. -/
theorem State.dmaCounted_frame (s : State) (src : Nat) :
    Only [.tether, .flags] s (s.dmaCounted src) ∧ (s.dmaCounted src).dmaRcvd src = s.dmaRcvd src + 1 := by
  refine ⟨(Only.tether s _ (by decide)).trans (.releaseSigs _), ?_⟩
  have h := State.tether_releaseSigs { s with tether := { s.tether with
    dmaRcvd := Sparse.set (fun _ => 0) s.tether.dmaRcvd src (s.dmaRcvd src + 1) } }
  exact (congrArg (fun x : Tether => Sparse.get (fun _ => (0 : Word)) x.dmaRcvd src) h).trans (Laws.get_set_same _ _ _ _)

/-- A signal record whose stamp has been reached is applied (08 R243). -/
theorem State.takeSig_due {s : State} {port : Nat} {g : SigHeld} (hp : g.part < 16) (hf : g.flag < (s.part g.part).fcount)
    (hdue : s.sigDue g = true) : State.takeSig port s g = s.applySig g :=
  (if_neg (by omega)).trans (if_pos hdue)

/-- One whose stamp has not been reached is held. -/
theorem State.takeSig_held {s : State} {port : Nat} {g : SigHeld} (hp : g.part < 16) (hf : g.flag < (s.part g.part).fcount)
    (hdue : s.sigDue g = false) (hroom : s.tether.held.length < 64) :
    State.takeSig port s g = { s with tether := { s.tether with held := s.tether.held ++ [g] } } :=
  (if_neg (by omega)).trans ((if_neg (ne_true_of_eq_false hdue)).trans (if_neg (by omega)))

theorem State.sigDue_of_tether {s t : State} (h : t.tether = s.tether) (g : SigHeld) : t.sigDue g = s.sigDue g := by
  unfold State.sigDue
  rw [State.dmaRcvd_of_tether h]

/-- A cell of a table that is not its last is gathered for the group (13 R373). -/
theorem State.recvOf_batchCell (s : State) (g anchor i : Nat) (bytes : List Byte) :
    (s.batchCell g anchor i false bytes).recvOf g
      = ⟨g, anchor, (s.recvOf g).bytes.filter (fun x => decide (x.1 ≠ i)) ++ [(i, bytes)], (s.recvOf g).last⟩ := by
  unfold State.batchCell
  extract_lets r s1 s2
  rw [if_neg Bool.false_ne_true]
  have h2 : s2.rt = s1.rt := Only.foldl (ch := unitGroups) _ (s1.btParts g) s1 (fun t p => .btDeposit t anchor i bytes p) .rt (by decide)
  have hmiss : (s.rt.recv.filter fun x => decide (x.group ≠ g)).find? (fun r => decide (r.group = g)) = none :=
    List.find?_eq_none.mpr fun x hx => by simpa using (List.mem_filter.mp hx).2
  unfold State.recvOf
  rw [h2]
  show ((s.rt.recv.filter (fun x => decide (x.group ≠ g)) ++ [(⟨g, anchor, r.bytes.filter (fun x => decide (x.1 ≠ i)) ++ [(i, bytes)], r.last || false⟩ : BRecv)]).find?
    fun r => decide (r.group = g)).getD _ = _
  rw [List.find?_append, hmiss, Option.none_or, List.find?_cons_of_pos (by simp), Option.getD_some, Bool.or_false]
  rfl

/-! ### Cells that are not taken (10 R278) -/

/-- A lost cell fails the beat. -/
theorem State.cellLost_frame (s : State) (p : Fin 8) : bit ((s.cellLost p).rd rTetherStatus) 2 = true ∧ (s.cellLost p).beat.acc.fail = true
    ∧ Only [.regs, .beat] s (s.cellLost p) := by
  have hne : rTetherStatus ≠ rTetherPortCellUe p.val := by unfold rTetherStatus rTetherPortCellUe; omega
  refine ⟨?_, rfl, (Only.setBit _ _ _ (by decide)).trans ((Only.bump _ _ (by decide)).trans (.failBeat _ (by decide)))⟩
  unfold State.cellLost
  rw [State.rd_failBeat_other, State.rd_bump_ne _ hne]
  exact bit_rd_setBit s _ (by decide)

theorem notTaken {i : Instr} {s : State} {x : CellIn} (hi : exec i s = .next (s.arrive x)) : NotTaken i s x := by
  refine ⟨fun hoff => .of_eq hi (State.arrive_off hoff), fun hen hst hplay hj => .of_eq hi ?_, fun o e hen hst hplay hdec => .of_eq hi ?_⟩
  · have hrelease : s.toRelease x.port.val x.slot = s := if_neg (by rw [hj]; simp)
    have harr : s.arrived x = s.countFec x := by rw [State.arrived, hrelease]
    have honly : Only [.regs] s (s.countFec x) := (Only.bumpN _ _ _ (by decide)).trans (.bumpN _ _ _ (by decide))
    have hbeat : (s.countFec x).beat = s.beat := honly .beat (by decide)
    have hidle : s.arrive x = s.countFec x := by
      rw [State.arrive_idle hen hst hplay, harr]
      split
      · exact if_neg fun h => absurd (hbeat ▸ h.1) (ne_true_of_eq_false hj)
      · rfl
    rw [hidle]
    exact ⟨honly, fun a hc hu => s.rd_countFec_ne x hc hu⟩
  · have hrun : (s.arrived x).arriveRun x o e = ((s.arrived x).cellLost x.port).forward x.port x.slot e none :=
      if_pos (.inl (by rw [hdec]; rfl))
    obtain ⟨hbit, hfail, honly⟩ := (s.arrived x).cellLost_frame x.port
    have hall : Only [.tb, .regs, .beat, .tether] s (((s.arrived x).cellLost x.port).forward x.port x.slot e none) :=
      ((Only.arrived s x).mono (by decide)).trans ((honly.mono (by decide)).trans ((Only.forward _ _ _ _ _).mono (by decide)))
    rw [State.arrive_run hen hst hplay, hrun]
    exact ⟨hbit, hfail, hall .mem (by decide), hall .cores (by decide)⟩

/-! ### The obligation -/

/-- Settles O41. -/
theorem cellsArrive : Obligations.CellsArrive := by
  intro s x owner e g c
  have harr := Only.arrived s x
  have hmap := SameMap.arrived s x
  have htether : (s.arrived x).tether = s.tether := harr .tether (by decide)
  have hparts : ∀ p, (s.arrived x).part p = s.part p := harr .parts (by decide)
  have hmem : ∀ a, (s.arrived x).memGet a = s.memGet a := harr .mem (by decide)
  have hflags : (s.arrived x).flags = s.flags := harr .flags (by decide)
  have hbeat : (s.arrived x).beat = s.beat := harr .beat (by decide)
  refine ⟨fun htaken hroom => ?_, fun htaken => ?_, fun htaken => ⟨?_, fun hsig hp hf hdue => ?_,
    fun hsig hp hf hdue hheld => ?_⟩, fun htaken hlast => ?_, fun hen hst hplay hdec hcls hjoined => ?_,
    notTaken rfl, notTaken rfl, notTaken rfl, notTaken rfl, notTaken rfl⟩
  · have hcls : c.cls = 1 := htaken.2.2.2.2.2.1
    have hlegs : (s.arrived x).legIn (runLeg e) = s.legIn (runLeg e) := State.legIn_of_tether (congrArg Tether.legArr htether) _
    have hall : Only [.tb, .regs, .tether] s (((s.arrived x).setLegIn (runLeg e) ((s.arrived x).legIn (runLeg e) ++ cellFlits c)).forward x.port x.slot e
        (some c)) := (harr.mono (by decide)).trans ((Only.tether _ _ (by decide)).trans ((Only.forward _ _ _ _ _).mono (by decide)))
    have hexec : exec (.data x) s = .next (((s.arrived x).setLegIn (runLeg e) ((s.arrived x).legIn (runLeg e) ++ cellFlits c)).forward x.port x.slot e
        (some c)) := by
      show Host.Outcome.next (s.arrive x) = _
      rw [State.arrive_taken htaken (by decide), State.sink_data hcls, State.sinkData_room (by rw [hlegs]; exact hroom)]
    refine .of_eq hexec ⟨?_, hall .mem (by decide), hall .cores (by decide)⟩
    refine (State.legIn_of_tether rfl _).trans ((State.legIn_setLegIn _ _ _ _).trans ((if_pos rfl).trans ?_))
    rw [hlegs]
    rfl
  · intro w core a len hvalid hbound hsrc hlen hcheck hpay
    have hcls : c.cls = 2 := htaken.2.2.2.2.2.1
    have hlen256 : len ≤ 256 := by
      have : fld c.arg 22 3 < 8 := Nat.mod_lt _ (by decide)
      show (fld c.arg 22 3 + 1) * 32 ≤ 256
      omega
    have hbytes : (c.payload.take len).length = len := by rw [List.length_take, hpay]; omega
    have hcheck' : (s.arrived x).unitCheck (fld w.1 1 4) core a len = none := (hmap.unitCheck _ _ _ _).trans hcheck
    obtain ⟨poison, hsink⟩ := State.sinkDma_accepted (s := s.arrived x) (port := x.port.val) (c := c) (w := w) (by rw [htether]) hvalid
      (by rw [hparts]; exact hbound) hsrc hlen hcheck'
    obtain ⟨hwritten, hrest⟩ := State.memGet_unitPut (s := s.arrived x) (unit := 11) (p := fld w.1 1 4) (c := core) (a := a)
      (bs := c.payload.take len) (poison := poison) (by rw [hbytes]; exact hcheck')
    have hput := Only.unitPut (s.arrived x) 11 (fld w.1 1 4) core a (c.payload.take len) poison
    generalize hu : (s.arrived x).unitPut 11 (fld w.1 1 4) core a (c.payload.take len) poison = u at hwritten hrest hput
    have hexec : exec (.dma x) s = .next ((u.dmaCounted c.src).forward x.port x.slot e (some c)) := by
      show Host.Outcome.next (s.arrive x) = _
      rw [State.arrive_taken htaken (by decide), State.sink_dma hcls, hsink]
      exact congrArg (fun v : State => Host.Outcome.next ((v.dmaCounted c.src).forward x.port x.slot e (some c))) hu
    obtain ⟨hcount, hrcvd⟩ := u.dmaCounted_frame c.src
    have hut : u.tether = s.tether := Eq.trans (hput .tether (by decide)) htether
    have hum : ∀ b, ((u.dmaCounted c.src).forward x.port x.slot e (some c)).memGet b = u.memGet b :=
      (hcount.trans ((Only.forward _ _ _ _ _).mono (by decide))) .mem (by decide)
    refine .of_eq hexec ⟨fun i b hi hb _ => ?_, fun b hb => ?_, ?_⟩
    · have hi' : i < (c.payload.take len).length := by rw [hbytes]; exact hi
      rw [hum, hwritten i b hi' (by rw [hmap.xlateG]; exact hb), List.getElem_take, List.getD_eq_getElem?_getD,
        List.getElem?_eq_getElem (by omega), Option.getD_some]
    · rw [hum, hrest b fun i hi => by rw [hmap.xlateG]; exact hb i (by rwa [hbytes] at hi), hmem]
    · exact hrcvd.trans (congrArg (· + 1) (State.dmaRcvd_of_tether hut c.src))
  · have hcls : c.cls = 3 := htaken.2.2.2.2.2.1
    exact .of_eq (congrArg Host.Outcome.next (State.arrive_taken htaken (by decide))) (by rw [State.sink_flag hcls]; rfl)
  · have hcls : c.cls = 3 := htaken.2.2.2.2.2.1
    have hexec : exec (.flag x) s = .next (((s.arrived x).applySig g).forward x.port x.slot e (some c)) := by
      show Host.Outcome.next (s.arrive x) = _
      rw [State.arrive_taken htaken (by decide), State.sink_flag hcls]
      show Host.Outcome.next (((cellSigs c).foldl (State.takeSig x.port.val) (s.arrived x)).forward x.port x.slot e (some c)) = _
      rw [hsig]
      exact congrArg (fun v : State => Host.Outcome.next (v.forward x.port x.slot e (some c)))
        (State.takeSig_due hp (by rw [hparts]; exact hf) ((State.sigDue_of_tether htether g).trans hdue))
    have hheld : (s.arrived x).tether.held = s.tether.held := congrArg Tether.held htether
    refine .of_eq hexec ⟨?_, hheld, hmem⟩
    show (s.arrived x).flags.ops ++ [(⟨((s.arrived x).part g.part).fbase + g.flag, .add, g.n, 256, 0, 0⟩ : FlagOp)] = _
    rw [hflags, hparts]
  · have hcls : c.cls = 3 := htaken.2.2.2.2.2.1
    have hexec : exec (.flag x) s = .next (State.forward { s.arrived x with tether := { (s.arrived x).tether with
        held := (s.arrived x).tether.held ++ [g] } } x.port x.slot e (some c)) := by
      show Host.Outcome.next (s.arrive x) = _
      rw [State.arrive_taken htaken (by decide), State.sink_flag hcls]
      show Host.Outcome.next (((cellSigs c).foldl (State.takeSig x.port.val) (s.arrived x)).forward x.port x.slot e (some c)) = _
      rw [hsig]
      exact congrArg (fun v : State => Host.Outcome.next (v.forward x.port x.slot e (some c)))
        (State.takeSig_held hp (by rw [hparts]; exact hf) ((State.sigDue_of_tether htether g).trans hdue) (by rw [htether]; exact hheld))
    exact .of_eq hexec ⟨congrArg (fun y : Tether => y.held ++ [g]) htether, hflags, hmem⟩
  · have hcls : c.cls = 4 := htaken.2.2.2.2.2.1
    have hrt : (s.arrived x).rt = s.rt := harr .rt (by decide)
    have hrecv : (s.arrived x).recvOf (fld c.arg 0 11) = s.recvOf (fld c.arg 0 11) := by unfold State.recvOf; rw [hrt]
    refine .of_eq (congrArg Host.Outcome.next (State.arrive_taken htaken (by decide))) ?_
    rw [State.sink_batch hcls, hlast]
    exact ((s.arrived x).recvOf_batchCell _ _ _ _).trans (by rw [hrecv])
  · have hport : (s.arrived x).rd (rTetherPortCfg x.port) = s.rd (rTetherPortCfg x.port) := by
      have hx := x.port.isLt
      exact s.rd_arrived_ne x (by unfold rTetherPortCfg rTetherPortFecCe; omega) (by unfold rTetherPortCfg rTetherPortFecUe; omega)
    have hchip : (s.arrived x).flightTag = s.flightTag := by
      have hx := x.port.isLt
      unfold State.flightTag
      rw [s.rd_arrived_ne x (by unfold rTetherChip rTetherPortFecCe; omega) (by unfold rTetherChip rTetherPortFecUe; omega)]
    have hpeer : (s.arrived x).peerOf x.port = s.peerOf x.port := by unfold State.peerOf; rw [hport]
    have hcheck : s.arrive x = (s.arrived x).checkIdle x.port c := (State.arrive_idle hen hst hplay).trans (if_pos ⟨hdec, hcls⟩)
    refine ⟨fun ⟨htag, hp, hsrc⟩ => ?_, fun hbad => ?_⟩
    · have hok : (s.arrived x).checkIdle x.port c = s.arrived x := by
        refine if_neg fun h => ?_
        simp [hchip, hport, hpeer, htag, hp, hsrc] at h
      exact .of_eq (congrArg Host.Outcome.next (hcheck.trans hok)) (harr.mono (by decide))
    · have hcond : (s.arrived x).checkIdle x.port c = (s.arrived x).enterCond 2 x.port.val := by
        refine if_pos ⟨by rw [hbeat]; exact hjoined, ?_⟩
        rw [hchip, hpeer]
        obtain h | h := hbad <;> simp [h]
      refine .of_eq (congrArg Host.Outcome.next (hcheck.trans hcond)) ?_
      rw [← hbeat]
      exact ⟨rfl, rfl⟩

end Sys2Proof.Machine

/-! Numbers as bytes and bits in cells (00 R11; 10 R283, R291). -/

namespace Sys2Proof.Machine

open Sys2Proof

/-! ### Little-endian numbers (00 R11) -/

theorem leBytes_succ (n v : Nat) : leBytes (n + 1) v = BitVec.ofNat 8 v :: leBytes n (v / 256) := by
  unfold leBytes
  rw [List.range_succ_eq_map, List.map_cons, List.map_map, Nat.pow_zero, Nat.div_one]
  refine congrArg (List.cons _) (List.map_congr_left fun i _ => ?_)
  rw [Function.comp_apply, Nat.succ_eq_add_one, Nat.pow_succ', Nat.div_div_eq_div_mul]

theorem leNat_leBytes (n v : Nat) : leNat (leBytes n v) = v % 256 ^ n := by
  induction n generalizing v with
  | zero => rw [Nat.pow_zero, Nat.mod_one]; rfl
  | succ n ih =>
    rw [leBytes_succ]
    show (BitVec.ofNat 8 v).toNat + 256 * leNat (leBytes n (v / 256)) = _
    have hmod : v % 256 ^ (n + 1) = v % 256 + 256 * (v / 256 % 256 ^ n) := by rw [Nat.pow_succ', Nat.mod_mul]
    rw [ih, BitVec.toNat_ofNat, hmod]

/-- A number read within a list is not moved by what follows it. -/
theorem leAt_append {l m : List Byte} {o n : Nat} (h : o + n ≤ l.length) : leAt (l ++ m) o n = leAt l o n := by
  unfold leAt
  rw [List.drop_append_of_le_length (by omega), List.take_append_of_le_length (by rw [List.length_drop]; omega)]

theorem leAt_drop (l : List Byte) (a o n : Nat) : leAt l (a + o) n = leAt (l.drop a) o n := by
  unfold leAt
  rw [List.drop_drop]

/-- Records of one length, one after the other: those from the i-th on. -/
theorem drop_flatMap_const {α : Type} (f : α → List Byte) {w : Nat} (l : List α) (h : ∀ x ∈ l, (f x).length = w) (i : Nat) :
    (l.flatMap f).drop (w * i) = (l.drop i).flatMap f := by
  induction l generalizing i with
  | nil => simp
  | cons x l ih =>
    cases i with
    | zero => simp
    | succ i =>
      rw [List.flatMap_cons, List.drop_succ_cons, Nat.mul_succ, Nat.add_comm, ← List.drop_drop, List.drop_left' (h x List.mem_cons_self),
        ih (fun y hy => h y (List.mem_cons_of_mem _ hy))]

theorem length_flatMap_const {α : Type} (f : α → List Byte) {w : Nat} (l : List α) (h : ∀ x ∈ l, (f x).length = w) :
    (l.flatMap f).length = w * l.length := by
  rw [List.length_flatMap, List.map_congr_left h, List.map_const', List.sum_replicate, smul_eq_mul, Nat.mul_comm]

/-! ### Bits as a number -/

theorem bitsOf_bit (l : List Bool) (n : Nat) : decide (bitsOf l / 2 ^ n % 2 = 1) = l.getD n false := by
  induction l generalizing n with
  | nil => simp [bitsOf]
  | cons b l ih =>
    have hcons : bitsOf (b :: l) = bn b + 2 * bitsOf l := rfl
    rw [hcons]
    cases n with
    | zero => cases b <;> simp [bn, Nat.add_mod]
    | succ n =>
      rw [List.getD_cons_succ, ← ih, Nat.pow_succ', ← Nat.div_div_eq_div_mul]
      have hbn : bn b < 2 := by cases b <;> decide
      rw [show (bn b + 2 * bitsOf l) / 2 = bitsOf l by omega]

theorem bit_ofNat (v : Nat) {n : Nat} (h : n < 32) : bit (BitVec.ofNat 32 v) n = decide (v / 2 ^ n % 2 = 1) := by
  have hpow : 2 ^ 32 = 2 ^ n * 2 ^ (32 - n) := by rw [← Nat.pow_add]; congr 1; omega
  have h2 : 2 ∣ 2 ^ (32 - n) := dvd_pow_self 2 (by omega)
  unfold bit
  rw [BitVec.toNat_ofNat, hpow, Nat.mod_mul_right_div_self, Nat.mod_mod_of_dvd _ h2]

theorem fld_ofNat (v : Nat) {l n : Nat} (h : l + n ≤ 32) : fld (BitVec.ofNat 32 v) l n = v / 2 ^ l % 2 ^ n := by
  have hpow : 2 ^ 32 = 2 ^ l * 2 ^ (32 - l) := by rw [← Nat.pow_add]; congr 1; omega
  have hd : 2 ^ n ∣ 2 ^ (32 - l) := pow_dvd_pow 2 (by omega)
  unfold fld
  rw [BitVec.toNat_ofNat, hpow, Nat.mod_mul_right_div_self, Nat.mod_mod_of_dvd _ hd]

/-! ### Payloads -/

theorem payload256_eq {bs : List Byte} (h : bs.length ≤ 256) : payload256 bs = bs ++ List.replicate (256 - bs.length) 0 := by
  rw [payload256, List.take_of_length_le h]

theorem payload256_full {bs : List Byte} (h : bs.length = 256) : payload256 bs = bs := by
  rw [payload256_eq (by omega), h, Nat.sub_self, List.replicate_zero, List.append_nil]

theorem length_payload256 {bs : List Byte} (h : bs.length ≤ 256) : (payload256 bs).length = 256 := by
  rw [payload256_eq h, List.length_append, List.length_replicate]
  omega

/-! ### Signal records (10 R291) -/

theorem State.length_sigBytes (s : State) (r : SigOut) : (s.sigBytes r).length = 16 := by
  simp [State.sigBytes, length_leBytes]

/-- A record reads back as it was written. -/
theorem State.sigBytes_read (s : State) (r : SigOut) :
    leAt (s.sigBytes r) 0 1 = s.memberPart r.part r.chip % 256 ∧ leAt (s.sigBytes r) 2 2 = r.flag % 65536
      ∧ BitVec.ofNat 32 (leAt (s.sigBytes r) 4 4) = r.n ∧ BitVec.ofNat 32 (leAt (s.sigBytes r) 8 4) = s.dmaSent r.chip := by
  have h0 : leAt (s.sigBytes r) 0 1 = leNat (leBytes 1 (s.memberPart r.part r.chip)) := rfl
  have h2 : leAt (s.sigBytes r) 2 2 = leNat (leBytes 2 r.flag) := rfl
  have h4 : leAt (s.sigBytes r) 4 4 = leNat (leBytes 4 r.n.toNat) := rfl
  have h8 : leAt (s.sigBytes r) 8 4 = leNat (leBytes 4 (s.dmaSent r.chip).toNat) := rfl
  have hword (w : Word) : BitVec.ofNat 32 (w.toNat % 256 ^ 4) = w := by
    rw [Nat.mod_eq_of_lt (Nat.lt_of_lt_of_eq w.isLt (by decide)), BitVec.ofNat_toNat, BitVec.setWidth_eq]
  rw [h0, h2, h4, h8, leNat_leBytes, leNat_leBytes, leNat_leBytes, leNat_leBytes, hword, hword]
  exact ⟨rfl, rfl, rfl, rfl⟩

/-- A number of the i-th record of a payload of records. -/
theorem leAt_payload (f : SigOut → List Byte) (rs : List SigOut) (hf : ∀ r, (f r).length = 16) {i o n : Nat} (hi : i < rs.length) (hlen : rs.length ≤ 16)
    (ho : o + n ≤ 16) : leAt (payload256 (rs.flatMap f)) (16 * i + o) n = leAt (f rs[i]) o n := by
  have hall := length_flatMap_const f rs (w := 16) fun x _ => hf x
  rw [payload256_eq (by omega), leAt_append (by omega), leAt_drop, drop_flatMap_const f rs (fun x _ => hf x),
    List.drop_eq_getElem_cons hi, List.flatMap_cons, leAt_append (by rw [hf]; exact ho)]

end Sys2Proof.Machine

/-! What leaves a port in a slot (06 R189; 08 R242 to R244; 09 R262; 10 R277, R283 to R292; 13 R371, R373). -/

namespace Sys2Proof.Machine

open Sys2Proof

/-! ### Cells sent -/

section
variable {s t : State} {p : Fin 8} {c : Cell}

/-- The port can send: it is enabled and locked. -/
def Sends (s : State) (p : Fin 8) : Prop := s.portEn p = true ∧ 2 ≤ (s.port p).st

theorem State.sendCell_sends (h : Sends s p) : s.sendCell p c = s.sendOn p c := if_pos h

theorem cellSent_sendCell (h : Sends s p) : CellSent p c s (s.sendCell p c) := by
  rw [State.sendCell_sends h]
  exact cellSent_sendOn s p c

/-- The queues of the tether changed, the ports as they are. -/
structure SamePorts (s t : State) : Prop where
  only : Only [.tether] s t
  ports : t.tether.ports = s.tether.ports
  join : t.tether.join = s.tether.join

theorem SamePorts.port (h : SamePorts s t) (q : Fin 8) : t.port q = s.port q := by
  unfold State.port
  rw [h.ports]

theorem SamePorts.sends (h : SamePorts s t) (hs : Sends s p) : Sends t p := by
  have hmc : t.mc = s.mc := h.only .mc (by decide)
  refine ⟨?_, by rw [h.port]; exact hs.2⟩
  unfold State.portEn State.fwImg
  rw [h.only .regs (by decide), hmc]
  exact hs.1

/-- A cell sent where the queues of the tether alone have changed. -/
theorem SamePorts.cellSent (h : SamePorts s t) (hs : Sends s p) : CellSent p c s (t.sendCell p c) := by
  obtain ⟨hout, hp, hq, hjoin, honly⟩ := cellSent_sendCell (c := c) (h.sends hs)
  have hchip : t.rd rTetherChip = s.rd rTetherChip := h.only .regs (by decide) _
  have hout' : t.out = s.out := h.only .out (by decide)
  refine ⟨?_, ?_, fun q hne => (hq q hne).trans (h.port q), hjoin.trans h.join, (h.only.mono (by decide)).trans honly⟩
  · rw [hout, hout', h.port]
    unfold State.chipId State.flightTag
    rw [hchip]
  · rw [hp, h.port]

/-- What sending a cell leaves of the tether. -/
theorem State.tether_sendCell (s : State) (p : Fin 8) (c : Cell) : (s.sendCell p c).tether.legDep = s.tether.legDep
    ∧ (s.sendCell p c).tether.dmaOut = s.tether.dmaOut ∧ (s.sendCell p c).tether.dmaSent = s.tether.dmaSent
    ∧ (s.sendCell p c).tether.sigOut = s.tether.sigOut := by
  unfold State.sendCell
  split
  · exact ⟨rfl, rfl, rfl, rfl⟩
  · exact ⟨rfl, rfl, rfl, rfl⟩

theorem Only.sendCell (s : State) (p : Fin 8) (c : Cell) : Only [.out, .tether] s (s.sendCell p c) :=
  .ite (cellSent_sendOn s p c).2.2.2.2 (.refl _ _)

end

/-! ### DATA (09 R262) -/

/-- The bytes of a flit as a DATA cell carries them. -/
def Flit.body (f : Flit) : List Byte := if f.void then List.replicate 128 0 else f.bytes.take 128

/-- The marks of a flit as a DATA cell carries them. -/
def Flit.marks (f : Flit) : List Bool := (List.range 16).map fun g => !f.void && f.poison.getD g false

/-- The cell of the next two flits of a leg. -/
def State.dataCell (s : State) (e : DWord) (f0 f1 : Flit) : Cell :=
  { cls := 1, src := s.chipId, dst := runPeer e, arg := BitVec.ofNat 32 (bitsOf (f0.marks ++ f1.marks)),
    valid := bn (!f0.void) + 2 * bn (!f1.void), payload := payload256 (f0.body ++ f1.body) }

/-- The state with a DATA cell sent. -/
def State.dataSent (s : State) (p : Fin 8) (e : DWord) : State :=
  (s.setLegOut (runLeg e) ((s.legOut (runLeg e)).drop 2)).sendCell p
    (s.dataCell e ((s.legOut (runLeg e)).getD 0 voidFlit) ((s.legOut (runLeg e)).getD 1 voidFlit))

theorem State.departData_eq (s : State) (p : Fin 8) (o : Nat) (e : DWord) : s.departData p o e
    = if (s.legOut (runLeg e)).length < 2 then (s.dataSent p e).unitMiss 11 (ownerPart o) else s.dataSent p e := rfl

theorem Flit.body_eq {f : Flit} (h : f.bytes.length = 128) : f.body = flitBytes f ∧ f.body.length = 128 := by
  unfold Flit.body flitBytes
  split
  · exact ⟨rfl, List.length_replicate⟩
  · rw [List.take_of_length_le (by omega)]
    exact ⟨rfl, h⟩

theorem Flit.getD_marks (f : Flit) {g : Nat} (hg : g < 16) : f.marks.getD g false = (!f.void && f.poison.getD g false) := getD_map_range 16 g _ _ hg

theorem Flit.length_marks (f : Flit) : f.marks.length = 16 := by rw [Flit.marks, List.length_map, List.length_range]

theorem bit_marks (f0 f1 : Flit) {g : Nat} (hg : g < 16) :
    bit (BitVec.ofNat 32 (bitsOf (f0.marks ++ f1.marks))) g = (!f0.void && f0.poison.getD g false)
      ∧ bit (BitVec.ofNat 32 (bitsOf (f0.marks ++ f1.marks))) (16 + g) = (!f1.void && f1.poison.getD g false) := by
  have h0 := f0.length_marks
  rw [bit_ofNat _ (by omega), bit_ofNat _ (by omega), bitsOf_bit, bitsOf_bit, List.getD_append _ _ _ _ (by omega),
    List.getD_append_right _ _ _ _ (by omega), h0, Nat.add_sub_cancel_left]
  exact ⟨f0.getD_marks hg, f1.getD_marks hg⟩

/-- A miss of a unit is recorded. -/
theorem State.unitMiss_frame (s : State) (unit part : Nat) : (s.unitMiss unit part).out = s.out ∧ (s.unitMiss unit part).tether = s.tether
    ∧ (s.unitMiss unit part).beat.acc.fail = true ∧ (s.unitMiss unit part).rd rScEvtHead = s.rd rScEvtHead + 1 := by
  have honly := Only.unitMiss s unit part
  refine ⟨honly .out (by decide), honly .tether (by decide), rfl, ?_⟩
  unfold State.unitMiss
  rw [State.rd_failBeat_other]
  exact State.rd_putEvt_head _ _

section
variable {u : State} {p : Fin 8} (hs : Sends u p)
include hs

theorem dataLeaves (o : Nat) (e : DWord) : DataLeaves u (u.departData p o e) p e := by
  unfold DataLeaves
  intro q f0 f1 h0 h1
  have hports : SamePorts u (u.setLegOut (runLeg e) (q.drop 2)) := ⟨.tether _ _ (by decide), rfl, rfl⟩
  have hsent : CellSent p (u.dataCell e f0 f1) u (u.dataSent p e) := hports.cellSent hs
  obtain ⟨b0, l0⟩ := f0.body_eq h0
  obtain ⟨b1, l1⟩ := f1.body_eq h1
  refine ⟨u.dataCell e f0 f1, u.dataSent p e, hsent, ?_, rfl, rfl, rfl, ?_, ?_, fun g hg => bit_marks f0 f1 hg, fun hq => ?_, fun hq => ?_⟩
  · have hdep := (u.setLegOut (runLeg e) (q.drop 2)).tether_sendCell p (u.dataCell e f0 f1)
    unfold State.legOut
    refine (congrArg (fun m => Sparse.get (fun _ => []) m (runLeg e)) hdep.1).trans (Laws.get_set_same _ _ _ _)
  · show payload256 (f0.body ++ f1.body) = _
    rw [payload256_full (by rw [List.length_append, l0, l1]), b0, b1]
  · show bn (!f0.void) + 2 * bn (!f1.void) = _
    cases f0.void <;> cases f1.void <;> rfl
  · rw [State.departData_eq]
    exact if_neg (Nat.not_lt.mpr hq)
  · rw [State.departData_eq, if_pos (show (u.legOut (runLeg e)).length < 2 from hq)]
    obtain ⟨hout, htether, hfail, hhead⟩ := (u.dataSent p e).unitMiss_frame 11 (ownerPart o)
    have hregs : (u.dataSent p e).rd rScEvtHead = u.rd rScEvtHead := hsent.2.2.2.2 .regs (by decide) _
    exact ⟨hout, htether, hfail, by rw [hhead, hregs]⟩

/-! ### DMA (06 R189; 10 R292) -/

end

/-- The cell of a queued DMA payload. -/
def State.dmaCell (s : State) (d : DmaOut) : Cell :=
  { cls := 2, src := s.chipId, dst := d.chip,
    arg := BitVec.ofNat 32 (d.win % 64 + d.off / 256 % 65536 * 2 ^ 6 + (d.bytes.length / 32 - 1) * 2 ^ 22 + bn d.poison * 2 ^ 25),
    valid := 0, payload := payload256 d.bytes }

/-- The state with a queued payload taken and counted. -/
def State.dmaTaken (s : State) (d : DmaOut) : State :=
  { s with tether := { s.tether with dmaOut := s.tether.dmaOut.erase d,
                                     dmaSent := Sparse.set (fun _ => 0) s.tether.dmaSent d.chip (s.dmaSent d.chip + 1) } }

/-- ARG of a DMA cell reads back as it was made (10 R283). -/
theorem dmaArg_read {win off len : Nat} (poison : Bool) (hw : win < 64) (ho : off < 65536) (hl : len < 8) :
    let a : Word := BitVec.ofNat 32 (win + off * 2 ^ 6 + len * 2 ^ 22 + bn poison * 2 ^ 25)
    fld a 0 6 = win ∧ fld a 6 16 = off ∧ fld a 22 3 = len ∧ bit a 25 = poison := by
  intro a
  have hb : bn poison < 2 := by cases poison <;> decide
  refine ⟨(fld_ofNat _ (by decide)).trans ?_, (fld_ofNat _ (by decide)).trans ?_, (fld_ofNat _ (by decide)).trans ?_, (bit_ofNat _ (by decide)).trans ?_⟩
  · simp; omega
  · simp; omega
  · simp; omega
  · have hdiv : (win + off * 2 ^ 6 + len * 2 ^ 22 + bn poison * 2 ^ 25) / 2 ^ 25 % 2 = bn poison := by omega
    rw [hdiv]
    cases poison <;> rfl

section
variable {u : State} {p : Fin 8} (hs : Sends u p)
include hs

theorem dmaLeaves (o : Nat) (e : DWord) : DmaLeaves u (u.departDma p o e) p o e := by
  unfold DmaLeaves
  intro oldest
  refine ⟨fun hnone => ?_, fun d hd hmax hmin => ?_⟩
  · have hdep : u.departDma p o e = u.sendCell p (u.idleOf p) := by
      unfold State.departDma
      rw [show (u.tether.dmaOut.find? fun d => decide (d.part = o ∧ d.chip = runPeer e)) = none from hnone]
    rw [hdep]
    exact cellSent_sendCell hs
  · have hdep : u.departDma p o e = if d.last = true ∧ d.core ≠ 0xFFFF then ((u.dmaTaken d).sendCell p (u.dmaCell d)).finishId d.core d.id
        else (u.dmaTaken d).sendCell p (u.dmaCell d) := by
      unfold State.departDma
      rw [show (u.tether.dmaOut.find? fun d => decide (d.part = o ∧ d.chip = runPeer e)) = some d from hd]
      rfl
    have hfound : (u.tether.dmaOut.find? fun d => decide (d.part = o ∧ d.chip = runPeer e)) = some d := hd
    have hmine := List.find?_some hfound
    have hchip : d.chip = runPeer e := (of_decide_eq_true hmine).2
    have hports : SamePorts u (u.dmaTaken d) := ⟨.tether _ _ (by decide), rfl, rfl⟩
    obtain ⟨hwin, hoff, hlen, hpoison⟩ := dmaArg_read (win := d.win % 64) (off := d.off / 256 % 65536) (len := d.bytes.length / 32 - 1) d.poison
      (Nat.mod_lt _ (by decide)) (Nat.mod_lt _ (by decide)) (by omega)
    obtain ⟨-, hout, hsent, -⟩ := (u.dmaTaken d).tether_sendCell p (u.dmaCell d)
    refine ⟨u.dmaCell d, (u.dmaTaken d).sendCell p (u.dmaCell d), hports.cellSent hs, rfl, rfl, hchip, rfl, payload256_eq hmax, hwin, hoff, hlen,
      hpoison, hout, ?_, hdep⟩
    unfold State.dmaSent
    rw [hsent]
    exact Laws.get_set_same _ _ _ _

end

/-! ### FLAG (08 R242 to R244; 10 R291) -/

/-- The records that the next FLAG cell of an owner toward a chip carries. -/
def State.flagNext (s : State) (o : Nat) (e : DWord) : List SigOut :=
  (s.tether.sigOut.filter fun r => decide (r.part = o ∧ r.chip = runPeer e)).take 16

/-- The cell that carries records. -/
def State.flagCell (s : State) (e : DWord) (rs : List SigOut) : Cell :=
  { cls := 3, src := s.chipId, dst := runPeer e, arg := BitVec.ofNat 32 rs.length, valid := 0, payload := payload256 (rs.flatMap s.sigBytes) }

/-- The state with records taken. -/
def State.flagTaken (s : State) (rs : List SigOut) : State :=
  { s with tether := { s.tether with sigOut := rs.foldl (fun l r => l.erase r) s.tether.sigOut } }

/-- What a record is at the receiver. -/
def State.sigSent (s : State) (o : Nat) (e : DWord) (r : SigOut) : SigHeld :=
  ⟨s.chipId, s.memberPart o (runPeer e) % 256, r.flag % 65536, r.n, s.dmaSent (runPeer e)⟩

/-- The records of a FLAG cell are read as they were sent. -/
theorem State.cellSigs_flagCell (s : State) (o : Nat) (e : DWord) {rs : List SigOut} (hlen : rs.length ≤ 16)
    (hmine : ∀ r ∈ rs, r.part = o ∧ r.chip = runPeer e) : cellSigs (s.flagCell e rs) = rs.map (s.sigSent o e) := by
  have hn : fld (s.flagCell e rs).arg 0 5 = rs.length := (fld_ofNat _ (by decide)).trans (by simp; omega)
  unfold cellSigs
  rw [hn, Nat.min_eq_right hlen]
  refine List.ext_getElem (by simp) fun i h1 h2 => ?_
  have hi : i < rs.length := by simpa using h2
  obtain ⟨hpart, hchip⟩ := hmine _ (List.getElem_mem hi)
  obtain ⟨h0, hf, hv, hst⟩ := s.sigBytes_read rs[i]
  rw [List.getElem_map, List.getElem_map, List.getElem_range]
  have hat (k n : Nat) (hk : k + n ≤ 16) : leAt (s.flagCell e rs).payload (16 * i + k) n = leAt (s.sigBytes rs[i]) k n :=
    leAt_payload s.sigBytes rs s.length_sigBytes hi hlen hk
  unfold sigAt State.sigSent
  rw [← Nat.add_zero (16 * i), hat 0 1 (by decide), Nat.add_zero, hat 2 2 (by decide), hat 4 4 (by decide), hat 8 4 (by decide), h0, hf, hv, hst,
    hpart, hchip]
  rfl

/-- Records taken from a queue leave the others, in number and each. -/
theorem foldl_erase_frame {xs rs : List SigOut} (h : rs.Sublist xs) :
    (∀ r ∈ xs, r ∉ rs → r ∈ rs.foldl (fun l r => l.erase r) xs) ∧ (rs.foldl (fun l r => l.erase r) xs).length + rs.length = xs.length := by
  have hdiff : rs.foldl (fun l r => l.erase r) xs = xs.diff rs := (List.diff_eq_foldl xs rs).symm
  rw [hdiff]
  refine ⟨fun r hr hn => List.mem_diff_of_mem hr hn, ?_⟩
  have hperm := List.subperm_append_diff_self_of_count_le (l₁ := rs) (l₂ := xs) fun x _ => h.count_le x
  have := hperm.length_eq
  rw [List.length_append] at this
  omega

section
variable {u : State} {p : Fin 8} (hs : Sends u p)
include hs

theorem flagLeaves (o : Nat) (e : DWord) : FlagLeaves u (u.departFlag p o e) p o e := by
  unfold FlagLeaves
  intro rs
  have hrs : rs = u.flagNext o e := rfl
  have hlen : rs.length ≤ 16 := by rw [hrs, State.flagNext, List.length_take]; exact Nat.min_le_left _ _
  have hsub : rs.Sublist u.tether.sigOut := (List.take_sublist _ _).trans List.filter_sublist
  have hmine (r : SigOut) (hr : r ∈ rs) : r.part = o ∧ r.chip = runPeer e :=
    of_decide_eq_true (List.mem_filter.mp (List.mem_of_mem_take hr)).2
  refine ⟨fun hnil => ?_, fun hne => ?_⟩
  · have hdep : u.departFlag p o e = u.sendCell p (u.idleOf p) := if_pos (List.isEmpty_iff.mpr hnil)
    rw [hdep]
    exact cellSent_sendCell hs
  · have hdep : u.departFlag p o e = rs.foldl (fun t r => (t.finishId r.core r.id).bump (rSeRsigSent r.core))
        ((u.flagTaken rs).sendCell p (u.flagCell e rs)) := if_neg fun h => hne (List.isEmpty_iff.mp h)
    have hports : SamePorts u (u.flagTaken rs) := ⟨.tether _ _ (by decide), rfl, rfl⟩
    have hqueue : ((u.flagTaken rs).sendCell p (u.flagCell e rs)).tether.sigOut = rs.foldl (fun l r => l.erase r) u.tether.sigOut :=
      ((u.flagTaken rs).tether_sendCell p (u.flagCell e rs)).2.2.2
    have hbytes := length_flatMap_const u.sigBytes rs fun r _ => u.length_sigBytes r
    obtain ⟨hothers, hcount⟩ := foldl_erase_frame hsub
    refine ⟨u.flagCell e rs, (u.flagTaken rs).sendCell p (u.flagCell e rs), hports.cellSent hs, rfl, rfl, rfl, rfl, length_payload256 (by omega),
      (fld_ofNat _ (by decide)).trans (by simp; omega), u.cellSigs_flagCell o e hlen hmine, fun r hr hother => ?_, ?_, hdep⟩
    · rw [hqueue]
      exact hothers r hr fun hmem => hother.elim (fun h => h (hmine r hmem).1) fun h => h (hmine r hmem).2
    · rw [hqueue, hcount]

end

/-! ### BATCH (13 R371, R373) -/

/-- The cell of a table. -/
def State.batchOut (s : State) (g i : Nat) (last : Bool) (bytes : List Byte) : Cell :=
  { cls := 4, src := s.chipId, dst := s.chipId, arg := BitVec.ofNat 32 (g + i * 2 ^ 11 + bn last * 2 ^ 21), valid := 0, payload := payload256 bytes }

/-- ARG of a BATCH cell reads back as it was made. -/
theorem batchArg_read {g i : Nat} (last : Bool) (hg : g < 2048) (hi : i < 1024) :
    let a : Word := BitVec.ofNat 32 (g + i * 2 ^ 11 + bn last * 2 ^ 21)
    fld a 0 11 = g ∧ fld a 11 10 = i ∧ bit a 21 = last := by
  intro a
  have hb : bn last < 2 := by cases last <;> decide
  refine ⟨(fld_ofNat _ (by decide)).trans ?_, (fld_ofNat _ (by decide)).trans ?_, (bit_ofNat _ (by decide)).trans ?_⟩
  · simp; omega
  · simp; omega
  · have hdiv : (g + i * 2 ^ 11 + bn last * 2 ^ 21) / 2 ^ 21 % 2 = bn last := by omega
    rw [hdiv]
    cases last <;> rfl

/-- LATE is recorded, and the ports stand. -/
theorem State.lateTable_frame (s : State) (t : BTable) (o : Nat) : bit ((s.lateTable t o).rd rRtStatus) 1 = true
    ∧ Only [.regs, .sc, .beat, .rt] s (s.lateTable t o) ∧ ∀ p : Fin 8, (s.lateTable t o).rd (rTetherPortCfg p) = s.rd (rTetherPortCfg p) := by
  have hset : bit ((s.setBit rRtStatus 1).rd rRtStatus) 1 = true := bit_rd_setBit s _ (by decide)
  have hregs : Only [.regs, .sc, .beat, .rt] s (s.setBit rRtStatus 1) := .setBit _ _ _ (by decide)
  have hcfg (p : Fin 8) : (s.setBit rRtStatus 1).rd (rTetherPortCfg p) = s.rd (rTetherPortCfg p) :=
    s.rd_setBit_ne _ (by unfold rTetherPortCfg rRtStatus; omega)
  have hmiss (u : State) {a : Nat} (h : a ∉ evtRegs) : (u.unitMiss 5 (ownerPart o)).rd a = u.rd a := by
    unfold State.unitMiss
    rw [State.rd_failBeat_other, State.rd_event_ne _ _ _ _ _ _ _ h]
  unfold State.lateTable
  extract_lets s1
  split
  · exact ⟨hset, hregs, hcfg⟩
  · have hput : Only [.rt] ((s1.bump rRtLateCount).unitMiss 5 (ownerPart o))
        (((s1.bump rRtLateCount).unitMiss 5 (ownerPart o)).putTable { t with late := true }) := .rt _ _ (by decide)
    have hputr := hput .regs (by decide)
    refine ⟨?_, hregs.trans ((Only.bump _ _ (by decide)).trans (((Only.unitMiss _ _ _).mono (by decide)).trans (hput.mono (by decide)))), fun p => ?_⟩
    · rw [hputr, hmiss _ (by decide), State.rd_bump_ne _ (by decide)]
      exact hset
    · have hp := p.isLt
      rw [hputr, hmiss _ (by simp only [evtRegs, List.mem_cons, List.not_mem_nil, or_false, rScEvtHead, rScEvtTail, rScEvtLost, rScStatus, rTetherPortCfg]; omega),
        State.rd_bump_ne _ (by unfold rTetherPortCfg rRtLateCount; omega)]
      exact hcfg p

theorem BTable.length_cell (b : BTable) (i : Nat) : (b.cell i).length ≤ 256 := by
  rw [BTable.cell, List.length_take]
  exact Nat.min_le_left _ _

section
variable {u : State} {p : Fin 8} (hs : Sends u p)
include hs

theorem batchLeaves (o k : Nat) (e : DWord) : BatchLeaves u (u.departBatch p o e k) p e k := by
  unfold BatchLeaves
  intro i table
  refine ⟨fun hnone => ?_, fun b hb => ?_⟩
  · have hdep : u.departBatch p o e k = u.sendCell p (u.idleOf p) := by
      unfold State.departBatch
      dsimp only
      rw [show (u.rt.tables.find? fun t => decide (t.group = runGroup e)) = none from hnone]
    rw [hdep]
    exact cellSent_sendCell hs
  · have hdep : u.departBatch p o e k = if b.cells ≤ i then u.sendCell p (u.idleOf p)
        else if 2 * k < b.ready then (u.lateTable b o).sendCell p (u.idleOf p)
        else if b.sent ≤ i then ((u.sendCell p (u.batchOut (runGroup e) i (decide (i + 1 = b.cells)) (b.cell i))).putTable { b with sent := i + 1 }).batchCell
            (runGroup e) u.chipId i (decide (i + 1 = b.cells)) (b.cell i)
          else u.sendCell p (u.batchOut (runGroup e) i (decide (i + 1 = b.cells)) (b.cell i)) := by
      unfold State.departBatch
      dsimp only
      rw [show (u.rt.tables.find? fun t => decide (t.group = runGroup e)) = some b from hb]
      rfl
    rw [hdep]
    refine ⟨fun hend => ?_, fun hin hlate => ?_, fun hin hready hi => ?_⟩
    · rw [if_pos hend]
      exact cellSent_sendCell hs
    · rw [if_neg (Nat.not_le.mpr hin), if_pos hlate]
      obtain ⟨hbit, honly, hcfg⟩ := u.lateTable_frame b o
      have hsends : Sends (u.lateTable b o) p := by
        have hmc : (u.lateTable b o).mc = u.mc := honly .mc (by decide)
        refine ⟨?_, ?_⟩
        · unfold State.portEn State.fwImg
          rw [hcfg p, hmc]
          exact hs.1
        · rw [State.port_of_only honly (by decide)]
          exact hs.2
      have hcell := cellSent_sendCell (c := u.idleOf p) hsends
      refine ⟨?_, ?_⟩
      · rw [hcell.2.2.2.2 .regs (by decide)]
        exact hbit
      · rw [hcell.1]
        exact List.mem_append_right _ (List.mem_singleton.mpr rfl)
    · rw [if_neg (Nat.not_le.mpr hin), if_neg (Nat.not_lt.mpr hready)]
      obtain ⟨hg, hidx, hlast⟩ := batchArg_read (g := runGroup e) (i := i) (decide (i + 1 = b.cells)) (Nat.mod_lt _ (by decide)) hi
      exact ⟨u.batchOut (runGroup e) i (decide (i + 1 = b.cells)) (b.cell i), _, cellSent_sendCell hs, rfl, rfl, rfl, rfl, hg, hidx, hlast,
        payload256_eq (b.length_cell i), rfl⟩

/-! ### Forwarding (10 R287) -/

theorem fwdLeaves (k : Nat) (e : DWord) : FwdLeaves u (u.departFwd p e k) p e k := by
  unfold FwdLeaves
  intro came
  have hports : SamePorts u { u with tether := { u.tether with
      fwd := u.tether.fwd.filter fun f => !decide (f.port = p.val ∧ f.slot = k ∧ f.src = runFrom e) } } := ⟨.tether _ _ (by decide), rfl, rfl⟩
  have hsend (c : Cell) (hc : u.departFwd p e k = State.sendCell { u with tether := { u.tether with
      fwd := u.tether.fwd.filter fun f => !decide (f.port = p.val ∧ f.slot = k ∧ f.src = runFrom e) } } p c) : CellSent p c u (u.departFwd p e k) := by
    rw [hc]
    exact hports.cellSent hs
  refine ⟨fun f c hf hcell hcls => hsend c ?_, fun hno => hsend _ ?_⟩
  · unfold State.departFwd
    extract_lets mine c'
    have hc : c' = c := by
      show (match u.tether.fwd.find? mine with
        | some f => match f.cell with
          | some c => if c.cls = runClass e then c else u.idleOf p
          | none => u.idleOf p
        | none => u.idleOf p) = c
      rw [show u.tether.fwd.find? mine = some f from hf]
      dsimp only
      rw [hcell]
      exact if_pos hcls
    rw [hc]
  · unfold State.departFwd
    extract_lets mine c'
    have hc : c' = u.idleOf p := by
      show (match u.tether.fwd.find? mine with
        | some f => match f.cell with
          | some c => if c.cls = runClass e then c else u.idleOf p
          | none => u.idleOf p
        | none => u.idleOf p) = u.idleOf p
      cases hf : u.tether.fwd.find? mine with
      | none => rfl
      | some f =>
        dsimp only
        cases hcell : f.cell with
        | none => rfl
        | some c => exact if_neg (hno f c hf hcell)
    rw [hc]

end

/-! ### A slot -/

/-- What a slot of a run sends. -/
def State.runLeaves (s : State) (p : Fin 8) (k o : Nat) (e : DWord) : State :=
  if runBit e then s.departFwd p e k
  else if runClass e = 1 then s.departData p o e
  else if runClass e = 2 then s.departDma p o e
  else if runClass e = 3 then s.departFlag p o e
  else s.departBatch p o e k

/-- What a slot sends once its time has come. -/
def State.slotLeaves (s : State) (p : Fin 8) (k : Nat) : State :=
  if s.isStatusSlot k then s
  else
    match (if s.beat.inGuard then none else s.playSlot p.val true k) with
    | none => s.sendCell p (s.idleOf p)
    | some (o, e) => s.runLeaves p k o e

theorem State.depart_eq (s : State) (p : Fin 8) (k : Nat) :
    s.depart p k = (if s.beat.joined then s.toTc (s.beatStart + BitVec.ofNat 64 (2 * k)) else s).slotLeaves p k := rfl

theorem State.slotLeaves_idle {s : State} {p : Fin 8} {k : Nat} (hno : s.isStatusSlot k = false)
    (h : s.beat.inGuard = true ∨ s.playSlot p.val true k = none) : s.slotLeaves p k = s.sendCell p (s.idleOf p) := by
  have hnone : (if s.beat.inGuard then none else s.playSlot p.val true k) = none := by
    obtain h | h := h
    · exact if_pos h
    · rw [h, ite_self]
  unfold State.slotLeaves
  rw [if_neg (ne_true_of_eq_false hno), hnone]

theorem State.slotLeaves_run {s : State} {p : Fin 8} {k o : Nat} {e : DWord} (hno : s.isStatusSlot k = false) (hguard : s.beat.inGuard = false)
    (hplay : s.playSlot p.val true k = some (o, e)) : s.slotLeaves p k = s.runLeaves p k o e := by
  unfold State.slotLeaves
  rw [if_neg (ne_true_of_eq_false hno), if_neg (ne_true_of_eq_false hguard), hplay]

/-! ### The obligation -/

/-- Settles O42, by what a slot of each class sends. -/
theorem slotsDepart : Obligations.SlotsDepart := by
  intro s p k u hlive
  have hexec : exec (.tetherSlotDepart p k) s = .next (s.depart p k) := congrArg Host.Outcome.next (if_pos hlive)
  have honly : Only [.tb] s u := .toTc _ _ (by decide)
  have hjoined (hj : s.beat.joined = true) : s.depart p k = u.slotLeaves p k := by rw [State.depart_eq, if_pos hj]
  have hsends (hen : s.portEn p = true) (hst : 2 ≤ (s.port p).st) : Sends u p := by
    have hmc : u.mc = s.mc := honly .mc (by decide)
    refine ⟨?_, by rw [State.port_of_only honly (by decide)]; exact hst⟩
    unfold State.portEn State.fwImg
    rw [honly .regs (by decide), hmc]
    exact hen
  refine ⟨fun hj hen hst => ?_, fun hj hno hidle hen hst => ?_, fun hj hstatus => ?_, fun o e hj hno hguard hplay hen hst => ?_⟩
  · have hplay : s.playSlot p.val true k = none := if_neg (by unfold State.workPeriod; rw [hj]; exact Bool.false_ne_true)
    have hno : s.isStatusSlot k = false := by unfold State.isStatusSlot; rw [hj]; rfl
    have hdep : s.depart p k = s.sendCell p (s.idleOf p) := by
      rw [State.depart_eq, if_neg (ne_true_of_eq_false hj), State.slotLeaves_idle hno (.inr hplay)]
    exact .of_eq (hexec.trans (congrArg _ hdep)) (cellSent_sendCell ⟨hen, hst⟩)
  · exact .of_eq (hexec.trans (congrArg _ ((hjoined hj).trans (State.slotLeaves_idle hno hidle)))) (cellSent_sendCell (hsends hen hst))
  · exact .of_eq (hexec.trans (congrArg _ ((hjoined hj).trans (if_pos hstatus)))) rfl
  · have hs := hsends hen hst
    have hdep : s.depart p k = u.runLeaves p k o e := (hjoined hj).trans (State.slotLeaves_run hno hguard hplay)
    unfold State.runLeaves at hdep
    refine .of_eq (hexec.trans (congrArg _ hdep)) ⟨fun hb => ?_, fun hb hc => ?_, fun hb hc => ?_, fun hb hc => ?_, fun hb hc => ?_⟩
    · rw [if_pos hb]
      exact fwdLeaves hs k e
    · rw [if_neg (ne_true_of_eq_false hb), if_pos hc]
      exact dataLeaves hs o e
    · rw [if_neg (ne_true_of_eq_false hb), if_neg (by omega), if_pos hc]
      exact dmaLeaves hs o e
    · rw [if_neg (ne_true_of_eq_false hb), if_neg (by omega), if_neg (by omega), if_pos hc]
      exact flagLeaves hs o e
    · rw [if_neg (ne_true_of_eq_false hb), if_neg (by omega), if_neg (by omega), if_neg (by omega)]
      exact batchLeaves hs o k e

end Sys2Proof.Machine

/-! The events of a beat (06 R171; 10 R294 to R296, R303, R304; 11 R327 to R330). -/

namespace Sys2Proof.Machine

open Sys2Proof

/-! ### The cut (10 R294) -/

theorem SamePeriod.checkRows (s : State) (rs : List (Nat × Nat)) (sched : Bool) : SamePeriod s (s.checkRows rs sched) := by
  have hbeside (t : State) (g : Nat) : SamePeriod t (t.touchBeside g) := by
    unfold State.touchBeside
    split
    · exact .refl t
    · exact .touch t g false
  exact (SamePeriod.foldl (fun (t : State) (g : Nat) => t.touch g sched) _ s fun t x => .touch t x sched).trans
    (.foldl State.touchBeside _ _ hbeside)

theorem SamePeriod.unitRead (s : State) (unit p c a n : Nat) : SamePeriod s (s.unitRead unit p c a n).2.2 := by
  unfold State.unitRead
  split
  next x hx => exact .of_only (Only.unitRefused s _ _ _ x) (by decide)
  next hx => exact (SamePeriod.checkRows s _ _).trans (.of_only (.free (ch := [.free]) _ _ (by decide)) (by decide))

theorem SamePeriod.pgRead (s : State) (p c a n : Nat) : SamePeriod s (s.pgRead p c a n).2.2 := by
  unfold State.pgRead
  extract_lets r
  have h1 : SamePeriod s (s.atEndpoint 0x101 c) :=
    .of_only (Only.atEndpoint (ch := [.regs, .drift, .free]) s _ _ (by decide) (by decide) (by decide)) (by decide)
  have h2 : SamePeriod s r.2.2 := h1.trans (.unitRead _ _ _ _ _ _)
  show SamePeriod s (if r.2.1.isEmpty then r.2.2 else r.2.2.setBit rPgStatus 1)
  split
  · exact h2
  · exact h2.trans (.of_only (Only.setBit (ch := [.regs]) _ _ _ (by decide)) (by decide))

theorem SamePeriod.setPg (s : State) (p : Nat) (q : PgPart) : SamePeriod s (s.setPg p q) :=
  .of_only (.setPg (ch := [.pg]) s p q (by decide)) (by decide)

theorem SamePeriod.readRecords (s : State) (p : Nat) : SamePeriod s (s.readRecords p) := by
  unfold State.readRecords
  extract_lets c w core base me s1 q stop seq s2
  have h1 : SamePeriod s s1 := by
    refine .foldl _ _ s fun t i => ?_
    dsimp only
    split
    · exact .refl t
    · have hread : SamePeriod t (t.pgRead p core (base + 256 * i) 32).2.2 := .pgRead _ _ _ _ _
      split
      · exact .refl t
      · split
        · exact hread.trans (.of_only (Only.setBit (ch := [.regs]) _ _ _ (by decide)) (by decide))
        · exact hread.trans (.setPg _ _ _)
  have h2 : SamePeriod s1 s2 :=
    .of_only (ch := [.regs, .sc]) (.ite (.event _ _ _ _ _ _ _ (by decide) (by decide)) (.refl _ _)) (by decide)
  exact (h1.trans h2).trans (.setPg _ _ _)

theorem State.cutStatus_frame (s : State) : s.cutStatus.beat.cut = true ∧ s.cutStatus.beat.inGuard = s.beat.inGuard := by
  unfold State.cutStatus
  extract_lets s1 acc reset kept b s2
  obtain ⟨a, ha⟩ := SamePeriod.foldl State.readRecords ((List.range 16).filter fun p => s2.pgOn p && s2.isAnchor p) s2 .readRecords
  have h1 : s1.beat = s.beat := Only.toTc (ch := [.tb]) s _ (by decide) .beat (by decide)
  rw [ha]
  exact ⟨rfl, show s1.beat.inGuard = s.beat.inGuard by rw [h1]⟩

theorem State.guardStart_frame (s : State) : s.guardStart.beat.inGuard = true ∧ s.guardStart.tether.sigOut = [] := by
  unfold State.guardStart
  exact ⟨rfl, rfl⟩

theorem State.toCut_frame (s : State) : s.toCut.beat.cut = true ∧ s.toCut.beat.inGuard = true := by
  unfold State.toCut
  extract_lets s1
  have h1 : s1.beat.inGuard = true := by
    by_cases h : s.beat.inGuard = true
    · rw [show s1 = s from if_pos h]
      exact h
    · rw [show s1 = s.guardStart from if_neg h]
      exact s.guardStart_frame.1
  split
  next h => exact ⟨h, h1⟩
  next => exact ⟨s1.cutStatus_frame.1, s1.cutStatus_frame.2.trans h1⟩

theorem State.toCut_of_cut {s : State} (hcut : s.beat.cut = true) (hguard : s.beat.inGuard = true) : s.toCut = s := by
  unfold State.toCut
  rw [if_pos hguard]
  exact if_pos hcut

/-! ### The rounds (10 R294 to R296) -/

theorem State.statusCell_congr {s t : State} (hregs : ∀ a, t.rd a = s.rd a) (hbeat : t.beat = s.beat) (p : Fin 8) (v : Status) (r copy : Nat) :
    t.statusCell p v r copy = s.statusCell p v r copy := by
  unfold State.statusCell State.chipId State.peerOf
  rw [hregs, hregs, hbeat]

/-- The two copies of a round sent on a port. -/
def State.sendCopies (v : Status) (r : Nat) (t : State) (p : Fin 8) : State :=
  (t.sendCell p (t.statusCell p v r 0)).sendCell p (t.statusCell p v r 1)

theorem State.sendRound_eq (s : State) (r : Nat) : s.sendRound r
    = let s1 := s.toTc (s.beatStart + BitVec.ofNat 64 (s.guardAt + 8 + (r - 1) * s.roundGap))
      s1.portsJoined.foldl (State.sendCopies s1.view r) s1 := rfl

theorem Only.sendCopies (v : Status) (r : Nat) (s : State) (p : Fin 8) : Only [.out, .tether] s (s.sendCopies v r p) :=
  (Only.sendCell s p _).trans (.sendCell _ p _)

theorem CellSent.sends {s t : State} {p q : Fin 8} {c : Cell} (h : Sys2Proof.CellSent p c s t) (hs : Sends s q) : Sends t q := by
  obtain ⟨-, hp, hother, -, honly⟩ := h
  have hmc : t.mc = s.mc := honly .mc (by decide)
  have hen : t.portEn q = s.portEn q := by
    unfold State.portEn State.fwImg
    rw [honly .regs (by decide), hmc]
  refine ⟨hen.trans hs.1, ?_⟩
  by_cases hq : q = p
  · subst hq
    rw [hp]
    split <;> exact hs.2
  · rw [hother q hq]
    exact hs.2

theorem CellSent.length_out {s t : State} {p : Fin 8} {c : Cell} (h : Sys2Proof.CellSent p c s t) : s.out.length + 1 ≤ t.out.length := by
  rw [h.1, List.length_append, List.length_append, List.length_singleton]
  omega

theorem CellSent.out_inside {s t : State} {p : Fin 8} {c : Cell} (h : Sys2Proof.CellSent p c s t) (h0 : (s.port p).cells ≠ 0) :
    t.out = s.out ++ [.cell p c] := by
  rw [h.1, if_neg h0, List.append_nil]

theorem State.sendCopies_frame {s : State} {p : Fin 8} (hs : Sends s p) (v : Status) (r : Nat) :
    s.out.length + 2 ≤ (s.sendCopies v r p).out.length ∧ (∀ q, q ≠ p → (s.sendCopies v r p).port q = s.port q)
      ∧ (∀ q, Sends s q → Sends (s.sendCopies v r p) q)
      ∧ (1 ≤ (s.port p).cells → (s.port p).cells ≤ 542 →
          (s.sendCopies v r p).out = s.out ++ [.cell p (s.statusCell p v r 0), .cell p (s.statusCell p v r 1)]) := by
  have h1 := cellSent_sendCell (c := s.statusCell p v r 0) hs
  have h2 := cellSent_sendCell (c := s.statusCell p v r 1) (CellSent.sends h1 hs)
  refine ⟨?_, fun q hq => (h2.2.2.1 q hq).trans (h1.2.2.1 q hq), fun q hq => CellSent.sends h2 (CellSent.sends h1 hq), fun hlo hhi => ?_⟩
  · have hl1 := CellSent.length_out h1
    have hl2 := CellSent.length_out h2
    unfold State.sendCopies
    omega
  · have hcells : ((s.sendCell p (s.statusCell p v r 0)).port p).cells ≠ 0 := by
      rw [h1.2.1, if_neg (show ¬(s.port p).cells = 543 by omega)]
      exact Nat.succ_ne_zero _
    have hout := CellSent.out_inside h2 hcells
    rw [CellSent.out_inside h1 (by omega), List.append_assoc] at hout
    exact hout

theorem State.sendCopies_all (v : Status) (r : Nat) (l : List (Fin 8)) (hl : l.Nodup) (s : State) (hs : ∀ p ∈ l, Sends s p) :
    s.out.length + 2 * l.length ≤ (l.foldl (State.sendCopies v r) s).out.length
      ∧ Only [.out, .tether] s (l.foldl (State.sendCopies v r) s)
      ∧ ((∀ p ∈ l, 1 ≤ (s.port p).cells ∧ (s.port p).cells ≤ 542) →
          (l.foldl (State.sendCopies v r) s).out
            = s.out ++ l.flatMap fun p => [.cell p (s.statusCell p v r 0), .cell p (s.statusCell p v r 1)]) := by
  induction l generalizing s with
  | nil => exact ⟨Nat.le_refl _, .refl _ _, fun _ => (List.append_nil _).symm⟩
  | cons p l ih =>
    obtain ⟨hp, hl'⟩ := List.nodup_cons.mp hl
    obtain ⟨hlen, hport, hsends, hout⟩ := State.sendCopies_frame (hs p List.mem_cons_self) v r
    have honly := Only.sendCopies v r s p
    have hne {q : Fin 8} (hq : q ∈ l) : q ≠ p := by
      rintro rfl
      exact hp hq
    obtain ⟨hlen', honly', hout'⟩ := ih hl' (s.sendCopies v r p) fun q hq => hsends q (hs q (List.mem_cons_of_mem _ hq))
    refine ⟨?_, honly.trans honly', fun hcells => ?_⟩
    · rw [List.foldl_cons, List.length_cons]
      omega
    · have hcell (q : Fin 8) (k : Nat) : (s.sendCopies v r p).statusCell q v r k = s.statusCell q v r k :=
        State.statusCell_congr (honly .regs (by decide)) (honly .beat (by decide)) q v r k
      have hhere := hcells p List.mem_cons_self
      rw [List.foldl_cons, hout' fun q hq => by
        rw [hport q (hne hq)]
        exact hcells q (List.mem_cons_of_mem _ hq), hout hhere.1 hhere.2, List.flatMap_cons, List.append_assoc]
      simp only [hcell]

theorem State.nodup_portsJoined (s : State) : s.portsJoined.Nodup := (List.nodup_finRange 8).filter _

theorem State.sendRound_frame {s : State} (r : Nat) (hs : ∀ p ∈ s.portsJoined, Sends s p) :
    s.out.length + 2 * s.portsJoined.length ≤ (s.sendRound r).out.length ∧ Only [.out, .tb, .tether] s (s.sendRound r)
      ∧ ((∀ p ∈ s.portsJoined, 1 ≤ (s.port p).cells ∧ (s.port p).cells ≤ 542) →
          (s.sendRound r).out = s.out ++ s.portsJoined.flatMap fun p =>
            [.cell p (s.statusCell p s.view r 0), .cell p (s.statusCell p s.view r 1)]) := by
  rw [State.sendRound_eq]
  extract_lets s1
  have honly : Only [.tb] s s1 := Only.toTc s _ (by decide)
  have hbeat : s1.beat = s.beat := honly .beat (by decide)
  have hview : s1.view = s.view := by
    unfold State.view
    rw [hbeat]
  have hport (p : Fin 8) : s1.port p = s.port p := State.port_of_only honly (by decide) p
  have hjoined : s1.portsJoined = s.portsJoined := by
    unfold State.portsJoined
    simp only [hport]
  have hen (p : Fin 8) : s1.portEn p = s.portEn p := by
    unfold State.portEn State.fwImg
    rw [honly .regs (by decide), show s1.mc = s.mc from honly .mc (by decide)]
  have hout : s1.out = s.out := honly .out (by decide)
  have hcell (q : Fin 8) (k : Nat) : s1.statusCell q s.view r k = s.statusCell q s.view r k :=
    State.statusCell_congr (honly .regs (by decide)) hbeat q s.view r k
  rw [hjoined, hview]
  obtain ⟨hlen, hframe, hcells⟩ := State.sendCopies_all s.view r s.portsJoined s.nodup_portsJoined s1 fun p hp => by
    unfold Sends
    rw [hen, hport]
    exact hs p hp
  rw [hout] at hlen hcells
  simp only [hport, hcell] at hcells
  exact ⟨hlen, (honly.mono (by decide)).trans (hframe.mono (by decide)), hcells⟩

theorem State.roundLost_frame (s : State) (p : Nat) :
    (s.roundLost p).beat.cond = some (s.beat.cond.getD (3, p)) ∧ bit ((s.roundLost p).rd rTetherStatus) 4 = true :=
  ⟨rfl, bit_rd_setBit s _ (by decide)⟩

theorem Only.countFec (s : State) (x : CellIn) : Only [.regs] s (s.countFec x) := (Only.bumpN s _ _ (by decide)).trans (.bumpN _ _ _ (by decide))

/-- A status cell for the device, of the neighbour on its port (10 R295). -/
theorem State.takeStatus_taken {s : State} {x : CellIn} (hdec : cellDecodes x = true) (hcls : x.cell.cls = 5)
    (hsrc : x.cell.src = s.peerOf x.port) (hdst : x.cell.dst = s.chipId) :
    s.takeStatus x = if fld x.cell.arg 10 12 ≠ s.beat.bno.toNat % 4096 then (s.countFec x).roundLost x.port.val
      else { s.countFec x with beat := { s.beat with seen := s.beat.seen.or (statusOf x.cell)
                                                     cells := s.beat.cells ++ [(fld x.cell.arg 4 5, x.port.val)] } } := by
  have hpeer : (s.countFec x).peerOf x.port = s.peerOf x.port := by
    unfold State.peerOf
    rw [s.rd_countFec_ne x (by unfold rTetherPortCfg rTetherPortFecCe; omega) (by unfold rTetherPortCfg rTetherPortFecUe; omega)]
  have hchip : (s.countFec x).chipId = s.chipId := by
    unfold State.chipId
    rw [s.rd_countFec_ne x (by unfold rTetherChip rTetherPortFecCe; omega) (by unfold rTetherChip rTetherPortFecUe; omega)]
  have hno : ¬((!cellDecodes x) = true ∨ x.cell.cls ≠ 5 ∨ x.cell.src ≠ (s.countFec x).peerOf x.port
      ∨ x.cell.dst ≠ (s.countFec x).chipId) := by
    rw [hpeer, hchip, hdec]
    rintro (h | h | h | h)
    · exact absurd h (by decide)
    · exact h hcls
    · exact h hsrc
    · exact h hdst
  have hbeat : (s.countFec x).beat = s.beat := Only.countFec s x .beat (by decide)
  have htake : s.takeStatus x = if fld x.cell.arg 10 12 ≠ (s.countFec x).beat.bno.toNat % 4096 then (s.countFec x).roundLost x.port.val
      else { s.countFec x with beat := { (s.countFec x).beat with
        seen := (s.countFec x).beat.seen.or (statusOf x.cell)
        cells := (s.countFec x).beat.cells ++ [(fld x.cell.arg 4 5, x.port.val)] } } := if_neg hno
  rw [hbeat] at htake
  exact htake

/-! ### The start of a flight (10 R303; 11 R327, R330) -/

theorem Only.dgRecord (s : State) (r : DgRec) : Only [.regs, .dg] s (s.dgRecord r) := by
  unfold State.dgRecord
  extract_lets head s1
  exact .ite ((Only.bump s _ (by decide)).trans (.setBit _ _ _ (by decide))) ((Only.dg s _ (by decide)).trans (.wr _ _ _ (by decide)))

theorem Only.dgBoundary (s : State) (failed : Bool) : Only [.regs, .dg] s (s.dgBoundary failed) := by
  unfold State.dgBoundary
  extract_lets cur old sorted info recs s1
  have h1 : Only [.regs, .dg] s s1 := .ite (Only.foldl _ _ s fun t r => Only.dgRecord t r) (.refl _ _)
  exact h1.trans (.dg _ _ (by decide))

/-- A port of a flight that starts: it carries the beat, or the device is in the flight-fault condition (10 R303, R304). -/
def State.openPort (u : State) (p : Fin 8) : State :=
  if (u.port p).lost then (u.updPort p fun x => { x with st := if x.st = 3 then 4 else x.st, joined := true }).enterCond 1 p.val
  else u.updPort p fun x => { x with st := if x.st = 3 then 4 else x.st, joined := true }

/-- What opening the ports of a flight leaves: all of the beat but its conditions, the join, the time base. -/
def Opened (s t : State) : Prop :=
  (∃ cond acc, t.beat = { s.beat with cond := cond, acc := acc }) ∧ t.tether.join = s.tether.join ∧ t.tb = s.tb

theorem opened_openPorts (l : List (Fin 8)) (s : State) : Opened s (l.foldl State.openPort s) := by
  induction l generalizing s with
  | nil => exact ⟨⟨_, _, rfl⟩, rfl, rfl⟩
  | cons p l ih =>
    have h1 : Opened s (s.openPort p) := by
      unfold State.openPort
      split
      · exact ⟨⟨_, _, rfl⟩, rfl, rfl⟩
      · exact ⟨⟨_, _, rfl⟩, rfl, rfl⟩
    obtain ⟨⟨c1, a1, hb1⟩, hj1, ht1⟩ := h1
    obtain ⟨⟨c2, a2, hb2⟩, hj2, ht2⟩ := ih (s.openPort p)
    exact ⟨⟨c2, a2, by rw [List.foldl_cons, hb2, hb1]⟩, hj2.trans hj1, ht2.trans ht1⟩

/-- The state in which the first beat of a flight starts, before its period opens. -/
def State.flightOpened (s : State) (t : DWord) : State :=
  let s1 := s.toTc t
  let s2 := State.dgBoundary { s1 with beat := { s1.beat with period := BitVec.ofNat 64 (2 ^ 64 - 1) } } true
  let s3 := { s2 with
    dg := { s2.dg with past := [] }
    tb := { s2.tb with stretch := Vector.replicate 16 0 }
    beat := { Beat.reset with joined := true, kind := 1, bno := s2.tether.join.first, startTc := t,
                              lastCommit := s2.beat.lastCommit, skipSet := s2.beat.skipSet } }
  let s4 := s3.portsEn.foldl State.openPort (s3.updJoin fun j => { j with step := 6 })
  { s4 with flags := { s4.flags with recorded := s4.flags.value } }

theorem State.startFlight_eq (s : State) (t : DWord) : s.startFlight t = (s.flightOpened t).clearPeriod.openPeriod := rfl

theorem State.flightOpened_frame (s : State) (t : DWord) :
    (s.flightOpened t).beat.joined = true ∧ (s.flightOpened t).beat.kind = 1 ∧ (s.flightOpened t).beat.bno = s.tether.join.first
      ∧ (s.flightOpened t).beat.startTc = t ∧ (s.flightOpened t).beat.period = 0 ∧ (s.flightOpened t).beat.replays = 0
      ∧ (s.flightOpened t).tether.join = { s.tether.join with step := 6 }
      ∧ (s.flightOpened t).tb.stretch = Vector.replicate 16 0 := by
  unfold State.flightOpened
  extract_lets s1 b1 s2 d2 tb2 b2 s3 s4
  have h2 : s2.tether = s.tether :=
    Eq.trans (Only.dgBoundary { s1 with beat := { s1.beat with period := BitVec.ofNat 64 (2 ^ 64 - 1) } } true .tether (by decide))
      (Only.toTc (ch := [.tb]) s t (by decide) .tether (by decide))
  obtain ⟨⟨cond, acc, hbeat⟩, hjoin, htb⟩ : Opened (s3.updJoin fun j => { j with step := 6 }) s4 := opened_openPorts s3.portsEn _
  have hj : s4.tether.join = { s.tether.join with step := 6 } := hjoin.trans (congrArg (fun y : Tether => { y.join with step := 6 }) h2)
  have hfirst : s4.beat.bno = s.tether.join.first := (congrArg Beat.bno hbeat).trans (congrArg (fun y : Tether => y.join.first) h2)
  refine ⟨?_, ?_, hfirst, ?_, ?_, ?_, hj, congrArg TimeBase.stretch htb⟩
  · exact congrArg Beat.joined hbeat
  · exact congrArg Beat.kind hbeat
  · exact congrArg Beat.startTc hbeat
  · exact congrArg Beat.period hbeat
  · exact congrArg Beat.replays hbeat

/-- Settles O43: each event meets its condition, and does what the lemmas on the cut, the rounds and the start of a flight say. -/
theorem beatEvents : Obligations.BeatEvents := by
  intro s t0 r x
  refine ⟨fun hstart hstep => ?_, fun hj hguard => ?_, fun hj hcut => ?_, fun hj hcut hguard hr hrounds hports => ?_,
    fun hj hjoined hen hst hdec hcls hsrc hdst => ?_, fun hj => ?_⟩
  · have hexec : exec .startTcReached s = .next (s.startFlight t0) := by
      show execStartTcReached s = _
      unfold execStartTcReached
      rw [hstart]
      exact congrArg Host.Outcome.next (if_pos hstep)
    obtain ⟨h1, h2, h3, h4, h5, h6, h7, h8⟩ := s.flightOpened_frame t0
    exact .of_eq hexec ⟨s.flightOpened t0, s.startFlight_eq t0, h1, h2, h3, h4, h5, h6, h7, h8⟩
  · have hexec : exec .guardBandStart s = .next s.guardStart :=
      congrArg Host.Outcome.next (if_pos ⟨hj, by rw [hguard]; rfl⟩)
    exact .of_eq hexec s.guardStart_frame
  · have hexec : exec .statusCut s = .next s.toCut := congrArg Host.Outcome.next (if_pos ⟨hj, by rw [hcut]; rfl⟩)
    exact .of_eq hexec ⟨rfl, s.toCut_frame.1, s.toCut_frame.2⟩
  · have hexec : exec (.statusRoundSend r) s = .next (s.sendRound r) := by
      rw [← congrArg (State.sendRound · r) (State.toCut_of_cut hcut hguard)]
      exact congrArg Host.Outcome.next (if_pos ⟨hj, hr, hrounds⟩)
    exact .of_eq hexec (State.sendRound_frame r hports)
  · have hexec : exec (.statusCell x) s = .next (s.takeStatus x) := congrArg Host.Outcome.next (if_pos ⟨hj, hjoined, hen, hst⟩)
    rw [State.takeStatus_taken hdec hcls hsrc hdst] at hexec
    refine ⟨fun hbno => ?_, fun hbno => ?_⟩
    · rw [if_neg (not_not.mpr hbno)] at hexec
      exact .of_eq hexec ⟨rfl, ((Only.countFec s x).mono (by decide)).trans (.beat _ _ (by decide))⟩
    · rw [if_pos hbno] at hexec
      obtain ⟨hcond, hbit⟩ := (s.countFec x).roundLost_frame x.port.val
      rw [Only.countFec s x .beat (by decide)] at hcond
      exact .of_eq hexec ⟨hcond, hbit⟩
  · exact .of_eq (congrArg Host.Outcome.next (if_pos hj)) rfl

end Sys2Proof.Machine

/-! The books of pages, and what the operations of a boundary move in them (01 R34; 13 R356; 14 R388, R401 to R407). -/

namespace Sys2Proof.Machine

open Sys2Proof

/-! ### References and pins of a page -/

/-- The references and pins of a page that is not FREE. -/
def PgPart.counts (q : PgPart) (id : Nat) : Option (Nat × Nat) := (q.page id).map fun y => (y.refs, y.pins)

theorem PgPart.page_setPage (q : PgPart) (id x : Nat) (y : Option Page) : (q.setPage id y).page x = if x = id then y else q.page x :=
  Laws.get_set _ _ _ _ _

theorem PgPart.page_updPage (q : PgPart) (id x : Nat) (f : Page → Page) :
    (q.updPage id f).page x = if x = id then (q.page id).map f else q.page x := by
  unfold PgPart.updPage
  split
  next y hy => rw [q.page_setPage, hy, Option.map_some]
  next hy =>
    split
    next h => rw [h, hy, Option.map_none]
    next => rfl

theorem PgPart.lists_updPage (q : PgPart) (id : Nat) (f : Page → Page) : (q.updPage id f).lists = q.lists := by
  unfold PgPart.updPage
  split <;> rfl

theorem PgPart.counts_updPage (q : PgPart) (id x : Nat) {f : Page → Page} {g : Nat × Nat → Nat × Nat}
    (h : ∀ y, ((f y).refs, (f y).pins) = g (y.refs, y.pins)) :
    (q.updPage id f).counts x = if x = id then (q.counts id).map g else q.counts x := by
  unfold PgPart.counts
  rw [PgPart.page_updPage]
  split
  · rw [Option.map_map, Option.map_map]
    exact congrArg (fun k => (q.page id).map k) (funext h)
  · rfl

theorem PgPart.counts_settle (q : PgPart) (id x : Nat) : (q.settle id).counts x = q.counts x := by
  unfold PgPart.settle
  rw [PgPart.counts_updPage (g := fun c => c) q id x fun y => by split <;> rfl]
  split
  next h => rw [h, Option.map_id']
  next => rfl

theorem PgPart.lists_settle (q : PgPart) (id : Nat) : (q.settle id).lists = q.lists := q.lists_updPage id _

/-- Steps that each move the counts of the page they name, one after the other. -/
theorem PgPart.counts_foldl {step : PgPart → Nat → PgPart} {g : Nat × Nat → Nat × Nat}
    (h : ∀ b id x, (step b id).counts x = if x = id then (b.counts id).map g else b.counts x) (l : List Nat) (q : PgPart) (x : Nat) :
    (l.foldl step q).counts x = (q.counts x).map g^[l.count x] := by
  induction l generalizing q with
  | nil => exact Option.map_id'.symm
  | cons id l ih =>
    rw [List.foldl_cons, ih, h]
    by_cases hx : x = id
    · subst hx
      rw [if_pos rfl, List.count_cons_self, Option.map_map]
      rfl
    · rw [if_neg hx, List.count_cons_of_ne (Ne.symm hx)]

theorem PgPart.lists_foldl {step : PgPart → Nat → PgPart} (h : ∀ b id, (step b id).lists = b.lists) (l : List Nat) (q : PgPart) :
    (l.foldl step q).lists = q.lists := by
  induction l generalizing q with
  | nil => rfl
  | cons id l ih => exact (ih _).trans (h q id)

/-- What the counts of a page after a change say of the page. -/
theorem PgPart.page_of_counts {q q' : PgPart} {id : Nat} {y : Page} {g : Nat × Nat → Nat × Nat} (hy : q.page id = some y)
    (h : q'.counts id = (q.counts id).map g) : ∃ z, q'.page id = some z ∧ (z.refs, z.pins) = g (y.refs, y.pins) := by
  have hq : (q'.page id).map (fun y => (y.refs, y.pins)) = some (g (y.refs, y.pins)) := by
    rw [PgPart.counts, PgPart.counts, hy] at h
    exact h
  obtain ⟨z, hz, hc⟩ := Option.map_eq_some_iff.mp hq
  exact ⟨z, hz, hc⟩

theorem iterate_refs_drop (n r p : Nat) : (fun c : Nat × Nat => (c.1 - 1, c.2))^[n] (r, p) = (r - n, p) := by
  induction n generalizing r with
  | zero => rfl
  | succ n ih => rw [Function.iterate_succ_apply, ih, Nat.sub_sub, Nat.add_comm]

theorem iterate_refs_add (n r p : Nat) : (fun c : Nat × Nat => (c.1 + 1, c.2))^[n] (r, p) = (r + n, p) := by
  induction n generalizing r with
  | zero => rfl
  | succ n ih => rw [Function.iterate_succ_apply, ih, Nat.add_assoc, Nat.add_comm 1 n]

theorem iterate_pins_drop (n r p : Nat) : (fun c : Nat × Nat => (c.1, c.2 - 1))^[n] (r, p) = (r, p - n) := by
  induction n generalizing p with
  | zero => rfl
  | succ n ih => rw [Function.iterate_succ_apply, ih, Nat.sub_sub, Nat.add_comm]

theorem iterate_pins_add (n r p : Nat) : (fun c : Nat × Nat => (c.1, c.2 + 1))^[n] (r, p) = (r, p + n) := by
  induction n generalizing p with
  | zero => rfl
  | succ n ih => rw [Function.iterate_succ_apply, ih, Nat.add_assoc, Nat.add_comm 1 n]

/-- The references of a list dropped (14 R405). -/
theorem PgPart.page_dropRefs {q : PgPart} {id : Nat} {y : Page} (l : List Nat) (hy : q.page id = some y) :
    ∃ z, (q.dropRefs l).page id = some z ∧ z.refs = y.refs - l.count id := by
  obtain ⟨z, hz, hc⟩ := PgPart.page_of_counts hy (PgPart.counts_foldl (g := fun c => (c.1 - 1, c.2))
    (step := fun (b : PgPart) id => (b.updPage id fun x => { x with refs := x.refs - 1 }).settle id)
    (fun b i x => (PgPart.counts_settle _ i x).trans (b.counts_updPage i x fun _ => rfl)) l q id)
  rw [iterate_refs_drop] at hc
  exact ⟨z, hz, (Prod.mk.inj hc).1⟩

theorem PgPart.lists_dropRefs (q : PgPart) (l : List Nat) : (q.dropRefs l).lists = q.lists :=
  PgPart.lists_foldl (fun b i => (PgPart.lists_settle _ i).trans (b.lists_updPage i _)) l q

/-- The references of a list taken (14 R402). -/
def PgPart.addRefs (q : PgPart) (l : List Nat) : PgPart := l.foldl (fun (u : PgPart) id => u.updPage id fun y => { y with refs := y.refs + 1 }) q

theorem PgPart.page_addRefs {q : PgPart} {id : Nat} {y : Page} (l : List Nat) (hy : q.page id = some y) :
    ∃ z, (q.addRefs l).page id = some z ∧ z.refs = y.refs + l.count id := by
  obtain ⟨z, hz, hc⟩ := PgPart.page_of_counts hy (PgPart.counts_foldl (g := fun c => (c.1 + 1, c.2))
    (step := fun (u : PgPart) id => u.updPage id fun y => { y with refs := y.refs + 1 }) (fun b i x => b.counts_updPage i x fun _ => rfl) l q id)
  rw [iterate_refs_add] at hc
  exact ⟨z, hz, (Prod.mk.inj hc).1⟩

theorem PgPart.lists_addRefs (q : PgPart) (l : List Nat) : (q.addRefs l).lists = q.lists :=
  PgPart.lists_foldl (fun b i => b.lists_updPage i _) l q

/-- Pins taken, and released again (14 R403). -/
theorem PgPart.page_pin {q : PgPart} {id : Nat} {y : Page} (ids : List Nat) (bno : Nat) (hy : q.page id = some y) :
    ∃ z, (q.pin ids bno).page id = some z ∧ z.pins = y.pins + ids.count id ∧ z.refs = y.refs := by
  obtain ⟨z, hz, hc⟩ := PgPart.page_of_counts hy (PgPart.counts_foldl (g := fun c => (c.1, c.2 + 1))
    (step := fun (b : PgPart) id => b.updPage id fun x => { x with pins := x.pins + 1, lastUse := bno })
    (fun b i x => b.counts_updPage i x fun _ => rfl) ids q id)
  rw [iterate_pins_add] at hc
  exact ⟨z, hz, (Prod.mk.inj hc).2, (Prod.mk.inj hc).1⟩

theorem PgPart.page_unpin {q : PgPart} {id : Nat} {y : Page} (ids : List Nat) (hy : q.page id = some y) :
    ∃ z, (q.unpin ids).page id = some z ∧ z.pins = y.pins - ids.count id ∧ z.refs = y.refs := by
  obtain ⟨z, hz, hc⟩ := PgPart.page_of_counts hy (PgPart.counts_foldl (g := fun c => (c.1, c.2 - 1))
    (step := fun (b : PgPart) id => (b.updPage id fun x => { x with pins := x.pins - 1 }).settle id)
    (fun b i x => (PgPart.counts_settle _ i x).trans (b.counts_updPage i x fun _ => rfl)) ids q id)
  rw [iterate_pins_drop] at hc
  exact ⟨z, hz, (Prod.mk.inj hc).2, (Prod.mk.inj hc).1⟩

/-! ### Lists and their blocks (14 R389) -/

theorem PgPart.list_setList (q : PgPart) (e x : Nat) (l : List Nat) : (q.setList e l).list x = if x = e then l else q.list x :=
  Laws.get_set _ _ _ _ _

/-- Giving the lists their blocks leaves pages and lists. -/
theorem PgPart.fit_frame (q : PgPart) (blocks : List Nat) : (q.fit blocks).pages = q.pages ∧ (q.fit blocks).lists = q.lists := by
  unfold PgPart.fit
  generalize q.chains.map (·.1) ++ q.lists.map (·.1) = l
  induction l generalizing q with
  | nil => exact ⟨rfl, rfl⟩
  | cons e l ih => exact ih (q.fitOne blocks e)

theorem State.pgOf_setLists (s : State) (p : Nat) (q : PgPart) : (s.setLists p q).pgOf p = q.fit (s.pgBlocks p) := by
  unfold State.setLists
  rw [State.pgOf_setPg]
  exact if_pos rfl

theorem PgPart.list_of_lists {q q' : PgPart} (h : q'.lists = q.lists) (e : Nat) : q'.list e = q.list e := by
  unfold PgPart.list
  rw [h]

theorem PgPart.page_of_pages {q q' : PgPart} (h : q'.pages = q.pages) (id : Nat) : q'.page id = q.page id := by
  unfold PgPart.page
  rw [h]

theorem State.pgOf_of_pg {s t : State} (h : t.pg = s.pg) (p : Nat) : t.pgOf p = s.pgOf p := by
  unfold State.pgOf
  rw [h]

theorem State.ent_of_rt {s t : State} (h : t.rt = s.rt) (x : Nat) : t.ent x = s.ent x := by
  unfold State.ent
  rw [h]

theorem State.booksPart_of_pg {s t : State} (h : t.pg = s.pg) (g : Nat) : t.booksPart g = s.booksPart g := by
  unfold State.booksPart
  simp only [State.pgOf_of_pg h]

theorem noTx_rRtGroupCtl {n : Nat} (hn : n < 16) : NoTx (rRtGroupCtl n) := noTx_of_lt (by unfold rRtGroupCtl rIoEpTx; omega)

/-! ### An entry freed (13 R362; 14 R405) -/

/-- The fetches of an entry refused. -/
def State.refuseFetches (s : State) (e code : Nat) : State :=
  (s.rt.fetches.filter fun f => decide (f.ent = e)).foldl (fun t f => t.complete f.sess f.tag 5 1 code e 0) s

/-- An entry FREE, its books not yet returned. -/
def State.entFreed (s : State) (e code : Nat) : State :=
  let s1 := ((s.refuseFetches e code).setEnt e Ent.reset).forgetEnd e true
  { s1 with rt := { s1.rt with drafts := s1.rt.drafts.filter (fun d => decide (d.ent ≠ e))
                               fetches := s1.rt.fetches.filter (fun f => decide (f.ent ≠ e)) } }

/-- The books of an entry that is freed: its references drop, DROP waits. -/
def PgPart.freed (q : PgPart) (e : Nat) : PgPart :=
  let q1 := (q.dropRefs (q.list e)).setList e []
  { q1 with groupOps := q1.groupOps ++ [(12, e)] }

theorem State.freeEnt_eq (s : State) (n e code : Nat) :
    s.freeEnt n e code = match (s.entFreed e code).booksPart ((s.entFreed e code).gId n) with
      | none => s.entFreed e code
      | some p => (s.entFreed e code).setLists p (((s.entFreed e code).pgOf p).freed e) := rfl

theorem Only.refuseFetches (s : State) (e code : Nat) : Only [.regs, .out, .sess, .neigh] s (s.refuseFetches e code) :=
  Only.foldl _ _ s fun t f => Only.completed t f.sess f.tag 5 1 code e 0

theorem State.rd_refuseFetches (s : State) (e code : Nat) {a : Nat} (h : NoTx a) : (s.refuseFetches e code).rd a = s.rd a :=
  State.rd_foldl _ _ s fun t f => State.rd_complete t f.sess f.tag 5 1 code e 0 h

theorem State.ent_entFreed (s : State) (e code x : Nat) : (s.entFreed e code).ent x = if x = e then Ent.reset else s.ent x := by
  have h : (s.entFreed e code).ent x = ((s.refuseFetches e code).setEnt e Ent.reset).ent x := rfl
  rw [h, State.ent_setEnt, State.ent_of_rt (Only.refuseFetches s e code .rt (by decide))]

theorem State.pg_entFreed (s : State) (e code : Nat) : (s.entFreed e code).pg = s.pg :=
  show (s.refuseFetches e code).pg = s.pg from Only.refuseFetches s e code .pg (by decide)

theorem State.gId_entFreed (s : State) (e code : Nat) {n : Nat} (hn : n < 16) : (s.entFreed e code).gId n = s.gId n :=
  congrArg (fld · 1 11) (s.rd_refuseFetches e code (noTx_rRtGroupCtl hn))

theorem State.ent_freeEnt (s : State) (n e code x : Nat) : (s.freeEnt n e code).ent x = if x = e then Ent.reset else s.ent x := by
  rw [← s.ent_entFreed e code x, State.freeEnt_eq]
  split <;> rfl

theorem PgPart.freed_frame (q : PgPart) (e : Nat) : (q.freed e).list e = [] ∧ (∀ x, x ≠ e → (q.freed e).list x = q.list x)
    ∧ ∀ id y, q.page id = some y → ∃ z, (q.freed e).page id = some z ∧ z.refs = y.refs - (q.list e).count id := by
  have hlist (x : Nat) : (q.freed e).list x = if x = e then [] else q.list x := by
    have h : (q.freed e).list x = ((q.dropRefs (q.list e)).setList e []).list x := rfl
    rw [h, PgPart.list_setList, PgPart.list_of_lists (q.lists_dropRefs _)]
  exact ⟨(hlist e).trans (if_pos rfl), fun x hx => (hlist x).trans (if_neg hx), fun id y hy => PgPart.page_dropRefs (q.list e) hy⟩

theorem State.books_freeEnt {s : State} {n p : Nat} (hn : n < 16) (e code : Nat) (hp : s.booksPart (s.gId n) = some p) :
    let u := (s.freeEnt n e code).pgOf p
    u.list e = [] ∧ (∀ x, x ≠ e → u.list x = (s.pgOf p).list x)
      ∧ ∀ id y, (s.pgOf p).page id = some y → ∃ z, u.page id = some z ∧ z.refs = y.refs - ((s.pgOf p).list e).count id := by
  intro u
  have hbooks : (s.entFreed e code).booksPart ((s.entFreed e code).gId n) = some p := by
    rw [State.gId_entFreed s e code hn, State.booksPart_of_pg (s.pg_entFreed e code), hp]
  have hfree : s.freeEnt n e code = (s.entFreed e code).setLists p (((s.entFreed e code).pgOf p).freed e) := by
    rw [State.freeEnt_eq, hbooks]
  have hu : u = ((s.pgOf p).freed e).fit ((s.entFreed e code).pgBlocks p) := by
    rw [← State.pgOf_of_pg (s.pg_entFreed e code) p, ← State.pgOf_setLists, ← hfree]
  obtain ⟨hpages, hlists⟩ := ((s.pgOf p).freed e).fit_frame ((s.entFreed e code).pgBlocks p)
  obtain ⟨h1, h2, h3⟩ := (s.pgOf p).freed_frame e
  rw [hu]
  simp only [PgPart.list_of_lists hlists, PgPart.page_of_pages hpages]
  exact ⟨h1, h2, h3⟩

/-! ### A submission taken (13 R359; 14 R397, R402) -/

/-- The pages a submission names. -/
def namedPages (b : SubmitBody) : List Nat := (b.words.take b.npages).map fun i => fld i 0 20

/-- The entry a submission takes. -/
def State.submitEnt (s : State) (n : Nat) (r : RingCmd) (b : SubmitBody) (e : Nat) : Ent :=
  let slab := match s.booksPart (s.gId n) with
    | some p => if bit (s.rd (rPgPartSlab p)) 0 then some (e - fld (s.rd (rRtGroupEnt n)) 0 14) else none
    | none => none
  { Ent.reset with
    prio := b.prio % 8, nowait := b.nowait, keep := b.keep, topkEn := b.topkEn, spec := b.spec, client := b.client,
    qseq := (s.nextQseq n).1, length := b.prefixLen + (b.words.drop b.npages).length, done := b.prefixLen, maxNew := b.maxNew % 2 ^ 24,
    slab := slab, deadline := b.deadline, seed := b.seed, key := b.key, temp := b.temp, topP := b.topP, topK := b.topK,
    bidir := b.bidir, noattend := b.noattend, supplied := b.prefixLen + (b.words.drop b.npages).length, sess := some r.sess,
    tag := r.c.tag, staging := r.slots, staged := positions b.prefixLen (r.addrs.drop b.npages), fresh := true, slabNew := slab.isSome }

/-- The state with the entry put in. -/
def State.entTaken (s : State) (n : Nat) (r : RingCmd) (b : SubmitBody) (e : Nat) : State :=
  (s.nextQseq n).2.setEnt e (s.submitEnt n r b e)

/-- The state with the books of the entry taken. -/
def State.booksTaken (s : State) (n : Nat) (r : RingCmd) (b : SubmitBody) (e : Nat) : State :=
  match (s.entTaken n r b e).booksPart ((s.entTaken n r b e).gId n) with
  | some p => (s.entTaken n r b e).setLists p ((((s.entTaken n r b e).pgOf p).addRefs (namedPages b)).setList e (namedPages b))
  | none => s.entTaken n r b e

theorem State.takeSubmit_eq {s : State} {n e : Nat} (r : RingCmd) (b : SubmitBody)
    (he : (s.groupEnts n).find? (fun i => decide ((s.ent i).st = .free)) = some e) :
    s.takeSubmit n r b = ((s.booksTaken n r b e).queueOrReel n e).complete r.sess r.c.tag 1 0 0 e (s.nextQseq n).1 := by
  unfold State.takeSubmit
  rw [he]
  rfl

theorem Only.nextQseq (s : State) (n : Nat) : Only [.rt] s (s.nextQseq n).2 := by
  unfold State.nextQseq
  split
  · exact Only.rt s _ (by decide)
  · exact .refl _ _

theorem State.ent_nextQseq (s : State) (n x : Nat) : (s.nextQseq n).2.ent x = s.ent x := by
  unfold State.nextQseq
  split <;> rfl

theorem Only.entTaken (s : State) (n : Nat) (r : RingCmd) (b : SubmitBody) (e : Nat) : Only [.rt] s (s.entTaken n r b e) :=
  (Only.nextQseq s n).trans (.rt _ _ (by decide))

theorem State.ent_booksTaken (s : State) (n : Nat) (r : RingCmd) (b : SubmitBody) (e x : Nat) :
    (s.booksTaken n r b e).ent x = if x = e then s.submitEnt n r b e else s.ent x := by
  have h : (s.booksTaken n r b e).ent x = (s.entTaken n r b e).ent x := by
    unfold State.booksTaken
    split <;> rfl
  rw [h, State.entTaken, State.ent_setEnt, State.ent_nextQseq]

theorem State.queueOrReel_frame (s : State) (n e : Nat) : (∀ x, x ≠ e → (s.queueOrReel n e).ent x = s.ent x)
    ∧ (∃ st, (st = .queued ∨ st = .reeling) ∧ (s.queueOrReel n e).ent e = { s.ent e with st := st }) ∧ (s.queueOrReel n e).pg = s.pg := by
  unfold State.queueOrReel State.updEnt
  extract_lets ok
  refine ⟨fun x hx => ?_, ⟨if ok = true then .queued else .reeling, ?_, ?_⟩, rfl⟩
  · rw [State.ent_setEnt, if_neg hx]
  · cases ok
    · exact .inr rfl
    · exact .inl rfl
  · rw [State.ent_setEnt, if_pos rfl]

theorem State.books_takeSubmit {s : State} {n p e : Nat} (r : RingCmd) (b : SubmitBody) (hp : s.booksPart (s.gId n) = some p) :
    ((s.booksTaken n r b e).pgOf p).list e = (namedPages b)
      ∧ (∀ x, x ≠ e → ((s.booksTaken n r b e).pgOf p).list x = (s.pgOf p).list x)
      ∧ ∀ id y, (s.pgOf p).page id = some y →
          ∃ z, ((s.booksTaken n r b e).pgOf p).page id = some z ∧ z.refs = y.refs + (namedPages b).count id := by
  have honly := Only.entTaken s n r b e
  have hpg : (s.entTaken n r b e).pg = s.pg := honly .pg (by decide)
  have hbooks : (s.entTaken n r b e).booksPart ((s.entTaken n r b e).gId n) = some p := by
    unfold State.gId
    rw [honly .regs (by decide), State.booksPart_of_pg hpg]
    exact hp
  have ht : s.booksTaken n r b e = (s.entTaken n r b e).setLists p (((s.pgOf p).addRefs (namedPages b)).setList e (namedPages b)) := by
    unfold State.booksTaken
    rw [hbooks, ← State.pgOf_of_pg hpg p]
  rw [ht, State.pgOf_setLists]
  obtain ⟨hpages, hlists⟩ := (((s.pgOf p).addRefs (namedPages b)).setList e (namedPages b)).fit_frame ((s.entTaken n r b e).pgBlocks p)
  simp only [PgPart.list_of_lists hlists, PgPart.page_of_pages hpages, PgPart.list_setList]
  exact ⟨if_pos trivial, fun x hx => (if_neg hx).trans (PgPart.list_of_lists ((s.pgOf p).lists_addRefs _) x),
    fun id y hy => PgPart.page_addRefs (namedPages b) hy⟩

/-! ### A page allocated, and copied on write (14 R401, R404) -/

theorem lowestNot_some {limit n : Nat} {used : List Nat} (h : lowestNot limit used = some n) : n < limit ∧ n ∉ used := by
  have hp := List.find?_some h
  refine ⟨List.mem_range.mp (List.mem_of_find?_eq_some h), fun hmem => ?_⟩
  rw [List.contains_iff_mem.mpr hmem] at hp
  exact absurd hp (by decide)

theorem get_of_not_key {α : Type} (d : Nat → α) {m : List (Nat × α)} {k : Nat} (h : k ∉ m.map (·.1)) : Sparse.get d m k = d k := by
  induction m with
  | nil => rfl
  | cons p r ih =>
    rw [List.map_cons, List.mem_cons, not_or] at h
    unfold Sparse.get
    rw [if_neg (Ne.symm h.1), ih h.2]

theorem length_insert {α : Type} (m : List (Nat × α)) (k : Nat) (v : α) : (Sparse.insert m k v).length = m.length + 1 := by
  induction m with
  | nil => rfl
  | cons p r ih =>
    unfold Sparse.insert
    split
    · rfl
    · rw [List.length_cons, ih, List.length_cons]

theorem length_set_new {α : Type} [DecidableEq α] {d : Nat → α} {m : List (Nat × α)} {k : Nat} {v : α} (h : k ∉ m.map (·.1)) (hv : v ≠ d k) :
    (Sparse.set d m k v).length = m.length + 1 := by
  have herase : Sparse.erase m k = m := List.filter_eq_self.mpr fun p hp => decide_eq_true fun hk => h (List.mem_map.mpr ⟨p, hp, hk⟩)
  unfold Sparse.set
  rw [if_neg hv, herase, length_insert]

theorem PgPart.alloc_frame {q q1 : PgPart} {pool frames bno id : Nat} (h : q.alloc pool frames bno = some (id, q1)) :
    id < pool ∧ q.page id = none ∧ q1.pages.length = q.pages.length + 1 ∧ (∀ x, x ≠ id → q1.page x = q.page x) ∧ q1.lists = q.lists
      ∧ ∃ f, f < frames ∧ f ∉ q.held ∧ q1.page id = some (Page.fresh (some f) bno) := by
  unfold PgPart.alloc at h
  split at h
  next i f hi hf =>
    obtain ⟨rfl, rfl⟩ := Prod.mk.inj (Option.some.inj h)
    obtain ⟨hlt, hnew⟩ := lowestNot_some hi
    obtain ⟨hflt, hfnew⟩ := lowestNot_some hf
    refine ⟨hlt, get_of_not_key _ hnew, length_set_new (d := fun _ => none) hnew (Option.some_ne_none _), fun x hx => ?_, rfl, f, hflt, hfnew, ?_⟩
    · rw [q.page_setPage, if_neg hx]
    · rw [q.page_setPage, if_pos rfl]
  next => exact absurd h (Option.some_ne_none _).symm

/-- What a read or a write of a unit from its endpoint may touch. -/
def accessGroups : List Grp := .drift :: .stalled :: unitGroups

theorem Only.unitRead (s : State) (unit p c a n : Nat) : Only accessGroups s (s.unitRead unit p c a n).2.2 := by
  unfold State.unitRead
  split
  next x hx => exact (Only.unitRefused s _ _ _ x).mono (by decide)
  next hx => exact ((Only.checkRows s _ _).mono (by decide)).trans (.free _ _ (by decide))

theorem Only.pgRead (s : State) (p c a n : Nat) : Only accessGroups s (s.pgRead p c a n).2.2 := by
  unfold State.pgRead
  extract_lets r
  have h : Only accessGroups s r.2.2 := (Only.atEndpoint s _ _ (by decide) (by decide) (by decide)).trans (.unitRead _ _ _ _ _ _)
  exact .ite h (h.trans (.setBit _ _ _ (by decide)))

theorem Only.unitWrite (s : State) (src p c a : Nat) (bs : List Byte) (poison : List Nat) : Only accessGroups s (s.unitWrite src p c a bs poison) := by
  unfold State.unitWrite
  exact .ite (.stalled _ _ (by decide)) ((Only.atEndpoint s _ _ (by decide) (by decide) (by decide)).trans ((Only.unitPut _ _ _ _ _ _ _).mono (by decide)))

theorem Only.copyBlock (s : State) (p src dst : Nat) : Only accessGroups s (s.copyBlock p src dst) := by
  unfold State.copyBlock
  exact (Only.pgRead s p _ _ _).trans (.unitWrite _ _ _ _ _ _ _)

section
variable {q q1 : PgPart} {pool frames bno id old : Nat} {y : Page}

/-- The books after a copy on write: the entry's list takes the copy, the counts move (14 R404). -/
def PgPart.copied (q q1 : PgPart) (e j old id : Nat) : PgPart :=
  (q1.updPage old fun x => { x with refs := x.refs - 1 }).setList e ((q.list e).set j id)

theorem PgPart.copied_frame (ha : q.alloc pool frames bno = some (id, q1)) (hy : q.page old = some y) (e j : Nat) :
    (q.copied q1 e j old id).list e = (q.list e).set j id ∧ (∀ x, x ≠ e → (q.copied q1 e j old id).list x = q.list x)
      ∧ ((q.copied q1 e j old id).page id).map (·.refs) = some 1
      ∧ ((q.copied q1 e j old id).page old).map (·.refs) = some (y.refs - 1)
      ∧ ∀ x, x ≠ id → x ≠ old → (q.copied q1 e j old id).page x = q.page x := by
  obtain ⟨-, hnone, -, hother, hlists, f, -, -, hnew⟩ := PgPart.alloc_frame ha
  have hne : id ≠ old := by
    rintro rfl
    exact absurd (hnone.symm.trans hy) (by simp)
  have hpage (x : Nat) : (q.copied q1 e j old id).page x = if x = old then (q1.page old).map fun x => { x with refs := x.refs - 1 } else q1.page x :=
    q1.page_updPage old x _
  unfold PgPart.copied
  simp only [PgPart.list_setList]
  refine ⟨if_pos trivial, fun x hx => (if_neg hx).trans (PgPart.list_of_lists ((q1.lists_updPage old _).trans hlists) x), ?_, ?_, fun x hid hold => ?_⟩
  · exact (congrArg (Option.map Page.refs) ((hpage id).trans (if_neg hne))).trans (by rw [hnew]; rfl)
  · exact (congrArg (Option.map Page.refs) ((hpage old).trans (if_pos rfl))).trans (by rw [hother old hne.symm, hy]; rfl)
  · exact ((hpage x).trans (if_neg hold)).trans (hother x hid)

end

theorem State.books_cowOne {s : State} {p e j old id : Nat} {q1 : PgPart} (slot : Nat) (apps : List Append)
    (hj : ((s.pgOf p).list e)[j]? = some old)
    (ha : (s.pgOf p).alloc (s.pgPool p) (s.pgFrames p) s.beat.bno.toNat = some (id, q1)) :
    (s.cowOne p e slot apps j).2 = apps ++ [⟨slot, BitVec.ofNat 32 (2 ^ 20 + id)⟩]
      ∧ (∀ x, ((s.cowOne p e slot apps j).1.pgOf p).list x = ((s.pgOf p).copied q1 e j old id).list x)
      ∧ ∀ x, ((s.cowOne p e slot apps j).1.pgOf p).page x = ((s.pgOf p).copied q1 e j old id).page x := by
  unfold State.cowOne
  dsimp only
  rw [hj, ha]
  dsimp only
  have hcopy (u : State) (src dst : Nat) (q2 : PgPart) : ((u.setPg p q2).copyBlock p src dst).pgOf p = q2 := by
    rw [State.pgOf_of_pg (Only.copyBlock _ p src dst .pg (by decide)), State.pgOf_setPg, if_pos rfl]
  rw [hcopy]
  exact ⟨by rw [opWord, Nat.one_mul], fun x => rfl, fun x => rfl⟩

theorem booksMove (s : State) (g : Fin 16) (e code p : Nat) (r : RingCmd) (b : SubmitBody) (slot j old : Nat) (apps : List Append)
    (ids : List Nat) : Sys2Proof.BooksMove s g e code p r b slot j old apps ids := by
  unfold Sys2Proof.BooksMove
  intro n q named
  refine ⟨fun x hx => (s.ent_freeEnt n e code x).trans (if_neg hx), (s.ent_freeEnt n e code e).trans (if_pos rfl),
    State.books_freeEnt g.isLt e code, fun he => ?_, fun pool frames bno id q1 ha => ?_, fun id q1 y hj hy ha => ?_, fun bno id y hy => ?_⟩
  · intro t
    have ht : t = ((s.booksTaken n r b e).queueOrReel n e).complete r.sess r.c.tag 1 0 0 e (s.nextQseq n).1 := State.takeSubmit_eq r b he
    obtain ⟨hother, ⟨st, hst, hent⟩, hpg⟩ := (s.booksTaken n r b e).queueOrReel_frame n e
    have hdone := Only.completed ((s.booksTaken n r b e).queueOrReel n e) r.sess r.c.tag 1 0 0 e (s.nextQseq n).1
    have hents (x : Nat) : t.ent x = ((s.booksTaken n r b e).queueOrReel n e).ent x := by
      rw [ht]
      exact State.ent_of_rt (hdone .rt (by decide)) x
    have hpgs : t.pgOf p = (s.booksTaken n r b e).pgOf p := by
      rw [ht]
      exact State.pgOf_of_pg (Eq.trans (hdone .pg (by decide)) hpg) p
    have hhere : t.ent e = { s.submitEnt n r b e with st := st } := by
      rw [hents, hent, State.ent_booksTaken, if_pos rfl]
    refine ⟨fun x hx => ?_, ?_, ?_, ?_, fun hp => ?_⟩
    · rw [hents, hother x hx, State.ent_booksTaken, if_neg hx]
    · rw [hhere]
      exact hst
    · rw [hhere]
      exact congrArg (b.prefixLen + ·) (List.length_drop)
    · rw [hhere]
      rfl
    · rw [hpgs]
      exact State.books_takeSubmit r b hp
  · obtain ⟨h1, h2, h3, h4, -, h5⟩ := PgPart.alloc_frame ha
    exact ⟨h1, h2, h3, h4, h5⟩
  · intro t
    obtain ⟨happs, hlist, hpage⟩ := State.books_cowOne (s := s) slot apps hj ha
    obtain ⟨h1, h2, h3, h4, h5⟩ := PgPart.copied_frame ha hy e j
    refine ⟨happs, (hlist e).trans h1, fun x hx => (hlist x).trans (h2 x hx), ?_, ?_, fun x hid hold => (hpage x).trans (h5 x hid hold)⟩
    · rw [hpage]
      exact h3
    · rw [hpage]
      exact h4
  · obtain ⟨z, hz, hpins, hrefs⟩ := PgPart.page_pin ids bno hy
    obtain ⟨w, hw, hpins', hrefs'⟩ := PgPart.page_unpin ids hz
    exact ⟨z, hz, hpins, hrefs, w, hw, by omega, hrefs'.trans hrefs⟩

end Sys2Proof.Machine

/-! What a boundary decides (01 R28, R35; 10 R297, R304; 11 R329, R330). -/

namespace Sys2Proof.Machine

open Sys2Proof

/-! ### The rounds that are lost (10 R296) -/

/-- One joined port at the boundary: a round of which no copy has come on it is lost. -/
def State.checkPort (t : State) (p : Fin 8) : State :=
  if (List.range t.rounds).all fun r => t.beat.cells.contains (r + 1, p.val) then t else t.roundLost p.val

theorem State.lostRounds_eq (s : State) : s.lostRounds = s.portsJoined.foldl State.checkPort s := rfl

theorem State.rounds_checkPort (t : State) (p : Fin 8) : (t.checkPort p).rounds = t.rounds := by
  unfold State.checkPort
  split
  · rfl
  · show fld ((t.setBit rTetherStatus 4).rd rTetherJoinCtl) 3 5 = _
    rw [State.rd_setBit_ne _ _ (by decide)]
    rfl

/-- Every round of the beat has come on the port. -/
def State.came (s : State) (p : Fin 8) : Prop := ∀ r, r < s.rounds → s.beat.cells.contains (r + 1, p.val) = true

theorem State.checkPort_came {t : State} {p : Fin 8} (h : t.came p) : t.checkPort p = t :=
  if_pos (List.all_eq_true.mpr fun r hr => h r (List.mem_range.mp hr))

theorem State.checkPort_lost {t : State} {p : Fin 8} (h : ¬t.came p) : t.checkPort p = t.roundLost p.val :=
  if_neg fun hall => h fun r hr => List.all_eq_true.mp hall r (List.mem_range.mpr hr)

theorem State.came_checkPort (t : State) (p q : Fin 8) : (t.checkPort p).came q ↔ t.came q := by
  have hcells : (t.checkPort p).beat.cells = t.beat.cells := by
    unfold State.checkPort
    split <;> rfl
  unfold State.came
  rw [State.rounds_checkPort, hcells]

/-- What the check of the ports does to the beat: conditions and what is gathered, nothing else; a condition that stands stays. -/
theorem State.checkPorts_beat (l : List (Fin 8)) (t : State) :
    (∃ cond acc, (l.foldl State.checkPort t).beat = { t.beat with cond := cond, acc := acc })
      ∧ ((∀ p ∈ l, t.came p) → l.foldl State.checkPort t = t)
      ∧ (∀ c, t.beat.cond = some c → (l.foldl State.checkPort t).beat.cond = some c)
      ∧ (t.beat.cond = none → (∃ p ∈ l, ¬t.came p) → ∃ p, (l.foldl State.checkPort t).beat.cond = some (3, p)) := by
  induction l generalizing t with
  | nil => exact ⟨⟨_, _, rfl⟩, fun _ => rfl, fun _ h => h, fun _ ⟨p, hp, _⟩ => absurd hp List.not_mem_nil⟩
  | cons p l ih =>
    obtain ⟨⟨cond, acc, hb⟩, hcame, hstands, hlost⟩ := ih (t.checkPort p)
    rw [List.foldl_cons]
    by_cases hp : t.came p
    · have ht := State.checkPort_came hp
      rw [ht] at hb hcame hstands hlost ⊢
      refine ⟨⟨cond, acc, hb⟩, fun h => hcame fun q hq => h q (List.mem_cons_of_mem _ hq), hstands, fun hnone ⟨q, hq, hno⟩ => ?_⟩
      obtain rfl | hql := List.mem_cons.mp hq
      · exact absurd hp hno
      · exact hlost hnone ⟨q, hql, hno⟩
    · rw [State.checkPort_lost hp] at hb hcame hstands hlost ⊢
      exact ⟨⟨cond, acc, hb⟩, fun h => absurd (h p List.mem_cons_self) hp,
        fun c hc => hstands c (congrArg (fun x : Option (Nat × Nat) => some (x.getD (3, p.val))) hc),
        fun hnone _ => ⟨p.val, hstands (3, p.val) (congrArg (fun x : Option (Nat × Nat) => some (x.getD (3, p.val))) hnone)⟩⟩

/-! ### The verdict (10 R297) -/

/-- The state on which a boundary decides. -/
def State.decided (s : State) : State :=
  let s1 := s.toCut.landFlags.abandonAll.lostRounds
  s1.toTc s1.nextBoundary

theorem State.decided_inBeat (s : State) : InBeat s s.decided :=
  State.toTc_inBeat _ _ (State.lostRounds_inBeat _ (State.abandonAll_inBeat _ (State.landFlags_inBeat _ (State.toCut_inBeat _ (.refl s)))))

section
variable {s : State} (hguard : s.beat.inGuard = true) (hcut : s.beat.cut = true)
include hguard hcut

/-- The beat as a boundary decides on it, after the cut: only conditions have come, of the rounds that are lost. -/
theorem State.decided_frame : s.decided.view = s.view ∧ s.decided.beat.kind = s.beat.kind ∧ s.decided.beat.replays = s.beat.replays
    ∧ (s.beat.cond = none → RoundsCame s → s.decided.beat.cond = none)
    ∧ (∀ c, s.beat.cond = some c → s.decided.beat.cond = some c)
    ∧ (s.beat.cond = none → ¬RoundsCame s → ∃ p, s.decided.beat.cond = some (3, p)) := by
  obtain ⟨hbeat, hregs, htether⟩ : SameView s s.landFlags.abandonAll := State.abandonAll_sameView _ (State.landFlags_sameView _ (.refl s))
  have hports : s.landFlags.abandonAll.portsJoined = s.portsJoined := by
    unfold State.portsJoined State.port
    rw [htether]
  have hcame (p : Fin 8) : s.landFlags.abandonAll.came p ↔ s.came p := by
    unfold State.came State.rounds State.rd
    rw [hbeat, hregs]
  have hdec : s.decided.beat = (s.portsJoined.foldl State.checkPort s.landFlags.abandonAll).beat := by
    unfold State.decided
    rw [State.toCut_of_cut hcut hguard, State.lostRounds_eq, hports]
    exact Only.toTc (ch := [.tb]) _ _ (by decide) .beat (by decide)
  obtain ⟨⟨cond, acc, hb⟩, hall, hstands, hlost⟩ := State.checkPorts_beat s.portsJoined s.landFlags.abandonAll
  rw [hbeat] at hb hstands hlost
  rw [← hdec] at hb hstands hlost
  refine ⟨?_, ?_, ?_, fun hnone hrounds => ?_, hstands, fun hnone hrounds => hlost hnone ?_⟩
  · unfold State.view
    rw [hb]
  · rw [hb]
  · rw [hb]
  · rw [hdec, hall fun p hp => (hcame p).mpr (hrounds p hp), hbeat]
    exact hnone
  · by_contra hno
    exact hrounds fun p hp => Decidable.byContradiction fun hp' => hno ⟨p, hp, fun h => hp' ((hcame p).mp h)⟩

theorem State.verdict_cond {c p : Nat} (h : s.beat.cond = some (c, p)) : s.decided.verdict = .fault c (if c ≤ 2 then p else 0) := by
  obtain ⟨-, -, -, -, hstands, -⟩ := State.decided_frame hguard hcut
  unfold State.verdict
  rw [hstands _ h]

theorem State.verdict_lost (hnone : s.beat.cond = none) (h : ¬RoundsCame s) : s.decided.verdict = .fault 3 0 := by
  obtain ⟨-, -, -, -, -, hlost⟩ := State.decided_frame hguard hcut
  obtain ⟨p, hp⟩ := hlost hnone h
  unfold State.verdict
  rw [hp]
  exact congrArg (Verdict.fault 3) (if_neg (by decide))

theorem State.verdict_came (hnone : s.beat.cond = none) (h : RoundsCame s) : s.decided.verdict =
    if s.view.fault then .fault 5 0
    else if s.beat.kind = 3 then .keep
    else if s.view.fail then (if s.beat.replays = 3 then .fault 4 0 else .replay)
    else .commit := by
  obtain ⟨hview, hkind, hreplays, hcame, -, -⟩ := State.decided_frame hguard hcut
  unfold State.verdict
  rw [hcame hnone h, hview, hkind, hreplays]

end

/-! ### The verdict applied, and the period that opens (11 R329, R330) -/

/-- The digests and records of the period that ends are closed. -/
def State.periodClosed (s : State) (v : Verdict) : State :=
  s.flushGathered.dgBoundary (match v with
    | .replay => true
    | .fault _ _ => true
    | _ => false)

theorem State.periodClosed_inBeat (s : State) (v : Verdict) : InBeat s (s.periodClosed v) :=
  State.dgBoundary_inBeat _ _ (State.flushGathered_inBeat _ (.refl s))

/-- What follows the verdict, before the kind of the coming period is fixed. -/
def State.beforeKind (w : State) : State :=
  let s4 := w.mapPg PgPart.ageQuiet
  let s5 := { s4 with flags := { s4.flags with recorded := s4.flags.value } }
  s5.skipStorm.closeStretch

theorem State.boundary_eq (s : State) : s.boundary
    = (((s.decided.periodClosed s.decided.verdict).applyVerdict s.decided.verdict).beforeKind.fixKind s.decided.view.skip).clearPeriod.openPeriod := by
  unfold State.boundary
  extract_lets s1 s2 v skip s3 s4 f s5
  have h2 : s2 = s.decided := rfl
  have h3 : s3 = s2.periodClosed v := rfl
  rw [← h2]
  show _ = (((s2.periodClosed v).applyVerdict v).beforeKind.fixKind skip).clearPeriod.openPeriod
  rw [← h3]
  clear_value s3 skip v
  clear h2 h3
  have h4 : s4 = (s3.applyVerdict v).mapPg PgPart.ageQuiet := rfl
  clear_value s4
  generalize s3.applyVerdict v = w at h4 ⊢
  subst h4
  rfl

theorem State.fixKind_joined {s : State} (h : s.beat.joined = true) (skip : Bool) :
    (s.fixKind skip).beat = { s.beat with kind := if skip then 3 else if s.beat.replayNext then 2 else 1, period := s.beat.period + 1 } := by
  unfold State.fixKind
  rw [if_neg (by rw [h]; decide)]
  extract_lets kind b s1
  have hbump (a : Nat) : (s1.bump a).beat = s1.beat := Only.bump (ch := [.regs]) s1 a (by decide) .beat (by decide)
  split
  · exact hbump _
  · split
    · exact hbump _
    · rfl

theorem State.beforeKind_inBeat (w : State) : InBeat w w.beforeKind :=
  State.closeStretch_inBeat _ (State.skipStorm_inBeat _ (.mk (State.mapPg_inBeat _ _ (.refl w)) rfl rfl))

theorem State.fixKind_off {w : State} (h : w.beat.joined = false) (skip : Bool) : w.fixKind skip = w := by
  unfold State.fixKind
  rw [h]
  rfl

theorem State.budgets_of_clis {s t : State} (h : t.rt.clis = s.rt.clis) (hb : s.Budgets) : t.Budgets := by
  intro c
  have := hb c
  unfold State.cli at this ⊢
  rw [h]
  exact this

theorem State.budgets_fixKind {s : State} (skip : Bool) (h : s.Budgets) : (s.fixKind skip).Budgets := by
  unfold State.fixKind
  split
  · exact h
  · extract_lets kind b s1
    have hbump (a : Nat) : (s1.bump a).rt = s1.rt := Only.bump (ch := [.regs]) s1 a (by decide) .rt (by decide)
    refine State.budgets_of_clis ?_ h
    split
    · rw [hbump]
    · split
      · rw [hbump]
      · rfl

theorem State.fixKind_frame {s : State} (h : s.beat.joined = true) (skip : Bool) :
    (s.fixKind skip).beat.joined = true ∧ (s.fixKind skip).beat.bno = s.beat.bno ∧ (s.fixKind skip).beat.lastCommit = s.beat.lastCommit
      ∧ (s.fixKind skip).beat.replays = s.beat.replays
      ∧ (s.fixKind skip).beat.kind = (if skip then 3 else if s.beat.replayNext then 2 else 1)
      ∧ (s.fixKind skip).beat.period = s.beat.period + 1 := by
  rw [State.fixKind_joined h]
  exact ⟨h, rfl, rfl, rfl, rfl, rfl⟩

/-- The beat of the period that opens on a device that is joined: `x` is the state before the kind is fixed. -/
theorem InBeat.opens {w x t : State} {skip : Bool} (h1 : InBeat w x) (h2 : InBeat (x.fixKind skip) t) (h : w.beat.joined = true) :
    t.beat.joined = true ∧ t.beat.bno = w.beat.bno ∧ t.beat.lastCommit = w.beat.lastCommit ∧ t.beat.replays = w.beat.replays
      ∧ t.beat.kind = (if skip then 3 else if w.beat.replayNext then 2 else 1) ∧ t.beat.period = w.beat.period + 1 := by
  have h1 := h1.1
  have h2 := h2.1
  simp only [Prod.mk.injEq] at h1 h2
  obtain ⟨j1, k1, b1, p1, r1, n1, l1⟩ := h1
  obtain ⟨j2, k2, b2, p2, r2, n2, l2⟩ := h2
  obtain ⟨j, b, l, r, k, p⟩ := State.fixKind_frame (j1.trans h) skip
  rw [n1] at k
  rw [p1] at p
  exact ⟨j2.trans j, b2.trans (b.trans b1), l2.trans (l.trans l1), r2.trans (r.trans r1), k2.trans k, p2.trans p⟩

theorem Only.mapPg (s : State) (f : PgPart → PgPart) : Only [.pg] s (s.mapPg f) :=
  Only.foldl _ s.pg s fun t x => .setPg t _ _ (by decide)

theorem Only.closeStretch (s : State) : Only [.regs, .tb] s s.closeStretch := by
  unfold State.closeStretch
  extract_lets s1
  have h1 : Only [.regs, .tb] s s1 :=
    Only.foldl _ _ s fun t r => .ite ((Only.wrF t _ _ _ _ (by decide)).trans (.bump _ _ (by decide))) (.wrF t _ _ _ _ (by decide))
  exact h1.trans (.tb _ _ (by decide))

theorem State.faulted_beforeKind (w : State) : w.beforeKind.beat.faulted = w.beat.faulted := by
  unfold State.beforeKind
  extract_lets s4 f s5
  have h5 : s5.beat = w.beat := Only.mapPg w _ .beat (by decide)
  have hstorm : s5.skipStorm.beat.faulted = s5.beat.faulted := by
    unfold State.skipStorm
    extract_lets n b s1
    have hev : ((s1.event 0x85 3 0xFF 0xFF 0xFFFF 0).alert 1).beat = s1.beat :=
      ((Only.event (ch := [.regs, .sc]) s1 _ _ _ _ _ _ (by decide) (by decide)).trans (.alert _ _ (by decide))) .beat (by decide)
    split
    · rw [hev]
    · rfl
  have hclose : s5.skipStorm.closeStretch.beat = s5.skipStorm.beat := Only.closeStretch _ .beat (by decide)
  rw [hclose, hstorm, h5]

theorem State.fixKind_beforeKind {w : State} (h : w.beat.joined = false) (skip : Bool) : w.beforeKind.fixKind skip = w.beforeKind := by
  obtain ⟨hw, -⟩ := w.beforeKind_inBeat
  have hj : w.beforeKind.beat.joined = false := (Prod.mk.inj hw).1.trans h
  exact State.fixKind_off hj skip

theorem State.faulted_flightFault (s : State) (cause port : Nat) : (s.flightFault cause port).beat.faulted = some (cause, port) := by
  unfold State.flightFault
  extract_lets s1 s2 s3 s4 s5 s6 b r s7
  have h : Only [.regs, .sc] s7 (((s7.event 0x86 11 0xFF 0xFF 0xFFFF (BitVec.ofNat 32 cause)).alert 0).log originHw 11 0xFF 0 0 (BitVec.ofNat 32 cause)) :=
    (Only.event s7 _ _ _ _ _ _ (by decide) (by decide)).trans ((Only.alert _ _ (by decide)).trans (.log _ _ _ _ _ _ _ (by decide) (by decide)))
  exact congrArg Beat.faulted (h .beat (by decide))

theorem State.applyVerdict_fault (s : State) (c p : Nat) : s.applyVerdict (.fault c p) = s.flightFault c p := rfl

theorem State.applyVerdict_commit (s : State) : s.applyVerdict .commit = s.commitBeat s.view.groups := rfl

theorem State.applyVerdict_replay (s : State) : s.applyVerdict .replay = s.replayBeat s.view.groups := rfl

theorem exec_beatBoundary {s : State} (hj : s.beat.joined = true) : exec .beatBoundary s = .next s.boundary :=
  congrArg Host.Outcome.next (if_pos hj)

theorem flightEnds {s : State} {c p : Nat} (hj : s.beat.joined = true) (hv : s.decided.verdict = .fault c p) : FlightEnds s c p := by
  have hb := s.boundary_eq
  rw [hv, State.applyVerdict_fault] at hb
  obtain ⟨h0, -⟩ := s.decided_inBeat.trans (s.decided.periodClosed_inBeat (.fault c p))
  obtain ⟨h1, -⟩ := (s.decided.periodClosed (.fault c p)).flightFault_beat c p
  have hfault := (s.decided.periodClosed (.fault c p)).faulted_flightFault c p
  generalize (s.decided.periodClosed (.fault c p)).flightFault c p = w at hb h1 hfault
  obtain ⟨h2, -⟩ := w.beforeKind_inBeat
  simp only [Prod.mk.injEq] at h0 h1 h2
  obtain ⟨-, -, b0, -⟩ := h0
  obtain ⟨j1, k1, b1⟩ := h1
  obtain ⟨j2, k2, b2, -⟩ := h2
  rw [State.fixKind_beforeKind j1] at hb
  obtain ⟨h3, -⟩ : InBeat w.beforeKind s.boundary := by
    rw [hb]
    exact State.openPeriod_inBeat _ (State.clearPeriod_inBeat _ (.refl _))
  simp only [Prod.mk.injEq] at h3
  obtain ⟨j3, k3, b3, -⟩ := h3
  exact .of_eq (exec_beatBoundary hj) ⟨j3.trans (j2.trans j1), k3.trans (k2.trans k1), b3.trans (b2.trans (b1.trans b0)), w.beforeKind, hb,
    w.faulted_beforeKind.trans hfault⟩

theorem State.boundary_budgets {s : State} (h : s.Budgets) : s.boundary.Budgets := by
  rw [State.boundary_eq]
  have h3 : (s.decided.periodClosed s.decided.verdict).Budgets := (s.decided_inBeat.trans (s.decided.periodClosed_inBeat _)).2 h
  have h4 : ((s.decided.periodClosed s.decided.verdict).applyVerdict s.decided.verdict).Budgets := by
    unfold State.applyVerdict
    split
    · exact h3
    · exact (State.commitBeat_beat _ _).2 h3
    · exact (State.replayBeat_beat _ _).2 h3
    · exact (State.flightFault_beat _ _ _).2 h3
  have h5 := State.budgets_fixKind s.decided.view.skip ((State.beforeKind_inBeat _).2 h4)
  exact (State.openPeriod_inBeat _ (State.clearPeriod_inBeat _ (.refl _))).2 h5

/-- The beat of the period that opens where the flight goes on, whatever the verdict made of it. -/
theorem runs_boundary {s w : State} {v : Verdict} {bno lastCommit : BitVec 48} {replays : Nat} {next : Bool} (hj : s.beat.joined = true)
    (hguard : s.beat.inGuard = true) (hcut : s.beat.cut = true) (hv : s.decided.verdict = v)
    (hw : (s.decided.periodClosed v).applyVerdict v = w) (j : w.beat.joined = true) (b : w.beat.bno = bno) (p : w.beat.period = s.beat.period)
    (r : w.beat.replays = replays) (n : w.beat.replayNext = next) (l : w.beat.lastCommit = lastCommit) :
    Runs .beatBoundary s fun t => t.beat.joined = true ∧ t.beat.bno = bno ∧ t.beat.lastCommit = lastCommit ∧ t.beat.replays = replays
      ∧ t.beat.kind = (if s.view.skip then 3 else if next then 2 else 1) ∧ t.beat.period = s.beat.period + 1 := by
  obtain ⟨hview, -⟩ := State.decided_frame hguard hcut
  have hb := s.boundary_eq
  rw [hv, hw, hview] at hb
  have hopen := w.beforeKind_inBeat.opens (skip := s.view.skip)
    (State.openPeriod_inBeat _ (State.clearPeriod_inBeat _ (.refl (w.beforeKind.fixKind s.view.skip)))) j
  rw [← hb, b, l, r, n, p] at hopen
  exact .of_eq (exec_beatBoundary hj) hopen

/-! ### The flags of a beat that is replayed (08 R246; 01 R35) -/

theorem wfFrom_key_not {α : Type} [DecidableEq α] {d : Nat → α} {l : List (Nat × α)} {k : Nat} (h : Sparse.wfFrom d (k + 1) l = true) :
    k ∉ l.map (·.1) := by
  induction l with
  | nil => exact List.not_mem_nil
  | cons x l ih =>
    simp only [Sparse.wfFrom, Bool.and_eq_true, decide_eq_true_eq] at h
    rw [List.map_cons, List.mem_cons, not_or]
    exact ⟨by omega, ih (Laws.wfFrom_mono d l _ _ (by omega) h.2)⟩

theorem get_foldl_set {α : Type} [DecidableEq α] (d : Nat → α) (l m : List (Nat × α)) (lo : Nat) (h : Sparse.wfFrom d lo l = true) (f : Nat) :
    Sparse.get d (l.foldl (fun a x => Sparse.set d a x.1 x.2) m) f = if f ∈ l.map (·.1) then Sparse.get d l f else Sparse.get d m f := by
  induction l generalizing m lo with
  | nil => exact (if_neg (by simp)).symm
  | cons x l ih =>
    unfold Sparse.wfFrom at h
    simp only [Bool.and_eq_true, decide_eq_true_eq] at h
    rw [List.foldl_cons, ih _ _ h.2, Laws.get_set]
    have hnot : x.1 ∉ l.map (·.1) := wfFrom_key_not h.2
    by_cases hf : f = x.1
    · subst hf
      rw [if_neg hnot, if_pos rfl, if_pos (List.mem_map.mpr ⟨x, List.mem_cons_self, rfl⟩)]
      exact (if_pos rfl).symm
    · have hget : Sparse.get d (x :: l) f = Sparse.get d l f := if_neg (Ne.symm hf)
      rw [if_neg hf, hget, List.map_cons]
      simp only [List.mem_cons, hf, false_or]

/-- Every flag returned to what it was when the beat opened. -/
theorem State.flagVal_restoreFlags {s : State} (h : Sparse.wf (fun _ => (0 : Word)) s.flags.opening = true) (f : Nat) :
    (s.restoreFlags fun _ => true).flagVal f = Sparse.get (fun _ => 0) s.flags.opening f := by
  have hval : (s.restoreFlags fun _ => true).flagVal f
      = Sparse.get (fun _ => 0) (s.flags.opening.foldl (fun m x => Sparse.set (fun _ => 0) m x.1 x.2) []) f := by
    unfold State.flagVal State.restoreFlags
    rw [List.filter_eq_self.mpr fun _ _ => rfl, List.filter_eq_nil_iff.mpr fun _ _ => by simp]
  rw [hval, get_foldl_set _ _ _ 0 h]
  split
  · rfl
  next hf => exact (get_of_not_key _ hf).symm

/-- A replay returns the flags; what it does besides is no flag's and no byte's. -/
theorem Only.replayBeat (s : State) (gs : List Nat) :
    Only [.pg, .beat, .rt, .regs, .sc] ((s.dropGroups gs).restoreFlags fun _ => true) (s.replayBeat gs) := by
  unfold State.replayBeat
  extract_lets s1 s2 b r s3
  have h2 : Only [.pg, .beat, .rt, .regs, .sc] s1 s2 := (Only.mapPg s1 _).mono (by decide)
  clear_value s2
  have h3 : Only [.pg, .beat, .rt, .regs, .sc] s2 s3 := (Only.beat (ch := [.pg, .beat, .rt, .regs, .sc]) s2 s3.beat (by decide)).trans (.rt _ s3.rt (by decide))
  exact h2.trans (h3.trans (.event s3 _ _ _ _ _ _ (by decide) (by decide)))

theorem State.memGet_restoreFlags (s : State) (p : Nat → Bool) (a : Nat) : (s.restoreFlags p).memGet a = s.memGet a := rfl

theorem State.memGet_of_mem {s t : State} (h : t.mem = s.mem) (a : Nat) : t.memGet a = s.memGet a := by
  unfold State.memGet
  rw [h]

theorem State.flagVal_of_flags {s t : State} (h : t.flags = s.flags) (f : Nat) : t.flagVal f = s.flagVal f := by
  unfold State.flagVal
  rw [h]

theorem State.replayBeat_frame (s : State) (gs : List Nat) : (∀ a, (s.replayBeat gs).memGet a = s.memGet a)
    ∧ (Sparse.wf (fun _ => (0 : Word)) s.flags.opening = true → ∀ f, (s.replayBeat gs).flagVal f = Sparse.get (fun _ => 0) s.flags.opening f) := by
  obtain ⟨hmem, -, hopen⟩ := State.dropGroups_sameMem s gs (.refl s)
  have honly := Only.replayBeat s gs
  generalize s.dropGroups gs = w at hmem hopen honly
  have hmem' : ∀ a, (s.replayBeat gs).memGet a = (w.restoreFlags fun _ => true).memGet a := honly .mem (by decide)
  have hflags : (s.replayBeat gs).flags = (w.restoreFlags fun _ => true).flags := honly .flags (by decide)
  refine ⟨fun a => ?_, fun h f => ?_⟩
  · rw [hmem', State.memGet_restoreFlags, State.memGet_of_mem hmem]
  · rw [State.flagVal_of_flags hflags, State.flagVal_restoreFlags (by rw [hopen]; exact h), hopen]

/-- Settles O44: the verdict from what stands after the cut, then what each verdict does to the beat. -/
theorem boundaryVerdicts : Obligations.BoundaryVerdicts := by
  refine ⟨fun s hj hguard hcut => ?_, fun s hb => ?_, State.replayBeat_frame, booksMove⟩
  · intro b v kind
    refine ⟨fun hnone hrounds hfault => ?_, fun hnone hrounds hfault => ?_, fun c p hc => ?_, fun hnone hrounds => ?_⟩
    · have hv := State.verdict_came hguard hcut hnone hrounds
      rw [if_neg (ne_true_of_eq_false hfault)] at hv
      have hclosed (w : Verdict) := (s.decided_inBeat.trans (s.decided.periodClosed_inBeat w)).1
      simp only [Prod.mk.injEq] at hclosed
      refine ⟨fun hkind hfail => ?_, fun hkind hfail hrep => ?_, fun hkind hfail hrep => ?_, fun hkind => ?_⟩
      · rw [if_neg hkind, if_neg (ne_true_of_eq_false hfail)] at hv
        obtain ⟨j, -, bno, p, -⟩ := hclosed .commit
        obtain ⟨hw, -⟩ := (s.decided.periodClosed .commit).commitBeat_beat (s.decided.periodClosed .commit).view.groups
        simp only [Prod.mk.injEq] at hw
        obtain ⟨j', -, bno', p', r', n', l'⟩ := hw
        exact runs_boundary hj hguard hcut hv (State.applyVerdict_commit _) (j'.trans (j.trans hj)) (bno'.trans (congrArg (· + 1) bno))
          (p'.trans p) r' n' (l'.trans bno)
      · rw [if_neg hkind, if_pos hfail, if_neg hrep] at hv
        obtain ⟨j, -, bno, p, r, -, l⟩ := hclosed .replay
        obtain ⟨hw, -⟩ := (s.decided.periodClosed .replay).replayBeat_beat (s.decided.periodClosed .replay).view.groups
        simp only [Prod.mk.injEq] at hw
        obtain ⟨j', -, bno', p', r', n', l'⟩ := hw
        exact runs_boundary hj hguard hcut hv (State.applyVerdict_replay _) (j'.trans (j.trans hj)) (bno'.trans bno) (p'.trans p)
          (r'.trans (congrArg (· + 1) r)) n' (l'.trans l)
      · rw [if_neg hkind, if_pos hfail, if_pos hrep] at hv
        exact flightEnds hj hv
      · rw [if_pos hkind] at hv
        obtain ⟨j, -, bno, p, r, n, l⟩ := hclosed .keep
        exact runs_boundary hj hguard hcut hv rfl (j.trans hj) bno p r n l
    · have hv := State.verdict_came hguard hcut hnone hrounds
      rw [if_pos hfault] at hv
      exact flightEnds hj hv
    · exact flightEnds hj (State.verdict_cond hguard hcut hc)
    · exact flightEnds hj (State.verdict_lost hguard hcut hnone hrounds)
  · have hexec : exec .beatBoundary s = .next (if s.beat.joined then s.boundary else s) := rfl
    refine .of_eq hexec ?_
    split
    · exact State.boundary_budgets hb
    · exact hb

end Sys2Proof.Machine

/-! The results of a sampling unit (13 R375 to R379). -/

namespace Sys2Proof.Machine

open Sys2Proof

/-! ### Reading what is not poisoned (05 R149 to R151) -/

/-- A poison write-back left pending for a granule that was found uncorrectable poisons no other. -/
theorem State.granulePoisoned_pending {s t : State} {g : Nat} (hecc : t.ecc = s.ecc) (hpend : t.poisonPending = s.poisonPending ++ [g])
    (hg : s.granule g = .uncorr) (x : Nat) : t.granulePoisoned x = s.granulePoisoned x := by
  by_cases hx : x = g
  · subst hx
    have hs : s.granulePoisoned x = true := decide_eq_true (.inl hg)
    rw [hs]
    refine decide_eq_true (.inr ?_)
    unfold State.granule
    rw [hecc, hpend]
    dsimp only
    by_cases hp : Sparse.get (fun _ => Ecc.clean) s.ecc x = .poison
    · rw [if_neg (fun h => h.1 hp), hp]
    · exact if_pos ⟨hp, by simp⟩
  · have hcontains : (s.poisonPending ++ [g]).contains x = s.poisonPending.contains x := by
      rw [List.contains_append]
      simp [hx]
    unfold State.granulePoisoned State.granule
    rw [hecc, hpend, hcontains]

/-- Reading a granule finds poison, and puts none where there was none. -/
theorem State.granulePoisoned_touch (s : State) (g : Nat) (sched : Bool) (x : Nat) : (s.touch g sched).granulePoisoned x = s.granulePoisoned x := by
  unfold State.touch
  extract_lets c p s1 b u1 u2 u3 v1
  split
  case h_1 => rfl
  case h_2 =>
    have h1 : Only [.regs, .banks] s s1 := (Only.setBit _ _ _ (by decide)).trans (Only.bump _ _ (by decide))
    have h : Only [.regs, .banks] s (if b.corr.isNone then s1.setBank c (bankOf p) { b with corr := some (g, 0) } else s1) :=
      .ite (h1.trans (.setBank _ _ _ _ (by decide))) h1
    exact State.granulePoisoned_congr (h .ecc (by decide)) (h .poisonPending (by decide)) x
  case h_3 hg =>
    have h2 : Only [.regs] s u2 :=
      ((Only.setBit _ _ _ (by decide)).trans (Only.bump _ _ (by decide))).trans (.ite (.refl _ _) (Only.wr _ _ _ (by decide)))
    have h4 : Only [.regs, .sc, .beat] u3 ((u3.event 0x8C 0 6 (s.partNo c) c (BitVec.ofNat 32 p)).failBeat) :=
      (Only.event _ _ _ _ _ _ _ (by decide) (by decide)).trans (Only.failBeat _ (by decide))
    have h3 : Only [.poisonPending] u2 u3 := .poisonPending _ _ (by decide)
    have hecc : u3.ecc = s.ecc := Eq.trans (h3 .ecc (by decide)) (h2 .ecc (by decide))
    have hu2 : u2.poisonPending = s.poisonPending := h2 .poisonPending (by decide)
    have hpend : u3.poisonPending = s.poisonPending ++ [g] := by
      rw [← hu2]
    exact (State.granulePoisoned_congr (h4 .ecc (by decide)) (h4 .poisonPending (by decide)) x).trans
      (State.granulePoisoned_pending hecc hpend hg x)
  case h_4 =>
    have h1 : Only [.regs, .beat] s v1 := (Only.setBit _ _ _ (by decide)).trans (Only.bump _ _ (by decide))
    have h : Only [.regs, .beat] s (if sched then v1.failBeat else v1) := .ite (h1.trans (Only.failBeat _ (by decide))) h1
    exact State.granulePoisoned_congr (h .ecc (by decide)) (h .poisonPending (by decide)) x

theorem State.granulePoisoned_checkRows (s : State) (rs : List (Nat × Nat)) (sched : Bool) (x : Nat) :
    (s.checkRows rs sched).granulePoisoned x = s.granulePoisoned x := by
  have hbeside (t : State) (g : Nat) : (t.touchBeside g).granulePoisoned x = t.granulePoisoned x := by
    unfold State.touchBeside
    split
    · rfl
    · exact t.granulePoisoned_touch g false x
  have hfold (f : State → Nat → State) (hf : ∀ t g, (f t g).granulePoisoned x = t.granulePoisoned x) (l : List Nat) (t : State) :
      (l.foldl f t).granulePoisoned x = t.granulePoisoned x := by
    induction l generalizing t with
    | nil => rfl
    | cons g l ih => exact (ih _).trans (hf t g)
  exact (hfold State.touchBeside hbeside _ _).trans (hfold (fun t g => t.touch g sched) (fun t g => t.granulePoisoned_touch g sched x) _ _)

/-- The state after a read whose checks pass. -/
def State.rowsRead (s : State) (c a n : Nat) : State := { s.checkRows (s.globalRanges c a n) false with free := s.free + n }

theorem Only.rowsRead (s : State) (c a n : Nat) : Only (.free :: foundGroups) s (s.rowsRead c a n) :=
  ((Only.checkRows s _ _).mono (by decide)).trans (.free _ _ (by decide))

/-- A read whose checks pass, of bytes that are not poisoned (05 R154). -/
theorem State.unitRead_clean {s : State} {unit p c a n : Nat} (hcheck : s.unitCheck p c a n = none)
    (hclean : ∀ i, i < n → s.bytePoisoned c (a + i) = false) : s.unitRead unit p c a n = (s.readBytes c a n, [], s.rowsRead c a n) := by
  have hbytes : s.readFree c a n = s.readBytes c a n :=
    List.map_congr_left fun i hi => if_neg (ne_true_of_eq_false (hclean i (List.mem_range.mp hi)))
  have hbad : (((List.range n).map (a + ·)).filter fun x => decide (x % 8 = 0 ∨ x = a) && s.bytePoisoned c x) = [] := by
    refine List.filter_eq_nil_iff.mpr fun x hx => ?_
    obtain ⟨i, hi, rfl⟩ := List.mem_map.mp hx
    rw [hclean i (List.mem_range.mp hi), Bool.and_false]
    decide
  unfold State.unitRead
  rw [hcheck, hbytes]
  dsimp only
  rw [hbad]
  rfl

theorem readBytes_slice (s : State) (c a : Nat) {n k m : Nat} (h : k + m ≤ n) :
    ((s.readBytes c a n).drop k).take m = s.readBytes c (a + k) m := by
  refine List.ext_getElem ?_ fun i h1 h2 => ?_
  · simp only [State.readBytes, List.length_take, List.length_drop, List.length_map, List.length_range]
    omega
  · simp only [State.readBytes, List.getElem_take, List.getElem_drop, List.getElem_map, List.getElem_range, Nat.add_assoc]

theorem leAt_readBytes (s : State) (c a : Nat) {n k m : Nat} (h : k + m ≤ n) : leAt (s.readBytes c a n) k m = s.readLe c (a + k) m :=
  congrArg leNat (readBytes_slice s c a h)

/-- The candidates of a position as they stand in memory (13 R375). -/
theorem candsOf_readBytes (s : State) (c a n : Nat) : candsOf (s.readBytes c a (8 * n)) n
    = ((List.range n).map fun m => candidate s c (a + 8 * m)).filter fun x => decide (x.1 ≠ 0xFFFFFFFF) := by
  refine congrArg (List.filter _) (List.map_congr_left fun i hi => ?_)
  have hi' := List.mem_range.mp hi
  unfold candidate
  rw [leAt_readBytes s c a (by omega), leAt_readBytes s c a (by omega), Nat.add_assoc]

/-! ### The same map, the same poison -/

/-- What is read of memory is the same: bytes, map and poison. -/
structure SameRead (s t : State) : Prop where
  map : SameMap s t
  mem : ∀ g, t.memGet g = s.memGet g
  poison : ∀ g, t.granulePoisoned g = s.granulePoisoned g

theorem SameRead.refl (s : State) : SameRead s s := ⟨.refl s, fun _ => rfl, fun _ => rfl⟩

theorem SameRead.trans {s t u : State} (h : SameRead s t) (k : SameRead t u) : SameRead s u :=
  ⟨h.map.trans k.map, fun g => (k.mem g).trans (h.mem g), fun g => (k.poison g).trans (h.poison g)⟩

theorem SameRead.of_only {ch : List Grp} {s t : State} (h : Only ch s t) (hf : Grp.fuses ∉ ch) (hp : Grp.parts ∉ ch) (hm : Grp.mem ∉ ch)
    (he : Grp.ecc ∉ ch) (hpp : Grp.poisonPending ∉ ch) (hr : ∀ a, MapReg a → t.rd a = s.rd a) : SameRead s t :=
  ⟨.of_only h hf hp hr, h .mem hm, State.granulePoisoned_congr (h .ecc he) (h .poisonPending hpp)⟩

theorem SameRead.readByte {s t : State} (h : SameRead s t) (c a : Nat) : t.readByte c a = s.readByte c a := h.map.readByte h.mem c a

theorem SameRead.bytePoisoned {s t : State} (h : SameRead s t) (c a : Nat) : t.bytePoisoned c a = s.bytePoisoned c a := by
  unfold State.bytePoisoned
  simp only [h.map.xlateG, h.poison]

theorem SameRead.readLe {s t : State} (h : SameRead s t) (c a n : Nat) : t.readLe c a n = s.readLe c a n := by
  unfold State.readLe State.readBytes
  simp only [h.readByte]

theorem SameRead.candidate {s t : State} (h : SameRead s t) (c a : Nat) : candidate t c a = candidate s c a := by
  unfold Sys2Proof.candidate
  rw [h.readLe, h.readLe]

theorem SameRead.wr (s : State) {a : Nat} (v : Word) (h : ¬ MapReg a) : SameRead s (s.wr a v) :=
  .of_only (.wr (ch := [.regs]) s a v (by decide)) (by decide) (by decide) (by decide) (by decide) (by decide) (SameMap.wr s v h).regs

theorem SameRead.setBit (s : State) {a : Nat} (n : Nat) (h : ¬ MapReg a) : SameRead s (s.setBit a n) := .wr s _ h

theorem SameRead.bump (s : State) {a : Nat} (h : ¬ MapReg a) : SameRead s (s.bump a) := .wr s _ h

theorem SameRead.bumpN (s : State) {a : Nat} (n : Nat) (h : ¬ MapReg a) : SameRead s (s.bumpN a n) := by
  unfold State.bumpN
  split
  · exact .refl s
  · exact .wr s _ h

theorem SameRead.rowsRead (s : State) (c a n : Nat) : SameRead s (s.rowsRead c a n) :=
  ⟨.of_only (Only.rowsRead s c a n) (by decide) (by decide) fun _ ha => s.rd_checkRows ha.not_found _ _,
    Only.rowsRead s c a n .mem (by decide), fun g => s.granulePoisoned_checkRows (s.globalRanges c a n) false g⟩

theorem SameRead.atEndpoint (s : State) (src c : Nat) : SameRead s (s.atEndpoint src c) := by
  refine .of_only (Only.atEndpoint (ch := [.regs, .drift, .free]) s src c (by decide) (by decide) (by decide)) (by decide) (by decide)
    (by decide) (by decide) (by decide) fun a ha => s.rd_atEndpoint_ne src c ?_ ?_ ?_
  · rintro rfl; unfold MapReg rDriftRxCount coreBase at ha; omega
  · rintro rfl; unfold MapReg rDriftTxCount coreBase at ha; omega
  · rintro rfl; unfold MapReg rDriftMaxLat coreBase at ha; omega

/-! ### A slot sampled (13 R375 to R379) -/

/-- What sampling a slot may touch. -/
def sampleGroups : List Grp := .drift :: .free :: .rt :: foundGroups

/-- The distributions of the positions of a slot from its candidates. -/
def distsOf (e : Ent) (raw : List (List (Word × Word) × Bool)) : Option (List Dist) := allSome (raw.map fun r => e.dist r.1)

/-- The end of a slot whose candidates are read. -/
def State.slotEnds (s1 : State) (n : Nat) (t : BTable) (j : SuJob) (i : Nat) (b : BSlot) (e : Ent) (raw : List (List (Word × Word) × Bool)) : State :=
  let s2 := if raw.any (·.2) then s1.setBit (rSuStatus n) 6 else s1
  match distsOf e raw with
  | none =>
    let s3 := if raw.any (fun r => r.1.isEmpty) then s2.setBit (rSuStatus n) 7 else s2
    s3.addResult ⟨t.group, t.bno, j.first + i, 0, none⟩
  | some ds =>
    let q := verifyFrom e.length e.seed e.key 0 ds b.drafts
    let s3 := s2.addResult ⟨t.group, t.bno, j.first + i, q.2, some q.1⟩
    ((s3.bumpN (rSuAccepted n) q.2).bumpN (rSuRejected n) (bn (decide (q.2 < b.drafts.length)))).bumpN (rSuEmitted n) q.1.length

/-- The address of the candidates of a slot. -/
def SuJob.candBase (j : SuJob) (i : Nat) : Nat := j.cand + 17 * i * (j.shards * j.k) * 8

/-- The candidates of a slot read by a unit. -/
def State.candRead (s : State) (n : Nat) (j : SuJob) (i : Nat) (b : BSlot) : List Byte × List Nat × State :=
  (s.atEndpoint (0x104 + n) (j.candBase i / 0x2000000)).unitRead 8 j.part (j.candBase i / 0x2000000) (j.candBase i % 0x2000000)
    ((b.d + 1) * (j.shards * j.k) * 8)

theorem candAt_zero (j : SuJob) (i : Nat) : candAt j i 0 = (j.candBase i / 0x2000000, j.candBase i % 0x2000000) := by
  unfold candAt SuJob.candBase
  dsimp only
  rw [Nat.zero_mul, Nat.zero_mul, Nat.add_zero]

theorem State.sampleSlot_eq (s : State) (n : Nat) (t : BTable) (j : SuJob) (i : Nat) : s.sampleSlot n t j i =
    match t.slots[j.first + i]? with
    | none => s.setBit (rSuStatus n) 9
    | some b =>
      if !b.emit then s
      else if s.rt.results.any (fun r => decide (r.group = t.group ∧ r.slot = j.first + i)) then s.setBit (rSuStatus n) 6
      else if !(s.candRead n j i b).2.1.isEmpty then (s.candRead n j i b).2.2.setBit (rSuStatus n) 8
      else (s.candRead n j i b).2.2.slotEnds n t j i b (s.ent b.ent) ((List.range (b.d + 1)).map fun o =>
        keepOnce (candsOf (((s.candRead n j i b).1.drop (o * (j.shards * j.k) * 8)).take (j.shards * j.k * 8)) (j.shards * j.k)) []) := rfl

/-- The answer of a slot from its distributions. -/
def slotAnswerOf (t : BTable) (j : SuJob) (i : Nat) (b : BSlot) (e : Ent) (raw : List (List (Word × Word) × Bool)) : SlotResult :=
  match distsOf e raw with
  | none => ⟨t.group, t.bno, j.first + i, 0, none⟩
  | some ds => ⟨t.group, t.bno, j.first + i, (verifyFrom e.length e.seed e.key 0 ds b.drafts).2, some (verifyFrom e.length e.seed e.key 0 ds b.drafts).1⟩

theorem State.slotEnds_frame (s : State) (n : Fin 4) (t : BTable) (j : SuJob) (i : Nat) (b : BSlot) (e : Ent) (raw : List (List (Word × Word) × Bool)) :
    Only [.regs, .rt] s (s.slotEnds n t j i b e raw) ∧ SameRead s (s.slotEnds n t j i b e raw)
      ∧ (s.slotEnds n t j i b e raw).rt = { s.rt with results := s.rt.results ++ [slotAnswerOf t j i b e raw] } := by
  have hst : ¬ MapReg (rSuStatus n) := by unfold MapReg rSuStatus; omega
  have hadd (u : State) (x : SlotResult) : SameRead u (u.addResult x) :=
    .of_only (Only.rt (ch := [.rt]) u _ (by decide)) (by decide) (by decide) (by decide) (by decide) (by decide) fun _ _ => rfl
  have hset (u : State) (c : Bool) (k : Nat) : Only [.regs] u (if c then u.setBit (rSuStatus n) k else u)
      ∧ SameRead u (if c then u.setBit (rSuStatus n) k else u) := by
    split
    · exact ⟨.setBit _ _ _ (by decide), .setBit _ _ hst⟩
    · exact ⟨.refl _ _, .refl _⟩
  unfold State.slotEnds slotAnswerOf
  extract_lets s2 s3
  obtain ⟨o2, r2⟩ : Only [.regs] s s2 ∧ SameRead s s2 := hset s _ 6
  cases distsOf e raw with
  | none =>
    obtain ⟨o3, r3⟩ : Only [.regs] s2 s3 ∧ SameRead s2 s3 := hset s2 _ 7
    have hrt : s3.rt = s.rt := Eq.trans (o3 .rt (by decide)) (o2 .rt (by decide))
    refine ⟨((o2.trans o3).mono (by decide)).trans (.rt _ _ (by decide)), (r2.trans r3).trans (hadd s3 _), ?_⟩
    show ({ s3.rt with results := s3.rt.results ++ [_] } : Rt) = _
    rw [hrt]
  | some ds =>
    dsimp only
    generalize verifyFrom e.length e.seed e.key 0 ds b.drafts = q
    have hrt : s2.rt = s.rt := o2 .rt (by decide)
    generalize hu : s2.addResult ⟨t.group, t.bno, j.first + i, q.2, some q.1⟩ = u
    have h3 : Only [.rt] s2 u ∧ SameRead s2 u := by
      rw [← hu]
      exact ⟨Only.rt _ _ (by decide), hadd s2 _⟩
    have hurt : u.rt = { s.rt with results := s.rt.results ++ [⟨t.group, t.bno, j.first + i, q.2, some q.1⟩] } := by
      rw [← hu, ← hrt]
      rfl
    have h4 : Only [.regs] u (((u.bumpN (rSuAccepted n) q.2).bumpN (rSuRejected n) (bn (decide (q.2 < b.drafts.length)))).bumpN (rSuEmitted n) q.1.length) :=
      ((Only.bumpN _ _ _ (by decide)).trans (.bumpN _ _ _ (by decide))).trans (.bumpN _ _ _ (by decide))
    refine ⟨(o2.mono (by decide)).trans ((h3.1.mono (by decide)).trans (h4.mono (by decide))), (r2.trans h3.2).trans
      (((SameRead.bumpN _ _ ?_).trans (.bumpN _ _ ?_)).trans (.bumpN _ _ ?_)), Eq.trans (h4 .rt (by decide)) hurt⟩
    · unfold MapReg rSuAccepted; omega
    · unfold MapReg rSuRejected; omega
    · unfold MapReg rSuEmitted; omega

theorem State.candRead_frame (s : State) (n : Nat) (j : SuJob) (i : Nat) (b : BSlot) :
    Only sampleGroups s (s.candRead n j i b).2.2 ∧ SamePeriod s (s.candRead n j i b).2.2 := by
  have h : Only sampleGroups s (s.atEndpoint (0x104 + n) (j.candBase i / 0x2000000)) := Only.atEndpoint _ _ _ (by decide) (by decide) (by decide)
  have h' : Only [.regs, .drift, .free] s (s.atEndpoint (0x104 + n) (j.candBase i / 0x2000000)) :=
    Only.atEndpoint _ _ _ (by decide) (by decide) (by decide)
  refine ⟨h.trans ?_, (SamePeriod.of_only h' (by decide)).trans (.unitRead _ _ _ _ _ _)⟩
  unfold State.candRead State.unitRead
  split
  next x hx => exact (Only.unitRefused _ _ _ _ x).mono (by decide)
  next hx => exact (Only.rowsRead _ _ _ _).mono (by decide)

/-- What sampling a slot leaves, whatever becomes of it. -/
theorem State.sampleSlot_frame (s : State) (n : Fin 4) (t : BTable) (j : SuJob) (i : Nat) :
    Only sampleGroups s (s.sampleSlot n t j i) ∧ SamePeriod s (s.sampleSlot n t j i) := by
  have hset (u : State) (k : Nat) : Only sampleGroups u (u.setBit (rSuStatus n) k) ∧ SamePeriod u (u.setBit (rSuStatus n) k) :=
    ⟨.setBit _ _ _ (by decide), .of_only (Only.setBit (ch := [.regs]) u _ _ (by decide)) (by decide)⟩
  rw [State.sampleSlot_eq]
  split
  · exact hset s 9
  next b hb =>
    obtain ⟨ho, hp⟩ := s.candRead_frame n j i b
    split
    · exact ⟨.refl _ _, .refl _⟩
    · split
      · exact hset s 6
      · split
        · exact ⟨ho.trans (hset _ 8).1, hp.trans (hset _ 8).2⟩
        · obtain ⟨hends, -, -⟩ := (s.candRead n j i b).2.2.slotEnds_frame n t j i b (s.ent b.ent) ((List.range (b.d + 1)).map fun o =>
            keepOnce (candsOf (((s.candRead n j i b).1.drop (o * (j.shards * j.k) * 8)).take (j.shards * j.k * 8)) (j.shards * j.k)) [])
          exact ⟨ho.trans (hends.mono (by decide)), hp.trans (.of_only hends (by decide))⟩

theorem SlotAnswer_congr {s u : State} (h : SameRead s u) (hent : ∀ e, u.ent e = s.ent e) (t : BTable) (j : SuJob) (i : Nat) (b : BSlot) :
    SlotAnswer u t j i b = SlotAnswer s t j i b := by
  unfold SlotAnswer
  simp only [h.candidate, hent]

/-- The candidates of the positions of a slot as they stand in memory. -/
def State.rawCands (s : State) (j : SuJob) (i : Nat) (b : BSlot) : List (List (Word × Word) × Bool) :=
  (List.range (b.d + 1)).map fun o => keepOnce (((List.range (j.shards * j.k)).map fun m =>
    candidate s (candAt j i o).1 ((candAt j i o).2 + 8 * m)).filter fun c => decide (c.1 ≠ 0xFFFFFFFF)) []

theorem SlotAnswer_eq (s : State) (t : BTable) (j : SuJob) (i : Nat) (b : BSlot) :
    SlotAnswer s t j i b = slotAnswerOf t j i b (s.ent b.ent) (s.rawCands j i b) := by
  unfold SlotAnswer slotAnswerOf distsOf State.rawCands
  rw [List.map_map]
  rfl

/-- A slot that can be answered: its answer joins the results. -/
theorem State.sampleSlot_ready {s : State} {t : BTable} {j : SuJob} {i : Nat} {b : BSlot} (n : Fin 4) (h : SlotReady s t j i b) :
    SameRead s (s.sampleSlot n t j i)
      ∧ (s.sampleSlot n t j i).rt = { s.rt with results := s.rt.results ++ [SlotAnswer s t j i b] } := by
  unfold SlotReady at h
  rw [candAt_zero] at h
  obtain ⟨hslot, hemit, hres, hcheck, hclean⟩ := h
  have hread : SameRead s (s.atEndpoint (0x104 + n.val) (j.candBase i / 0x2000000)) := .atEndpoint s _ _
  generalize hw : s.atEndpoint (0x104 + n.val) (j.candBase i / 0x2000000) = w at hread
  have hcand : s.candRead n j i b = (s.readBytes (j.candBase i / 0x2000000) (j.candBase i % 0x2000000) ((b.d + 1) * (j.shards * j.k) * 8), [],
      w.rowsRead (j.candBase i / 0x2000000) (j.candBase i % 0x2000000) ((b.d + 1) * (j.shards * j.k) * 8)) := by
    have hbytes : w.readBytes (j.candBase i / 0x2000000) (j.candBase i % 0x2000000) ((b.d + 1) * (j.shards * j.k) * 8)
        = s.readBytes (j.candBase i / 0x2000000) (j.candBase i % 0x2000000) ((b.d + 1) * (j.shards * j.k) * 8) := by
      unfold State.readBytes
      simp only [hread.readByte]
    unfold State.candRead
    rw [hw, State.unitRead_clean, hbytes]
    · rw [hread.map.unitCheck]
      exact hcheck
    · intro x hx
      rw [hread.bytePoisoned]
      exact hclean x hx
  have hraw : ((List.range (b.d + 1)).map fun o => keepOnce (candsOf (((s.readBytes (j.candBase i / 0x2000000) (j.candBase i % 0x2000000)
      ((b.d + 1) * (j.shards * j.k) * 8)).drop (o * (j.shards * j.k) * 8)).take (j.shards * j.k * 8)) (j.shards * j.k)) []) = s.rawCands j i b := by
    refine List.map_congr_left fun o ho => congrArg (keepOnce · []) ?_
    have hle : (o + 1) * (j.shards * j.k) ≤ (b.d + 1) * (j.shards * j.k) := Nat.mul_le_mul_right _ (List.mem_range.mp ho)
    rw [Nat.succ_mul] at hle
    rw [readBytes_slice _ _ _ (by omega), Nat.mul_comm (j.shards * j.k) 8]
    exact candsOf_readBytes s _ _ _
  have hno : ¬(s.rt.results.any (fun r => decide (r.group = t.group ∧ r.slot = j.first + i)) = true) := by
    rw [List.any_eq_true]
    rintro ⟨r, hr, hd⟩
    obtain ⟨hg, hs⟩ := of_decide_eq_true hd
    exact hres r hr hg hs
  have hrun : s.sampleSlot n t j i = (w.rowsRead (j.candBase i / 0x2000000) (j.candBase i % 0x2000000)
      ((b.d + 1) * (j.shards * j.k) * 8)).slotEnds n t j i b (s.ent b.ent) (s.rawCands j i b) := by
    rw [State.sampleSlot_eq, hslot]
    dsimp only
    rw [if_neg (by rw [hemit]; decide), if_neg hno, hcand, hraw]
    exact if_neg Bool.false_ne_true
  obtain ⟨-, hsame, hrt⟩ := (w.rowsRead (j.candBase i / 0x2000000) (j.candBase i % 0x2000000)
    ((b.d + 1) * (j.shards * j.k) * 8)).slotEnds_frame n t j i b (s.ent b.ent) (s.rawCands j i b)
  have hwrt : (w.rowsRead (j.candBase i / 0x2000000) (j.candBase i % 0x2000000) ((b.d + 1) * (j.shards * j.k) * 8)).rt = s.rt := by
    refine Eq.trans (Only.rowsRead w _ _ _ .rt (by decide)) ?_
    rw [← hw]
    exact Only.atEndpoint (ch := [.regs, .drift, .free]) s _ _ (by decide) (by decide) (by decide) .rt (by decide)
  rw [hrun, SlotAnswer_eq]
  exact ⟨(hread.trans (.rowsRead w _ _ _)).trans hsame, hrt.trans (by rw [hwrt])⟩

theorem SlotAnswer_slot (s : State) (t : BTable) (j : SuJob) (i : Nat) (b : BSlot) : (SlotAnswer s t j i b).slot = j.first + i := by
  rw [SlotAnswer_eq]
  unfold slotAnswerOf
  split <;> rfl

/-- The slots of a job that can all be answered: their answers join the results in order. -/
theorem State.sampleSlots_ready {s : State} {t : BTable} {j : SuJob} (n : Fin 4) (slots : Nat → BSlot) (k : Nat)
    (h : ∀ i, i < k → SlotReady s t j i (slots i)) :
    SameRead s ((List.range k).foldl (fun u i => u.sampleSlot n t j i) s)
      ∧ ((List.range k).foldl (fun u i => u.sampleSlot n t j i) s).rt
        = { s.rt with results := s.rt.results ++ (List.range k).map fun i => SlotAnswer s t j i (slots i) } := by
  induction k with
  | zero => exact ⟨.refl s, by simp⟩
  | succ k ih =>
    obtain ⟨hread, hrt⟩ := ih fun i hi => h i (Nat.lt_succ_of_lt hi)
    rw [List.range_succ, List.foldl_append, List.map_append]
    generalize (List.range k).foldl (fun u i => u.sampleSlot n t j i) s = u at hread hrt
    obtain ⟨hslot, hemit, hres, hcheck, hclean⟩ := h k (Nat.lt_succ_self k)
    have hready : SlotReady u t j k (slots k) := by
      refine ⟨hslot, hemit, fun r hr hg => ?_, (hread.map.unitCheck _ _ _ _).trans hcheck, fun x hx => (hread.bytePoisoned _ _).trans (hclean x hx)⟩
      rw [hrt] at hr
      obtain hr | hr := List.mem_append.mp hr
      · exact hres r hr hg
      · obtain ⟨i, hi, rfl⟩ := List.mem_map.mp hr
        rw [SlotAnswer_slot]
        have := List.mem_range.mp hi
        omega
    obtain ⟨hread', hrt'⟩ := State.sampleSlot_ready n hready
    have hent (e : Nat) : u.ent e = s.ent e := by
      unfold State.ent
      rw [hrt]
    refine ⟨hread.trans hread', hrt'.trans ?_⟩
    rw [hrt, SlotAnswer_congr hread hent]
    simp only [List.map_cons, List.map_nil, List.append_assoc]

end Sys2Proof.Machine

/-! The answer of a slot, and of a job (13 R375 to R379). -/

namespace Sys2Proof.Machine

open Sys2Proof

/-! ### The greedy choice (13 R376) -/

theorem take_limit (e : Ent) (c : Word × Word) (r : List (Word × Word)) : ∃ r', (c :: r).take (if e.topkEn then e.topK.toNat + 1 else 256) = c :: r' := by
  split
  · exact ⟨_, rfl⟩
  · exact ⟨_, rfl⟩

/-- One candidate: it is drawn whatever the temperature. -/
theorem prepare_single (c : Word × Word) (temp : Word) (topp : Nat) (x : Nat) (seed key : DWord) : (prepare [c] temp topp).sample x seed key = c.1 := by
  have hcum : (prepare [c] temp topp).cum.length ≤ 1 := List.length_take_le' _ _
  have hpick : pick (prepare [c] temp topp).cum seed key (drawCtr x 1) = 0 := by
    unfold pick
    rw [show (prepare [c] temp topp).cum.length - 1 = 0 by omega]
    rfl
  show [c.1].getD (pick (prepare [c] temp topp).cum seed key (drawCtr x 1)) 0 = c.1
  rw [hpick]
  rfl

/-- The distribution from the sorted candidates, of which so many as top-k allows are kept. -/
theorem Ent.dist_of_sorted {e : Ent} {raw r r' : List (Word × Word)} {c : Word × Word} (hsort : raw.foldl (fun l c => insertCand c l) [] = c :: r)
    (htake : (c :: r).take (if e.topkEn then e.topK.toNat + 1 else 256) = c :: r') : e.dist raw = if c.2 = f32ninf then none
      else if !f32lt 0 (BitVec.ofNat 32 (e.temp.toNat * 65536)) ∨ c.2 = f32inf then some ⟨true, (c :: r').map (·.1), [], []⟩
      else some (prepare (c :: r') (BitVec.ofNat 32 (e.temp.toNat * 65536)) e.topP.toNat) := by
  unfold Ent.dist
  rw [hsort]
  dsimp only
  rw [htake]

theorem Ent.dist_single (e : Ent) {c : Word × Word} (hinf : c.2 ≠ f32ninf) :
    ∃ d, e.dist [c] = some d ∧ ∀ x seed key, d.sample x seed key = c.1 := by
  have htake : [c].take (if e.topkEn then e.topK.toNat + 1 else 256) = [c] := List.take_of_length_le (by split <;> simp)
  rw [Ent.dist_of_sorted (raw := [c]) rfl htake, if_neg hinf]
  split
  · exact ⟨_, rfl, fun _ _ _ => rfl⟩
  · exact ⟨_, rfl, fun x seed key => prepare_single c _ _ x seed key⟩

theorem Ent.dist_cold {e : Ent} {raw r : List (Word × Word)} {c : Word × Word} (hsort : raw.foldl (fun l c => insertCand c l) [] = c :: r)
    (htemp : e.temp = 0) (hinf : c.2 ≠ f32ninf) : ∃ d, e.dist raw = some d ∧ ∀ x seed key, d.sample x seed key = c.1 := by
  obtain ⟨r', hr'⟩ := take_limit e c r
  rw [Ent.dist_of_sorted hsort hr', if_neg hinf, htemp, if_pos (.inl (by decide))]
  exact ⟨_, rfl, fun _ _ _ => rfl⟩

section
variable {s : State} {t : BTable} {j : SuJob} {i : Nat} {b : BSlot}

/-- A slot without drafts: the answer is the token drawn from its one position. -/
theorem SlotAnswer_plain {c : Word} {raw : List (Word × Word) × Bool} {d : Dist} (hdrafts : b.drafts = []) (hraw : s.rawCands j i b = [raw])
    (hd : (s.ent b.ent).dist raw.1 = some d) (hc : ∀ x seed key, d.sample x seed key = c) :
    SlotAnswer s t j i b = ⟨t.group, t.bno, j.first + i, 0, some [c]⟩ := by
  have hdists : distsOf (s.ent b.ent) [raw] = some [d] := by
    unfold distsOf
    rw [List.map_cons, hd]
    rfl
  rw [SlotAnswer_eq, hraw, slotAnswerOf, hdists]
  dsimp only
  rw [hdrafts]
  show SlotResult.mk t.group t.bno (j.first + i) 0 (some [d.sample _ _ _]) = _
  rw [hc]

theorem filter_present {c : Word × Word} (h : c.1 ≠ 0xFFFFFFFF) (l : List (Word × Word)) :
    (c :: l).filter (fun c => decide (c.1 ≠ 0xFFFFFFFF)) = c :: l.filter (fun c => decide (c.1 ≠ 0xFFFFFFFF)) :=
  List.filter_cons_of_pos (decide_eq_true h)

theorem keepOnce_cons {c : Word × Word} {r : List (Word × Word)} {seen : List Word} (hnew : seen.contains c.1 = false) (hnan : f32isNan c.2 = false) :
    keepOnce (c :: r) seen = (c :: (keepOnce r (c.1 :: seen)).1, (keepOnce r (c.1 :: seen)).2) := by
  have h : keepOnce (c :: r) seen = if seen.contains c.1 then ((keepOnce r seen).1, true)
      else (if f32isNan c.2 then (keepOnce r (c.1 :: seen)).1 else c :: (keepOnce r (c.1 :: seen)).1, (keepOnce r (c.1 :: seen)).2) := rfl
  rw [h, hnew, hnan]
  rfl

theorem SlotAnswer_one {c : Word × Word} (hd : b.d = 0) (hdrafts : b.drafts = []) (hshards : j.shards = 1) (hk : j.k = 1)
    (hc : candidate s (candAt j i 0).1 (candAt j i 0).2 = c) (hp : c.1 ≠ 0xFFFFFFFF) (hnan : f32isNan c.2 = false) (hinf : c.2 ≠ f32ninf) :
    SlotAnswer s t j i b = ⟨t.group, t.bno, j.first + i, 0, some [c.1]⟩ := by
  have hraw : s.rawCands j i b = [([c], false)] := by
    have h : s.rawCands j i b = [keepOnce ([candidate s (candAt j i 0).1 ((candAt j i 0).2 + 8 * 0)].filter fun c => decide (c.1 ≠ 0xFFFFFFFF)) []] := by
      unfold State.rawCands
      rw [hd, hshards, hk]
      rfl
    rw [h, Nat.mul_zero, Nat.add_zero, hc, filter_present hp, keepOnce_cons rfl hnan]
    rfl
  obtain ⟨d, hdist, hsample⟩ := (s.ent b.ent).dist_single hinf
  exact SlotAnswer_plain hdrafts hraw hdist hsample

theorem SlotAnswer_two {c0 c1 : Word × Word} (hd : b.d = 0) (hdrafts : b.drafts = []) (hshards : j.shards = 1) (hk : j.k = 2)
    (htemp : (s.ent b.ent).temp = 0) (h0 : candidate s (candAt j i 0).1 (candAt j i 0).2 = c0)
    (h1 : candidate s (candAt j i 0).1 ((candAt j i 0).2 + 8) = c1) (hp0 : c0.1 ≠ 0xFFFFFFFF) (hp1 : c1.1 ≠ 0xFFFFFFFF) (hne : c0.1 ≠ c1.1)
    (hnan0 : f32isNan c0.2 = false) (hnan1 : f32isNan c1.2 = false)
    (hinf : (if f32lt c0.2 c1.2 = true ∨ (f32eq c0.2 c1.2 = true ∧ c1.1.toNat < c0.1.toNat) then c1 else c0).2 ≠ f32ninf) :
    SlotAnswer s t j i b = ⟨t.group, t.bno, j.first + i, 0,
      some [(if f32lt c0.2 c1.2 = true ∨ (f32eq c0.2 c1.2 = true ∧ c1.1.toNat < c0.1.toNat) then c1 else c0).1]⟩ := by
  have hraw : s.rawCands j i b = [([c0, c1], false)] := by
    have h : s.rawCands j i b = [keepOnce ([candidate s (candAt j i 0).1 ((candAt j i 0).2 + 8 * 0),
        candidate s (candAt j i 0).1 ((candAt j i 0).2 + 8 * 1)].filter fun c => decide (c.1 ≠ 0xFFFFFFFF)) []] := by
      unfold State.rawCands
      rw [hd, hshards, hk]
      rfl
    have hnew : [c0.1].contains c1.1 = false := by
      rw [← Bool.not_eq_true, List.contains_iff_mem, List.mem_singleton]
      exact Ne.symm hne
    rw [h, Nat.mul_zero, Nat.add_zero, Nat.mul_one, h0, h1, filter_present hp0, filter_present hp1, keepOnce_cons rfl hnan0, keepOnce_cons hnew hnan1]
    rfl
  have hsort : [c0, c1].foldl (fun l c => insertCand c l) []
      = if f32lt c0.2 c1.2 = true ∨ (f32eq c0.2 c1.2 = true ∧ c1.1.toNat < c0.1.toNat) then [c1, c0] else [c0, c1] := rfl
  split at hsort
  next hwin =>
    rw [if_pos hwin] at hinf ⊢
    obtain ⟨d, hdist, hsample⟩ := Ent.dist_cold hsort htemp hinf
    exact SlotAnswer_plain hdrafts hraw hdist hsample
  next hwin =>
    rw [if_neg hwin] at hinf ⊢
    obtain ⟨d, hdist, hsample⟩ := Ent.dist_cold hsort htemp hinf
    exact SlotAnswer_plain hdrafts hraw hdist hsample

end

/-! ### The oldest job (13 R377) -/

/-- The oldest job of a unit done: its slots sampled, or the job refused where no table is there. -/
def State.jobDone (s : State) (n : Fin 4) (j : SuJob) : State :=
  match s.groupSlot (s.part j.part).group with
  | none => s.setBit (rSuStatus n.val) 9
  | some g =>
    match s.rt.tables.find? fun (t : BTable) => decide (t.n = g) with
    | none => s.setBit (rSuStatus n.val) 9
    | some t => (List.range j.count).foldl (fun u i => u.sampleSlot n.val t j i) s

/-- A job counted, and noted where it ends in the guard band. -/
def State.jobCounted (s : State) (n : Fin 4) : State :=
  let s3 := s.bump (rSuJobs n.val)
  if s3.beat.inGuard then s3.setBit (rSuStatus n.val) 5 else s3

theorem exec_suResult {s : State} {n : Fin 4} {j : SuJob} {r : List SuJob} (hjobs : (s.suOf n.val).jobs = j :: r) (hwork : s.workPeriod = true)
    (hwaits : s.suWaits j = false) : exec (.suResult n) s = .next (((s.setSu n ⟨r⟩).jobDone n j).jobCounted n) := by
  have hno : ¬((!s.workPeriod) = true ∨ s.suWaits j = true) := by
    rw [hwork, hwaits]
    decide
  show execSuResult n s = _
  unfold execSuResult
  rw [hjobs]
  exact if_neg hno

theorem State.jobDone_frame (s : State) (n : Fin 4) (j : SuJob) : Only sampleGroups s (s.jobDone n j) ∧ SamePeriod s (s.jobDone n j) := by
  have hset : Only sampleGroups s (s.setBit (rSuStatus n.val) 9) ∧ SamePeriod s (s.setBit (rSuStatus n.val) 9) :=
    ⟨.setBit _ _ _ (by decide), .of_only (Only.setBit (ch := [.regs]) s _ _ (by decide)) (by decide)⟩
  unfold State.jobDone
  split
  · exact hset
  · split
    · exact hset
    next t ht =>
      exact ⟨Only.foldl _ _ s fun u i => (u.sampleSlot_frame n t j i).1, .foldl _ _ s fun u i => (u.sampleSlot_frame n t j i).2⟩

theorem State.jobCounted_frame (s : State) (n : Fin 4) : Only [.regs] s (s.jobCounted n)
    ∧ (s.beat.inGuard = true → bit ((s.jobCounted n).rd (rSuStatus n.val)) 5 = true)
    ∧ (bit (s.rd (rSuStatus n.val)) 9 = true → bit ((s.jobCounted n).rd (rSuStatus n.val)) 9 = true) := by
  unfold State.jobCounted
  extract_lets s3
  have h3 : Only [.regs] s s3 := .bump _ _ (by decide)
  have hguard : s3.beat.inGuard = s.beat.inGuard := congrArg Beat.inGuard (h3 .beat (by decide))
  have hst : s3.rd (rSuStatus n.val) = s.rd (rSuStatus n.val) := State.rd_bump_ne _ (by unfold rSuStatus rSuJobs; omega)
  refine ⟨.ite (h3.trans (.setBit _ _ _ (by decide))) h3, fun hg => ?_, fun h9 => ?_⟩
  · rw [if_pos (hguard.trans hg)]
    exact bit_rd_setBit _ _ (by decide)
  · split
    · unfold State.setBit State.wrF
      rw [State.rd_wr_same, bit_setFld_other _ _ _ _ (by decide) (by decide), hst]
      exact h9
    · rw [hst]
      exact h9

theorem runs_suResult {s : State} {n : Fin 4} {j : SuJob} {r : List SuJob} (g : Nat) (t : BTable) (slots : Nat → BSlot)
    (hjobs : (s.suOf n.val).jobs = j :: r) (hwork : s.workPeriod = true) (hwaits : s.suWaits j = false) : Runs (.suResult n) s fun u =>
      (u.suOf n.val).jobs = r ∧ (∀ m, m ≠ n → u.suOf m.val = s.suOf m.val) ∧ (∀ a, u.memGet a = s.memGet a)
      ∧ (s.beat.inGuard = true → bit (u.rd (rSuStatus n.val)) 5 = true)
      ∧ (s.groupSlot (s.part j.part).group = none → u.rt = s.rt ∧ bit (u.rd (rSuStatus n.val)) 9 = true)
      ∧ (s.groupSlot (s.part j.part).group = some g → s.rt.tables.find? (fun t => decide (t.n = g)) = some t →
          (∀ i, i < j.count → SlotReady s t j i (slots i)) →
          u.rt.results = s.rt.results ++ (List.range j.count).map fun i => SlotAnswer s t j i (slots i)) := by
  have hexec := exec_suResult hjobs hwork hwaits
  have h1 : Only [.su] s (s.setSu n ⟨r⟩) := Only.su s _ (by decide)
  have hread1 : SameRead s (s.setSu n ⟨r⟩) := .of_only h1 (by decide) (by decide) (by decide) (by decide) (by decide) fun _ _ => rfl
  have hsu1 (m : Fin 4) := s.suOf_setSu n m ⟨r⟩
  have hslot1 : (s.setSu n ⟨r⟩).groupSlot ((s.setSu n ⟨r⟩).part j.part).group = s.groupSlot (s.part j.part).group := rfl
  have hrt1 : (s.setSu n ⟨r⟩).rt = s.rt := rfl
  have hguard1 : (s.setSu n ⟨r⟩).beat = s.beat := rfl
  generalize s.setSu n ⟨r⟩ = s1 at hexec h1 hread1 hsu1 hslot1 hrt1 hguard1
  obtain ⟨honly2, acc, hbeat2⟩ := s1.jobDone_frame n j
  obtain ⟨honly3, hguard3, h9⟩ := (s1.jobDone n j).jobCounted_frame n
  have hsu : ((s1.jobDone n j).jobCounted n).su = s1.su := Eq.trans (honly3 .su (by decide)) (honly2 .su (by decide))
  have hsuOf (m : Nat) : ((s1.jobDone n j).jobCounted n).suOf m = s1.suOf m := by
    unfold State.suOf
    rw [hsu]
  have hrt3 : ((s1.jobDone n j).jobCounted n).rt = (s1.jobDone n j).rt := honly3 .rt (by decide)
  refine .of_eq hexec ⟨?_, fun m hm => ?_, fun a => ?_, fun hg => hguard3 ?_, fun hnone => ?_, fun hsome ht hready => ?_⟩
  · rw [hsuOf, hsu1, if_pos rfl]
  · rw [hsuOf, hsu1, if_neg hm]
  · rw [honly3 .mem (by decide), honly2 .mem (by decide), h1 .mem (by decide)]
  · rw [hbeat2, hguard1]
    exact hg
  · have hdone : s1.jobDone n j = s1.setBit (rSuStatus n.val) 9 := by
      unfold State.jobDone
      rw [hslot1, hnone]
    rw [hrt3]
    rw [hdone] at h9 ⊢
    exact ⟨Eq.trans (Only.setBit (ch := [.regs]) s1 _ _ (by decide) .rt (by decide)) hrt1, h9 (bit_rd_setBit _ _ (by decide))⟩
  · have hdone : s1.jobDone n j = (List.range j.count).foldl (fun u i => u.sampleSlot n.val t j i) s1 := by
      unfold State.jobDone
      rw [hslot1, hsome]
      dsimp only
      rw [hrt1, ht]
    have hent (e : Nat) : s1.ent e = s.ent e := State.ent_of_rt hrt1 e
    obtain ⟨-, hrt⟩ := State.sampleSlots_ready (s := s1) n slots j.count fun i hi => by
      obtain ⟨hslot, hemit, hres, hcheck, hclean⟩ := hready i hi
      refine ⟨hslot, hemit, ?_, (hread1.map.unitCheck _ _ _ _).trans hcheck, fun x hx => (hread1.bytePoisoned _ _).trans (hclean x hx)⟩
      rw [hrt1]
      exact hres
    rw [hrt3, hdone, hrt, hrt1]
    simp only [SlotAnswer_congr hread1 hent]

end Sys2Proof.Machine

/-! The view of a table (14 R392, R393, R395). -/

namespace Sys2Proof.Machine

open Sys2Proof

/-! ### A write and the period -/

theorem SamePeriod.mergeTouch (s : State) (g : Nat) : SamePeriod s (s.mergeTouch g) := by
  unfold State.mergeTouch
  extract_lets t
  have ht : SamePeriod s t := .touch s g false
  split
  · exact ht.trans (.of_only (Only.setEcc (ch := [.ecc]) t _ _ (by decide)) (by decide))
  · exact ht

theorem SamePeriod.writeAt (s : State) (c : Nat) (ws : List (Nat × Byte)) : SamePeriod s (s.writeAt c ws) := by
  have hbeside (t : State) (g : Nat) : SamePeriod t (t.touchBeside g) := by
    unfold State.touchBeside
    split
    · exact .refl t
    · exact .touch t g false
  show SamePeriod s (s.writeMasked _ _)
  unfold State.writeMasked
  extract_lets whole rs partly beside s1 s2
  have h1 : SamePeriod s s1 := (SamePeriod.foldl State.mergeTouch _ s .mergeTouch).trans (.foldl State.touchBeside _ _ hbeside)
  have h2 : Only [.ecc, .poisonPending] s1 s2 := .foldl State.cleanGranule _ _ Only.cleanGranule
  refine (h1.trans (.of_only h2 (by decide))).trans ?_
  exact (SamePeriod.of_only (Only.dropCorr s2 _) (by decide)).trans (.of_only (Only.memPut _ _) (by decide))

theorem State.checkRange_of_unitCheck {s : State} {p c a n : Nat} (h : s.unitCheck p c a n = none) : s.checkRange c a n = none := by
  unfold State.unitCheck at h
  split at h
  next x hx =>
    split at h
    · exact absurd h (Option.some_ne_none _)
    · exact absurd h (Option.some_ne_none _)
  next hx => exact hx

/-! ### Little-endian numbers at the head of a list -/

theorem leAt_head (n v : Nat) (l : List Byte) : leAt (leBytes n v ++ l) 0 n = v % 256 ^ n := by
  unfold leAt
  rw [List.drop_zero, List.take_left' (length_leBytes n v), leNat_leBytes]

theorem leAt_skip (n v o m : Nat) (l : List Byte) : leAt (leBytes n v ++ l) (n + o) m = leAt l o m := by
  rw [leAt_drop, List.drop_left' (length_leBytes n v)]

/-- A number read of bytes that stand at a program address. -/
theorem readLe_of_bytes {t : State} {c a : Nat} {bs : List Byte} (h : ∀ i, i < bs.length → t.readByte c (a + i) = bs.getD i 0) {k n : Nat}
    (hk : k + n ≤ bs.length) : t.readLe c (a + k) n = leAt bs k n := by
  refine congrArg leNat (List.ext_getElem ?_ fun i h1 h2 => ?_)
  · simp only [State.readBytes, List.length_take, List.length_drop, List.length_map, List.length_range]
    omega
  · simp only [State.readBytes, List.length_map, List.length_range] at h1
    simp only [State.readBytes, List.getElem_take, List.getElem_drop, List.getElem_map, List.getElem_range]
    rw [Nat.add_assoc, h (k + i) (by omega), List.getD_eq_getElem _ _ (by omega)]

/-! ### The words of a view (14 R392) -/

/-- What writing a view may touch. -/
def viewGroups : List Grp := .drift :: unitGroups

/-- A state in which so many bytes of a view stand; the period, the map and VIEW_CORE are what they were. -/
structure ViewTo (s u : State) (p c a : Nat) (bs : List Byte) (n : Nat) : Prop where
  only : Only viewGroups s u
  map : SameMap s u
  period : SamePeriod s u
  core : u.rd (rPgPartView p) = s.rd (rPgPartView p)
  bytes : ∀ i, i < bs.length → i < n → u.readByte c (a + i) = bs.getD i 0
  other : ∀ m, (∀ i, i < bs.length → s.xlateG c (a + i) ≠ some m) → u.memGet m = s.memGet m

theorem State.rd_pgPartView_atEndpoint (s : State) (src c p : Nat) :
    (s.atEndpoint src c).rd (rPgPartView p) = s.rd (rPgPartView p) :=
  s.rd_atEndpoint_ne src c (by unfold rPgPartView rDriftRxCount coreBase; omega) (by unfold rPgPartView rDriftTxCount coreBase; omega)
    (by unfold rPgPartView rDriftMaxLat coreBase; omega)

theorem not_foundReg_pgPartView {p : Nat} (hp : p < 16) : ¬ FoundReg (rPgPartView p) := by
  unfold FoundReg rPgPartView
  simp only [evtRegs, List.mem_cons, List.not_mem_nil, or_false, rScEvtHead, rScEvtTail, rScEvtLost, rScStatus]
  omega

/-- One more word of a view. -/
theorem ViewTo.step {s u : State} {p a k : Nat} {bs : List Byte} (hp : p < 16) (h : ViewTo s u p (s.viewCore8 p) a bs (256 * k))
    (hk : 256 * k < bs.length)
    (hcheck : s.unitCheck p (s.viewCore8 p) (a + 256 * k) (min 256 (bs.length - 256 * k)) = none) :
    ViewTo s (u.putView p (a + 256 * k) ((bs.drop (256 * k)).take 256)) p (s.viewCore8 p) a bs (256 * (k + 1)) := by
  obtain ⟨only, map, period, core, bytes, other⟩ := h
  have hlen : ((bs.drop (256 * k)).take 256).length = min 256 (bs.length - 256 * k) := by rw [List.length_take, List.length_drop]
  have hcore : u.viewCore8 p = s.viewCore8 p := congrArg (fld · 0 8) core
  have hread : SameRead u (u.atEndpoint 0x101 (s.viewCore8 p)) := .atEndpoint u _ _
  have hat : Only [.regs, .drift, .free] u (u.atEndpoint 0x101 (s.viewCore8 p)) := Only.atEndpoint _ _ _ (by decide) (by decide) (by decide)
  have hview := u.rd_pgPartView_atEndpoint 0x101 (s.viewCore8 p) p
  have hput : u.putView p (a + 256 * k) ((bs.drop (256 * k)).take 256)
      = (u.atEndpoint 0x101 (s.viewCore8 p)).writeAt (s.viewCore8 p) (spread (a + 256 * k) ((bs.drop (256 * k)).take 256)) := by
    have hchk : u.unitCheck p (s.viewCore8 p) (a + 256 * k) ((bs.drop (256 * k)).take 256).length = none := by
      rw [map.unitCheck, hlen]
      exact hcheck
    have hchk' : (u.atEndpoint 0x101 (s.viewCore8 p)).unitCheck p (s.viewCore8 p) (a + 256 * k) ((bs.drop (256 * k)).take 256).length = none :=
      (hread.map.unitCheck _ _ _ _).trans hchk
    unfold State.putView
    rw [hcore]
    dsimp only
    rw [hchk, State.unitPut_accepted hchk']
    rfl
  rw [hput]
  generalize u.atEndpoint 0x101 (s.viewCore8 p) = w at hread hat hview
  have hwmap : SameMap s w := map.trans hread.map
  have hwrite := Only.writeAt w (s.viewCore8 p) (spread (a + 256 * k) ((bs.drop (256 * k)).take 256))
  have hrange : w.checkRange (s.viewCore8 p) (a + 256 * k) ((bs.drop (256 * k)).take 256).length = none := by
    rw [hwmap.checkRange, hlen]
    exact State.checkRange_of_unitCheck hcheck
  have hin {i : Nat} (hi : i < ((bs.drop (256 * k)).take 256).length) : 256 * k + i < bs.length := by
    rw [hlen] at hi
    omega
  refine ⟨only.trans ((hat.mono (by decide)).trans (hwrite.mono (by decide))), hwmap.trans (.writeAt _ _ _),
    (period.trans (.of_only hat (by decide))).trans (.writeAt _ _ _), ?_, fun i hi hn => ?_, fun m hm => ?_⟩
  · rw [State.rd_writeAt (not_foundReg_pgPartView hp), hview, core]
  · by_cases hold : i < 256 * k
    · have hkeep : (w.writeAt (s.viewCore8 p) (spread (a + 256 * k) ((bs.drop (256 * k)).take 256))).readByte (s.viewCore8 p) (a + i)
          = w.readByte (s.viewCore8 p) (a + i) := by
        unfold State.readByte
        rw [(SameMap.writeAt w _ _).xlateG]
        cases hg : w.xlateG (s.viewCore8 p) (a + i) with
        | none => rfl
        | some g =>
          refine w.memGet_writeAt_spread_other _ _ _ g fun j hj hx => ?_
          have := State.xlateG_injective hg hx
          omega
      rw [hkeep, hread.readByte]
      exact bytes i hi hold
    · obtain ⟨j, rfl⟩ := Nat.exists_eq_add_of_le (Nat.le_of_not_lt hold)
      have hj : j < ((bs.drop (256 * k)).take 256).length := by
        rw [hlen]
        omega
      rw [← Nat.add_assoc, State.readByte_writeAt hrange hj, List.getElem_take, List.getElem_drop, List.getD_eq_getElem _ _ hi]
  · rw [w.memGet_writeAt_spread_other _ _ _ m fun j hj => by
      rw [hwmap.xlateG, Nat.add_assoc]
      exact hm _ (hin hj)]
    exact (hread.mem m).trans (other m hm)

/-- The words of a view, one after the other. -/
theorem viewTo_words {s : State} {p a : Nat} {bs : List Byte} (hp : p < 16) (k : Nat)
    (hk : 256 * k < bs.length + 256)
    (hcheck : ∀ i, i < k → s.unitCheck p (s.viewCore8 p) (a + 256 * i) (min 256 (bs.length - 256 * i)) = none) :
    ViewTo s ((List.range k).foldl (fun t i => t.putView p (a + 256 * i) ((bs.drop (256 * i)).take 256)) s) p (s.viewCore8 p) a bs (256 * k) := by
  induction k with
  | zero => exact ⟨.refl _ _, .refl s, .refl s, rfl, fun i _ h => absurd h (Nat.not_lt_zero i), fun _ _ => rfl⟩
  | succ k ih =>
    rw [List.range_succ, List.foldl_append]
    exact (ih (by omega) fun i hi => hcheck i (Nat.lt_succ_of_lt hi)).step hp (by omega) (hcheck k (Nat.lt_succ_self k))

/-- The head of a view: its beat number, its slots, where its page-table words begin (14 R393). -/
theorem viewBytes_head (s : State) (p : Nat) (w : Wire) (hslots : w.slots.length < 65536) : 12 ≤ (s.viewBytes p w).length
    ∧ leAt (s.viewBytes p w) 0 6 = w.bno.toNat ∧ leAt (s.viewBytes p w) 6 2 = w.slots.length
    ∧ leAt (s.viewBytes p w) 8 4 = 64 + 32 * w.slots.length := by
  obtain ⟨rest, hrest⟩ : ∃ rest, s.viewBytes p w
      = leBytes 6 w.bno.toNat ++ (leBytes 2 w.slots.length ++ (leBytes 4 (64 + 32 * w.slots.length) ++ rest)) := by
    unfold State.viewBytes
    simp only [List.append_assoc]
    exact ⟨_, rfl⟩
  have hbno := w.bno.isLt
  rw [hrest]
  refine ⟨?_, ?_, ?_, ?_⟩
  · simp only [List.length_append, length_leBytes]
    omega
  · rw [leAt_head]
    omega
  · have h := leAt_skip 6 w.bno.toNat 0 2 (leBytes 2 w.slots.length ++ (leBytes 4 (64 + 32 * w.slots.length) ++ rest))
    rw [leAt_head] at h
    rw [h]
    omega
  · have h := leAt_skip 6 w.bno.toNat (2 + 0) 4 (leBytes 2 w.slots.length ++ (leBytes 4 (64 + 32 * w.slots.length) ++ rest))
    rw [leAt_skip 2, leAt_head] at h
    rw [h]
    omega

theorem wireOf_slots (b : List Byte) : (wireOf b).slots.length < 65536 := by
  unfold wireOf
  rw [List.length_map, List.length_range]
  omega

theorem Only.putView (s : State) (p a : Nat) (bs : List Byte) : Only viewGroups s (s.putView p a bs) := by
  unfold State.putView
  extract_lets c s1
  have h1 : Only viewGroups s s1 :=
    (Only.atEndpoint s _ _ (by decide) (by decide) (by decide)).trans ((Only.unitPut _ _ _ _ _ _ _).mono (by decide))
  exact .ite h1 (h1.trans ((Only.refuseLanding _ _ _ _ _ _).mono (by decide)))

theorem Only.unitFlag (s : State) (p flag key unit : Nat) : Only [.flags, .regs, .sc, .beat] s (s.unitFlag p flag key unit) :=
  .ite ((Only.unitMiss s unit p).mono (by decide)) (.flags _ _ (by decide))

theorem le_ceilDiv (n : Nat) : n ≤ 256 * ceilDiv n 256 := by
  unfold ceilDiv
  omega

theorem ceilDiv_lt (n : Nat) : 256 * ceilDiv n 256 < n + 256 := by
  unfold ceilDiv
  omega

/-! ### The view written -/

section
variable {s : State} {part : Fin 16}

/-- The view of the beat's table is to be written now. -/
def ViewDue (s : State) (part : Fin 16) : Prop :=
  s.workPeriod = true ∧ s.pgOn part.val = true ∧ (s.recvOf (s.part part.val).group).last = true ∧ (s.pgOf part.val).table = some s.beat.bno
    ∧ (s.pgOf part.val).view ≠ some s.beat.bno ∧ s.stopped (s.viewCore8 part.val) = false

/-- The bytes of the view. -/
def State.dueBytes (s : State) (part : Fin 16) : List Byte := s.viewBytes part.val (wireOf (s.recvOf (s.part part.val).group).all)

/-- The state with the view noted as written. -/
def State.viewNoted (s : State) (part : Fin 16) : State := s.setPg part.val { s.pgOf part.val with view := some s.beat.bno }

/-- The state with the words of the view written. -/
def State.wordsWritten (s : State) (part : Fin 16) : State :=
  (List.range (ceilDiv (s.dueBytes part).length 256)).foldl (fun t i =>
    t.putView part.val (fld (s.rd (rPgPartViewAddr part.val)) 0 17 * 256 + 256 * i) (((s.dueBytes part).drop (256 * i)).take 256)) (s.viewNoted part)

/-- What writing the view does: it is refused where it is too long, and else its words and its flag are written. -/
def State.viewDone (s : State) (part : Fin 16) : State :=
  if fld (s.rd (rPgPartViewBytes part.val)) 0 17 * 256 < (s.dueBytes part).length then
    ((s.viewNoted part).setBit rPgStatus 4).refuseUnit 6 7 (fld (s.rd rTetherChip) 0 10) part.val
  else (s.wordsWritten part).unitFlag part.val (fld ((s.wordsWritten part).rd (rPgPartView part.val)) 8 13) 258 6

theorem exec_pgViewWrite (h : ViewDue s part) : exec (.pgViewWrite part) s = .next (s.viewDone part) := by
  obtain ⟨h1, h2, h3, h4, h5, h6⟩ := h
  have hdue : s.workPeriod = true ∧ s.pgOn part.val = true ∧ (s.recvOf (s.part part.val).group).last = true
      ∧ (s.pgOf part.val).table = some s.beat.bno ∧ (s.pgOf part.val).view ≠ some s.beat.bno ∧ (!s.stopped (s.viewCore8 part.val)) = true :=
    ⟨h1, h2, h3, h4, h5, by rw [h6]; rfl⟩
  show execPgViewWrite part s = _
  unfold execPgViewWrite State.viewDone
  extract_lets p r q bs s1 a s2
  refine (if_pos hdue).trans ?_
  by_cases hlong : fld (s.rd (rPgPartViewBytes part.val)) 0 17 * 256 < (s.dueBytes part).length
  · exact (if_pos hlong).trans (congrArg Host.Outcome.next (if_pos hlong)).symm
  · exact (if_neg hlong).trans (congrArg Host.Outcome.next (if_neg hlong)).symm

theorem State.viewNoted_frame (s : State) (part : Fin 16) : Only [.pg] s (s.viewNoted part)
    ∧ ((s.viewNoted part).pgOf part.val).view = some s.beat.bno ∧ ∀ q, q ≠ part.val → (s.viewNoted part).pgOf q = s.pgOf q := by
  unfold State.viewNoted
  refine ⟨.setPg _ _ _ (by decide), ?_, fun q hq => ?_⟩
  · rw [State.pgOf_setPg, if_pos rfl]
  · rw [State.pgOf_setPg, if_neg hq]

theorem State.rd_refuseUnit_pgStatus (s : State) (unit cause chip part : Nat) : (s.refuseUnit unit cause chip part).rd rPgStatus = s.rd rPgStatus := by
  unfold State.refuseUnit State.refuseLanding
  extract_lets s1 s2
  have h1 : s1.rd rPgStatus = s.rd rPgStatus := by
    dsimp only [s1]
    split
    · rfl
    · exact State.rd_wr_ne _ _ (by decide)
  have h2 : s2.rd rPgStatus = s1.rd rPgStatus := by
    dsimp only [s2]
    split
    · exact State.rd_setBit_ne _ _ (by decide)
    · rfl
  rw [State.rd_failBeat_other, State.rd_event_ne _ _ _ _ _ _ _ (by decide), State.rd_bump_ne _ (by decide), h2, h1]

theorem runs_pgViewWrite (h : ViewDue s part) :
    let w := wireOf (s.recvOf (s.part part.val).group).all
    let bs := s.viewBytes part.val w
    let c := s.viewCore8 part.val
    let a := fld (s.rd (rPgPartViewAddr part.val)) 0 17 * 256
    Runs (.pgViewWrite part) s fun t => (t.pgOf part.val).view = some s.beat.bno
      ∧ (∀ q, q ≠ part.val → t.pgOf q = s.pgOf q)
      ∧ (fld (s.rd (rPgPartViewBytes part.val)) 0 17 * 256 < bs.length →
          bit (t.rd rPgStatus) 4 = true ∧ t.beat.acc.fail = true ∧ (∀ g, t.memGet g = s.memGet g))
      ∧ (bs.length ≤ fld (s.rd (rPgPartViewBytes part.val)) 0 17 * 256 → s.beat.inGuard = false →
          (∀ i, i < ceilDiv bs.length 256 → s.unitCheck part.val c (a + 256 * i) (min 256 (bs.length - 256 * i)) = none) →
          (∀ i, i < bs.length → t.readByte c (a + i) = bs.getD i 0)
            ∧ t.readLe c a 6 = w.bno.toNat ∧ t.readLe c (a + 6) 2 = w.slots.length
            ∧ t.readLe c (a + 8) 4 = 64 + 32 * w.slots.length
            ∧ (∀ m, (∀ i, i < bs.length → s.xlateG c (a + i) ≠ some m) → t.memGet m = s.memGet m)
            ∧ t.flags.ops = s.flags.ops ++ [⟨(s.part part.val).fbase + fld (s.rd (rPgPartView part.val)) 8 13, .set,
                BitVec.ofNat 32 s.beat.bno.toNat, 258, 0, 0⟩]) := by
  intro w bs c a
  have hexec := exec_pgViewWrite h
  obtain ⟨hnoted, hview, hothers⟩ := s.viewNoted_frame part
  unfold State.viewDone State.wordsWritten at hexec
  rw [show s.dueBytes part = bs from rfl] at hexec
  generalize s.viewNoted part = s1 at hexec hnoted hview hothers
  by_cases hlong : fld (s.rd (rPgPartViewBytes part.val)) 0 17 * 256 < bs.length
  · rw [if_pos hlong] at hexec
    have ho : Only [.regs, .sc, .beat] s1 ((s1.setBit rPgStatus 4).refuseUnit 6 7 (fld (s.rd rTetherChip) 0 10) part.val) :=
      (Only.setBit s1 _ _ (by decide)).trans (.refuseLanding _ _ _ _ _ _)
    have hpg (q : Nat) := State.pgOf_of_pg (ho .pg (by decide)) q
    refine .of_eq hexec ⟨by rw [hpg, hview], fun q hq => by rw [hpg, hothers q hq], fun _ => ⟨?_, rfl, fun g => ?_⟩,
      fun hle => absurd hlong (Nat.not_lt.mpr hle)⟩
    · rw [State.rd_refuseUnit_pgStatus]
      exact bit_rd_setBit s1 _ (by decide)
    · rw [ho .mem (by decide), hnoted .mem (by decide)]
  · rw [if_neg hlong] at hexec
    have hmap : SameMap s s1 := .of_regs hnoted (by decide) (by decide) (by decide)
    have hcore : s1.viewCore8 part.val = c := congrArg (fld · 0 8) (hnoted .regs (by decide) (rPgPartView part.val))
    have hwritten : Only viewGroups s1 ((List.range (ceilDiv bs.length 256)).foldl (fun t i =>
        t.putView part.val (a + 256 * i) ((bs.drop (256 * i)).take 256)) s1) := Only.foldl _ _ s1 fun t i => Only.putView t _ _ _
    have hwords := viewTo_words (s := s1) (a := a) (bs := bs) part.isLt (ceilDiv bs.length 256) (ceilDiv_lt bs.length)
    rw [hcore] at hwords
    generalize (List.range (ceilDiv bs.length 256)).foldl (fun t i => t.putView part.val (a + 256 * i) ((bs.drop (256 * i)).take 256)) s1 = x
      at hexec hwritten hwords
    have hflag := Only.unitFlag x part.val (fld (x.rd (rPgPartView part.val)) 8 13) 258 6
    have hpg (q : Nat) := State.pgOf_of_pg (Eq.trans (hflag .pg (by decide)) (hwritten .pg (by decide))) q
    refine .of_eq hexec ⟨by rw [hpg, hview], fun q hq => by rw [hpg, hothers q hq], fun hlt => absurd hlt hlong, fun _ hguard hchecks => ?_⟩
    obtain ⟨-, hxmap, ⟨acc, hperiod⟩, hxcore, hbytes, hother⟩ := hwords fun i hi => (hmap.unitCheck _ _ _ _).trans (hchecks i hi)
    have hbeat : s1.beat = s.beat := hnoted .beat (by decide)
    have hguardx : x.beat.inGuard = false := by
      rw [hperiod, hbeat]
      exact hguard
    have hpost : x.unitFlag part.val (fld (x.rd (rPgPartView part.val)) 8 13) 258 6
        = x.postFlag ⟨(x.part part.val).fbase + fld (x.rd (rPgPartView part.val)) 8 13, .set, BitVec.ofNat 32 x.beat.bno.toNat, 258, 0, 0⟩ :=
      if_neg (ne_true_of_eq_false hguardx)
    have hbno : x.beat.bno = s.beat.bno := by rw [hperiod, hbeat]
    have hpart : x.part part.val = s.part part.val := (hxmap.parts _).trans (hmap.parts _)
    have hviewReg : x.rd (rPgPartView part.val) = s.rd (rPgPartView part.val) := hxcore.trans (hnoted .regs (by decide) _)
    rw [hpost, hpart, hviewReg, hbno]
    obtain ⟨h12, hw1, hw2, hw3⟩ := viewBytes_head s part.val w (wireOf_slots _)
    have hstand : ∀ i, i < bs.length → (x.postFlag ⟨(s.part part.val).fbase + fld (s.rd (rPgPartView part.val)) 8 13, .set,
        BitVec.ofNat 32 s.beat.bno.toNat, 258, 0, 0⟩).readByte c (a + i) = bs.getD i 0 := fun i hi =>
      (SameMap.readByte (.of_regs (Only.flags (ch := [.flags]) x _ (by decide)) (by decide) (by decide) (by decide)) (fun _ => rfl) c _).trans
        (hbytes i hi (Nat.lt_of_lt_of_le hi (le_ceilDiv bs.length)))
    have hflags : x.flags = s.flags := Eq.trans (hwritten .flags (by decide)) (hnoted .flags (by decide))
    have hr0 := readLe_of_bytes (k := 0) (n := 6) hstand (Nat.le_trans (by decide) h12)
    have hr6 := readLe_of_bytes (k := 6) (n := 2) hstand (Nat.le_trans (by decide) h12)
    have hr8 := readLe_of_bytes (k := 8) (n := 4) hstand h12
    rw [Nat.add_zero] at hr0
    refine ⟨hstand, hr0.trans hw1, hr6.trans hw2, hr8.trans hw3, fun m hm => ?_, ?_⟩
    · have hm1 := hother m fun i hi => by
        rw [hmap.xlateG]
        exact hm i hi
      exact hm1.trans (hnoted .mem (by decide) m)
    · show x.flags.ops ++ [_] = _
      rw [hflags]

end

/-- Settles O50: what a job of a sampling unit and the writing of a view do is what `runs_suResult` and `runs_pgViewWrite` say; the greedy
choice is that of the sorted candidates. -/
theorem unitsAnswer : Obligations.UnitsAnswer := by
  intro s n j r part g t slots b
  refine ⟨fun hjobs hwork hwaits => runs_suResult g t slots hjobs hwork hwaits, fun hd hdrafts hshards => ?_,
    fun h1 h2 h3 h4 h5 h6 => runs_pgViewWrite ⟨h1, h2, h3, h4, h5, h6⟩⟩
  intro c0 c1 win
  exact ⟨fun hk hp hnan hinf => SlotAnswer_one hd hdrafts hshards hk rfl hp hnan hinf,
    fun hk htemp hp0 hp1 hne hnan0 hnan1 hinf => SlotAnswer_two hd hdrafts hshards hk htemp rfl rfl hp0 hp1 hne hnan0 hnan1 hinf⟩

end Sys2Proof.Machine

/-! ### A core that stands twice in the list of cores: an issue of another core changes it (06 R175; 03 R101) -/

namespace Sys2Proof.Machine

open Sys2Proof

/-- A core with a command outstanding, a fence of its DM whose end is a matter of time alone. -/
def busyCore : Core := { Core.reset with issued := [⟨0, .dm, 0, none, .timed, .seFenceAll, none⟩] }

/-- A command without marks, at the head of a queue. -/
def lone (cmd : ECmd) : QEntry := ⟨0, 0, cmd, none, none, false⟩

/-- A device in a work beat whose core 0, of a running partition, has a command alone in the queue of an engine; core 1 stands twice in the
list of cores, as it was after reset and, behind that entry, where no read of the core finds it, with a command outstanding. -/
def twiceListed (eng : Engine) (cmd : ECmd) : State :=
  { State.reset with
    regs := [(rSlcReloc 0 0, 0xFFF0000)]
    beat := { State.reset.beat with joined := true, kind := 1 }
    parts := [(0, { Part.reset with st := .running, w := 1, h := 1, bound := some 0 })]
    cores := [(0, Core.reset.setQueue eng [lone cmd]), (1, Core.reset), (1, busyCore)] }

/-- The command may issue, and with its issue the entry of core 1 that no read found takes the place of the first one. -/
def HiddenComesForth (eng : Engine) (cmd : ECmd) : Prop :=
  ((twiceListed eng cmd).core 0).queue eng = [lone cmd] ∧ (twiceListed eng cmd).mayIssue 0 eng (lone cmd) = true
    ∧ ((twiceListed eng cmd).core 1).issued = [] ∧ (((twiceListed eng cmd).issueHead 0 eng).core 1).issued ≠ []

/-- So a statement that the issue leaves every other core alone fails there. -/
theorem HiddenComesForth.not_issued1 {eng : Engine} {cmd : ECmd} (h : HiddenComesForth eng cmd) {e : QEntry} {r : List QEntry}
    {f : Finish} {P : State → Prop} :
    ¬ Runs (.engineIssue 0 eng) (twiceListed eng cmd) fun t => Issued1 0 eng e r f (twiceListed eng cmd) t ∧ P t := by
  rintro ⟨t, hexec, ⟨-, -, hothers⟩, -⟩
  obtain ⟨-, -, hbefore, hafter⟩ := h
  obtain rfl : (twiceListed eng cmd).issueHead 0 eng = t := Host.Outcome.next.inj hexec
  rw [hothers 1 (by decide)] at hafter
  exact hafter hbefore

theorem HiddenComesForth.issueReady {eng : Engine} {cmd : ECmd} (h : HiddenComesForth eng cmd) :
    IssueReady (twiceListed eng cmd) 0 eng (lone cmd) [] := by
  obtain ⟨hqueue, hmay, -, -⟩ := h
  exact ⟨hqueue, hmay⟩

theorem hiddenComesForth_seFenceAll : HiddenComesForth .se .seFenceAll :=
  ⟨by decide +kernel, by decide +kernel, by decide +kernel, by decide +kernel⟩

theorem hiddenComesForth_vxBcast : HiddenComesForth .ve (.vxBcast 0 0) :=
  ⟨by decide +kernel, by decide +kernel, by decide +kernel, by decide +kernel⟩

theorem hiddenComesForth_dmZero : HiddenComesForth .dm (.dmZero 0 256) :=
  ⟨by decide +kernel, by decide +kernel, by decide +kernel, by decide +kernel⟩

/-- Refutes O12: where core 1 stands twice in the list of cores (`twiceListed`), a `dm.zero` of core 0 that passes its checks changes what
a read of core 1 finds, since the issue walks the list of cores and keeps with each command newly outstanding what it may have to give
back; the statement has every other core stand, and asks for no canonical form of the list. -/
theorem not_dmIssueMovesBytes : ¬ Obligations.DmIssueMovesBytes := by
  unfold Obligations.DmIssueMovesBytes
  intro h
  have hissue := hiddenComesForth_dmZero
  obtain ⟨hzero, -⟩ := h (twiceListed .dm (.dmZero 0 256)) 0 (lone (.dmZero 0 256)) [] 0 0 256 0 0 0 false hissue.issueReady
  exact hissue.not_issued1 (hzero rfl (by decide) (by decide) (by decide) (by decide +kernel))

/-- Refutes O13: as O12, with a `vx.bcast` of core 0. -/
theorem not_veIssueFillsRegister : ¬ Obligations.VeIssueFillsRegister := by
  unfold Obligations.VeIssueFillsRegister
  rintro ⟨-, h⟩
  have hissue := hiddenComesForth_vxBcast
  obtain ⟨hbcast, -⟩ := h (twiceListed .ve (.vxBcast 0 0)) 0 (lone (.vxBcast 0 0)) [] 0 0 0 0 0 0 0 0 0 0 .none .none .none false
    ⟨0, false, 0, .imm 0, .none, .none, .none, .none, .none, .none, .none⟩ ⟨0, 0, []⟩
    ⟨.sum, false, false, false, 0, .none, .imm 0, .none, none, none⟩ ⟨.sum, false, false, false, .none, .none, .imm 0, .none⟩
    0 0 0 hissue.issueReady
  exact hissue.not_issued1 (hbcast rfl)

/-- Refutes O14: as O12, with a fence of core 0. -/
theorem not_engineIssueStarts : ¬ Obligations.EngineIssueStarts := by
  unfold Obligations.EngineIssueStarts
  intro h
  have hissue := hiddenComesForth_seFenceAll
  obtain ⟨hse, -⟩ := h (twiceListed .se .seFenceAll) 0 (lone .seFenceAll) [] ⟨false, false, false, false, false⟩ 0 0 0 0
    0 0 0 0 0 0 0 0 ⟨0, .fp32, 0, 0, 0, 0, none⟩ ⟨.fp32, .fp32, none, false, false, 0, 0, 0, 0, 0, .imm 0, 0, none⟩
    ⟨.fp32, .fp32, none, false, 0, 0, 0, 0, 0, 0, 0, 0, 0, none, none⟩ 0 false none
  obtain ⟨hfence, -⟩ := hse hissue.issueReady
  exact hissue.not_issued1 (hfence (.inr (.inl rfl)))

end Sys2Proof.Machine
